-- ==== Sys2Proof/Word.lean ====
section
/-! DEFINITION. The word types of the device (spec/00_scope.md R3). -/

namespace Sys2Proof

/-- One byte of memory. -/
abbrev Byte := BitVec 8
/-- A halfword: a 16-bit instruction, or half of a 32-bit one (R36). -/
abbrev Half := BitVec 16
/-- A g, s or special register of 32 bits (R17, R22). -/
abbrev Word := BitVec 32
/-- A 64-bit value: a register pair, a virtual address, a program counter (R3, R10). -/
abbrev Dword := BitVec 64
/-- The number of a g register, g0 to g127 (R42). -/
abbrev Reg := BitVec 7
/-- The number of an s register, s0 to s63 (R42). -/
abbrev SReg := BitVec 6
/-- The number of a predicate, p0 to p7 (R17). -/
abbrev PReg := BitVec 3

end Sys2Proof
end

