-- ==== Sys2Proof/Machine/Sparse.lean ====
section
/-! DEFINITION. Sparse data by key: a list of pairs in one canonical form, keys strictly rising, no pair that says what an unlisted key
reads as. Registers, memory, scratchpads and the other stores of State are of this form, so that equal contents are equal data. -/

namespace Sys2Proof.Machine

/-- What a list holds for a key, if it holds anything. -/
def look {α : Type} : List (Nat × α) → Nat → Option α
  | [], _ => none
  | (k, v) :: rest, x => if k = x then some v else look rest x

/-- The list with a key's pair put in its place. -/
def insertAt {α : Type} : List (Nat × α) → Nat → α → List (Nat × α)
  | [], x, v => [(x, v)]
  | (k, w) :: rest, x, v =>
    if x < k then (x, v) :: (k, w) :: rest
    else if x = k then (x, v) :: rest
    else (k, w) :: insertAt rest x v

/-- The list without a key's pair. -/
def eraseAt {α : Type} : List (Nat × α) → Nat → List (Nat × α)
  | [], _ => []
  | (k, w) :: rest, x => if k = x then rest else (k, w) :: eraseAt rest x

/-- The value of a key, an unlisted one reading `d`. -/
def getD {α : Type} (m : List (Nat × α)) (d : α) (x : Nat) : α :=
  match look m x with
  | some v => v
  | none => d

/-- The list with a key's value set, an unlisted key reading `d`. -/
def setD {α : Type} [DecidableEq α] (m : List (Nat × α)) (d : α) (x : Nat) (v : α) : List (Nat × α) :=
  if v = d then eraseAt m x else insertAt m x v

/-- Several keys set, the first named last. -/
def setMany {α : Type} [DecidableEq α] (m : List (Nat × α)) (d : α) : List (Nat × α) → List (Nat × α)
  | [] => m
  | (x, v) :: rest => setD (setMany m d rest) d x v

/-- Keys strictly rising, the first above a bound. -/
def risingFrom {α : Type} : Nat → List (Nat × α) → Bool
  | _, [] => true
  | n, (k, _) :: rest => decide (n ≤ k) && risingFrom (k + 1) rest

/-- The canonical form: keys strictly rising, and no pair that an unlisted key would read as. -/
def canonical {α : Type} [DecidableEq α] (d : α) (m : List (Nat × α)) : Bool :=
  risingFrom 0 m && m.all (fun p => decide (p.2 ≠ d))

/-- The bits 0 to `n - 1` that satisfy a test, as a mask. -/
def maskOf (n : Nat) (f : Nat → Bool) : Nat :=
  match n with
  | 0 => 0
  | k + 1 => maskOf k f + (if f k then 2 ^ k else 0)

/-- The place of the first element that satisfies a test. -/
def indexOf {α : Type} (f : α → Bool) : List α → Option Nat
  | [] => none
  | x :: rest => if f x then some 0 else (indexOf f rest).map (· + 1)

/-- A list without its first element that satisfies a test. -/
def dropFirst {α : Type} (p : α → Bool) : List α → List α
  | [] => []
  | x :: rest => if p x then rest else x :: dropFirst p rest

/-- The list with the element at one place changed; a place outside the list changes nothing. -/
def modifyNth {α : Type} (f : α → α) : List α → Nat → List α
  | [], _ => []
  | x :: rest, 0 => f x :: rest
  | x :: rest, n + 1 => x :: modifyNth f rest n

end Sys2Proof.Machine
end

