-- ==== Sys2Proof/Machine/Num.lean ====
section
/-! DEFINITION. Exact values and their rounding (spec/04_number_formats.md R64 to R75, R80 to R82). A finite value is a sign, a
magnitude and a power of two, so every sum and product below is exact and is rounded once. -/

namespace Sys2Proof.Machine

/-- The four rounding modes (R71). -/
inductive RMode where
  | rne | rtz | rdn | rup
  deriving DecidableEq, Repr

/-- The mode of a two-bit field (R23). -/
def RMode.ofBits (b : BitVec 2) : RMode :=
  match b.toNat with
  | 0 => .rne
  | 1 => .rtz
  | 2 => .rdn
  | _ => .rup

/-- A floating-point value: a NaN (signalling or quiet), a signed infinity, or (−1)^neg × m × 2^e (R64). -/
inductive Val where
  | nan (signalling : Bool)
  | inf (neg : Bool)
  | num (neg : Bool) (m : Nat) (e : Int)
  deriving DecidableEq, Repr

/-- The flag bits of $fflags (R23). -/
def fNV : Word := 16#32
def fDZ : Word := 8#32
def fOF : Word := 4#32
def fUF : Word := 2#32
def fNX : Word := 1#32

/-- `m × 2^k`, the fraction dropped. -/
def shiftInt (m : Nat) (k : Int) : Nat := if 0 ≤ k then m * 2 ^ k.toNat else m / 2 ^ (-k).toNat

/-- What a rounding needs to know of its destination (R72). `emin` is the exponent of the smallest normal; `maxM × 2^maxE` is the largest
finite value; a destination `unsigned` has no negative value. -/
structure Dest where
  prec : Nat
  emin : Int
  maxM : Nat
  maxE : Int
  hasInf : Bool
  negZero : Bool
  deriving DecidableEq, Repr

/-- An IEEE 754 interchange format: trailing bits, exponent bits (R64). -/
structure Ieee where
  t : Nat
  w : Nat
  deriving DecidableEq, Repr

def ieee32 : Ieee := ⟨23, 8⟩
def ieee16 : Ieee := ⟨10, 5⟩
def ieeeB16 : Ieee := ⟨7, 8⟩

def Ieee.bias (f : Ieee) : Nat := 2 ^ (f.w - 1) - 1
/-- The exponent of the smallest normal. -/
def Ieee.emin (f : Ieee) : Int := 1 - (f.bias : Int)

/-- The value of a code (R64). -/
def Ieee.decode (f : Ieee) (c : Nat) : Val :=
  let t := c % 2 ^ f.t
  let e := c / 2 ^ f.t % 2 ^ f.w
  let neg := c / 2 ^ (f.t + f.w) % 2 = 1
  if e = 0 then .num neg t (1 - (f.bias : Int) - f.t)
  else if e = 2 ^ f.w - 1 then (if t = 0 then .inf neg else .nan (t / 2 ^ (f.t - 1) = 0))
  else .num neg (2 ^ f.t + t) ((e : Int) - f.bias - f.t)

/-- The code of a value that the format represents; a NaN is the canonical one (R66). -/
def Ieee.encode (f : Ieee) : Val → Nat
  | .nan _ => (2 ^ f.w - 1) * 2 ^ f.t + 2 ^ (f.t - 1)
  | .inf neg => neg.toNat * 2 ^ (f.t + f.w) + (2 ^ f.w - 1) * 2 ^ f.t
  | .num neg m e =>
    let sgn := neg.toNat * 2 ^ (f.t + f.w)
    if m = 0 then sgn
    else
      let l : Int := (Nat.log2 m : Int) + e
      if l < f.emin then sgn + shiftInt m (e - (f.emin - f.t))
      else sgn + (l + f.bias).toNat * 2 ^ f.t + (shiftInt m (e - (l - f.t)) - 2 ^ f.t)

/-- The destination an IEEE format is. -/
def Ieee.dest (f : Ieee) : Dest :=
  { prec := f.t + 1, emin := f.emin, maxM := 2 ^ (f.t + 1) - 1, maxE := (f.bias : Int) - f.t, hasInf := true, negZero := true }

/-- A format of the binary8 family: N − 1, unsigned, infinities (R67, R68). -/
structure Bin8 where
  nm1 : Nat
  uns : Bool
  inf : Bool
  deriving DecidableEq, Repr

def Bin8.bias (f : Bin8) : Int := if f.uns then 2 ^ (7 - f.nm1) else 2 ^ (6 - f.nm1)

/-- The value of a finite code (R69). -/
def Bin8.finite (f : Bin8) (c : Nat) : Val :=
  let t := c % 2 ^ f.nm1
  let e := if f.uns then c / 2 ^ f.nm1 else c % 128 / 2 ^ f.nm1
  let neg := !f.uns && decide (128 ≤ c)
  if e = 0 then .num neg t (1 - f.bias - f.nm1)
  else .num neg (2 ^ f.nm1 + t) ((e : Int) - f.bias - f.nm1)

/-- The value of a code (R69). -/
def Bin8.decode (f : Bin8) (b : Byte) : Val :=
  let c := b.toNat
  if f.uns then
    if c = 0xFF then .nan false
    else if f.inf && c == 0xFE then .inf false
    else f.finite c
  else
    if c = 0x80 then .nan false
    else if f.inf && c == 0x7F then .inf false
    else if f.inf && c == 0xFF then .inf true
    else f.finite c

/-- The code of the largest finite value (R67, R68, R70). -/
def Bin8.maxCode (f : Bin8) : Nat :=
  if f.uns then (if f.inf then 0xFD else 0xFE) else (if f.inf then 0x7E else 0x7F)

/-- The destination a binary8 format is (R70, R72). -/
def Bin8.dest (f : Bin8) : Dest :=
  match f.finite f.maxCode with
  | .num _ m e => { prec := f.nm1 + 1, emin := 1 - f.bias, maxM := m, maxE := e, hasInf := f.inf, negZero := false }
  | _ => { prec := f.nm1 + 1, emin := 1 - f.bias, maxM := 0, maxE := 0, hasInf := f.inf, negZero := false }

/-- The code of a value that the format represents (R67, R68). -/
def Bin8.encode (f : Bin8) : Val → Byte
  | .nan _ => if f.uns then 0xFF#8 else 0x80#8
  | .inf neg => if f.uns then 0xFE#8 else if neg then 0xFF#8 else 0x7F#8
  | .num neg m e =>
    if m = 0 then 0#8
    else
      let sgn := if neg && !f.uns then 128 else 0
      let emin : Int := 1 - f.bias
      let l : Int := (Nat.log2 m : Int) + e
      if l < emin then BitVec.ofNat 8 (sgn + shiftInt m (e - (emin - f.nm1)))
      else BitVec.ofNat 8 (sgn + (l + f.bias).toNat * 2 ^ f.nm1 + (shiftInt m (e - (l - f.nm1)) - 2 ^ f.nm1))

/-- Whether a magnitude halfway or above is rounded up (R71): the kept part `q`, the dropped part `r` of `d`. -/
def roundsUp (mode : RMode) (neg : Bool) (q r d : Nat) : Bool :=
  match mode with
  | .rne => decide (d < 2 * r) || (decide (2 * r = d) && q % 2 == 1)
  | .rtz => false
  | .rdn => neg && decide (r ≠ 0)
  | .rup => !neg && decide (r ≠ 0)

/-- `m × 2^e` rounded to multiples of `2^k` (R71): the multiple, and whether it differs. -/
def roundMul (mode : RMode) (neg : Bool) (m : Nat) (e k : Int) : Nat × Bool :=
  if k ≤ e then (m * 2 ^ (e - k).toNat, false)
  else
    let d := 2 ^ (k - e).toNat
    let q := m / d
    let r := m % d
    (if roundsUp mode neg q r d then q + 1 else q, decide (r ≠ 0))

/-- `a × 2^i < b × 2^j`. -/
def magLt (a : Nat) (i : Int) (b : Nat) (j : Int) : Bool :=
  if i ≤ j then decide (a < b * 2 ^ (j - i).toNat) else decide (a * 2 ^ (i - j).toNat < b)

/-- Whether IEEE 754 gives infinity on overflow (R72). -/
def overflowsToInf (mode : RMode) (neg : Bool) : Bool :=
  match mode with
  | .rne => true
  | .rtz => false
  | .rdn => neg
  | .rup => !neg

/-- An exact value rounded into a destination, with its flags (R72, R73). A signalling NaN's NV is the operation's. -/
def roundTo (d : Dest) (mode : RMode) (sat : Bool) : Val → Val × Word
  | .nan _ => (.nan false, 0)
  | .inf neg =>
    if sat then (.num neg d.maxM d.maxE, 0)
    else if d.hasInf then (.inf neg, 0)
    else (.nan false, fNV)
  | .num neg m e =>
    if m = 0 then (.num (neg && d.negZero) 0 0, 0)
    else
      let k : Int := max ((Nat.log2 m : Int) + e - d.prec + 1) (d.emin - d.prec + 1)
      let (q, inexact) := roundMul mode neg m e k
      if magLt d.maxM d.maxE q k then
        let v : Val :=
          if sat then .num neg d.maxM d.maxE
          else if overflowsToInf mode neg then (if d.hasInf then .inf neg else .nan false)
          else .num neg d.maxM d.maxE
        (v, fOF ||| fNX)
      else
        let flags : Word :=
          if inexact then (if magLt q k 1 d.emin then fUF ||| fNX else fNX) else 0
        (.num (neg && (decide (q ≠ 0) || d.negZero)) q k, flags)

/-- A value rounded to an IEEE format (R72). -/
def roundIeee (f : Ieee) (mode : RMode) (v : Val) : Nat × Word :=
  let (r, fl) := roundTo f.dest mode false v
  (f.encode r, fl)

/-- The f32 word of a value rounded in a mode. -/
def round32m (mode : RMode) (v : Val) : Word × Word :=
  let (c, fl) := roundIeee ieee32 mode v
  (BitVec.ofNat 32 c, fl)

/-- The f32 value of a word. -/
def f32 (w : Word) : Val := ieee32.decode w.toNat
/-- The canonical NaN of f32 (R66). -/
def nan32 : Word := 0x7FC00000#32

/-- Whether a value is a NaN, a signalling NaN. -/
def Val.isNan : Val → Bool
  | .nan _ => true
  | _ => false
def Val.isSig : Val → Bool
  | .nan s => s
  | _ => false
/-- The sign of a value that is no NaN. -/
def Val.neg : Val → Bool
  | .nan _ => false
  | .inf n => n
  | .num n _ _ => n
def Val.isZero : Val → Bool
  | .num _ m _ => m == 0
  | _ => false
/-- The value with its sign changed. -/
def Val.negate : Val → Val
  | .nan s => .nan s
  | .inf n => .inf (!n)
  | .num n m e => .num (!n) m e

/-- `m × 2^e` as an integer count of `2^k`, for `k ≤ e`. -/
def signedAt (neg : Bool) (m : Nat) (e k : Int) : Int :=
  let x : Int := m * 2 ^ (e - k).toNat
  if neg then -x else x

/-- The exact sum of two finite values as an integer count of a power of two. -/
def addFinite (n1 : Bool) (m1 : Nat) (e1 : Int) (n2 : Bool) (m2 : Nat) (e2 : Int) : Int × Int :=
  let k := min e1 e2
  (signedAt n1 m1 e1 k + signedAt n2 m2 e2 k, k)

/-- A value from an integer count of a power of two; the sign of a zero is given. -/
def ofCount (zeroNeg : Bool) (x k : Int) : Val :=
  if x = 0 then .num zeroNeg 0 k else .num (decide (x < 0)) x.natAbs k

/-- The exact product, and whether it is invalid, ∞ × 0 (R76). A NaN operand gives a quiet NaN. -/
def mulV (a b : Val) : Val × Bool :=
  match a, b with
  | .nan _, _ => (.nan false, false)
  | _, .nan _ => (.nan false, false)
  | .inf n, .inf n' => (.inf (n != n'), false)
  | .inf n, .num n' m _ => if m = 0 then (.nan false, true) else (.inf (n != n'), false)
  | .num n m _, .inf n' => if m = 0 then (.nan false, true) else (.inf (n != n'), false)
  | .num n m e, .num n' m' e' => (.num (n != n') (m * m') (e + e'), false)

/-- The exact sum of two values under IEEE 754, and whether it is invalid, ∞ − ∞ (R76, R105). -/
def addV (mode : RMode) (a b : Val) : Val × Bool :=
  match a, b with
  | .nan _, _ => (.nan false, false)
  | _, .nan _ => (.nan false, false)
  | .inf n, .inf n' => if n = n' then (.inf n, false) else (.nan false, true)
  | .inf n, .num _ _ _ => (.inf n, false)
  | .num _ _ _, .inf n => (.inf n, false)
  | .num n m e, .num n' m' e' =>
    let zneg := if m = 0 ∧ m' = 0 ∧ n = n' then n else mode == .rdn
    let (x, k) := addFinite n m e n' m' e'
    (ofCount zneg x k, false)

/-- Whether some operand is a signalling NaN. -/
def anySig (vs : List Val) : Bool := vs.any Val.isSig

/-- The flag word of an invalid operation. -/
def nvIf (b : Bool) : Word := if b then fNV else 0

/-- An f32 sum (R105). -/
def fadd32 (mode : RMode) (a b : Val) : Word × Word :=
  let (v, bad) := addV mode a b
  let (w, fl) := round32m mode v
  (w, fl ||| nvIf (bad || anySig [a, b]))

/-- An f32 product (R105). -/
def fmul32 (mode : RMode) (a b : Val) : Word × Word :=
  let (v, bad) := mulV a b
  let (w, fl) := round32m mode v
  (w, fl ||| nvIf (bad || anySig [a, b]))

/-- `d + a × b` with one rounding into a format (R105, R109). -/
def fmaF (f : Ieee) (mode : RMode) (d a b : Val) : Nat × Word :=
  let (p, bad1) := mulV a b
  let (v, bad2) := addV mode d p
  let (w, fl) := roundIeee f mode v
  (w, fl ||| nvIf (bad1 || bad2 || anySig [a, b, d]))

/-- The total order by value, −0 below +0; meaningless on NaNs (R106, R126). -/
def Val.lt (a b : Val) : Bool :=
  match a, b with
  | .nan _, _ => false
  | _, .nan _ => false
  | .inf n, .inf n' => n && !n'
  | .inf n, .num _ _ _ => n
  | .num _ _ _, .inf n => !n
  | .num n m e, .num n' m' e' =>
    if m = 0 ∧ m' = 0 then n && !n'
    else decide ((addFinite n m e (!n') m' e').1 < 0)

/-- Equality by value, −0 equal to +0 (R107). -/
def Val.eqv (a b : Val) : Bool :=
  match a, b with
  | .nan _, _ => false
  | _, .nan _ => false
  | .inf n, .inf n' => n == n'
  | .inf _, .num _ _ _ => false
  | .num _ _ _, .inf _ => false
  | .num n m e, .num n' m' e' => decide ((addFinite n m e (!n') m' e').1 = 0)

/-- Less, −0 equal to +0 (R107). -/
def Val.ltv (a b : Val) : Bool := !a.isNan && !b.isNan && !a.eqv b && a.lt b

/-- The exact sum of a list of finite values as a count of a power of two. -/
def sumFinite : List Val → Int × Int
  | [] => (0, 0)
  | .num n m e :: rest =>
    let (x, k) := sumFinite rest
    let k' := min e k
    (signedAt n m e k' + x * 2 ^ (k - k').toNat, k')
  | _ :: rest => sumFinite rest

/-- The sum of one group, special values decided before any magnitude (R82); the flag is NV's condition of R116: a term that was
∞ × 0, or infinities of both signs. -/
def groupSum (terms : List (Val × Bool)) : Val × Bool :=
  let vs := terms.map (·.1)
  let bad := terms.any (·.2)
  let pos := vs.any (fun v => v == .inf false)
  let neg := vs.any (fun v => v == .inf true)
  let nan := vs.any Val.isNan
  if nan || bad || (pos && neg) then (.nan false, bad || (pos && neg))
  else if pos then (.inf false, false)
  else if neg then (.inf true, false)
  else
    let (x, k) := sumFinite vs
    (ofCount (!vs.isEmpty && vs.all Val.neg) x k, false)

/-- The exact integer nearest to `m × 2^e` in a mode, its sign kept apart, and whether it differs (R74). -/
def roundInt (mode : RMode) (neg : Bool) (m : Nat) (e : Int) : Int × Bool :=
  let (q, ix) := roundMul mode neg m e 0
  (if neg then -(q : Int) else q, ix)

/-- The integer square root by bits, from bit `n - 1` down, above a part already found. -/
def isqrtFrom : Nat → Nat → Nat → Nat
  | 0, _, acc => acc
  | n + 1, x, acc => let c := acc + 2 ^ n; isqrtFrom n x (if c * c ≤ x then c else acc)

/-- The integer square root of a number below 2^128. -/
def isqrt (x : Nat) : Nat := isqrtFrom 64 x 0

/-- The quotient of two finite non-zero values to 40 bits and a sticky bit, so that one rounding of it is the rounding of the exact
quotient. -/
def divSticky (neg : Bool) (m : Nat) (e : Int) (m' : Nat) (e' : Int) : Val :=
  let s := 40 + Nat.log2 m'
  let n := m * 2 ^ s
  .num neg (2 * (n / m') + (if n % m' = 0 then 0 else 1)) (e - e' - s - 1)

/-- The square root of a positive value to 30 bits or more and a sticky bit. -/
def sqrtSticky (m : Nat) (e : Int) : Val :=
  let e1 : Int := if (e - 60) % 2 = 0 then e - 60 else e - 61
  let n := m * 2 ^ (e - e1).toNat
  let r := isqrt n
  .num false (2 * r + (if r * r = n then 0 else 1)) (e1 / 2 - 1)

end Sys2Proof.Machine
end

