-- ==== Sys2Proof/Syntax.lean ====
section
/-! DEFINITION. The instructions and device steps of the Enzar device: one constructor per row of the spec's table of operations and events.
Registers are kept as their full numbers; what an encoding may hold is in WellFormed. The last operand `t` of an encoded
instruction is its tack bit (spec/02_encoding_and_assembly.md R38). The rows with an encoding come first, then the steps without one. -/

namespace Sys2Proof

/-- Why a word is no instruction (spec/03_opcode_map.md R57). All of these raise ILLOP. -/
inductive Reject where
  | reservedMajor        -- R52: MAJ 0x37 to 0x3F
  | reservedSelector     -- R53: a selector value the table does not list
  | mustBeZero           -- R55: a field that must be zero is not
  | illegalCombination   -- R56
  | oddRegister          -- R18: an odd register where a pair is needed, or a quad not a multiple of 4
  | truncated            -- fewer bytes than the instruction has
  deriving DecidableEq, Repr

/-- The instructions and steps (the spec's table of operations and events). -/
inductive Instr where
  /-- R87: g[D] := low 32 bits of g[A] + g[B]. -/
  | add (d : Reg) (a : Reg) (b : Reg) (t : Bool)
  /-- R87: g[D] := low 32 bits of g[A] - g[B]. -/
  | sub (d : Reg) (a : Reg) (b : Reg) (t : Bool)
  /-- R87: g[D] := g[A] AND g[B]. -/
  | and (d : Reg) (a : Reg) (b : Reg) (t : Bool)
  /-- R87: g[D] := g[A] OR g[B]. -/
  | or (d : Reg) (a : Reg) (b : Reg) (t : Bool)
  /-- R87: g[D] := g[A] XOR g[B]. -/
  | xor (d : Reg) (a : Reg) (b : Reg) (t : Bool)
  /-- R87: g[D] := g[A] AND NOT g[B]. -/
  | andn (d : Reg) (a : Reg) (b : Reg) (t : Bool)
  /-- R87: Adds g[A], g[B] and p6, writing the sum to g[D] and the carry out to p6. -/
  | addc (d : Reg) (a : Reg) (b : Reg) (t : Bool)
  /-- R87: Subtracts g[B] and p6 from g[A], writing the difference to g[D] and the borrow to p6. -/
  | subb (d : Reg) (a : Reg) (b : Reg) (t : Bool)
  /-- R88: g[D] := low 32 bits of g[A] x g[B]. -/
  | mul (d : Reg) (a : Reg) (b : Reg) (t : Bool)
  /-- R88: g[D] := high word of the signed product. -/
  | mulhs (d : Reg) (a : Reg) (b : Reg) (t : Bool)
  /-- R88: g[D] := high word of the unsigned product. -/
  | mulhu (d : Reg) (a : Reg) (b : Reg) (t : Bool)
  /-- R88: g[D] := high word of the product of signed g[A] and unsigned g[B]. -/
  | mulhsu (d : Reg) (a : Reg) (b : Reg) (t : Bool)
  /-- R88: g[D] := the signed minimum. -/
  | mins (d : Reg) (a : Reg) (b : Reg) (t : Bool)
  /-- R88: g[D] := the signed maximum. -/
  | maxs (d : Reg) (a : Reg) (b : Reg) (t : Bool)
  /-- R88: g[D] := the unsigned minimum. -/
  | minu (d : Reg) (a : Reg) (b : Reg) (t : Bool)
  /-- R88: g[D] := the unsigned maximum. -/
  | maxu (d : Reg) (a : Reg) (b : Reg) (t : Bool)
  /-- R89: Shifts g[A] left by bits 4:0 of g[B]. -/
  | shl (d : Reg) (a : Reg) (b : Reg) (t : Bool)
  /-- R89: Shifts g[A] right logically by bits 4:0 of g[B]. -/
  | shr (d : Reg) (a : Reg) (b : Reg) (t : Bool)
  /-- R89: Shifts g[A] right arithmetically by bits 4:0 of g[B]. -/
  | sar (d : Reg) (a : Reg) (b : Reg) (t : Bool)
  /-- R89: Rotates g[A] left. -/
  | rol (d : Reg) (a : Reg) (b : Reg) (t : Bool)
  /-- R89: Rotates g[A] right. -/
  | ror (d : Reg) (a : Reg) (b : Reg) (t : Bool)
  /-- R89: Funnel-shifts g[D]:g[A] left and writes the high word to g[D]. -/
  | fshl (d : Reg) (a : Reg) (b : Reg) (t : Bool)
  /-- R89: Funnel-shifts g[D]:g[A] right and writes the low word to g[D]. -/
  | fshr (d : Reg) (a : Reg) (b : Reg) (t : Bool)
  /-- R91: Extracts the unsigned bit field of g[A] that g[B] describes. -/
  | bfxn (d : Reg) (a : Reg) (b : Reg) (t : Bool)
  /-- R91: Extracts the sign-extended bit field of g[A] that g[B] describes. -/
  | bfxs (d : Reg) (a : Reg) (b : Reg) (t : Bool)
  /-- R91: Inserts the low bits of g[A] into g[D] at the field that g[B] describes. -/
  | bfi (d : Reg) (a : Reg) (b : Reg) (t : Bool)
  /-- R91: g[D] := the mask of the field that g[B] describes. -/
  | bmsk (d : Reg) (b : Reg) (t : Bool)
  /-- R91: Counts the leading zero bits of g[A]. -/
  | clz (d : Reg) (a : Reg) (t : Bool)
  /-- R91: Counts the trailing zero bits of g[A]. -/
  | ctz (d : Reg) (a : Reg) (t : Bool)
  /-- R91: Counts the one bits of g[A]. -/
  | popc (d : Reg) (a : Reg) (t : Bool)
  /-- R91: Reverses the bits of g[A]. -/
  | brev (d : Reg) (a : Reg) (t : Bool)
  /-- R92: Signed division truncated toward zero, with DZ and OV conditions and an optional ARITH trap. -/
  | divs (d : Reg) (a : Reg) (b : Reg) (t : Bool)
  /-- R92: Unsigned division, with the DZ condition. -/
  | divn (d : Reg) (a : Reg) (b : Reg) (t : Bool)
  /-- R92: Signed remainder, with the DZ and OV conditions. -/
  | rems (d : Reg) (a : Reg) (b : Reg) (t : Bool)
  /-- R92: Unsigned remainder, with the DZ condition. -/
  | remn (d : Reg) (a : Reg) (b : Reg) (t : Bool)
  /-- R93: g[D] += g[A] x g[B], low word. -/
  | mad (d : Reg) (a : Reg) (b : Reg) (t : Bool)
  /-- R93: g[D] += high word of the signed product. -/
  | madhs (d : Reg) (a : Reg) (b : Reg) (t : Bool)
  /-- R93: g[D] += high word of the unsigned product. -/
  | madhn (d : Reg) (a : Reg) (b : Reg) (t : Bool)
  /-- R93: Pair D += signed 64-bit product. -/
  | mad64s (d : Reg) (a : Reg) (b : Reg) (t : Bool)
  /-- R93: Pair D += unsigned 64-bit product. -/
  | mad64n (d : Reg) (a : Reg) (b : Reg) (t : Bool)
  /-- R93: g[D] += the absolute difference of g[A] and g[B]. -/
  | sad (d : Reg) (a : Reg) (b : Reg) (t : Bool)
  /-- R94: Predicate := g[A] = g[B]. -/
  | icmpEq (p : BitVec 3) (a : Reg) (b : Reg) (t : Bool)
  /-- R94: Predicate := g[A] differs from g[B]. -/
  | icmpNe (p : BitVec 3) (a : Reg) (b : Reg) (t : Bool)
  /-- R94: Predicate := signed g[A] < g[B]. -/
  | icmpLt (p : BitVec 3) (a : Reg) (b : Reg) (t : Bool)
  /-- R94: Predicate := signed g[A] <= g[B]. -/
  | icmpLe (p : BitVec 3) (a : Reg) (b : Reg) (t : Bool)
  /-- R94: Predicate := unsigned g[A] < g[B]. -/
  | icmpLtn (p : BitVec 3) (a : Reg) (b : Reg) (t : Bool)
  /-- R94: Predicate := unsigned g[A] <= g[B]. -/
  | icmpLen (p : BitVec 3) (a : Reg) (b : Reg) (t : Bool)
  /-- R94: Predicate := (g[A] AND g[B]) is not 0. -/
  | icmpTst (p : BitVec 3) (a : Reg) (b : Reg) (t : Bool)
  /-- R95: g[D] := g[A] + the sign-extended IMM10. -/
  | addi (d : Reg) (a : Reg) (i : BitVec 10) (t : Bool)
  /-- R95: g[D] := g[A] AND the sign-extended IMM10. -/
  | andi (d : Reg) (a : Reg) (i : BitVec 10) (t : Bool)
  /-- R95: g[D] := g[A] OR the sign-extended IMM10. -/
  | ori (d : Reg) (a : Reg) (i : BitVec 10) (t : Bool)
  /-- R95: g[D] := g[A] XOR the sign-extended IMM10. -/
  | xori (d : Reg) (a : Reg) (i : BitVec 10) (t : Bool)
  /-- R96: Shifts g[A] left by the immediate amount. -/
  | shfiShl (d : Reg) (a : Reg) (n : BitVec 5) (t : Bool)
  /-- R96: Shifts g[A] right logically by the immediate amount. -/
  | shfiShr (d : Reg) (a : Reg) (n : BitVec 5) (t : Bool)
  /-- R96: Shifts g[A] right arithmetically by the immediate amount. -/
  | shfiSar (d : Reg) (a : Reg) (n : BitVec 5) (t : Bool)
  /-- R96: Rotates g[A] left by the immediate amount. -/
  | shfiRol (d : Reg) (a : Reg) (n : BitVec 5) (t : Bool)
  /-- R96: Rotates g[A] right by the immediate amount. -/
  | shfiRor (d : Reg) (a : Reg) (n : BitVec 5) (t : Bool)
  /-- R97: Predicate := g[A] equals the immediate. -/
  | icmpiEq (p : BitVec 3) (a : Reg) (i : BitVec 10) (t : Bool)
  /-- R97: Predicate := g[A] differs from the immediate. -/
  | icmpiNe (p : BitVec 3) (a : Reg) (i : BitVec 10) (t : Bool)
  /-- R97: Predicate := signed g[A] < immediate. -/
  | icmpiLt (p : BitVec 3) (a : Reg) (i : BitVec 10) (t : Bool)
  /-- R97: Predicate := signed g[A] <= immediate. -/
  | icmpiLe (p : BitVec 3) (a : Reg) (i : BitVec 10) (t : Bool)
  /-- R97: Predicate := signed g[A] > immediate. -/
  | icmpiGt (p : BitVec 3) (a : Reg) (i : BitVec 10) (t : Bool)
  /-- R97: Predicate := signed g[A] >= immediate. -/
  | icmpiGe (p : BitVec 3) (a : Reg) (i : BitVec 10) (t : Bool)
  /-- R97: Predicate := unsigned g[A] < immediate. -/
  | icmpiLtn (p : BitVec 3) (a : Reg) (i : BitVec 10) (t : Bool)
  /-- R97: Predicate := unsigned g[A] <= immediate. -/
  | icmpiLen (p : BitVec 3) (a : Reg) (i : BitVec 10) (t : Bool)
  /-- R97: Predicate := unsigned g[A] > immediate. -/
  | icmpiGtn (p : BitVec 3) (a : Reg) (i : BitVec 10) (t : Bool)
  /-- R97: Predicate := unsigned g[A] >= immediate. -/
  | icmpiGen (p : BitVec 3) (a : Reg) (i : BitVec 10) (t : Bool)
  /-- R98: g[D] := the sign-extended 17-bit immediate. -/
  | li (d : Reg) (i : BitVec 17) (t : Bool)
  /-- R98: Replaces bits 31:17 of g[D] with the immediate. -/
  | lih (d : Reg) (i : BitVec 15) (t : Bool)
  /-- R100: Predicate AND. -/
  | pand (p : BitVec 3) (a : BitVec 3) (b : BitVec 3) (t : Bool)
  /-- R100: Predicate OR. -/
  | por (p : BitVec 3) (a : BitVec 3) (b : BitVec 3) (t : Bool)
  /-- R100: Predicate XOR. -/
  | pxor (p : BitVec 3) (a : BitVec 3) (b : BitVec 3) (t : Bool)
  /-- R100: Predicate NOT. -/
  | pnot (p : BitVec 3) (a : BitVec 3) (t : Bool)
  /-- R100: g[D] := 1 if the predicate is set, else 0. -/
  | p2g (d : Reg) (a : BitVec 3) (t : Bool)
  /-- R100: Predicate := g[A] is not 0. -/
  | g2p (p : BitVec 3) (a : Reg) (t : Bool)
  /-- R101: g[D] := g[A] if p[F] is set, else g[B]. -/
  | sel (d : Reg) (a : Reg) (b : Reg) (f : BitVec 3) (t : Bool)
  /-- R105: Binary32 add, rounded in the $frnd mode. -/
  | fadd (d : Reg) (a : Reg) (b : Reg) (t : Bool)
  /-- R105: Binary32 subtract. -/
  | fsub (d : Reg) (a : Reg) (b : Reg) (t : Bool)
  /-- R105: Binary32 multiply. -/
  | fmul (d : Reg) (a : Reg) (b : Reg) (t : Bool)
  /-- R106: Binary32 minimum with the NaN and signed-zero rules of R106. -/
  | fmin (d : Reg) (a : Reg) (b : Reg) (t : Bool)
  /-- R106: Binary32 maximum with the NaN and signed-zero rules of R106. -/
  | fmax (d : Reg) (a : Reg) (b : Reg) (t : Bool)
  /-- R105: g[D] := round(g[D] + g[A] x g[B]) with one rounding. -/
  | ffma (d : Reg) (a : Reg) (b : Reg) (t : Bool)
  /-- R105: g[D] := round(g[D] - g[A] x g[B]) with one rounding. -/
  | ffms (d : Reg) (a : Reg) (b : Reg) (t : Bool)
  /-- R105: Copies the sign of g[B] onto the magnitude of g[A]. -/
  | fcps (d : Reg) (a : Reg) (b : Reg) (t : Bool)
  /-- R107: Predicate := ordered and equal. -/
  | fcmpEq (p : BitVec 3) (a : Reg) (b : Reg) (t : Bool)
  /-- R107: Predicate := unordered or not equal. -/
  | fcmpNe (p : BitVec 3) (a : Reg) (b : Reg) (t : Bool)
  /-- R107: Predicate := ordered and less. -/
  | fcmpLt (p : BitVec 3) (a : Reg) (b : Reg) (t : Bool)
  /-- R107: Predicate := ordered and less or equal. -/
  | fcmpLe (p : BitVec 3) (a : Reg) (b : Reg) (t : Bool)
  /-- R107: Predicate := unordered. -/
  | fcmpUn (p : BitVec 3) (a : Reg) (b : Reg) (t : Bool)
  /-- R107: Predicate := ordered. -/
  | fcmpOr (p : BitVec 3) (a : Reg) (b : Reg) (t : Bool)
  /-- R109: Packed f16 add of two elements. -/
  | hadd2 (d : Reg) (a : Reg) (b : Reg) (t : Bool)
  /-- R109: Packed f16 multiply. -/
  | hmul2 (d : Reg) (a : Reg) (b : Reg) (t : Bool)
  /-- R109: Packed f16 fused multiply-add. -/
  | hfma2 (d : Reg) (a : Reg) (b : Reg) (t : Bool)
  /-- R109: Packed bf16 add. -/
  | badd2 (d : Reg) (a : Reg) (b : Reg) (t : Bool)
  /-- R109: Packed bf16 multiply. -/
  | bmul2 (d : Reg) (a : Reg) (b : Reg) (t : Bool)
  /-- R109: Packed bf16 fused multiply-add. -/
  | bfma2 (d : Reg) (a : Reg) (b : Reg) (t : Bool)
  /-- R109: Two-term f16 dot product accumulated into f32 with one rounding. -/
  | dot2h (d : Reg) (a : Reg) (b : Reg) (t : Bool)
  /-- R109: Two-term bf16 dot product accumulated into f32 with one rounding. -/
  | dot2b (d : Reg) (a : Reg) (b : Reg) (t : Bool)
  /-- R110: Correctly rounded reciprocal. -/
  | rcp (d : Reg) (a : Reg) (t : Bool)
  /-- R110: Correctly rounded reciprocal square root. -/
  | rsq (d : Reg) (a : Reg) (t : Bool)
  /-- R110: Correctly rounded square root. -/
  | sqrt (d : Reg) (a : Reg) (t : Bool)
  /-- R110: Base-2 exponential within the error bound. -/
  | exp2 (d : Reg) (a : Reg) (t : Bool)
  /-- R110: Base-2 logarithm within the error bound. -/
  | log2 (d : Reg) (a : Reg) (t : Bool)
  /-- R110: Sine in radians within the error bound. -/
  | sin (d : Reg) (a : Reg) (t : Bool)
  /-- R110: Cosine in radians within the error bound. -/
  | cos (d : Reg) (a : Reg) (t : Bool)
  /-- R110: Hyperbolic tangent within the error bound. -/
  | tanh (d : Reg) (a : Reg) (t : Bool)
  /-- R112: Correctly rounded binary32 division. -/
  | fdiv (d : Reg) (a : Reg) (b : Reg) (t : Bool)
  /-- R113: Converts between integer and wide float types in the word's rounding mode. -/
  | cvt (d : Reg) (a : Reg) (r : BitVec 2) (y : BitVec 4) (x : BitVec 4) (t : Bool)
  /-- R114: Converts f32 to a binary8 code, with optional saturation and the word's rounding mode. -/
  | cvt8ToByte (d : Reg) (a : Reg) (r : BitVec 2) (sat : Bool) (i : Bool) (u : Bool) (n : BitVec 3) (t : Bool)
  /-- R114: Decodes a binary8 code to f32 exactly. -/
  | cvt8FromByte (d : Reg) (a : Reg) (i : Bool) (u : Bool) (n : BitVec 3) (t : Bool)
  /-- R115: Signed four-byte dot product accumulated into g[D]. -/
  | dot4s (d : Reg) (a : Reg) (b : Reg) (t : Bool)
  /-- R115: Unsigned four-byte dot product accumulated into g[D]. -/
  | dot4n (d : Reg) (a : Reg) (b : Reg) (t : Bool)
  /-- R115: Binary8 four-term dot product in the $f8fmt format, accumulated into f32 with one rounding. -/
  | dot4f (d : Reg) (a : Reg) (b : Reg) (t : Bool)
  /-- R121: Each member reads the A operand of lane K. -/
  | shflIdx (d : Reg) (a : Reg) (m : BitVec 3) (k : BitVec 5) (t : Bool)
  /-- R121: Each member reads the A operand of lane l - K. -/
  | shflUp (d : Reg) (a : Reg) (m : BitVec 3) (k : BitVec 5) (t : Bool)
  /-- R121: Each member reads the A operand of lane l + K. -/
  | shflDn (d : Reg) (a : Reg) (m : BitVec 3) (k : BitVec 5) (t : Bool)
  /-- R121: Each member reads the A operand of lane l XOR K. -/
  | shflXor (d : Reg) (a : Reg) (m : BitVec 3) (k : BitVec 5) (t : Bool)
  /-- R122: Each member reads the A operand of the lane that its register g[K] names. -/
  | shflr (d : Reg) (a : Reg) (m : BitVec 3) (k : BitVec 5) (t : Bool)
  /-- R123: Predicate := every member's predicate is set. -/
  | voteAll (p : BitVec 3) (a : BitVec 3) (m : BitVec 3) (t : Bool)
  /-- R123: Predicate := some member's predicate is set. -/
  | voteAny (p : BitVec 3) (a : BitVec 3) (m : BitVec 3) (t : Bool)
  /-- R123: Predicate := all members' predicates are equal. -/
  | voteSame (p : BitVec 3) (a : BitVec 3) (m : BitVec 3) (t : Bool)
  /-- R123: g[D] := the mask of members whose predicate is set. -/
  | voteBallot (d : Reg) (a : BitVec 3) (m : BitVec 3) (t : Bool)
  /-- R124: Reduction or scan by addition over the members. -/
  | foldAdd (d : Reg) (a : Reg) (y : BitVec 2) (m : BitVec 3) (k : BitVec 2) (t : Bool)
  /-- R124: Reduction or scan by signed or f32 minimum. -/
  | foldMin (d : Reg) (a : Reg) (y : BitVec 2) (m : BitVec 3) (k : BitVec 2) (t : Bool)
  /-- R124: Reduction or scan by signed or f32 maximum. -/
  | foldMax (d : Reg) (a : Reg) (y : BitVec 2) (m : BitVec 3) (k : BitVec 2) (t : Bool)
  /-- R124: Reduction or scan by unsigned minimum. -/
  | foldMinn (d : Reg) (a : Reg) (y : BitVec 2) (m : BitVec 3) (k : BitVec 2) (t : Bool)
  /-- R124: Reduction or scan by unsigned maximum. -/
  | foldMaxn (d : Reg) (a : Reg) (y : BitVec 2) (m : BitVec 3) (k : BitVec 2) (t : Bool)
  /-- R124: Reduction or scan by AND. -/
  | foldAnd (d : Reg) (a : Reg) (y : BitVec 2) (m : BitVec 3) (k : BitVec 2) (t : Bool)
  /-- R124: Reduction or scan by OR. -/
  | foldOr (d : Reg) (a : Reg) (y : BitVec 2) (m : BitVec 3) (k : BitVec 2) (t : Bool)
  /-- R124: Reduction or scan by XOR. -/
  | foldXor (d : Reg) (a : Reg) (y : BitVec 2) (m : BitVec 3) (k : BitVec 2) (t : Bool)
  /-- R126: Gives each member of rank below k the rank-ordered value and its source lane. -/
  | topk (d : Reg) (a : Reg) (y : BitVec 2) (m : BitVec 3) (k : BitVec 5) (t : Bool)
  /-- R127: g[D] := the mask of members with an A operand equal to the lane's own. -/
  | lsetEq (d : Reg) (a : Reg) (m : BitVec 3) (t : Bool)
  /-- R127: Predicate := every member's A operand is equal. -/
  | lsetAlleq (p : BitVec 3) (a : Reg) (m : BitVec 3) (t : Bool)
  /-- R127: Predicate is set in the lowest member lane only. -/
  | lsetFirst (p : BitVec 3) (m : BitVec 3) (t : Bool)
  /-- R127: g[D] := the mask of members. -/
  | lsetLive (d : Reg) (m : BitVec 3) (t : Bool)
  /-- R128: Per-lane conditional PC-relative branch. -/
  | bra (d : BitVec 20) (p : BitVec 3) (n : Bool) (t : Bool)
  /-- R129: Per-lane conditional PC-relative call that writes g127. -/
  | call (d : BitVec 20) (p : BitVec 3) (n : Bool) (t : Bool)
  /-- R130: Jumps to the address held in a g pair. -/
  | brx (a : Reg) (t : Bool)
  /-- R130: Writes g127 and jumps to the address held in a g pair. -/
  | callx (a : Reg) (t : Bool)
  /-- R130: Returns to g127 within the RET's own 4 GiB region. -/
  | ret (t : Bool)
  /-- R131: Ends the lane; it leaves its seams and counts as exited at cross-lane waits and barriers. -/
  | exit (t : Bool)
  /-- R133: Starts a zero-overhead loop level with a count from a register or an immediate, or skips the body. -/
  | loop (n : BitVec 10) (c : Reg) (i : Bool) (l : BitVec 2) (t : Bool)
  /-- R138: Enrols the lane in a seam. -/
  | seamEnrol (j : BitVec 3) (t : Bool)
  /-- R138: An enrolled lane waits at the seam until every enrolled lane waits. -/
  | seamWait (j : BitVec 3) (t : Bool)
  /-- R138: Removes the lane from the seam and runs the release check. -/
  | seamLeave (j : BitVec 3) (t : Bool)
  /-- R138: g[D] := the seam's enrolled mask. -/
  | seamSmask (d : Reg) (j : BitVec 3) (t : Bool)
  /-- R209: Rendezvous of the level group that opens a try region with a catch target. -/
  | tryOpen (d : BitVec 20) (l : BitVec 3) (t : Bool)
  /-- R209: Rendezvous that closes and pops the innermost try region. -/
  | endtry (t : Bool)
  /-- R210: Throws class USER with the code held in g[A]. -/
  | throwG (a : Reg) (t : Bool)
  /-- R210: Throws class USER with an immediate 7-bit code. -/
  | throwi (c : BitVec 7) (t : Bool)
  /-- R210: Rethrows the current exception record to the next enclosing region. -/
  | rethrow (t : Bool)
  /-- R215: Enters a user trap of class TRAP with a 7-bit code. -/
  | trap (c : BitVec 7) (t : Bool)
  /-- R216: Leaves the handler state, resumes the loop levels and returns to $uepc. -/
  | uret (t : Bool)
  /-- R216: After a SILENT trap, re-executes the wave and its lining wave from the last lining checkpoint. -/
  | uretry (t : Bool)
  /-- R217: Halts the launch for debug when the record enables it; otherwise acts as NOP. -/
  | brk (t : Bool)
  /-- R225: Reads a special register into g[D] or a g pair. -/
  | srd (d : Reg) (r : BitVec 10) (t : Bool)
  /-- R225: Writes a special register from g[A] or a g pair. -/
  | swr (a : Reg) (r : BitVec 10) (t : Bool)
  /-- R226: Does nothing. -/
  | nop (t : Bool)
  /-- R226: Lets the wave be swapped with a ready pending wave. -/
  | yield (t : Bool)
  /-- R226: The thread is not ready for g[A] core cycles. -/
  | sleep (a : Reg) (t : Bool)
  /-- R226: Pair D := the core's 64-bit cycle count. -/
  | clock (d : Reg) (t : Bool)
  /-- R226: Pair D := the 1588 time in ns. -/
  | ptime (d : Reg) (t : Bool)
  /-- R411: Writes one mark record per active lane to the panel's sample ring. -/
  | pmark (a : Reg) (t : Bool)
  /-- R226: Flushes the Tailor stage's rewrite window. -/
  | tflush (t : Bool)
  /-- R156: Loads 8 to 64 bits from a global VA through the core's view or the aperture. -/
  | ld (d : Reg) (h : Bool) (x : Bool) (z : BitVec 2) (g : Reg) (sb : BitVec 6) (t : Bool)
  /-- R156: Stores 8 to 64 bits to a global VA into the core's view or the aperture. -/
  | st (d : Reg) (h : Bool) (z : BitVec 2) (g : Reg) (sb : BitVec 6) (t : Bool)
  /-- R156: Loads from the scratchpad or the gang window. -/
  | lds (d : Reg) (h : Bool) (x : Bool) (z : BitVec 2) (g : Reg) (sb : BitVec 6) (t : Bool)
  /-- R156: Stores to the scratchpad or the gang window. -/
  | sts (d : Reg) (h : Bool) (z : BitVec 2) (g : Reg) (sb : BitVec 6) (t : Bool)
  /-- R31: Loads from a constant bank, reading zero beyond the bank's size. -/
  | ldc (d : Reg) (h : Bool) (x : Bool) (z : BitVec 2) (g : Reg) (sb : BitVec 6) (t : Bool)
  /-- R160: Ordered load performed at its scope's home. -/
  | ldo (d : Reg) (a : Reg) (z : Bool) (e : BitVec 2) (c : BitVec 3) (t : Bool)
  /-- R160: Ordered store performed at its scope's home. -/
  | sto (d : Reg) (a : Reg) (z : Bool) (e : BitVec 2) (c : BitVec 3) (t : Bool)
  /-- R160: Atomic exchange. -/
  | swap (d : Reg) (a : Reg) (z : Bool) (e : BitVec 2) (c : BitVec 3) (t : Bool)
  /-- R160: Atomic compare-and-swap. -/
  | cas (d : Reg) (a : Reg) (z : Bool) (e : BitVec 2) (c : BitVec 3) (t : Bool)
  /-- R160: Atomic integer add. -/
  | amoAdd (d : Reg) (a : Reg) (z : Bool) (e : BitVec 2) (c : BitVec 3) (t : Bool)
  /-- R160: Atomic AND. -/
  | amoAnd (d : Reg) (a : Reg) (z : Bool) (e : BitVec 2) (c : BitVec 3) (t : Bool)
  /-- R160: Atomic OR. -/
  | amoOr (d : Reg) (a : Reg) (z : Bool) (e : BitVec 2) (c : BitVec 3) (t : Bool)
  /-- R160: Atomic XOR. -/
  | amoXor (d : Reg) (a : Reg) (z : Bool) (e : BitVec 2) (c : BitVec 3) (t : Bool)
  /-- R160: Atomic signed minimum. -/
  | amoMins (d : Reg) (a : Reg) (z : Bool) (e : BitVec 2) (c : BitVec 3) (t : Bool)
  /-- R160: Atomic signed maximum. -/
  | amoMaxs (d : Reg) (a : Reg) (z : Bool) (e : BitVec 2) (c : BitVec 3) (t : Bool)
  /-- R160: Atomic unsigned minimum. -/
  | amoMinn (d : Reg) (a : Reg) (z : Bool) (e : BitVec 2) (c : BitVec 3) (t : Bool)
  /-- R160: Atomic unsigned maximum. -/
  | amoMaxn (d : Reg) (a : Reg) (z : Bool) (e : BitVec 2) (c : BitVec 3) (t : Bool)
  /-- R160: Atomic wrapping increment. -/
  | amoInc (d : Reg) (a : Reg) (z : Bool) (e : BitVec 2) (c : BitVec 3) (t : Bool)
  /-- R160: Atomic wrapping decrement. -/
  | amoDec (d : Reg) (a : Reg) (z : Bool) (e : BitVec 2) (c : BitVec 3) (t : Bool)
  /-- R160: Atomic f32 add rounded RNE. -/
  | amoAddf (d : Reg) (a : Reg) (e : BitVec 2) (c : BitVec 3) (t : Bool)
  /-- R166: Publish at the named scope. -/
  | pub (c : BitVec 3) (t : Bool)
  /-- R166: Refresh at the named scope. -/
  | rfsh (c : BitVec 3) (t : Bool)
  /-- R166: Publish followed by refresh at the named scope. -/
  | phase (c : BitVec 3) (t : Bool)
  /-- R177: Queues a copy from global memory to scratchpad. -/
  | acopyG2s (q : BitVec 3) (k : BitVec 6) (sb : BitVec 6) (t : Bool)
  /-- R177: Queues a copy from scratchpad to global memory. -/
  | acopyS2g (q : BitVec 3) (k : BitVec 6) (sb : BitVec 6) (t : Bool)
  /-- R177: Queues a copy from global memory to an operand slot. -/
  | acopyG2o (q : BitVec 3) (k : BitVec 6) (sb : BitVec 6) (t : Bool)
  /-- R177: Queues a copy from scratchpad to an operand slot. -/
  | acopyS2o (q : BitVec 3) (k : BitVec 6) (sb : BitVec 6) (t : Bool)
  /-- R177: Queues a copy from an accumulator tile to scratchpad. -/
  | acopyA2s (q : BitVec 3) (k : BitVec 6) (sb : BitVec 6) (t : Bool)
  /-- R177: Queues a copy from scratchpad to an accumulator tile. -/
  | acopyS2a (q : BitVec 3) (k : BitVec 6) (sb : BitVec 6) (t : Bool)
  /-- R177: Queues a copy from an accumulator tile to global memory. -/
  | acopyA2g (q : BitVec 3) (k : BitVec 6) (sb : BitVec 6) (t : Bool)
  /-- R178: Queues an indexed copy of global rows to scratchpad or slot rows. -/
  | gather (q : BitVec 3) (k : BitVec 6) (sb : BitVec 6) (t : Bool)
  /-- R178: Queues an indexed copy of scratchpad or slot rows to global rows. -/
  | scatter (q : BitVec 3) (k : BitVec 6) (sb : BitVec 6) (t : Bool)
  /-- R179: Queues a checked copy list as one queue entry. -/
  | kick (q : BitVec 3) (k : BitVec 6) (sb : BitVec 6) (t : Bool)
  /-- R180: Orders the block's later operations in the named queues after its earlier ones. -/
  | qfence (n : BitVec 6) (k : BitVec 6) (t : Bool)
  /-- R182: Maps an o register to a free physical slot, stalling if none is free. -/
  | claim (o : BitVec 4) (t : Bool)
  /-- R183: Unmaps an o register; the slot frees once its operations complete. -/
  | release (o : BitVec 4) (t : Bool)
  /-- R187: Latches a weight tile, its format and column scales into the array. -/
  | wload (k : BitVec 6) (sb : BitVec 6) (t : Bool)
  /-- R190: Streams activation rows through the array into a label's pleat of an accumulator tile. -/
  | mma (a : BitVec 4) (r : Bool) (c : Bool) (k : BitVec 6) (sb : BitVec 6) (t : Bool)
  /-- R199: Combines a tile's pleats with per-label coefficients into another tile or scratchpad. -/
  | bind (a : BitVec 4) (c : Bool) (p : Bool) (k : BitVec 6) (sb : BitVec 6) (t : Bool)
  /-- R198: Empties a tile's label table at queue entry and zeroes its rows in the array. -/
  | acczero (a : BitVec 4) (k : BitVec 6) (t : Bool)
  /-- R192: Continues if the wave holds the thimble, otherwise waits to be given it. -/
  | thmtake (t : Bool)
  /-- R193: Passes the thimble to the next live wave of the block in $wave order. -/
  | thmpass (t : Bool)
  /-- R193: Frees the thimble. -/
  | thmpassFree (t : Bool)
  /-- R185: Transposes a square of a slot. -/
  | trans (k : BitVec 6) (sb : BitVec 6) (t : Bool)
  /-- R188: Sets the latched column scales from a vector. -/
  | tscaleSet (k : BitVec 6) (sb : BitVec 6) (t : Bool)
  /-- R188: Multiplies the latched column scales by a vector. -/
  | tscaleMul (k : BitVec 6) (sb : BitVec 6) (t : Bool)
  /-- R188: Multiplies the latched column scales by a scalar. -/
  | tscaleMuls (k : BitVec 6) (sb : BitVec 6) (t : Bool)
  /-- R195: Maps an a register to a tile of M x P rows, stalling until the rows are free. -/
  | aclaim (a : BitVec 4) (sb : BitVec 6) (t : Bool)
  /-- R195: Unmaps an a register; its rows free once its operations complete. -/
  | afree (a : BitVec 4) (t : Bool)
  /-- R184: Each lane reads four bytes of a slot row or column slice. -/
  | tslr (d : Reg) (i : BitVec 6) (sb : BitVec 6) (r : Bool) (o : BitVec 4) (t : Bool)
  /-- R184: Each lane writes four bytes of a slot row or column slice. -/
  | tslw (d : Reg) (i : BitVec 6) (sb : BitVec 6) (r : Bool) (o : BitVec 4) (t : Bool)
  /-- R203: Barrier arrive, then wait, at a level. -/
  | bar (l : BitVec 3) (t : Bool)
  /-- R203: Publishes and then counts the thread's arrival in the current barrier phase. -/
  | bararr (l : BitVec 3) (t : Bool)
  /-- R203: Waits for the recorded phase to complete, then refreshes. -/
  | barwait (l : BitVec 3) (t : Bool)
  /-- R207: Initialises a byte barrier's COUNT and ZEROS. -/
  | bobjinit (d : Reg) (a : Reg) (t : Bool)
  /-- R207: Adds to a byte barrier's COUNT atomically. -/
  | bobjexp (d : Reg) (a : Reg) (t : Bool)
  /-- R208: Waits until a byte barrier's COUNT reads 0. -/
  | bobjwait (a : Reg) (t : Bool)
  /-- R219: Offers one task entry per active lane to the launch's spawn queue. -/
  | spawn (d : Reg) (a : Reg) (t : Bool)
  /-- R222: Block rendezvous that publishes, waits for copies and retires the task record. -/
  | tend (t : Bool)
  /-- R221: Publishes and pushes an item onto an edge, waiting while FREE is 0. -/
  | epush (d : Reg) (a : Reg) (t : Bool)
  /-- R221: Pops an item from an edge and refreshes, or reports it empty. -/
  | epop (d : Reg) (a : Reg) (t : Bool)
  /-- R221: Publishes and returns one slot of capacity to an edge. -/
  | efree (a : Reg) (t : Bool)
  /-- R223: Charges a request of rows against an allowance bucket and returns the grant. -/
  | admitD (d : Reg) (a : Reg) (t : Bool)
  /-- R224: Retires a legacy TCB, decrementing its successors and submitting those that reach 0. -/
  | tcbdone (a : Reg) (t : Bool)
  /-- R102: 16-bit move g[D] := g[B]. -/
  | cMov (d : BitVec 6) (b : BitVec 5)
  /-- R102: 16-bit destructive add. -/
  | cAdd (d : BitVec 6) (b : BitVec 5)
  /-- R102: 16-bit destructive subtract. -/
  | cSub (d : BitVec 6) (b : BitVec 5)
  /-- R102: 16-bit destructive AND. -/
  | cAnd (d : BitVec 6) (b : BitVec 5)
  /-- R102: 16-bit destructive OR. -/
  | cOr (d : BitVec 6) (b : BitVec 5)
  /-- R102: 16-bit destructive XOR. -/
  | cXor (d : BitVec 6) (b : BitVec 5)
  /-- R102: 16-bit destructive shift left. -/
  | cShl (d : BitVec 6) (b : BitVec 5)
  /-- R102: 16-bit destructive logical shift right. -/
  | cShr (d : BitVec 6) (b : BitVec 5)
  /-- R102: 16-bit destructive arithmetic shift right. -/
  | cSar (d : BitVec 6) (b : BitVec 5)
  /-- R102: 16-bit destructive multiply. -/
  | cMul (d : BitVec 6) (b : BitVec 5)
  /-- R102: 16-bit destructive signed minimum. -/
  | cMins (d : BitVec 6) (b : BitVec 5)
  /-- R102: 16-bit destructive signed maximum. -/
  | cMaxs (d : BitVec 6) (b : BitVec 5)
  /-- R102: 16-bit destructive binary32 add. -/
  | cFadd (d : BitVec 6) (b : BitVec 5)
  /-- R102: 16-bit destructive binary32 multiply. -/
  | cFmul (d : BitVec 6) (b : BitVec 5)
  /-- R102: 16-bit add of a signed 5-bit immediate. -/
  | addi5 (d : BitVec 6) (i : BitVec 5)
  /-- R102: 16-bit load of a signed 5-bit immediate. -/
  | li5 (d : BitVec 6) (i : BitVec 5)
  /-- R37: The halfword 0x0000 is ILL and raises ILLOP on the issuing threads. -/
  | ill16
  /-- R37: Any 32-bit word with MAJ = 0x00 is ILL and raises ILLOP on the issuing threads. -/
  | ill32
  /-- R38: A result of an earlier instruction is written; a thread parked on a tack becomes eligible once all of its results have returned. -/
  | resultReturn (c : Nat) (sl : Nat) (ln : Nat) (n : Nat)
  /-- R141: A plain store enters its core's view, or is performed at the scratchpad. -/
  | storePerformed (c : Nat) (sl : Nat) (ln : Nat) (n : Nat)
  /-- R161: An ordered access or atomic is performed as one indivisible step at its scope's home. -/
  | memoPerformed (c : Nat) (sl : Nat) (ln : Nat) (n : Nat)
  /-- R146: A publish places the view's writes into the scope instance's order and completes. -/
  | publishComplete (c : Nat) (sl : Nat) (ln : Nat) (n : Nat)
  /-- R147: A refresh brings the core's snapshot up to date with preceding publishes and completes. -/
  | refreshComplete (c : Nat) (sl : Nat) (ln : Nat) (n : Nat)
  /-- R145: The device spontaneously brings part of a core's snapshot up to date. -/
  | snapshotUpdate (c : Nat) (pa : Nat)
  /-- R145: The device spontaneously places a core's written bytes into the order at some scope. -/
  | spontaneousPlacement (c : Nat) (pa : Nat) (sc : Nat)
  /-- R133: The last body instruction completes in a lane; the counter is decremented and the pass repeats, or the level ends. -/
  | loopEndCheck (c : Nat) (sl : Nat) (ln : Nat)
  /-- R139: A lane that has waited 4,096 cycles at a WAIT leaves the seam, and the check runs for the others. -/
  | seamWaitTimeout (c : Nat) (sl : Nat) (ln : Nat)
  /-- R248: While a stop is requested, a thread that reaches a notch parks before the notched instruction. -/
  | notchPark (c : Nat) (sl : Nat) (ln : Nat)
  /-- R265: A ready thread's age reaches 64; its wave and path are forced at the next issue opportunity. -/
  | ageForce (c : Nat) (pn : Nat)
  /-- R266: The panel swaps an active wave with a pending wave that has a ready thread. -/
  | waveSwap (c : Nat) (act : Nat) (pend : Nat)
  /-- R319: A pending wave takes an emptied active slot at the next issue opportunity. -/
  | pendingPromote (c : Nat) (pn : Nat)
  /-- R169: A queued operation starts once every earlier operation of its queue has completed. -/
  | engineOperationStart (blk : Nat) (q : Nat)
  /-- R171: An operation's writes are performed and published at its scope, and then its token is written. -/
  | engineOperationComplete (blk : Nat) (q : Nat)
  /-- R192: A free thimble is given to the waiting wave of lowest class that has waited longest. -/
  | thimbleGrant (c : Nat) (zero : Bool)
  /-- R229: The oldest window entry leaves into the matrix queue, at the latest 32 cycles after the queue empties. -/
  | windowEntryLeave (c : Nat)
  /-- R194: At an MMA boundary the array takes the oldest class-0 operation, else the oldest matrix-queue operation, swapping latched state. -/
  | arrayTakeOperation (c : Nat)
  /-- R191: A matrix operation finishes in the array; checksum columns are compared and its token is written. -/
  | matrixOperationComplete (c : Nat)
  /-- R211: Throws merged at the region's arbitration point stop the group's members, cancel copies, write the record and steer the members to the catch. -/
  | collectiveUnwind (c : Nat) (sl : Nat) (ln : Nat)
  /-- R226: A sleeping thread's cycle count ends and it becomes ready. -/
  | sleepExpire (c : Nat) (sl : Nat) (ln : Nat)
  /-- R281: A translation or permission fault inside the lease stops the core and writes a fault record to the monitor. -/
  | coreFaultStop (c : Nat)
  /-- R333: The monitor answers RESUME; the faulting access is performed again and the core resumes. -/
  | faultResume (c : Nat)
  /-- R281: The monitor answers REFUSE; the faulting lanes trap, the copy is cancelled and its issuer throws, or the launch aborts for a table fault. -/
  | faultRefuse (c : Nat)
  /-- R300: The dispatcher takes a queue slot whose SEQ equals HEAD + 1, copies the record and advances HEAD. -/
  | launchRecordTake (vf : Nat) (cls : Nat)
  /-- R304: All reservations of a gang are made at once; scratchpads are zeroed, registers loaded and its waves made resident. -/
  | gangStart (l : Nat) (gi : Nat) (place : List Nat)
  /-- R311: The dispatcher takes a spawn-queue entry and starts it as one gang of its template. -/
  | spawnEntryTake (l : Nat)
  /-- R312: An edge holding at least THRESH items with no live consumer starts its consumer task. -/
  | edgeConsumerStart (l : Nat) (e : Nat)
  /-- R313: Once all other tasks end, an edge holding fewer than THRESH items starts its consumer. -/
  | edgeDrainStart (l : Nat) (e : Nat)
  /-- R222: After the block's copies complete, its task record is retired and a new basting interval opens. -/
  | tendRetire (blk : Nat)
  /-- R307: When all blocks, spawned tasks and edges are done, views are published, the TCB is retired and STATUS becomes 2. -/
  | launchComplete (l : Nat)
  /-- R316: At each INTERVAL instant a bucket's LEVEL is refilled up to CEIL and its tag records are cleared. -/
  | allowanceRefill (vf : Nat) (b : Nat)
  /-- R325: An invalidation of a VA range and PASID arrives and removes cached translations. -/
  | invalidationRequest (vf : Nat) (va : Nat) (len : Nat)
  /-- R325: Once no unit holds the translation and its users have performed, the completion is sent. -/
  | invalidationComplete (id : Nat)
  /-- R336: At a slice instant the partition stops, pre-empts, scrubs and switches to the next function. -/
  | sliceSwitch (part : Nat)
  /-- R338: The scrub completes and launches, resumptions and class-0 placements may start on the partition. -/
  | scrubComplete (part : Nat)
  /-- R340: From reset the boot ROM, firmware and monitor verify and start each signed stage in turn. -/
  | boot (part : Nat) (hdr : List Byte) (payload : List Byte) (key : List Byte)
  /-- R341: The dispatcher stops placing the named launches and requests a stop in every thread of the gangs. -/
  | preemptRequest (gs : List Nat)
  /-- R342: At 200 µs every thread still running is hard-stopped. -/
  | preemptHardStop (gang : Nat)
  /-- R341: Once threads are stopped and queues drained, views are published at .tenant and the image is written and resources freed. -/
  | contextSave (gang : Nat)
  /-- R350: The dispatcher restores a gang's image on free cores, refreshes at .tenant and places its waves pending. -/
  | gangResume (gang : Nat) (place : List Nat)
  /-- R344: The monitor clears HALT in the launch's images and the dispatcher resumes them. -/
  | haltResume (l : Nat)
  /-- R344: The monitor asks the dispatcher to abort a halted launch with XCODE 0x104. -/
  | haltAbort (l : Nat)
  /-- R363: At a chunk boundary the engine chooses the next step by PRIO, then least recently served. -/
  | chunkStepSelect (bob : Nat)
  /-- R363: A chunk from a rank is taken off the link into a slot, or spooled when slots are full. -/
  | chunkArrive (cm : Nat) (inst : Nat) (rank : Nat) (chunk : Nat) (data : List Byte)
  /-- R364: A spooled chunk is fetched back into a freed slot in arrival order. -/
  | spoolFetch (cm : Nat)
  /-- R362: Link credit returns on a communicator's channel. -/
  | bobCredit (cm : Nat)
  /-- R362: Bobbin command that sends a local chunk or slot to a rank on the communicator's channel. -/
  | bobSend (cm : Nat) (isSlot : Bool) (ix : Nat) (rank : Nat)
  /-- R362: Bobbin command that combines a slot into another operand under R361. -/
  | bobReduce (cm : Nat) (slot : Nat) (isSlot : Bool) (ix : Nat)
  /-- R362: Bobbin command that writes a slot to a chunk's result bytes and counts down WAIT barriers. -/
  | bobWrite (cm : Nat) (slot : Nat) (chunk : Nat)
  /-- R362: Bobbin command that returns a slot. -/
  | bobFree (cm : Nat) (slot : Nat)
  /-- R362: Bobbin command that marks a chunk complete on this rank. -/
  | bobDone (cm : Nat) (chunk : Nat)
  /-- R366: An instance stops at a chunk boundary, frees its slots and writes its abort record. -/
  | instanceAbort (cm : Nat) (cause : Nat) (rank : Nat)
  /-- R366: A partner's abort notice arrives and aborts the instance, or is kept until the instance becomes active. -/
  | partnerAbortNotice (commid : Nat) (inst : Nat) (rank : Nat)
  /-- R373: A host read through BAR2 is translated and performed at the package home, or completes with Completer Abort. -/
  | hostWindowRead (vf : Nat) (off : Nat) (len : Nat)
  /-- R373: A host write through BAR2 is translated and performed at the package home, or is dropped and sets WFAULT. -/
  | hostWindowWrite (vf : Nat) (off : Nat) (data : List Byte)
  /-- R376: A request to host or CXL memory reaches its completion timeout and completes poisoned. -/
  | hostCompletionTimeout (req : Nat)
  /-- R378: A request from a peer is performed at the package home, or refused while the peer is fenced. -/
  | peerRequest (peer : Nat) (pa : Nat) (op : Nat) (data : List Byte)
  /-- R378: A response to a remote request arrives and completes the request. -/
  | remoteResponse (req : Nat) (data : List Byte)
  /-- R380: A request outstanding for TIMEOUT completes poisoned; the peer is fenced and its communicators abort. -/
  | peerRequestTimeout (req : Nat)
  /-- R382: Writing CMD = 1 while fenced sets the peer's STATE to up. -/
  | unfence (peer : Nat)
  /-- R383: A hold notice from a peer starts or extends its held state. -/
  | holdNotice (peer : Nat)
  /-- R383: 2 ms pass without a notice and the peer's hold ends. -/
  | holdQuietExpire (peer : Nat)
  /-- R383: A hold ends 30 s after it began. -/
  | holdLimitExpire (peer : Nat)
  /-- R384: Every 1 ms during a retrain or a debug halt, the device sends hold notices. -/
  | holdNoticeSend
  /-- R384: A UALink port starts retraining. -/
  | portRetrain (port : Nat)
  /-- R386: A network or storage port publishes its data and releases the transfer's completion entry. -/
  | portTransferComplete (vf : Nat) (port : Nat) (va : Nat) (data : List Byte) (cva : Nat) (entry : List Byte)
  /-- R387: The 1588 input locks; the count is stepped forward or slowed until it agrees. -/
  | timeInputLock (time : Nat)
  /-- R387: The 1588 input is lost; holdover starts, HOLD is set and LOSSES increases. -/
  | timeInputLoss
  /-- R393: 2 ms after an interval opens, the gang takes a basting checkpoint and resumes in place. -/
  | bastingIntervalTimeout (gang : Nat)
  /-- R394: A context consumes an uncorrectable memory error. -/
  | uncorrectableError (gang : Nat) (unit : Nat) (pa : Nat)
  /-- R394: The monitor requests the rollback of a context. -/
  | rollbackRequest (gang : Nat)
  /-- R398: A correctable error event is counted and recorded in the health ring. -/
  | correctableError (unit : Nat) (pa : Nat) (fn : Nat)
  /-- R399: At the next MMA boundary a lasting array's logical K-rows are tested. -/
  | arrayRowTest (c : Nat) (bad : List Nat)
  /-- R400: At the next MMA boundary a lasting K-row is replaced by a spare, or the core is set DOWN. -/
  | krowRetire (c : Nat) (row : Nat)
  /-- R401: A gang with no issue for GWDOG ms is reported with KIND 8. -/
  | gangWatchdog (gang : Nat)
  /-- R403: A CTRL write with CLR = 1 resets the gauge's counters and bins. -/
  | gaugeClear (gauge : Nat)
  /-- R408: Every PERIOD cycles the panel writes one record per resident wave to its sample ring. -/
  | samplerSample (c : Nat) (pn : Nat)
  /-- R5: A write to a register map field with no behaviour of its own acts by its access code. -/
  | registerWrite (space : Nat) (ix : Nat) (off : Nat) (v : Word)
  /-- R57: An issued word with a reserved major or selector, a non-zero must-be-zero field or an illegal combination raises ILLOP precisely on the issuing lanes. -/
  | reservedOrIllegalWord
  /-- R331: An eviction of a range to host or CXL memory completes, and a lease grant waiting on that range makes it resident again. -/
  | evictionComplete (range : Nat)
  /-- R337: The monitor reassigns a partition holding no running context directly to another virtual function, starting the scrub. -/
  | partitionReassign (part : Nat) (vf : Nat)
  /-- R353: The dispatcher reads EN = 0 in a communicator descriptor and, with no instance active, closes it, freeing its slots and channel and clearing OPEN. -/
  | communicatorEnClear (cm : Nat)
  /-- R384: A UALink port finishes retraining and the device stops sending hold notices for it. -/
  | portRetrainComplete (port : Nat)
  /-- R404: Each 1 µs interval ends and a gauge with SOURCE 7 counts the link retries of that interval. -/
  | linkRetryIntervalEnd (port : Nat) (retries : Nat)
  /-- R227: A core is power-gated and its CLOCK count stops. -/
  | corePowerGate (c : Nat)
  /-- R227: A power-gated core is powered again and its CLOCK count resumes. -/
  | corePowerUngate (c : Nat)
  deriving DecidableEq, Repr

end Sys2Proof
end

