-- ==== Sys2Proof/WellFormed.lean ====
section
/-! DEFINITION. Which instructions an encoding may hold: the restrictions of spec/03_opcode_map.md R53, R55 and R56 on the operands of each
instruction, and the even registers of spec/01_architectural_state.md R18. A register outside the declared count, or an unmapped slot or
tile (R18, R20), depends on the state and is checked when the instruction is executed. -/

namespace Sys2Proof

/-- A register number that cannot name a pair (R18). -/
def odd {w : Nat} (r : BitVec w) : Bool := r.getLsbD 0

/-- A register number that cannot name a block of four registers (R55). -/
def notQuad (r : Reg) : Bool := r.getLsbD 0 || r.getLsbD 1

/-- The width of the special register of a number; none where the number is not assigned (R22). -/
def specialWidth (r : BitVec 10) : Option Nat :=
  let n := r.toNat
  if n ≤ 0x008 then some 32
  else if n = 0x009 then some 64
  else if 0x010 ≤ n ∧ n ≤ 0x01F then some 32
  else if n = 0x044 ∨ n = 0x060 ∨ n = 0x061 then some 64
  else if 0x040 ≤ n ∧ n ≤ 0x046 then some 32
  else if 0x050 ≤ n ∧ n ≤ 0x054 then some 32
  else if n = 0x062 then some 32
  else if 0x070 ≤ n ∧ n ≤ 0x075 then some 32
  else if n = 0x080 then some 32
  else if 0x090 ≤ n ∧ n ≤ 0x092 then some 32
  else none

/-- The first of some violations that holds. -/
def firstOf : List (Bool × Reject) → Option Reject
  | [] => none
  | (c, r) :: rest => if c then some r else firstOf rest

/-- Why an instruction is not one the encodings allow (R53, R55, R56, R18); none where it is. A step of the device that has no
encoding is admitted with every operand. -/
def Instr.reject : Instr → Option Reject
  | .add _ _ _ _ => none
  | .sub _ _ _ _ => none
  | .and _ _ _ _ => none
  | .or _ _ _ _ => none
  | .xor _ _ _ _ => none
  | .andn _ _ _ _ => none
  | .addc _ _ _ _ => none
  | .subb _ _ _ _ => none
  | .mul _ _ _ _ => none
  | .mulhs _ _ _ _ => none
  | .mulhu _ _ _ _ => none
  | .mulhsu _ _ _ _ => none
  | .mins _ _ _ _ => none
  | .maxs _ _ _ _ => none
  | .minu _ _ _ _ => none
  | .maxu _ _ _ _ => none
  | .shl _ _ _ _ => none
  | .shr _ _ _ _ => none
  | .sar _ _ _ _ => none
  | .rol _ _ _ _ => none
  | .ror _ _ _ _ => none
  | .fshl _ _ _ _ => none
  | .fshr _ _ _ _ => none
  | .bfxn _ _ _ _ => none
  | .bfxs _ _ _ _ => none
  | .bfi _ _ _ _ => none
  | .bmsk _ _ _ => none
  | .clz _ _ _ => none
  | .ctz _ _ _ => none
  | .popc _ _ _ => none
  | .brev _ _ _ => none
  | .divs _ _ _ _ => none
  | .divn _ _ _ _ => none
  | .rems _ _ _ _ => none
  | .remn _ _ _ _ => none
  | .mad _ _ _ _ => none
  | .madhs _ _ _ _ => none
  | .madhn _ _ _ _ => none
  | .mad64s d _ _ _ => firstOf [(odd d, .oddRegister)]
  | .mad64n d _ _ _ => firstOf [(odd d, .oddRegister)]
  | .sad _ _ _ _ => none
  | .icmpEq _ _ _ _ => none
  | .icmpNe _ _ _ _ => none
  | .icmpLt _ _ _ _ => none
  | .icmpLe _ _ _ _ => none
  | .icmpLtn _ _ _ _ => none
  | .icmpLen _ _ _ _ => none
  | .icmpTst _ _ _ _ => none
  | .addi _ _ _ _ => none
  | .andi _ _ _ _ => none
  | .ori _ _ _ _ => none
  | .xori _ _ _ _ => none
  | .shfiShl _ _ _ _ => none
  | .shfiShr _ _ _ _ => none
  | .shfiSar _ _ _ _ => none
  | .shfiRol _ _ _ _ => none
  | .shfiRor _ _ _ _ => none
  | .icmpiEq _ _ _ _ => none
  | .icmpiNe _ _ _ _ => none
  | .icmpiLt _ _ _ _ => none
  | .icmpiLe _ _ _ _ => none
  | .icmpiGt _ _ _ _ => none
  | .icmpiGe _ _ _ _ => none
  | .icmpiLtn _ _ _ _ => none
  | .icmpiLen _ _ _ _ => none
  | .icmpiGtn _ _ _ _ => none
  | .icmpiGen _ _ _ _ => none
  | .li _ _ _ => none
  | .lih _ _ _ => none
  | .pand _ _ _ _ => none
  | .por _ _ _ _ => none
  | .pxor _ _ _ _ => none
  | .pnot _ _ _ => none
  | .p2g _ _ _ => none
  | .g2p _ _ _ => none
  | .sel _ _ _ _ _ => none
  | .fadd _ _ _ _ => none
  | .fsub _ _ _ _ => none
  | .fmul _ _ _ _ => none
  | .fmin _ _ _ _ => none
  | .fmax _ _ _ _ => none
  | .ffma _ _ _ _ => none
  | .ffms _ _ _ _ => none
  | .fcps _ _ _ _ => none
  | .fcmpEq _ _ _ _ => none
  | .fcmpNe _ _ _ _ => none
  | .fcmpLt _ _ _ _ => none
  | .fcmpLe _ _ _ _ => none
  | .fcmpUn _ _ _ _ => none
  | .fcmpOr _ _ _ _ => none
  | .hadd2 _ _ _ _ => none
  | .hmul2 _ _ _ _ => none
  | .hfma2 _ _ _ _ => none
  | .badd2 _ _ _ _ => none
  | .bmul2 _ _ _ _ => none
  | .bfma2 _ _ _ _ => none
  | .dot2h _ _ _ _ => none
  | .dot2b _ _ _ _ => none
  | .rcp _ _ _ => none
  | .rsq _ _ _ => none
  | .sqrt _ _ _ => none
  | .exp2 _ _ _ => none
  | .log2 _ _ _ => none
  | .sin _ _ _ => none
  | .cos _ _ _ => none
  | .tanh _ _ _ => none
  | .fdiv _ _ _ _ => none
  | .cvt _ _ _ y x _ => firstOf [(decide (8 < x.toNat) || decide (8 < y.toNat), .reservedSelector), (x == y, .illegalCombination)]
  | .cvt8ToByte _ _ _ _ _ _ n _ => firstOf [(n == 7#3, .reservedSelector)]
  | .cvt8FromByte _ _ _ _ n _ => firstOf [(n == 7#3, .reservedSelector)]
  | .dot4s _ _ _ _ => none
  | .dot4n _ _ _ _ => none
  | .dot4f _ _ _ _ => none
  | .shflIdx _ _ _ _ _ => none
  | .shflUp _ _ _ _ _ => none
  | .shflDn _ _ _ _ _ => none
  | .shflXor _ _ _ _ _ => none
  | .shflr _ _ _ _ _ => none
  | .voteAll _ _ _ _ => none
  | .voteAny _ _ _ _ => none
  | .voteSame _ _ _ _ => none
  | .voteBallot _ _ _ _ => none
  | .foldAdd _ _ y _ k _ => firstOf [(k == 3#2 || decide (1 < y.toNat), .reservedSelector)]
  | .foldMin _ _ y _ k _ => firstOf [(k == 3#2 || decide (1 < y.toNat), .reservedSelector)]
  | .foldMax _ _ y _ k _ => firstOf [(k == 3#2 || decide (1 < y.toNat), .reservedSelector)]
  | .foldMinn _ _ y _ k _ => firstOf [(k == 3#2 || decide (1 < y.toNat), .reservedSelector), (y == 1#2, .illegalCombination)]
  | .foldMaxn _ _ y _ k _ => firstOf [(k == 3#2 || decide (1 < y.toNat), .reservedSelector), (y == 1#2, .illegalCombination)]
  | .foldAnd _ _ y _ k _ => firstOf [(k == 3#2 || decide (1 < y.toNat), .reservedSelector), (y == 1#2, .illegalCombination)]
  | .foldOr _ _ y _ k _ => firstOf [(k == 3#2 || decide (1 < y.toNat), .reservedSelector), (y == 1#2, .illegalCombination)]
  | .foldXor _ _ y _ k _ => firstOf [(k == 3#2 || decide (1 < y.toNat), .reservedSelector), (y == 1#2, .illegalCombination)]
  | .topk d _ y _ _ _ => firstOf [(odd d, .oddRegister), (y == 3#2, .reservedSelector)]
  | .lsetEq _ _ _ _ => none
  | .lsetAlleq _ _ _ _ => none
  | .lsetFirst _ _ _ => none
  | .lsetLive _ _ _ => none
  | .bra _ p n _ => firstOf [(n && p == 7#3, .illegalCombination)]
  | .call _ p n _ => firstOf [(n && p == 7#3, .illegalCombination)]
  | .brx a _ => firstOf [(odd a, .oddRegister)]
  | .callx a _ => firstOf [(odd a, .oddRegister)]
  | .ret _ => none
  | .exit _ => none
  | .loop n _ _ l _ => firstOf [(l == 3#2, .reservedSelector), (n == 0#10, .mustBeZero)]
  | .seamEnrol _ _ => none
  | .seamWait _ _ => none
  | .seamLeave _ _ => none
  | .seamSmask _ _ _ => none
  | .tryOpen _ _ _ => none
  | .endtry _ => none
  | .throwG _ _ => none
  | .throwi _ _ => none
  | .rethrow _ => none
  | .trap _ _ => none
  | .uret _ => none
  | .uretry _ => none
  | .brk _ => none
  | .srd d r _ => firstOf [((specialWidth r).isNone, .reservedSelector), (specialWidth r == some 64 && odd d, .oddRegister)]
  | .swr a r _ => firstOf [((specialWidth r).isNone, .reservedSelector), (specialWidth r == some 64 && odd a, .oddRegister)]
  | .nop _ => none
  | .yield _ => none
  | .sleep _ _ => none
  | .clock d _ => firstOf [(odd d, .oddRegister)]
  | .ptime d _ => firstOf [(odd d, .oddRegister)]
  | .pmark _ _ => none
  | .tflush _ => none
  | .ld d _ x z _ sb _ => firstOf [(odd sb, .oddRegister), (z == 3#2 && odd d, .oddRegister), (x && decide (1 < z.toNat), .illegalCombination)]
  | .st d _ z _ sb _ => firstOf [(odd sb, .oddRegister), (z == 3#2 && odd d, .oddRegister)]
  | .lds d _ x z _ _ _ => firstOf [(z == 3#2 && odd d, .oddRegister), (x && decide (1 < z.toNat), .illegalCombination)]
  | .sts d _ z _ _ _ => firstOf [(z == 3#2 && odd d, .oddRegister)]
  | .ldc d _ x z _ _ _ => firstOf [(z == 3#2 && odd d, .oddRegister), (x && decide (1 < z.toNat), .illegalCombination)]
  | .ldo d a z e c _ => firstOf [(odd a, .oddRegister), (z && odd d, .oddRegister), (decide (1 < e.toNat), .illegalCombination), (decide (5 < c.toNat), .reservedSelector)]
  | .sto d a z e c _ => firstOf [(odd a, .oddRegister), (z && odd d, .oddRegister), (e.getLsbD 0, .illegalCombination), (decide (5 < c.toNat), .reservedSelector)]
  | .swap d a z _ c _ => firstOf [(odd a, .oddRegister), (z && odd d, .oddRegister), (decide (5 < c.toNat), .reservedSelector)]
  | .cas d a z _ c _ => firstOf [(odd a, .oddRegister), (z && odd d, .oddRegister), (z && decide (124 < d.toNat), .oddRegister), (decide (5 < c.toNat), .reservedSelector)]
  | .amoAdd d a z _ c _ => firstOf [(odd a, .oddRegister), (z && odd d, .oddRegister), (decide (5 < c.toNat), .reservedSelector)]
  | .amoAnd d a z _ c _ => firstOf [(odd a, .oddRegister), (z && odd d, .oddRegister), (decide (5 < c.toNat), .reservedSelector)]
  | .amoOr d a z _ c _ => firstOf [(odd a, .oddRegister), (z && odd d, .oddRegister), (decide (5 < c.toNat), .reservedSelector)]
  | .amoXor d a z _ c _ => firstOf [(odd a, .oddRegister), (z && odd d, .oddRegister), (decide (5 < c.toNat), .reservedSelector)]
  | .amoMins d a z _ c _ => firstOf [(odd a, .oddRegister), (z && odd d, .oddRegister), (decide (5 < c.toNat), .reservedSelector)]
  | .amoMaxs d a z _ c _ => firstOf [(odd a, .oddRegister), (z && odd d, .oddRegister), (decide (5 < c.toNat), .reservedSelector)]
  | .amoMinn d a z _ c _ => firstOf [(odd a, .oddRegister), (z && odd d, .oddRegister), (decide (5 < c.toNat), .reservedSelector)]
  | .amoMaxn d a z _ c _ => firstOf [(odd a, .oddRegister), (z && odd d, .oddRegister), (decide (5 < c.toNat), .reservedSelector)]
  | .amoInc d a z _ c _ => firstOf [(odd a, .oddRegister), (z && odd d, .oddRegister), (decide (5 < c.toNat), .reservedSelector)]
  | .amoDec d a z _ c _ => firstOf [(odd a, .oddRegister), (z && odd d, .oddRegister), (decide (5 < c.toNat), .reservedSelector)]
  | .amoAddf _ a _ c _ => firstOf [(odd a, .oddRegister), (decide (5 < c.toNat), .reservedSelector)]
  | .pub c _ => firstOf [(decide (5 < c.toNat), .reservedSelector)]
  | .rfsh c _ => firstOf [(decide (5 < c.toNat), .reservedSelector)]
  | .phase c _ => firstOf [(decide (5 < c.toNat), .reservedSelector)]
  | .acopyG2s q _ _ _ => firstOf [(decide (4 < q.toNat), .reservedSelector)]
  | .acopyS2g q _ _ _ => firstOf [(decide (4 < q.toNat), .reservedSelector)]
  | .acopyG2o q _ _ _ => firstOf [(decide (4 < q.toNat), .reservedSelector)]
  | .acopyS2o q _ _ _ => firstOf [(decide (4 < q.toNat), .reservedSelector)]
  | .acopyA2s q _ _ _ => firstOf [(decide (4 < q.toNat), .reservedSelector)]
  | .acopyS2a q _ _ _ => firstOf [(decide (4 < q.toNat), .reservedSelector)]
  | .acopyA2g q _ _ _ => firstOf [(decide (4 < q.toNat), .reservedSelector)]
  | .gather q _ _ _ => firstOf [(decide (4 < q.toNat), .reservedSelector)]
  | .scatter q _ _ _ => firstOf [(decide (4 < q.toNat), .reservedSelector)]
  | .kick q _ _ _ => firstOf [(decide (4 < q.toNat), .reservedSelector)]
  | .qfence n _ _ => firstOf [(n == 0#6, .mustBeZero)]
  | .claim _ _ => none
  | .release _ _ => none
  | .wload _ _ _ => none
  | .mma _ _ _ _ _ _ => none
  | .bind _ _ _ _ _ _ => none
  | .acczero _ _ _ => none
  | .thmtake _ => none
  | .thmpass _ => none
  | .thmpassFree _ => none
  | .trans _ _ _ => none
  | .tscaleSet _ _ _ => none
  | .tscaleMul _ _ _ => none
  | .tscaleMuls _ _ _ => none
  | .aclaim _ _ _ => none
  | .afree _ _ => none
  | .tslr _ _ _ _ _ _ => none
  | .tslw _ _ _ _ _ _ => none
  | .bar _ _ => none
  | .bararr _ _ => none
  | .barwait _ _ => none
  | .bobjinit _ _ _ => none
  | .bobjexp _ _ _ => none
  | .bobjwait _ _ => none
  | .spawn _ a _ => firstOf [(notQuad a, .oddRegister)]
  | .tend _ => none
  | .epush _ a _ => firstOf [(odd a, .oddRegister)]
  | .epop d a _ => firstOf [(odd a, .oddRegister), (odd d, .oddRegister)]
  | .efree a _ => firstOf [(odd a, .oddRegister)]
  | .admitD _ a _ => firstOf [(notQuad a, .oddRegister)]
  | .tcbdone a _ => firstOf [(odd a, .oddRegister)]
  | .cMov d b => firstOf [(d == 0#6 && b == 0#5, .illegalCombination)]
  | .cAdd _ _ => none
  | .cSub _ _ => none
  | .cAnd _ _ => none
  | .cOr _ _ => none
  | .cXor _ _ => none
  | .cShl _ _ => none
  | .cShr _ _ => none
  | .cSar _ _ => none
  | .cMul _ _ => none
  | .cMins _ _ => none
  | .cMaxs _ _ => none
  | .cFadd _ _ => none
  | .cFmul _ _ => none
  | .addi5 _ _ => none
  | .li5 _ _ => none
  | .ill16 => none
  | .ill32 => none
  | .resultReturn _ _ _ _ => none
  | .storePerformed _ _ _ _ => none
  | .memoPerformed _ _ _ _ => none
  | .publishComplete _ _ _ _ => none
  | .refreshComplete _ _ _ _ => none
  | .snapshotUpdate _ _ => none
  | .spontaneousPlacement _ _ _ => none
  | .loopEndCheck _ _ _ => none
  | .seamWaitTimeout _ _ _ => none
  | .notchPark _ _ _ => none
  | .ageForce _ _ => none
  | .waveSwap _ _ _ => none
  | .pendingPromote _ _ => none
  | .engineOperationStart _ _ => none
  | .engineOperationComplete _ _ => none
  | .thimbleGrant _ _ => none
  | .windowEntryLeave _ => none
  | .arrayTakeOperation _ => none
  | .matrixOperationComplete _ => none
  | .collectiveUnwind _ _ _ => none
  | .sleepExpire _ _ _ => none
  | .coreFaultStop _ => none
  | .faultResume _ => none
  | .faultRefuse _ => none
  | .launchRecordTake _ _ => none
  | .gangStart _ _ _ => none
  | .spawnEntryTake _ => none
  | .edgeConsumerStart _ _ => none
  | .edgeDrainStart _ _ => none
  | .tendRetire _ => none
  | .launchComplete _ => none
  | .allowanceRefill _ _ => none
  | .invalidationRequest _ _ _ => none
  | .invalidationComplete _ => none
  | .sliceSwitch _ => none
  | .scrubComplete _ => none
  | .boot _ _ _ _ => none
  | .preemptRequest _ => none
  | .preemptHardStop _ => none
  | .contextSave _ => none
  | .gangResume _ _ => none
  | .haltResume _ => none
  | .haltAbort _ => none
  | .chunkStepSelect _ => none
  | .chunkArrive _ _ _ _ _ => none
  | .spoolFetch _ => none
  | .bobCredit _ => none
  | .bobSend _ _ _ _ => none
  | .bobReduce _ _ _ _ => none
  | .bobWrite _ _ _ => none
  | .bobFree _ _ => none
  | .bobDone _ _ => none
  | .instanceAbort _ _ _ => none
  | .partnerAbortNotice _ _ _ => none
  | .hostWindowRead _ _ _ => none
  | .hostWindowWrite _ _ _ => none
  | .hostCompletionTimeout _ => none
  | .peerRequest _ _ _ _ => none
  | .remoteResponse _ _ => none
  | .peerRequestTimeout _ => none
  | .unfence _ => none
  | .holdNotice _ => none
  | .holdQuietExpire _ => none
  | .holdLimitExpire _ => none
  | .holdNoticeSend => none
  | .portRetrain _ => none
  | .portTransferComplete _ _ _ _ _ _ => none
  | .timeInputLock _ => none
  | .timeInputLoss => none
  | .bastingIntervalTimeout _ => none
  | .uncorrectableError _ _ _ => none
  | .rollbackRequest _ => none
  | .correctableError _ _ _ => none
  | .arrayRowTest _ _ => none
  | .krowRetire _ _ => none
  | .gangWatchdog _ => none
  | .gaugeClear _ => none
  | .samplerSample _ _ => none
  | .registerWrite _ _ _ _ => none
  | .reservedOrIllegalWord => none
  | .evictionComplete _ => none
  | .partitionReassign _ _ => none
  | .communicatorEnClear _ => none
  | .portRetrainComplete _ => none
  | .linkRetryIntervalEnd _ _ => none
  | .corePowerGate _ => none
  | .corePowerUngate _ => none

/-- The instruction is one the encodings allow. -/
abbrev Instr.WellFormed (i : Instr) : Prop := i.reject = none

end Sys2Proof
end

