-- ==== Sys2Proof/Decode.lean ====
section
/-! DEFINITION. Decoding and encoding of instructions (spec/02_encoding_and_assembly.md R36, R37, R43, R44; spec/03_opcode_map.md R52 to R57).
A field is named by its lowest bit and its length, as the tables of the spec give it. -/

namespace Sys2Proof

/-- Bits `lo` to `lo + len - 1` of a word (R3). -/
def bits (w : Word) (lo len : Nat) : BitVec len := w.extractLsb' lo len
/-- One bit of a word. -/
def flag (w : Word) (i : Nat) : Bool := w.getLsbD i
/-- F of the R format (R43). -/
def fF (w : Word) : BitVec 3 := bits w 29 3
/-- B of the R format (R43). -/
def fB (w : Word) : Reg := bits w 22 7
/-- A (R43). -/
def fA (w : Word) : Reg := bits w 15 7
/-- D (R43). -/
def fD (w : Word) : Reg := bits w 8 7
/-- The tack bit (R38). -/
def fT (w : Word) : Bool := flag w 1
/-- MAJ (R43). -/
def fMaj (w : Word) : BitVec 6 := bits w 2 6

/-- The instruction, where every named field is 0; else the word breaks R55. A field is given by its lowest bit and its length. -/
def needZero (w : Word) (fields : List (Nat × Nat)) (i : Instr) : Except Reject Instr :=
  if fields.all (fun p => bits w p.1 p.2 == 0) then .ok i else .error .mustBeZero

/-- MAJ 0x01 (R53). -/
def decIalu (w : Word) : Except Reject Instr :=
  match (fF w).toNat with
  | 0 => .ok (.add (fD w) (fA w) (fB w) (fT w))
  | 1 => .ok (.sub (fD w) (fA w) (fB w) (fT w))
  | 2 => .ok (.and (fD w) (fA w) (fB w) (fT w))
  | 3 => .ok (.or (fD w) (fA w) (fB w) (fT w))
  | 4 => .ok (.xor (fD w) (fA w) (fB w) (fT w))
  | 5 => .ok (.andn (fD w) (fA w) (fB w) (fT w))
  | 6 => .ok (.addc (fD w) (fA w) (fB w) (fT w))
  | 7 => .ok (.subb (fD w) (fA w) (fB w) (fT w))
  | _ => .error .reservedSelector

/-- MAJ 0x02 (R53). -/
def decImul (w : Word) : Except Reject Instr :=
  match (fF w).toNat with
  | 0 => .ok (.mul (fD w) (fA w) (fB w) (fT w))
  | 1 => .ok (.mulhs (fD w) (fA w) (fB w) (fT w))
  | 2 => .ok (.mulhu (fD w) (fA w) (fB w) (fT w))
  | 3 => .ok (.mulhsu (fD w) (fA w) (fB w) (fT w))
  | 4 => .ok (.mins (fD w) (fA w) (fB w) (fT w))
  | 5 => .ok (.maxs (fD w) (fA w) (fB w) (fT w))
  | 6 => .ok (.minu (fD w) (fA w) (fB w) (fT w))
  | 7 => .ok (.maxu (fD w) (fA w) (fB w) (fT w))
  | _ => .error .reservedSelector

/-- MAJ 0x03 (R53). -/
def decShf (w : Word) : Except Reject Instr :=
  match (fF w).toNat with
  | 0 => .ok (.shl (fD w) (fA w) (fB w) (fT w))
  | 1 => .ok (.shr (fD w) (fA w) (fB w) (fT w))
  | 2 => .ok (.sar (fD w) (fA w) (fB w) (fT w))
  | 3 => .ok (.rol (fD w) (fA w) (fB w) (fT w))
  | 4 => .ok (.ror (fD w) (fA w) (fB w) (fT w))
  | 5 => .ok (.fshl (fD w) (fA w) (fB w) (fT w))
  | 6 => .ok (.fshr (fD w) (fA w) (fB w) (fT w))
  | _ => .error .reservedSelector

/-- MAJ 0x04 (R53). -/
def decBits (w : Word) : Except Reject Instr :=
  match (fF w).toNat with
  | 0 => .ok (.bfxn (fD w) (fA w) (fB w) (fT w))
  | 1 => .ok (.bfxs (fD w) (fA w) (fB w) (fT w))
  | 2 => .ok (.bfi (fD w) (fA w) (fB w) (fT w))
  | 3 => needZero w [(15, 7)] (.bmsk (fD w) (fB w) (fT w))
  | 4 => needZero w [(22, 7)] (.clz (fD w) (fA w) (fT w))
  | 5 => needZero w [(22, 7)] (.ctz (fD w) (fA w) (fT w))
  | 6 => needZero w [(22, 7)] (.popc (fD w) (fA w) (fT w))
  | 7 => needZero w [(22, 7)] (.brev (fD w) (fA w) (fT w))
  | _ => .error .reservedSelector

/-- MAJ 0x05 (R53). -/
def decIdiv (w : Word) : Except Reject Instr :=
  match (fF w).toNat with
  | 0 => .ok (.divs (fD w) (fA w) (fB w) (fT w))
  | 1 => .ok (.divn (fD w) (fA w) (fB w) (fT w))
  | 2 => .ok (.rems (fD w) (fA w) (fB w) (fT w))
  | 3 => .ok (.remn (fD w) (fA w) (fB w) (fT w))
  | _ => .error .reservedSelector

/-- MAJ 0x06 (R53). -/
def decImad (w : Word) : Except Reject Instr :=
  match (fF w).toNat with
  | 0 => .ok (.mad (fD w) (fA w) (fB w) (fT w))
  | 1 => .ok (.madhs (fD w) (fA w) (fB w) (fT w))
  | 2 => .ok (.madhn (fD w) (fA w) (fB w) (fT w))
  | 3 => .ok (.mad64s (fD w) (fA w) (fB w) (fT w))
  | 4 => .ok (.mad64n (fD w) (fA w) (fB w) (fT w))
  | 5 => .ok (.sad (fD w) (fA w) (fB w) (fT w))
  | _ => .error .reservedSelector

/-- MAJ 0x07 (R53). -/
def decIcmp (w : Word) : Except Reject Instr :=
  match (fF w).toNat with
  | 0 => needZero w [(11, 4)] (.icmpEq (bits w 8 3) (fA w) (fB w) (fT w))
  | 1 => needZero w [(11, 4)] (.icmpNe (bits w 8 3) (fA w) (fB w) (fT w))
  | 2 => needZero w [(11, 4)] (.icmpLt (bits w 8 3) (fA w) (fB w) (fT w))
  | 3 => needZero w [(11, 4)] (.icmpLe (bits w 8 3) (fA w) (fB w) (fT w))
  | 4 => needZero w [(11, 4)] (.icmpLtn (bits w 8 3) (fA w) (fB w) (fT w))
  | 5 => needZero w [(11, 4)] (.icmpLen (bits w 8 3) (fA w) (fB w) (fT w))
  | 6 => needZero w [(11, 4)] (.icmpTst (bits w 8 3) (fA w) (fB w) (fT w))
  | _ => .error .reservedSelector

/-- MAJ 0x08 (R53). -/
def decAddi (w : Word) : Except Reject Instr :=
  .ok (.addi (fD w) (fA w) (bits w 22 10) (fT w))

/-- MAJ 0x09 (R53). -/
def decAndi (w : Word) : Except Reject Instr :=
  .ok (.andi (fD w) (fA w) (bits w 22 10) (fT w))

/-- MAJ 0x0A (R53). -/
def decOri (w : Word) : Except Reject Instr :=
  .ok (.ori (fD w) (fA w) (bits w 22 10) (fT w))

/-- MAJ 0x0B (R53). -/
def decXori (w : Word) : Except Reject Instr :=
  .ok (.xori (fD w) (fA w) (bits w 22 10) (fT w))

/-- MAJ 0x0C (R53). -/
def decShfi (w : Word) : Except Reject Instr :=
  match (bits w 27 3).toNat with
  | 0 => needZero w [(30, 2)] (.shfiShl (fD w) (fA w) (bits w 22 5) (fT w))
  | 1 => needZero w [(30, 2)] (.shfiShr (fD w) (fA w) (bits w 22 5) (fT w))
  | 2 => needZero w [(30, 2)] (.shfiSar (fD w) (fA w) (bits w 22 5) (fT w))
  | 3 => needZero w [(30, 2)] (.shfiRol (fD w) (fA w) (bits w 22 5) (fT w))
  | 4 => needZero w [(30, 2)] (.shfiRor (fD w) (fA w) (bits w 22 5) (fT w))
  | _ => .error .reservedSelector

/-- MAJ 0x0D (R53). -/
def decIcmpi (w : Word) : Except Reject Instr :=
  match (bits w 11 4).toNat with
  | 0 => .ok (.icmpiEq (bits w 8 3) (fA w) (bits w 22 10) (fT w))
  | 1 => .ok (.icmpiNe (bits w 8 3) (fA w) (bits w 22 10) (fT w))
  | 2 => .ok (.icmpiLt (bits w 8 3) (fA w) (bits w 22 10) (fT w))
  | 3 => .ok (.icmpiLe (bits w 8 3) (fA w) (bits w 22 10) (fT w))
  | 4 => .ok (.icmpiGt (bits w 8 3) (fA w) (bits w 22 10) (fT w))
  | 5 => .ok (.icmpiGe (bits w 8 3) (fA w) (bits w 22 10) (fT w))
  | 6 => .ok (.icmpiLtn (bits w 8 3) (fA w) (bits w 22 10) (fT w))
  | 7 => .ok (.icmpiLen (bits w 8 3) (fA w) (bits w 22 10) (fT w))
  | 8 => .ok (.icmpiGtn (bits w 8 3) (fA w) (bits w 22 10) (fT w))
  | 9 => .ok (.icmpiGen (bits w 8 3) (fA w) (bits w 22 10) (fT w))
  | _ => .error .reservedSelector

/-- MAJ 0x0E (R53). -/
def decLi (w : Word) : Except Reject Instr :=
  .ok (.li (fD w) (bits w 15 17) (fT w))

/-- MAJ 0x0F (R53). -/
def decLih (w : Word) : Except Reject Instr :=
  needZero w [(30, 2)] (.lih (fD w) (bits w 15 15) (fT w))

/-- MAJ 0x10 (R53). -/
def decPred (w : Word) : Except Reject Instr :=
  match (fF w).toNat with
  | 0 => needZero w [(11, 4), (18, 4), (25, 4)] (.pand (bits w 8 3) (bits w 15 3) (bits w 22 3) (fT w))
  | 1 => needZero w [(11, 4), (18, 4), (25, 4)] (.por (bits w 8 3) (bits w 15 3) (bits w 22 3) (fT w))
  | 2 => needZero w [(11, 4), (18, 4), (25, 4)] (.pxor (bits w 8 3) (bits w 15 3) (bits w 22 3) (fT w))
  | 3 => needZero w [(11, 4), (18, 11)] (.pnot (bits w 8 3) (bits w 15 3) (fT w))
  | 4 => needZero w [(18, 11)] (.p2g (fD w) (bits w 15 3) (fT w))
  | 5 => needZero w [(11, 4), (22, 7)] (.g2p (bits w 8 3) (fA w) (fT w))
  | _ => .error .reservedSelector

/-- MAJ 0x11 (R53). -/
def decSel (w : Word) : Except Reject Instr :=
  .ok (.sel (fD w) (fA w) (fB w) (fF w) (fT w))

/-- MAJ 0x12 (R53). -/
def decFalu (w : Word) : Except Reject Instr :=
  match (fF w).toNat with
  | 0 => .ok (.fadd (fD w) (fA w) (fB w) (fT w))
  | 1 => .ok (.fsub (fD w) (fA w) (fB w) (fT w))
  | 2 => .ok (.fmul (fD w) (fA w) (fB w) (fT w))
  | 3 => .ok (.fmin (fD w) (fA w) (fB w) (fT w))
  | 4 => .ok (.fmax (fD w) (fA w) (fB w) (fT w))
  | 5 => .ok (.ffma (fD w) (fA w) (fB w) (fT w))
  | 6 => .ok (.ffms (fD w) (fA w) (fB w) (fT w))
  | 7 => .ok (.fcps (fD w) (fA w) (fB w) (fT w))
  | _ => .error .reservedSelector

/-- MAJ 0x13 (R53). -/
def decFcmp (w : Word) : Except Reject Instr :=
  match (fF w).toNat with
  | 0 => needZero w [(11, 4)] (.fcmpEq (bits w 8 3) (fA w) (fB w) (fT w))
  | 1 => needZero w [(11, 4)] (.fcmpNe (bits w 8 3) (fA w) (fB w) (fT w))
  | 2 => needZero w [(11, 4)] (.fcmpLt (bits w 8 3) (fA w) (fB w) (fT w))
  | 3 => needZero w [(11, 4)] (.fcmpLe (bits w 8 3) (fA w) (fB w) (fT w))
  | 4 => needZero w [(11, 4)] (.fcmpUn (bits w 8 3) (fA w) (fB w) (fT w))
  | 5 => needZero w [(11, 4)] (.fcmpOr (bits w 8 3) (fA w) (fB w) (fT w))
  | _ => .error .reservedSelector

/-- MAJ 0x14 (R53). -/
def decFpk (w : Word) : Except Reject Instr :=
  match (fF w).toNat with
  | 0 => .ok (.hadd2 (fD w) (fA w) (fB w) (fT w))
  | 1 => .ok (.hmul2 (fD w) (fA w) (fB w) (fT w))
  | 2 => .ok (.hfma2 (fD w) (fA w) (fB w) (fT w))
  | 3 => .ok (.badd2 (fD w) (fA w) (fB w) (fT w))
  | 4 => .ok (.bmul2 (fD w) (fA w) (fB w) (fT w))
  | 5 => .ok (.bfma2 (fD w) (fA w) (fB w) (fT w))
  | 6 => .ok (.dot2h (fD w) (fA w) (fB w) (fT w))
  | 7 => .ok (.dot2b (fD w) (fA w) (fB w) (fT w))
  | _ => .error .reservedSelector

/-- MAJ 0x15 (R53). -/
def decSfu (w : Word) : Except Reject Instr :=
  match (fF w).toNat with
  | 0 => needZero w [(22, 7)] (.rcp (fD w) (fA w) (fT w))
  | 1 => needZero w [(22, 7)] (.rsq (fD w) (fA w) (fT w))
  | 2 => needZero w [(22, 7)] (.sqrt (fD w) (fA w) (fT w))
  | 3 => needZero w [(22, 7)] (.exp2 (fD w) (fA w) (fT w))
  | 4 => needZero w [(22, 7)] (.log2 (fD w) (fA w) (fT w))
  | 5 => needZero w [(22, 7)] (.sin (fD w) (fA w) (fT w))
  | 6 => needZero w [(22, 7)] (.cos (fD w) (fA w) (fT w))
  | 7 => needZero w [(22, 7)] (.tanh (fD w) (fA w) (fT w))
  | _ => .error .reservedSelector

/-- MAJ 0x16 (R53). -/
def decFdiv (w : Word) : Except Reject Instr :=
  match (fF w).toNat with
  | 0 => .ok (.fdiv (fD w) (fA w) (fB w) (fT w))
  | _ => .error .reservedSelector

/-- MAJ 0x17 (R53). -/
def decCvt (w : Word) : Except Reject Instr :=
  .ok (.cvt (fD w) (fA w) (bits w 30 2) (bits w 26 4) (bits w 22 4) (fT w))

/-- MAJ 0x18 (R53). -/
def decCvt8 (w : Word) : Except Reject Instr :=
  match (bits w 27 1).toNat with
  | 0 => needZero w [(31, 1)] (.cvt8ToByte (fD w) (fA w) (bits w 29 2) (flag w 28) (flag w 26) (flag w 25) (bits w 22 3) (fT w))
  | 1 => needZero w [(28, 4)] (.cvt8FromByte (fD w) (fA w) (flag w 26) (flag w 25) (bits w 22 3) (fT w))
  | _ => .error .reservedSelector

/-- MAJ 0x19 (R53). -/
def decDot4 (w : Word) : Except Reject Instr :=
  match (fF w).toNat with
  | 0 => .ok (.dot4s (fD w) (fA w) (fB w) (fT w))
  | 1 => .ok (.dot4n (fD w) (fA w) (fB w) (fT w))
  | 2 => .ok (.dot4f (fD w) (fA w) (fB w) (fT w))
  | _ => .error .reservedSelector

/-- MAJ 0x1A (R53). -/
def decShfl (w : Word) : Except Reject Instr :=
  match (bits w 30 2).toNat with
  | 0 => .ok (.shflIdx (fD w) (fA w) (bits w 27 3) (bits w 22 5) (fT w))
  | 1 => .ok (.shflUp (fD w) (fA w) (bits w 27 3) (bits w 22 5) (fT w))
  | 2 => .ok (.shflDn (fD w) (fA w) (bits w 27 3) (bits w 22 5) (fT w))
  | 3 => .ok (.shflXor (fD w) (fA w) (bits w 27 3) (bits w 22 5) (fT w))
  | _ => .error .reservedSelector

/-- MAJ 0x1B (R53). -/
def decShflr (w : Word) : Except Reject Instr :=
  match (bits w 30 2).toNat with
  | 0 => .ok (.shflr (fD w) (fA w) (bits w 27 3) (bits w 22 5) (fT w))
  | _ => .error .reservedSelector

/-- MAJ 0x1C (R53). -/
def decVote (w : Word) : Except Reject Instr :=
  match (bits w 30 2).toNat with
  | 0 => needZero w [(11, 4), (18, 9)] (.voteAll (bits w 8 3) (bits w 15 3) (bits w 27 3) (fT w))
  | 1 => needZero w [(11, 4), (18, 9)] (.voteAny (bits w 8 3) (bits w 15 3) (bits w 27 3) (fT w))
  | 2 => needZero w [(11, 4), (18, 9)] (.voteSame (bits w 8 3) (bits w 15 3) (bits w 27 3) (fT w))
  | 3 => needZero w [(18, 9)] (.voteBallot (fD w) (bits w 15 3) (bits w 27 3) (fT w))
  | _ => .error .reservedSelector

/-- MAJ 0x1D (R53). -/
def decFold (w : Word) : Except Reject Instr :=
  match (bits w 22 3).toNat with
  | 0 => .ok (.foldAdd (fD w) (fA w) (bits w 30 2) (bits w 27 3) (bits w 25 2) (fT w))
  | 1 => .ok (.foldMin (fD w) (fA w) (bits w 30 2) (bits w 27 3) (bits w 25 2) (fT w))
  | 2 => .ok (.foldMax (fD w) (fA w) (bits w 30 2) (bits w 27 3) (bits w 25 2) (fT w))
  | 3 => .ok (.foldMinn (fD w) (fA w) (bits w 30 2) (bits w 27 3) (bits w 25 2) (fT w))
  | 4 => .ok (.foldMaxn (fD w) (fA w) (bits w 30 2) (bits w 27 3) (bits w 25 2) (fT w))
  | 5 => .ok (.foldAnd (fD w) (fA w) (bits w 30 2) (bits w 27 3) (bits w 25 2) (fT w))
  | 6 => .ok (.foldOr (fD w) (fA w) (bits w 30 2) (bits w 27 3) (bits w 25 2) (fT w))
  | 7 => .ok (.foldXor (fD w) (fA w) (bits w 30 2) (bits w 27 3) (bits w 25 2) (fT w))
  | _ => .error .reservedSelector

/-- MAJ 0x1E (R53). -/
def decTopk (w : Word) : Except Reject Instr :=
  .ok (.topk (fD w) (fA w) (bits w 30 2) (bits w 27 3) (bits w 22 5) (fT w))

/-- MAJ 0x1F (R53). -/
def decLset (w : Word) : Except Reject Instr :=
  match (bits w 30 2).toNat with
  | 0 => needZero w [(22, 5)] (.lsetEq (fD w) (fA w) (bits w 27 3) (fT w))
  | 1 => needZero w [(11, 4), (22, 5)] (.lsetAlleq (bits w 8 3) (fA w) (bits w 27 3) (fT w))
  | 2 => needZero w [(11, 16)] (.lsetFirst (bits w 8 3) (bits w 27 3) (fT w))
  | 3 => needZero w [(15, 12)] (.lsetLive (fD w) (bits w 27 3) (fT w))
  | _ => .error .reservedSelector

/-- MAJ 0x20 (R53). -/
def decBra (w : Word) : Except Reject Instr :=
  .ok (.bra (bits w 12 20) (bits w 8 3) (flag w 11) (fT w))

/-- MAJ 0x21 (R53). -/
def decCall (w : Word) : Except Reject Instr :=
  .ok (.call (bits w 12 20) (bits w 8 3) (flag w 11) (fT w))

/-- MAJ 0x22 (R53). -/
def decJmpx (w : Word) : Except Reject Instr :=
  match (fF w).toNat with
  | 0 => needZero w [(8, 7), (22, 7)] (.brx (fA w) (fT w))
  | 1 => needZero w [(8, 7), (22, 7)] (.callx (fA w) (fT w))
  | 2 => needZero w [(8, 21)] (.ret (fT w))
  | 3 => needZero w [(8, 21)] (.exit (fT w))
  | _ => .error .reservedSelector

/-- MAJ 0x23 (R53). -/
def decLoop (w : Word) : Except Reject Instr :=
  needZero w [(11, 4)] (.loop (bits w 22 10) (fA w) (flag w 10) (bits w 8 2) (fT w))

/-- MAJ 0x24 (R53). -/
def decSeam (w : Word) : Except Reject Instr :=
  match (bits w 22 10).toNat with
  | 0 => needZero w [(8, 7), (18, 4)] (.seamEnrol (bits w 15 3) (fT w))
  | 1 => needZero w [(8, 7), (18, 4)] (.seamWait (bits w 15 3) (fT w))
  | 2 => needZero w [(8, 7), (18, 4)] (.seamLeave (bits w 15 3) (fT w))
  | 3 => needZero w [(18, 4)] (.seamSmask (fD w) (bits w 15 3) (fT w))
  | _ => .error .reservedSelector

/-- MAJ 0x25 (R53). -/
def decTry (w : Word) : Except Reject Instr :=
  needZero w [(11, 1)] (.tryOpen (bits w 12 20) (bits w 8 3) (fT w))

/-- MAJ 0x26 (R53). -/
def decExc (w : Word) : Except Reject Instr :=
  match (bits w 22 10).toNat with
  | 0 => needZero w [(8, 14)] (.endtry (fT w))
  | 1 => needZero w [(8, 7)] (.throwG (fA w) (fT w))
  | 2 => needZero w [(8, 7)] (.throwi (fA w) (fT w))
  | 3 => needZero w [(8, 14)] (.rethrow (fT w))
  | 4 => needZero w [(8, 7)] (.trap (fA w) (fT w))
  | 5 => needZero w [(8, 14)] (.uret (fT w))
  | 6 => needZero w [(8, 14)] (.uretry (fT w))
  | 7 => needZero w [(8, 14)] (.brk (fT w))
  | _ => .error .reservedSelector

/-- MAJ 0x27 (R53). -/
def decSrd (w : Word) : Except Reject Instr :=
  needZero w [(15, 7)] (.srd (fD w) (bits w 22 10) (fT w))

/-- MAJ 0x28 (R53). -/
def decSwr (w : Word) : Except Reject Instr :=
  needZero w [(8, 7)] (.swr (fA w) (bits w 22 10) (fT w))

/-- MAJ 0x29 (R53). -/
def decMisc (w : Word) : Except Reject Instr :=
  match (bits w 22 10).toNat with
  | 0 => needZero w [(8, 14)] (.nop (fT w))
  | 1 => needZero w [(8, 14)] (.yield (fT w))
  | 2 => needZero w [(8, 7)] (.sleep (fA w) (fT w))
  | 3 => needZero w [(15, 7)] (.clock (fD w) (fT w))
  | 4 => needZero w [(15, 7)] (.ptime (fD w) (fT w))
  | 5 => needZero w [(8, 7)] (.pmark (fA w) (fT w))
  | 6 => needZero w [(8, 14)] (.tflush (fT w))
  | _ => .error .reservedSelector

/-- MAJ 0x2A (R53). -/
def decLd (w : Word) : Except Reject Instr :=
  .ok (.ld (fD w) (flag w 31) (flag w 30) (bits w 28 2) (bits w 21 7) (bits w 15 6) (fT w))

/-- MAJ 0x2B (R53). -/
def decSt (w : Word) : Except Reject Instr :=
  needZero w [(30, 1)] (.st (fD w) (flag w 31) (bits w 28 2) (bits w 21 7) (bits w 15 6) (fT w))

/-- MAJ 0x2C (R53). -/
def decLds (w : Word) : Except Reject Instr :=
  .ok (.lds (fD w) (flag w 31) (flag w 30) (bits w 28 2) (bits w 21 7) (bits w 15 6) (fT w))

/-- MAJ 0x2D (R53). -/
def decSts (w : Word) : Except Reject Instr :=
  needZero w [(30, 1)] (.sts (fD w) (flag w 31) (bits w 28 2) (bits w 21 7) (bits w 15 6) (fT w))

/-- MAJ 0x2E (R53). -/
def decLdc (w : Word) : Except Reject Instr :=
  .ok (.ldc (fD w) (flag w 31) (flag w 30) (bits w 28 2) (bits w 21 7) (bits w 15 6) (fT w))

/-- MAJ 0x2F (R53). -/
def decMemo (w : Word) : Except Reject Instr :=
  match (bits w 27 4).toNat with
  | 0 => .ok (.ldo (fD w) (fA w) (flag w 31) (bits w 25 2) (bits w 22 3) (fT w))
  | 1 => .ok (.sto (fD w) (fA w) (flag w 31) (bits w 25 2) (bits w 22 3) (fT w))
  | 2 => .ok (.swap (fD w) (fA w) (flag w 31) (bits w 25 2) (bits w 22 3) (fT w))
  | 3 => .ok (.cas (fD w) (fA w) (flag w 31) (bits w 25 2) (bits w 22 3) (fT w))
  | 4 => .ok (.amoAdd (fD w) (fA w) (flag w 31) (bits w 25 2) (bits w 22 3) (fT w))
  | 5 => .ok (.amoAnd (fD w) (fA w) (flag w 31) (bits w 25 2) (bits w 22 3) (fT w))
  | 6 => .ok (.amoOr (fD w) (fA w) (flag w 31) (bits w 25 2) (bits w 22 3) (fT w))
  | 7 => .ok (.amoXor (fD w) (fA w) (flag w 31) (bits w 25 2) (bits w 22 3) (fT w))
  | 8 => .ok (.amoMins (fD w) (fA w) (flag w 31) (bits w 25 2) (bits w 22 3) (fT w))
  | 9 => .ok (.amoMaxs (fD w) (fA w) (flag w 31) (bits w 25 2) (bits w 22 3) (fT w))
  | 10 => .ok (.amoMinn (fD w) (fA w) (flag w 31) (bits w 25 2) (bits w 22 3) (fT w))
  | 11 => .ok (.amoMaxn (fD w) (fA w) (flag w 31) (bits w 25 2) (bits w 22 3) (fT w))
  | 12 => .ok (.amoInc (fD w) (fA w) (flag w 31) (bits w 25 2) (bits w 22 3) (fT w))
  | 13 => .ok (.amoDec (fD w) (fA w) (flag w 31) (bits w 25 2) (bits w 22 3) (fT w))
  | 14 => needZero w [(31, 1)] (.amoAddf (fD w) (fA w) (bits w 25 2) (bits w 22 3) (fT w))
  | _ => .error .reservedSelector

/-- MAJ 0x30 (R53). -/
def decPhase (w : Word) : Except Reject Instr :=
  match (bits w 22 10).toNat with
  | 0 => needZero w [(8, 7), (18, 4)] (.pub (bits w 15 3) (fT w))
  | 1 => needZero w [(8, 7), (18, 4)] (.rfsh (bits w 15 3) (fT w))
  | 2 => needZero w [(8, 7), (18, 4)] (.phase (bits w 15 3) (fT w))
  | _ => .error .reservedSelector

/-- MAJ 0x31 (R53). -/
def decEng (w : Word) : Except Reject Instr :=
  match (bits w 26 6).toNat with
  | 0 => needZero w [(23, 3)] (.acopyG2s (bits w 20 3) (bits w 14 6) (bits w 8 6) (fT w))
  | 1 => needZero w [(23, 3)] (.acopyS2g (bits w 20 3) (bits w 14 6) (bits w 8 6) (fT w))
  | 2 => needZero w [(23, 3)] (.acopyG2o (bits w 20 3) (bits w 14 6) (bits w 8 6) (fT w))
  | 3 => needZero w [(23, 3)] (.acopyS2o (bits w 20 3) (bits w 14 6) (bits w 8 6) (fT w))
  | 4 => needZero w [(23, 3)] (.acopyA2s (bits w 20 3) (bits w 14 6) (bits w 8 6) (fT w))
  | 5 => needZero w [(23, 3)] (.acopyS2a (bits w 20 3) (bits w 14 6) (bits w 8 6) (fT w))
  | 6 => needZero w [(23, 3)] (.acopyA2g (bits w 20 3) (bits w 14 6) (bits w 8 6) (fT w))
  | 7 => needZero w [(23, 3)] (.gather (bits w 20 3) (bits w 14 6) (bits w 8 6) (fT w))
  | 8 => needZero w [(23, 3)] (.scatter (bits w 20 3) (bits w 14 6) (bits w 8 6) (fT w))
  | 9 => needZero w [(23, 3)] (.kick (bits w 20 3) (bits w 14 6) (bits w 8 6) (fT w))
  | 10 => needZero w [(8, 6)] (.qfence (bits w 20 6) (bits w 14 6) (fT w))
  | _ => .error .reservedSelector

/-- MAJ 0x32 (R53). -/
def decMtx (w : Word) : Except Reject Instr :=
  match (bits w 26 6).toNat with
  | 0 => needZero w [(8, 12), (24, 2)] (.claim (bits w 20 4) (fT w))
  | 1 => needZero w [(8, 12), (24, 2)] (.release (bits w 20 4) (fT w))
  | 2 => needZero w [(20, 6)] (.wload (bits w 14 6) (bits w 8 6) (fT w))
  | 3 => .ok (.mma (bits w 20 4) (flag w 25) (flag w 24) (bits w 14 6) (bits w 8 6) (fT w))
  | 4 => .ok (.bind (bits w 20 4) (flag w 25) (flag w 24) (bits w 14 6) (bits w 8 6) (fT w))
  | 5 => needZero w [(8, 6), (24, 2)] (.acczero (bits w 20 4) (bits w 14 6) (fT w))
  | 6 => needZero w [(8, 18)] (.thmtake (fT w))
  | 7 =>
    match (bits w 20 6).toNat with
    | 0 => needZero w [(8, 12)] (.thmpass (fT w))
    | 1 => needZero w [(8, 12)] (.thmpassFree (fT w))
    | _ => .error .reservedSelector
  | 8 => needZero w [(20, 6)] (.trans (bits w 14 6) (bits w 8 6) (fT w))
  | 9 =>
    match (bits w 20 6).toNat with
    | 0 => .ok (.tscaleSet (bits w 14 6) (bits w 8 6) (fT w))
    | 1 => .ok (.tscaleMul (bits w 14 6) (bits w 8 6) (fT w))
    | 2 => .ok (.tscaleMuls (bits w 14 6) (bits w 8 6) (fT w))
    | _ => .error .reservedSelector
  | 10 => needZero w [(14, 6), (24, 2)] (.aclaim (bits w 20 4) (bits w 8 6) (fT w))
  | 11 => needZero w [(8, 12), (24, 2)] (.afree (bits w 20 4) (fT w))
  | _ => .error .reservedSelector

/-- MAJ 0x33 (R53). -/
def decTslr (w : Word) : Except Reject Instr :=
  .ok (.tslr (fD w) (bits w 26 6) (bits w 20 6) (flag w 19) (bits w 15 4) (fT w))

/-- MAJ 0x34 (R53). -/
def decTslw (w : Word) : Except Reject Instr :=
  .ok (.tslw (fD w) (bits w 26 6) (bits w 20 6) (flag w 19) (bits w 15 4) (fT w))

/-- MAJ 0x35 (R53). -/
def decBar (w : Word) : Except Reject Instr :=
  match (bits w 22 10).toNat with
  | 0 => needZero w [(8, 7), (18, 4)] (.bar (bits w 15 3) (fT w))
  | 1 => needZero w [(8, 7), (18, 4)] (.bararr (bits w 15 3) (fT w))
  | 2 => needZero w [(8, 7), (18, 4)] (.barwait (bits w 15 3) (fT w))
  | 3 => .ok (.bobjinit (fD w) (fA w) (fT w))
  | 4 => .ok (.bobjexp (fD w) (fA w) (fT w))
  | 5 => needZero w [(8, 7)] (.bobjwait (fA w) (fT w))
  | _ => .error .reservedSelector

/-- MAJ 0x36 (R53). -/
def decTask (w : Word) : Except Reject Instr :=
  match (bits w 22 10).toNat with
  | 0 => .ok (.spawn (fD w) (fA w) (fT w))
  | 1 => needZero w [(8, 14)] (.tend (fT w))
  | 2 => .ok (.epush (fD w) (fA w) (fT w))
  | 3 => .ok (.epop (fD w) (fA w) (fT w))
  | 4 => needZero w [(8, 7)] (.efree (fA w) (fT w))
  | 5 => .ok (.admitD (fD w) (fA w) (fT w))
  | 6 => needZero w [(8, 7)] (.tcbdone (fA w) (fT w))
  | _ => .error .reservedSelector

/-- The instruction of a 32-bit word by its major (R52), the operands not yet checked. -/
def decodeFields (w : Word) : Except Reject Instr :=
  match (fMaj w).toNat with
  | 0 => .ok .ill32
  | 1 => decIalu w
  | 2 => decImul w
  | 3 => decShf w
  | 4 => decBits w
  | 5 => decIdiv w
  | 6 => decImad w
  | 7 => decIcmp w
  | 8 => decAddi w
  | 9 => decAndi w
  | 10 => decOri w
  | 11 => decXori w
  | 12 => decShfi w
  | 13 => decIcmpi w
  | 14 => decLi w
  | 15 => decLih w
  | 16 => decPred w
  | 17 => decSel w
  | 18 => decFalu w
  | 19 => decFcmp w
  | 20 => decFpk w
  | 21 => decSfu w
  | 22 => decFdiv w
  | 23 => decCvt w
  | 24 => decCvt8 w
  | 25 => decDot4 w
  | 26 => decShfl w
  | 27 => decShflr w
  | 28 => decVote w
  | 29 => decFold w
  | 30 => decTopk w
  | 31 => decLset w
  | 32 => decBra w
  | 33 => decCall w
  | 34 => decJmpx w
  | 35 => decLoop w
  | 36 => decSeam w
  | 37 => decTry w
  | 38 => decExc w
  | 39 => decSrd w
  | 40 => decSwr w
  | 41 => decMisc w
  | 42 => decLd w
  | 43 => decSt w
  | 44 => decLds w
  | 45 => decSts w
  | 46 => decLdc w
  | 47 => decMemo w
  | 48 => decPhase w
  | 49 => decEng w
  | 50 => decMtx w
  | 51 => decTslr w
  | 52 => decTslw w
  | 53 => decBar w
  | 54 => decTask w
  | _ => .error .reservedMajor

/-- The instruction of a 32-bit word, or why it is none (R52 to R57). -/
def decodeWord (w : Word) : Except Reject Instr :=
  match decodeFields w with
  | .error r => .error r
  | .ok i =>
    match i.reject with
    | some r => .error r
    | none => .ok i

/-- The instruction of a 16-bit word: every one is an instruction, the halfword 0 being ILL (R37, R44, R54). -/
def decodeHalf (h : Half) : Instr :=
  let d : BitVec 6 := h.extractLsb' 5 6
  let b : BitVec 5 := h.extractLsb' 11 5
  match (h.extractLsb' 1 4).toNat with
  | 0 => if h = 0 then .ill16 else .cMov d b
  | 1 => .cAdd d b
  | 2 => .cSub d b
  | 3 => .cAnd d b
  | 4 => .cOr d b
  | 5 => .cXor d b
  | 6 => .cShl d b
  | 7 => .cShr d b
  | 8 => .cSar d b
  | 9 => .cMul d b
  | 10 => .cMins d b
  | 11 => .cMaxs d b
  | 12 => .cFadd d b
  | 13 => .cFmul d b
  | 14 => .addi5 d b
  | _ => .li5 d b

/-- The length in bytes of the instruction whose first byte is given (R36). -/
def lengthOf (b : Byte) : Nat := if b.getLsbD 0 then 4 else 2

/-- A word from its bytes, the first at the lowest address (R3). -/
def ofBytes (w : Nat) : List Byte → BitVec w
  | [] => 0
  | b :: rest => b.setWidth w ||| (ofBytes w rest <<< 8)

/-- The bytes of a word, the lowest address first (R3). -/
def toBytes {w : Nat} (n : Nat) (x : BitVec w) : List Byte :=
  match n with
  | 0 => []
  | n + 1 => x.setWidth 8 :: toBytes n (x >>> 8)

/-- The instruction at the head of some bytes, with the bytes after it; or why the word there is none (R36, R57). -/
def decode : List Byte → Except Reject (Instr × List Byte)
  | b0 :: b1 :: rest =>
    if lengthOf b0 = 2 then .ok (decodeHalf (ofBytes 16 [b0, b1]), rest)
    else
      match rest with
      | b2 :: b3 :: rest' =>
        match decodeWord (ofBytes 32 [b0, b1, b2, b3]) with
        | .ok i => .ok (i, rest')
        | .error r => .error r
      | _ => .error .truncated
  | _ => .error .truncated

/-- What the decoder reads from the bits of one row of the spec's table: the bytes in their order, zeros above them. -/
def decodeTableWord (nbits w : Nat) : Option Instr :=
  match decode (toBytes 4 (BitVec.ofNat 32 (w % 2 ^ nbits))) with
  | .ok (i, _) => some i
  | .error _ => none

/-! The encoder, written from the same tables. -/

/-- A bit as a number. -/
def bitNat (b : Bool) : Nat := b.toNat
/-- A 32-bit word: bits 31 to 8, the major, the tack bit, and the length bit (R36, R43). -/
def packW (body maj : Nat) (t : Bool) : Word := BitVec.ofNat 32 (body * 256 + maj * 4 + bitNat t * 2 + 1)
/-- The R format (R43). -/
def packR (f b a d maj : Nat) (t : Bool) : Word := packW (f * 2 ^ 21 + b * 2 ^ 14 + a * 2 ^ 7 + d) maj t
/-- The I format, and the X format with SUB10 for IMM10 (R43). -/
def packI (imm a d maj : Nat) (t : Bool) : Word := packW (imm * 2 ^ 14 + a * 2 ^ 7 + d) maj t
/-- The U format (R43). -/
def packU (imm d maj : Nat) (t : Bool) : Word := packW (imm * 2 ^ 7 + d) maj t
/-- The B and TRY formats: DISP20, N (0 for TRY), P or LV (R43). -/
def packB (disp n p maj : Nat) (t : Bool) : Word := packW (disp * 2 ^ 4 + n * 2 ^ 3 + p) maj t
/-- The M format (R43). -/
def packM (q g s d maj : Nat) (t : Bool) : Word := packW (q * 2 ^ 20 + g * 2 ^ 13 + s * 2 ^ 7 + d) maj t
/-- The O format (R43). -/
def packO (z op se sc a d maj : Nat) (t : Bool) : Word :=
  packW (z * 2 ^ 23 + op * 2 ^ 19 + se * 2 ^ 17 + sc * 2 ^ 14 + a * 2 ^ 7 + d) maj t
/-- The L format (R43). -/
def packL (mode m k a d maj : Nat) (t : Bool) : Word := packW (mode * 2 ^ 22 + m * 2 ^ 19 + k * 2 ^ 14 + a * 2 ^ 7 + d) maj t
/-- The E format (R43). -/
def packE (f6 n tok s maj : Nat) (t : Bool) : Word := packW (f6 * 2 ^ 18 + n * 2 ^ 12 + tok * 2 ^ 6 + s) maj t
/-- The TS format (R43). -/
def packT (imm s rc o d maj : Nat) (t : Bool) : Word := packW (imm * 2 ^ 18 + s * 2 ^ 12 + rc * 2 ^ 11 + o * 2 ^ 7 + d) maj t
/-- The 16-bit C format (R44). -/
def packC (b d op : Nat) : Half := BitVec.ofNat 16 (b * 2 ^ 11 + d * 2 ^ 5 + op * 2)

/-- The 32-bit word of an instruction; none for a 16-bit instruction and for a step that has no encoding. -/
def encodeWord : Instr → Option Word
  | .add d a b t => some (packR 0 (b.toNat) (a.toNat) (d.toNat) 1 t)
  | .sub d a b t => some (packR 1 (b.toNat) (a.toNat) (d.toNat) 1 t)
  | .and d a b t => some (packR 2 (b.toNat) (a.toNat) (d.toNat) 1 t)
  | .or d a b t => some (packR 3 (b.toNat) (a.toNat) (d.toNat) 1 t)
  | .xor d a b t => some (packR 4 (b.toNat) (a.toNat) (d.toNat) 1 t)
  | .andn d a b t => some (packR 5 (b.toNat) (a.toNat) (d.toNat) 1 t)
  | .addc d a b t => some (packR 6 (b.toNat) (a.toNat) (d.toNat) 1 t)
  | .subb d a b t => some (packR 7 (b.toNat) (a.toNat) (d.toNat) 1 t)
  | .mul d a b t => some (packR 0 (b.toNat) (a.toNat) (d.toNat) 2 t)
  | .mulhs d a b t => some (packR 1 (b.toNat) (a.toNat) (d.toNat) 2 t)
  | .mulhu d a b t => some (packR 2 (b.toNat) (a.toNat) (d.toNat) 2 t)
  | .mulhsu d a b t => some (packR 3 (b.toNat) (a.toNat) (d.toNat) 2 t)
  | .mins d a b t => some (packR 4 (b.toNat) (a.toNat) (d.toNat) 2 t)
  | .maxs d a b t => some (packR 5 (b.toNat) (a.toNat) (d.toNat) 2 t)
  | .minu d a b t => some (packR 6 (b.toNat) (a.toNat) (d.toNat) 2 t)
  | .maxu d a b t => some (packR 7 (b.toNat) (a.toNat) (d.toNat) 2 t)
  | .shl d a b t => some (packR 0 (b.toNat) (a.toNat) (d.toNat) 3 t)
  | .shr d a b t => some (packR 1 (b.toNat) (a.toNat) (d.toNat) 3 t)
  | .sar d a b t => some (packR 2 (b.toNat) (a.toNat) (d.toNat) 3 t)
  | .rol d a b t => some (packR 3 (b.toNat) (a.toNat) (d.toNat) 3 t)
  | .ror d a b t => some (packR 4 (b.toNat) (a.toNat) (d.toNat) 3 t)
  | .fshl d a b t => some (packR 5 (b.toNat) (a.toNat) (d.toNat) 3 t)
  | .fshr d a b t => some (packR 6 (b.toNat) (a.toNat) (d.toNat) 3 t)
  | .bfxn d a b t => some (packR 0 (b.toNat) (a.toNat) (d.toNat) 4 t)
  | .bfxs d a b t => some (packR 1 (b.toNat) (a.toNat) (d.toNat) 4 t)
  | .bfi d a b t => some (packR 2 (b.toNat) (a.toNat) (d.toNat) 4 t)
  | .bmsk d b t => some (packR 3 (b.toNat) 0 (d.toNat) 4 t)
  | .clz d a t => some (packR 4 0 (a.toNat) (d.toNat) 4 t)
  | .ctz d a t => some (packR 5 0 (a.toNat) (d.toNat) 4 t)
  | .popc d a t => some (packR 6 0 (a.toNat) (d.toNat) 4 t)
  | .brev d a t => some (packR 7 0 (a.toNat) (d.toNat) 4 t)
  | .divs d a b t => some (packR 0 (b.toNat) (a.toNat) (d.toNat) 5 t)
  | .divn d a b t => some (packR 1 (b.toNat) (a.toNat) (d.toNat) 5 t)
  | .rems d a b t => some (packR 2 (b.toNat) (a.toNat) (d.toNat) 5 t)
  | .remn d a b t => some (packR 3 (b.toNat) (a.toNat) (d.toNat) 5 t)
  | .mad d a b t => some (packR 0 (b.toNat) (a.toNat) (d.toNat) 6 t)
  | .madhs d a b t => some (packR 1 (b.toNat) (a.toNat) (d.toNat) 6 t)
  | .madhn d a b t => some (packR 2 (b.toNat) (a.toNat) (d.toNat) 6 t)
  | .mad64s d a b t => some (packR 3 (b.toNat) (a.toNat) (d.toNat) 6 t)
  | .mad64n d a b t => some (packR 4 (b.toNat) (a.toNat) (d.toNat) 6 t)
  | .sad d a b t => some (packR 5 (b.toNat) (a.toNat) (d.toNat) 6 t)
  | .icmpEq p a b t => some (packR 0 (b.toNat) (a.toNat) (p.toNat) 7 t)
  | .icmpNe p a b t => some (packR 1 (b.toNat) (a.toNat) (p.toNat) 7 t)
  | .icmpLt p a b t => some (packR 2 (b.toNat) (a.toNat) (p.toNat) 7 t)
  | .icmpLe p a b t => some (packR 3 (b.toNat) (a.toNat) (p.toNat) 7 t)
  | .icmpLtn p a b t => some (packR 4 (b.toNat) (a.toNat) (p.toNat) 7 t)
  | .icmpLen p a b t => some (packR 5 (b.toNat) (a.toNat) (p.toNat) 7 t)
  | .icmpTst p a b t => some (packR 6 (b.toNat) (a.toNat) (p.toNat) 7 t)
  | .addi d a i t => some (packI (i.toNat) (a.toNat) (d.toNat) 8 t)
  | .andi d a i t => some (packI (i.toNat) (a.toNat) (d.toNat) 9 t)
  | .ori d a i t => some (packI (i.toNat) (a.toNat) (d.toNat) 10 t)
  | .xori d a i t => some (packI (i.toNat) (a.toNat) (d.toNat) 11 t)
  | .shfiShl d a n t => some (packI (n.toNat) (a.toNat) (d.toNat) 12 t)
  | .shfiShr d a n t => some (packI (n.toNat + 32) (a.toNat) (d.toNat) 12 t)
  | .shfiSar d a n t => some (packI (n.toNat + 64) (a.toNat) (d.toNat) 12 t)
  | .shfiRol d a n t => some (packI (n.toNat + 96) (a.toNat) (d.toNat) 12 t)
  | .shfiRor d a n t => some (packI (n.toNat + 128) (a.toNat) (d.toNat) 12 t)
  | .icmpiEq p a i t => some (packI (i.toNat) (a.toNat) (p.toNat) 13 t)
  | .icmpiNe p a i t => some (packI (i.toNat) (a.toNat) (p.toNat + 8) 13 t)
  | .icmpiLt p a i t => some (packI (i.toNat) (a.toNat) (p.toNat + 16) 13 t)
  | .icmpiLe p a i t => some (packI (i.toNat) (a.toNat) (p.toNat + 24) 13 t)
  | .icmpiGt p a i t => some (packI (i.toNat) (a.toNat) (p.toNat + 32) 13 t)
  | .icmpiGe p a i t => some (packI (i.toNat) (a.toNat) (p.toNat + 40) 13 t)
  | .icmpiLtn p a i t => some (packI (i.toNat) (a.toNat) (p.toNat + 48) 13 t)
  | .icmpiLen p a i t => some (packI (i.toNat) (a.toNat) (p.toNat + 56) 13 t)
  | .icmpiGtn p a i t => some (packI (i.toNat) (a.toNat) (p.toNat + 64) 13 t)
  | .icmpiGen p a i t => some (packI (i.toNat) (a.toNat) (p.toNat + 72) 13 t)
  | .li d i t => some (packU (i.toNat) (d.toNat) 14 t)
  | .lih d i t => some (packU (i.toNat) (d.toNat) 15 t)
  | .pand p a b t => some (packR 0 (b.toNat) (a.toNat) (p.toNat) 16 t)
  | .por p a b t => some (packR 1 (b.toNat) (a.toNat) (p.toNat) 16 t)
  | .pxor p a b t => some (packR 2 (b.toNat) (a.toNat) (p.toNat) 16 t)
  | .pnot p a t => some (packR 3 0 (a.toNat) (p.toNat) 16 t)
  | .p2g d a t => some (packR 4 0 (a.toNat) (d.toNat) 16 t)
  | .g2p p a t => some (packR 5 0 (a.toNat) (p.toNat) 16 t)
  | .sel d a b f t => some (packR (f.toNat) (b.toNat) (a.toNat) (d.toNat) 17 t)
  | .fadd d a b t => some (packR 0 (b.toNat) (a.toNat) (d.toNat) 18 t)
  | .fsub d a b t => some (packR 1 (b.toNat) (a.toNat) (d.toNat) 18 t)
  | .fmul d a b t => some (packR 2 (b.toNat) (a.toNat) (d.toNat) 18 t)
  | .fmin d a b t => some (packR 3 (b.toNat) (a.toNat) (d.toNat) 18 t)
  | .fmax d a b t => some (packR 4 (b.toNat) (a.toNat) (d.toNat) 18 t)
  | .ffma d a b t => some (packR 5 (b.toNat) (a.toNat) (d.toNat) 18 t)
  | .ffms d a b t => some (packR 6 (b.toNat) (a.toNat) (d.toNat) 18 t)
  | .fcps d a b t => some (packR 7 (b.toNat) (a.toNat) (d.toNat) 18 t)
  | .fcmpEq p a b t => some (packR 0 (b.toNat) (a.toNat) (p.toNat) 19 t)
  | .fcmpNe p a b t => some (packR 1 (b.toNat) (a.toNat) (p.toNat) 19 t)
  | .fcmpLt p a b t => some (packR 2 (b.toNat) (a.toNat) (p.toNat) 19 t)
  | .fcmpLe p a b t => some (packR 3 (b.toNat) (a.toNat) (p.toNat) 19 t)
  | .fcmpUn p a b t => some (packR 4 (b.toNat) (a.toNat) (p.toNat) 19 t)
  | .fcmpOr p a b t => some (packR 5 (b.toNat) (a.toNat) (p.toNat) 19 t)
  | .hadd2 d a b t => some (packR 0 (b.toNat) (a.toNat) (d.toNat) 20 t)
  | .hmul2 d a b t => some (packR 1 (b.toNat) (a.toNat) (d.toNat) 20 t)
  | .hfma2 d a b t => some (packR 2 (b.toNat) (a.toNat) (d.toNat) 20 t)
  | .badd2 d a b t => some (packR 3 (b.toNat) (a.toNat) (d.toNat) 20 t)
  | .bmul2 d a b t => some (packR 4 (b.toNat) (a.toNat) (d.toNat) 20 t)
  | .bfma2 d a b t => some (packR 5 (b.toNat) (a.toNat) (d.toNat) 20 t)
  | .dot2h d a b t => some (packR 6 (b.toNat) (a.toNat) (d.toNat) 20 t)
  | .dot2b d a b t => some (packR 7 (b.toNat) (a.toNat) (d.toNat) 20 t)
  | .rcp d a t => some (packR 0 0 (a.toNat) (d.toNat) 21 t)
  | .rsq d a t => some (packR 1 0 (a.toNat) (d.toNat) 21 t)
  | .sqrt d a t => some (packR 2 0 (a.toNat) (d.toNat) 21 t)
  | .exp2 d a t => some (packR 3 0 (a.toNat) (d.toNat) 21 t)
  | .log2 d a t => some (packR 4 0 (a.toNat) (d.toNat) 21 t)
  | .sin d a t => some (packR 5 0 (a.toNat) (d.toNat) 21 t)
  | .cos d a t => some (packR 6 0 (a.toNat) (d.toNat) 21 t)
  | .tanh d a t => some (packR 7 0 (a.toNat) (d.toNat) 21 t)
  | .fdiv d a b t => some (packR 0 (b.toNat) (a.toNat) (d.toNat) 22 t)
  | .cvt d a r y x t => some (packI (r.toNat * 256 + y.toNat * 16 + x.toNat) (a.toNat) (d.toNat) 23 t)
  | .cvt8ToByte d a r sat i u n t => some (packI (r.toNat * 128 + bitNat sat * 64 + bitNat i * 16 + bitNat u * 8 + n.toNat) (a.toNat) (d.toNat) 24 t)
  | .cvt8FromByte d a i u n t => some (packI (bitNat i * 16 + bitNat u * 8 + n.toNat + 32) (a.toNat) (d.toNat) 24 t)
  | .dot4s d a b t => some (packR 0 (b.toNat) (a.toNat) (d.toNat) 25 t)
  | .dot4n d a b t => some (packR 1 (b.toNat) (a.toNat) (d.toNat) 25 t)
  | .dot4f d a b t => some (packR 2 (b.toNat) (a.toNat) (d.toNat) 25 t)
  | .shflIdx d a m k t => some (packL 0 (m.toNat) (k.toNat) (a.toNat) (d.toNat) 26 t)
  | .shflUp d a m k t => some (packL 1 (m.toNat) (k.toNat) (a.toNat) (d.toNat) 26 t)
  | .shflDn d a m k t => some (packL 2 (m.toNat) (k.toNat) (a.toNat) (d.toNat) 26 t)
  | .shflXor d a m k t => some (packL 3 (m.toNat) (k.toNat) (a.toNat) (d.toNat) 26 t)
  | .shflr d a m k t => some (packL 0 (m.toNat) (k.toNat) (a.toNat) (d.toNat) 27 t)
  | .voteAll p a m t => some (packL 0 (m.toNat) 0 (a.toNat) (p.toNat) 28 t)
  | .voteAny p a m t => some (packL 1 (m.toNat) 0 (a.toNat) (p.toNat) 28 t)
  | .voteSame p a m t => some (packL 2 (m.toNat) 0 (a.toNat) (p.toNat) 28 t)
  | .voteBallot d a m t => some (packL 3 (m.toNat) 0 (a.toNat) (d.toNat) 28 t)
  | .foldAdd d a y m k t => some (packL (y.toNat) (m.toNat) (k.toNat * 8) (a.toNat) (d.toNat) 29 t)
  | .foldMin d a y m k t => some (packL (y.toNat) (m.toNat) (k.toNat * 8 + 1) (a.toNat) (d.toNat) 29 t)
  | .foldMax d a y m k t => some (packL (y.toNat) (m.toNat) (k.toNat * 8 + 2) (a.toNat) (d.toNat) 29 t)
  | .foldMinn d a y m k t => some (packL (y.toNat) (m.toNat) (k.toNat * 8 + 3) (a.toNat) (d.toNat) 29 t)
  | .foldMaxn d a y m k t => some (packL (y.toNat) (m.toNat) (k.toNat * 8 + 4) (a.toNat) (d.toNat) 29 t)
  | .foldAnd d a y m k t => some (packL (y.toNat) (m.toNat) (k.toNat * 8 + 5) (a.toNat) (d.toNat) 29 t)
  | .foldOr d a y m k t => some (packL (y.toNat) (m.toNat) (k.toNat * 8 + 6) (a.toNat) (d.toNat) 29 t)
  | .foldXor d a y m k t => some (packL (y.toNat) (m.toNat) (k.toNat * 8 + 7) (a.toNat) (d.toNat) 29 t)
  | .topk d a y m k t => some (packL (y.toNat) (m.toNat) (k.toNat) (a.toNat) (d.toNat) 30 t)
  | .lsetEq d a m t => some (packL 0 (m.toNat) 0 (a.toNat) (d.toNat) 31 t)
  | .lsetAlleq p a m t => some (packL 1 (m.toNat) 0 (a.toNat) (p.toNat) 31 t)
  | .lsetFirst p m t => some (packL 2 (m.toNat) 0 0 (p.toNat) 31 t)
  | .lsetLive d m t => some (packL 3 (m.toNat) 0 0 (d.toNat) 31 t)
  | .bra d p n t => some (packB (d.toNat) (bitNat n) (p.toNat) 32 t)
  | .call d p n t => some (packB (d.toNat) (bitNat n) (p.toNat) 33 t)
  | .brx a t => some (packR 0 0 (a.toNat) 0 34 t)
  | .callx a t => some (packR 1 0 (a.toNat) 0 34 t)
  | .ret t => some (packR 2 0 0 0 34 t)
  | .exit t => some (packR 3 0 0 0 34 t)
  | .loop n c i l t => some (packI (n.toNat) (c.toNat) (bitNat i * 4 + l.toNat) 35 t)
  | .seamEnrol j t => some (packI 0 (j.toNat) 0 36 t)
  | .seamWait j t => some (packI 1 (j.toNat) 0 36 t)
  | .seamLeave j t => some (packI 2 (j.toNat) 0 36 t)
  | .seamSmask d j t => some (packI 3 (j.toNat) (d.toNat) 36 t)
  | .tryOpen d l t => some (packB (d.toNat) 0 (l.toNat) 37 t)
  | .endtry t => some (packI 0 0 0 38 t)
  | .throwG a t => some (packI 1 (a.toNat) 0 38 t)
  | .throwi c t => some (packI 2 (c.toNat) 0 38 t)
  | .rethrow t => some (packI 3 0 0 38 t)
  | .trap c t => some (packI 4 (c.toNat) 0 38 t)
  | .uret t => some (packI 5 0 0 38 t)
  | .uretry t => some (packI 6 0 0 38 t)
  | .brk t => some (packI 7 0 0 38 t)
  | .srd d r t => some (packI (r.toNat) 0 (d.toNat) 39 t)
  | .swr a r t => some (packI (r.toNat) (a.toNat) 0 40 t)
  | .nop t => some (packI 0 0 0 41 t)
  | .yield t => some (packI 1 0 0 41 t)
  | .sleep a t => some (packI 2 (a.toNat) 0 41 t)
  | .clock d t => some (packI 3 0 (d.toNat) 41 t)
  | .ptime d t => some (packI 4 0 (d.toNat) 41 t)
  | .pmark a t => some (packI 5 (a.toNat) 0 41 t)
  | .tflush t => some (packI 6 0 0 41 t)
  | .ld d h x z g sb t => some (packM (bitNat h * 8 + bitNat x * 4 + z.toNat) (g.toNat) (sb.toNat) (d.toNat) 42 t)
  | .st d h z g sb t => some (packM (bitNat h * 8 + z.toNat) (g.toNat) (sb.toNat) (d.toNat) 43 t)
  | .lds d h x z g sb t => some (packM (bitNat h * 8 + bitNat x * 4 + z.toNat) (g.toNat) (sb.toNat) (d.toNat) 44 t)
  | .sts d h z g sb t => some (packM (bitNat h * 8 + z.toNat) (g.toNat) (sb.toNat) (d.toNat) 45 t)
  | .ldc d h x z g sb t => some (packM (bitNat h * 8 + bitNat x * 4 + z.toNat) (g.toNat) (sb.toNat) (d.toNat) 46 t)
  | .ldo d a z e c t => some (packO (bitNat z) 0 (e.toNat) (c.toNat) (a.toNat) (d.toNat) 47 t)
  | .sto d a z e c t => some (packO (bitNat z) 1 (e.toNat) (c.toNat) (a.toNat) (d.toNat) 47 t)
  | .swap d a z e c t => some (packO (bitNat z) 2 (e.toNat) (c.toNat) (a.toNat) (d.toNat) 47 t)
  | .cas d a z e c t => some (packO (bitNat z) 3 (e.toNat) (c.toNat) (a.toNat) (d.toNat) 47 t)
  | .amoAdd d a z e c t => some (packO (bitNat z) 4 (e.toNat) (c.toNat) (a.toNat) (d.toNat) 47 t)
  | .amoAnd d a z e c t => some (packO (bitNat z) 5 (e.toNat) (c.toNat) (a.toNat) (d.toNat) 47 t)
  | .amoOr d a z e c t => some (packO (bitNat z) 6 (e.toNat) (c.toNat) (a.toNat) (d.toNat) 47 t)
  | .amoXor d a z e c t => some (packO (bitNat z) 7 (e.toNat) (c.toNat) (a.toNat) (d.toNat) 47 t)
  | .amoMins d a z e c t => some (packO (bitNat z) 8 (e.toNat) (c.toNat) (a.toNat) (d.toNat) 47 t)
  | .amoMaxs d a z e c t => some (packO (bitNat z) 9 (e.toNat) (c.toNat) (a.toNat) (d.toNat) 47 t)
  | .amoMinn d a z e c t => some (packO (bitNat z) 10 (e.toNat) (c.toNat) (a.toNat) (d.toNat) 47 t)
  | .amoMaxn d a z e c t => some (packO (bitNat z) 11 (e.toNat) (c.toNat) (a.toNat) (d.toNat) 47 t)
  | .amoInc d a z e c t => some (packO (bitNat z) 12 (e.toNat) (c.toNat) (a.toNat) (d.toNat) 47 t)
  | .amoDec d a z e c t => some (packO (bitNat z) 13 (e.toNat) (c.toNat) (a.toNat) (d.toNat) 47 t)
  | .amoAddf d a e c t => some (packO 0 14 (e.toNat) (c.toNat) (a.toNat) (d.toNat) 47 t)
  | .pub c t => some (packI 0 (c.toNat) 0 48 t)
  | .rfsh c t => some (packI 1 (c.toNat) 0 48 t)
  | .phase c t => some (packI 2 (c.toNat) 0 48 t)
  | .acopyG2s q k sb t => some (packE 0 (q.toNat) (k.toNat) (sb.toNat) 49 t)
  | .acopyS2g q k sb t => some (packE 1 (q.toNat) (k.toNat) (sb.toNat) 49 t)
  | .acopyG2o q k sb t => some (packE 2 (q.toNat) (k.toNat) (sb.toNat) 49 t)
  | .acopyS2o q k sb t => some (packE 3 (q.toNat) (k.toNat) (sb.toNat) 49 t)
  | .acopyA2s q k sb t => some (packE 4 (q.toNat) (k.toNat) (sb.toNat) 49 t)
  | .acopyS2a q k sb t => some (packE 5 (q.toNat) (k.toNat) (sb.toNat) 49 t)
  | .acopyA2g q k sb t => some (packE 6 (q.toNat) (k.toNat) (sb.toNat) 49 t)
  | .gather q k sb t => some (packE 7 (q.toNat) (k.toNat) (sb.toNat) 49 t)
  | .scatter q k sb t => some (packE 8 (q.toNat) (k.toNat) (sb.toNat) 49 t)
  | .kick q k sb t => some (packE 9 (q.toNat) (k.toNat) (sb.toNat) 49 t)
  | .qfence n k t => some (packE 10 (n.toNat) (k.toNat) 0 49 t)
  | .claim o t => some (packE 0 (o.toNat) 0 0 50 t)
  | .release o t => some (packE 1 (o.toNat) 0 0 50 t)
  | .wload k sb t => some (packE 2 0 (k.toNat) (sb.toNat) 50 t)
  | .mma a r c k sb t => some (packE 3 (bitNat r * 32 + bitNat c * 16 + a.toNat) (k.toNat) (sb.toNat) 50 t)
  | .bind a c p k sb t => some (packE 4 (bitNat c * 32 + bitNat p * 16 + a.toNat) (k.toNat) (sb.toNat) 50 t)
  | .acczero a k t => some (packE 5 (a.toNat) (k.toNat) 0 50 t)
  | .thmtake t => some (packE 6 0 0 0 50 t)
  | .thmpass t => some (packE 7 0 0 0 50 t)
  | .thmpassFree t => some (packE 7 1 0 0 50 t)
  | .trans k sb t => some (packE 8 0 (k.toNat) (sb.toNat) 50 t)
  | .tscaleSet k sb t => some (packE 9 0 (k.toNat) (sb.toNat) 50 t)
  | .tscaleMul k sb t => some (packE 9 1 (k.toNat) (sb.toNat) 50 t)
  | .tscaleMuls k sb t => some (packE 9 2 (k.toNat) (sb.toNat) 50 t)
  | .aclaim a sb t => some (packE 10 (a.toNat) 0 (sb.toNat) 50 t)
  | .afree a t => some (packE 11 (a.toNat) 0 0 50 t)
  | .tslr d i sb r o t => some (packT (i.toNat) (sb.toNat) (bitNat r) (o.toNat) (d.toNat) 51 t)
  | .tslw d i sb r o t => some (packT (i.toNat) (sb.toNat) (bitNat r) (o.toNat) (d.toNat) 52 t)
  | .bar l t => some (packI 0 (l.toNat) 0 53 t)
  | .bararr l t => some (packI 1 (l.toNat) 0 53 t)
  | .barwait l t => some (packI 2 (l.toNat) 0 53 t)
  | .bobjinit d a t => some (packI 3 (a.toNat) (d.toNat) 53 t)
  | .bobjexp d a t => some (packI 4 (a.toNat) (d.toNat) 53 t)
  | .bobjwait a t => some (packI 5 (a.toNat) 0 53 t)
  | .spawn d a t => some (packI 0 (a.toNat) (d.toNat) 54 t)
  | .tend t => some (packI 1 0 0 54 t)
  | .epush d a t => some (packI 2 (a.toNat) (d.toNat) 54 t)
  | .epop d a t => some (packI 3 (a.toNat) (d.toNat) 54 t)
  | .efree a t => some (packI 4 (a.toNat) 0 54 t)
  | .admitD d a t => some (packI 5 (a.toNat) (d.toNat) 54 t)
  | .tcbdone a t => some (packI 6 (a.toNat) 0 54 t)
  | .cMov _ _ => none
  | .cAdd _ _ => none
  | .cSub _ _ => none
  | .cAnd _ _ => none
  | .cOr _ _ => none
  | .cXor _ _ => none
  | .cShl _ _ => none
  | .cShr _ _ => none
  | .cSar _ _ => none
  | .cMul _ _ => none
  | .cMins _ _ => none
  | .cMaxs _ _ => none
  | .cFadd _ _ => none
  | .cFmul _ _ => none
  | .addi5 _ _ => none
  | .li5 _ _ => none
  | .ill16 => none
  | .ill32 => some (packW 0 0 false)
  | .resultReturn _ _ _ _ => none
  | .storePerformed _ _ _ _ => none
  | .memoPerformed _ _ _ _ => none
  | .publishComplete _ _ _ _ => none
  | .refreshComplete _ _ _ _ => none
  | .snapshotUpdate _ _ => none
  | .spontaneousPlacement _ _ _ => none
  | .loopEndCheck _ _ _ => none
  | .seamWaitTimeout _ _ _ => none
  | .notchPark _ _ _ => none
  | .ageForce _ _ => none
  | .waveSwap _ _ _ => none
  | .pendingPromote _ _ => none
  | .engineOperationStart _ _ => none
  | .engineOperationComplete _ _ => none
  | .thimbleGrant _ _ => none
  | .windowEntryLeave _ => none
  | .arrayTakeOperation _ => none
  | .matrixOperationComplete _ => none
  | .collectiveUnwind _ _ _ => none
  | .sleepExpire _ _ _ => none
  | .coreFaultStop _ => none
  | .faultResume _ => none
  | .faultRefuse _ => none
  | .launchRecordTake _ _ => none
  | .gangStart _ _ _ => none
  | .spawnEntryTake _ => none
  | .edgeConsumerStart _ _ => none
  | .edgeDrainStart _ _ => none
  | .tendRetire _ => none
  | .launchComplete _ => none
  | .allowanceRefill _ _ => none
  | .invalidationRequest _ _ _ => none
  | .invalidationComplete _ => none
  | .sliceSwitch _ => none
  | .scrubComplete _ => none
  | .boot _ _ _ _ => none
  | .preemptRequest _ => none
  | .preemptHardStop _ => none
  | .contextSave _ => none
  | .gangResume _ _ => none
  | .haltResume _ => none
  | .haltAbort _ => none
  | .chunkStepSelect _ => none
  | .chunkArrive _ _ _ _ _ => none
  | .spoolFetch _ => none
  | .bobCredit _ => none
  | .bobSend _ _ _ _ => none
  | .bobReduce _ _ _ _ => none
  | .bobWrite _ _ _ => none
  | .bobFree _ _ => none
  | .bobDone _ _ => none
  | .instanceAbort _ _ _ => none
  | .partnerAbortNotice _ _ _ => none
  | .hostWindowRead _ _ _ => none
  | .hostWindowWrite _ _ _ => none
  | .hostCompletionTimeout _ => none
  | .peerRequest _ _ _ _ => none
  | .remoteResponse _ _ => none
  | .peerRequestTimeout _ => none
  | .unfence _ => none
  | .holdNotice _ => none
  | .holdQuietExpire _ => none
  | .holdLimitExpire _ => none
  | .holdNoticeSend => none
  | .portRetrain _ => none
  | .portTransferComplete _ _ _ _ _ _ => none
  | .timeInputLock _ => none
  | .timeInputLoss => none
  | .bastingIntervalTimeout _ => none
  | .uncorrectableError _ _ _ => none
  | .rollbackRequest _ => none
  | .correctableError _ _ _ => none
  | .arrayRowTest _ _ => none
  | .krowRetire _ _ => none
  | .gangWatchdog _ => none
  | .gaugeClear _ => none
  | .samplerSample _ _ => none
  | .registerWrite _ _ _ _ => none
  | .reservedOrIllegalWord => none
  | .evictionComplete _ => none
  | .partitionReassign _ _ => none
  | .communicatorEnClear _ => none
  | .portRetrainComplete _ => none
  | .linkRetryIntervalEnd _ _ => none
  | .corePowerGate _ => none
  | .corePowerUngate _ => none

/-- The 16-bit word of an instruction; none for the others. -/
def encodeHalf : Instr → Option Half
  | .add _ _ _ _ => none
  | .sub _ _ _ _ => none
  | .and _ _ _ _ => none
  | .or _ _ _ _ => none
  | .xor _ _ _ _ => none
  | .andn _ _ _ _ => none
  | .addc _ _ _ _ => none
  | .subb _ _ _ _ => none
  | .mul _ _ _ _ => none
  | .mulhs _ _ _ _ => none
  | .mulhu _ _ _ _ => none
  | .mulhsu _ _ _ _ => none
  | .mins _ _ _ _ => none
  | .maxs _ _ _ _ => none
  | .minu _ _ _ _ => none
  | .maxu _ _ _ _ => none
  | .shl _ _ _ _ => none
  | .shr _ _ _ _ => none
  | .sar _ _ _ _ => none
  | .rol _ _ _ _ => none
  | .ror _ _ _ _ => none
  | .fshl _ _ _ _ => none
  | .fshr _ _ _ _ => none
  | .bfxn _ _ _ _ => none
  | .bfxs _ _ _ _ => none
  | .bfi _ _ _ _ => none
  | .bmsk _ _ _ => none
  | .clz _ _ _ => none
  | .ctz _ _ _ => none
  | .popc _ _ _ => none
  | .brev _ _ _ => none
  | .divs _ _ _ _ => none
  | .divn _ _ _ _ => none
  | .rems _ _ _ _ => none
  | .remn _ _ _ _ => none
  | .mad _ _ _ _ => none
  | .madhs _ _ _ _ => none
  | .madhn _ _ _ _ => none
  | .mad64s _ _ _ _ => none
  | .mad64n _ _ _ _ => none
  | .sad _ _ _ _ => none
  | .icmpEq _ _ _ _ => none
  | .icmpNe _ _ _ _ => none
  | .icmpLt _ _ _ _ => none
  | .icmpLe _ _ _ _ => none
  | .icmpLtn _ _ _ _ => none
  | .icmpLen _ _ _ _ => none
  | .icmpTst _ _ _ _ => none
  | .addi _ _ _ _ => none
  | .andi _ _ _ _ => none
  | .ori _ _ _ _ => none
  | .xori _ _ _ _ => none
  | .shfiShl _ _ _ _ => none
  | .shfiShr _ _ _ _ => none
  | .shfiSar _ _ _ _ => none
  | .shfiRol _ _ _ _ => none
  | .shfiRor _ _ _ _ => none
  | .icmpiEq _ _ _ _ => none
  | .icmpiNe _ _ _ _ => none
  | .icmpiLt _ _ _ _ => none
  | .icmpiLe _ _ _ _ => none
  | .icmpiGt _ _ _ _ => none
  | .icmpiGe _ _ _ _ => none
  | .icmpiLtn _ _ _ _ => none
  | .icmpiLen _ _ _ _ => none
  | .icmpiGtn _ _ _ _ => none
  | .icmpiGen _ _ _ _ => none
  | .li _ _ _ => none
  | .lih _ _ _ => none
  | .pand _ _ _ _ => none
  | .por _ _ _ _ => none
  | .pxor _ _ _ _ => none
  | .pnot _ _ _ => none
  | .p2g _ _ _ => none
  | .g2p _ _ _ => none
  | .sel _ _ _ _ _ => none
  | .fadd _ _ _ _ => none
  | .fsub _ _ _ _ => none
  | .fmul _ _ _ _ => none
  | .fmin _ _ _ _ => none
  | .fmax _ _ _ _ => none
  | .ffma _ _ _ _ => none
  | .ffms _ _ _ _ => none
  | .fcps _ _ _ _ => none
  | .fcmpEq _ _ _ _ => none
  | .fcmpNe _ _ _ _ => none
  | .fcmpLt _ _ _ _ => none
  | .fcmpLe _ _ _ _ => none
  | .fcmpUn _ _ _ _ => none
  | .fcmpOr _ _ _ _ => none
  | .hadd2 _ _ _ _ => none
  | .hmul2 _ _ _ _ => none
  | .hfma2 _ _ _ _ => none
  | .badd2 _ _ _ _ => none
  | .bmul2 _ _ _ _ => none
  | .bfma2 _ _ _ _ => none
  | .dot2h _ _ _ _ => none
  | .dot2b _ _ _ _ => none
  | .rcp _ _ _ => none
  | .rsq _ _ _ => none
  | .sqrt _ _ _ => none
  | .exp2 _ _ _ => none
  | .log2 _ _ _ => none
  | .sin _ _ _ => none
  | .cos _ _ _ => none
  | .tanh _ _ _ => none
  | .fdiv _ _ _ _ => none
  | .cvt _ _ _ _ _ _ => none
  | .cvt8ToByte _ _ _ _ _ _ _ _ => none
  | .cvt8FromByte _ _ _ _ _ _ => none
  | .dot4s _ _ _ _ => none
  | .dot4n _ _ _ _ => none
  | .dot4f _ _ _ _ => none
  | .shflIdx _ _ _ _ _ => none
  | .shflUp _ _ _ _ _ => none
  | .shflDn _ _ _ _ _ => none
  | .shflXor _ _ _ _ _ => none
  | .shflr _ _ _ _ _ => none
  | .voteAll _ _ _ _ => none
  | .voteAny _ _ _ _ => none
  | .voteSame _ _ _ _ => none
  | .voteBallot _ _ _ _ => none
  | .foldAdd _ _ _ _ _ _ => none
  | .foldMin _ _ _ _ _ _ => none
  | .foldMax _ _ _ _ _ _ => none
  | .foldMinn _ _ _ _ _ _ => none
  | .foldMaxn _ _ _ _ _ _ => none
  | .foldAnd _ _ _ _ _ _ => none
  | .foldOr _ _ _ _ _ _ => none
  | .foldXor _ _ _ _ _ _ => none
  | .topk _ _ _ _ _ _ => none
  | .lsetEq _ _ _ _ => none
  | .lsetAlleq _ _ _ _ => none
  | .lsetFirst _ _ _ => none
  | .lsetLive _ _ _ => none
  | .bra _ _ _ _ => none
  | .call _ _ _ _ => none
  | .brx _ _ => none
  | .callx _ _ => none
  | .ret _ => none
  | .exit _ => none
  | .loop _ _ _ _ _ => none
  | .seamEnrol _ _ => none
  | .seamWait _ _ => none
  | .seamLeave _ _ => none
  | .seamSmask _ _ _ => none
  | .tryOpen _ _ _ => none
  | .endtry _ => none
  | .throwG _ _ => none
  | .throwi _ _ => none
  | .rethrow _ => none
  | .trap _ _ => none
  | .uret _ => none
  | .uretry _ => none
  | .brk _ => none
  | .srd _ _ _ => none
  | .swr _ _ _ => none
  | .nop _ => none
  | .yield _ => none
  | .sleep _ _ => none
  | .clock _ _ => none
  | .ptime _ _ => none
  | .pmark _ _ => none
  | .tflush _ => none
  | .ld _ _ _ _ _ _ _ => none
  | .st _ _ _ _ _ _ => none
  | .lds _ _ _ _ _ _ _ => none
  | .sts _ _ _ _ _ _ => none
  | .ldc _ _ _ _ _ _ _ => none
  | .ldo _ _ _ _ _ _ => none
  | .sto _ _ _ _ _ _ => none
  | .swap _ _ _ _ _ _ => none
  | .cas _ _ _ _ _ _ => none
  | .amoAdd _ _ _ _ _ _ => none
  | .amoAnd _ _ _ _ _ _ => none
  | .amoOr _ _ _ _ _ _ => none
  | .amoXor _ _ _ _ _ _ => none
  | .amoMins _ _ _ _ _ _ => none
  | .amoMaxs _ _ _ _ _ _ => none
  | .amoMinn _ _ _ _ _ _ => none
  | .amoMaxn _ _ _ _ _ _ => none
  | .amoInc _ _ _ _ _ _ => none
  | .amoDec _ _ _ _ _ _ => none
  | .amoAddf _ _ _ _ _ => none
  | .pub _ _ => none
  | .rfsh _ _ => none
  | .phase _ _ => none
  | .acopyG2s _ _ _ _ => none
  | .acopyS2g _ _ _ _ => none
  | .acopyG2o _ _ _ _ => none
  | .acopyS2o _ _ _ _ => none
  | .acopyA2s _ _ _ _ => none
  | .acopyS2a _ _ _ _ => none
  | .acopyA2g _ _ _ _ => none
  | .gather _ _ _ _ => none
  | .scatter _ _ _ _ => none
  | .kick _ _ _ _ => none
  | .qfence _ _ _ => none
  | .claim _ _ => none
  | .release _ _ => none
  | .wload _ _ _ => none
  | .mma _ _ _ _ _ _ => none
  | .bind _ _ _ _ _ _ => none
  | .acczero _ _ _ => none
  | .thmtake _ => none
  | .thmpass _ => none
  | .thmpassFree _ => none
  | .trans _ _ _ => none
  | .tscaleSet _ _ _ => none
  | .tscaleMul _ _ _ => none
  | .tscaleMuls _ _ _ => none
  | .aclaim _ _ _ => none
  | .afree _ _ => none
  | .tslr _ _ _ _ _ _ => none
  | .tslw _ _ _ _ _ _ => none
  | .bar _ _ => none
  | .bararr _ _ => none
  | .barwait _ _ => none
  | .bobjinit _ _ _ => none
  | .bobjexp _ _ _ => none
  | .bobjwait _ _ => none
  | .spawn _ _ _ => none
  | .tend _ => none
  | .epush _ _ _ => none
  | .epop _ _ _ => none
  | .efree _ _ => none
  | .admitD _ _ _ => none
  | .tcbdone _ _ => none
  | .cMov d b => some (packC b.toNat d.toNat 0)
  | .cAdd d b => some (packC b.toNat d.toNat 1)
  | .cSub d b => some (packC b.toNat d.toNat 2)
  | .cAnd d b => some (packC b.toNat d.toNat 3)
  | .cOr d b => some (packC b.toNat d.toNat 4)
  | .cXor d b => some (packC b.toNat d.toNat 5)
  | .cShl d b => some (packC b.toNat d.toNat 6)
  | .cShr d b => some (packC b.toNat d.toNat 7)
  | .cSar d b => some (packC b.toNat d.toNat 8)
  | .cMul d b => some (packC b.toNat d.toNat 9)
  | .cMins d b => some (packC b.toNat d.toNat 10)
  | .cMaxs d b => some (packC b.toNat d.toNat 11)
  | .cFadd d b => some (packC b.toNat d.toNat 12)
  | .cFmul d b => some (packC b.toNat d.toNat 13)
  | .addi5 d i => some (packC i.toNat d.toNat 14)
  | .li5 d i => some (packC i.toNat d.toNat 15)
  | .ill16 => some 0
  | .ill32 => none
  | .resultReturn _ _ _ _ => none
  | .storePerformed _ _ _ _ => none
  | .memoPerformed _ _ _ _ => none
  | .publishComplete _ _ _ _ => none
  | .refreshComplete _ _ _ _ => none
  | .snapshotUpdate _ _ => none
  | .spontaneousPlacement _ _ _ => none
  | .loopEndCheck _ _ _ => none
  | .seamWaitTimeout _ _ _ => none
  | .notchPark _ _ _ => none
  | .ageForce _ _ => none
  | .waveSwap _ _ _ => none
  | .pendingPromote _ _ => none
  | .engineOperationStart _ _ => none
  | .engineOperationComplete _ _ => none
  | .thimbleGrant _ _ => none
  | .windowEntryLeave _ => none
  | .arrayTakeOperation _ => none
  | .matrixOperationComplete _ => none
  | .collectiveUnwind _ _ _ => none
  | .sleepExpire _ _ _ => none
  | .coreFaultStop _ => none
  | .faultResume _ => none
  | .faultRefuse _ => none
  | .launchRecordTake _ _ => none
  | .gangStart _ _ _ => none
  | .spawnEntryTake _ => none
  | .edgeConsumerStart _ _ => none
  | .edgeDrainStart _ _ => none
  | .tendRetire _ => none
  | .launchComplete _ => none
  | .allowanceRefill _ _ => none
  | .invalidationRequest _ _ _ => none
  | .invalidationComplete _ => none
  | .sliceSwitch _ => none
  | .scrubComplete _ => none
  | .boot _ _ _ _ => none
  | .preemptRequest _ => none
  | .preemptHardStop _ => none
  | .contextSave _ => none
  | .gangResume _ _ => none
  | .haltResume _ => none
  | .haltAbort _ => none
  | .chunkStepSelect _ => none
  | .chunkArrive _ _ _ _ _ => none
  | .spoolFetch _ => none
  | .bobCredit _ => none
  | .bobSend _ _ _ _ => none
  | .bobReduce _ _ _ _ => none
  | .bobWrite _ _ _ => none
  | .bobFree _ _ => none
  | .bobDone _ _ => none
  | .instanceAbort _ _ _ => none
  | .partnerAbortNotice _ _ _ => none
  | .hostWindowRead _ _ _ => none
  | .hostWindowWrite _ _ _ => none
  | .hostCompletionTimeout _ => none
  | .peerRequest _ _ _ _ => none
  | .remoteResponse _ _ => none
  | .peerRequestTimeout _ => none
  | .unfence _ => none
  | .holdNotice _ => none
  | .holdQuietExpire _ => none
  | .holdLimitExpire _ => none
  | .holdNoticeSend => none
  | .portRetrain _ => none
  | .portTransferComplete _ _ _ _ _ _ => none
  | .timeInputLock _ => none
  | .timeInputLoss => none
  | .bastingIntervalTimeout _ => none
  | .uncorrectableError _ _ _ => none
  | .rollbackRequest _ => none
  | .correctableError _ _ _ => none
  | .arrayRowTest _ _ => none
  | .krowRetire _ _ => none
  | .gangWatchdog _ => none
  | .gaugeClear _ => none
  | .samplerSample _ _ => none
  | .registerWrite _ _ _ _ => none
  | .reservedOrIllegalWord => none
  | .evictionComplete _ => none
  | .partitionReassign _ _ => none
  | .communicatorEnClear _ => none
  | .portRetrainComplete _ => none
  | .linkRetryIntervalEnd _ _ => none
  | .corePowerGate _ => none
  | .corePowerUngate _ => none

/-- The bytes of an instruction, in the order of memory; none for a step that has no encoding. -/
def encode (i : Instr) : Option (List Byte) :=
  match encodeWord i with
  | some w => some (toBytes 4 w)
  | none => (encodeHalf i).map (toBytes 2)

end Sys2Proof
end

