-- ==== Sys2Proof/Config.lean ====
section
/-! DEFINITION. What an implementation fixes, and the free values of the model. A constant declared `opaque` has no body: nothing can be
proved about its value, so a claim that holds of the model holds whatever the value is (spec/00_scope.md R6). -/

namespace Sys2Proof.Config

/-- The value a read finds where the spec calls it undefined (R6, R39): indexed by the step's number and by what is read. Log entry 3. -/
opaque freeWord : Nat → Nat → Word
/-- An undefined bit, or a choice the spec leaves to the device, indexed as freeWord is. Log entry 3. -/
opaque freeBit : Nat → Nat → Bool
/-- An undefined byte, indexed as freeWord is. Log entry 3. -/
opaque freeByte : Nat → Nat → Byte
/-- A choice among several, indexed as freeWord is. Log entry 3. -/
opaque freeNat : Nat → Nat → Nat

/-- The results of the functions for which the spec gives a bound and no value: each a fixed function of the operand's bits,
taken where it keeps the bound (spec/06_float_instructions.md R110). Log entry 4. -/
opaque exp2 : Word → Word
opaque log2 : Word → Word
opaque sin : Word → Word
opaque cos : Word → Word
opaque tanh : Word → Word

/-- The package's own peer number in the load-store domain (spec/22_memory_tenancy_and_boot.md R320). Log entry 6. -/
opaque ownPeer : Nat

/-- Where the device starts to allot aperture windows, in units of 32 MiB (spec/01_architectural_state.md R30): the spec gives their
alignment and that they are apart, and no place. Log entry 27. -/
opaque apertureBase : Nat

/-- The hash in a key slot and the least version, by the kind of image (1 firmware, 2 monitor): fused (spec/22_memory_tenancy_and_boot.md
R339, R340). Log entry 28. -/
opaque fusedKey : Nat → Nat → List Byte
opaque fusedVersion : Nat → Nat
/-- Whether the Bobbin firmware in a system image is Ivdel's, by the image's digest (spec/24_collectives_and_bobbins.md R362): the spec gives no other
mark of it. Log entry 66. -/
opaque ivdelFirmware : List Byte → Bool

end Sys2Proof.Config
end

