-- ==== Sys2Proof/Machine/State.lean ====
section
/-! DEFINITION. The state of the Enzar device, as plain data. Every list keyed by a number is sparse and canonical (Machine/Sparse.lean);
what an unlisted key reads as is said at the field. -/

namespace Sys2Proof.Machine

/-- Why a step stops with a fault. The spec gives the device no such stop: every trap, throw and fault of it is a next state, so this
type has no constructor, and no meaning raises one. -/
inductive Fault where
  deriving DecidableEq, Repr

/-- Why an instruction has no meaning in the model. -/
inductive Refusal where
  /-- Raised by an arm of exec whose instruction has no meaning yet; safe: the model stops where the device goes on. -/
  | notModelled (mnemonic : String)
  deriving DecidableEq, Repr

/-- Registers by number, an unlisted one reading 0. -/
abbrev Regs := List (Nat × Word)
/-- Bytes by address or offset. -/
abbrev Bytes := List (Nat × Byte)

/-! ## Threads -/

/-- An active loop level (spec/07 R133): its counter, the first address of the body, the address of its last instruction, and the
address after it. -/
structure LoopLevel where
  ctr : Nat
  start : Dword
  last : Dword
  fin : Dword
  deriving DecidableEq, Repr

/-- An open try region (spec/10 R209). -/
structure Region where
  level : Nat
  catchPc : Dword
  tryPc : Dword
  deriving DecidableEq, Repr

/-- Where the bytes of an access lie: at a physical address, or at an offset of the scratchpad of a block (by its identifier). -/
inductive Place where
  | phys (pa : Nat)
  | pad (blk : Nat) (off : Nat)
  deriving DecidableEq, Repr

/-- The operations of MEMO (spec/08 R160). -/
inductive MemoOp where
  | ldo | sto | swap | cas | add | and | or | xor | mins | maxs | minn | maxn | inc | dec | addf
  deriving DecidableEq, Repr

/-- What an access does when it is performed: a load into a register, a store, an ordered access or atomic (size in bytes, destination,
operand, replacement of CAS, scope, its publish done, its refresh still owed), a publish, a refresh. -/
inductive AccKind where
  | load (size : Nat) (sext : Bool) (d : Nat)
  | store (data : List Byte)
  | memo (op : MemoOp) (size : Nat) (d : Nat) (v : Dword) (n : Dword) (sc : Nat)
  | publish (sc : Nat)
  | refresh (sc : Nat)
  deriving DecidableEq, Repr

/-- What a thread's instructions change of the thread alone, as it stood at some instruction: its registers, flags, loop levels and handler
state. -/
structure LaneRegs where
  g : Regs
  p : BitVec 8
  lc : Regs
  uepc : Dword
  ucause : Word
  iflags : Word
  fflags : Word
  handler : Bool
  hsilent : Bool
  suspended : List LoopLevel
  loops : List LoopLevel
  marks : List Nat
  deriving DecidableEq, Repr

/-- An access a thread has issued and that is not yet performed (spec/08 R141, R146, R147, R161). `req` names the remote request it
waits on, `got` the bytes that one performed at remote memory has brought, `issued` the core's clock and `step` the model's step at its
issue; `back` holds the thread's registers before it, where it may still throw (spec/02 R40, spec/26 R381); `silent` says that the handler of a SILENT
trap issued it, which no re-execution does again (spec/27 R391). -/
structure Access where
  pc : Dword
  kind : AccKind
  place : Place
  va : Dword
  req : Option Nat
  got : Option (List Byte)
  issued : Nat
  step : Nat
  back : Option LaneRegs
  silent : Bool
  deriving DecidableEq, Repr

/-- A throw not yet taken by a region (spec/10 R210): class, code, address, the cycle it was thrown in, and the step in which its instruction issued:
the throws of one path at one instruction are one cycle's (spec/18 R295). -/
structure Throw where
  cls : Nat
  code : Word
  xpc : Dword
  cyc : Nat
  step : Nat
  deriving DecidableEq, Repr

/-- A throw due in a thread at its next instruction boundary, one of class SILENT a user trap (spec/09 R170, spec/15 R284), and what
$tailrule becomes with it (spec/11 R245). -/
structure Due where
  throw : Throw
  rule : Word
  deriving DecidableEq, Repr

/-- The cross-lane operations (spec/07 R121 to R127), with the destination of the result; FOLD with the rounding mode and the enabled flags
of its issue (spec/04 R71). -/
inductive XOp where
  | shfl (mode : Nat) (k : Nat) (d : Nat)
  | shflr (d : Nat)
  | vote (mode : Nat) (d : Nat)
  | fold (op : Nat) (kind : Nat) (isF : Bool) (d : Nat) (mode : Nat) (trap : Word)
  | topk (k : Nat) (ty : Nat) (d : Nat)
  | lset (mode : Nat) (d : Nat)
  deriving DecidableEq, Repr

/-- What a thread that is not ready waits for (spec/13 R263). A thread that waits stands before its instruction, except where the
constructor says otherwise. -/
inductive Wait where
  /-- ready -/
  | no
  /-- parked by a tack, or held until earlier results are written before a trap's handler issues; after the instruction -/
  | tack
  /-- parked at a notch -/
  | notch
  /-- arrived at a cross-lane instruction, with the operands it brought and its tack bit -/
  | cross (x : XOp) (mask : Word) (a : Word) (k : Word) (t : Bool)
  /-- waits at a seam since a cycle -/
  | seam (j : Nat) (since : Nat) (t : Bool)
  /-- waits for the phase recorded at a level -/
  | barrier (k : Nat) (t : Bool)
  | tryAt (level : Nat) (target : Dword) (t : Bool)
  | endtry (t : Bool)
  | tend (t : Bool)
  /-- BOBJWAIT on the object at a place -/
  | bobj (place : Place)
  /-- at EPUSH on the edge at a place -/
  | epush (edge : Place)
  | claim
  | aclaim (rows : Nat)
  /-- until the accesses its path issued earlier are performed, before an instruction that publishes or reads a parameter block -/
  | drain
  /-- until the lining checkpoint its instruction needs can be taken (spec/27 R390) -/
  | lining
  /-- stalled on pending tokens -/
  | token (mask : Nat)
  /-- stalled on a full copy queue of the block -/
  | queue (q : Nat)
  /-- stalled on a full window or matrix queue -/
  | window
  /-- at THMTAKE, or before a matrix instruction, since a cycle -/
  | thimble (since : Nat)
  /-- sleeping until a cycle, after the instruction; with the tack's park before it -/
  | sleep (until_ : Nat) (cycles : Nat) (parked : Bool)
  /-- a translation fault holds the thread before the access or fetch -/
  | fault
  /-- threw, and no region has taken it yet -/
  | thrown (x : Throw)
  /-- hard-stopped, standing after a BRK that halted its launch, or held while a throw unwinds its group -/
  | stopped
  deriving DecidableEq, Repr

/-- One lane (spec/01 R10, R17, R22). `regions` are the open try regions, the innermost first; `loops` the active levels, the innermost
first; `hsilent` says that the handler state is that of a SILENT trap (spec/15 R285). `marks` lists the registers whose result is outstanding since the last tack park (spec/02 R38,
R39): a g register by its number, a predicate at 128, a loop counter at 136, a special register at 1024 plus its number. `lastIssue` and `lastPc` are the time and
the address of its last issue (spec/27 R401, spec/29 R413). -/
structure Thread where
  lane : Nat
  live : Bool
  pc : Dword
  g : Regs
  p : BitVec 8
  lc : Regs
  uepc : Dword
  ucause : Word
  iflags : Word
  fflags : Word
  handler : Bool
  hsilent : Bool
  suspended : List LoopLevel
  loops : List LoopLevel
  endChk : Bool
  regions : List Region
  arrived : List (Nat × Nat)
  wait : Wait
  age : Nat
  marks : List Nat
  acc : List Access
  due : Option Due
  lastIssue : Nat
  lastPc : Dword
  deriving DecidableEq, Repr

/-! ## Waves -/

/-- The exception record of a wave (spec/01 R22 0x040 to 0x046, spec/10 R212). -/
structure XRecord where
  code : Word
  count : Word
  mask : Word
  lead : Word
  pc : Dword
  level : Word
  cls : Word
  deriving DecidableEq, Repr

/-- The silent-error registers (spec/01 R22 0x050 to 0x054). -/
structure Silent where
  syn : Word
  unit : Word
  tilerow : Word
  tilecol : Word
  tilek : Word
  deriving DecidableEq, Repr

/-- The registers of a wave that programs reach (spec/01 R17, R22): s registers with their pending marks, seams (E then W, an unlisted
seam clear), the exception record, the silent-error registers, the mode registers. `old` holds, for each SWR whose result
has not returned, the special-register number, the value before it, and the lanes that issued it (spec/04 R71). -/
structure WaveRegs where
  s : Regs
  tok : Nat
  seamE : Regs
  seamW : Regs
  x : XRecord
  silent : Silent
  utvec : Dword
  itrap : Word
  ftrap : Word
  frnd : Word
  f8fmt : Word
  tailrule : Word
  old : List (Nat × Dword × List Nat)
  deriving DecidableEq, Repr

/-- What a lining log holds (spec/27 R390): a value from outside the wave, by the lane that took it and the instruction and address it
came by; a store performed; the phase in which a lane arrived at a barrier of a level; an effect outside the wave that a lane's instruction has had,
with its result; the value that the wave's token register took when an engine wrote it. -/
inductive LogEntry where
  | value (lane : Nat) (pc : Dword) (va : Dword) (v : Dword)
  | store (lane : Nat) (pc : Dword) (place : Place) (data : List Byte)
  | phase (lane : Nat) (level : Nat) (p : Nat)
  | effect (lane : Nat) (pc : Dword) (v : Dword)
  | token (reg : Nat) (v : Word)
  deriving DecidableEq, Repr

/-- The destination rows of a failed MMA as they were (spec/27 R391): the tile, the pleat's elements by their keys with those that nothing
had written left out, the keys they are among, the label where the MMA had allocated the pleat, whether the pleat had been set to 0, the bytes of a spilled pleat by their
places; the instruction that issued it and the token registers it names. -/
structure SavedMma where
  tile : Nat
  rows : Regs
  lo : Nat
  hi : Nat
  label : Option Nat
  zero : Bool
  spill : List (Place × Byte)
  pc : Dword
  regs : List Nat
  deriving DecidableEq, Repr

/-- The lining of a wave (spec/27 R389 to R391): the wave slot of the lining wave, the last checkpoint, the log of what lies behind it, the part of
the log still to be used by a re-execution, the destinations of MMAs that failed since the checkpoint, as they were, and whether a comparison has failed since. -/
structure Lining where
  slot : Nat
  ckRegs : WaveRegs
  ckLanes : List Thread
  log : List LogEntry
  replay : List LogEntry
  saved : List SavedMma
  failed : Bool
  deriving DecidableEq, Repr

/-- A resident wave (spec/01 R11, spec/21 R319). `slot` is 32 times the panel plus the panel's slot. `wlin` is its place among the
launch's waves, from which the group indices follow (spec/01 R15). `owed`: it has waited for an active slot since it was placed in a reserved one (spec/21
R317). -/
structure Wave where
  core : Nat
  slot : Nat
  active : Bool
  pendSince : Nat
  owed : Bool
  blk : Nat
  wave : Nat
  wlin : Nat
  launched : Word
  regs : WaveRegs
  lining : Option Lining
  lanes : List Thread
  deriving DecidableEq, Repr

/-! ## Engines -/

/-- A copy of a list (spec/09 R176): the form, and the descriptor's fields; the slot or tile by its identifier; captured indices. -/
structure CopyDesc where
  form : Nat
  gva : Dword
  saddr : List Nat
  gstride : Nat
  rows : Nat
  rbytes : Nat
  obj : Nat
  first : Nat
  scope : Nat
  slotSide : Bool
  bobj : Option Place
  idx : List Nat
  deriving DecidableEq, Repr

/-- Who issued an operation (spec/09 R167): core, wave slot, lane; the address; and the block, which tells the wave from a later one in its
slot. -/
structure Issuer where
  core : Nat
  slot : Nat
  lane : Nat
  pc : Dword
  blk : Nat
  deriving DecidableEq, Repr

/-- The device itself, which no thread stands behind. -/
def Issuer.device : Issuer := ⟨192, 0, 0, 0, 0⟩

/-- An entry of a copy queue (spec/09 R169): the copies of a list that have been performed and those not yet, or a fence; its token (64 for none); the lanes of the
issuing path and the step of its issue, whose earlier accesses it follows (R170); whether the first copy has started, and the bytes it
read, row by row; the remote request it waits on. A fence waits for the operations named in `after`. `spoilt` says that a TSLW has made
its result undefined (R184); `landed` the bytes of the first copy that are written already, row by row (R173, R177, spec/14 R273). -/
structure CopyOp where
  id : Nat
  blk : Nat
  who : Issuer
  lanes : List Nat
  step : Nat
  tok : Nat
  gone : List CopyDesc
  list : List CopyDesc
  fence : Bool
  after : List Nat
  started : Bool
  captured : List (List Byte)
  landed : List Nat
  req : Option Nat
  spoilt : Bool
  deriving DecidableEq, Repr

/-- A token a matrix operation carries (spec/11 R232): who named it, its register, whether an MMA's. -/
structure Token where
  who : Issuer
  reg : Nat
  mma : Bool
  deriving DecidableEq, Repr

/-- The array state a queue has latched (spec/09 R187, R194). Weight codes by 2^16 times the column plus the K row. -/
structure Latch where
  k : Nat
  n : Nat
  fmt : Nat
  scol : List Word
  codes : List (Nat × Half)
  deriving DecidableEq, Repr

/-- A matrix-queue operation (spec/09 R169, spec/11 R228, R239). `f6` is 10 for a fence. `ops` holds the captured operands by the numbers
of R239, a scalar as a list of one word; `table` a BIND's labels and coefficients; `obj` the tile it names, `slots` the operand slots and
`dest` the destination tile, by identifier; `after` the operations a fence waits for; `toks` the tokens written when it completes; `rule`
the index of the Tailor rule that emitted it and `set` the application of a rule it comes from, 0 for none; `fresh` whether a rule may
still match it in the window; `pleat` the pleat of R197, allocated by it where `newPleat`, and `setPleat` that of the first MMA of its set;
`labels` the label table a BIND uses; `untrust` whether its destination is marked untrusted when it completes (R174); `reset` the
latched state that is loaded before it enters the array (R192, spec/23 R350); `spoilt` whether a TSLW has made its result undefined (R184). -/
structure MatOp where
  id : Nat
  blk : Nat
  who : Issuer
  lanes : List Nat
  step : Nat
  f6 : Nat
  n : Nat
  ops : List (Nat × List Word)
  table : List (Nat × List Word)
  obj : Option Nat
  slots : List Nat
  dest : Option Nat
  after : List Nat
  toks : List Token
  rule : Option Nat
  set : Nat
  fresh : Bool
  pleat : Option Nat
  newPleat : Bool
  setPleat : Option Nat
  labels : List Nat
  untrust : Bool
  reset : Option Latch
  spoilt : Bool
  deriving DecidableEq, Repr

/-- Tokens of a matched set that emitted nothing, written when the operations ahead of it have completed (spec/11 R232). -/
structure VoidSet where
  after : List Nat
  toks : List Token
  deriving DecidableEq, Repr

/-- An operand slot of a core (spec/01 R32): its block, whether it is still mapped, its bytes (an unlisted one undefined). -/
structure Slot where
  blk : Nat
  mapped : Bool
  data : Bytes
  deriving DecidableEq, Repr

/-- An accumulator tile (spec/01 R33, spec/09 R195, R197). Elements by 192 times the row plus the column; an unlisted one is 0 in the
pleats of `zeroed`, else undefined. `breached` says that its spill area has been reached by other means while it was mapped (R196). -/
structure Tile where
  blk : Nat
  mapped : Bool
  m : Nat
  p : Nat
  policy : Nat
  spillN : Nat
  spill : Dword
  labels : List Nat
  untrusted : Bool
  breached : Bool
  zeroed : List Nat
  rows : Regs
  deriving DecidableEq, Repr

/-! ## Blocks, cores -/

/-- A block (spec/01 R14, R29, R30): where it runs, its scratchpad allocation (an unlisted byte 0), its registers o and a as
identifiers of slots and tiles, its five copy queues. Once its core has been saved it is on core 192, its scratchpad still there for its gang, and `away` is 4 times the core
it was on plus the panel of wave 0 (spec/23 R341). -/
structure Block where
  id : Nat
  gang : Nat
  index : Nat
  core : Nat
  nwaves : Nat
  class0 : Bool
  padSize : Nat
  pad : Bytes
  sbase : Nat
  o : List (Nat × Nat)
  a : List (Nat × Nat)
  queues : List (List CopyOp)
  ended : Bool
  away : Option Nat
  deriving DecidableEq, Repr

/-- A write of a core's threads in its view (spec/08 R144): the byte, the gang whose block made it, and its place in the location's order once
it has entered the order of a wave or a block (R143, R146). -/
structure ViewWrite where
  val : Byte
  gang : Nat
  stamp : Option Nat
  deriving DecidableEq, Repr

/-- A byte with the place its write took in its location's order (spec/08 R143). -/
structure Placed where
  val : Byte
  stamp : Nat
  deriving DecidableEq, Repr

/-- One matrix queue of a core: its operations, its latched state, the format and width of the latest WLOAD issued to it, the holder of
its thimble (a wave slot), the block of the last holder, and the latched state that the next operation issued brings, where the thimble has
passed to another block since one was; `kept` the latched states of blocks that resumed without the thimble (spec/09 R186, R192, R194, spec/23
R350). -/
structure MatQueue where
  ops : List MatOp
  latch : Latch
  wfmt : Nat
  wn : Nat
  holder : Option Nat
  lastBlk : Option Nat
  resetDue : Option Latch
  kept : List (Nat × Latch)
  deriving DecidableEq, Repr

/-- A translation fault that holds a core (spec/15 R281, spec/22 R333): kind, address, the waiting issuer, whether it is a copy,
whether the monitor has the record, and its number, and the step of the issue that it stopped. -/
structure FaultStop where
  kind : Nat
  va : Dword
  level : Nat
  write : Bool
  fetch : Bool
  copy : Option Nat
  who : Issuer
  vf : Nat
  recorded : Bool
  record : Nat
  step : Nat
  deriving DecidableEq, Repr

/-- The last issue from a wave: the core's clock, the address, the number of lanes and the lowest lane of its more populous path (spec/28
R409). -/
structure Issued where
  clk : Nat
  pc : Dword
  lanes : Nat
  low : Nat
  deriving DecidableEq, Repr

/-- A record of a panel's sample ring that is still to be written: a wave slot of a sample, or a mark (spec/28 R408, R411). -/
structure SampleRec where
  panel : Nat
  pc : Dword
  stamp : Word
  slot : Nat
  st : Nat
  reason : Nat
  func : Nat
  deriving DecidableEq, Repr

/-- A wave slot that was Active or Pending at the start of the cycle in which a sample falls (spec/28 R408): the slot and that of its wave (another, of a lining
slot), the wave's block and function, the SLOT byte, and the address its lowest live lane stood at. -/
structure Seen where
  slot : Nat
  wave : Nat
  blk : Nat
  vf : Nat
  byte : Nat
  pc : Dword
  deriving DecidableEq, Repr

/-- A core (spec/01 R12, R13). `issued` holds the last issue by wave slot, `sampleAt` by panel the clock at which the next sample is due
(spec/28 R408), `roster` the wave slots of the samples that fall in this cycle, `marks` the marks made in it, `unwritten` the records taken
before (R411, R412). `array` is the operation in the array, with whether it is of class 0, since `arrayAt`; `winSince` the later of the last time the
matrix queue held a waiting operation and the arrival of the window's oldest entry (spec/11 R229). -/
structure Core where
  writes : List (Nat × ViewWrite)
  snap : List (Nat × Placed)
  icache : Bytes
  powered : Bool
  gatedAt : Nat
  clkOff : Nat
  faults : List FaultStop
  window : List MatOp
  winSince : Nat
  mq : MatQueue
  mq0 : MatQueue
  array : Option (Bool × MatOp)
  arrayAt : Nat
  voids : List VoidSet
  slots : List (Nat × Slot)
  tiles : List (Nat × Tile)
  issued : List (Nat × Issued)
  sampleAt : List (Nat × Nat)
  roster : List Seen
  marks : List SampleRec
  unwritten : List SampleRec
  rowsDue : List Nat
  deriving DecidableEq, Repr

/-! ## Launches and gangs -/

/-- The fields of a launch record (spec/21 R301). -/
structure LaunchRec where
  entry : Dword
  g : Nat
  l : Nat
  cls : Nat
  tail : Nat
  flags : Nat
  args : Nat
  scratch : Nat
  levels : List Word
  pva : Dword
  pwords : Nat
  cmask : Nat
  ncount : Nat
  notch : Dword
  ctab : Dword
  pattern : Dword
  ttab : Dword
  ranges : Dword
  spawnq : Dword
  edges : Dword
  ecount : Nat
  done : Dword
  tcb : Dword
  coll : Dword
  deriving DecidableEq, Repr

/-- A range of a range list (spec/22 R327): first address, length in bytes, flags. -/
structure Range where
  va : Nat
  len : Nat
  flags : Nat
  deriving DecidableEq, Repr

/-- A notch (spec/12 R252). -/
structure Notch where
  addr : Nat
  gmask : Nat
  pmask : Nat
  lcmask : Nat
  deriving DecidableEq, Repr

/-- What the dispatcher reads once from a record's tables (spec/21 R303): the record, where it lies, parameter words, constant banks
(bank, address, size) and their bytes as they were then (by 2^16 times the bank plus the offset, an unlisted one 0), notches, pattern
rules as bytes, ranges. -/
structure Prog where
  va : Dword
  lrec : LaunchRec
  params : List Word
  banks : List (Nat × Nat × Nat)
  cbytes : Bytes
  notches : List Notch
  rules : List (List Byte)
  ranges : List Range
  deriving DecidableEq, Repr

/-- The collective block of a launch (spec/24 R354). -/
structure Coll where
  cdesc : Dword
  inst : Nat
  op : Nat
  red : Nat
  role : Nat
  rbase : Nat
  rstride : Nat
  chunk : Nat
  nchunk : Nat
  rbobj : Nat
  mul : List Nat
  root : Nat
  deriving DecidableEq, Repr

/-- An edge whose consumer is due and waits (spec/21 R312, R313): since when, the items it held then, whether it is due as the last of its launch. -/
structure DueEdge where
  edge : Nat
  since : Nat
  items : Nat
  drain : Bool
  deriving DecidableEq, Repr

/-- Work of a launch that the dispatcher may start (spec/21 R306): a spawned task, the consumer of an edge, its next gang. -/
inductive Work where
  | spawn
  | edge (e : Nat)
  | gang
  deriving DecidableEq, Repr

/-- A launch being run (spec/21). `started` counts the gangs of the launch itself that have started, `live` the gangs and tasks running;
`status` is that of R307, 0 while not yet running; `held` the partitions on which its work is not placed for now (spec/23 R341); `consumers` the edges with a live consumer; `aborting` the class, code and address of
the throw that aborts it; `fired` the chunk and core of each block of a FIRE launch that has exited (spec/24 R356); `waitAbort` the class
that a wait on its instance throws (spec/24 R360); `used` the cores it has used; `pubReq` the request its last publish
waits on; `tstart` the time of its first issue (R307); `leased` whether its leases are granted, `tleased` the templates whose are
(spec/22 R328); `spawned` when each waiting spawn entry became due and the partition of its parent, oldest first (R306, R311), `due` the edges whose
consumer is due and waits (R312). -/
structure Launch where
  id : Nat
  vf : Nat
  part : Nat
  prog : Prog
  templates : List (Nat × Prog)
  edgeVas : List Nat
  coll : Option Coll
  status : Nat
  started : Nat
  live : Nat
  consumers : List Nat
  halted : Bool
  held : List Nat
  aborting : Option (Nat × Word × Dword)
  visibleAt : Nat
  fired : List (Nat × Nat)
  waitAbort : Option Nat
  used : List Nat
  pubReq : Option Nat
  tstart : Option Nat
  leased : Bool
  tleased : List Nat
  spawned : List (Nat × Nat)
  due : List DueEdge
  deriving DecidableEq, Repr

/-- A started gang (spec/21 R309, spec/27 R393). `tmpl` is the template index plus 1, 0 for the launch itself; `overlay` the writes
placed at .gang and at no wider scope; `log` the old bytes of the lines it wrote in the open interval, with the stamp that each has
while no other context writes it; `restart` whether a relaunch goes to the image in
`State.restarts`; `reported` its stall is reported (spec/27 R401); `hard` a thread of it has been hard-stopped (spec/23 R342); `baste` its
stop is a basting checkpoint's, `rolling` a rollback's (spec/27 R393, R395); `still` that its last thread has stopped, so that none issues until it
resumes (R343); `hit` a poisoned line it has consumed; `part` the partition it was first placed in (spec/21 R311). -/
structure Gang where
  id : Nat
  launch : Nat
  part : Nat
  tmpl : Nat
  index : Nat
  args : List Word
  edge : Option Nat
  taskRec : Nat
  stop : Bool
  stopAt : Nat
  tries : Nat
  total : Nat
  interval : Nat
  openedAt : Nat
  openStamp : Nat
  overlay : List (Nat × Placed)
  log : List (Nat × Placed)
  restart : Bool
  reported : Bool
  hard : Bool
  baste : Bool
  rolling : Bool
  still : Bool
  hit : Option Nat
  deriving DecidableEq, Repr

/-- The phase of a barrier instance: its launch, its level, its group (spec/10 R203). -/
structure BarInst where
  launch : Nat
  gang : Nat
  level : Nat
  group : Nat
  phase : Nat
  deriving DecidableEq, Repr

/-- A saved block (spec/23 R347), with the slots and tiles by their register, the latched state if it holds the thimble. -/
structure SavedBlock where
  block : Block
  waves : List Wave
  slots : List (Nat × Slot)
  tiles : List (Nat × Tile)
  latch : Option Latch
  holder : Option Nat
  deriving DecidableEq, Repr

/-- A context image (spec/23 R346); `edits` the bytes of it that the monitor has changed (R349). -/
structure Image where
  id : Nat
  gang : Gang
  hard : Bool
  halt : Bool
  lined : Bool
  tsave : Nat
  blocks : List SavedBlock
  phases : List BarInst
  edits : List (Nat × Byte)
  deriving DecidableEq, Repr

/-! ## The device -/

/-- A range resident for a function (spec/22 R328 to R331): leases held, the time of its last release, whether it is being evicted. -/
structure Resident where
  id : Nat
  vf : Nat
  range : Range
  leases : Nat
  released : Nat
  evicting : Bool
  away : Bool
  deriving DecidableEq, Repr

/-- A page of an evicted range (spec/22 R330): its function, the address it begins at, the level of its leaf, the device frame it has left and returns to, and
the frame of host or CXL memory that its entry names meanwhile (log entry 32). -/
structure Moved where
  vf : Nat
  va : Nat
  level : Nat
  frame : Nat
  far : Nat
  deriving DecidableEq, Repr

/-- A record that the device submits and whose queue is full (spec/10 R224, spec/21 R300): function, class, index drawn, where it lies. -/
structure Submit where
  vf : Nat
  cls : Nat
  index : Nat
  va : Nat
  deriving DecidableEq, Repr

/-- A tag record of ADMIT (spec/10 R223). -/
structure TagRec where
  vf : Nat
  bucket : Nat
  tag : Word
  grant : Word
  deriving DecidableEq, Repr

/-- A refill of a bucket and the instant of the last one (spec/21 R316). -/
structure Refill where
  vf : Nat
  bucket : Nat
  instant : Nat
  deriving DecidableEq, Repr

/-- A partition (spec/22 R334 to R338): its neighbourhoods, its function, the function a switch in progress brings,
whether it is being scrubbed, whether its system image runs, the digest of that image, and whether the Bobbin firmware in it is Ivdel's
(spec/24 R362). -/
structure Partition where
  nbh : List Nat
  vf : Nat
  incoming : Option Nat
  queued : Option Nat
  scrubbing : Bool
  booted : Bool
  image : List Byte
  ivdel : Bool
  deriving DecidableEq, Repr

/-- A translation that a core holds, or, with core 192, a lease (spec/22 R324, R328): the core, the function, its PASID, the level of its leaf, the page and the frame it maps
to, each counted in pages of that level, the R, W and X bits. -/
structure Cached where
  core : Nat
  vf : Nat
  pasid : Nat
  level : Nat
  page : Nat
  frame : Nat
  perms : Nat
  deriving DecidableEq, Repr

/-- A place of a function's fault ring whose record the monitor has not answered (spec/22 R333): the function, the number of the record, its unit. -/
structure FaultSlot where
  vf : Nat
  record : Nat
  unit : Nat
  deriving DecidableEq, Repr

/-- An invalidation in progress (spec/22 R325). -/
structure Inval where
  id : Nat
  vf : Nat
  va : Nat
  len : Nat
  step : Nat
  deriving DecidableEq, Repr

/-- What a request asks for (spec/26 R375, R378): a read of data, or of instructions; a write; a posted write, which no response answers, and
the zero-length read that follows it; an ordered access or atomic; a chunk of an instance of a communicator, for a rank (spec/24 R362); a
write or a read of a spool for an instance of a communicator (spec/24 R364). -/
inductive ReqKind where
  | read
  | fetch
  | write
  | posted
  | flush
  | memo (op : MemoOp)
  | chunk (comm inst rank : Nat)
  | spool (comm inst : Nat) (read : Bool)
  deriving DecidableEq, Repr

/-- A request to host, CXL or peer memory (spec/26 R375 to R381): the numbers by which what waits for it knows it, its region (0 host, 1 CXL, 2 a
peer), the peer, the address, the issuing thread, its data, when it was sent, the held time not counted, where its address goes out untranslated
to the host, the PASID it carries (spec/22 R325), and whether the package has since let go of what it asks for or carries: the bytes of a read are then
asked for again, and those of a write leave with its response (R378); the function it is made for, where one is known, and its virtual channel on UALink (R377). -/
structure Request where
  id : Nat
  grps : List Nat
  region : Nat
  peer : Nat
  pa : Nat
  len : Nat
  who : Issuer
  kind : ReqKind
  data : List Byte
  sentAt : Nat
  heldNs : Nat
  pasid : Option Nat
  outdated : Bool
  vf : Option Nat
  vc : Nat
  deriving DecidableEq, Repr

/-- The hold of a peer (spec/26 R383): when it began, its last notice, whether notices are ignored. -/
structure PeerHold where
  peer : Nat
  began : Nat
  last : Nat
  ignoring : Bool
  deriving DecidableEq, Repr

/-- A command of a Bobbin (spec/24 R362), with the instance that the communicator performed when it was given. -/
inductive BobCmd where
  | send (inst : Nat) (isSlot : Bool) (ix : Nat) (rank : Nat)
  | reduce (inst : Nat) (slot : Nat) (isSlot : Bool) (ix : Nat)
  | write (inst : Nat) (slot : Nat) (chunk : Nat)
  | free (slot : Nat)
  | done (inst : Nat) (chunk : Nat)
  deriving DecidableEq, Repr

/-- An event of a Bobbin's event ring (spec/24 R362). -/
inductive BobEvent where
  | fire (chunk : Nat)
  | arrive (chunk : Nat) (rank : Nat) (slot : Nat)
  | credit
  | abort (cause : Nat)
  | error
  deriving DecidableEq, Repr

/-- A slot of a communicator (spec/24 R353, R362): the instance, chunk and rank it holds, its dense bytes, how many ranks' contributions
they combine. -/
structure ChunkSlot where
  inst : Nat
  chunk : Nat
  rank : Nat
  data : List Byte
  parts : Nat
  deriving DecidableEq, Repr

/-- An instance of a communicator on this package (spec/24 R357, R366): the launch that fires it, chunks fired, done, written whole and
written in part, with how many ranks' contributions were combined into them, whether it aborted and why; `breached` the fired chunks whose
bytes something else has written (spec/24 R356), `turn` how many commands of its current chunk schedule 0 has had performed (spec/25 R370). -/
structure CollInst where
  inst : Nat
  launch : Nat
  coll : Coll
  fired : List Nat
  done : List Nat
  written : List Nat
  torn : List Nat
  folded : List (Nat × Nat)
  aborted : Option (Nat × Nat)
  complete : Bool
  breached : List Nat
  turn : Nat
  deriving DecidableEq, Repr

/-- An open communicator (spec/24 R352 to R367). Slots by number; the spool oldest first, by the
place each chunk lies at; what has been sent, by rank, in the form it went in, oldest first; `notices` the aborts kept for instances not yet
active, with cause and rank (spec/24 R366). -/
structure Comm where
  id : Nat
  vf : Nat
  cdesc : Dword
  pa : Nat
  commid : Nat
  nrank : Nat
  rank : Nat
  peers : List Nat
  home : Nat
  vc : Nat
  prio : Nat
  sched : Nat
  nslot : Nat
  dens : Nat
  slotb : Nat
  spoolVa : Nat
  spoolCap : Nat
  abrec : Dword
  instances : List CollInst
  notices : List (Nat × Nat × Nat)
  slots : List (Nat × ChunkSlot)
  spool : List (Nat × ChunkSlot)
  cmds : List BobCmd
  events : List BobEvent
  lastServed : Nat
  sent : List (Nat × ChunkSlot)
  deriving DecidableEq, Repr

/-- The monitor's registers and records: `faultOpen` the fault records that wait for its answer (spec/22 R333), `events` those of the health ring by unit
and time (spec/27 R399). The monitor's registers are words by space, index and offset (spec/00 R5), an unlisted one
holding its reset value. -/
structure Monitor where
  regs : Regs
  faultHead : List (Nat × Nat)
  faultOpen : List FaultSlot
  events : List (Nat × Nat)
  lasting : List Nat
  bootStage : Nat
  recovery : Bool
  deriving DecidableEq, Repr

/-- The time input and counts (spec/26 R387): the nanoseconds since reset, which bounds and timeouts are measured in (spec/00 R4); the 1588
count, whether the input is locked, was ever locked, is lost; the losses; the time of the input that the count runs ahead of, and the half
nanosecond left over at half rate. -/
structure Clock where
  wall : Nat
  now : Nat
  lock : Bool
  ever : Bool
  hold : Bool
  losses : Nat
  input : Nat
  half : Nat
  deriving DecidableEq, Repr

/-- What acts next: an issue opportunity of a panel for one of its wave slots, a step of the device, or time passing. -/
inductive Choice where
  | issue (core panel slot : Nat)
  | event (i : Instr)
  | advance (cycles ns : Nat)
  deriving DecidableEq, Repr

/-- The path being issued (spec/13 R264): core, wave slot, the address and length of its instruction, its lanes. -/
structure Issue where
  core : Nat
  slot : Nat
  pc : Dword
  len : Nat
  lanes : List Nat
  counted : Bool
  deriving DecidableEq, Repr

/-- The whole machine. `mem` holds device memory and the package's copies of remote memory by physical address, an unlisted byte 0;
`tlb` the translations that cores hold (spec/22 R324), `stamps` the place the last write of a home byte took (an unlisted one 0); `copies` the remote bytes the package holds, true where
the far side has not been sent the byte (spec/26 R378), `owned` the place of the package's own last write of a remote byte and the function it was made for, 256 for none (R296, spec/22 R325); `loose` the bytes
whose last writes no publish has covered yet, with the place of the last write before them that a refresh must bring (spec/14 R272); `doomed` the bytes whose write a poisoned publish has lost, with the number it waits
under, which leave the view when it completes (R381); `poisoned` lists the lines that read poisoned, `images` the saved gangs by gang, `restarts` the images of basting
checkpoints by gang (spec/27 R393). `retraining` holds the ports that retrain with the time they began, `noticed` the time of the last hold
notice sent to each peer (spec/26 R384), `answer` the bytes that the last read from outside got, none for Completer Abort or an error
response (spec/26 R373, R382), `early` the abort notices of partners for a COMMID that no open descriptor has: COMMID, instance, rank
(spec/24 R366), `visible` when each launch record that waits became visible (spec/21 R300), by its queue and index, `ended` the instances that have aborted, by the physical address of their descriptor and their number (spec/24 R357). The fields from `agenda` on are the model's own. -/
structure State where
  waves : List Wave
  blocks : List (Nat × Block)
  gangs : List (Nat × Gang)
  launches : List (Nat × Launch)
  cores : List (Nat × Core)
  bars : List BarInst
  mem : List Host.Cell
  stamps : List (Nat × Nat)
  copies : List (Nat × Bool)
  owned : List (Nat × Nat × Nat)
  loose : List (Nat × Nat)
  doomed : List (Nat × Nat)
  poisoned : List (Nat × Bool)
  residents : List Resident
  moved : List Moved
  tags : List TagRec
  refills : List Refill
  partitions : List (Nat × Partition)
  invals : List Inval
  tlb : List Cached
  requests : List Request
  holds : List PeerHold
  retraining : List (Nat × Nat)
  noticed : List (Nat × Nat)
  answer : Option (List Byte)
  comms : List (Nat × Comm)
  early : List (Nat × Nat × Nat)
  ended : List (Nat × Nat)
  images : List (Nat × Image)
  restarts : List (Nat × Image)
  submits : List Submit
  visible : List (Nat × Nat)
  mon : Monitor
  clock : Clock
  cycles : Nat
  agenda : List Choice
  cur : Issue
  second : Option Issue
  free : Nat
  ids : Nat
  stamp : Nat
  inject : List Nat
  deriving DecidableEq, Repr

/-- The latched array state after a reset (spec/09 R192): zero codes, K = 128, N = 192, b8p4, unit column scales. -/
def Latch.reset : Latch := { k := 128, n := 192, fmt := 3, scol := List.replicate 192 0x3F800000#32, codes := [] }

/-- A matrix queue at reset. -/
def MatQueue.reset : MatQueue :=
  { ops := [], latch := Latch.reset, wfmt := 3, wn := 192, holder := none, lastBlk := none, resetDue := none, kept := [] }

/-- A core at reset: the value an unlisted core has. -/
def Core.reset : Core :=
  { writes := [], snap := [], icache := [], powered := true, gatedAt := 0, clkOff := 0, faults := [], window := [], winSince := 0,
    mq := MatQueue.reset, mq0 := MatQueue.reset, array := none, arrayAt := 0, voids := [], slots := [], tiles := [], issued := [], sampleAt := [],
    roster := [], marks := [], unwritten := [], rowsDue := [] }

/-- No path. -/
def Issue.none : Issue := { core := 0, slot := 0, pc := 0, len := 4, lanes := [], counted := false }

/-- The monitor at reset (spec/22 R340): the boot ROM's stage. -/
def Monitor.reset : Monitor :=
  { regs := [], faultHead := [], faultOpen := [], events := [], lasting := [], bootStage := 0, recovery := false }

/-- The time input at reset (spec/26 R387). -/
def Clock.reset : Clock :=
  { wall := 0, now := 0, lock := false, ever := false, hold := false, losses := 0, input := 0, half := 0 }

/-- A partition at reset (log entry 29): one neighbourhood, no function (256), nothing booted. -/
def Partition.reset (n : Nat) : Partition :=
  { nbh := [n], vf := 256, incoming := none, queued := none, scrubbing := false, booted := false, image := [], ivdel := false }

/-- The device right after reset: no launch, no gang, no wave; memory with nothing listed; every register of the maps at its reset
value; the boot ROM's stage. -/
def State.reset : State :=
  { waves := [], blocks := [], gangs := [], launches := [], cores := [], bars := [], mem := [], stamps := [], copies := [], owned := [], loose := [], doomed := [],
    poisoned := [], residents := [], moved := [], tags := [], refills := [],
    partitions := (List.range 48).map (fun n => (n, Partition.reset n)), invals := [], tlb := [], requests := [], holds := [], retraining := [], noticed := [], answer := Option.none,
    comms := [], early := [], ended := [], images := [], restarts := [], submits := [], visible := [], mon := Monitor.reset, clock := Clock.reset, cycles := 0, agenda := [], cur := Issue.none,
    second := Option.none, free := 0, ids := 0, stamp := 0, inject := [] }

end Sys2Proof.Machine
end

