-- ==== Sys2Proof/Machine/Base.lean ====
section
/-! DEFINITION. Reading and changing the parts of the state by their names. -/

namespace Sys2Proof.Machine

/-- Core `c`; one that nothing has changed is as reset leaves it. -/
def State.core (s : State) (c : Nat) : Core := getD s.cores Core.reset c
/-- The state with core `c` changed. -/
def State.onCore (s : State) (c : Nat) (f : Core → Core) : State := { s with cores := insertAt s.cores c (f (s.core c)) }

/-- The matrix queue of a core that waves of the class use (spec/09 R194). -/
def Core.queue (k : Core) (zero : Bool) : MatQueue := if zero then k.mq0 else k.mq
/-- The core with that matrix queue changed. -/
def Core.onQueue (k : Core) (zero : Bool) (f : MatQueue → MatQueue) : Core :=
  if zero then { k with mq0 := f k.mq0 } else { k with mq := f k.mq }

def State.block? (s : State) (b : Nat) : Option Block := look s.blocks b
def State.gang? (s : State) (g : Nat) : Option Gang := look s.gangs g
def State.launch? (s : State) (l : Nat) : Option Launch := look s.launches l

/-- A keyed list with one present entry changed. -/
def onKey {α : Type} (m : List (Nat × α)) (k : Nat) (f : α → α) : List (Nat × α) :=
  match look m k with
  | some v => insertAt m k (f v)
  | none => m

def State.onBlock (s : State) (b : Nat) (f : Block → Block) : State := { s with blocks := onKey s.blocks b f }
def State.onGang (s : State) (g : Nat) (f : Gang → Gang) : State := { s with gangs := onKey s.gangs g f }
def State.onLaunch (s : State) (l : Nat) (f : Launch → Launch) : State := { s with launches := onKey s.launches l f }
def State.onComm (s : State) (k : Nat) (f : Comm → Comm) : State := { s with comms := onKey s.comms k f }

/-- Whether a wave is the one in a slot of a core. -/
def Wave.isAt (w : Wave) (c slot : Nat) : Bool := w.core == c && w.slot == slot
/-- The wave in a slot of a core. -/
def State.wave? (s : State) (c slot : Nat) : Option Wave := s.waves.find? (fun w => w.isAt c slot)
/-- The state with the wave in a slot of a core changed. -/
def State.onWave (s : State) (c slot : Nat) (f : Wave → Wave) : State :=
  { s with waves := s.waves.map (fun w => if w.isAt c slot then f w else w) }
/-- The wave with one lane changed. -/
def Wave.onLane (w : Wave) (l : Nat) (f : Thread → Thread) : Wave :=
  { w with lanes := w.lanes.map (fun t => if t.lane = l then f t else t) }
/-- The state with one lane of one wave changed. -/
def State.onLane (s : State) (c slot l : Nat) (f : Thread → Thread) : State := s.onWave c slot (fun w => w.onLane l f)
/-- The state with every thread that satisfies a test changed. -/
def State.onThreads (s : State) (p : Wave → Thread → Bool) (f : Thread → Thread) : State :=
  { s with waves := s.waves.map (fun w => { w with lanes := w.lanes.map (fun t => if p w t then f t else t) }) }
def Wave.lane? (w : Wave) (l : Nat) : Option Thread := w.lanes.find? (fun t => t.lane == l)
def State.lane? (s : State) (c slot l : Nat) : Option Thread := (s.wave? c slot).bind (fun w => w.lane? l)

/-- The mask of the live lanes of a wave ($live, spec/01 R22). -/
def Wave.live (w : Wave) : Nat := maskOf 32 (fun l => w.lanes.any (fun t => t.live && t.lane == l))

/-- The program a gang runs: the launch's own, or a template's (spec/21 R309). -/
def Launch.progOf (l : Launch) (tmpl : Nat) : Prog :=
  if tmpl = 0 then l.prog
  else
    match look l.templates (tmpl - 1) with
    | some p => p
    | none => l.prog

/-- The gang of a block, and its launch. -/
def State.gangOf (s : State) (b : Nat) : Option Gang := (s.block? b).bind (fun k => s.gang? k.gang)
def State.launchOf (s : State) (b : Nat) : Option Launch := (s.gangOf b).bind (fun g => s.launch? g.launch)
/-- The program of a block. -/
def State.progOf (s : State) (b : Nat) : Option Prog :=
  match s.gangOf b with
  | some g =>
    match s.launch? g.launch with
    | some l => some (l.progOf g.tmpl)
    | none => none
  | none => none

/-- The ranges a launch holds leases on (spec/22 R329): its own, and those of the templates it has been granted. -/
def Launch.held? (l : Launch) : List Range :=
  l.prog.ranges ++ (l.templates.filter (fun t => l.tleased.elem t.1)).flatMap (fun t => t.2.ranges)
/-- The leased ranges of a block's launch. -/
def State.leaseOf (s : State) (b : Nat) : List Range :=
  match s.launchOf b with
  | some l => l.held?
  | none => []

/-- The record an absent program is read as. -/
def LaunchRec.zero : LaunchRec :=
  { entry := 0, g := 8, l := 2, cls := 7, tail := 32, flags := 0, args := 0, scratch := 0, levels := [], pva := 0, pwords := 0,
    cmask := 0, ncount := 0, notch := 0, ctab := 0, pattern := 0, ttab := 0, ranges := 0, spawnq := 0, edges := 0, ecount := 0,
    done := 0, tcb := 0, coll := 0 }
/-- The launch record a wave runs under. -/
def State.recOf (s : State) (b : Nat) : LaunchRec :=
  match s.progOf b with
  | some p => p.lrec
  | none => LaunchRec.zero
/-- The virtual function of a block. -/
def State.vfOf (s : State) (b : Nat) : Nat :=
  match s.launchOf b with
  | some l => l.vf
  | none => 0

/-- Flags of a record (spec/21 R301). -/
def LaunchRec.lined (r : LaunchRec) : Bool := r.flags.testBit 0
def LaunchRec.cores (r : LaunchRec) : Bool := r.flags.testBit 1
def LaunchRec.debug (r : LaunchRec) : Bool := r.flags.testBit 2
def LaunchRec.rnd (r : LaunchRec) : Nat := r.flags / 8 % 4
def LaunchRec.collective (r : LaunchRec) : Bool := r.flags.testBit 5

/-- $gszk of a record (spec/21 R302): 1 at the top level and beyond. -/
def LaunchRec.gsz (r : LaunchRec) (k : Nat) : Nat := if k < r.l then (r.levels.getD k 0).toNat / 2 ^ 16 else 1
/-- The domain of a level. -/
def LaunchRec.domain (r : LaunchRec) (k : Nat) : Nat := (r.levels.getD k 0).toNat % 4
/-- The scope bound to a level. -/
def LaunchRec.scopeOf (r : LaunchRec) (k : Nat) : Nat := (r.levels.getD k 0).toNat / 16 % 8
/-- A level number, one of L or greater naming the top level (spec/01 R16). -/
def LaunchRec.levelOf (r : LaunchRec) (k : Nat) : Nat := if k < r.l then k else r.l - 1
/-- The product of $gsz of the levels `lo` to `lo + n - 1`. -/
def LaunchRec.prodGsz (r : LaunchRec) : Nat → Nat → Nat
  | _, 0 => 1
  | lo, n + 1 => r.gsz lo * r.prodGsz (lo + 1) n
/-- Waves in one group of level `k`. -/
def LaunchRec.wavesIn (r : LaunchRec) (k : Nat) : Nat := r.prodGsz 0 k
/-- The group of level `k` that holds a wave of the launch, by the wave's place. -/
def LaunchRec.groupOf (r : LaunchRec) (k wlin : Nat) : Nat := wlin / max 1 (r.wavesIn k)
/-- $grpk of a wave (spec/01 R15). -/
def LaunchRec.grp (r : LaunchRec) (k wlin : Nat) : Nat := r.groupOf k wlin % max 1 (r.gsz k)
/-- The highest level of a domain, if one has it. -/
def LaunchRec.topOf (r : LaunchRec) (dom : Nat) : Option Nat :=
  ((List.range r.l).filter (fun k => r.domain k == dom)).getLast?
/-- The level whose groups are blocks (spec/21 R302). -/
def LaunchRec.blockLevel (r : LaunchRec) : Nat := (r.topOf 1).getD 1
/-- The level whose groups are gangs; the block level where there is no gang domain. -/
def LaunchRec.gangLevel (r : LaunchRec) : Nat := (r.topOf 2).getD r.blockLevel
def LaunchRec.hasGang (r : LaunchRec) : Bool := (r.topOf 2).isSome
/-- Waves in a block, blocks in a gang, gangs in a launch. -/
def LaunchRec.wavesPerBlock (r : LaunchRec) : Nat := r.wavesIn r.blockLevel
def LaunchRec.blocksPerGang (r : LaunchRec) : Nat := r.wavesIn r.gangLevel / max 1 r.wavesPerBlock
def LaunchRec.gangs (r : LaunchRec) : Nat := r.prodGsz r.gangLevel (8 - r.gangLevel)

/-- The blocks of a gang. -/
def State.blocksOf (s : State) (g : Nat) : List Block := (s.blocks.map (·.2)).filter (fun b => b.gang == g)
/-- The gangs that have a block on a core. -/
def State.gangsOn (s : State) (c : Nat) : List Nat := ((s.blocks.map (·.2)).filter (fun b => b.core == c)).map (·.gang)
/-- The waves of a gang, of a launch. -/
def State.inGang (s : State) (g : Nat) (w : Wave) : Bool :=
  match s.block? w.blk with
  | some b => b.gang == g
  | none => false
def State.inLaunch (s : State) (l : Nat) (w : Wave) : Bool :=
  match s.gangOf w.blk with
  | some g => g.launch == l
  | none => false

/-- The clock of a core (spec/10 R227): cycles counted while it was powered. -/
def State.clockOf (s : State) (c : Nat) : Nat :=
  let k := s.core c
  if k.powered then s.cycles - k.clkOff else k.gatedAt - k.clkOff

/-- An undefined word, read for the first time in this step under a number of its own. -/
def State.freeWord (s : State) (i : Nat) : Word := Config.freeWord s.free i
/-- A choice the spec leaves to the device. -/
def State.freeBit (s : State) (i : Nat) : Bool := Config.freeBit s.free i

end Sys2Proof.Machine
end

