-- ==== Sys2Proof/Machine/Mem.lean ====
section
/-! DEFINITION. Memory: the home of each physical address, the view of each core, publish and refresh, scratchpads, leases and the
page-table walk (spec/08 R141 to R164, spec/01 R28 to R31, spec/22 R320 to R333). -/

namespace Sys2Proof.Machine

/-! ## Bytes at their home -/

/-- One byte of memory: an unlisted address reads 0 (log entry 2). -/
def readMem (m : List Host.Cell) (pa : Nat) : Byte := getD m 0#8 pa
/-- Memory with one byte written. -/
def writeMem (m : List Host.Cell) (pa : Nat) (b : Byte) : List Host.Cell := setD m 0#8 pa b
/-- The canonical form of memory. -/
def memWf (m : List Host.Cell) : Bool := canonical 0#8 m

/-- A home byte with the place its last write took in its location's order. -/
def State.home (s : State) (pa : Nat) : Placed := ⟨readMem s.mem pa, getD s.stamps 0 pa⟩

/-- A number from bytes, the first least significant (spec/00 R3). -/
def leNat : List Byte → Nat
  | [] => 0
  | b :: rest => b.toNat + 256 * leNat rest
/-- The `n` bytes of a number, the least significant first. -/
def leBytes : Nat → Nat → List Byte
  | 0, _ => []
  | n + 1, x => BitVec.ofNat 8 x :: leBytes n (x / 256)

/-- Home bytes as a number: how the dispatcher, the monitor and the walk read memory. -/
def State.homeNat (s : State) (pa len : Nat) : Nat := leNat ((List.range len).map (fun i => readMem s.mem (pa + i)))
/-- Home bytes as they stand. -/
def State.homeBytes (s : State) (pa len : Nat) : List Byte := (List.range len).map (fun i => readMem s.mem (pa + i))

/-- The regions of physical addresses (spec/22 R320). -/
inductive PaRegion where
  | near | lpddr | host | cxl
  | peer (p : Nat)
  deriving DecidableEq, Repr

/-- The region of a physical address; none outside the map. -/
def regionOf (pa : Nat) : Option PaRegion :=
  if pa < 2 ^ 33 then some .near
  else if 0x10000000000 ≤ pa ∧ pa < 0x1C000000000 then some .lpddr
  else if 0x40000000000000 ≤ pa ∧ pa < 0x80000000000000 then some .host
  else if 0x80000000000000 ≤ pa ∧ pa < 0xC0000000000000 then some .cxl
  else if 0xC0000000000000 ≤ pa ∧ pa < 2 ^ 56 then some (.peer ((pa - 0xC0000000000000) / 2 ^ 44))
  else none

/-- Device memory (R320). -/
def isDevice (pa : Nat) : Bool := regionOf pa == some .near || regionOf pa == some .lpddr
/-- Memory beyond the package: host, CXL or a peer. -/
def isRemote (pa : Nat) : Bool := !isDevice pa && (regionOf pa).isSome

/-- A window that names this package's own peer number reaches its own device memory (R320). -/
def ownWindow (pa : Nat) : Nat :=
  match regionOf pa with
  | some (.peer p) => if p = Config.ownPeer then pa % 2 ^ 44 else pa
  | _ => pa

/-- A log of old bytes with the line of a byte: every byte of it not yet logged keeps the value it has and the place of its last write (spec/27 R393). -/
def logOld (s : State) (log : List (Nat × Placed)) (pa : Nat) : List (Nat × Placed) :=
  let base := pa / 64 * 64
  (List.range 64).foldl (fun l i =>
    if (look l (base + i)).isSome then l else insertAt l (base + i) (s.home (base + i))) log
/-- A logged byte takes the place of a write that the context makes, unless another context has written it in between (spec/27 R395). -/
def logTake (s : State) (log : List (Nat × Placed)) (pa stamp : Nat) : List (Nat × Placed) :=
  onKey log pa (fun e => if e.stamp = getD s.stamps 0 pa then { e with stamp := stamp } else e)
/-- The gang's log of old bytes with a write about to be placed. -/
def logLine (s : State) (log : List (Nat × Placed)) (pa stamp : Nat) : List (Nat × Placed) := logTake s (logOld s log pa) pa stamp

/-- A cached instruction byte that differs from what has just been written is kept until a refresh (spec/02 R418). -/
def keepOld (k : Core) (pa : Nat) (old : Byte) : Core :=
  { k with icache := if (look k.icache pa).isSome then k.icache else insertAt k.icache pa old }

/-- The function of a gang, 256 for none. -/
def State.gangFn (s : State) (g : Option Nat) : Nat := ((g.bind s.gang?).bind (fun k => s.launch? k.launch)).elim 256 (fun l => l.vf)

/-- A byte placed in the order at the home, at its place in the location's order (spec/08 R143): a write that follows it there stays. Every
core may go on fetching the old value (spec/02 R418). The
basting log of the writing gang takes the line's old value first; the line no longer reads poisoned (spec/27 R395); a remote byte has then
to be sent (spec/26 R378), and is the package's own (spec/19 R296). -/
def State.homeWrite (s : State) (gang : Option Nat) (pa : Nat) (b : Byte) (stamp : Nat) : State :=
  if getD s.stamps 0 pa ≤ stamp then
    let s1 : State := match gang with
      | some g => if isDevice pa then s.onGang g (fun k => { k with log := logLine s k.log pa stamp }) else s
      | none => s
    let old := readMem s.mem pa
    { s1 with cores := s1.cores.map (fun p => (p.1, if isDevice pa then keepOld p.2 pa old else p.2))
              mem := writeMem s1.mem pa b, stamps := setD s1.stamps 0 pa stamp, poisoned := eraseAt s1.poisoned (pa / 64 * 64),
              copies := if isRemote pa then insertAt s1.copies pa true else s1.copies,
              owned := if isRemote pa then insertAt s1.owned pa (stamp, s.gangFn gang) else s1.owned }
  else s

/-- The next place in the order of writes. -/
def State.nextStamp (s : State) : State := { s with stamp := s.stamp + 1 }

/-- The place of the last write that the home or a gang's instance holds of a byte. -/
def State.lastStamp (s : State) (pa : Nat) : Nat :=
  s.gangs.foldl (fun n g =>
    match look g.2.overlay pa with
    | some p => max n p.stamp
    | none => n) (getD s.stamps 0 pa)
/-- A byte about to be written with no publish: what a refresh must bring stays the last write before (spec/14 R272). -/
def State.loosen (s : State) (pa : Nat) : State := { s with loose := insertAt s.loose pa ((look s.loose pa).getD (s.lastStamp pa)) }
/-- The writes of a byte up to a place are such as a refresh must bring (R147). -/
def State.bind (s : State) (pa stamp : Nat) : State :=
  match look s.loose pa with
  | some n => { s with loose := if s.lastStamp pa ≤ max n stamp then eraseAt s.loose pa else insertAt s.loose pa (max n stamp) }
  | none => s

/-- Bytes written at the home by an agent outside the cores, one after another. -/
def State.homeWriteBytes (s : State) (gang : Option Nat) (pa : Nat) : List Byte → State
  | [] => s
  | b :: rest =>
    let s1 : State := { s with stamp := s.stamp + 1 }
    State.homeWriteBytes ((s1.homeWrite gang pa b s1.stamp).bind pa s1.stamp) gang (pa + 1) rest

/-- What an agent outside the cores writes of some bytes of device memory for contexts, by gang: it is logged as theirs (spec/27 R393). -/
def State.asContexts (s : State) (gs pas : List Nat) (f : State → State) : State :=
  let dev := pas.filter isDevice
  let s1 : State := { s with gangs := s.gangs.map (fun p => if gs.elem p.1 then (p.1, { p.2 with log := dev.foldl (logOld s) p.2.log }) else p) }
  let t := f s1
  { t with gangs := t.gangs.map (fun p =>
      if gs.elem p.1 then (p.1, { p.2 with log := dev.foldl (fun l pa => logTake s l pa (getD t.stamps 0 pa)) p.2.log }) else p) }

/-! ## Views -/

/-- The later of two placed bytes. -/
def later (a b : Placed) : Placed := if a.stamp ≤ b.stamp then b else a

/-- The byte of the snapshot of a core: what it holds of the location, or, unlisted, the latest of what the gangs of the core and the
home hold (spec/08 R141, R145). -/
def State.snapByte (s : State) (c pa : Nat) : Placed :=
  match look (s.core c).snap pa with
  | some p => p
  | none =>
    (s.gangsOn c).foldl (fun acc g =>
      match (s.gang? g).bind (fun k => look k.overlay pa) with
      | some p => later acc p
      | none => acc) (s.home pa)

/-- The byte a core's view holds: its own write not yet placed takes precedence over the snapshot (R144). -/
def State.viewByte (s : State) (c pa : Nat) : Byte :=
  match look (s.core c).writes pa with
  | some w => w.val
  | none => (s.snapByte c pa).val

/-- Bytes of the view. -/
def State.viewBytes (s : State) (c pa len : Nat) : List Byte := (List.range len).map (fun i => s.viewByte c (pa + i))

/-- A store enters the core's view (R141, R144). -/
def State.viewWrite (s : State) (c gang pa : Nat) : List Byte → State
  | [] => s
  | b :: rest =>
    State.viewWrite (s.onCore c (fun k => { k with writes := insertAt k.writes pa ⟨b, gang, none⟩ })) c gang (pa + 1) rest

/-- Whether a scope reaches beyond the cores of the gang. -/
def wide (sc : Nat) : Bool := decide (3 ≤ sc)

/-- A list of placed bytes takes one at its place, where it has the location. -/
def takeLater (m : List (Nat × Placed)) (pa : Nat) (p : Placed) : List (Nat × Placed) :=
  match look m pa with
  | some q => insertAt m pa (later q p)
  | none => m

/-- The writes of a core's view among some locations take their places in those locations' orders, staying in the view: they have entered the
order of a wave or a block (R143, R146). -/
def State.orderOwn (s : State) (c : Nat) (p : Nat → Bool) : State :=
  let s1 := s.nextStamp
  s1.onCore c (fun k => { k with writes := k.writes.map (fun x =>
    if p x.1 ∧ x.2.stamp.isNone then (x.1, { x.2 with stamp := some s1.stamp }) else x) })

/-- One write of a core's view placed at a scope (R143, R146), at the place in the location's order that it has or now takes: at the gang, in its
order; wider, at the home. The snapshot takes it. -/
def State.placeByte (s : State) (c gang sc pa : Nat) (w : ViewWrite) : State :=
  let s1 := s.nextStamp
  let st := w.stamp.getD s1.stamp
  let s2 := s1.onCore c (fun k => { k with writes := eraseAt k.writes pa, snap := takeLater k.snap pa ⟨w.val, st⟩ })
  if wide sc then s2.homeWrite (some w.gang) pa w.val st
  else s2.onGang gang (fun k => { k with overlay :=
    if (look k.overlay pa).isSome then takeLater k.overlay pa ⟨w.val, st⟩ else insertAt k.overlay pa ⟨w.val, st⟩ })

/-- The writes a gang's instance holds and the home does not, placed at the home in their places (R143, R146). -/
def State.flushOverlay (s : State) (g : Nat) : State :=
  match s.gang? g with
  | some k =>
    let s1 := k.overlay.foldl (fun t p => t.homeWrite (some g) p.1 p.2.val p.2.stamp) s
    s1.onGang g (fun k => { k with overlay := [] })
  | none => s

/-- The same of one byte. -/
def State.flushByte (s : State) (g pa : Nat) : State :=
  match (s.gang? g).bind (fun k => look k.overlay pa) with
  | some p => (s.homeWrite (some g) pa p.val p.stamp).onGang g (fun k => { k with overlay := eraseAt k.overlay pa })
  | none => s

/-- A publish of a core covers the writes that its view holds: whom it precedes must see them (R146, R148). -/
def State.covered (s : State) (c : Nat) : State :=
  s.loose.foldl (fun t p => t.bind p.1 (((look (s.core c).snap p.1).map (fun q => q.stamp)).getD (s.lastStamp p.1))) s
/-- Step 2 and 3 of a publish by a thread of a core: every write of the core's view is placed in the instance's order (R146). At .wave
and .block, and at .gang of a launch without gangs, nothing leaves the view, where the writes keep their places (R152, R143). What the view holds from another gang of the core goes on
to the home. -/
def State.publish (s : State) (c gang sc : Nat) (hasGang : Bool) : State :=
  if sc ≤ 1 ∨ (sc = 2 ∧ hasGang = false) then s.orderOwn c (fun _ => true)
  else
    let s1 := (s.core c).writes.foldl (fun t p => t.placeByte c gang sc p.1 p.2) s
    (((s1.gangsOn c).filter (fun g => wide sc || g != gang)).foldl State.flushOverlay s1).covered c

/-! ## Scratchpads -/

/-- The block and offset a scratch address of a block reaches (spec/01 R29); none where the address faults. -/
def State.padAt (s : State) (blk a : Nat) : Option (Nat × Nat) :=
  match s.block? blk with
  | none => none
  | some b =>
    if a < b.padSize then some (blk, a)
    else if 0x01000000 ≤ a ∧ a < 0x01400000 ∧ (s.recOf blk).hasGang then
      let ix := (a - 0x01000000) / 0x40000
      let off := (a - 0x01000000) % 0x40000
      match (s.blocksOf b.gang).find? (fun k => k.index == ix) with
      | some k => if off < k.padSize then some (k.id, off) else none
      | none => none
    else none

/-- Whether every byte of a scratch range shorter than a window is one R29 accepts; a range over two windows reaches the end of the
first. -/
def State.padRange (s : State) (blk a len : Nat) : Bool :=
  let last := a + len - 1
  len == 0 || (decide (last < 2 ^ 32) && (s.padAt blk a).isSome && (s.padAt blk last).isSome &&
    (a / 0x40000 == last / 0x40000 || (s.padAt blk (last / 0x40000 * 0x40000 - 1)).isSome))

/-- One byte of a block's scratchpad: an unlisted one is 0 (spec/01 R29). -/
def State.padByte (s : State) (blk off : Nat) : Byte :=
  match s.block? blk with
  | some b => getD b.pad 0#8 off
  | none => 0#8
def State.padBytes (s : State) (blk off len : Nat) : List Byte := (List.range len).map (fun i => s.padByte blk (off + i))
/-- A scratchpad written. -/
def State.padWrite (s : State) (blk off : Nat) : List Byte → State
  | [] => s
  | b :: rest => State.padWrite (s.onBlock blk (fun k => { k with pad := setD k.pad 0#8 off b })) blk (off + 1) rest

/-- Bytes of a scratch range that R29 accepts, as a block reaches them. -/
def State.scratchBytes (s : State) (blk a len : Nat) : List Byte :=
  (List.range len).map (fun i =>
    match s.padAt blk (a + i) with
    | some (b, off) => s.padByte b off
    | none => 0#8)
/-- Bytes written there. -/
def State.scratchWrite (s : State) (blk a : Nat) : List Byte → State
  | [] => s
  | b :: rest =>
    let s1 := match s.padAt blk a with
      | some (k, off) => s.padWrite k off [b]
      | none => s
    State.scratchWrite s1 blk (a + 1) rest

/-- Bytes at a place, as a core reads them. -/
def State.readPlace (s : State) (c : Nat) (pl : Place) (len : Nat) : List Byte :=
  match pl with
  | .phys pa => s.viewBytes c pa len
  | .pad b off => s.padBytes b off len
/-- Bytes at a place, as a thread of a core stores them. -/
def State.writePlace (s : State) (c gang : Nat) (pl : Place) (data : List Byte) : State :=
  match pl with
  | .phys pa => s.viewWrite c gang pa data
  | .pad b off => s.padWrite b off data

/-! ## Leases and translation -/

/-- Bits 63:57 equal bit 56 (spec/01 R28). -/
def canonicalVa (va : Dword) : Bool :=
  let top := va.toNat / 2 ^ 56
  top == 0 || top == 0xFF

/-- Whether a launch's ranges let an access through (spec/22 R329). -/
def inLease (rs : List Range) (va : Nat) (write fetch : Bool) : Bool :=
  rs.any (fun r => decide (r.va ≤ va) && decide (va < r.va + r.len) && (!write || r.flags.testBit 0) && (!fetch || r.flags.testBit 1))

/-- How a walk ends (R323): an address, or a fault by its KIND of R333 with the level. -/
inductive Walk where
  | ok (pa : Nat)
  | fail (kind : Nat) (level : Nat)
  deriving DecidableEq, Repr

/-- The index of a virtual address at a level (R321). -/
def vaIndex (va level : Nat) : Nat := if level = 0 then va / 2 ^ 16 % 32 else va / 2 ^ (12 + 9 * level) % 512
/-- The size of a page mapped at a level. -/
def pageBits (level : Nat) : Nat := if level = 0 then 16 else 12 + 9 * level

/-- Whether a bit of an entry that must be 0 is 1, or LEAF breaks R322. -/
def entryBad (e level : Nat) : Bool :=
  decide (e / 2 ^ 56 ≠ 0) || decide (e / 2 ^ 6 % 4 ≠ 0) ||
  (e.testBit 1 && decide (3 ≤ level)) || (!e.testBit 1 && level == 0) ||
  (e.testBit 1 && decide (e / 2 ^ 8 * 2 ^ 8 % 2 ^ pageBits level ≠ 0))

/-- The walk from a table of a level down (R323). `fuel` is the level plus 1. -/
def walkFrom (s : State) (va : Nat) (write fetch : Bool) : Nat → Nat → Walk
  | 0, _ => .fail 3 0
  | level + 1, addr =>
    let e := s.homeNat (addr + 8 * vaIndex va level) 8
    if !e.testBit 0 then .fail 1 level
    else if entryBad e level then .fail 3 level
    else if e.testBit 5 then .fail 3 level
    else if e.testBit 1 then
      if (fetch && !e.testBit 4) || (write && !e.testBit 3) || (!write && !fetch && !e.testBit 2) then .fail 2 level
      else .ok (e / 2 ^ 8 * 2 ^ 8 + va % 2 ^ pageBits level)
    else
      let next := e / 2 ^ 8 * 2 ^ 8
      if isDevice next then walkFrom s va write fetch level next else .fail 3 level

/-- A leaf entry of a table (R321): its level, where it stands, the entry. -/
structure Leaf where
  level : Nat
  place : Nat
  entry : Nat
  deriving DecidableEq, Repr
/-- The address of the page that a leaf maps. -/
def Leaf.frame (l : Leaf) : Nat := l.entry / 2 ^ 8 * 2 ^ 8
/-- The size of that page. -/
def Leaf.bytes (l : Leaf) : Nat := 2 ^ pageBits l.level
/-- The leaf that maps an address, from a table of a level down, or the level at which the walk finds none (R323). `fuel` is the level plus 1. -/
def leafFrom (s : State) (va : Nat) : Nat → Nat → Except Nat Leaf
  | 0, _ => .error 0
  | level + 1, addr =>
    let place := addr + 8 * vaIndex va level
    let e := s.homeNat place 8
    let next := e / 2 ^ 8 * 2 ^ 8
    if !e.testBit 0 || entryBad e level || e.testBit 5 then .error level
    else if e.testBit 1 then .ok ⟨level, place, e⟩
    else if isDevice next then leafFrom s va level next
    else .error level

/-- The register spaces of the monitor's registers (spec/00 R5): a word's key. -/
def regKey (space ix off : Nat) : Nat := (space * 2 ^ 12 + ix) * 2 ^ 20 + off

/-- A word of a virtual function's configuration (spec/22 R326), reset 0. -/
def State.vfWord (s : State) (vf off : Nat) : Nat := (getD s.mon.regs 0 (regKey 2 vf off)).toNat
/-- A doubleword of it. -/
def State.vfDword (s : State) (vf off : Nat) : Nat := s.vfWord vf off + 2 ^ 32 * s.vfWord vf (off + 4)

/-- The address of a page as it is used: an access fault where it lies outside every region (R320). -/
def Walk.reach (w : Walk) : Walk :=
  match w with
  | .fail k l => .fail k l
  | .ok pa => if (regionOf (ownWindow pa)).isSome then .ok (ownWindow pa) else .fail 4 0
/-- The PASID of a function (R324, R326). -/
def State.pasidOf (s : State) (vf : Nat) : Nat := s.vfWord vf 0 % 2 ^ 20
/-- The leaf that maps an address of a function's process, or the level at which there is none. -/
def State.leafOf (s : State) (vf va : Nat) : Except Nat Leaf := leafFrom s va 5 (s.vfDword vf 8)
/-- The size of the page of a held translation, and the address it begins at. -/
def Cached.bytes (e : Cached) : Nat := 2 ^ pageBits e.level
def Cached.base (e : Cached) : Nat := e.page * e.bytes
/-- Whether a held translation is of some of a span of a function's addresses. -/
def Cached.meets (e : Cached) (vf va len : Nat) : Bool := e.vf == vf && decide (va < e.base + e.bytes) && decide (e.base < va + len)
/-- What a held translation gives an access (R324); a permission fault is one of its leaf's level (R333). -/
def Cached.walk (e : Cached) (va : Nat) (write fetch : Bool) : Walk :=
  if (fetch && !e.perms.testBit 2) || (write && !e.perms.testBit 1) || (!write && !fetch && !e.perms.testBit 0) then .fail 2 e.level
  else .ok (e.frame * e.bytes + va % e.bytes)
/-- The translation that a leaf gives, held by a core. -/
def Leaf.cached (l : Leaf) (core vf pasid va : Nat) : Cached := ⟨core, vf, pasid, l.level, va / l.bytes, l.frame / l.bytes, l.entry / 4 % 8⟩
/-- A translation of an address held from now on by a core; what it holds already stays (R324). -/
def State.holdTranslation (s : State) (core vf va : Nat) : State :=
  match s.leafOf vf va with
  | .error _ => s
  | .ok l =>
    let e := l.cached core vf (s.pasidOf vf) va
    if s.tlb.any (fun x => x.core == core && x.pasid == e.pasid && x.meets vf va 1) then s else { s with tlb := e :: s.tlb }
/-- The physical address of a canonical address in a function's process (R323, R320). Where a core still holds another translation than the one the table
gives, since an entry was changed and not invalidated, either is used (R325, spec/00 R9; log entry 9). -/
def State.translate (s : State) (vf : Nat) (va : Dword) (write fetch : Bool) : Walk :=
  let a := va.toNat % 2 ^ 57
  let now := walkFrom s a write fetch 5 (s.vfDword vf 8)
  match s.tlb.find? (fun e => e.pasid == s.pasidOf vf && e.meets vf a 1) with
  | none => now.reach
  | some e => if Config.freeNat s.free (7400000 + e.core) % 2 = 0 then now.reach else (e.walk a write fetch).reach

/-- The home address of a virtual address that the device itself reads; 2^56, an address outside memory that reads 0, where it is not mapped: a queue, a record, a notch or
other table that lies there reads as zeros (spec/12 R252 and spec/21 R299 to R303 are silent; log entry 35). -/
def State.devAddr (s : State) (vf : Nat) (va : Dword) (write : Bool) : Nat :=
  match s.translate vf va write false with
  | .ok pa => pa
  | .fail _ _ => 2 ^ 56

/-- A number at a virtual address, as the device reads it at the home. -/
def State.vaNat (s : State) (vf : Nat) (va : Dword) (len : Nat) : Nat := s.homeNat (s.devAddr vf va false) len

/-- What becomes of an access to a global address (spec/08 R157). -/
inductive Resolve where
  /-- it is made at a place -/
  | at (pl : Place)
  /-- FAULT (class 6) -/
  | trap
  /-- a throw of class LEASE -/
  | lease
  /-- a translation fault: the core stops (spec/15 R281) -/
  | stop (kind : Nat) (level : Nat)
  deriving DecidableEq, Repr

/-- The resident block whose aperture window holds an address (spec/01 R30); a block that has ended is resident no more, though its gang still holds its allocation (log
entry 27). -/
def State.windowOf (s : State) (va : Nat) : Option Block :=
  (s.blocks.map (·.2)).find? (fun b => !b.ended && decide (b.sbase ≤ va) && decide (va < b.sbase + 2 ^ 25))

/-- Steps 1 to 5 of R157 for an access of `size` bytes by a thread of a block. -/
def State.resolve (s : State) (blk : Nat) (va : Dword) (size : Nat) (write : Bool) : Resolve :=
  if va.toNat % size ≠ 0 then .trap
  else if !canonicalVa va then .trap
  else
    match s.windowOf va.toNat with
    | some b =>
      if b.id = blk then
        match s.padAt blk (va.toNat - b.sbase) with
        | some (k, off) => .at (.pad k off)
        | none => .trap
      else .trap
    | none =>
      if !inLease (s.leaseOf blk) va.toNat write false then .lease
      else
        match s.translate (s.vfOf blk) va write false with
        | .ok pa => .at (.phys pa)
        | .fail k l => .stop k l

/-- Whether a physical address lies under some bytes at virtual addresses of a function, found page by page. -/
def State.underSpan (s : State) (vf : Nat) (va : Dword) (len pa : Nat) (fetch : Bool) : Bool :=
  let first := va.toNat % 2 ^ 16
  (List.range ((first + len + 65535) / 65536)).any (fun k =>
    let i := 65536 * k + pa % 65536 - first
    decide (first ≤ 65536 * k + pa % 65536) && decide (i < len) &&
      (match s.translate vf (va + BitVec.ofNat 64 i) false fetch with
       | .ok x => x == pa
       | .fail _ _ => false))

/-- Whether a byte of code lies in the body of a loop that is active in some lane of a core (spec/07 R136). -/
def State.inLoopBody (s : State) (c pa : Nat) : Bool :=
  s.waves.any (fun w => w.core == c && w.lanes.any (fun t => t.live && (t.loops ++ t.suspended).any (fun l =>
    s.underSpan (s.vfOf w.blk) l.start (l.fin - l.start).toNat pa true)))

/-- Whether a snapshot's entry misses only writes that no publish has covered, which a refresh need not bring (R147, spec/14 R272). -/
def State.lags (s : State) (p : Nat × Placed) : Bool := isDevice p.1 && ((look s.loose p.1).map (fun b => decide (b ≤ p.2.stamp))).getD false
/-- Whether a refresh of a core leaves the aligned 64-byte unit of an address as its snapshot has it, as the device may choose (R142, spec/14 R272): all
it misses is such writes. -/
def State.leaves (s : State) (c pa : Nat) : Bool :=
  let unit := (s.core c).snap.filter (fun p => p.1 / 64 == pa / 64)
  unit.any s.lags && s.freeBit (2 ^ 45 + pa / 64) &&
  unit.all (fun p => s.lags p || decide (s.lastStamp p.1 ≤ p.2.stamp))

/-- Whether a write of a byte beyond the package is under way (spec/26 R378). -/
def Request.carries (q : Request) (pa : Nat) : Bool :=
  (match q.kind with
   | .write | .posted => true
   | _ => false) && decide (q.pa ≤ pa) && decide (pa < q.pa + q.len)
def State.inFlight (s : State) (pa : Nat) : Bool := s.requests.any (fun q => q.carries pa)
/-- The copies of remote bytes that nothing keeps in the package: those it has neither to send nor under way. -/
def State.droppable (s : State) : List Nat := (s.copies.filter (fun p => !p.2 && !s.inFlight p.1)).map (fun p => p.1)
/-- Some of those let go: another core whose view has had them keeps the aligned 64-byte units that the package holds whole (R142). -/
def State.dropCopies (s : State) (c : Nat) (gone : List Nat) : State :=
  let units := ((gone.map (fun pa => pa / 64)).eraseDups).filter (fun u => (List.range 64).all (fun i => (look s.copies (64 * u + i)).isSome))
  { s with
    copies := s.copies.filter (fun p => !gone.elem p.1)
    cores := s.cores.map (fun k => if k.1 = c then k else (k.1, { k.2 with snap := units.foldl (fun m u => (List.range 64).foldl (fun m i =>
      if (look m (64 * u + i)).isSome then m else insertAt m (64 * u + i) (s.snapByte k.1 (64 * u + i))) m) k.2.snap })) }

/-- Step 2 of a refresh (R147): the core's snapshot is brought up to date with what the package's orders hold; at .tenant and wider its cached
instructions are discarded (spec/02 R418), but in the bodies of its active loops (spec/07 R136). Below .system nothing that another package's
or the host's memory alone holds is fetched again: of remote memory only the package's own later writes come in (spec/26 R378, spec/19 R296). At .system
the package's copies of remote memory are discarded, too, but for what it still has to send, and for what is under way, which stays until it has
arrived; what has been asked for before is not used. -/
def State.refresh (s : State) (c sc : Nat) (hasGang : Bool) : State :=
  if sc ≤ 1 ∨ (sc = 2 ∧ hasGang = false) then s
  else
    let gone := fun (p : Nat × Placed) => sc == 5 || !isRemote p.1 || decide (p.2.stamp < ((look s.owned p.1).map (fun o => o.1)).getD 0)
    let s1 := s.onCore c (fun k => { k with
      snap := k.snap.filter (fun p => !gone p || s.leaves c p.1), icache := if wide sc then k.icache.filter (fun p => s.inLoopBody c p.1) else k.icache })
    if sc = 5 then { (s1.dropCopies c s1.droppable) with requests := s1.requests.map (fun q => { q with outdated := true }) } else s1

/-- The scope policy of a function forbids a scope code (spec/08 R153, spec/22 R326). -/
def State.scopeForbidden (s : State) (vf sc : Nat) : Bool :=
  (sc == 4 && !(s.vfWord vf 44).testBit 0) || (sc == 5 && !(s.vfWord vf 44).testBit 1)

end Sys2Proof.Machine
end

