-- ==== Sys2Proof/Machine/Ops.lean ====
section
/-! DEFINITION. The operations the meanings are made of: reading and writing the registers of a thread under the tack rules
(spec/02 R38, R39), completing an instruction, taking a transfer, taking a user trap (spec/10 R214) and returning from one, throwing. -/

namespace Sys2Proof.Machine

/-! ## Registers -/

/-- The mark of a predicate, of a loop counter, of a special register (State.lean, Thread). -/
def markP (p : Nat) : Nat := 128 + p
def markLc (l : Nat) : Nat := 136 + l
def markSpecial (n : Nat) : Nat := 1024 + n
/-- The mark of a register of flags that an instruction has raised some in: each ORs its own into it (spec/04 R76). -/
def markFlags (n : Nat) : Nat := 4096 + n

/-- A value read while its result is outstanding is undefined (R39): a free word named by the step, the lane and the register. -/
def Thread.undefined (s : State) (t : Thread) (m : Nat) : Word := s.freeWord (t.lane * 4096 + m)

/-- g[r] as the thread reads it (R17, R39). -/
def Thread.g? (s : State) (t : Thread) (r : Nat) : Word := if t.marks.elem r then t.undefined s r else getD t.g 0 r
/-- A pair (R3): the even register holds bits 31:0. -/
def Thread.pair? (s : State) (t : Thread) (r : Nat) : Dword := (t.g? s (r + 1)) ++ (t.g? s r)
/-- p[r]: p7 reads 1 (R17). -/
def Thread.p? (s : State) (t : Thread) (r : Nat) : Bool :=
  if r = 7 then true else if t.marks.elem (markP r) then s.freeBit (t.lane * 4096 + markP r) else t.p.getLsbD r

/-- g[r] written as a result (R38). A second write with no park between them leaves the register undefined (R39). -/
def Thread.setG (s : State) (t : Thread) (r : Nat) (v : Word) : Thread :=
  { t with g := setD t.g 0 r (if t.marks.elem r then t.undefined s (2048 + r) else v), marks := r :: t.marks }
/-- A pair written as a result. -/
def Thread.setPair (s : State) (t : Thread) (r : Nat) (v : Dword) : Thread :=
  (t.setG s r (v.setWidth 32)).setG s (r + 1) ((v >>> 32).setWidth 32)
/-- A bit of a predicate byte. -/
def setBit (p : BitVec 8) (r : Nat) (b : Bool) : BitVec 8 :=
  if b then p ||| (1#8 <<< r) else p &&& ~~~(1#8 <<< r)
/-- p[r] written as a result; a write of p7 is ignored (R17). -/
def Thread.setP (s : State) (t : Thread) (r : Nat) (b : Bool) : Thread :=
  if r = 7 then t
  else { t with p := setBit t.p r (if t.marks.elem (markP r) then s.freeBit (t.lane * 4096 + 2048 + markP r) else b)
                marks := markP r :: t.marks }

/-- Whether a result of the thread is outstanding: a load, or an ordered access that writes a register (R38). -/
def Access.hasResult (a : Access) : Bool :=
  match a.kind with
  | .load _ _ _ => true
  | .memo op _ _ _ _ _ => op != .sto
  | _ => false
def Thread.outstanding (t : Thread) : Bool := t.acc.any Access.hasResult

/-- Whether the thread itself has written the special register since its last park: its value is then undefined to it, and another write leaves
it undefined (R39). -/
def Thread.specialPending (t : Thread) (n : Nat) : Bool :=
  t.marks.elem (markSpecial n) || t.marks.elem (markFlags n) ||
  (decide (0x090 ≤ n) && decide (n ≤ 0x092) && t.marks.elem (markLc (n - 0x090)))

/-- The park of a tack (R38): where no result is outstanding it is over at once, and every register may be read again. -/
def Thread.park (t : Thread) : Thread := if t.outstanding then { t with wait := .tack } else { t with marks := [] }
/-- The park, where the instruction has the tack bit. -/
def Thread.tackIf (t : Thread) (tack : Bool) : Thread := if tack then t.park else t

/-! ## Special registers of a wave -/

/-- A register of the wave that an instruction reads implicitly: the old value or the new one while an SWR's result has not returned,
the same for every lane of one instruction (spec/04 R71). With several SWRs of it in flight, any of the values before them may be the old one
(log entry 75). -/
def WaveRegs.implicit (s : State) (r : WaveRegs) (n : Nat) (new : Dword) : Dword :=
  let olds := (r.old.filter (fun p => p.1 == n)).map (fun p => p.2.1)
  if olds.isEmpty then new else (olds[Config.freeNat s.free (1000000 + n) % (olds.length + 1)]?).getD new

def WaveRegs.utvec? (s : State) (r : WaveRegs) : Dword := r.implicit s 0x060 r.utvec
def WaveRegs.itrap? (s : State) (r : WaveRegs) : Word := (r.implicit s 0x071 (r.itrap.setWidth 64)).setWidth 32
def WaveRegs.ftrap? (s : State) (r : WaveRegs) : Word := (r.implicit s 0x073 (r.ftrap.setWidth 64)).setWidth 32
def WaveRegs.frnd? (s : State) (r : WaveRegs) : Word := (r.implicit s 0x074 (r.frnd.setWidth 64)).setWidth 32
def WaveRegs.f8fmt? (s : State) (r : WaveRegs) : Word := (r.implicit s 0x075 (r.f8fmt.setWidth 64)).setWidth 32

/-- s[r]: s63 reads 0 (R17). -/
def WaveRegs.s? (r : WaveRegs) (i : Nat) : Word := if i = 63 then 0 else getD r.s 0 i
/-- s[r] written; a write of s63 is ignored. -/
def WaveRegs.setS (r : WaveRegs) (i : Nat) (v : Word) : WaveRegs := if i = 63 then r else { r with s := setD r.s 0 i v }
/-- A pair of s registers. -/
def WaveRegs.sPair (r : WaveRegs) (i : Nat) : Dword := r.s? (i + 1) ++ r.s? i

/-- The values before an SWR are dropped once its result has returned: a lane that issued it has parked since, or none is left. -/
def Wave.settleOld (w : Wave) : Wave :=
  let waits := fun (n : Nat) (t : Thread) => t.live && t.marks.elem (markSpecial n)
  { w with regs := { w.regs with old := w.regs.old.filter (fun p =>
      let own := w.lanes.filter (fun t => t.live && p.2.2.elem t.lane)
      !own.isEmpty && own.all (waits p.1)) } }

/-! ## Completing, transferring, trapping -/

/-- Whether an instruction that ends at an address is the last of an active level (spec/07 R133). -/
def Thread.endsLevel (t : Thread) (next : Dword) : Bool := t.loops.any (fun l => l.fin == next)

/-- An instruction of `len` bytes completes without a taken transfer: the thread stands after it; where it is the last of an active
level, the end check is due (R133). -/
def Thread.advance (t : Thread) (len : Nat) : Thread :=
  let next := t.pc + BitVec.ofNat 64 len
  { t with pc := next, endChk := t.endsLevel next }

/-- The levels a transfer leaves active: those, oldest first, whose body holds the target, up to the first that does not (R134). -/
def keptLevels (loops : List LoopLevel) (target : Dword) : List LoopLevel :=
  (loops.reverse.takeWhile (fun l => decide (l.start.toNat ≤ target.toNat) && decide (target.toNat ≤ l.last.toNat))).reverse

/-- A taken transfer (R128, R134). -/
def Thread.goto (t : Thread) (target : Dword) : Thread := { t with pc := target, loops := keptLevels t.loops target, endChk := false }

/-- An address with bit 0 taken as 0. -/
def clearBit0 (a : Dword) : Dword := a &&& ~~~1#64

/-- A thread throws (spec/10 R210): it stands until a region takes the throw, or the launch aborts. -/
def Thread.throws (t : Thread) (s : State) (cls : Nat) (code : Word) (xpc : Dword) : Thread :=
  { t with wait := .thrown ⟨cls, code, xpc, s.cycles, s.free⟩ }

/-- A throw of an instruction that issued in an earlier step (spec/18 R295). -/
def Thread.issuedIn (t : Thread) (step : Nat) : Thread :=
  match t.wait with
  | .thrown x => { t with wait := .thrown { x with step := step } }
  | _ => t

/-- What a thread has thrown. -/
def Thread.thrown? (t : Thread) : Option Throw :=
  match t.wait with
  | .thrown x => some x
  | _ => none

/-- TAKING A USER TRAP (spec/10 R214): $ucause and $uepc written, the handler state set, the active levels suspended (those of a first
entry stay suspended through a second), the PC at $utvec once earlier results have returned (spec/02 R40). With $utvec = 0 the thread
throws instead. A TRAP that is the last instruction of a body makes no end check (log entry 76). -/
def Thread.trap (s : State) (r : WaveRegs) (t : Thread) (cause : Word) (epc : Dword) : Thread :=
  let t1 : Thread := { t with ucause := cause, uepc := clearBit0 epc, endChk := false }
  let v := r.utvec? s
  if v = 0 then t1.throws s (cause.toNat % 256) (BitVec.ofNat 32 (cause.toNat / 256 % 128)) epc
  else
    { t1 with handler := true, hsilent := t.hsilent || cause.toNat % 256 == 10,
              suspended := if t.handler then t.suspended else t.loops, loops := [], pc := clearBit0 v }.park

/-- RETURN FROM A USER TRAP (spec/10 R216): the handler state clears, the suspended levels resume, the PC is $uepc. -/
def Thread.uret (s : State) (t : Thread) : Thread :=
  { t with handler := false, hsilent := false, loops := t.suspended, suspended := [], endChk := false,
           pc := clearBit0 (if t.marks.elem (markSpecial 0x061) then t.undefined s 3001 ++ t.undefined s 3000 else t.uepc) }

/-- What an instruction does in one lane. -/
inductive Out where
  /-- it completes, the thread changed -/
  | next (t : Thread)
  /-- it completes with a taken transfer -/
  | jump (t : Thread) (target : Dword)
  /-- it completes, the thread standing where it says -/
  | land (t : Thread)
  /-- it raises a user trap of a cause; the address is its own -/
  | trap (t : Thread) (cause : Word)
  /-- it raises a user trap whose $uepc is the next instruction's -/
  | trapAfter (t : Thread) (cause : Word)
  /-- it throws -/
  | throw (t : Thread) (cls : Nat) (code : Word)
  /-- it throws with an address of an earlier throw -/
  | rethrow (t : Thread) (cls : Nat) (code : Word) (xpc : Dword)
  /-- the thread waits, before the instruction or as `Wait` says -/
  | hold (t : Thread) (w : Wait)
  deriving DecidableEq, Repr

/-- The classes of exceptions (spec/01 R24). -/
def cARITH : Word := 2#32
def cILLOP : Word := 3#32
def cLOOPLEN : Word := 4#32
def cSCOPE : Word := 5#32
def cFAULT : Word := 6#32
def cSILENT : Word := 10#32

/-- The outcome of one lane applied to its thread. -/
def Out.apply (s : State) (r : WaveRegs) (len : Nat) (tack : Bool) : Out → Thread
  | .next t => (t.advance len).tackIf tack
  | .jump t a => (t.goto a).tackIf tack
  | .land t => t.tackIf tack
  | .trap t c => Thread.trap s r t c t.pc
  | .trapAfter t c => Thread.trap s r t c (t.pc + BitVec.ofNat 64 len)
  | .throw t c k => t.throws s c k t.pc
  | .rethrow t c k x => t.throws s c k x
  | .hold t w => { t with wait := w }

/-- Whether an outcome is an exception: it sets $tailrule (spec/01 R25) and flushes the window (spec/11 R236). -/
def Out.raises : Out → Bool
  | .next _ => false
  | .jump _ _ => false
  | .land _ => false
  | .hold _ _ => false
  | _ => true

/-- The window of a core flushed (spec/11 R235): no entry it holds can be matched any more. -/
def Core.flushWindow (k : Core) : Core := { k with window := k.window.map (fun e => { e with fresh := false }) }
/-- A flush caused by a thread of a block, where the block is the holder's (R236). -/
def State.flushFor (s : State) (c blk : Nat) : State :=
  s.onCore c (fun k => if k.window.any (fun e => e.blk == blk) then k.flushWindow else k)

/-- An exception of a wave that no rule of the Tailor stage is behind: $tailrule becomes 0 (spec/01 R25), the window flushes (spec/11 R236). -/
def State.reported (s : State) (c slot : Nat) : State :=
  match s.wave? c slot with
  | none => s
  | some w => (s.onWave c slot (fun v => { v with regs := { v.regs with tailrule := 0 } })).flushFor c w.blk

/-- The wave that issued an operation, while it lasts; a change of it. -/
def State.issuing? (s : State) (i : Issuer) : Option Wave := (s.wave? i.core i.slot).filter (fun w => w.blk == i.blk)
def State.onIssuing (s : State) (i : Issuer) (f : Wave → Wave) : State :=
  s.onWave i.core i.slot (fun w => if w.blk = i.blk then f w else w)

/-- The wave of the path being issued. -/
def State.curWave (s : State) : Option Wave := s.wave? s.cur.core s.cur.slot

/-- The wave being issued changed. -/
def State.onCur (s : State) (f : Wave → Wave) : State := s.onWave s.cur.core s.cur.slot f

/-- Whether a thread of a wave is one of the lanes being issued. -/
def State.isCur (s : State) (w : Wave) (t : Thread) : Bool := w.isAt s.cur.core s.cur.slot && s.cur.lanes.elem t.lane

/-- AN INSTRUCTION OF THE PATH BEING ISSUED, LANE BY LANE: each lane changes only its own thread; an exception in some lane sets
$tailrule to 0 and flushes the window. -/
def State.perLane (s : State) (tack : Bool) (f : Wave → Thread → Out) : State :=
  match s.curWave with
  | none => s
  | some w0 =>
    let s1 := s.onWave s.cur.core s.cur.slot (fun w =>
      let raised := w.lanes.any (fun t => s.cur.lanes.elem t.lane && (f w t).raises)
      let w1 : Wave := { w with lanes := w.lanes.map (fun t =>
        if s.cur.lanes.elem t.lane then (f w t).apply s w.regs s.cur.len tack else t) }
      (if raised then { w1 with regs := { w1.regs with tailrule := 0 } } else w1).settleOld)
    if w0.lanes.any (fun t => s.cur.lanes.elem t.lane && (f w0 t).raises) then s1.flushFor s.cur.core w0.blk else s1

/-- The declared count of the wave being issued (R17). -/
def State.declared (s : State) : Nat :=
  match s.curWave with
  | some w => (s.recOf w.blk).g
  | none => 128

/-- A g register an instruction may name: below g(G−1), or g127 (spec/01 R18). -/
def State.regOk (s : State) (r : Nat) : Bool := r == 127 || decide (r + 1 < s.declared)

/-- Every lane of the path takes ILLOP (spec/03 R57). -/
def State.illop (s : State) : State := s.perLane false (fun _ t => .trap t cILLOP)
/-- Every lane of the path takes a user trap of a cause. -/
def State.trapAll (s : State) (cause : Word) : State := s.perLane false (fun _ t => .trap t cause)
/-- Every lane of the path waits. -/
def State.holdAll (s : State) (w : Wait) : State := s.perLane false (fun _ t => .hold t w)

/-- An instruction that names registers: ILLOP where one lies outside the declared count (R18). -/
def State.withRegs (s : State) (regs : List Nat) (k : State) : State := if regs.all s.regOk then k else s.illop

/-- An instruction lane by lane that names registers. -/
def State.lanes (s : State) (regs : List Nat) (tack : Bool) (f : Wave → Thread → Out) : State :=
  s.withRegs regs (s.perLane tack f)

/-- An instruction that reads s registers: the path stalls while a token among them is pending (spec/02 R41), which also flushes the
window where it is a window entry's (spec/11 R236). -/
def State.withTokens (s : State) (regs : List Nat) (k : State) : State :=
  match s.curWave with
  | none => s
  | some w =>
    let pend := regs.filter (fun r => r != 63 && w.regs.tok.testBit r)
    if pend.isEmpty then k
    else
      let m := maskOf 64 (fun r => pend.elem r)
      (s.onCore s.cur.core (fun c =>
        if c.window.any (fun e => e.toks.any (fun p => p.who.slot == s.cur.slot && pend.elem p.reg)) then c.flushWindow else c)).holdAll
        (.token m)

/-- A next state. -/
abbrev Res := Host.Outcome State Fault Refusal
def done (s : State) : Res := .next s
/-- A step of the device whose outcome is a state, as a function of the state. -/
def Res.get (r : Res) (s : State) : State :=
  match r with
  | .next t => t
  | .fault _ => s
  | .refused _ => s

end Sys2Proof.Machine
end

