-- ==== Sys2Proof/Machine/Operands.lean ====
section
/-! DEFINITION. The operand forms of the register instructions: registers, pairs, immediates, predicates, the A operand of the address
forms (spec/02 R42, R43, R44; spec/05 R85). Sources are read before the destination is written. -/

namespace Sys2Proof.Machine

/-- A signed immediate of `w` bits as a word (R95, R98). -/
def imm {w : Nat} (i : BitVec w) : Word := i.signExtend 32

/-- `g[D] := f(g[A], g[B])`. -/
def alu2 (d a b : Reg) (t : Bool) (f : Word → Word → Word) (s : State) : Res :=
  done (s.lanes [d.toNat, a.toNat, b.toNat] t (fun _ th =>
    .next (th.setG s d.toNat (f (th.g? s a.toNat) (th.g? s b.toNat)))))

/-- `g[D] := f(g[A])`. -/
def alu1 (d a : Reg) (t : Bool) (f : Word → Word) (s : State) : Res :=
  done (s.lanes [d.toNat, a.toNat] t (fun _ th => .next (th.setG s d.toNat (f (th.g? s a.toNat)))))

/-- A destructive form: `g[D] := f(g[D], g[A], g[B])` (R85). -/
def alu3 (d a b : Reg) (t : Bool) (f : Word → Word → Word → Word) (s : State) : Res :=
  done (s.lanes [d.toNat, a.toNat, b.toNat] t (fun _ th =>
    .next (th.setG s d.toNat (f (th.g? s d.toNat) (th.g? s a.toNat) (th.g? s b.toNat)))))

/-- A destructive form on the pair at D. -/
def aluPair (d a b : Reg) (t : Bool) (f : Dword → Word → Word → Dword) (s : State) : Res :=
  done (s.lanes [d.toNat, d.toNat + 1, a.toNat, b.toNat] t (fun _ th =>
    .next (th.setPair s d.toNat (f (th.pair? s d.toNat) (th.g? s a.toNat) (th.g? s b.toNat)))))

/-- `p[D] := f(g[A], g[B])`. -/
def cmp2 (p : PReg) (a b : Reg) (t : Bool) (f : Word → Word → Bool) (s : State) : Res :=
  done (s.lanes [a.toNat, b.toNat] t (fun _ th =>
    .next (th.setP s p.toNat (f (th.g? s a.toNat) (th.g? s b.toNat)))))

/-- `p[D] := f(g[A], immediate)`. -/
def cmpImm (p : PReg) (a : Reg) (i : BitVec 10) (t : Bool) (f : Word → Word → Bool) (s : State) : Res :=
  done (s.lanes [a.toNat] t (fun _ th => .next (th.setP s p.toNat (f (th.g? s a.toNat) (imm i)))))

/-- `p[D] := f(p[A], p[B])`. -/
def pred2 (p a b : PReg) (t : Bool) (f : Bool → Bool → Bool) (s : State) : Res :=
  done (s.lanes [] t (fun _ th => .next (th.setP s p.toNat (f (th.p? s a.toNat) (th.p? s b.toNat)))))

end Sys2Proof.Machine
end

