-- ==== Sys2Proof/Machine/Flags.lean ====
section
/-! DEFINITION. The flag and condition computations and the operations they can divert into an ARITH trap (spec/01 R23, spec/04 R76, R77,
spec/05 R87, R92). -/

namespace Sys2Proof.Machine

/-- The integer conditions (R23). -/
def iDZ : Word := 1#32
def iOV : Word := 2#32

/-- The sum with carry in: the low word and the carry out (R87). -/
def addCarry (a b : Word) (c : Bool) : Word × Bool :=
  let v := a.toNat + b.toNat + c.toNat
  (BitVec.ofNat 32 v, decide (2 ^ 32 ≤ v))
/-- The difference with borrow in: the low word and the borrow (R87). -/
def subBorrow (a b : Word) (c : Bool) : Word × Bool :=
  (a - b - BitVec.ofNat 32 c.toNat, decide (a.toNat < b.toNat + c.toNat))

/-- Division or remainder, signed or not, with its condition (R92). -/
def divide (signed rem : Bool) (a b : Word) : Word × Word :=
  if signed then
    if b = 0 then (if rem then a else 0xFFFFFFFF#32, iDZ)
    else if a = 0x80000000#32 ∧ b = 0xFFFFFFFF#32 then (if rem then 0 else 0x80000000#32, iOV)
    else
      let q := a.toInt.tdiv b.toInt
      (if rem then BitVec.ofInt 32 (a.toInt - b.toInt * q) else BitVec.ofInt 32 q, 0)
  else if b = 0 then (if rem then a else 0xFFFFFFFF#32, iDZ)
  else (if rem then BitVec.ofNat 32 (a.toNat % b.toNat) else BitVec.ofNat 32 (a.toNat / b.toNat), 0)

/-- A register of flags with some raised in it, a result (R76, spec/02 R38): undefined after a write of it by SWR that is outstanding
(spec/02 R39). -/
def Thread.raised (s : State) (t : Thread) (n : Nat) (old fl : Word) : Word :=
  if t.marks.elem (markSpecial n) then t.undefined s (3400 + n) &&& (if n = 0x070 then 3#32 else 0x1F#32) else old ||| fl
/-- Integer conditions raised by an instruction that completes. -/
def Thread.raiseInt (s : State) (t : Thread) (cond : Word) : Thread :=
  if cond = 0 then t else { t with iflags := t.raised s 0x070 t.iflags cond, marks := markFlags 0x070 :: t.marks }
/-- Floating-point flags raised by one. -/
def Thread.raiseFp (s : State) (t : Thread) (fl : Word) : Thread :=
  if fl = 0 then t else { t with fflags := t.raised s 0x072 t.fflags fl, marks := markFlags 0x072 :: t.marks }

/-- A lane that raises integer conditions: with one enabled in $itrap it takes ARITH, its destination unwritten; else it completes. In
both cases $iflags takes what was raised (R77, R92). -/
def intOut (s : State) (w : Wave) (th : Thread) (cond : Word) (write : Thread → Thread) : Out :=
  if cond &&& w.regs.itrap? s ≠ 0 then .trap { th with iflags := th.iflags ||| cond } cARITH else .next (write (th.raiseInt s cond))

/-- A lane that raises floating-point flags, some enabled (R76, R77). -/
def fpOutIf (s : State) (enabled : Word) (th : Thread) (fl : Word) (write : Thread → Thread) : Out :=
  if fl &&& enabled ≠ 0 then .trap { th with fflags := th.fflags ||| fl } cARITH else .next (write (th.raiseFp s fl))
/-- A lane that raises floating-point flags under $ftrap. -/
def fpOut (s : State) (w : Wave) (th : Thread) (fl : Word) (write : Thread → Thread) : Out := fpOutIf s (w.regs.ftrap? s) th fl write

/-- The rounding mode of $frnd (R71). -/
def Wave.mode (s : State) (w : Wave) : RMode := RMode.ofBits ((w.regs.frnd? s).setWidth 2)

/-- `g[D] := f(mode, g[A], g[B])` with flags. -/
def fp2 (d a b : Reg) (t : Bool) (f : RMode → Word → Word → Word × Word) (s : State) : Res :=
  done (s.lanes [d.toNat, a.toNat, b.toNat] t (fun w th =>
    let r := f (w.mode s) (th.g? s a.toNat) (th.g? s b.toNat)
    fpOut s w th r.2 (fun th1 => th1.setG s d.toNat r.1)))

/-- A destructive form: `g[D] := f(mode, g[D], g[A], g[B])` with flags. -/
def fp3 (d a b : Reg) (t : Bool) (f : RMode → Word → Word → Word → Word × Word) (s : State) : Res :=
  done (s.lanes [d.toNat, a.toNat, b.toNat] t (fun w th =>
    let r := f (w.mode s) (th.g? s d.toNat) (th.g? s a.toNat) (th.g? s b.toNat)
    fpOut s w th r.2 (fun th1 => th1.setG s d.toNat r.1)))

/-- `g[D] := f(mode, g[A])` with flags. -/
def fp1 (d a : Reg) (t : Bool) (f : RMode → Word → Word × Word) (s : State) : Res :=
  done (s.lanes [d.toNat, a.toNat] t (fun w th =>
    let r := f (w.mode s) (th.g? s a.toNat)
    fpOut s w th r.2 (fun th1 => th1.setG s d.toNat r.1)))

/-- `p[D] := f(g[A], g[B])` with flags (spec/06 R107). -/
def fpCmp (p : PReg) (a b : Reg) (t : Bool) (f : Word → Word → Bool × Word) (s : State) : Res :=
  done (s.lanes [a.toNat, b.toNat] t (fun w th =>
    let r := f (th.g? s a.toNat) (th.g? s b.toNat)
    fpOut s w th r.2 (fun th1 => th1.setP s p.toNat r.1)))

end Sys2Proof.Machine
end

