-- ==== Sys2Proof/Machine/Integer.lean ====
section
/-! DEFINITION. The integer, bit-field and predicate instructions, with their 16-bit forms (spec/05_integer_instructions.md). -/

namespace Sys2Proof.Machine

/-! ## What they compute -/

/-- The high word of a product (R88). -/
def mulHighS (a b : Word) : Word := BitVec.ofInt 32 (a.toInt * b.toInt / 2 ^ 32)
def mulHighU (a b : Word) : Word := BitVec.ofNat 32 (a.toNat * b.toNat / 2 ^ 32)
def mulHighSU (a b : Word) : Word := BitVec.ofInt 32 (a.toInt * b.toNat / 2 ^ 32)
def minS (a b : Word) : Word := if a.toInt ≤ b.toInt then a else b
def maxS (a b : Word) : Word := if a.toInt ≤ b.toInt then b else a
def minU (a b : Word) : Word := if a.toNat ≤ b.toNat then a else b
def maxU (a b : Word) : Word := if a.toNat ≤ b.toNat then b else a

/-- Bits 4:0 of an amount (R89). -/
def amount (b : Word) : Nat := b.toNat % 32
def shlW (a b : Word) : Word := a <<< amount b
def shrW (a b : Word) : Word := a >>> amount b
def sarW (a b : Word) : Word := a.sshiftRight (amount b)
def rolW (a b : Word) : Word := a.rotateLeft (amount b)
def rorW (a b : Word) : Word := a.rotateRight (amount b)
/-- The funnel shifts of `d:a` (R89). -/
def fshlW (d a b : Word) : Word := (((d ++ a : Dword) <<< amount b) >>> 32).setWidth 32
def fshrW (d a b : Word) : Word := ((d ++ a : Dword) >>> amount b).setWidth 32

/-- The offset and the effective width a field descriptor gives (R90). -/
def fieldOff (b : Word) : Nat := b.toNat % 32
def fieldWidth (b : Word) : Nat :=
  let w := b.toNat / 2 ^ 8 % 64
  min (min w 32) (32 - fieldOff b)
/-- The mask of the field a descriptor gives (R91). -/
def fieldMask (b : Word) : Word := BitVec.ofNat 32 ((2 ^ fieldWidth b - 1) * 2 ^ fieldOff b)
def bfxnW (a b : Word) : Word := BitVec.ofNat 32 (a.toNat / 2 ^ fieldOff b % 2 ^ fieldWidth b)
def bfxsW (a b : Word) : Word :=
  let e := fieldWidth b
  let v := a.toNat / 2 ^ fieldOff b % 2 ^ e
  if e = 0 then 0 else if v < 2 ^ (e - 1) then BitVec.ofNat 32 v else BitVec.ofInt 32 ((v : Int) - 2 ^ e)
def bfiW (d a b : Word) : Word := (d &&& ~~~fieldMask b) ||| ((a <<< fieldOff b) &&& fieldMask b)

/-- Zero bits of the top `n` bits before the first 1. -/
def leadingZeros : Nat → Word → Nat
  | 0, _ => 0
  | n + 1, a => if a.getLsbD n then 0 else 1 + leadingZeros n a
/-- Zero bits of bits `i` up before the first 1. -/
def trailingZeros : Nat → Nat → Word → Nat
  | 0, _, _ => 0
  | n + 1, i, a => if a.getLsbD i then 0 else 1 + trailingZeros n (i + 1) a
/-- One bits of the low `n` bits. -/
def ones : Nat → Word → Nat
  | 0, _ => 0
  | n + 1, a => (a.getLsbD n).toNat + ones n a
def clzW (a : Word) : Word := BitVec.ofNat 32 (leadingZeros 32 a)
def ctzW (a : Word) : Word := BitVec.ofNat 32 (trailingZeros 32 0 a)
def popcW (a : Word) : Word := BitVec.ofNat 32 (ones 32 a)
def brevW (a : Word) : Word := a.reverse

def madhS (d a b : Word) : Word := d + mulHighS a b
def madhN (d a b : Word) : Word := d + mulHighU a b
def mad64S (d : Dword) (a b : Word) : Dword := d + a.signExtend 64 * b.signExtend 64
def mad64N (d : Dword) (a b : Word) : Dword := d + a.setWidth 64 * b.setWidth 64
def sadW (d a b : Word) : Word := d + (if a.toNat ≤ b.toNat then b - a else a - b)

def eqW (a b : Word) : Bool := a == b
def neW (a b : Word) : Bool := a != b
def ltS (a b : Word) : Bool := decide (a.toInt < b.toInt)
def leS (a b : Word) : Bool := decide (a.toInt ≤ b.toInt)
def gtS (a b : Word) : Bool := decide (b.toInt < a.toInt)
def geS (a b : Word) : Bool := decide (b.toInt ≤ a.toInt)
def ltU (a b : Word) : Bool := decide (a.toNat < b.toNat)
def leU (a b : Word) : Bool := decide (a.toNat ≤ b.toNat)
def gtU (a b : Word) : Bool := decide (b.toNat < a.toNat)
def geU (a b : Word) : Bool := decide (b.toNat ≤ a.toNat)
def tstW (a b : Word) : Bool := a &&& b != 0

/-- ADDC and SUBB: two results, g[D] and p6 (R87). -/
def carryOp (d a b : Reg) (t : Bool) (f : Word → Word → Bool → Word × Bool) (s : State) : Res :=
  done (s.lanes [d.toNat, a.toNat, b.toNat] t (fun _ th =>
    let r := f (th.g? s a.toNat) (th.g? s b.toNat) (th.p? s 6)
    .next ((th.setG s d.toNat r.1).setP s 6 r.2)))

/-- DIVS, DIVN, REMS, REMN (R92). -/
def divOp (signed rem : Bool) (d a b : Reg) (t : Bool) (s : State) : Res :=
  done (s.lanes [d.toNat, a.toNat, b.toNat] t (fun w th =>
    let r := divide signed rem (th.g? s a.toNat) (th.g? s b.toNat)
    intOut s w th r.2 (fun th1 => th1.setG s d.toNat r.1)))

/-! ## The instructions -/

/-- ADD (R87). -/
def execAdd (d a b : Reg) (t : Bool) (s : State) : Res := alu2 d a b t (· + ·) s

/-- SUB (R87). -/
def execSub (d a b : Reg) (t : Bool) (s : State) : Res := alu2 d a b t (· - ·) s

/-- AND (R87). -/
def execAnd (d a b : Reg) (t : Bool) (s : State) : Res := alu2 d a b t (· &&& ·) s

/-- OR (R87). -/
def execOr (d a b : Reg) (t : Bool) (s : State) : Res := alu2 d a b t (· ||| ·) s

/-- XOR (R87). -/
def execXor (d a b : Reg) (t : Bool) (s : State) : Res := alu2 d a b t (· ^^^ ·) s

/-- ANDN (R87). -/
def execAndn (d a b : Reg) (t : Bool) (s : State) : Res := alu2 d a b t (fun x y => x &&& ~~~y) s

/-- ADDC (R87). -/
def execAddc (d a b : Reg) (t : Bool) (s : State) : Res := carryOp d a b t addCarry s

/-- SUBB (R87). -/
def execSubb (d a b : Reg) (t : Bool) (s : State) : Res := carryOp d a b t subBorrow s

/-- MUL (R88). -/
def execMul (d a b : Reg) (t : Bool) (s : State) : Res := alu2 d a b t (· * ·) s

/-- MULHS (R88). -/
def execMulhs (d a b : Reg) (t : Bool) (s : State) : Res := alu2 d a b t mulHighS s

/-- MULHU (R88). -/
def execMulhu (d a b : Reg) (t : Bool) (s : State) : Res := alu2 d a b t mulHighU s

/-- MULHSU (R88). -/
def execMulhsu (d a b : Reg) (t : Bool) (s : State) : Res := alu2 d a b t mulHighSU s

/-- MINS (R88). -/
def execMins (d a b : Reg) (t : Bool) (s : State) : Res := alu2 d a b t minS s

/-- MAXS (R88). -/
def execMaxs (d a b : Reg) (t : Bool) (s : State) : Res := alu2 d a b t maxS s

/-- MINU (R88). -/
def execMinu (d a b : Reg) (t : Bool) (s : State) : Res := alu2 d a b t minU s

/-- MAXU (R88). -/
def execMaxu (d a b : Reg) (t : Bool) (s : State) : Res := alu2 d a b t maxU s

/-- SHL (R89). -/
def execShl (d a b : Reg) (t : Bool) (s : State) : Res := alu2 d a b t shlW s

/-- SHR (R89). -/
def execShr (d a b : Reg) (t : Bool) (s : State) : Res := alu2 d a b t shrW s

/-- SAR (R89). -/
def execSar (d a b : Reg) (t : Bool) (s : State) : Res := alu2 d a b t sarW s

/-- ROL (R89). -/
def execRol (d a b : Reg) (t : Bool) (s : State) : Res := alu2 d a b t rolW s

/-- ROR (R89). -/
def execRor (d a b : Reg) (t : Bool) (s : State) : Res := alu2 d a b t rorW s

/-- FSHL (R89). -/
def execFshl (d a b : Reg) (t : Bool) (s : State) : Res := alu3 d a b t fshlW s

/-- FSHR (R89). -/
def execFshr (d a b : Reg) (t : Bool) (s : State) : Res := alu3 d a b t fshrW s

/-- BFXN (R91). -/
def execBfxn (d a b : Reg) (t : Bool) (s : State) : Res := alu2 d a b t bfxnW s

/-- BFXS (R91). -/
def execBfxs (d a b : Reg) (t : Bool) (s : State) : Res := alu2 d a b t bfxsW s

/-- BFI (R91). -/
def execBfi (d a b : Reg) (t : Bool) (s : State) : Res := alu3 d a b t bfiW s

/-- BMSK (R91). -/
def execBmsk (d b : Reg) (t : Bool) (s : State) : Res := alu1 d b t fieldMask s

/-- CLZ (R91). -/
def execClz (d a : Reg) (t : Bool) (s : State) : Res := alu1 d a t clzW s

/-- CTZ (R91). -/
def execCtz (d a : Reg) (t : Bool) (s : State) : Res := alu1 d a t ctzW s

/-- POPC (R91). -/
def execPopc (d a : Reg) (t : Bool) (s : State) : Res := alu1 d a t popcW s

/-- BREV (R91). -/
def execBrev (d a : Reg) (t : Bool) (s : State) : Res := alu1 d a t brevW s

/-- DIVS (R92). -/
def execDivs (d a b : Reg) (t : Bool) (s : State) : Res := divOp true false d a b t s

/-- DIVN (R92). -/
def execDivn (d a b : Reg) (t : Bool) (s : State) : Res := divOp false false d a b t s

/-- REMS (R92). -/
def execRems (d a b : Reg) (t : Bool) (s : State) : Res := divOp true true d a b t s

/-- REMN (R92). -/
def execRemn (d a b : Reg) (t : Bool) (s : State) : Res := divOp false true d a b t s

/-- MAD (R93). -/
def execMad (d a b : Reg) (t : Bool) (s : State) : Res := alu3 d a b t (fun x y z => x + y * z) s

/-- MADHS (R93). -/
def execMadhs (d a b : Reg) (t : Bool) (s : State) : Res := alu3 d a b t madhS s

/-- MADHN (R93). -/
def execMadhn (d a b : Reg) (t : Bool) (s : State) : Res := alu3 d a b t madhN s

/-- MAD64S (R93). -/
def execMad64s (d a b : Reg) (t : Bool) (s : State) : Res := aluPair d a b t mad64S s

/-- MAD64N (R93). -/
def execMad64n (d a b : Reg) (t : Bool) (s : State) : Res := aluPair d a b t mad64N s

/-- SAD (R93). -/
def execSad (d a b : Reg) (t : Bool) (s : State) : Res := alu3 d a b t sadW s

/-- ICMP EQ (R94). -/
def execIcmpEq (p : PReg) (a b : Reg) (t : Bool) (s : State) : Res := cmp2 p a b t eqW s

/-- ICMP NE (R94). -/
def execIcmpNe (p : PReg) (a b : Reg) (t : Bool) (s : State) : Res := cmp2 p a b t neW s

/-- ICMP LT (R94). -/
def execIcmpLt (p : PReg) (a b : Reg) (t : Bool) (s : State) : Res := cmp2 p a b t ltS s

/-- ICMP LE (R94). -/
def execIcmpLe (p : PReg) (a b : Reg) (t : Bool) (s : State) : Res := cmp2 p a b t leS s

/-- ICMP LTN (R94). -/
def execIcmpLtn (p : PReg) (a b : Reg) (t : Bool) (s : State) : Res := cmp2 p a b t ltU s

/-- ICMP LEN (R94). -/
def execIcmpLen (p : PReg) (a b : Reg) (t : Bool) (s : State) : Res := cmp2 p a b t leU s

/-- ICMP TST (R94). -/
def execIcmpTst (p : PReg) (a b : Reg) (t : Bool) (s : State) : Res := cmp2 p a b t tstW s

/-- ADDI (R95). -/
def execAddi (d a : Reg) (i : BitVec 10) (t : Bool) (s : State) : Res := alu1 d a t (fun x => x + imm i) s

/-- ANDI (R95). -/
def execAndi (d a : Reg) (i : BitVec 10) (t : Bool) (s : State) : Res := alu1 d a t (fun x => x &&& imm i) s

/-- ORI (R95). -/
def execOri (d a : Reg) (i : BitVec 10) (t : Bool) (s : State) : Res := alu1 d a t (fun x => x ||| imm i) s

/-- XORI (R95). -/
def execXori (d a : Reg) (i : BitVec 10) (t : Bool) (s : State) : Res := alu1 d a t (fun x => x ^^^ imm i) s

/-- SHFI SHL (R96). -/
def execShfiShl (d a : Reg) (n : BitVec 5) (t : Bool) (s : State) : Res := alu1 d a t (fun x => shlW x (n.setWidth 32)) s

/-- SHFI SHR (R96). -/
def execShfiShr (d a : Reg) (n : BitVec 5) (t : Bool) (s : State) : Res := alu1 d a t (fun x => shrW x (n.setWidth 32)) s

/-- SHFI SAR (R96). -/
def execShfiSar (d a : Reg) (n : BitVec 5) (t : Bool) (s : State) : Res := alu1 d a t (fun x => sarW x (n.setWidth 32)) s

/-- SHFI ROL (R96). -/
def execShfiRol (d a : Reg) (n : BitVec 5) (t : Bool) (s : State) : Res := alu1 d a t (fun x => rolW x (n.setWidth 32)) s

/-- SHFI ROR (R96). -/
def execShfiRor (d a : Reg) (n : BitVec 5) (t : Bool) (s : State) : Res := alu1 d a t (fun x => rorW x (n.setWidth 32)) s

/-- ICMPI EQ (R97). -/
def execIcmpiEq (p : PReg) (a : Reg) (i : BitVec 10) (t : Bool) (s : State) : Res := cmpImm p a i t eqW s

/-- ICMPI NE (R97). -/
def execIcmpiNe (p : PReg) (a : Reg) (i : BitVec 10) (t : Bool) (s : State) : Res := cmpImm p a i t neW s

/-- ICMPI LT (R97). -/
def execIcmpiLt (p : PReg) (a : Reg) (i : BitVec 10) (t : Bool) (s : State) : Res := cmpImm p a i t ltS s

/-- ICMPI LE (R97). -/
def execIcmpiLe (p : PReg) (a : Reg) (i : BitVec 10) (t : Bool) (s : State) : Res := cmpImm p a i t leS s

/-- ICMPI GT (R97). -/
def execIcmpiGt (p : PReg) (a : Reg) (i : BitVec 10) (t : Bool) (s : State) : Res := cmpImm p a i t gtS s

/-- ICMPI GE (R97). -/
def execIcmpiGe (p : PReg) (a : Reg) (i : BitVec 10) (t : Bool) (s : State) : Res := cmpImm p a i t geS s

/-- ICMPI LTN (R97). -/
def execIcmpiLtn (p : PReg) (a : Reg) (i : BitVec 10) (t : Bool) (s : State) : Res := cmpImm p a i t ltU s

/-- ICMPI LEN (R97). -/
def execIcmpiLen (p : PReg) (a : Reg) (i : BitVec 10) (t : Bool) (s : State) : Res := cmpImm p a i t leU s

/-- ICMPI GTN (R97). -/
def execIcmpiGtn (p : PReg) (a : Reg) (i : BitVec 10) (t : Bool) (s : State) : Res := cmpImm p a i t gtU s

/-- ICMPI GEN (R97). -/
def execIcmpiGen (p : PReg) (a : Reg) (i : BitVec 10) (t : Bool) (s : State) : Res := cmpImm p a i t geU s

/-- LI (R98). -/
def execLi (d : Reg) (i : BitVec 17) (t : Bool) (s : State) : Res := done (s.lanes [d.toNat] t (fun _ th => .next (th.setG s d.toNat (imm i))))

/-- LIH (R98): bits 31:17 replaced. -/
def execLih (d : Reg) (i : BitVec 15) (t : Bool) (s : State) : Res := alu1 d d t (fun x => i ++ x.setWidth 17) s

/-- PAND (R100). -/
def execPand (p a b : PReg) (t : Bool) (s : State) : Res := pred2 p a b t (· && ·) s

/-- POR (R100). -/
def execPor (p a b : PReg) (t : Bool) (s : State) : Res := pred2 p a b t (· || ·) s

/-- PXOR (R100). -/
def execPxor (p a b : PReg) (t : Bool) (s : State) : Res := pred2 p a b t (fun x y => xor x y) s

/-- PNOT (R100). -/
def execPnot (p a : PReg) (t : Bool) (s : State) : Res := pred2 p a a t (fun x _ => !x) s

/-- P2G (R100). -/
def execP2g (d : Reg) (a : PReg) (t : Bool) (s : State) : Res := done (s.lanes [d.toNat] t (fun _ th => .next (th.setG s d.toNat (BitVec.ofNat 32 (th.p? s a.toNat).toNat))))

/-- G2P (R100). -/
def execG2p (p : PReg) (a : Reg) (t : Bool) (s : State) : Res := cmp2 p a a t (fun x _ => x != 0) s

/-- SEL (R101). -/
def execSel (d a b : Reg) (f : PReg) (t : Bool) (s : State) : Res := done (s.lanes [d.toNat, a.toNat, b.toNat] t (fun _ th => .next (th.setG s d.toNat (if th.p? s f.toNat then th.g? s a.toNat else th.g? s b.toNat))))

/-! The 16-bit forms (R102): the operation of the same name with A := D, and no tack. -/

/-- C MOV: g[D] := g[B]. -/
def execCMov (d : BitVec 6) (b : BitVec 5) (s : State) : Res := alu1 (d.setWidth 7) (b.setWidth 7) false (fun x => x) s

/-- C ADD. -/
def execCAdd (d : BitVec 6) (b : BitVec 5) (s : State) : Res := alu2 (d.setWidth 7) (d.setWidth 7) (b.setWidth 7) false (· + ·) s

/-- C SUB. -/
def execCSub (d : BitVec 6) (b : BitVec 5) (s : State) : Res := alu2 (d.setWidth 7) (d.setWidth 7) (b.setWidth 7) false (· - ·) s

/-- C AND. -/
def execCAnd (d : BitVec 6) (b : BitVec 5) (s : State) : Res := alu2 (d.setWidth 7) (d.setWidth 7) (b.setWidth 7) false (· &&& ·) s

/-- C OR. -/
def execCOr (d : BitVec 6) (b : BitVec 5) (s : State) : Res := alu2 (d.setWidth 7) (d.setWidth 7) (b.setWidth 7) false (· ||| ·) s

/-- C XOR. -/
def execCXor (d : BitVec 6) (b : BitVec 5) (s : State) : Res := alu2 (d.setWidth 7) (d.setWidth 7) (b.setWidth 7) false (· ^^^ ·) s

/-- C SHL. -/
def execCShl (d : BitVec 6) (b : BitVec 5) (s : State) : Res := alu2 (d.setWidth 7) (d.setWidth 7) (b.setWidth 7) false shlW s

/-- C SHR. -/
def execCShr (d : BitVec 6) (b : BitVec 5) (s : State) : Res := alu2 (d.setWidth 7) (d.setWidth 7) (b.setWidth 7) false shrW s

/-- C SAR. -/
def execCSar (d : BitVec 6) (b : BitVec 5) (s : State) : Res := alu2 (d.setWidth 7) (d.setWidth 7) (b.setWidth 7) false sarW s

/-- C MUL. -/
def execCMul (d : BitVec 6) (b : BitVec 5) (s : State) : Res := alu2 (d.setWidth 7) (d.setWidth 7) (b.setWidth 7) false (· * ·) s

/-- C MINS. -/
def execCMins (d : BitVec 6) (b : BitVec 5) (s : State) : Res := alu2 (d.setWidth 7) (d.setWidth 7) (b.setWidth 7) false minS s

/-- C MAXS. -/
def execCMaxs (d : BitVec 6) (b : BitVec 5) (s : State) : Res := alu2 (d.setWidth 7) (d.setWidth 7) (b.setWidth 7) false maxS s

/-- ADDI5: ADDI with the immediate sext(B, 5). -/
def execAddi5 (d : BitVec 6) (i : BitVec 5) (s : State) : Res := alu1 (d.setWidth 7) (d.setWidth 7) false (fun x => x + imm i) s

/-- LI5: LI with the immediate sext(B, 5). -/
def execLi5 (d : BitVec 6) (i : BitVec 5) (s : State) : Res := done (s.lanes [d.toNat] false (fun _ th => .next (th.setG s d.toNat (imm i))))

end Sys2Proof.Machine
end

