-- ==== Sys2Proof/Machine/Bounded.lean ====
section
/-! DEFINITION. The bounds of the five functions of which the spec fixes no bits (spec/06 R110): values of EXP2, LOG2, SIN, COS and TANH to some 90 bits, in
integers of 128 fraction bits, and the words within a bound of one. -/

namespace Sys2Proof.Machine

/-- ln 2 and 2π by 2^128, 1/2π by 2^320. -/
def fixLn2 : Nat := 0xB17217F7D1CF79ABC9E3B39803F2F6AF
def fixTwoPi : Nat := 0x6487ED5110B4611A62633145C06E0E689
def fixInvTwoPi : Nat := 0x28BE60DB9391054A7F09D5F47D4D377036D8A5664F10E4107F9458EAF7AEF1586DC91B8E909374B8

/-- A product of two integers of 128 fraction bits. -/
def fixMul (a b : Int) : Int := a * b / 2 ^ 128

/-- A sum of terms, each the one before it taken on by a function of its place. -/
def series (next : Nat → Int → Int) : Nat → Nat → Int → Int
  | 0, _, _ => 0
  | fuel + 1, k, t => t + series next fuel (k + 1) (next k t)
/-- e^x for 0 ≤ x < 1. -/
def fixExp (x : Int) : Int := series (fun k t => fixMul t x / (k + 1 : Nat)) 40 0 (2 ^ 128)
/-- The sine and the cosine of x for |x| ≤ π. -/
def fixSin (x : Int) : Int := series (fun k t => -(fixMul (fixMul t x) x / ((2 * k + 2) * (2 * k + 3) : Nat))) 40 0 x
def fixCos (x : Int) : Int := series (fun k t => -(fixMul (fixMul t x) x / ((2 * k + 1) * (2 * k + 2) : Nat))) 40 0 (2 ^ 128)
/-- ln of (1 + z) / (1 − z) for 0 ≤ z ≤ 1/3. -/
def fixAtanh2 (z : Int) : Int :=
  let sq := fixMul z z
  2 * ((List.range 45).foldl (fun (acc : Int × Int) k => (acc.1 + acc.2 / (2 * k + 1 : Nat), fixMul acc.2 sq)) (0, z)).1

/-- A signed number as an integer of 128 fraction bits, what lies below left out. -/
def fixOf (n : Bool) (m : Nat) (e : Int) : Int :=
  let v : Int := if 0 ≤ e + 128 then (m : Int) * 2 ^ (e + 128).toNat else (m : Int) / 2 ^ (-(e + 128)).toNat
  if n then -v else v

/-- 2^x, for |x| below 2^10: its integer and its exponent. -/
def fixPow2 (x : Int) : Nat × Int := ((fixExp (fixMul (x % 2 ^ 128) fixLn2)).toNat, x / 2 ^ 128 - 128)

/-- A value as a sign, an integer and an exponent. -/
def signed (x : Int) (e : Int) : Bool × Nat × Int := (decide (x < 0), x.natAbs, e)

/-- EXP2 of a finite number; 0 far below every f32. -/
def exp2Of (n : Bool) (m : Nat) (e : Int) : Bool × Nat × Int :=
  let x := fixOf n m e
  if x < -(400 * 2 ^ 128) ∨ 400 * 2 ^ 128 < x then (false, 0, 0)
  else let (k, i) := fixPow2 x
    (false, k, i)
/-- LOG2 of a positive number. -/
def log2Of (m : Nat) (e : Int) : Bool × Nat × Int :=
  let b := Nat.log2 m
  let z : Int := ((m : Int) - 2 ^ b) * 2 ^ 128 / ((m : Int) + 2 ^ b)
  signed (((b : Int) + e) * 2 ^ 128 + fixAtanh2 z * 2 ^ 128 / fixLn2) (-128)
/-- An angle brought to [−π, π). -/
def angleOf (n : Bool) (m : Nat) (e : Int) : Int :=
  let p : Nat := m * fixInvTwoPi
  let t : Nat := (if 0 ≤ e then p * 2 ^ e.toNat else p / 2 ^ (-e).toNat) % 2 ^ 320 / 2 ^ 192
  let h : Int := if t < 2 ^ 127 then (t : Int) else (t : Int) - 2 ^ 128
  let x := fixMul h fixTwoPi
  if n then -x else x
def sinOf (n : Bool) (m : Nat) (e : Int) : Bool × Nat × Int := signed (fixSin (angleOf n m e)) (-128)
def cosOf (n : Bool) (m : Nat) (e : Int) : Bool × Nat × Int := signed (fixCos (angleOf n m e)) (-128)
/-- TANH of a number below 10 in magnitude: by its series where it is small, else by e^2x. -/
def tanhOf (n : Bool) (m : Nat) (e : Int) : Bool × Nat × Int :=
  let x := fixOf false m e
  if x < 2 ^ 116 then
    let sq := fixMul x x
    (n, m * (2 ^ 128 - sq / 3 + 2 * fixMul sq sq / 15).toNat, e - 128)
  else
    let (k, i) := fixPow2 (2 * x * 2 ^ 128 / fixLn2)
    let y : Int := (k : Int) * 2 ^ (i + 128).toNat
    (n, ((y - 2 ^ 128) * 2 ^ 128 / (y + 2 ^ 128)).toNat, -128)

/-! ## Words within a bound -/

/-- Whether the value of a word lies within b·2^eb of a value. -/
def near (w : Word) (y : Bool × Nat × Int) (b : Nat) (eb : Int) : Bool :=
  match f32 w with
  | .num n m e =>
    let lo := min (min e y.2.2) eb
    let v := fun (n : Bool) (m : Nat) (e : Int) => (if n then -(m : Int) else (m : Int)) * 2 ^ (e - lo).toNat
    decide ((v n m e - v y.1 y.2.1 y.2.2).natAbs ≤ b * 2 ^ (eb - lo).toNat)
  | _ => false
/-- The binary exponent of a value. -/
def binade (y : Bool × Nat × Int) : Int := (Nat.log2 y.2.1 : Int) + y.2.2
/-- A word of the device's choice where it keeps a bound (R110, log entry 4); the nearest one where it does not. -/
def bounded (w : Word) (y : Bool × Nat × Int) (b : Nat) (eb : Int) : Word :=
  if near w y b eb then w else (round32m .rne (.num y.1 y.2.1 y.2.2)).1
/-- Within two units in the last place of the binade of the exact result (R110), which is subnormal below 2^−126; where `below` says so, and the value is a power of
two as far as it is known, the exact result lies just below it, in the binade before. -/
def ulps (below : Bool) (w : Word) (y : Bool × Nat × Int) : Word :=
  let b := if below && y.2.1 == 2 ^ Nat.log2 y.2.1 then binade y - 1 else binade y
  bounded w y 2 (max (b - 23) (-149))

/-- The results (R110): within 2 ulp, or 2^−148 where it is subnormal; within 2^−22 near 1, else 2 ulp; within 2^−21; within 2 ulp. -/
def exp2Word (a : Word) (n : Bool) (m : Nat) (e : Int) : Word :=
  let y := exp2Of n m e
  if y.2.1 = 0 ∨ binade y < -126 then bounded (Config.exp2 a) y 1 (-148) else ulps n (Config.exp2 a) y
def log2Word (a : Word) (m : Nat) (e : Int) : Word :=
  let y := log2Of m e
  if !magLt m e 1 (-1) && !magLt 2 0 m e then bounded (Config.log2 a) y 1 (-22) else ulps false (Config.log2 a) y
def sinWord (a : Word) (n : Bool) (m : Nat) (e : Int) : Word := bounded (Config.sin a) (sinOf n m e) 1 (-21)
def cosWord (a : Word) (n : Bool) (m : Nat) (e : Int) : Word := bounded (Config.cos a) (cosOf n m e) 1 (-21)
def tanhWord (a : Word) (n : Bool) (m : Nat) (e : Int) : Word := ulps true (Config.tanh a) (tanhOf n m e)

end Sys2Proof.Machine
end

