-- ==== Sys2Proof/Machine/Fp.lean ====
section
/-! DEFINITION. The floating-point, conversion and dot-product instructions (spec/06_float_instructions.md). -/

namespace Sys2Proof.Machine

/-! ## What they compute -/

/-- FCPS (R105): the sign of `b` on the magnitude of `a`. -/
def copySign (a b : Word) : Word := (a &&& 0x7FFFFFFF#32) ||| (b &&& 0x80000000#32)

/-- FMIN and FMAX with the NaN rules of R106; −0 lies below +0. -/
def minMax (greater : Bool) (a b : Word) : Word × Word :=
  let x := f32 a
  let y := f32 b
  let nv := nvIf (anySig [x, y])
  match x.isNan, y.isNan with
  | true, true => (nan32, nv)
  | true, false => (b, nv)
  | false, true => (a, nv)
  | false, false => (if x.lt y == greater then b else a, nv)

/-- A 16-bit half of a word (R65). -/
def half (x : Word) (e : Nat) : Nat := x.toNat / 2 ^ (16 * e) % 2 ^ 16
/-- Two 16-bit results packed, with the flags of both (R109). -/
def pack2 (r0 r1 : Nat × Word) : Word × Word := (BitVec.ofNat 32 (r0.1 + 2 ^ 16 * r1.1), r0.2 ||| r1.2)

/-- A sum of a format, rounded (R109). -/
def addF (f : Ieee) (mode : RMode) (a b : Val) : Nat × Word :=
  let (v, bad) := addV mode a b
  let (w, fl) := roundIeee f mode v
  (w, fl ||| nvIf (bad || anySig [a, b]))
/-- A product of a format, rounded (R109). -/
def mulF (f : Ieee) (mode : RMode) (a b : Val) : Nat × Word :=
  let (v, bad) := mulV a b
  let (w, fl) := roundIeee f mode v
  (w, fl ||| nvIf (bad || anySig [a, b]))

/-- A packed operation on the two elements (R109). -/
def packed2 (f : Ieee) (op : RMode → Val → Val → Nat × Word) (mode : RMode) (a b : Word) : Word × Word :=
  let e := fun (i : Nat) => op mode (f.decode (half a i)) (f.decode (half b i))
  pack2 (e 0) (e 1)
/-- A packed fused operation. -/
def packed3 (f : Ieee) (mode : RMode) (d a b : Word) : Word × Word :=
  let e := fun (i : Nat) => fmaF f mode (f.decode (half d i)) (f.decode (half a i)) (f.decode (half b i))
  pack2 (e 0) (e 1)

/-- A dot product: the accumulator and exact products summed exactly and rounded once (R84, R82, R116). -/
def dotF (mode : RMode) (c : Word) (terms : List (Val × Val)) : Word × Word :=
  let cv := f32 c
  let ps := terms.map (fun p => mulV p.1 p.2)
  let (v, bad) := groupSum ((cv, false) :: ps)
  let (w, fl) := round32m mode v
  (w, fl ||| nvIf (bad || cv.isSig || anySig (terms.map (·.1)) || anySig (terms.map (·.2))))

def dot2 (f : Ieee) (mode : RMode) (c a b : Word) : Word × Word :=
  dotF mode c [(f.decode (half a 0), f.decode (half b 0)), (f.decode (half a 1), f.decode (half b 1))]

/-- A byte of a word. -/
def byteOf (x : Word) (i : Nat) : Byte := x.extractLsb' (8 * i) 8

/-- DOT4S and DOT4N (R115). -/
def dot4s (d a b : Word) : Word :=
  d + ((List.range 4).foldl (fun acc i => acc + (byteOf a i).signExtend 32 * (byteOf b i).signExtend 32) 0#32)
def dot4n (d a b : Word) : Word :=
  d + ((List.range 4).foldl (fun acc i => acc + (byteOf a i).setWidth 32 * (byteOf b i).setWidth 32) 0#32)
/-- DOT4F in the format of a word of $f8fmt (R115, R23). -/
def dot4f (fmt : Word) (mode : RMode) (d a b : Word) : Word × Word :=
  let f : Bin8 := ⟨fmt.toNat % 8, fmt.getLsbD 3, fmt.getLsbD 4⟩
  dotF mode d ((List.range 4).map (fun i => (f.decode (byteOf a i), f.decode (byteOf b i))))

/-- A comparison with NV by a signalling NaN, or by any NaN (R107). -/
def fcmp (anyNan : Bool) (f : Val → Val → Bool) (a b : Word) : Bool × Word :=
  let x := f32 a
  let y := f32 b
  (f x y, nvIf (if anyNan then x.isNan || y.isNan else anySig [x, y]))
def unordered (x y : Val) : Bool := x.isNan || y.isNan

/-- Correctly rounded division (R112). -/
def divW (mode : RMode) (a b : Word) : Word × Word :=
  let x := f32 a
  let y := f32 b
  let sig := nvIf (anySig [x, y])
  match x, y with
  | .nan _, _ => (nan32, sig)
  | _, .nan _ => (nan32, sig)
  | .inf _, .inf _ => (nan32, fNV)
  | .inf n, .num n' _ _ => round32m mode (.inf (n != n'))
  | .num n _ _, .inf n' => round32m mode (.num (n != n') 0 0)
  | .num n m e, .num n' m' e' =>
    if m' = 0 then
      if m = 0 then (nan32, fNV)
      else
        let (w, fl) := round32m mode (.inf (n != n'))
        (w, fl ||| fDZ)
    else if m = 0 then round32m mode (.num (n != n') 0 0)
    else round32m mode (divSticky (n != n') m e m' e')

def rcpW (mode : RMode) (a : Word) : Word × Word := divW mode 0x3F800000#32 a

/-- Correctly rounded square root (R110, R111). -/
def sqrtW (mode : RMode) (a : Word) : Word × Word :=
  match f32 a with
  | .nan sg => (nan32, nvIf sg)
  | .inf n => if n then (nan32, fNV) else (a, 0)
  | .num n m e => if m = 0 then (a, 0) else if n then (nan32, fNV) else round32m mode (sqrtSticky m e)

/-- 1/√ of a positive value to 38 bits and a sticky bit. -/
def rsqSticky (m : Nat) (e : Int) : Val :=
  let k : Nat := if e % 2 = 0 then 100 else 101
  let r := isqrt (2 ^ k / m)
  .num false (2 * r + (if r * r * m = 2 ^ k then 0 else 1)) (-(e + k) / 2 - 1)

/-- Correctly rounded reciprocal square root (R110, R111). -/
def rsqW (mode : RMode) (a : Word) : Word × Word :=
  match f32 a with
  | .nan sg => (nan32, nvIf sg)
  | .inf n => if n then (nan32, fNV) else (0, 0)
  | .num n m e =>
    if m = 0 then
      let (w, fl) := round32m mode (.inf n)
      (w, fl ||| fDZ)
    else if n then (nan32, fNV)
    else round32m mode (rsqSticky m e)

/-- The flags of a result of the five bounded functions: NX, and UF where it is tiny (R111). DESIGN CHOICE (log entry 4): tiny is said of the word delivered,
a zero among them, not of the exact value. -/
def boundedFlags (w : Word) : Word :=
  match f32 w with
  | .num _ _ _ => if w.toNat / 2 ^ 23 % 256 = 0 then fUF ||| fNX else fNX
  | _ => fNX

/-- The value of a finite operand as an integer, where it is one. -/
def asInteger (n : Bool) (m : Nat) (e : Int) : Option Int :=
  let (q, ix) := roundInt .rtz n m e
  if ix then none else some q

/-- EXP2: the exact rows of R111, and elsewhere a fixed function of the operand within the bound of R110 (log entry 4). -/
def exp2W (_ : RMode) (a : Word) : Word × Word :=
  match f32 a with
  | .nan sg => (nan32, nvIf sg)
  | .inf n => (if n then 0 else a, 0)
  | .num n m e =>
    if m ≠ 0 ∧ n = false ∧ magLt 127 0 m e ∧ !magLt m e 128 0 then (0x7F800000#32, fOF ||| fNX)
    else
      match asInteger n m e with
      | some k =>
        if -149 ≤ k ∧ k ≤ 127 then (BitVec.ofNat 32 (ieee32.encode (.num false 1 k)), 0)
        else (exp2Word a n m e, boundedFlags (exp2Word a n m e))
      | none => (exp2Word a n m e, boundedFlags (exp2Word a n m e))

/-- The exponent of a power of two. -/
def asPower (m : Nat) (e : Int) : Option Int := if m = 2 ^ Nat.log2 m then some (Nat.log2 m + e) else none

/-- LOG2 (R111). -/
def log2W (_ : RMode) (a : Word) : Word × Word :=
  match f32 a with
  | .nan sg => (nan32, nvIf sg)
  | .inf n => if n then (nan32, fNV) else (a, 0)
  | .num n m e =>
    if m = 0 then (0xFF800000#32, fDZ)
    else if n then (nan32, fNV)
    else
      match asPower m e with
      | some k => (BitVec.ofNat 32 (ieee32.encode (.num (decide (k < 0)) k.natAbs 0)), 0)
      | none => (log2Word a m e, boundedFlags (log2Word a m e))

/-- SIN and COS (R111). -/
def sinW (_ : RMode) (a : Word) : Word × Word :=
  match f32 a with
  | .nan sg => (nan32, nvIf sg)
  | .inf _ => (nan32, fNV)
  | .num n m e => if m = 0 then (a, 0) else (sinWord a n m e, boundedFlags (sinWord a n m e))
def cosW (_ : RMode) (a : Word) : Word × Word :=
  match f32 a with
  | .nan sg => (nan32, nvIf sg)
  | .inf _ => (nan32, fNV)
  | .num n m e => if m = 0 then (0x3F800000#32, 0) else (cosWord a n m e, boundedFlags (cosWord a n m e))
/-- TANH (R110, R111): exactly ±1 from 10 on, where the result is no exact one and sets NX. -/
def tanhW (_ : RMode) (a : Word) : Word × Word :=
  let one := copySign 0x3F800000#32 a
  match f32 a with
  | .nan sg => (nan32, nvIf sg)
  | .inf _ => (one, 0)
  | .num n m e =>
    if m = 0 then (a, 0)
    else if magLt m e 10 0 then (tanhWord a n m e, boundedFlags (tanhWord a n m e)) else (one, fNX)

/-! ### Conversions -/

/-- A source of CVT as an integer or a float (R113, R63). -/
def cvtSource (ty : Nat) (x : Word) : Int ⊕ Val :=
  match ty with
  | 0 => .inl x.toInt
  | 1 => .inl x.toNat
  | 2 => .inr (f32 x)
  | 3 => .inr (ieee16.decode (half x 0))
  | 4 => .inr (ieeeB16.decode (half x 0))
  | 5 => .inl (x.setWidth 16).toInt
  | 6 => .inl (half x 0)
  | 7 => .inl (x.setWidth 8).toInt
  | _ => .inl (x.toNat % 256)

/-- The least and the largest value of an integer type (R63). -/
def intRange (ty : Nat) : Int × Int :=
  match ty with
  | 0 => (-2147483648, 2147483647)
  | 1 => (0, 4294967295)
  | 5 => (-32768, 32767)
  | 6 => (0, 65535)
  | 7 => (-128, 127)
  | _ => (0, 255)

/-- The format of a float type. -/
def floatType (ty : Nat) : Option Ieee :=
  match ty with
  | 2 => some ieee32
  | 3 => some ieee16
  | 4 => some ieeeB16
  | _ => none

/-- An integer saturated to a type: NV outside its range, else the given flags (R74). -/
def saturate (ty : Nat) (x : Int) (inexact : Word) : Word × Word :=
  let (lo, hi) := intRange ty
  if x < lo then (BitVec.ofInt 32 lo, fNV)
  else if hi < x then (BitVec.ofInt 32 hi, fNV)
  else (BitVec.ofInt 32 x, inexact)

/-- A value converted to an integer type (R74). -/
def toIntType (mode : RMode) (ty : Nat) (v : Val) : Word × Word :=
  match v with
  | .nan _ => (0, fNV)
  | .inf n => (BitVec.ofInt 32 (if n then (intRange ty).1 else (intRange ty).2), fNV)
  | .num n m e =>
    let (q, ix) := roundInt mode n m e
    saturate ty q (if ix then fNX else 0)

/-- CVT (R113). -/
def cvtW (mode : RMode) (dst src : Nat) (x : Word) : Word × Word :=
  match cvtSource src x, floatType dst with
  | .inl i, none => saturate dst i 0
  | .inl i, some f =>
    let (c, fl) := roundIeee f mode (.num (decide (i < 0)) i.natAbs 0)
    (BitVec.ofNat 32 c, fl)
  | .inr v, none => toIntType mode dst v
  | .inr v, some f =>
    let (c, fl) := roundIeee f mode v
    (BitVec.ofNat 32 c, fl ||| nvIf v.isSig)

/-- f32 to a binary8 code (R114, R72, R73, R75): a negative value to an unsigned format is 0x00 with NV. -/
def toBin8 (f : Bin8) (mode : RMode) (sat : Bool) (x : Word) : Word × Word :=
  let v := f32 x
  if f.uns && v.neg && !v.isZero then (0, fNV)
  else
    let (r, fl) := roundTo f.dest mode sat v
    ((f.encode r).setWidth 32, fl ||| nvIf v.isSig)

/-- A binary8 code to f32 (R114). -/
def fromBin8 (f : Bin8) (x : Word) : Word := BitVec.ofNat 32 (ieee32.encode (f.decode (x.setWidth 8)))

/-! ## The instructions -/

/-- FADD (R105). -/
def execFadd (d a b : Reg) (t : Bool) (s : State) : Res := fp2 d a b t (fun m x y => fadd32 m (f32 x) (f32 y)) s

/-- FSUB (R105). -/
def execFsub (d a b : Reg) (t : Bool) (s : State) : Res := fp2 d a b t (fun m x y => fadd32 m (f32 x) (f32 y).negate) s

/-- FMUL (R105). -/
def execFmul (d a b : Reg) (t : Bool) (s : State) : Res := fp2 d a b t (fun m x y => fmul32 m (f32 x) (f32 y)) s

/-- FMIN (R106). -/
def execFmin (d a b : Reg) (t : Bool) (s : State) : Res := fp2 d a b t (fun _ x y => minMax false x y) s

/-- FMAX (R106). -/
def execFmax (d a b : Reg) (t : Bool) (s : State) : Res := fp2 d a b t (fun _ x y => minMax true x y) s

/-- FFMA (R105). -/
def execFfma (d a b : Reg) (t : Bool) (s : State) : Res := fp3 d a b t (fun m z x y => let r := fmaF ieee32 m (f32 z) (f32 x) (f32 y); (BitVec.ofNat 32 r.1, r.2)) s

/-- FFMS (R105). -/
def execFfms (d a b : Reg) (t : Bool) (s : State) : Res := fp3 d a b t (fun m z x y => let r := fmaF ieee32 m (f32 z) (f32 x).negate (f32 y); (BitVec.ofNat 32 r.1, r.2)) s

/-- FCPS (R105). -/
def execFcps (d a b : Reg) (t : Bool) (s : State) : Res := alu2 d a b t copySign s

/-- FCMP EQ (R107). -/
def execFcmpEq (p : PReg) (a b : Reg) (t : Bool) (s : State) : Res := fpCmp p a b t (fcmp false Val.eqv) s

/-- FCMP NE (R107). -/
def execFcmpNe (p : PReg) (a b : Reg) (t : Bool) (s : State) : Res := fpCmp p a b t (fcmp false (fun x y => !x.eqv y)) s

/-- FCMP LT (R107). -/
def execFcmpLt (p : PReg) (a b : Reg) (t : Bool) (s : State) : Res := fpCmp p a b t (fcmp true Val.ltv) s

/-- FCMP LE (R107). -/
def execFcmpLe (p : PReg) (a b : Reg) (t : Bool) (s : State) : Res := fpCmp p a b t (fcmp true (fun x y => x.ltv y || x.eqv y)) s

/-- FCMP UN (R107). -/
def execFcmpUn (p : PReg) (a b : Reg) (t : Bool) (s : State) : Res := fpCmp p a b t (fcmp false unordered) s

/-- FCMP OR (R107). -/
def execFcmpOr (p : PReg) (a b : Reg) (t : Bool) (s : State) : Res := fpCmp p a b t (fcmp false (fun x y => !unordered x y)) s

/-- HADD2 (R109). -/
def execHadd2 (d a b : Reg) (t : Bool) (s : State) : Res := fp2 d a b t (packed2 ieee16 (addF ieee16)) s

/-- HMUL2 (R109). -/
def execHmul2 (d a b : Reg) (t : Bool) (s : State) : Res := fp2 d a b t (packed2 ieee16 (mulF ieee16)) s

/-- HFMA2 (R109). -/
def execHfma2 (d a b : Reg) (t : Bool) (s : State) : Res := fp3 d a b t (packed3 ieee16) s

/-- BADD2 (R109). -/
def execBadd2 (d a b : Reg) (t : Bool) (s : State) : Res := fp2 d a b t (packed2 ieeeB16 (addF ieeeB16)) s

/-- BMUL2 (R109). -/
def execBmul2 (d a b : Reg) (t : Bool) (s : State) : Res := fp2 d a b t (packed2 ieeeB16 (mulF ieeeB16)) s

/-- BFMA2 (R109). -/
def execBfma2 (d a b : Reg) (t : Bool) (s : State) : Res := fp3 d a b t (packed3 ieeeB16) s

/-- DOT2H (R109). -/
def execDot2h (d a b : Reg) (t : Bool) (s : State) : Res := fp3 d a b t (dot2 ieee16) s

/-- DOT2B (R109). -/
def execDot2b (d a b : Reg) (t : Bool) (s : State) : Res := fp3 d a b t (dot2 ieeeB16) s

/-- RCP (R110). -/
def execRcp (d a : Reg) (t : Bool) (s : State) : Res := fp1 d a t rcpW s

/-- RSQ (R110). -/
def execRsq (d a : Reg) (t : Bool) (s : State) : Res := fp1 d a t rsqW s

/-- SQRT (R110). -/
def execSqrt (d a : Reg) (t : Bool) (s : State) : Res := fp1 d a t sqrtW s

/-- EXP2 (R110). -/
def execExp2 (d a : Reg) (t : Bool) (s : State) : Res := fp1 d a t exp2W s

/-- LOG2 (R110). -/
def execLog2 (d a : Reg) (t : Bool) (s : State) : Res := fp1 d a t log2W s

/-- SIN (R110). -/
def execSin (d a : Reg) (t : Bool) (s : State) : Res := fp1 d a t sinW s

/-- COS (R110). -/
def execCos (d a : Reg) (t : Bool) (s : State) : Res := fp1 d a t cosW s

/-- TANH (R110). -/
def execTanh (d a : Reg) (t : Bool) (s : State) : Res := fp1 d a t tanhW s

/-- FDIV (R112). -/
def execFdiv (d a b : Reg) (t : Bool) (s : State) : Res := fp2 d a b t divW s

/-- CVT (R113). -/
def execCvt (d a : Reg) (r : BitVec 2) (y x : BitVec 4) (t : Bool) (s : State) : Res := fp1 d a t (fun _ v => cvtW (RMode.ofBits r) y.toNat x.toNat v) s

/-- CVT8, f32 to byte (R114). -/
def execCvt8ToByte (d a : Reg) (r : BitVec 2) (sat i u : Bool) (n : BitVec 3) (t : Bool) (s : State) : Res := fp1 d a t (fun _ v => toBin8 ⟨n.toNat, u, i⟩ (RMode.ofBits r) sat v) s

/-- CVT8, byte to f32 (R114): no flag. -/
def execCvt8FromByte (d a : Reg) (i u : Bool) (n : BitVec 3) (t : Bool) (s : State) : Res := alu1 d a t (fromBin8 ⟨n.toNat, u, i⟩) s

/-- DOT4S (R115). -/
def execDot4s (d a b : Reg) (t : Bool) (s : State) : Res := alu3 d a b t dot4s s

/-- DOT4N (R115). -/
def execDot4n (d a b : Reg) (t : Bool) (s : State) : Res := alu3 d a b t dot4n s

/-- DOT4F (R115): ILLOP while $f8fmt holds the reserved N (R23). -/
def execDot4f (d a b : Reg) (t : Bool) (s : State) : Res :=
  done (s.lanes [d.toNat, a.toNat, b.toNat] t (fun w th =>
    let fmt := w.regs.f8fmt? s
    if fmt.toNat % 8 = 7 then .trap th cILLOP
    else
      let r := dot4f fmt (w.mode s) (th.g? s d.toNat) (th.g? s a.toNat) (th.g? s b.toNat)
      fpOut s w th r.2 (fun th1 => th1.setG s d.toNat r.1)))

/-- C FADD (R102). -/
def execCFadd (d : BitVec 6) (b : BitVec 5) (s : State) : Res := fp2 (d.setWidth 7) (d.setWidth 7) (b.setWidth 7) false (fun m x y => fadd32 m (f32 x) (f32 y)) s

/-- C FMUL (R102). -/
def execCFmul (d : BitVec 6) (b : BitVec 5) (s : State) : Res := fp2 (d.setWidth 7) (d.setWidth 7) (b.setWidth 7) false (fun m x y => fmul32 m (f32 x) (f32 y)) s

end Sys2Proof.Machine
end

