-- ==== Sys2Proof/Machine/Regs.lean ====
section
/-! DEFINITION. The register maps of the device, by space, index and offset: 0 BAR0 of a virtual function (spec/26 R372), 1 BAR0 of
physical function 0 (spec/27 R397, spec/28 R403, R407, spec/26 R387), 2 the configuration of a virtual function (spec/22 R326), 3 the
peer table (spec/26 R379), 4 the words of the configuration space of physical function 0 that the host sets or reads and the model knows, 5 the slice
table of a partition (spec/22 R335), 6 its key slots (spec/22 R339) (log entry 6). -/

namespace Sys2Proof.Machine

/-- The reset value of a word. -/
def regReset (space off : Nat) : Word :=
  if space = 1 then
    if off = 0x10000 ∨ off = 0x10004 then 3
    else if off = 0x10008 then 600
    else if 0x10100 ≤ off ∧ off < 0x10100 + 4 * 192 then 8
    else if 0x20000 ≤ off ∧ off < 0x24000 ∧ off % 0x100 = 0x0C then 0xFFFFFFFF#32
    else if 0x30000 ≤ off ∧ off < 0x3C000 ∧ off % 0x40 = 0x04 then 1024
    else 0
  else if space = 3 ∧ off = 0 then 100
  else 0

/-- A word of a register map. -/
def State.reg (s : State) (space ix off : Nat) : Word := getD s.mon.regs (regReset space off) (regKey space ix off)
/-- A word of a register map set. -/
def State.setReg (s : State) (space ix off : Nat) (v : Word) : State :=
  { s with mon := { s.mon with regs := setD s.mon.regs (regReset space off) (regKey space ix off) v } }
/-- A doubleword of a register map. -/
def State.reg64 (s : State) (space ix off : Nat) : Nat := (s.reg space ix off).toNat + 2 ^ 32 * (s.reg space ix (off + 4)).toNat

/-- The offsets in BAR0 of physical function 0 of a sampler block, a gauge, an array word. -/
def samplerOff (c pn : Nat) : Nat := 0x30000 + 0x40 * (4 * c + pn)
def gaugeOff (n : Nat) : Nat := 0x20000 + 0x100 * n
def arrayOff (c : Nat) : Nat := 0x10100 + 4 * c

/-- MAKE and STATE of a peer (R379). -/
def State.peerMake (s : State) (p : Nat) : Nat := (s.reg 3 p 4).toNat % 256
def State.peerState (s : State) (p : Nat) : Nat := (s.reg 3 p 4).toNat / 256 % 256
def State.setPeerState (s : State) (p st : Nat) : State :=
  s.setReg 3 p 4 (BitVec.ofNat 32 (s.peerMake p + 256 * st))

/-! ## Gauges (spec/28 R403 to R406) -/

/-- A saturating increment. -/
def satInc (x : Word) : Word := if x = 0xFFFFFFFF#32 then x else x + 1

/-- The number of bits of a value. -/
def bitLength (v : Nat) : Nat := if v = 0 then 0 else Nat.log2 v + 1

/-- One value counted by a gauge (R405, R406). -/
def State.gaugeCount (s : State) (n v : Nat) : State :=
  let o := gaugeOff n
  let ctrl := s.reg 1 0 o
  let v := min v 0xFFFFFFFF
  if ctrl.getLsbD 1 then s.setReg 1 0 (o + 0x18) (satInc (s.reg 1 0 (o + 0x18)))
  else
    let base := (s.reg 1 0 (o + 8)).toNat
    let i := if ctrl.getLsbD 3 then min 31 (bitLength v)
      else if v < base then 0 else min 31 (1 + (v - base) / 2 ^ (ctrl.toNat / 16 % 32))
    let s1 := s.setReg 1 0 (o + 0x0C) (BitVec.ofNat 32 (min (s.reg 1 0 (o + 0x0C)).toNat v))
    let s2 := s1.setReg 1 0 (o + 0x10) (BitVec.ofNat 32 (max (s1.reg 1 0 (o + 0x10)).toNat v))
    let s3 := s2.setReg 1 0 (o + 0x14) (satInc (s2.reg 1 0 (o + 0x14)))
    s3.setReg 1 0 (o + 0x20 + 4 * i) (satInc (s3.reg 1 0 (o + 0x20 + 4 * i)))

/-- Whether a gauge counts an event of a source, an instance and a function (R403, R404). -/
def State.gaugeTakes (s : State) (n src inst : Nat) (vf : Option Nat) : Bool :=
  let o := gaugeOff n
  let ctrl := s.reg 1 0 o
  let sel := (s.reg 1 0 (o + 4)).toNat
  ctrl.getLsbD 0 && sel % 256 == src && sel / 256 % 2 ^ 16 == inst &&
    (!ctrl.getLsbD 9 || vf == some (sel / 2 ^ 24))

/-- An event counted by every gauge that takes it (R404). -/
def State.gauge (s : State) (src inst : Nat) (vf : Option Nat) (v : Nat) : State :=
  (List.range 64).foldl (fun t n => if t.gaugeTakes n src inst vf then t.gaugeCount n v else t) s

end Sys2Proof.Machine
end

