-- ==== Sys2Proof/Machine/Health.lean ====
section
/-! DEFINITION. The health ring (spec/27 R397 to R399). -/

namespace Sys2Proof.Machine

/-- A unit of the health ring (R398): its type, its core, channel or port, and its row, bank or lane. -/
def unitOf (ty c ix : Nat) : Nat := ty * 2 ^ 28 + c * 2 ^ 16 + ix

/-- One record of the health ring (R398): written, or, where the ring is full, counted in DROPS. -/
def State.healthRecord (s : State) (kind fn unit addr detail : Nat) : State :=
  if !(s.reg 1 0 0x10000).getLsbD 0 then s
  else
    let cap := (s.reg 1 0 0x10018).toNat
    let head := s.reg 1 0 0x1001C
    if (head - s.reg 1 0 0x10020).toNat = cap then s.setReg 1 0 0x10024 (s.reg 1 0 0x10024 + 1)
    else
      let bs := leBytes 8 s.clock.now ++ leBytes 1 kind ++ leBytes 1 fn ++ leBytes 2 0 ++ leBytes 4 unit ++ leBytes 8 addr ++
        leBytes 4 detail ++ leBytes 4 0
      let s1 := s.homeWriteBytes none (s.reg64 1 0 0x10010 + 32 * (head.toNat % cap)) bs
      s1.setReg 1 0 0x1001C (head + 1)

/-- A unit marked lasting; an array's K-row, or the whole array (0xFF), waits for the next MMA boundary (R399, R400). -/
def State.lastingUnit (s : State) (unit : Nat) : State :=
  let s1 : State := { s with mon := { s.mon with
    lasting := unit :: s.mon.lasting, events := s.mon.events.filter (fun e => e.1 != unit) } }
  if unit / 2 ^ 28 = 1 then s1.onCore (unit / 2 ^ 16 % 2 ^ 8) (fun k => { k with rowsDue := k.rowsDue ++ [unit % 2 ^ 8] }) else s1

/-- Whether the array of a core has rows to test or to retire before it takes another operation (R399, R400). -/
def State.rowWork (s : State) (c : Nat) : Bool :=
  (s.core c).rowsDue.any (fun r => r == 0xFF || (s.reg 1 0 0x10000).getLsbD 1)

/-- An event counted against its unit (R399): with TCOUNT of them within TWIN seconds the unit is lasting, and a KIND 5 record says so. -/
def State.healthCount (s : State) (fn unit addr : Nat) : State :=
  if s.mon.lasting.elem unit then s
  else
    let since := s.clock.wall - (s.reg 1 0 0x10008).toNat * 1000000000
    let evs := (unit, s.clock.wall) :: s.mon.events.filter (fun e => e.1 != unit || decide (since ≤ e.2))
    let n := (evs.filter (fun e => e.1 == unit)).length
    let s1 : State := { s with mon := { s.mon with events := evs } }
    if (s.reg 1 0 0x10004).toNat ≤ n then
      (s1.lastingUnit unit).healthRecord 5 fn unit addr 0
    else s1

/-- An event recorded and counted. -/
def State.healthEvent (s : State) (kind fn unit addr detail : Nat) : State :=
  (s.healthRecord kind fn unit addr detail).healthCount fn unit addr

/-- The unit of a KIND 2, 7 or 8 record that no unit of the list stands behind (log entry 21). -/
def State.anyUnit (s : State) : Nat := Config.freeNat s.free 6000002 % 2 ^ 32

/-- The unit a KIND 3 or 9 event is recorded against: the spec gives no unit type for a comparator, so a free value (log entry 21). -/
def State.comparatorUnit (s : State) : Nat := Config.freeNat s.free 6000001 % 2 ^ 32

end Sys2Proof.Machine
end

