-- ==== Sys2Proof/Machine/Rows.lean ====
section
/-! DEFINITION. The rows of a copy: where they lie, and what is written to them (spec/09 R170, R177, R178). -/

namespace Sys2Proof.Machine

/-- Undefined bytes (spec/00 R6). -/
def State.anyBytes (s : State) (k n : Nat) : List Byte := (List.range n).map (fun i => Config.freeByte s.free (k * 65536 + i))

/-- The copies an operation consists of. -/
def CopyOp.all (o : CopyOp) : List CopyDesc := o.gone ++ o.list
/-- Whether the source, or the destination, is in global memory (R177, R178). -/
def CopyDesc.fromGlobal (d : CopyDesc) : Bool := d.form == 0 || d.form == 2 || d.form == 7
def CopyDesc.toGlobal (d : CopyDesc) : Bool := d.form == 1 || d.form == 6 || d.form == 8
/-- Whether one of the sides is a slot; whether the source, or the destination, is a tile. -/
def CopyDesc.onSlot (d : CopyDesc) : Bool := d.form == 2 || d.form == 3 || ((d.form == 7 || d.form == 8) && d.slotSide)
def CopyDesc.onTileSrc (d : CopyDesc) : Bool := d.form == 4 || d.form == 6
def CopyDesc.onTileDst (d : CopyDesc) : Bool := d.form == 5
/-- The index of a row, and whether it is skipped (R178). -/
def CopyDesc.index (d : CopyDesc) (i : Nat) : Nat := if 7 ≤ d.form then d.idx.getD i 0 else i
def CopyDesc.skips (d : CopyDesc) (i : Nat) : Bool := decide (7 ≤ d.form) && d.idx.getD i 0 == 0xFFFFFFFF
/-- The address of a global row. -/
def CopyDesc.rowVa (d : CopyDesc) (i : Nat) : Dword := d.gva + BitVec.ofNat 64 (d.index i * d.gstride)
/-- The bytes a copy writes or skips. -/
def CopyDesc.bytes (d : CopyDesc) : Nat := d.rows * d.rbytes

/-- What becomes of a row of bytes at global addresses (R170): the place of each byte; class FAULT; class LEASE; a translation fault. -/
inductive RowAt where
  | ok (pls : List Place)
  | fault
  | lease
  | stop (kind level : Nat) (va : Dword)
  deriving DecidableEq, Repr

/-- One byte at a global address, which may lie in the block's scratchpad aperture (spec/01 R30). -/
def State.byteAt (s : State) (blk : Nat) (va : Dword) (write : Bool) : RowAt :=
  match s.resolve blk va 1 write with
  | .at pl => .ok [pl]
  | .trap => .fault
  | .lease => .lease
  | .stop k l => .stop k l va

/-- The places of a row of at most 65,535 bytes, which two pages hold; a row that reaches a scratchpad window is taken byte by byte. -/
def State.rowAt (s : State) (blk : Nat) (va : Dword) (n : Nat) (write : Bool) : RowAt :=
  let last := va + BitVec.ofNat 64 (n - 1)
  if !canonicalVa va || !canonicalVa last then .fault
  else if (s.windowOf va.toNat).isSome || (s.windowOf last.toNat).isSome then
    (List.range n).foldl (fun acc i =>
      match acc, s.byteAt blk (va + BitVec.ofNat 64 i) write with
      | .ok l, .ok m => .ok (l ++ m)
      | .ok _, r => r
      | r, _ => r) (.ok [])
  else
    let rs := s.leaseOf blk
    if !(inLease rs va.toNat write false && inLease rs last.toNat write false) then .lease
    else
      match s.translate (s.vfOf blk) va write false, s.translate (s.vfOf blk) last write false with
      | .fail k l, _ => .stop k l va
      | _, .fail k l => .stop k l last
      | .ok a, .ok b =>
        .ok ((List.range n).map (fun i => .phys (if va.toNat / 2 ^ 16 = (va.toNat + i) / 2 ^ 16 then a + i else b + i + 1 - n)))

/-- The physical addresses among places. -/
def physOf (pls : List Place) : List Nat :=
  pls.filterMap (fun p =>
    match p with
    | .phys pa => some pa
    | .pad _ _ => none)

/-- The first of the global rows of a copy that fails, or every row's places in order (a skipped row has none). -/
def State.rowsAt (s : State) (blk : Nat) (d : CopyDesc) (write : Bool) : RowAt × List (List Place) :=
  (List.range d.rows).foldl (fun acc i =>
    match acc.1 with
    | .ok _ =>
      if d.skips i then (.ok [], acc.2 ++ [[]])
      else
        match s.rowAt blk (d.rowVa i) d.rbytes write with
        | .ok pls => (.ok [], acc.2 ++ [pls])
        | r => (r, acc.2)
    | _ => acc) (.ok [], [])

/-- What a started copy writes to a row: what it read, or anything where it is undefined (R184, R177). -/
def CopyOp.rowData (s : State) (o : CopyOp) (d : CopyDesc) (i : Nat) : List Byte :=
  if o.spoilt then s.anyBytes (o.id * 65536 + i) d.rbytes else o.captured.getD i []

/-- The places of the destination rows of a copy: global ones as given, or those of scratch; of a slot or a tile, whose rows never meet,
none. -/
def State.destPlaces (s : State) (blk : Nat) (d : CopyDesc) (rows : List (List Place)) : List (List Place) :=
  if d.toGlobal then rows
  else if d.onSlot || d.onTileDst then []
  else (List.range d.rows).map (fun i => if d.skips i then [] else (List.range d.rbytes).filterMap (fun j =>
    (s.padAt blk ((d.saddr.getD i 0 + j) % 2 ^ 32)).map (fun p => .pad p.1 p.2)))

/-- The byte at a place as a core reads it. -/
def State.byteOf (s : State) (c : Nat) (pl : Place) : Byte := (s.readPlace c pl 1).headD 0

/-- The bytes of a copy that are read and written together: an element of a tile, else one byte (R177). -/
def CopyDesc.grain (d : CopyDesc) : Nat := if d.onTileSrc || d.onTileDst then 4 else 1
/-- The pieces of a row, first byte and length, that a copy has still to write: the whole row, where it has written nothing of it. -/
def CopyOp.runs (o : CopyOp) (d : CopyDesc) (i : Nat) : List (Nat × Nat) :=
  if d.skips i then []
  else if o.landed.all (fun k => k / max 1 d.rbytes != i) then [(0, d.rbytes)]
  else ((List.range (d.rbytes / d.grain)).filter (fun u => !o.landed.elem (i * d.rbytes + u * d.grain))).map (fun u => (u * d.grain, d.grain))
/-- The bytes that its byte barrier has been counted down by: the last count-down follows completion (R171). -/
def CopyOp.counted (o : CopyOp) (d : CopyDesc) : Nat := min (o.landed.length * d.grain) (d.bytes - 1)

/-- A place some bytes on. -/
def Place.plus (pl : Place) (i : Nat) : Place :=
  match pl with
  | .phys pa => .phys (pa + i)
  | .pad b off => .pad b (off + i)

end Sys2Proof.Machine
end

