-- ==== Sys2Proof/Machine/Access.lean ====
section
/-! DEFINITION. The accesses a thread has issued and their performance: loads, stores, ordered accesses and atomics, publishes and
refreshes (spec/08 R141 to R164), with the requests to memory beyond the package (spec/26 R375 to R381). -/

namespace Sys2Proof.Machine

/-! ## Which access may be performed -/

/-- The bytes an access reaches. -/
def Access.size (a : Access) : Nat :=
  match a.kind with
  | .load n _ _ => n
  | .store d => d.length
  | .memo _ n _ _ _ _ => n
  | .publish _ => 0
  | .refresh _ => 0

/-- Whether two places of given sizes share a byte. -/
def Place.meets (p : Place) (n : Nat) (q : Place) (m : Nat) : Bool :=
  match p, q with
  | .phys a, .phys b => decide (a < b + m) && decide (b < a + n)
  | .pad i a, .pad j b => i == j && decide (a < b + m) && decide (b < a + n)
  | .phys _, .pad _ _ => false
  | .pad _ _, .phys _ => false

def Access.isPublish (a : Access) : Bool :=
  match a.kind with
  | .publish _ => true
  | _ => false
def Access.isRefresh (a : Access) : Bool :=
  match a.kind with
  | .refresh _ => true
  | _ => false
/-- A load, a store, or an ordered access. -/
def Access.isData (a : Access) : Bool := !a.isPublish && !a.isRefresh
/-- A load, or an ordered access. -/
def Access.reads (a : Access) : Bool :=
  match a.kind with
  | .load _ _ _ => true
  | .memo _ _ _ _ _ _ => true
  | _ => false

/-- A store, or an ordered access that may write. -/
def Access.writes (a : Access) : Bool :=
  match a.kind with
  | .store _ => true
  | .memo op _ _ _ _ _ => op != .ldo
  | _ => false

/-- An access through the gang window to the scratchpad of a block on another core: a publish or refresh at .wave or .block does not
wait for it (R146, R147). -/
def State.farPad (s : State) (c : Nat) (a : Access) : Bool :=
  match a.place with
  | .pad b _ => a.isData && (match s.block? b with
    | some k => k.core != c
    | none => false)
  | .phys _ => false

/-- Whether the accesses issued before one let it be performed: a publish waits for every one of them, a refresh for loads and publishes,
any other for publishes and refreshes and for accesses to its own bytes (R141, R146, R147), and one that writes for those that may still
throw (spec/02 R40). An access to another core's scratchpad is ordered by a publish or refresh at .wave or .block only where that is its own
instruction's (R154, R163). -/
def State.mayPerform (s : State) (c : Nat) (earlier : List Access) (a : Access) : Bool :=
  match a.kind with
  | .publish sc => earlier.all (fun e => decide (sc ≤ 1) && s.farPad c e)
  | .refresh sc => earlier.all (fun e => !e.isPublish && !e.isRefresh && (!e.reads || (decide (sc ≤ 1) && s.farPad c e)))
  | _ => (!a.writes || earlier.all (fun e => e.back.isNone)) && earlier.all (fun e =>
      match e.kind with
      | .publish sc => decide (sc ≤ 1) && s.farPad c a && e.pc != a.pc
      | .refresh sc => decide (sc ≤ 1) && s.farPad c a && e.pc != a.pc
      | _ => !e.place.meets e.size a.place a.size)

/-- An element and those before it. -/
def splitAtNth {α : Type} (l : List α) (n : Nat) : Option (List α × α) := (l[n]?).map (fun x => (l.take n, x))

/-- The list without its element at a place. -/
def removeNth {α : Type} (l : List α) (n : Nat) : List α := l.take n ++ l.drop (n + 1)

/-! ## Requests to memory beyond the package -/

/-- The region number and peer of a remote address (R320). -/
def remoteKind (pa : Nat) : Nat × Nat :=
  match regionOf pa with
  | some .cxl => (1, 0)
  | some (.peer p) => (2, p)
  | _ => (0, 0)

/-- Whether a request completes poisoned at once: its peer is absent or fenced (R379, R382). -/
def State.poisonedAtOnce (s : State) (region peer : Nat) : Bool :=
  region == 2 && (s.peerMake peer == 0 || s.peerState peer == 1)
/-- Whether memory at an address is out of reach so. -/
def State.outOfReach (s : State) (pa : Nat) : Bool := s.poisonedAtOnce (remoteKind pa).1 (remoteKind pa).2

/-- The PASID that a request to the host carries for its IOMMU to translate by; none where it is sent as an ATS translated request, and none to other memory
(spec/22 R325, R326), or where no function is known. -/
def State.untranslated (s : State) (vf : Option Nat) (region : Nat) : Option Nat :=
  vf.bind (fun f => if region = 0 ∧ (s.vfWord f 92).testBit 1 = false then some (s.pasidOf f) else none)
/-- The function that an issuer acts for. -/
def State.fnOf (s : State) (who : Issuer) : Option Nat := (s.block? who.blk).map (fun _ => s.vfOf who.blk)
/-- The virtual channel of what an issuer sends, but for chunk traffic (R377): 0 for a launch of class 0, else 1. -/
def State.vcOf (s : State) (who : Issuer) : Nat := if (s.block? who.blk).isSome ∧ (s.recOf who.blk).cls = 0 then 0 else 1
/-- A request sent for a function (R378). -/
def State.sendAs (s : State) (vf : Option Nat) (pa len : Nat) (who : Issuer) (kind : ReqKind) (data : List Byte) : State × Nat :=
  let (rg, p) := remoteKind pa
  ({ s with ids := s.ids + 1, requests := s.requests ++ [⟨s.ids, [s.ids], rg, p, pa, len, who, kind, data, s.clock.wall, 0, s.untranslated vf rg, false, vf, s.vcOf who⟩] }, s.ids)
/-- A request sent for an issuer. -/
def State.send (s : State) (pa len : Nat) (who : Issuer) (kind : ReqKind) (data : List Byte) : State × Nat := s.sendAs (s.fnOf who) pa len who kind data

/-- The class-9 code of a poisoned request (R381, R376). -/
def poisonCode (region : Nat) : Word := if region = 0 then 1 else if region = 1 then 2 else 0

/-- Whether the host has enabled CXL.cache (R371): the CXL control word of the configuration space of physical function 0 (log entry 6). -/
def State.cxlCache (s : State) : Bool := (s.reg 4 0 0x10C).getLsbD 0

/-- Ascending addresses of bytes in naturally aligned pieces of at most 64 bytes, each as large as it can be (R377): address and length. -/
def pieces : Nat → List Nat → List (Nat × Nat)
  | 0, _ => []
  | _, [] => []
  | fuel + 1, pa :: rest =>
    let n := ([64, 32, 16, 8, 4, 2].find? (fun n => pa % n == 0 && (List.range n).all (fun i => (pa :: rest).elem (pa + i)))).getD 1
    (pa, n) :: pieces fuel ((pa :: rest).drop n)

/-- Whether a request carries a write, or closes posted ones. -/
def ReqKind.writes (k : ReqKind) : Bool :=
  match k with
  | .write | .posted | .flush => true
  | .spool _ _ back => !back
  | _ => false

/-- The function that a byte beyond the package was last written for. -/
def State.ownerOf (s : State) (pa : Nat) : Option Nat := ((look s.owned pa).map (fun o => o.2)).bind (fun f => if f < 256 then some f else none)
/-- Bytes beyond the package that something other than a gang has written for a function. -/
def State.setOwner (s : State) (vf : Nat) (pas : List Nat) : State :=
  { s with owned := pas.foldl (fun m pa => onKey m pa (fun o => (o.1, vf))) s.owned }

/-- EVERYTHING WRITTEN AND NOT YET SENT at addresses that satisfy a test is sent (R378), byte for byte what was written, under a number of its own;
with `join`, what is already under way is waited for under that number, too. To the host, where it has not enabled CXL.cache, the writes are
posted, and a zero-length read follows. A read of one of their lines that is under way may come to find the older bytes: they are not used. What an absent or fenced peer does not take is poisoned at once (R381): the answer holds the number, and
the address of the first such byte. -/
def State.sendDirty (s : State) (who : Issuer) (join : Bool) (p : Nat → Bool) : State × Nat × Option Nat :=
  let g := s.ids
  let all := (s.copies.filter (fun q => q.2 && p q.1)).map (fun q => q.1)
  let bad := all.filter s.outOfReach
  let good := all.filter (fun pa => !s.outOfReach pa)
  let post := fun (pa : Nat) => (remoteKind pa).1 == 0 && !s.cxlCache
  let ps := ((good.map s.ownerOf).eraseDups).flatMap (fun f => (pieces good.length (good.filter (fun pa => s.ownerOf pa == f))).map (fun x => (f, x)))
  let writes := (List.range ps.length).map (fun i =>
    let (f, x) := ps.getD i (none, 0, 0)
    (⟨g + 1 + i, [g], (remoteKind x.1).1, (remoteKind x.1).2, x.1, x.2, who, if post x.1 then .posted else .write, s.homeBytes x.1 x.2,
      s.clock.wall, 0, s.untranslated f (remoteKind x.1).1, false, f, s.vcOf who⟩ : Request))
  let flush := match ps.find? (fun x => post x.2.1) with
    | some (f, x) => [(⟨g + 1 + ps.length, [g], 0, 0, x.1, 0, who, .flush, [], s.clock.wall, 0, s.untranslated f 0, false, f, s.vcOf who⟩ : Request)]
    | none => []
  let joined := if join then s.requests.map (fun q => if q.kind.writes then { q with grps := g :: q.grps } else q) else s.requests
  let old := joined.map (fun q => if q.kind == .read && ps.any (fun x => x.2.1 / 64 == q.pa / 64) then { q with outdated := true } else q)
  ({ s with
      ids := g + 2 + ps.length
      requests := old ++ writes ++ flush
      copies := s.copies.map (fun q => if p q.1 then (q.1, false) else q)
      doomed := s.doomed ++ bad.map (fun pa => (pa, g)) }, g, bad.head?)

/-! ## Values -/

/-- The value of a load extended to its register (R63, R156). -/
def extendLoad (size : Nat) (sext : Bool) (x : Nat) : Dword :=
  let v : Dword := BitVec.ofNat 64 x
  if sext ∧ size = 1 then (v.setWidth 8).signExtend 64 else if sext ∧ size = 2 then (v.setWidth 16).signExtend 64 else v

/-- A returned result in its register: what the tack rules leave undefined where the register was written twice (R39). -/
def Thread.return1 (s : State) (t : Thread) (r : Nat) (v : Word) : Thread :=
  { t with g := setD t.g 0 r (if 2 ≤ t.marks.count r then t.undefined s (2048 + r) else v) }
/-- A returned result of a size in bytes. -/
def Thread.returned (s : State) (t : Thread) (d size : Nat) (v : Dword) : Thread :=
  let t1 := t.return1 s d (v.setWidth 32)
  if size = 8 then t1.return1 s (d + 1) ((v >>> 32).setWidth 32) else t1

/-- A thread parked by a tack whose last result has returned may issue again (R38); a SLEEP's cycles start then (spec/10 R226). -/
def Thread.unpark (s : State) (c : Nat) (t : Thread) : Thread :=
  if t.outstanding then t
  else
    match t.wait with
    | .tack => { t with wait := .no, marks := [] }
    | .sleep _ n true => { t with wait := .sleep (s.clockOf c + n) n false, marks := [] }
    | _ => t

/-- The new memory value of an operation (R160): none where it writes nothing. -/
def MemoOp.apply (op : MemoOp) (size : Nat) (m v n : Dword) : Option Dword :=
  let z := 8 * size
  let sx := fun (x : Dword) => if size = 8 then x.toInt else (x.setWidth 32).toInt
  match op with
  | .ldo => none
  | .sto => some v
  | .swap => some v
  | .cas => if m = v then some n else none
  | .add => some (BitVec.ofNat 64 ((m.toNat + v.toNat) % 2 ^ z))
  | .and => some (m &&& v)
  | .or => some (m ||| v)
  | .xor => some (m ^^^ v)
  | .mins => some (if sx m ≤ sx v then m else v)
  | .maxs => some (if sx m ≤ sx v then v else m)
  | .minn => some (if m.toNat ≤ v.toNat then m else v)
  | .maxn => some (if m.toNat ≤ v.toNat then v else m)
  | .inc => some (if v.toNat ≤ m.toNat then 0 else m + 1)
  | .dec => some (if m = 0 ∨ v.toNat < m.toNat then v else m - 1)
  | .addf => some ((fadd32 .rne (f32 (m.setWidth 32)) (f32 (v.setWidth 32))).1.setWidth 64)

/-- The core's writes of some bytes that have not yet entered the order at a scope are placed in it, and, at the home, what other gangs of the core hold of
those bytes (R161): no later read of the core goes back (R143). -/
def State.placeOwn (s : State) (c gang sc : Nat) (hasGang : Bool) (pa len : Nat) : State :=
  if sc ≤ 1 ∨ (sc = 2 ∧ hasGang = false) then s.orderOwn c (fun x => decide (pa ≤ x) && decide (x < pa + len))
  else
  (List.range len).foldl (fun t i =>
    let t1 := match look (t.core c).writes (pa + i) with
      | some w => (t.loosen (pa + i)).placeByte c gang sc (pa + i) w
      | none => t
    ((t1.gangsOn c).filter (fun g => wide sc || g != gang)).foldl (fun u g => u.flushByte g (pa + i)) t1) s

/-- The bytes of the order a MEMO reads at its home beyond the core, with their places (R161). -/
def State.orderBytes (s : State) (gang sc pa len : Nat) : List Placed :=
  (List.range len).map (fun i =>
    if wide sc then s.home (pa + i)
    else
      match (s.gang? gang).bind (fun k => look k.overlay (pa + i)) with
      | some p => later (s.home (pa + i)) p
      | none => s.home (pa + i))
/-- The bytes of the order a MEMO reads at its home (R161). -/
def State.memoRead (s : State) (c gang sc : Nat) (hasGang : Bool) (pa len : Nat) : List Byte :=
  if sc ≤ 1 ∨ (sc = 2 ∧ hasGang = false) then s.viewBytes c pa len else (s.orderBytes gang sc pa len).map (fun p => p.val)

/-- The core's snapshot takes bytes of an order at their places (R143, R161). -/
def State.snapTake (s : State) (c pa : Nat) (ps : List Placed) : State :=
  s.onCore c (fun k => { k with snap := (List.range ps.length).foldl (fun m i => takeLater m (pa + i) (ps.getD i ⟨0, 0⟩)) k.snap })

/-- Whether an ordered read of a core returns what its snapshot holds, as the device may choose where that misses only writes that no publish has covered:
no rule relates the orders of two locations (spec/14 R272). -/
def State.readsOld (s : State) (c sc : Nat) (hasGang : Bool) (a : Access) : Bool :=
  match a.place with
  | .phys pa => (wide sc || (sc == 2 && hasGang)) && s.freeBit (2 ^ 45 + 2 ^ 50) && (List.range a.size).all (fun i => (look (s.core c).writes (pa + i)).isNone &&
      ((look (s.core c).snap (pa + i)).map (fun p => s.lags (pa + i, p))).getD false)
  | .pad _ _ => false

/-- The write of a MEMO at its home, which no publish has covered yet (spec/14 R272); the core's view of the location takes it (R161). -/
def State.memoWrite (s : State) (c gang sc : Nat) (hasGang : Bool) (pa : Nat) (data : List Byte) : State :=
  if sc ≤ 1 ∨ (sc = 2 ∧ hasGang = false) then
    (s.viewWrite c gang pa data).orderOwn c (fun x => decide (pa ≤ x) && decide (x < pa + data.length))
  else
    let s1 := s.nextStamp
    let st := s1.stamp
    let s2 := (List.range data.length).foldl (fun t i =>
      let b := data.getD i 0
      if wide sc then (t.loosen (pa + i)).homeWrite (some gang) (pa + i) b st
      else (t.loosen (pa + i)).onGang gang (fun k => { k with overlay := insertAt k.overlay (pa + i) ⟨b, st⟩ })) s1
    s2.snapTake c pa (data.map (fun b => ⟨b, st⟩))

/-- One atomic operation at a place: the state after it and the old value (R160, R161). The core's view of the location takes the result, that of a
read, too. -/
def State.atomic (s : State) (c gang sc : Nat) (hasGang : Bool) (pl : Place) (size : Nat) (f : Dword → Option Dword) : State × Dword :=
  match pl with
  | .pad b off =>
    let m : Dword := BitVec.ofNat 64 (leNat (s.padBytes b off size))
    match f m with
    | some v => (s.padWrite b off (leBytes size v.toNat), m)
    | none => (s, m)
  | .phys pa =>
    let s1 := s.placeOwn c gang sc hasGang pa size
    let m : Dword := BitVec.ofNat 64 (leNat (s1.memoRead c gang sc hasGang pa size))
    match f m with
    | some v => (s1.memoWrite c gang sc hasGang pa (leBytes size v.toNat), m)
    | none => (if sc ≤ 1 ∨ (sc = 2 ∧ hasGang = false) then s1 else s1.snapTake c pa (s1.orderBytes gang sc pa size), m)

/-! ## Performing -/

/-- The gang of a block's identifier, 0 for none. -/
def State.gangId (s : State) (blk : Nat) : Nat :=
  match s.block? blk with
  | some b => b.gang
  | none => 0

/-- A lined wave's log with one entry more (spec/27 R390). -/
def Wave.logEntry (w : Wave) (e : LogEntry) : Wave :=
  match w.lining with
  | some l => { w with lining := some { l with log := l.log ++ [e] } }
  | none => w

/-- Whether a lane is in the handler of a SILENT trap, of which nothing is logged or taken from the log: no re-execution comes there (spec/27 R391; log
entry 25). -/
def Wave.handles (w : Wave) (lane : Nat) : Bool := w.lanes.any (fun t => t.lane == lane && t.hsilent)
/-- What an instruction of a lane adds to the log. -/
def Wave.logFor (w : Wave) (lane : Nat) (e : LogEntry) : Wave := if w.handles lane then w else w.logEntry e

/-- The first entry that a re-execution has still to use and that satisfies a test, and the wave once it is used (spec/27 R391). -/
def Wave.replay (w : Wave) (p : LogEntry → Bool) : Option (LogEntry × Wave) :=
  match w.lining with
  | some l => (l.replay.find? p).map (fun e => (e, { w with lining := some { l with replay := dropFirst p l.replay } }))
  | none => none

/-- The same for an instruction of a lane. -/
def Wave.replayFor (w : Wave) (lane : Nat) (p : LogEntry → Bool) : Option (LogEntry × Wave) := if w.handles lane then none else w.replay p

/-- Whether an entry is the value a lane took at an instruction and address. -/
def LogEntry.isValue (lane : Nat) (pc va : Dword) (e : LogEntry) : Bool :=
  match e with
  | .value k q a _ => k == lane && q == pc && a == va
  | _ => false
/-- The logged value a re-execution takes for a lane. -/
def Wave.replayValue (w : Wave) (lane : Nat) (pc va : Dword) : Option (Dword × Wave) :=
  match w.replay (LogEntry.isValue lane pc va) with
  | some (.value _ _ _ v, w1) => some (v, w1)
  | _ => none

/-- A value from outside the wave for a lane of a lined wave: taken from the log in a re-execution, else logged (spec/27 R389, R391). -/
def State.outside (s : State) (l : Nat) (v : Dword) : State × Dword :=
  match s.curWave with
  | none => (s, v)
  | some w =>
    match w.replayFor l (LogEntry.isValue l s.cur.pc 0) with
    | some (.value _ _ _ x, w1) => (s.onCur (fun _ => w1), x)
    | _ => (s.onCur (fun u => u.logFor l (.value l s.cur.pc 0 v)), v)

/-- Whether an entry is a store that a lane performed at an instruction. -/
def LogEntry.isStore (lane : Nat) (pc : Dword) (e : LogEntry) : Bool :=
  match e with
  | .store k q _ _ => k == lane && q == pc
  | _ => false
/-- The logged store a re-execution compares with. -/
def Wave.replayStore (w : Wave) (lane : Nat) (pc : Dword) : Option (Place × List Byte × Wave) :=
  match w.replay (LogEntry.isStore lane pc) with
  | some (.store _ _ p d, w1) => some (p, d, w1)
  | _ => none

/-- Whether the injected mismatch of the next comparison concerns a lane of a lined wave: the lining wave's copy of a store differs
(spec/27 R389; the model takes which comparisons fail from `inject`, log entry 12). -/
def State.mismatch (s : State) (w : Wave) (lane : Nat) : Bool := w.lining.isSome && s.inject.elem lane

/-- The registers of a thread as they are, and as they were at an access. -/
def Thread.laneRegs (t : Thread) : LaneRegs :=
  { g := t.g, p := t.p, lc := t.lc, uepc := t.uepc, ucause := t.ucause, iflags := t.iflags, fflags := t.fflags, handler := t.handler,
    hsilent := t.hsilent, suspended := t.suspended, loops := t.loops, marks := t.marks }
def Thread.withRegs (t : Thread) (r : LaneRegs) : Thread :=
  { t with g := r.g, p := r.p, lc := r.lc, uepc := r.uepc, ucause := r.ucause, iflags := r.iflags, fflags := r.fflags, handler := r.handler,
           hsilent := r.hsilent, suspended := r.suspended, loops := r.loops, marks := r.marks }

/-- An access removed from a lane, its result returned, also to what later accesses that may throw go back to (spec/02 R40). -/
def State.finish (s : State) (c slot lane n : Nat) (f : Thread → Thread) : State :=
  s.onLane c slot lane (fun t =>
    let later := (t.acc.drop (n + 1)).map (fun a => { a with back := a.back.map (fun r => (f (t.withRegs r)).laneRegs) })
    Thread.unpark s c (f { t with acc := t.acc.take n ++ later }))

/-- A thread throws at the `n`-th of its accesses (spec/02 R40, spec/26 R381): of the instructions after it nothing remains. -/
def Thread.throwAt (s : State) (t : Thread) (n : Nat) (cls : Nat) (code : Word) : Thread :=
  match t.acc[n]? with
  | none => t
  | some a =>
    (({ ((a.back.map t.withRegs).getD t) with acc := t.acc.take n, pc := a.pc, endChk := false }).throws s cls code a.pc).issuedIn a.step

/-- Whether an access is of an issue of some step, to a peer that poisons it at once. -/
def State.barred (s : State) (step : Nat) (a : Access) : Bool :=
  match a.place with
  | .phys pa => a.step == step && a.reads && isRemote pa && s.poisonedAtOnce (remoteKind pa).1 (remoteKind pa).2
  | .pad _ _ => false
/-- The lanes of one issue whose accesses are poisoned at once throw together (spec/26 R381, R382). -/
def State.throwBarred (s : State) (c slot step : Nat) (code : Word) : State :=
  (s.onThreads (fun w t => w.isAt c slot && t.live && t.thrown?.isNone) (fun t =>
    match indexOf (s.barred step) t.acc with
    | some n => t.throwAt s n 9 code
    | none => t)).reported c slot

/-- The access of a lane marked as waiting for a request. -/
def State.setReq (s : State) (c slot lane n r : Nat) : State :=
  s.onLane c slot lane (fun t => { t with acc := modifyNth (fun a => { a with req := some r }) t.acc n })

/-- Whether something is still to be sent beyond the package, or is under way (R378). -/
def State.unsent (s : State) : Bool := s.copies.any (fun q => q.2) || s.requests.any (fun q => q.kind.writes)

/-- Whether a request is outstanding. -/
def State.waiting (s : State) (r : Nat) : Bool := s.requests.any (fun q => q.grps.elem r && q.kind != .posted)

/-- Whether a publish, of a thread or of a launch's end, still waits under a number. -/
def State.awaited (s : State) (r : Nat) : Bool :=
  s.waiting r || s.waves.any (fun w => w.lanes.any (fun t => t.acc.any (fun a => a.req == some r))) || s.launches.any (fun l => l.2.pubReq == some r)
/-- The writes that a poisoned publish has lost leave the view once it has completed (spec/26 R381): later loads find what the far memory
holds. -/
def State.settleDoomed (s : State) : State :=
  let over_ := s.doomed.filter (fun d => !s.awaited d.2)
  if over_.isEmpty then s
  else
    let hit := fun (pa : Nat) => over_.any (fun d => d.1 == pa)
    { s with
      doomed := s.doomed.filter (fun d => s.awaited d.2)
      copies := s.copies.filter (fun q => q.2 || !hit q.1)
      cores := s.cores.map (fun k => (k.1, { k.2 with snap := k.2.snap.filter (fun q => !hit q.1) })) }

/-- A poisoned line that an access reads from its home (spec/27 R394, R395). -/
def State.poisonHit (s : State) (c pa n : Nat) : Option Nat :=
  ((List.range n).filter (fun i => (look (s.core c).writes (pa + i)).isNone && (look s.poisoned ((pa + i) / 64 * 64)).isSome)).head?.map
    (fun i => (pa + i) / 64 * 64)
/-- A gang has consumed a poisoned line: its rollback follows (spec/27 R394). -/
def State.consume (s : State) (blk line : Nat) : State :=
  match s.block? blk with
  | some b => s.onGang b.gang (fun g => { g with hit := some line })
  | none => s

/-- Whether a core can read a byte of remote memory in the package: of its own view, or a copy of the package's. -/
def State.hasByte (s : State) (c pa : Nat) : Bool :=
  (look s.copies pa).isSome || (look (s.core c).writes pa).isSome || (look (s.core c).snap pa).isSome

/-- The aligned 64-byte unit of an address is asked for (R142, spec/26 R378), once no write of it is under way. -/
def State.fetchLine (s : State) (c slot lane n : Nat) (pc : Dword) (pa : Nat) : State :=
  if (List.range 64).any (fun i => s.inFlight (pa / 64 * 64 + i)) then s
  else
    let (s1, r) := s.send (pa / 64 * 64) 64 ⟨c, slot, lane, pc, ((s.wave? c slot).map (fun w => w.blk)).getD 0⟩ .read []
    s1.setReq c slot lane n r

/-- A load or atomic whose data the package must fetch first: the request is sent, and again where its bytes could not be used; a poisoned one leaves the destination unwritten
and the lanes throw REMOTE_FENCED (R378, R381). `k` performs the access once its bytes are held. -/
def State.fetched (s : State) (c slot lane n : Nat) (a : Access) (k : State → State) : State :=
  match a.place with
  | .pad _ _ => k s
  | .phys pa =>
    match s.poisonHit c pa a.size with
    | some l => s.consume (((s.wave? c slot).map (fun w => w.blk)).getD 0) l
    | none =>
    if !isRemote pa || (List.range a.size).all (fun i => s.hasByte c (pa + i)) then k s
    else if s.outOfReach pa then s.throwBarred c slot a.step (poisonCode (remoteKind pa).1)
    else
      match a.req with
      | some r => if s.waiting r then s else s.fetchLine c slot lane n a.pc pa
      | none => s.fetchLine c slot lane n a.pc pa

/-- A throw due in a lane at its next instruction boundary, one of class SILENT a user trap (spec/15 R284), while the wave that issued it
lasts; an earlier one stays. $tailrule becomes `rule` with it (spec/11 R245); `step` is the step in which its instruction issued (spec/18 R295). -/
def State.dueThrow (s : State) (who : Issuer) (cls : Nat) (code : Word) (xpc : Dword) (rule : Word) (step : Nat) : State :=
  s.onIssuing who (fun w => w.onLane who.lane (fun t =>
    if t.live && t.due.isNone then { t with due := some ⟨⟨cls, code, xpc, s.cycles, step⟩, rule⟩ } else t))

/-! ## Breaches of obligations about memory -/

/-- The byte barriers that operations not yet completed name (spec/10 R207). -/
def State.namedBarriers (s : State) : List Place :=
  (s.blocks.flatMap (fun b => b.2.queues.flatMap (fun q => q.flatMap (fun o => o.all.filterMap (fun d => d.bobj))))).eraseDups
/-- COUNT and ZEROS of a byte barrier that an operation still names are undefined once a store or a copy has written the object (spec/10
R207). -/
def State.strikeBarriers (s : State) (hit : Place → Bool) : State :=
  (s.namedBarriers.filter hit).foldl (fun t pl =>
    match pl with
    | .pad b off => t.padWrite b off (s.anyBytes (2 ^ 25 + 2 ^ 20 * b + off) 8)
    | .phys _ => t) s

/-- The bytes of the spill area of a tile. -/
def Tile.spillBytes (t : Tile) : Nat := if t.policy = 1 then t.spillN * t.m * 768 else 0
/-- The physical address of a byte of it. -/
def State.spillPa (s : State) (t : Tile) (i : Nat) : Option Nat :=
  match s.translate (s.vfOf t.blk) (t.spill + BitVec.ofNat 64 i) false false with
  | .ok pa => some pa
  | .fail _ _ => none
/-- Whether a physical address lies in it. -/
def State.inSpill (s : State) (t : Tile) (pa : Nat) : Bool := s.underSpan (s.vfOf t.blk) t.spill t.spillBytes pa false
/-- A byte of memory undefined, for every core and at the home. -/
def State.scramble (s : State) (pa k : Nat) : State :=
  let s1 : State := { s with stamp := s.stamp + 1 }
  let s2 : State := { s1 with
    cores := s1.cores.map (fun p => (p.1, { p.2 with writes := eraseAt p.2.writes pa, snap := eraseAt p.2.snap pa }))
    gangs := s1.gangs.map (fun g => (g.1, { g.2 with overlay := eraseAt g.2.overlay pa })) }
  s2.homeWrite none pa (Config.freeByte s.free (2 ^ 44 + k)) s1.stamp
/-- THE SPILL AREAS OF MAPPED TILES REACHED BY OTHER MEANS (spec/09 R196): their contents, and the spilled pleats, are undefined. -/
def State.breach (s : State) (pas : List Nat) : State :=
  s.cores.foldl (fun t c => (c.2.tiles.filter (fun x => x.2.mapped && x.2.policy == 1 && pas.any (s.inSpill x.2))).foldl (fun u x =>
    ((List.range x.2.spillBytes).foldl (fun v i =>
      match s.spillPa x.2 i with
      | some pa => v.scramble pa (2 ^ 26 * x.1 + i)
      | none => v) u).onCore c.1 (fun k => { k with tiles := onKey k.tiles x.1 (fun y => { y with breached := true }) })) t) s

/-- The address of a chunk (spec/24 R355). -/
def Coll.chunkVa (k : Coll) (c : Nat) : Nat := k.rbase + c * k.rstride
/-- Whether an instance is still at work: it has fired a chunk (spec/24 R366). -/
def CollInst.active (x : CollInst) : Bool := x.aborted.isNone && !x.complete && !x.fired.isEmpty
/-- A FIRED CHUNK WRITTEN BEFORE ITS INSTANCE ENDS (spec/24 R356): its bytes are undefined, and so is its result. -/
def State.strikeChunks (s : State) (pas : List Nat) : State :=
  s.comms.foldl (fun t c => (c.2.instances.filter CollInst.active).foldl (fun u x =>
    (x.fired.filter (fun ch => pas.any (fun pa => s.underSpan c.2.vf (BitVec.ofNat 64 (x.coll.chunkVa ch)) x.coll.chunk pa false))).foldl (fun v ch =>
      ((List.range x.coll.chunk).foldl (fun y i =>
        match s.translate c.2.vf (BitVec.ofNat 64 (x.coll.chunkVa ch + i)) false false with
        | .ok pa => y.scramble pa (2 ^ 40 + x.coll.chunkVa ch + i)
        | .fail _ _ => y) v).onComm c.1 (fun m => { m with instances := m.instances.map (fun y =>
          if y.inst = x.inst ∧ y.active then { y with breached := ch :: y.breached } else y) })) u) t) s

/-- The functions whose configuration gives them an allowance table (spec/22 R326). -/
def State.tableFns (s : State) : List Nat :=
  ((s.mon.regs.filter (fun p => decide (p.1 / 2 ^ 32 = 2) && (p.1 % 2 ^ 20 == 24 || p.1 % 2 ^ 20 == 28))).map (fun p => p.1 / 2 ^ 20 % 2 ^ 12)).eraseDups
/-- Whether an address lies in an entry of a function's allowance table whose EN is 1 (spec/21 R316). -/
def State.inBucket (s : State) (vf pa : Nat) : Bool :=
  let t := s.vfDword vf 24
  s.underSpan vf (BitVec.ofNat 64 t) 16384 pa false &&
  (List.range 1024).any (fun b => (s.vaNat vf (BitVec.ofNat 64 (t + 16 * b + 12)) 4).testBit 0 && s.underSpan vf (BitVec.ofNat 64 (t + 16 * b)) 16 pa false)
/-- Whether an address lies in an edge that the dispatcher or a waiting EPUSH uses (spec/10 R220). -/
def State.inEdge (s : State) (pa : Nat) : Bool :=
  s.launches.any (fun p => decide (p.2.status ≤ 1) && p.2.edgeVas.any (fun va => s.underSpan p.2.vf (BitVec.ofNat 64 va) 64 pa false)) ||
  s.waves.any (fun w => w.lanes.any (fun t =>
    match t.wait with
    | .epush (.phys p) => decide (p ≤ pa) && decide (pa < p + 64)
    | _ => false))
/-- The addresses that software must not write now: of an allowance entry in force, of an edge in use. -/
def State.misused (s : State) (pas : List Nat) : List Nat := pas.filter (fun pa => s.tableFns.any (fun vf => s.inBucket vf pa) || s.inEdge pa)
/-- What has been written there against the rule is undefined (spec/00 R9, R6). -/
def State.unsettle (s : State) (pas : List Nat) : State := pas.foldl (fun t pa => t.scramble pa (2 ^ 50 + pa)) s

/-- What a store or a copy has written at some places, of byte barriers, of spill areas, of fired chunks, and of what must not be written; `was` is the state before it. -/
def State.overwrite (s : State) (pls : List Place) (was : State) : State :=
  (((s.strikeBarriers (fun b => pls.any (fun p => b.meets 16 p 1))).breach (physOf pls)).strikeChunks (physOf pls)).unsettle (was.misused (physOf pls))
/-- The places of the bytes of an access. -/
def Access.places (a : Access) : List Place :=
  (List.range a.size).map (fun i =>
    match a.place with
    | .phys pa => .phys (pa + i)
    | .pad b off => .pad b (off + i))
/-- A core reads bytes of a place, other than by its loads: spill areas there are breached (spec/09 R196), a poisoned line is consumed (spec/27 R394). -/
def State.touch (s : State) (c blk : Nat) (p : Place) (n : Nat) : State :=
  match p with
  | .pad _ _ => s
  | .phys pa =>
    let s1 := s.breach ((List.range n).map (fun i => pa + i))
    match s.poisonHit c pa n with
    | some l => s1.consume blk l
    | none => s1
/-- The spill areas that an access reaches. -/
def State.breachAt (s : State) (a : Access) : State :=
  match a.place with
  | .phys pa => s.breach ((List.range a.size).map (fun i => pa + i))
  | .pad _ _ => s
/-- The fired chunks, and what must not be written, that an ordered access or an atomic writes; `was` is the state before it. -/
def State.strikeAt (s : State) (a : Access) (op : MemoOp) (was : State) : State :=
  match a.place with
  | .phys pa =>
    let pas := (List.range a.size).map (fun i => pa + i)
    if op = .ldo then s else (s.strikeChunks pas).unsettle (was.misused pas)
  | .pad _ _ => s

/-! ## Loads, stores, atomics, publishes -/

/-- What the performance of an access adds to the log of a lined wave (spec/27 R390). -/
def Wave.logAccess (w : Wave) (a : Access) (e : LogEntry) : Wave := if a.silent then w else w.logEntry e

/-- A load performed (R141): its value returns to its register. -/
def State.performLoad (s : State) (c slot lane n : Nat) (w : Wave) (a : Access) (size : Nat) (sext : Bool) (d : Nat) : State :=
  match if a.silent then none else w.replayValue lane a.pc a.va with
  | some (v, w1) =>
    (s.onWave c slot (fun _ => w1)).finish c slot lane n (fun t => t.returned s d size v)
  | none =>
    s.fetched c slot lane n a (fun s0 =>
      let s1 := s0.breachAt a
      let v := extendLoad size sext (leNat (s1.readPlace c a.place size))
      let s2 := (s1.onWave c slot (fun w => w.logAccess a (.value lane a.pc a.va v))).finish c slot lane n (fun t => t.returned s1 d size v)
      match a.place with
      | .phys _ => s2.gauge 1 c (some (s.vfOf w.blk)) (s2.clockOf c - a.issued)
      | .pad _ _ => s2)

/-- A store performed (R141, R144), whatever the map of what it writes says of the field: one that a map in device memory marks RO takes the bytes too (log entry 54). -/
def State.performStore (s : State) (c slot lane n : Nat) (w : Wave) (a : Access) (data : List Byte) : State :=
  let s1 := s.onWave c slot (fun w => w.logAccess a (.store lane a.pc a.place data))
  ((s1.writePlace c (s.gangId w.blk) a.place data).overwrite a.places s).finish c slot lane n (fun t => t)

/-- Whether an access goes to a scratchpad. -/
def Access.inPad (a : Access) : Bool :=
  match a.place with
  | .pad _ _ => true
  | .phys _ => false

/-- Bytes of memory beyond the package come into its copies; those still to be sent, or under way, stay (R378). -/
def State.fill (s : State) (pa : Nat) (data : List Byte) : State :=
  let s1 := s.nextStamp
  (List.range data.length).foldl (fun t i =>
    if look t.copies (pa + i) = some true ∨ t.inFlight (pa + i) then t
    else { t with mem := writeMem t.mem (pa + i) (data.getD i 0), stamps := setD t.stamps 0 (pa + i) s1.stamp,
                  copies := insertAt t.copies (pa + i) false }) s1

/-- AN ORDERED ACCESS AT .SYSTEM TO REMOTE MEMORY: one request, performed there, its result in the response (spec/26 R378). The package's own
writes of the bytes go there first, and those under way are waited for (R161). `k` takes the old value once it has come. -/
def State.remoteMemo (s : State) (c slot lane n : Nat) (w : Wave) (a : Access) (op : MemoOp) (size pa : Nat) (v x : Dword)
    (k : State → Dword → State) : State :=
  match a.got with
  | some bs =>
    let m : Dword := BitVec.ofNat 64 (leNat bs)
    let new := match op.apply size m v x with
      | some r => leBytes size r.toNat
      | none => bs
    let s1 := (s.breachAt a).fill pa new
    k (s1.snapTake c pa (new.map (fun b => ⟨b, s1.stamp⟩))) m
  | none =>
    if (a.req.map s.waiting).getD false then s
    else
      let who : Issuer := ⟨c, slot, lane, a.pc, w.blk⟩
      let s1 := s.placeOwn c (s.gangId w.blk) 5 (s.recOf w.blk).hasGang pa size
      let mine := fun (y : Nat) => decide (pa ≤ y) && decide (y < pa + size)
      if s1.outOfReach pa then s1.throwBarred c slot a.step (poisonCode (remoteKind pa).1)
      else if (List.range size).any (fun i => s1.inFlight (pa + i)) then s1
      else if s1.copies.any (fun q => q.2 && mine q.1) then
        match s1.sendDirty who false mine with
        | (s2, g, _) => s2.setReq c slot lane n g
      else
        let (s2, r) := s1.send pa size who (.memo op) (leBytes size v.toNat ++ (if op = .cas then leBytes size x.toNat else []))
        s2.setReq c slot lane n r

/-- What the comparators of lining see of a MEMO that may write, besides its address: its operation, size, scope and operands (spec/27 R389). -/
def memoData (op : MemoOp) (size : Nat) (v n : Dword) (sc : Nat) : List Byte :=
  leBytes 1 op.ctorIdx ++ leBytes 1 size ++ leBytes 1 sc ++ leBytes 8 v.toNat ++ leBytes 8 n.toNat

/-- An ordered access or atomic performed at its home (R160, R161). -/
def State.performMemo (s : State) (c slot lane n : Nat) (w : Wave) (a : Access) (op : MemoOp) (size d : Nat) (v x : Dword) (sc : Nat) :
    State :=
  match if a.silent then none else w.replayValue lane a.pc a.va with
  | some (m, w1) =>
    (s.onWave c slot (fun _ => w1)).finish c slot lane n (fun t => if op = .sto then t else t.returned s d size m)
  | none =>
    let end_ := fun (s2 : State) (m : Dword) =>
      let s3 := s2.onWave c slot (fun w =>
        (if op = .ldo then w else w.logAccess a (.store lane a.pc a.place (memoData op size v x sc))).logAccess a (.value lane a.pc a.va m))
      let s3 := if op = .ldo ∧ !a.inPad then s3.gauge 1 c (some (s.vfOf w.blk)) (s3.clockOf c - a.issued) else s3
      s3.finish c slot lane n (fun t => if op = .sto then t else t.returned s3 d size m)
    let here := s.fetched c slot lane n a (fun s0 =>
      let s1 := s0.breachAt a
      if op = .ldo ∧ s1.readsOld c sc (s.recOf w.blk).hasGang a then end_ s1 (BitVec.ofNat 64 (leNat (s1.readPlace c a.place size)))
      else
      let (s2, m) := s1.atomic c (s.gangId w.blk) sc (s.recOf w.blk).hasGang a.place size (fun m => op.apply size m v x)
      end_ (s2.strikeAt a op s1) m)
    match a.place with
    | .phys pa => if sc = 5 ∧ isRemote pa then s.remoteMemo c slot lane n w a op size pa v x end_ else here
    | .pad _ _ => here

/-- A publish performed (R146). At .system it then sends every write to memory beyond the package that has not been sent, and completes
when every response has returned (spec/26 R378); a write to an absent or fenced peer is poisoned at once (R381). -/
def State.performPublish (s : State) (c slot lane n : Nat) (w : Wave) (a : Access) (sc : Nat) : State :=
  match a.req with
  | some r => if s.waiting r then s else s.finish c slot lane n (fun t => t)
  | none =>
    let s1 := s.publish c (s.gangId w.blk) sc (s.recOf w.blk).hasGang
    if sc ≠ 5 then s1.finish c slot lane n (fun t => t)
    else
      let who : Issuer := ⟨c, slot, lane, a.pc, w.blk⟩
      let (s2, g, bad) := s1.sendDirty who true (fun _ => true)
      let s3 := match bad with
        | some pa => s2.dueThrow who 9 (poisonCode (remoteKind pa).1) a.pc 0 a.step
        | none => s2
      if s3.waiting g then s3.setReq c slot lane n g else s3.finish c slot lane n (fun t => t)

/-- An access performed, whatever it is. -/
def State.performWith (s : State) (c slot lane n : Nat) (w : Wave) (a : Access) : State :=
  match a.kind with
  | .load size sext d => s.performLoad c slot lane n w a size sext d
  | .store data => s.performStore c slot lane n w a data
  | .memo op size d v x sc => s.performMemo c slot lane n w a op size d v x sc
  | .publish sc => s.performPublish c slot lane n w a sc
  | .refresh sc => (s.refresh c sc (s.recOf w.blk).hasGang).finish c slot lane n (fun t => t)

/-- The `n`-th access of a lane performed, if it satisfies a test and the rules let it be performed. -/
def State.performNth (s : State) (c slot lane n : Nat) (p : Access → Bool) : State :=
  match s.wave? c slot with
  | none => s
  | some w =>
    match w.lane? lane with
    | none => s
    | some t =>
      match splitAtNth t.acc n with
      | none => s
      | some (before, a) => if p a && s.mayPerform c before a then s.performWith c slot lane n w a else s

/-- The accesses of a lane performed in program order, at most `fuel` of them: what BARARR, a task instruction and EXIT wait for
(log entry 8). -/
def State.drainLane (s : State) (c slot lane : Nat) : Nat → State
  | 0 => s
  | fuel + 1 => State.drainLane (s.performNth c slot lane 0 (fun _ => true)) c slot lane fuel

/-- The accesses of several lanes performed. -/
def State.drain (s : State) (c slot : Nat) (lanes : List Nat) : State :=
  lanes.foldl (fun t l =>
    match t.lane? c slot l with
    | some th => t.drainLane c slot l th.acc.length
    | none => t) s

end Sys2Proof.Machine
end

