-- ==== Sys2Proof/Machine/Lane.lean ====
section
/-! DEFINITION. The cross-lane instructions (spec/07 R117 to R127): a lane arrives; when every member has arrived or exited, and the
members' loads and stores have been performed (R119), each arrived lane gets its result. -/

namespace Sys2Proof.Machine

/-- What an arrived lane brought: its lane, its operands. -/
abbrev Brought := Nat × Word × Word

/-- The A operand of a lane among the arrived, if it is there. -/
def broughtBy (ms : List Brought) (l : Nat) : Option Word := (ms.find? (fun m => m.1 == l)).map (·.2.1)

/-- The key that orders values for TOPK (R126). -/
def topKey (ty : Nat) (x : Word) : Int :=
  if ty = 1 then x.toInt
  else if ty = 2 then x.toNat
  else if (f32 x).isNan then -(2 ^ 40)
  else if x.msb then -((x.toNat % 2 ^ 31 : Nat) : Int) - 1
  else x.toNat

/-- Integer combination and its identity (R124). -/
def foldOne (op : Nat) (x y : Word) : Word :=
  match op with
  | 0 => x + y
  | 1 => minS x y
  | 2 => maxS x y
  | 3 => minU x y
  | 4 => maxU x y
  | 5 => x &&& y
  | 6 => x ||| y
  | _ => x ^^^ y
def foldIdentity (op : Nat) : Word :=
  match op with
  | 1 => 0x7FFFFFFF#32
  | 2 => 0x80000000#32
  | 3 => 0xFFFFFFFF#32
  | 5 => 0xFFFFFFFF#32
  | _ => 0
/-- f32 combination (R125): the exact sum rounded once; the least or greatest by R106, all NaN giving the canonical NaN. -/
def foldF (op : Nat) (mode : RMode) (xs : List Word) : Word × Word :=
  let vs := xs.map f32
  if xs.isEmpty then (if op = 0 then (0, 0) else if op = 1 then (0x7F800000#32, 0) else (0xFF800000#32, 0))
  else if op = 0 then
    let (v, bad) := groupSum (vs.map (fun v => (v, false)))
    let (w, fl) := round32m mode v
    (w, fl ||| nvIf (bad || anySig vs))
  else
    match xs.filter (fun x => !(f32 x).isNan) with
    | [] => (nan32, nvIf (anySig vs))
    | y :: ys => (ys.foldl (fun acc x => (minMax (op == 2) acc x).1) y, nvIf (anySig vs))

/-- A result written: a g register, a predicate, or the two registers of TOPK. -/
inductive XResult where
  | g (d : Nat) (v : Word)
  | p (d : Nat) (b : Bool)
  | pair (d : Nat) (v x : Word)
  deriving DecidableEq, Repr

/-- The result of a cross-lane operation in lane `l`, and its flags; `ms` is what the members brought, in ascending lane order. -/
def XOp.result (x : XOp) (ms : List Brought) (l : Nat) (own k : Word) : XResult × Word :=
  match x with
  | .shfl m kk d =>
    let src : Int := if m = 0 then kk else if m = 1 then (l : Int) - kk else if m = 2 then (l : Int) + kk else ((l ^^^ kk : Nat) : Int)
    (.g d (if src < 0 then own else (broughtBy ms src.toNat).getD own), 0)
  | .shflr d => (.g d ((broughtBy ms (k.toNat % 32)).getD own), 0)
  | .vote m d =>
    let on := fun (b : Brought) => b.2.1 != 0
    if m = 0 then (.p d (ms.all on), 0)
    else if m = 1 then (.p d (ms.any on), 0)
    else if m = 2 then (.p d (ms.all on || !ms.any on), 0)
    else (.g d (BitVec.ofNat 32 (maskOf 32 (fun i => ms.any (fun b => b.1 == i && on b)))), 0)
  | .fold op kind isF d mode _ =>
    let t := ms.filter (fun b => if kind = 0 then true else if kind = 1 then decide (b.1 ≤ l) else decide (b.1 < l))
    let xs := t.map (·.2.1)
    if isF then
      let (v, fl) := foldF op (RMode.ofBits (BitVec.ofNat 2 mode)) xs
      (.g d v, fl)
    else (.g d (xs.foldl (foldOne op) (foldIdentity op)), 0)
  | .topk kk ty d =>
    let rank := (ms.filter (fun b => decide (b.1 < l))).length
    let before := fun (y z : Brought) =>
      decide (topKey ty z.2.1 < topKey ty y.2.1) || (decide (topKey ty y.2.1 = topKey ty z.2.1) && decide (y.1 < z.1))
    match ms.find? (fun z => (ms.filter (fun y => before y z)).length == rank) with
    | some z => if rank < kk then (.pair d z.2.1 (BitVec.ofNat 32 z.1), 0) else (.pair d 0 0xFFFFFFFF#32, 0)
    | none => (.pair d 0 0xFFFFFFFF#32, 0)
  | .lset m d =>
    if m = 0 then (.g d (BitVec.ofNat 32 (maskOf 32 (fun i => ms.any (fun b => b.1 == i && b.2.1 == own)))), 0)
    else if m = 1 then (.p d (ms.all (fun b => b.2.1 == (ms.headD (0, 0, 0)).2.1)), 0)
    else if m = 2 then (.p d ((ms.headD (32, 0, 0)).1 == l), 0)
    else (.g d (BitVec.ofNat 32 (maskOf 32 (fun i => ms.any (fun b => b.1 == i)))), 0)

/-- A result in its register. -/
def XResult.write (s : State) (t : Thread) : XResult → Thread
  | .g d v => t.setG s d v
  | .p d b => t.setP s d b
  | .pair d v x => (t.setG s d v).setG s (d + 1) x

/-- Whether a thread has arrived at a cross-lane instruction with an address and a mask. -/
def Thread.arrivedAt (t : Thread) (pc : Dword) (mask : Word) : Bool :=
  match t.wait with
  | .cross _ m _ _ _ => t.live && t.pc == pc && m == mask
  | _ => false

/-- Whether no load or store of a thread is unperformed (R119). -/
def Thread.quiet (t : Thread) : Bool := !t.acc.any Access.isData

/-- Whether the rendezvous of an address and a mask is complete: every live member has arrived, with nothing unperformed (R117). -/
def Wave.crossDone (w : Wave) (pc : Dword) (mask : Word) : Bool :=
  w.lanes.all (fun t => !(t.live && mask.getLsbD t.lane) || (t.arrivedAt pc mask && t.quiet))

/-- What the arrived lanes of a rendezvous brought. -/
def Wave.brought (w : Wave) (pc : Dword) (mask : Word) : List Brought :=
  w.lanes.filterMap (fun t =>
    match t.wait with
    | .cross _ _ a k _ => if t.arrivedAt pc mask then some (t.lane, a, k) else none
    | _ => none)

/-- The flags enabled when the lane issued. -/
def XOp.trap (x : XOp) : Word :=
  match x with
  | .fold _ _ _ _ _ trap => trap
  | _ => 0
/-- The operation as a lane of a wave issues it, with the mode and the enabled flags of that moment (spec/04 R71). -/
def XOp.issuedIn (s : State) (w : Wave) (x : XOp) : XOp :=
  match x with
  | .fold op kind true d _ _ => .fold op kind true d ((w.regs.frnd? s).toNat % 4) (w.regs.ftrap? s)
  | _ => x

/-- A lane's completion of a cross-lane instruction, where its rendezvous is complete (R117, R125). -/
def Wave.crossOut (s : State) (w : Wave) (t : Thread) : Option (Out × Bool) :=
  match t.wait with
  | .cross x mask a k tack =>
    if t.live && w.crossDone t.pc mask then
      let (r, fl) := x.result (w.brought t.pc mask) t.lane a k
      some (fpOutIf s x.trap { t with wait := .no } fl (fun t1 => r.write s t1), tack)
    else none
  | _ => none
/-- The thread after it. -/
def Wave.crossStep (s : State) (w : Wave) (t : Thread) : Thread :=
  match w.crossOut s t with
  | some (o, tack) => o.apply s w.regs 4 tack
  | none => t

/-- Every rendezvous of a wave that is complete is completed; a trap among them is reported. -/
def State.settle (s : State) (c slot : Nat) : State :=
  let s1 := s.onWave c slot (fun w => Wave.settleOld { w with lanes := w.lanes.map (fun t => w.crossStep s t) })
  match s.wave? c slot with
  | some w => if w.lanes.any (fun t => ((w.crossOut s t).map (fun p => p.1.raises)).getD false) then s1.reported c slot else s1
  | none => s1

/-- A cross-lane instruction: an issuing lane outside the mask takes ILLOP, the others arrive (R117). -/
def crossLane (regs : List Nat) (m : BitVec 3) (t : Bool) (x : XOp) (a k : State → Thread → Word) (s : State) : Res :=
  done (s.withRegs regs (s.withTokens [m.toNat] ((s.perLane t (fun w th =>
    let mask := w.regs.s? m.toNat
    if mask.getLsbD th.lane then .hold th (.cross (x.issuedIn s w) mask (a s th) (k s th) t) else .trap th cILLOP)).settle s.cur.core s.cur.slot)))

/-- The A operand: a g register; a predicate as a word; none. -/
def opG (r : Nat) (s : State) (t : Thread) : Word := t.g? s r
def opP (r : Nat) (s : State) (t : Thread) : Word := BitVec.ofNat 32 (t.p? s r).toNat
def opNone (_ : State) (_ : Thread) : Word := 0

/-- SHFL IDX (R121). -/
def execShflIdx (d a : Reg) (m : BitVec 3) (k : BitVec 5) (t : Bool) (s : State) : Res := crossLane [d.toNat, a.toNat] m t (.shfl 0 k.toNat d.toNat) (opG a.toNat) opNone s

/-- SHFL UP (R121). -/
def execShflUp (d a : Reg) (m : BitVec 3) (k : BitVec 5) (t : Bool) (s : State) : Res := crossLane [d.toNat, a.toNat] m t (.shfl 1 k.toNat d.toNat) (opG a.toNat) opNone s

/-- SHFL DN (R121). -/
def execShflDn (d a : Reg) (m : BitVec 3) (k : BitVec 5) (t : Bool) (s : State) : Res := crossLane [d.toNat, a.toNat] m t (.shfl 2 k.toNat d.toNat) (opG a.toNat) opNone s

/-- SHFL XOR (R121). -/
def execShflXor (d a : Reg) (m : BitVec 3) (k : BitVec 5) (t : Bool) (s : State) : Res := crossLane [d.toNat, a.toNat] m t (.shfl 3 k.toNat d.toNat) (opG a.toNat) opNone s

/-- SHFLR (R122). -/
def execShflr (d a : Reg) (m : BitVec 3) (k : BitVec 5) (t : Bool) (s : State) : Res := crossLane [d.toNat, a.toNat, k.toNat] m t (.shflr d.toNat) (opG a.toNat) (opG k.toNat) s

/-- VOTE ALL (R123). -/
def execVoteAll (p a : PReg) (m : BitVec 3) (t : Bool) (s : State) : Res := crossLane [] m t (.vote 0 p.toNat) (opP a.toNat) opNone s

/-- VOTE ANY (R123). -/
def execVoteAny (p a : PReg) (m : BitVec 3) (t : Bool) (s : State) : Res := crossLane [] m t (.vote 1 p.toNat) (opP a.toNat) opNone s

/-- VOTE SAME (R123). -/
def execVoteSame (p a : PReg) (m : BitVec 3) (t : Bool) (s : State) : Res := crossLane [] m t (.vote 2 p.toNat) (opP a.toNat) opNone s

/-- VOTE BALLOT (R123). -/
def execVoteBallot (d : Reg) (a : PReg) (m : BitVec 3) (t : Bool) (s : State) : Res := crossLane [d.toNat] m t (.vote 3 d.toNat) (opP a.toNat) opNone s

/-- FOLD ADD (R124). -/
def execFoldAdd (d a : Reg) (y : BitVec 2) (m : BitVec 3) (k : BitVec 2) (t : Bool) (s : State) : Res := crossLane [d.toNat, a.toNat] m t (.fold 0 k.toNat (y == 1#2) d.toNat 0 0) (opG a.toNat) opNone s

/-- FOLD MIN (R124). -/
def execFoldMin (d a : Reg) (y : BitVec 2) (m : BitVec 3) (k : BitVec 2) (t : Bool) (s : State) : Res := crossLane [d.toNat, a.toNat] m t (.fold 1 k.toNat (y == 1#2) d.toNat 0 0) (opG a.toNat) opNone s

/-- FOLD MAX (R124). -/
def execFoldMax (d a : Reg) (y : BitVec 2) (m : BitVec 3) (k : BitVec 2) (t : Bool) (s : State) : Res := crossLane [d.toNat, a.toNat] m t (.fold 2 k.toNat (y == 1#2) d.toNat 0 0) (opG a.toNat) opNone s

/-- FOLD MINN (R124). -/
def execFoldMinn (d a : Reg) (y : BitVec 2) (m : BitVec 3) (k : BitVec 2) (t : Bool) (s : State) : Res := crossLane [d.toNat, a.toNat] m t (.fold 3 k.toNat (y == 1#2) d.toNat 0 0) (opG a.toNat) opNone s

/-- FOLD MAXN (R124). -/
def execFoldMaxn (d a : Reg) (y : BitVec 2) (m : BitVec 3) (k : BitVec 2) (t : Bool) (s : State) : Res := crossLane [d.toNat, a.toNat] m t (.fold 4 k.toNat (y == 1#2) d.toNat 0 0) (opG a.toNat) opNone s

/-- FOLD AND (R124). -/
def execFoldAnd (d a : Reg) (y : BitVec 2) (m : BitVec 3) (k : BitVec 2) (t : Bool) (s : State) : Res := crossLane [d.toNat, a.toNat] m t (.fold 5 k.toNat (y == 1#2) d.toNat 0 0) (opG a.toNat) opNone s

/-- FOLD OR (R124). -/
def execFoldOr (d a : Reg) (y : BitVec 2) (m : BitVec 3) (k : BitVec 2) (t : Bool) (s : State) : Res := crossLane [d.toNat, a.toNat] m t (.fold 6 k.toNat (y == 1#2) d.toNat 0 0) (opG a.toNat) opNone s

/-- FOLD XOR (R124). -/
def execFoldXor (d a : Reg) (y : BitVec 2) (m : BitVec 3) (k : BitVec 2) (t : Bool) (s : State) : Res := crossLane [d.toNat, a.toNat] m t (.fold 7 k.toNat (y == 1#2) d.toNat 0 0) (opG a.toNat) opNone s

/-- TOPK (R126): K holds k − 1. -/
def execTopk (d a : Reg) (y : BitVec 2) (m : BitVec 3) (k : BitVec 5) (t : Bool) (s : State) : Res := crossLane [d.toNat, d.toNat + 1, a.toNat] m t (.topk (k.toNat + 1) y.toNat d.toNat) (opG a.toNat) opNone s

/-- LSET EQ (R127). -/
def execLsetEq (d a : Reg) (m : BitVec 3) (t : Bool) (s : State) : Res := crossLane [d.toNat, a.toNat] m t (.lset 0 d.toNat) (opG a.toNat) opNone s

/-- LSET ALLEQ (R127). -/
def execLsetAlleq (p : PReg) (a : Reg) (m : BitVec 3) (t : Bool) (s : State) : Res := crossLane [a.toNat] m t (.lset 1 p.toNat) (opG a.toNat) opNone s

/-- LSET FIRST (R127). -/
def execLsetFirst (p : PReg) (m : BitVec 3) (t : Bool) (s : State) : Res := crossLane [] m t (.lset 2 p.toNat) opNone opNone s

/-- LSET LIVE (R127). -/
def execLsetLive (d : Reg) (m : BitVec 3) (t : Bool) (s : State) : Res := crossLane [d.toNat] m t (.lset 3 d.toNat) opNone opNone s

end Sys2Proof.Machine
end

