-- ==== Sys2Proof/Machine/Control.lean ====
section
/-! DEFINITION. Branches, calls, zero-overhead loops and seams (spec/07 R128 to R140), and the fetch of instruction bytes
(spec/02 R36, R418). -/

namespace Sys2Proof.Machine

/-! ## Fetch -/

/-- One instruction byte: at the home, or, where the core may still keep an older one, either of the two, chosen per halfword (R418); of memory
beyond the package, as the core has fetched it from there. -/
def State.fetchByte (s : State) (c pa : Nat) : Byte :=
  match look (s.core c).icache pa with
  | some old => if isRemote pa || s.freeBit (4000000 + pa / 2) then old else readMem s.mem pa
  | none => if isRemote pa then 0#8 else readMem s.mem pa

/-- What a fetch of a halfword finds: its two bytes, or the fault of R36. -/
inductive Fetched where
  | ok (b0 b1 : Byte)
  | noncanonical
  | lease
  | stop (kind level : Nat)
  deriving DecidableEq, Repr

/-- A halfword fetched for a thread of a block on a core (R36). -/
def State.fetchHalf (s : State) (c blk : Nat) (va : Dword) : Fetched :=
  if !canonicalVa va then .noncanonical
  else
    if !inLease (s.leaseOf blk) va.toNat false true then .lease
    else
      match s.translate (s.vfOf blk) va false true with
      | .ok pa => .ok (s.fetchByte c pa) (s.fetchByte c (pa + 1))
      | .fail k l => .stop k l

/-- The instruction bytes at an address: two or four, or the fault of the first halfword that has one (R36). -/
def State.fetchBytes (s : State) (c blk : Nat) (va : Dword) : Fetched × List Byte :=
  match s.fetchHalf c blk va with
  | .ok b0 b1 =>
    if lengthOf b0 = 2 then (.ok b0 b1, [b0, b1])
    else
      match s.fetchHalf c blk (va + 2) with
      | .ok b2 b3 => (.ok b0 b1, [b0, b1, b2, b3])
      | f => (f, [])
  | f => (f, [])

/-! ## Loops -/

/-- The body of a loop walked instruction by instruction over a number of halfwords: how many instructions it holds, the address of the
last, and whether it ends at an instruction's end (spec/03 R59). A halfword that cannot be fetched counts as an instruction of 16 bits, and raises
nothing here (log entry 76). -/
def State.walkBody (s : State) (c blk : Nat) : Nat → Dword → Nat → Nat → Dword → Nat × Dword × Bool
  | 0, _, _, n, last => (n, last, false)
  | fuel + 1, va, left, n, last =>
    if left = 0 then (n, last, true)
    else
      let len := match s.fetchHalf c blk va with
        | .ok b0 _ => lengthOf b0 / 2
        | _ => 1
      if left < len then (n + 1, va, false)
      else State.walkBody s c blk fuel (va + BitVec.ofNat 64 (2 * len)) (left - len) (n + 1) va

/-- LOOP in one lane (R132 to R134, R59). A counter with a write outstanding becomes undefined (spec/02 R39). In a handler the levels suspended at the trap are not active, so
a LOOP may take the counter of one (log entry 76). -/
def loopLane (s : State) (w : Wave) (th : Thread) (len : Nat) (count : Word) (l : Nat) : Out :=
  let start := th.pc + 4
  let fin := start + BitVec.ofNat 64 (2 * len)
  let (n, last, whole) := s.walkBody w.core w.blk (len + 1) start len 0 start
  if th.loops.any (fun v => v.ctr == l || decide (v.last.toNat < last.toNat)) then .trap th cILLOP
  else if !whole then .trap th cILLOP
  else if 256 < n then .trap th cLOOPLEN
  else if count = 0 then .next { th with pc := fin - 4 }
  else .next { th with lc := setD th.lc 0 l (if th.specialPending (0x090 + l) then th.undefined s (3200 + l) else count),
                       loops := ⟨l, start, last, fin⟩ :: th.loops, marks := markLc l :: th.marks }

/-- The end checks due where a thread stands, the most recently started level first (R133); a level whose last instruction is another stays as
it is. -/
def endChecks (pc : Dword) : List LoopLevel → Regs → Dword × List LoopLevel × Regs
  | [], lc => (pc, [], lc)
  | l :: rest, lc =>
    if l.fin = pc then
      let v := getD lc 0 l.ctr
      if v.toNat ≤ 1 then endChecks pc rest (setD lc 0 l.ctr 0)
      else (l.start, l :: rest, setD lc 0 l.ctr (v - 1))
    else
      let (q, ls, lc1) := endChecks pc rest lc
      (q, l :: ls, lc1)

/-- The end check of a thread (R133). -/
def Thread.endCheck (t : Thread) : Thread :=
  if t.live && t.endChk then
    let (pc, loops, lc) := endChecks t.pc t.loops t.lc
    { t with pc := pc, loops := loops, lc := lc, endChk := false }
  else t

/-! ## Seams -/

/-- The lanes of a mask that wait at a seam go on after their WAIT. -/
def Thread.leaveSeam (t : Thread) (j : Nat) : Thread :=
  match t.wait with
  | .seam k _ tack => if k = j then ({ t with wait := .no }.advance 4).tackIf tack else t
  | _ => t

/-- The check of R138: with every enrolled lane waiting, all are released and the seam is clear. -/
def Wave.seamCheck (w : Wave) (j : Nat) : Wave :=
  let e := getD w.regs.seamE 0 j
  let v := getD w.regs.seamW 0 j
  if e ≠ 0 ∧ v = e then
    { w with regs := { w.regs with seamE := setD w.regs.seamE 0 j 0, seamW := setD w.regs.seamW 0 j 0 },
             lanes := w.lanes.map (fun t => if v.getLsbD t.lane then t.leaveSeam j else t) }
  else w

/-- LEAVE by the lanes of a mask (R138). -/
def Wave.seamLeave (w : Wave) (j : Nat) (mask : Word) : Wave :=
  Wave.seamCheck { w with regs := { w.regs with
    seamE := setD w.regs.seamE 0 j (getD w.regs.seamE 0 j &&& ~~~mask), seamW := setD w.regs.seamW 0 j (getD w.regs.seamW 0 j &&& ~~~mask) } } j

/-- LEAVE of every seam, as EXIT performs it (R131). -/
def Wave.seamLeaveAll (w : Wave) (mask : Word) : Wave := (List.range 8).foldl (fun v j => v.seamLeave j mask) w

/-- The mask of the lanes being issued. -/
def State.curMask (s : State) : Word := BitVec.ofNat 32 (maskOf 32 (fun l => s.cur.lanes.elem l))

/-! ## The instructions -/

/-- The target of a branch (R43). -/
def branchTarget (pc : Dword) (d : BitVec 20) : Dword := pc + (d.signExtend 64 <<< 1)

/-- BRA (R128). -/
def execBra (d : BitVec 20) (p : PReg) (n t : Bool) (s : State) : Res :=
  done (s.lanes [] t (fun _ th => if xor (th.p? s p.toNat) n then .jump th (branchTarget th.pc d) else .next th))

/-- The link register written by a call (R129): no tack is needed to use it, but an earlier write still outstanding leaves it undefined, also
once that has returned (R39). -/
def Thread.link (s : State) (t : Thread) : Thread :=
  if t.marks.elem 127 then { t with g := setD t.g 0 127 (t.undefined s 2175), marks := 127 :: t.marks }
  else { t with g := setD t.g 0 127 ((t.pc + 4).setWidth 32) }

/-- CALL (R128, R129). -/
def execCall (d : BitVec 20) (p : PReg) (n t : Bool) (s : State) : Res :=
  done (s.lanes [] t (fun _ th => if xor (th.p? s p.toNat) n then .jump (th.link s) (branchTarget th.pc d) else .next th))

/-- BRX (R130). -/
def execBrx (a : Reg) (t : Bool) (s : State) : Res :=
  done (s.lanes [a.toNat, a.toNat + 1] t (fun _ th => .jump th (clearBit0 (th.pair? s a.toNat))))

/-- CALLX (R130): g127 is written, then the pair is read. -/
def execCallx (a : Reg) (t : Bool) (s : State) : Res :=
  done (s.lanes [a.toNat, a.toNat + 1] t (fun _ th =>
    let th1 := th.link s
    .jump th1 (clearBit0 (th1.pair? s a.toNat))))

/-- RET (R130): into the 4 GiB region of the RET. -/
def execRet (t : Bool) (s : State) : Res :=
  done (s.lanes [] t (fun _ th => .jump th (clearBit0 ((th.pc >>> 32).setWidth 32 ++ th.g? s 127))))

/-- LOOP (R132, R133). -/
def execLoop (n : BitVec 10) (c : Reg) (i : Bool) (l : BitVec 2) (t : Bool) (s : State) : Res :=
  done (s.lanes (if i then [] else [c.toNat]) t (fun w th =>
    loopLane s w th n.toNat (if i then c.setWidth 32 else th.g? s c.toNat) l.toNat))

/-- LOOP_END_CHECK (R133). -/
def execLoopEndCheck (c sl ln : Nat) (s : State) : Res := done (s.onLane c sl ln Thread.endCheck)

/-- SEAM ENROL (R138). -/
def execSeamEnrol (j : BitVec 3) (t : Bool) (s : State) : Res :=
  done ((s.onCur (fun w => { w with regs := { w.regs with
    seamE := setD w.regs.seamE 0 j.toNat (getD w.regs.seamE 0 j.toNat ||| s.curMask) } })).perLane t (fun _ th => .next th))

/-- SEAM WAIT (R138): a lane not enrolled goes on. -/
def execSeamWait (j : BitVec 3) (t : Bool) (s : State) : Res :=
  let on := fun (w : Wave) (l : Nat) => (getD w.regs.seamE 0 j.toNat).getLsbD l
  let s1 := s.perLane t (fun w th => if on w th.lane then .hold th (.seam j.toNat (s.clockOf s.cur.core) t) else .next th)
  done (s1.onCur (fun w => Wave.seamCheck { w with regs := { w.regs with
    seamW := setD w.regs.seamW 0 j.toNat (getD w.regs.seamW 0 j.toNat ||| (s.curMask &&& getD w.regs.seamE 0 j.toNat)) } } j.toNat))

/-- SEAM LEAVE (R138). -/
def execSeamLeave (j : BitVec 3) (t : Bool) (s : State) : Res :=
  done ((s.perLane t (fun _ th => .next th)).onCur (fun w => w.seamLeave j.toNat s.curMask))

/-- SEAM SMASK (R138). -/
def execSeamSmask (d : Reg) (j : BitVec 3) (t : Bool) (s : State) : Res :=
  done (s.lanes [d.toNat] t (fun w th => .next (th.setG s d.toNat (getD w.regs.seamE 0 j.toNat))))

/-- SEAM_WAIT_TIMEOUT (R139): a lane that has waited 4,096 cycles leaves the seam on its own; the count stops while a stop is requested. -/
def execSeamWaitTimeout (c sl ln : Nat) (s : State) : Res :=
  done (s.onWave c sl (fun w =>
    match w.lane? ln with
    | some t =>
      match t.wait with
      | .seam j since _ =>
        if 4096 ≤ s.clockOf c - since ∧ !((s.gangOf w.blk).map (fun g => g.stop)).getD false then (w.onLane ln (fun t => t.leaveSeam j)).seamLeave j (1#32 <<< ln) else w
      | _ => w
    | none => w))

end Sys2Proof.Machine
end

