-- ==== Sys2Proof/Machine/MemInstr.lean ====
section
/-! DEFINITION. The memory instructions: plain loads and stores, constants, ordered accesses and atomics, publish and refresh
(spec/08 R153 to R166), and the steps in which what they issued is performed (R141 to R147, R161). -/

namespace Sys2Proof.Machine

/-! ## Issuing accesses -/

/-- A translation fault of a thread's access: the record that stops its core (spec/15 R281, spec/22 R333), and the flush (spec/11 R236). -/
def State.faultOn (s : State) (kind level : Nat) (va : Dword) (write fetch : Bool) (blk : Nat) (who : Issuer) : State :=
  (s.onCore who.core (fun k => { k with faults := k.faults ++
    [{ kind := kind, va := va, level := level, write := write, fetch := fetch, copy := none, who := who, vf := s.vfOf blk,
       recorded := false, record := 0, step := s.free }] })).flushFor who.core blk

/-- A load or store lane by lane: the checks of R157 at the address of each lane, then what `ok` does at the place it reaches, then `after`. A
translation fault that stops a lane flushes the window (spec/11 R236). -/
def State.memLanes (s : State) (regs toks : List Nat) (tack : Bool) (addr : Wave → Thread → Dword) (size : Nat) (write : Bool)
    (ok : Wave → Thread → Place → Out) (after : State → State) : State :=
  s.withRegs regs (s.withTokens toks (
    let s1 := after <| s.perLane tack (fun w th =>
      match s.resolve w.blk (addr w th) size write with
      | .at pl => ok w th pl
      | .trap => .trap th cFAULT
      | .lease => .throw th 8 0
      | .stop _ _ => .hold th .fault)
    match s.curWave with
    | none => s1
    | some w => w.lanes.foldl (fun t th =>
        if s.cur.lanes.elem th.lane then
          match s.resolve w.blk (addr w th) size write with
          | .stop k l => t.faultOn k l (addr w th) write false w.blk ⟨w.core, w.slot, th.lane, th.pc, w.blk⟩
          | _ => t
        else t) s1))

/-- Where the access of a lane to a global, to a scratch address is made, if it is. -/
def State.globalPlace (s : State) (addr : Wave → Thread → Dword) (size : Nat) (write : Bool) (w : Wave) (th : Thread) : Option Place :=
  match s.resolve w.blk (addr w th) size write with
  | .at pl => some pl
  | _ => none
def State.padPlace (s : State) (addr : Wave → Thread → Word) (size : Nat) (w : Wave) (th : Thread) : Option Place :=
  if (addr w th).toNat % size = 0 then (s.padAt w.blk (addr w th).toNat).map (fun p => .pad p.1 p.2) else none

/-- What the comparator of a lined wave finds at a store: the store is performed; it has been, before the re-execution; it differs (spec/27
R389, R391). -/
inductive Compared where
  | new
  | logged
  | differs
  deriving DecidableEq, Repr

/-- The comparison of a lane's store, made as it issues (log entry 12). -/
def State.compare (s : State) (w : Wave) (th : Thread) (pl : Place) (data : List Byte) : Compared :=
  if s.mismatch w th.lane then .differs
  else
    match if th.hsilent then none else w.replayStore th.lane th.pc with
    | some (p, d, _) => if p = pl ∧ d = data then .logged else .differs
    | none => .new

/-- A comparison of a lined wave that has failed: no checkpoint is taken until a re-execution, or an unwinding, has left it behind (spec/27 R390). -/
def Wave.mismatched (w : Wave) : Wave := { w with lining := w.lining.map (fun l => { l with failed := true }) }

/-- SILENT of KIND STORE (spec/15 R283, R284): the lanes that differ are trapping; the registers name the lowest and count them; the health ring
says so (spec/27 R398). -/
def State.silentStore (s : State) (w : Wave) (lanes : List Nat) : State :=
  match lanes with
  | [] => s
  | low :: _ =>
    let syn : Word := BitVec.ofNat 32 (2 ^ 28 + low * 256 + lanes.length)
    let s1 : State := { s with inject := s.inject.filter (fun i => !lanes.elem i) }
    (s1.onWave w.core w.slot (fun v => ({ v with regs := { v.regs with silent := ⟨syn, BitVec.ofNat 32 (w.slot / 32), 0, 0, 0⟩ } } : Wave).mismatched)).healthEvent
      3 (s.vfOf w.blk) s.comparatorUnit 0 syn.toNat

/-- What follows the comparisons of an issue's stores: logged ones used up, SILENT reported. `s0` is the state it issued in. -/
def State.afterCompare (s s0 : State) (place : Wave → Thread → Option Place) (data : Thread → List Byte) : State :=
  match s0.curWave with
  | none => s
  | some w =>
    if w.lining.isNone then s
    else
      let ls := w.lanes.filter (fun th => s0.cur.lanes.elem th.lane)
      let found := fun (th : Thread) => (place w th).map (fun pl => s0.compare w th pl (data th))
      let used := ls.filter (fun th => found th == some .logged)
      let bad := ls.filter (fun th => found th == some .differs)
      (s.onWave w.core w.slot (fun v => used.foldl (fun (x : Wave) th =>
        ((x.replayStore th.lane th.pc).map (fun p => p.2.2)).getD x) v)).silentStore w (bad.map (fun th => th.lane))

/-- A store in a lane, after its comparison; `old` is the lane where the store is a logged one (spec/27 R391). -/
def State.storeOut (s : State) (w : Wave) (th : Thread) (pl : Place) (data : List Byte) (k old : Thread) : Out :=
  if w.lining.isNone then .next k
  else
    match s.compare w th pl data with
    | .new => .next k
    | .logged => .next old
    | .differs => .trap th cSILENT

/-- The accesses of a scratch address (R29, R157 steps 1 and 4). -/
def State.padLanes (s : State) (regs toks : List Nat) (tack : Bool) (addr : Wave → Thread → Word) (size : Nat)
    (ok : Wave → Thread → Place → Out) (after : State → State) : State :=
  s.withRegs regs (s.withTokens toks (after (s.perLane tack (fun w th =>
    let a := (addr w th).toNat
    if a % size ≠ 0 then .trap th cFAULT
    else
      match s.padAt w.blk a with
      | some (b, off) => ok w th (.pad b off)
      | none => .trap th cFAULT))))

/-- Whether an access of a kind at a place may end poisoned: a read of memory beyond the package (spec/26 R381). -/
def mayThrow (k : AccKind) (pl : Place) : Bool :=
  match k, pl with
  | .load _ _ _, .phys pa => isRemote pa
  | .memo _ _ _ _ _ _, .phys pa => isRemote pa
  | _, _ => false
/-- A thread with an access issued. -/
def Thread.issue (s : State) (t : Thread) (k : AccKind) (pl : Place) (va : Dword) : Thread :=
  { t with acc := t.acc ++ [{ pc := t.pc, kind := k, place := pl, va := va, req := none, got := none, issued := s.clockOf s.cur.core, step := s.free,
                              back := if mayThrow k pl then some t.laneRegs else none, silent := t.hsilent }] }

/-- The registers of a result of a size in bytes marked as outstanding (spec/02 R38). -/
def Thread.markResult (t : Thread) (d size : Nat) : Thread :=
  { t with marks := if size = 8 then d :: (d + 1) :: t.marks else d :: t.marks }

/-- The size of a plain access (R156). -/
def accSize (z : BitVec 2) : Nat := 2 ^ z.toNat
/-- The data registers of an access. -/
def dataRegs (d size : Nat) : List Nat := if size = 8 then [d, d + 1] else [d]
/-- The address of LD and ST (R156). -/
def globalAddr (sb g : Nat) (s : State) (w : Wave) (th : Thread) : Dword := w.regs.sPair sb + (th.g? s g).setWidth 64
/-- The address of LDS, STS and LDC (R156). -/
def scratchAddr (sb g : Nat) (s : State) (w : Wave) (th : Thread) : Word := w.regs.s? sb + th.g? s g
/-- The low bytes of the data registers (R156). -/
def storeData (d size : Nat) (s : State) (th : Thread) : List Byte :=
  leBytes size (if size = 8 then (th.pair? s d).toNat else (th.g? s d).toNat)

/-- A load issued in a lane (R141, R156). -/
def Thread.load (s : State) (t : Thread) (size : Nat) (sext : Bool) (d : Nat) (pl : Place) (va : Dword) : Thread :=
  (t.issue s (.load size sext d) pl va).markResult d size

/-- LD (R156, R157). -/
def execLd (d : Reg) (_h x : Bool) (z : BitVec 2) (g : Reg) (sb : BitVec 6) (t : Bool) (s : State) : Res :=
  let size := accSize z
  done (s.memLanes (g.toNat :: dataRegs d.toNat size) [sb.toNat, sb.toNat + 1] t (globalAddr sb.toNat g.toNat s) size false
    (fun w th pl => .next (th.load s size x d.toNat pl (globalAddr sb.toNat g.toNat s w th))) id)

/-- ST (R156, R157). -/
def execSt (d : Reg) (_h : Bool) (z : BitVec 2) (g : Reg) (sb : BitVec 6) (t : Bool) (s : State) : Res :=
  let size := accSize z
  let addr := globalAddr sb.toNat g.toNat s
  done (s.memLanes (g.toNat :: dataRegs d.toNat size) [sb.toNat, sb.toNat + 1] t addr size true
    (fun w th pl => s.storeOut w th pl (storeData d.toNat size s th) (th.issue s (.store (storeData d.toNat size s th)) pl (addr w th)) th)
    (fun u => u.afterCompare s (s.globalPlace addr size true) (storeData d.toNat size s)))

/-- LDS (R154, R156, R157). -/
def execLds (d : Reg) (_h x : Bool) (z : BitVec 2) (g : Reg) (sb : BitVec 6) (t : Bool) (s : State) : Res :=
  let size := accSize z
  done (s.padLanes (g.toNat :: dataRegs d.toNat size) [sb.toNat] t (scratchAddr sb.toNat g.toNat s) size
    (fun _ th pl => .next (th.load s size x d.toNat pl 0)) id)

/-- STS (R154, R156, R157). -/
def execSts (d : Reg) (_h : Bool) (z : BitVec 2) (g : Reg) (sb : BitVec 6) (t : Bool) (s : State) : Res :=
  let size := accSize z
  let addr := scratchAddr sb.toNat g.toNat s
  done (s.padLanes (g.toNat :: dataRegs d.toNat size) [sb.toNat] t addr size
    (fun w th pl => s.storeOut w th pl (storeData d.toNat size s th) (th.issue s (.store (storeData d.toNat size s th)) pl 0) th)
    (fun u => u.afterCompare s (s.padPlace addr size) (storeData d.toNat size s)))

/-- A byte of a constant bank (spec/01 R31): below the bank's size the bank's byte, which is the one the launch began with or, where the
memory has been written since, the one it holds now; zero anywhere else. -/
def State.constByte (s : State) (blk a pick : Nat) : Byte :=
  let bank := a / 2 ^ 16 % 16
  let off := a % 2 ^ 16
  match s.progOf blk with
  | none => 0#8
  | some p =>
    match p.banks.find? (fun b => b.1 == bank) with
    | none => 0#8
    | some (_, va, size) =>
      if off < size then
        if s.freeBit pick then readMem s.mem (s.devAddr (s.vfOf blk) (BitVec.ofNat 64 (va + off)) false)
        else getD p.cbytes 0#8 (bank * 2 ^ 16 + off)
      else 0#8
/-- The place in memory that it is read from, where it is. -/
def State.constPa (s : State) (blk a pick : Nat) : Option Nat :=
  ((s.progOf blk).bind (fun p => p.banks.find? (fun b => b.1 == a / 2 ^ 16 % 16))).bind (fun b =>
    if a % 2 ^ 16 < b.2.2 ∧ s.freeBit pick = true then some (s.devAddr (s.vfOf blk) (BitVec.ofNat 64 (b.2.1 + a % 2 ^ 16)) false) else none)

/-- What an LDC reads in a lane (R31, R156). -/
def State.ldcValue (s : State) (blk a size : Nat) (x : Bool) (lane : Nat) : Dword :=
  extendLoad size x (leNat ((List.range size).map (fun i => s.constByte blk (a + i) (5000000 + lane * 8 + i))))
/-- The memory that a path's LDC reads. -/
def State.ldcPas (s : State) (sb g size : Nat) : List Nat :=
  match s.curWave with
  | none => []
  | some w => (w.lanes.filter (fun th => s.cur.lanes.elem th.lane)).flatMap (fun th =>
      let a := (scratchAddr sb g s w th).toNat
      if a % size ≠ 0 then [] else (List.range size).filterMap (fun i => s.constPa w.blk (a + i) (5000000 + th.lane * 8 + i)))
/-- A poisoned line among addresses of memory (spec/27 R394). -/
def State.poisonIn (s : State) (pas : List Nat) : Option Nat :=
  if s.poisoned.isEmpty then none else (pas.map (fun pa => pa / 64 * 64)).find? (fun l => (look s.poisoned l).isSome)
/-- The values that an LDC brings: those of the log in a lined wave's re-execution (spec/27 R389, R391). -/
def State.ldcValues (s : State) (sb g size : Nat) (x : Bool) : State × List (Nat × Dword) :=
  match s.curWave with
  | none => (s, [])
  | some w => (w.lanes.filter (fun th => s.cur.lanes.elem th.lane)).foldl (fun (acc : State × List (Nat × Dword)) th =>
      let a := (scratchAddr sb g s w th).toNat
      let v := s.ldcValue w.blk a size x th.lane
      if w.lining.isNone ∨ a % size ≠ 0 then (acc.1, acc.2 ++ [(th.lane, v)])
      else
        match acc.1.outside th.lane v with
        | (u, y) => (u, acc.2 ++ [(th.lane, y)])) (s, [])

/-- LDC (R31, R156, R157): what it reads of memory it consumes where it is poisoned (spec/27 R394). -/
def execLdc (d : Reg) (_h x : Bool) (z : BitVec 2) (g : Reg) (sb : BitVec 6) (t : Bool) (s : State) : Res :=
  let size := accSize z
  done (s.withRegs (g.toNat :: dataRegs d.toNat size) (s.withTokens [sb.toNat] (
    let pas := s.ldcPas sb.toNat g.toNat size
    let s0 := if pas.isEmpty then s else s.breach pas
    let vs := s0.ldcValues sb.toNat g.toNat size x
    let s1 := vs.1.perLane t (fun w th =>
      if (scratchAddr sb.toNat g.toNat s w th).toNat % size ≠ 0 then .trap th cFAULT
      else
        let v := (look vs.2 th.lane).getD 0
        .next (if size = 8 then th.setPair s d.toNat v else th.setG s d.toNat (v.setWidth 32)))
    match s.curWave, s.poisonIn pas with
    | some w, some l => s1.consume w.blk l
    | _, _ => s1)))

/-! ## Ordered accesses and atomics -/

/-- Whether an operation at a scope is carried to an address (spec/26 R375). On CXL memory the device performs every operation itself (R164), but
at .system, where the link has to carry it (R378; log entry 63). -/
def State.carries (s : State) (pa : Nat) (op : MemoOp) (sc : Nat) : Bool :=
  let simple := op == .ldo || op == .sto
  let few := op == .swap || op == .cas || op == .add
  match regionOf pa with
  | some .host => s.cxlCache || simple || few
  | some .cxl => simple || sc != 5
  | some (.peer p) => s.peerMake p != 2 || !(op == .inc || op == .dec || op == .addf)
  | _ => true

/-- The accesses of an ordered access: the publish before a release, the operation, the refresh after an acquire (R163). -/
def Thread.order (s : State) (t : Thread) (e : BitVec 2) (sc : Nat) (k : AccKind) (pl : Place) (va : Dword) : Thread :=
  let t1 := if e.getLsbD 1 then t.issue s (.publish sc) pl va else t
  let t2 := t1.issue s k pl va
  if e.getLsbD 0 then t2.issue s (.refresh sc) pl va else t2

/-- A MEMO (R159 to R164): the scope check, then the checks of R157 and R375 at each lane's address. -/
def memo (op : MemoOp) (d a : Reg) (z : Bool) (e : BitVec 2) (c : BitVec 3) (t : Bool) (s : State) : Res :=
  let size := if z then 8 else 4
  let data := fun (th : Thread) (r : Nat) => if z then th.pair? s r else (th.g? s r).setWidth 64
  let extra := if op = .cas then dataRegs (d.toNat + size / 4) size else []
  let addr := fun (_ : Wave) (th : Thread) => th.pair? s a.toNat
  let extra2 := fun (th : Thread) => if op = .cas then data th (d.toNat + size / 4) else 0
  let seen := fun (th : Thread) => memoData op size (data th d.toNat) (extra2 th) c.toNat
  done (s.withRegs ([a.toNat, a.toNat + 1] ++ dataRegs d.toNat size ++ extra)
    (match s.curWave with
     | none => s
     | some w =>
       if s.scopeForbidden (s.vfOf w.blk) c.toNat then s.trapAll cSCOPE
       else s.memLanes [] [] t addr size (op != .ldo) (fun w th pl =>
         let ok := match pl with
           | .phys pa => s.carries pa op c.toNat
           | .pad _ _ => true
         if !ok then .trap th cFAULT
         else
           let th1 := th.order s e c.toNat (.memo op size d.toNat (data th d.toNat) (extra2 th) c.toNat) pl (th.pair? s a.toNat)
           let th2 := if op = .sto then th1 else th1.markResult d.toNat size
           if op = .ldo then .next th2 else s.storeOut w th pl (seen th) th2 th2)
         (fun u => if op = .ldo then u
           else u.afterCompare s (fun w th => (s.globalPlace addr size true w th).filter (fun pl => match pl with
               | .phys pa => s.carries pa op c.toNat
               | .pad _ _ => true)) seen)))

/-- LDO (R160). -/
def execLdo (d a : Reg) (z : Bool) (e : BitVec 2) (c : BitVec 3) (t : Bool) (s : State) : Res := memo .ldo d a z e c t s

/-- STO (R160). -/
def execSto (d a : Reg) (z : Bool) (e : BitVec 2) (c : BitVec 3) (t : Bool) (s : State) : Res := memo .sto d a z e c t s

/-- SWAP (R160). -/
def execSwap (d a : Reg) (z : Bool) (e : BitVec 2) (c : BitVec 3) (t : Bool) (s : State) : Res := memo .swap d a z e c t s

/-- CAS (R160). -/
def execCas (d a : Reg) (z : Bool) (e : BitVec 2) (c : BitVec 3) (t : Bool) (s : State) : Res := memo .cas d a z e c t s

/-- AMO.ADD (R160). -/
def execAmoAdd (d a : Reg) (z : Bool) (e : BitVec 2) (c : BitVec 3) (t : Bool) (s : State) : Res := memo .add d a z e c t s

/-- AMO.AND (R160). -/
def execAmoAnd (d a : Reg) (z : Bool) (e : BitVec 2) (c : BitVec 3) (t : Bool) (s : State) : Res := memo .and d a z e c t s

/-- AMO.OR (R160). -/
def execAmoOr (d a : Reg) (z : Bool) (e : BitVec 2) (c : BitVec 3) (t : Bool) (s : State) : Res := memo .or d a z e c t s

/-- AMO.XOR (R160). -/
def execAmoXor (d a : Reg) (z : Bool) (e : BitVec 2) (c : BitVec 3) (t : Bool) (s : State) : Res := memo .xor d a z e c t s

/-- AMO.MINS (R160). -/
def execAmoMins (d a : Reg) (z : Bool) (e : BitVec 2) (c : BitVec 3) (t : Bool) (s : State) : Res := memo .mins d a z e c t s

/-- AMO.MAXS (R160). -/
def execAmoMaxs (d a : Reg) (z : Bool) (e : BitVec 2) (c : BitVec 3) (t : Bool) (s : State) : Res := memo .maxs d a z e c t s

/-- AMO.MINN (R160). -/
def execAmoMinn (d a : Reg) (z : Bool) (e : BitVec 2) (c : BitVec 3) (t : Bool) (s : State) : Res := memo .minn d a z e c t s

/-- AMO.MAXN (R160). -/
def execAmoMaxn (d a : Reg) (z : Bool) (e : BitVec 2) (c : BitVec 3) (t : Bool) (s : State) : Res := memo .maxn d a z e c t s

/-- AMO.INC (R160). -/
def execAmoInc (d a : Reg) (z : Bool) (e : BitVec 2) (c : BitVec 3) (t : Bool) (s : State) : Res := memo .inc d a z e c t s

/-- AMO.DEC (R160). -/
def execAmoDec (d a : Reg) (z : Bool) (e : BitVec 2) (c : BitVec 3) (t : Bool) (s : State) : Res := memo .dec d a z e c t s

/-- AMO.ADDF (R160): 32 bits only. -/
def execAmoAddf (d a : Reg) (e : BitVec 2) (c : BitVec 3) (t : Bool) (s : State) : Res := memo .addf d a false e c t s

/-! ## PUB, RFSH, PHASE -/

/-- A sub-function of PHASE (R165, R166): the scope check, the accesses of each lane, and the flush of the window (spec/11 R236). -/
def phase (kinds : List AccKind) (c : BitVec 3) (t : Bool) (s : State) : Res :=
  done (match s.curWave with
    | none => s
    | some w =>
      if s.scopeForbidden (s.vfOf w.blk) c.toNat then s.trapAll cSCOPE
      else (s.perLane t (fun _ th => .next (kinds.foldl (fun u k => u.issue s k (.phys 0) 0) th))).flushFor s.cur.core w.blk)

/-- PUB (R166). -/
def execPub (c : BitVec 3) (t : Bool) (s : State) : Res := phase [.publish c.toNat] c t s

/-- RFSH (R166). -/
def execRfsh (c : BitVec 3) (t : Bool) (s : State) : Res := phase [.refresh c.toNat] c t s

/-- PHASE (R166). -/
def execPhase (c : BitVec 3) (t : Bool) (s : State) : Res := phase [.publish c.toNat, .refresh c.toNat] c t s

/-! ## What was issued is performed -/

/-- An access performed, after which a rendezvous of its wave may be complete (spec/07 R119). -/
def State.performAnd (s : State) (c slot lane n : Nat) (p : Access → Bool) : State := (s.performNth c slot lane n p).settle c slot

def Access.isLoad (a : Access) : Bool :=
  match a.kind with
  | .load _ _ _ => true
  | _ => false
def Access.isStore (a : Access) : Bool :=
  match a.kind with
  | .store _ => true
  | _ => false
def Access.isMemo (a : Access) : Bool :=
  match a.kind with
  | .memo _ _ _ _ _ _ => true
  | _ => false

/-- RESULT_RETURN (spec/02 R38): a load is performed and its result written. -/
def execResultReturn (c sl ln n : Nat) (s : State) : Res := done (s.performAnd c sl ln n Access.isLoad)

/-- STORE_PERFORMED (R141, R144). -/
def execStorePerformed (c sl ln n : Nat) (s : State) : Res := done (s.performAnd c sl ln n Access.isStore)

/-- MEMO_PERFORMED (R161). -/
def execMemoPerformed (c sl ln n : Nat) (s : State) : Res := done (s.performAnd c sl ln n Access.isMemo)

/-- PUBLISH_COMPLETE (R146). -/
def execPublishComplete (c sl ln n : Nat) (s : State) : Res := done (s.performAnd c sl ln n Access.isPublish)

/-- REFRESH_COMPLETE (R147). -/
def execRefreshComplete (c sl ln n : Nat) (s : State) : Res := done (s.performAnd c sl ln n Access.isRefresh)

/-- SNAPSHOT_UPDATE (R145, R142): the core's snapshot takes an aligned 64-byte unit from what the gangs of the core and the home hold; no
byte of it goes back to an earlier write (R143). Of code that the core holds of memory beyond the package it lets go of what halfwords the device chooses
(spec/02 R418, spec/07 R136). -/
def execSnapshotUpdate (c pa : Nat) (s : State) : Res :=
  let base := pa / 64 * 64
  let fresh := fun (i : Nat) =>
    (s.gangsOn c).foldl (fun acc g =>
      match (s.gang? g).bind (fun k => look k.overlay (base + i)) with
      | some p => later acc p
      | none => acc) (s.home (base + i))
  let far := isRemote base
  done (s.onCore c (fun k => { k with
    snap := (List.range 64).foldl (fun m i =>
      if far && (look s.copies (base + i)).isNone then eraseAt m (base + i)
      else insertAt m (base + i) (later (fresh i) (s.snapByte c (base + i)))) k.snap
    icache := if far then k.icache.filter (fun p => p.1 / 64 != base / 64 || s.freeBit (4600000 + p.1 % 64 / 2)) else k.icache }))

/-- Whether the launch of a gang has gang levels (spec/01 R14). -/
def State.gangHas (s : State) (g : Nat) : Bool :=
  ((s.gang? g).bind (fun k => (s.launch? k.launch).map (fun l => (l.progOf k.tmpl).lrec.hasGang))).getD false

/-- What a core holds of one location placed in its order at a scope (R145): its own write, or, wider than the gang, what a gang of the core
holds there. No publish has covered it (spec/14 R272). At .wave and .block the write takes its place and stays in the view (R143). -/
def State.placeAt (s : State) (c sc pa : Nat) : State :=
  if sc ≤ 1 then s.orderOwn c (fun x => x == pa)
  else
    let s1 := match look (s.core c).writes pa with
      | some w => if sc = 2 ∧ s.gangHas w.gang = false then s.orderOwn c (fun x => x == pa)
        else (s.loosen pa).placeByte c w.gang sc pa w
      | none => s
    if wide sc then (s1.gangsOn c).foldl (fun t g => t.flushByte g pa) s1 else s1

/-- SPONTANEOUS_PLACEMENT (R145): what the core holds of a location, and of such others of its aligned 64-byte unit as the device chooses, is
placed in the order at a scope; at .system what lies beyond the package is sent, too, no thread waiting for it (spec/26 R378). -/
def execSpontaneousPlacement (c pa sc : Nat) (s : State) : Res :=
  let mine := fun (x : Nat) => x == pa || (x / 64 == pa / 64 && s.freeBit (4500000 + x % 64))
  if 5 < sc then done s
  else
    let s1 := ((List.range 64).filter (fun i => mine (pa / 64 * 64 + i))).foldl (fun t i => t.placeAt c sc (pa / 64 * 64 + i)) s
    done (if sc = 5 then (s1.sendDirty Issuer.device false (fun x => mine x && !s1.outOfReach x)).1 else s1)

end Sys2Proof.Machine
end

