-- ==== Sys2Proof/Machine/Copy.lean ====
section
/-! DEFINITION. The copy engines (spec/09 R169 to R180): tokens, byte barriers, the two sides of a copy, its start and completion, and its
cancellation. -/

namespace Sys2Proof.Machine

/-! ## Tokens and byte barriers -/

/-- A token written: the register takes the value and is no longer pending (spec/02 R41, R171); a lined wave's log keeps the value. 63 and beyond name none. -/
def State.writeToken (s : State) (who : Issuer) (tok : Nat) (v : Word) : State :=
  if 63 ≤ tok then s
  else s.onWave who.core who.slot (fun w =>
    ({ w with regs := { w.regs.setS tok v with tok := if w.regs.tok.testBit tok then w.regs.tok - 2 ^ tok else w.regs.tok } } : Wave).logEntry (.token tok v))

/-- COUNT and ZEROS of the byte barrier at a place (spec/10 R206). -/
def State.barrierCount (s : State) (pl : Place) : Word :=
  match pl with
  | .pad b off => BitVec.ofNat 32 (leNat (s.padBytes b off 4))
  | .phys _ => 0
def State.barrierZeros (s : State) (pl : Place) : Word :=
  match pl with
  | .pad b off => BitVec.ofNat 32 (leNat (s.padBytes b (off + 4) 4))
  | .phys _ => 0
/-- A byte barrier set. -/
def State.setBarrier (s : State) (pl : Place) (count zeros : Word) : State :=
  match pl with
  | .pad b off => s.padWrite b off (leBytes 4 count.toNat ++ leBytes 4 zeros.toNat)
  | .phys _ => s

/-- A byte barrier counted down byte by byte (R173): ZEROS rises where COUNT passes from 1 to 0. -/
def State.countDown (s : State) (o : Option Place) (n : Nat) : State :=
  match o with
  | none => s
  | some pl =>
    let old := s.barrierCount pl
    s.setBarrier pl (old - BitVec.ofNat 32 n) (if 0 < old.toNat ∧ old.toNat ≤ n then s.barrierZeros pl + 1 else s.barrierZeros pl)

/-! ## Slots and tiles -/

/-- A byte of an operand slot; one that nothing has written is undefined (spec/01 R32). -/
def State.slotByte (s : State) (c id off : Nat) : Byte :=
  match (look (s.core c).slots id).bind (fun k => look k.data off) with
  | some b => b
  | none => Config.freeByte id off
/-- Bytes of a slot written. -/
def State.slotWrite (s : State) (c id off : Nat) (data : List Byte) : State :=
  s.onCore c (fun k => { k with slots := onKey k.slots id (fun sl =>
    { sl with data := (List.range data.length).foldl (fun m i => insertAt m (off + i) (data.getD i 0)) sl.data }) })
/-- An element of an accumulator tile by its row and column; one that nothing has written is undefined (spec/01 R33), and so is every one of an
untrusted tile (R201). -/
def Tile.elem (s : State) (t : Tile) (id row col : Nat) : Word :=
  if t.untrusted then s.freeWord (2 ^ 42 + 2 ^ 20 * id + 192 * row + col)
  else
    match look t.rows (192 * row + col) with
    | some w => w
    | none => if t.zeroed.elem (row / max 1 t.m) then 0 else Config.freeWord id (2 ^ 40 + 192 * row + col)
def State.tileElem (s : State) (c id row col : Nat) : Word :=
  match look (s.core c).tiles id with
  | some t => t.elem s id row col
  | none => Config.freeWord id (2 ^ 40 + 192 * row + col)
/-- Elements of a tile row written from a column on. -/
def Tile.setFrom (t : Tile) (row col : Nat) (ws : List Word) : Tile :=
  { t with rows := (List.range ws.length).foldl (fun m i => insertAt m (192 * row + col + i) (ws.getD i 0)) t.rows }
def Tile.setRow (t : Tile) (row : Nat) (ws : List Word) : Tile := t.setFrom row 0 ws
def State.onTile (s : State) (c id : Nat) (f : Tile → Tile) : State := s.onCore c (fun k => { k with tiles := onKey k.tiles id f })
/-- Words from bytes, four at a time. -/
def wordsOf (n : Nat) (bs : List Byte) : List Word := (List.range n).map (fun i => BitVec.ofNat 32 (leNat ((bs.drop (4 * i)).take 4)))
/-- Bytes of words. -/
def bytesOf (ws : List Word) : List Byte := ws.flatMap (fun w => leBytes 4 w.toNat)

/-! ## The sides of a copy -/

/-- A source row that is not in global memory: of a slot where a slot is the source, not where it is the destination (R177, R178). -/
def State.sideRow (s : State) (blk c : Nat) (d : CopyDesc) (i : Nat) : List Byte :=
  if d.form == 8 && d.slotSide then (List.range d.rbytes).map (fun j => s.slotByte c d.obj ((d.first + i) * 128 + j))
  else if d.onTileSrc then bytesOf ((List.range (d.rbytes / 4)).map (fun j => s.tileElem c d.obj (d.first + i) j))
  else s.scratchBytes blk (d.saddr.getD i 0) d.rbytes

/-- A destination row that is not in global memory, written from its byte `j` on. -/
def State.putRow (s : State) (blk c : Nat) (d : CopyDesc) (i j : Nat) (data : List Byte) : State :=
  if d.onSlot then s.slotWrite c d.obj ((d.first + i) * 128 + j) data
  else if d.onTileDst then s.onTile c d.obj (fun t => t.setFrom (d.first + i) (j / 4) (wordsOf (data.length / 4) data))
  else s.scratchWrite blk (d.saddr.getD i 0 + j) data

/-- Bytes written at given places. -/
def State.scatterWrite (s : State) (c gang : Nat) (pls : List Place) (data : List Byte) : State :=
  (pls.zip data).foldl (fun t p => t.writePlace c gang p.1 [p.2]) s

/-- Whether a destination row of a copy overlaps a source row of it, which only the aperture makes possible, and only where one side is global (R177). -/
def State.selfOverlap (s : State) (blk : Nat) (d : CopyDesc) : Bool :=
  (d.fromGlobal || d.toGlobal) && match s.rowsAt blk d d.toGlobal with
  | (.ok _, rows) =>
    let far := (rows.flatMap id).filter (fun p => decide (physOf [p] = []))
    !far.isEmpty && (List.range d.rows).any (fun i => !d.skips i && !d.saddr.isEmpty &&
      (List.range d.rbytes).any (fun j =>
        match s.padAt blk ((d.saddr.getD i 0 + j) % 2 ^ 32) with
        | some (k, off) => far.elem (.pad k off)
        | none => false))
  | _ => false

/-- A copy's own writes placed in the order at its scope (R171). -/
def State.publishOwn (s : State) (c gang sc : Nat) (hasGang : Bool) (pas : List Nat) : State :=
  if sc ≤ 1 ∨ (sc = 2 ∧ hasGang = false) then s.orderOwn c (fun x => pas.elem x)
  else pas.foldl (fun t pa =>
    match look (t.core c).writes pa with
    | some w =>
      let u := t.placeByte c gang sc pa w
      u.bind pa (u.lastStamp pa)
    | none => t) s

/-! ## Queues -/

/-- Whether an operation has not completed, wherever it is (R180). -/
def State.opLive (s : State) (id : Nat) : Bool :=
  s.blocks.any (fun b => b.2.queues.any (fun q => q.any (fun o => o.id == id))) ||
  s.cores.any (fun k => k.2.window.any (fun o => o.id == id) || k.2.mq.ops.any (fun o => o.id == id) ||
    k.2.mq0.ops.any (fun o => o.id == id) ||
    (match k.2.array with
     | some (_, o) => o.id == id
     | none => false))

/-- The matrix operations of a core, wherever they are. -/
def Core.matOps (k : Core) : List MatOp :=
  k.window ++ k.mq.ops ++ k.mq0.ops ++ (match k.array with
    | some (_, o) => [o]
    | none => [])

/-- The copies of a core's blocks. -/
def State.copiesOn (s : State) (c : Nat) : List CopyOp :=
  (s.blocks.filter (fun b => b.2.core == c)).flatMap (fun b => b.2.queues.flatMap id)

/-- Whether an operation issued earlier and not yet completed names a slot, a tile (R183, R195). -/
def State.slotNamed (s : State) (c id : Nat) : Bool :=
  (s.copiesOn c).any (fun o => o.all.any (fun d => d.onSlot && d.obj == id)) || (s.core c).matOps.any (fun o => o.slots.elem id)
def State.tileNamed (s : State) (c id : Nat) : Bool :=
  (s.copiesOn c).any (fun o => o.all.any (fun d => (d.onTileSrc || d.onTileDst) && d.obj == id)) ||
  (s.core c).matOps.any (fun o => o.obj == some id || o.dest == some id)

/-- The slots and tiles of a core that nothing maps or names any more become free (R183, R195, R419). -/
def State.tidy (s : State) (c : Nat) : State :=
  s.onCore c (fun k => { k with
    slots := k.slots.filter (fun p => p.2.mapped || s.slotNamed c p.1)
    tiles := k.tiles.filter (fun p => p.2.mapped || s.tileNamed c p.1) })

/-- Operand slots and accumulator rows a core has free (spec/01 R20, R32, R33). -/
def Core.freeSlots (k : Core) : Nat := 16 - k.slots.length
def Core.freeRows (k : Core) : Nat := 2048 - (k.tiles.map (fun p => p.2.m * p.2.p)).sum

/-- A block's queue changed. -/
def State.onCopies (s : State) (blk q : Nat) (f : List CopyOp → List CopyOp) : State :=
  s.onBlock blk (fun b => { b with queues := modifyNth f b.queues q })

/-- The operation at the head of a copy queue. -/
def State.headOp (s : State) (blk q : Nat) : Option CopyOp := ((s.block? blk).bind (fun b => b.queues[q]?)).bind List.head?

/-- The head of a copy queue changed. -/
def State.onHead (s : State) (blk q : Nat) (f : CopyOp → CopyOp) : State := s.onCopies blk q (fun l => modifyNth f l 0)

/-! ## Cancelling -/

/-- The destination bytes of one cancelled copy, undefined. -/
def State.spoilCopy (s : State) (o : CopyOp) (d : CopyDesc) : State :=
  let gang := s.gangId o.blk
  (List.range d.rows).foldl (fun t i =>
    if d.skips i then t
    else if d.toGlobal then
      match t.rowAt o.blk (d.rowVa i) d.rbytes true with
      | .ok pls => (t.scatterWrite o.who.core gang pls (s.anyBytes (o.id * 65536 + i) d.rbytes)).overwrite pls t
      | _ => t
    else t.putRow o.blk o.who.core d i 0 (s.anyBytes (o.id * 65536 + i) d.rbytes)) s

/-- A copy operation cancelled (R174): out of its queue, its destination undefined, its byte barriers counted down, its token
0xFFFF_FFFF. Fences stay. -/
def State.cancelCopy (s : State) (o : CopyOp) : State :=
  if o.fence then s
  else
    let s1 := s.onBlock o.blk (fun b => { b with queues := b.queues.map (fun q => q.filter (fun p => p.id != o.id)) })
    let s2 := (List.range o.list.length).foldl (fun t i =>
      match o.list[i]? with
      | some d => (t.spoilCopy o d).countDown d.bobj (d.bytes - (if i = 0 then o.counted d else 0))
      | none => t) s1
    let s3 := s2.writeToken o.who o.tok 0xFFFFFFFF#32
    (s3.onCore o.who.core (fun k => { k with faults := k.faults.filter (fun f => f.copy != some o.id) })).tidy o.who.core

/-- Every copy operation that satisfies a test cancelled. -/
def State.cancelCopies (s : State) (p : CopyOp → Bool) : State :=
  ((s.blocks.flatMap (fun b => b.2.queues.flatMap id)).filter p).foldl State.cancelCopy s

/-- A copy cancelled by a fault of its own, its issuing lane throwing at its next boundary (R170, spec/26 R381). -/
def State.failCopy (s : State) (o : CopyOp) (cls : Nat) (code : Word) : State :=
  (s.cancelCopy o).dueThrow o.who cls code o.who.pc 0 o.step

/-- A translation fault of a copy stops its core (R170, spec/15 R281), and with it the threads of its block (spec/11 R236). -/
def State.stopCopy (s : State) (o : CopyOp) (kind level : Nat) (va : Dword) (write : Bool) : State :=
  if (s.core o.who.core).faults.any (fun f => f.copy == some o.id) then s
  else (s.onCore o.who.core (fun k => { k with faults := k.faults ++
    [{ kind := kind, va := va, level := level, write := write, fetch := false, copy := some o.id, who := o.who, vf := s.vfOf o.blk,
       recorded := false, record := 0, step := s.free }] })).flushFor o.who.core o.blk

/-- What a failing row does. -/
def State.badRow (s : State) (o : CopyOp) (r : RowAt) (write : Bool) : State :=
  match r with
  | .ok _ => s
  | .fault => s.failCopy o 6 0
  | .lease => s.failCopy o 8 0
  | .stop k l va => s.stopCopy o k l va write

/-! ## Starting -/

/-- The accesses of the issuing path that were issued before an operation (R170), performed. -/
def State.drainBefore (s : State) (who : Issuer) (lanes : List Nat) (step : Nat) : State :=
  lanes.foldl (fun t l =>
    match t.lane? who.core who.slot l with
    | some th => t.drainLane who.core who.slot l (th.acc.filter (fun a => decide (a.step < step))).length
    | none => t) s

/-- Whether none of them is left. -/
def State.drainedBefore (s : State) (who : Issuer) (lanes : List Nat) (step : Nat) : Bool :=
  lanes.all (fun l =>
    match s.lane? who.core who.slot l with
    | some th => th.acc.all (fun a => decide (step ≤ a.step))
    | none => true)

/-- The source rows of a copy as they stand. -/
def State.sourceNow (s : State) (blk c : Nat) (d : CopyDesc) (rows : List (List Place)) : List (List Byte) :=
  if d.fromGlobal then rows.map (fun r => r.map (s.byteOf c))
  else (List.range d.rows).map (fun i => if d.skips i then [] else s.sideRow blk c d i)

/-- What a started copy has read, with such bytes read anew as the device chooses: it reads each at a moment of its own, before it writes it (R170,
R177, spec/14 R273). What it could not read as it stands is as it was. -/
def State.reread (s : State) (o : CopyOp) (d : CopyDesc) : List (List Byte) :=
  let c := o.who.core
  match if d.fromGlobal then s.rowsAt o.blk d false else (.ok [], []) with
  | (.ok _, rows) =>
    let pas := physOf (rows.flatMap id)
    if pas.any (fun pa => (isRemote pa && !s.hasByte c pa) || (s.poisonHit c pa 1).isSome) then o.captured
    else
      let now := s.sourceNow o.blk c d rows
      (List.range o.captured.length).map (fun i =>
        let row := o.captured.getD i []
        (List.range row.length).map (fun j =>
          let k := i * d.rbytes + j / d.grain * d.grain
          if !o.landed.elem k && s.freeBit (2 ^ 46 + k) then (now.getD i []).getD j 0 else row.getD j 0))
  | _ => o.captured

/-- Pieces of the rows of a copy written: those that `runs` gives for each, at the places of `rows` where they are global. -/
def State.landRuns (s : State) (o : CopyOp) (d : CopyDesc) (rows : List (List Place)) (runs : Nat → List (Nat × Nat)) : State :=
  (List.range d.rows).foldl (fun t i => (runs i).foldl (fun u r =>
    let data := ((o.rowData s d i).drop r.1).take r.2
    if d.toGlobal then u.scatterWrite o.who.core (s.gangId o.blk) (((rows.getD i []).drop r.1).take r.2) data
    else u.putRow o.blk o.who.core d i r.1 data) t) s

/-- A COPY UNDER WAY (R173, R177, spec/14 R273): bytes, or elements, of its destination are written in any order, each at a moment of its own, and its byte
barrier is counted down as they land. -/
def State.progress (s : State) (blk q : Nat) (o0 : CopyOp) (d : CopyDesc) : State :=
  match if d.toGlobal then s.rowsAt blk d true else (.ok [], []) with
  | (.ok _, rows) =>
    let o := { o0 with captured := s.reread o0 d, spoilt := o0.spoilt || s.selfOverlap blk d }
    let now := (List.range d.rows).flatMap (fun i => if d.skips i then [] else ((List.range (d.rbytes / d.grain)).map (fun u => i * d.rbytes + u * d.grain)).filter
      (fun k => !o.landed.elem k && s.freeBit (2 ^ 47 + k)))
    let runs := fun (i : Nat) => (now.filter (fun k => k / max 1 d.rbytes == i)).map (fun k => (k % max 1 d.rbytes, d.grain))
    let o1 := { o with landed := o.landed ++ now, spoilt := o0.spoilt }
    let dest := s.destPlaces blk d rows
    let places := (List.range d.rows).flatMap (fun i => (runs i).flatMap (fun r => ((dest.getD i []).drop r.1).take r.2))
    (((s.landRuns o d rows runs).countDown d.bobj (o1.counted d - o.counted d)).overwrite places s).onHead blk q (fun _ => o1)
  | _ => s

/-- ENGINE_OPERATION_START (R169, R170): the operation at the head of a queue reads its first copy's source, once the accesses its path
issued before it are performed; one that has started goes on, as far as the device chooses. -/
def execEngineOperationStart (blk q : Nat) (s : State) : Res :=
  done (match s.headOp blk q with
    | none => s
    | some o =>
      if o.fence || (s.core o.who.core).faults.any (fun f => f.copy == some o.id) then s
      else if o.started then
        match o.req, o.list with
        | none, d :: _ => s.progress blk q o d
        | _, _ => s
      else
        let s1 := s.drainBefore o.who o.lanes o.step
        if !s1.drainedBefore o.who o.lanes o.step then s1
        else
          match o.list with
          | [] => s1
          | d :: _ =>
            let c := o.who.core
            if d.fromGlobal then
              match s1.rowsAt blk d false with
              | (.ok _, rows) =>
                let pas := physOf (rows.flatMap id)
                let far := pas.filter (fun pa => isRemote pa && !s1.hasByte c pa)
                match pas.findSome? (fun pa => s1.poisonHit c pa 1), far with
                | some l, _ => s1.consume blk l
                | none, [] => (s1.breach pas).onHead blk q (fun p => { p with started := true, req := none, captured := (s1.breach pas).sourceNow blk c d rows })
                | none, pa :: _ =>
                  if s1.outOfReach pa then s1.failCopy o 9 (poisonCode (remoteKind pa).1)
                  else
                    match o.req with
                    | some r =>
                      if s1.waiting r then s1
                      else
                        let (s2, r2) := s1.send (pa / 64 * 64) 64 o.who .read []
                        s2.onHead blk q (fun p => { p with req := some r2 })
                    | none =>
                      let (s2, r2) := s1.send (pa / 64 * 64) 64 o.who .read []
                      s2.onHead blk q (fun p => { p with req := some r2 })
              | (r, _) => s1.badRow o r false
            else s1.onHead blk q (fun p => { p with started := true, captured := s1.sourceNow blk c d [] }))

/-- ROWS, AND BYTES WITHIN ROWS, ARE PERFORMED IN NO PROMISED ORDER (R177, R178): where rows written in ascending order, as `t` holds them, meet,
each byte written again by those of its rows that the device chooses. -/
def State.anyRowOrder (s t : State) (o : CopyOp) (d : CopyDesc) (places : List (List Place)) : State :=
  if d.rows ≤ 1 ∨ (places.flatMap id).Nodup then t
  else (List.range d.rows).foldl (fun u i =>
    let ps := ((places.getD i []).zip (o.rowData s d i)).zip (List.range d.rbytes)
    let again := ps.filter (fun p => !o.landed.elem (i * d.rbytes + p.2 / d.grain * d.grain) && s.freeBit (2 ^ 40 + 65536 * i + p.2))
    u.scatterWrite o.who.core (s.gangId o.blk) (again.map (fun p => p.1.1)) (again.map (fun p => p.1.2))) t

/-- The rest of the destination of a started copy written, a global destination published at its scope (R171). -/
def State.landCopy (s : State) (o0 : CopyOp) (d : CopyDesc) (rows : List (List Place)) : State :=
  let o := if s.selfOverlap o0.blk d then { o0 with spoilt := true } else o0
  let c := o.who.core
  let s1 := s.anyRowOrder (s.landRuns o d rows (o.runs d)) o d (s.destPlaces o.blk d rows)
  if d.toGlobal then
    (s1.publishOwn c (s.gangId o.blk) d.scope (s.recOf o.blk).hasGang (physOf (rows.flatMap id))).overwrite (rows.flatMap id) s
  else s1.overwrite ((s.destPlaces o.blk d rows).flatMap id) s

/-- After a copy: the next of its list is to start, or the operation completes and its token is written. Where a TSLW has made its result
undefined, that of its earlier copies is so, too (R184). -/
def State.finishCopy (s : State) (blk q : Nat) (o : CopyOp) (d : CopyDesc) : State :=
  let s1 := s.countDown d.bobj (d.bytes - o.counted d)
  if 1 < o.list.length then
    s1.onHead blk q (fun p => { p with gone := p.gone ++ [d], list := p.list.drop 1, started := false, captured := [], landed := [], req := none })
  else
    let s2 := if o.spoilt then o.gone.foldl (fun t x => t.spoilCopy o x) s1 else s1
    ((s2.onCopies blk q (fun l => l.drop 1)).writeToken o.who o.tok 0).tidy o.who.core

/-- ENGINE_OPERATION_COMPLETE (R171) without what follows for the gang: the started copy's writes are performed and published; a fence
completes with the operations it waits for. -/
def State.completeCopy (s : State) (blk q : Nat) : State :=
  match s.headOp blk q with
  | none => s
  | some o =>
    if o.fence then
      if o.after.any s.opLive then s else (s.onCopies blk q (fun l => l.drop 1)).writeToken o.who o.tok 0
    else if !o.started || (s.core o.who.core).faults.any (fun f => f.copy == some o.id) then s
    else
      match o.list with
      | [] => s
      | d :: _ =>
        match o.req with
        | some r => if s.waiting r then s else s.finishCopy blk q o d
        | none =>
          if d.toGlobal then
            match s.rowsAt blk d true with
            | (.ok _, rows) =>
              let s1 := s.landCopy o d rows
              let pas := physOf (rows.flatMap id)
              if d.scope = 5 ∧ pas.any isRemote then
                match s1.sendDirty o.who false (fun pa => pas.elem pa) with
                | (s2, g, none) => s2.onHead blk q (fun p => { p with req := some g })
                | (s2, _, some pa) => s2.failCopy o 9 (poisonCode (remoteKind pa).1)
              else s1.finishCopy blk q o d
            | (r, _) => s.badRow o r true
          else (s.landCopy o d []).finishCopy blk q o d

end Sys2Proof.Machine
end

