-- ==== Sys2Proof/Machine/Comm.lean ====
section
/-! DEFINITION. Writes that the device itself makes at the home, and what the rest of the device needs of the collectives: which chunk a block fires, which results a rank holds, the abort of
an instance (spec/24 R354 to R367). -/

namespace Sys2Proof.Machine

/-- Bytes that the device writes for a function at a physical address, at the home, with a release at .system: what lies beyond the package is sent. -/
def State.devStore (s : State) (vf pa : Nat) (bs : List Byte) : State :=
  let s1 := (s.homeWriteBytes none pa bs).setOwner vf ((List.range bs.length).map (fun i => pa + i))
  if isRemote pa then (s1.sendDirty Issuer.device false (fun x => decide (pa ≤ x) && decide (x < pa + bs.length))).1 else s1
/-- Bytes that the device writes at a virtual address of a function, line by line, each at its own translation, so that no byte beyond
those named changes (R355). Nothing is written where the address is not mapped. -/
def State.devWriteLong (s : State) (vf : Nat) : Nat → Nat → List Byte → State
  | 0, _, _ => s
  | fuel + 1, va, bs =>
    if bs.isEmpty then s
    else
      let n := 64 - va % 64
      let pa := s.devAddr vf (BitVec.ofNat 64 va) true
      State.devWriteLong (if pa = 2 ^ 56 then s else s.devStore vf pa (bs.take n)) vf fuel (va + n) (bs.drop n)
/-- Bytes written by the dispatcher or another part of the device at a virtual address of a function. -/
def State.devWrite (s : State) (vf : Nat) (va : Nat) (bs : List Byte) : State := s.devWriteLong vf (bs.length / 64 + 2) va bs
/-- A number written there. -/
def State.devPut (s : State) (vf va n v : Nat) : State := s.devWrite vf va (leBytes n v)
/-- A number read there. -/
def State.devGet (s : State) (vf va n : Nat) : Nat := s.vaNat vf (BitVec.ofNat 64 va) n

/-- The chunk of a block by the place of its first wave (R355). -/
def Coll.chunkOf (k : Coll) (r : LaunchRec) (wlin : Nat) : Nat :=
  ((List.range r.l).filter (fun lv => decide (r.blockLevel ≤ lv))).foldl (fun acc lv => acc + k.mul.getD lv 0 * r.grp lv wlin) 0
/-- The blocks of a launch that map to a chunk. -/
def Coll.blocksFor (k : Coll) (r : LaunchRec) (c : Nat) : Nat :=
  ((List.range (r.gangs * r.blocksPerGang)).filter (fun b => k.chunkOf r (b * r.wavesPerBlock) == c)).length
/-- Whether the result of a chunk is written on a rank, and whether its source lies there (R355). -/
def Coll.resultHere (k : Coll) (nrank rank c : Nat) : Bool :=
  if k.op = 0 then true
  else if k.op = 1 then rank == c % nrank
  else if k.op = 2 then rank != c % nrank
  else rank != k.root
def Coll.sourceHere (k : Coll) (nrank rank c : Nat) : Bool :=
  if k.op ≤ 1 then true else if k.op = 2 then rank == c % nrank else rank == k.root
/-- The open communicator of a descriptor. -/
def State.commAt (s : State) (vf : Nat) (cdesc : Dword) : Option (Nat × Comm) :=
  s.comms.find? (fun p => p.2.vf == vf && p.2.cdesc == cdesc)

/-- Whether an instance has ended. -/
def CollInst.over_ (x : CollInst) : Bool := x.aborted.isSome || x.complete
/-- The last instance of a number that a communicator has had. -/
def Comm.inst? (k : Comm) (i : Nat) : Option CollInst := k.instances.find? (fun x => x.inst == i)
/-- The communicator with one instance changed that has not ended. -/
def Comm.onInst (k : Comm) (i : Nat) (f : CollInst → CollInst) : Comm :=
  { k with instances := k.instances.map (fun x => if x.inst = i ∧ x.over_ = false then f x else x) }

/-- Whether a number comes after another, modulo 2^32 as R354 compares them. -/
def instAfter (a b : Nat) : Bool := decide (0 < (a + 2 ^ 32 - b) % 2 ^ 32) && decide ((a + 2 ^ 32 - b) % 2 ^ 32 < 2 ^ 31)
/-- The last instance completed on this rank, INSTDONE (R358). -/
def State.instDone (s : State) (k : Comm) : Nat := s.homeNat (k.pa + 56) 4
/-- Whether an instance of a number has completed or aborted on this package (R357): one that is run again has not. -/
def State.hasEnded (s : State) (k : Comm) (i : Nat) : Bool :=
  k.instances.all (fun x => x.inst != i || x.over_) && (!instAfter i (s.instDone k) || s.ended.elem (k.pa, i))
/-- The instance a communicator performs (R357): one that is active, and whose predecessor has completed or aborted here; of several, the lowest. No
step of an instance runs before it is active, so that one a partner has aborted before runs none (R366). -/
def State.current (s : State) (k : Comm) : Option CollInst :=
  (k.instances.filter (fun x => x.active && s.hasEnded k ((x.inst + 2 ^ 32 - 1) % 2 ^ 32))).foldl (fun acc x =>
    match acc with
    | some y => if instAfter y.inst x.inst then some x else some y
    | none => some x) none

/-- Whether a chunk stands as completion would leave it (R367): written, or combined with the contribution of every other rank. -/
def CollInst.isFinal (x : CollInst) (nrank c : Nat) : Bool :=
  x.written.elem c || (x.torn.elem c && decide (x.coll.op ≤ 1) && decide (nrank - 1 ≤ getD x.folded 0 c))

/-- The instance a command is for. -/
def BobCmd.inst? (c : BobCmd) : Option Nat :=
  match c with
  | .send i _ _ _ => some i
  | .reduce i _ _ _ => some i
  | .write i _ _ => some i
  | .free _ => none
  | .done i _ => some i

/-- The class a wait throws for a cause (R360). -/
def abortClass (cause : Nat) : Nat := if cause = 2 then 9 else 12

/-- The bytes of STATE (R367). -/
def stateBytes (n : Nat) (f : Nat → Nat) : List Byte :=
  (List.range ((n + 3) / 4)).map (fun b => BitVec.ofNat 8
    ((List.range 4).foldl (fun acc j => acc + (if 4 * b + j < n then f (4 * b + j) else 0) * 4 ^ j) 0))

/-- AN INSTANCE ABORTS (R366, R367): every step of it ends, its slots and spool places are free, its abort record is written, and every
wait on it throws from then on (R360). -/
def State.abortInstance (s : State) (k i cause rankx : Nat) : State :=
  match look s.comms k with
  | none => s
  | some cm =>
    match cm.inst? i with
    | none => s
    | some x =>
      if x.over_ then s
      else
        let st := fun (c : Nat) =>
          if !x.coll.resultHere cm.nrank cm.rank c then 0 else if x.isFinal cm.nrank c then 1
            else if x.torn.elem c then 2 else 0
        let torn := ((List.range x.coll.nchunk).filter (fun c => st c == 2)).length
        let s1 := s.onComm k (fun m => { (m.onInst i (fun y => { y with aborted := some (cause, rankx) })) with
          slots := m.slots.filter (fun p => p.2.inst != i)
          spool := m.spool.filter (fun p => p.2.inst != i)
          cmds := m.cmds.filter (fun c => c.inst? != some i)
          sent := m.sent.filter (fun p => p.2.inst != i)
          events := m.events ++ [.abort cause] })
        let s2 := if cause = 2 then
            s1.homeWriteBytes none (cm.pa + 28) (leBytes 4 (s1.homeNat (cm.pa + 28) 4 ||| 4)) else s1
        let bs := leBytes 4 i ++ leBytes 4 cause ++ leBytes 2 rankx ++ leBytes 2 0 ++ leBytes 4 torn ++ leBytes 48 0
        let s3 := s2.devWrite cm.vf cm.abrec.toNat (bs ++ stateBytes x.coll.nchunk st)
        { s3 with
          ended := if s3.ended.elem (cm.pa, i) then s3.ended else (cm.pa, i) :: s3.ended
          launches := s3.launches.map (fun p =>
            match p.2.coll with
            | some c => if p.2.vf = cm.vf ∧ c.cdesc = cm.cdesc ∧ c.inst = i ∧ c.role = 2 then
                (p.1, { p.2 with waitAbort := some (abortClass cause) }) else p
            | none => p) }

/-- Whether what comes for an instance that is not at work here has come too late: for one that has completed; for one that has aborted, as the device
takes it, since the spec gives nothing by which a later run of the number is told from it (log entry 74). -/
def State.tooLate (s : State) (k : Comm) (i : Nat) : Bool :=
  !instAfter i (s.instDone k) || (s.ended.elem (k.pa, i) && s.freeBit (2 ^ 43 + 2 ^ 33 * k.id + i))
/-- An abort for an instance: where it is not yet active here, it is kept, with its cause and rank, and has its effect when it becomes so (R366). -/
def State.abortOrKeep (s : State) (k i cause rankx : Nat) : State :=
  match look s.comms k with
  | none => s
  | some cm =>
    if cm.instances.any (fun x => x.inst == i && x.active) then s.abortInstance k i cause rankx
    else if cm.instances.all (fun x => x.inst != i || x.over_) && s.tooLate cm i then s
    else s.onComm k (fun m => { m with notices := (i, cause, rankx) :: m.notices.filter (fun n => n.1 != i) })

/-- The instance of a launch aborted, where it has one (R366 causes 3 and 5); that of a WAIT launch that is not admitted here, once it is active. -/
def State.abortOwn (s : State) (l : Launch) (cause : Nat) : State :=
  match l.coll with
  | none => s
  | some c =>
    match s.commAt l.vf c.cdesc with
    | some (k, cm) => if (cm.inst? c.inst).isSome then s.abortInstance k c.inst cause cm.rank else s.abortOrKeep k c.inst cause cm.rank
    | none => s

/-! ## The end of an instance, of a communicator -/

/-- The ranks that need a rank's contribution of a chunk, in ascending order (R355, spec/25 R370). -/
def Comm.receivers (k : Comm) (x : CollInst) (c : Nat) : List Nat :=
  (if x.coll.op = 1 then [c % k.nrank] else List.range k.nrank).filter (fun r => r != k.rank)
/-- Whether a rank has sent its contribution of a chunk to every rank that needs it (R355). -/
def Comm.sentAll (k : Comm) (x : CollInst) (c : Nat) : Bool :=
  !x.coll.sourceHere k.nrank k.rank c || (k.receivers x c).all (fun r => k.sent.any (fun p => p.1 == r && p.2.inst == x.inst && p.2.chunk == c))
/-- Whether an instance is complete on this rank: every result chunk is done, every other contribution sent (R358). -/
def Comm.isComplete (k : Comm) (x : CollInst) : Bool :=
  (List.range x.coll.nchunk).all (fun c => x.done.elem c || (!x.coll.resultHere k.nrank k.rank c && k.sentAll x c))
/-- An instance that is complete: INSTDONE is written (R358). -/
def State.settleInstance (s : State) (id i : Nat) : State :=
  match look s.comms id with
  | none => s
  | some k =>
    match k.inst? i with
    | none => s
    | some x =>
      if x.active && k.isComplete x then
        ((s.homeWriteBytes none (k.pa + 56) (leBytes 4 i))).onComm id (fun m => { (m.onInst i (fun y => { y with complete := true })) with
          sent := m.sent.filter (fun p => p.2.inst != i) })
      else s

/-- Whether a communicator may close (R353): EN is clear, no instance is active, and every launch admitted that names it has ended. -/
def State.mayClose (s : State) (k : Comm) : Bool :=
  !(s.homeNat (k.pa + 28) 4).testBit 0 && k.instances.all CollInst.over_ &&
  s.launches.all (fun l => !(l.2.vf == k.vf && decide (l.2.status ≤ 1) && ((l.2.coll.map (fun c => c.cdesc == k.cdesc)).getD false)))
/-- A COMMUNICATOR CLOSES where it may (R353): its slots, its channel and its notices are gone, and OPEN is clear. -/
def State.closeComm (s : State) (id : Nat) : State :=
  match look s.comms id with
  | none => s
  | some k =>
    if s.mayClose k then
      let ctrl := s.homeNat (k.pa + 28) 4
      let s1 := s.homeWriteBytes none (k.pa + 28) (leBytes 4 (ctrl - (if ctrl.testBit 1 then 2 else 0)))
      { s1 with comms := eraseAt s1.comms id }
    else s
/-- Every communicator that may close does. -/
def State.closeIdle (s : State) : State := (s.comms.map (fun p => p.1)).foldl State.closeComm s

/-- A member peer that is fenced, by rank (R382). -/
def State.fencedRank (s : State) (k : Comm) : Option Nat :=
  (List.range k.nrank).find? (fun r => r != k.rank && s.peerState (k.peers.getD r 0) == 1)

/-- A CHUNK FIRES (R356): the views of the cores of its blocks are published at .device, and the HOME Bobbin gets it. Its instance is active from then
on: where an abort has been kept for it (R366), or a member peer is fenced (R382), it aborts at once. -/
def State.fireChunk (s : State) (l : Launch) (k : Coll) (c : Nat) (cores : List Nat) : State :=
  let s1 := cores.foldl (fun t core => t.publish core 0 4 true) s
  match s1.commAt l.vf k.cdesc with
  | none => s1
  | some (id, cm) =>
    let s2 := s1.onComm id (fun m => { (m.onInst k.inst (fun x => { x with fired := c :: x.fired })) with
      events := m.events ++ [.fire c], notices := m.notices.filter (fun n => n.1 != k.inst) })
    match cm.notices.find? (fun n => n.1 == k.inst), s2.fencedRank cm with
    | some (_, cause, rank), _ => s2.abortInstance id k.inst cause rank
    | none, some rank => s2.abortInstance id k.inst 2 rank
    | none, none => s2.settleInstance id k.inst

/-- A block of a FIRE launch has exited: its chunk fires with the last block that maps to it (R356). -/
def State.blockFires (s : State) (l : Launch) (b : Block) (wlin : Nat) : State :=
  match l.coll with
  | none => s
  | some k =>
    if k.role ≠ 1 then s
    else
      let r := l.prog.lrec
      let c := k.chunkOf r wlin
      if k.nchunk ≤ c then s
      else
        let fired := (c, b.core) :: l.fired
        let s1 := s.onLaunch l.id (fun x => { x with fired := fired })
        let mine := fired.filter (fun p => p.1 == c)
        if mine.length = k.blocksFor r c then s1.fireChunk l k c (mine.map (·.2)) else s1

end Sys2Proof.Machine
end

