-- ==== Sys2Proof/Machine/GangEnd.lean ====
section
/-! DEFINITION. The thimble (spec/09 R192 to R194), and the end of waves, blocks and gangs (spec/07 R131, spec/09 R419, spec/21 R307 to
R312). -/

namespace Sys2Proof.Machine

/-- Whether a block's waves are of a class-0 launch (R194): the class of its launch, whatever the template's record says (R311). -/
def State.isZero (s : State) (blk : Nat) : Bool :=
  match s.launchOf blk with
  | some l => l.prog.lrec.cls == 0
  | none => false
/-- The matrix queue that a block uses. -/
def State.queueOf (s : State) (c blk : Nat) : MatQueue := (s.core c).queue (s.isZero blk)

/-- The class-0 reservation on a core (spec/21 R317), where the core is in a neighbourhood of it: wave slots per panel, register-file
bytes, scratchpad bytes, operand slots, accumulator rows. -/
def State.reserved (s : State) (vf c : Nat) : Nat × Nat × Nat × Nat × Nat :=
  if (s.vfDword vf 56).testBit (c / 4) then
    let r := s.vfWord vf 64
    (r % 16, s.vfWord vf 72, s.vfWord vf 68, r / 16 % 32, r / 512 % 128 * 32)
  else (0, 0, 0, 0, 0)

/-- Operand slots and accumulator rows that CLAIM and ACLAIM of a block may take: classes 1 to 7 never hold what is reserved (R317). -/
def State.slotsFor (s : State) (c blk : Nat) : Nat :=
  let k := s.core c
  if s.isZero blk then k.freeSlots
  else min k.freeSlots (16 - (s.reserved (s.vfOf blk) c).2.2.2.1 - (k.slots.filter (fun p => !s.isZero p.2.blk)).length)
def State.rowsFor (s : State) (c blk : Nat) : Nat :=
  let k := s.core c
  if s.isZero blk then k.freeRows
  else min k.freeRows (2048 - (s.reserved (s.vfOf blk) c).2.2.2.2 -
    ((k.tiles.filter (fun p => !s.isZero p.2.blk)).map (fun p => p.2.m * p.2.p)).sum)

/-! ## The thimble -/

/-- The thimble given to a wave: one of another block than the last holder's finds the latched state reset (R192), or as its block's resumption has
restored it (spec/23 R350; log entry 78). -/
def MatQueue.give (q : MatQueue) (slot blk : Nat) : MatQueue :=
  if q.lastBlk = some blk ∧ look q.kept blk = none then { q with holder := some slot }
  else
    let l := (look q.kept blk).getD Latch.reset
    { q with holder := some slot, lastBlk := some blk, resetDue := some l, wfmt := l.fmt, wn := l.n, kept := [] }

/-- The next wave of the block after one, in $wave order with wrap-around, that has a live lane (R193). -/
def State.nextWave (s : State) (w : Wave) : Option Wave :=
  let others := s.waves.filter (fun v => v.core == w.core && v.blk == w.blk && v.slot != w.slot && v.live != 0)
  let pick := fun (l : List Wave) => l.foldl (fun acc v =>
    match acc with
    | some x => if v.wave < x.wave then some v else some x
    | none => some v) (none : Option Wave)
  match pick (others.filter (fun v => decide (w.wave < v.wave))) with
  | some v => some v
  | none => pick others

/-- The thimble passed on by its holder (R193); freed where `free` says so and no wave of the block is left, else kept. -/
def State.passThimble (s : State) (w : Wave) (free : Bool) : State :=
  s.onCore w.core (fun k => k.onQueue (s.isZero w.blk) (fun q =>
    match s.nextWave w with
    | some v => q.give v.slot w.blk
    | none => if free then { q with holder := none } else q))

/-! ## The end of a wave, a block, a gang -/

/-- The matrix operations of a core changed, wherever they are. -/
def Core.onMatOps (k : Core) (f : MatOp → MatOp) : Core :=
  { k with
    window := k.window.map f
    mq := { k.mq with ops := k.mq.ops.map f }
    mq0 := { k.mq0 with ops := k.mq0.ops.map f }
    array := k.array.map (fun p => (p.1, f p.2)) }

/-- Whether two issuers are of one wave. -/
def Issuer.ofWave (i : Issuer) (c slot : Nat) : Bool := i.core == c && i.slot == slot

/-- The token writes still owed to a wave are discarded (R419). -/
def State.dropTokens (s : State) (c slot : Nat) : State :=
  let s1 : State := { s with blocks := s.blocks.map (fun b => (b.1, { b.2 with queues := b.2.queues.map (fun q =>
    q.map (fun o => if o.who.ofWave c slot then { o with tok := 64 } else o)) })) }
  s1.onCore c (fun k => { k.onMatOps (fun o => { o with toks := o.toks.filter (fun t => !t.who.ofWave c slot) }) with
    voids := k.voids.map (fun v => { v with toks := v.toks.filter (fun t => !t.who.ofWave c slot) }) })

/-- One lease on each range of a list released; the translations that leases held go with the last one on their pages (spec/22 R328). -/
def State.releaseRanges (s : State) (vf : Nat) (rs : List Range) : State :=
  let s1 := rs.foldl (fun t x => { t with residents := t.residents.map (fun r =>
      if r.vf = vf ∧ r.range.va = x.va ∧ r.range.len = x.len then
        { r with leases := r.leases - 1, released := if r.leases ≤ 1 then s.clock.wall else r.released } else r) }) s
  { s1 with tlb := s1.tlb.filter (fun e => e.core != 192 ||
      s1.residents.any (fun r => r.vf == e.vf && decide (0 < r.leases) && e.meets r.vf (r.range.va % 2 ^ 57) r.range.len)) }

/-- A launch that has ended, and whose gangs are all gone, is forgotten and its leases released (spec/22 R328). -/
def State.forgetLaunch (s : State) (l : Nat) : State :=
  match s.launch? l with
  | none => s
  | some x =>
    if 2 ≤ x.status ∧ x.live = 0 then
      let s1 := s.releaseRanges x.vf ((if x.leased then x.prog.ranges else []) ++
        (x.templates.filter (fun t => x.tleased.elem t.1)).flatMap (fun t => t.2.ranges))
      { s1 with launches := eraseAt s1.launches l, bars := s1.bars.filter (fun b => b.launch != l) }
    else s

/-- The byte STATE and the word INTVL of a task record (spec/21 R309). -/
def State.taskState (s : State) (g : Gang) (st : Nat) : State :=
  match s.launch? g.launch with
  | some l =>
    let va := s.vfDword l.vf 32 + 32 * g.taskRec
    (s.devPut l.vf (va + 12) 1 st).devPut l.vf (va + 28) 4 g.interval
  | none => s

/-- Whether every block of a gang has ended and every operation its blocks issued has completed (spec/01 R29). -/
def State.gangOver (s : State) (g : Nat) : Bool :=
  (s.blocksOf g).all (fun b => b.ended && b.queues.all List.isEmpty && (s.core b.core).matOps.all (fun o => o.blk != b.id))

/-- THE END OF A GANG: its instance's writes go on to the home, its task record is retired, its blocks are gone. -/
def State.endGang (s : State) (g : Nat) : State :=
  match s.gang? g with
  | none => s
  | some k =>
    if !s.gangOver g then s
    else
      let s1 := (s.flushOverlay g).taskState k 3
      let cores := (s1.blocksOf g).map (·.core)
      let s2 : State := { s1 with
        blocks := s1.blocks.filter (fun b => b.2.gang != g)
        gangs := eraseAt s1.gangs g
        bars := s1.bars.filter (fun b => b.gang != g + 1)
        restarts := eraseAt s1.restarts g }
      let s3 := s2.onLaunch k.launch (fun l => { l with
        live := l.live - 1
        consumers := match k.edge with
          | some e => l.consumers.filter (fun x => x != e)
          | none => l.consumers })
      (cores.foldl State.tidy s3).forgetLaunch k.launch

/-- THE END OF A BLOCK (R419): its registers are unmapped, its chunk may fire, its gang may end. -/
def State.endBlock (s : State) (blk wlin : Nat) : State :=
  match s.block? blk with
  | none => s
  | some b =>
    let s1 := s.onBlock blk (fun x => { x with ended := true, o := [], a := [] })
    let s2 := (s1.onCore b.core (fun k => { k with
      slots := k.slots.map (fun p => if p.2.blk = blk then (p.1, { p.2 with mapped := false }) else p)
      tiles := k.tiles.map (fun p => if p.2.blk = blk then (p.1, { p.2 with mapped := false }) else p) })).tidy b.core
    let s3 :=
      match s2.gang? b.gang with
      | none => s2
      | some g =>
        match s2.launch? g.launch with
        | some l => if g.tmpl = 0 then s2.blockFires l b wlin else s2
        | none => s2
    s3.endGang b.gang

/-- THE END OF A WAVE whose last launched lane has exited (spec/01 R11). -/
def State.endWave (s : State) (c slot : Nat) : State :=
  match s.wave? c slot with
  | none => s
  | some w =>
    if w.lanes.any (fun t => t.live) then s
    else
      let holds := (s.queueOf c w.blk).holder == some slot
      let s1 := if holds then (s.flushFor c w.blk).passThimble w true else s
      let s2 := (s1.dropTokens c slot)
      let s3 : State := { s2 with waves := s2.waves.filter (fun v => !v.isAt c slot) }
      if s3.waves.any (fun v => v.blk == w.blk) then s3
      else
        let r := s.recOf w.blk
        s3.endBlock w.blk (w.wlin / max 1 r.wavesPerBlock * r.wavesPerBlock)

/-- The gangs that are over end (spec/01 R29): those whose last operation has left a queue without having run, too. -/
def State.settleEnds (s : State) : State := (s.gangs.map (fun g => g.1)).foldl State.endGang s

/-- What follows an operation's completion for the gang of a block that has ended. -/
def State.afterOp (s : State) (blk : Nat) : State :=
  match s.block? blk with
  | some b => if b.ended then s.endGang b.gang else s
  | none => s

/-- ENGINE_OPERATION_COMPLETE (R171). -/
def execEngineOperationComplete (blk q : Nat) (s : State) : Res := done ((s.completeCopy blk q).afterOp blk)

end Sys2Proof.Machine
end

