-- ==== Sys2Proof/Machine/Sync.lean ====
section
/-! DEFINITION. Barriers, byte-barrier objects, the rendezvous of TRY, ENDTRY and TEND, and EXIT (spec/10 R203 to R209, R222,
spec/07 R131). -/

namespace Sys2Proof.Machine

/-! ## Groups -/

/-- What the groups of a gang's waves are numbered in: the launch, or the gang itself for a task of a template. -/
def Gang.space (g : Gang) : Nat × Nat := (g.launch, if g.tmpl = 0 then 0 else g.id + 1)
/-- The space of a wave's groups. -/
def State.space? (s : State) (w : Wave) : Option (Nat × Nat) := (s.gangOf w.blk).map Gang.space
/-- The record of a wave's program. -/
def State.waveRec (s : State) (w : Wave) : LaunchRec := s.recOf w.blk

/-- The waves of saved images with the space of their groups: their threads stay members of their groups. -/
def State.savedWaves (s : State) : List ((Nat × Nat) × Wave) :=
  s.images.flatMap (fun p => p.2.blocks.flatMap (fun b => b.waves.map (fun w => (p.2.gang.space, w))))

/-- Whether a resident wave is in the level-`k` group of another. -/
def State.sameGroup (s : State) (k : Nat) (w v : Wave) : Bool :=
  s.space? w == s.space? v && (s.waveRec w).groupOf k w.wlin == (s.waveRec w).groupOf k v.wlin
/-- The waves of the level-`k` group of a wave, resident and saved. -/
def State.groupWaves (s : State) (k : Nat) (w : Wave) : List Wave :=
  s.waves.filter (s.sameGroup k w) ++
  (s.savedWaves.filter (fun p => some p.1 == s.space? w && (s.waveRec w).groupOf k p.2.wlin == (s.waveRec w).groupOf k w.wlin)).map (·.2)

/-- Whether every live thread of the group satisfies a test. -/
def State.allLive (s : State) (k : Nat) (w : Wave) (p : Thread → Bool) : Bool :=
  (s.groupWaves k w).all (fun v => v.lanes.all (fun t => !t.live || p t))

/-! ## Barriers -/

/-- Whether a barrier instance is the one of a group. -/
def BarInst.isOf (b : BarInst) (sp : Nat × Nat) (k grp : Nat) : Bool := b.launch == sp.1 && b.gang == sp.2 && b.level == k && b.group == grp
/-- The current phase of the instance of a wave's group at a level (R203); an instance nothing has completed is in phase 0. -/
def State.phaseOf (s : State) (k : Nat) (w : Wave) : Nat :=
  match s.space? w with
  | none => 0
  | some sp =>
    match s.bars.find? (fun b => b.isOf sp k ((s.waveRec w).groupOf k w.wlin)) with
    | some b => b.phase
    | none => 0
/-- The next phase of that instance. -/
def State.nextPhase (s : State) (k : Nat) (w : Wave) : State :=
  match s.space? w with
  | none => s
  | some sp =>
    let grp := (s.waveRec w).groupOf k w.wlin
    { s with bars := ⟨sp.1, sp.2, k, grp, s.phaseOf k w + 1⟩ :: s.bars.filter (fun b => !b.isOf sp k grp) }

/-- A thread that waits for a phase that has completed goes on: its record is cleared and a refresh at the level's scope is due (R203). -/
def Thread.passBarrier (s : State) (t : Thread) (k phase sc : Nat) : Thread :=
  match t.wait with
  | .barrier j tack =>
    if j = k ∧ decide ((look t.arrived k).getD phase < phase) then
      ((({ t with wait := .no, arrived := eraseAt t.arrived k }).issue s (.refresh sc) (.phys 0) 0).advance 4).tackIf tack
    else t
  | _ => t

/-- The phase of the instance of a wave's group completes once every member has arrived or exited (R203). -/
def State.barCheck (s : State) (k : Nat) (w : Wave) : State :=
  let p := s.phaseOf k w
  let here := fun (t : Thread) => look t.arrived k == some p
  if s.allLive k w here && (s.groupWaves k w).any (fun v => v.lanes.any (fun t => t.live && here t)) then
    let s1 := s.nextPhase k w
    let sc := (s.waveRec w).scopeOf k
    { s1 with waves := s1.waves.map (fun v => if s.sameGroup k w v then { v with lanes := v.lanes.map (fun t => t.passBarrier s k (p + 1) sc) } else v) }
  else s

/-- The level a barrier or TRY of a wave names, by its operand (spec/01 R16). -/
def State.levelOf (s : State) (w : Wave) (l : BitVec 3) : Nat := (s.waveRec w).levelOf l.toNat
/-- A level of the tenant domain needs the co-residency flag (R205). -/
def State.levelBad (s : State) (w : Wave) (k : Nat) : Bool := (s.waveRec w).domain k == 3 && !(s.waveRec w).cores

/-- The lanes of the path that satisfy a test. -/
def State.curLanes (s : State) (p : Thread → Bool) : List Nat :=
  match s.curWave with
  | none => []
  | some w => (w.lanes.filter (fun t => s.cur.lanes.elem t.lane && p t)).map (·.lane)

/-- Part of the path's lanes acting alone. -/
def State.within (s : State) (lanes : List Nat) (f : State → State) : State :=
  { f { s with cur := { s.cur with lanes := lanes } } with cur := s.cur }

/-- AN INSTRUCTION THAT PUBLISHES FIRST (R146; log entry 8): the accesses its lanes issued earlier are performed; lanes with some that
cannot be yet wait; a lane that an access has diverted leaves the path; the others go on with `k`. A publish at .system waits until
nothing is left to be sent beyond the package. -/
def State.afterPublish (s : State) (sc : Nat) (k : State → State) : State :=
  let c := s.cur.core
  let sl := s.cur.slot
  let s1 := s.drain c sl s.cur.lanes
  let ready := fun (t : Thread) => t.wait == .no && t.pc == s.cur.pc
  let far := sc == 5 && (s1.publish c 0 5 true).unsent
  let ok := s1.curLanes (fun t => ready t && t.acc.isEmpty && !far)
  let late := s1.curLanes (fun t => ready t && !(t.acc.isEmpty && !far))
  let s2 := s1.within late (fun u =>
    let u1 := if far then u.perLane false (fun _ t => .hold (if t.acc.isEmpty then t.issue u (.publish 5) (.phys 0) 0 else t) .drain)
      else u.holdAll .drain
    u1)
  match s2.curWave with
  | none => s2
  | some w =>
    if ok.isEmpty then s2
    else s2.within ok (fun u => k (u.publish c (u.gangId w.blk) sc (u.recOf w.blk).hasGang))

/-- AN INSTRUCTION THAT READS ITS PARAMETER BLOCK WHILE IT ISSUES (spec/09 R168, R170; log entry 72): the accesses the path issued earlier
are performed first; while one of them cannot be yet, the path waits; a lane that one of them has diverted leaves the path. -/
def State.afterAccesses (s : State) (k : State → State) : State :=
  let s1 := s.drain s.cur.core s.cur.slot s.cur.lanes
  let lane := fun (p : Thread → Bool) (l : Nat) => ((s1.lane? s.cur.core s.cur.slot l).map p).getD true
  let here := s1.cur.lanes.filter (lane (fun t => t.wait == .no && t.pc == s.cur.pc && t.due.isNone))
  if here.isEmpty then s1
  else if here.all (lane (fun t => t.acc.isEmpty)) then s1.within here k
  else s1.within here (fun u => u.holdAll .drain)

/-- Whether an entry is a lane's arrival at a level. -/
def LogEntry.isPhase (lane level : Nat) (e : LogEntry) : Bool :=
  match e with
  | .phase k v _ => k == lane && v == level
  | _ => false
/-- The phase a lane arrives in: a re-execution arrives in the one it has arrived in (spec/27 R389, R391). -/
def State.arrivalPhase (s : State) (l k p : Nat) : State × Nat :=
  match s.curWave.bind (fun w => w.replayFor l (LogEntry.isPhase l k)) with
  | some (.phase _ _ q, w1) => (s.onCur (fun _ => w1), q)
  | _ => (s.onCur (fun u => u.logFor l (.phase l k p)), p)

/-- What the lanes of the path do at a barrier once their publish has completed: arrive and go on, or arrive and wait (R203). -/
def State.arrive (s : State) (w : Wave) (k : Nat) (wait tack : Bool) : State :=
  let now := s.phaseOf k w
  let s1 := s.cur.lanes.foldl (fun u l =>
    let (u1, p) := u.arrivalPhase l k now
    u1.within [l] (fun v => v.perLane (tack && !wait) (fun _ t =>
      let t1 : Thread := { t with arrived := insertAt t.arrived k p }
      if wait then .land (Thread.passBarrier s { t1 with wait := .barrier k tack } k now ((s.waveRec w).scopeOf k)) else .next t1))) s
  s1.barCheck k w

/-- BAR and BARARR (R203): a lane that has a record takes ILLOP. -/
def arriveAt (l : BitVec 3) (wait t : Bool) (s : State) : Res :=
  done (match s.curWave with
    | none => s
    | some w =>
      let k := s.levelOf w l
      if s.levelBad w k then s.illop
      else
        let s1 := s.flushFor w.core w.blk
        let has := fun (x : Thread) => (look x.arrived k).isSome
        let bad := s1.curLanes has
        let good := s1.curLanes (fun x => !has x)
        let s2 := if bad.isEmpty then s1 else s1.within bad State.illop
        if good.isEmpty then s2
        else s2.within good (fun u => u.afterPublish ((s.waveRec w).scopeOf k) (fun v => v.arrive w k wait t)))

/-- BAR (R203). -/
def execBar (l : BitVec 3) (t : Bool) (s : State) : Res := arriveAt l true t s

/-- BARARR (R203). -/
def execBararr (l : BitVec 3) (t : Bool) (s : State) : Res := arriveAt l false t s

/-- BARWAIT (R203). -/
def execBarwait (l : BitVec 3) (t : Bool) (s : State) : Res :=
  done (match s.curWave with
    | none => s
    | some w =>
      let k := s.levelOf w l
      if s.levelBad w k then s.illop
      else
        let p := s.phaseOf k w
        (s.flushFor w.core w.blk).perLane t (fun _ th =>
          match look th.arrived k with
          | none => .next th
          | some r =>
            if r < p then .next (({ th with arrived := eraseAt th.arrived k }).issue s (.refresh ((s.waveRec w).scopeOf k)) (.phys 0) 0)
            else .hold th (.barrier k t)))

/-! ## Effects that a re-execution does not have again -/

/-- Whether an entry is an effect of a lane's instruction. -/
def LogEntry.isEffect (lane : Nat) (pc : Dword) (e : LogEntry) : Bool :=
  match e with
  | .effect k q _ => k == lane && q == pc
  | _ => false
/-- An effect outside the wave that a lane's instruction has had since the checkpoint: its result, and the state with the entry used (spec/15 R285; log
entry 25). -/
def State.effectAgain (s : State) (l : Nat) : Option (Dword × State) :=
  match s.curWave.bind (fun w => w.replayFor l (LogEntry.isEffect l s.cur.pc)) with
  | some (.effect _ _ v, w1) => some (v, s.onCur (fun _ => w1))
  | _ => none
/-- Such an effect logged. -/
def State.logEffect (s : State) (l : Nat) (v : Dword) : State := s.onCur (fun u => u.logFor l (.effect l s.cur.pc v))
/-- One lane of an instruction with an effect outside the wave: in a re-execution `old` completes it with the result it had, else `new` acts. -/
def State.onceLane (s : State) (l : Nat) (old : State → Dword → State) (new : State → State) : State :=
  match s.effectAgain l with
  | some (v, s1) => old s1 v
  | none => new s
/-- The lanes of the path whose effect is logged completed with `old`, the others acting with `new`. -/
def State.oncePath (s : State) (old : State → Nat → Dword → State) (new : State → State) : State :=
  let again := s.cur.lanes.filter (fun l => (s.effectAgain l).isSome)
  let rest := s.cur.lanes.filter (fun l => (s.effectAgain l).isNone)
  let s1 := again.foldl (fun u l => u.onceLane l (fun v x => old v l x) id) s
  if rest.isEmpty then s1 else s1.within rest new

/-! ## Byte-barrier objects -/

/-- A lane that completes after a change of the state. -/
def State.lane1 (s : State) (l : Nat) (t : Bool) : State := s.within [l] (fun u => u.perLane t (fun _ th => .next th))

/-- A byte-barrier instruction lane by lane in ascending order: the checks of R207, then what it does at the object. It acts at its issue, without
waiting for what the lane has issued before it (log entry 10). -/
def State.bobj (s : State) (a : Nat) (tack : Bool) (f : State → Nat → Thread → Place → State) : State :=
  s.cur.lanes.foldl (fun u l =>
    match u.curWave with
    | none => u
    | some w =>
      match w.lane? l with
      | none => u
      | some th =>
        let addr := (th.g? s a).toNat
        match if addr % 16 = 0 ∧ s.padRange w.blk addr 16 then s.padAt w.blk addr else none with
        | some (b, off) => u.onceLane l (fun v _ => v.lane1 l tack) (fun v => f v l th (.pad b off))
        | none => u.within [l] (fun v => v.trapAll cFAULT)) s

/-- A lane that completes after a change of the state, its effect logged. -/
def State.laneDone (s : State) (l : Nat) (t : Bool) : State := (s.logEffect l 0).lane1 l t

/-- BOBJINIT (R207). -/
def execBobjinit (d a : Reg) (t : Bool) (s : State) : Res :=
  done (s.withRegs [d.toNat, a.toNat] (s.bobj a.toNat t (fun u l th pl =>
    match pl with
    | .pad b off => (u.padWrite b off (leBytes 4 (th.g? s d.toNat).toNat ++ leBytes 12 0)).laneDone l t
    | .phys _ => u)))

/-- BOBJEXP (R207). -/
def execBobjexp (d a : Reg) (t : Bool) (s : State) : Res :=
  done (s.withRegs [d.toNat, a.toNat] (s.bobj a.toNat t (fun u l th pl =>
    let old := u.barrierCount pl
    let new := old + th.g? s d.toNat
    (u.setBarrier pl new (if old ≠ 0 ∧ new = 0 then u.barrierZeros pl + 1 else u.barrierZeros pl)).laneDone l t)))

/-- The class a wait on a byte barrier throws: the RBOBJ object of a block of a WAIT launch whose instance has aborted, whichever block of the
gang waits on it (spec/24 R360). A spawned task's block has no such object. -/
def State.waitAborted (s : State) (pl : Place) : Option Nat :=
  match pl with
  | .phys _ => none
  | .pad b off =>
    match s.launchOf b, s.gangOf b with
    | some l, some g =>
      match l.coll, l.waitAbort with
      | some k, some cls => if k.role = 2 ∧ g.tmpl = 0 ∧ off = k.rbobj then some cls else none
      | _, _ => none
    | _, _ => none

/-- BOBJWAIT (R207, R208, spec/24 R360). -/
def execBobjwait (a : Reg) (t : Bool) (s : State) : Res :=
  done (s.withRegs [a.toNat] (s.bobj a.toNat t (fun u l _ pl =>
    match u.waitAborted pl with
    | some cls => u.within [l] (fun v => v.perLane false (fun _ x => .throw x cls 0))
    | none => if u.barrierCount pl = 0 then u.laneDone l t else u.within [l] (fun v => v.holdAll (.bobj pl)))))

/-! ## Rendezvous -/

/-- Whether a thread waits at the TRY of an address and level. -/
def Thread.atTry (t : Thread) (pc : Dword) (k : Nat) : Bool :=
  t.pc == pc && (match t.wait with
    | .tryAt j _ _ => j == k
    | _ => false)
/-- Whether a thread waits at an ENDTRY of the region a TRY opened. -/
def Thread.atEndtry (t : Thread) (r : Region) : Bool :=
  (match t.wait with
   | .endtry _ => true
   | _ => false) && (match t.regions with
    | x :: _ => x.level == r.level && x.tryPc == r.tryPc
    | [] => false)
def Thread.atTend (t : Thread) : Bool :=
  match t.wait with
  | .tend _ => true
  | _ => false

/-- A thread goes on from a TRY whose region opens, from an ENDTRY whose region closes. -/
def Thread.openTry (t : Thread) (k : Nat) (target : Dword) (tack : Bool) : Thread :=
  (({ t with wait := .no, regions := ⟨k, target, t.pc⟩ :: t.regions }).advance 4).tackIf tack
def Thread.closeTry (t : Thread) (tack : Bool) : Thread := (({ t with wait := .no, regions := t.regions.drop 1 }).advance 4).tackIf tack

/-- A waiting thread of a wave whose TRY or ENDTRY rendezvous is complete goes on, with the region opened or closed (R209). -/
def State.meetStep (s : State) (w : Wave) (t : Thread) : Thread :=
  match t.wait with
  | .tryAt k target tack =>
    if s.allLive k w (fun x => x.atTry t.pc k) then t.openTry k target tack else t
  | .endtry tack =>
    match t.regions with
    | r :: _ => if s.allLive r.level w (fun x => x.atEndtry r) then t.closeTry tack else t
    | [] => t
  | _ => t

/-- A lined wave's log of the threads that a rendezvous has let go on (log entry 25). -/
def Wave.logPassed (w : Wave) (new : List Thread) : Wave :=
  if w.lining.isNone then w
  else (w.lanes.filter (fun t => t.wait != .no && new.any (fun u => u.lane == t.lane && u.wait != t.wait))).foldl (fun v t => v.logFor t.lane (.effect t.lane t.pc 0)) w
/-- The threads of a wave that go on from a rendezvous. -/
def Wave.passAll (w : Wave) (f : Thread → Thread) : Wave :=
  let new := w.lanes.map f
  { w.logPassed new with lanes := new }

/-- Every complete rendezvous of TRY and ENDTRY is completed. -/
def State.meet (s : State) : State := { s with waves := s.waves.map (fun w => w.passAll (s.meetStep w)) }

/-- TRY (R209). -/
def execTryOpen (d : BitVec 20) (l : BitVec 3) (t : Bool) (s : State) : Res :=
  done (match s.curWave with
    | none => s
    | some w =>
      let k := s.levelOf w l
      if s.levelBad w k then s.illop
      else ((s.flushFor w.core w.blk).oncePath
        (fun u l _ => u.within [l] (fun v => v.perLane false (fun _ th => .land (th.openTry k (branchTarget th.pc d) t))))
        (fun u => u.perLane t (fun _ th =>
          if 8 ≤ th.regions.length ∨ (th.regions.head?.map (fun r => decide (r.level < k))).getD false then .trap th cILLOP
          else .hold th (.tryAt k (branchTarget th.pc d) t)))).meet)

/-- ENDTRY (R209, R210). -/
def execEndtry (t : Bool) (s : State) : Res :=
  done (match s.curWave with
    | none => s
    | some w => ((s.flushFor w.core w.blk).oncePath
        (fun u l _ => u.within [l] (fun v => v.perLane false (fun _ th => .land (th.closeTry t))))
        (fun u => u.perLane t (fun _ th => if th.regions.isEmpty then .trap th cILLOP else .hold th (.endtry t)))).meet)

/-- Whether every live thread of a block has executed TEND (R222), at least one. -/
def State.tendMet (s : State) (blk : Nat) : Bool :=
  (s.waves.filter (fun w => w.blk == blk)).all (fun w => w.lanes.all (fun t => !t.live || t.atTend)) &&
  (s.waves.filter (fun w => w.blk == blk)).any (fun w => w.lanes.any (fun t => t.live && t.atTend))

/-- The first step of a complete TEND: the core's view is published at .tenant (R222). -/
def State.tendPublish (s : State) (blk : Nat) : State :=
  if s.tendMet blk then
    match s.block? blk with
    | some b => s.publish b.core b.gang 3 (s.recOf blk).hasGang
    | none => s
  else s

/-- TEND (R222): the threads of the block wait for one another, then for TEND_RETIRE. -/
def execTend (t : Bool) (s : State) : Res :=
  done (s.oncePath (fun u l _ => u.lane1 l t) (fun x => x.afterPublish 3 (fun u =>
    let u1 := u.holdAll (.tend t)
    match u1.curWave with
    | some w => u1.tendPublish w.blk
    | none => u1)))

/-! ## EXIT -/

/-- Whether an access outlives its thread: results still outstanding are discarded, stores and atomics complete (R131). -/
def Access.survives (a : Access) : Bool := !a.isLoad && !a.isRefresh

/-- What an exit may complete for others: cross-lane rendezvous, barriers, TRY, ENDTRY and TEND (R117, R203, R209, R222). -/
def State.afterExit (s : State) (w : Wave) : State :=
  let s1 := s.settle w.core w.slot
  let s2 := (List.range (s.waveRec w).l).foldl (fun u k => u.barCheck k w) s1
  (s2.meet).tendPublish w.blk

/-- EXIT (R131): the lanes end. -/
def execExit (_t : Bool) (s : State) : Res :=
  done (match s.curWave with
    | none => s
    | some w =>
      let s1 := s.onThreads s.isCur (fun t => { t with acc := t.acc.filter Access.survives })
      s1.afterPublish 0 (fun u =>
        let u1 := u.onThreads u.isCur (fun t => { t with live := false, marks := [], loops := [], endChk := false })
        let u2 := u1.onCur (fun v => v.seamLeaveAll u.curMask)
        (u2.afterExit w).endWave w.core w.slot))

end Sys2Proof.Machine
end

