-- ==== Sys2Proof/Machine/Except.lean ====
section
/-! DEFINITION. Exceptions that leave a thread: throws, the unwinding of a group, the abort of a launch, debug halts, and the
sub-functions of EXC (spec/10 R209 to R217, spec/15 R274 to R285, spec/21 R307, spec/27 R391). -/

namespace Sys2Proof.Machine

/-! ## Stopping waves -/

/-- The accesses of the waves that satisfy a test performed, as far as they can be. -/
def State.drainWaves (s : State) (p : Wave → Bool) : State :=
  (s.waves.filter p).foldl (fun t w => t.drain w.core w.slot (w.lanes.map (·.lane))) s
/-- Whether none is left. -/
def State.quiet (s : State) (p : Wave → Bool) : Bool := (s.waves.filter p).all (fun w => w.lanes.all (fun t => t.acc.isEmpty))

/-- Whether the comparators of lining look at an access (spec/27 R389). -/
def Access.compared (a : Access) : Bool :=
  match a.kind with
  | .store _ => true
  | .memo op _ _ _ _ _ => op != .ldo
  | _ => false

/-- A comparison that fails at a stop point (spec/27 R392): its store is not performed, and the health ring says so. -/
def State.dropMismatches (s : State) (p : Wave → Bool) : State :=
  (s.waves.filter (fun w => p w && w.lining.isSome)).foldl (fun t w =>
    (w.lanes.filter (fun x => s.inject.elem x.lane && x.acc.any Access.compared)).foldl (fun u x =>
      (({ u with inject := u.inject.erase x.lane }).onLane w.core w.slot x.lane (fun y => { y with acc := dropFirst Access.compared y.acc })).healthEvent
        3 (s.vfOf w.blk) u.comparatorUnit 0 (2 ^ 28 + x.lane * 256 + 1)) t) s

/-- Every live thread of the waves that satisfy a test stopped at its instruction boundary, its arrivals withdrawn (R211, R277). -/
def State.stopWaves (s : State) (p : Wave → Bool) : State :=
  s.onThreads (fun w t => p w && t.live) (fun t => { t with wait := .stopped, due := none, arrived := [] })

/-! ## Lining -/

/-- A lining checkpoint taken where the wave stands (spec/27 R390). What a re-execution has still to use of its log lies behind the checkpoint, too. -/
def Wave.checkpoint (w : Wave) : Wave :=
  { w with lining := w.lining.map (fun l => { l with ckRegs := w.regs, ckLanes := w.lanes, log := l.replay, saved := [], failed := false }) }
/-- A checkpoint where the wave goes on from another place than it stood at: of a log nothing remains (spec/27 R392). -/
def Wave.restart (w : Wave) : Wave := ({ w with lining := w.lining.map (fun l => { l with replay := [] }) } : Wave).checkpoint

/-- A failed MMA's destination put back, its mark cleared (spec/27 R391). -/
def State.restoreMma (s : State) (c : Nat) (gang : Nat) (m : SavedMma) : State :=
  (m.spill.foldl (fun t p => t.writePlace c gang p.1 [p.2]) s).onTile c m.tile (fun x => { x with
    rows := m.rows.foldl (fun r p => insertAt r p.1 p.2) (x.rows.filter (fun p => decide (p.1 < m.lo) || decide (m.hi ≤ p.1)))
    labels := if m.label.isSome ∧ x.labels.getLast? = m.label then x.labels.dropLast else x.labels
    zeroed := if m.zero then x.zeroed else x.zeroed.filter (fun p => p != m.lo / (192 * max 1 x.m))
    untrusted := false })

/-- Whether an entry is the value that a token register took. -/
def LogEntry.isToken (r : Nat) (e : LogEntry) : Bool :=
  match e with
  | .token k _ => k == r
  | _ => false
/-- Whether an entry is of a failed MMA, which a re-execution issues again (spec/27 R391). -/
def SavedMma.redoes (m : SavedMma) (e : LogEntry) : Bool :=
  match e with
  | .effect _ q _ => q == m.pc
  | .token k _ => m.regs.elem k
  | _ => false

/-- RE-EXECUTION from the last checkpoint (spec/27 R391): the wave's registers and lanes as they were, but for tokens, which stay pending
or are written as the engines have written them; a phase that has completed is passed; the log to be used up again, but for what is of a failed MMA; the destination rows
of such MMAs restored. -/
def State.retry (s : State) (c slot : Nat) : State :=
  match (s.wave? c slot).bind (fun w => w.lining) with
  | none => s
  | some l =>
    let log := l.log.filter (fun e => !l.saved.any (fun m => m.redoes e))
    let came := fun (w : Wave) (r : Nat) => l.ckRegs.tok.testBit r && !w.regs.tok.testBit r
    let s1 := s.onWave c slot (fun w => { w with
      regs := { l.ckRegs with
        tok := w.regs.tok
        s := (List.range 63).foldl (fun m r =>
          if came w r then
            match log.find? (LogEntry.isToken r) with
            | some (.token _ v) => setD m 0 r v
            | _ => m
          else m) l.ckRegs.s }
      lanes := l.ckLanes.map (fun t =>
        match t.wait with
        | .barrier k _ => { t.passBarrier s k (s.phaseOf k w) ((s.waveRec w).scopeOf k) with age := 0 }
        | _ => { t with age := 0 })
      lining := some { l with log := log, replay := (List.range 63).foldl (fun e r => if came w r then dropFirst (LogEntry.isToken r) e else e) log, saved := [], failed := false } })
    l.saved.foldl (fun t m => t.restoreMma c (((s.wave? c slot).map (fun w => s.gangId w.blk)).getD 0) m) s1

/-! ## The abort of a launch -/

/-- The completion record of a launch (spec/21 R307), STATUS last; TSTART only where the launch has issued. -/
def State.doneRecord (s : State) (vf : Nat) (done : Dword) (status reason cls : Nat) (code : Word) (xpc : Dword) (tstart : Option Nat) : State :=
  let va := done.toNat
  let s1 := (((s.devPut vf (va + 4) 4 reason).devPut vf (va + 8) 4 cls).devPut vf (va + 12) 4 code.toNat).devPut vf (va + 16) 8 xpc.toNat
  let s2 := match tstart with
    | some n => s1.devPut vf (va + 24) 8 n
    | none => s1
  (s2.devPut vf (va + 32) 8 s.clock.now).devPut vf va 4 status

/-- The views of the cores a launch used published at .system (R276, R307): whether that is complete. -/
def State.closePublish (s : State) (l : Launch) : State × Bool :=
  match l.pubReq with
  | some r => (s, !s.waiting r)
  | none =>
    let s1 := l.used.foldl (fun t c => t.publish c 0 5 true) s
    match s1.sendDirty Issuer.device true (fun _ => true) with
    | (s2, g, _) => if s2.waiting g then (s2.onLaunch l.id (fun x => { x with pubReq := some g }), false) else (s2, true)

/-- The fault records of threads whose waves satisfy a test withdrawn: their threads no longer stop their cores, their slots in the ring are free. -/
def State.dropFaults (s : State) (p : Wave → Bool) : State :=
  let mine := fun (f : FaultStop) => !f.copy.isSome && ((s.wave? f.who.core f.who.slot).map p).getD false
  let gone := (s.cores.flatMap (fun c => c.2.faults)).filter (fun f => mine f && f.recorded)
  { s with
    cores := s.cores.map (fun c => (c.1, { c.2 with faults := c.2.faults.filter (fun f => !mine f) }))
    mon := { s.mon with faultOpen := s.mon.faultOpen.filter (fun x => !gone.any (fun f => f.vf == x.vf && f.record == x.record)) } }

/-- The blocks of a launch freed (R276 step 5): its waves are gone, its registers unmapped, its gangs end with their operations. -/
def State.freeLaunch (s : State) (l : Nat) : State :=
  let mine := s.waves.filter (s.inLaunch l)
  let blks := (s.blocks.map (·.2)).filter (fun b => ((s.gang? b.gang).map (fun g => g.launch == l)).getD false)
  let s1 := mine.foldl (fun t w => t.dropTokens w.core w.slot) (s.dropFaults (s.inLaunch l))
  let s2 := mine.foldl (fun t w =>
    t.onCore w.core (fun k => k.onQueue (s.isZero w.blk) (fun q => if q.holder = some w.slot then { q with holder := none } else q))) s1
  let s3 : State := { s2 with
    waves := s2.waves.filter (fun w => !s.inLaunch l w)
    blocks := s2.blocks.filter (fun b => (s2.gang? b.2.gang).isSome || !s2.images.any (fun p => p.1 == b.2.gang && p.2.gang.launch == l))
    images := s2.images.filter (fun p => p.2.gang.launch != l)
    restarts := s2.restarts.filter (fun p => p.2.gang.launch != l) }
  let s4 := s3.onLaunch l (fun x => { x with live := (s3.gangs.filter (fun g => g.2.launch == l)).length })
  let s5 := blks.foldl (fun t b =>
    ((t.onBlock b.id (fun x => { x with ended := true, o := [], a := [] })).onCore b.core (fun k => { k with
      slots := k.slots.map (fun p => if p.2.blk = b.id then (p.1, { p.2 with mapped := false }) else p)
      tiles := k.tiles.map (fun p => if p.2.blk = b.id then (p.1, { p.2 with mapped := false }) else p) })).tidy b.core) s4
  (((s5.gangs.filter (fun g => g.2.launch == l)).map (·.1)).foldl State.endGang s5).forgetLaunch l

/-- The abort of a launch brought to its end once its threads are quiet (R276 steps 3 to 5). -/
def State.finishAbort (s : State) (l : Nat) : State :=
  match s.launch? l with
  | none => s
  | some x =>
    match x.aborting with
    | none => s
    | some (cls, code, xpc) =>
      if x.status = 4 || !s.quiet (s.inLaunch l) then s
      else
        match s.closePublish x with
        | (s1, false) => s1
        | (s1, true) =>
          let s2 := (s1.abortOwn x 3).doneRecord x.vf x.prog.lrec.done 4 0 cls code xpc x.tstart
          ((s2.onLaunch l (fun y => { y with status := 4 })).freeLaunch l).closeIdle

/-- A LAUNCH ABORTS (R276): its threads stop, its copies are cancelled, its views are published, its record says so. A later throw of the
same launch changes nothing. -/
def State.abortLaunch (s : State) (l cls : Nat) (code : Word) (xpc : Dword) : State :=
  match s.launch? l with
  | none => s
  | some x =>
    if x.aborting.isSome || 2 ≤ x.status then s
    else
      let s1 := (s.onLaunch l (fun y => { y with aborting := some (cls, code, xpc), halted := false })).stopWaves (s.inLaunch l)
      let s2 := s1.cancelCopies (fun o => ((s1.gangOf o.blk).map (fun g => g.launch == l)).getD false)
      let s3 := ((s2.dropMismatches (s.inLaunch l)).drainWaves (s.inLaunch l)).stopWaves (s.inLaunch l)
      (((x.used.foldl (fun t c => t.onCore c (fun k => if k.window.any (fun e => ((s.gangOf e.blk).map (fun g => g.launch == l)).getD false) then
        k.flushWindow else k)) s3)).finishAbort l)

/-! ## Unwinding -/

/-- How far out a thread's region lies on its stack: 0 the innermost, beyond the last for none. -/
def Thread.depthOf (t : Thread) (r : Option Region) : Option Nat :=
  match r with
  | none => some t.regions.length
  | some x => indexOf (fun y => y.level == x.level && y.tryPc == x.tryPc) t.regions

/-- The outermost region, of those that a throw still pending is for, that holds a thread of a wave (R275): the throw out of the launch
(none) takes precedence over every region. -/
def State.outermost (s : State) (w : Wave) (t : Thread) : Option Region :=
  let all := s.waves.flatMap (fun v => v.lanes.filterMap (fun u => if u.thrown?.isSome then some (v, u.regions.head?) else none))
  let here := all.filterMap (fun p =>
    match p.2 with
    | none => if (s.gangOf p.1.blk).map (fun g => g.launch) == (s.gangOf w.blk).map (fun g => g.launch) then some (none, t.regions.length) else none
    | some r => if s.sameGroup r.level w p.1 then (t.depthOf (some r)).map (fun d => (some r, d)) else none)
  (here.foldl (fun (acc : Option Region × Nat) p => if acc.2 < p.2 then p else acc) (t.regions.head?, 0)).1

/-- The regions outside one that is popped with every region inside it. -/
def outsideOf (r : Region) : List Region → List Region
  | [] => []
  | x :: rest => if x.level = r.level ∧ x.tryPc = r.tryPc then rest else outsideOf r rest
/-- The catch target of a member. -/
def catchOf (r : Region) (l : List Region) : Dword :=
  match l.find? (fun x => x.level == r.level && x.tryPc == r.tryPc) with
  | some x => x.catchPc
  | none => r.catchPc

/-- A MEMBER IS STEERED TO THE CATCH (R211 step 5). -/
def Thread.steer (t : Thread) (r : Region) : Thread :=
  if !t.live then t
  else { t with pc := clearBit0 (catchOf r t.regions), regions := outsideOf r t.regions, loops := [], suspended := [], handler := false,
                hsilent := false, endChk := false, wait := .no, arrived := [], due := none, marks := [], age := 0 }

/-- The record of R212 for a wave. -/
def xrecord (lead : Throw) (leadIx count mask k : Nat) : XRecord :=
  { code := lead.code, count := BitVec.ofNat 32 count, mask := BitVec.ofNat 32 mask, lead := BitVec.ofNat 32 leadIx, pc := lead.xpc,
    level := BitVec.ofNat 32 k, cls := BitVec.ofNat 32 lead.cls }

/-- The members of a group among the waves of saved images, by the space of their groups, changed. -/
def State.onSaved (s : State) (p : (Nat × Nat) → Wave → Bool) (f : Wave → Wave) : State :=
  { s with images := s.images.map (fun e => (e.1, { e.2 with blocks := e.2.blocks.map (fun b =>
      { b with waves := b.waves.map (fun w => if p e.2.gang.space w then f w else w) }) })) }

/-- What a thread has thrown, or is to throw at its next boundary: its own publish's, or its copy's (spec/18 R295). -/
def Thread.throwing? (t : Thread) : Option Throw :=
  match t.thrown?, t.due with
  | some x, _ => some x
  | none, some d => if t.live ∧ d.throw.cls ≠ 10 then some d.throw else none
  | none, none => none

/-- THE UNWINDING OF A GROUP (R211, R212): the throws of the first cycle are merged, with those of the same issued instructions (spec/18 R295), every member stops with its accesses performed, its
copies are cancelled and the tiles of its operations that had not completed when it stopped are untrusted (spec/09 R174), its barriers restart,
the record is written, and each member stands at the catch; one in a saved image is to go on from there when it resumes (log entry 77). -/
def State.unwind (s : State) (w : Wave) (r : Region) : State :=
  let k := r.level
  let inG := fun (v : Wave) => s.sameGroup k w v
  let issued := fun (i : Issuer) => ((s.issuing? i).map (fun v => inG v && v.lanes.any (fun t => t.live && t.lane == i.lane))).getD false
  let marked := fun (t : State) => { t with cores := t.cores.map (fun p =>
    (p.1, (p.2.onMatOps (fun o => if issued o.who then { o with untrust := true } else o)))) }
  let lr := s.waveRec w
  let ix := fun (v : Wave) (l : Nat) => 32 * (v.wlin % max 1 (lr.wavesIn k)) + l
  let s1 := (s.dropMismatches inG).drainWaves inG
  let throwers := (s1.waves.filter inG).flatMap (fun v => v.lanes.filterMap (fun t =>
    match t.throwing? with
    | some x => if (t.regions.head?.map (fun y => y.level == r.level && y.tryPc == r.tryPc)).getD false then some (v, t.lane, x) else none
    | none => none))
  match throwers with
  | [] => s
  | first :: _ =>
    let c0 := ((throwers.filter (fun p => ((p.1.lane? p.2.1).bind (fun t => t.thrown?)).isSome)).map (fun p => p.2.2.cyc)).min?.getD first.2.2.cyc
    let merged := throwers.filter (fun p => p.2.2.cyc == c0 ||
      throwers.any (fun q => q.2.2.cyc == c0 && q.1.isAt p.1.core p.1.slot && q.2.2.step == p.2.2.step))
    let lead := merged.foldl (fun a p => if ix p.1 p.2.1 < ix a.1 a.2.1 then p else a) (merged.headD first)
    if !s1.quiet inG then
      marked (s1.onThreads (fun v t => inG v && t.live && t.thrown?.isNone) (fun t => { t with wait := .stopped, arrived := [] }))
    else
      let s2 := s1.cancelCopies (fun o => issued o.who)
      let s3 := marked s2
      let enter := fun (mask : Nat) (v : Wave) =>
        ({ v with
          regs := { v.regs with x := xrecord lead.2.2 (ix lead.1 lead.2.1) merged.length mask k, seamE := [], seamW := [] }
          lanes := v.lanes.map (fun t => t.steer r) } : Wave).restart
      let s4 := State.onSaved { s3 with waves := s3.waves.map (fun v =>
        if !inG v then v else enter (maskOf 32 (fun l => merged.any (fun p => p.1.isAt v.core v.slot && p.2.1 == l))) v) }
        (fun sp v => some sp == s.space? w && lr.groupOf k v.wlin == lr.groupOf k w.wlin) (enter 0)
      (s.waves.filter inG).foldl (fun t v =>
        ((t.flushFor v.core v.blk).refresh v.core (lr.scopeOf k) lr.hasGang)) s4

/-- COLLECTIVE_UNWIND (R211, R274 to R276): what a thrown thread's throw does, or, where an enclosing throw is pending, what that one does.
Of several throws out of a
launch, which is reported is not promised. A fault stop of a core of the group is waited for (R281). -/
def execCollectiveUnwind (c sl ln : Nat) (s : State) : Res :=
  done (match s.wave? c sl with
    | none => s
    | some w =>
      match w.lane? ln with
      | none => s
      | some t =>
        match t.thrown? with
        | none => s
        | some x =>
          match s.outermost w t with
          | none =>
            match s.gangOf w.blk with
            | some g =>
              let own := (s.waves.filter (s.inLaunch g.launch)).flatMap (fun v => v.lanes.filterMap (fun u =>
                if u.regions.isEmpty then u.thrown? else none))
              let y := (own[Config.freeNat s.free 6500000 % max 1 own.length]?).getD x
              s.abortLaunch g.launch y.cls y.code y.xpc
            | none => s
          | some r =>
            if (s.waves.filter (s.sameGroup r.level w)).any (fun v => !(s.core v.core).faults.isEmpty) then s else s.unwind w r)

/-! ## Debug halts -/

/-- A stop requested in every thread of gangs that satisfy a test (spec/12 R248, spec/23 R341): their rewrite windows flush. A second
request for a gang changes nothing (R343). -/
def State.requestStop (s : State) (p : Gang → Bool) : State :=
  let hit := (s.gangs.filter (fun g => p g.2)).map (·.1)
  let s1 : State := { s with gangs := s.gangs.map (fun g => if p g.2 && !g.2.stop then (g.1, { g.2 with stop := true, stopAt := s.clock.wall }) else g) }
  (s.blocks.filter (fun b => hit.elem b.2.gang)).foldl (fun t b => t.flushFor b.2.core b.1) s1

/-- The partitions a gang runs on. -/
def State.gangParts (s : State) (g : Nat) : List Nat :=
  ((s.blocksOf g).flatMap (fun b => (s.partitions.filter (fun p => p.2.nbh.elem ((b.away.map (fun e => e / 4)).getD b.core / 4))).map (fun p => p.1))).eraseDups
/-- Step 1 of R341: the launches of some gangs are no longer placed on the partitions of those. -/
def State.hold (s : State) (p : Gang → Bool) : State :=
  { s with launches := s.launches.map (fun l =>
      (l.1, { l.2 with held := (l.2.held ++ (s.gangs.filter (fun g => g.2.launch == l.1 && p g.2)).flatMap (fun g => s.gangParts g.1)).eraseDups })) }
/-- The gangs a request against a list names: with co-residency, every gang of their launches (spec/21 R305). -/
def State.named? (s : State) (gs : List Nat) (g : Gang) : Bool :=
  gs.elem g.id ||
  (((s.launch? g.launch).map (fun l => l.prog.lrec.cores)).getD false && s.gangs.any (fun p => gs.elem p.1 && p.2.launch == g.launch))
/-- Steps 1 and 2 of R341: the launches are no longer placed there, a stop is requested. A second request merges into the first, and a basting
checkpoint becomes a save (R343). -/
def State.preempt (s : State) (gs : List Nat) : State :=
  let s1 := s.hold (s.named? gs)
  ({ s1 with gangs := s1.gangs.map (fun p => if s.named? gs p.2 then (p.1, { p.2 with baste := false }) else p) } : State).requestStop (s.named? gs)

/-! ## The sub-functions of EXC -/

/-- THROW (R210). -/
def execThrowG (a : Reg) (t : Bool) (s : State) : Res := done (s.lanes [a.toNat] t (fun _ th => .throw th 1 (th.g? s a.toNat)))

/-- THROWI (R210). -/
def execThrowi (c : BitVec 7) (t : Bool) (s : State) : Res := done (s.perLane t (fun _ th => .throw th 1 (c.setWidth 32)))

/-- RETHROW (R210): the class, the code and the address of the wave's exception record. -/
def execRethrow (t : Bool) (s : State) : Res :=
  done (s.perLane t (fun w th => .rethrow th (w.regs.x.cls.toNat % 256) w.regs.x.code w.regs.x.pc))

/-- TRAP (R215). -/
def execTrap (c : BitVec 7) (t : Bool) (s : State) : Res :=
  done (s.perLane t (fun _ th => .trapAfter th (11#32 + (c.setWidth 32 <<< 8))))

/-- URET (R216, spec/15 R285). -/
def execUret (t : Bool) (s : State) : Res :=
  done (s.perLane t (fun _ th => if !th.handler || th.hsilent then .trap th cILLOP else .land (th.uret s)))

/-- The thread after a URETRY in a wave that is not lined, which has no checkpoint: the handler state cleared, the levels abandoned, the
place it goes on from undefined (log entry 22). -/
def Thread.unlinedRetry (s : State) (t : Thread) : Thread :=
  { t with handler := false, hsilent := false, loops := [], suspended := [], endChk := false,
           pc := clearBit0 (s.freeWord (t.lane * 4096 + 3002) ++ s.freeWord (t.lane * 4096 + 3003)) }

/-- URETRY (R216, spec/27 R391). -/
def execUretry (t : Bool) (s : State) : Res :=
  let legal := fun (th : Thread) =>
    th.handler && (if th.marks.elem (markSpecial 0x062) then th.undefined s 3004 else th.ucause).toNat % 256 == 10
  done (match s.curWave with
    | none => s
    | some w =>
      let s1 := s.perLane t (fun w th => if !legal th then .trap th cILLOP else if w.lining.isSome then .hold th th.wait else .land (th.unlinedRetry s))
      if w.lining.isSome && w.lanes.any (fun th => s.cur.lanes.elem th.lane && legal th) then s1.retry w.core w.slot else s1)

/-- BRK (R217, spec/23 R344): a debug halt of the launch where its record enables it, a pre-emption of all its gangs, those saved already halted too, in
which the thread stands after the BRK; else nothing. -/
def execBrk (t : Bool) (s : State) : Res :=
  done (match s.curWave with
    | none => s
    | some w =>
      let s1 := s.perLane t (fun _ th => .next th)
      if (s.waveRec w).debug then
        match s.gangOf w.blk with
        | some g =>
          let s2 := s1.onThreads s1.isCur (fun x => { x with wait := .stopped, marks := [] })
          let s3 : State := { s2 with images := s2.images.map (fun p => if p.2.gang.launch = g.launch then (p.1, { p.2 with halt := true }) else p) }
          ((s3.onLaunch g.launch (fun l => { l with halted := true })).preempt ((s3.gangs.filter (fun k => k.2.launch == g.launch)).map (fun k => k.1))).flushFor
            w.core w.blk
        | none => s1
      else s1)

/-- The notch a thread stands at (spec/12 R248). -/
def State.atNotch (s : State) (w : Wave) (t : Thread) : Option Notch :=
  (s.progOf w.blk).bind (fun p => p.notches.find? (fun n => n.addr == t.pc.toNat))

/-- Whether a wait leaves a thread before an instruction that it has not issued, or has issued without effect (spec/13 R263): ready, or
stalled. -/
def Wait.before : Wait → Bool
  | .no | .drain | .lining | .token _ | .queue _ | .window | .thimble _ | .claim | .aclaim _ | .bobj _ | .epush _ => true
  | _ => false

/-- NOTCH_PARK (spec/12 R248, spec/11 R236): a thread that stands at a notch with no result outstanding, ready or stalled before the notched
instruction, parks there while a stop is requested. -/
def execNotchPark (c sl ln : Nat) (s : State) : Res :=
  done (match s.wave? c sl with
    | none => s
    | some w =>
      match w.lane? ln with
      | none => s
      | some t =>
        if ((s.gangOf w.blk).map (fun g => g.stop)).getD false && t.live && !t.endChk && t.wait.before && (s.atNotch w t).isSome then
          if t.outstanding then s
          else (s.onLane c sl ln (fun x => { x with wait := .notch, marks := [] })).flushFor c w.blk
        else s)

end Sys2Proof.Machine
end

