-- ==== Sys2Proof/Machine/Sched.lean ====
section
/-! DEFINITION. Which threads are ready, and how a panel chooses and swaps its waves (spec/13 R263 to R267, spec/21 R317, R319). -/

namespace Sys2Proof.Machine

/-! ## Readiness -/

/-- Whether a path may enter an operation into the window or, for class 0, its queue (spec/09 R169, spec/11 R229), with some entries that rules may add to it: a
window of 16 entries gives its oldest to a queue that has room. -/
def State.windowRoom (s : State) (c blk more : Nat) : Bool :=
  let k := s.core c
  if s.isZero blk then decide (k.mq0.ops.length < 32)
  else decide (k.window.length + k.mq.ops.length + more < 48) && (decide (k.window.length < 16) || decide (k.mq.ops.length < 32))
/-- How many entries the rules of a block may add to one that arrives: each of four applications one, where a rule emits more entries than it matches (spec/11 R230). -/
def State.rulesAdd (s : State) (blk : Nat) : Nat :=
  if ((s.progOf blk).map (fun p => p.rules.any (fun r => decide ((r.getD 0 0).toNat < (r.getD 1 0).toNat)))).getD false then 4 else 0

/-- Whether a fence of a block may enter the matrix queue of a core, behind the entries of the block's window, which it flushes (spec/09 R169,
R180). -/
def State.fenceRoom (s : State) (c blk : Nat) : Bool :=
  let k := s.core c
  decide ((s.queueOf c blk).ops.length + (if k.window.any (fun e => e.blk == blk) then k.window.length else 0) < 32)

/-- Whether a lining checkpoint can be taken in a wave: every comparison so far has matched, that is, none has failed and nothing is unperformed, and every
matrix operation it issued has completed (spec/27 R390). -/
def State.canCheckpoint (s : State) (w : Wave) : Bool :=
  w.lanes.all (fun t => t.acc.isEmpty) && (w.lining.map (fun l => !l.failed)).getD true && (s.core w.core).matOps.all (fun o => !o.who.ofWave w.core w.slot)

/-- Whether a word is an ENG or MTX instruction (spec/03 R52). -/
def isEngineWord (bs : List Byte) : Bool :=
  match bs with
  | [b0, _, _, _] => b0.toNat / 4 == 49 || b0.toNat / 4 == 50
  | _ => false
/-- Whether the instruction a path stands at is an ENG or MTX one. -/
def State.engineAt (s : State) (w : Wave) (pc : Dword) : Bool :=
  match s.fetchBytes w.core w.blk pc with
  | (.ok _ _, bs) => isEngineWord bs
  | _ => false

/-- Whether a thread of a lined wave may issue, as far as its checkpoints and its log let it (spec/27 R390): at an ENG or MTX instruction, at a notch and
with a full log not before a checkpoint is taken; once a comparison has failed none can be, and at a notch, or in the handler of its SILENT trap, the thread goes on
without (log entry 25). -/
def State.linedGoes (s : State) (w : Wave) (t : Thread) (engine notch : Bool) : Bool :=
  match w.lining with
  | none => true
  | some l =>
    let full := decide (256 ≤ l.log.length)
    if !engine && l.failed then t.hsilent || !full else !(engine || notch || full) || s.canCheckpoint w

/-- Whether what a thread waits for at the place where it stands has come: it then issues its instruction again, or for the first time. -/
def State.waitOver (s : State) (w : Wave) (t : Thread) : Bool :=
  match t.wait with
  | .no => true
  | .drain => w.lanes.all (fun u => u.wait != .drain || u.pc != t.pc || u.acc.isEmpty)
  | .lining => s.linedGoes w t (s.engineAt w t.pc) (s.atNotch w t).isSome
  | .token m => w.regs.tok &&& m == 0
  | .queue 5 => s.fenceRoom w.core w.blk
  | .queue q => ((s.block? w.blk).bind (fun b => b.queues[q]?)).map (fun l => decide (l.length < 32)) == some true
  | .window => s.windowRoom w.core w.blk (s.rulesAdd w.blk)
  | .thimble _ => (s.queueOf w.core w.blk).holder == some w.slot
  | .claim => decide (0 < s.slotsFor w.core w.blk)
  | .aclaim r => decide (r ≤ s.rowsFor w.core w.blk)
  | .sleep u _ false => decide (u ≤ s.clockOf w.core)
  | .epush (.phys pa) => decide (0 < s.homeNat (pa + 16) 4)
  | .epush (.pad b off) => decide (0 < leNat (s.padBytes b (off + 16) 4))
  | .bobj pl => s.barrierCount pl == 0 || (s.waitAborted pl).isSome
  | _ => false

/-- Whether a stop is requested in the threads of a wave (spec/12 R248). -/
def State.stopped (s : State) (w : Wave) : Bool := ((s.gangOf w.blk).map (fun g => g.stop)).getD false

/-- Whether a wave's core issues: powered, and not stopped by a fault (spec/15 R281). -/
def State.coreRuns (s : State) (c : Nat) : Bool := (s.core c).powered && (s.core c).faults.isEmpty

/-- Whether no thread of the gang of a wave issues: it is being rolled back (spec/27 R395), or all of it has stopped (spec/23 R343). -/
def State.rolls (s : State) (w : Wave) : Bool := ((s.gangOf w.blk).map (fun g => g.rolling || g.still)).getD false

/-- The REASON of the waiting state that an instruction leaves its threads in, of those that R263 lists (spec/28 R409). -/
def waitReason (i : Instr) : Option Nat :=
  match i with
  | .seamWait .. => some 5
  | .bar .. | .barwait .. => some 6
  | .tryOpen .. | .endtry .. | .tend .. | .bobjwait .. => some 7
  | .epush .. => some 8
  | .claim .. | .aclaim .. => some 9
  | _ => none
/-- That of the instruction a thread stands at. -/
def State.reasonAt (s : State) (w : Wave) (t : Thread) : Option Nat :=
  match s.fetchBytes w.core w.blk t.pc with
  | (.ok _ _, bs) =>
    match decode bs with
    | .ok (i, _) => waitReason i
    | .error _ => none
  | _ => none

/-- Whether a thread is in none of the waiting states that R263 lists: it waits for nothing, or only before an instruction that the model lets wait for what
the device orders without a wait of the thread (log entries 8, 51); with a full log of its lined wave it is not ready (spec/27 R390). -/
def State.runnable (s : State) (w : Wave) (t : Thread) : Bool :=
  s.waitOver w t || match t.wait with
    | .drain => (s.reasonAt w t).isNone
    | .lining => (w.lining.map (fun l => decide (l.log.length < 256))).getD true
    | _ => false

/-- A ready thread (R263); one that has an end check to do stands where that leaves it (spec/07 R133). -/
def State.ready (s : State) (w : Wave) (t : Thread) : Bool :=
  t.live && s.runnable w t && s.coreRuns w.core && !s.rolls w && !(s.stopped w && (s.atNotch w t.endCheck).isSome)

/-- The ready lanes of a wave, each where it stands. -/
def State.readyLanes (s : State) (w : Wave) : List Thread := (w.lanes.filter (s.ready w)).map Thread.endCheck
/-- Whether the instruction a lane of some stands at can issue now. -/
def State.canIssue (s : State) (w : Wave) (ls : List Nat) : Bool := w.lanes.any (fun t => ls.elem t.lane && s.ready w t && s.waitOver w t)

/-- A path (R263): ready threads with one program counter. -/
structure Path where
  pc : Dword
  lanes : List Nat
  deriving DecidableEq, Repr

/-- The paths of a list of threads, each with its lanes in order; the threads are given in lane order. -/
def pathsOf : List Thread → List Path
  | [] => []
  | t :: rest =>
    let ps := pathsOf rest
    if ps.any (fun p => p.pc == t.pc) then ps.map (fun p => if p.pc = t.pc then { p with lanes := t.lane :: p.lanes } else p)
    else ⟨t.pc, [t.lane]⟩ :: ps

/-- Whether a path comes before another: the greater population, then the lowest lane (R264). -/
def Path.before (p q : Path) : Bool :=
  decide (q.lanes.length < p.lanes.length) || (p.lanes.length == q.lanes.length && decide (p.lanes.headD 32 < q.lanes.headD 32))

/-- The first of a list of paths in that order. -/
def firstPath : List Path → Option Path
  | [] => none
  | p :: rest =>
    match firstPath rest with
    | none => some p
    | some q => if p.before q then some p else some q

/-- The two paths a panel takes of a wave (R264), one of them that of a given lane where one is forced (R265). -/
def twoPaths (ps : List Path) (forced : Option Nat) : List Path :=
  let one := match forced.bind (fun l => ps.find? (fun p => p.lanes.elem l)) with
    | some p => some p
    | none => firstPath ps
  match one with
  | none => []
  | some p =>
    match firstPath (ps.filter (fun q => q.pc != p.pc)) with
    | none => [p]
    | some q => [p, q]

/-! ## Panels -/

/-- The waves of a panel. -/
def State.panelWaves (s : State) (c pn : Nat) : List Wave := s.waves.filter (fun w => w.core == c && w.slot / 32 == pn)
/-- The active slots a wave counts for: two with its lining wave (R319). -/
def Wave.slots (w : Wave) : Nat := if w.lining.isSome then 2 else 1
/-- Active slots in use. -/
def State.activeCount (s : State) (c pn : Nat) : Nat := ((s.panelWaves c pn).filter (fun w => w.active)).map Wave.slots |>.sum

/-- Whether a wave holds a forced thread (R265). -/
def State.hasForced (s : State) (w : Wave) : Bool := w.lanes.any (fun t => s.ready w t && decide (64 ≤ t.age))
def State.hasReady (s : State) (w : Wave) : Bool := w.lanes.any (s.ready w)

/-- The end checks of the lanes of a panel (spec/07 R133). -/
def State.endChecks (s : State) (c pn : Nat) : State :=
  { s with waves := s.waves.map (fun w => if w.core = c ∧ w.slot / 32 = pn then { w with lanes := w.lanes.map Thread.endCheck } else w) }

/-- A wave made active, or pending from now on. -/
def State.activate (s : State) (w : Wave) : State := s.onWave w.core w.slot (fun v => { v with active := true, owed := false })
def State.displace (s : State) (w : Wave) : State := s.onWave w.core w.slot (fun v => { v with active := false, pendSince := s.free })

/-- The least of a list of waves by a key, the first among equals. -/
def leastBy (f : Wave → Nat) : List Wave → Option Wave
  | [] => none
  | w :: rest =>
    match leastBy f rest with
    | none => some w
    | some v => if f w ≤ f v then some w else some v

/-- How long a wave has been pending, the first among those that have as long. -/
def Wave.pendKey (w : Wave) : Nat := w.pendSince * 32 + w.slot % 32

/-- The pending wave that comes in: the longest pending with a ready thread; else, where that is asked, the longest pending (R319). A slot
that empties goes first to a class-0 wave that was placed in a reserved slot and has waited for one since (R317). -/
def State.nextPending (s : State) (c pn : Nat) (any : Bool) : Option Wave :=
  let pend := (s.panelWaves c pn).filter (fun w => !w.active)
  match (if any then leastBy Wave.pendKey (pend.filter (fun w => w.owed)) else none) with
  | some w => some w
  | none =>
    match leastBy Wave.pendKey (pend.filter s.hasReady) with
    | some w => some w
    | none => if any then leastBy Wave.pendKey pend else none

/-- Active waves that may go displaced until there is room for some slots, in order of preference: no forced thread, then no ready thread (R265, R317), then, among
equals, for which the spec gives no order, the lowest slot (log entry 1). -/
def State.makeRoom (s : State) (c pn need : Nat) (may : State → Wave → Bool) : Nat → State
  | 0 => s
  | fuel + 1 =>
    if s.activeCount c pn + need ≤ 8 then s
    else
      let cand := (s.panelWaves c pn).filter (fun w => w.active && may s w)
      match leastBy (fun w => (if s.hasForced w then 2 ^ 20 else 0) + (if s.hasReady w then 2 ^ 10 else 0) + w.slot % 32) cand with
      | none => s
      | some w => State.makeRoom (s.displace w) c pn need may fuel

/-- A pending wave that holds a forced thread swaps into an active slot; waves that hold one themselves keep theirs (R265). -/
def State.bringIn (s : State) (w : Wave) : State :=
  let s1 := s.makeRoom w.core (w.slot / 32) w.slots (fun t v => !t.hasForced v) 8
  if s1.activeCount w.core (w.slot / 32) + w.slots ≤ 8 then s1.activate w else s

/-- The forced thread of a panel that goes first: the oldest, then the lower slot, then the lower lane (R265). One in a pending wave that
cannot come in, since every active wave holds a forced thread, is left until one can. -/
def State.forced (s : State) (c pn : Nat) : Option (Wave × Thread) :=
  let all := ((s.panelWaves c pn).filter (fun w => w.active || ((s.bringIn w).wave? c w.slot).any (fun v => v.active))).flatMap (fun w => (w.lanes.filter (fun t => s.ready w t && decide (64 ≤ t.age))).map (fun t => (w, t)))
  all.foldl (fun acc p =>
    match acc with
    | none => some p
    | some q =>
      if q.2.age < p.2.age ∨ (q.2.age = p.2.age ∧ (p.1.slot < q.1.slot ∨ (p.1.slot = q.1.slot ∧ p.2.lane < q.2.lane))) then some p else some q) none

/-- The forced thread's wave, where it is pending, swaps into an active slot (R265). -/
def State.forceIn (s : State) (c pn : Nat) : State :=
  match s.forced c pn with
  | none => s
  | some (w, _) => if w.active then s else s.bringIn w

/-- AGE_FORCE (R265): the forced thread's wave comes in. Its path is taken at the panel's next issue opportunity. -/
def execAgeForce (c pn : Nat) (s : State) : Res := done (s.forceIn c pn)

/-- Whether a thread of a wave waits on a load, an atomic, a token or a sleep (R266). -/
def State.waitsLong (s : State) (w : Wave) (t : Thread) : Bool :=
  match t.wait with
  | .tack => t.outstanding
  | .token m => w.regs.tok &&& m != 0
  | .sleep u _ parked => if parked then t.outstanding else decide (s.clockOf w.core < u)
  | _ => false

/-- A swap of two waves of a panel (R266); one that counts for two slots also takes that of another wave with no ready thread (R319). Where
there is none, nothing. -/
def State.swapWaves (s : State) (a p : Wave) : State :=
  let s1 := (s.displace a).makeRoom a.core (a.slot / 32) p.slots (fun t v => !t.hasReady v) 8
  if s1.activeCount a.core (a.slot / 32) + p.slots ≤ 8 then s1.activate p else s

/-- WAVE_SWAP (R266): an active wave whose live threads all wait long, or, where no active wave has a ready thread, the lowest such one,
gives way to the longest pending wave with a ready thread. -/
def execWaveSwap (c act pend : Nat) (s : State) : Res :=
  done (match s.wave? c act, s.nextPending c (act / 32) false with
    | some a, some p =>
      let idle := (s.panelWaves c (act / 32)).filter (fun w => w.active)
      let allIdle := idle.all (fun w => !s.hasReady w)
      let lowest := (leastBy (fun w => w.slot) idle).map (fun w => w.slot) == some act
      if a.active && p.slot == pend && ((a.live != 0 && a.lanes.all (fun t => !t.live || s.waitsLong a t)) || (allIdle && lowest)) then s.swapWaves a p
      else s
    | _, _ => s)

/-- A pending wave takes an emptied active slot (R319). -/
def State.promote (s : State) (c pn : Nat) : State :=
  match s.nextPending c pn true with
  | none => s
  | some w => if s.activeCount c pn + w.slots ≤ 8 then s.activate w else s
/-- Every emptied active slot of a panel taken. -/
def State.promoteAll (s : State) (c pn : Nat) : Nat → State
  | 0 => s
  | fuel + 1 => State.promoteAll (s.promote c pn) c pn fuel

/-- Whether a panel has nothing to issue: no active wave holds a ready thread. -/
def State.idle (s : State) (c pn : Nat) : Bool := (s.panelWaves c pn).all (fun w => !(w.active && s.hasReady w))

/-- PENDING_PROMOTE (R319): a pending wave takes an emptied active slot of a panel that has nothing to issue; while it has, its next issue opportunity is
where that happens (log entry 1). -/
def execPendingPromote (c pn : Nat) (s : State) : Res := done (if s.idle c pn then s.promote c pn else s)

/-- Ages at an issue opportunity of a panel (R265): of the threads of the path in `cur`, of a wave `w`, those that went are young; any other thread of the
panel that was ready before is older by one, once for the two paths of the opportunity. `t` is the state after the path. -/
def State.ageAfter (s : State) (w : Wave) (went : List Nat) (t : State) : State :=
  let c := s.cur.core
  let pn := s.cur.slot / 32
  let was := if s.cur.counted then [] else (s.panelWaves c pn).flatMap (fun v => (s.readyLanes v).map (fun x => (v.slot, x.lane)))
  { t with
    cur := { t.cur with counted := true }
    waves := t.waves.map (fun v =>
      if v.core = c ∧ v.slot / 32 = pn then
        { v with lanes := v.lanes.map (fun x =>
          if v.slot = s.cur.slot ∧ v.blk = w.blk ∧ went.elem x.lane then { x with age := 0 }
          else if was.elem (v.slot, x.lane) then { x with age := x.age + 1 } else x) }
      else v) }
/-- A thread that has stopped being ready is young again (R265). -/
def State.settleAges (s : State) : State :=
  { s with waves := s.waves.map (fun w => { w with lanes := w.lanes.map (fun t =>
      if t.age ≠ 0 ∧ s.ready w t = false then { t with age := 0 } else t) }) }

end Sys2Proof.Machine
end

