-- ==== Sys2Proof/Machine/System.lean ====
section
/-! DEFINITION. The special registers and MISC (spec/10 R225 to R227, spec/01 R22 to R26), with the sample ring that PMARK writes
(spec/28 R410, R411). -/

namespace Sys2Proof.Machine

/-! ## Special registers -/

/-- The value of a special register for a thread (R22), 64 bits wide where the register is; none for a number the map does not hold. A
per-wave register that an SWR has changed reads old or new until the SWR's result has returned (spec/04 R71). -/
def State.special (s : State) (w : Wave) (t : Thread) (n : Nat) : Option Dword :=
  let r := s.waveRec w
  let x := w.regs.x
  let q := w.regs.silent
  let z := fun (v : Word) => some (v.setWidth 64 : Dword)
  let k := fun (v : Nat) => some (BitVec.ofNat 64 v : Dword)
  if n = 0x000 then k t.lane
  else if n = 0x001 then k (w.wave * 32 + t.lane)
  else if n = 0x002 then k w.wave
  else if n = 0x003 then k (if r.hasGang then ((s.block? w.blk).map (fun b => b.index)).getD 0 else 0)
  else if n = 0x004 then k (r.groupOf r.gangLevel w.wlin)
  else if n = 0x005 then k w.core
  else if n = 0x006 then k (w.slot / 32)
  else if n = 0x007 then k w.live
  else if n = 0x008 then k r.l
  else if n = 0x009 then k (((s.block? w.blk).map (fun b => b.sbase)).getD 0)
  else if 0x010 ≤ n ∧ n ≤ 0x017 then k (r.grp (n - 0x010) w.wlin)
  else if 0x018 ≤ n ∧ n ≤ 0x01F then k (r.gsz (n - 0x018))
  else if n = 0x040 then z x.code
  else if n = 0x041 then z x.count
  else if n = 0x042 then z x.mask
  else if n = 0x043 then z x.lead
  else if n = 0x044 then some x.pc
  else if n = 0x045 then z x.level
  else if n = 0x046 then z x.cls
  else if n = 0x050 then z q.syn
  else if n = 0x051 then z q.unit
  else if n = 0x052 then z q.tilerow
  else if n = 0x053 then z q.tilecol
  else if n = 0x054 then z q.tilek
  else if n = 0x060 then some (w.regs.utvec? s)
  else if n = 0x061 then some t.uepc
  else if n = 0x062 then z t.ucause
  else if n = 0x070 then z t.iflags
  else if n = 0x071 then z (w.regs.itrap? s)
  else if n = 0x072 then z t.fflags
  else if n = 0x073 then z (w.regs.ftrap? s)
  else if n = 0x074 then z (w.regs.frnd? s)
  else if n = 0x075 then z (w.regs.f8fmt? s)
  else if n = 0x080 then z w.regs.tailrule
  else if 0x090 ≤ n ∧ n ≤ 0x092 then z (getD t.lc 0 (n - 0x090))
  else none

/-- Whether a special register has 64 bits (R22). -/
def wideSpecial (n : Nat) : Bool := n == 0x009 || n == 0x044 || n == 0x060 || n == 0x061

/-- SRD of a register that differs between a wave and its re-execution elsewhere, $core, $panel, $sbase: its value goes through the log
(spec/27 R389). -/
def readOutside (d n : Nat) (t : Bool) (s : State) : State :=
  s.withRegs (if wideSpecial n then [d, d + 1] else [d]) (s.cur.lanes.foldl (fun u l =>
    match s.curWave, s.lane? s.cur.core s.cur.slot l with
    | some w, some th =>
      match s.special w th n with
      | some v =>
        let (u1, x) := u.outside l v
        u1.within [l] (fun k => k.perLane t (fun _ y => .next (if wideSpecial n then y.setPair s d x else y.setG s d (x.setWidth 32))))
      | none => u
    | _, _ => u) s)

/-- SRD (R225). -/
def execSrd (d : Reg) (r : BitVec 10) (t : Bool) (s : State) : Res :=
  let n := r.toNat
  done (if n = 0x005 ∨ n = 0x006 ∨ n = 0x009 then readOutside d.toNat n t s
    else s.lanes (if wideSpecial n then [d.toNat, d.toNat + 1] else [d.toNat]) t (fun w th =>
      match s.special w th n with
      | none => .trap th cILLOP
      | some v0 =>
        let v : Dword := if th.specialPending n then th.undefined s (3100 + 2 * (n % 256)) ++ th.undefined s (3101 + 2 * (n % 256)) else v0
        .next (if wideSpecial n then th.setPair s d.toNat v else th.setG s d.toNat (v.setWidth 32))))

/-- Whether an SWR writes the register in each lane (R22, R26). -/
def laneSpecial (n : Nat) : Bool := n == 0x061 || n == 0x062 || n == 0x070 || n == 0x072 || (decide (0x090 ≤ n) && decide (n ≤ 0x092))
/-- Whether an SWR writes the register of the wave. -/
def waveSpecial (n : Nat) : Bool := n == 0x060 || n == 0x071 || n == 0x073 || n == 0x074 || n == 0x075

/-- A per-thread register written (R22, R23, R24): bits that the maps do not list stay 0. With another write outstanding it becomes undefined
(spec/02 R39). -/
def Thread.setSpecial (s : State) (t : Thread) (n : Nat) (v0 : Dword) : Thread :=
  let v : Dword := if t.specialPending n then t.undefined s (3300 + n) ++ t.undefined s (3300 + 512 + n) else v0
  let w : Word := v.setWidth 32
  let t1 : Thread :=
    if n = 0x061 then { t with uepc := clearBit0 v }
    else if n = 0x062 then { t with ucause := w &&& 0x7FFF#32 }
    else if n = 0x070 then { t with iflags := w &&& 3#32 }
    else if n = 0x072 then { t with fflags := w &&& 0x1F#32 }
    else { t with lc := setD t.lc 0 (n - 0x090) w }
  { t1 with marks := markSpecial n :: t.marks }

/-- A per-wave register written by some lanes; the value before it is kept for those that may still read it (spec/04 R71; log
entry 75). -/
def WaveRegs.setSpecial (r : WaveRegs) (lanes : List Nat) (n : Nat) (v : Dword) : WaveRegs :=
  let w : Word := v.setWidth 32
  let keep := fun (old : Dword) => (n, old, lanes) :: r.old
  if n = 0x060 then { r with utvec := clearBit0 v, old := keep r.utvec }
  else if n = 0x071 then { r with itrap := w &&& 3#32, old := keep (r.itrap.setWidth 64) }
  else if n = 0x073 then { r with ftrap := w &&& 0x1F#32, old := keep (r.ftrap.setWidth 64) }
  else if n = 0x074 then { r with frnd := w &&& 3#32, old := keep (r.frnd.setWidth 64) }
  else { r with f8fmt := w &&& 0x1F#32, old := keep (r.f8fmt.setWidth 64) }

/-- SWR (R225, R26): a per-wave register takes the value of the lowest lane of the path, or anything where a lane of it has another write of it
outstanding (spec/02 R39); a read-only one nothing. -/
def execSwr (a : Reg) (r : BitVec 10) (t : Bool) (s : State) : Res :=
  let n := r.toNat
  let regs := if wideSpecial n then [a.toNat, a.toNat + 1] else [a.toNat]
  let val := fun (th : Thread) => if wideSpecial n then th.pair? s a.toNat else (th.g? s a.toNat).setWidth 64
  done (s.withRegs regs (match s.curWave with
    | none => s
    | some w =>
      match w.lanes.find? (fun th => s.cur.lanes.elem th.lane) with
      | none => s
      | some low =>
        if (s.special w low n).isNone then s.illop
        else
          let twice := w.lanes.any (fun th => s.cur.lanes.elem th.lane && th.specialPending n)
          let new : Dword := if twice then s.freeWord (8000000 + 2 * n) ++ s.freeWord (8000001 + 2 * n) else val low
          let s1 := if waveSpecial n then s.onCur (fun v => { v with regs := v.regs.setSpecial s.cur.lanes n new }) else s
          s1.perLane t (fun _ th =>
            .next (if laneSpecial n then th.setSpecial s n (val th)
              else if waveSpecial n then { th with marks := markSpecial n :: th.marks } else th))))

/-! ## Sample rings -/

/-- One record of a panel's sample ring, or one more of DROPS (spec/28 R408, R410). -/
def State.sampleRecord (s : State) (c : Nat) (r : SampleRec) : State :=
  let o := samplerOff c r.panel
  let head := s.reg 1 0 (o + 0x14)
  let cap := (s.reg 1 0 (o + 0x10)).toNat
  if (head - s.reg 1 0 (o + 0x18)).toNat = cap then s.setReg 1 0 (o + 0x1C) (s.reg 1 0 (o + 0x1C) + 1)
  else
    let bs := leBytes 8 r.pc.toNat ++ leBytes 4 r.stamp.toNat ++ leBytes 1 r.slot ++ leBytes 1 r.st ++ leBytes 1 r.reason ++ leBytes 1 r.func
    (s.homeWriteBytes none (s.reg64 1 0 (o + 8) + 16 * (head.toNat % cap)) bs).setReg 1 0 (o + 0x14) (head + 1)

/-- Whether a panel records a wave of a function: SCTRL EN, FILT and FUNC (spec/28 R407, R408). -/
def State.samples (s : State) (c pn vf : Nat) : Bool :=
  let ctl := s.reg 1 0 (samplerOff c pn)
  ctl.getLsbD 0 && (!ctl.getLsbD 1 || ctl.toNat / 256 % 256 == vf)

/-- The SLOT byte of a record (spec/28 R408). -/
def Wave.slotByte (w : Wave) (lining : Bool) : Nat :=
  (match w.lining with
   | some l => if lining then l.slot % 32 else w.slot % 32
   | none => w.slot % 32) + (if w.active then 0 else 32) + (if lining then 64 else 0)

/-! ## MISC -/

/-- NOP (R226). -/
def execNop (t : Bool) (s : State) : Res := done (s.perLane t (fun _ th => .next th))

/-- YIELD (R226, spec/13 R266): the wave is swapped with the longest pending wave that has a ready thread, where the panel has one. -/
def execYield (t : Bool) (s : State) : Res :=
  let s1 := s.perLane t (fun _ th => .next th)
  done (match s1.curWave with
    | none => s1
    | some a =>
      match s1.nextPending a.core (a.slot / 32) false with
      | some p => if a.active then s1.swapWaves a p else s1
      | none => s1)

/-- A thread put to sleep after a SLEEP, its cycles, of its core's clock (spec/00 R4), counted from the end of a tack's park where one is due
(R226). -/
def Thread.sleeps (s : State) (t : Thread) (n : Nat) (tack : Bool) : Thread :=
  if tack then
    if t.outstanding then { t with wait := .sleep 0 n true }
    else if n = 0 then { t with marks := [] } else { t with marks := [], wait := .sleep (s.clockOf s.cur.core + n) n false }
  else if n = 0 then t else { t with wait := .sleep (s.clockOf s.cur.core + n) n false }

/-- SLEEP (R226). -/
def execSleep (a : Reg) (t : Bool) (s : State) : Res :=
  done (s.lanes [a.toNat] false (fun _ th => .land ((th.advance s.cur.len).sleeps s (th.g? s a.toNat).toNat t)))

/-- SLEEP_EXPIRE (R226). -/
def execSleepExpire (c sl ln : Nat) (s : State) : Res :=
  done (s.onLane c sl ln (fun t =>
    match t.wait with
    | .sleep u _ false => if u ≤ s.clockOf c then { t with wait := .no } else t
    | _ => t))

/-- `pair D := a count` lane by lane (R227). -/
def readCount (d : Reg) (t : Bool) (v : Dword) (s : State) : Res :=
  done (s.withRegs [d.toNat, d.toNat + 1] (s.cur.lanes.foldl (fun u l =>
    let (u1, x) := u.outside l v
    u1.within [l] (fun k => k.perLane t (fun _ th => .next (th.setPair s d.toNat x)))) s))

/-- CLOCK (R226, R227). -/
def execClock (d : Reg) (t : Bool) (s : State) : Res := readCount d t (BitVec.ofNat 64 (s.clockOf s.cur.core)) s

/-- PTIME (R226, R227). -/
def execPtime (d : Reg) (t : Bool) (s : State) : Res := readCount d t (BitVec.ofNat 64 s.clock.now) s

/-- PMARK (R226, spec/28 R411): the marks of the lanes follow the sample of this cycle, where there is one; in a lined wave each is made once (spec/27 R391). -/
def execPmark (a : Reg) (t : Bool) (s : State) : Res :=
  done (s.withRegs [a.toNat] (s.oncePath (fun u l _ => u.lane1 l t) (fun u =>
    match u.curWave with
    | none => u
    | some w =>
      let vf := u.vfOf w.blk
      let pn := w.slot / 32
      let marks := (w.lanes.filter (fun th => u.cur.lanes.elem th.lane)).map (fun th =>
        (⟨pn, u.cur.pc, th.g? u a.toNat, w.slotByte false, 3, th.lane, vf⟩ : SampleRec))
      let u1 := if u.samples w.core pn vf then u.onCore w.core (fun k => { k with marks := k.marks ++ marks }) else u
      (u.cur.lanes.foldl (fun v l => v.logEffect l 0) u1).perLane t (fun _ th => .next th))))

/-- TFLUSH (R226, spec/11 R235, R236). -/
def execTflush (t : Bool) (s : State) : Res :=
  done (match s.curWave with
    | none => s
    | some w => (s.perLane t (fun _ th => .next th)).flushFor w.core w.blk)

end Sys2Proof.Machine
end

