-- ==== Sys2Proof/Machine/Task.lean ====
section
/-! DEFINITION. The task instructions (spec/10 R218 to R224): the spawn queue, edges, the allowance table, legacy task control blocks.
Each acts at .tenant scope, at the home of what it names. -/

namespace Sys2Proof.Machine

/-! ## Memory at .tenant -/

/-- The core's own writes of some bytes placed at .tenant (R161). -/
def State.placeTenant (s : State) (c gang : Nat) (p : Place) (n : Nat) : State :=
  match p with
  | .phys a => s.placeOwn c gang 3 true a n
  | .pad _ _ => s
/-- A number at its home. -/
def State.tenantNat (s : State) (p : Place) (n : Nat) : Nat :=
  match p with
  | .phys a => s.homeNat a n
  | .pad b o => leNat (s.padBytes b o n)
/-- A number written at its home; the core's view takes it. -/
def State.tenantPut (s : State) (c gang : Nat) (p : Place) (n v : Nat) : State :=
  match p with
  | .phys a =>
    let pas := (List.range n).map (fun i => a + i)
    ((s.breach pas).memoWrite c gang 3 true a (leBytes n v)).strikeChunks pas
  | .pad b o => s.padWrite b o (leBytes n v)

/-- What an address that a task instruction names does to a lane where it is not good (R218). -/
def Resolve.out (r : Resolve) (t : Thread) : Out :=
  match r with
  | .at _ => .next t
  | .trap => .trap t cFAULT
  | .lease => .throw t 8 0
  | .stop _ _ => .hold t .fault

/-- A lane stopped by a bad address. -/
def State.badLane (s : State) (w : Wave) (l : Nat) (t : Thread) (va : Dword) (r : Resolve) : State :=
  let s1 := s.within [l] (fun u => u.perLane false (fun _ x => r.out x))
  match r with
  | .stop k lv => s1.faultOn k lv va true false w.blk ⟨w.core, w.slot, l, t.pc, w.blk⟩
  | _ => s1

/-- An instruction lane by lane in ascending order, each lane one atomic step, on the good address of a pair (R221); `again` completes a lane whose
effect a re-execution finds logged. -/
def State.edgeLanes (s : State) (a : Nat) (align : Nat) (write : Bool) (f : State → Wave → Nat → Thread → Place → State)
    (again : State → Nat → Dword → State) : State :=
  s.cur.lanes.foldl (fun u l =>
    match u.curWave with
    | none => u
    | some w =>
      match w.lane? l with
      | none => u
      | some th =>
        let va := th.pair? s a
        match u.resolve w.blk va align write with
        | .at pl => u.onceLane l (fun v x => again v l x) (fun v => f (v.touch w.core w.blk pl align) w l th pl)
        | r => u.badLane w l th va r) s

/-! ## Edges (R220, R221) -/

/-- The fields of an edge. -/
structure Edge where
  cap : Nat
  head : Nat
  tail : Nat
  free : Nat
  ring : Nat
  deriving DecidableEq, Repr

def State.edgeAt (s : State) (p : Place) : Edge :=
  { cap := s.tenantNat p 4, head := s.tenantNat (p.plus 8) 4, tail := s.tenantNat (p.plus 12) 4, free := s.tenantNat (p.plus 16) 4,
    ring := s.tenantNat (p.plus 24) 8 }
/-- Whether a number is a power of two in the range of CAP. -/
def isCap (n : Nat) : Bool := (List.range 17).any (fun i => n == 2 ^ i)
/-- Whether an edge gives defined results (R220). -/
def Edge.good (e : Edge) : Bool := isCap e.cap && decide (e.free ≤ e.cap)
/-- Items held. -/
def Edge.items (e : Edge) : Nat := (e.tail + 2 ^ 32 - e.head) % 2 ^ 32
/-- The address of an item. -/
def Edge.itemVa (e : Edge) (i : Nat) : Dword := BitVec.ofNat 64 (e.ring + 4 * (i % e.cap))

/-- The undefined results of a bad edge (R220): its counters hold anything. -/
def State.spoilEdge (s : State) (c gang : Nat) (p : Place) (l : Nat) : State :=
  ((s.tenantPut c gang (p.plus 8) 4 (s.freeWord (6100000 + 4 * l)).toNat).tenantPut c gang (p.plus 12) 4 (s.freeWord (6100001 + 4 * l)).toNat).tenantPut
    c gang (p.plus 16) 4 (s.freeWord (6100002 + 4 * l)).toNat

/-- A lane completes with its thread changed. -/
def State.laneOut (s : State) (l : Nat) (t : Bool) (o : Thread → Out) : State := s.within [l] (fun u => u.perLane t (fun _ th => o th))

/-- A lane completes with its effect logged. -/
def State.effectOut (s : State) (l : Nat) (t : Bool) (v : Dword) (o : Thread → Out) : State := (s.logEffect l v).laneOut l t o

/-- EPUSH (R221): with no free slot the lane waits. -/
def execEpush (d a : Reg) (t : Bool) (s : State) : Res :=
  done (s.withRegs [d.toNat, a.toNat, a.toNat + 1] (s.afterPublish 3 (fun s =>
    s.edgeLanes a.toNat 64 true (fun u w l th p =>
      let g := u.gangId w.blk
      let u0 := u.placeTenant w.core g p 64
      let e := u0.edgeAt p
      if !e.good then (u0.spoilEdge w.core g p l).effectOut l t 0 .next
      else if e.free = 0 then u0.laneOut l false (fun x => .hold x (.epush p))
      else
        match u0.resolve w.blk (e.itemVa e.tail) 4 true with
        | .at q =>
          let u1 := u0.tenantPut w.core g q 4 (th.g? s d.toNat).toNat
          let u2 := u1.tenantPut w.core g (p.plus 12) 4 ((e.tail + 1) % 2 ^ 32)
          (u2.tenantPut w.core g (p.plus 16) 4 (e.free - 1)).effectOut l t 0 .next
        | r => u0.badLane w l th (e.itemVa e.tail) r) (fun u l _ => u.lane1 l t))))

/-- EPOP (R221): an item and 0, then a refresh at .tenant; or 0 and 0xFFFF_FFFF. -/
def execEpop (d a : Reg) (t : Bool) (s : State) : Res :=
  done (s.withRegs [d.toNat, d.toNat + 1, a.toNat, a.toNat + 1] (
    s.edgeLanes a.toNat 64 true (fun u w l th p =>
      let g := u.gangId w.blk
      let u0 := u.placeTenant w.core g p 64
      let e := u0.edgeAt p
      let out := fun (v : Dword) (x : Thread) => Out.next (x.setPair s d.toNat v)
      if !e.good then
        let v := s.freeWord (6200000 + 2 * l) ++ s.freeWord (6200001 + 2 * l)
        (u0.spoilEdge w.core g p l).effectOut l t v (out v)
      else if e.items = 0 then u0.effectOut l t 0xFFFFFFFF00000000#64 (out 0xFFFFFFFF00000000#64)
      else
        match u0.resolve w.blk (e.itemVa e.head) 4 false with
        | .at q =>
          let uq := (u0.touch w.core w.blk q 4).placeTenant w.core g q 4
          let v := uq.tenantNat q 4
          let u1 := uq.tenantPut w.core g (p.plus 8) 4 ((e.head + 1) % 2 ^ 32)
          u1.effectOut l t (BitVec.ofNat 64 v) (fun x => .next ((x.setPair s d.toNat (BitVec.ofNat 64 v)).issue s (.refresh 3) (.phys 0) 0))
        | r => u0.badLane w l th (e.itemVa e.head) r)
      (fun u l v => u.laneOut l t (fun x => .next ((x.setPair s d.toNat v).issue s (.refresh 3) (.phys 0) 0)))))

/-- EFREE (R221). -/
def execEfree (a : Reg) (t : Bool) (s : State) : Res :=
  done (s.withRegs [a.toNat, a.toNat + 1] (s.afterPublish 3 (fun s =>
    s.edgeLanes a.toNat 64 true (fun u w l _ p =>
      let g := u.gangId w.blk
      let u0 := u.placeTenant w.core g p 64
      let e := u0.edgeAt p
      if !e.good then (u0.spoilEdge w.core g p l).effectOut l t 0 .next
      else (u0.tenantPut w.core g (p.plus 16) 4 (min (e.free + 1) (e.cap - e.items))).effectOut l t 0 .next) (fun u l _ => u.lane1 l t))))

/-! ## The spawn queue (R219, spec/21 R311) -/

/-- Whether a lane offers an entry: its template is declared in the launch and the reserved bits are 0. -/
def Launch.offers (l : Launch) (w0 : Word) : Bool := decide (w0.toNat < 64) && (look l.templates w0.toNat).isSome

/-- The offering lanes' entries written from a tail on, as one step: the lanes' results by rank (R219). -/
def State.spawnStep (s : State) (w : Wave) (desc : Place) (d a : Nat) (t : Bool) (offer : List Nat) : State :=
  let g := s.gangId w.blk
  let s0 := (s.touch w.core w.blk desc 64).placeTenant w.core g desc 64
  let ring := s0.tenantNat desc 8
  let cap := s0.tenantNat (desc.plus 8) 4
  let head := s0.tenantNat (desc.plus 12) 4
  let tail := s0.tenantNat (desc.plus 16) 4
  let free := cap - (tail + 2 ^ 32 - head) % 2 ^ 32
  let slot := fun (r : Nat) => BitVec.ofNat 64 (ring + 16 * ((tail + r) % 2 ^ 32 % cap))
  let (s1, n) := offer.foldl (fun (acc : State × Nat) l =>
    let (u, r) := acc
    match w.lane? l with
    | none => (u, r)
    | some th =>
      if r < free then
        match u.resolve w.blk (slot r) 16 true with
        | .at q =>
          let words := (List.range 4).map (fun i => th.g? s (a + i))
          let u1 := (List.range 4).foldl (fun v i => v.tenantPut w.core g (q.plus (4 * i)) 4 (words.getD i 0).toNat) u
          let v := BitVec.ofNat 32 ((tail + r) % 2 ^ 32)
          (u1.effectOut l t (v.setWidth 64) (fun x => .next (x.setG s d v)), r + 1)
        | bad => (u.badLane w l th (slot r) bad, r)
      else (u.effectOut l t 0xFFFFFFFF#64 (fun x => .next (x.setG s d 0xFFFFFFFF#32)), r)) (s0, 0)
  s1.tenantPut w.core g (desc.plus 16) 4 ((tail + n) % 2 ^ 32)

/-- SPAWN (R219): one step for the lanes that offer, once what all of them issued earlier is performed. -/
def execSpawn (d a : Reg) (t : Bool) (s : State) : Res :=
  let an := a.toNat
  done (s.withRegs [d.toNat, an, an + 1, an + 2, an + 3] (match s.curWave with
    | none => s
    | some w =>
      match s.launchOf w.blk with
      | none => s.illop
      | some l =>
        if l.prog.lrec.spawnq = 0 then s.illop
        else
          let offers := fun (th : Thread) => l.offers (th.g? s an)
          let bad := s.curLanes (fun th => !offers th)
          let good := s.curLanes offers
          let s1 := if bad.isEmpty then s else s.within bad State.illop
          if good.isEmpty then s1
          else s1.within good (fun y => y.oncePath (fun u k v => u.laneOut k t (fun x => .next (x.setG s d.toNat (v.setWidth 32)))) (fun u =>
            u.afterAccesses (fun x => x.afterPublish 3 (fun v =>
            match v.resolve w.blk l.prog.lrec.spawnq 64 true with
            | .at desc => v.spawnStep w desc d.toNat an t v.cur.lanes
            | r => v.cur.lanes.foldl (fun x ln =>
                match w.lane? ln with
                | some th => x.badLane w ln th l.prog.lrec.spawnq r
                | none => x) v))))))

/-! ## The allowance table (R223, spec/21 R316) -/

/-- An entry of the allowance table. -/
structure Bucket where
  level : Nat
  ctrl : Nat
  deriving DecidableEq, Repr
/-- The address of a bucket's entry. -/
def State.bucketVa (s : State) (vf b : Nat) : Nat := s.vfDword vf 24 + 16 * b
def State.bucketAt (s : State) (vf b : Nat) : Bucket := { level := s.devGet vf (s.bucketVa vf b) 4, ctrl := s.devGet vf (s.bucketVa vf b + 12) 4 }
def Bucket.on (b : Bucket) : Bool := b.ctrl.testBit 0
def Bucket.paired (b : Bucket) : Bool := b.ctrl.testBit 1
def Bucket.pair (b : Bucket) : Nat := b.ctrl / 4 % 1024

/-- One lane's ADMIT (R223): the state after it, and the result. -/
def State.admitOne (s : State) (vf b n : Nat) (tag : Word) : State × Word :=
  let e := s.bucketAt vf b
  let p := s.bucketAt vf e.pair
  let mine := s.tags.filter (fun r => r.vf == vf && r.bucket == b)
  if !e.on then (s, 0)
  else if e.paired && (!p.on || p.paired) then (s, 0)
  else
    match if tag = 0 then none else mine.find? (fun r => r.tag == tag) with
    | some r => (s, r.grant)
    | none =>
      if tag ≠ 0 ∧ 1024 ≤ mine.length then (s, 0xFFFFFFFF#32)
      else
        let grant := if e.paired then min (min n e.level) p.level else min n e.level
        let s1 := s.devPut vf (s.bucketVa vf b) 4 (e.level - grant)
        let s2 := if e.paired then s1.devPut vf (s.bucketVa vf e.pair) 4 (p.level - grant) else s1
        let s3 : State := if tag = 0 then s2 else { s2 with tags := ⟨vf, b, tag, BitVec.ofNat 32 grant⟩ :: s2.tags }
        (s3, BitVec.ofNat 32 grant)

/-- ADMIT (R223). -/
def execAdmit (d a : Reg) (t : Bool) (s : State) : Res :=
  let an := a.toNat
  done (s.withRegs [d.toNat, an, an + 1, an + 2, an + 3] (match s.curWave with
    | none => s
    | some w => s.cur.lanes.foldl (fun u l =>
        match w.lane? l with
        | none => u
        | some th =>
          let b := (th.g? s an).toNat
          if 1023 < b then u.within [l] State.illop
          else
            u.onceLane l (fun y v => y.laneOut l t (fun x => .next (x.setG s d.toNat (v.setWidth 32)))) (fun y =>
              let (u1, v) := y.admitOne (s.vfOf w.blk) b (th.g? s (an + 1)).toNat (th.g? s (an + 2))
              u1.effectOut l t (v.setWidth 64) (fun x => .next (x.setG s d.toNat v)))) s))

/-! ## Legacy task control blocks (R224, spec/21 R300, R315) -/

/-- The descriptor of a launch queue. -/
def State.queueVa (s : State) (vf cls : Nat) : Nat := s.vfDword vf 16 + 64 * cls

/-- A record written into a slot of its queue, SEQ last (spec/21 R300). -/
def State.placeRecord (s : State) (q : Submit) : State :=
  let dv := s.queueVa q.vf q.cls
  let cap := s.devGet q.vf (dv + 8) 4
  let slot := s.devGet q.vf dv 8 + 256 * (q.index % max 1 cap)
  let bs := s.homeBytes (s.devAddr q.vf (BitVec.ofNat 64 q.va) false) 256
  let s1 := ((s.devWrite q.vf slot (bs.take 20)).devWrite q.vf (slot + 24) (bs.drop 24))
  s1.devPut q.vf (slot + 20) 4 ((q.index + 1) % 2 ^ 32)

/-- The records drawn and not yet placed for which their queues have room. -/
def State.placeReady (s : State) : State :=
  let room := fun (q : Submit) =>
    decide ((q.index + 2 ^ 32 - s.devGet q.vf (s.queueVa q.vf q.cls + 16) 4) % 2 ^ 32 < s.devGet q.vf (s.queueVa q.vf q.cls + 8) 4)
  (s.submits.filter room).foldl State.placeRecord { s with submits := s.submits.filter (fun q => !room q) }

/-- A record submitted by the device: an index drawn from RESV, and the record placed once there is room (spec/21 R300). Its address is not checked, and of its CLASS
the queue takes the low three bits (log entry 35). -/
def State.submit (s : State) (vf va : Nat) : State :=
  let cls := s.devGet vf (va + 10) 1 % 8
  let dv := s.queueVa vf cls
  let t := s.devGet vf (dv + 12) 4
  let s1 := s.devPut vf (dv + 12) 4 ((t + 1) % 2 ^ 32)
  State.placeReady { s1 with submits := s1.submits ++ [⟨vf, cls, t, va⟩] }

/-- A TCB retired (R224): each successor's PRED is decremented, a write of the contexts `gs` (spec/27 R393), and the record of one whose PRED becomes 0 is submitted. -/
def State.retireTcb (s : State) (gs : List Nat) (vf tcb : Nat) : State :=
  let n := min (s.devGet vf (tcb + 4) 4) 64
  let arr := s.devGet vf (tcb + 8) 8
  (List.range n).foldl (fun u i =>
    let succ := u.devGet vf (arr + 8 * i) 8
    let p := u.devGet vf succ 4
    if p = 0 then u
    else
      let u1 := u.asContexts gs ((List.range 4).map (fun i => u.devAddr vf (BitVec.ofNat 64 (succ + i)) true)) (fun x => x.devPut vf succ 4 (p - 1))
      if p = 1 then u1.submit vf (u1.devGet vf (succ + 16) 8) else u1) s

/-- The snapshot of a core no longer holds older bytes of some locations. -/
def State.freshen (s : State) (c pa n : Nat) : State :=
  s.onCore c (fun k => { k with snap := k.snap.filter (fun p => !(decide (pa ≤ p.1) && decide (p.1 < pa + n))) })

/-- The pieces of 8 bytes that a TCBDONE reaches, all of which it checks (R218): the block and its successor list, which it reads, and each successor, of
which it writes the first; a block has 32 bytes. -/
def State.tcbVas (s : State) (vf tcb : Nat) : List (Nat × Bool) :=
  let n := min (s.devGet vf (tcb + 4) 4) 64
  let arr := s.devGet vf (tcb + 8) 8
  let block := fun (va : Nat) (write : Bool) => (va, write) :: [(va + 8, false), (va + 16, false), (va + 24, false)]
  block tcb false ++ (List.range n).flatMap (fun i => (arr + 8 * i, false) :: block (s.devGet vf (arr + 8 * i) 8) true)

/-- TCBDONE (R224). -/
def execTcbdone (a : Reg) (t : Bool) (s : State) : Res :=
  done (s.withRegs [a.toNat, a.toNat + 1] (s.afterPublish 3 (fun s =>
    s.edgeLanes a.toNat 8 false (fun u w l th _ =>
      let vf := u.vfOf w.blk
      let vas := u.tcbVas vf (th.pair? s a.toNat).toNat
      let checked := vas.map (fun v => (BitVec.ofNat 64 v.1, u.resolve w.blk (BitVec.ofNat 64 v.1) 8 v.2))
      match checked.find? (fun p => match p.2 with
        | .at _ => false
        | _ => true) with
      | some (va, r) => u.badLane w l th va r
      | none =>
        let u0 := checked.foldl (fun (x : State) p =>
          match p.2 with
          | .at pl => x.touch w.core w.blk pl 8
          | _ => x) u
        let u1 := u0.retireTcb [u.gangId w.blk] vf (th.pair? s a.toNat).toNat
        (vas.foldl (fun x v => x.freshen w.core (x.devAddr vf (BitVec.ofNat 64 v.1) false) 8) u1).effectOut l t 0 .next) (fun u l _ => u.lane1 l t))))

end Sys2Proof.Machine
end

