-- ==== Sys2Proof/Machine/Engine.lean ====
section
/-! DEFINITION. The ENG instructions (spec/09 R167 to R180): the checks at issue, copy descriptors, copy lists, fences. -/

namespace Sys2Proof.Machine

/-! ## Issue -/

/-- What a check at issue finds: the cause of a trap, or what it let through (R168). -/
abbrev Chk := Except Word
/-- A check that a condition holds, else a trap of a cause. -/
def need (cause : Word) (b : Bool) : Chk Unit := if b then .ok () else .error cause
/-- A field of a parameter block. -/
def fld (bs : List Byte) (off n : Nat) : Nat := leNat ((bs.drop off).take n)

/-- The lowest lane of the path, on whose behalf one operation is issued (R167). -/
def State.issuer (s : State) : Issuer :=
  ⟨s.cur.core, s.cur.slot, s.cur.lanes.headD 0, s.cur.pc, (s.curWave.map (fun w => w.blk)).getD 0⟩

/-- A trap of the path where a check failed, else what follows. -/
def State.checked {α : Type} (s : State) (c : Chk α) (k : α → State) : State :=
  match c with
  | .error cause => s.trapAll cause
  | .ok v => k v

/-- A scratch range that R29 accepts, read (R168 item 5). -/
def State.scratchChk (s : State) (blk a len : Nat) : Chk (List Byte) :=
  if s.padRange blk a len then .ok (s.scratchBytes blk a len) else .error cFAULT

/-- The parameter block at s[S] (R168 item 2). -/
def State.paramBlock (s : State) (w : Wave) (sb len : Nat) : Chk (List Byte) :=
  let a := (w.regs.s? sb).toNat
  if a % 8 ≠ 0 then .error cFAULT else s.scratchChk w.blk a len

/-- The slot that the block's register oN maps, the tile that aN maps (R20). -/
def State.oReg (s : State) (blk n : Nat) : Option Nat := (s.block? blk).bind (fun b => look b.o n)
def State.aReg (s : State) (blk n : Nat) : Option Nat := (s.block? blk).bind (fun b => look b.a n)
/-- The same as checks: an unmapped register raises ILLOP. -/
def State.oChk (s : State) (blk n : Nat) : Chk Nat :=
  match s.oReg blk n with
  | some i => .ok i
  | none => .error cILLOP
def State.aChk (s : State) (blk n : Nat) : Chk Nat :=
  match s.aReg blk n with
  | some i => .ok i
  | none => .error cILLOP
/-- The rows M and the pleats P of a tile of a core. -/
def State.tileOf (s : State) (c id : Nat) : Option Tile := look (s.core c).tiles id
def State.tileRows (s : State) (c id : Nat) : Nat :=
  match s.tileOf c id with
  | some t => t.m
  | none => 0
def State.tilePleats (s : State) (c id : Nat) : Nat :=
  match s.tileOf c id with
  | some t => t.p
  | none => 0

/-- The token register of the wave becomes pending (spec/02 R41). -/
def State.pend (s : State) (tok : Nat) : State :=
  if 63 ≤ tok then s
  else s.onCur (fun w => { w with regs := { w.regs with tok := if w.regs.tok.testBit tok then w.regs.tok else w.regs.tok + 2 ^ tok } })

/-- A path that issues into a copy queue of its block stalls while the queue is full (R169). -/
def State.withQueue (s : State) (q : Nat) (k : Wave → State) : State :=
  match s.curWave with
  | none => s
  | some w =>
    match (s.block? w.blk).bind (fun b => b.queues[q]?) with
    | none => s.illop
    | some l => if l.length < 32 then k w else s.holdAll (.queue q)

/-! ## Descriptors -/

/-- The scratch address of row `i` of the scratchpad side. -/
def scratchRow (saddr stride i : Nat) : Nat := (saddr + i * stride) % 2 ^ 32

/-- The fields of a copy descriptor of 40 bytes under a form, within their limits (R168 item 3, R176). -/
def State.copyFields (s : State) (w : Wave) (form : Nat) (bs : List Byte) : Chk CopyDesc := do
  let rows := fld bs 16 2
  let rbytes := fld bs 18 2
  let obj := fld bs 22 2
  let side := fld bs 26 1
  let idx := fld bs 32 4
  let indexed := decide (7 ≤ form)
  let d0 : CopyDesc :=
    { form := form, gva := BitVec.ofNat 64 (fld bs 0 8), saddr := [], gstride := fld bs 12 4, rows := rows, rbytes := rbytes, obj := 0,
      first := obj / 16 % 2048, scope := fld bs 25 1, slotSide := indexed && side == 1, bobj := none, idx := [] }
  need cILLOP (decide (0 < rows) && decide (0 < rbytes) && !obj.testBit 15 && fld bs 27 1 == 0 && fld bs 36 4 == 0)
  need cILLOP (if indexed then decide (side ≤ 1) else side == 0 && idx == 0)
  need cILLOP (if d0.toGlobal then decide (d0.scope ≤ 5) else d0.scope == 0)
  let id ← if d0.onSlot then s.oChk w.blk (obj % 16) else if d0.onTileSrc || d0.onTileDst then s.aChk w.blk (obj % 16) else pure 0
  need cILLOP (!d0.onSlot || (decide (rbytes ≤ 128) && decide (d0.first + rows ≤ 256)))
  need cILLOP (!(d0.onTileSrc || d0.onTileDst) ||
    (rbytes % 4 == 0 && decide (rbytes ≤ 768) && decide (d0.first + rows ≤ s.tileRows w.core id * s.tilePleats w.core id)))
  pure { d0 with obj := id }

/-- The scope of a descriptor (R168 item 4). -/
def State.copyScope (s : State) (w : Wave) (d : CopyDesc) : Chk Unit := need cSCOPE (!s.scopeForbidden (s.vfOf w.blk) d.scope)

/-- The scratch ranges of a descriptor (R168 item 5). A byte barrier not aligned to 16 is refused as its address (log entry 26). -/
def State.copyRanges (s : State) (w : Wave) (d : CopyDesc) (bs : List Byte) : Chk CopyDesc := do
  let saddr := fld bs 8 4
  let rows := d.rows
  let rbytes := d.rbytes
  let stride := fld bs 20 2
  let bobj := fld bs 28 4
  let idx := fld bs 32 4
  let indexed := decide (7 ≤ d.form)
  let onPad := d.form == 0 || d.form == 1 || d.form == 3 || d.form == 4 || d.form == 5 || (indexed && !d.slotSide)
  let places := if onPad then (List.range rows).map (scratchRow saddr stride) else []
  need cFAULT (places.all (fun a => s.padRange w.blk a rbytes))
  need cFAULT (bobj == 0xFFFFFFFF || (bobj % 16 == 0 && s.padRange w.blk bobj 16))
  let ix ← if indexed then s.scratchChk w.blk idx (4 * rows) else pure []
  pure { d with
    saddr := places
    bobj := if bobj = 0xFFFFFFFF then none else (s.padAt w.blk bobj).map (fun p => .pad p.1 p.2)
    idx := (wordsOf (if indexed then rows else 0) ix).map BitVec.toNat }

/-- A copy descriptor under a form (R168 items 3 to 5). -/
def State.copyDesc (s : State) (w : Wave) (form : Nat) (bs : List Byte) : Chk CopyDesc := do
  let d ← s.copyFields w form bs
  s.copyScope w d
  s.copyRanges w d bs

/-- A check made of every element of a list in turn. -/
def chkAll {α β : Type} (f : α → Chk β) : List α → Chk (List β)
  | [] => .ok []
  | x :: rest => do
    let y ← f x
    let ys ← chkAll f rest
    pure (y :: ys)

/-- The descriptors of a copy list, each under the form its KIND names; each item of R168 is applied to every descriptor before the next
item (R179; log entry 24). -/
def State.copyList (s : State) (w : Wave) (ls : List (List Byte)) : Chk (List CopyDesc) := do
  let ds ← chkAll (fun bs => do
    need cILLOP (decide (fld bs 24 1 ≤ 8))
    s.copyFields w (fld bs 24 1) bs) ls
  let _ ← chkAll (s.copyScope w) ds
  chkAll (fun x => s.copyRanges w x.1 x.2) (ds.zip ls)

/-- The copy list at s[S] (R179); in which order COUNT, the body and the second word are checked is log entry 24. -/
def State.kickList (s : State) (w : Wave) (sb : Nat) : Chk (List CopyDesc) := do
  let hd ← s.paramBlock w sb 8
  let n := fld hd 0 4
  need cILLOP (decide (1 ≤ n) && decide (n ≤ 256))
  let body ← s.scratchChk w.blk ((w.regs.s? sb).toNat + 8) (40 * n)
  need cILLOP (fld hd 4 4 == 0)
  s.copyList w ((List.range n).map (fun i => (body.drop (40 * i)).take 40))

/-! ## Entering a queue -/

/-- An entry of a copy queue issued by the path; its token becomes pending and the lanes go on (R167, R171). -/
def State.enterCopy (s : State) (w : Wave) (q tok : Nat) (ds : List CopyDesc) (t : Bool) : State :=
  let op : CopyOp :=
    { id := s.ids, blk := w.blk, who := s.issuer, lanes := s.cur.lanes, step := s.free, tok := tok, gone := [], list := ds, fence := false, after := [],
      started := false, captured := [], landed := [], req := none, spoilt := false }
  let depth := ((s.block? w.blk).map (fun b => (b.queues.getD q []).length + 1)).getD 0
  ((({ s with ids := s.ids + 1 }.gauge 4 w.core (some (s.vfOf w.blk)) depth).onCopies w.blk q (fun l => l ++ [op])).pend tok).perLane t
    (fun _ th => .next th)

/-- A copy form of ENG (R168, R169, R176 to R178). -/
def copyForm (form : Nat) (q : BitVec 3) (k sb : BitVec 6) (t : Bool) (s : State) : Res :=
  done (s.withTokens [sb.toNat, k.toNat] (s.withQueue q.toNat (fun w =>
    s.afterAccesses (fun u => u.checked (do let bs ← u.paramBlock w sb.toNat 40; u.copyDesc w form bs)
      (fun d => u.enterCopy w q.toNat k.toNat [d] t)))))

/-- ACOPY.G2S (R177). -/
def execAcopyG2s (q : BitVec 3) (k sb : BitVec 6) (t : Bool) (s : State) : Res := copyForm 0 q k sb t s

/-- ACOPY.S2G (R177). -/
def execAcopyS2g (q : BitVec 3) (k sb : BitVec 6) (t : Bool) (s : State) : Res := copyForm 1 q k sb t s

/-- ACOPY.G2O (R177). -/
def execAcopyG2o (q : BitVec 3) (k sb : BitVec 6) (t : Bool) (s : State) : Res := copyForm 2 q k sb t s

/-- ACOPY.S2O (R177). -/
def execAcopyS2o (q : BitVec 3) (k sb : BitVec 6) (t : Bool) (s : State) : Res := copyForm 3 q k sb t s

/-- ACOPY.A2S (R177). -/
def execAcopyA2s (q : BitVec 3) (k sb : BitVec 6) (t : Bool) (s : State) : Res := copyForm 4 q k sb t s

/-- ACOPY.S2A (R177). -/
def execAcopyS2a (q : BitVec 3) (k sb : BitVec 6) (t : Bool) (s : State) : Res := copyForm 5 q k sb t s

/-- ACOPY.A2G (R177). -/
def execAcopyA2g (q : BitVec 3) (k sb : BitVec 6) (t : Bool) (s : State) : Res := copyForm 6 q k sb t s

/-- GATHER (R178). -/
def execGather (q : BitVec 3) (k sb : BitVec 6) (t : Bool) (s : State) : Res := copyForm 7 q k sb t s

/-- SCATTER (R178). -/
def execScatter (q : BitVec 3) (k sb : BitVec 6) (t : Bool) (s : State) : Res := copyForm 8 q k sb t s

/-- KICK (R179): the list is one entry of its queue. -/
def execKick (q : BitVec 3) (k sb : BitVec 6) (t : Bool) (s : State) : Res :=
  done (s.withTokens [sb.toNat, k.toNat] (s.withQueue q.toNat (fun w =>
    s.afterAccesses (fun u => u.checked (u.kickList w sb.toNat) (fun ds => u.enterCopy w q.toNat k.toNat ds t)))))

end Sys2Proof.Machine
end

