-- ==== Sys2Proof/Machine/Tailor.lean ====
section
/-! DEFINITION. Matrix operations on their way to the array: the limits of their operands (spec/09 R185 to R199), the rewrite window and
its rules (spec/11 R228 to R247), the entry into a matrix queue (spec/09 R197, R198). -/

namespace Sys2Proof.Machine

/-! ## Operands -/

/-- Formats (spec/09 R186). -/
def fmtFam (f : Nat) : Nat := f / 32
def fmtOk (f : Nat) : Bool :=
  decide (f < 256) && decide (fmtFam f ≤ 4) && (if fmtFam f = 0 then f % 8 != 7 else f % 32 == 0)
def fmtWide (f : Nat) : Bool := fmtFam f == 3 || fmtFam f == 4
/-- The pairs of weights and activations. -/
def fmtPair (wf af : Nat) : Bool := if fmtWide wf then fmtWide af || fmtFam af == 0 else !fmtWide af

/-- A scalar operand, a vector operand (spec/11 R239). -/
def MatOp.vec (o : MatOp) (i : Nat) : List Word := (look o.ops i).getD []
def MatOp.val (o : MatOp) (i : Nat) : Nat := ((o.vec i).headD 0).toNat
/-- Whether an operand is a vector: scol, srow, rows, and val in the modes set and mul. -/
def vecOperand (f6 mode i : Nat) : Bool :=
  (f6 == 2 && i == 6) || (f6 == 3 && (i == 11 || i == 12)) || (f6 == 9 && i == 2 && mode != 2)
def MatOp.isVec (o : MatOp) (i : Nat) : Bool := vecOperand o.f6 (o.val 1) i

/-- The destination row that stream row `i` names (R189, R190); none for 0xFFFF_FFFF. -/
def MatOp.destRow (o : MatOp) (i : Nat) : Option Nat :=
  if o.val 3 = 1 then
    let r := ((o.vec 12).getD i 0).toNat
    if r = 0xFFFFFFFF then none else some r
  else some (o.val 8 + i)

/-- What an operation names, by identifier: its tile, its slots, its destination tile. -/
structure Named where
  obj : Option Nat
  slots : List Nat
  dest : Option Nat
  deriving DecidableEq, Repr

/-- The slots a first and a second register number name; the second is used where `two` says so, and is 0 otherwise. -/
def twoSlots (oM : Nat → Option Nat) (b : Nat) (two : Bool) : Option (List Nat) :=
  if two then
    match oM (b % 16), oM (b / 16) with
    | some x, some y => some [x, y]
    | _, _ => none
  else if b / 16 = 0 then (oM (b % 16)).map (fun x => [x]) else none

/-- THE LIMITS OF THE OPERANDS of a kind (R168 item 3, R185 to R199, spec/11 R243), and what they name under maps of the o and a
registers; none where one is broken or a register is unmapped. `c` is the core. -/
def State.named (s : State) (c f6 : Nat) (v : Nat → Nat) (oM aM : Nat → Option Nat) : Option Named :=
  let when_ := fun (b : Bool) (x : Option Named) => if b then x else none
  if f6 = 2 then
    let two := fmtWide (v 2) && decide (128 < v 4)
    when_ (decide (v 1 < 256) && fmtOk (v 2) && decide (1 ≤ v 3) && decide (v 3 ≤ 128) && decide (1 ≤ v 4) && decide (v 4 ≤ 192) &&
      decide (v 5 ≤ 1)) ((twoSlots oM (v 1) two).map (fun sl => ⟨none, sl, none⟩))
  else if f6 = 3 then
    match if v 1 < 16 then aM (v 1) else none with
    | none => none
    | some tile =>
      let two := fmtWide (v 5) && decide (128 < v 7 + v 6)
      when_ (decide (v 2 ≤ 1) && decide (v 3 ≤ 1) && decide (v 4 < 256) && fmtOk (v 5) && decide (1 ≤ v 6) && decide (v 6 ≤ 256) &&
        decide (v 7 + v 6 ≤ 256) && (v 3 == 1 || decide (v 8 + v 6 ≤ s.tileRows c tile)) && decide (v 9 < 2 ^ 16) && decide (v 10 ≤ 1))
        ((twoSlots oM (v 4) two).map (fun sl => ⟨some tile, sl, none⟩))
  else if f6 = 4 then
    match if v 1 < 16 then aM (v 1) else none with
    | none => none
    | some tile =>
      if !(decide (v 2 ≤ 1) && decide (v 3 ≤ 1) && decide (1 ≤ v 4) && decide (v 4 ≤ 512)) then none
      else if v 2 = 1 then when_ (v 5 == 0 && v 6 == 0 && v 7 % 4 == 0) (some ⟨some tile, [], none⟩)
      else
        match if v 5 < 16 then aM (v 5) else none with
        | none => none
        | some d => when_ (v 5 != v 1 && v 7 == 0 && decide (v 6 + s.tileRows c tile ≤ s.tileRows c d * s.tilePleats c d))
            (some ⟨some tile, [], some d⟩)
  else if f6 = 5 then (if v 1 < 16 then aM (v 1) else none).map (fun t => ⟨some t, [], none⟩)
  else if f6 = 8 then
    when_ (decide (v 1 < 16) && decide (v 2 < 16) && (v 3 == 1 || v 3 == 2) && (v 4 == 0 || v 4 == 128))
      (match oM (v 1), oM (v 2) with
       | some x, some y => some ⟨none, [x, y], none⟩
       | _, _ => none)
  else when_ (decide (v 1 ≤ 2)) (some ⟨none, [], none⟩)

/-- The N field an operation has by its operands (spec/11 R239). -/
def nField (f6 : Nat) (v : Nat → Nat) : Nat :=
  if f6 = 3 ∨ f6 = 4 then v 1 + 16 * v 2 + 32 * v 3
  else if f6 = 5 ∨ f6 = 9 then v 1
  else 0

/-- The product of two f32 words rounded to nearest even (spec/04 R71). -/
def round32mul (a b : Word) : Word := (fmul32 .rne (f32 a) (f32 b)).1

/-! ## The pattern table -/

/-- A byte of a rule. -/
def ruleByte (r : List Byte) (i : Nat) : Nat := (r.getD i 0).toNat
/-- NIN, NOUT, CLASS (R238). -/
def ruleNin (r : List Byte) : Nat := ruleByte r 0
def ruleNout (r : List Byte) : Nat := ruleByte r 1
def ruleClass (r : List Byte) : Nat := ruleByte r 2

/-- The operand a reference byte names (R239): whether it is a vector, and its words. -/
def refOf (m : List MatOp) (ref : Nat) : Bool × List Word :=
  match m[ref / 64]? with
  | some o => (o.isVec (ref % 16), o.vec (ref % 16))
  | none => (false, [])

/-- Whether a constraint of 8 bytes holds (R240). -/
def constraintHolds (m : List MatOp) (w : List Byte) : Bool :=
  let a := (refOf m (fld w 1 1)).2
  let b := (refOf m (fld w 2 1)).2
  let kind := fld w 0 1
  if kind = 0 then true
  else if kind = 1 then a == b
  else if kind = 2 then a.all (fun x => x.toNat == fld w 4 4)
  else a != b

/-- Whether a rule matches entries given oldest first (R230). -/
def ruleMatches (r : List Byte) (m : List MatOp) : Bool :=
  m.length == ruleNin r && m.all (fun o => o.fresh) &&
  (List.range (ruleNin r)).all (fun i =>
    match m[i]? with
    | some o => o.f6 == ruleByte r (8 + 4 * i) && (o.n &&& ruleByte r (9 + 4 * i)) == ruleByte r (10 + 4 * i)
    | none => false) &&
  (List.range 8).all (fun i => constraintHolds m ((r.drop (24 + 8 * i)).take 8))

/-- The operands of an emitted entry while its assignments apply: by number, whether a vector, and its words; none once a product has
operands of incompatible shape (R243). -/
abbrev Emitting := Option (List (Nat × Bool × List Word))

/-- The product of OP 2 (R241). -/
def scaleProduct (a b : Bool × List Word) : Option (Bool × List Word) :=
  match a, b with
  | (false, x), (false, y) => some (false, [round32mul (x.headD 0) (y.headD 0)])
  | (true, xs), (false, y) => some (true, xs.map (fun x => round32mul x (y.headD 0)))
  | (false, x), (true, ys) => some (true, ys.map (fun y => round32mul (x.headD 0) y))
  | (true, xs), (true, ys) => if xs.length = ys.length then some (true, (xs.zip ys).map (fun p => round32mul p.1 p.2)) else none

/-- One assignment of 4 bytes (R241). -/
def assign (m : List MatOp) (e : Emitting) (w : List Byte) : Emitting :=
  let set_ := fun (l : List (Nat × Bool × List Word)) (v : Bool × List Word) => insertAt l (fld w 0 1) v
  match e with
  | none => none
  | some l =>
    let op := fld w 1 1
    if op = 1 then some (set_ l (refOf m (fld w 2 1)))
    else if op = 2 then (scaleProduct (refOf m (fld w 2 1)) (refOf m (fld w 3 1))).map (set_ l)
    else if op = 3 then some (set_ l (false, [BitVec.ofNat 32 (fld w 3 1)]))
    else some l

/-- How many operands a kind has (R239). -/
def operandCount (f6 : Nat) : Nat := if f6 = 2 then 6 else if f6 = 3 then 12 else if f6 = 4 then 7 else if f6 = 5 then 1 else if f6 = 8 then 4 else 2

/-- The operands of emit slot `i` of a rule (R241); val of a TSCALE without BASE starts as a scalar (log entry 79). -/
def emitOperands (r : List Byte) (m : List MatOp) (i : Nat) : Emitting :=
  let e := (r.drop (88 + 20 * i)).take 20
  let f6 := fld e 0 1
  let start := (List.range (operandCount f6)).map (fun j =>
    match m[fld e 1 1]? with
    | some b => (j + 1, b.isVec (j + 1), b.vec (j + 1))
    | none => if f6 ≠ 9 ∧ vecOperand f6 0 (j + 1) then (j + 1, true, []) else (j + 1, false, [0#32]))
  (List.range 4).foldl (fun acc j => assign m acc ((e.drop (4 + 4 * j)).take 4)) (some start)

/-- The length rules of vectors, and that every operand has the shape of its kind (R243). -/
def shapesOk (f6 m : Nat) (l : List (Nat × Bool × List Word)) : Bool :=
  let v : Nat → Word := fun i => ((((look l i).map (fun (p : Bool × List Word) => p.2)).getD []).headD 0)
  let len : Nat → Nat := fun i => ((look l i).map (fun (p : Bool × List Word) => p.2.length)).getD 0
  l.all (fun p => p.2.1 == vecOperand f6 (v 1).toNat p.1) &&
  (if f6 = 2 then len 6 == (v 4).toNat || (len 6 == 0 && (v 5).toNat % 2 == 1)
   else if f6 = 3 then
     (len 11 == (v 6).toNat || (len 11 == 0 && (v 10).toNat % 2 == 1)) && (len 12 == (v 6).toNat || (len 12 == 0 && v 3 == 0)) &&
     (v 3 == 0 || (((look l 12).map (fun (p : Bool × List Word) => p.2)).getD []).all (fun w => decide (w.toNat < m) || w == 0xFFFFFFFF#32))
   else if f6 = 9 then v 1 == 2 || decide (0 < len 2)
   else true)

/-- The maps of registers under which an emitted entry is read: what a matched entry names, else what the block maps. -/
def State.emitMaps (s : State) (blk : Nat) (m : List MatOp) : (Nat → Option Nat) × (Nat → Option Nat) :=
  let os := m.flatMap (fun o =>
    if o.f6 = 2 ∨ o.f6 = 3 then
      let b := o.val (if o.f6 = 2 then 1 else 4)
      [(b % 16, o.slots[0]?), (b / 16, o.slots[1]?)]
    else if o.f6 = 8 then [(o.val 1, o.slots[0]?), (o.val 2, o.slots[1]?)] else [])
  let as_ := m.flatMap (fun o =>
    if o.f6 = 4 then [(o.val 1, o.obj), (o.val 5, o.dest)] else if o.f6 = 3 ∨ o.f6 = 5 then [(o.val 1, o.obj)] else [])
  let pick := fun (l : List (Nat × Option Nat)) (d : Nat → Option Nat) (n : Nat) =>
    match l.find? (fun p => p.1 == n && p.2.isSome) with
    | some p => p.2
    | none => d n
  (pick os (s.oReg blk), pick as_ (s.aReg blk))

/-- The entry of emit slot `i`, if its values are legal (R230, R241, R243). Origin, issuer and place are those of the matched set. -/
def State.emitEntry (s : State) (c : Nat) (r : List Byte) (rule : Nat) (m : List MatOp) (i : Nat) : Option MatOp :=
  match m, emitOperands r m i with
  | o0 :: _, some l =>
    let f6 := ruleByte r (88 + 20 * i)
    let base := m[ruleByte r (89 + 20 * i)]?
    let v := fun (j : Nat) => ((((look l j).map (fun (p : Bool × List Word) => p.2)).getD []).headD 0).toNat
    let maps := s.emitMaps o0.blk m
    match s.named c f6 v maps.1 maps.2 with
    | none => none
    | some nm =>
      let rows := (nm.obj.map (s.tileRows c)).getD 0
      let table := if f6 = 4 then (base.map (fun b => b.table)).getD [] else []
      if shapesOk f6 rows l && table.all (fun p => p.2.length == rows) then
        some { o0 with
          f6 := f6, n := nField f6 v, ops := l.map (fun p => (p.1, p.2.2)), table := table, obj := nm.obj, slots := nm.slots, dest := nm.dest
          lanes := (m.flatMap (fun o => o.lanes)).eraseDups, step := m.foldl (fun x o => max x o.step) 0, after := [], toks := []
          rule := some rule, set := s.ids + 1, fresh := true, pleat := none, newPleat := false, setPleat := none, labels := []
          untrust := m.any (fun o => o.untrust), reset := none, spoilt := m.any (fun o => o.spoilt) }
      else none
  | _, _ => none

/-- The tokens a matched set carries: those of its entries (R232). -/
def carried (m : List MatOp) : List Token := m.flatMap (fun o => o.toks)

/-- The first rule that matches the newest entries and whose emitted values are legal (R230): the entries matched, the entries emitted. Of a
rule of class S or A the device may give the results of the original entries instead (R234): a free choice, for which it answers none. -/
def State.firstRule (s : State) (c cls : Nat) (win : List MatOp) : List (Nat × List Byte) → Option (List MatOp × List MatOp)
  | [] => none
  | (ix, r) :: rest =>
    let m := win.drop (win.length - ruleNin r)
    let out := (List.range (ruleNout r)).map (s.emitEntry c r ix m)
    if ruleClass r ≤ cls ∧ ruleNin r ≤ win.length ∧ ruleMatches r m ∧ out.all Option.isSome then
      if 1 ≤ ruleClass r ∧ s.freeBit (2 ^ 41 + 64 * s.ids + ix) then none else some (m, out.filterMap id)
    else State.firstRule s c cls win rest

/-- The emitted entries of a set in their place: the first keeps the place and the reset of the set, the last carries the tokens. -/
def placeEmitted (ids : Nat) (reset : Option Latch) (toks : List Token) : List MatOp → List MatOp
  | [] => []
  | [a] => [{ a with reset := reset, toks := toks }]
  | a :: b :: _ => [{ a with reset := reset }, { b with id := ids, toks := toks }]

/-- Rules applied after an arrival, at most `fuel` of them (R230): the matched set replaced, its tokens following the emitted one, or, with
nothing emitted, the operations ahead of it (R232). -/
def State.rewrite (s : State) (c cls : Nat) (rules : List (Nat × List Byte)) : Nat → State
  | 0 => s
  | fuel + 1 =>
    let k := s.core c
    match s.firstRule c cls k.window rules with
    | none => s
    | some (m, out) =>
      let before := k.window.take (k.window.length - m.length)
      let reset := m.findSome? (fun o => o.reset)
      let s1 : State := { s with ids := s.ids + 2 }
      let s2 := s1.onCore c (fun k => { k with
        window := before ++ placeEmitted s.ids reset (carried m) out
        mq := if out.isEmpty && reset.isSome then { k.mq with resetDue := reset } else k.mq
        voids := if out.isEmpty then k.voids ++ [⟨(k.mq.ops ++ before).map (fun o => o.id) ++ (match k.array with
          | some (false, o) => [o.id]
          | _ => []), carried m⟩] else k.voids })
      State.rewrite s2 c cls rules fuel

/-! ## Into the matrix queue -/

/-- A token of a completed operation written (R171): an MMA's pleat, 0 for the rest. -/
def State.tokenValue (s : State) (t : Token) (pleat : Nat) : State := s.writeToken t.who t.reg (if t.mma then BitVec.ofNat 32 pleat else 0)

/-- The sets with nothing left ahead of them write their tokens (spec/11 R232). -/
def State.settleVoids (s : State) (c : Nat) : State :=
  let done_ := fun (v : VoidSet) => !v.after.any s.opLive
  (((s.core c).voids.filter done_).flatMap (fun v => v.toks)).foldl (fun t k => t.writeToken k.who k.reg 0)
    (s.onCore c (fun k => { k with voids := k.voids.filter (fun v => !done_ v) }))

/-- What a report caused by an operation leaves in $tailrule (spec/11 R245). -/
def MatOp.blame (o : MatOp) : Word :=
  match o.rule with
  | some r => BitVec.ofNat 32 (2 ^ 31 + r)
  | none => 0

/-- The latched state that an operation was to bring is brought by the next operation of its queue (R192). -/
def State.passReset (s : State) (c : Nat) (zero : Bool) (reset : Option Latch) : State :=
  match reset with
  | none => s
  | some l =>
    s.onCore c (fun k =>
      match zero, k.window with
      | false, e :: rest => { k with window := { e with reset := if e.reset.isSome then e.reset else some l } :: rest }
      | _, _ => k.onQueue zero (fun q => { q with resetDue := if q.resetDue.isSome then q.resetDue else some l }))

/-- AN MMA REFUSED WITH PLEAT (R197, spec/11 R232): every token of its set is written at once, and its issuing lane throws. -/
def State.refusePleat (s : State) (c : Nat) (o : MatOp) : State :=
  let mine := fun (x : MatOp) => o.set != 0 && x.set == o.set
  let toks := o.toks ++ ((s.core c).window.filter mine).flatMap (fun x => x.toks)
  let s1 := s.onCore c (fun k => { k with window := k.window.map (fun x => if mine x then { x with toks := [] } else x) })
  let s2 := toks.foldl (fun t k => t.writeToken k.who k.reg 0xFFFFFFFF#32) s1
  s2.dueThrow o.who 7 0 o.who.pc o.blame o.step

/-- AN OPERATION ENTERS A MATRIX QUEUE (R197, R198): an MMA finds or allocates its pleat, an ACCZERO empties the label table, a BIND takes it
as it stands. -/
def State.queueEntry (s : State) (c : Nat) (zero : Bool) (o : MatOp) : State :=
  let push := fun (t : State) (x : MatOp) => t.onCore c (fun k => k.onQueue zero (fun q => { q with ops := q.ops ++ [x] }))
  match o.obj.bind (fun id => (s.tileOf c id).map (fun t => (id, t))) with
  | none => push s o
  | some (id, t) =>
    if o.f6 = 5 then push (s.onTile c id (fun x => { x with labels := [] })) o
    else if o.f6 = 4 then push s { o with labels := t.labels }
    else
      let found := fun (u : State) (p : Nat) (fresh : Bool) =>
        let v := if p < t.p then p else 0x100 + (p - t.p)
        let o1 : MatOp := { o with pleat := some p, newPleat := fresh, setPleat := if o.setPleat.isSome then o.setPleat else some v }
        let u1 := u.onCore c (fun k => { k with window := k.window.map (fun x =>
          if o.set ≠ 0 ∧ x.set = o.set ∧ x.setPleat.isNone then { x with setPleat := some v } else x) })
        push u1 o1
      match indexOf (fun l => l == o.val 9) t.labels with
      | some p => found s p false
      | none =>
        if t.labels.length < t.p + (if t.policy = 1 then t.spillN else 0) then
          found (s.onTile c id (fun x => { x with labels := x.labels ++ [o.val 9] })) t.labels.length true
        else (((s.refusePleat c o).passReset c zero o.reset).settleVoids c).tidy c

/-- The oldest entry of a window leaves into the matrix queue, where that has room (spec/11 R229). -/
def State.windowLeave (s : State) (c : Nat) : State :=
  let k := s.core c
  match k.window with
  | [] => s
  | o :: rest =>
    if 32 ≤ k.mq.ops.length then s
    else (s.onCore c (fun k => { k with window := rest, winSince := s.clockOf c })).queueEntry c false o

/-- Entries leave, the oldest first, until a window holds no more than some number (spec/11 R229), at most `fuel` of them. -/
def State.leaveTo (s : State) (c n : Nat) : Nat → State
  | 0 => s
  | fuel + 1 => if (s.core c).window.length ≤ n then s else State.leaveTo (s.windowLeave c) c n fuel
/-- Every entry leaves, as far as the matrix queue has room. -/
def State.leaveAll (s : State) (c fuel : Nat) : State := s.leaveTo c 0 fuel

/-- AN OPERATION ARRIVES (spec/11 R228 to R230, spec/09 R194): of class 0 in its queue, any other in the window, which holds 16 entries, those
that rules emit among them. -/
def State.matArrive (s : State) (c : Nat) (o : MatOp) : State :=
  if s.isZero o.blk then s.queueEntry c true o
  else
    let s1 := s.leaveTo c 15 20
    let s2 := s1.onCore c (fun k => { k with
      window := k.window ++ [o], winSince := if k.window.isEmpty then s.clockOf c else k.winSince })
    let rules := match s2.progOf o.blk with
      | some p => (List.range p.rules.length).map (fun i => (i, p.rules.getD i []))
      | none => []
    (((s2.rewrite c (s2.recOf o.blk).rnd rules 4).settleVoids c).leaveTo c 16 4)

/-- Whether a matrix queue holds an operation that waits to enter the array; a fence never does (spec/11 R229). -/
def MatQueue.holdsOp (q : MatQueue) : Bool := q.ops.any (fun o => o.f6 != 10)

/-- WINDOW_ENTRY_LEAVE (spec/11 R229): after a flush, or while the matrix queue holds no waiting operation. -/
def execWindowEntryLeave (c : Nat) (s : State) : Res :=
  done (match (s.core c).window with
    | [] => s
    | o :: _ => if !o.fresh || !(s.core c).mq.holdsOp || decide (16 < (s.core c).window.length) then s.windowLeave c else s)

/-- Before a core issues, an entry that has stayed to the end of its bound leaves (spec/11 R229). -/
def State.overdue (s : State) (c : Nat) : State :=
  let k := s.core c
  if !k.mq.holdsOp && !k.window.isEmpty && decide (k.winSince + 32 ≤ s.clockOf c) then s.windowLeave c else s

end Sys2Proof.Machine
end

