-- ==== Sys2Proof/Machine/Matrix.lean ====
section
/-! DEFINITION. The MTX instructions at issue: the thimble, operand slots and tiles, WLOAD, MMA, BIND, ACCZERO, TRANS, TSCALE; QFENCE;
TSLR and TSLW (spec/09 R167, R168, R180 to R198). -/

namespace Sys2Proof.Machine

/-! ## Stalls before issue -/

/-- An instruction that needs the thimble does not issue until its wave holds it (R192); one that finds no room in the window, or for
class 0 in its queue, stalls (R169, spec/11 R229). -/
def State.withThimble (s : State) (k : Wave → State) : State :=
  match s.curWave with
  | none => s
  | some w =>
    if (s.queueOf w.core w.blk).holder ≠ some w.slot then s.holdAll (.thimble (s.clockOf w.core))
    else if !s.windowRoom w.core w.blk 0 then s.holdAll .window
    else k w

/-- An operation issued by the path: it arrives, its token becomes pending, the lanes go on (R167, spec/11 R228). The first one after the
thimble came from another block resets the latched state (R192). Where the window would hold more than 16 entries, those that rules emit among them, the path stalls
(spec/11 R229). -/
def State.enterMat (s : State) (w : Wave) (f6 tok : Nat) (ops : List (Nat × List Word)) (table : List (Nat × List Word)) (nm : Named)
    (t : Bool) : State :=
  let zero := s.isZero w.blk
  let op : MatOp :=
    { id := s.ids, blk := w.blk, who := s.issuer, lanes := s.cur.lanes, step := s.free, f6 := f6,
      n := nField f6 (fun i => (((look ops i).getD []).headD 0).toNat), ops := ops, table := table, obj := nm.obj, slots := nm.slots,
      dest := nm.dest, after := [], toks := if tok = 63 then [] else [⟨s.issuer, tok, f6 == 3⟩], rule := none, set := 0, fresh := true,
      pleat := none, newPleat := false, setPleat := none, labels := [], untrust := false, reset := (s.queueOf w.core w.blk).resetDue,
      spoilt := false }
  let s1 := ({ s with ids := s.ids + 1 } : State).onCore w.core (fun k => k.onQueue zero (fun q => { q with resetDue := none }))
  let s2 := (s1.pend tok).matArrive w.core op
  if 16 < (s2.core w.core).window.length then s.holdAll .window
  else (s2.gauge 5 w.core (some (s.vfOf w.blk)) (s2.queueOf w.core w.blk).ops.length).perLane t (fun _ th => .next th)

/-! ## QFENCE -/

/-- The matrix operation that stands for a fence in a matrix queue (R180). -/
def fenceOp (id blk : Nat) (who : Issuer) (lanes : List Nat) (step : Nat) (after : List Nat) (toks : List Token) : MatOp :=
  { id := id, blk := blk, who := who, lanes := lanes, step := step, f6 := 10, n := 0, ops := [], table := [], obj := none, slots := [],
    dest := none, after := after, toks := toks, rule := none, set := 0, fresh := false, pleat := none, newPleat := false, setPleat := none,
    labels := [], untrust := false, reset := none, spoilt := false }

/-- The operations a fence of a block waits for: those of the block in the queues it names (R180). -/
def State.fenceAfter (s : State) (w : Wave) (n : Nat) : List Nat :=
  let copies := match s.block? w.blk with
    | some b => (List.range 5).flatMap (fun q => if n.testBit q then (b.queues.getD q []).map (fun o => o.id) else [])
    | none => []
  copies ++ (if n.testBit 5 then ((s.core w.core).matOps.filter (fun o => o.blk == w.blk)).map (fun o => o.id) else [])

/-- The first queue a fence names that is full (R169). -/
def State.fenceFull (s : State) (w : Wave) (n : Nat) : Option Wait :=
  match (List.range 5).find? (fun q => n.testBit q && !((s.block? w.blk).bind (fun b => b.queues[q]?)).any (fun l => decide (l.length < 32))) with
  | some q => some (.queue q)
  | none => if n.testBit 5 && !s.fenceRoom w.core w.blk then some (.queue 5) else none

/-- QFENCE (R180): an entry in each queue it names; the first of them carries the token. Of the matrix queue, behind the entries of the window,
which it flushes. -/
def execQfence (n k : BitVec 6) (t : Bool) (s : State) : Res :=
  done (s.withTokens [k.toNat] (match s.curWave with
    | none => s
    | some w =>
      if n = 0 then s.illop
      else
        match s.fenceFull w n.toNat with
        | some x => s.holdAll x
        | none =>
          let after := s.fenceAfter w n.toNat
          let qs := (List.range 5).filter (fun q => n.toNat.testBit q)
          let s1 := qs.foldl (fun u q => ({ u with ids := u.ids + 1 } : State).onCopies w.blk q (fun l => l ++
            [{ id := u.ids, blk := w.blk, who := s.issuer, lanes := s.cur.lanes, step := s.free, tok := if qs.head? = some q then k.toNat else 64,
               gone := [], list := [], fence := true, after := after, started := true, captured := [], landed := [], req := none, spoilt := false }])) s
          let s2 := if n.getLsbD 5 then
              let toks := if qs.isEmpty ∧ k.toNat ≠ 63 then [(⟨s.issuer, k.toNat, false⟩ : Token)] else []
              let held := (s.core w.core).window.any (fun e => e.blk == w.blk)
              let u := ({ s1 with ids := s1.ids + 1 }).flushFor w.core w.blk
              (if held then u.leaveAll w.core 20 else u).onCore w.core (fun c => c.onQueue (s.isZero w.blk) (fun x =>
                { x with ops := x.ops ++ [fenceOp s1.ids w.blk s.issuer s.cur.lanes s.free after toks] }))
            else s1
          (s2.pend k.toNat).perLane t (fun _ th => .next th)))

/-! ## The thimble -/

/-- THMTAKE (R192). -/
def execThmtake (t : Bool) (s : State) : Res :=
  done (match s.curWave with
    | none => s
    | some w =>
      if (s.queueOf w.core w.blk).holder = some w.slot then s.perLane t (fun _ th => .next th)
      else s.holdAll (.thimble (s.clockOf w.core)))

/-- THMPASS (R193): ILLOP in a wave that does not hold the thimble. -/
def execThmpass (t : Bool) (s : State) : Res :=
  done (match s.curWave with
    | none => s
    | some w =>
      if (s.queueOf w.core w.blk).holder ≠ some w.slot then s.illop
      else ((s.flushFor w.core w.blk).passThimble w false).perLane t (fun _ th => .next th))

/-- THMPASS.FREE (R193). -/
def execThmpassFree (t : Bool) (s : State) : Res :=
  done (match s.curWave with
    | none => s
    | some w =>
      if (s.queueOf w.core w.blk).holder ≠ some w.slot then s.illop
      else ((s.flushFor w.core w.blk).onCore w.core (fun k => k.onQueue (s.isZero w.blk) (fun q => { q with holder := none }))).perLane t
        (fun _ th => .next th))

/-- When the first path of a wave that waits for the thimble began to wait (R192). -/
def Wave.thimbleSince (w : Wave) : Option Nat :=
  (w.lanes.filterMap (fun t =>
    match t.live, t.wait with
    | true, .thimble c => some c
    | _, _ => none)).min?

/-- THIMBLE_GRANT (R192): a free thimble goes to a waiting wave, first of the lowest class, then of those that waited longest; which of
several such is not promised. -/
def execThimbleGrant (c : Nat) (zero : Bool) (s : State) : Res :=
  done (if ((s.core c).queue zero).holder.isSome then s
    else
      let key := fun (w : Wave) => (((s.launchOf w.blk).map (fun l => l.prog.lrec.cls)).getD 7, (w.thimbleSince).getD 0)
      let waits := s.waves.filter (fun w => w.core == c && s.isZero w.blk == zero && w.thimbleSince.isSome)
      let before := fun (a b : Nat × Nat) => decide (a.1 < b.1) || (a.1 == b.1 && decide (a.2 < b.2))
      let best := waits.filter (fun w => waits.all (fun v => !before (key v) (key w)))
      match best[Config.freeNat s.free 6300000 % max 1 best.length]? with
      | some w => s.onCore c (fun k => k.onQueue zero (fun q => q.give w.slot w.blk))
      | none => s)

/-! ## Slots -/

/-- CLAIM (R182). -/
def execClaim (o : BitVec 4) (t : Bool) (s : State) : Res :=
  done (match s.curWave with
    | none => s
    | some w =>
      if (s.oReg w.blk o.toNat).isSome then s.illop
      else if s.slotsFor w.core w.blk = 0 then s.holdAll .claim
      else
        let id := s.ids
        let s1 := ({ s with ids := s.ids + 1 } : State).onCore w.core (fun k => { k with
          slots := insertAt k.slots id { blk := w.blk, mapped := true, data := [] } })
        (s1.onBlock w.blk (fun b => { b with o := insertAt b.o o.toNat id })).perLane t (fun _ th => .next th))

/-- RELEASE (R183): a slot that a window entry names flushes the window. -/
def execRelease (o : BitVec 4) (t : Bool) (s : State) : Res :=
  done (match s.curWave with
    | none => s
    | some w =>
      match s.oReg w.blk o.toNat with
      | none => s.illop
      | some id =>
        let s1 := s.onCore w.core (fun k =>
          let k1 : Core := { k with slots := onKey k.slots id (fun x => { x with mapped := false }) }
          if k.window.any (fun e => e.slots.elem id) then k1.flushWindow else k1)
        ((s1.onBlock w.blk (fun b => { b with o := eraseAt b.o o.toNat })).tidy w.core).perLane t (fun _ th => .next th))

/-- The row and the first byte of the slice a lane reaches (R184). -/
def slice (col : Bool) (idx lane : Nat) : Nat × Nat := if col then (32 * (idx / 32) + lane, 4 * (idx % 32)) else (idx, 4 * lane)

/-- Whether two byte ranges of slot offsets meet, a range being rows, bytes of each row. -/
def CopyDesc.touches (d : CopyDesc) (id row byte : Nat) : Bool :=
  d.onSlot && d.obj == id && (List.range d.rows).any (fun i => !d.skips i && d.first + i == row) && decide (byte < d.rbytes)

/-- The K that an operation finds latched, as the operations of its queue stand (R187, R190, R192): that of the last WLOAD before it, or what
its queue has latched; 128 where a rule of the Tailor stage that matches or emits a WLOAD may still change one before it. -/
def State.latchedK (s : State) (c : Nat) (o : MatOp) : Nat :=
  let k := s.core c
  let zero := s.isZero o.blk
  let q := k.queue zero
  let line := (match k.array with
    | some (z, x) => if z = zero then [x] else []
    | none => []) ++ q.ops ++ (if zero then [] else k.window)
  let before := line.takeWhile (fun x => x.id != o.id)
  let loads := fun (r : List Byte) => (List.range (ruleNin r)).any (fun i => ruleByte r (8 + 4 * i) == 2) || (List.range (ruleNout r)).any (fun i => ruleByte r (88 + 20 * i) == 2)
  if (before ++ [o]).any (fun x => x.fresh && k.window.any (fun e => e.id == x.id) && ((s.progOf x.blk).map (fun p => p.rules.any loads)).getD false)
  then 128
  else (before ++ [{ o with f6 := 0 }]).foldl (fun (n : Nat) (x : MatOp) =>
    let n1 := match x.reset with
      | some l => l.k
      | none => n
    if x.f6 = 2 then x.val 3 else n1) q.latch.k

/-- Whether a matrix operation reads or writes a byte of a slot (R181, R185, R187, R189), `kk` the K it finds latched. -/
def MatOp.touches (o : MatOp) (kk id row byte : Nat) : Bool :=
  let at_ := fun (i : Nat) => o.slots[i]? == some id
  if o.f6 = 2 then
    if fmtWide (o.val 2) then
      let off := 128 * row + byte
      let inCol := fun (j : Nat) => decide (j < o.val 4) && decide (off % 256 / 2 < o.val 3)
      (at_ 0 && inCol (off / 256)) || (at_ 1 && inCol (128 + off / 256))
    else at_ 0 && decide (row < o.val 4) && decide (byte < o.val 3)
  else if o.f6 = 3 then
    let first := o.val 7
    let used := fun (r : Nat) => decide (first ≤ r) && decide (r < first + o.val 6) && (o.destRow (r - first)).isSome
    if fmtWide (o.val 5) then
      decide (128 * (row % 2) + byte < 2 * kk) && ((at_ 0 && used (row / 2)) || (at_ 1 && used (128 + row / 2)))
    else at_ 0 && used row && decide (byte < kk)
  else if o.f6 = 8 then
    let n := 128 / max 1 (o.val 3)
    (at_ 0 && decide (o.val 4 ≤ row) && decide (row < o.val 4 + n)) || (at_ 1 && decide (row < n))
  else false

/-- TSLR (R184). -/
def execTslr (d : Reg) (i sb : BitVec 6) (r : Bool) (o : BitVec 4) (t : Bool) (s : State) : Res :=
  done (s.withRegs [d.toNat] (match s.curWave with
    | none => s
    | some w =>
      match s.oReg w.blk o.toNat with
      | none => s.illop
      | some id => s.withTokens [sb.toNat] (s.perLane t (fun w th =>
          let idx := ((w.regs.s? sb.toNat).toNat + i.toNat) % 256
          let p := slice r idx th.lane
          let bs := (List.range 4).map (fun j => s.slotByte w.core id (128 * p.1 + p.2 + j))
          .next (th.setG s d.toNat (BitVec.ofNat 32 (leNat bs)))))))

/-- A copy operation or matrix operation whose bytes a TSLW has touched gives an undefined result (R184). -/
def State.spoil (s : State) (c id row byte : Nat) : State :=
  let hit := fun (f : Nat → Bool) => (List.range 4).any (fun j => f (byte + j))
  let s1 : State := { s with blocks := s.blocks.map (fun b => (b.1, { b.2 with queues := b.2.queues.map (fun q => q.map (fun o =>
    if o.who.core = c ∧ o.all.any (fun d => hit (d.touches id row)) then { o with spoilt := true } else o)) })) }
  s1.onCore c (fun k => k.onMatOps (fun o => if hit (o.touches (s.latchedK c o) id row) then { o with spoilt := true } else o))

/-- Whether a queued or running operation reads or writes a byte of a slot. -/
def State.slotBusy (s : State) (c id row byte : Nat) : Bool :=
  (s.copiesOn c).any (fun o => o.all.any (fun d => d.touches id row byte)) ||
  (s.core c).matOps.any (fun o => o.touches (s.latchedK c o) id row byte)

/-- TSLW (R184): bytes that an operation under way reads or writes become undefined, and its result with them. -/
def execTslw (d : Reg) (i sb : BitVec 6) (r : Bool) (o : BitVec 4) (t : Bool) (s : State) : Res :=
  done (s.withRegs [d.toNat] (match s.curWave with
    | none => s
    | some w =>
      match s.oReg w.blk o.toNat with
      | none => s.illop
      | some id => s.withTokens [sb.toNat] (
          let idx := ((w.regs.s? sb.toNat).toNat + i.toNat) % 256
          let s1 := (w.lanes.filter (fun th => s.cur.lanes.elem th.lane)).foldl (fun u th =>
            let p := slice r idx th.lane
            let bs := (List.range 4).map (fun j => if s.slotBusy w.core id p.1 (p.2 + j) then (u.anyBytes (6400000 + th.lane) 4).getD j 0
              else (leBytes 4 (th.g? s d.toNat).toNat).getD j 0)
            (u.slotWrite w.core id (128 * p.1 + p.2) bs).spoil w.core id p.1 p.2) s
          s1.perLane t (fun _ th => .next th))))

/-! ## Tiles -/

/-- The fields of ACLAIM's block within their limits (R195). -/
def aclaimTile (blk : Nat) (bs : List Byte) : Chk Tile := do
  let m := fld bs 0 2
  let p := fld bs 2 1
  let pol := fld bs 3 1
  let sp := fld bs 4 2
  let va := fld bs 8 8
  need cILLOP (decide (32 ≤ m) && decide (m ≤ 256) && m % 32 == 0 && (p == 1 || p == 2 || p == 4 || p == 8) && fld bs 6 2 == 0 &&
    (if pol = 1 then decide (1 ≤ sp) && decide (sp ≤ 256) && va % 64 == 0 else pol == 0 && sp == 0 && va == 0))
  pure { blk := blk, mapped := true, m := m, p := p, policy := pol, spillN := sp, spill := BitVec.ofNat 64 va, labels := [],
         untrusted := false, breached := false, zeroed := [], rows := [] }

/-- ACLAIM (R195). -/
def execAclaim (a : BitVec 4) (sb : BitVec 6) (t : Bool) (s : State) : Res :=
  done (s.withTokens [sb.toNat] (match s.curWave with
    | none => s
    | some w =>
      if (s.aReg w.blk a.toNat).isSome then s.illop
      else s.afterAccesses (fun s => s.checked (do let bs ← s.paramBlock w sb.toNat 16; aclaimTile w.blk bs) (fun tile =>
        if s.rowsFor w.core w.blk < tile.m * tile.p then s.holdAll (.aclaim (tile.m * tile.p))
        else
          let id := s.ids
          let s1 := ({ s with ids := s.ids + 1 } : State).onCore w.core (fun k => { k with tiles := insertAt k.tiles id tile })
          (s1.onBlock w.blk (fun b => { b with a := insertAt b.a a.toNat id })).perLane t (fun _ th => .next th)))))

/-- AFREE (R195). -/
def execAfree (a : BitVec 4) (t : Bool) (s : State) : Res :=
  done (match s.curWave with
    | none => s
    | some w =>
      match s.aReg w.blk a.toNat with
      | none => s.illop
      | some id =>
        let s1 := s.onCore w.core (fun k => { k with tiles := onKey k.tiles id (fun x => { x with mapped := false }) })
        ((s1.onBlock w.blk (fun b => { b with a := eraseAt b.a a.toNat })).tidy w.core).perLane t (fun _ th => .next th))

/-! ## The operations of the matrix queue -/

/-- One, in binary32. -/
def one32 : Word := 0x3F800000#32
/-- A scalar operand. -/
def scal (n : Nat) : List Word := [BitVec.ofNat 32 n]
/-- Scalars numbered from 1. -/
def scalars (l : List Nat) : List (Nat × List Word) := (List.range l.length).map (fun i => (i + 1, scal (l.getD i 0)))
/-- What the operands of an operation of a block name, within their limits (R168 items 1 and 3). -/
def State.namedChk (s : State) (w : Wave) (f6 : Nat) (ops : List (Nat × List Word)) : Chk Named :=
  match s.named w.core f6 (fun i => (((look ops i).getD []).headD 0).toNat) (s.oReg w.blk) (s.aReg w.blk) with
  | some nm => .ok nm
  | none => .error cILLOP
/-- A vector of f32 words in scratch. -/
def State.vecChk (s : State) (w : Wave) (a n : Nat) : Chk (List Word) := do
  let bs ← s.scratchChk w.blk a (4 * n)
  pure (wordsOf n bs)

/-- The operands of a checked block. -/
abbrev Parsed := List (Nat × List Word) × List (Nat × List Word) × Named

/-- WLOAD's block (R187). -/
def State.wloadBlock (s : State) (w : Wave) (sb : Nat) : Chk Parsed := do
  let bs ← s.paramBlock w sb 16
  let n := fld bs 4 2
  let unit := fld bs 6 2 == 1
  let sa := fld bs 8 4
  let ops := scalars [fld bs 0 1, fld bs 1 1, fld bs 2 1, n, fld bs 6 2]
  need cILLOP (fld bs 3 1 == 0 && fld bs 12 4 == 0 && (unit || sa % 4 == 0))
  let nm ← s.namedChk w 2 ops
  let v ← if unit then pure (List.replicate n one32) else s.vecChk w sa n
  pure (ops ++ [(6, v)], [], nm)

/-- MMA's block (R186, R189). -/
def State.mmaBlock (s : State) (w : Wave) (a sb : Nat) (acc ridx : Bool) : Chk Parsed := do
  let _ ← s.aChk w.blk a
  let bs ← s.paramBlock w sb 24
  let m := fld bs 2 2
  let unit := fld bs 10 2 == 1
  let sa := fld bs 12 4
  let ra := fld bs 16 4
  let ops := scalars [a, acc.toNat, ridx.toNat, fld bs 0 1, fld bs 1 1, m, fld bs 4 2, fld bs 6 2, fld bs 8 2, fld bs 10 2]
  need cILLOP (fld bs 20 4 == 0 && (unit || sa % 4 == 0) && (ridx || ra == 0))
  let nm ← s.namedChk w 3 ops
  need cILLOP (fmtPair (s.queueOf w.core w.blk).wfmt (fld bs 1 1))
  let v ← if unit then pure (List.replicate m one32) else s.vecChk w sa m
  let rows ← if ridx then s.vecChk w ra m else pure []
  let tileM := (nm.obj.map (s.tileRows w.core)).getD 0
  need cILLOP (rows.all (fun x => decide (x.toNat < tileM) || x == 0xFFFFFFFF#32))
  pure (ops ++ [(11, v), (12, rows)], [], nm)

/-- BIND's table, entry by entry: each one's fields, then its coefficients (R168, R199). -/
def State.bindTable (s : State) (w : Wave) (m : Nat) : List (List Byte) → Chk (List (Nat × List Word))
  | [] => .ok []
  | e :: rest => do
    need cILLOP (fld e 2 2 == 0 && fld e 4 4 % 4 == 0)
    let v ← s.vecChk w (fld e 4 4) m
    let l ← State.bindTable s w m rest
    pure ((fld e 0 2, v) :: l)

/-- BIND's block (R199). -/
def State.bindBlock (s : State) (w : Wave) (a sb : Nat) (sp acc : Bool) : Chk Parsed := do
  let tile ← s.aChk w.blk a
  let bs ← s.paramBlock w sb 16
  let n := fld bs 0 2
  let ctab := fld bs 8 4
  let m := s.tileRows w.core tile
  let ops := scalars [a, sp.toNat, acc.toNat, n, fld bs 2 1, fld bs 4 2, fld bs 12 4]
  need cILLOP (fld bs 3 1 == 0 && fld bs 6 2 == 0 && ctab % 8 == 0)
  let nm ← s.namedChk w 4 ops
  let tab ← s.scratchChk w.blk ctab (8 * n)
  need cFAULT (!sp || s.padRange w.blk (fld bs 12 4) (768 * m))
  let t ← s.bindTable w m ((List.range n).map (fun i => (tab.drop (8 * i)).take 8))
  pure (ops, t, nm)

/-- TRANS's block (R185). -/
def State.transBlock (s : State) (w : Wave) (sb : Nat) : Chk Parsed := do
  let bs ← s.paramBlock w sb 8
  let ops := scalars [fld bs 0 1, fld bs 1 1, fld bs 2 1, fld bs 4 1]
  need cILLOP (fld bs 3 1 == 0 && fld bs 5 3 == 0)
  let nm ← s.namedChk w 8 ops
  pure (ops, [], nm)

/-- TSCALE's block (R188). -/
def State.tscaleBlock (s : State) (w : Wave) (sb mode : Nat) : Chk Parsed := do
  let bs ← s.paramBlock w sb 8
  need cILLOP (fld bs 4 4 == 0)
  let v ← if mode = 2 then pure (scal (fld bs 0 4)) else s.vecChk w (fld bs 0 4) (s.queueOf w.core w.blk).wn
  pure ([(1, scal mode), (2, v)], [], ⟨none, [], none⟩)

/-- A matrix instruction past its stalls: its checks, its arrival (R168). -/
def State.issueMat (s : State) (w : Wave) (f6 : Nat) (k : BitVec 6) (t : Bool) (parse : State → Wave → Chk Parsed) : State :=
  s.checked (parse s w) (fun p =>
    let s1 := if f6 = 2 then
        s.onCore w.core (fun c => c.onQueue (s.isZero w.blk) (fun q =>
          { q with wfmt := (((look p.1 2).getD []).headD 0).toNat, wn := (((look p.1 4).getD []).headD 0).toNat }))
      else s
    s1.enterMat w f6 k.toNat p.1 p.2.1 p.2.2 t)

/-- A matrix instruction: its stalls, its checks, its arrival (R168, R192); one with a parameter block after its path's accesses (R170). -/
def matrix (f6 : Nat) (toks : List Nat) (k : BitVec 6) (t : Bool) (parse : State → Wave → Chk Parsed) (s : State) : Res :=
  done (s.withTokens (toks ++ [k.toNat]) (s.withThimble (fun w =>
    if toks.isEmpty then s.issueMat w f6 k t parse else s.afterAccesses (fun u => u.issueMat w f6 k t parse))))

/-- WLOAD (R187). -/
def execWload (k sb : BitVec 6) (t : Bool) (s : State) : Res := matrix 2 [sb.toNat] k t (fun s w => s.wloadBlock w sb.toNat) s

/-- MMA (R189). -/
def execMma (a : BitVec 4) (r c : Bool) (k sb : BitVec 6) (t : Bool) (s : State) : Res :=
  matrix 3 [sb.toNat] k t (fun s w => s.mmaBlock w a.toNat sb.toNat c r) s

/-- BIND (R199). -/
def execBind (a : BitVec 4) (c p : Bool) (k sb : BitVec 6) (t : Bool) (s : State) : Res :=
  matrix 4 [sb.toNat] k t (fun s w => s.bindBlock w a.toNat sb.toNat p c) s

/-- ACCZERO (R198). -/
def execAcczero (a : BitVec 4) (k : BitVec 6) (t : Bool) (s : State) : Res :=
  matrix 5 [] k t (fun s w => do let nm ← s.namedChk w 5 [(1, scal a.toNat)]; pure ([(1, scal a.toNat)], [], nm)) s

/-- TRANS (R185). -/
def execTrans (k sb : BitVec 6) (t : Bool) (s : State) : Res := matrix 8 [sb.toNat] k t (fun s w => s.transBlock w sb.toNat) s

/-- TSCALE.SET (R188). -/
def execTscaleSet (k sb : BitVec 6) (t : Bool) (s : State) : Res := matrix 9 [sb.toNat] k t (fun s w => s.tscaleBlock w sb.toNat 0) s

/-- TSCALE.MUL (R188). -/
def execTscaleMul (k sb : BitVec 6) (t : Bool) (s : State) : Res := matrix 9 [sb.toNat] k t (fun s w => s.tscaleBlock w sb.toNat 1) s

/-- TSCALE.MULS (R188). -/
def execTscaleMuls (k sb : BitVec 6) (t : Bool) (s : State) : Res := matrix 9 [sb.toNat] k t (fun s w => s.tscaleBlock w sb.toNat 2) s

end Sys2Proof.Machine
end

