-- ==== Sys2Proof/Machine/Admit.lean ====
section
/-! DEFINITION. Launch records and the checks of their admission (spec/21 R301 to R303, R308, spec/11 R242, spec/12 R252, spec/22 R327,
spec/24 R352 to R355). -/

namespace Sys2Proof.Machine

/-! ## Reading tables -/

/-- Bytes at a virtual address as the dispatcher reads them, in aligned pieces of 8 where the address allows. -/
def State.vaBytes (s : State) (vf va n : Nat) : List Byte :=
  let at_ := fun (a k : Nat) => s.homeBytes (s.devAddr vf (BitVec.ofNat 64 a) false) k
  if va % 8 = 0 then ((List.range ((n + 7) / 8)).flatMap (fun i => at_ (va + 8 * i) 8)).take n
  else (List.range n).flatMap (fun i => at_ (va + i) 1)

/-- Whether bytes `off` to `off + n - 1` are 0. -/
def zeroAt (bs : List Byte) (off n : Nat) : Bool := ((bs.drop off).take n).all (fun b => b == 0)

/-- A launch record from its 256 bytes (R301). -/
def recOfBytes (bs : List Byte) : LaunchRec :=
  { entry := BitVec.ofNat 64 (fld bs 0 8), g := fld bs 8 1, l := fld bs 9 1, cls := fld bs 10 1, tail := fld bs 11 1, flags := fld bs 12 1,
    args := fld bs 13 1, scratch := fld bs 16 4, levels := (List.range 8).map (fun k => BitVec.ofNat 32 (fld bs (24 + 4 * k) 4)),
    pva := BitVec.ofNat 64 (fld bs 56 8), pwords := fld bs 64 1, cmask := fld bs 66 2, ncount := fld bs 68 4,
    notch := BitVec.ofNat 64 (fld bs 72 8), ctab := BitVec.ofNat 64 (fld bs 80 8), pattern := BitVec.ofNat 64 (fld bs 88 8),
    ttab := BitVec.ofNat 64 (fld bs 96 8), ranges := BitVec.ofNat 64 (fld bs 104 8), spawnq := BitVec.ofNat 64 (fld bs 112 8),
    edges := BitVec.ofNat 64 (fld bs 120 8), ecount := fld bs 128 4, done := BitVec.ofNat 64 (fld bs 136 8),
    tcb := BitVec.ofNat 64 (fld bs 144 8), coll := BitVec.ofNat 64 (fld bs 152 8) }

/-! ## Step 1: fields -/

/-- The level words within their fields (R302): SIZE from 1, reserved bits 0, words beyond L 0. -/
def levelsFields (r : LaunchRec) : Bool :=
  (List.range 8).all (fun k =>
    let w := (r.levels.getD k 0).toNat
    if k < r.l then decide (1 ≤ w / 2 ^ 16) && (k + 1 != r.l || w / 2 ^ 16 == 1) && w / 2 ^ 7 % 2 ^ 9 == 0 && w / 4 % 4 == 0
    else w == 0)

/-- Every field of a record within its range, reserved bytes 0 (R301), the words of its levels among them: a bad one is REASON 1 (log entry 35). `dbg` permits DEBUG (spec/22
R326). -/
def fieldsOk (bs : List Byte) (r : LaunchRec) (dbg : Bool) : Bool :=
  canonicalVa r.entry && r.entry.toNat % 16 == 0 && decide (8 ≤ r.g) && decide (r.g ≤ 128) && r.g % 8 == 0 && decide (2 ≤ r.l) &&
  decide (r.l ≤ 8) && decide (r.cls ≤ 7) && decide (1 ≤ r.tail) && decide (r.tail ≤ 32) && r.flags / 64 == 0 && r.rnd != 3 &&
  (!r.debug || dbg) && decide (r.args ≤ 60) && zeroAt bs 14 2 && decide (r.scratch ≤ 262144) && levelsFields r && decide (r.pwords ≤ 62) &&
  zeroAt bs 65 1 && decide (r.ncount ≤ 65536) && decide (r.ecount ≤ 256) && zeroAt bs 132 4 && (r.collective || r.coll == 0) &&
  zeroAt bs 160 96

/-- The bindings of the levels (R14, R302), with 1 ≤ W ≤ 32 and 2 ≤ B ≤ 16. -/
def bindingsOk (r : LaunchRec) : Bool :=
  let ks := List.range r.l
  let blocks := r.gangs * r.blocksPerGang
  ks.all (fun k => (r.domain k == 0) == (k == 0)) &&
  ks.all (fun k => k + 1 == r.l || decide (r.domain k ≤ r.domain (k + 1))) &&
  ks.all (fun k => decide (r.domain k ≤ r.scopeOf k) && decide (r.scopeOf k ≤ 5)) &&
  (r.topOf 1).isSome && decide (1 ≤ r.wavesPerBlock) && decide (r.wavesPerBlock ≤ 32) &&
  (!r.hasGang || (decide (2 ≤ r.blocksPerGang) && decide (r.blocksPerGang ≤ 16))) &&
  r.domain (r.l - 1) == (if blocks = 1 then 1 else if r.hasGang ∧ r.gangs = 1 then 2 else 3)

/-! ## Step 2: fit -/

/-- Wave slots a wave takes, register-file bytes of a block, its scratchpad allocation (R19, R29, R388). -/
def LaunchRec.slotsPerWave (r : LaunchRec) : Nat := if r.lined then 2 else 1
def LaunchRec.fileBytes (r : LaunchRec) : Nat := 128 * r.g * r.wavesPerBlock * r.slotsPerWave
def LaunchRec.padAlloc (r : LaunchRec) : Nat := (r.scratch + 1023) / 1024 * 1024
/-- Whether a block fits an empty core (R303 step 2). -/
def fitsEmpty (r : LaunchRec) : Bool :=
  decide (r.wavesPerBlock * r.slotsPerWave ≤ 128) && decide (r.fileBytes ≤ 524288) && decide (r.padAlloc ≤ 262144)

/-! ## Step 3: tables -/

/-- A notch entry's layout (R252): none where a reserved bit is 1. -/
def notchOf (g : Nat) (e : List Byte) : Option Notch :=
  let gm := fld e 8 16
  if fld e 0 8 % 2 = 0 ∧ fld e 24 1 < 128 ∧ fld e 25 1 < 8 ∧ zeroAt e 26 6 ∧ gm % 2 ^ 127 / 2 ^ (g - 1) = 0 then
    some { addr := fld e 0 8, gmask := gm, pmask := fld e 24 1, lcmask := fld e 25 1 }
  else none
/-- Strictly ascending addresses. -/
def ascending : List Notch → Bool
  | [] => true
  | [_] => true
  | a :: b :: rest => decide (a.addr < b.addr) && ascending (b :: rest)
/-- All of a list of options, or none. -/
def allSome {α : Type} : List (Option α) → Option (List α)
  | [] => some []
  | some x :: rest => (allSome rest).map (fun l => x :: l)
  | none :: _ => none

/-- The notch table of a record (R252, R303 step 3). -/
def State.readNotches (s : State) (vf : Nat) (r : LaunchRec) : Option (List Notch) :=
  let va := r.notch.toNat
  let hd := s.vaBytes vf va 16
  if va % 8 = 0 ∧ fld hd 0 4 = r.ncount ∧ zeroAt hd 4 12 then
    match allSome ((List.range r.ncount).map (fun i => notchOf r.g (s.vaBytes vf (va + 16 + 32 * i) 32))) with
    | some l => if ascending l then some l else none
    | none => none
  else none

/-- A kind the window holds (R242). -/
def windowKind (f6 : Nat) : Bool := f6 == 2 || f6 == 3 || f6 == 4 || f6 == 5 || f6 == 8 || f6 == 9
/-- A reference byte names an operand of a match slot in use (R239, R242). -/
def refOk (r : List Byte) (ref : Nat) : Bool :=
  decide (ref / 64 < ruleNin r) && ref / 16 % 4 == 0 && decide (1 ≤ ref % 16) &&
  decide (ref % 16 ≤ operandCount (ruleByte r (8 + 4 * (ref / 64))))
/-- Whether an operand number is scol, srow or val. -/
def scaleOperand (f6 i : Nat) : Bool := (f6 == 2 && i == 6) || (f6 == 3 && i == 11) || (f6 == 9 && i == 2)
/-- A constraint of 8 bytes (R240, R242). -/
def constraintOk (r w : List Byte) : Bool :=
  let kind := fld w 0 1
  fld w 3 1 == 0 &&
  (if kind = 0 then zeroAt w 1 7
   else if kind = 2 then refOk r (fld w 1 1) && fld w 2 1 == 0
   else decide (kind ≤ 3) && refOk r (fld w 1 1) && refOk r (fld w 2 1))
/-- An assignment of 4 bytes of an emit slot of a kind (R241, R242); an OP above 3 breaks the table (log entry 79). -/
def assignOk (r : List Byte) (f6 : Nat) (w : List Byte) : Bool :=
  let field := fld w 0 1
  let op := fld w 1 1
  let ref := fld w 2 1
  let kindOf := fun (x : Nat) => ruleByte r (8 + 4 * (x / 64))
  if op = 0 then zeroAt w 0 4
  else
    decide (op ≤ 3) && decide (1 ≤ field) && decide (field ≤ operandCount f6) && !(f6 == 2 && field == 2) && !(f6 == 3 && field == 5) &&
    !(f6 == 4 && field == 4) &&
    (if op = 1 then refOk r ref
     else if op = 2 then
       scaleOperand f6 field && refOk r ref && refOk r (fld w 3 1) && scaleOperand (kindOf ref) (ref % 16) &&
       scaleOperand (kindOf (fld w 3 1)) (fld w 3 1 % 16)
     else !((f6 == 2 && field == 6) || (f6 == 3 && (field == 11 || field == 12))))
/-- A rule of 128 bytes that R242 accepts. -/
def ruleOk (r : List Byte) : Bool :=
  decide (1 ≤ ruleNin r) && decide (ruleNin r ≤ 4) && decide (ruleNout r ≤ 2) && decide (ruleClass r ≤ 2) && zeroAt r 3 5 &&
  (List.range 4).all (fun i =>
    let w := (r.drop (8 + 4 * i)).take 4
    if i < ruleNin r then
      windowKind (fld w 0 1) && decide (fld w 1 1 < 64) && (fld w 2 1 &&& fld w 1 1) == fld w 2 1 && fld w 3 1 == 0
    else zeroAt w 0 4) &&
  (List.range 8).all (fun i => constraintOk r ((r.drop (24 + 8 * i)).take 8)) &&
  (List.range 2).all (fun i =>
    let e := (r.drop (88 + 20 * i)).take 20
    let f6 := fld e 0 1
    let base := fld e 1 1
    if i < ruleNout r then
      windowKind f6 && zeroAt e 2 2 && (base == 0xFF || (decide (base < ruleNin r) && ruleByte r (8 + 4 * base) == f6)) &&
      (f6 != 4 || base != 0xFF) && (List.range 4).all (fun j => assignOk r f6 ((e.drop (4 + 4 * j)).take 4))
    else zeroAt e 0 20)

/-- The pattern table of a record (R237, R242). -/
def State.readRules (s : State) (vf : Nat) (r : LaunchRec) : Option (List (List Byte)) :=
  if r.pattern = 0 then some []
  else
    let va := r.pattern.toNat
    let hd := s.vaBytes vf va 16
    let n := fld hd 0 2
    if n ≤ 64 ∧ zeroAt hd 2 14 then
      let rs := (List.range n).map (fun i => s.vaBytes vf (va + 16 + 128 * i) 128)
      if rs.all ruleOk then some rs else none
    else none

/-- The declared constant banks (R301). -/
def State.readBanks (s : State) (vf : Nat) (r : LaunchRec) : Option (List (Nat × Nat × Nat)) :=
  allSome (((List.range 16).filter (fun k => r.cmask.testBit k)).map (fun k =>
    let e := s.vaBytes vf (r.ctab.toNat + 16 * k) 16
    if 1 ≤ fld e 8 4 ∧ fld e 8 4 ≤ 65536 ∧ zeroAt e 12 4 then some (k, fld e 0 8, fld e 8 4) else none))

/-- The bytes of banks as they are now. -/
def State.bankBytes (s : State) (vf : Nat) (banks : List (Nat × Nat × Nat)) : Bytes :=
  banks.foldl (fun m b =>
    let bs := s.vaBytes vf b.2.1 b.2.2
    (List.range b.2.2).foldl (fun m i => setD m 0#8 (b.1 * 2 ^ 16 + i) (bs.getD i 0)) m) []

/-! ## Step 4: ranges -/

/-- A range entry (R327): none where a field is out of range. -/
def rangeOf (e : List Byte) : Option Range :=
  if canonicalVa (BitVec.ofNat 64 (fld e 0 8)) ∧ fld e 0 8 % 2 ^ 16 = 0 ∧ 1 ≤ fld e 8 4 ∧ fld e 12 4 < 16 then
    some { va := fld e 0 8, len := fld e 8 4 * 2 ^ 16, flags := fld e 12 4 }
  else none
/-- Whether a range is held in device memory: PLACE is not 3. -/
def Range.local_ (r : Range) : Bool := r.flags / 4 != 3
def Range.overlaps (a b : Range) : Bool := decide (a.va < b.va + b.len) && decide (b.va < a.va + a.len)
/-- No two ranges of a list overlap. -/
def disjoint : List Range → Bool
  | [] => true
  | r :: rest => rest.all (fun x => !r.overlaps x) && disjoint rest
/-- The range list of a record (R327). -/
def State.readRanges (s : State) (vf : Nat) (r : LaunchRec) : Option (List Range) :=
  let va := r.ranges.toNat
  let hd := s.vaBytes vf va 16
  let n := fld hd 0 4
  if va % 16 = 0 ∧ 1 ≤ n ∧ n ≤ 4096 ∧ zeroAt hd 4 12 then
    match allSome ((List.range n).map (fun i => rangeOf (s.vaBytes vf (va + 16 + 16 * i) 16))) with
    | some l => if disjoint l ∧ ((l.filter Range.local_).map (fun x => x.len)).sum ≤ s.vfDword vf 48 then some l else none
    | none => none
  else none

/-- A range put into a list ordered by rising address. -/
def insertRange (p : Nat × Nat) : List (Nat × Nat) → List (Nat × Nat)
  | [] => [p]
  | q :: rest => if p.1 ≤ q.1 then p :: q :: rest else q :: insertRange p rest
/-- The length of the union of ranges given by rising address. -/
def unionFrom : Nat → List (Nat × Nat) → Nat
  | _, [] => 0
  | hi, (a, n) :: rest => (max hi (a + n) - max hi a) + unionFrom (max hi (a + n)) rest
/-- Device memory that resident ranges of a function hold, with one more list of ranges (R330). -/
def State.residentBytes (s : State) (vf : Nat) (more : List Range) : Nat :=
  let rs := (s.residents.filter (fun r => r.vf == vf && !r.away && r.range.local_)).map (fun r => (r.range.va, r.range.len)) ++
    (more.filter Range.local_).map (fun r => (r.va, r.len))
  unionFrom 0 (rs.foldr insertRange [])

/-! ## The program of a record -/

/-- A record with its tables (R303 steps 1 to 3, and the layout of step 4), or the reason of its refusal (R308). -/
def State.readProg (s : State) (vf va : Nat) (bs : List Byte) : Except Nat Prog :=
  let r := recOfBytes bs
  if !fieldsOk bs r ((s.vfWord vf 92).testBit 2) then .error 1
  else if !bindingsOk r then .error 2
  else if !fitsEmpty r then .error 3
  else
    match s.readNotches vf r, s.readRules vf r, s.readBanks vf r, s.readRanges vf r with
    | none, _, _, _ => .error 4
    | _, none, _, _ => .error 5
    | _, _, none, _ => .error 1
    | _, _, _, none => .error 7
    | some ns, some rs, some bks, some rgs => .ok
        { va := BitVec.ofNat 64 va, lrec := r, params := []
          banks := bks, cbytes := s.bankBytes vf bks, notches := ns, rules := rs, ranges := rgs }

/-- A program with the parameter words as they are when a gang's registers are loaded (R301, R304). -/
def State.loaded (s : State) (vf : Nat) (p : Prog) : Prog :=
  { p with params := (List.range p.lrec.pwords).map (fun i => BitVec.ofNat 32 (leNat (s.vaBytes vf (p.lrec.pva.toNat + 4 * i) 4))) }

/-- The declared templates of a record (R301, R303): one that fails steps 1 to 3 is reason 6, whichever it is; the range lists are step 4, reason 7.
A TTAB of 0 declares none (log entry 35). -/
def State.readTemplates (s : State) (vf : Nat) (r : LaunchRec) : Except Nat (List (Nat × Prog)) :=
  let all := if r.ttab = 0 then [] else
    (List.range 64).filterMap (fun k =>
      let va := s.devGet vf (r.ttab.toNat + 8 * k) 8
      if va = 0 then none else some (k, s.readProg vf va (s.vaBytes vf va 256)))
  if all.any (fun p => match p.2 with
    | .error e => e != 7
    | .ok _ => false) then .error 6
  else
    match allSome (all.map (fun p => p.2.toOption.map (fun x => (p.1, x)))) with
    | some l => .ok l
    | none => .error 7

/-! ## Step 5: co-residency -/

/-- Cores of a partition, in order. -/
def Partition.cores (p : Partition) : List Nat := (List.range 192).filter (fun c => p.nbh.elem (c / 4))
/-- The partitions of a function. -/
def State.partsOf (s : State) (vf : Nat) : List (Nat × Partition) := s.partitions.filter (fun p => p.2.vf == vf)

/-- How many blocks of a record an otherwise empty core of a function holds, beside the class-0 reservation (R19, R29, R317); a DOWN core holds none (spec/27
R397). A lined wave takes two slots of one panel (R304). -/
def State.capacity (s : State) (vf : Nat) (r : LaunchRec) (c : Nat) : Nat :=
  let q := if r.cls = 0 then (0, 0, 0, 0, 0) else s.reserved vf c
  if (s.reg 1 0 (arrayOff c)).getLsbD 16 then 0
  else min (min (4 * ((32 - q.1) / max 1 r.slotsPerWave) / max 1 r.wavesPerBlock) ((524288 - q.2.1) / max 1 r.fileBytes))
    (if r.padAlloc = 0 then 128 else (262144 - q.2.2.1) / r.padAlloc)

/-- Cores that a gang may use together: those of at most four consecutive neighbourhoods of one die that lie in the partition, from one
neighbourhood on (R13, R304). -/
def windowOfNbh (p : Partition) (n : Nat) : List Nat :=
  let top := if n < 24 then 24 else 48
  let ns := ((List.range 4).map (fun i => n + i)).takeWhile (fun m => decide (m < top) && p.nbh.elem m)
  ns.flatMap (fun m => (List.range 4).map (fun i => 4 * m + i))

/-- One gang of `b` blocks taken from the room left on cores, the lowest window first. -/
def takeRoom (p : Partition) (room : List (Nat × Nat)) (b : Nat) : Option (List (Nat × Nat)) :=
  match (List.range 48).find? (fun n => decide (b ≤ ((windowOfNbh p n).map (fun c => getD room 0 c)).sum)) with
  | none => none
  | some n =>
    some ((windowOfNbh p n).foldl (fun (acc : List (Nat × Nat) × Nat) c =>
      let k := min acc.2 (getD acc.1 0 c)
      (setD acc.1 0 c (getD acc.1 0 c - k), acc.2 - k)) (room, b)).1

/-- Whether `n` gangs of `b` blocks fit the room left. -/
def fitsAll (p : Partition) (b : Nat) : Nat → List (Nat × Nat) → Bool
  | 0, _ => true
  | n + 1, room =>
    match takeRoom p room b with
    | some room1 => fitsAll p b n room1
    | none => false

/-- Whether every gang of a launch fits some partition of its function at once (R303 step 5). -/
def State.coResident (s : State) (vf : Nat) (r : LaunchRec) : Bool :=
  decide (r.gangs ≤ 128 * 192) && (s.partsOf vf).any (fun p =>
    fitsAll p.2 r.blocksPerGang r.gangs (p.2.cores.foldl (fun m c => setD m 0 c (s.capacity vf r c)) []))

/-! ## The collective block -/

/-- A communicator descriptor (R352), read from its 128 bytes. -/
def commOf (s : State) (vf : Nat) (cdesc : Dword) (bs : List Byte) : Comm :=
  let peers := s.vaBytes vf (fld bs 8 8) (2 * fld bs 4 2)
  { id := 0, vf := vf, cdesc := cdesc, pa := s.devAddr vf cdesc true, commid := fld bs 0 4, nrank := fld bs 4 2, rank := fld bs 6 2,
    peers := (List.range (fld bs 4 2)).map (fun i => fld peers (2 * i) 2), home := fld bs 16 1, vc := fld bs 17 1, prio := fld bs 18 1,
    sched := fld bs 19 1, nslot := fld bs 20 2, dens := fld bs 22 2, slotb := fld bs 24 4,
    spoolVa := fld bs 32 8, spoolCap := fld bs 40 8 / max 1 (fld bs 24 4),
    abrec := BitVec.ofNat 64 (fld bs 48 8), instances := [], notices := [], slots := [], spool := [], cmds := [], events := [], lastServed := 0,
    sent := [] }

/-- The fields of a descriptor within their ranges (R352, R353). -/
def descOk (bs : List Byte) : Bool :=
  decide (1 ≤ fld bs 4 2) && decide (fld bs 4 2 ≤ 1024) && decide (fld bs 6 2 < fld bs 4 2) && decide (fld bs 16 1 ≤ 15) &&
  decide (fld bs 17 1 ≤ 31) && decide (fld bs 18 1 ≤ 7) && decide (1 ≤ fld bs 20 2) && decide (fld bs 20 2 ≤ 32768) &&
  decide (fld bs 22 2 ≤ 1000) && fld bs 24 4 % 256 == 0 && decide (256 ≤ fld bs 24 4) && decide (fld bs 24 4 ≤ 2 ^ 20) &&
  fld bs 28 4 / 8 == 0 && fld bs 32 8 % 256 == 0 && fld bs 40 8 % max 1 (fld bs 24 4) == 0 && fld bs 48 8 != 0 &&
  canonicalVa (BitVec.ofNat 64 (fld bs 48 8)) && fld bs 48 8 % 64 == 0

/-- Whether a new communicator may open (R353). -/
def State.mayOpen (s : State) (vf : Nat) (bs : List Byte) (c : Comm) : Bool :=
  descOk bs && (fld bs 28 4).testBit 0 && c.vc != 1 && (c.vc != 0 || c.prio == 0) &&
  decide ((s.comms.map (fun p => p.2.nslot * p.2.slotb)).sum + c.nslot * c.slotb ≤ 2 ^ 23) &&
  s.comms.all (fun p => p.2.vc != c.vc && p.2.commid != c.commid) &&
  (s.vfWord vf 44).testBit 0 && (c.nrank == 1 || (s.vfWord vf 44).testBit 1)

/-- The collective block (R354). -/
def collOf (bs : List Byte) : Coll :=
  { cdesc := BitVec.ofNat 64 (fld bs 0 8), inst := fld bs 8 4, op := fld bs 12 1, red := fld bs 13 1, role := fld bs 14 2,
    rbase := fld bs 16 8, rstride := fld bs 24 4, chunk := fld bs 28 4, nchunk := fld bs 32 4, rbobj := fld bs 36 4,
    mul := (List.range 8).map (fun k => fld bs (40 + 2 * k) 2), root := fld bs 56 2 }

/-- The fields of a collective block within their ranges (R354). -/
def collFields (bs : List Byte) (k : Coll) (r : LaunchRec) (slotb nrank : Nat) : Bool :=
  decide (k.op ≤ 3) && decide (k.red % 16 ≤ 2) && decide (k.red / 16 ≤ 4) && (k.role == 1 || k.role == 2) && k.rbase % 8 == 0 &&
  k.rstride % 8 == 0 && decide (k.chunk ≤ k.rstride) && k.chunk % 8 == 0 && decide (8 ≤ k.chunk) && decide (k.chunk ≤ slotb) &&
  decide (1 ≤ k.nchunk) && decide (k.nchunk ≤ 65536) && (if k.role = 2 then k.rbobj % 16 == 0 else k.rbobj == 0) &&
  (if k.op = 3 then decide (k.root < nrank) else k.root == 0) && zeroAt bs 58 6 &&
  (List.range 8).all (fun lv => decide (r.blockLevel ≤ lv) || k.mul.getD lv 0 == 0)

/-- Whether every chunk of a FIRE launch has a block (R355). -/
def Coll.covered (k : Coll) (r : LaunchRec) : Bool :=
  let cs := (List.range (r.gangs * r.blocksPerGang)).map (fun b => k.chunkOf r (b * r.wavesPerBlock))
  (List.range k.nchunk).all (fun c => cs.elem c)

/-- THE COLLECTIVE BLOCK OF A LAUNCH ADMITTED (R353, R354, REASON 9): the block and the communicator, which opens where it has not, with the
notices that came before (R366); what a former opening of the descriptor has aborted is gone with it. -/
def State.readColl (s : State) (vf : Nat) (p : Prog) : Except Nat (State × Option Coll) :=
  if !p.lrec.collective then .ok (s, none)
  else
    let bs := s.vaBytes vf p.lrec.coll.toNat 64
    let k := collOf bs
    let ds := s.vaBytes vf k.cdesc.toNat 128
    let c := commOf s vf k.cdesc ds
    let open_ := s.commAt vf k.cdesc
    let en := (fld ds 28 4).testBit 0
    if !en || (open_.isNone && !s.mayOpen vf ds c) then .error 9
    else
      let cm := (open_.map (fun x => x.2)).getD c
      let inRange := p.ranges.any (fun r => r.flags.testBit 0 && decide (r.va ≤ k.rbase) && decide (k.rbase + k.nchunk * k.rstride ≤ r.va + r.len))
      let done_ := fld ds 56 4
      let past := decide ((done_ + 2 ^ 32 - k.inst) % 2 ^ 32 < 2 ^ 31)
      let active := ((cm.inst? k.inst).map (fun x => x.aborted.isNone && !x.complete)).getD false
      if !(p.lrec.coll.toNat % 64 == 0 && collFields bs k p.lrec cm.slotb cm.nrank && inRange && (k.role != 1 || (!active && !past && k.covered p.lrec)))
      then .error 9
      else
        match open_ with
        | some _ => .ok (s, some k)
        | none =>
          let id := s.ids
          let s1 := s.homeWriteBytes none (c.pa + 28) (leBytes 4 (fld ds 28 4 % 4 ||| 2))
          let cm1 : Comm := { c with
            id := id, lastServed := s.free
            notices := (s1.early.filter (fun n => n.1 == c.commid && decide (n.2.2 < c.nrank))).map (fun n => (n.2.1, 1, n.2.2)) }
          .ok ({ s1 with
            ended := s1.ended.filter (fun e => e.1 != c.pa)
            ids := s1.ids + 1, early := s1.early.filter (fun n => n.1 != c.commid), comms := insertAt s1.comms id cm1 }, some k)

end Sys2Proof.Machine
end

