-- ==== Sys2Proof/Machine/Launch.lean ====
section
/-! DEFINITION. The dispatcher (spec/21): leases (spec/22 R328 to R331), taking records, placing and starting gangs, spawned tasks, edges,
completion, the allowance table. -/

namespace Sys2Proof.Machine

/-! ## Leases -/

/-- Whether a resident entry is that of a range of a function. -/
def Resident.isFor (x : Resident) (vf : Nat) (r : Range) : Bool := x.vf == vf && x.range.va == r.va && x.range.len == r.len

/-- Whether a resident entry shares a 64 KiB unit with a range of a function (R327). -/
def Resident.meets (x : Resident) (vf : Nat) (r : Range) : Bool :=
  x.vf == vf && decide (x.range.va < r.va + r.len) && decide (r.va < x.range.va + x.range.len)

/-- The pages of a span of addresses, each with the address it begins at and its leaf; of a part that the table does not map, none (R321). `fuel` is its length in
units of 64 KiB. -/
def State.pagesOf (s : State) (vf : Nat) : Nat → Nat → Nat → List (Nat × Option Leaf)
  | 0, _, _ => []
  | fuel + 1, va, last =>
    if last ≤ va then []
    else
      let (size, l) := match s.leafOf vf va with
        | .ok l => (l.bytes, some l)
        | .error level => (2 ^ pageBits level, none)
      let base := va / size * size
      (base, l) :: State.pagesOf s vf fuel (base + size) last
/-- The pages of a range. -/
def State.rangePages (s : State) (vf : Nat) (r : Range) : List (Nat × Option Leaf) := s.pagesOf vf (r.len / 2 ^ 16) (r.va % 2 ^ 57) (r.va % 2 ^ 57 + r.len)
/-- Whether a frame is where PLACE of a range asks (R327). -/
def Range.takes (r : Range) (pa : Nat) : Bool :=
  match r.flags / 4 % 4 with
  | 0 => isDevice pa
  | 1 => regionOf pa == some .near
  | 2 => regionOf pa == some .lpddr
  | _ => true
/-- Whether every page of a range is mapped, and lies where PLACE asks or returns there from an eviction (R328). -/
def State.placed (s : State) (vf : Nat) (r : Range) : Bool :=
  (s.rangePages vf r).all (fun p =>
    match p.2 with
    | some l => r.takes l.frame || s.moved.any (fun m => m.vf == vf && m.va == p.1 && m.far == l.frame)
    | none => false)

/-- A table entry written by the device. -/
def State.setFrame (s : State) (l : Leaf) (frame : Nat) : State := s.homeWriteBytes none l.place (leBytes 8 (l.entry % 2 ^ 8 + frame))
/-- The pages of a range that were away are back in device memory, where the table still names the place they went to (R331). -/
def State.bringBack (s : State) (vf : Nat) (r : Range) : State :=
  let back := s.moved.filter (fun m => m.vf == vf && decide (m.va < r.va % 2 ^ 57 + r.len) && decide (r.va % 2 ^ 57 < m.va + 2 ^ pageBits m.level))
  let s1 := back.foldl (fun t m =>
    match t.leafOf vf m.va with
    | .ok l => if l.frame = m.far ∧ l.level = m.level then t.setFrame l m.frame else t
    | .error _ => t) s
  { s1 with moved := s1.moved.filter (fun m => !back.elem m) }
/-- What of an evicted range stays away where another range is leased: the parts before and after it. -/
def Resident.rest (x : Resident) (id : Nat) (r : Range) : List Resident :=
  let parts := [(x.id, x.range.va, min x.range.len (r.va - x.range.va)), (id, r.va + r.len, x.range.va + x.range.len - (r.va + r.len))]
  (parts.filter (fun p => decide (0 < p.2.2))).map (fun p => { x with id := p.1, range := { x.range with va := p.2.1, len := p.2.2 } })

/-- One range under one more lease: what of it was away is resident again, and its translations are held (R328, R331). -/
def State.lease1 (s : State) (vf : Nat) (r : Range) : State :=
  let s1 := (State.bringBack { s with
    ids := s.ids + 1 + s.residents.length
    residents := ((List.range s.residents.length).zip s.residents).flatMap (fun p =>
      if p.2.isFor vf r then [{ p.2 with leases := p.2.leases + 1, away := false }]
      else if p.2.away && p.2.meets vf r then p.2.rest (s.ids + 1 + p.1) r else [p.2]) } vf r)
  let s2 := (s1.rangePages vf r).foldl (fun t p => t.holdTranslation 192 vf p.1) s1
  if s.residents.any (fun x => x.isFor vf r) then s2
  else { s2 with residents := s2.residents ++ [⟨s.ids, vf, r, 1, 0, false, false⟩] }

/-- The template that the spawn entry at HEAD + `i` of a launch names. -/
def State.spawnEntry (s : State) (l : Launch) (i : Nat) : List Word :=
  let d := l.prog.lrec.spawnq.toNat
  let cap := s.devGet l.vf (d + 8) 4
  let bs := s.vaBytes l.vf (s.devGet l.vf d 8 + 16 * ((s.devGet l.vf (d + 12) 4 + i) % 2 ^ 32 % max 1 cap)) 16
  wordsOf 4 bs
/-- Entries of the spawn queue not yet taken (R311). -/
def State.spawnWaiting (s : State) (l : Launch) : Nat :=
  if l.prog.lrec.spawnq = 0 then 0
  else
    let d := l.prog.lrec.spawnq.toNat
    (s.devGet l.vf (d + 16) 4 + 2 ^ 32 - s.devGet l.vf (d + 12) 4) % 2 ^ 32

/-- An edge of a launch, read at its home (spec/10 R220): CAP, THRESH, items held, the consumer's template. An edge out of its bounds
holds any number of items. -/
def State.edgeOf (s : State) (l : Launch) (e : Nat) : Nat × Nat × Nat × Nat :=
  let bs := s.vaBytes l.vf (l.edgeVas.getD e 0) 32
  let items := (fld bs 12 4 + 2 ^ 32 - fld bs 8 4) % 2 ^ 32
  let ok := isCap (fld bs 0 4) && decide (fld bs 16 4 ≤ fld bs 0 4)
  (fld bs 0 4, fld bs 4 4, if ok then items else Config.freeNat s.free (6600000 + e), fld bs 20 4)
/-- Whether every task of a launch but edge consumers has ended (R313). -/
def State.onlyConsumers (s : State) (x : Launch) : Bool :=
  x.started == x.prog.lrec.gangs && s.spawnWaiting x == 0 &&
  s.gangs.all (fun g => g.2.launch != x.id || g.2.edge.isSome) && s.images.all (fun m => m.2.gang.launch != x.id || m.2.gang.edge.isSome)
/-- Whether the edge at an address of a function has a consumer waiting or running, of whichever launch whose table names it (R312). -/
def State.edgeBusy (s : State) (vf va : Nat) : Bool :=
  s.launches.any (fun p => p.2.vf == vf && (p.2.consumers ++ p.2.due.map (fun d => d.edge)).any (fun k => p.2.edgeVas.getD k 0 == va))
/-- Whether the consumer of an edge, which has none waiting or running, becomes due now: with THRESH items (R312), or, as the last of its launch, with some
(R313). -/
def State.edgeDue (s : State) (l : Launch) (e : Nat) (drain : Bool) : Bool :=
  let x := s.edgeOf l e
  !s.edgeBusy l.vf (l.edgeVas.getD e 0) && !(l.edgeVas.take e).elem (l.edgeVas.getD e 0) && (if drain then s.onlyConsumers l && decide (1 ≤ x.2.2.1) && decide (x.2.2.1 < x.2.1) else decide (x.2.1 ≤ x.2.2.1) && decide (0 < x.2.2.1))
/-- The consumers of a launch that are due: those that wait, and those that become due now (R312, R313). -/
def State.dueEdges (s : State) (l : Launch) : List DueEdge :=
  l.due ++ (List.range l.edgeVas.length).filterMap (fun e =>
    if s.edgeDue l e false then some ⟨e, s.free, (s.edgeOf l e).2.2.1, false⟩
    else if s.edgeDue l e true then some ⟨e, s.free, (s.edgeOf l e).2.2.1, true⟩
    else none)
/-- When each waiting spawn entry of a launch became due, and the partition of its parent (R306, R311): of one that has just come, now, and the partition
whose core issued it. -/
def State.spawnDue (s : State) (l : Launch) : List (Nat × Nat) :=
  let n := s.spawnWaiting l
  let here := (((s.partitions.find? (fun p => p.2.nbh.elem (s.cur.core / 4)))).map (fun p => p.1)).getD l.part
  (l.spawned ++ List.replicate (n - l.spawned.length) (s.free, here)).take n
/-- Spawn entries and edge consumers that have become due are noted, launch after launch; the dispatcher keeps its state of an edge in the edge's bytes 32 to 63,
which the spec gives no layout (R312, spec/10 R220; log entry 19). -/
def State.settleWork (s : State) : State :=
  s.launches.foldl (fun t p =>
    if decide (2 ≤ p.2.status) || (p.2.prog.lrec.spawnq == 0 && p.2.edgeVas.isEmpty) then t
    else
      let due := t.dueEdges p.2
      let t1 := t.onLaunch p.1 (fun l => { l with spawned := s.spawnDue p.2, due := due })
      (due.drop p.2.due.length).foldl (fun u d => u.devWrite p.2.vf (p.2.edgeVas.getD d.edge 0 + 32) (s.anyBytes (7500 + d.edge) 32)) t1) s

/-! ## Which work goes next -/

/-- Whether work of a launch may be placed at all (R344); on which partitions it is not is in `held` (R341). -/
def Launch.open_ (l : Launch) : Bool := decide (l.status ≤ 1) && l.aborting.isNone && !l.halted
/-- Whether a launch has gangs of its own still to start. -/
def Launch.toStart (l : Launch) : Bool := l.open_ && decide (l.started < l.prog.lrec.gangs)

/-- The least of some things by a number, the first of equals. -/
def leastOf {α : Type} (key : α → Nat) : List α → Option α
  | [] => none
  | x :: rest =>
    match leastOf key rest with
    | some y => if key y < key x then some y else some x
    | none => some x

/-- The work of a class of a function in the order it is served (R306): spawned tasks as they became due, then edge consumers as they became due, then the
gangs of records. A launch is named by its number, the work by what it is. -/
def State.workOf (s : State) (vf cls : Nat) : List (Nat × Work) :=
  let ls := (s.launches.map (fun p => p.2)).filter (fun l => l.vf == vf && l.prog.lrec.cls == cls && l.open_)
  let spawns := ls.filterMap (fun l => (s.spawnDue l).head?.map (fun d => (d.1, (l.id, Work.spawn))))
  let edges := ls.flatMap (fun l => (s.dueEdges l).map (fun d => (d.since, (l.id, Work.edge d.edge))))
  ((leastOf (fun x => x.1) spawns).map (fun x => x.2)).toList ++ ((leastOf (fun x => x.1) edges).map (fun x => x.2)).toList ++
    (ls.filter Launch.toStart).map (fun l => (l.id, Work.gang))

/-- Whether a queue of a function is served (R299, spec/22 R326). -/
def State.served (s : State) (vf cls : Nat) : Bool :=
  let dv := s.queueVa vf cls
  !s.mon.recovery && (s.vfWord vf 92).testBit 0 && decide (cls < 8) && (s.devGet vf (dv + 20) 4).testBit 0 && isCap (s.devGet vf (dv + 8) 4)

/-- The range lists of the work that waits, in the order of dispatch (R306, R330). -/
def State.upcoming (s : State) (vf : Nat) : List (List Range) :=
  (List.range 8).flatMap (fun cls =>
    let ls := (s.launches.map (fun p => p.2)).filter (fun l => l.vf == vf && l.prog.lrec.cls == cls)
    let tmpl := fun (l : Launch) (k : Nat) => ((look l.templates k).map (fun p => p.ranges)).getD []
    let dv := s.queueVa vf cls
    let cap := s.devGet vf (dv + 8) 4
    let head := s.devGet vf (dv + 16) 4
    let spawns := ls.flatMap (fun l => let ds := s.spawnDue l
      (List.range ds.length).map (fun i => ((ds.getD i (0, 0)).1, tmpl l (((s.spawnEntry l i).headD 0).toNat % 64))))
    let edges := ls.flatMap (fun l => (s.dueEdges l).map (fun d => (d.since, tmpl l (s.edgeOf l d.edge).2.2.2)))
    let inOrder := fun (xs : List (Nat × List Range)) => (xs.foldr (fun x acc =>
      acc.takeWhile (fun y => decide (y.1 < x.1)) ++ [x] ++ acc.dropWhile (fun y => decide (y.1 < x.1))) []).map (fun x => x.2)
    inOrder spawns ++ inOrder edges ++
    (List.range (if s.served vf cls then cap else 0)).filterMap (fun i =>
      let t := (head + i) % 2 ^ 32
      let bs := s.vaBytes vf (s.devGet vf dv 8 + 256 * (t % max 1 cap)) 256
      if fld bs 20 4 = (t + 1) % 2 ^ 32 then some ((s.readRanges vf (recOfBytes bs)).getD []) else none))

/-- Whether one resident range is evicted before another (R330; what an eviction moves is log entry 32): farther next use, then the earlier release, then the lower VA. -/
def evictFirst (up : List (List Range)) (a b : Resident) : Bool :=
  let next := fun (x : Resident) => (indexOf (fun l => l.any (fun r => x.meets x.vf r)) up).getD up.length
  if next a ≠ next b then decide (next b < next a)
  else if a.released ≠ b.released then decide (a.released < b.released)
  else decide (a.range.va < b.range.va)

/-- Evictions begun until what stays would fit with a list of ranges (R330). -/
def State.evictFor (s : State) (vf : Nat) (rs : List Range) (up : List (List Range)) : Nat → State
  | 0 => s
  | fuel + 1 =>
    let staying : State := { s with residents := s.residents.filter (fun x => !x.evicting) }
    if staying.residentBytes vf rs ≤ s.vfDword vf 48 then s
    else
      let cand := s.residents.filter (fun x => x.vf == vf && x.leases == 0 && !x.evicting && !x.away && x.range.local_ &&
        !rs.any (fun r => x.meets vf r) && !s.residents.any (fun y => decide (0 < y.leases) && y.meets vf x.range))
      match cand.find? (fun x => cand.all (fun y => y.id == x.id || evictFirst up x y)) with
      | none => s
      | some v => State.evictFor { s with residents := s.residents.map (fun x => if x.id = v.id then { x with evicting := true } else x) } vf rs up fuel

/-- A LEASE on every range of a list, or, where it does not fit, the evictions that make room for it (R328, R330, R331). -/
def State.tryLease (s : State) (vf : Nat) (rs : List Range) : State × Bool :=
  if rs.any (fun r => s.residents.any (fun x => x.meets vf r && x.evicting) || !s.placed vf r) then (s, false)
  else if s.residentBytes vf rs ≤ s.vfDword vf 48 then (rs.foldl (fun t r => t.lease1 vf r) s, true)
  else (s.evictFor vf rs (s.upcoming vf) s.residents.length, false)

/-- A launch's own leases granted, if they can be. -/
def State.leaseLaunch (s : State) (l : Nat) : State :=
  match s.launch? l with
  | none => s
  | some x =>
    if x.leased || 2 ≤ x.status then s
    else
      let (s1, ok) := s.tryLease x.vf x.prog.ranges
      if ok then s1.onLaunch l (fun y => { y with leased := true }) else s1
/-- A template's leases granted, if they can be. -/
def State.leaseTemplate (s : State) (l k : Nat) : State :=
  match s.launch? l with
  | none => s
  | some x =>
    match look x.templates k with
    | none => s
    | some p =>
      if x.tleased.elem k then s
      else
        let (s1, ok) := s.tryLease x.vf p.ranges
        if ok then s1.onLaunch l (fun y => { y with tleased := k :: y.tleased }) else s1

/-- A frame of host or CXL memory for a page, any that its size divides (R330; log entry 32). -/
def State.farFrame (s : State) (k : Nat) (l : Leaf) : Nat :=
  (if s.freeBit (6710000 + 2 * k) then 2 ^ 54 else 2 ^ 55) + Config.freeNat s.free (6710001 + 2 * k) % (2 ^ 54 / l.bytes) * l.bytes
/-- The pages of a range that lie wholly in it, in device memory, go to host or CXL memory: their entries name a frame there (R330). -/
def State.sendAway (s : State) (vf : Nat) (r : Range) : State :=
  ((s.rangePages vf r).filter (fun p => decide (r.va % 2 ^ 57 ≤ p.1))).foldl (fun t p =>
    match p.2 with
    | some l =>
      if isDevice l.frame && decide (p.1 + l.bytes ≤ r.va % 2 ^ 57 + r.len) then
        let far := s.farFrame (p.1 / 2 ^ 16) l
        State.setFrame { t with moved := ⟨vf, p.1, l.level, l.frame, far⟩ :: t.moved } l far
      else t
    | none => t) s
/-- EVICTION_COMPLETE (spec/22 R330, R331): the range is away, no core holds a translation of it (R325); leases that wait are tried again. -/
def execEvictionComplete (range : Nat) (s : State) : Res :=
  let gone := s.residents.filter (fun x => x.id == range && x.evicting)
  let s0 : State := { s with
    residents := s.residents.map (fun x => if x.id = range ∧ x.evicting then { x with evicting := false, away := true } else x)
    tlb := s.tlb.filter (fun e => !gone.any (fun x => e.meets x.vf (x.range.va % 2 ^ 57) x.range.len)) }
  let s1 := gone.foldl (fun t x => t.sendAway x.vf x.range) s0
  done (((s1.launches.filter (fun p => !p.2.leased)).map (fun p => p.1)).foldl State.leaseLaunch s1)

/-! ## Placing waves and blocks -/

/-- Wave slots in use on a panel, by waves that satisfy a test. -/
def State.panelSlots (s : State) (c pn : Nat) (p : Wave → Bool) : Nat := ((s.panelWaves c pn).filter p).map Wave.slots |>.sum
/-- Whether a wave slot of a core is taken. -/
def State.slotTaken (s : State) (c slot : Nat) : Bool :=
  s.waves.any (fun w => w.core == c && (w.slot == slot || (w.lining.map (fun l => l.slot == slot)).getD false))
/-- The free slots of a panel, lowest first. -/
def State.freeSlotsOf (s : State) (c pn : Nat) : List Nat := ((List.range 32).map (fun k => 32 * pn + k)).filter (fun x => !s.slotTaken c x)
/-- Register-file bytes in use on a core by waves that satisfy a test (R19). -/
def State.fileUsed (s : State) (c : Nat) (p : Wave → Bool) : Nat :=
  ((s.waves.filter (fun w => w.core == c && p w)).map (fun w => 128 * (s.recOf w.blk).g * w.slots)).sum
/-- Scratchpad in use on a core by blocks that satisfy a test (R29). -/
def State.padUsed (s : State) (c : Nat) (p : Block → Bool) : Nat :=
  (((s.blocks.map (fun b => b.2)).filter (fun b => b.core == c && p b)).map (fun b => b.padSize)).sum

/-- A wave made resident in a panel (R12, R304, R319): Active where a starting wave finds an active slot, a class-0 one displacing others
from a reserved slot (R317); else Pending. None where the panel has no slot for it. -/
def State.addWave (s : State) (w : Wave) (pn : Nat) (lined starting : Bool) : Option State :=
  let c := w.core
  let need := if lined then 2 else 1
  let zero := s.isZero w.blk
  let lowRoom := zero || decide (s.panelSlots c pn (fun v => !s.isZero v.blk) + need + (s.reserved (s.vfOf w.blk) c).1 ≤ 32)
  match (s.freeSlotsOf c pn).take need, lowRoom with
  | a :: rest, true =>
    if rest.length + 1 ≠ need then none
    else
      let w1 : Wave := { w with
        slot := a, pendSince := s.free, active := false
        lining := if lined then some { slot := rest.headD a, ckRegs := w.regs, ckLanes := w.lanes, log := [], replay := [], saved := [], failed := false } else none }
      let s1 : State := { s with waves := s.waves ++ [w1] }
      if !starting then some s1
      else
        let mine := s.panelSlots c pn (fun v => s.isZero v.blk && s.vfOf v.blk == s.vfOf w.blk)
        let mine_ := zero && decide (mine + need ≤ (s.reserved (s.vfOf w.blk) c).1)
        let s2 := if mine_ then s1.makeRoom c pn need (fun t v => !t.isZero v.blk) 8 else s1
        some (if s2.activeCount c pn + need ≤ 8 then s2.activate w1 else s2.onWave c a (fun v => { v with owed := mine_ }))
  | _, _ => none

/-- Whether a core has registers and scratchpad for a block of a function's launch (R19, R29, R317); a DOWN one takes none (spec/27
R397). -/
def State.coreRoom (s : State) (vf : Nat) (zero : Bool) (r : LaunchRec) (c : Nat) : Bool :=
  let q := s.reserved vf c
  !(s.reg 1 0 (arrayOff c)).getLsbD 16 && decide (s.fileUsed c (fun _ => true) + r.fileBytes ≤ 524288) && decide (s.padUsed c (fun _ => true) + r.padAlloc ≤ 262144) &&
  (zero || (decide (s.fileUsed c (fun w => !s.isZero w.blk) + r.fileBytes + q.2.1 ≤ 524288) &&
    decide (s.padUsed c (fun b => !s.isZero b.id) + r.padAlloc + q.2.2.1 ≤ 262144)))

/-- A block made resident on a core with its waves, wave `i` in panel `(i + rot) mod 4`, so that the panel counts differ by at most
one (R304). Its scratch window is one that no block has had, also where it resumes (spec/01 R35 lets $sbase change; log entry 27). -/
def State.addBlock (s : State) (vf : Nat) (zero : Bool) (r : LaunchRec) (b : Block) (rot : Nat) (ws : List Wave) (starting : Bool) : Option State :=
  if !(s.coreRoom vf zero r b.core) then none
  else
    let b1 : Block := { b with sbase := 2 ^ 25 * ((Config.apertureBase + s.ids) % 2 ^ 31) }
    let s1 : State := { s with ids := s.ids + 1, blocks := insertAt s.blocks b.id b1 }
    (List.range ws.length).foldl (fun acc i =>
      match acc, ws[i]? with
      | some t, some w => t.addWave { w with core := b.core, blk := b.id } ((i + rot) % 4) r.lined starting
      | _, _ => none) (some s1)

/-! ## Starting a gang -/

/-- A lane at its start (R17). -/
def Thread.start (lane : Nat) (live : Bool) (pc : Dword) : Thread :=
  { lane := lane, live := live, pc := pc, g := [], p := 0, lc := [], uepc := 0, ucause := 0, iflags := 0, fflags := 0, handler := false,
    hsilent := false, suspended := [], loops := [], endChk := false, regions := [], arrived := [], wait := .no, age := 0, marks := [], acc := [],
    due := none, lastIssue := 0, lastPc := pc }

/-- The per-wave registers at a start (R17, R22): s0 the launched lanes, parameter words, a task's argument words over them. -/
def WaveRegs.start (p : Prog) (lanes : Nat) (args : List Word) : WaveRegs :=
  let s0 := setD (α := Word) [] 0 0 (BitVec.ofNat 32 (2 ^ lanes - 1))
  let s1 := (List.range p.params.length).foldl (fun m i => setD m 0 (i + 1) (p.params.getD i 0)) s0
  let s2 := if p.lrec.args = 0 then s1 else (List.range args.length).foldl (fun m i => setD m 0 (p.lrec.args + i) (args.getD i 0)) s1
  { s := s2, tok := 0, seamE := [], seamW := [], x := ⟨0, 0, 0, 0, 0, 0, 0⟩, silent := ⟨0, 0, 0, 0, 0⟩, utvec := 0, itrap := 0, ftrap := 0,
    frnd := 0, f8fmt := 3, tailrule := 0, old := [] }

/-- Wave `i` of block `b` of gang `gi` of a program (R15, R17, R302). -/
def startWave (p : Prog) (gi b i : Nat) (args : List Word) : Wave :=
  let r := p.lrec
  let n := if i + 1 = r.wavesPerBlock then r.tail else 32
  { core := 0, slot := 0, active := false, pendSince := 0, owed := false, blk := 0, wave := i,
    wlin := (gi * r.blocksPerGang + b) * r.wavesPerBlock + i, launched := BitVec.ofNat 32 (2 ^ n - 1), regs := WaveRegs.start p n args,
    lining := none, lanes := (List.range 32).map (fun l => Thread.start l (decide (l < n)) r.entry) }

/-- The time from which the watchdog counts for a wave's threads (spec/27 R401). -/
def Wave.issuedAt (w : Wave) (t : Nat) : Wave := { w with lanes := w.lanes.map (fun x => { x with lastIssue := t }) }

/-- A block at its start, its scratchpad zeroed (R29, R304). -/
def startBlock (id gang index core : Nat) (r : LaunchRec) (zero : Bool) : Block :=
  { id := id, gang := gang, index := index, core := core, nwaves := r.wavesPerBlock, class0 := zero, padSize := r.padAlloc, pad := [], sbase := 0,
    o := [], a := [], queues := List.replicate 5 [], ended := false, away := none }

/-- A task record not in use by a running or saved gang (R309). -/
def State.freeTaskRec (s : State) (vf : Nat) : Option Nat :=
  let used := fun (i : Nat) =>
    s.gangs.any (fun g => ((s.launch? g.2.launch).map (fun l => l.vf)).getD vf == vf && g.2.taskRec == i) ||
    s.images.any (fun m => ((s.launch? m.2.gang.launch).map (fun l => l.vf)).getD vf == vf && m.2.gang.taskRec == i)
  (List.range (s.vfWord vf 40)).find? (fun i => !used i)

/-- The neighbourhoods of cores lie together as R13 and R304 ask, in one partition of the function that may take work. -/
def State.placeOk (s : State) (vf : Nat) (may : Nat → Bool) (cs : List Nat) : Bool :=
  (s.partsOf vf).any (fun p =>
    may p.1 && p.2.booted && !p.2.scrubbing && p.2.incoming.isNone &&
    (List.range 48).any (fun n => cs.all (fun c => (windowOfNbh p.2 n).elem c)))

/-- The bytes a byte barrier of a WAIT launch has still to count (spec/24 R359). -/
def State.waitCount (s : State) (l : Launch) (r : LaunchRec) (k : Coll) (wlin : Nat) : Nat :=
  let c := k.chunkOf r wlin
  let cm : Comm := ((s.commAt l.vf k.cdesc).map (fun x => x.2)).getD (commOf s l.vf k.cdesc (s.vaBytes l.vf k.cdesc.toNat 128))
  let past := !instAfter k.inst (s.instDone cm)
  let written := ((cm.inst? k.inst).map (fun x => x.written.elem c)).getD false
  if k.nchunk ≤ c || !k.resultHere cm.nrank cm.rank c || past || written then 0 else k.chunk

/-- What the dispatcher does on the core of a block that starts (spec/02 R418, spec/24 R359). -/
def State.blockReady (s : State) (l : Launch) (tmpl : Nat) (r : LaunchRec) (b : Block) (wlin : Nat) : State :=
  let s1 := s.refresh b.core 3 true
  match l.coll with
  | some k =>
    if tmpl = 0 ∧ k.role = 2 then
      match s1.padAt b.id k.rbobj with
      | some (x, off) => s1.setBarrier (.pad x off) (BitVec.ofNat 32 (s1.waitCount l r k wlin)) 0
      | none => s1
    else s1
  | none => s1

/-- The blocks of a gang on the cores of a place, all or none (R304), their s registers loaded from the parameter words as they then are. An entry of a
place is 4 times the core plus the panel of wave 0. -/
def State.addBlocks (s : State) (l : Launch) (p : Prog) (gang gi : Nat) (args : List Word) (place : List Nat) : Option State :=
  let r := p.lrec
  let zero := l.prog.lrec.cls == 0
  let q := s.loaded l.vf p
  (List.range r.blocksPerGang).foldl (fun acc i =>
    match acc, place[i]? with
    | some t, some e =>
      let b := startBlock (t.ids + 1) gang i (e / 4) r zero
      ({ t with ids := t.ids + 1 } : State).addBlock l.vf zero r b e ((List.range r.wavesPerBlock).map (fun w => (startWave q gi i w args).issuedAt s.clock.wall)) true
    | _, _ => none) (some s)

/-- The task record of a gang that starts (R309). -/
def State.writeTask (s : State) (vf : Nat) (p : Prog) (g : Gang) (tries : Nat) : State :=
  let arg := fun (i : Nat) => leBytes 4 (g.args.getD i 0).toNat
  s.devWrite vf (s.vfDword vf 32 + 32 * g.taskRec)
    (leBytes 8 p.va.toNat ++ leBytes 4 g.index ++ leBytes 1 2 ++ leBytes 1 g.tmpl ++ leBytes 2 tries ++ arg 0 ++ arg 1 ++ arg 2 ++ leBytes 4 g.interval)

/-- A gang about to start, in the list of gangs (R309). -/
def State.newGang (s : State) (l : Launch) (tmpl gi : Nat) (args : List Word) (edge : Option Nat) (taskRec : Nat) : State :=
  let g : Gang :=
    { id := s.ids, launch := l.id, part := l.part, tmpl := tmpl, index := gi, args := args, edge := edge, taskRec := taskRec, stop := false, stopAt := 0,
      tries := 0, total := 0, interval := 0, openedAt := s.clock.wall, openStamp := s.stamp, overlay := [], log := [], restart := false,
      reported := false, hard := false, baste := false, rolling := false, still := false, hit := none }
  { s with ids := s.ids + 1, gangs := insertAt s.gangs s.ids g }

/-- The partition of a function that holds a core. -/
def State.partAt (s : State) (vf c other : Nat) : Nat := (((s.partsOf vf).find? (fun q => q.2.nbh.elem (c / 4))).map (fun q => q.1)).getD other
/-- A GANG STARTS (R304, R307, R309): everything at once, or nothing. -/
def State.startGang (s : State) (l : Launch) (tmpl gi : Nat) (args : List Word) (edge : Option Nat) (place : List Nat) : Option State :=
  let p := l.progOf tmpl
  let r := p.lrec
  let cs := (place.map (fun e => e / 4)).eraseDups
  match s.freeTaskRec l.vf, s.placeOk l.vf (fun n => !l.held.elem n) cs && place.length == r.blocksPerGang with
  | some tr, true =>
    let id := s.ids
    let s1 := (s.newGang l tmpl gi args edge tr).onLaunch l.id (fun x => { x with
      live := x.live + 1, started := if tmpl = 0 then x.started + 1 else x.started, used := (x.used ++ cs).eraseDups
      consumers := match edge with
        | some e => e :: x.consumers
        | none => x.consumers
      due := match edge with
        | some e => x.due.filter (fun d => d.edge != e)
        | none => x.due
      part := s.partAt l.vf (cs.headD 0) x.part })
    match (s1.onGang id (fun g => { g with part := s.partAt l.vf (cs.headD 0) l.part })).addBlocks l p id gi args place with
    | none => none
    | some s2 =>
      let s3 := (s2.blocksOf id).foldl (fun t b => t.blockReady l tmpl r b ((gi * r.blocksPerGang + b.index) * r.wavesPerBlock)) s2
      let s4 := match s3.gang? id with
        | some g => s3.writeTask l.vf p g 0
        | none => s3
      some (if l.status = 0 then (s4.devPut l.vf l.prog.lrec.done.toNat 4 1).onLaunch l.id (fun x => { x with status := 1 }) else s4)
  | _, _ => none

/-- How many waves of a launch a panel still takes, each with its lining wave's slot (R304, R317). -/
def State.panelRoom (s : State) (vf : Nat) (zero : Bool) (need c pn : Nat) : Nat :=
  min (s.freeSlotsOf c pn).length (if zero then 32 else 32 - (s.reserved vf c).1 - s.panelSlots c pn (fun v => !s.isZero v.blk)) / max 1 need
/-- How many blocks of `4 q + m` waves four panels of some room take together, however they are turned (R304): `q` waves of a block are in each panel, and one
more in `m` of them that follow one another. -/
def packs (room : List Nat) (q m : Nat) : Nat :=
  let at_ := fun (p : Nat) => room.getD p 0
  let fits := fun (k : Nat) =>
    (List.range 4).all (fun p => decide (k * q ≤ at_ p)) &&
    (let d := fun (p : Nat) => at_ p - k * q
     match m with
     | 0 => true
     | 1 => decide (k ≤ d 0 + d 1 + d 2 + d 3)
     | 2 => decide (k ≤ d 0 + d 2) && decide (k ≤ d 1 + d 3)
     | _ => decide ((k - d 0) + (k - d 1) + (k - d 2) + (k - d 3) ≤ k))
  (List.range 129).foldl (fun n k => if fits k then k else n) 0
/-- The panels for wave 0 of the next block on a core, first one that leaves room for as many more as can be. -/
def State.turns (s : State) (vf : Nat) (zero : Bool) (r : LaunchRec) (c : Nat) : List Nat :=
  let q := r.wavesPerBlock / 4
  let m := r.wavesPerBlock % 4
  let room := (List.range 4).map (fun p => s.panelRoom vf zero (if r.lined then 2 else 1) c p)
  let after := fun (k : Nat) => (List.range 4).map (fun p => room.getD p 0 - q - (if (p + 4 - k) % 4 < m then 1 else 0))
  let best := ((List.range 4).filter (fun k => packs room q m ≤ packs (after k) q m + 1))
  best ++ (List.range 4).filter (fun k => !best.elem k)

/-- A place for some blocks of a function, searched from a window on: for each block the first core of the window that takes it by `put`, wave 0 in the first
panel of some order of that core; in a partition of the function that may be used. -/
def State.searchPlace (s : State) (vf : Nat) (may : Nat → Bool) (n n0 : Nat) (turns : State → Nat → List Nat) (put : State → Nat → Nat → Option State) :
    Option (List Nat) :=
  let tryWin := fun (part : Partition) (win : Nat) =>
    (List.range n).foldl (fun (acc : Option (State × List Nat)) i =>
      match acc with
      | none => none
      | some (t, es) =>
        ((windowOfNbh part win).flatMap (fun c => (turns t c).map (fun k => 4 * c + k))).findSome? (fun e =>
          (put t i e).map (fun u => (u, es ++ [e])))) (some (s, []))
  (s.partsOf vf).findSome? (fun q =>
    if q.2.booted && !q.2.scrubbing && q.2.incoming.isNone && may q.1 then
      (List.range 48).findSome? (fun k => (tryWin q.2 ((n0 + k) % 48)).map (fun x => x.2))
    else none)

/-- The window that a search begins with: the device's choice. -/
def State.firstWindow (s : State) : Nat := Config.freeNat s.free 6700000 % 48
/-- A place for a gang about to start, searched from a window on: one is found wherever there is one, since its blocks are alike. -/
def State.placeFrom (s : State) (l : Launch) (tmpl : Nat) (only : Option Nat) (n0 : Nat) : Option (List Nat) :=
  let p := l.progOf tmpl
  let r := p.lrec
  let zero := l.prog.lrec.cls == 0
  (s.newGang l tmpl 0 [] none 0).searchPlace l.vf (fun k => !l.held.elem k && (only.map (fun o => o == k)).getD true) r.blocksPerGang n0 (fun t c => t.turns l.vf zero r c) (fun t i e =>
    ({ t with ids := t.ids + 1 } : State).addBlock l.vf zero r (startBlock (t.ids + 1) s.ids i (e / 4) r zero) e
      ((List.range r.wavesPerBlock).map (fun w => startWave p 0 i w [])) true)

/-- A place for a gang about to start. -/
def State.findPlace (s : State) (l : Launch) (tmpl : Nat) (only : Option Nat) : Option (List Nat) := s.placeFrom l tmpl only s.firstWindow

/-! ## Starting work -/

/-- Places for all the gangs of a launch at once, each searched from a window on (R305). -/
def State.placesFrom (s : State) (l : Launch) (n0 : Nat) : Option (List Nat) :=
  ((List.range l.prog.lrec.gangs).foldl (fun (acc : Option (State × List Nat)) i =>
    match acc with
    | none => none
    | some (t, es) =>
      match t.launch? l.id with
      | none => none
      | some y => (t.placeFrom y 0 none n0).bind (fun place => (t.startGang y 0 i [] none place).map (fun u => (u, es ++ place)))) (some (s, []))).map (fun x => x.2)
/-- Places for the next gangs of a launch: for one, or, with co-residency, for all of them at once (R305): where any order of the windows has room for them, the
rising one has, each window filled before the next begins. -/
def State.findPlaces (s : State) (l : Launch) : Option (List Nat) :=
  if l.prog.lrec.cores then
    match s.placesFrom l s.firstWindow with
    | some x => some x
    | none => s.placesFrom l 0
  else s.findPlace l 0 none

/-- Whether work of a launch could start now (R306, R328): its leases are held or can be granted, and there is room. -/
def State.couldStart (s : State) (l : Nat) (w : Work) : Bool :=
  match s.launch? l with
  | none => false
  | some x =>
    let task := fun (k : Nat) (only : Option Nat) =>
      let t := (s.leaseLaunch l).leaseTemplate l k
      ((t.launch? l).map (fun y => y.leased && y.tleased.elem k)).getD false && (s.findPlace x (k + 1) only).isSome
    match w with
    | .gang => x.toStart && (((s.leaseLaunch l).launch? l).map (fun y => y.leased)).getD false && (s.findPlaces x).isSome
    | .spawn => task (((s.spawnEntry x 0).headD 0).toNat % 64) ((s.spawnDue x).head?.map (fun d => d.2))
    | .edge e => task (s.edgeOf x e).2.2.2 none

/-- Whether work of a launch comes next (R306): no lower class has any that could start, and it is the first of its class. -/
def State.isNext (s : State) (l : Launch) (w : Work) : Bool :=
  (s.workOf l.vf l.prog.lrec.cls).head? == some (l.id, w) &&
  (List.range l.prog.lrec.cls).all (fun c => !((s.workOf l.vf c).head?.map (fun x => s.couldStart x.1 x.2)).getD false)

/-- GANG_START (R304, R305): the next gang of a launch; with co-residency all of them in one step, their places one after another. -/
def execGangStart (l gi : Nat) (place : List Nat) (s0 : State) : Res :=
  let s := s0.leaseLaunch l
  done (match s.launch? l with
    | none => s
    | some x =>
      let r := x.prog.lrec
      if !(x.toStart && x.leased && x.started == gi && s.isNext x .gang) then s
      else if r.cores then
        ((List.range r.gangs).foldl (fun acc i =>
          match acc with
          | none => none
          | some t =>
            match t.launch? l with
            | some y => t.startGang y 0 i [] none ((place.drop (i * r.blocksPerGang)).take r.blocksPerGang)
            | none => none) (some s)).getD s
      else (s.startGang x 0 gi [] none place).getD s)

/-- A task of a template started where there is room (R311, R312), under the launch's own leases and the template's (R328). -/
def State.startTask (s : State) (l : Launch) (k : Nat) (args : List Word) (edge only : Option Nat) : Option State :=
  if !(l.open_ && l.leased && l.tleased.elem k) then none
  else (s.findPlace l (k + 1) only).bind (fun place => s.startGang l (k + 1) 0 args edge place)

/-- SPAWN_ENTRY_TAKE (R311): where it comes next, the entry at HEAD becomes one gang of its template, in its parent's partition, and HEAD advances. -/
def execSpawnEntryTake (l : Nat) (s : State) : Res :=
  done (match s.launch? l with
    | none => s
    | some x =>
      if s.spawnWaiting x = 0 || !s.isNext x .spawn then s
      else
        let w := s.spawnEntry x 0
        let k := (w.headD 0).toNat % 64
        let s1 := s.leaseTemplate l k
        match (s1.launch? l).bind (fun y => s1.startTask y k (w.drop 1) none ((s.spawnDue x).head?.map (fun d => d.2))) with
        | none => s1
        | some s2 =>
          let d := x.prog.lrec.spawnq.toNat
          (s2.onLaunch l (fun y => { y with spawned := y.spawned.drop 1 })).devPut x.vf (d + 12) 4 ((s2.devGet x.vf (d + 12) 4 + 1) % 2 ^ 32))

/-- A consumer of an edge started where it is due and comes next (R306, R312, R313): ARG3 is the count of items seen when it became due. -/
def State.startConsumer (s : State) (l e : Nat) (drain : Bool) : State :=
  match s.launch? l with
  | none => s
  | some x =>
    match (s.dueEdges x).find? (fun d => d.edge == e && d.drain == drain) with
    | none => s
    | some d =>
      if !s.isNext x (.edge e) then s
      else
        let k := (s.edgeOf x e).2.2.2
        let va := x.edgeVas.getD e 0
        let args : List Word := [BitVec.ofNat 32 va, BitVec.ofNat 32 (va / 2 ^ 32), BitVec.ofNat 32 d.items]
        let s1 := s.leaseTemplate l k
        match (s1.launch? l).bind (fun y => s1.startTask y k args (some e) none) with
        | none => s1
        | some t => t.devWrite x.vf (va + 32) (s.anyBytes (7500 + e) 32)

/-- EDGE_CONSUMER_START (R312). -/
def execEdgeConsumerStart (l e : Nat) (s : State) : Res := done (s.startConsumer l e false)

/-- EDGE_DRAIN_START (R313). -/
def execEdgeDrainStart (l e : Nat) (s : State) : Res := done (s.startConsumer l e true)

/-! ## Taking a record -/

/-- An admitted launch (R303), whose record became visible at a time (R300). An instance that has already aborted makes every wait of a WAIT launch throw (spec/24 R360). -/
def newLaunch (s : State) (since id vf : Nat) (p : Prog) (ts : List (Nat × Prog)) (k : Option Coll) : Launch :=
  { id := id, vf := vf, part := 0, prog := p, templates := ts,
    edgeVas := (List.range p.lrec.ecount).map (fun i => s.devGet vf (p.lrec.edges.toNat + 8 * i) 8), coll := k, status := 0, started := 0, live := 0,
    consumers := [], halted := false, held := [], aborting := none,
    visibleAt := since, fired := [],
    waitAbort := k.bind (fun c => if c.role = 2 then
        (s.commAt vf c.cdesc).bind (fun m => (m.2.inst? c.inst).bind (fun x => x.aborted.map (fun a => abortClass a.1)))
      else none)
    used := [], pubReq := none, tstart := none, leased := false, tleased := [], spawned := [], due := [] }

/-- The instance of a FIRE launch begins (spec/24 R357); a notice kept for it has its effect once it fires a chunk (spec/24 R366). -/
def State.openInstance (s : State) (vf l : Nat) (k : Option Coll) : State :=
  match k with
  | some c =>
    if c.role = 1 then
      match s.commAt vf c.cdesc with
      | some (id, _) => s.onComm id (fun m => { m with instances :=
          { inst := c.inst, launch := l, coll := c, fired := [], done := [], written := [], torn := [], folded := [], aborted := none, complete := false,
            breached := [], turn := 0 } :: m.instances })
      | none => s
    else s
  | none => s

/-- A record refused (R303, R308). -/
def State.refuse (s : State) (vf : Nat) (r : LaunchRec) (reason : Nat) : State := s.doneRecord vf r.done 3 reason 0 0 0 none

/-- THE ADMISSION OF A RECORD (R303), visible since a time: its steps in order, the first failure decides. -/
def State.admitRecord (s : State) (since vf cls va : Nat) (bs : List Byte) : State :=
  let r := recOfBytes bs
  if r.cls ≠ cls then s.refuse vf r 1
  else
    let p0 := s.readProg vf va bs
    match p0, s.readTemplates vf r with
    | .error 7, .error e => s.refuse vf r e
    | .error e, _ => s.refuse vf r e
    | .ok _, .error e => s.refuse vf r e
    | .ok p, .ok ts =>
      if r.cores && !s.coResident vf r then s.refuse vf r 8
      else
        match s.readColl vf p with
        | .error e => s.refuse vf r e
        | .ok (s1, k) =>
          let id := s1.ids
          let s2 : State := { s1 with ids := s1.ids + 1, launches := insertAt s1.launches id (newLaunch s1 since id vf p ts k) }
          (s2.openInstance vf id k).leaseLaunch id

/-- The name of a record in `State.visible`: its function, class and index. -/
def recordKey (vf cls t : Nat) : Nat := (vf * 8 + cls) * 2 ^ 32 + t
/-- The functions whose CTRL.EN is set (spec/22 R326): the words of the register maps that hold no reset value are listed by their keys. -/
def State.enabledVfs (s : State) : List Nat :=
  s.mon.regs.filterMap (fun p => if p.1 / 2 ^ 32 = 2 ∧ p.1 % 2 ^ 20 = 92 ∧ p.2.getLsbD 0 = true then some (p.1 / 2 ^ 20 % 2 ^ 12) else none)
/-- The records that stand in the queues, each visible since its SEQ entered the order at the package home (R300). -/
def State.settleVisible (s : State) : State :=
  { s with visible := s.enabledVfs.flatMap (fun vf => (List.range 8).flatMap (fun cls =>
      let dv := s.queueVa vf cls
      let cap := s.devGet vf (dv + 8) 4
      let head := s.devGet vf (dv + 16) 4
      let base := s.devGet vf dv 8
      (List.range (if isCap cap then cap else 0)).filterMap (fun i =>
        let t := (head + i) % 2 ^ 32
        let k := recordKey vf cls t
        if s.devGet vf (base + 256 * (t % cap) + 20) 4 = (t + 1) % 2 ^ 32 then some (k, (look s.visible k).getD s.clock.wall) else none))) }

/-- LAUNCH_RECORD_TAKE (R300, R303, R306): the slot at HEAD is taken once its SEQ says so and every gang of the queue's previous record has
started. -/
def execLaunchRecordTake (vf cls : Nat) (s : State) : Res :=
  done (
    let dv := s.queueVa vf cls
    let cap := s.devGet vf (dv + 8) 4
    let head := s.devGet vf (dv + 16) 4
    let va := s.devGet vf dv 8 + 256 * (head % max 1 cap)
    let bs := s.vaBytes vf va 256
    let busy := s.launches.any (fun p => p.2.vf == vf && p.2.prog.lrec.cls == cls && p.2.aborting.isNone && decide (p.2.status ≤ 1) &&
      decide (p.2.started < p.2.prog.lrec.gangs))
    if !s.served vf cls || busy || fld bs 20 4 != (head + 1) % 2 ^ 32 then s
    else
      let depth := (s.devGet vf (dv + 12) 4 + 2 ^ 32 - head) % 2 ^ 32
      let since := (look s.visible (recordKey vf cls head)).getD s.clock.wall
      ((((s.devPut vf (dv + 16) 4 ((head + 1) % 2 ^ 32)).placeReady).admitRecord since vf cls va bs).closeIdle).gauge 3 cls (some vf) depth)

/-! ## TEND and completion -/

/-- A new basting interval of a gang (spec/27 R393): its log is discarded, a relaunch goes to the kernel entry. -/
def State.openInterval (s : State) (g : Nat) (restart : Bool) : State :=
  State.onGang { s with restarts := if restart then s.restarts else eraseAt s.restarts g } g (fun k => { k with
    interval := k.interval + 1, openedAt := s.clock.wall, openStamp := s.stamp, log := [], tries := 0, restart := restart })

/-- TEND_RETIRE (spec/10 R222): once every live thread of the block stands at a TEND and its copies have completed, its part of the task
record is retired, a new interval opens, and the threads go on. -/
def execTendRetire (blk : Nat) (s : State) : Res :=
  done (match s.block? blk with
    | none => s
    | some b =>
      if !s.tendMet blk || !b.queues.all List.isEmpty then s
      else
        let s1 := s.openInterval b.gang false
        let s2 := match s1.gang? b.gang with
          | some g => s1.taskState g 2
          | none => s1
        { s2 with waves := s2.waves.map (fun w => if w.blk = blk then w.passAll (fun t =>
          match t.wait with
          | .tend k => (({ t with wait := .no }).advance 4).tackIf k
          | _ => t) else w) })

/-- The instance of a FIRE launch: whether it is complete, and whether it has aborted and why. -/
def State.instanceState (s : State) (x : Launch) : Bool × Option Nat :=
  match x.coll with
  | none => (true, none)
  | some k =>
    if k.role ≠ 1 then (true, none)
    else
      match (s.commAt x.vf k.cdesc).bind (fun m => m.2.instances.find? (fun y => y.inst == k.inst && y.launch == x.id)) with
      | some i => (i.complete, i.aborted.map (fun a => a.1))
      | none => (true, none)

/-- Whether the conditions of R307 hold. -/
def State.allDone (s : State) (x : Launch) : Bool :=
  x.status == 1 && !x.halted && x.started == x.prog.lrec.gangs && x.live == 0 && s.spawnWaiting x == 0 &&
  (List.range x.edgeVas.length).all (fun e => (s.edgeOf x e).2.2.1 == 0)

/-- LAUNCH_COMPLETE (R307, R358, R276): the views of every core the launch used are published at .system, the TCB is retired, STATUS
becomes 2; where its instance has aborted, STATUS 4. The abort of a launch that waited for responses is brought to its end. -/
def execLaunchComplete (l : Nat) (s : State) : Res :=
  done (match s.launch? l with
    | none => s
    | some x =>
      if x.aborting.isSome then s.finishAbort l
      else
        let (ok, ab) := s.instanceState x
        if !s.allDone x || !(ok || ab.isSome) then s
        else
          match s.closePublish x with
          | (s1, false) => s1
          | (s1, true) =>
            match ab with
            | some cause =>
              (((s1.doneRecord x.vf x.prog.lrec.done 4 0 (abortClass cause) 0 0 x.tstart).onLaunch l (fun y => { y with status := 4 })).forgetLaunch l).closeIdle
            | none =>
              let s2 := if x.prog.lrec.tcb = 0 then s1 else s1.retireTcb [] x.vf x.prog.lrec.tcb.toNat
              (((s2.doneRecord x.vf x.prog.lrec.done 2 0 0 0 0 x.tstart).onLaunch l (fun y => { y with status := 2 })).forgetLaunch l).closeIdle)

/-! ## The allowance table -/

/-- A bucket refilled at some instants, the last of them now: LEVEL rises, its tag records are gone (R316). -/
def State.refill (s : State) (vf b times : Nat) : State :=
  let va := s.bucketVa vf b
  let lv := min (s.devGet vf va 4 + times * s.devGet vf (va + 4) 4) (s.devGet vf (va + 8) 4)
  let s1 := s.devPut vf va 4 lv
  { s1 with
    tags := s1.tags.filter (fun t => !(t.vf == vf && t.bucket == b))
    refills := ⟨vf, b, s.clock.now⟩ :: s1.refills.filter (fun r => !(r.vf == vf && r.bucket == b)) }
/-- The nanoseconds between the refills of a bucket; 0 where it has none (R316). -/
def State.refillPeriod (s : State) (vf b : Nat) : Nat :=
  let ctrl := s.devGet vf (s.bucketVa vf b + 12) 4
  if decide (b < 1024) && ctrl.testBit 0 then ctrl / 2 ^ 12 * 10000 else 0

/-- ALLOWANCE_REFILL (R316): at an instant of the bucket, once. -/
def execAllowanceRefill (vf b : Nat) (s : State) : Res :=
  let period := s.refillPeriod vf b
  let again := s.refills.any (fun r => r.vf == vf && r.bucket == b && r.instant == s.clock.now)
  done (if decide (0 < period) && s.clock.now % max 1 period == 0 && !again then s.refill vf b 1 else s)

/-- The refills of every bucket at the instants after a time, up to now (R316): none is lost, however far the time has gone on. -/
def State.refillsSince (s : State) (t0 : Nat) : State :=
  if s.clock.now / 10000 ≤ t0 / 10000 then s
  else
    ((List.range 256).filter (fun vf => (s.vfWord vf 92).testBit 0 && s.vfDword vf 24 != 0)).foldl (fun t vf =>
      (List.range 1024).foldl (fun u b =>
        let period := u.refillPeriod vf b
        let n := u.clock.now / max 1 period - t0 / max 1 period
        if 0 < period ∧ 0 < n then u.refill vf b n else u) t) s

end Sys2Proof.Machine
end

