-- ==== Sys2Proof/Machine/Array.lean ====
section
/-! DEFINITION. The array: taking an operation at an MMA boundary, what each kind of operation does when it completes, spilled pleats,
checksum columns (spec/09 R180 to R201, spec/04 R79 to R83, spec/27 R391). -/

namespace Sys2Proof.Machine

/-! ## Elements -/

/-- The bits of a format (R186) that a binary8 code has. -/
def bin8Of (f : Nat) : Bin8 := { nm1 := f % 8, uns := f.testBit 3, inf := f.testBit 4 }

/-- The exact value of a code of a format (R80). -/
def codeVal (f code : Nat) : Val :=
  if fmtFam f = 0 then (bin8Of f).decode (BitVec.ofNat 8 code)
  else if fmtFam f = 1 then .num (decide (128 ≤ code % 256)) (if 128 ≤ code % 256 then 256 - code % 256 else code % 256) 0
  else if fmtFam f = 2 then .num false (code % 256) 0
  else if fmtFam f = 3 then ieee16.decode code
  else ieeeB16.decode code

/-- Whether a format is of integers. -/
def fmtInt (f : Nat) : Bool := fmtFam f == 1 || fmtFam f == 2

/-- A product as a term of a group sum (R80, R82); of two integers an exact integer, whose 0 has no sign (R83). -/
def term (wf af : Nat) (a w : Val) : Val × Bool :=
  match mulV a w with
  | (.num n m e, bad) => (.num (n && !(m == 0 && fmtInt wf && fmtInt af)) m e, bad)
  | p => p

/-- A code in operand slots taken as one (R181): `size` bytes from an offset. -/
def State.slotCode (s : State) (c : Nat) (slots : List Nat) (off size : Nat) : Nat :=
  let at_ := fun (x : Nat) => (s.slotByte c (slots.getD (x / 32768) 0) (x % 32768)).toNat
  if size = 2 then at_ off + 256 * at_ (off + 1) else at_ off
/-- The bytes of an element of a format. -/
def fmtSize (f : Nat) : Nat := if fmtWide f then 2 else 1

/-! ## MMA -/

/-- The accumulator after a stream row's groups (R81, R190): the codes of the row and of the column by k. -/
def groups (wf af kk : Nat) (a w : Nat → Nat) (sc : Word) (start : Word) : Word :=
  (List.range 4).foldl (fun acc g =>
    let ks := (List.range 32).map (fun i => 32 * g + i) |>.filter (fun k => decide (k < kk))
    if ks.isEmpty then acc
    else
      let gs := (groupSum (ks.map (fun k => term wf af (codeVal af (a k)) (codeVal wf (w k))))).1
      BitVec.ofNat 32 (fmaF ieee32 .rne (f32 acc) gs (f32 sc)).1) start

/-- −0, at which an element starts that nothing is accumulated into (R81). -/
def negZero32 : Word := 0x80000000#32

/-- The destination rows an MMA names. -/
def MatOp.destRows (o : MatOp) : List Nat := ((List.range (o.val 6)).filterMap o.destRow).eraseDups

/-- The rows an MMA leaves, as N words each (R190): stream rows in ascending order, `init` the pleat as it was. -/
def State.mmaRows (s : State) (c : Nat) (lt : Latch) (o : MatOp) (init : Nat → Nat → Word) : List (Nat × List Word) :=
  let af := o.val 5
  let sz := fmtSize af
  (List.range (o.val 6)).foldl (fun rows i =>
    match o.destRow i with
    | none => rows
    | some row =>
      let srow := if o.val 10 % 2 = 1 then one32 else (o.vec 11).getD i 0
      let a := fun (k : Nat) => s.slotCode c o.slots (128 * sz * (o.val 7 + i) + sz * k) sz
      let codes := (List.range lt.k).map a
      insertAt rows row ((List.range lt.n).map (fun j =>
        let start := match look rows row with
          | some ws => ws.getD j 0
          | none => if o.val 2 = 1 then init row j else negZero32
        groups lt.fmt af lt.k (fun k => codes.getD k 0) (fun k => (getD lt.codes 0 (2 ^ 16 * j + k)).toNat)
          (round32mul srow (lt.scol.getD j 0)) start))) []

/-! ## Pleats -/

/-- The address of a row of a spilled pleat (R197). -/
def Tile.spillVa (t : Tile) (p row : Nat) : Dword := t.spill + BitVec.ofNat 64 (((p - t.p) * t.m + row) * 768)

/-- How the accesses of an operation to spilled rows come out: they can be made, something must be fetched first, a
poisoned line is consumed, or an access faults; after the last two the gang rolls back. -/
inductive Spill where
  | ok
  | fetch (line : Nat)
  | poison (line : Nat)
  | bad
  deriving DecidableEq, Repr

/-- One row of a spilled pleat that an operation reads, or writes (R197, R170). -/
def State.spillRow (s : State) (c blk : Nat) (t : Tile) (p row : Nat) (write : Bool) : Spill :=
  match s.rowAt blk (t.spillVa p row) 768 write with
  | .ok pls =>
    let pas := physOf pls
    if write then .ok
    else
      match pas.findSome? (fun pa => s.poisonHit c pa 1),
        pas.find? (fun pa => isRemote pa && !s.hasByte c pa) with
      | some l, _ => .poison l
      | none, some pa => if s.outOfReach pa then .bad else .fetch (pa / 64 * 64)
      | none, none => .ok
  | _ => .bad

/-- The pleats BIND reads, in allocation order, with the coefficients of the first table entry that has their label (R199, R200). -/
def MatOp.bound (o : MatOp) : List (Nat × List Word) :=
  (List.range o.labels.length).filterMap (fun p =>
    (o.table.find? (fun e => e.1 == o.labels.getD p 0)).map (fun e => (p, e.2)))

/-- The rows of spilled pleats an operation reaches: pleat, row, whether it is written. -/
def MatOp.spillRows (o : MatOp) (t : Tile) : List (Nat × Nat × Bool) :=
  if o.f6 = 3 then
    match o.pleat with
    | some p =>
      if p < t.p then []
      else if o.newPleat then (List.range t.m).map (fun r => (p, r, true))
      else o.destRows.flatMap (fun r => if o.val 2 = 1 then [(p, r, false), (p, r, true)] else [(p, r, true)])
    | none => []
  else if o.f6 = 4 then (o.bound.filter (fun b => decide (t.p ≤ b.1))).flatMap (fun b => (List.range t.m).map (fun r => (b.1, r, false)))
  else []

/-- What becomes of the spill accesses of an operation: the first that cannot be made decides. -/
def State.spillState (s : State) (c : Nat) (o : MatOp) : Spill :=
  match o.obj.bind (s.tileOf c) with
  | none => .ok
  | some t =>
    (o.spillRows t).foldl (fun acc x =>
      match acc with
      | .ok => s.spillRow c o.blk t x.1 x.2.1 x.2.2
      | r => r) .ok

/-- The places of a spilled row. -/
def State.spillPas (s : State) (blk : Nat) (t : Tile) (p row : Nat) : List Place :=
  match s.rowAt blk (t.spillVa p row) 768 false with
  | .ok pls => pls
  | _ => []

/-- An element of a pleat, read from the tile or, spilled, through the core's view (R197); undefined in an untrusted tile, or where the spill
area has been reached by other means (R196, R201). -/
def State.pleatElem (s : State) (c blk id : Nat) (t : Tile) (p row col : Nat) : Word :=
  if p < t.p then t.elem s id (p * t.m + row) col
  else if t.untrusted || t.breached then s.freeWord (2 ^ 43 + 2 ^ 26 * id + 192 * (p * t.m + row) + col)
  else
    let pas := s.spillPas blk t p row
    BitVec.ofNat 32 (leNat ((List.range 4).map (fun i => s.byteOf c (pas.getD (4 * col + i) (.phys 0)))))

/-- A row of a pleat written from its column 0. -/
def State.putPleat (s : State) (c blk id : Nat) (t : Tile) (p row : Nat) (ws : List Word) : State :=
  if p < t.p then s.onTile c id (fun x => x.setRow (p * t.m + row) ws)
  else if t.breached then s.scatterWrite c (s.gangId blk) (s.spillPas blk t p row) (s.anyBytes (2 ^ 27 + 2 ^ 20 * id + p * t.m + row) 768)
  else s.scatterWrite c (s.gangId blk) (s.spillPas blk t p row) (bytesOf ws)

/-- The rows of a newly allocated pleat set to +0 (R197). -/
def State.zeroPleat (s : State) (c blk id : Nat) (t : Tile) (p : Nat) : State :=
  if p < t.p then
    s.onTile c id (fun x => { x with
      rows := x.rows.filter (fun e => decide (e.1 < 192 * (p * t.m)) || decide (192 * ((p + 1) * t.m) ≤ e.1)), zeroed := p :: x.zeroed })
  else (List.range t.m).foldl (fun u r => u.putPleat c blk id t p r (List.replicate 192 0)) s

/-- The destination of an MMA as it stands before it (spec/27 R391). -/
def State.savedMma (s : State) (c : Nat) (o : MatOp) (id : Nat) (t : Tile) (p : Nat) : SavedMma :=
  let lo := 192 * (p * t.m)
  let hi := 192 * ((p + 1) * t.m)
  let pas := if p < t.p then [] else o.destRows.flatMap (s.spillPas o.blk t p)
  { tile := id, rows := t.rows.filter (fun e => decide (lo ≤ e.1) && decide (e.1 < hi)), lo := lo, hi := hi,
    label := if o.newPleat then some (o.val 9) else none, zero := t.zeroed.elem p, spill := pas.map (fun pl => (pl, s.byteOf c pl)),
    pc := o.who.pc, regs := o.toks.map (fun k => k.reg) }

/-- The mark in `inject` of a checksum column that does not agree, of an ENG or MTX word that does not (log entry 12). -/
def injMatrix : Nat := 64
def injEngine : Nat := 65

/-- Whether an operation is an MMA of a lined wave whose checksum comparison fails (R191, spec/27 R389). -/
def State.matrixFails (s : State) (o : MatOp) : Bool :=
  o.f6 == 3 && s.inject.elem injMatrix && ((s.issuing? o.who).map (fun w => w.lining.isSome)).getD false

/-- SILENT of KIND MATRIX (spec/15 R283, R284): which elements disagree is not given; the trap is due in the issuing lane, and the health
ring says so (spec/27 R398). -/
def State.silentMatrix (s : State) (c : Nat) (o : MatOp) (n : Nat) (m : SavedMma) : State :=
  let f := fun (k : Nat) => Config.freeNat s.free (6900000 + k)
  let syn : Word := BitVec.ofNat 32 (2 * 2 ^ 28 + 0xFF00 + (1 + f 0 % 255))
  let s1 : State := { s with inject := s.inject.erase injMatrix }
  let s2 := s1.onIssuing o.who (fun w => { w with
    regs := { w.regs with
      silent := ⟨syn, 0x10#32, BitVec.ofNat 32 (f 1 % max 1 (o.val 6)), BitVec.ofNat 32 (f 2 % max 1 n), BitVec.ofNat 32 (f 3 % 4)⟩ }
    lining := w.lining.map (fun l => { l with saved := m :: l.saved, failed := true }) })
  (s2.dueThrow o.who 10 0 o.who.pc o.blame o.step).healthEvent 4 (s.vfOf o.blk) (unitOf 1 c 0xFF) 0 syn.toNat

/-- MMA (R190, R197), with its checksum columns (R191). -/
def State.doMma (s : State) (c : Nat) (lt : Latch) (o : MatOp) (id : Nat) (t : Tile) (p : Nat) : State :=
  let fails := s.matrixFails o
  let saved := s.savedMma c o id t p
  let s1 := if o.newPleat then s.zeroPleat c o.blk id t p else s
  let t1 := (s1.tileOf c id).getD t
  let rows := s1.mmaRows c lt o (fun r j => s1.pleatElem c o.blk id t1 p r j)
  let out := if o.spoilt || fails then
      rows.map (fun x => (x.1, (List.range lt.n).map (fun j => s.freeWord (2 ^ 33 + 192 * x.1 + j)))) else rows
  let s2 := out.foldl (fun u x => u.putPleat c o.blk id t p x.1 x.2) s1
  if fails then (s2.onTile c id (fun x => { x with untrusted := true })).silentMatrix c o lt.n saved else s2

/-! ## The other operations -/

/-- What WLOAD latches (R187, R181). -/
def State.doWload (s : State) (c : Nat) (o : MatOp) : Latch :=
  let k := o.val 3
  let n := o.val 4
  let sz := fmtSize (o.val 2)
  let code := fun (j i : Nat) =>
    if o.spoilt then (s.freeWord (2 ^ 33 + 2 ^ 16 * j + i)).toNat else s.slotCode c o.slots (128 * sz * j + sz * i) sz
  { k := k, n := n, fmt := o.val 2, scol := if o.val 5 % 2 = 1 then List.replicate n one32 else o.vec 6,
    codes := (List.range n).flatMap (fun j => (List.range k).map (fun i => (2 ^ 16 * j + i, BitVec.ofNat 16 (code j i % 2 ^ (8 * sz))))) }

/-- What TSCALE latches (R188). -/
def doTscale (o : MatOp) (lt : Latch) : Latch :=
  let v := o.vec 2
  { lt with scol := (List.range lt.n).map (fun j =>
      let old := lt.scol.getD j 0
      if o.val 1 = 2 then round32mul old (v.headD 0)
      else if v.length ≤ j then old
      else if o.val 1 = 0 then v.getD j 0
      else round32mul old (v.getD j 0)) }

/-- TRANS (R185): the source is read in full first. -/
def State.doTrans (s : State) (c : Nat) (o : MatOp) : State :=
  let e := o.val 3
  let n := 128 / max 1 e
  let src := o.slots.getD 0 0
  let dst := o.slots.getD 1 0
  (List.range n).foldl (fun u r =>
    let row := (List.range n).flatMap (fun k => (List.range e).map (fun b => s.slotByte c src (128 * (o.val 4 + k) + e * r + b)))
    u.slotWrite c dst (128 * r) (if o.spoilt then s.anyBytes (2 ^ 20 + r) row.length else row)) s

/-- A row of BIND's result (R199). -/
def State.bindRow (s : State) (c : Nat) (o : MatOp) (id : Nat) (t : Tile) (row : Nat) (old : Nat → Word) : List Word :=
  (List.range 192).map (fun j =>
    o.bound.foldl (fun out b =>
      BitVec.ofNat 32 (fmaF ieee32 .rne (f32 out) (f32 (b.2.getD row 0)) (f32 (s.pleatElem c o.blk id t b.1 row j))).1)
      (if o.val 3 = 1 then old j else negZero32))

/-- BIND (R199, R200): its terms are all read before the row is written. -/
def State.doBind (s : State) (c : Nat) (o : MatOp) (id : Nat) (t : Tile) : State :=
  (List.range t.m).foldl (fun u row =>
    if o.val 2 = 1 then
      let a := (o.val 7 + 768 * row) % 2 ^ 32
      let old := wordsOf 192 (u.scratchBytes o.blk a 768)
      u.scratchWrite o.blk a (bytesOf (s.bindRow c o id t row (fun j => old.getD j 0)))
    else
      let d := o.dest.getD 0
      u.onTile c d (fun x => x.setRow (o.val 6 + row) (s.bindRow c o id t row (fun j => x.elem u d (o.val 6 + row) j)))) s

/-- The effect of an operation in the array (R185 to R199), `zero` its queue. Its tile is marked untrusted where it must be (R174). -/
def State.runMat (s : State) (c : Nat) (zero : Bool) (o : MatOp) : State :=
  let lt := ((s.core c).queue zero).latch
  let latch := fun (x : Latch) => s.onCore c (fun k => k.onQueue zero (fun q => { q with latch := x }))
  let tile := o.obj.bind (fun id => (s.tileOf c id).map (fun t => (id, t)))
  let s1 :=
    if o.f6 = 2 then latch (s.doWload c o)
    else if o.f6 = 9 then latch (doTscale o lt)
    else if o.f6 = 8 then s.doTrans c o
    else
      match tile with
      | none => s
      | some (id, t) =>
        if o.f6 = 3 then
          match o.pleat with
          | some p => s.doMma c lt o id t p
          | none => s
        else if o.f6 = 4 then s.doBind c o id t
        else s.onTile c id (fun x => { x with rows := [], zeroed := List.range x.p, untrusted := false })
  let mark := if o.f6 = 4 then o.dest else if o.f6 = 3 ∨ o.f6 = 5 then o.obj else none
  match mark, o.untrust with
  | some id, true => s1.onTile c id (fun x => { x with untrusted := true })
  | _, _ => s1

/-! ## Fences -/

/-- The fences of a matrix queue with nothing left ahead of them leave it, one after another, and write their tokens (R180); with them the sets that waited for
them (spec/11 R232). -/
def State.passFences (s : State) (c : Nat) (zero : Bool) : Nat → State
  | 0 => s.settleVoids c
  | fuel + 1 =>
    match ((s.core c).queue zero).ops.find? (fun o => o.f6 == 10 && !o.after.any s.opLive) with
    | none => s.settleVoids c
    | some f =>
      let s1 := s.onCore c (fun k => k.onQueue zero (fun q => { q with ops := q.ops.filter (fun o => o.id != f.id) }))
      State.passFences (f.toks.foldl (fun t k => t.writeToken k.who k.reg 0) s1) c zero fuel
/-- All of them. -/
def State.settleFences (s : State) (c : Nat) (zero : Bool) : State := s.passFences c zero ((s.core c).queue zero).ops.length

/-- The oldest operation of a queue that no fence of its block holds (R180). -/
def firstFree : List Nat → List MatOp → Option MatOp
  | _, [] => none
  | held, o :: rest => if o.f6 = 10 then firstFree (o.blk :: held) rest else if held.elem o.blk then firstFree held rest else some o

/-- What the array takes next: of class 0, else of the matrix queue (R194). -/
def Core.nextOp (k : Core) : Option (Bool × MatOp) :=
  match firstFree [] k.mq0.ops with
  | some o => some (true, o)
  | none => (firstFree [] k.mq.ops).map (fun o => (false, o))

/-- ARRAY_TAKE_OPERATION (R194, R170, R192): at an MMA boundary the next operation enters, once the accesses its path issued before it are
performed; the latched state it brings is loaded. A core that is retiring a row takes none (spec/27 R400). -/
def execArrayTakeOperation (c : Nat) (s : State) : Res :=
  let s0 := (s.settleFences c true).settleFences c false
  done (
    if (s0.core c).array.isSome || s0.rowWork c then s0
    else
      match (s0.core c).nextOp with
      | none => s0
      | some (zero, o) =>
        let s1 := s0.drainBefore o.who o.lanes o.step
        if !s1.drainedBefore o.who o.lanes o.step then s1
        else s1.onCore c (fun k =>
          let k1 := k.onQueue zero (fun q => { q with ops := q.ops.filter (fun x => x.id != o.id), latch := o.reset.getD q.latch })
          { k1 with array := some (zero, o), arrayAt := s.clockOf c, winSince := if zero then k1.winSince else s.clockOf c }))

/-! ## Completion -/

/-- The tokens an operation carries written (R171, R197, spec/11 R232). -/
def State.matTokens (s : State) (o : MatOp) : State := o.toks.foldl (fun t k => t.tokenValue k (o.setPleat.getD 0)) s

/-- An operation leaves the array: its tokens are written, what waited for it goes on. -/
def State.leaveArray (s : State) (c : Nat) (o : MatOp) : State :=
  let s1 := (s.onCore c (fun k => { k with array := none })).matTokens o
  let s2 := if o.f6 = 3 then s1.gauge 6 c (some (s.vfOf o.blk)) (s.clockOf c - (s.core c).arrayAt) else s1
  ((((s2.settleVoids c).settleFences c true).settleFences c false).tidy c).afterOp o.blk

/-- A read of spilled bytes from beyond the package, sent once (R170, spec/26 R378). -/
def State.spillFetch (s : State) (o : MatOp) (line : Nat) : State :=
  if s.requests.any (fun q => q.kind == .read && q.who == o.who && q.pa == line) then s else (s.send line 64 o.who .read []).1

/-- MATRIX_OPERATION_COMPLETE (R191, R197): not before an MMA's M + 160 cycles. A fault of a spill access rolls back the gang of the
block, the operation ending without its effect. -/
def execMatrixOperationComplete (c : Nat) (s : State) : Res :=
  done (match (s.core c).array with
    | none => s
    | some (zero, o) =>
      if o.f6 = 3 ∧ s.clockOf c < (s.core c).arrayAt + o.val 6 + 160 then s
      else
        match s.spillState c o with
        | .ok => (s.runMat c zero o).leaveArray c o
        | .fetch line => s.spillFetch o line
        | .poison line => (s.consume o.blk line).leaveArray c o
        | .bad => (s.onGang (s.gangId o.blk) (fun g => { g with rolling := true })).leaveArray c o)

end Sys2Proof.Machine
end

