-- ==== Sys2Proof/Machine/Image.lean ====
section
/-! DEFINITION. The bytes of a context image (spec/23 R345 to R348), and the monitor's writes of them (R344, R349; log entry 78). -/

namespace Sys2Proof.Machine

/-- Zeros up to the next multiple of a length. -/
def padTo (n : Nat) (bs : List Byte) : List Byte := bs ++ List.replicate ((n - bs.length % n) % n) 0#8

/-- STOP of a thread record (R348). -/
def stopCode (launched : Word) (t : Thread) : Nat :=
  if !launched.getLsbD t.lane then 4
  else if !t.live then 0
  else
    match t.wait with
    | .notch => 1
    | .stopped => 3
    | _ => 2

/-- A thread record (R348); `phase` the current phase of the thread's instance of a level. Levels that a handler has suspended come before its own. -/
def threadBytes (p : Prog) (launched : Word) (phase : Nat → Nat) (t : Thread) : List Byte :=
  let stop := stopCode launched t
  let head := leBytes 8 t.pc.toNat ++ leBytes 1 stop
  if stop = 0 ∨ stop = 4 then head ++ List.replicate 303 0#8
  else
    let notch := if stop = 1 then p.notches.find? (fun n => n.addr == t.pc.toNat) else none
    let gmask := (notch.map (fun n => n.gmask)).getD (if p.lrec.g < 128 then 2 ^ (p.lrec.g - 1) - 1 + 2 ^ 127 else 2 ^ 128 - 1)
    let lcmask := (notch.map (fun n => n.lcmask)).getD 7
    let levels := (t.loops ++ t.suspended).reverse
    let level := fun (i : Nat) =>
      match levels[i]? with
      | some v => leBytes 8 (v.start.toNat % 2 ^ 62 + 2 ^ 62 * (v.ctr + 1)) ++ leBytes 8 v.last.toNat
      | none => leBytes 16 0
    let regions := t.regions.reverse
    let region := fun (i : Nat) =>
      match regions[i]? with
      | some r => leBytes 8 r.level ++ leBytes 8 r.catchPc.toNat ++ leBytes 8 r.tryPc.toNat
      | none => leBytes 24 0
    let rec_ := fun (k : Nat) => if look t.arrived k == some (phase k) then 1#8 else 0#8
    head ++ leBytes 1 (t.p.toNat % 128) ++ leBytes 1 lcmask ++ leBytes 1 regions.length ++ leBytes 16 gmask ++
    (List.range 3).flatMap (fun i => leBytes 4 (getD t.lc 0 i).toNat) ++ (List.range 3).flatMap level ++ (List.range 8).flatMap region ++
    leBytes 8 t.uepc.toNat ++ leBytes 4 t.ucause.toNat ++ leBytes 4 t.iflags.toNat ++ leBytes 4 t.fflags.toNat ++
    leBytes 4 ((if t.handler then 1 else 0) + (if t.hsilent then 2 else 0)) ++ (List.range 8).map rec_ ++
    padTo 16 (((List.range 128).filter (fun r => gmask.testBit r)).flatMap (fun r => leBytes 4 (getD t.g 0 r).toNat))

/-- The per-wave special registers of R22 in a wave record, in ascending number, but those that R345 has recomputed. -/
def waveSpecials (r : LaunchRec) (block : Nat) (w : Wave) : List Byte :=
  let x := w.regs.x
  let q := w.regs.silent
  let n4 := fun (l : List Nat) => l.flatMap (leBytes 4)
  let w4 := fun (l : List Word) => l.flatMap (fun v => leBytes 4 v.toNat)
  n4 [if r.hasGang then block else 0, r.groupOf r.gangLevel w.wlin, r.l] ++ n4 ((List.range 8).map (fun k => r.grp k w.wlin)) ++
  n4 ((List.range 8).map r.gsz) ++ w4 [x.code, x.count, x.mask, x.lead] ++ leBytes 8 x.pc.toNat ++ w4 [x.level, x.cls] ++
  w4 [q.syn, q.unit, q.tilerow, q.tilecol, q.tilek] ++ leBytes 8 w.regs.utvec.toNat ++
  w4 [w.regs.itrap, w.regs.ftrap, w.regs.frnd, w.regs.f8fmt, w.regs.tailrule]

/-- A wave record, with its 32 thread records (R347). -/
def waveBytes (p : Prog) (block : Nat) (phase : Wave → Nat → Nat) (w : Wave) : List Byte :=
  (List.range 63).flatMap (fun r => leBytes 4 (getD w.regs.s 0 r).toNat) ++ leBytes 4 w.live ++
  (List.range 8).flatMap (fun j => leBytes 4 (getD w.regs.seamE 0 j).toNat ++ leBytes 4 (getD w.regs.seamW 0 j).toNat) ++
  waveSpecials p.lrec block w ++ leBytes 4 w.wave ++ w.lanes.flatMap (threadBytes p w.launched (phase w))

/-- The phase an image holds of the instance of a group at a level. -/
def Image.phase (m : Image) (k grp : Nat) : Nat := ((m.phases.find? (fun b => b.isOf m.gang.space k grp)).map (fun b => b.phase)).getD 0
/-- The barrier instances of some levels that waves of the launch from `lo` on belong to, in the form of R346. -/
def Image.barBytes (m : Image) (r : LaunchRec) (dom : Nat → Bool) (lo n : Nat) : List Byte :=
  ((List.range r.l).filter (fun k => dom (r.domain k))).flatMap (fun k =>
    (((List.range n).map (fun i => r.groupOf k (lo + i))).eraseDups).flatMap (fun g => leBytes 4 k ++ leBytes 4 (m.phase k g)))

/-- A tile of a section: its record, its labels, its rows (R347). -/
def State.tileBytes (s : State) (a id : Nat) (t : Tile) : List Byte :=
  leBytes 4 a ++ leBytes 2 t.m ++ leBytes 2 t.p ++ leBytes 2 t.policy ++ leBytes 2 t.spillN ++ leBytes 8 t.spill.toNat ++
  leBytes 4 (if t.untrusted then 1 else 0) ++ leBytes 8 t.labels.length ++ padTo 16 (t.labels.flatMap (leBytes 2)) ++
  (List.range (t.m * t.p)).flatMap (fun r => (List.range 192).flatMap (fun j => leBytes 4 (t.elem s id r j).toNat))

/-- The latched array state of a section (R347). -/
def Latch.bytes (l : Latch) : List Byte :=
  leBytes 4 l.k ++ leBytes 4 l.n ++ leBytes 4 l.fmt ++ (List.range 192).flatMap (fun j => leBytes 4 (l.scol.getD j 0).toNat) ++
  (List.range l.n).flatMap (fun j => (List.range l.k).flatMap (fun i => leBytes (fmtSize l.fmt) ((look l.codes (2 ^ 16 * j + i)).getD 0).toNat))

/-- A block section (R347). -/
def State.sectionBytes (s : State) (m : Image) (p : Prog) (x : SavedBlock) : List Byte :=
  let r := p.lrec
  let lo := (m.gang.index * r.blocksPerGang + x.block.index) * r.wavesPerBlock
  let slot := fun (o : Nat × Nat) => leBytes 4 o.1 ++ (List.range 32768).map (fun i =>
    match (look x.slots o.2).bind (fun k => look k.data i) with
    | some b => b
    | none => Config.freeByte o.2 i)
  let tile := fun (a : Nat × Nat) =>
    match look x.tiles a.2 with
    | some t => s.tileBytes a.1 a.2 t
    | none => []
  let rest := leBytes 1 x.waves.length ++ leBytes 1 (x.holder.getD 0xFF) ++ leBytes 1 x.block.o.length ++ leBytes 1 x.block.a.length ++
    leBytes 4 x.block.padSize ++ leBytes 4 (if x.latch.isSome then 1 else 0) ++
    (List.range x.block.padSize).map (getD x.block.pad 0#8) ++ x.block.o.flatMap slot ++ x.block.a.flatMap tile ++
    (x.latch.map Latch.bytes).getD [] ++ m.barBytes r (fun d => decide (d ≤ 1)) lo r.wavesPerBlock ++
    x.waves.flatMap (waveBytes p x.block.index (fun w k => m.phase k (r.groupOf k w.wlin)))
  let size := (4 + rest.length + 15) / 16 * 16
  padTo 16 (leBytes 4 size ++ rest)

/-- THE BYTES OF AN IMAGE as the microcode writes it (R346). -/
def State.imageBytes (s : State) (m : Image) : List Byte :=
  match s.launch? m.gang.launch with
  | none => []
  | some l =>
  let p := l.progOf m.gang.tmpl
  let n := p.lrec.wavesIn p.lrec.gangLevel
  let body := m.blocks.flatMap (s.sectionBytes m p) ++ m.barBytes p.lrec (fun d => decide (2 ≤ d)) (m.gang.index * n) n
  let size := (64 + body.length + 63) / 64 * 64
  padTo 64 (leBytes 4 2 ++ leBytes 4 m.blocks.length ++ leBytes 8 size ++ leBytes 8 (s.vfDword l.vf 32 + 32 * m.gang.taskRec) ++ leBytes 8 m.tsave ++
    leBytes 4 ((if m.hard then 1 else 0) + (if m.halt then 2 else 0) + (if m.lined then 4 else 0)) ++ leBytes 28 0 ++ body)

/-- Whether the FORMAT or the SIZE of an image is wrong (R349): `edits` holds the bytes that differ from those written. -/
def Image.wrong (m : Image) : Bool := m.edits.any (fun e => decide (e.1 < 4) || (decide (8 ≤ e.1) && decide (e.1 < 16)))

/-- A word of a saved gang's image as the monitor reads it, to copy it or to see a halted state (R344, R349). -/
def State.imageWord (s : State) (gang off : Nat) : Word :=
  match look s.images gang with
  | none => 0
  | some m => BitVec.ofNat 32 (leNat ((List.range 4).map (fun i => (look m.edits (off + i)).getD ((s.imageBytes m).getD (off + i) 0))))

/-- A word of a saved gang's image written by the monitor (R344, R349): HALT is what its bit says; any other byte is noted where it differs. -/
def State.editImage (s : State) (gang off : Nat) (v : Word) : State :=
  match look s.images gang with
  | none => s
  | some m =>
    let m1 : Image := if off = 32 then { m with halt := v.getLsbD 1 } else m
    let old := ((s.imageBytes m1).drop off).take 4
    let new := leBytes 4 v.toNat
    let edits := (List.range old.length).foldl (fun e i =>
      if old.getD i 0 = new.getD i 0 then eraseAt e (off + i) else insertAt e (off + i) (new.getD i 0)) m1.edits
    { s with images := insertAt s.images gang { m1 with edits := edits } }

/-- A thread, and a wave, that come from an image changed otherwise hold anything (R349). -/
def Thread.anything (s : State) (n : Nat) (t : Thread) : Thread :=
  let f := fun (k : Nat) => s.freeWord (2 ^ 46 + n * 2 ^ 17 + t.lane * 2048 + k)
  let va := fun (k : Nat) => clearBit0 (f k ++ f (k + 1))
  { t with
    pc := va 200, p := (f 202).setWidth 8, uepc := va 203, ucause := f 205, iflags := f 206, fflags := f 207
    live := t.live && (f 208).getLsbD 0, handler := (f 208).getLsbD 1, hsilent := (f 208).getLsbD 2
    loops := (List.range ((f 209).toNat % 4)).map (fun i => ⟨i, va (210 + 6 * i), va (212 + 6 * i), va (214 + 6 * i)⟩)
    suspended := []
    regions := (List.range ((f 228).toNat % 9)).map (fun i => ⟨(f (1000 + 5 * i)).toNat % 8, va (1001 + 5 * i), va (1003 + 5 * i)⟩)
    arrived := ((List.range 8).filter (fun k => (f 229).getLsbD k)).map (fun k => (k, (f (230 + k)).toNat))
    wait := .no
    g := (List.range 128).foldl (fun m r => setD m 0 r (f r)) t.g
    lc := (List.range 3).foldl (fun m r => setD m 0 r (f (128 + r))) t.lc }
def Wave.anything (s : State) (n : Nat) (w : Wave) : Wave :=
  let f := fun (k : Nat) => s.freeWord (2 ^ 46 + n * 2 ^ 17 + 2 ^ 16 + k)
  { w with
    regs := { w.regs with
      s := (List.range 63).foldl (fun m r => setD m 0 r (f r)) w.regs.s
      utvec := clearBit0 (f 64 ++ f 65)
      itrap := f 66
      ftrap := f 67
      frnd := f 68
      f8fmt := f 69
      tailrule := f 70
      x := ⟨f 71, f 72, f 73, f 74, f 75 ++ f 76, f 77, f 78⟩
      silent := ⟨f 79, f 80, f 81, f 82, f 83⟩
      seamE := (List.range 8).foldl (fun m j => setD m 0 j (f (84 + j))) w.regs.seamE
      seamW := (List.range 8).foldl (fun m j => setD m 0 j (f (92 + j))) w.regs.seamW }
    lanes := w.lanes.map (Thread.anything s n) }
/-- The latched state of a block that comes from such an image. -/
def Latch.anything (s : State) (n : Nat) (l : Latch) : Latch :=
  { l with
    scol := (List.range 192).map (fun j => s.freeWord (2 ^ 48 + n * 2 ^ 24 + j))
    codes := (List.range l.n).flatMap (fun j => (List.range l.k).map (fun i => (2 ^ 16 * j + i, (s.freeWord (2 ^ 48 + n * 2 ^ 24 + 256 * (j + 1) + i)).setWidth 16))) }
/-- A tile of it: labels, the untrusted mark, elements. -/
def Tile.anything (s : State) (t : Tile) (id : Nat) : Tile :=
  let f := fun (k : Nat) => (s.freeWord (2 ^ 49 + 2 ^ 20 * id + k)).toNat
  { t with labels := (List.range (f 0 % (t.p + t.spillN + 1))).map (fun i => f (2 + i) % 2 ^ 16), untrusted := f 1 % 2 == 1, zeroed := [], rows := [] }
/-- An image as a resumption finds it: after another change than R344 permits, everything that it holds is undefined (R349, spec/00 R9). -/
def Image.found (s : State) (m : Image) : Image :=
  if m.edits.isEmpty then m
  else { m with
    phases := m.phases.map (fun b => { b with phase := (s.freeWord (2 ^ 47 + b.level * 2 ^ 32 + b.group)).toNat })
    blocks := m.blocks.map (fun x => { x with
      block := { x.block with pad := (List.range x.block.padSize).foldl (fun d i => setD d 0#8 i (Config.freeByte s.free (2 ^ 43 + x.block.index * 2 ^ 20 + i))) x.block.pad }
      slots := x.slots.map (fun k => (k.1, { k.2 with data := [] }))
      tiles := x.tiles.map (fun k => (k.1, k.2.anything s k.1))
      latch := x.latch.map (Latch.anything s x.block.index)
      waves := x.waves.map (fun w => w.anything s (x.block.index * 32 + w.wave)) }) }

end Sys2Proof.Machine
end

