-- ==== Sys2Proof/Machine/Preempt.lean ====
section
/-! DEFINITION. Pre-emption, context images and resumption (spec/23), the answers to fault records (spec/15 R281, spec/22 R333). -/

namespace Sys2Proof.Machine

/-! ## Stopping -/

/-- Whether a live thread stands where a save may find it (spec/12 R248, R250): parked, stopped, asleep, or at a wait that is not over; or anywhere,
once all of its gang has stopped (R343). -/
def State.rests (s : State) (w : Wave) (t : Thread) : Bool :=
  t.acc.isEmpty && !t.endChk &&
  (((s.gangOf w.blk).map (fun g => g.still)).getD false || match t.wait with
   | .notch => true
   | .stopped => true
   | .sleep _ _ parked => !parked
   | .cross _ _ _ _ _ => true
   | .seam _ _ _ => true
   | .barrier _ _ => true
   | .tryAt _ _ _ => true
   | .endtry _ => true
   | .tend _ => true
   | .bobj _ => !s.waitOver w t
   | .epush _ => !s.waitOver w t
   | .claim => !s.waitOver w t
   | .aclaim _ => !s.waitOver w t
   | .thimble _ => !s.waitOver w t
   | _ => false)
/-- Whether every live thread of a gang rests. -/
def State.gangRests (s : State) (g : Nat) : Bool :=
  (s.waves.filter (s.inGang g)).all (fun w => w.lanes.all (fun t => !t.live || s.rests w t))

/-- A gang whose last thread has parked or stopped: none of it issues until it resumes (R343). -/
def State.settleStops (s : State) : State :=
  { s with gangs := s.gangs.map (fun p =>
      if p.2.stop ∧ !p.2.still ∧ !p.2.rolling ∧ s.gangRests p.1 then (p.1, { p.2 with still := true }) else p) }

/-- PREEMPT_REQUEST (R341). -/
def execPreemptRequest (gs : List Nat) (s : State) : Res := done (s.preempt gs)

/-- A running thread hard-stopped (R342): what it was about to issue has not issued, and what it has issued is waited for. One that throws goes on to its region
(R343). -/
def Thread.hardStop (s : State) (w : Wave) (t : Thread) : Thread :=
  if !t.live || s.rests w t || t.due.isSome then t
  else
    match t.wait with
    | .thrown _ => t
    | _ => { t.endCheck with wait := .stopped, marks := if t.outstanding || !t.acc.isEmpty then t.marks else [] }

/-- PREEMPT_HARD_STOP (R342): 200 µs after the request. The record of a thread that a fault holds is withdrawn. -/
def execPreemptHardStop (gang : Nat) (s : State) : Res :=
  done (match s.gang? gang with
    | none => s
    | some g =>
      if !g.stop || decide (s.clock.wall < g.stopAt + 200000) then s
      else
        let s1 := ((s.dropMismatches (s.inGang gang)).drainWaves (s.inGang gang)).dropFaults (s.inGang gang)
        let hit := (s1.waves.filter (s1.inGang gang)).any (fun w => w.lanes.any (fun t =>
          t.wait != .stopped && (Thread.hardStop s1 w t).wait == .stopped))
        { s1.onGang gang (fun k => { k with hard := k.hard || hit }) with waves := s1.waves.map (fun w =>
            if s1.inGang gang w then { w with lanes := w.lanes.map (fun t => Thread.hardStop s1 w t) } else w) })

/-! ## Saving -/

/-- The registers a notch's mask does not name hold anything after resumption (spec/12 R249). -/
def Thread.masked (s : State) (slot : Nat) (n : Notch) (t : Thread) : Thread :=
  let f := fun (k : Nat) => s.freeWord (2 ^ 34 + (slot * 32 + t.lane) * 256 + k)
  { t with
    g := (List.range 128).foldl (fun m r => if n.gmask.testBit r then m else setD m 0 r (f r)) t.g
    p := (List.range 7).foldl (fun p r => if n.pmask.testBit r then p else setBit p r ((f 128).getLsbD r)) t.p
    lc := (List.range 3).foldl (fun m r => if n.lcmask.testBit r then m else setD m 0 r (f (129 + r))) t.lc }

/-- A thread as an image holds it (R346 to R348, R350): where it waits at a seam or a barrier it will wait again, else it issues what it
stands before, parked at its notch, hard-stopped, or at its wait. A throw that a copy brought it once its gang was at rest is still due (log entry 73). -/
def State.savedThread (s : State) (w : Wave) (t : Thread) : Thread :=
  if !t.live then t
  else
    let t1 := match t.wait, s.atNotch w t with
      | .notch, some n => Thread.masked s w.slot n t
      | _, _ => t
    let t2 : Thread := { t1 with marks := [], acc := [], age := 0 }
    match t.wait with
    | .seam _ _ _ => t2
    | .barrier _ _ => t2
    | .notch => t2
    | .stopped => t2
    | _ => { t2 with wait := .no }

/-- A wave as an image holds it: no core, no wave slot (R345). -/
def State.savedWave (s : State) (w : Wave) : Wave :=
  { w with core := 0, slot := 0, active := false, pendSince := 0, owed := false, regs := { w.regs with old := [] }, lining := none, lanes := w.lanes.map (s.savedThread w) }

/-- A block as an image holds it: no core and no aperture (R345). -/
def Block.saved (b : Block) : Block := { b with core := 0, sbase := 0, queues := List.replicate 5 [], away := none }
/-- What a block section holds (R347). -/
def State.savedBlock (s : State) (b : Block) : SavedBlock :=
  let k := s.core b.core
  let q := s.queueOf b.core b.id
  let ws := s.waves.filter (fun w => w.blk == b.id)
  { block := b.saved, waves := ws.map s.savedWave, slots := k.slots.filter (fun p => p.2.blk == b.id), tiles := k.tiles.filter (fun p => p.2.blk == b.id),
    latch := match look q.kept b.id with
      | some l => some l
      | none => if q.lastBlk = some b.id then some (q.resetDue.getD q.latch) else none,
    holder := (ws.find? (fun w => q.holder == some w.slot)).map (fun w => w.wave) }

/-- The barrier instances of the groups of a gang's waves, of a level of the tenant domain too. -/
def barsOf (g : Gang) (r : LaunchRec) (b : BarInst) : Bool :=
  let n := r.wavesIn r.gangLevel
  b.launch == g.space.1 && b.gang == g.space.2 && (List.range n).any (fun i => r.groupOf b.level (g.index * n + i) == b.group)
/-- Those of the levels up to the gang's own, which are its alone. -/
def gangBars (g : Gang) (r : LaunchRec) (b : BarInst) : Bool :=
  let n := r.wavesIn r.gangLevel
  b.launch == g.space.1 && b.gang == g.space.2 && decide (b.level ≤ r.gangLevel) && b.group * r.wavesIn b.level / max 1 n == g.index

/-- What blocks of a gang hold on their cores freed (R341 step 6): waves, slots, tiles, the thimble and what the array keeps for them. -/
def State.freeUnits (s : State) (g : Nat) (p : Block → Bool) : State :=
  let bs := (s.blocksOf g).filter p
  let mine := fun (blk : Nat) => bs.any (fun b => b.id == blk)
  let cs := (bs.map (fun b => b.core)).eraseDups
  let drop := fun (c : Nat) (q : MatQueue) =>
    { q with
      holder := q.holder.filter (fun h => !((s.wave? c h).map (fun w => mine w.blk)).getD false)
      kept := q.kept.filter (fun x => !mine x.1)
      lastBlk := q.lastBlk.filter (fun b => !mine b) }
  let s1 := cs.foldl (fun t c => t.onCore c (fun k => { k with
    slots := k.slots.filter (fun p => !mine p.2.blk), tiles := k.tiles.filter (fun p => !mine p.2.blk), mq := drop c k.mq, mq0 := drop c k.mq0 })) s
  { s1 with waves := s1.waves.filter (fun w => !mine w.blk) }
/-- The same, with the blocks themselves. -/
def State.freeGang (s : State) (g : Nat) (p : Block → Bool) : State :=
  let s1 := s.freeUnits g p
  { s1 with blocks := s1.blocks.filter (fun b => !(b.2.gang == g && p b.2)) }

/-- The context image of a gang with some blocks (R346), none that has ended (R343). -/
def State.image (s : State) (g : Gang) (halt : Bool) (bs : List SavedBlock) : Image :=
  let r := match s.launch? g.launch with
    | some l => (l.progOf g.tmpl).lrec
    | none => LaunchRec.zero
  { id := g.id, gang := { g with stop := false, hard := false, baste := false, still := false }, hard := g.hard, halt := halt, lined := r.lined,
    tsave := s.clock.now, blocks := bs, phases := s.bars.filter (barsOf g r), edits := [] }

/-- Whether nothing of the blocks of a gang on a core is queued, running or pending any more (R341 step 4). -/
def State.coreDrained (s : State) (g c : Nat) : Bool :=
  ((s.blocksOf g).filter (fun b => b.core == c)).all (fun b => b.queues.all List.isEmpty && (s.core c).matOps.all (fun o => o.blk != b.id)) &&
  (s.waves.filter (fun w => s.inGang g w && w.core == c)).all (fun w => w.regs.tok == 0)
/-- Whether every live thread of a gang on a core rests (R341 steps 2 and 3). -/
def State.coreRests (s : State) (g c : Nat) : Bool :=
  (s.waves.filter (fun w => s.inGang g w && w.core == c)).all (fun w => w.lanes.all (fun t => !t.live || s.rests w t))

/-! ## Resuming -/

/-- A wave's registers as a resumption leaves them: seams counted afresh (R350), a waiter whose phase has completed meanwhile released. -/
def State.rewait (s : State) (w : Wave) : Wave :=
  { w with lanes := w.lanes.map (fun t =>
      match t.wait with
      | .seam j _ k => { t with wait := .seam j (s.clockOf w.core) k }
      | .barrier k _ => t.passBarrier s k (s.phaseOf k w) ((s.waveRec w).scopeOf k)
      | .notch => { t with wait := .no }
      | .stopped => { t with wait := .no }
      | _ => t) }

/-- The slots, tiles, latched state and thimble of a block put back on its core (R350 step 1), where there is room for them and its kind of
thimble is free for a holder. NR is the latched N from then on (log entry 38). -/
def State.restoreUnits (s : State) (x : SavedBlock) (c : Nat) : Option State :=
  let blk := x.block.id
  let q := s.queueOf c blk
  let rows := (x.tiles.map (fun p => p.2.m * p.2.p)).sum
  if decide (s.slotsFor c blk < x.slots.length) || decide (s.rowsFor c blk < rows) || (x.holder.isSome && q.holder.isSome) then none
  else
    let slot := x.holder.bind (fun i => (s.waves.find? (fun w => w.blk == blk && w.wave == i)).map (fun w => w.slot))
    let s1 := s.onCore c (fun k => { k with
      slots := x.slots.foldl (fun m p => insertAt m p.1 p.2) k.slots, tiles := x.tiles.foldl (fun m p => insertAt m p.1 p.2) k.tiles })
    some (match x.latch with
      | some l =>
        s1.onCore c (fun k => k.onQueue (s.isZero blk) (fun q =>
          if slot.isSome then { q with holder := slot, lastBlk := some blk, resetDue := some l, wfmt := l.fmt, wn := l.n, kept := [] }
          else { q with kept := insertAt q.kept blk l }))
      | none => s1)

/-- One block of an image put on a core. -/
def State.restoreBlock (s : State) (l : Launch) (r : LaunchRec) (x : SavedBlock) (e : Nat) : Option State :=
  let c := e / 4
  match s.addBlock l.vf (l.prog.lrec.cls == 0) r { x.block with core := c } e x.waves false with
  | none => none
  | some s1 => (s1.restoreUnits x c).map (fun t => t.refresh c 3 true)

/-- A GANG RESUMES (R350), all of it or nothing. An entry of a place is 4 times the core plus the panel of wave 0. -/
def State.resume (s : State) (m : Image) (place : List Nat) : Option State :=
  match s.launch? m.gang.launch with
  | none => none
  | some l =>
    let r := (l.progOf m.gang.tmpl).lrec
    let cs := (place.map (fun e => e / 4)).eraseDups
    if !(s.placeOk l.vf (fun _ => true) cs && place.length == m.blocks.length) then none
    else
      let s0 : State := { s with
        gangs := insertAt s.gangs m.id m.gang
        bars := m.phases.filter (fun b => gangBars m.gang r b || !s.bars.any (fun x => x.isOf (b.launch, b.gang) b.level b.group)) ++
          s.bars.filter (fun b => !gangBars m.gang r b) }
      ((List.range m.blocks.length).foldl (fun acc i =>
        match acc, m.blocks[i]?, place[i]? with
        | some t, some x, some e => t.restoreBlock l r x e
        | _, _, _ => none) (some s0)).map (fun t =>
          ({ t with waves := t.waves.map (fun w => if t.inGang m.id w then (t.rewait w).restart else w) }).onLaunch l.id (fun y =>
            { y with used := (y.used ++ cs).eraseDups }))

/-- A place for a saved gang, as for one that starts (R350). -/
def State.resumePlace (s : State) (m : Image) : Option (List Nat) :=
  match s.launch? m.gang.launch with
  | none => none
  | some l =>
    State.searchPlace { s with gangs := insertAt s.gangs m.id m.gang } l.vf (fun _ => true) m.blocks.length s.firstWindow (fun _ _ => List.range 4) (fun t i e =>
      (m.blocks[i]?).bind (fun x => t.restoreBlock l (l.progOf m.gang.tmpl).lrec x e))

/-- Where a block runs: 4 times its core plus the panel of wave 0. -/
def State.placeOf (s : State) (b : Block) : Nat :=
  4 * b.core + ((s.waves.find? (fun w => w.blk == b.id)).map (fun w => (w.slot / 32 + 4 * 8 - w.wave) % 4)).getD 0

/-- A launch whose gangs are neither stopping nor saved is placed again (R341 step 1). -/
def State.settleHeld (s : State) : State :=
  { s with launches := s.launches.map (fun p =>
      if !p.2.held.isEmpty && !s.gangs.any (fun g => g.2.launch == p.1 && g.2.stop) && !s.images.any (fun m => m.2.gang.launch == p.1) then
        (p.1, { p.2 with held := [] })
      else p) }

/-- Steps 5 and 6 of R341 on one core of a gang: its view is published at .tenant, the sections of its blocks are written, and what they held there is freed, but
for the scratchpads, which the rest of the gang still reaches (spec/01 R29; log entry 78). -/
def State.saveCore (s : State) (g : Gang) (halt : Bool) (c : Nat) : State :=
  let mine := fun (b : Block) => b.core == c && !b.ended
  let s1 := s.publish c g.id 3 true
  let bs := ((s1.blocksOf g.id).filter mine).map s1.savedBlock
  let m := (look s1.images g.id).getD (s1.image g halt [])
  let s2 := s1.freeUnits g.id mine
  { s2 with
    images := insertAt s2.images g.id { m with blocks := m.blocks ++ bs }
    blocks := s2.blocks.map (fun b => if b.2.gang == g.id && mine b.2 then (b.1, { b.2 with core := 192, away := some (s1.placeOf b.2) }) else b) }
/-- Whether a block of a gang has still to be saved, or something that an ended one has queued to complete. -/
def State.saveLeft (s : State) (g : Nat) : Bool :=
  (s.blocksOf g).any (fun b => (!b.ended && b.away.isNone) || !b.queues.all List.isEmpty || (s.core b.core).matOps.any (fun o => o.blk == b.id))
/-- The image of a gang whose every core is saved is complete (R341 step 6): the gang and its blocks are gone, but for the scratchpads of blocks that have ended. A
basting checkpoint resumes in place at once, its image the restart point of a new interval (spec/27 R393). -/
def State.finishSave (s0 : State) (g : Gang) (halt : Bool) : State :=
  let s := ((((s0.blocksOf g.id).filter (fun b => b.ended)).map (fun b => b.core)).eraseDups).foldl (fun t c => t.publish c g.id 3 true) s0
  let bs := (s.blocksOf g.id).filter (fun b => !b.ended)
  let parts := ((look s.images g.id).map (fun m => m.blocks)).getD []
  let m := s.image ((s.gang? g.id).getD g) halt (bs.filterMap (fun b => (parts.find? (fun x => x.block.id == b.id)).map (fun x => { x with block := b.saved })))
  let s1 : State := { s with
    gangs := eraseAt s.gangs g.id, images := eraseAt s.images g.id, blocks := s.blocks.filter (fun b => b.2.gang != g.id || b.2.ended) }
  let saved : State := { s1 with images := insertAt s1.images g.id m }
  if g.baste && !halt then
    match s1.resume m (bs.map (fun b => b.away.getD 0)) with
    | some t => State.openInterval { t with restarts := insertAt t.restarts g.id m } g.id true
    | none => saved
  else saved

/-- CONTEXT_SAVE (R341 steps 4 to 6): each core of the gang on which every thread rests, what the gang queued has completed and its accesses are performed is saved, by
itself; with the last one the image is complete. -/
def execContextSave (gang : Nat) (s : State) : Res :=
  done (match s.gang? gang with
    | none => s
    | some g =>
      if !g.stop || g.rolling || (s.blocksOf gang).all (fun b => b.ended) then s
      else
        let s1 := (s.dropMismatches (s.inGang gang)).drainWaves (s.inGang gang)
        let halt := ((s1.launch? g.launch).map (fun l => l.halted)).getD false
        let cs := (((s1.blocksOf gang).filter (fun b => !b.ended && b.away.isNone)).map (fun b => b.core)).eraseDups
        let s2 := (cs.filter (fun c => s1.coreRests gang c && s1.coreDrained gang c)).foldl (fun t c => t.saveCore ((t.gang? gang).getD g) halt c) s1
        if s2.saveLeft gang then s2 else s2.finishSave ((s2.gang? gang).getD g) halt)

/-- The XPC of an abort that no instruction's throw is behind: the spec gives none (log entry 30). -/
def State.freeXpc (s : State) : Dword := s.freeWord 6950000 ++ s.freeWord 6950001

/-- Images resumed one after another, all or none. -/
def State.resumeAll (s : State) : List Image → List Nat → Option State
  | [], _ => some s
  | m :: rest, place =>
    match State.resume { s with images := eraseAt s.images m.id } m (place.take m.blocks.length) with
    | some t => t.resumeAll rest (place.drop m.blocks.length)
    | none => none

/-- GANG_RESUME (R350): a saved gang, or, with co-residency, every saved gang of its launch together once none is still stopping (spec/21
R305); none whose image holds HALT. An image whose FORMAT or SIZE is wrong aborts the launch (R349). -/
def execGangResume (gang : Nat) (place : List Nat) (s : State) : Res :=
  done (match look s.images gang with
    | none => s
    | some m =>
      match s.launch? m.gang.launch with
      | none => s
      | some l =>
        let ms := if l.prog.lrec.cores then (s.images.map (fun p => p.2)).filter (fun x => x.gang.launch == l.id) else [m]
        let ready := ms.all (fun x => !x.halt && (s.gang? x.id).isNone) && l.aborting.isNone &&
          (!(l.prog.lrec.cores || l.halted) || !s.gangs.any (fun g => g.2.launch == l.id && g.2.stop))
        if !ready then s
        else if ms.any Image.wrong then s.abortLaunch l.id 6 0x101#32 s.freeXpc
        else
          match s.resumeAll (ms.map (Image.found s)) place with
          | none => s
          | some t => (t.onLaunch l.id (fun x => { x with
              halted := x.halted && t.images.any (fun p => p.2.gang.launch == l.id && p.2.halt) })).settleHeld)

/-- HALT_RESUME (R344): the monitor clears HALT in every image of the launch. -/
def execHaltResume (l : Nat) (s : State) : Res :=
  let s1 : State := { s with
    images := s.images.map (fun p => if p.2.gang.launch = l then (p.1, { p.2 with halt := false }) else p) }
  done (s1.onLaunch l (fun x => { x with halted := false }))

/-- HALT_ABORT (R344). -/
def execHaltAbort (l : Nat) (s : State) : Res :=
  done (match s.launch? l with
    | some x =>
      if x.halted || s.images.any (fun p => p.2.gang.launch == l && p.2.halt) then s.abortLaunch l 6 0x104#32 s.freeXpc else s
    | none => s)

/-! ## Fault records -/

/-- The first fault of a core that satisfies a test changed or removed. -/
def changeFirst (p : FaultStop → Bool) (f : FaultStop → Option FaultStop) : List FaultStop → List FaultStop
  | [] => []
  | x :: rest => if p x then (match f x with
      | some y => y :: rest
      | none => rest) else x :: changeFirst p f rest

/-- Records written so far to a function's ring. -/
def State.faultHead (s : State) (vf : Nat) : Nat := getD s.mon.faultHead 0 vf
/-- Whether the next slot of a function's fault ring is not free: the monitor has not answered the record in it (spec/22 R333; log entry 31). -/
def State.ringFull (s : State) (vf : Nat) : Bool :=
  let cap := s.vfWord vf 88
  cap == 0 || s.mon.faultOpen.any (fun f => f.vf == vf && f.record % cap == s.faultHead vf % cap)
/-- A slot freed: its record is answered. -/
def State.freeSlot (s : State) (vf record : Nat) : State :=
  { s with mon := { s.mon with faultOpen := s.mon.faultOpen.filter (fun f => f.vf != vf || f.record != record) } }

/-- A fault record of 32 bytes in the next slot of the function's ring (spec/22 R333). -/
def State.faultRecord (s : State) (vf va kind unit level : Nat) : State :=
  let n := s.faultHead vf
  let bs := leBytes 8 va ++ leBytes 4 kind ++ leBytes 4 unit ++ leBytes 8 s.clock.now ++ leBytes 1 level ++ leBytes 7 0
  let s1 := s.homeWriteBytes none (s.vfDword vf 80 + 32 * (n % max 1 (s.vfWord vf 88))) bs
  { s1 with mon := { s1.mon with faultHead := setD s1.mon.faultHead 0 vf (n + 1), faultOpen := s1.mon.faultOpen ++ [⟨vf, n, unit % 2 ^ 16⟩] } }

/-- CORE_FAULT_STOP (spec/15 R281, spec/22 R333): the record of a core's first fault that has none is written, where its ring has a slot. -/
def execCoreFaultStop (c : Nat) (s : State) : Res :=
  done (match (s.core c).faults.find? (fun f => !f.recorded) with
    | none => s
    | some f =>
      if s.ringFull f.vf then s
      else
        let unit := c + (if f.write then 2 ^ 16 else 0) + (if f.fetch then 2 ^ 17 else 0) + (if f.copy.isSome then 2 ^ 18 else 0)
        (s.faultRecord f.vf f.va.toNat f.kind unit f.level).onCore c (fun k => { k with
          faults := changeFirst (fun x => !x.recorded) (fun x => some { x with recorded := true, record := s.faultHead f.vf }) k.faults }))

/-- What a fault holds, let go with its threads changed: the lane of an access, every lane of a fetch. -/
def State.unfault (s : State) (f : FaultStop) (g : Wave → Thread → Thread) : State :=
  s.onWave f.who.core f.who.slot (fun w => { w with lanes := w.lanes.map (fun t =>
    if t.wait = .fault ∧ (t.lane = f.who.lane ∨ (f.fetch = true ∧ t.pc = f.who.pc)) then g w { t with wait := .no } else t) })

/-- The first recorded fault of a unit answered: its slot is free (spec/22 R333). A record that holds nothing any more, a port's, or one whose launch has
aborted, only frees its slot. -/
def State.answered (s : State) (c : Nat) (k : State → FaultStop → State) : State :=
  match (s.core c).faults.find? (fun f => f.recorded) with
  | none =>
    match s.mon.faultOpen.find? (fun f => f.unit == c) with
    | some f => s.freeSlot f.vf f.record
    | none => s
  | some f => k ((s.freeSlot f.vf f.record).onCore c (fun x => { x with faults := changeFirst (fun y => y.recorded) (fun _ => none) x.faults })) f

/-- FAULT_RESUME (spec/22 R333): the access is performed again, its instruction issuing anew. -/
def execFaultResume (c : Nat) (s : State) : Res :=
  done (s.answered c (fun t f => if f.copy.isSome then t else t.unfault f (fun _ x => x)))

/-- FAULT_REFUSE (spec/15 R281, spec/22 R333): a table fault ends the launch; another is a FAULT user trap of the lane at its access, or
cancels its copy. -/
def execFaultRefuse (c : Nat) (s : State) : Res :=
  done (s.answered c (fun (t : State) (f : FaultStop) =>
    if f.kind = 3 then
      let blk := match f.copy with
        | some n => ((t.copiesOn c).find? (fun (o : CopyOp) => o.id == n)).map (fun (o : CopyOp) => o.blk)
        | none => (t.wave? f.who.core f.who.slot).map (fun (w : Wave) => w.blk)
      match blk.bind t.gangOf with
      | some g => t.abortLaunch g.launch 6 0x100#32 t.freeXpc
      | none => t
    else
      match f.copy with
      | some n =>
        match (t.copiesOn c).find? (fun (o : CopyOp) => o.id == n) with
        | some o => t.failCopy o 6 0
        | none => t
      | none =>
        let t1 := t.unfault f (fun w x => (Thread.trap t w.regs x cFAULT x.pc).issuedIn f.step)
        let t2 := t1.onWave f.who.core f.who.slot (fun w => { w with regs := { w.regs with tailrule := 0 } })
        match t.wave? f.who.core f.who.slot with
        | some w => t2.flushFor w.core w.blk
        | none => t2))

end Sys2Proof.Machine
end

