-- ==== Sys2Proof/Machine/Reliab.lean ====
section
/-! DEFINITION. Basting and rollback (spec/27 R393 to R396), correctable errors, lasting units, spare K-rows (R398 to R400), the gang
watchdog (R401). -/

namespace Sys2Proof.Machine

/-! ## Rollback -/

/-- The virtual function of a gang. -/
def State.gangVf (s : State) (g : Gang) : Nat := ((s.launch? g.launch).map (fun l => l.vf)).getD 0xFF

/-- The rollback of a gang begins (R394). -/
def State.roll (s : State) (g : Nat) : State := s.onGang g (fun k => { k with rolling := true })

/-- Gangs that have consumed a poisoned line: the event is recorded, and their rollback begins (R394, R398). -/
def State.settleHits (s : State) : State :=
  (s.gangs.filter (fun p => p.2.hit.isSome && !p.2.rolling)).foldl (fun t p =>
    (t.healthEvent 2 (t.gangVf p.2) t.anyUnit (p.2.hit.getD 0) 0).roll p.1) s

/-- Step 1 of R395: the gang stops as in step 1 of R211, its copies are cancelled, its windows flushed. -/
def State.rollStop (s : State) (g : Nat) : State :=
  let p := s.inGang g
  let s1 := ((s.dropFaults p).stopWaves p).cancelCopies (fun o => s.gangId o.blk == g)
  let s2 := ((s1.dropMismatches p).drainWaves p).stopWaves p
  (s.blocksOf g).foldl (fun t b => t.flushFor b.core b.id) s2
/-- Whether it has stopped, and its matrix operations have run to completion. -/
def State.rollQuiet (s : State) (g : Nat) : Bool :=
  s.quiet (s.inGang g) && (s.blocksOf g).all (fun b => (s.core b.core).matOps.all (fun o => o.blk != b.id))

/-- The lines of a log. -/
def logLines (log : List (Nat × Placed)) : List Nat := (log.map (fun p => p.1 / 64 * 64)).eraseDups
/-- Whether another context has written a line since the context did: a byte of it has another place in its order than the log says. -/
def State.lineForeign (s : State) (log : List (Nat × Placed)) (line : Nat) : Bool :=
  log.any (fun p => p.1 / 64 * 64 == line && p.2.stamp != getD s.stamps 0 p.1)
/-- The old bytes of a line in a log. -/
def logBytes (log : List (Nat × Placed)) (line : Nat) : List Byte :=
  (List.range 64).map (fun i => ((look log (line + i)).map (fun p => p.val)).getD 0#8)

/-- Step 3 of R395: each logged line is put back where no other context has written it; how many were not. -/
def State.restoreLines (s : State) (log : List (Nat × Placed)) : State × Nat :=
  let ls := logLines log
  ((ls.filter (fun l => !s.lineForeign log l)).foldl (fun t l => t.homeWriteBytes none l (logBytes log l)) s,
   (ls.filter (s.lineForeign log)).length)

/-- Whether some context has a line in the log of its open interval (R395). -/
def State.lineLogged (s : State) (line : Nat) : Bool :=
  s.gangs.any (fun p => (logLines p.2.log).elem line) || s.images.any (fun p => (logLines p.2.gang.log).elem line)

/-- Steps 2, 3 and 5 of R395, with the ends of R395 where there is no relaunch: a poisoned line that no context wrote in the interval, and
the third relaunch in one interval. What the gang wrote and its cores still hold is gone; its instance aborts (R396). -/
def State.rollScrub (s : State) (g : Nat) : State :=
  match s.gang? g with
  | none => s
  | some k =>
    match s.launch? k.launch with
    | none => s
    | some l =>
      let r := (l.progOf k.tmpl).lrec
      let fatal := (k.hit.map (fun x => !s.lineLogged x)).getD false
      let s1 := s.taskState k 4
      let s2 := if k.tmpl = 0 ∧ (l.coll.map (fun c => c.role)) = some 1 then s1.abortOwn l 5 else s1
      let s3 := ((s2.waves.filter (s2.inGang g)).foldl (fun t w => t.dropTokens w.core w.slot) s2).freeGang g (fun _ => true)
      let s4 : State := { s3 with
        bars := s3.bars.filter (fun b => !gangBars k r b)
        cores := s3.cores.map (fun p => (p.1, { p.2 with writes := p.2.writes.filter (fun w => w.2.gang != g) })) }
      let (s5, n) := State.restoreLines { s4 with images := eraseAt s4.images g } k.log
      let s6 := s5.onGang g (fun x => { x with
        overlay := [], log := [], tries := x.tries + 1, total := x.total + 1, stop := false, hard := false, baste := false, still := false, hit := none })
      let s7 := s6.healthRecord 7 l.vf s6.anyUnit 0 n
      if fatal then s7.abortLaunch l.id 6 0x102#32 s7.freeXpc
      else if 3 ≤ k.tries + 1 then s7.abortLaunch l.id 6 0x103#32 s7.freeXpc
      else s7

/-- Step 4 of R395: the relaunch, once the launch may be placed and there is room: at the image of a basting checkpoint, or at the kernel
entry with the task's arguments (spec/21 R310). -/
def State.relaunch (s : State) (g : Nat) : State :=
  match s.gang? g with
  | none => s
  | some k =>
    match s.launch? k.launch with
    | none => s
    | some l =>
      if !l.open_ then s
      else
        match if k.restart then (look s.restarts g).bind s.resumePlace else s.findPlace l k.tmpl (if k.tmpl = 0 ∨ k.edge.isSome then none else some k.part) with
        | none => s
        | some place =>
          let p := l.progOf k.tmpl
          let k1 : Gang := { k with rolling := false, openedAt := s.clock.wall, openStamp := s.stamp, reported := false }
          let new := if k.restart then (look s.restarts g).bind (fun m => s.resume { m with gang := k1 } place)
            else
              (State.addBlocks { s with gangs := insertAt s.gangs g k1 } l p g k.index k.args place).map (fun t =>
                ((t.blocksOf g).foldl (fun u b =>
                  u.blockReady l k.tmpl p.lrec b ((k.index * p.lrec.blocksPerGang + b.index) * p.lrec.wavesPerBlock)) t).onLaunch l.id (fun y =>
                    { y with used := (y.used ++ place.map (fun e => e / 4)).eraseDups }))
          match new with
          | none => s
          | some t => (t.taskState k1 2).devPut l.vf (t.vfDword l.vf 32 + 32 * k.taskRec + 14) 2 (k.total % 2 ^ 16)

/-- One gang's rollback, as far as it can go (R395). -/
def State.rollOn (s : State) (g : Nat) : State :=
  if (s.blocksOf g).isEmpty then s.relaunch g
  else
    let s1 := s.rollStop g
    if s1.rollQuiet g then s1.rollScrub g else s1
/-- Every rollback in progress. -/
def State.settleRolls (s : State) : State :=
  ((s.gangs.filter (fun p => p.2.rolling)).map (fun p => p.1)).foldl State.rollOn s

/-! ## Its causes -/

/-- BASTING_INTERVAL_TIMEOUT (R393): a basting checkpoint begins 2 ms after the interval opened, with step 1 of R341. -/
def execBastingIntervalTimeout (gang : Nat) (s : State) : Res :=
  done (match s.gang? gang with
    | none => s
    | some g =>
      if g.stop || g.rolling || decide (s.clock.wall < g.openedAt + 2000000) then s
      else ((s.hold (fun k => k.id == gang)).onGang gang (fun k => { k with baste := true })).requestStop (fun k => k.id == gang))

/-- UNCORRECTABLE_ERROR (R394, R395): the gang consumes it; a line of device memory reads poisoned until it is written. -/
def execUncorrectableError (gang unit pa : Nat) (s : State) : Res :=
  done (match s.gang? gang with
    | none => s
    | some g =>
      let line := pa / 64 * 64
      let bad := isDevice pa && (unit / 2 ^ 28 == 5 || unit / 2 ^ 28 == 6)
      let s1 : State := if bad then { s with poisoned := insertAt s.poisoned line true } else s
      ((s1.healthEvent 2 (s.gangVf g) unit line 0).onGang gang (fun k => { k with hit := if bad then some line else k.hit })).roll gang)

/-- ROLLBACK_REQUEST (R394): of a running context, or of a saved one, which is scrubbed already. -/
def execRollbackRequest (gang : Nat) (s : State) : Res :=
  done (match s.gang? gang with
    | some _ => s.roll gang
    | none =>
      match look s.images gang with
      | none => s
      | some m =>
        let s1 : State := { s with images := eraseAt s.images gang, gangs := insertAt s.gangs gang { m.gang with rolling := true } }
        s1.rollScrub gang)

/-! ## Correctable errors and lasting units -/

/-- CORRECTABLE_ERROR (R398, R399). -/
def execCorrectableError (unit pa fn : Nat) (s : State) : Res := done (s.healthEvent 1 fn unit (pa / 64 * 64) 0)

/-- ARRAY_ROW_TEST (R399): at an MMA boundary, the failing logical rows of a lasting array become lasting in its place. -/
def execArrayRowTest (c : Nat) (bad : List Nat) (s : State) : Res :=
  done (if (s.core c).array.isSome || !(s.core c).rowsDue.elem 0xFF then s
    else
      let s1 := s.onCore c (fun k => { k with rowsDue := k.rowsDue.filter (fun r => r != 0xFF) })
      (bad.filter (fun r => decide (r < 128))).foldl (fun t r =>
        let u := unitOf 1 c r
        if t.mon.lasting.elem u then t else (t.lastingUnit u).healthRecord 5 0xFF u 0 0) s1)

/-- KROW_RETIRE (R400): at an MMA boundary a spare takes the place of a lasting row; with none left the core goes down, and its gangs are
pre-empted. -/
def execKrowRetire (c row : Nat) (s : State) : Res :=
  done (if !(s.reg 1 0 0x10000).getLsbD 1 || (s.core c).array.isSome || row = 0xFF || !(s.core c).rowsDue.elem row then s
    else
      let s1 := s.onCore c (fun k => { k with rowsDue := k.rowsDue.filter (fun r => r != row) })
      let v := s1.reg 1 0 (arrayOff c)
      if v.toNat % 16 = 0 then (s1.setReg 1 0 (arrayOff c) (v ||| 0x10000#32)).preempt (s1.gangsOn c)
      else (s1.setReg 1 0 (arrayOff c) (v - 1 + 0x100)).healthRecord 6 0xFF (unitOf 1 c row) 0 0)

/-! ## The gang watchdog -/

/-- The peers whose hold pauses the watchdog of a gang: those of its communicators, and those it has requests outstanding with (R401). -/
def State.gangPeers (s : State) (g : Gang) : List Nat :=
  let comm := (s.launch? g.launch).bind (fun l => l.coll.bind (fun c => s.commAt l.vf c.cdesc))
  ((comm.map (fun p => p.2.peers)).getD []) ++
    (s.requests.filter (fun q => q.region == 2 && ((s.wave? q.who.core q.who.slot).map (s.inGang g.id)).getD false)).map (fun q => q.peer)
/-- Whether the watchdog's count of a gang pauses (R401). -/
def State.watchPaused (s : State) (g : Gang) : Bool :=
  (s.gangPeers g).any (fun p => s.peerState p == 2) || ((s.launch? g.launch).map (fun l => l.halted)).getD false

/-- GANG_WATCHDOG (R401): a gang none of whose live threads has issued for GWDOG ms is reported, once per stall. -/
def execGangWatchdog (gang : Nat) (s : State) : Res :=
  done (match s.gang? gang with
    | none => s
    | some g =>
      let limit := (s.reg 1 0 0x1000C).toNat * 1000000
      let ts := (s.waves.filter (s.inGang gang)).flatMap (fun w => w.lanes.filter (fun t => t.live))
      if limit = 0 || g.reported || ts.isEmpty || s.watchPaused g || ts.any (fun t => decide (s.clock.wall < t.lastIssue + limit)) then s
      else (s.healthRecord 8 (s.gangVf g) s.anyUnit 0 0).onGang gang (fun k => { k with reported := true }))

end Sys2Proof.Machine
end

