-- ==== Sys2Proof/Machine/Sha.lean ====
section
/-! DEFINITION. SHA-512 and the RSASSA-PSS signatures of the boot chain (spec/22 R339), as FIPS 180-4 and RFC 8017 give them. -/

namespace Sys2Proof.Machine

/-! ## SHA-512 -/

/-- The round constants, in pieces of sixteen. -/
def shaK : List Nat :=
  [0x428A2F98D728AE22, 0x7137449123EF65CD, 0xB5C0FBCFEC4D3B2F, 0xE9B5DBA58189DBBC,
   0x3956C25BF348B538, 0x59F111F1B605D019, 0x923F82A4AF194F9B, 0xAB1C5ED5DA6D8118,
   0xD807AA98A3030242, 0x12835B0145706FBE, 0x243185BE4EE4B28C, 0x550C7DC3D5FFB4E2,
   0x72BE5D74F27B896F, 0x80DEB1FE3B1696B1, 0x9BDC06A725C71235, 0xC19BF174CF692694] ++
  [0xE49B69C19EF14AD2, 0xEFBE4786384F25E3, 0x0FC19DC68B8CD5B5, 0x240CA1CC77AC9C65,
   0x2DE92C6F592B0275, 0x4A7484AA6EA6E483, 0x5CB0A9DCBD41FBD4, 0x76F988DA831153B5,
   0x983E5152EE66DFAB, 0xA831C66D2DB43210, 0xB00327C898FB213F, 0xBF597FC7BEEF0EE4,
   0xC6E00BF33DA88FC2, 0xD5A79147930AA725, 0x06CA6351E003826F, 0x142929670A0E6E70] ++
  [0x27B70A8546D22FFC, 0x2E1B21385C26C926, 0x4D2C6DFC5AC42AED, 0x53380D139D95B3DF,
   0x650A73548BAF63DE, 0x766A0ABB3C77B2A8, 0x81C2C92E47EDAEE6, 0x92722C851482353B,
   0xA2BFE8A14CF10364, 0xA81A664BBC423001, 0xC24B8B70D0F89791, 0xC76C51A30654BE30,
   0xD192E819D6EF5218, 0xD69906245565A910, 0xF40E35855771202A, 0x106AA07032BBD1B8] ++
  [0x19A4C116B8D2D0C8, 0x1E376C085141AB53, 0x2748774CDF8EEB99, 0x34B0BCB5E19B48A8,
   0x391C0CB3C5C95A63, 0x4ED8AA4AE3418ACB, 0x5B9CCA4F7763E373, 0x682E6FF3D6B2B8A3,
   0x748F82EE5DEFB2FC, 0x78A5636F43172F60, 0x84C87814A1F0AB72, 0x8CC702081A6439EC,
   0x90BEFFFA23631E28, 0xA4506CEBDE82BDE9, 0xBEF9A3F7B2C67915, 0xC67178F2E372532B] ++
  [0xCA273ECEEA26619C, 0xD186B8C721C0C207, 0xEADA7DD6CDE0EB1E, 0xF57D4F7FEE6ED178,
   0x06F067AA72176FBA, 0x0A637DC5A2C898A6, 0x113F9804BEF90DAE, 0x1B710B35131C471B,
   0x28DB77F523047D84, 0x32CAAB7B40C72493, 0x3C9EBE0A15C9BEBC, 0x431D67C49C100D4C,
   0x4CC5D4BECB3E42B6, 0x597F299CFC657E2A, 0x5FCB6FAB3AD6FAEC, 0x6C44198C4A475817]

/-- The initial hash value. -/
def shaH0 : List Dword := ([
   0x6A09E667F3BCC908, 0xBB67AE8584CAA73B, 0x3C6EF372FE94F82B, 0xA54FF53A5F1D36F1,
   0x510E527FADE682D1, 0x9B05688C2B3E6C1F, 0x1F83D9ABFB41BD6B, 0x5BE0CD19137E2179] : List Nat).map (BitVec.ofNat 64)

/-- A number as bytes, the most significant first. -/
def beBytes (n v : Nat) : List Byte := (leBytes n v).reverse
/-- Bytes as a number, the most significant first. -/
def beNat (bs : List Byte) : Nat := leNat bs.reverse

/-- A message padded to whole blocks of 128 bytes. -/
def shaPad (m : List Byte) : List Byte :=
  m ++ [0x80#8] ++ List.replicate ((239 - m.length % 128) % 128) 0#8 ++ beBytes 16 (8 * m.length)

/-- The message schedule of a block, 80 words. -/
def shaSchedule (block : List Byte) : List Dword :=
  (List.range 64).foldl (fun w t =>
    let x := w.getD (t + 1) 0#64
    let y := w.getD (t + 14) 0#64
    let s0 := x.rotateRight 1 ^^^ x.rotateRight 8 ^^^ (x >>> 7)
    let s1 := y.rotateRight 19 ^^^ y.rotateRight 61 ^^^ (y >>> 6)
    w ++ [w.getD t 0#64 + s0 + w.getD (t + 9) 0#64 + s1])
    ((List.range 16).map (fun i => BitVec.ofNat 64 (beNat ((block.drop (8 * i)).take 8))))

/-- One round on the eight working words. -/
def shaRound (v : List Dword) (k w : Dword) : List Dword :=
  match v with
  | [a, b, c, d, e, f, g, h] =>
    let s1 := e.rotateRight 14 ^^^ e.rotateRight 18 ^^^ e.rotateRight 41
    let t1 := h + s1 + ((e &&& f) ^^^ (~~~e &&& g)) + k + w
    let s0 := a.rotateRight 28 ^^^ a.rotateRight 34 ^^^ a.rotateRight 39
    let t2 := s0 + ((a &&& b) ^^^ (a &&& c) ^^^ (b &&& c))
    [t1 + t2, a, b, c, d + t1, e, f, g]
  | _ => v

/-- A block taken into the hash value. -/
def shaBlock (h : List Dword) (block : List Byte) : List Dword :=
  let w := shaSchedule block
  let v := (List.range 80).foldl (fun v t => shaRound v (BitVec.ofNat 64 (shaK.getD t 0)) (w.getD t 0#64)) h
  List.zipWith (· + ·) h v

/-- The SHA-512 of a message, 64 bytes. -/
def sha512 (m : List Byte) : List Byte :=
  let p := shaPad m
  ((List.range (p.length / 128)).foldl (fun h i => shaBlock h ((p.drop (128 * i)).take 128)) shaH0).flatMap (fun x => beBytes 8 x.toNat)

/-! ## RSASSA-PSS -/

/-- MGF1 with SHA-512. -/
def mgf1 (seed : List Byte) (n : Nat) : List Byte :=
  ((List.range ((n + 63) / 64)).flatMap (fun i => sha512 (seed ++ beBytes 4 i))).take n

/-- The public operation with the exponent 65,537: a power modulo the modulus. -/
def rsaPublic (n x : Nat) : Nat := (List.range 16).foldl (fun y _ => y * y % n) (x % n) * x % n

/-- Whether an encoded message of 512 bytes is that of a hash (EMSA-PSS, salt of 64 bytes, 4,095 bits). -/
def pssOk (hash em : List Byte) : Bool :=
  let masked := em.take 447
  let h := (em.drop 447).take 64
  let db := (List.zipWith (· ^^^ ·) masked (mgf1 h 447)).set 0 (((masked.getD 0 0#8) ^^^ ((mgf1 h 1).getD 0 0#8)) &&& 0x7F#8)
  em.length == 512 && em.getD 511 0#8 == 0xBC#8 && decide ((masked.getD 0 0#8).toNat < 128) &&
  (db.take 382).all (fun b => b == 0#8) && db.getD 382 0#8 == 1#8 &&
  sha512 (List.replicate 8 0#8 ++ hash ++ db.drop 383) == h

/-- Whether a signature of 512 bytes over a message verifies under a key: the modulus, 512 bytes, the most significant first (log entry 5). -/
def signatureOk (message sig key : List Byte) : Bool :=
  let n := beNat key
  key.length == 512 && sig.length == 512 && decide (2 ^ 4095 ≤ n) && decide (beNat sig < n) &&
  pssOk (sha512 message) (beBytes 512 (rsaPublic n (beNat sig)))

end Sys2Proof.Machine
end

