-- ==== Sys2Proof/Machine/Tenancy.lean ====
section
/-! DEFINITION. Invalidations (spec/22 R325), slice switches, reassignment, scrubs (R334 to R338) and the boot chain (R339, R340). -/

namespace Sys2Proof.Machine

/-! ## Invalidations -/

/-- INVALIDATION_REQUEST (R325): no core holds a translation of the range any more, and an access that starts after its receipt walks the table again. -/
def execInvalidationRequest (vf va len : Nat) (s : State) : Res :=
  done { s with
    ids := s.ids + 1
    invals := s.invals ++ [⟨s.ids, vf, va, len, s.free⟩]
    tlb := s.tlb.filter (fun e => !e.meets vf (va % 2 ^ 57) len) }

/-- Whether an access of a function issued before an invalidation used a translation of its range. -/
def Inval.holds (v : Inval) (vf : Nat) (a : Access) : Bool :=
  v.vf == vf && a.isData && decide (a.step < v.step) && decide (a.va.toNat < v.va + v.len) && decide (v.va < a.va.toNat + a.size)

/-- INVALIDATION_COMPLETE (R325): once every access that used a translation of the range has been performed. The bytes of a copy are
performed where they are translated. -/
def execInvalidationComplete (id : Nat) (s : State) : Res :=
  done (match s.invals.find? (fun v => v.id == id) with
    | none => s
    | some v =>
      if s.waves.any (fun w => w.lanes.any (fun t => t.acc.any (v.holds (s.vfOf w.blk)))) then s
      else { s with invals := s.invals.filter (fun x => x.id != id) })

/-! ## Switches -/

def State.onPart (s : State) (n : Nat) (f : Partition → Partition) : State := { s with partitions := onKey s.partitions n f }
/-- The gangs that run on a partition. -/
def State.partGangs (s : State) (p : Partition) : List Nat := (p.cores.flatMap s.gangsOn).eraseDups.filter (fun g => (s.gang? g).isSome)

/-- The slice table of a partition (R335), where it has one in the layout of the rule: T0, PERIOD, and for each entry the function and its START. The
monitor's words of it are register space 5 (log entry 6). -/
def State.sliceTable (s : State) (n : Nat) : Option (Nat × Nat × List (Nat × Nat)) :=
  let w := fun (off : Nat) => (s.reg 5 n off).toNat
  let count := w 16
  let period := s.reg64 5 n 8
  let es := (List.range count).map (fun i => (w (32 + 8 * i), w (36 + 8 * i)))
  let ends := (es.drop 1).map (fun e => e.2) ++ [period]
  if decide (1 ≤ count) && decide (count ≤ 16) && w 20 == 0 && w 24 == 0 && w 28 == 0 && es.all (fun e => decide (e.1 < 256)) &&
      (es.headD (0, 1)).2 == 0 && (List.range count).all (fun i => decide ((es.getD i (0, 0)).2 + 1000000 ≤ ends.getD i 0)) then
    some (s.reg64 5 n 0, period, es)
  else none
/-- The slice that a partition's table names at a time (R335): its function, and the time it began. -/
def State.slice (s : State) (n now : Nat) : Option (Nat × Nat) :=
  match s.sliceTable n with
  | none => none
  | some (t0, period, es) =>
    if now < t0 then none
    else
      let off := (now - t0) % max 1 period
      ((es.filter (fun e => decide (e.2 ≤ off))).getLast?).map (fun e => (e.1, now - off + e.2))

/-- Steps 1 and 2 of R336: no dispatch onto the partition, its contexts pre-empted. -/
def State.beginSwitch (s : State) (n vf : Nat) : State :=
  match look s.partitions n with
  | none => s
  | some p =>
    let gs := s.partGangs p
    (s.onPart n (fun q => { q with incoming := some vf })).preempt gs

/-- Step 4 of R336: the incoming function has the partition; a switch whose instant came meanwhile takes effect. -/
def State.finishSwitch (s : State) (n : Nat) : State :=
  match look s.partitions n with
  | none => s
  | some p =>
    let s1 := s.onPart n (fun q => { q with vf := p.incoming.getD p.vf, incoming := none, queued := none, scrubbing := false })
    match p.queued with
    | some f => s1.beginSwitch n f
    | none => s1

/-- A switch whose contexts are all gone from the partition: the scrub where the function differs, else step 4 (R336). -/
def State.settleSwitch (s : State) (n : Nat) : State :=
  match look s.partitions n with
  | none => s
  | some p =>
    match p.incoming with
    | none => s
    | some f =>
      if p.scrubbing || !(s.partGangs p).isEmpty then s
      else if f = p.vf then s.finishSwitch n
      else s.onPart n (fun q => { q with scrubbing := true })
/-- Every switch in progress. -/
def State.settleSwitches (s : State) : State := (s.partitions.map (fun p => p.1)).foldl State.settleSwitch s

/-- SLICE_SWITCH (R335, R336): at an instant of the table, or after one that passed while no step was taken for it. -/
def execSliceSwitch (part : Nat) (s : State) : Res :=
  done (match look s.partitions part with
    | none => s
    | some p =>
      match s.slice part s.clock.now with
      | none => s
      | some (f, at_) =>
        match p.incoming with
        | some g => if f = p.queued.getD g then s else s.onPart part (fun q => { q with queued := some f })
        | none => if f = p.vf ∧ at_ ≠ s.clock.now then s else (s.beginSwitch part f).settleSwitch part)

/-- PARTITION_REASSIGN (R337): by a switch, or directly, while the partition holds no running context; the scrub follows. One that comes while a switch of
the partition runs takes effect when that one has ended (R336). -/
def execPartitionReassign (part vf : Nat) (s : State) : Res :=
  done (match look s.partitions part with
    | none => s
    | some p =>
      match p.incoming with
      | some _ => s.onPart part (fun q => { q with queued := some vf })
      | none => if p.vf = vf then s else (s.beginSwitch part vf).settleSwitch part)

/-- A core scrubbed (R338): operand memory, accumulator store, caches, window, scratchpads; its registers are gone with its blocks. What
its view still holds is placed at the home first; of its panels' sample records, those of the outgoing function are discarded (spec/28 R412). -/
def State.scrubCore (s : State) (vf c : Nat) : State :=
  let s1 := s.publish c 0 3 true
  let kept := fun (l : List SampleRec) => l.filter (fun r => r.func != vf)
  State.onCore { s1 with blocks := s1.blocks.map (fun b => if b.2.core = c then (b.1, { b.2 with pad := [] }) else b) } c (fun k => { Core.reset with
    powered := k.powered, gatedAt := k.gatedAt, clkOff := k.clkOff, issued := k.issued, sampleAt := k.sampleAt,
    roster := k.roster.filter (fun x => x.vf != vf), marks := kept k.marks, unwritten := kept k.unwritten, rowsDue := k.rowsDue })

/-- SCRUB_COMPLETE (R338). -/
def execScrubComplete (part : Nat) (s : State) : Res :=
  done (match look s.partitions part with
    | none => s
    | some p =>
      if p.scrubbing then
        let s1 := p.cores.foldl (fun t c => t.scrubCore p.vf c) s
        ((State.finishSwitch { s1 with tlb := s1.tlb.filter (fun e => !p.cores.elem e.core && (e.core != 192 || e.vf != p.vf)) } part)).settleSwitches
      else s)

/-! ## The boot chain -/

/-- The hash in a key slot of a partition, which the monitor sets (R339): register space 6 (log entry 6). -/
def State.keySlot (s : State) (part ix : Nat) : List Byte := (List.range 16).flatMap (fun i => leBytes 4 (s.reg 6 part (64 * ix + 4 * i)).toNat)
/-- Whether an image verifies (R339): its header, its digest, the key's hash against the slot, the signature, and for kinds 1 and 2 the
least version. -/
def State.imageOk (s : State) (kind part : Nat) (hdr payload key : List Byte) : Bool :=
  let ix := fld hdr 88 4
  hdr.length == 1024 && fld hdr 0 4 == 0x4E5A4952 && fld hdr 4 4 == kind && fld hdr 12 4 == 0 && fld hdr 16 8 == payload.length &&
  decide (ix < 4) && fld hdr 92 420 == 0 &&
  sha512 payload == (hdr.drop 24).take 64 &&
  sha512 key == (if kind = 3 then s.keySlot part ix else Config.fusedKey kind ix) &&
  signatureOk (hdr.take 512) (hdr.drop 512) key &&
  (kind == 3 || decide (Config.fusedVersion kind ≤ fld hdr 8 4))

/-- The functions of a partition that did not boot keep EN = 0 (R340). -/
def State.disable (s : State) (part : Nat) : State :=
  (List.range 256).foldl (fun t vf =>
    if t.vfWord vf 4 = part ∧ (t.vfWord vf 92).testBit 0 then t.setReg 2 vf 92 (BitVec.ofNat 32 (t.vfWord vf 92 - 1)) else t) s

/-- BOOT (R340): the next stage verified: control-core firmware, the monitor, then the system image of a partition, which holds no running context
then. A failure of the first two leaves the device in recovery, and the configuration space says so (log entry 6). Another image for a partition
that has had one starts with the scrub of R338. -/
def execBoot (part : Nat) (hdr payload key : List Byte) (s : State) : Res :=
  let stage := s.mon.bootStage
  let ok := s.imageOk (min 3 (stage + 1)) part hdr payload key
  let digest := (hdr.drop 24).take 64
  done (
    if s.mon.recovery then s
    else if stage < 2 then
      if ok then { s with mon := { s.mon with bootStage := stage + 1 } }
      else State.setReg { s with mon := { s.mon with recovery := true } } 4 0 0x110 1
    else
      match look s.partitions part with
      | none => s
      | some p =>
        if p.incoming.isSome || p.scrubbing || !(s.partGangs p).isEmpty then s
        else if ok then
          let fresh := p.image.isEmpty || p.image == digest
          s.onPart part (fun q => { q with
            booted := true, image := digest, ivdel := Config.ivdelFirmware digest, scrubbing := !fresh, incoming := if fresh then none else some q.vf })
        else (s.onPart part (fun q => { q with booted := false })).disable part)

end Sys2Proof.Machine
end

