-- ==== Sys2Proof/Machine/Collect.lean ====
section
/-! DEFINITION. The Bobbins: arriving chunks and the spool, the commands of the firmware, chunk steps, aborts, the end of a communicator
(spec/24 R352 to R367). -/

namespace Sys2Proof.Machine

/-! ## Reduction and sparse form -/

/-- The bytes of an element of a RED (R354). -/
def redSize (red : Nat) : Nat := if red / 16 = 1 ∨ red / 16 = 2 then 2 else 4
/-- Two floats combined (R361): the exact sum rounded once, or FMIN or FMAX in the type. -/
def redFloat (f : Ieee) (op a b : Nat) : Nat :=
  let x := f.decode a
  let y := f.decode b
  if op = 0 then (addF f .rne x y).1
  else
    match x.isNan, y.isNan with
    | true, true => f.encode (.nan false)
    | true, false => b
    | false, true => a
    | false, false => if x.lt y == (op == 2) then b else a
/-- Two elements combined (R361). -/
def redElem (red a b : Nat) : Nat :=
  let op := red % 16
  let ty := red / 16
  if ty = 0 then redFloat ieee32 op a b
  else if ty = 1 then redFloat ieeeB16 op a b
  else if ty = 2 then redFloat ieee16 op a b
  else if op = 0 then (a + b) % 2 ^ 32
  else
    let less := if ty = 3 then decide ((BitVec.ofNat 32 a).toInt < (BitVec.ofNat 32 b).toInt) else decide (a < b)
    if less == (op == 2) then b else a
/-- Two chunks combined element by element. -/
def redBytes (red : Nat) (a b : List Byte) : List Byte :=
  let n := redSize red
  (List.range (a.length / n)).flatMap (fun i => leBytes n (redElem red (leNat ((a.drop (n * i)).take n)) (leNat ((b.drop (n * i)).take n))))

/-- The form a chunk is sent in (R365): sparse where DENS allows it. -/
def wireForm (red dens : Nat) (data : List Byte) : List Byte :=
  let n := redSize red
  let elems := data.length / n
  let nz := ((List.range elems).map (fun i => (i, leNat ((data.drop (n * i)).take n)))).filter (fun p => p.2 != 0)
  if 0 < dens ∧ nz.length * 1000 ≤ dens * elems then
    leBytes 4 nz.length ++ leBytes 4 elems ++ leBytes 8 0 ++ nz.flatMap (fun p => leBytes 4 p.1 ++ leBytes 4 p.2)
  else data

/-! ## Arrivals -/

/-- The lowest free slot of a communicator. -/
def Comm.freeSlot (k : Comm) : Option Nat := (List.range k.nslot).find? (fun i => (look k.slots i).isNone)
/-- The lowest free place of its spool. -/
def Comm.freePlace (k : Comm) : Option Nat := (List.range k.spoolCap).find? (fun i => !k.spool.any (fun p => p.1 == i))
/-- A chunk landed in a slot, with its event (R362). -/
def Comm.land (k : Comm) (i : Nat) (c : ChunkSlot) : Comm :=
  { k with slots := insertAt k.slots i c, events := k.events ++ [.arrive c.chunk c.rank i] }
/-- Whether every page of a place of the spool is mapped. -/
def State.spoolOk (s : State) (k : Comm) (place n : Nat) : Bool :=
  (List.range (n / 256 + 1)).all (fun i =>
    256 * i ≥ n || s.devAddr k.vf (BitVec.ofNat 64 (k.spoolVa + place * k.slotb + 256 * i)) true != 2 ^ 56)

/-- The requests sent since a number, of a spool of an instance of a communicator. -/
def State.tagSpool (s : State) (first cm inst : Nat) : State :=
  { s with requests := s.requests.map (fun q => if first ≤ q.id ∧ q.kind = .write then { q with kind := .spool cm inst false } else q) }
/-- The spool cannot take or give a chunk (R364): its instance aborts with CAUSE 4. -/
def State.spoolFails (s : State) (cm inst : Nat) (k : Comm) : State :=
  (s.abortOrKeep cm inst 4 k.rank).onComm cm (fun m => { m with spool := m.spool.filter (fun p => p.2.inst != inst) })

/-- CHUNK_ARRIVE (R363, R364): into a slot; behind chunks already spooled, or with no slot free, into the spool; else credit is withheld and
the chunk stays with its sender. A chunk that comes too late has no receiver, one from a fenced peer is not performed (R382). -/
def execChunkArrive (cm inst rank chunk : Nat) (data : List Byte) (s : State) : Res :=
  done (match look s.comms cm with
    | none => s
    | some k =>
      let gone := k.instances.all (fun x => x.inst != inst || x.over_) && s.tooLate k inst
      let c : ChunkSlot := { inst := inst, chunk := chunk, rank := rank, data := data, parts := 1 }
      if gone || decide (k.nrank ≤ rank) || rank == k.rank || s.peerState (k.peers.getD rank 0) == 1 || decide (k.slotb < data.length) then s
      else
        match if k.spool.isEmpty then k.freeSlot else none with
        | some i => s.onComm cm (fun m => m.land i c)
        | none =>
          match k.freePlace with
          | none => s
          | some p =>
            if s.spoolOk k p data.length then
              ((s.devWrite k.vf (k.spoolVa + p * k.slotb) data).tagSpool s.ids cm inst).onComm cm (fun m => { m with spool := m.spool ++ [(p, c)] })
            else s.spoolFails cm inst k)

/-- The lines of a place of the spool that the package does not hold. -/
def State.spoolFar (s : State) (k : Comm) (place n : Nat) : List Nat :=
  ((List.range n).filterMap (fun i =>
    let pa := s.devAddr k.vf (BitVec.ofNat 64 (k.spoolVa + place * k.slotb + i)) true
    if isRemote pa && (look s.copies pa).isNone then some (pa / 64 * 64) else none)).eraseDups

/-- SPOOL_FETCH (R364): the oldest spooled chunk is read back into a slot that is free; what the package no longer holds of it is requested first. -/
def execSpoolFetch (cm : Nat) (s : State) : Res :=
  done (match look s.comms cm with
    | none => s
    | some k =>
      match k.freeSlot, k.spool with
      | some i, (p, c) :: rest =>
        if !s.spoolOk k p c.data.length then s.spoolFails cm c.inst k
        else
          match s.spoolFar k p c.data.length with
          | [] => s.onComm cm (fun m => { m with spool := rest }.land i { c with data := s.vaBytes k.vf (k.spoolVa + p * k.slotb) c.data.length })
          | far => far.foldl (fun t l =>
              if t.requests.any (fun q => q.kind == .spool cm c.inst true && q.pa == l) then t
              else (t.sendAs (some k.vf) l 64 Issuer.device (.spool cm c.inst true) []).1) s
      | _, _ => s)

/-! ## The rings of the firmware -/

/-- Whether a communicator runs Ivdel's schedule 0 (spec/25 R370): its SCHED is 0, and the Bobbin firmware in the system image of the partition that its
function is configured for (spec/22 R326), whether or not it has the partition at the time, is Ivdel's. Another schedule is the firmware's own program: what it puts into the command ring comes from outside (log entry 66). -/
def State.scheduled (s : State) (k : Comm) : Bool :=
  k.sched == 0 && s.partitions.any (fun p => (p.2.vf == k.vf || p.1 == s.vfWord k.vf 4) && p.2.booted && p.2.ivdel)

/-- CREDIT (R362). -/
def execBobCredit (cm : Nat) (s : State) : Res := done (s.onComm cm (fun k => { k with events := k.events ++ [.credit] }))

/-- A command put in the ring, or refused with an error event: it names a slot of another communicator, a rank outside it, or a chunk while
no instance is performed. Schedule 0 offers its commands itself. -/
def State.command (s : State) (cm : Nat) (ok : Comm → Bool) (f : Nat → BobCmd) : State :=
  s.onComm cm (fun k =>
    if s.scheduled k then k
    else match s.current k with
    | some x => if ok k then { k with cmds := k.cmds ++ [f x.inst] } else { k with events := k.events ++ [.error] }
    | none => { k with events := k.events ++ [.error] })

/-- SEND (R362). -/
def execBobSend (cm : Nat) (isSlot : Bool) (ix rank : Nat) (s : State) : Res :=
  done (s.command cm (fun k => decide (rank < k.nrank) && (!isSlot || decide (ix < k.nslot))) (fun i => .send i isSlot ix rank))

/-- REDUCE (R362). -/
def execBobReduce (cm slot : Nat) (isSlot : Bool) (ix : Nat) (s : State) : Res :=
  done (s.command cm (fun k => decide (slot < k.nslot) && (!isSlot || decide (ix < k.nslot))) (fun i => .reduce i slot isSlot ix))

/-- WRITE (R362). -/
def execBobWrite (cm slot chunk : Nat) (s : State) : Res := done (s.command cm (fun k => decide (slot < k.nslot)) (fun i => .write i slot chunk))

/-- FREE (R362). -/
def execBobFree (cm slot : Nat) (s : State) : Res :=
  done (s.onComm cm (fun k =>
    if s.scheduled k then k
    else if slot < k.nslot then { k with cmds := k.cmds ++ [.free slot] } else { k with events := k.events ++ [.error] }))

/-- DONE (R362). -/
def execBobDone (cm chunk : Nat) (s : State) : Res := done (s.command cm (fun _ => true) (fun i => .done i chunk))

/-! ## Waiting launches -/

/-- The byte barrier of a block held by an image counted down. -/
def Block.countPad (b : Block) (off n : Nat) : Block :=
  let bytes := fun (o : Nat) => leNat ((List.range 4).map (fun i => getD b.pad 0#8 (off + o + i)))
  let new := leBytes 4 ((bytes 0 + 2 ^ 32 - n % 2 ^ 32) % 2 ^ 32) ++ leBytes 4 (bytes 4 + (if 0 < bytes 0 ∧ bytes 0 ≤ n then 1 else 0))
  { b with pad := (List.range 8).foldl (fun m i => setD m 0#8 (off + i) (new.getD i 0)) b.pad }

/-- The WAIT launches of an instance whose blocks of a chunk count its bytes down (R359), in every block until its gang ends (spec/01 R29), and in saved images. -/
def State.countWaits (s : State) (vf : Nat) (x : CollInst) (c : Nat) : State :=
  let waits := fun (g : Gang) (b : Block) =>
    match s.launch? g.launch with
    | some l =>
      let r := l.prog.lrec
      l.vf == vf && g.tmpl == 0 &&
      (match l.coll with
       | some k => k.role == 2 && k.cdesc == x.coll.cdesc && k.inst == x.inst &&
          k.chunkOf r ((g.index * r.blocksPerGang + b.index) * r.wavesPerBlock) == c
       | none => false)
    | none => false
  let off := fun (g : Gang) => (((s.launch? g.launch).bind (fun l => l.coll)).map (fun k => k.rbobj)).getD 0
  let inImage := fun (m : Image) => { m with blocks := m.blocks.map (fun y =>
    if waits m.gang y.block then { y with block := y.block.countPad (off m.gang) x.coll.chunk } else y) }
  let s1 := s.blocks.foldl (fun t p =>
    match t.gang? p.2.gang with
    | some g => if waits g p.2 then
        (match t.padAt p.1 (off g) with
         | some (b, o) => t.countDown (some (.pad b o)) x.coll.chunk
         | none => t)
      else t
    | none => t) s
  { s1 with images := s1.images.map (fun p => (p.1, inImage p.2)), restarts := s1.restarts.map (fun p => (p.1, inImage p.2)) }

/-! ## Chunk steps -/

/-! ## Schedule 0 -/

/-- What schedule 0 does for a result chunk (spec/25 R370), by rank: 0 its slot folds into the result, 1 into the slot of rank 0, 2 its slot is
freed, 3 its slot is the result. -/
def Comm.folds (k : Comm) (x : CollInst) (c : Nat) : List (Nat × Nat) :=
  let steps : List (Nat × Nat) :=
    if x.coll.op = 2 then [(3, c % k.nrank)] else if x.coll.op = 3 then [(3, x.coll.root)]
    else if k.rank = 0 then (List.range (k.nrank - 1)).map (fun j => (0, j + 1))
    else (List.range (k.rank - 1)).map (fun j => (1, j + 1)) ++ [(0, 0)] ++ (List.range (k.nrank - 1 - k.rank)).map (fun j => (0, k.rank + 1 + j))
  steps.flatMap (fun p => [p, (2, p.2)])
/-- The slot that holds a rank's chunk of an instance. -/
def Comm.slotFor (k : Comm) (i c r : Nat) : Option Nat :=
  (k.slots.find? (fun p => p.2.inst == i && p.2.chunk == c && p.2.rank == r)).map (fun p => p.1)
/-- THE NEXT COMMAND OF SCHEDULE 0 (spec/25 R370): first every SEND, by chunk and by rank; then for each result chunk its REDUCEs and FREEs, and its
DONE. One that names an arrival which has not landed is not offered yet. -/
def Comm.offer (k : Comm) (x : CollInst) : Option BobCmd :=
  let send := (List.range x.coll.nchunk).findSome? (fun c =>
    if x.coll.sourceHere k.nrank k.rank c then
      ((k.receivers x c).find? (fun r => !k.sent.any (fun p => p.1 == r && p.2.inst == x.inst && p.2.chunk == c))).map (fun r => BobCmd.send x.inst false c r)
    else none)
  match send, (List.range x.coll.nchunk).find? (fun c => x.coll.resultHere k.nrank k.rank c && !x.done.elem c) with
  | some cmd, _ => some cmd
  | none, none => none
  | none, some c =>
    match (k.folds x c)[x.turn]? with
    | none => some (.done x.inst c)
    | some (kind, r) =>
      (k.slotFor x.inst c r).bind (fun sl =>
        if kind = 0 then some (.reduce x.inst sl false c)
        else if kind = 1 then (k.slotFor x.inst c 0).map (fun z => .reduce x.inst sl true z)
        else if kind = 2 then some (.free sl)
        else some (.write x.inst sl c))
/-- How far schedule 0 is with its chunk once a command has been performed. -/
def BobCmd.turnAfter (c : BobCmd) (turn : Nat) : Nat :=
  match c with
  | .send _ _ _ _ => turn
  | .done _ _ => 0
  | _ => turn + 1

/-! ## Chunk steps -/

/-- The command of a communicator that may be performed next, by its place in the ring: that of the instance it performs, of one that has ended, which
does nothing, or of none (R357); schedule 0's one command. -/
def State.nextCmd (s : State) (k : Comm) : Option (Nat × BobCmd) :=
  if s.scheduled k then ((s.current k).bind k.offer).map (fun c => (0, c))
  else
    let mine := fun (c : BobCmd) => match c.inst? with
      | none => true
      | some i => ((k.inst? i).map CollInst.over_).getD true || (s.current k).map (fun x => x.inst) == some i
    (indexOf mine k.cmds).bind (fun n => (k.cmds[n]?).map (fun c => (n, c)))

/-- Whether a command is ready: what it names has fired or landed (R363, spec/25 R370); a chunk whose source lies on this rank is not complete before it has
fired (R356, R358). -/
def Comm.isReady (k : Comm) (c : BobCmd) : Bool :=
  let at_ := fun (i slot : Nat) => ((look k.slots slot).map (fun c => c.inst == i)).getD false
  let fired := fun (i ch : Nat) => ((k.inst? i).map (fun x => x.fired.elem ch)).getD false
  if (((c.inst?).bind k.inst?).map CollInst.over_).getD true then true
  else
    match c with
    | .send i true ix _ => at_ i ix
    | .send i false ix _ => fired i ix
    | .reduce i sl true ix => at_ i sl && at_ i ix
    | .reduce i sl false ix => at_ i sl && fired i ix
    | .write i sl _ => at_ i sl
    | .free _ => true
    | .done i ch => ((k.inst? i).map (fun x => x.fired.elem ch || !x.coll.sourceHere k.nrank k.rank ch)).getD true

/-- The naturally aligned accesses of at most 256 bytes that bytes from an offset on are sent in (spec/26 R377): offset and length. -/
def chunkPieces (n : Nat) : List (Nat × Nat) :=
  let tail := n / 256 * 256
  (List.range (n / 256)).map (fun i => (256 * i, 256)) ++
    ([128, 64, 32, 16, 8, 4, 2, 1].foldl (fun (acc : Nat × List (Nat × Nat)) z =>
      if acc.1 + z ≤ n then (acc.1 + z, acc.2 ++ [(acc.1, z)]) else acc) (tail, [])).2
/-- A chunk sent to a rank on the communicator's channel (R362, R365, spec/26 R377): its traffic is outstanding until the peer answers; an absent or fenced peer takes none, and the instance aborts
with CAUSE 2 (spec/26 R379, R381, R382). -/
def State.sendChunk (s : State) (id : Nat) (k : Comm) (i rank : Nat) (what : ChunkSlot) : State :=
  let p := k.peers.getD rank 0
  if rank = k.rank then s
  else if s.poisonedAtOnce 2 p then s.abortInstance id i 2 rank
  else
    let ps := chunkPieces what.data.length
    { (s.onComm id (fun m => { m with sent := m.sent ++ [(rank, what)] })) with
      ids := s.ids + ps.length
      requests := s.requests ++ (List.range ps.length).map (fun j =>
        let x := ps.getD j (0, 0)
        ⟨s.ids + j, [s.ids + j], 2, p, x.1, x.2, Issuer.device, .chunk id i rank, (what.data.drop x.1).take x.2, s.clock.wall, 0, none, false, some k.vf, k.vc⟩) }

/-- The bytes of a result chunk written (R355): only where the result of the chunk lies on this rank. Of a chunk whose bytes something else has written
before, they are undefined (R356). The gangs of the instance's launch log them as theirs, so that a rollback restores the whole buffer (R367). -/
def State.putChunk (s : State) (k : Comm) (x : CollInst) (ch : Nat) (bs : List Byte) : State :=
  let gs := (s.gangs.filter (fun g => g.2.launch == x.launch)).map (fun g => g.1)
  let pas := if gs.isEmpty then [] else (List.range bs.length).map (fun i => s.devAddr k.vf (BitVec.ofNat 64 (x.coll.chunkVa ch + i)) true)
  s.asContexts gs pas (fun t => t.devWrite k.vf (x.coll.chunkVa ch) (if x.breached.elem ch then t.anyBytes (2 ^ 27 + ch) bs.length else bs))

/-- The lines of a chunk's bytes that a command reads and the package does not hold (R355, spec/22 R327). -/
def State.chunkFar (s : State) (k : Comm) (c : BobCmd) : List Nat :=
  let lines := fun (x : CollInst) (ch : Nat) => ((List.range x.coll.chunk).filterMap (fun i =>
    let pa := s.devAddr k.vf (BitVec.ofNat 64 (x.coll.chunkVa ch + i)) false
    if isRemote pa && (look s.copies pa).isNone then some (pa / 64 * 64) else none)).eraseDups
  match (c.inst?).bind k.inst?, c with
  | some x, .send _ false ch _ => if x.over_ then [] else lines x ch
  | some x, .reduce _ _ false ch => if x.over_ then [] else lines x ch
  | _, _ => []
/-- They are asked for; of a peer out of reach the instance aborts (R366). -/
def State.askChunk (s : State) (id : Nat) (k : Comm) (c : BobCmd) : State :=
  (s.chunkFar k c).foldl (fun t l =>
    if t.requests.any (fun q => q.kind == .read && q.who == Issuer.device && q.pa == l) then t
    else if t.outOfReach l then t.abortInstance id ((c.inst?).getD 0) 2 ((indexOf (fun p => p == (remoteKind l).2) k.peers).getD k.rank)
    else (t.sendAs (some k.vf) l 64 Issuer.device .read []).1) s

/-- One step of the chunk engine (R362). -/
def State.bobStep (s : State) (id : Nat) (k : Comm) (c : BobCmd) : State :=
  let inst := (c.inst?).bind k.inst?
  match inst with
  | none =>
    match c with
    | .free sl => s.onComm id (fun m => { m with slots := eraseAt m.slots sl })
    | _ => s
  | some x =>
    let result := fun (ch : Nat) => decide (ch < x.coll.nchunk) && x.coll.resultHere k.nrank k.rank ch
    if x.over_ then s
    else
      let i := x.inst
      match c with
      | .send _ isSlot ix rank =>
        let local_ : ChunkSlot := { inst := i, chunk := ix, rank := k.rank, data := s.vaBytes k.vf (x.coll.chunkVa ix) x.coll.chunk, parts := 1 }
        let what := if isSlot then (look k.slots ix).getD local_ else local_
        s.sendChunk id k i rank { what with data := wireForm x.coll.red k.dens what.data }
      | .reduce _ sl isSlot ix =>
        match look k.slots sl with
        | none => s
        | some a =>
          if isSlot then
            s.onComm id (fun m => { m with slots := onKey m.slots ix (fun b =>
              { b with data := redBytes x.coll.red a.data b.data, parts := a.parts + b.parts }) })
          else if result ix then
            let old := s.vaBytes k.vf (x.coll.chunkVa ix) x.coll.chunk
            (s.putChunk k x ix ((redBytes x.coll.red a.data old).take x.coll.chunk)).onComm id (fun m => m.onInst i (fun y => { y with
              torn := if y.torn.elem ix then y.torn else ix :: y.torn, folded := insertAt y.folded ix (getD y.folded 0 ix + a.parts) }))
          else s
      | .write _ sl ch =>
        match look k.slots sl with
        | none => s
        | some a =>
          if result ch then
            let s1 := (s.putChunk k x ch (a.data.take x.coll.chunk)).onComm id (fun m => m.onInst i (fun y => { y with
              written := if y.written.elem ch then y.written else ch :: y.written }))
            if x.written.elem ch then s1 else s1.countWaits k.vf x ch
          else s
      | .free _ => s
      | .done _ ch =>
        let here := result ch && !x.written.elem ch
        let s1 := s.onComm id (fun m => m.onInst i (fun y => { y with
          done := if y.done.elem ch then y.done else ch :: y.done, written := if here then ch :: y.written else y.written }))
        if here then s1.countWaits k.vf x ch else s1

/-- Whether one communicator is served before another (R363). -/
def Comm.before (a b : Comm) : Bool :=
  decide (a.prio < b.prio) || (a.prio == b.prio &&
    (decide (a.lastServed < b.lastServed) || (a.lastServed == b.lastServed && decide (a.commid < b.commid))))

/-- The chunk slots in use on a Bobbin. -/
def State.slotsOn (s : State) (bob : Nat) : Nat := ((s.comms.filter (fun p => p.2.home == bob)).map (fun p => p.2.slots.length)).sum
/-- CHUNK_STEP_SELECT (R363): at a chunk boundary of a Bobbin the next step is chosen and performed; with its end the slots in use are counted (spec/28
R404 source 9). What a ready command reads beyond the package is asked for first, and the engine may choose another communicator's until it has come. -/
def execChunkStepSelect (bob : Nat) (s : State) : Res :=
  let could := (s.comms.filter (fun p => p.2.home == bob)).filter (fun p => ((s.nextCmd p.2).map (fun c => p.2.isReady c.2)).getD false)
  let far := fun (p : Nat × Comm) => ((s.nextCmd p.2).map (fun c => !(s.chunkFar p.2 c.2).isEmpty)).getD false
  let s1 := (could.filter far).foldl (fun t p => ((s.nextCmd p.2).map (fun c => t.askChunk p.1 p.2 c.2)).getD t) s
  let ready := could.filter (fun p => !far p)
  done (match ready.find? (fun p => ready.all (fun q => q.1 == p.1 || p.2.before q.2)) with
    | none => s1
    | some (id, k) =>
      match s.nextCmd k with
      | none => s1
      | some (n, c) =>
        let cur := (s.current k).map (fun x => x.inst)
        let s2 := s1.onComm id (fun m => { m with cmds := m.cmds.take n ++ m.cmds.drop (n + 1), lastServed := s.free })
        let s3 := (s2.bobStep id k c).onComm id (fun m => match cur with
          | some i => if s.scheduled k then m.onInst i (fun x => { x with turn := c.turnAfter x.turn }) else m
          | none => m)
        let s4 := match cur with
          | some i => s3.settleInstance id i
          | none => s3
        s4.gauge 9 bob none (s4.slotsOn bob))

/-! ## Aborts and closing -/

/-- INSTANCE_ABORT (R366): of the instance that the communicator performs, for a partner's abort (RANKX its rank), a fenced member (RANKX its rank), or
this package's own launch, spool or rollback (RANKX its own rank, R367). -/
def execInstanceAbort (cm cause rank : Nat) (s : State) : Res :=
  done (match look s.comms cm with
    | none => s
    | some k =>
      match s.current k with
      | some x => if 1 ≤ cause ∧ cause ≤ 5 ∧ (rank < k.nrank ∨ 3 ≤ cause) then s.abortInstance cm x.inst cause (if cause ≤ 2 then rank else k.rank) else s
      | none => s)

/-- PARTNER_ABORT_NOTICE (R366): a notice from a rank for an instance of the communicator with a COMMID, kept until the instance is active here; where
no launch has been admitted yet that opens a descriptor with that COMMID, until one is (log entry 74). -/
def execPartnerAbortNotice (commid inst rank : Nat) (s : State) : Res :=
  done (match s.comms.find? (fun p => p.2.commid == commid) with
    | none => if rank < 1024 then { s with early := (commid, inst, rank) :: s.early.filter (fun n => n.1 != commid || n.2.1 != inst) } else s
    | some (cm, k) => if rank < k.nrank then s.abortOrKeep cm inst 1 rank else s)

/-- COMMUNICATOR_EN_CLEAR (R353): with EN clear and no instance active the communicator closes. -/
def execCommunicatorEnClear (cm : Nat) (s : State) : Res := done (s.closeComm cm)

end Sys2Proof.Machine
end

