-- ==== Sys2Proof/Machine/Fabric.lean ====
section
/-! DEFINITION. The host window, requests to and from host, CXL and peer memory, the selvedge, hold notices, the network and storage ports,
the time input (spec/26). -/

namespace Sys2Proof.Machine

/-! ## The host window -/

/-- The physical addresses of a range at virtual addresses of a function, by the table alone; none where one does not translate. -/
def State.mapRange (s : State) (vf va : Nat) (write : Bool) : Nat → Option (List Nat)
  | 0 => some []
  | n + 1 =>
    match s.mapRange vf va write n with
    | none => none
    | some pas =>
      let a : Dword := BitVec.ofNat 64 (va + n)
      if !canonicalVa a then none
      else
        match s.translate vf a write false with
        | .ok pa => some (pas ++ [pa])
        | .fail _ _ => none

/-- The addresses a window access reaches (R373). -/
def State.windowRange (s : State) (vf off n : Nat) (write : Bool) : Option (List Nat) :=
  if (s.reg 0 vf 8).getLsbD 0 && decide (off + n ≤ 2 ^ 36) then s.mapRange vf (s.reg64 0 vf 0 + off) write n else none
/-- A window access failed: WFAULT (R372). -/
def State.windowFault (s : State) (vf : Nat) : State := s.setReg 0 vf 12 (s.reg 0 vf 12 ||| 2)
/-- Bytes written at the home of each of some addresses, by an agent outside the cores. -/
def State.homeScatter (s : State) (pas : List Nat) (data : List Byte) : State :=
  (List.range pas.length).foldl (fun t i => t.homeWriteBytes none (pas.getD i 0) [data.getD i 0]) s

/-- HOST_WINDOW_READ (R373): performed at the package home. What lies beyond the package, and is not held there, is requested first; the read is
performed, by the same step, once it has come. -/
def execHostWindowRead (vf off len : Nat) (s : State) : Res :=
  done (match s.windowRange vf off len false with
    | some pas =>
      let far := ((pas.filter (fun pa => isRemote pa && (look s.copies pa).isNone)).map (fun pa => pa / 64 * 64)).eraseDups
      if far.any s.outOfReach then { s with answer := none }
      else if far.isEmpty then { (s.breach pas) with answer := some (pas.map (fun pa => readMem (s.breach pas).mem pa)) }
      else far.foldl (fun t l =>
        if t.requests.any (fun q => q.kind == .read && q.who == Issuer.device && q.pa == l) then t else (t.sendAs (some vf) l 64 Issuer.device .read []).1) s
    | none => { (s.windowFault vf) with answer := none })

/-- HOST_WINDOW_WRITE (R373): performed at the package home; what lies beyond the package is sent on. -/
def execHostWindowWrite (vf off : Nat) (data : List Byte) (s : State) : Res :=
  done (match s.windowRange vf off data.length true with
    | some pas => ((((s.homeScatter pas data).setOwner vf pas).overwrite (pas.map Place.phys) s).sendDirty Issuer.device false (fun pa => pas.elem pa)).1
    | none => s.windowFault vf)

/-! ## The end of a request -/

/-- An outstanding request by its number. -/
def State.request? (s : State) (id : Nat) : Option Request := s.requests.find? (fun q => q.id == id)
/-- A request removed, its latency counted (spec/28 R404 source 8). -/
def State.endRequest (s : State) (q : Request) : State :=
  let s1 : State := { s with requests := dropFirst (fun x => decide (x = q)) s.requests }
  if q.region = 2 then s1.gauge 8 q.peer q.vf (s.clock.wall - q.sentAt) else s1
/-- The access of a lane that waits on a request, by its place. -/
def Thread.accessOf (t : Thread) (q : Request) : Option Nat := indexOf (fun a => (a.req.map q.grps.elem).getD false) t.acc
/-- The copy that waits on a request. -/
def State.copyOf (s : State) (q : Request) : Option CopyOp :=
  (s.blocks.flatMap (fun b => b.2.queues.flatMap (fun q => q))).find? (fun o => (o.req.map q.grps.elem).getD false)
/-- The posted writes that a zero-length read closes. -/
def State.postedOf (s : State) (q : Request) : List Request :=
  s.requests.filter (fun x => x.kind == .posted && x.grps.any q.grps.elem)

/-- Instruction bytes that a core has fetched from beyond the package (spec/02 R418). -/
def State.fillCode (s : State) (c pa : Nat) (data : List Byte) : State :=
  s.onCore c (fun k => { k with icache := (List.range data.length).foldl (fun m i =>
    if (look m (pa + i)).isSome then m else insertAt m (pa + i) (data.getD i 0)) k.icache })

/-- The write of a request has arrived: what a refresh has let go of meanwhile leaves the package's copies (R378). -/
def State.arrived (s : State) (q : Request) : State :=
  let s1 := s.endRequest q
  if q.outdated then { s1 with copies := s1.copies.filter (fun p => p.2 || !q.carries p.1 || s1.inFlight p.1) } else s1

/-- REMOTE_RESPONSE (R378): the bytes of a read or an atomic, or the response of a write. A posted write gets none: the zero-length read after it
closes it. The bytes of a read that is outdated are not used: what waits for them asks again. What no request waits for is discarded (R376, R380). -/
def execRemoteResponse (req : Nat) (data : List Byte) (s : State) : Res :=
  done (match s.request? req with
    | none => s
    | some q =>
      match q.kind with
      | .write => s.arrived q
      | .chunk _ _ _ => s.endRequest q
      | .spool _ _ back => if !back then s.endRequest q else if data.length = q.len then (s.endRequest q).fill q.pa data else s
      | .posted => s
      | .flush => (s.postedOf q).foldl State.arrived (s.endRequest q)
      | .read => if data.length ≠ q.len then s else if q.outdated then s.endRequest q else (s.endRequest q).fill q.pa data
      | .fetch => if data.length = q.len then (s.endRequest q).fillCode q.who.core q.pa data else s
      | .memo op =>
        let bs := if op = .sto then List.replicate q.len 0#8 else data
        if bs.length = q.len then
          (s.endRequest q).onLane q.who.core q.who.slot q.who.lane (fun t => { t with acc := t.acc.map (fun a =>
            if a.req = some q.id then { a with got := some bs } else a) })
        else s)

/-- The outcome of poisoned writes (R381): those of a publish or a copy are lost once it has completed, those that the device sent itself stay to
be sent, for the next publish, whatever waits for them. -/
def State.poisonWrite (s : State) (q : Request) : State :=
  let all := q :: (if q.kind = .flush then s.postedOf q else [])
  let s0 : State := { s with requests := s.requests.filter (fun x => !all.elem x) }
  let own := q.who == Issuer.device && !s.launches.any (fun l => l.2.pubReq.isSome && l.2.pubReq == q.grps.getLast?)
  let pas := all.flatMap (fun x => (List.range x.len).map (fun i => x.pa + i))
  let s1 : State :=
    if own then { s0 with copies := s0.copies.map (fun p => if pas.elem p.1 then (p.1, true) else p) }
    else { s0 with doomed := s0.doomed ++ pas.map (fun pa => (pa, (q.grps.getLast?).getD q.id)) }
  match s1.copyOf q with
  | some o => s1.failCopy o 9 (poisonCode q.region)
  | none =>
    if own then s1
    else
      let step := ((s.lane? q.who.core q.who.slot q.who.lane).bind (fun t => (t.accessOf q).bind (fun n => (t.acc[n]?).map (fun a => a.step)))).getD s.free
      s1.dueThrow q.who 9 (poisonCode q.region) q.who.pc 0 step

/-- The outcome of a poisoned instruction fetch: the lanes that stand at the instruction throw (R381). -/
def State.poisonFetch (s : State) (q : Request) : State :=
  if (s.issuing? q.who).isNone then s
  else (s.onThreads (fun w t => w.isAt q.who.core q.who.slot && t.live && t.pc == q.who.pc && t.wait == .no)
    (fun t => t.throws s 9 (poisonCode q.region) q.who.pc)).reported q.who.core q.who.slot

/-- The outcome of a poisoned read or atomic (R381): the thread throws and its register stays, the copy is cancelled, the gang of a matrix
operation rolls back (spec/27 R394). -/
def State.poisonRead (s : State) (q : Request) : State :=
  match (s.lane? q.who.core q.who.slot q.who.lane).bind (fun t => t.accessOf q) with
  | some n => (s.onLane q.who.core q.who.slot q.who.lane (fun t => t.throwAt s n 9 (poisonCode q.region))).reported q.who.core q.who.slot
  | none =>
    match s.copyOf q with
    | some o => s.failCopy o 9 (poisonCode q.region)
    | none =>
      match (s.core q.who.core).array with
      | some (_, o) => if o.who = q.who then s.roll (s.gangId o.blk) else s
      | none => s

/-- A REQUEST COMPLETES POISONED (R381); one of chunk traffic or of a spool aborts its instance (spec/24 R364, R366). -/
def State.poison (s : State) (q : Request) : State :=
  let s1 := s.endRequest q
  match q.kind with
  | .read => s1.poisonRead q
  | .memo _ => s1.poisonRead q
  | .fetch => s1.poisonFetch q
  | .chunk c i r => s1.abortInstance c i 2 r
  | .spool c i _ => match look s1.comms c with
    | some k => (s1.abortOrKeep c i 4 k.rank).onComm c (fun m => { m with spool := m.spool.filter (fun p => p.2.inst != i) })
    | none => s1
  | _ => s1.poisonWrite q

/-- How long a request has been outstanding, held time not counted (R380). -/
def State.reqAge (s : State) (q : Request) : Nat := s.clock.wall - q.sentAt - q.heldNs

/-- The completion timeout range in force, in nanoseconds (R376): the ranges of Device Control 2 (log entry 6). -/
def State.timeoutRange (s : State) : Nat × Nat :=
  let v := (s.reg 4 0 0x28).toNat % 16
  if v = 1 then (50000, 100000) else if v = 2 then (1000000, 10000000)
  else if v = 5 then (16000000, 55000000) else if v = 6 then (65000000, 210000000)
  else if v = 9 then (260000000, 900000000) else if v = 10 then (1000000000, 3500000000)
  else if v = 13 then (4000000000, 13000000000) else if v = 14 then (17000000000, 64000000000)
  else (50000, 50000000)
/-- Whether a request may have run into the completion timeout; a posted write has no completion. -/
def State.mayTimeOut (s : State) (q : Request) : Bool := q.region != 2 && q.kind != .posted && decide (s.timeoutRange.1 ≤ s.reqAge q)

/-- HOST_COMPLETION_TIMEOUT (R376): somewhere in the range in force; nothing is fenced. -/
def execHostCompletionTimeout (req : Nat) (s : State) : Res :=
  done (match s.request? req with
    | some q => if s.mayTimeOut q then s.poison q else s
    | none => s)

/-! ## The selvedge -/

/-- Every communicator with a peer among its ranks aborts with CAUSE 2 (R380), and FENCED is set (spec/24 R366). -/
def State.abortPeer (s : State) (p : Nat) : State :=
  s.comms.foldl (fun t c =>
    match indexOf (fun x => x == p) c.2.peers with
    | some rank =>
      (c.2.instances.filter (fun x => !x.over_)).foldl (fun u x => u.abortInstance c.1 x.inst 2 rank)
        (t.homeWriteBytes none (c.2.pa + 28) (leBytes 4 (t.homeNat (c.2.pa + 28) 4 ||| 4)))
    | none => t) s

/-- A PEER IS FENCED (R380): every request to it completes poisoned. -/
def State.fence (s : State) (p : Nat) : State :=
  let s1 := (s.requests.filter (fun q => q.region == 2 && q.peer == p)).foldl State.poison s
  let s2 := (s1.setPeerState p 1).setReg 3 p 8 (s1.reg 3 p 8 + 1)
  ({ s2 with holds := s2.holds.filter (fun h => h.peer != p) }).abortPeer p

/-- Whether a request to a peer has been outstanding for its TIMEOUT × 10 µs, not counting held time (R380). -/
def State.peerTimedOut (s : State) (q : Request) : Bool :=
  q.region == 2 && s.peerState q.peer != 2 && decide ((s.reg 3 q.peer 0).toNat * 10000 ≤ s.reqAge q)
/-- PEER_REQUEST_TIMEOUT (R380). -/
def execPeerRequestTimeout (req : Nat) (s : State) : Res :=
  done (match s.request? req with
    | some q => if s.peerTimedOut q then s.fence q.peer else s
    | none => s)

/-- No request waits longer than its timeout (R376, R380): what has reached the end of its range is poisoned, and a peer that has not answered is
fenced, with the step in which the time comes. -/
def State.settleTimeouts (s : State) : State :=
  let s1 := (s.requests.filter (fun q => s.mayTimeOut q && decide (s.timeoutRange.2 ≤ s.reqAge q))).foldl (fun t q =>
    if t.requests.elem q then t.poison q else t) s
  (((s1.requests.filter s1.peerTimedOut).map (fun q => q.peer)).eraseDups).foldl State.fence s1

/-- UNFENCE (R382). -/
def execUnfence (peer : Nat) (s : State) : Res := done (if s.peerState peer = 1 then s.setPeerState peer 0 else s)

/-- The atomic operations of a peer's request, by number from 2 (R375). -/
def peerOps : List MemoOp := [.swap, .cas, .add, .and, .or, .xor, .mins, .maxs, .minn, .maxn, .inc, .dec, .addf]

/-- PEER_REQUEST (R378, R377, R382): performed at the home, 0 a read of as many bytes as `data` has, 1 a write, from 2 on an atomic, whose
operand (for CAS the comparand, then the new value) is `data`. Refused while the peer is fenced. -/
def execPeerRequest (peer pa op : Nat) (data : List Byte) (s : State) : Res :=
  let size := if op = 3 then data.length / 2 else data.length
  let legal := isDevice pa && isDevice (pa + size - 1) && isCap size && decide (size ≤ 256) && pa % max 1 size == 0 &&
    (decide (op ≤ 1) || size == 4 || size == 8)
  let pas := (List.range size).map (fun i => pa + i)
  let put := fun (t : State) (bs : List Byte) => (t.homeWriteBytes none pa bs).overwrite (pas.map Place.phys) t
  let s0 := s.breach pas
  let old := s0.homeBytes pa size
  done (if s.peerState peer = 1 || !legal then { s with answer := none }
    else if op = 0 then { s0 with answer := some old }
    else if op = 1 then { (put s data) with answer := some [] }
    else
      match peerOps[op - 2]? with
      | none => { s with answer := none }
      | some m =>
        let v : Dword := BitVec.ofNat 64 (leNat (data.take size))
        let n : Dword := BitVec.ofNat 64 (leNat (data.drop size))
        let s1 := match m.apply size (BitVec.ofNat 64 (leNat old)) v n with
          | some x => put s0 (leBytes size x.toNat)
          | none => s0
        { s1 with answer := some old })

/-! ## Hold notices -/

def State.hold? (s : State) (p : Nat) : Option PeerHold := s.holds.find? (fun h => h.peer == p)
def State.putHold (s : State) (h : PeerHold) : State := { s with holds := h :: s.holds.filter (fun x => x.peer != h.peer) }

/-- A peer held no longer. -/
def State.endHold (s : State) (peer : Nat) : State := if s.peerState peer = 2 then s.setPeerState peer 0 else s
/-- 2 ms have passed with no notice of a peer (R383). -/
def State.holdQuiet (s : State) (peer : Nat) : State :=
  match s.hold? peer with
  | none => s
  | some h => if h.last + 2000000 ≤ s.clock.wall then ({ s with holds := s.holds.filter (fun x => x.peer != peer) } : State).endHold peer else s
/-- The hold of a peer has lasted 30 s (R383): notices are then ignored until 2 ms have passed with none. -/
def State.holdLimit (s : State) (peer : Nat) : State :=
  match s.hold? peer with
  | none => s
  | some h => if !h.ignoring && decide (h.began + 30000000000 ≤ s.clock.wall) then (s.endHold peer).putHold { h with ignoring := true } else s
/-- No hold outlasts its end (R383): it ends with the step in which that time comes. -/
def State.settleHolds (s : State) : State := (s.holds.map (fun h => h.peer)).foldl (fun t p => (t.holdLimit p).holdQuiet p) s

/-- HOLD_NOTICE (R383, R385): of an Enzar peer that is not fenced; the first after the end of a hold begins another. -/
def execHoldNotice (peer : Nat) (s0 : State) : Res :=
  let s := s0.settleHolds
  done (if s.peerMake peer ≠ 1 ∨ s.peerState peer = 1 then s
    else
      match s.hold? peer with
      | none => (s.setPeerState peer 2).putHold ⟨peer, s.clock.wall, s.clock.wall, false⟩
      | some h => s.putHold { h with last := s.clock.wall })

/-- HOLD_QUIET_EXPIRE (R383). -/
def execHoldQuietExpire (peer : Nat) (s : State) : Res := done (s.holdQuiet peer)

/-- HOLD_LIMIT_EXPIRE (R383). -/
def execHoldLimitExpire (peer : Nat) (s : State) : Res := done (s.holdLimit peer)

/-- The peers a hold notice goes to (R384): while a port retrains, every peer, since the requests to each are spread over the ports by
address (R377); in a debug halt, the ranks of the halted launch's communicators. -/
def State.noticeTargets (s : State) : List Nat :=
  let all := if s.retraining.isEmpty then [] else (List.range 1024).filter (fun p => s.peerMake p != 0)
  let halted := s.launches.flatMap (fun l =>
    if l.2.halted then
      match l.2.coll with
      | some k => ((s.commAt l.2.vf k.cdesc).map (fun c => (List.range c.2.nrank).filterMap (fun r =>
          if r = c.2.rank then none else some (c.2.peers.getD r 0)))).getD []
      | none => []
    else [])
  (all ++ halted).eraseDups

/-- HOLD_NOTICE_SEND (R384): to each such peer every 1 ms. -/
def execHoldNoticeSend (s : State) : Res :=
  done (s.noticeTargets.foldl (fun t p =>
    match look t.noticed p with
    | some at_ => if at_ + 1000000 ≤ t.clock.wall then { t with noticed := insertAt t.noticed p t.clock.wall } else t
    | none => { t with noticed := insertAt t.noticed p t.clock.wall }) s)

/-- PORT_RETRAIN (R384). -/
def execPortRetrain (port : Nat) (s : State) : Res :=
  done (if port < 16 ∧ (look s.retraining port).isNone then { s with retraining := insertAt s.retraining port s.clock.wall } else s)

/-- PORT_RETRAIN_COMPLETE (R384). -/
def execPortRetrainComplete (port : Nat) (s : State) : Res := done { s with retraining := eraseAt s.retraining port }

/-- LINK_RETRY_INTERVAL_END (spec/28 R404 source 7). -/
def execLinkRetryIntervalEnd (port retries : Nat) (s : State) : Res := done (if port < 16 then s.gauge 7 port none retries else s)

/-! ## Network and storage ports -/

/-- The first byte of a range at which a port's access fails to translate, with the kind and the level. -/
def State.portFault (s : State) (vf va n : Nat) (write : Bool) : Option (Nat × Nat × Nat) :=
  (List.range n).findSome? (fun i =>
    let a : Dword := BitVec.ofNat 64 (va + i)
    if !canonicalVa a then some (va + i, 1, 4)
    else
      match s.translate vf a write false with
      | .ok _ => none
      | .fail k l => some (va + i, k, l))

/-- A completion entry with an error status: the spec gives its bytes no layout, so any bytes. -/
def State.errorEntry (s : State) (n : Nat) : List Byte := (List.range n).map (fun i => Config.freeByte s.free (7000000 + i))

/-- PORT_TRANSFER_COMPLETE (R386): a transfer into memory (received data, the DMA of an NVMe read) writes its data, one out of memory (data to send, the DMA of
an NVMe write) reads as many bytes as `data` has; the data is performed, and published, before the completion entry is written. A translation fault
ends the transfer with a fault record and an error entry; a full ring holds it. What lies beyond the package, and is not held there, is requested
first. `port` 0 and 1 are the network ports and 2 the storage port, in a transfer into memory; 3 to 5 are the same ports in one out of memory. -/
def execPortTransferComplete (vf port : Nat) (va : Nat) (data : List Byte) (cva : Nat) (entry : List Byte) (s : State) : Res :=
  let write := decide (port < 3)
  let put := fun (t : State) (a : Nat) (bs : List Byte) =>
    match t.mapRange vf a true bs.length with
    | some pas => ((t.homeScatter pas bs).setOwner vf pas).overwrite (pas.map Place.phys) t
    | none => t
  let unit := if port % 3 < 2 then 0x200 + port % 3 else 0x210
  let fault := fun (t : State) (f : Nat × Nat × Nat) (w : Bool) => t.faultRecord vf f.1 f.2.1 (unit + (if w then 2 ^ 16 else 0)) f.2.2
  let pas := (s.mapRange vf va write data.length).getD []
  let far := if write then [] else ((pas.filter (fun pa => isRemote pa && (look s.copies pa).isNone)).map (fun pa => pa / 64 * 64)).eraseDups
  let move := if write then put s va data else { (s.breach pas) with answer := some (pas.map (fun pa => readMem (s.breach pas).mem pa)) }
  done (if 5 < port then s
    else
      match s.portFault vf va data.length write, s.portFault vf cva entry.length true with
      | none, none =>
        if far.any s.outOfReach then put s cva (s.errorEntry entry.length)
        else if far.isEmpty then put move cva entry
        else far.foldl (fun t l =>
          if t.requests.any (fun q => q.kind == .read && q.who == Issuer.device && q.pa == l) then t else (t.sendAs (some vf) l 64 Issuer.device .read []).1) s
      | some f, none => if s.ringFull vf then s else put (fault s f write) cva (s.errorEntry entry.length)
      | none, some g => if s.ringFull vf then s else fault (if far.isEmpty then move else s) g true
      | some f, some _ => if s.ringFull vf then s else fault s f write)

/-! ## The time input -/

/-- TIME_INPUT_LOCK (R387): a count behind is stepped forward; one ahead advances at half rate until the input has come up to it. -/
def execTimeInputLock (time : Nat) (s : State) : Res :=
  done (State.refillsSince { s with clock := { s.clock with now := max s.clock.now time, lock := true, ever := true, hold := false, input := time, half := 0 } }
    s.clock.now)

/-- TIME_INPUT_LOSS (R387). -/
def execTimeInputLoss (s : State) : Res :=
  done (if s.clock.lock then { s with clock := { s.clock with lock := false, hold := true, losses := (s.clock.losses + 1) % 2 ^ 16 } } else s)

end Sys2Proof.Machine
end

