-- ==== Sys2Proof/Machine/Monitor.lean ====
section
/-! DEFINITION. The register maps as software writes and reads them (spec/00 R5), gauges and samplers (spec/28), power gating (spec/10 R227),
and the words that are no instruction (spec/02 R37, spec/03 R57). -/

namespace Sys2Proof.Machine

/-! ## Register maps -/

/-- The bits of a word of a register map that a write sets (RW). -/
def rwMask (space off : Nat) : Word :=
  if space = 0 then (if off = 0 ∨ off = 4 then 0xFFFFFFFF#32 else if off = 8 then 1 else 0)
  else if space = 1 then
    if off = 0x10000 then 3
    else if off = 0x10004 ∨ off = 0x10008 ∨ off = 0x1000C ∨ off = 0x10010 ∨ off = 0x10014 ∨ off = 0x10018 ∨ off = 0x10020 then 0xFFFFFFFF#32
    else if 0x20000 ≤ off ∧ off < 0x24000 then
      (if off % 0x100 = 0 then 0x3FB else if off % 0x100 = 4 ∨ off % 0x100 = 8 then 0xFFFFFFFF#32 else 0)
    else if 0x30000 ≤ off ∧ off < 0x3C000 then
      (let o := off % 0x40
       if o = 0 then 0xFF03 else if o = 4 ∨ o = 8 ∨ o = 0xC ∨ o = 0x10 ∨ o = 0x18 then 0xFFFFFFFF#32 else 0)
    else 0
  else if space = 2 then
    if off = 0 then 0xFFFFF else if off = 44 then 3 else if off = 60 ∨ off = 64 then 0xFFFF else if off = 76 ∨ 96 ≤ off then 0
    else if off = 92 then 7 else 0xFFFFFFFF#32
  else if space = 3 then (if off = 0 then 0xFFFFFFFF#32 else if off = 4 then 0xFF else 0)
  else if space = 4 then (if off = 0x28 then 0xF else if off = 0x10C then 1 else 0)
  else if space = 5 then (if off < 20 ∨ (32 ≤ off ∧ off < 160) then 0xFFFFFFFF#32 else 0)
  else if space = 6 then (if off < 256 then 0xFFFFFFFF#32 else 0)
  else 0
/-- The bits that a written 1 clears (W1C). -/
def w1cMask (space off : Nat) : Word := if space = 0 ∧ off = 12 then 2 else 0
/-- How many maps a space holds. -/
def mapCount (space : Nat) : Nat := if space = 1 ∨ space = 4 then 1 else if space = 3 then 1024 else if space = 5 ∨ space = 6 then 48 else 256

/-- A word as software reads it: the copies and counts that the maps show of other state (spec/26 R372, R387), the words of a saved gang's image (spec/23 R344, R349), device
memory (log entry 6). -/
def State.regValue (s : State) (space ix off : Nat) : Word :=
  let k := s.clock
  if space = 0 ∧ off = 12 then (s.reg 0 ix 12 &&& 2) ||| BitVec.ofNat 32 (s.vfWord ix 92 % 2)
  else if space = 1 ∧ off = 0x40000 then
    BitVec.ofNat 32 ((if k.lock then 1 else 0) + (if k.ever then 2 else 0) + (if k.hold then 4 else 0) + 2 ^ 16 * (k.losses % 2 ^ 16))
  else if space = 1 ∧ off = 0x40008 then BitVec.ofNat 32 k.now
  else if space = 1 ∧ off = 0x4000C then BitVec.ofNat 32 (k.now / 2 ^ 32)
  else if space = 7 then s.imageWord ix off
  else if space = 8 then BitVec.ofNat 32 (s.homeNat (2 ^ 20 * ix + off) 4)
  else s.reg space ix off

/-! ## Gauges -/

/-- The counters and bins of a gauge at their reset values (spec/28 R403). -/
def State.clearGauge (s : State) (n : Nat) : State :=
  let o := gaugeOff n
  let s1 := (((s.setReg 1 0 (o + 0xC) 0xFFFFFFFF#32).setReg 1 0 (o + 0x10) 0).setReg 1 0 (o + 0x14) 0).setReg 1 0 (o + 0x18) 0
  (List.range 32).foldl (fun t i => t.setReg 1 0 (o + 0x20 + 4 * i) 0) s1

/-- GAUGE_CLEAR (spec/28 R403). -/
def execGaugeClear (gauge : Nat) (s : State) : Res := done (if gauge < 64 then s.clearGauge gauge else s)

/-! ## Writes -/

/-- What a written field does beside being set: CLR of a gauge (spec/28 R403), EN of a sampler, whose samples count from here (R408),
UNFENCE of a peer (spec/26 R382), EN of a function whose partition has not booted, which stays 0 (spec/22 R340); a changed PASID removes every held
translation of the old one (spec/22 R324). -/
def State.writeAction (s : State) (space ix off : Nat) (old v : Word) : State :=
  if space = 1 ∧ 0x20000 ≤ off ∧ off < 0x24000 ∧ off % 0x100 = 0 then
    (if v.getLsbD 2 then s.clearGauge ((off - 0x20000) / 0x100) else s)
  else if space = 1 ∧ 0x30000 ≤ off ∧ off < 0x3C000 ∧ off % 0x40 = 0 then
    let n := (off - 0x30000) / 0x40
    if v.getLsbD 0 && !old.getLsbD 0 then
      s.onCore (n / 4) (fun k => { k with sampleAt := insertAt k.sampleAt (n % 4) (s.clockOf (n / 4) + max 1 (s.reg 1 0 (off + 4)).toNat) })
    else s
  else if space = 2 ∧ off = 0 then
    (if old = s.reg 2 ix 0 then s else { s with tlb := s.tlb.filter (fun e => e.vf != ix) })
  else if space = 2 ∧ off = 92 then
    (if ((look s.partitions (s.vfWord ix 4)).map (fun p => p.booted)).getD false then s else s.setReg 2 ix 92 (s.reg 2 ix 92 &&& 6))
  else if space = 3 ∧ off = 12 then
    (if v = 1 ∧ s.peerState ix = 1 then s.setPeerState ix 0 else s)
  else s

/-- Whether a field is written that must be written only while its EN is 0: a function's configuration (spec/22 R326), SEL of a gauge (spec/28 R403),
RING and RCAP of a sampler (spec/28 R407). What it then holds is undefined (spec/00 R6, R9); of a function's CTRL, the other bits where they change. -/
def State.outOfTurn (s : State) (space ix off : Nat) : Bool :=
  if space = 1 then
    (decide (0x20000 ≤ off) && decide (off < 0x24000) && off % 0x100 == 4 && (s.reg 1 ix (off - 4)).getLsbD 0) ||
    (decide (0x30000 ≤ off) && decide (off < 0x3C000) && decide (8 ≤ off % 0x40) && decide (off % 0x40 ≤ 0x10) && (s.reg 1 ix (off / 0x40 * 0x40)).getLsbD 0)
  else space == 2 && off != 92 && (s.reg 2 ix 92).getLsbD 0

/-- REGISTER_WRITE (spec/00 R5). Space 7 is the image of a saved gang, which the monitor writes (spec/23 R344, R349), space 8 device memory by its physical
address, 2^20 bytes to a map, which the monitor zeroes before it passes to another function (spec/22 R337; log entry 6). -/
def execRegisterWrite (space ix off : Nat) (v0 : Word) (s : State) : Res :=
  done (if off % 4 ≠ 0 then s
    else if space = 7 then s.editImage ix off v0
    else if space = 8 then (if isDevice (2 ^ 20 * ix + off) && decide (off < 2 ^ 20) then s.homeWriteBytes none (2 ^ 20 * ix + off) (leBytes 4 v0.toNat) else s)
    else if mapCount space ≤ ix ∨ 6 < space then s
    else
      let old := s.reg space ix off
      let rw := rwMask space off
      let any : Word := BitVec.ofNat 32 (Config.freeNat s.free (7600000 + off))
      let v := if s.outOfTurn space ix off then any
        else if space = 2 ∧ off = 92 ∧ old.getLsbD 0 = true then v0 ^^^ ((v0 ^^^ old) &&& 6 &&& any)
        else v0
      let new := ((old &&& ~~~rw) ||| (v &&& rw)) &&& ~~~(v &&& w1cMask space off)
      (s.setReg space ix off new).writeAction space ix off old v)

/-! ## Samplers -/

/-- The REASON of a wave with no ready thread, from its lowest live lane (R409); what the table does not list is any value. -/
def State.stallReason (s : State) (w : Wave) (t : Thread) : Nat :=
  match t.wait with
  | .tack => if t.outstanding then 1 else 2
  | .sleep _ _ true => if t.outstanding then 1 else 2
  | .notch => 3
  | .cross _ _ _ _ _ => 4
  | .seam _ _ _ => 5
  | .barrier _ _ => 6
  | .tryAt _ _ _ => 7
  | .endtry _ => 7
  | .tend _ => 7
  | .bobj _ => 7
  | .epush _ => 8
  | .claim => 9
  | .aclaim _ => 9
  | .token _ => 10
  | .queue _ => 11
  | .window => 11
  | .thimble _ => 12
  | .sleep _ _ false => 13
  | .fault => 14
  | .thrown _ => 14
  | .stopped => 14
  | .drain => if !(s.coreRuns w.core) || s.rolls w then 14 else (s.reasonAt w t).getD (Config.freeNat s.free (7100000 + w.slot) % 15)
  | .lining => if !(s.coreRuns w.core) || s.rolls w then 14 else Config.freeNat s.free (7100000 + w.slot) % 15
  | .no => if !(s.coreRuns w.core) || s.rolls w then 14 else if s.stopped w then 3 else Config.freeNat s.free (7100000 + w.slot) % 15

/-- The PC of a lane that waits (spec/29 R413): of one parked by a tack or sleeping, the address of the instruction that parked it, its last issue. -/
def Thread.waitPc (t : Thread) : Dword :=
  match t.wait with
  | .tack | .sleep _ _ _ => t.lastPc
  | _ => t.endCheck.pc

/-- The STATE, REASON and PC of a wave from which the panel did not issue (R409). -/
def State.unissued (s : State) (w : Wave) : Nat × Nat × Dword :=
  match firstPath (pathsOf (s.readyLanes w)) with
  | some p => (1, 0, p.pc)
  | none =>
    match w.lanes.find? (fun t => t.live) with
    | some t => (2, s.stallReason w t, t.waitPc)
    | none => (2, 14, 0)
/-- The STATE, REASON and PC of a wave slot in a sample (R409). A lined wave issues from one of its two slots in a cycle, either; what is over before it has issued is
stopped (log entry 52). -/
def State.sampleOf (s : State) (c : Nat) (x : Seen) : Nat × Nat × Dword :=
  let w := (s.wave? c x.wave).filter (fun w => w.blk == x.blk)
  let other := s.freeBit (7150000 + x.wave)
  let issues := if (w.map (fun w => w.lining.isSome)).getD false then (x.slot != x.wave) == other else x.slot == x.wave
  match (look (s.core c).issued x.wave).filter (fun i => i.clk == s.clockOf c && issues), w with
  | some i, _ => (0, 0, i.pc)
  | none, some w => s.unissued w
  | none, none => (2, 14, x.pc)

/-- The wave slots of a panel that are Active or Pending, lining waves included, in ascending number (R408). -/
def State.seen (s : State) (c pn : Nat) : List Seen :=
  (List.range 32).filterMap (fun i =>
    let n := 32 * pn + i
    ((s.panelWaves c pn).find? (fun w => w.slot == n || (w.lining.map (fun l => l.slot == n)).getD false)).map (fun w =>
      ⟨n, w.slot, w.blk, s.vfOf w.blk, w.slotByte (w.slot != n), ((w.lanes.find? (fun t => t.live)).map Thread.waitPc).getD 0⟩))

/-- A sample of a panel (R408, R409) at a count of its core's clock: a record for each wave slot of some that its filter takes; the next is due PERIOD cycles later. -/
def State.takeSample (s : State) (c pn clk : Nat) (seen : List Seen) : State :=
  let t : State := { s with cycles := s.cycles + (clk - s.clockOf c) }
  let recs := (seen.filter (fun x => s.samples c pn x.vf)).map (fun x =>
    let y := t.sampleOf c x
    (⟨pn, y.2.2, BitVec.ofNat 32 clk, x.byte, y.1, y.2.1, x.vf⟩ : SampleRec))
  s.onCore c (fun k => { k with
    sampleAt := insertAt k.sampleAt pn (clk + max 1 (s.reg 1 0 (samplerOff c pn + 4)).toNat)
    unwritten := k.unwritten ++ recs })
/-- The samples of a panel that fall before a count of its core's clock, with at most some to take. -/
def State.takeSamples (s : State) (c pn clk : Nat) (seen : List Seen) : Nat → State
  | 0 => s
  | fuel + 1 =>
    let due := getD (s.core c).sampleAt 0 pn
    if (s.reg 1 0 (samplerOff c pn)).getLsbD 0 ∧ due < clk then State.takeSamples (s.takeSample c pn due seen) c pn clk (s.seen c pn) fuel else s
/-- The cycles of a core that end as its clock goes to a count: the sample of the one that has run takes the wave slots of its start (R408); its marks follow that
sample's records (R411). In the cycles passed over nothing issues. -/
def State.endCycles (s : State) (c clk : Nat) : State :=
  if clk ≤ s.clockOf c then s
  else
    let now := s.clockOf c
    let s1 := (s.core c).sampleAt.foldl (fun t p => t.takeSamples c p.1 (now + 1) ((s.core c).roster.filter (fun x => x.slot / 32 == p.1)) 1) s
    let s2 := s1.onCore c (fun k => { k with unwritten := k.unwritten ++ k.marks, marks := [], roster := [] })
    (s2.core c).sampleAt.foldl (fun t p => t.takeSamples c p.1 clk (t.seen c p.1) (clk - now)) s2
/-- The wave slots of the samples that fall in the cycle that begins (R408). -/
def State.beginCycle (s : State) (c : Nat) : State :=
  let due := (s.core c).sampleAt.filter (fun p => p.2 == s.clockOf c)
  if due.isEmpty then s else s.onCore c (fun k => { k with roster := due.flatMap (fun p => s.seen c p.1) })
/-- The cores whose panels sample or have made marks. -/
def State.sampling (s : State) : List Nat := (s.cores.filter (fun p => !p.2.sampleAt.isEmpty || !p.2.marks.isEmpty)).map (fun p => p.1)

/-- SAMPLER_SAMPLE (R408, R410): a panel writes the records of its samples and marks that are not written yet, in their order. A sample's records are taken as its cycle
ends. -/
def execSamplerSample (c pn : Nat) (s : State) : Res :=
  let mine := (s.core c).unwritten.filter (fun r => r.panel == pn)
  done (if mine.isEmpty then s
    else mine.foldl (fun t r => t.sampleRecord c r) (s.onCore c (fun k => { k with unwritten := k.unwritten.filter (fun r => r.panel != pn) })))

/-! ## Power gating -/

/-- CORE_POWER_GATE (spec/10 R227). -/
def execCorePowerGate (c : Nat) (s : State) : Res :=
  done (if (s.core c).powered then s.onCore c (fun k => { k with powered := false, gatedAt := s.cycles }) else s)

/-- CORE_POWER_UNGATE (spec/10 R227): the count goes on from where it stopped. -/
def execCorePowerUngate (c : Nat) (s : State) : Res :=
  done (if (s.core c).powered then s
    else s.onCore c (fun k => { k with powered := true, clkOff := k.clkOff + (s.cycles - k.gatedAt) }))

/-! ## Words that are no instruction -/

/-- RESERVED_OR_ILLEGAL_WORD (spec/03 R57): ILLOP on the issuing lanes. -/
def execReservedOrIllegalWord (s : State) : Res := done s.illop

/-- ILL, of 16 bits (spec/02 R37). -/
def execIll16 (s : State) : Res := done s.illop

/-- ILL, of 32 bits (spec/02 R37). -/
def execIll32 (s : State) : Res := done s.illop

end Sys2Proof.Machine
end

