-- ==== Sys2Proof/Machine/Dispatch.lean ====
section
/-! DEFINITION. The one dispatch from an instruction or a step of the device to its meaning. -/

namespace Sys2Proof.Machine

/-- The meaning of an instruction or a step of the device in a state. -/
def exec (i : Instr) (s : State) : Host.Outcome State Fault Refusal :=
  match i with
  | .add d a b t => Sys2Proof.Machine.execAdd d a b t s
  | .sub d a b t => Sys2Proof.Machine.execSub d a b t s
  | .and d a b t => Sys2Proof.Machine.execAnd d a b t s
  | .or d a b t => Sys2Proof.Machine.execOr d a b t s
  | .xor d a b t => Sys2Proof.Machine.execXor d a b t s
  | .andn d a b t => Sys2Proof.Machine.execAndn d a b t s
  | .addc d a b t => Sys2Proof.Machine.execAddc d a b t s
  | .subb d a b t => Sys2Proof.Machine.execSubb d a b t s
  | .mul d a b t => Sys2Proof.Machine.execMul d a b t s
  | .mulhs d a b t => Sys2Proof.Machine.execMulhs d a b t s
  | .mulhu d a b t => Sys2Proof.Machine.execMulhu d a b t s
  | .mulhsu d a b t => Sys2Proof.Machine.execMulhsu d a b t s
  | .mins d a b t => Sys2Proof.Machine.execMins d a b t s
  | .maxs d a b t => Sys2Proof.Machine.execMaxs d a b t s
  | .minu d a b t => Sys2Proof.Machine.execMinu d a b t s
  | .maxu d a b t => Sys2Proof.Machine.execMaxu d a b t s
  | .shl d a b t => Sys2Proof.Machine.execShl d a b t s
  | .shr d a b t => Sys2Proof.Machine.execShr d a b t s
  | .sar d a b t => Sys2Proof.Machine.execSar d a b t s
  | .rol d a b t => Sys2Proof.Machine.execRol d a b t s
  | .ror d a b t => Sys2Proof.Machine.execRor d a b t s
  | .fshl d a b t => Sys2Proof.Machine.execFshl d a b t s
  | .fshr d a b t => Sys2Proof.Machine.execFshr d a b t s
  | .bfxn d a b t => Sys2Proof.Machine.execBfxn d a b t s
  | .bfxs d a b t => Sys2Proof.Machine.execBfxs d a b t s
  | .bfi d a b t => Sys2Proof.Machine.execBfi d a b t s
  | .bmsk d b t => Sys2Proof.Machine.execBmsk d b t s
  | .clz d a t => Sys2Proof.Machine.execClz d a t s
  | .ctz d a t => Sys2Proof.Machine.execCtz d a t s
  | .popc d a t => Sys2Proof.Machine.execPopc d a t s
  | .brev d a t => Sys2Proof.Machine.execBrev d a t s
  | .divs d a b t => Sys2Proof.Machine.execDivs d a b t s
  | .divn d a b t => Sys2Proof.Machine.execDivn d a b t s
  | .rems d a b t => Sys2Proof.Machine.execRems d a b t s
  | .remn d a b t => Sys2Proof.Machine.execRemn d a b t s
  | .mad d a b t => Sys2Proof.Machine.execMad d a b t s
  | .madhs d a b t => Sys2Proof.Machine.execMadhs d a b t s
  | .madhn d a b t => Sys2Proof.Machine.execMadhn d a b t s
  | .mad64s d a b t => Sys2Proof.Machine.execMad64s d a b t s
  | .mad64n d a b t => Sys2Proof.Machine.execMad64n d a b t s
  | .sad d a b t => Sys2Proof.Machine.execSad d a b t s
  | .icmpEq p a b t => Sys2Proof.Machine.execIcmpEq p a b t s
  | .icmpNe p a b t => Sys2Proof.Machine.execIcmpNe p a b t s
  | .icmpLt p a b t => Sys2Proof.Machine.execIcmpLt p a b t s
  | .icmpLe p a b t => Sys2Proof.Machine.execIcmpLe p a b t s
  | .icmpLtn p a b t => Sys2Proof.Machine.execIcmpLtn p a b t s
  | .icmpLen p a b t => Sys2Proof.Machine.execIcmpLen p a b t s
  | .icmpTst p a b t => Sys2Proof.Machine.execIcmpTst p a b t s
  | .addi d a i_ t => Sys2Proof.Machine.execAddi d a i_ t s
  | .andi d a i_ t => Sys2Proof.Machine.execAndi d a i_ t s
  | .ori d a i_ t => Sys2Proof.Machine.execOri d a i_ t s
  | .xori d a i_ t => Sys2Proof.Machine.execXori d a i_ t s
  | .shfiShl d a n t => Sys2Proof.Machine.execShfiShl d a n t s
  | .shfiShr d a n t => Sys2Proof.Machine.execShfiShr d a n t s
  | .shfiSar d a n t => Sys2Proof.Machine.execShfiSar d a n t s
  | .shfiRol d a n t => Sys2Proof.Machine.execShfiRol d a n t s
  | .shfiRor d a n t => Sys2Proof.Machine.execShfiRor d a n t s
  | .icmpiEq p a i_ t => Sys2Proof.Machine.execIcmpiEq p a i_ t s
  | .icmpiNe p a i_ t => Sys2Proof.Machine.execIcmpiNe p a i_ t s
  | .icmpiLt p a i_ t => Sys2Proof.Machine.execIcmpiLt p a i_ t s
  | .icmpiLe p a i_ t => Sys2Proof.Machine.execIcmpiLe p a i_ t s
  | .icmpiGt p a i_ t => Sys2Proof.Machine.execIcmpiGt p a i_ t s
  | .icmpiGe p a i_ t => Sys2Proof.Machine.execIcmpiGe p a i_ t s
  | .icmpiLtn p a i_ t => Sys2Proof.Machine.execIcmpiLtn p a i_ t s
  | .icmpiLen p a i_ t => Sys2Proof.Machine.execIcmpiLen p a i_ t s
  | .icmpiGtn p a i_ t => Sys2Proof.Machine.execIcmpiGtn p a i_ t s
  | .icmpiGen p a i_ t => Sys2Proof.Machine.execIcmpiGen p a i_ t s
  | .li d i_ t => Sys2Proof.Machine.execLi d i_ t s
  | .lih d i_ t => Sys2Proof.Machine.execLih d i_ t s
  | .pand p a b t => Sys2Proof.Machine.execPand p a b t s
  | .por p a b t => Sys2Proof.Machine.execPor p a b t s
  | .pxor p a b t => Sys2Proof.Machine.execPxor p a b t s
  | .pnot p a t => Sys2Proof.Machine.execPnot p a t s
  | .p2g d a t => Sys2Proof.Machine.execP2g d a t s
  | .g2p p a t => Sys2Proof.Machine.execG2p p a t s
  | .sel d a b f t => Sys2Proof.Machine.execSel d a b f t s
  | .fadd d a b t => Sys2Proof.Machine.execFadd d a b t s
  | .fsub d a b t => Sys2Proof.Machine.execFsub d a b t s
  | .fmul d a b t => Sys2Proof.Machine.execFmul d a b t s
  | .fmin d a b t => Sys2Proof.Machine.execFmin d a b t s
  | .fmax d a b t => Sys2Proof.Machine.execFmax d a b t s
  | .ffma d a b t => Sys2Proof.Machine.execFfma d a b t s
  | .ffms d a b t => Sys2Proof.Machine.execFfms d a b t s
  | .fcps d a b t => Sys2Proof.Machine.execFcps d a b t s
  | .fcmpEq p a b t => Sys2Proof.Machine.execFcmpEq p a b t s
  | .fcmpNe p a b t => Sys2Proof.Machine.execFcmpNe p a b t s
  | .fcmpLt p a b t => Sys2Proof.Machine.execFcmpLt p a b t s
  | .fcmpLe p a b t => Sys2Proof.Machine.execFcmpLe p a b t s
  | .fcmpUn p a b t => Sys2Proof.Machine.execFcmpUn p a b t s
  | .fcmpOr p a b t => Sys2Proof.Machine.execFcmpOr p a b t s
  | .hadd2 d a b t => Sys2Proof.Machine.execHadd2 d a b t s
  | .hmul2 d a b t => Sys2Proof.Machine.execHmul2 d a b t s
  | .hfma2 d a b t => Sys2Proof.Machine.execHfma2 d a b t s
  | .badd2 d a b t => Sys2Proof.Machine.execBadd2 d a b t s
  | .bmul2 d a b t => Sys2Proof.Machine.execBmul2 d a b t s
  | .bfma2 d a b t => Sys2Proof.Machine.execBfma2 d a b t s
  | .dot2h d a b t => Sys2Proof.Machine.execDot2h d a b t s
  | .dot2b d a b t => Sys2Proof.Machine.execDot2b d a b t s
  | .rcp d a t => Sys2Proof.Machine.execRcp d a t s
  | .rsq d a t => Sys2Proof.Machine.execRsq d a t s
  | .sqrt d a t => Sys2Proof.Machine.execSqrt d a t s
  | .exp2 d a t => Sys2Proof.Machine.execExp2 d a t s
  | .log2 d a t => Sys2Proof.Machine.execLog2 d a t s
  | .sin d a t => Sys2Proof.Machine.execSin d a t s
  | .cos d a t => Sys2Proof.Machine.execCos d a t s
  | .tanh d a t => Sys2Proof.Machine.execTanh d a t s
  | .fdiv d a b t => Sys2Proof.Machine.execFdiv d a b t s
  | .cvt d a r y x t => Sys2Proof.Machine.execCvt d a r y x t s
  | .cvt8ToByte d a r sat i_ u n t => Sys2Proof.Machine.execCvt8ToByte d a r sat i_ u n t s
  | .cvt8FromByte d a i_ u n t => Sys2Proof.Machine.execCvt8FromByte d a i_ u n t s
  | .dot4s d a b t => Sys2Proof.Machine.execDot4s d a b t s
  | .dot4n d a b t => Sys2Proof.Machine.execDot4n d a b t s
  | .dot4f d a b t => Sys2Proof.Machine.execDot4f d a b t s
  | .shflIdx d a m k t => Sys2Proof.Machine.execShflIdx d a m k t s
  | .shflUp d a m k t => Sys2Proof.Machine.execShflUp d a m k t s
  | .shflDn d a m k t => Sys2Proof.Machine.execShflDn d a m k t s
  | .shflXor d a m k t => Sys2Proof.Machine.execShflXor d a m k t s
  | .shflr d a m k t => Sys2Proof.Machine.execShflr d a m k t s
  | .voteAll p a m t => Sys2Proof.Machine.execVoteAll p a m t s
  | .voteAny p a m t => Sys2Proof.Machine.execVoteAny p a m t s
  | .voteSame p a m t => Sys2Proof.Machine.execVoteSame p a m t s
  | .voteBallot d a m t => Sys2Proof.Machine.execVoteBallot d a m t s
  | .foldAdd d a y m k t => Sys2Proof.Machine.execFoldAdd d a y m k t s
  | .foldMin d a y m k t => Sys2Proof.Machine.execFoldMin d a y m k t s
  | .foldMax d a y m k t => Sys2Proof.Machine.execFoldMax d a y m k t s
  | .foldMinn d a y m k t => Sys2Proof.Machine.execFoldMinn d a y m k t s
  | .foldMaxn d a y m k t => Sys2Proof.Machine.execFoldMaxn d a y m k t s
  | .foldAnd d a y m k t => Sys2Proof.Machine.execFoldAnd d a y m k t s
  | .foldOr d a y m k t => Sys2Proof.Machine.execFoldOr d a y m k t s
  | .foldXor d a y m k t => Sys2Proof.Machine.execFoldXor d a y m k t s
  | .topk d a y m k t => Sys2Proof.Machine.execTopk d a y m k t s
  | .lsetEq d a m t => Sys2Proof.Machine.execLsetEq d a m t s
  | .lsetAlleq p a m t => Sys2Proof.Machine.execLsetAlleq p a m t s
  | .lsetFirst p m t => Sys2Proof.Machine.execLsetFirst p m t s
  | .lsetLive d m t => Sys2Proof.Machine.execLsetLive d m t s
  | .bra d p n t => Sys2Proof.Machine.execBra d p n t s
  | .call d p n t => Sys2Proof.Machine.execCall d p n t s
  | .brx a t => Sys2Proof.Machine.execBrx a t s
  | .callx a t => Sys2Proof.Machine.execCallx a t s
  | .ret t => Sys2Proof.Machine.execRet t s
  | .exit t => Sys2Proof.Machine.execExit t s
  | .loop n c i_ l t => Sys2Proof.Machine.execLoop n c i_ l t s
  | .seamEnrol j t => Sys2Proof.Machine.execSeamEnrol j t s
  | .seamWait j t => Sys2Proof.Machine.execSeamWait j t s
  | .seamLeave j t => Sys2Proof.Machine.execSeamLeave j t s
  | .seamSmask d j t => Sys2Proof.Machine.execSeamSmask d j t s
  | .tryOpen d l t => Sys2Proof.Machine.execTryOpen d l t s
  | .endtry t => Sys2Proof.Machine.execEndtry t s
  | .throwG a t => Sys2Proof.Machine.execThrowG a t s
  | .throwi c t => Sys2Proof.Machine.execThrowi c t s
  | .rethrow t => Sys2Proof.Machine.execRethrow t s
  | .trap c t => Sys2Proof.Machine.execTrap c t s
  | .uret t => Sys2Proof.Machine.execUret t s
  | .uretry t => Sys2Proof.Machine.execUretry t s
  | .brk t => Sys2Proof.Machine.execBrk t s
  | .srd d r t => Sys2Proof.Machine.execSrd d r t s
  | .swr a r t => Sys2Proof.Machine.execSwr a r t s
  | .nop t => Sys2Proof.Machine.execNop t s
  | .yield t => Sys2Proof.Machine.execYield t s
  | .sleep a t => Sys2Proof.Machine.execSleep a t s
  | .clock d t => Sys2Proof.Machine.execClock d t s
  | .ptime d t => Sys2Proof.Machine.execPtime d t s
  | .pmark a t => Sys2Proof.Machine.execPmark a t s
  | .tflush t => Sys2Proof.Machine.execTflush t s
  | .ld d h x z g sb t => Sys2Proof.Machine.execLd d h x z g sb t s
  | .st d h z g sb t => Sys2Proof.Machine.execSt d h z g sb t s
  | .lds d h x z g sb t => Sys2Proof.Machine.execLds d h x z g sb t s
  | .sts d h z g sb t => Sys2Proof.Machine.execSts d h z g sb t s
  | .ldc d h x z g sb t => Sys2Proof.Machine.execLdc d h x z g sb t s
  | .ldo d a z e c t => Sys2Proof.Machine.execLdo d a z e c t s
  | .sto d a z e c t => Sys2Proof.Machine.execSto d a z e c t s
  | .swap d a z e c t => Sys2Proof.Machine.execSwap d a z e c t s
  | .cas d a z e c t => Sys2Proof.Machine.execCas d a z e c t s
  | .amoAdd d a z e c t => Sys2Proof.Machine.execAmoAdd d a z e c t s
  | .amoAnd d a z e c t => Sys2Proof.Machine.execAmoAnd d a z e c t s
  | .amoOr d a z e c t => Sys2Proof.Machine.execAmoOr d a z e c t s
  | .amoXor d a z e c t => Sys2Proof.Machine.execAmoXor d a z e c t s
  | .amoMins d a z e c t => Sys2Proof.Machine.execAmoMins d a z e c t s
  | .amoMaxs d a z e c t => Sys2Proof.Machine.execAmoMaxs d a z e c t s
  | .amoMinn d a z e c t => Sys2Proof.Machine.execAmoMinn d a z e c t s
  | .amoMaxn d a z e c t => Sys2Proof.Machine.execAmoMaxn d a z e c t s
  | .amoInc d a z e c t => Sys2Proof.Machine.execAmoInc d a z e c t s
  | .amoDec d a z e c t => Sys2Proof.Machine.execAmoDec d a z e c t s
  | .amoAddf d a e c t => Sys2Proof.Machine.execAmoAddf d a e c t s
  | .pub c t => Sys2Proof.Machine.execPub c t s
  | .rfsh c t => Sys2Proof.Machine.execRfsh c t s
  | .phase c t => Sys2Proof.Machine.execPhase c t s
  | .acopyG2s q k sb t => Sys2Proof.Machine.execAcopyG2s q k sb t s
  | .acopyS2g q k sb t => Sys2Proof.Machine.execAcopyS2g q k sb t s
  | .acopyG2o q k sb t => Sys2Proof.Machine.execAcopyG2o q k sb t s
  | .acopyS2o q k sb t => Sys2Proof.Machine.execAcopyS2o q k sb t s
  | .acopyA2s q k sb t => Sys2Proof.Machine.execAcopyA2s q k sb t s
  | .acopyS2a q k sb t => Sys2Proof.Machine.execAcopyS2a q k sb t s
  | .acopyA2g q k sb t => Sys2Proof.Machine.execAcopyA2g q k sb t s
  | .gather q k sb t => Sys2Proof.Machine.execGather q k sb t s
  | .scatter q k sb t => Sys2Proof.Machine.execScatter q k sb t s
  | .kick q k sb t => Sys2Proof.Machine.execKick q k sb t s
  | .qfence n k t => Sys2Proof.Machine.execQfence n k t s
  | .claim o t => Sys2Proof.Machine.execClaim o t s
  | .release o t => Sys2Proof.Machine.execRelease o t s
  | .wload k sb t => Sys2Proof.Machine.execWload k sb t s
  | .mma a r c k sb t => Sys2Proof.Machine.execMma a r c k sb t s
  | .bind a c p k sb t => Sys2Proof.Machine.execBind a c p k sb t s
  | .acczero a k t => Sys2Proof.Machine.execAcczero a k t s
  | .thmtake t => Sys2Proof.Machine.execThmtake t s
  | .thmpass t => Sys2Proof.Machine.execThmpass t s
  | .thmpassFree t => Sys2Proof.Machine.execThmpassFree t s
  | .trans k sb t => Sys2Proof.Machine.execTrans k sb t s
  | .tscaleSet k sb t => Sys2Proof.Machine.execTscaleSet k sb t s
  | .tscaleMul k sb t => Sys2Proof.Machine.execTscaleMul k sb t s
  | .tscaleMuls k sb t => Sys2Proof.Machine.execTscaleMuls k sb t s
  | .aclaim a sb t => Sys2Proof.Machine.execAclaim a sb t s
  | .afree a t => Sys2Proof.Machine.execAfree a t s
  | .tslr d i_ sb r o t => Sys2Proof.Machine.execTslr d i_ sb r o t s
  | .tslw d i_ sb r o t => Sys2Proof.Machine.execTslw d i_ sb r o t s
  | .bar l t => Sys2Proof.Machine.execBar l t s
  | .bararr l t => Sys2Proof.Machine.execBararr l t s
  | .barwait l t => Sys2Proof.Machine.execBarwait l t s
  | .bobjinit d a t => Sys2Proof.Machine.execBobjinit d a t s
  | .bobjexp d a t => Sys2Proof.Machine.execBobjexp d a t s
  | .bobjwait a t => Sys2Proof.Machine.execBobjwait a t s
  | .spawn d a t => Sys2Proof.Machine.execSpawn d a t s
  | .tend t => Sys2Proof.Machine.execTend t s
  | .epush d a t => Sys2Proof.Machine.execEpush d a t s
  | .epop d a t => Sys2Proof.Machine.execEpop d a t s
  | .efree a t => Sys2Proof.Machine.execEfree a t s
  | .admitD d a t => Sys2Proof.Machine.execAdmit d a t s
  | .tcbdone a t => Sys2Proof.Machine.execTcbdone a t s
  | .cMov d b => Sys2Proof.Machine.execCMov d b s
  | .cAdd d b => Sys2Proof.Machine.execCAdd d b s
  | .cSub d b => Sys2Proof.Machine.execCSub d b s
  | .cAnd d b => Sys2Proof.Machine.execCAnd d b s
  | .cOr d b => Sys2Proof.Machine.execCOr d b s
  | .cXor d b => Sys2Proof.Machine.execCXor d b s
  | .cShl d b => Sys2Proof.Machine.execCShl d b s
  | .cShr d b => Sys2Proof.Machine.execCShr d b s
  | .cSar d b => Sys2Proof.Machine.execCSar d b s
  | .cMul d b => Sys2Proof.Machine.execCMul d b s
  | .cMins d b => Sys2Proof.Machine.execCMins d b s
  | .cMaxs d b => Sys2Proof.Machine.execCMaxs d b s
  | .cFadd d b => Sys2Proof.Machine.execCFadd d b s
  | .cFmul d b => Sys2Proof.Machine.execCFmul d b s
  | .addi5 d i_ => Sys2Proof.Machine.execAddi5 d i_ s
  | .li5 d i_ => Sys2Proof.Machine.execLi5 d i_ s
  | .ill16 => Sys2Proof.Machine.execIll16 s
  | .ill32 => Sys2Proof.Machine.execIll32 s
  | .resultReturn c sl ln n => Sys2Proof.Machine.execResultReturn c sl ln n s
  | .storePerformed c sl ln n => Sys2Proof.Machine.execStorePerformed c sl ln n s
  | .memoPerformed c sl ln n => Sys2Proof.Machine.execMemoPerformed c sl ln n s
  | .publishComplete c sl ln n => Sys2Proof.Machine.execPublishComplete c sl ln n s
  | .refreshComplete c sl ln n => Sys2Proof.Machine.execRefreshComplete c sl ln n s
  | .snapshotUpdate c pa => Sys2Proof.Machine.execSnapshotUpdate c pa s
  | .spontaneousPlacement c pa sc => Sys2Proof.Machine.execSpontaneousPlacement c pa sc s
  | .loopEndCheck c sl ln => Sys2Proof.Machine.execLoopEndCheck c sl ln s
  | .seamWaitTimeout c sl ln => Sys2Proof.Machine.execSeamWaitTimeout c sl ln s
  | .notchPark c sl ln => Sys2Proof.Machine.execNotchPark c sl ln s
  | .ageForce c pn => Sys2Proof.Machine.execAgeForce c pn s
  | .waveSwap c act pend => Sys2Proof.Machine.execWaveSwap c act pend s
  | .pendingPromote c pn => Sys2Proof.Machine.execPendingPromote c pn s
  | .engineOperationStart blk q => Sys2Proof.Machine.execEngineOperationStart blk q s
  | .engineOperationComplete blk q => Sys2Proof.Machine.execEngineOperationComplete blk q s
  | .thimbleGrant c zero => Sys2Proof.Machine.execThimbleGrant c zero s
  | .windowEntryLeave c => Sys2Proof.Machine.execWindowEntryLeave c s
  | .arrayTakeOperation c => Sys2Proof.Machine.execArrayTakeOperation c s
  | .matrixOperationComplete c => Sys2Proof.Machine.execMatrixOperationComplete c s
  | .collectiveUnwind c sl ln => Sys2Proof.Machine.execCollectiveUnwind c sl ln s
  | .sleepExpire c sl ln => Sys2Proof.Machine.execSleepExpire c sl ln s
  | .coreFaultStop c => Sys2Proof.Machine.execCoreFaultStop c s
  | .faultResume c => Sys2Proof.Machine.execFaultResume c s
  | .faultRefuse c => Sys2Proof.Machine.execFaultRefuse c s
  | .launchRecordTake vf cls => Sys2Proof.Machine.execLaunchRecordTake vf cls s
  | .gangStart l gi place => Sys2Proof.Machine.execGangStart l gi place s
  | .spawnEntryTake l => Sys2Proof.Machine.execSpawnEntryTake l s
  | .edgeConsumerStart l e => Sys2Proof.Machine.execEdgeConsumerStart l e s
  | .edgeDrainStart l e => Sys2Proof.Machine.execEdgeDrainStart l e s
  | .tendRetire blk => Sys2Proof.Machine.execTendRetire blk s
  | .launchComplete l => Sys2Proof.Machine.execLaunchComplete l s
  | .allowanceRefill vf b => Sys2Proof.Machine.execAllowanceRefill vf b s
  | .invalidationRequest vf va len => Sys2Proof.Machine.execInvalidationRequest vf va len s
  | .invalidationComplete id => Sys2Proof.Machine.execInvalidationComplete id s
  | .sliceSwitch part => Sys2Proof.Machine.execSliceSwitch part s
  | .scrubComplete part => Sys2Proof.Machine.execScrubComplete part s
  | .boot part hdr payload key => Sys2Proof.Machine.execBoot part hdr payload key s
  | .preemptRequest gs => Sys2Proof.Machine.execPreemptRequest gs s
  | .preemptHardStop gang => Sys2Proof.Machine.execPreemptHardStop gang s
  | .contextSave gang => Sys2Proof.Machine.execContextSave gang s
  | .gangResume gang place => Sys2Proof.Machine.execGangResume gang place s
  | .haltResume l => Sys2Proof.Machine.execHaltResume l s
  | .haltAbort l => Sys2Proof.Machine.execHaltAbort l s
  | .chunkStepSelect bob => Sys2Proof.Machine.execChunkStepSelect bob s
  | .chunkArrive cm inst rank chunk data => Sys2Proof.Machine.execChunkArrive cm inst rank chunk data s
  | .spoolFetch cm => Sys2Proof.Machine.execSpoolFetch cm s
  | .bobCredit cm => Sys2Proof.Machine.execBobCredit cm s
  | .bobSend cm isSlot ix rank => Sys2Proof.Machine.execBobSend cm isSlot ix rank s
  | .bobReduce cm slot isSlot ix => Sys2Proof.Machine.execBobReduce cm slot isSlot ix s
  | .bobWrite cm slot chunk => Sys2Proof.Machine.execBobWrite cm slot chunk s
  | .bobFree cm slot => Sys2Proof.Machine.execBobFree cm slot s
  | .bobDone cm chunk => Sys2Proof.Machine.execBobDone cm chunk s
  | .instanceAbort cm cause rank => Sys2Proof.Machine.execInstanceAbort cm cause rank s
  | .partnerAbortNotice cm inst rank => Sys2Proof.Machine.execPartnerAbortNotice cm inst rank s
  | .hostWindowRead vf off len => Sys2Proof.Machine.execHostWindowRead vf off len s
  | .hostWindowWrite vf off data => Sys2Proof.Machine.execHostWindowWrite vf off data s
  | .hostCompletionTimeout req => Sys2Proof.Machine.execHostCompletionTimeout req s
  | .peerRequest peer pa op data => Sys2Proof.Machine.execPeerRequest peer pa op data s
  | .remoteResponse req data => Sys2Proof.Machine.execRemoteResponse req data s
  | .peerRequestTimeout req => Sys2Proof.Machine.execPeerRequestTimeout req s
  | .unfence peer => Sys2Proof.Machine.execUnfence peer s
  | .holdNotice peer => Sys2Proof.Machine.execHoldNotice peer s
  | .holdQuietExpire peer => Sys2Proof.Machine.execHoldQuietExpire peer s
  | .holdLimitExpire peer => Sys2Proof.Machine.execHoldLimitExpire peer s
  | .holdNoticeSend => Sys2Proof.Machine.execHoldNoticeSend s
  | .portRetrain port => Sys2Proof.Machine.execPortRetrain port s
  | .portTransferComplete vf port va data cva entry => Sys2Proof.Machine.execPortTransferComplete vf port va data cva entry s
  | .timeInputLock time => Sys2Proof.Machine.execTimeInputLock time s
  | .timeInputLoss => Sys2Proof.Machine.execTimeInputLoss s
  | .bastingIntervalTimeout gang => Sys2Proof.Machine.execBastingIntervalTimeout gang s
  | .uncorrectableError gang unit pa => Sys2Proof.Machine.execUncorrectableError gang unit pa s
  | .rollbackRequest gang => Sys2Proof.Machine.execRollbackRequest gang s
  | .correctableError unit pa fn => Sys2Proof.Machine.execCorrectableError unit pa fn s
  | .arrayRowTest c bad => Sys2Proof.Machine.execArrayRowTest c bad s
  | .krowRetire c row => Sys2Proof.Machine.execKrowRetire c row s
  | .gangWatchdog gang => Sys2Proof.Machine.execGangWatchdog gang s
  | .gaugeClear gauge => Sys2Proof.Machine.execGaugeClear gauge s
  | .samplerSample c pn => Sys2Proof.Machine.execSamplerSample c pn s
  | .registerWrite space ix off v => Sys2Proof.Machine.execRegisterWrite space ix off v s
  | .reservedOrIllegalWord => Sys2Proof.Machine.execReservedOrIllegalWord s
  | .evictionComplete range => Sys2Proof.Machine.execEvictionComplete range s
  | .partitionReassign part vf => Sys2Proof.Machine.execPartitionReassign part vf s
  | .communicatorEnClear cm => Sys2Proof.Machine.execCommunicatorEnClear cm s
  | .portRetrainComplete port => Sys2Proof.Machine.execPortRetrainComplete port s
  | .linkRetryIntervalEnd port retries => Sys2Proof.Machine.execLinkRetryIntervalEnd port retries s
  | .corePowerGate c => Sys2Proof.Machine.execCorePowerGate c s
  | .corePowerUngate c => Sys2Proof.Machine.execCorePowerUngate c s

end Sys2Proof.Machine
end

