-- ==== Sys2Proof/Machine/Run.lean ====
section
/-! DEFINITION. What a step is made of: the issue opportunity of a panel (spec/13 R263 to R265), the fetch and decoding of an instruction
(spec/02 R36, R37, R418), what follows each step, time, and what happens next where the agenda does not say (log entry 1). -/

namespace Sys2Proof.Machine

/-! ## After a step -/

/-- Whether a wave belongs to a gang whose threads all rest at a requested stop: until its resumption nothing of it can throw (spec/23
R343). -/
def State.atRest (s : State) (w : Wave) : Bool := ((s.gangOf w.blk).map (fun g => g.still)).getD false

/-- Whether a throw or trap due in a lane is taken now: at its next instruction boundary (spec/09 R170, spec/15 R281, R284). One that a copy
brings to a gang at rest is taken when the gang resumes (spec/23 R341, R343; log entry 73); one of a publish once the publish has completed
(spec/26 R381). -/
def State.dueNow (s : State) (w : Wave) (t : Thread) : Option Due :=
  match t.due with
  | none => none
  | some d =>
    match t.live, t.wait with
    | true, .thrown _ => none
    | true, .fault => none
    | true, k =>
      if s.atRest w || (k == .stopped && !s.stopped w) || t.acc.any (fun a => a.isPublish && a.pc == d.throw.xpc && a.req.isSome) then none
      else some d
    | false, _ => none
/-- The thread once it is taken. -/
def Thread.takeDue (s : State) (w : Wave) (t : Thread) : Thread :=
  match s.dueNow w t with
  | none => if t.live then t else { t with due := none }
  | some d =>
    if d.throw.cls = 10 then Thread.trap s w.regs { t with due := none, wait := .no } cSILENT d.throw.xpc
    else ({ t with due := none }.throws s d.throw.cls d.throw.code d.throw.xpc).issuedIn d.throw.step
/-- Every throw or trap that is due, with $tailrule and the flush it brings (spec/11 R236, R245). -/
def State.settleDue (s : State) : State :=
  let hit := fun (w : Wave) => w.lanes.findSome? (s.dueNow w)
  let s1 : State := { s with waves := s.waves.map (fun w =>
    let w1 : Wave := { w with lanes := w.lanes.map (Thread.takeDue s w) }
    match hit w with
    | some d => { w1 with regs := { w1.regs with tailrule := d.rule } }
    | none => w1) }
  (s.waves.filter (fun w => (hit w).isSome)).foldl (fun t w => t.flushFor w.core w.blk) s1

/-- The translations that the core of the path that has just issued holds from then on (spec/22 R324): of its instruction's page, and of the pages of its
accesses. -/
def State.settleCaches (s : State) : State :=
  match s.curWave with
  | none => s
  | some w =>
    let vf := s.vfOf w.blk
    let vas := s.cur.pc :: w.lanes.flatMap (fun t => if s.cur.lanes.elem t.lane then (t.acc.filter (fun a => a.isData && a.pc == s.cur.pc)).map (fun a => a.va) else [])
    vas.foldl (fun t va => t.holdTranslation w.core vf (va.toNat % 2 ^ 57)) s

/-- The values before an SWR are dropped wherever its result has returned (spec/04 R71). -/
def State.settleRegs (s : State) : State := { s with waves := s.waves.map (fun w => if w.regs.old.isEmpty then w else w.settleOld) }
/-- What follows every step: the values before an SWR that has returned, launch records that have become visible, requests that have reached their timeout, what is due in a thread, rollbacks, launches that are placed again, partition switches, gangs that
are over, ages. -/
def State.settleAll (s : State) : State := State.settleVisible <| State.settleRegs <| s.settleCaches.settleHolds.settleTimeouts.settleDoomed.settleStops.settleDue.settleHits.settleRolls.settleHeld.settleSwitches.settleEnds.settleWork.settleAges

/-! ## Lining before an issue -/

/-- The mismatch of an ENG or MTX word: SILENT of KIND ENGINE in every thread of the path (spec/15 R284, spec/27 R389); which lanes
differ is not given, nor how the mismatch ranks against ILLOP of an illegal word of those majors: it comes first (log entry 12). -/
def State.silentEngine (s : State) (w : Wave) : State :=
  let n := Config.freeNat s.free 7200000 % max 1 s.cur.lanes.length
  let syn : Word := BitVec.ofNat 32 (3 * 2 ^ 28 + s.cur.lanes.getD n 0 * 256 + (1 + Config.freeNat s.free 7200001 % max 1 (s.cur.lanes.length - n)))
  let s1 : State := { s with inject := s.inject.erase injEngine }
  let s2 := s1.onCur (fun v => ({ v with regs := { v.regs with silent := ⟨syn, BitVec.ofNat 32 (w.slot / 32), 0, 0, 0⟩ } } : Wave).mismatched)
  (s2.trapAll cSILENT).healthEvent 9 (s.vfOf w.blk) s.comparatorUnit 0 syn.toNat

/-- A lined wave before its path issues (spec/27 R390): the checkpoint at an ENG or MTX instruction, at a notch, or with a full log; none
where the path has to wait for it. -/
def State.lineUp (s : State) (w : Wave) (engine notch : Bool) : Option State :=
  match w.lining with
  | none => some s
  | some l =>
    if (w.lanes.filter (fun t => s.cur.lanes.elem t.lane)).any (fun t => s.linedGoes w t engine notch) then
      some (if (engine || notch || decide (256 ≤ l.log.length)) && s.canCheckpoint w then s.onCur Wave.checkpoint else s)
    else none

/-! ## Fetch, decode, execute -/

/-- The instruction bytes at an address that lie beyond the package and that the core has not fetched: the line to be fetched first (spec/02
R418). -/
def State.fetchFar (s : State) (c blk : Nat) (va : Dword) (n : Nat) : Option Nat :=
  (List.range n).findSome? (fun i =>
    match s.translate (s.vfOf blk) (va + BitVec.ofNat 64 i) false true with
    | .ok pa => if isRemote pa && (look (s.core c).icache pa).isNone then some (pa / 64 * 64) else none
    | .fail _ _ => none)

/-- A path that waits for instruction bytes from beyond the package: the request is sent once; a poisoned one throws (spec/26 R381). -/
def State.fetchRemote (s : State) (line : Nat) : State :=
  if s.outOfReach line then s.perLane false (fun _ th => .throw th 9 (poisonCode (remoteKind line).1))
  else if s.requests.any (fun q => q.kind == .fetch && q.who.core == s.cur.core && q.pa == line) then s
  else (s.send line 64 s.issuer .fetch []).1
/-- The bytes an instruction needs fetched: its own, and, of a LOOP, those of its body, whose instructions it counts (spec/03 R59): a body in memory of an absent or fenced
peer throws at the LOOP (log entry 76). -/
def codeLength (bs : List Byte) : Nat :=
  match decode bs with
  | .ok (.loop n _ _ _ _, _) => bs.length + 2 * n.toNat
  | _ => bs.length

/-- A poisoned line among instruction bytes (spec/27 R394). -/
def State.fetchPoison (s : State) (blk : Nat) (va : Dword) (n : Nat) : Option Nat :=
  if s.poisoned.isEmpty then none
  else
    (List.range n).findSome? (fun i =>
      match s.translate (s.vfOf blk) (va + BitVec.ofNat 64 i) false true with
      | .ok pa => if (look s.poisoned (pa / 64 * 64)).isSome then some (pa / 64 * 64) else none
      | .fail _ _ => none)

/-- Whether an instruction changes what lies outside its own thread at its issue, where no later throw could take it back: such an
instruction waits for the earlier accesses of its path that may still throw (spec/02 R40, log entry 75). -/
def outward (i : Instr) : Bool :=
  match i with
  | .swr .. | .seamEnrol .. | .seamWait .. | .seamLeave .. | .bar .. | .bararr .. | .barwait .. | .bobjinit .. | .bobjexp .. | .bobjwait ..
  | .tryOpen .. | .endtry .. | .admitD .. | .epop .. | .thmtake .. | .thmpass .. | .thmpassFree .. | .claim .. | .release .. | .aclaim .. | .afree ..
  | .acczero .. | .qfence .. | .tslr .. | .tslw .. | .yield .. | .pmark .. | .tflush .. | .brk .. | .uretry .. => true
  | _ => false
/-- Whether a lane of the path being issued has issued an access that may still throw. -/
def State.mayYetThrow (s : State) : Bool :=
  match s.curWave with
  | none => false
  | some w => w.lanes.any (fun t => s.cur.lanes.elem t.lane && t.acc.any (fun a => a.back.isSome))

/-- What the bytes at the program counter do: the instruction they decode to, or ILLOP (spec/02 R37, spec/03 R57). -/
def State.runBytes (s : State) (bs : List Byte) : Res :=
  match decode bs with
  | .ok (i, _) => if outward i && s.mayYetThrow then done (s.holdAll .drain) else exec i s
  | .error _ => execReservedOrIllegalWord s

/-- A lane of a lined wave passes an operation that it has issued before its re-execution (spec/27 R391): its token register, 64 for none, is pending, or has the value
that the engine gave it. -/
def State.passOp (s : State) (tack : Bool) (tok l : Nat) : State :=
  let s1 := if 63 ≤ tok then s
    else s.onCur (fun w =>
      match w.replay (LogEntry.isToken tok) with
      | some (.token _ v, w1) => { w1 with regs := w1.regs.setS tok v }
      | _ => w)
  s1.lane1 l tack
/-- What the bytes at the program counter do in a lined wave, where they are an operation of the engines or a TSLW: a lane that has issued it before its re-execution passes it;
another issues it, and the log says so (spec/27 R390, R391; log entry 25). -/
def State.runLined (s : State) (bs : List Byte) : Res :=
  let b0 := (bs.headD 0).toNat
  let w := leNat bs
  let tok := if b0 / 4 == 49 || b0 / 4 == 50 then w / 2 ^ 14 % 64 else 64
  let issue := fun (u : State) => ((u.runBytes bs).get u)
  let s1 := s.oncePath (fun u l _ => u.passOp (b0.testBit 1) tok l) issue
  let went := fun (t : Thread) => s.cur.lanes.elem t.lane && (s.effectAgain t.lane).isNone && t.pc == s.cur.pc + 4
  done (s1.onCur (fun v => (v.lanes.filter went).foldl (fun x t => x.logFor t.lane (.effect t.lane s.cur.pc 0)) v))

/-- Whether a wait leaves a thread before an instruction that has not issued (spec/13 R263): a stall, or a translation fault (spec/02
R36). -/
def Wait.stalls : Wait → Bool
  | .token _ | .queue _ | .window | .thimble _ | .drain | .lining | .fault => true
  | _ => false
/-- The more populous of two paths issued in one cycle, then the one with the lower lane (spec/28 R409). -/
def Issued.later (a : Option Issued) (b : Issued) : Issued :=
  match a with
  | some x => if x.clk = b.clk ∧ (b.lanes < x.lanes ∨ (b.lanes = x.lanes ∧ x.low < b.low)) then x else b
  | none => b
/-- What the issue of the path that stood in `cur` leaves behind, where a lane of it did issue (spec/02 R36): the wave's last issue (spec/28
R409) and its threads' (spec/27 R401), the ages of the panel's threads (spec/13 R265); a gang that issues is no longer stalled; the first issue of a launch (spec/21 R307, spec/28 R404
source 2). `s` is the state before it. -/
def State.countIssue (s : State) (w : Wave) (t : State) : State :=
  let c := s.cur.core
  let went := s.cur.lanes.filter (fun l => !((((t.wave? c s.cur.slot).bind (fun v => v.lane? l)).map (fun x => x.wait.stalls)).getD false))
  if went.isEmpty then t
  else
    let t1 := ((s.ageAfter w went t).onThreads (fun v x => v.isAt c s.cur.slot && v.blk == w.blk && went.elem x.lane) (fun x => { x with lastIssue := s.clock.wall, lastPc := s.cur.pc })).onCore
      c (fun k => { k with issued := insertAt k.issued s.cur.slot (Issued.later (look k.issued s.cur.slot)
        ⟨s.clockOf c, s.cur.pc, s.cur.lanes.length, s.cur.lanes.headD 0⟩) })
    match s.gangOf w.blk with
    | none => t1
    | some g =>
      let t2 := if g.reported then t1.onGang g.id (fun k => { k with reported := false }) else t1
      match t2.launch? g.launch with
      | none => t2
      | some l =>
        if l.tstart.isSome then t2
        else (t2.gauge 2 l.prog.lrec.cls (some l.vf) (s.clock.wall - l.visibleAt)).onLaunch l.id (fun y => { y with tstart := some s.clock.now })
/-- The same of an outcome. -/
def State.counted (s : State) (w : Wave) (r : Res) : Res :=
  match r with
  | .next t => .next (s.countIssue w t)
  | .fault f => .fault f
  | .refused f => .refused f

/-- THE PATH STANDING IN `cur` ISSUES: its bytes are fetched, and their instruction executed (spec/02 R36, spec/13 R264). -/
def State.issueCur (s : State) : Res :=
  match s.curWave with
  | none => done s
  | some w =>
    match s.fetchBytes w.core w.blk s.cur.pc with
    | (.noncanonical, _) => done (s.trapAll cFAULT)
    | (.lease, _) => done (s.perLane false (fun _ th => .throw th 8 0))
    | (.stop k l, _) => done ((s.holdAll .fault).faultOn k l s.cur.pc false true w.blk s.issuer)
    | (.ok _ _, bs) =>
      match s.fetchFar w.core w.blk s.cur.pc (codeLength bs) with
      | some line => done (s.fetchRemote line)
      | none =>
        match s.fetchPoison w.blk s.cur.pc bs.length with
        | some line => done (s.consume w.blk line)
        | none =>
          match s.lineUp w (isEngineWord bs) (w.lanes.any (fun t => s.cur.lanes.elem t.lane && (s.atNotch w t).isSome)) with
          | none => done (s.holdAll .lining)
          | some s1 =>
            let s2 : State := { s1 with cur := { s1.cur with len := bs.length } }
            if isEngineWord bs && w.lining.isSome && s2.inject.elem injEngine then done (s2.countIssue w (s2.silentEngine w))
            else s2.counted w (if w.lining.isSome && (isEngineWord bs || (bs.headD 0).toNat / 4 == 52) then s2.runLined bs else s2.runBytes bs)

/-- A path of a wave put in `cur`, of those of its lanes that can still issue; a wait that is over is left. -/
def State.take (s : State) (x : Issue) : State :=
  let ok := match s.wave? x.core x.slot with
    | some w => (w.lanes.filter (fun t => x.lanes.elem t.lane && t.pc == x.pc && t.live && s.waitOver w t && !t.endChk)).map (fun t => t.lane)
    | none => []
  let s1 : State := { s with cur := { x with lanes := ok }, second := none }
  s1.onThreads s1.isCur (fun t => { t with wait := .no })
/-- A path issues, if any lane of it can. -/
def State.issue (s : State) (x : Issue) : Res :=
  let s1 := s.take x
  if s1.cur.lanes.isEmpty then done s1 else s1.issueCur

/-! ## An issue opportunity -/

/-- The order in which the model takes the two paths of one cycle: where one of them is at an ENG or MTX instruction, the one with the lower
lowest lane first (spec/09 R167, spec/11 R236), else either (spec/01 R26, log entry 1). -/
def State.inTurn (s : State) (w : Wave) (ps : List Path) : List Path :=
  let turned := match ps with
    | [p, q] => if s.engineAt w p.pc || s.engineAt w q.pc then decide (q.lanes.headD 32 < p.lanes.headD 32) else s.freeBit 6600000
    | _ => false
  if turned then ps.reverse else ps

/-- The wave that a panel issues from, where one is chosen, and the lane that is forced (R265). -/
def State.issueWave (s : State) (c pn slot : Nat) : Option (Wave × Option Nat) :=
  match s.forced c pn with
  | some (w, t) => some (w, some t.lane)
  | none =>
    match s.wave? c slot with
    | some w => if w.slot / 32 = pn ∧ w.active = true then some (w, none) else none
    | none => none

/-- AN ISSUE OPPORTUNITY OF A PANEL (R264, R265): the two paths of the wave chosen issue in one cycle, one step after another. The window's
overdue entry leaves first (spec/11 R229), the end checks that are due are done, a forced thread's wave comes in, then emptied active slots are taken
(R319). Where neither path can issue yet, nothing more happens. -/
def State.opportunity (s0 : State) (c pn slot : Nat) : Res :=
  let s := (((s0.overdue c).endChecks c pn).forceIn c pn).promoteAll c pn 8
  match s.issueWave c pn slot with
  | none => done s
  | some (w, forced) =>
    match s.inTurn w (twoPaths (pathsOf (s.readyLanes w)) forced) with
    | [] => done s
    | p :: rest =>
      let path := fun (q : Path) (counted : Bool) => ({ core := c, slot := w.slot, pc := q.pc, len := 4, lanes := q.lanes, counted := counted } : Issue)
      if !(s.canIssue w ((p :: rest).flatMap (fun q => q.lanes))) then done s
      else
        match s.issue (path p false), rest with
        | .next t, q :: _ => .next { t with second := some (path q t.cur.counted) }
        | r, _ => r

/-- Whether a panel has issued in this cycle of its core: it issues once in each (R264). -/
def State.hasIssued (s : State) (c pn : Nat) : Bool := (s.core c).issued.any (fun p => p.1 / 32 == pn && p.2.clk == s.clockOf c)

/-! ## Time -/

/-- The 1588 count after some nanoseconds (spec/26 R387). -/
def Clock.after (k : Clock) (ns : Nat) : Clock :=
  let k1 : Clock := { k with wall := k.wall + ns }
  if !k.lock then { k1 with now := k.now + ns }
  else
    let gap := k.now - k.input
    if ns < 2 * gap then { k1 with now := k.now + (k.half + ns) / 2, half := (k.half + ns) % 2, input := k.input + ns }
    else { k1 with now := max k.now (k.input + ns), input := k.input + ns, half := 0 }

/-- How much longer a peer stays held, with no further notice (spec/26 R383). -/
def State.holdLeft (s : State) (p : Nat) : Nat :=
  if s.peerState p ≠ 2 then 0
  else
    match s.hold? p with
    | some h => min (h.last + 2000000) (h.began + 30000000000) - s.clock.wall
    | none => 0
/-- Time passes: the cycles of the cores' clocks, with the samples that fall in them (spec/28 R408), nanoseconds. What is held does not age: requests to a held peer (spec/26 R380), the stall
of a gang whose watchdog pauses (spec/27 R401). -/
def State.advanceTime (s0 : State) (cycles ns : Nat) : State :=
  let s := s0.sampling.foldl (fun t c => t.endCycles c (({ s0 with cycles := s0.cycles + cycles } : State).clockOf c)) s0
  let paused := (s.gangs.filter (fun g => s.watchPaused g.2)).map (fun g => g.1)
  let s1 : State := { s with
    cycles := s.cycles + cycles
    clock := s.clock.after ns
    requests := s.requests.map (fun q => if q.region = 2 then { q with heldNs := q.heldNs + min ns (s.holdLeft q.peer) } else q) }
  let s1 := s1.refillsSince s.clock.now
  let later := fun (t : Thread) => { t with lastIssue := t.lastIssue + ns }
  let s2 : State := { s1 with images := s1.images.map (fun m => if s.watchPaused m.2.gang then (m.1, { m.2 with blocks := m.2.blocks.map (fun b =>
    { b with waves := b.waves.map (fun w => { w with lanes := w.lanes.map later }) }) }) else m) }
  let s3 := if paused.isEmpty then s2 else s2.onThreads (fun w _ => paused.any (fun g => s2.inGang g w)) later
  if cycles = 0 then s3 else s3.sampling.foldl State.beginCycle s3

/-! ## What happens next where the agenda is empty -/

/-- What a thread may do next by itself. -/
def threadChoices (w : Wave) (t : Thread) : List (State → Res) :=
  if !t.live then []
  else
    let c := w.core
    let sl := w.slot
    let l := t.lane
    (if t.endChk then [execLoopEndCheck c sl l] else []) ++
    (match t.wait with
     | .thrown _ => [execCollectiveUnwind c sl l]
     | .sleep _ _ _ => [execSleepExpire c sl l]
     | .seam _ _ _ => [execSeamWaitTimeout c sl l]
     | _ => [execNotchPark c sl l]) ++
    (match t.acc with
     | [] => []
     | a :: _ =>
       if a.isPublish then [execPublishComplete c sl l 0]
       else if a.isRefresh then [execRefreshComplete c sl l 0]
       else [execResultReturn c sl l 0, execStorePerformed c sl l 0, execMemoPerformed c sl l 0])

/-- What the engines of a block and of a core may do next. -/
def engineChoices (s : State) : List (State → Res) :=
  s.blocks.flatMap (fun b => (List.range 5).flatMap (fun q =>
    if (b.2.queues.getD q []).isEmpty then [] else [execEngineOperationStart b.1 q, execEngineOperationComplete b.1 q])) ++
  s.cores.flatMap (fun k => [execWindowEntryLeave k.1, execArrayTakeOperation k.1, execMatrixOperationComplete k.1, execThimbleGrant k.1 true,
    execThimbleGrant k.1 false, execCoreFaultStop k.1, execArrayRowTest k.1 []] ++ k.2.rowsDue.map (fun r => execKrowRetire k.1 r))

/-- What the panels may do next: an issue, a swap, a promotion. -/
def panelChoices (s : State) : List (State → Res) :=
  s.waves.flatMap (fun w =>
    (if w.active && !s.hasIssued w.core (w.slot / 32) && w.lanes.any (fun t => s.canIssue w [t.lane]) then [fun (t : State) => t.opportunity w.core (w.slot / 32) w.slot] else []) ++
    [execAgeForce w.core (w.slot / 32), execPendingPromote w.core (w.slot / 32)] ++
    (match s.nextPending w.core (w.slot / 32) false with
     | some p => [execWaveSwap w.core w.slot p.slot]
     | none => []))

/-- What the dispatcher may do next. -/
def dispatchChoices (s : State) : List (State → Res) :=
  s.blocks.map (fun b => execTendRetire b.1) ++
  s.launches.flatMap (fun l =>
    [execLaunchComplete l.1] ++
    (match if l.2.toStart then s.findPlaces l.2 else none with
     | some place => [execGangStart l.1 l.2.started place]
     | none => []) ++
    [execSpawnEntryTake l.1] ++ (List.range l.2.edgeVas.length).flatMap (fun e => [execEdgeConsumerStart l.1 e, execEdgeDrainStart l.1 e])) ++
  s.gangs.flatMap (fun g => if g.2.stop then [execContextSave g.1, execPreemptHardStop g.1] else [execBastingIntervalTimeout g.1]) ++
  s.images.flatMap (fun m =>
    match s.resumePlace m.2 with
    | some place => [execGangResume m.1 place]
    | none => []) ++
  s.residents.map (fun r => execEvictionComplete r.id) ++
  s.partitions.flatMap (fun p => [execSliceSwitch p.1, execScrubComplete p.1]) ++
  s.comms.flatMap (fun c => [execSpoolFetch c.1, execChunkStepSelect c.2.home]) ++
  ((List.range 256).filter (fun vf => (s.vfWord vf 92).testBit 0)).flatMap (fun vf => (List.range 8).map (fun cls => execLaunchRecordTake vf cls))

/-- What the panels' samplers may do next: write the records they have taken (spec/28 R412). -/
def samplerChoices (s : State) : List (State → Res) :=
  s.cores.flatMap (fun k => if k.2.unwritten.isEmpty then [] else (List.range 4).map (execSamplerSample k.1))

/-- The first of some choices that changes the state. -/
def firstChange (s : State) : List (State → Res) → Option State
  | [] => none
  | f :: rest =>
    let t := Res.get (f s) s
    if t = s then firstChange s rest else some t

/-- What happens where the agenda says nothing (log entry 1): the first that can, of the threads' own steps, the engines, the samplers, the panels,
the dispatcher; else a cycle passes. -/
def State.onItsOwn (s : State) : State :=
  match firstChange s (s.waves.flatMap (fun w => w.lanes.flatMap (threadChoices w)) ++ engineChoices s ++ samplerChoices s ++ panelChoices s ++ dispatchChoices s) with
  | some t => t
  | none => s.advanceTime 1 1

/-! ## A step -/

/-- Whether an entry of the agenda is a step of the device, not an instruction of a program. -/
def isStep (i : Instr) : Bool :=
  match i with
  | .reservedOrIllegalWord => false
  | _ => (encode i).isNone

/-- What the head of the agenda does. The opportunity of a panel that has issued in this cycle is in the next. -/
def State.choose (s : State) : Res :=
  match s.agenda with
  | [] => done s.onItsOwn
  | .issue c pn slot :: rest =>
    let s1 : State := { s with agenda := rest }
    (if s.hasIssued c pn then s1.advanceTime 1 1 else s1).opportunity c pn slot
  | .event i :: rest => if isStep i then exec i { s with agenda := rest } else done { s with agenda := rest }
  | .advance cycles ns :: rest => done (State.advanceTime { s with agenda := rest } cycles ns)

/-- One step: the second path of the cycle's issue, or the head of the agenda; then what follows. Each step draws its free values under a
number of its own (log entry 3). -/
def State.step1 (s0 : State) : Res :=
  let s : State := { s0 with free := s0.free + 1 }
  match (match s.second with
    | some x => s.issue x
    | none => s.choose) with
  | .next t => .next t.settleAll
  | r => r

end Sys2Proof.Machine
end

