-- ==== Sys2Proof/Machine/Place.lean ====
section
/-! DEFINITION. A program loaded from outside the machine (log entry 13): the page tables, the launch, the gang, the block and the one wave
that a host's launch record and a boot would have left, with an instruction at the wave's program counter. -/

namespace Sys2Proof.Machine

/-- Where the placed instruction stands: index 1 at level 3 and at level 2 of the tables, offset 0x3000 of the page. -/
def placeVa : Dword := 0x8040003000#64
/-- The physical address it lies at. -/
def placePa : Nat := 0x3000

/-- The tables of the placed process (spec/22 R321, R322): one table for each of the levels 4, 3 and 2, at 0, 0x1000 and 0x2000; the leaf
maps 2^30 bytes at physical address 0 with READ, WRITE and EXEC. -/
def placeTables (m : List Host.Cell) : List Host.Cell :=
  let m1 := writeMem (writeMem m 0 0x01#8) 1 0x10#8
  let m2 := writeMem (writeMem m1 0x1008 0x01#8) 0x1009 0x20#8
  writeMem m2 0x2008 0x1F#8

/-- Bytes written one after another. -/
def placeBytes (m : List Host.Cell) (pa : Nat) : List Byte → List Host.Cell
  | [] => m
  | b :: rest => placeBytes (writeMem m pa b) (pa + 1) rest

/-- The launch record of the placed program: 128 registers, class 7, a block of one wave of one lane in a launch of one block. -/
def placeRec : LaunchRec :=
  { LaunchRec.zero with entry := placeVa, g := 128, l := 2, cls := 7, tail := 1, levels := [BitVec.ofNat 32 (2 ^ 16 + 16), BitVec.ofNat 32 (2 ^ 16 + 17)] }

/-- The program: its record and one leased range over the mapped page, with WRITE and EXEC (spec/22 R327). -/
def placeProg : Prog :=
  { va := 0, lrec := placeRec, params := [], banks := [], cbytes := [], notches := [], rules := [], ranges := [⟨0x8040000000, 2 ^ 30, 3⟩] }

/-- The launch, running, its lease granted. -/
def placeLaunch : Launch :=
  { id := 0, vf := 0, part := 0, prog := placeProg, templates := [], edgeVas := [], coll := none, status := 1, started := 1, live := 1,
    consumers := [], halted := false, held := [], aborting := none, visibleAt := 0, fired := [], waitAbort := none, used := [0],
    pubReq := none, tstart := none, leased := true, tleased := [], spawned := [], due := [] }

/-- Its one gang. -/
def placeGang : Gang :=
  { id := 1, launch := 0, part := 0, tmpl := 0, index := 0, args := [], edge := none, taskRec := 0, stop := false, stopAt := 0, tries := 0, total := 0,
    interval := 0, openedAt := 0, openStamp := 0, overlay := [], log := [], restart := false, reported := false, hard := false,
    baste := false, rolling := false, still := false, hit := none }

/-- Its one block, on core 0, and the block's one wave, active in slot 0 with lane 0 live. -/
def placeBlock : Block := { startBlock 2 1 0 0 placeRec false with sbase := 2 ^ 40 }
def placeWave : Wave := { startWave placeProg 0 0 0 [] with blk := 2, active := true }

/-- The state with an instruction's bytes loaded where the next step fetches (log entry 13): the loaded program is the only work, core 0 as
reset leaves it, and panel 0 of core 0 issues next. -/
def State.place (s : State) (bytes : List Byte) : State :=
  { s with
    waves := [placeWave]
    blocks := [(2, placeBlock)]
    gangs := [(1, placeGang)]
    launches := [(0, placeLaunch)]
    cores := insertAt s.cores 0 Core.reset
    bars := []
    mem := placeBytes (placeTables s.mem) placePa bytes
    poisoned := []
    tlb := []
    images := []
    residents := [⟨3, 0, ⟨0x8040000000, 2 ^ 30, 3⟩, 1, 0, false, false⟩]
    partitions := insertAt s.partitions 0 { Partition.reset 0 with vf := 0, booted := true }
    mon := { s.mon with regs := setD (setD s.mon.regs 0 (regKey 2 0 8) 0) 0 (regKey 2 0 12) 0 }
    ids := s.ids + 4
    agenda := [.issue 0 0 0]
    second := none }

end Sys2Proof.Machine
end

