-- ==== Sys2Proof/Machine/Step.lean ====
section
/-! DEFINITION. The step of the machine, and the placing of an instruction where the next step fetches it. -/

namespace Sys2Proof.Machine

/-- ONE STEP of the device: what acts next acts (Run.lean). -/
def step (s : State) : Host.Outcome State Fault Refusal := s.step1

/-- The state in which the next step fetches and runs the instruction whose bits are `w`: `nbits` of them, and zeros up to the longest
instruction, four bytes (spec/02 R36, R37). -/
def State.withFetchWord (s : State) (nbits w : Nat) : State := s.place (leBytes 4 (w % 2 ^ nbits))

end Sys2Proof.Machine
end

