-- ==== Sys2Proof/Safety.lean ====
section
/-! DEFINITION. What counts as a safe run, and the terms claims use: the threads of a path, what a completed instruction leaves, and, for
the register instructions, their results written over again from the rules of the spec, as exact integers. -/

namespace Sys2Proof.Machine

/-- Memory is in its canonical form: what every step keeps. -/
def State.Inv (s : State) : Prop := memWf s.mem = true

/-- A wave with its lanes in ascending order, now and at its lining checkpoint. -/
def Wave.ordered (w : Wave) : Prop :=
  w.lanes.Pairwise (fun x y => x.lane < y.lane) ∧ ∀ l, w.lining = some l → l.ckLanes.Pairwise (fun x y => x.lane < y.lane)

/-- An image whose waves and scratchpads are in order, and whose gang holds no write that comes after a place. -/
def Image.ordered (m : Image) (stamp : Nat) : Prop :=
  (∀ q ∈ m.gang.overlay, q.2.stamp ≤ stamp) ∧
  ∀ b ∈ m.blocks, canonical (0 : Byte) b.block.pad = true ∧ ∀ w ∈ b.waves, w.ordered

/-- The order of the rest of the state, which every step keeps: no write has a place beyond the last given out; keyed lists rise; lanes are in
ascending order; scratchpads are in canonical form. -/
structure State.Ordered (s : State) : Prop where
  stamps : ∀ x, getD s.stamps 0 x ≤ s.stamp
  overlays : ∀ p ∈ s.gangs, ∀ q ∈ p.2.overlay, q.2.stamp ≤ s.stamp
  views : ∀ c ∈ s.cores, ∀ q ∈ c.2.writes, ∀ n, q.2.stamp = some n → n ≤ s.stamp
  keys : risingFrom 0 s.launches = true ∧ risingFrom 0 s.gangs = true ∧ risingFrom 0 s.images = true ∧ risingFrom 0 s.comms = true ∧
    risingFrom 0 s.retraining = true ∧ risingFrom 0 s.mon.regs = true
  waves : ∀ w ∈ s.waves, w.ordered
  pads : ∀ p ∈ s.blocks, canonical (0 : Byte) p.2.pad = true
  images : ∀ p ∈ s.images, p.2.ordered s.stamp
  restarts : ∀ p ∈ s.restarts, p.2.ordered s.stamp

/-- A thread of the path being issued, with its wave. -/
structure State.OnPath (s : State) (w : Wave) (th : Thread) : Prop where
  wave : s.curWave = some w
  lane : w.lane? th.lane = some th
  path : th.lane ∈ s.cur.lanes

/-- Registers below the declared count (spec/01 R18). -/
def State.regsOk (s : State) (rs : List Nat) : Prop := ∀ r ∈ rs, s.regOk r = true

/-- A thread after an instruction of `len` bytes has completed in it: it stands behind the instruction, the end check is due where that is
the end of an active level (spec/07 R133); with a tack it parks until its results are written, which they are where no load or atomic is
outstanding (spec/02 R38). -/
def Thread.after (t : Thread) (len : Nat) (tack : Bool) : Thread :=
  { t with
    pc := t.pc + BitVec.ofNat 64 len
    endChk := t.loops.any (fun l => l.fin == t.pc + BitVec.ofNat 64 len)
    marks := if tack && !t.outstanding then [] else t.marks
    wait := if tack && t.outstanding then .tack else t.wait }

/-- A thread whose `$iflags` has become `v` by an instruction that raised the conditions `fl` (none: it stays), a result until the next park
(spec/02 R38). -/
def Thread.withIflags (t : Thread) (v fl : Word) : Thread :=
  if fl = 0 then t else { t with iflags := v, marks := (4096 + 0x070) :: t.marks }
/-- The same of `$fflags`. -/
def Thread.withFflags (t : Thread) (v fl : Word) : Thread :=
  if fl = 0 then t else { t with fflags := v, marks := (4096 + 0x072) :: t.marks }

/-- A wave that is not re-executing from a lining checkpoint: nothing of its log is left to be used (spec/27 R391). -/
def Wave.fresh (w : Wave) : Prop := ∀ l, w.lining = some l → l.replay = []

/-- A wave whose stores its comparators pass (spec/27 R389): not lined, or no mismatch injected and not re-executing. -/
def State.Agrees (s : State) (w : Wave) : Prop := w.lining = none ∨ s.inject = [] ∧ w.fresh

/-- Every byte of memory reads as before. -/
def State.sameMemory (s s' : State) : Prop := ∀ pa, readMem s'.mem pa = readMem s.mem pa

/-- Nothing is different but lanes of one wave (its `$tailrule` and the values an SWR keeps besides), and the rewrite window of its core,
which an exception flushes. -/
structure State.OnlyLanes (s s' : State) (w : Wave) (lanes : List Nat) : Prop where
  others : ∀ c sl, w.isAt c sl = false → s'.wave? c sl = s.wave? c sl
  rest : ∀ l, l ∉ lanes → s'.lane? w.core w.slot l = s.lane? w.core w.slot l
  wave : ∃ w', s'.wave? w.core w.slot = some w' ∧
    { w' with lanes := w.lanes, regs := { w'.regs with tailrule := w.regs.tailrule, old := w.regs.old } } = w
  cores : ∀ c, { s'.core c with window := (s.core c).window } = s.core c
  state : { s' with waves := s.waves, cores := s.cores } = s

/-- Nothing is different but lanes of one wave, its `$tailrule` and the values an SWR keeps, and, of the cores, the rewrite window and the
faults that accesses raised. -/
structure State.OnlyIssues (s s' : State) (w : Wave) (lanes : Nat → Prop) : Prop where
  others : ∀ c sl, w.isAt c sl = false → s'.wave? c sl = s.wave? c sl
  rest : ∀ l, ¬ lanes l → s'.lane? w.core w.slot l = s.lane? w.core w.slot l
  wave : ∃ w', s'.wave? w.core w.slot = some w' ∧
    { w' with lanes := w.lanes, regs := { w'.regs with tailrule := w.regs.tailrule, old := w.regs.old } } = w
  cores : ∀ c, { s'.core c with window := (s.core c).window, faults := (s.core c).faults } = s.core c
  state : { s' with waves := s.waves, cores := s.cores } = s

/-- No token is pending on s registers (spec/02 R41). -/
def Wave.sReady (w : Wave) (rs : List Nat) : Prop := ∀ r ∈ rs, r = 63 ∨ w.regs.tok.testBit r = false

/-- A thread that a taken transfer leaves at a target (spec/07 R128, R134), parked as `Thread.after` says where there is a tack. -/
def Thread.arriveAt (t : Thread) (target : Dword) (tack : Bool) : Thread :=
  { t with
    pc := target
    loops := keptLevels t.loops target
    endChk := false
    marks := if tack && !t.outstanding then [] else t.marks
    wait := if tack && t.outstanding then .tack else t.wait }

end Sys2Proof.Machine

/-! ## Results from the rules -/

namespace Sys2Proof.Claims
open Sys2Proof.Machine

/-- The low 32 bits of an exact integer: bits(x, 31, 0). -/
def low (x : Int) : Word := BitVec.ofInt 32 x
/-- Bits 63:32 of an exact integer. -/
def high (x : Int) : Word := BitVec.ofInt 32 (x / 2 ^ 32)
/-- The sum of 2^i over the bits that a test names. -/
def word (f : Nat → Bool) : Word := BitVec.ofNat 32 (((List.range 32).map (fun i => if f i then 2 ^ i else 0)).sum)
/-- The field of R90: its offset and its effective width. -/
def off (b : Word) : Nat := b.toNat % 32
def wid (b : Word) : Nat := min (min (b.toNat / 256 % 64) 32) (32 - off b)

/-- The rows of R87 to R91 and R105 with two sources, and the 16-bit forms of R102: destination, sources, tack, result. -/
inductive IntTwo : Instr → Reg → Reg → Reg → Bool → (Word → Word → Word) → Prop where
  | add (d : Reg) (a : Reg) (b : Reg) (t : Bool) : IntTwo (.add d a b t) d a b t (fun x y => low (x.toNat + y.toNat))
  | sub (d : Reg) (a : Reg) (b : Reg) (t : Bool) : IntTwo (.sub d a b t) d a b t (fun x y => low (x.toNat - y.toNat))
  | and (d : Reg) (a : Reg) (b : Reg) (t : Bool) : IntTwo (.and d a b t) d a b t (fun x y => word (fun i => x.toNat.testBit i && y.toNat.testBit i))
  | or (d : Reg) (a : Reg) (b : Reg) (t : Bool) : IntTwo (.or d a b t) d a b t (fun x y => word (fun i => x.toNat.testBit i || y.toNat.testBit i))
  | xor (d : Reg) (a : Reg) (b : Reg) (t : Bool) : IntTwo (.xor d a b t) d a b t (fun x y => word (fun i => x.toNat.testBit i != y.toNat.testBit i))
  | andn (d : Reg) (a : Reg) (b : Reg) (t : Bool) : IntTwo (.andn d a b t) d a b t (fun x y => word (fun i => x.toNat.testBit i && !y.toNat.testBit i))
  | mul (d : Reg) (a : Reg) (b : Reg) (t : Bool) : IntTwo (.mul d a b t) d a b t (fun x y => low (x.toNat * y.toNat))
  | mulhs (d : Reg) (a : Reg) (b : Reg) (t : Bool) : IntTwo (.mulhs d a b t) d a b t (fun x y => high (x.toInt * y.toInt))
  | mulhu (d : Reg) (a : Reg) (b : Reg) (t : Bool) : IntTwo (.mulhu d a b t) d a b t (fun x y => high (x.toNat * y.toNat))
  | mulhsu (d : Reg) (a : Reg) (b : Reg) (t : Bool) : IntTwo (.mulhsu d a b t) d a b t (fun x y => high (x.toInt * y.toNat))
  | mins (d : Reg) (a : Reg) (b : Reg) (t : Bool) : IntTwo (.mins d a b t) d a b t (fun x y => low (min x.toInt y.toInt))
  | maxs (d : Reg) (a : Reg) (b : Reg) (t : Bool) : IntTwo (.maxs d a b t) d a b t (fun x y => low (max x.toInt y.toInt))
  | minu (d : Reg) (a : Reg) (b : Reg) (t : Bool) : IntTwo (.minu d a b t) d a b t (fun x y => low (min x.toNat y.toNat))
  | maxu (d : Reg) (a : Reg) (b : Reg) (t : Bool) : IntTwo (.maxu d a b t) d a b t (fun x y => low (max x.toNat y.toNat))
  | shl (d : Reg) (a : Reg) (b : Reg) (t : Bool) : IntTwo (.shl d a b t) d a b t (fun x y => low (x.toNat * 2 ^ (y.toNat % 32)))
  | shr (d : Reg) (a : Reg) (b : Reg) (t : Bool) : IntTwo (.shr d a b t) d a b t (fun x y => low (x.toNat / 2 ^ (y.toNat % 32)))
  | sar (d : Reg) (a : Reg) (b : Reg) (t : Bool) : IntTwo (.sar d a b t) d a b t (fun x y => low (x.toInt / 2 ^ (y.toNat % 32)))
  | rol (d : Reg) (a : Reg) (b : Reg) (t : Bool) : IntTwo (.rol d a b t) d a b t (fun x y => low (x.toNat * 2 ^ (y.toNat % 32) + x.toNat / 2 ^ (32 - y.toNat % 32)))
  | ror (d : Reg) (a : Reg) (b : Reg) (t : Bool) : IntTwo (.ror d a b t) d a b t (fun x y => low (x.toNat / 2 ^ (y.toNat % 32) + x.toNat * 2 ^ (32 - y.toNat % 32)))
  | bfxn (d : Reg) (a : Reg) (b : Reg) (t : Bool) : IntTwo (.bfxn d a b t) d a b t (fun x y => low (x.toNat / 2 ^ off y % 2 ^ wid y))
  | bfxs (d : Reg) (a : Reg) (b : Reg) (t : Bool) : IntTwo (.bfxs d a b t) d a b t (fun x y =>
      let v : Int := x.toNat / 2 ^ off y % 2 ^ wid y
      low (if wid y = 0 then 0 else if 2 ^ (wid y - 1) ≤ v then v - 2 ^ wid y else v))
  | fcps (d : Reg) (a : Reg) (b : Reg) (t : Bool) : IntTwo (.fcps d a b t) d a b t (fun x y => word (fun i => if i = 31 then y.toNat.testBit i else x.toNat.testBit i))
  | cAdd (d : BitVec 6) (b : BitVec 5) : IntTwo (.cAdd d b) (d.setWidth 7) (d.setWidth 7) (b.setWidth 7) false (fun x y => low (x.toNat + y.toNat))
  | cSub (d : BitVec 6) (b : BitVec 5) : IntTwo (.cSub d b) (d.setWidth 7) (d.setWidth 7) (b.setWidth 7) false (fun x y => low (x.toNat - y.toNat))
  | cAnd (d : BitVec 6) (b : BitVec 5) : IntTwo (.cAnd d b) (d.setWidth 7) (d.setWidth 7) (b.setWidth 7) false (fun x y => word (fun i => x.toNat.testBit i && y.toNat.testBit i))
  | cOr (d : BitVec 6) (b : BitVec 5) : IntTwo (.cOr d b) (d.setWidth 7) (d.setWidth 7) (b.setWidth 7) false (fun x y => word (fun i => x.toNat.testBit i || y.toNat.testBit i))
  | cXor (d : BitVec 6) (b : BitVec 5) : IntTwo (.cXor d b) (d.setWidth 7) (d.setWidth 7) (b.setWidth 7) false (fun x y => word (fun i => x.toNat.testBit i != y.toNat.testBit i))
  | cShl (d : BitVec 6) (b : BitVec 5) : IntTwo (.cShl d b) (d.setWidth 7) (d.setWidth 7) (b.setWidth 7) false (fun x y => low (x.toNat * 2 ^ (y.toNat % 32)))
  | cShr (d : BitVec 6) (b : BitVec 5) : IntTwo (.cShr d b) (d.setWidth 7) (d.setWidth 7) (b.setWidth 7) false (fun x y => low (x.toNat / 2 ^ (y.toNat % 32)))
  | cSar (d : BitVec 6) (b : BitVec 5) : IntTwo (.cSar d b) (d.setWidth 7) (d.setWidth 7) (b.setWidth 7) false (fun x y => low (x.toInt / 2 ^ (y.toNat % 32)))
  | cMul (d : BitVec 6) (b : BitVec 5) : IntTwo (.cMul d b) (d.setWidth 7) (d.setWidth 7) (b.setWidth 7) false (fun x y => low (x.toNat * y.toNat))
  | cMins (d : BitVec 6) (b : BitVec 5) : IntTwo (.cMins d b) (d.setWidth 7) (d.setWidth 7) (b.setWidth 7) false (fun x y => low (min x.toInt y.toInt))
  | cMaxs (d : BitVec 6) (b : BitVec 5) : IntTwo (.cMaxs d b) (d.setWidth 7) (d.setWidth 7) (b.setWidth 7) false (fun x y => low (max x.toInt y.toInt))

/-- The rows with one source, R91, R95, R96, R98 (LIH), R102: destination, source, tack, result. The immediates are sign-extended. -/
inductive IntOne : Instr → Reg → Reg → Bool → (Word → Word) → Prop where
  | bmsk (d : Reg) (b : Reg) (t : Bool) : IntOne (.bmsk d b t) d b t (fun y => low ((2 ^ wid y - 1) * 2 ^ off y))
  | clz (d : Reg) (a : Reg) (t : Bool) : IntOne (.clz d a t) d a t (fun x => low (if x.toNat = 0 then 32 else 31 - Nat.log2 x.toNat))
  | ctz (d : Reg) (a : Reg) (t : Bool) : IntOne (.ctz d a t) d a t (fun x => low (((List.range 32).takeWhile (fun i => !x.toNat.testBit i)).length))
  | popc (d : Reg) (a : Reg) (t : Bool) : IntOne (.popc d a t) d a t (fun x => low (((List.range 32).filter (fun i => x.toNat.testBit i)).length))
  | brev (d : Reg) (a : Reg) (t : Bool) : IntOne (.brev d a t) d a t (fun x => word (fun i => x.toNat.testBit (31 - i)))
  | addi (d : Reg) (a : Reg) (i : BitVec 10) (t : Bool) : IntOne (.addi d a i t) d a t (fun x => low (x.toNat + i.toInt))
  | andi (d : Reg) (a : Reg) (i : BitVec 10) (t : Bool) : IntOne (.andi d a i t) d a t (fun x => word (fun k => x.toNat.testBit k && (low i.toInt).toNat.testBit k))
  | ori (d : Reg) (a : Reg) (i : BitVec 10) (t : Bool) : IntOne (.ori d a i t) d a t (fun x => word (fun k => x.toNat.testBit k || (low i.toInt).toNat.testBit k))
  | xori (d : Reg) (a : Reg) (i : BitVec 10) (t : Bool) : IntOne (.xori d a i t) d a t (fun x => word (fun k => x.toNat.testBit k != (low i.toInt).toNat.testBit k))
  | shfiShl (d : Reg) (a : Reg) (n : BitVec 5) (t : Bool) : IntOne (.shfiShl d a n t) d a t (fun x => low (x.toNat * 2 ^ n.toNat))
  | shfiShr (d : Reg) (a : Reg) (n : BitVec 5) (t : Bool) : IntOne (.shfiShr d a n t) d a t (fun x => low (x.toNat / 2 ^ n.toNat))
  | shfiSar (d : Reg) (a : Reg) (n : BitVec 5) (t : Bool) : IntOne (.shfiSar d a n t) d a t (fun x => low (x.toInt / 2 ^ n.toNat))
  | shfiRol (d : Reg) (a : Reg) (n : BitVec 5) (t : Bool) : IntOne (.shfiRol d a n t) d a t (fun x => low (x.toNat * 2 ^ n.toNat + x.toNat / 2 ^ (32 - n.toNat)))
  | shfiRor (d : Reg) (a : Reg) (n : BitVec 5) (t : Bool) : IntOne (.shfiRor d a n t) d a t (fun x => low (x.toNat / 2 ^ n.toNat + x.toNat * 2 ^ (32 - n.toNat)))
  | lih (d : Reg) (i : BitVec 15) (t : Bool) : IntOne (.lih d i t) d d t (fun x => low (i.toNat * 2 ^ 17 + x.toNat % 2 ^ 17))
  | cMov (d : BitVec 6) (b : BitVec 5) : IntOne (.cMov d b) (d.setWidth 7) (b.setWidth 7) false (fun x => x)
  | addi5 (d : BitVec 6) (i : BitVec 5) : IntOne (.addi5 d i) (d.setWidth 7) (d.setWidth 7) false (fun x => low (x.toNat + i.toInt))

/-- The constants of R98 and R102: destination, tack, value. -/
inductive IntConst : Instr → Reg → Bool → Word → Prop where
  | li (d : Reg) (i : BitVec 17) (t : Bool) : IntConst (.li d i t) d t (low i.toInt)
  | li5 (d : BitVec 6) (i : BitVec 5) : IntConst (.li5 d i) (d.setWidth 7) false (low i.toInt)

/-- The destructive rows of R89, R91, R93, R115: destination, sources, tack, result of g[D], g[A], g[B]. -/
inductive IntThree : Instr → Reg → Reg → Reg → Bool → (Word → Word → Word → Word) → Prop where
  | fshl (d : Reg) (a : Reg) (b : Reg) (t : Bool) : IntThree (.fshl d a b t) d a b t (fun z x y => high ((z.toNat * 2 ^ 32 + x.toNat) * 2 ^ (y.toNat % 32)))
  | fshr (d : Reg) (a : Reg) (b : Reg) (t : Bool) : IntThree (.fshr d a b t) d a b t (fun z x y => low ((z.toNat * 2 ^ 32 + x.toNat) / 2 ^ (y.toNat % 32)))
  | bfi (d : Reg) (a : Reg) (b : Reg) (t : Bool) : IntThree (.bfi d a b t) d a b t (fun z x y => word (fun i =>
      if off y ≤ i ∧ i < off y + wid y then x.toNat.testBit (i - off y) else z.toNat.testBit i))
  | mad (d : Reg) (a : Reg) (b : Reg) (t : Bool) : IntThree (.mad d a b t) d a b t (fun z x y => low (z.toNat + x.toNat * y.toNat))
  | madhs (d : Reg) (a : Reg) (b : Reg) (t : Bool) : IntThree (.madhs d a b t) d a b t (fun z x y => low (z.toNat + (high (x.toInt * y.toInt)).toNat))
  | madhn (d : Reg) (a : Reg) (b : Reg) (t : Bool) : IntThree (.madhn d a b t) d a b t (fun z x y => low (z.toNat + (high (x.toNat * y.toNat)).toNat))
  | sad (d : Reg) (a : Reg) (b : Reg) (t : Bool) : IntThree (.sad d a b t) d a b t (fun z x y => low (z.toNat + ((x.toNat - y.toNat : Int)).natAbs))
  | dot4s (d : Reg) (a : Reg) (b : Reg) (t : Bool) : IntThree (.dot4s d a b t) d a b t (fun z x y =>
      low (z.toNat + ((List.range 4).map (fun k => ((x >>> (8 * k)).setWidth 8).toInt * ((y >>> (8 * k)).setWidth 8).toInt)).sum))
  | dot4n (d : Reg) (a : Reg) (b : Reg) (t : Bool) : IntThree (.dot4n d a b t) d a b t (fun z x y =>
      low (z.toNat + ((List.range 4).map (fun k => ((x >>> (8 * k)).setWidth 8).toNat * ((y >>> (8 * k)).setWidth 8).toNat)).sum))

/-- The rows of R93 on a pair: destination, sources, tack, the exact sum. -/
inductive IntPair : Instr → Reg → Reg → Reg → Bool → (Dword → Word → Word → Int) → Prop where
  | mad64s (d : Reg) (a : Reg) (b : Reg) (t : Bool) : IntPair (.mad64s d a b t) d a b t (fun z x y => z.toNat + x.toInt * y.toInt)
  | mad64n (d : Reg) (a : Reg) (b : Reg) (t : Bool) : IntPair (.mad64n d a b t) d a b t (fun z x y => z.toNat + x.toNat * y.toNat)

/-- The comparisons of R94 and the test of R100: predicate, sources, tack, condition. -/
inductive CmpTwo : Instr → PReg → Reg → Reg → Bool → (Word → Word → Bool) → Prop where
  | icmpEq (p : BitVec 3) (a : Reg) (b : Reg) (t : Bool) : CmpTwo (.icmpEq p a b t) p a b t (fun x y => decide (x.toNat = y.toNat))
  | icmpNe (p : BitVec 3) (a : Reg) (b : Reg) (t : Bool) : CmpTwo (.icmpNe p a b t) p a b t (fun x y => decide (x.toNat ≠ y.toNat))
  | icmpLt (p : BitVec 3) (a : Reg) (b : Reg) (t : Bool) : CmpTwo (.icmpLt p a b t) p a b t (fun x y => decide (x.toInt < y.toInt))
  | icmpLe (p : BitVec 3) (a : Reg) (b : Reg) (t : Bool) : CmpTwo (.icmpLe p a b t) p a b t (fun x y => decide (x.toInt ≤ y.toInt))
  | icmpLtn (p : BitVec 3) (a : Reg) (b : Reg) (t : Bool) : CmpTwo (.icmpLtn p a b t) p a b t (fun x y => decide (x.toNat < y.toNat))
  | icmpLen (p : BitVec 3) (a : Reg) (b : Reg) (t : Bool) : CmpTwo (.icmpLen p a b t) p a b t (fun x y => decide (x.toNat ≤ y.toNat))
  | icmpTst (p : BitVec 3) (a : Reg) (b : Reg) (t : Bool) : CmpTwo (.icmpTst p a b t) p a b t (fun x y => (List.range 32).any (fun i => x.toNat.testBit i && y.toNat.testBit i))
  | g2p (p : BitVec 3) (a : Reg) (t : Bool) : CmpTwo (.g2p p a t) p a a t (fun x _ => decide (x.toNat ≠ 0))

/-- The comparisons of R97: predicate, source, immediate, tack, condition. -/
inductive CmpOne : Instr → PReg → Reg → BitVec 10 → Bool → (Word → Word → Bool) → Prop where
  | icmpiEq (p : BitVec 3) (a : Reg) (i : BitVec 10) (t : Bool) : CmpOne (.icmpiEq p a i t) p a i t (fun x y => decide (x.toNat = y.toNat))
  | icmpiNe (p : BitVec 3) (a : Reg) (i : BitVec 10) (t : Bool) : CmpOne (.icmpiNe p a i t) p a i t (fun x y => decide (x.toNat ≠ y.toNat))
  | icmpiLt (p : BitVec 3) (a : Reg) (i : BitVec 10) (t : Bool) : CmpOne (.icmpiLt p a i t) p a i t (fun x y => decide (x.toInt < y.toInt))
  | icmpiLe (p : BitVec 3) (a : Reg) (i : BitVec 10) (t : Bool) : CmpOne (.icmpiLe p a i t) p a i t (fun x y => decide (x.toInt ≤ y.toInt))
  | icmpiGt (p : BitVec 3) (a : Reg) (i : BitVec 10) (t : Bool) : CmpOne (.icmpiGt p a i t) p a i t (fun x y => decide (y.toInt < x.toInt))
  | icmpiGe (p : BitVec 3) (a : Reg) (i : BitVec 10) (t : Bool) : CmpOne (.icmpiGe p a i t) p a i t (fun x y => decide (y.toInt ≤ x.toInt))
  | icmpiLtn (p : BitVec 3) (a : Reg) (i : BitVec 10) (t : Bool) : CmpOne (.icmpiLtn p a i t) p a i t (fun x y => decide (x.toNat < y.toNat))
  | icmpiLen (p : BitVec 3) (a : Reg) (i : BitVec 10) (t : Bool) : CmpOne (.icmpiLen p a i t) p a i t (fun x y => decide (x.toNat ≤ y.toNat))
  | icmpiGtn (p : BitVec 3) (a : Reg) (i : BitVec 10) (t : Bool) : CmpOne (.icmpiGtn p a i t) p a i t (fun x y => decide (y.toNat < x.toNat))
  | icmpiGen (p : BitVec 3) (a : Reg) (i : BitVec 10) (t : Bool) : CmpOne (.icmpiGen p a i t) p a i t (fun x y => decide (y.toNat ≤ x.toNat))

/-- The predicate rows of R100: destination, sources, tack, result. -/
inductive PredTwo : Instr → PReg → PReg → PReg → Bool → (Bool → Bool → Bool) → Prop where
  | pand (p : BitVec 3) (a : BitVec 3) (b : BitVec 3) (t : Bool) : PredTwo (.pand p a b t) p a b t (fun x y => x && y)
  | por (p : BitVec 3) (a : BitVec 3) (b : BitVec 3) (t : Bool) : PredTwo (.por p a b t) p a b t (fun x y => x || y)
  | pxor (p : BitVec 3) (a : BitVec 3) (b : BitVec 3) (t : Bool) : PredTwo (.pxor p a b t) p a b t (fun x y => x != y)
  | pnot (p : BitVec 3) (a : BitVec 3) (t : Bool) : PredTwo (.pnot p a t) p a a t (fun x _ => !x)

/-- The four forms of R92: destination, sources, tack, and the exact quotient or remainder with its condition. -/
inductive Divides : Instr → Reg → Reg → Reg → Bool → (Word → Word → Int × Word) → Prop where
  | divs (d : Reg) (a : Reg) (b : Reg) (t : Bool) : Divides (.divs d a b t) d a b t (fun x y =>
      if y.toInt = 0 then (-1, 1#32) else if x.toInt = -2 ^ 31 ∧ y.toInt = -1 then (-2 ^ 31, 2#32) else (x.toInt.tdiv y.toInt, 0#32))
  | rems (d : Reg) (a : Reg) (b : Reg) (t : Bool) : Divides (.rems d a b t) d a b t (fun x y =>
      if y.toInt = 0 then (x.toInt, 1#32) else if x.toInt = -2 ^ 31 ∧ y.toInt = -1 then (0, 2#32) else (x.toInt.tmod y.toInt, 0#32))
  | divn (d : Reg) (a : Reg) (b : Reg) (t : Bool) : Divides (.divn d a b t) d a b t (fun x y => if y.toNat = 0 then (2 ^ 32 - 1, 1#32) else (x.toNat / y.toNat, 0#32))
  | remn (d : Reg) (a : Reg) (b : Reg) (t : Bool) : Divides (.remn d a b t) d a b t (fun x y => if y.toNat = 0 then (x.toNat, 1#32) else (x.toNat % y.toNat, 0#32))

/-- The floating-point rows of two sources: destination, sources, tack, result and flags in a rounding mode (R105, R106, R109, R112, R102). -/
inductive FpTwo : Instr → Reg → Reg → Reg → Bool → (RMode → Word → Word → Word × Word) → Prop where
  | fadd (d : Reg) (a : Reg) (b : Reg) (t : Bool) : FpTwo (.fadd d a b t) d a b t (fun m x y => fadd32 m (f32 x) (f32 y))
  | fsub (d : Reg) (a : Reg) (b : Reg) (t : Bool) : FpTwo (.fsub d a b t) d a b t (fun m x y => fadd32 m (f32 x) (f32 y).negate)
  | fmul (d : Reg) (a : Reg) (b : Reg) (t : Bool) : FpTwo (.fmul d a b t) d a b t (fun m x y => fmul32 m (f32 x) (f32 y))
  | fmin (d : Reg) (a : Reg) (b : Reg) (t : Bool) : FpTwo (.fmin d a b t) d a b t (fun _ x y => minMax false x y)
  | fmax (d : Reg) (a : Reg) (b : Reg) (t : Bool) : FpTwo (.fmax d a b t) d a b t (fun _ x y => minMax true x y)
  | fdiv (d : Reg) (a : Reg) (b : Reg) (t : Bool) : FpTwo (.fdiv d a b t) d a b t divW
  | hadd2 (d : Reg) (a : Reg) (b : Reg) (t : Bool) : FpTwo (.hadd2 d a b t) d a b t (packed2 ieee16 (addF ieee16))
  | hmul2 (d : Reg) (a : Reg) (b : Reg) (t : Bool) : FpTwo (.hmul2 d a b t) d a b t (packed2 ieee16 (mulF ieee16))
  | badd2 (d : Reg) (a : Reg) (b : Reg) (t : Bool) : FpTwo (.badd2 d a b t) d a b t (packed2 ieeeB16 (addF ieeeB16))
  | bmul2 (d : Reg) (a : Reg) (b : Reg) (t : Bool) : FpTwo (.bmul2 d a b t) d a b t (packed2 ieeeB16 (mulF ieeeB16))
  | cFadd (d : BitVec 6) (b : BitVec 5) : FpTwo (.cFadd d b) (d.setWidth 7) (d.setWidth 7) (b.setWidth 7) false (fun m x y => fadd32 m (f32 x) (f32 y))
  | cFmul (d : BitVec 6) (b : BitVec 5) : FpTwo (.cFmul d b) (d.setWidth 7) (d.setWidth 7) (b.setWidth 7) false (fun m x y => fmul32 m (f32 x) (f32 y))

/-- The destructive floating-point rows (R105, R109). -/
inductive FpThree : Instr → Reg → Reg → Reg → Bool → (RMode → Word → Word → Word → Word × Word) → Prop where
  | ffma (d : Reg) (a : Reg) (b : Reg) (t : Bool) : FpThree (.ffma d a b t) d a b t (fun m z x y =>
      (BitVec.ofNat 32 (fmaF ieee32 m (f32 z) (f32 x) (f32 y)).1, (fmaF ieee32 m (f32 z) (f32 x) (f32 y)).2))
  | ffms (d : Reg) (a : Reg) (b : Reg) (t : Bool) : FpThree (.ffms d a b t) d a b t (fun m z x y =>
      (BitVec.ofNat 32 (fmaF ieee32 m (f32 z) (f32 x).negate (f32 y)).1, (fmaF ieee32 m (f32 z) (f32 x).negate (f32 y)).2))
  | hfma2 (d : Reg) (a : Reg) (b : Reg) (t : Bool) : FpThree (.hfma2 d a b t) d a b t (packed3 ieee16)
  | bfma2 (d : Reg) (a : Reg) (b : Reg) (t : Bool) : FpThree (.bfma2 d a b t) d a b t (packed3 ieeeB16)
  | dot2h (d : Reg) (a : Reg) (b : Reg) (t : Bool) : FpThree (.dot2h d a b t) d a b t (dot2 ieee16)
  | dot2b (d : Reg) (a : Reg) (b : Reg) (t : Bool) : FpThree (.dot2b d a b t) d a b t (dot2 ieeeB16)

/-- The floating-point rows of one source (R110, R113, R114); the conversions take their mode from their word (R103). -/
inductive FpOne : Instr → Reg → Reg → Bool → (RMode → Word → Word × Word) → Prop where
  | rcp (d : Reg) (a : Reg) (t : Bool) : FpOne (.rcp d a t) d a t rcpW
  | rsq (d : Reg) (a : Reg) (t : Bool) : FpOne (.rsq d a t) d a t rsqW
  | sqrt (d : Reg) (a : Reg) (t : Bool) : FpOne (.sqrt d a t) d a t sqrtW
  | exp2 (d : Reg) (a : Reg) (t : Bool) : FpOne (.exp2 d a t) d a t exp2W
  | log2 (d : Reg) (a : Reg) (t : Bool) : FpOne (.log2 d a t) d a t log2W
  | sin (d : Reg) (a : Reg) (t : Bool) : FpOne (.sin d a t) d a t sinW
  | cos (d : Reg) (a : Reg) (t : Bool) : FpOne (.cos d a t) d a t cosW
  | tanh (d : Reg) (a : Reg) (t : Bool) : FpOne (.tanh d a t) d a t tanhW
  | cvt (d : Reg) (a : Reg) (r : BitVec 2) (y : BitVec 4) (x : BitVec 4) (t : Bool) : FpOne (.cvt d a r y x t) d a t (fun _ v => cvtW (RMode.ofBits r) y.toNat x.toNat v)
  | cvt8ToByte (d : Reg) (a : Reg) (r : BitVec 2) (sat : Bool) (i : Bool) (u : Bool) (n : BitVec 3) (t : Bool) : FpOne (.cvt8ToByte d a r sat i u n t) d a t (fun _ v => toBin8 ⟨n.toNat, u, i⟩ (RMode.ofBits r) sat v)
  | cvt8FromByte (d : Reg) (a : Reg) (i : Bool) (u : Bool) (n : BitVec 3) (t : Bool) : FpOne (.cvt8FromByte d a i u n t) d a t (fun _ v => (fromBin8 ⟨n.toNat, u, i⟩ v, 0))

/-- An f32 word that is neither infinite nor a NaN (R64). -/
def finite (w : Word) : Prop := w.toNat / 2 ^ 23 % 256 ≠ 255
/-- The value of a finite f32 word, as a count of 2^-149 (R64). -/
def units (w : Word) : Int :=
  let e := w.toNat / 2 ^ 23 % 256
  let m : Int := ((w.toNat % 2 ^ 23 : Nat) : Int)
  (if w.getLsbD 31 = true then -1 else 1) * (if e = 0 then m else (2 ^ 23 + m) * 2 ^ (e - 1))

/-- A word is a number, a count of 2^-298, rounded to f32 in a mode (R71, R72): of the finite words the nearest, a tie the even one, or the nearest on
the mode's side; infinite where the mode gives that on overflow. Its sign is that of a number other than 0. -/
def Rounded (mode : RMode) (x : Int) (r : Word) : Prop :=
  let v := fun (y : Word) => 2 ^ 149 * units y
  let most : Int := (2 ^ 24 - 1) * 2 ^ 402
  (x ≠ 0 → r.getLsbD 31 = decide (x < 0)) ∧
  match mode with
  | .rne =>
    if (2 ^ 25 - 1) * 2 ^ 401 ≤ x.natAbs then r.toNat % 2 ^ 31 = 0x7F800000
    else finite r ∧ ∀ y, finite y → (v r - x).natAbs ≤ (v y - x).natAbs ∧ ((v r - x).natAbs = (v y - x).natAbs → v y ≠ v r → r.toNat % 2 = 0)
  | .rtz => finite r ∧ (v r).natAbs ≤ x.natAbs ∧ ∀ y, finite y → (v y).natAbs ≤ x.natAbs → (v y).natAbs ≤ (v r).natAbs
  | .rdn => if x < -most then r = 0xFF800000#32 else finite r ∧ v r ≤ x ∧ ∀ y, finite y → v y ≤ x → v y ≤ v r
  | .rup => if most < x then r = 0x7F800000#32 else finite r ∧ x ≤ v r ∧ ∀ y, finite y → x ≤ v y → v r ≤ v y

/-- The flags of that rounding (R72, R73, R76): OF and NX on overflow, where the word is infinite or the number 2^128 or more; NX where the word is not the
number; UF too where it is not 0 and below the smallest normal; NV and DZ never. -/
def RoundedFlags (x : Int) (r fl : Word) : Prop :=
  let overflows := ¬finite r ∨ 2 ^ 426 ≤ x.natAbs
  let inexact := overflows ∨ 2 ^ 149 * units r ≠ x
  fl &&& ~~~7#32 = 0 ∧ (fl.getLsbD 2 = true ↔ overflows) ∧ (fl.getLsbD 0 = true ↔ inexact) ∧
  (finite r → units r ≠ 0 → (fl.getLsbD 1 = true ↔ inexact ∧ (units r).natAbs < 2 ^ 23)) ∧ (¬finite r → fl.getLsbD 1 = false)

/-- The comparisons of R107: predicate, sources, tack, the condition, and whether any NaN sets NV or only a signalling one. -/
inductive FpCompare : Instr → PReg → Reg → Reg → Bool → (Val → Val → Bool) → Bool → Prop where
  | fcmpEq (p : BitVec 3) (a : Reg) (b : Reg) (t : Bool) : FpCompare (.fcmpEq p a b t) p a b t (fun x y => !(x.isNan || y.isNan) && x.eqv y) false
  | fcmpNe (p : BitVec 3) (a : Reg) (b : Reg) (t : Bool) : FpCompare (.fcmpNe p a b t) p a b t (fun x y => x.isNan || y.isNan || !x.eqv y) false
  | fcmpLt (p : BitVec 3) (a : Reg) (b : Reg) (t : Bool) : FpCompare (.fcmpLt p a b t) p a b t (fun x y => !(x.isNan || y.isNan) && x.ltv y) true
  | fcmpLe (p : BitVec 3) (a : Reg) (b : Reg) (t : Bool) : FpCompare (.fcmpLe p a b t) p a b t (fun x y => !(x.isNan || y.isNan) && (x.ltv y || x.eqv y)) true
  | fcmpUn (p : BitVec 3) (a : Reg) (b : Reg) (t : Bool) : FpCompare (.fcmpUn p a b t) p a b t (fun x y => x.isNan || y.isNan) false
  | fcmpOr (p : BitVec 3) (a : Reg) (b : Reg) (t : Bool) : FpCompare (.fcmpOr p a b t) p a b t (fun x y => !(x.isNan || y.isNan)) false

/-- The register instructions of the tables, and the others that only change their own lanes, with the registers they name. -/
inductive Plain : Instr → List Nat → Prop where
  | intTwo {i d a b t f} (h : IntTwo i d a b t f) : Plain i [d.toNat, a.toNat, b.toNat]
  | intOne {i d a t f} (h : IntOne i d a t f) : Plain i [d.toNat, a.toNat]
  | intConst {i d t v} (h : IntConst i d t v) : Plain i [d.toNat]
  | intThree {i d a b t f} (h : IntThree i d a b t f) : Plain i [d.toNat, a.toNat, b.toNat]
  | intPair {i d a b t f} (h : IntPair i d a b t f) : Plain i [d.toNat, d.toNat + 1, a.toNat, b.toNat]
  | cmpTwo {i p a b t f} (h : CmpTwo i p a b t f) : Plain i [a.toNat, b.toNat]
  | cmpOne {i p a n t f} (h : CmpOne i p a n t f) : Plain i [a.toNat]
  | predTwo {i p a b t f} (h : PredTwo i p a b t f) : Plain i []
  | divides {i d a b t f} (h : Divides i d a b t f) : Plain i [d.toNat, a.toNat, b.toNat]
  | fpTwo {i d a b t f} (h : FpTwo i d a b t f) : Plain i [d.toNat, a.toNat, b.toNat]
  | fpThree {i d a b t f} (h : FpThree i d a b t f) : Plain i [d.toNat, a.toNat, b.toNat]
  | fpOne {i d a t f} (h : FpOne i d a t f) : Plain i [d.toNat, a.toNat]
  | fpCompare {i p a b t f any} (h : FpCompare i p a b t f any) : Plain i [a.toNat, b.toNat]
  | addc (d a b : Reg) (t : Bool) : Plain (.addc d a b t) [d.toNat, a.toNat, b.toNat]
  | subb (d a b : Reg) (t : Bool) : Plain (.subb d a b t) [d.toNat, a.toNat, b.toNat]
  | p2g (d : Reg) (a : PReg) (t : Bool) : Plain (.p2g d a t) [d.toNat]
  | sel (d a b : Reg) (f : PReg) (t : Bool) : Plain (.sel d a b f t) [d.toNat, a.toNat, b.toNat]
  | dot4f (d a b : Reg) (t : Bool) : Plain (.dot4f d a b t) [d.toNat, a.toNat, b.toNat]
  | bra (d : BitVec 20) (p : PReg) (n t : Bool) : Plain (.bra d p n t) []
  | call (d : BitVec 20) (p : PReg) (n t : Bool) : Plain (.call d p n t) []
  | brx (a : Reg) (t : Bool) : Plain (.brx a t) [a.toNat, a.toNat + 1]
  | callx (a : Reg) (t : Bool) : Plain (.callx a t) [a.toNat, a.toNat + 1]
  | ret (t : Bool) : Plain (.ret t) []
  | loopReg (n : BitVec 10) (c : Reg) (l : BitVec 2) (t : Bool) : Plain (.loop n c false l t) [c.toNat]
  | loopImm (n : BitVec 10) (c : Reg) (l : BitVec 2) (t : Bool) : Plain (.loop n c true l t) []
  | throwG (a : Reg) (t : Bool) : Plain (.throwG a t) [a.toNat]
  | throwi (c : BitVec 7) (t : Bool) : Plain (.throwi c t) []
  | rethrow (t : Bool) : Plain (.rethrow t) []
  | trap (c : BitVec 7) (t : Bool) : Plain (.trap c t) []
  | uret (t : Bool) : Plain (.uret t) []
  | ill16 : Plain .ill16 []
  | ill32 : Plain .ill32 []
  | reserved : Plain .reservedOrIllegalWord []
  | nop (t : Bool) : Plain (.nop t) []

/-! ## Cross-lane results -/

/-- The operand that a lane of the members brought, or the reader's own where the lane is not a member (R121, R122). -/
def carried (ms : List Brought) (l : Nat) (own : Word) : Word :=
  match ms.filter (fun b => b.1 == l) with
  | b :: _ => b.2.1
  | [] => own

/-- The members of a reduction or scan in lane `l` (R124): their operands. -/
def scanned (kind : BitVec 2) (ms : List Brought) (l : Nat) : List Word :=
  (ms.filter (fun b => kind == 0#2 || decide (b.1 < l) || (kind == 1#2 && b.1 == l))).map (fun b => b.2.1)

/-- The cross-lane instructions (R121 to R125, R127): registers named, mask register, tack, the two operands, and the result and flags of
a member lane, from what the members brought in ascending lane order, the lane, and its own operands. -/
inductive Cross : Instr → List Nat → BitVec 3 → Bool → (State → Thread → Word) → (State → Thread → Word) →
    (RMode → List Brought → Nat → Word → Word → XResult × Word) → Prop where
  | shflIdx (d a : Reg) (m : BitVec 3) (k : BitVec 5) (t : Bool) : Cross (.shflIdx d a m k t) [d.toNat, a.toNat] m t (opG a.toNat) opNone
      (fun _ ms _ own _ => (.g d.toNat (carried ms k.toNat own), 0))
  | shflUp (d a : Reg) (m : BitVec 3) (k : BitVec 5) (t : Bool) : Cross (.shflUp d a m k t) [d.toNat, a.toNat] m t (opG a.toNat) opNone
      (fun _ ms l own _ => (.g d.toNat (if l < k.toNat then own else carried ms (l - k.toNat) own), 0))
  | shflDn (d a : Reg) (m : BitVec 3) (k : BitVec 5) (t : Bool) : Cross (.shflDn d a m k t) [d.toNat, a.toNat] m t (opG a.toNat) opNone
      (fun _ ms l own _ => (.g d.toNat (carried ms (l + k.toNat) own), 0))
  | shflXor (d a : Reg) (m : BitVec 3) (k : BitVec 5) (t : Bool) : Cross (.shflXor d a m k t) [d.toNat, a.toNat] m t (opG a.toNat) opNone
      (fun _ ms l own _ => (.g d.toNat (carried ms (l ^^^ k.toNat) own), 0))
  | shflr (d a : Reg) (m : BitVec 3) (k : BitVec 5) (t : Bool) : Cross (.shflr d a m k t) [d.toNat, a.toNat, k.toNat] m t (opG a.toNat) (opG k.toNat)
      (fun _ ms _ own x => (.g d.toNat (carried ms (x.toNat % 32) own), 0))
  | voteAll (p a : PReg) (m : BitVec 3) (t : Bool) : Cross (.voteAll p a m t) [] m t (opP a.toNat) opNone
      (fun _ ms _ _ _ => (.p p.toNat (ms.all (fun b => b.2.1 == 1)), 0))
  | voteAny (p a : PReg) (m : BitVec 3) (t : Bool) : Cross (.voteAny p a m t) [] m t (opP a.toNat) opNone
      (fun _ ms _ _ _ => (.p p.toNat (ms.any (fun b => b.2.1 == 1)), 0))
  | voteSame (p a : PReg) (m : BitVec 3) (t : Bool) : Cross (.voteSame p a m t) [] m t (opP a.toNat) opNone
      (fun _ ms _ own _ => (.p p.toNat (ms.all (fun b => b.2.1 == own)), 0))
  | voteBallot (d : Reg) (a : PReg) (m : BitVec 3) (t : Bool) : Cross (.voteBallot d a m t) [d.toNat] m t (opP a.toNat) opNone
      (fun _ ms _ _ _ => (.g d.toNat (word (fun i => ms.any (fun b => b.1 == i && b.2.1 == 1))), 0))
  | foldAdd (d a : Reg) (y : BitVec 2) (m : BitVec 3) (k : BitVec 2) (t : Bool) (h : y ≠ 1#2) :
      Cross (.foldAdd d a y m k t) [d.toNat, a.toNat] m t (opG a.toNat) opNone
        (fun _ ms l _ _ => (.g d.toNat (low ((scanned k ms l).map (fun x => (x.toNat : Int))).sum), 0))
  | foldMin (d a : Reg) (y : BitVec 2) (m : BitVec 3) (k : BitVec 2) (t : Bool) (h : y ≠ 1#2) :
      Cross (.foldMin d a y m k t) [d.toNat, a.toNat] m t (opG a.toNat) opNone
        (fun _ ms l _ _ => (.g d.toNat (low ((scanned k ms l).foldl (fun acc x => min acc x.toInt) (2 ^ 31 - 1))), 0))
  | foldMax (d a : Reg) (y : BitVec 2) (m : BitVec 3) (k : BitVec 2) (t : Bool) (h : y ≠ 1#2) :
      Cross (.foldMax d a y m k t) [d.toNat, a.toNat] m t (opG a.toNat) opNone
        (fun _ ms l _ _ => (.g d.toNat (low ((scanned k ms l).foldl (fun acc x => max acc x.toInt) (-2 ^ 31))), 0))
  | foldMinn (d a : Reg) (y : BitVec 2) (m : BitVec 3) (k : BitVec 2) (t : Bool) (h : y ≠ 1#2) :
      Cross (.foldMinn d a y m k t) [d.toNat, a.toNat] m t (opG a.toNat) opNone
        (fun _ ms l _ _ => (.g d.toNat (low ((scanned k ms l).foldl (fun acc x => min acc x.toNat) (2 ^ 32 - 1))), 0))
  | foldMaxn (d a : Reg) (y : BitVec 2) (m : BitVec 3) (k : BitVec 2) (t : Bool) (h : y ≠ 1#2) :
      Cross (.foldMaxn d a y m k t) [d.toNat, a.toNat] m t (opG a.toNat) opNone
        (fun _ ms l _ _ => (.g d.toNat (low ((scanned k ms l).foldl (fun acc x => max acc x.toNat) 0)), 0))
  | foldAnd (d a : Reg) (y : BitVec 2) (m : BitVec 3) (k : BitVec 2) (t : Bool) (h : y ≠ 1#2) :
      Cross (.foldAnd d a y m k t) [d.toNat, a.toNat] m t (opG a.toNat) opNone
        (fun _ ms l _ _ => (.g d.toNat (word (fun i => (scanned k ms l).all (fun x => x.toNat.testBit i))), 0))
  | foldOr (d a : Reg) (y : BitVec 2) (m : BitVec 3) (k : BitVec 2) (t : Bool) (h : y ≠ 1#2) :
      Cross (.foldOr d a y m k t) [d.toNat, a.toNat] m t (opG a.toNat) opNone
        (fun _ ms l _ _ => (.g d.toNat (word (fun i => (scanned k ms l).any (fun x => x.toNat.testBit i))), 0))
  | foldXor (d a : Reg) (y : BitVec 2) (m : BitVec 3) (k : BitVec 2) (t : Bool) (h : y ≠ 1#2) :
      Cross (.foldXor d a y m k t) [d.toNat, a.toNat] m t (opG a.toNat) opNone
        (fun _ ms l _ _ => (.g d.toNat (word (fun i => decide (((scanned k ms l).filter (fun x => x.toNat.testBit i)).length % 2 = 1))), 0))
  | foldAddF (d a : Reg) (m : BitVec 3) (k : BitVec 2) (t : Bool) : Cross (.foldAdd d a 1#2 m k t) [d.toNat, a.toNat] m t (opG a.toNat) opNone
      (fun mode ms l _ _ => let r := foldF 0 mode (scanned k ms l); (.g d.toNat r.1, r.2))
  | foldMinF (d a : Reg) (m : BitVec 3) (k : BitVec 2) (t : Bool) : Cross (.foldMin d a 1#2 m k t) [d.toNat, a.toNat] m t (opG a.toNat) opNone
      (fun mode ms l _ _ => let r := foldF 1 mode (scanned k ms l); (.g d.toNat r.1, r.2))
  | foldMaxF (d a : Reg) (m : BitVec 3) (k : BitVec 2) (t : Bool) : Cross (.foldMax d a 1#2 m k t) [d.toNat, a.toNat] m t (opG a.toNat) opNone
      (fun mode ms l _ _ => let r := foldF 2 mode (scanned k ms l); (.g d.toNat r.1, r.2))
  | lsetEq (d a : Reg) (m : BitVec 3) (t : Bool) : Cross (.lsetEq d a m t) [d.toNat, a.toNat] m t (opG a.toNat) opNone
      (fun _ ms _ own _ => (.g d.toNat (word (fun i => ms.any (fun b => b.1 == i && b.2.1 == own))), 0))
  | lsetAlleq (p : PReg) (a : Reg) (m : BitVec 3) (t : Bool) : Cross (.lsetAlleq p a m t) [a.toNat] m t (opG a.toNat) opNone
      (fun _ ms _ own _ => (.p p.toNat (ms.all (fun b => b.2.1 == own)), 0))
  | lsetFirst (p : PReg) (m : BitVec 3) (t : Bool) : Cross (.lsetFirst p m t) [] m t opNone opNone
      (fun _ ms l _ _ => (.p p.toNat (ms.all (fun b => decide (l ≤ b.1))), 0))
  | lsetLive (d : Reg) (m : BitVec 3) (t : Bool) : Cross (.lsetLive d m t) [d.toNat] m t opNone opNone
      (fun _ ms _ _ _ => (.g d.toNat (word (fun i => ms.any (fun b => b.1 == i))), 0))

/-- The order of TOPK (R126): whether member `y` stands before member `z`. -/
def topBefore (ty : BitVec 2) (y z : Brought) : Bool :=
  decide (topKey ty.toNat z.2.1 < topKey ty.toNat y.2.1) || (decide (topKey ty.toNat y.2.1 = topKey ty.toNat z.2.1) && decide (y.1 < z.1))

/-- A path that holds every live member of a mask register, and no other lane, with nothing unperformed in it and no SWR outstanding; the
lanes of the wave in ascending order, as a wave is started. -/
structure Gathered (s : State) (w : Wave) (m : BitVec 3) : Prop where
  lanes : ∀ x ∈ w.lanes, x.lane ∈ s.cur.lanes ↔ (x.live = true ∧ (w.regs.s? m.toNat).getLsbD x.lane = true)
  pcs : ∀ x ∈ w.lanes, x.lane ∈ s.cur.lanes → x.pc = s.cur.pc ∧ x.acc = []
  sorted : w.lanes.Pairwise (fun x y => x.lane < y.lane)
  settled : w.regs.old = []
  ready : w.sReady [m.toNat]

/-- What the members of a mask register bring. -/
def members (s : State) (w : Wave) (m : BitVec 3) (A K : State → Thread → Word) : List Brought :=
  (w.lanes.filter (fun x => x.live && (w.regs.s? m.toNat).getLsbD x.lane)).map (fun x => (x.lane, A s x, K s x))

/-! ## Memory instructions -/

/-- A register, or the pair at it. -/
def pairIf (wide : Bool) (d : Nat) : List Nat := if wide then [d, d + 1] else [d]

/-- The MEMO instructions (R159, R160): operation, registers, whether 64 bits, semantics, scope code, tack. -/
inductive Memo : Instr → MemoOp → Reg → Reg → Bool → BitVec 2 → BitVec 3 → Bool → Prop where
  | ldo (d a : Reg) (z : Bool) (e : BitVec 2) (c : BitVec 3) (t : Bool) : Memo (.ldo d a z e c t) .ldo d a z e c t
  | sto (d a : Reg) (z : Bool) (e : BitVec 2) (c : BitVec 3) (t : Bool) : Memo (.sto d a z e c t) .sto d a z e c t
  | swap (d a : Reg) (z : Bool) (e : BitVec 2) (c : BitVec 3) (t : Bool) : Memo (.swap d a z e c t) .swap d a z e c t
  | cas (d a : Reg) (z : Bool) (e : BitVec 2) (c : BitVec 3) (t : Bool) : Memo (.cas d a z e c t) .cas d a z e c t
  | amoAdd (d a : Reg) (z : Bool) (e : BitVec 2) (c : BitVec 3) (t : Bool) : Memo (.amoAdd d a z e c t) .add d a z e c t
  | amoAnd (d a : Reg) (z : Bool) (e : BitVec 2) (c : BitVec 3) (t : Bool) : Memo (.amoAnd d a z e c t) .and d a z e c t
  | amoOr (d a : Reg) (z : Bool) (e : BitVec 2) (c : BitVec 3) (t : Bool) : Memo (.amoOr d a z e c t) .or d a z e c t
  | amoXor (d a : Reg) (z : Bool) (e : BitVec 2) (c : BitVec 3) (t : Bool) : Memo (.amoXor d a z e c t) .xor d a z e c t
  | amoMins (d a : Reg) (z : Bool) (e : BitVec 2) (c : BitVec 3) (t : Bool) : Memo (.amoMins d a z e c t) .mins d a z e c t
  | amoMaxs (d a : Reg) (z : Bool) (e : BitVec 2) (c : BitVec 3) (t : Bool) : Memo (.amoMaxs d a z e c t) .maxs d a z e c t
  | amoMinn (d a : Reg) (z : Bool) (e : BitVec 2) (c : BitVec 3) (t : Bool) : Memo (.amoMinn d a z e c t) .minn d a z e c t
  | amoMaxn (d a : Reg) (z : Bool) (e : BitVec 2) (c : BitVec 3) (t : Bool) : Memo (.amoMaxn d a z e c t) .maxn d a z e c t
  | amoInc (d a : Reg) (z : Bool) (e : BitVec 2) (c : BitVec 3) (t : Bool) : Memo (.amoInc d a z e c t) .inc d a z e c t
  | amoDec (d a : Reg) (z : Bool) (e : BitVec 2) (c : BitVec 3) (t : Bool) : Memo (.amoDec d a z e c t) .dec d a z e c t
  | amoAddf (d a : Reg) (e : BitVec 2) (c : BitVec 3) (t : Bool) : Memo (.amoAddf d a e c t) .addf d a false e c t

/-- No mapped tile keeps a spill area in memory (spec/09 R196). -/
def NoSpills (s : State) : Prop := ∀ c ∈ s.cores, ∀ x ∈ c.2.tiles, x.2.mapped = true → x.2.policy ≠ 1

/-- The instructions that issue memory accesses, with the registers they name and what a wave must meet for them to be issues alone: a wave's stores pass its
comparators (spec/27 R389), and an LDC, which reads at issue, is not logged and reads nothing that the package answers for (spec/27 R394, spec/09 R196). -/
inductive Accesses : Instr → List Nat → (State → Wave → Prop) → Prop where
  | ld (d : Reg) (h x : Bool) (z : BitVec 2) (g : Reg) (sb : BitVec 6) (t : Bool) : Accesses (.ld d h x z g sb t) (g.toNat :: pairIf (2 ^ z.toNat = 8) d.toNat) (fun _ _ => True)
  | st (d : Reg) (h : Bool) (z : BitVec 2) (g : Reg) (sb : BitVec 6) (t : Bool) : Accesses (.st d h z g sb t) (g.toNat :: pairIf (2 ^ z.toNat = 8) d.toNat) State.Agrees
  | lds (d : Reg) (h x : Bool) (z : BitVec 2) (g : Reg) (sb : BitVec 6) (t : Bool) : Accesses (.lds d h x z g sb t) (g.toNat :: pairIf (2 ^ z.toNat = 8) d.toNat) (fun _ _ => True)
  | sts (d : Reg) (h : Bool) (z : BitVec 2) (g : Reg) (sb : BitVec 6) (t : Bool) : Accesses (.sts d h z g sb t) (g.toNat :: pairIf (2 ^ z.toNat = 8) d.toNat) State.Agrees
  | ldc (d : Reg) (h x : Bool) (z : BitVec 2) (g : Reg) (sb : BitVec 6) (t : Bool) : Accesses (.ldc d h x z g sb t) (g.toNat :: pairIf (2 ^ z.toNat = 8) d.toNat)
      (fun s w => w.lining = none ∧ s.poisoned = [] ∧ NoSpills s)
  | memo {i op d a z e c t} (h : Memo i op d a z e c t) : Accesses i ([a.toNat, a.toNat + 1] ++ pairIf (z = true) d.toNat ++
      (if op = .cas then pairIf (z = true) (d.toNat + (if z = true then 2 else 1)) else [])) (fun s w => op = .ldo ∨ s.Agrees w)
  | pub (c : BitVec 3) (t : Bool) : Accesses (.pub c t) [] (fun _ _ => True)
  | rfsh (c : BitVec 3) (t : Bool) : Accesses (.rfsh c t) [] (fun _ _ => True)
  | phase (c : BitVec 3) (t : Bool) : Accesses (.phase c t) [] (fun _ _ => True)

/-- A number of `z` bits read as signed. -/
def signedOf (z n : Nat) : Int := if 2 ^ (z - 1) ≤ n then (n : Int) - 2 ^ z else n

/-- The new memory value of an operation on numbers of `z` bits, none where memory stays (R160). -/
def amo (op : MemoOp) (z m v n : Nat) : Option Nat :=
  match op with
  | .ldo => none
  | .sto => some v
  | .swap => some v
  | .cas => if m = v then some n else none
  | .add => some ((m + v) % 2 ^ z)
  | .and => some (m &&& v)
  | .or => some (m ||| v)
  | .xor => some (m ^^^ v)
  | .mins => some (if signedOf z v < signedOf z m then v else m)
  | .maxs => some (if signedOf z m < signedOf z v then v else m)
  | .minn => some (min m v)
  | .maxn => some (max m v)
  | .inc => some (if v ≤ m then 0 else m + 1)
  | .dec => some (if m = 0 ∨ v < m then v else m - 1)
  | .addf => some ((fadd32 .rne (f32 (BitVec.ofNat 32 m)) (f32 (BitVec.ofNat 32 v))).1.toNat)

/-- An access just issued by a thread at its instruction. -/
def issuedAt (s : State) (th : Thread) (k : AccKind) (pl : Place) (va : Dword) : Access :=
  { pc := th.pc, kind := k, place := pl, va := va, req := none, got := none, issued := s.clockOf s.cur.core, step := s.free,
    back := if mayThrow k pl then some th.laneRegs else none, silent := th.hsilent }

/-- None of some places lies in the spill area of a mapped tile (spec/09 R196). -/
def NoSpill (s : State) (pls : List Place) : Prop :=
  ∀ c ∈ s.cores, ∀ x ∈ c.2.tiles, x.2.mapped = true → x.2.policy = 1 → ∀ pa, Place.phys pa ∈ pls → s.inSpill x.2 pa = false
/-- None of them lies in a fired chunk of an instance still at work (spec/24 R356). -/
def NoChunk (s : State) (pls : List Place) : Prop :=
  ∀ k ∈ s.comms, ∀ x ∈ k.2.instances, x.active = true → ∀ ch ∈ x.fired, ∀ pa, Place.phys pa ∈ pls →
    s.underSpan k.2.vf (BitVec.ofNat 64 (x.coll.chunkVa ch)) x.coll.chunk pa false = false
/-- The same, whatever the bytes at the `n` addresses from `pa` on become: they map no chunk. -/
def NoChunkAfter (s : State) (pa n : Nat) (pls : List Place) : Prop :=
  ∀ m, (∀ x, x < pa ∨ pa + n ≤ x → readMem m x = readMem s.mem x) → NoChunk { s with mem := m } pls
/-- None of them lies in a byte barrier that an operation not yet completed names (spec/10 R207). -/
def NoBarrier (s : State) (pls : List Place) : Prop := ∀ b ∈ s.namedBarriers, ∀ p ∈ pls, b.meets 16 p 1 = false

/-- None of some places lies in an allowance entry in force or an edge in use (spec/21 R316, spec/10 R220). -/
def NoMisuse (s : State) (pls : List Place) : Prop := s.misused (physOf pls) = []

/-- The `n`-th access of a lane of a wave that is not lined, one that the earlier ones let be performed; the thread waits for nothing but a
tack. -/
structure Performable (s : State) (c sl : Nat) (w : Wave) (th : Thread) (n : Nat) (a : Access) : Prop where
  wave : s.wave? c sl = some w
  lane : w.lane? th.lane = some th
  nth : th.acc[n]? = some a
  may : s.mayPerform c (th.acc.take n) a = true
  unlined : w.lining = none
  waits : th.wait = .no ∨ th.wait = .tack

/-- A thread once the `n`-th of its accesses has been performed, `f` the result it writes: what its later accesses that may throw go back to holds the
result, too (spec/02 R40); parked by a tack it goes on when no result is outstanding any more. -/
def Thread.without (th : Thread) (n : Nat) (f : Thread → Thread := fun t => t) : Thread :=
  let later := (th.acc.drop (n + 1)).map (fun a => { a with back := a.back.map (fun r => (f (th.withRegs r)).laneRegs) })
  let u := f { th with acc := th.acc.take n ++ later }
  if u.outstanding = false ∧ th.wait = .tack then { u with wait := .no, marks := [] } else u

/-- A result of a size in bytes in its register, or in the pair at it. -/
def Thread.takes (d size : Nat) (v : Dword) (th : Thread) : Thread :=
  let g := setD th.g 0 d (v.setWidth 32)
  { th with g := if size = 8 then setD g 0 (d + 1) ((v >>> 32).setWidth 32) else g }

/-- The registers of a result are awaited once, at the thread and wherever a later access of it may go back to (spec/02 R39). -/
def Once (th : Thread) (n d size : Nat) : Prop :=
  ∀ m ∈ th.marks :: (th.acc.drop (n + 1)).filterMap (fun a => a.back.map (fun r => r.marks)), m.count d ≤ 1 ∧ (size = 8 → m.count (d + 1) ≤ 1)

/-! ## Engine and matrix instructions -/

/-- The copy instructions by form (R177, R178): queue, token, parameter register, tack. -/
inductive Copies : Instr → Nat → BitVec 3 → BitVec 6 → BitVec 6 → Bool → Prop where
  | acopyG2s (q : BitVec 3) (k sb : BitVec 6) (t : Bool) : Copies (.acopyG2s q k sb t) 0 q k sb t
  | acopyS2g (q : BitVec 3) (k sb : BitVec 6) (t : Bool) : Copies (.acopyS2g q k sb t) 1 q k sb t
  | acopyG2o (q : BitVec 3) (k sb : BitVec 6) (t : Bool) : Copies (.acopyG2o q k sb t) 2 q k sb t
  | acopyS2o (q : BitVec 3) (k sb : BitVec 6) (t : Bool) : Copies (.acopyS2o q k sb t) 3 q k sb t
  | acopyA2s (q : BitVec 3) (k sb : BitVec 6) (t : Bool) : Copies (.acopyA2s q k sb t) 4 q k sb t
  | acopyS2a (q : BitVec 3) (k sb : BitVec 6) (t : Bool) : Copies (.acopyS2a q k sb t) 5 q k sb t
  | acopyA2g (q : BitVec 3) (k sb : BitVec 6) (t : Bool) : Copies (.acopyA2g q k sb t) 6 q k sb t
  | gather (q : BitVec 3) (k sb : BitVec 6) (t : Bool) : Copies (.gather q k sb t) 7 q k sb t
  | scatter (q : BitVec 3) (k sb : BitVec 6) (t : Bool) : Copies (.scatter q k sb t) 8 q k sb t

/-- The instructions of the matrix queue (R185 to R199): the F6 code of the kind, the s registers read, the token, the tack, and the checked
parameter block. -/
inductive Matrix : Instr → Nat → List Nat → BitVec 6 → Bool → (State → Wave → Chk Parsed) → Prop where
  | wload (k sb : BitVec 6) (t : Bool) : Matrix (.wload k sb t) 2 [sb.toNat] k t (fun s w => s.wloadBlock w sb.toNat)
  | mma (a : BitVec 4) (r c : Bool) (k sb : BitVec 6) (t : Bool) :
      Matrix (.mma a r c k sb t) 3 [sb.toNat] k t (fun s w => s.mmaBlock w a.toNat sb.toNat c r)
  | bind (a : BitVec 4) (c p : Bool) (k sb : BitVec 6) (t : Bool) :
      Matrix (.bind a c p k sb t) 4 [sb.toNat] k t (fun s w => s.bindBlock w a.toNat sb.toNat p c)
  | acczero (a : BitVec 4) (k : BitVec 6) (t : Bool) :
      Matrix (.acczero a k t) 5 [] k t (fun s w => do let nm ← s.namedChk w 5 [(1, scal a.toNat)]; pure ([(1, scal a.toNat)], [], nm))
  | trans (k sb : BitVec 6) (t : Bool) : Matrix (.trans k sb t) 8 [sb.toNat] k t (fun s w => s.transBlock w sb.toNat)
  | tscaleSet (k sb : BitVec 6) (t : Bool) : Matrix (.tscaleSet k sb t) 9 [sb.toNat] k t (fun s w => s.tscaleBlock w sb.toNat 0)
  | tscaleMul (k sb : BitVec 6) (t : Bool) : Matrix (.tscaleMul k sb t) 9 [sb.toNat] k t (fun s w => s.tscaleBlock w sb.toNat 1)
  | tscaleMuls (k sb : BitVec 6) (t : Bool) : Matrix (.tscaleMuls k sb t) 9 [sb.toNat] k t (fun s w => s.tscaleBlock w sb.toNat 2)

/-- A token register below 63 of a wave that has become pending, or 63, which names none (R41, R171). -/
def pending (s' : State) (w : Wave) (k : Nat) : Prop := k < 63 → ∃ w', s'.wave? w.core w.slot = some w' ∧ w'.regs.tok.testBit k = true

/-- A token register below 63 of a wave that holds a value and is not pending. -/
def written (s' : State) (w : Wave) (k : Nat) (v : Word) : Prop :=
  k < 63 → ∃ w', s'.wave? w.core w.slot = some w' ∧ w'.regs.tok.testBit k = false ∧ w'.regs.s = setD w.regs.s 0 k v

/-- The lanes of the path have nothing unperformed and nothing due, and stand at the instruction: what a parameter block is read after
(spec/09 R168, R170). -/
def Quiet (s : State) (w : Wave) : Prop := ∀ u ∈ w.lanes, u.lane ∈ s.cur.lanes → u.acc = [] ∧ u.wait = .no ∧ u.pc = s.cur.pc ∧ u.due = none

/-- The lanes that issued an operation have nothing unperformed. -/
def drained (s : State) (who : Issuer) (lanes : List Nat) : Prop := ∀ l ∈ lanes, ∀ x, s.lane? who.core who.slot l = some x → x.acc = []

/-! ## Synchronisation and tasks -/

/-- A path whose lanes have nothing unperformed and wait for nothing, in a wave that is not lined and holds its lanes in ascending order. -/
structure Clear (s : State) (w : Wave) : Prop where
  lanes : ∀ u ∈ w.lanes, u.lane ∈ s.cur.lanes → u.acc = [] ∧ u.wait = .no ∧ u.pc = s.cur.pc
  sorted : w.lanes.Pairwise (fun x y => x.lane < y.lane)
  unlined : w.lining = none

/-- A path of one lane of a clear wave, and nothing in the view of its core, or at its gangs alone, to be published. -/
structure Alone (s : State) (w : Wave) (th : Thread) : Prop where
  one : s.cur.lanes = [th.lane]
  clear : Clear s w
  writes : (s.core w.core).writes = []
  overlays : ∀ g k, s.gang? g = some k → k.overlay = []

/-- Memory whose bytes can be read back: in canonical form, and with no place of a write above the next one given out. -/
def Orderly (s : State) : Prop := memWf s.mem = true ∧ ∀ x, getD s.stamps 0 x ≤ s.stamp

/-- No tile keeps a spill area in memory, and no instance is at work: no write by other means strikes what the package guards (spec/09 R196,
spec/24 R356). -/
def NoAreas (s : State) : Prop :=
  NoSpills s ∧ ∀ k ∈ s.comms, ∀ x ∈ k.2.instances, x.active = false

/-- The views of the cores that a launch used are published, and what lay beyond the package is answered for; or there is nothing to publish
(spec/15 R276, spec/21 R307). -/
def Published (s : State) (x : Launch) : Prop :=
  (∃ r, x.pubReq = some r ∧ s.waiting r = false) ∨
  (x.pubReq = none ∧ (∀ c ∈ x.used, (s.core c).writes = []) ∧ (∀ g ∈ s.gangs, g.2.overlay = []) ∧ (∀ p ∈ s.copies, p.2 = false) ∧
    ∀ q ∈ s.requests, q.kind.writes = false)

/-- Two byte ranges apart. -/
def Apart (a n b m : Nat) : Prop := a + n ≤ b ∨ b + m ≤ a

/-! ## The device -/

/-- Some bytes at a virtual address of a function lie in device memory at a physical one, whatever they hold: the tables that map them lie
elsewhere. -/
def Mapped (s : State) (vf va n pa : Nat) : Prop :=
  (∀ k < n, isDevice (pa + k) = true) ∧
  ∀ m, (∀ x, Apart x 1 pa n → readMem m x = readMem s.mem x) →
    ∀ k < n, ∀ wr, ({ s with mem := m } : State).devAddr vf (BitVec.ofNat 64 (va + k)) wr = pa + k

/-- Nothing is different but the waves in some slots of a core. -/
def OnlySlots (s s' : State) (c : Nat) (sls : List Nat) : Prop :=
  (∀ c' sl, c' ≠ c ∨ sl ∉ sls → s'.wave? c' sl = s.wave? c' sl) ∧ { s' with waves := s.waves } = s

end Sys2Proof.Claims
end

