-- ==== Sys2Proof/Certificates/Slice0/Obligations.lean ====
section
/-! DEFINITION. The statements for the provers. -/

open Sys2Proof Sys2Proof.Machine Sys2Proof.Claims

/-! ## Registers -/

/-- The integer instructions with two sources (R87 to R91, FCPS of R105, the 16-bit forms of R102): the lane's destination register takes the
function of its two sources that the table of IntTwo gives, as a result under the tack rules, and the lane goes on past the instruction;
nothing else of the lane changes. -/
def Obligations.IntegerTwoSources : Prop :=
  ∀ (i : Instr) (d a b : Reg) (t : Bool) (f : Word → Word → Word), IntTwo i d a b t f →
  ∀ (s : State) (w : Wave) (th : Thread), s.OnPath w th → s.regsOk [d.toNat, a.toNat, b.toNat] →
    ∃ s', exec i s = .next s' ∧ s'.lane? w.core w.slot th.lane =
      some ((th.setG s d.toNat (f (th.g? s a.toNat) (th.g? s b.toNat))).after s.cur.len t)

/-- The integer instructions with one source, and the constants (R91, R95, R96, R98, R102): the destination takes the function of the source, or
the constant, that IntOne and IntConst give; nothing else of the lane changes. -/
def Obligations.IntegerOneSource : Prop :=
  (∀ (i : Instr) (d a : Reg) (t : Bool) (f : Word → Word), IntOne i d a t f →
    ∀ (s : State) (w : Wave) (th : Thread), s.OnPath w th → s.regsOk [d.toNat, a.toNat] →
      ∃ s', exec i s = .next s' ∧ s'.lane? w.core w.slot th.lane = some ((th.setG s d.toNat (f (th.g? s a.toNat))).after s.cur.len t)) ∧
  (∀ (i : Instr) (d : Reg) (t : Bool) (v : Word), IntConst i d t v →
    ∀ (s : State) (w : Wave) (th : Thread), s.OnPath w th → s.regsOk [d.toNat] →
      ∃ s', exec i s = .next s' ∧ s'.lane? w.core w.slot th.lane = some ((th.setG s d.toNat v).after s.cur.len t))

/-- The destructive integer instructions, on a register and on a pair (R89, R91, R93, R115): the destination takes a function of its own old
value and of two sources. ADDC and SUBB (R87): the sum with, the difference less the carry in p6, and the carry or borrow out to p6. -/
def Obligations.IntegerAccumulate : Prop :=
  ((∀ (i : Instr) (d a b : Reg) (t : Bool) (f : Word → Word → Word → Word), IntThree i d a b t f →
     ∀ (s : State) (w : Wave) (th : Thread), s.OnPath w th → s.regsOk [d.toNat, a.toNat, b.toNat] →
       ∃ s', exec i s = .next s' ∧ s'.lane? w.core w.slot th.lane =
         some ((th.setG s d.toNat (f (th.g? s d.toNat) (th.g? s a.toNat) (th.g? s b.toNat))).after s.cur.len t)) ∧
   (∀ (i : Instr) (d a b : Reg) (t : Bool) (f : Dword → Word → Word → Int), IntPair i d a b t f →
     ∀ (s : State) (w : Wave) (th : Thread), s.OnPath w th → s.regsOk [d.toNat, d.toNat + 1, a.toNat, b.toNat] →
       ∃ s', exec i s = .next s' ∧ s'.lane? w.core w.slot th.lane =
         some ((th.setPair s d.toNat (BitVec.ofInt 64 (f (th.pair? s d.toNat) (th.g? s a.toNat) (th.g? s b.toNat)))).after s.cur.len t))) ∧
  (∀ (d a b : Reg) (t : Bool) (s : State) (w : Wave) (th : Thread), s.OnPath w th → s.regsOk [d.toNat, a.toNat, b.toNat] →
     let x : Int := (th.g? s a.toNat).toNat
     let y : Int := (th.g? s b.toNat).toNat
     let c : Int := (th.p? s 6).toNat
     (∃ s', exec (.addc d a b t) s = .next s' ∧ s'.lane? w.core w.slot th.lane =
       some (((th.setG s d.toNat (low (x + y + c))).setP s 6 (decide ((x + y + c) / 2 ^ 32 = 1))).after s.cur.len t)) ∧
     (∃ s', exec (.subb d a b t) s = .next s' ∧ s'.lane? w.core w.slot th.lane =
       some (((th.setG s d.toNat (low (x - y - c))).setP s 6 (decide (x - y - c < 0))).after s.cur.len t)))

/-- DIVS, DIVN, REMS, REMN (R92): the result where the condition is not enabled in $itrap, the ARITH trap where it is. The flags enter $iflags
in both cases, a result where the instruction completes, and undefined where the thread's own SWR of $iflags is outstanding (R38, R39); for the
trap that is read from R77 (log entry 64). -/
def Obligations.Division : Prop :=
  ∀ (i : Instr) (d a b : Reg) (t : Bool) (f : Word → Word → Int × Word), Divides i d a b t f →
  ∀ (s : State) (w : Wave) (th : Thread), s.OnPath w th → s.regsOk [d.toNat, a.toNat, b.toNat] →
    let r := f (th.g? s a.toNat) (th.g? s b.toNat)
    ∃ s' v, exec i s = .next s' ∧ (1024 + 0x070 ∉ th.marks → v = th.iflags ||| r.2) ∧ s'.lane? w.core w.slot th.lane = some (
      if r.2 &&& w.regs.itrap? s = 0 then ((th.withIflags v r.2).setG s d.toNat (low r.1)).after s.cur.len t
      else Thread.trap s w.regs { th with iflags := th.iflags ||| r.2 } cARITH th.pc)

/-- The comparisons and the predicate instructions (R94, R97, R100): the predicate takes the comparison of its sources, or the function of two
predicates. P2G and SEL (R100, R101): the value of a predicate as 0 or 1; the A operand where p[F] is 1 and the B operand otherwise, p7
reading 1. -/
def Obligations.Predicates : Prop :=
  ((∀ (i : Instr) (p : PReg) (a b : Reg) (t : Bool) (f : Word → Word → Bool), CmpTwo i p a b t f →
     ∀ (s : State) (w : Wave) (th : Thread), s.OnPath w th → s.regsOk [a.toNat, b.toNat] →
       ∃ s', exec i s = .next s' ∧ s'.lane? w.core w.slot th.lane =
         some ((th.setP s p.toNat (f (th.g? s a.toNat) (th.g? s b.toNat))).after s.cur.len t)) ∧
   (∀ (i : Instr) (p : PReg) (a : Reg) (n : BitVec 10) (t : Bool) (f : Word → Word → Bool), CmpOne i p a n t f →
     ∀ (s : State) (w : Wave) (th : Thread), s.OnPath w th → s.regsOk [a.toNat] →
       ∃ s', exec i s = .next s' ∧ s'.lane? w.core w.slot th.lane =
         some ((th.setP s p.toNat (f (th.g? s a.toNat) (low n.toInt))).after s.cur.len t)) ∧
   (∀ (i : Instr) (p a b : PReg) (t : Bool) (f : Bool → Bool → Bool), PredTwo i p a b t f →
     ∀ (s : State) (w : Wave) (th : Thread), s.OnPath w th →
       ∃ s', exec i s = .next s' ∧ s'.lane? w.core w.slot th.lane =
         some ((th.setP s p.toNat (f (th.p? s a.toNat) (th.p? s b.toNat))).after s.cur.len t))) ∧
  ((∀ (d : Reg) (a : PReg) (t : Bool) (s : State) (w : Wave) (th : Thread), s.OnPath w th → s.regsOk [d.toNat] →
     ∃ s', exec (.p2g d a t) s = .next s' ∧ s'.lane? w.core w.slot th.lane =
       some ((th.setG s d.toNat (if th.p? s a.toNat = true then 1#32 else 0#32)).after s.cur.len t)) ∧
   (∀ (d a b : Reg) (f : PReg) (t : Bool) (s : State) (w : Wave) (th : Thread), s.OnPath w th → s.regsOk [d.toNat, a.toNat, b.toNat] →
     ∃ s', exec (.sel d a b f t) s = .next s' ∧ s'.lane? w.core w.slot th.lane =
       some ((th.setG s d.toNat (if f.toNat = 7 ∨ th.p? s f.toNat = true then th.g? s a.toNat else th.g? s b.toNat)).after s.cur.len t)))

/-- The floating-point instructions of two sources, of one, and the destructive ones: result and flags where no flag is enabled in $ftrap, the
ARITH trap where one is (R77, R105, R106, R109 to R114). The flags enter $fflags, a result as $iflags is above, where the trap is taken too:
that is read from R77 (log entry 64). The bits of EXP2, LOG2, SIN, COS and TANH are free values within the bounds of R110 (log entry 4), the
same function in the statement and in the meaning. -/
def Obligations.FloatResults : Prop :=
  ∀ (s : State) (w : Wave) (th : Thread), s.OnPath w th →
    let out := fun (s' : State) (d : Nat) (t : Bool) (r : Word × Word) =>
      ∃ v, (1024 + 0x072 ∉ th.marks → v = th.fflags ||| r.2) ∧ s'.lane? w.core w.slot th.lane = some (
        if r.2 &&& w.regs.ftrap? s = 0 then ((th.withFflags v r.2).setG s d r.1).after s.cur.len t
        else Thread.trap s w.regs { th with fflags := th.fflags ||| r.2 } cARITH th.pc)
    let mode := RMode.ofBits ((w.regs.frnd? s).setWidth 2)
    (∀ (i : Instr) (d a b : Reg) (t : Bool) (f : RMode → Word → Word → Word × Word), FpTwo i d a b t f →
      s.regsOk [d.toNat, a.toNat, b.toNat] →
      ∃ s', exec i s = .next s' ∧ out s' d.toNat t (f mode (th.g? s a.toNat) (th.g? s b.toNat))) ∧
    (∀ (i : Instr) (d a b : Reg) (t : Bool) (f : RMode → Word → Word → Word → Word × Word), FpThree i d a b t f →
      s.regsOk [d.toNat, a.toNat, b.toNat] →
      ∃ s', exec i s = .next s' ∧ out s' d.toNat t (f mode (th.g? s d.toNat) (th.g? s a.toNat) (th.g? s b.toNat))) ∧
    (∀ (i : Instr) (d a : Reg) (t : Bool) (f : RMode → Word → Word × Word), FpOne i d a t f →
      s.regsOk [d.toNat, a.toNat] →
      ∃ s', exec i s = .next s' ∧ out s' d.toNat t (f mode (th.g? s a.toNat))) ∧
    (∀ (d a b : Reg) (t : Bool), s.regsOk [d.toNat, a.toNat, b.toNat] →
      ∃ s', exec (.dot4f d a b t) s = .next s' ∧
        ((w.regs.f8fmt? s).toNat % 8 = 7 → s'.lane? w.core w.slot th.lane = some (Thread.trap s w.regs th cILLOP th.pc)) ∧
        ((w.regs.f8fmt? s).toNat % 8 ≠ 7 →
          out s' d.toNat t (dot4f (w.regs.f8fmt? s) mode (th.g? s d.toNat) (th.g? s a.toNat) (th.g? s b.toNat))))

/-- The floating-point comparisons (R107): NV by a signalling NaN, for LT and LE by any; an enabled NV leaves the predicate unwritten, the flag
entering $fflags as for every trap (log entry 64). -/
def Obligations.FloatCompare : Prop :=
  ∀ (i : Instr) (p : PReg) (a b : Reg) (t : Bool) (f : Val → Val → Bool) (any : Bool), FpCompare i p a b t f any →
  ∀ (s : State) (w : Wave) (th : Thread), s.OnPath w th → s.regsOk [a.toNat, b.toNat] →
    let x := f32 (th.g? s a.toNat)
    let y := f32 (th.g? s b.toNat)
    let nv := if any then x.isNan || y.isNan else x.isSig || y.isSig
    let fl := if nv = true then fNV else 0
    ∃ s' v, exec i s = .next s' ∧ (1024 + 0x072 ∉ th.marks → v = th.fflags ||| fl) ∧ s'.lane? w.core w.slot th.lane = some (
      if nv = true ∧ w.regs.ftrap? s &&& fNV ≠ 0 then Thread.trap s w.regs { th with fflags := th.fflags ||| fl } cARITH th.pc
      else ((th.withFflags v fl).setP s p.toNat (f x y)).after s.cur.len t)

/-! ## Cross-lane instructions -/

/-- SHFL, SHFLR, VOTE, FOLD, LSET, once every member has issued it: each gets its result (R121 to R125, R127), or the ARITH trap of an enabled
flag. TOPK (R126): the member in lane of rank r gets the value and the lane of the r-th of the members in TOPK's order, where r < k, and 0
and 0xFFFF_FFFF otherwise. FOLD of f32 over NaN members and over one member follows log entry 15. -/
def Obligations.CrossLaneResults : Prop :=
  (∀ (i : Instr) (rs : List Nat) (m : BitVec 3) (t : Bool) (A K : State → Thread → Word) (f : RMode → List Brought → Nat → Word → Word → XResult × Word),
   Cross i rs m t A K f → ∀ (s : State) (w : Wave) (th : Thread), s.OnPath w th → s.regsOk rs → Gathered s w m →
     let r := f (RMode.ofBits (w.regs.frnd.setWidth 2)) (members s w m A K) th.lane (A s th) (K s th)
     let free := { th with wait := .no }
     ∃ s' v, exec i s = .next s' ∧ (1024 + 0x072 ∉ th.marks → v = th.fflags ||| r.2) ∧ s'.lane? w.core w.slot th.lane = some (
       if r.2 &&& w.regs.ftrap = 0 then (r.1.write s (free.withFflags v r.2)).after 4 t
       else Thread.trap s w.regs { free with fflags := th.fflags ||| r.2 } cARITH th.pc)) ∧
  (∀ (d a : Reg) (y : BitVec 2) (m : BitVec 3) (k : BitVec 5) (t : Bool) (s : State) (w : Wave) (th : Thread),
     s.OnPath w th → s.regsOk [d.toNat, d.toNat + 1, a.toNat] → Gathered s w m →
     let ms := members s w m (opG a.toNat) opNone
     let rank := (ms.filter (fun b => decide (b.1 < th.lane))).length
     let put := fun (v x : Word) => ((({ th with wait := .no }.setG s d.toNat v).setG s (d.toNat + 1) x).after 4 t)
     ∃ s', exec (.topk d a y m k t) s = .next s' ∧
       (rank ≤ k.toNat → ∃ z ∈ ms, (ms.filter (fun b => topBefore y b z)).length = rank ∧
         s'.lane? w.core w.slot th.lane = some (put z.2.1 (BitVec.ofNat 32 z.1))) ∧
       (k.toNat < rank → s'.lane? w.core w.slot th.lane = some (put 0 0xFFFFFFFF#32)))

/-- A cross-lane instruction is not completed alone (R117): a lane of the path outside the mask takes ILLOP; a member waits while some other
live member stands elsewhere. -/
def Obligations.CrossLaneWaits : Prop :=
  ∀ (i : Instr) (rs : List Nat) (m : BitVec 3) (t : Bool) (A K : State → Thread → Word) (f : RMode → List Brought → Nat → Word → Word → XResult × Word),
  Cross i rs m t A K f → ∀ (s : State) (w : Wave) (th : Thread), s.OnPath w th → th.wait = .no → s.regsOk rs → w.sReady [m.toNat] →
    ∃ s', exec i s = .next s' ∧
      ((w.regs.s? m.toNat).getLsbD th.lane = false → s'.lane? w.core w.slot th.lane = some (Thread.trap s w.regs th cILLOP th.pc)) ∧
      ((w.regs.s? m.toNat).getLsbD th.lane = true →
        (∃ u ∈ w.lanes, u.live = true ∧ (w.regs.s? m.toNat).getLsbD u.lane = true ∧ u.lane ∉ s.cur.lanes ∧ u.wait = .no) →
        ∃ x, s'.lane? w.core w.slot th.lane = some { th with wait := .cross x (w.regs.s? m.toNat) (A s th) (K s th) t })

/-! ## Branches, loops, seams -/

/-- BRA, CALL, BRX, CALLX, RET (R128 to R130). The link register holds the address after the call, undefined where an earlier write of g127 is
outstanding (R39); CALLX reads its pair once g127 is written. -/
def Obligations.Branches : Prop :=
  ∀ (s : State) (w : Wave) (th : Thread), s.OnPath w th →
    let linked := fun (u : Thread) =>
      (127 ∉ th.marks → u = { th with g := setD th.g 0 127 ((th.pc + 4).setWidth 32) }) ∧
      (127 ∈ th.marks → ∃ v, u = { th with g := setD th.g 0 127 v, marks := 127 :: th.marks })
    let even := fun (n : Nat) => BitVec.ofNat 64 (n - n % 2)
    (∀ (d : BitVec 20) (p : PReg) (n t : Bool), ∃ s', exec (.bra d p n t) s = .next s' ∧ s'.lane? w.core w.slot th.lane = some (
      if th.p? s p.toNat = !n then th.arriveAt (th.pc + BitVec.ofInt 64 (2 * d.toInt)) t else th.after s.cur.len t)) ∧
    (∀ (d : BitVec 20) (p : PReg) (n t : Bool), ∃ s' u, exec (.call d p n t) s = .next s' ∧ linked u ∧ s'.lane? w.core w.slot th.lane = some (
      if th.p? s p.toNat = !n then u.arriveAt (th.pc + BitVec.ofInt 64 (2 * d.toInt)) t else th.after s.cur.len t)) ∧
    (∀ (a : Reg) (t : Bool), s.regsOk [a.toNat, a.toNat + 1] → ∃ s', exec (.brx a t) s = .next s' ∧ s'.lane? w.core w.slot th.lane =
      some (th.arriveAt (even (th.pair? s a.toNat).toNat) t)) ∧
    (∀ (a : Reg) (t : Bool), s.regsOk [a.toNat, a.toNat + 1] → ∃ s' u, exec (.callx a t) s = .next s' ∧ linked u ∧
      s'.lane? w.core w.slot th.lane = some (u.arriveAt (even (u.pair? s a.toNat).toNat) t)) ∧
    (∀ (t : Bool), ∃ s', exec (.ret t) s = .next s' ∧ s'.lane? w.core w.slot th.lane =
      some (th.arriveAt (even (th.pc.toNat / 2 ^ 32 * 2 ^ 32 + (th.g? s 127).toNat)) t))

/-- LOOP (R132 to R134, R59): over a body of whole instructions, at most 256, with no level that forbids it: a count of 0 skips the body, any
other starts the level; a body that ends inside an instruction, a counter in use, or a level that ends earlier raise ILLOP, a longer body
LOOPLEN. A counter with the thread's own write outstanding becomes undefined (R39); a halfword of the body that cannot be fetched is log entry
76.
The check at the end of a pass (R133), of the newest level that ends here: a count above 1 goes down and the body runs again; else the level ends
with its counter 0, and the check of the next level that ends at the same instruction follows. -/
def Obligations.Loops : Prop :=
  (∀ (n : BitVec 10) (c : Reg) (i : Bool) (l : BitVec 2) (t : Bool) (s : State) (w : Wave) (th : Thread) (k : Nat) (last : Dword) (whole : Bool),
     s.OnPath w th → s.cur.len = 4 → (i = false → s.regsOk [c.toNat]) →
     s.walkBody w.core w.blk (n.toNat + 1) (th.pc + 4) n.toNat 0 (th.pc + 4) = (k, last, whole) →
     let count : Word := if i = true then BitVec.ofNat 32 c.toNat else th.g? s c.toNat
     let fin := th.pc + 4 + BitVec.ofNat 64 (2 * n.toNat)
     let clash := th.loops.any (fun v => v.ctr == l.toNat || decide (v.last.toNat < last.toNat))
     ∃ s' v, exec (.loop n c i l t) s = .next s' ∧ (th.specialPending (0x090 + l.toNat) = false → v = count) ∧ s'.lane? w.core w.slot th.lane = some (
       if clash = true ∨ whole = false then Thread.trap s w.regs th cILLOP th.pc
       else if 256 < k then Thread.trap s w.regs th cLOOPLEN th.pc
       else if count = 0 then { th with pc := fin - 4 }.after 4 t
       else { th with lc := setD th.lc 0 l.toNat v, loops := ⟨l.toNat, th.pc + 4, last, fin⟩ :: th.loops, marks := (136 + l.toNat) :: th.marks }.after 4 t)) ∧
  (∀ (s : State) (w : Wave) (th : Thread) (l : LoopLevel) (newer rest : List LoopLevel), s.wave? w.core w.slot = some w →
     w.lane? th.lane = some th → th.live = true → th.endChk = true → th.loops = newer ++ l :: rest → (∀ o ∈ newer, o.fin ≠ th.pc) → l.fin = th.pc →
     let v := (getD th.lc 0 l.ctr).toNat
     ∃ s', exec (.loopEndCheck w.core w.slot th.lane) s = .next s' ∧
       (1 < v → s'.lane? w.core w.slot th.lane =
         some { th with pc := l.start, endChk := false, lc := setD th.lc 0 l.ctr (BitVec.ofNat 32 (v - 1)) }) ∧
       (v ≤ 1 → (∀ o ∈ rest, o.fin ≠ th.pc) → s'.lane? w.core w.slot th.lane =
         some { th with loops := newer ++ rest, endChk := false, lc := setD th.lc 0 l.ctr 0 }) ∧
       (∀ o mid older, v ≤ 1 → rest = mid ++ o :: older → (∀ x ∈ mid, x.fin ≠ th.pc) → o.fin = th.pc → o.ctr ≠ l.ctr →
         1 < (getD th.lc 0 o.ctr).toNat → s'.lane? w.core w.slot th.lane = some { th with
           pc := o.start, loops := newer ++ rest, endChk := false, lc := setD (setD th.lc 0 l.ctr 0) 0 o.ctr (getD th.lc 0 o.ctr - 1) }))

/-- SEAM (R138, R139): ENROL sets the lanes' bits; SMASK reads the enrolled; WAIT of lanes enrolled waits until the waiting are the enrolled and
then releases every one of them; a lane that is not enrolled goes on; LEAVE takes the lanes' bits from both masks; and a lane that has
waited 4,096 cycles leaves the seam on its own. -/
def Obligations.Seams : Prop :=
  (∀ (j : BitVec 3) (t : Bool) (s : State) (w : Wave) (th : Thread), s.OnPath w th →
     let E := getD w.regs.seamE 0 j.toNat
     let W := getD w.regs.seamW 0 j.toNat
     let W1 := W ||| (s.curMask &&& E)
     (∃ s' w', exec (.seamEnrol j t) s = .next s' ∧ s'.wave? w.core w.slot = some w' ∧
       w'.regs.seamE = setD w.regs.seamE 0 j.toNat (E ||| s.curMask) ∧ w'.regs.seamW = w.regs.seamW ∧ w'.lane? th.lane = some (th.after s.cur.len t)) ∧
     (∀ d : Reg, s.regsOk [d.toNat] → ∃ s', exec (.seamSmask d j t) s = .next s' ∧
       s'.lane? w.core w.slot th.lane = some ((th.setG s d.toNat E).after s.cur.len t)) ∧
     (E.getLsbD th.lane = false → W.getLsbD th.lane = false →
       ∃ s', exec (.seamWait j t) s = .next s' ∧ s'.lane? w.core w.slot th.lane = some (th.after s.cur.len t)) ∧
     (E.getLsbD th.lane = true → W1 ≠ E → ∃ s' w', exec (.seamWait j t) s = .next s' ∧ s'.wave? w.core w.slot = some w' ∧
       w'.regs.seamE = w.regs.seamE ∧ w'.regs.seamW = setD w.regs.seamW 0 j.toNat W1 ∧
       w'.lane? th.lane = some { th with wait := .seam j.toNat (s.clockOf w.core) t }) ∧
     (E.getLsbD th.lane = true → W1 = E → canonical (0 : Word) w.regs.seamW = true → th.lane < 32 → th.wait = .no →
       ∃ s' w', exec (.seamWait j t) s = .next s' ∧ s'.wave? w.core w.slot = some w' ∧
       w'.regs.seamE = setD w.regs.seamE 0 j.toNat 0 ∧ getD w'.regs.seamW 0 j.toNat = 0 ∧ w'.lane? th.lane = some (th.after 4 t) ∧
       (∀ u k since b, w.lane? u = some k → u ∉ s.cur.lanes → E.getLsbD u = true → k.wait = .seam j.toNat since b →
         w'.lane? u = some ({ k with wait := .no }.after 4 b)))) ∧
  (∀ (j : BitVec 3) (s : State) (w : Wave) (th : Thread),
     let E := getD w.regs.seamE 0 j.toNat
     let W := getD w.regs.seamW 0 j.toNat
     canonical (0 : Word) w.regs.seamE = true → canonical (0 : Word) w.regs.seamW = true →
     (∀ t : Bool, s.OnPath w th → E &&& ~~~s.curMask = 0 ∨ W &&& ~~~s.curMask ≠ E &&& ~~~s.curMask →
       ∃ s' w', exec (.seamLeave j t) s = .next s' ∧ s'.wave? w.core w.slot = some w' ∧
         getD w'.regs.seamE 0 j.toNat = E &&& ~~~s.curMask ∧ getD w'.regs.seamW 0 j.toNat = W &&& ~~~s.curMask ∧
         w'.lane? th.lane = some (th.after s.cur.len t)) ∧
     (∀ (since : Nat) (b : Bool), s.wave? w.core w.slot = some w → w.lane? th.lane = some th → th.lane < 32 → th.wait = .seam j.toNat since b →
       s.gangOf w.blk = none ∨ (∃ g, s.gangOf w.blk = some g ∧ g.stop = false) → 4096 ≤ s.clockOf w.core - since →
       let bit := (1#32 : Word) <<< th.lane
       E &&& ~~~bit = 0 ∨ W &&& ~~~bit ≠ E &&& ~~~bit →
       ∃ s' w', exec (.seamWaitTimeout w.core w.slot th.lane) s = .next s' ∧ s'.wave? w.core w.slot = some w' ∧
         getD w'.regs.seamE 0 j.toNat = E &&& ~~~bit ∧ getD w'.regs.seamW 0 j.toNat = W &&& ~~~bit ∧
         w'.lane? th.lane = some ({ th with wait := .no }.after 4 b)))

/-! ## The end of a lane; regions, throws, traps -/

/-- EXIT (R131), of a path with nothing unperformed: its lanes are not live after it and stand in no seam's masks; a live lane elsewhere in the wave that
waits for nothing stays as it is; a wave with no live lane left is gone. -/
def Obligations.ExitEnds : Prop :=
  ∀ (t : Bool) (s : State) (w : Wave) (th : Thread), s.OnPath w th →
    (∀ u ∈ w.lanes, u.lane ∈ s.cur.lanes → u.acc = [] ∧ u.wait = .no ∧ u.pc = s.cur.pc) →
    ∃ s', exec (.exit t) s = .next s' ∧ (∀ u, s'.lane? w.core w.slot th.lane = some u → u.live = false) ∧
      (∀ l u, l ∉ s.cur.lanes → w.lane? l = some u → u.live = true → u.wait = .no → s'.lane? w.core w.slot l = some u) ∧
      (∀ v, s'.wave? w.core w.slot = some v → canonical (0 : Word) w.regs.seamE = true → canonical (0 : Word) w.regs.seamW = true →
        ∀ j < 8, getD v.regs.seamE 0 j &&& s.curMask = 0 ∧ getD v.regs.seamW 0 j &&& s.curMask = 0) ∧
      ((∀ u ∈ w.lanes, u.live = true → u.lane ∈ s.cur.lanes) → s'.wave? w.core w.slot = none)

/-- TRY and ENDTRY in a group of one wave whose live lanes all stand on the path (R209), in a wave that is not re-executing: the region opens, or
closes, in each of them; a ninth region, a level greater than that of the innermost, and an ENDTRY without a region raise ILLOP. -/
def Obligations.TryRegions : Prop :=
  ∀ (s : State) (w : Wave) (th : Thread) (t : Bool), s.OnPath w th → th.wait = .no → th.live = true → w.fresh → s.images = [] →
    let whole := ∀ u ∈ w.lanes, u.live = true → u.lane ∈ s.cur.lanes ∧ u.pc = th.pc
    (∀ (d : BitVec 20) (l : BitVec 3), let k := s.levelOf w l
      s.levelBad w k = false →
      ∃ s', exec (.tryOpen d l t) s = .next s' ∧
        ((8 ≤ th.regions.length ∨ ∃ r, th.regions.head? = some r ∧ r.level < k) →
          s'.lane? w.core w.slot th.lane = some (Thread.trap s w.regs th cILLOP th.pc)) ∧
        (whole → s.waves.filter (s.sameGroup k w) = [w] →
          (∀ u ∈ w.lanes, u.live = true → u.regions.length < 8 ∧ ∀ r, u.regions.head? = some r → k ≤ r.level) →
          s'.lane? w.core w.slot th.lane =
            some ({ th with regions := ⟨k, th.pc + BitVec.ofInt 64 (2 * d.toInt), th.pc⟩ :: th.regions }.after 4 t))) ∧
    (∃ s', exec (.endtry t) s = .next s' ∧
      (th.regions = [] → s'.lane? w.core w.slot th.lane = some (Thread.trap s w.regs th cILLOP th.pc)) ∧
      (∀ r rest, th.regions = r :: rest → whole → s.waves.filter (s.sameGroup r.level w) = [w] →
        (∀ u ∈ w.lanes, u.live = true → ∃ x, u.regions.head? = some x ∧ x.level = r.level ∧ x.tryPc = r.tryPc) →
        s'.lane? w.core w.slot th.lane = some ({ th with regions := rest }.after 4 t)))

/-- THROW, THROWI, RETHROW (R210): class USER with the register's or the constant code; the class, code and address of the record. -/
def Obligations.Throws : Prop :=
  ∀ (s : State) (w : Wave) (th : Thread) (t : Bool), s.OnPath w th →
    let thrown := fun (cls : Nat) (code : Word) (pc : Dword) => { th with wait := .thrown { cls := cls, code := code, xpc := pc, cyc := s.cycles, step := s.free } }
    (∀ a : Reg, s.regsOk [a.toNat] → ∃ s', exec (.throwG a t) s = .next s' ∧
      s'.lane? w.core w.slot th.lane = some (thrown 1 (th.g? s a.toNat) th.pc)) ∧
    (∀ c : BitVec 7, ∃ s', exec (.throwi c t) s = .next s' ∧ s'.lane? w.core w.slot th.lane = some (thrown 1 (BitVec.ofNat 32 c.toNat) th.pc)) ∧
    (∃ s', exec (.rethrow t) s = .next s' ∧
      s'.lane? w.core w.slot th.lane = some (thrown (w.regs.x.cls.toNat % 256) w.regs.x.code w.regs.x.pc))

/-- Taking a user trap (R214, R215, R40, R135): the cause, the return address (the next instruction's for TRAP, the trapping instruction's for
ILL), the handler state, the loop levels suspended, the handler's address; with $utvec = 0 a throw of the cause's class and code. No SWR of the
wave is outstanding.
URET and URETRY (R216, R285, spec/27 R391): outside the handler both raise ILLOP, as do URETRY after another cause than SILENT and URET from the
handler of a SILENT trap; URET resumes the suspended levels at $uepc; URETRY puts every lane of its wave back to the last lining checkpoint, from where it
ages anew. In a wave that is not lined the place URETRY goes on at is not stated (log entry 22). A TRAP that is the last of a body leaves no end check due
(log entry 76). -/
def Obligations.Traps : Prop :=
  (∀ (s : State) (w : Wave) (th : Thread), s.OnPath w th → w.regs.old = [] →
     let enters := fun (u : Thread) (cause : Nat) (epc : Dword) => if w.regs.utvec = 0 then
         u = { th with ucause := BitVec.ofNat 32 cause, uepc := epc, endChk := false, wait := .thrown ⟨cause % 256, BitVec.ofNat 32 (cause / 256), epc, s.cycles, s.free⟩ }
       else u = { th with ucause := BitVec.ofNat 32 cause, uepc := epc, endChk := false, handler := true, hsilent := th.hsilent,
                          suspended := if th.handler = true then th.suspended else th.loops, loops := [], pc := w.regs.utvec &&& ~~~1#64,
                          marks := if th.outstanding = true then th.marks else [], wait := if th.outstanding = true then .tack else th.wait }
     let even := fun (x : Dword) => x.getLsbD 0 = false
     even th.pc → even (th.pc + BitVec.ofNat 64 s.cur.len) →
     (∀ (c : BitVec 7) (t : Bool), ∃ s' u, exec (.trap c t) s = .next s' ∧ s'.lane? w.core w.slot th.lane = some u ∧
       enters u (11 + c.toNat * 2 ^ 8) (th.pc + BitVec.ofNat 64 s.cur.len)) ∧
     (∀ i ∈ [Instr.ill16, Instr.ill32, Instr.reservedOrIllegalWord], ∃ s' u, exec i s = .next s' ∧ s'.lane? w.core w.slot th.lane = some u ∧
       enters u 3 th.pc)) ∧
  (∀ (s : State) (w : Wave) (th : Thread) (t : Bool), s.OnPath w th → th.wait = .no →
     (∃ s', exec (.uret t) s = .next s' ∧
       (th.handler = false ∨ th.hsilent = true → s'.lane? w.core w.slot th.lane = some (Thread.trap s w.regs th cILLOP th.pc)) ∧
       (th.handler = true → th.hsilent = false → 1121 ∉ th.marks → th.uepc.getLsbD 0 = false →
         ∃ u, s'.lane? w.core w.slot th.lane = some u ∧ u.pc = th.uepc ∧ u.handler = false ∧ u.loops = th.suspended ∧ u.suspended = [] ∧
           u.g = th.g ∧ u.p = th.p ∧ u.lc = th.lc)) ∧
     (∃ s', exec (.uretry t) s = .next s' ∧
       (let wrong := fun (u : Thread) => u.handler = false ∨ 1122 ∉ u.marks ∧ u.ucause.toNat % 256 ≠ 10
        wrong th → w.lining = none ∨ (∀ u ∈ w.lanes, u.lane ∈ s.cur.lanes → wrong u) →
          s'.lane? w.core w.slot th.lane = some (Thread.trap s w.regs th cILLOP th.pc)) ∧
       (th.handler = true → 1122 ∉ th.marks → th.ucause.toNat % 256 = 10 → w.lining = none →
         ∃ u, s'.lane? w.core w.slot th.lane = some u ∧ u.handler = false ∧ u.loops = [] ∧ u.suspended = [] ∧ u.g = th.g ∧ u.p = th.p) ∧
       (∀ l c, w.lining = some l → th.handler = true → 1122 ∉ th.marks → th.ucause.toNat % 256 = 10 → l.saved = [] →
         l.ckLanes.find? (fun x => x.lane == c.lane) = some c → (∀ k b, c.wait ≠ .barrier k b) → s'.lane? w.core w.slot c.lane = some { c with age := 0 })))

/-- SRD and SWR of registers that the map holds (R22, R225, R26): SRD writes the register's value, of a 64-bit one to the pair, unless the thread
has written it since its last park; SWR writes a register of the thread in every lane, one of the wave with the value of the lowest lane, unless
an earlier write of it is outstanding (R39); a number that the map does not hold raises ILLOP. -/
def Obligations.SpecialRegisters : Prop :=
  ∀ (s : State) (w : Wave) (th : Thread) (n : BitVec 10) (t : Bool), s.OnPath w th →
    let wide := n.toNat = 0x009 ∨ n.toNat = 0x044 ∨ n.toNat = 0x060 ∨ n.toNat = 0x061
    let rs := fun (r : Reg) => if wide then [r.toNat, r.toNat + 1] else [r.toNat]
    (∀ d : Reg, s.regsOk (rs d) → n.toNat ∉ [0x005, 0x006, 0x009] → ∃ s', exec (.srd d n t) s = .next s' ∧
      (s.special w th n.toNat = none → s'.lane? w.core w.slot th.lane = some (Thread.trap s w.regs th cILLOP th.pc)) ∧
      (∀ v, s.special w th n.toNat = some v → th.specialPending n.toNat = false → s'.lane? w.core w.slot th.lane =
        some ((if wide then th.setPair s d.toNat v else th.setG s d.toNat (v.setWidth 32)).after s.cur.len t))) ∧
    (∀ (d : Reg) (v : Dword), s.cur.lanes = [th.lane] → w.lining = none → s.regsOk (rs d) → n.toNat ∈ [0x005, 0x006, 0x009] →
      s.special w th n.toNat = some v → ∃ s', exec (.srd d n t) s = .next s' ∧ s'.lane? w.core w.slot th.lane =
        some ((if wide then th.setPair s d.toNat v else th.setG s d.toNat (v.setWidth 32)).after s.cur.len t)) ∧
    (∀ a : Reg, s.regsOk (rs a) → ∃ s', exec (.swr a n t) s = .next s' ∧
      (s.special w th n.toNat = none → s.cur.lanes = [th.lane] →
        s'.lane? w.core w.slot th.lane = some (Thread.trap s w.regs th cILLOP th.pc)) ∧
      (th.specialPending n.toNat = false →
       (∀ x, n.toNat = 0x070 → x = th.g? s a.toNat → s'.lane? w.core w.slot th.lane =
        some ({ th with iflags := x &&& 3#32, marks := (1024 + 0x070) :: th.marks }.after s.cur.len t)) ∧
       (∀ x, n.toNat = 0x072 → x = th.g? s a.toNat → s'.lane? w.core w.slot th.lane =
        some ({ th with fflags := x &&& 0x1F#32, marks := (1024 + 0x072) :: th.marks }.after s.cur.len t)) ∧
       (∀ x, n.toNat = 0x061 → x = th.pair? s a.toNat → s'.lane? w.core w.slot th.lane =
        some ({ th with uepc := x &&& ~~~1#64, marks := (1024 + 0x061) :: th.marks }.after s.cur.len t)) ∧
       (∀ x, n.toNat = 0x062 → x = th.g? s a.toNat → s'.lane? w.core w.slot th.lane =
        some ({ th with ucause := x &&& 0x7FFF#32, marks := (1024 + 0x062) :: th.marks }.after s.cur.len t)) ∧
       (∀ l x, l < 3 → n.toNat = 0x090 + l → x = th.g? s a.toNat → s'.lane? w.core w.slot th.lane =
        some ({ th with lc := setD th.lc 0 l x, marks := (1024 + 0x090 + l) :: th.marks }.after s.cur.len t))) ∧
      ((∀ u ∈ w.lanes, u.lane ∈ s.cur.lanes → u.specialPending n.toNat = false) → (w.lanes.find? (fun x => s.cur.lanes.elem x.lane)).map (fun x => x.lane) = some th.lane → ∃ w', s'.wave? w.core w.slot = some w' ∧
        (n.toNat = 0x060 → w'.regs.utvec = th.pair? s a.toNat &&& ~~~1#64) ∧
        (n.toNat = 0x071 → w'.regs.itrap = th.g? s a.toNat &&& 3#32) ∧ (n.toNat = 0x073 → w'.regs.ftrap = th.g? s a.toNat &&& 0x1F#32) ∧
        (n.toNat = 0x074 → w'.regs.frnd = th.g? s a.toNat &&& 3#32) ∧ (n.toNat = 0x075 → w'.regs.f8fmt = th.g? s a.toNat &&& 0x1F#32)))

/-- NOP, TFLUSH, BRK without debug halts, PMARK, YIELD: nothing but the advance of the path's lanes (R217, R226), and the flush of the core's window by
TFLUSH; the YIELD of a panel whose waves are all active, the PMARK of a panel that records nothing in a wave that is not lined; no PMARK writes memory.
BRK halts a launch whose record enables it, its saved gangs too: the thread stands after it, the launch's gangs are to stop, and none is placed where one of
them ran (spec/23 R344).
SLEEP, by its core's clock, and the end of it; CLOCK and PTIME in a path of one lane of a wave that is not lined (R226, R227). -/
def Obligations.Advances : Prop :=
  (∀ (s : State) (w : Wave) (th : Thread) (t : Bool), s.OnPath w th →
     let alone := fun (s' : State) => s.OnlyLanes s' w s.cur.lanes
     (∃ s', exec (.nop t) s = .next s' ∧ s'.lane? w.core w.slot th.lane = some (th.after s.cur.len t) ∧ alone s') ∧
     (∃ s', exec (.tflush t) s = .next s' ∧ s'.lane? w.core w.slot th.lane = some (th.after s.cur.len t) ∧ alone s' ∧
       ((s.core w.core).window.any (fun e => e.blk == w.blk) = true → ∀ e ∈ (s'.core w.core).window, e.fresh = false)) ∧
     (∃ s', exec (.brk t) s = .next s' ∧
       ((s.waveRec w).debug = false → s'.lane? w.core w.slot th.lane = some (th.after s.cur.len t) ∧ alone s') ∧
       (∀ g l, (s.waveRec w).debug = true → s.gangOf w.blk = some g → s.launch? g.launch = some l → (∀ k ∈ s.gangs, k.2.id = k.1) →
         s'.lane? w.core w.slot th.lane = some { th.after s.cur.len t with wait := .stopped, marks := [] } ∧
         (∃ l', s'.launch? g.launch = some l' ∧ l'.halted = true ∧
           ∀ k ∈ s.gangs, k.2.launch = g.launch → ∀ n ∈ s.gangParts k.1, n ∈ l'.held) ∧
         (∀ p ∈ s'.images, p.2.gang.launch = g.launch → p.2.halt = true) ∧
         (∀ k ∈ s.gangs, k.2.launch = g.launch → ∃ k' ∈ s'.gangs, k'.1 = k.1 ∧ k'.2.stop = true ∧ k'.2.baste = false))) ∧
     (∃ s', exec (.yield t) s = .next s' ∧ s'.lane? w.core w.slot th.lane = some (th.after s.cur.len t) ∧
       ((∀ v ∈ s.waves, v.core = w.core → v.slot / 32 = w.slot / 32 → v.active = true) → alone s')) ∧
     (∀ a : Reg, s.regsOk [a.toNat] → ∃ s', exec (.pmark a t) s = .next s' ∧ s'.lane? w.core w.slot th.lane = some (th.after s.cur.len t) ∧
       s.sameMemory s' ∧ (w.lining = none → s.samples w.core (w.slot / 32) (s.vfOf w.blk) = false → alone s'))) ∧
  (∀ (s : State) (w : Wave) (th : Thread) (t : Bool), s.OnPath w th → th.wait = .no →
     (∀ a : Reg, s.regsOk [a.toNat] → ∃ s', exec (.sleep a t) s = .next s' ∧
       (let n := (th.g? s a.toNat).toNat
        let u := th.after s.cur.len false
        s'.lane? w.core w.slot th.lane = some (
          if t = true ∧ th.outstanding = true then { u with wait := .sleep 0 n true }
          else { u with wait := if n = 0 then .no else .sleep (s.clockOf w.core + n) n false, marks := if t = true then [] else u.marks }))) ∧
     (∀ (d : Reg), s.cur.lanes = [th.lane] → w.lining = none → s.regsOk [d.toNat, d.toNat + 1] →
       (∃ s', exec (.clock d t) s = .next s' ∧
         s'.lane? w.core w.slot th.lane = some ((th.setPair s d.toNat (BitVec.ofNat 64 (s.clockOf w.core))).after s.cur.len t)) ∧
       (∃ s', exec (.ptime d t) s = .next s' ∧
         s'.lane? w.core w.slot th.lane = some ((th.setPair s d.toNat (BitVec.ofNat 64 s.clock.now)).after s.cur.len t))) ∧
     (∀ (c sl : Nat) (v : Wave) (x : Thread) (u n : Nat), s.wave? c sl = some v → v.lane? x.lane = some x → x.wait = .sleep u n false →
       ∃ s', exec (.sleepExpire c sl x.lane) s = .next s' ∧ s'.lane? c sl x.lane = some (if u ≤ s.clockOf c then { x with wait := .no } else x)))

/-! ## Memory -/

/-- LD, LDS and LDC issue (R156, R157, R141): the load waits to be performed and its destination is outstanding, where the address is good; LDC,
in a wave that is not re-executing, with nothing poisoned and no spill area in memory, has its value at once, bytes beyond its bank 0, any other the byte the launch began with or the one memory now holds, and where it is
misaligned raises FAULT; every byte of a bank that the launch does not declare reads zero (R31). ST and STS issue (R156, R157, R141), from a wave
whose comparators agree: the low bytes of the data register wait to enter the view or the scratchpad; nothing is written yet. -/
def Obligations.LoadsAndStoresIssue : Prop :=
  (∀ (d : Reg) (h x : Bool) (z : BitVec 2) (g : Reg) (sb : BitVec 6) (t : Bool) (s : State) (w : Wave) (th : Thread), s.OnPath w th →
     let size := 2 ^ z.toNat
     let rs := if size = 8 then [d.toNat, d.toNat + 1] else [d.toNat]
     let issues := fun (u : Thread) (pl : Place) (va : Dword) =>
       { u with acc := u.acc ++ [issuedAt s th (.load size x d.toNat) pl va], marks := rs ++ u.marks }
     s.regsOk (g.toNat :: rs) →
     (∀ pl, w.sReady [sb.toNat, sb.toNat + 1] →
       let va := (w.regs.s? (sb.toNat + 1) ++ w.regs.s? sb.toNat) + (th.g? s g.toNat).setWidth 64
       s.resolve w.blk va size false = .at pl →
       ∃ s', exec (.ld d h x z g sb t) s = .next s' ∧ s'.lane? w.core w.slot th.lane = some ((issues th pl va).after s.cur.len t) ∧ s.sameMemory s') ∧
     (w.sReady [sb.toNat] →
       let a := (w.regs.s? sb.toNat + th.g? s g.toNat).toNat
       (∀ b off, a % size = 0 → s.padAt w.blk a = some (b, off) →
         ∃ s', exec (.lds d h x z g sb t) s = .next s' ∧
           s'.lane? w.core w.slot th.lane = some ((issues th (.pad b off) 0).after s.cur.len t) ∧ s.sameMemory s') ∧
       (a % size ≠ 0 → w.fresh → s.poisoned = [] → NoSpills s → ∃ s', exec (.ldc d h x z g sb t) s = .next s' ∧ s.sameMemory s' ∧
         s'.lane? w.core w.slot th.lane = some (Thread.trap s w.regs th cFAULT th.pc)) ∧
       (a % size = 0 → w.fresh → s.poisoned = [] → NoSpills s → ∃ s' bs, exec (.ldc d h x z g sb t) s = .next s' ∧ s.sameMemory s' ∧ bs.length = size ∧
         (∀ i < size, ∀ p, s.progOf w.blk = some p → p.banks.find? (fun k => k.1 == (a + i) / 2 ^ 16 % 16) = none → bs.getD i 1 = 0) ∧
         (∀ i < size, ∀ p, s.progOf w.blk = some p → ∀ b va n, p.banks.find? (fun k => k.1 == (a + i) / 2 ^ 16 % 16) = some (b, va, n) →
           (n ≤ (a + i) % 2 ^ 16 → bs.getD i 1 = 0) ∧
           ((a + i) % 2 ^ 16 < n → bs.getD i 0 = getD p.cbytes 0#8 ((a + i) / 2 ^ 16 % 16 * 2 ^ 16 + (a + i) % 2 ^ 16) ∨
             bs.getD i 0 = readMem s.mem (s.devAddr (s.vfOf w.blk) (BitVec.ofNat 64 (va + (a + i) % 2 ^ 16)) false))) ∧
         (let v := extendLoad size x (leNat bs)
          s'.lane? w.core w.slot th.lane =
           some ((if size = 8 then th.setPair s d.toNat v else th.setG s d.toNat (v.setWidth 32)).after s.cur.len t))))) ∧
  (∀ (d : Reg) (h : Bool) (z : BitVec 2) (g : Reg) (sb : BitVec 6) (t : Bool) (s : State) (w : Wave) (th : Thread), s.OnPath w th →
     let size := 2 ^ z.toNat
     let rs := if size = 8 then [d.toNat, d.toNat + 1] else [d.toNat]
     let data := leBytes size (if size = 8 then (th.pair? s d.toNat).toNat else (th.g? s d.toNat).toNat)
     let issues := fun (u : Thread) (pl : Place) (va : Dword) => { u with acc := u.acc ++ [issuedAt s th (.store data) pl va] }
     s.Agrees w → s.regsOk (g.toNat :: rs) →
     (∀ pl, w.sReady [sb.toNat, sb.toNat + 1] →
       let va := (w.regs.s? (sb.toNat + 1) ++ w.regs.s? sb.toNat) + (th.g? s g.toNat).setWidth 64
       s.resolve w.blk va size true = .at pl →
       ∃ s', exec (.st d h z g sb t) s = .next s' ∧ s'.lane? w.core w.slot th.lane = some ((issues th pl va).after s.cur.len t) ∧
         s.sameMemory s' ∧ s'.blocks = s.blocks) ∧
     (w.sReady [sb.toNat] →
       let a := (w.regs.s? sb.toNat + th.g? s g.toNat).toNat
       ∀ b off, a % size = 0 → s.padAt w.blk a = some (b, off) →
         ∃ s', exec (.sts d h z g sb t) s = .next s' ∧ s'.lane? w.core w.slot th.lane = some ((issues th (.pad b off) 0).after s.cur.len t) ∧
           s.sameMemory s' ∧ s'.blocks = s.blocks))

/-- The checks of R157 in their order at a global address: a misaligned or a non-canonical one raises FAULT, one outside the leased ranges throws
LEASE with code 0, one that fails translation holds its lane and stops its core (R281); none of them accesses anything. Where comparators look on
they agree. A misaligned scratch or
constant address, and a scratch address that is not good, raise FAULT. -/
def Obligations.AddressChecks : Prop :=
  ∀ (d : Reg) (h x : Bool) (z : BitVec 2) (g : Reg) (sb : BitVec 6) (t : Bool) (s : State) (w : Wave) (th : Thread), s.OnPath w th →
    let size := 2 ^ z.toNat
    s.Agrees w → s.regsOk (g.toNat :: if size = 8 then [d.toNat, d.toNat + 1] else [d.toNat]) →
    (w.sReady [sb.toNat, sb.toNat + 1] →
      let va := (w.regs.s? (sb.toNat + 1) ++ w.regs.s? sb.toNat) + (th.g? s g.toNat).setWidth 64
      let canonical := va.toNat / 2 ^ 56 = 0 ∨ va.toNat / 2 ^ 56 = 255
      let outside := fun (write : Bool) => ∀ r ∈ s.leaseOf w.blk, ¬ (r.va ≤ va.toNat ∧ va.toNat < r.va + r.len ∧ (write = true → r.flags.testBit 0 = true))
      ∀ (i : Instr) (write : Bool), (i = .ld d h x z g sb t ∧ write = false ∨ i = .st d h z g sb t ∧ write = true) → ∃ s', exec i s = .next s' ∧
        s.sameMemory s' ∧
        (va.toNat % size ≠ 0 ∨ ¬ canonical → s'.lane? w.core w.slot th.lane = some (Thread.trap s w.regs th cFAULT th.pc)) ∧
        (va.toNat % size = 0 → canonical → s.windowOf va.toNat = none → outside write →
          s'.lane? w.core w.slot th.lane = some { th with wait := .thrown ⟨8, 0, th.pc, s.cycles, s.free⟩ }) ∧
        (∀ k l, va.toNat % size = 0 → canonical → s.windowOf va.toNat = none → ¬ outside write → s.translate (s.vfOf w.blk) va write false = .fail k l →
          s'.lane? w.core w.slot th.lane = some { th with wait := .fault } ∧
          ∃ f ∈ (s'.core w.core).faults, f.kind = k ∧ f.va = va ∧ f.level = l ∧ f.write = write ∧ f.who = ⟨w.core, w.slot, th.lane, th.pc, w.blk⟩ ∧ f.recorded = false ∧
            f.fetch = false ∧ f.copy = none ∧ f.vf = s.vfOf w.blk)) ∧
    (w.sReady [sb.toNat] →
      let a := (w.regs.s? sb.toNat + th.g? s g.toNat).toNat
      (∀ i ∈ [Instr.lds d h x z g sb t, Instr.sts d h z g sb t], a % size ≠ 0 ∨ s.padAt w.blk a = none →
        ∃ s', exec i s = .next s' ∧ s.sameMemory s' ∧ s'.lane? w.core w.slot th.lane = some (Thread.trap s w.regs th cFAULT th.pc)) ∧
      (a % size ≠ 0 → ∃ s', exec (.ldc d h x z g sb t) s = .next s' ∧
        s'.lane? w.core w.slot th.lane = some (Thread.trap s w.regs th cFAULT th.pc)))

/-- A load is performed (R141, R144, R38, R63), of no spill area of a mapped tile (R196): its register takes the little-endian number of the bytes of
the core's view, a write of the core before the snapshot, or of the scratchpad, and keeps it where a later access that may throw goes back to (R40). -/
def Obligations.LoadReturns : Prop :=
  ∀ (c sl n : Nat) (s : State) (w : Wave) (th : Thread) (a : Access) (size : Nat) (sx : Bool) (d : Nat),
    Performable s c sl w th n a → a.kind = .load size sx d → size = 1 ∨ size = 2 ∨ size = 4 ∨ size = 8 → Once th n d size →
    s.poisoned = [] → NoSpill s a.places →
    (∀ bytes : List Byte,
      ((∃ pa, a.place = .phys pa ∧ isRemote pa = false ∧ bytes = (List.range size).map (fun i =>
          match look (s.core c).writes (pa + i) with
          | some own => own.val
          | none => (s.snapByte c (pa + i)).val)) ∨
       (∃ b off, a.place = .pad b off ∧ bytes = (List.range size).map (fun i => s.padByte b (off + i)))) →
      let v := extendLoad size sx (leNat bytes)
      ∃ s', exec (.resultReturn c sl th.lane n) s = .next s' ∧ s.sameMemory s' ∧
        s'.lane? c sl th.lane = some (Thread.without th n (Thread.takes d size v)))

/-- A store is performed (R141, R144), to no spill area of a mapped tile (R196), no fired chunk (R356), no byte barrier that an operation names
(R207), and nothing that software must not write now (R220, R316): its bytes enter its core's view, or the scratchpad; every other byte of every view, of every scratchpad and of memory stays. -/
def Obligations.StorePerforms : Prop :=
  ∀ (c sl n : Nat) (s : State) (w : Wave) (th : Thread) (a : Access) (data : List Byte),
    Performable s c sl w th n a → a.kind = .store data → NoSpill s a.places → NoChunk s a.places → NoBarrier s a.places → NoMisuse s a.places →
    ∃ s', exec (.storePerformed c sl th.lane n) s = .next s' ∧ s.sameMemory s' ∧ s'.lane? c sl th.lane = some (Thread.without th n) ∧
      (∀ pa, a.place = .phys pa →
        (∀ i < data.length, s'.viewByte c (pa + i) = data.getD i 0) ∧
        (∀ k x, k ≠ c ∨ x < pa ∨ pa + data.length ≤ x → s'.viewByte k x = s.viewByte k x) ∧ s'.blocks = s.blocks) ∧
      (∀ b off k, a.place = .pad b off → s.block? b = some k → canonical (0 : Byte) k.pad = true →
        (∀ i < data.length, s'.padByte b (off + i) = data.getD i 0) ∧
        (∀ j x, j ≠ b ∨ x < off ∨ off + data.length ≤ x → s'.padByte j x = s.padByte j x) ∧
        ∀ j, { s'.core j with window := (s.core j).window } = s.core j)

/-- A MEMO issues (R159 to R164): a publish before it where its semantics release, a refresh after it where they acquire, and its result
outstanding but for STO. A scope code that the function's policy forbids raises SCOPE (R153); an operation that the link to host, CXL or
peer memory does not carry raises FAULT (R375), on CXL memory at .system only, where the link has to carry it (R164, R378; log entry 63). Where
comparators look on they agree. -/
def Obligations.MemoIssues : Prop :=
  ∀ (i : Instr) (op : MemoOp) (d a : Reg) (z : Bool) (e : BitVec 2) (c : BitVec 3) (t : Bool), Memo i op d a z e c t →
  ∀ (s : State) (w : Wave) (th : Thread), s.OnPath w th →
    let size := if z = true then 8 else 4
    let rs := fun (r : Nat) => if z = true then [r, r + 1] else [r]
    let val := fun (r : Nat) => if z = true then th.pair? s r else (th.g? s r).setWidth 64
    let next := d.toNat + (if z = true then 2 else 1)
    let va := th.pair? s a.toNat
    s.Agrees w → s.regsOk ([a.toNat, a.toNat + 1] ++ rs d.toNat ++ (if op = MemoOp.cas then rs next else [])) →
    ∃ s', exec i s = .next s' ∧ s.sameMemory s' ∧
      (s.scopeForbidden (s.vfOf w.blk) c.toNat = true → s'.lane? w.core w.slot th.lane = some (Thread.trap s w.regs th cSCOPE th.pc)) ∧
      (s.scopeForbidden (s.vfOf w.blk) c.toNat = false → ∀ pl, s.resolve w.blk va size (op != .ldo) = .at pl →
        ((∃ pa, pl = .phys pa ∧ s.carries pa op c.toNat = false) → s'.lane? w.core w.slot th.lane = some (Thread.trap s w.regs th cFAULT th.pc)) ∧
        ((∀ pa, pl = .phys pa → s.carries pa op c.toNat = true) → s'.lane? w.core w.slot th.lane = some ({ th with
          acc := th.acc ++ (if e.getLsbD 1 = true then [issuedAt s th (.publish c.toNat) pl va] else []) ++
            [issuedAt s th (.memo op size d.toNat (val d.toNat) (if op = MemoOp.cas then val next else 0) c.toNat) pl va] ++
            (if e.getLsbD 0 = true then [issuedAt s th (.refresh c.toNat) pl va] else [])
          marks := if op = MemoOp.sto then th.marks else rs d.toNat ++ th.marks }.after s.cur.len t)))

/-- A MEMO is performed (R160, R161): its register takes the old value, its location the new one, and every byte but its own stays. In a scratchpad;
and of device memory, of no spill area of a mapped tile (R196) and, of one that may write, no fired chunk (R356) and nothing that software must not write
now (R220, R316): at .wave and .block, and at .gang of a launch without gangs, in the core's view; at .gang of others in the gang's instance, and at
.tenant and wider at the home, where the core and the gangs that come between hold no write of its bytes and, of an LDO, no write of them stands
that no publish has covered (R272). The places of writes given out so far are not above the next one. -/
def Obligations.MemoPerforms : Prop :=
  ∀ (c sl n : Nat) (s : State) (w : Wave) (th : Thread) (a : Access) (op : MemoOp) (size d sc : Nat) (v x : Dword),
    Performable s c sl w th n a → a.kind = .memo op size d v x sc → size = 4 ∨ size = 8 → (op = .addf → size = 4) → v.toNat < 2 ^ (8 * size) →
    x.toNat < 2 ^ (8 * size) → Once th n d size →
    let gained := fun (m : Nat) => if op = .sto then Thread.without th n else Thread.without th n (Thread.takes d size (BitVec.ofNat 64 m))
    let becomes := fun (m i : Nat) (old : Byte) => match amo op (8 * size) m v.toNat x.toNat with
      | some y => BitVec.ofNat 8 (y / 2 ^ (8 * i))
      | none => old
    let outside := fun (o y : Nat) => y < o ∨ o + size ≤ y
    ∃ s', exec (.memoPerformed c sl th.lane n) s = .next s' ∧
      (∀ b off k, a.place = .pad b off → s.block? b = some k → canonical (0 : Byte) k.pad = true →
        let m := leNat ((List.range size).map (fun i => s.padByte b (off + i)))
        s'.lane? c sl th.lane = some (gained m) ∧ s.sameMemory s' ∧
        (∀ i < size, s'.padByte b (off + i) = becomes m i (s.padByte b (off + i))) ∧
        (∀ j y, j ≠ b ∨ outside off y → s'.padByte j y = s.padByte j y)) ∧
      (∀ pa, a.place = .phys pa → NoSpill s a.places → (op = .ldo ∨ NoChunkAfter s pa size a.places ∧ NoMisuse s a.places) →
        (∀ i < size, isRemote (pa + i) = false) → s.poisoned = [] → Orderly s →
        let has := (s.recOf w.blk).hasGang
        let mine := s.gangId w.blk
        let unwritten := ∀ i < size, look (s.core c).writes (pa + i) = none
        let settled := op = .ldo → ∀ i < size, look s.loose (pa + i) = none
        (sc ≤ 1 ∨ sc = 2 ∧ has = false →
          let m := leNat (s.viewBytes c pa size)
          s'.lane? c sl th.lane = some (gained m) ∧ s.sameMemory s' ∧
          (∀ i < size, s'.viewByte c (pa + i) = becomes m i (s.viewByte c (pa + i))) ∧
          (∀ j y, j ≠ c ∨ outside pa y → s'.viewByte j y = s.viewByte j y)) ∧
        (∀ k, sc = 2 → has = true → s.gang? mine = some k → unwritten → settled →
          (∀ g ∈ s.gangsOn c, g ≠ mine → ∀ o, s.gang? g = some o → ∀ i < size, look o.overlay (pa + i) = none) →
          let held := fun (i : Nat) => match look k.overlay (pa + i) with
            | some p => (later (s.home (pa + i)) p).val
            | none => readMem s.mem (pa + i)
          let m := leNat ((List.range size).map held)
          s'.lane? c sl th.lane = some (gained m) ∧ s.sameMemory s' ∧ ∃ k', s'.gang? mine = some k' ∧
            (∀ y, outside pa y ∨ amo op (8 * size) m v.toNat x.toNat = none → look k'.overlay y = look k.overlay y) ∧
            (∀ i < size, amo op (8 * size) m v.toNat x.toNat ≠ none → ∃ q, look k'.overlay (pa + i) = some q ∧ q.val = becomes m i 0 ∧ s.stamp < q.stamp)) ∧
        (3 ≤ sc → sc ≤ 5 → unwritten → settled → (∀ i < size, ∀ g k, s.gang? g = some k → look k.overlay (pa + i) = none) →
          let m := leNat ((List.range size).map (fun i => readMem s.mem (pa + i)))
          s'.lane? c sl th.lane = some (gained m) ∧
          (∀ i < size, readMem s'.mem (pa + i) = becomes m i (readMem s.mem (pa + i))) ∧
          (∀ y, outside pa y → readMem s'.mem y = readMem s.mem y)))

/-- PUB, RFSH and PHASE issue (R165, R166, R153): a publish, a refresh, a publish and then a refresh, at the scope; SCOPE where the function's
policy forbids it. A publish and a refresh are performed (R146, R147, R152), with no memory beyond the package concerned: after a publish at
.gang, .tenant or .device of a launch with gangs the core holds no write of its own that has not entered an order, and at .tenant and .device a byte of
them that no gang holds, and that none has followed, stands at the home; at .wave and .block its writes
have taken their places (R143) and no view has changed, nor, below .tenant, memory, where no other gang of the core holds anything. After a
refresh at such a scope the core's snapshot keeps, of device memory, only what it misses nothing of but writes that no publish has covered (R272), and of
memory beyond the package only what the package has not written later; and no cached
instruction is kept but in the body of an active loop (R136); at .wave and .block a refresh changes nothing. -/
def Obligations.Phases : Prop :=
  (∀ (c : BitVec 3) (t : Bool) (s : State) (w : Wave) (th : Thread), s.OnPath w th →
     let acc := fun (k : AccKind) => issuedAt s th k (.phys 0) 0
     ∀ p ∈ [(Instr.pub c t, [AccKind.publish c.toNat]), (.rfsh c t, [.refresh c.toNat]), (.phase c t, [.publish c.toNat, .refresh c.toNat])],
       ∃ s', exec p.1 s = .next s' ∧ s.sameMemory s' ∧
         s'.lane? w.core w.slot th.lane = some (if s.scopeForbidden (s.vfOf w.blk) c.toNat = true then Thread.trap s w.regs th cSCOPE th.pc
           else { th with acc := th.acc ++ p.2.map acc }.after s.cur.len t)) ∧
  (∀ (c sl n : Nat) (s : State) (w : Wave) (th : Thread) (a : Access) (sc : Nat),
     Performable s c sl w th n a → sc ≤ 4 → a.req = none →
     (a.kind = .publish sc → ∃ s', exec (.publishComplete c sl th.lane n) s = .next s' ∧ s'.lane? c sl th.lane = some (Thread.without th n) ∧
       (3 ≤ sc ∨ sc = 2 ∧ (s.recOf w.blk).hasGang = true → (s'.core c).writes = []) ∧
       (∀ pa own, 3 ≤ sc → Orderly s → risingFrom 0 (s.core c).writes = true → look (s.core c).writes pa = some own →
         (∀ m, own.stamp = some m → getD s.stamps 0 pa ≤ m) → (∀ g k, s.gang? g = some k → look k.overlay pa = none) → readMem s'.mem pa = own.val) ∧
       (sc ≤ 2 → (∀ g ∈ s.gangsOn c, ∀ k, s.gang? g = some k → g ≠ s.gangId w.blk → k.overlay = []) → s.sameMemory s') ∧
       (sc ≤ 1 → s'.gangs = s.gangs ∧ (∀ k x, s'.viewByte k x = s.viewByte k x) ∧
         ∀ x p, look (s'.core c).writes x = some p → p.stamp.isSome = true)) ∧
     (a.kind = .refresh sc → ∃ s', exec (.refreshComplete c sl th.lane n) s = .next s' ∧ s'.lane? c sl th.lane = some (Thread.without th n) ∧
       s.sameMemory s' ∧ (3 ≤ sc ∨ sc = 2 ∧ (s.recOf w.blk).hasGang = true → (s'.core c).writes = (s.core c).writes ∧
         ∀ p ∈ (s'.core c).snap, p ∈ (s.core c).snap ∧
           ((isRemote p.1 = true ∧ ∀ o, look s.owned p.1 = some o → o.1 ≤ p.2.stamp) ∨ s.lastStamp p.1 ≤ p.2.stamp ∨
             (isDevice p.1 = true ∧ ∃ b, look s.loose p.1 = some b ∧ b ≤ p.2.stamp))) ∧
       (3 ≤ sc → ∀ p ∈ (s'.core c).icache, s.inLoopBody c p.1 = true) ∧
       (sc ≤ 1 → ∀ k, { s'.core k with window := (s.core k).window } = s.core k)))

/-- What the device may do at any time (R145, R142, R143): the snapshot of a core takes an aligned 64-byte unit, and no byte of it goes back in
its location's order, of memory beyond the package what the package has a copy of (with the code of it that the core holds, some of which it may
let go of); the write of a location, and of such others of its unit as the device chooses, leaves the core's own writes for the order at a scope: at .wave
and .block it takes its place and stays in the view; at .gang it enters the gang's instance, and wider the home, at the place it has or at a new one
after all others, unless a later write stands there; wider, what a gang of the core holds there goes on to the home, too. No home byte and no byte of a
snapshot goes back. Which unit, and when, is the device's choice, an operand of the step here (log entries 1 and 3). -/
def Obligations.UnaskedUpdates : Prop :=
  ∀ (c pa : Nat) (s : State), let base := pa / 64 * 64
    (∃ s', exec (.snapshotUpdate c pa) s = .next s' ∧ s.sameMemory s' ∧
      (∀ i < 64, isRemote base = false ∨ look s.copies (base + i) ≠ none → ∃ p, look (s'.core c).snap (base + i) = some p ∧
        (s.snapByte c (base + i)).stamp ≤ p.stamp ∧ getD s.stamps 0 (base + i) ≤ p.stamp) ∧
      (∀ i < 64, isRemote base = true → look s.copies (base + i) = none → risingFrom 0 (s.core c).snap = true →
        look (s'.core c).snap (base + i) = none) ∧
      (∀ x, x < base ∨ base + 64 ≤ x → s'.snapByte c x = s.snapByte c x) ∧
      (∀ x b, look (s'.core c).icache x = some b → look (s.core c).icache x = some b) ∧
      (∀ k x, k ≠ c ∨ isRemote base = false ∨ x < base ∨ base + 64 ≤ x → look (s'.core k).icache x = look (s.core k).icache x) ∧
      (∀ k, { s'.core k with snap := (s.core k).snap, icache := (s.core k).icache } = s.core k) ∧ { s' with cores := s.cores } = s) ∧
    (∀ sc, ∃ s', exec (.spontaneousPlacement c pa sc) s = .next s' ∧ (5 < sc → s' = s) ∧ (sc ≤ 2 → s.sameMemory s') ∧
      (sc ≤ 1 → (∀ k x, s'.viewByte k x = s.viewByte k x) ∧ ∀ w, look (s.core c).writes pa = some w →
        ∃ p, look (s'.core c).writes pa = some p ∧ p.val = w.val ∧ p.stamp.isSome = true) ∧
      (∀ w, sc = 2 → look (s.core c).writes pa = some w → risingFrom 0 (s.core c).writes = true →
        (s.gangHas w.gang = false → ∃ p, look (s'.core c).writes pa = some p ∧ p.val = w.val ∧ p.stamp.isSome = true) ∧
        (∀ k, s.gangHas w.gang = true → s.gang? w.gang = some k → look (s'.core c).writes pa = none ∧
          ∃ n k', (w.stamp = none → s.stamp < n) ∧ (∀ m, w.stamp = some m → n = m) ∧ s'.gang? w.gang = some k' ∧
            look k'.overlay pa = some (match look k.overlay pa with
              | some q => later q ⟨w.val, n⟩
              | none => ⟨w.val, n⟩))) ∧
      (3 ≤ sc → sc ≤ 5 → risingFrom 0 (s.core c).writes = true → look (s'.core c).writes pa = none ∧
        (∀ x, look (s'.core c).writes x = look (s.core c).writes x ∨ look (s'.core c).writes x = none ∧ base ≤ x ∧ x < base + 64)) ∧
      (∀ w, 3 ≤ sc → sc ≤ 5 → risingFrom 0 (s.core c).writes = true → look (s.core c).writes pa = some w → memWf s.mem = true →
        canonical (0 : Nat) s.stamps = true → (∀ g k, s.gang? g = some k → look k.overlay pa = none) →
        ∃ n, (w.stamp = none → s.stamp < n) ∧ (∀ m, w.stamp = some m → n = m) ∧
          (getD s.stamps 0 pa ≤ n → readMem s'.mem pa = w.val ∧ getD s'.stamps 0 pa = n) ∧
          (n < getD s.stamps 0 pa → readMem s'.mem pa = readMem s.mem pa ∧ getD s'.stamps 0 pa = getD s.stamps 0 pa)) ∧
      (∀ g k p, 3 ≤ sc → sc ≤ 5 → look (s.core c).writes pa = none → g ∈ s.gangsOn c → s.gang? g = some k → look k.overlay pa = some p →
        (∀ h o, h ≠ g → s.gang? h = some o → look o.overlay pa = none) → memWf s.mem = true → risingFrom 0 k.overlay = true →
        getD s.stamps 0 pa ≤ p.stamp → readMem s'.mem pa = p.val ∧ ∃ k', s'.gang? g = some k' ∧ look k'.overlay pa = none) ∧
      (∀ k x, getD s.stamps 0 x ≤ getD s'.stamps 0 x ∧ (s.snapByte k x).stamp ≤ (s'.snapByte k x).stamp))

/-! ## Engines -/

/-- ACOPY, GATHER, SCATTER and KICK issue (R167 to R169, R171, R179): a checked descriptor, or list of them, becomes one entry at the end of the
block's queue and its token is pending; a failed check traps the path and issues nothing; a full queue stalls it. The path has nothing
unperformed: its earlier accesses come before the read of the block (R170; log entry 72).
QFENCE (R180), of the matrix queue where the window holds no entry of the block: an entry in every queue it names, waiting for what the block has
in those queues; with none named, ILLOP. -/
def Obligations.CopiesIssue : Prop :=
  (∀ (s : State) (w : Wave) (th : Thread) (b : Block) (q : BitVec 3) (k sb : BitVec 6) (t : Bool) (l : List CopyOp),
     s.OnPath w th → Quiet s w → w.sReady [sb.toNat, k.toNat] → s.block? w.blk = some b → b.queues[q.toNat]? = some l →
     let entered := fun (s' : State) (ds : List CopyDesc) =>
       s'.lane? w.core w.slot th.lane = some (th.after s.cur.len t) ∧ pending s' w k.toNat ∧
       ∃ op, (s'.block? w.blk).bind (fun x => x.queues[q.toNat]?) = some (l ++ [op]) ∧ op.list = ds ∧ op.tok = k.toNat ∧ op.fence = false ∧
         op.started = false ∧ op.blk = w.blk ∧ op.who = s.issuer ∧ op.lanes = s.cur.lanes ∧ op.step = s.free
     let trapped := fun (s' : State) (c : Word) =>
       s'.lane? w.core w.slot th.lane = some (Thread.trap s w.regs th c th.pc) ∧ s'.blocks = s.blocks
     (∀ (i : Instr) (form : Nat), Copies i form q k sb t → ∃ s', exec i s = .next s' ∧
       (32 ≤ l.length → s'.lane? w.core w.slot th.lane = some { th with wait := .queue q.toNat }) ∧
       (l.length < 32 →
         (∀ c, s.paramBlock w sb.toNat 40 = .error c → trapped s' c) ∧
         (∀ bs, s.paramBlock w sb.toNat 40 = .ok bs →
           (∀ c, s.copyDesc w form bs = .error c → trapped s' c) ∧ (∀ d, s.copyDesc w form bs = .ok d → entered s' [d])))) ∧
     (∃ s', exec (.kick q k sb t) s = .next s' ∧
       (l.length < 32 → (∀ c, s.kickList w sb.toNat = .error c → trapped s' c) ∧ (∀ ds, s.kickList w sb.toNat = .ok ds → entered s' ds)))) ∧
  (∀ (s : State) (w : Wave) (th : Thread) (b : Block) (n k : BitVec 6) (t : Bool), s.OnPath w th → w.sReady [k.toNat] → s.block? w.blk = some b →
     ∃ s', exec (.qfence n k t) s = .next s' ∧
       (n = 0 → s'.lane? w.core w.slot th.lane = some (Thread.trap s w.regs th cILLOP th.pc)) ∧
       (n ≠ 0 → s.fenceFull w n.toNat = none → (n.toNat.testBit 5 = true → ∀ e ∈ (s.core w.core).window, e.blk ≠ w.blk) →
         s'.lane? w.core w.slot th.lane = some (th.after s.cur.len t) ∧ pending s' w k.toNat ∧
         (∀ q l, q < 5 → b.queues[q]? = some l →
           (n.toNat.testBit q = false → (s'.block? w.blk).bind (fun x => x.queues[q]?) = some l) ∧
           (n.toNat.testBit q = true → ∃ op, (s'.block? w.blk).bind (fun x => x.queues[q]?) = some (l ++ [op]) ∧ op.fence = true ∧
             ∀ p m, p < 5 → n.toNat.testBit p = true → b.queues[p]? = some m → ∀ o ∈ m, o.id ∈ op.after)) ∧
         (n.toNat.testBit 5 = true → ∃ o, (s'.queueOf w.core w.blk).ops = (s.queueOf w.core w.blk).ops ++ [o] ∧ o.f6 = 10 ∧
           ∀ x ∈ (s.core w.core).matOps, x.blk = w.blk → x.id ∈ o.after)))

/-- The copy engines (R169 to R171, R173, R177, R178): the head of a queue reads its source once its path has nothing unperformed, the bytes of the core's
view from global memory and, through the block's aperture, of the scratchpad (log entry 68), or the bytes of its scratch, slot or tile rows. A started
copy that has written nothing yet, whose rows do not meet, that no TSLW and no fault has touched, that copies nothing onto itself and no byte barrier over,
completes: each row's bytes stand where they go, in a scratchpad, a slot or a tile (all but the skipped rows), or, to global memory, in the core's view at .wave and
.block (and at .gang of a launch without gangs) and at the home at .tenant and wider, nothing else of scratchpads or memory having changed; its byte barrier is
down by its bytes, ZEROS up where COUNT passed 0; its token is 0 and the queue's next entry the head. The next copy of a longer list is then to
start. A fence leaves when what it waits for has completed. Nothing reads or writes a spill area of a mapped tile (R196), a fired chunk (R356) or what software must not
write now (R220, R316). -/
def Obligations.CopyEngine : Prop :=
  ∀ (s : State) (blk q : Nat) (b : Block) (o : CopyOp) (w : Wave), s.block? blk = some b → b.ended = false → s.headOp blk q = some o → o.blk = blk →
    s.wave? o.who.core o.who.slot = some w →
    let c := o.who.core
    let unfaulted := ∀ f ∈ (s.core c).faults, f.copy ≠ some o.id
    let left := fun (s' : State) => (s'.block? blk).bind (fun x => x.queues[q]?) = (b.queues[q]?).map (fun l => l.drop 1)
    (∀ d rest, o.fence = false → o.started = false → o.list = d :: rest → unfaulted → drained s o.who o.lanes →
      ∃ s', exec (.engineOperationStart blk q) s = .next s' ∧
        (d.fromGlobal = false → s.sameMemory s' ∧ s'.headOp blk q = some { o with
          started := true, captured := (List.range d.rows).map (fun i =>
            if d.skips i then []
            else if d.form = 8 ∧ d.slotSide = true then
              (List.range d.rbytes).map (fun j => s.slotByte c d.obj ((d.first + i) * 128 + j))
            else if d.form = 4 ∨ d.form = 6 then bytesOf ((List.range (d.rbytes / 4)).map (fun j => s.tileElem c d.obj (d.first + i) j))
            else s.scratchBytes blk (d.saddr.getD i 0) d.rbytes) }) ∧
        (∀ r rows, d.fromGlobal = true → s.poisoned = [] → s.rowsAt blk d false = (.ok r, rows) → (∀ row ∈ rows, ∀ pa ∈ physOf row, isRemote pa = false) →
          NoSpill s (rows.flatMap id) → s.sameMemory s' ∧ s'.headOp blk q = some { o with
            started := true, req := none, captured := rows.map (fun row => row.map (fun pl => (s.readPlace c pl 1).headD 0)) })) ∧
    (∀ d rest, o.fence = false → o.started = true → o.list = d :: rest → unfaulted → o.req = none → o.spoilt = false → o.landed = [] → s.selfOverlap blk d = false →
      (∀ i < d.rows, d.skips i = false → (o.captured.getD i []).length = d.rbytes ∧ d.saddr.getD i 0 + d.rbytes ≤ 2 ^ 32) →
      (∀ p ∈ s.blocks, canonical (0 : Byte) p.2.pad = true) →
      let byte := fun (i j : Nat) => (o.captured.getD i []).getD j 0
      let writes := fun (P : Nat → Nat → Prop) => ∀ i < d.rows, d.skips i = false → ∀ j < d.rbytes, P i j
      let counted := fun (s' : State) => ∀ pl k off, d.bobj = some pl → pl = .pad k off → s.block? k ≠ none →
        s'.barrierCount pl = s.barrierCount pl - BitVec.ofNat 32 d.bytes ∧
        s'.barrierZeros pl = (if 0 < (s.barrierCount pl).toNat ∧ (s.barrierCount pl).toNat ≤ d.bytes then s.barrierZeros pl + 1 else s.barrierZeros pl)
      let barred := fun (k off : Nat) => ∃ x, d.bobj = some (.pad k x) ∧ x ≤ off ∧ off < x + 8
      (d.toGlobal = false → NoBarrier s ((s.destPlaces blk d []).flatMap id) → ((s.destPlaces blk d []).flatMap id).Nodup →
        ∃ s', exec (.engineOperationComplete blk q) s = .next s' ∧ s.sameMemory s' ∧ counted s' ∧
          (rest = [] → written s' w o.tok 0 ∧ left s') ∧
          (rest ≠ [] → s'.headOp blk q = some { o with gone := o.gone ++ [d], list := rest, started := false, captured := [], landed := [], req := none }) ∧
          (d.onSlot = false → d.onTileDst = false →
            writes (fun i j => ∀ k off, s.padAt blk (d.saddr.getD i 0 + j) = some (k, off) → s.block? k ≠ none → s'.padByte k off = byte i j) ∧
            (∀ k off, ¬barred k off → writes (fun i j => s.padAt blk (d.saddr.getD i 0 + j) ≠ some (k, off)) → s'.padByte k off = s.padByte k off)) ∧
          (∀ x, d.onSlot = true → look (s.core c).slots d.obj = some x → x.mapped = true → d.rbytes ≤ 128 →
            writes (fun i j => s'.slotByte c d.obj ((d.first + i) * 128 + j) = byte i j) ∧
            (∀ y, writes (fun i j => y ≠ (d.first + i) * 128 + j) → s'.slotByte c d.obj y = s.slotByte c d.obj y)) ∧
          (∀ x, d.onTileDst = true → look (s.core c).tiles d.obj = some x → x.mapped = true → x.untrusted = false → d.rbytes ≤ 768 → d.rbytes % 4 = 0 →
            ∀ i < d.rows, ∀ j < d.rbytes / 4, s'.tileElem c d.obj (d.first + i) j =
              BitVec.ofNat 32 (leNat [byte i (4 * j), byte i (4 * j + 1), byte i (4 * j + 2), byte i (4 * j + 3)]))) ∧
      (∀ r rows, d.toGlobal = true → rest = [] → s.rowsAt blk d true = (.ok r, rows) →
        let pls := rows.flatMap id
        NoBarrier s pls → NoAreas s → NoMisuse s pls → pls.Nodup → (∀ pa ∈ physOf pls, isRemote pa = false) → Orderly s → d.scope ≤ 5 →
        let local_ := d.scope ≤ 1 ∨ d.scope = 2 ∧ (s.recOf blk).hasGang = false
        ∃ s', exec (.engineOperationComplete blk q) s = .next s' ∧ counted s' ∧ written s' w o.tok 0 ∧ left s' ∧
          writes (fun i j => ∀ k off, (rows.getD i [])[j]? = some (.pad k off) → s.block? k ≠ none → s'.padByte k off = byte i j) ∧
          (∀ k off, ¬barred k off → Place.pad k off ∉ pls → s'.padByte k off = s.padByte k off) ∧
          (local_ → writes (fun i j => ∀ pa, (rows.getD i [])[j]? = some (.phys pa) → s'.viewByte c pa = byte i j) ∧
            ∀ k x, k ≠ c ∨ Place.phys x ∉ pls → s'.viewByte k x = s.viewByte k x) ∧
          (d.scope ≤ 2 → s.sameMemory s') ∧
          (3 ≤ d.scope → writes (fun i j => ∀ pa, (rows.getD i [])[j]? = some (.phys pa) → readMem s'.mem pa = byte i j) ∧
            ∀ x, Place.phys x ∉ pls → readMem s'.mem x = readMem s.mem x))) ∧
    (o.fence = true → (∀ id ∈ o.after, s.opLive id = false) →
      ∃ s', exec (.engineOperationComplete blk q) s = .next s' ∧ s.sameMemory s' ∧ written s' w o.tok 0 ∧ left s')

/-- CLAIM, RELEASE, ACLAIM, AFREE (R182, R183, R195): a register that maps nothing comes to map a new slot or tile, waiting where too few are
free; a mapped one comes to map nothing; the wrong one of the two raises ILLOP. TSLR and TSLW (R184): the four bytes of the row or column
slice of a slot that the lane reaches; TSLW in a path of one lane where no operation under way touches any of them. That they act at issue is log
entry 10. -/
def Obligations.SlotsAndTiles : Prop :=
  (∀ (s : State) (w : Wave) (th : Thread) (b : Block) (n : BitVec 4) (sb : BitVec 6) (t : Bool), s.OnPath w th → s.block? w.blk = some b →
     let on := fun (s' : State) => s'.lane? w.core w.slot th.lane = some (th.after s.cur.len t)
     let ill := fun (s' : State) => s'.lane? w.core w.slot th.lane = some (Thread.trap s w.regs th cILLOP th.pc)
     (∃ s', exec (.claim n t) s = .next s' ∧ (look b.o n.toNat ≠ none → ill s') ∧
       (look b.o n.toNat = none → s.slotsFor w.core w.blk = 0 → s'.lane? w.core w.slot th.lane = some { th with wait := .claim }) ∧
       (look b.o n.toNat = none → 0 < s.slotsFor w.core w.blk → on s' ∧ ∃ id, s'.oReg w.blk n.toNat = some id ∧
         look (s'.core w.core).slots id = some { blk := w.blk, mapped := true, data := [] })) ∧
     (∃ s', exec (.release n t) s = .next s' ∧ (look b.o n.toNat = none → ill s') ∧
       (∀ id, look b.o n.toNat = some id → risingFrom 0 b.o = true → on s' ∧ s'.oReg w.blk n.toNat = none)) ∧
     (w.sReady [sb.toNat] → Quiet s w → ∃ s', exec (.aclaim n sb t) s = .next s' ∧ (look b.a n.toNat ≠ none → ill s') ∧
       (∀ bs tile, look b.a n.toNat = none → s.paramBlock w sb.toNat 16 = .ok bs → aclaimTile w.blk bs = .ok tile →
         (s.rowsFor w.core w.blk < tile.m * tile.p → s'.lane? w.core w.slot th.lane = some { th with wait := .aclaim (tile.m * tile.p) }) ∧
         (tile.m * tile.p ≤ s.rowsFor w.core w.blk → on s' ∧ ∃ id, s'.aReg w.blk n.toNat = some id ∧ look (s'.core w.core).tiles id = some tile))) ∧
     (∃ s', exec (.afree n t) s = .next s' ∧ (look b.a n.toNat = none → ill s') ∧
       (∀ id, look b.a n.toNat = some id → risingFrom 0 b.a = true → on s' ∧ s'.aReg w.blk n.toNat = none))) ∧
  (∀ (d : Reg) (i sb : BitVec 6) (r : Bool) (o : BitVec 4) (t : Bool) (s : State) (w : Wave) (th : Thread) (id : Nat),
     s.OnPath w th → s.regsOk [d.toNat] → w.sReady [sb.toNat] → s.oReg w.blk o.toNat = some id →
     let idx := ((w.regs.s? sb.toNat).toNat + i.toNat) % 256
     let row := if r = true then 32 * (idx / 32) + th.lane else idx
     let byte := if r = true then 4 * (idx % 32) else 4 * th.lane
     (∃ s', exec (.tslr d i sb r o t) s = .next s' ∧ s'.lane? w.core w.slot th.lane = some ((th.setG s d.toNat
       (BitVec.ofNat 32 (leNat ((List.range 4).map (fun j => s.slotByte w.core id (128 * row + byte + j)))))).after s.cur.len t)) ∧
     (∀ x, s.cur.lanes = [th.lane] → (w.lanes.filter (fun u => u.lane == th.lane)) = [th] → look (s.core w.core).slots id = some x → (∀ j < 4, s.slotBusy w.core id row (byte + j) = false) →
       ∃ s', exec (.tslw d i sb r o t) s = .next s' ∧ s'.lane? w.core w.slot th.lane = some (th.after s.cur.len t) ∧
         (∀ j < 4, s'.slotByte w.core id (128 * row + byte + j) = BitVec.ofNat 8 ((th.g? s d.toNat).toNat / 2 ^ (8 * j))) ∧
         (∀ k y, k ≠ id ∨ y < 128 * row + byte ∨ 128 * row + byte + 4 ≤ y → s'.slotByte w.core k y = s.slotByte w.core k y)))

/-- The instructions of the matrix queue issue (R167, R168, R192, spec/11 R228): from a wave that holds the thimble, of a class other than 0 and a
launch without pattern rules, a checked operation arrives at the end of the window with its captured operands and its token pending; a failed
check traps the path; without the thimble the path waits. Where a parameter block is read the path has nothing unperformed (R170; log entry
72). -/
def Obligations.MatrixIssue : Prop :=
  ∀ (i : Instr) (f6 : Nat) (rs : List Nat) (k : BitVec 6) (t : Bool) (parse : State → Wave → Chk Parsed), Matrix i f6 rs k t parse →
  ∀ (s : State) (w : Wave) (th : Thread), s.OnPath w th → (rs ≠ [] → Quiet s w) → w.sReady (rs ++ [k.toNat]) → s.isZero w.blk = false →
    ∃ s', exec i s = .next s' ∧
      ((s.core w.core).mq.holder ≠ some w.slot → s'.lane? w.core w.slot th.lane = some { th with wait := .thimble (s.clockOf w.core) }) ∧
      ((s.core w.core).mq.holder = some w.slot → (s.core w.core).window.length < 16 → (s.core w.core).mq.ops.length ≤ 32 →
        (∀ c, parse s w = .error c → s'.lane? w.core w.slot th.lane = some (Thread.trap s w.regs th c th.pc)) ∧
        (∀ p, parse s w = .ok p → (∀ g, s.progOf w.blk = some g → g.rules = []) → (s.core w.core).voids = [] →
          s'.lane? w.core w.slot th.lane = some (th.after s.cur.len t) ∧ pending s' w k.toNat ∧
          ∃ o, (s'.core w.core).window = (s.core w.core).window ++ [o] ∧ o.f6 = f6 ∧ o.blk = w.blk ∧ o.who = s.issuer ∧ o.ops = p.1 ∧
            o.table = p.2.1 ∧ o.obj = p.2.2.obj ∧ o.slots = p.2.2.slots ∧ o.dest = p.2.2.dest ∧ o.fresh = true ∧
            (o.toks = if k = 63#6 then [] else [⟨s.issuer, k.toNat, f6 == 3⟩])))

/-- The thimble (R192, R193): THMTAKE goes on in its holder and waits in any other wave; THMPASS hands it to the next wave of the block, or
keeps it where there is none; THMPASS.FREE frees it; both raise ILLOP elsewhere; a free one is granted to a waiting wave, none of a lower
class and none of its class that waited longer. The window, the matrix queue and the array (R194, R190, R188, R198, spec/11 R229): an entry
that names no tile leaves the window for the end of the queue; the array takes the oldest waiting operation; TSCALE.SET latches the column
scales it captured; ACCZERO leaves every element 0; an MMA of one row into a pleat of a trusted tile leaves the sums of its groups there. An
operation reads and writes when it completes (log entry 11), and then frees the array. A group of integers that sums to 0 sums to +0 (log
entry 14). -/
def Obligations.ThimbleAndArray : Prop :=
  ((∀ (s : State) (w : Wave) (th : Thread) (t : Bool), s.OnPath w th →
     let holder := fun (x : State) => (x.queueOf w.core w.blk).holder
     (∃ s', exec (.thmtake t) s = .next s' ∧ s'.lane? w.core w.slot th.lane = some (
       if holder s = some w.slot then th.after s.cur.len t else { th with wait := .thimble (s.clockOf w.core) })) ∧
     (∃ s', exec (.thmpass t) s = .next s' ∧ s'.lane? w.core w.slot th.lane = some (
         if holder s = some w.slot then th.after s.cur.len t else Thread.trap s w.regs th cILLOP th.pc) ∧
       (holder s = some w.slot → holder s' = match s.nextWave w with
         | some v => some v.slot
         | none => some w.slot)) ∧
     (∃ s', exec (.thmpassFree t) s = .next s' ∧ s'.lane? w.core w.slot th.lane = some (
         if holder s = some w.slot then th.after s.cur.len t else Thread.trap s w.regs th cILLOP th.pc) ∧
       (holder s = some w.slot → holder s' = none))) ∧
   (∀ (s : State) (c : Nat) (zero : Bool),
     let waits := fun (w : Wave) => w ∈ s.waves ∧ w.core = c ∧ s.isZero w.blk = zero ∧ w.thimbleSince ≠ none
     let cls := fun (w : Wave) => ((s.launchOf w.blk).map (fun l => l.prog.lrec.cls)).getD 7
     ((s.core c).queue zero).holder = none → (∃ w, waits w) →
     ∃ s' v, exec (.thimbleGrant c zero) s = .next s' ∧ waits v ∧ ((s'.core c).queue zero).holder = some v.slot ∧
       ∀ u, waits u → cls v < cls u ∨ cls v = cls u ∧ (v.thimbleSince).getD 0 ≤ (u.thimbleSince).getD 0)) ∧
  (∀ (s : State) (c : Nat),
     (∀ o rest, (s.core c).window = o :: rest → o.obj = none → o.fresh = false ∨ (∀ x ∈ (s.core c).mq.ops, x.f6 = 10) → (s.core c).mq.ops.length < 32 →
       ∃ s', exec (.windowEntryLeave c) s = .next s' ∧ (s'.core c).window = rest ∧ (s'.core c).mq.ops = (s.core c).mq.ops ++ [o]) ∧
     (∀ zero o, (s.core c).array = none → s.rowWork c = false → (∀ x ∈ (s.core c).mq.ops ++ (s.core c).mq0.ops, x.f6 ≠ 10) →
       (s.core c).nextOp = some (zero, o) → drained s o.who o.lanes →
       ∃ s', exec (.arrayTakeOperation c) s = .next s' ∧ (s'.core c).array = some (zero, o) ∧ (s'.core c).arrayAt = s.clockOf c ∧
         (∀ x ∈ ((s'.core c).queue zero).ops, x.id ≠ o.id)) ∧
     (∀ zero o, (s.core c).array = some (zero, o) → o.f6 ≠ 3 → o.obj = none → o.toks = [] → (s.core c).voids = [] → o.dest = none →
       (∀ x ∈ (s.core c).mq.ops ++ (s.core c).mq0.ops, x.f6 ≠ 10) → (∀ b, s.block? o.blk = some b → b.ended = false) →
       ∃ s', exec (.matrixOperationComplete c) s = .next s' ∧ (s'.core c).array = none ∧
         (o.f6 = 9 → o.val 1 = 0 → ∀ j < ((s.core c).queue zero).latch.n, ((s'.core c).queue zero).latch.scol.getD j 0 =
           if j < (o.vec 2).length then (o.vec 2).getD j 0 else (((s.core c).queue zero).latch.scol).getD j 0)) ∧
     (∀ zero o id t, (s.core c).array = some (zero, o) → o.obj = some id → look (s.core c).tiles id = some t → t.mapped = true → o.toks = [] →
       (s.core c).voids = [] → (∀ x ∈ (s.core c).mq.ops ++ (s.core c).mq0.ops, x.f6 ≠ 10) → (∀ b, s.block? o.blk = some b → b.ended = false) →
       o.untrust = false → (o.f6 = 5 → ∃ s', exec (.matrixOperationComplete c) s = .next s' ∧ (s'.core c).array = none ∧
         ∀ row < t.m * t.p, ∀ col < 192, s'.tileElem c id row col = 0) ∧
       (∀ p row, o.f6 = 3 → t.untrusted = false → o.pleat = some p → p < t.p → o.newPleat = false → o.spoilt = false → s.inject = [] → o.val 6 = 1 →
         (s.core c).arrayAt + 161 ≤ s.clockOf c → o.destRow 0 = some row → row < t.m → ((s.core c).queue zero).latch.n ≤ 192 →
         ∃ s', exec (.matrixOperationComplete c) s = .next s' ∧ (s'.core c).array = none ∧
           (let lt := ((s.core c).queue zero).latch
            let sz := fmtSize (o.val 5)
            let srow := if o.val 10 % 2 = 1 then one32 else (o.vec 11).getD 0 0
            (∀ j < lt.n, s'.tileElem c id (p * t.m + row) j = groups lt.fmt (o.val 5) lt.k
              (fun k => (((List.range lt.k).map (fun k => s.slotCode c o.slots (128 * sz * o.val 7 + sz * k) sz)).getD k 0))
              (fun k => (getD lt.codes 0 (2 ^ 16 * j + k)).toNat) (round32mul srow (lt.scol.getD j 0))
              (if o.val 2 = 1 then s.tileElem c id (p * t.m + row) j else 0x80000000#32)) ∧
            (∀ r j, r ≠ p * t.m + row → j < 192 → s'.tileElem c id r j = s.tileElem c id r j)))))

/-! ## Barriers and tasks -/

/-- BAR, BARARR, BARWAIT at a level whose scope is not .system, from a clear path (R203): an arrival is recorded in the current phase; a second
one raises ILLOP; BAR waits while a live member has not arrived; with the last arrival of a group of one wave the phase completes, and the thread
goes on with its record cleared and a refresh due; BARWAIT waits for the phase recorded, goes on without a record, and clears it once the phase
has completed.
BOBJINIT, BOBJEXP, BOBJWAIT in a path of one lane of a wave that is not re-executing (R206 to R208): COUNT set and the rest 0; COUNT up by the operand modulo 2^32, ZEROS up where
it wraps to 0; a wait that ends with COUNT 0. A misaligned or bad address raises FAULT. -/
def Obligations.Barriers : Prop :=
  (∀ (s : State) (w : Wave) (th : Thread) (l : BitVec 3) (t : Bool), s.OnPath w th → Clear s w → s.levelBad w (s.levelOf w l) = false →
     (s.waveRec w).scopeOf (s.levelOf w l) ≠ 5 →
     let k := s.levelOf w l
     let p := s.phaseOf k w
     let refresh : Access := { issuedAt s th (.refresh ((s.waveRec w).scopeOf k)) (.phys 0) 0 with issued := s.clockOf w.core }
     let ill := fun (s' : State) => s'.lane? w.core w.slot th.lane = some (Thread.trap s w.regs th cILLOP th.pc)
     (∃ s', exec (.bararr l t) s = .next s' ∧ (look th.arrived k ≠ none → ill s') ∧
       (look th.arrived k = none → s'.lane? w.core w.slot th.lane = some ({ th with arrived := insertAt th.arrived k p }.after s.cur.len t))) ∧
     (∃ s', exec (.bar l t) s = .next s' ∧ (look th.arrived k ≠ none → ill s') ∧
       (look th.arrived k = none → (∃ u ∈ w.lanes, u.live = true ∧ u.lane ∉ s.cur.lanes ∧ look u.arrived k = none) →
         s'.lane? w.core w.slot th.lane = some { th with arrived := insertAt th.arrived k p, wait := .barrier k t }) ∧
       (s.images = [] → s.waves.filter (s.sameGroup k w) = [w] → s.space? w ≠ none → th.live = true →
         (∀ u ∈ w.lanes, u.live = true → u.lane ∈ s.cur.lanes ∧ look u.arrived k = none) →
         s'.phaseOf k w = p + 1 ∧ s'.lane? w.core w.slot th.lane =
           some ({ th with arrived := eraseAt (insertAt th.arrived k p) k, acc := [refresh] }.after 4 t))) ∧
     (∃ s', exec (.barwait l t) s = .next s' ∧
       (look th.arrived k = none → s'.lane? w.core w.slot th.lane = some (th.after s.cur.len t)) ∧
       (∀ r, look th.arrived k = some r → p ≤ r → s'.lane? w.core w.slot th.lane = some { th with wait := .barrier k t }) ∧
       (∀ r, look th.arrived k = some r → r < p →
         s'.lane? w.core w.slot th.lane = some ({ th with arrived := eraseAt th.arrived k, acc := [refresh] }.after s.cur.len t)))) ∧
  (∀ (s : State) (w : Wave) (th : Thread) (d a : Reg) (t : Bool), s.OnPath w th → s.cur.lanes = [th.lane] → w.fresh → s.regsOk [d.toNat, a.toNat] →
     let addr := (th.g? s a.toNat).toNat
     (∀ i ∈ [Instr.bobjinit d a t, Instr.bobjexp d a t, Instr.bobjwait a t], addr % 16 ≠ 0 ∨ s.padRange w.blk addr 16 = false →
       ∃ s', exec i s = .next s' ∧ s'.lane? w.core w.slot th.lane = some (Thread.trap s w.regs th cFAULT th.pc) ∧ s'.blocks = s.blocks) ∧
     (∀ b off k, addr % 16 = 0 → s.padRange w.blk addr 16 = true → s.padAt w.blk addr = some (b, off) → s.block? b = some k →
       canonical (0 : Byte) k.pad = true →
       let o := Place.pad b off
       (∃ s', exec (.bobjinit d a t) s = .next s' ∧ s'.lane? w.core w.slot th.lane = some (th.after s.cur.len t) ∧
         s'.barrierCount o = th.g? s d.toNat ∧ s'.barrierZeros o = 0 ∧ (∀ j < 8, s'.padByte b (off + 8 + j) = 0) ∧
         (∀ j x, j ≠ b ∨ x < off ∨ off + 16 ≤ x → s'.padByte j x = s.padByte j x)) ∧
       (∃ s', exec (.bobjexp d a t) s = .next s' ∧ s'.lane? w.core w.slot th.lane = some (th.after s.cur.len t) ∧
         s'.barrierCount o = BitVec.ofNat 32 ((s.barrierCount o).toNat + (th.g? s d.toNat).toNat) ∧
         s'.barrierZeros o = (if (s.barrierCount o).toNat ≠ 0 ∧ ((s.barrierCount o).toNat + (th.g? s d.toNat).toNat) % 2 ^ 32 = 0 then
           s.barrierZeros o + 1 else s.barrierZeros o) ∧
         (∀ j x, j ≠ b ∨ x < off ∨ off + 8 ≤ x → s'.padByte j x = s.padByte j x)) ∧
       (∃ s', exec (.bobjwait a t) s = .next s' ∧ s'.blocks = s.blocks ∧
         (∀ c, s.waitAborted o = some c → s'.lane? w.core w.slot th.lane = some { th with wait := .thrown ⟨c, 0, th.pc, s.cycles, s.free⟩ }) ∧
         (s.waitAborted o = none → s'.lane? w.core w.slot th.lane =
           some (if s.barrierCount o = 0 then th.after s.cur.len t else { th with wait := .bobj o })))))

/-- EPUSH, EPOP, EFREE on an edge of device memory, in a path of one lane with nothing to publish, no spill area in memory, no instance at work and nothing
poisoned (R220, R221): the item, the index and FREE; an
empty edge and a full one. The edge is in its bounds; one that is not has free results (log entry 19). -/
def Obligations.Edges : Prop :=
  ∀ (s : State) (w : Wave) (th : Thread) (d a : Reg) (t : Bool) (pa : Nat), s.OnPath w th → Alone s w th → Orderly s → NoAreas s → s.poisoned = [] →
    s.resolve w.blk (th.pair? s a.toNat) 64 true = .at (.phys pa) → (s.edgeAt (.phys pa)).good = true →
    let e := s.edgeAt (.phys pa)
    (∀ q, s.regsOk [d.toNat, a.toNat, a.toNat + 1] → Apart q 4 pa 64 → s.resolve w.blk (e.itemVa e.tail) 4 true = .at (.phys q) →
      ∃ s', exec (.epush d a t) s = .next s' ∧
        (e.free = 0 → s'.lane? w.core w.slot th.lane = some { th with wait := .epush (.phys pa) } ∧ s.sameMemory s') ∧
        (0 < e.free → s'.lane? w.core w.slot th.lane = some (th.after s.cur.len t) ∧ s'.homeNat q 4 = (th.g? s d.toNat).toNat ∧
          s'.homeNat (pa + 12) 4 = (e.tail + 1) % 2 ^ 32 ∧ s'.homeNat (pa + 16) 4 = e.free - 1 ∧
          (∀ x, Apart x 1 q 4 → Apart x 1 (pa + 12) 8 → readMem s'.mem x = readMem s.mem x))) ∧
    (∀ q, s.regsOk [d.toNat, d.toNat + 1, a.toNat, a.toNat + 1] → s.resolve w.blk (e.itemVa e.head) 4 false = .at (.phys q) →
      ∃ s', exec (.epop d a t) s = .next s' ∧
        (e.items = 0 → s'.lane? w.core w.slot th.lane = some ((th.setPair s d.toNat 0xFFFFFFFF00000000#64).after s.cur.len t) ∧ s.sameMemory s') ∧
        (0 < e.items → (let u := th.setPair s d.toNat (BitVec.ofNat 64 (s.homeNat q 4))
            s'.lane? w.core w.slot th.lane = some ({ u with acc := [issuedAt s th (.refresh 3) (.phys 0) 0] }.after s.cur.len t)) ∧
          s'.homeNat (pa + 8) 4 = (e.head + 1) % 2 ^ 32 ∧ (∀ x, Apart x 1 (pa + 8) 4 → readMem s'.mem x = readMem s.mem x))) ∧
    (s.regsOk [a.toNat, a.toNat + 1] → ∃ s', exec (.efree a t) s = .next s' ∧ s'.lane? w.core w.slot th.lane = some (th.after s.cur.len t) ∧
      s'.homeNat (pa + 16) 4 = min (e.free + 1) (e.cap - e.items) ∧ (∀ x, Apart x 1 (pa + 16) 4 → readMem s'.mem x = readMem s.mem x))

/-- SPAWN of one lane with nothing to publish, no spill area in memory, no instance at work and nothing poisoned (R219): ILLOP without a spawn queue or with a template that the launch does not declare; else its
entry at the tail and the tail's index as its result, or 0xFFFF_FFFF where the queue is full.
ADMIT of one lane of a wave that is not re-executing (R223): the grant of its bucket, by the levels as they stand, and the tag record; above 1,023 ILLOP. -/
def Obligations.SpawnsAndAdmits : Prop :=
  (∀ (s : State) (w : Wave) (th : Thread) (d a : Reg) (t : Bool) (l : Launch), s.OnPath w th → Alone s w th → th.due = none →
     Orderly s → NoAreas s → s.poisoned = [] → s.regsOk [d.toNat, a.toNat, a.toNat + 1, a.toNat + 2, a.toNat + 3] → s.launchOf w.blk = some l →
     ∃ s', exec (.spawn d a t) s = .next s' ∧
       (l.prog.lrec.spawnq = 0 ∨ 64 ≤ (th.g? s a.toNat).toNat ∨ look l.templates (th.g? s a.toNat).toNat = none →
         s'.lane? w.core w.slot th.lane = some (Thread.trap s w.regs th cILLOP th.pc) ∧ s.sameMemory s') ∧
       (∀ pa q, l.prog.lrec.spawnq ≠ 0 → (th.g? s a.toNat).toNat < 64 → look l.templates (th.g? s a.toNat).toNat ≠ none →
         s.resolve w.blk l.prog.lrec.spawnq 64 true = .at (.phys pa) →
         let cap := s.homeNat (pa + 8) 4
         let held := (s.homeNat (pa + 16) 4 + 2 ^ 32 - s.homeNat (pa + 12) 4) % 2 ^ 32
         let tail := s.homeNat (pa + 16) 4
         s.resolve w.blk (BitVec.ofNat 64 (s.homeNat pa 8 + 16 * (tail % 2 ^ 32 % cap))) 16 true = .at (.phys q) → Apart q 16 pa 64 →
         (cap ≤ held → s'.lane? w.core w.slot th.lane = some ((th.setG s d.toNat 0xFFFFFFFF#32).after s.cur.len t)) ∧
         (held < cap → s'.lane? w.core w.slot th.lane = some ((th.setG s d.toNat (BitVec.ofNat 32 tail)).after s.cur.len t) ∧
           (∀ i < 4, s'.homeNat (q + 4 * i) 4 = (th.g? s (a.toNat + i)).toNat) ∧ s'.homeNat (pa + 16) 4 = (tail + 1) % 2 ^ 32))) ∧
  (∀ (s : State) (w : Wave) (th : Thread) (d a : Reg) (t : Bool), s.OnPath w th → s.cur.lanes = [th.lane] → w.fresh →
     s.regsOk [d.toNat, a.toNat, a.toNat + 1, a.toNat + 2, a.toNat + 3] →
     let vf := s.vfOf w.blk
     let b := (th.g? s a.toNat).toNat
     let n := (th.g? s (a.toNat + 1)).toNat
     let tag := th.g? s (a.toNat + 2)
     let e := s.bucketAt vf b
     let die := s.bucketAt vf e.pair
     let mine := s.tags.filter (fun r => r.vf == vf && r.bucket == b)
     let gets := fun (s' : State) (v : Word) => s'.lane? w.core w.slot th.lane = some ((th.setG s d.toNat v).after s.cur.len t)
     let grant := if e.paired = true then min (min n e.level) die.level else min n e.level
     ∃ s', exec (.admitD d a t) s = .next s' ∧
       (1023 < b → s'.lane? w.core w.slot th.lane = some (Thread.trap s w.regs th cILLOP th.pc)) ∧
       (b ≤ 1023 → (e.on = false ∨ e.paired = true ∧ (die.on = false ∨ die.paired = true) → gets s' 0 ∧ s'.tags = s.tags ∧ s.sameMemory s') ∧
         (e.on = true → (e.paired = true → die.on = true ∧ die.paired = false) →
           (∀ r, tag ≠ 0 → mine.find? (fun r => r.tag == tag) = some r → gets s' r.grant ∧ s'.tags = s.tags ∧ s.sameMemory s') ∧
           (tag ≠ 0 → mine.find? (fun r => r.tag == tag) = none → 1024 ≤ mine.length →
             gets s' 0xFFFFFFFF#32 ∧ s'.tags = s.tags ∧ s.sameMemory s') ∧
           (tag = 0 → gets s' (BitVec.ofNat 32 grant) ∧ s'.tags = s.tags) ∧
           (tag ≠ 0 → mine.find? (fun r => r.tag == tag) = none → mine.length < 1024 →
             gets s' (BitVec.ofNat 32 grant) ∧ s'.tags = ⟨vf, b, tag, BitVec.ofNat 32 grant⟩ :: s.tags))))

/-- TEND, TEND_RETIRE, TCBDONE (R222, R224): from a clear path a TEND waits, its core's own writes published where the block is complete; once
every live thread of the block stands there and its copies have completed, each goes on; TCBDONE goes on, and writes nothing for a block
that has no successors. -/
def Obligations.TaskEnds : Prop :=
  ∀ (s : State) (w : Wave) (th : Thread) (t : Bool),
    (s.OnPath w th → Clear s w → ∃ s', exec (.tend t) s = .next s' ∧ s'.lane? w.core w.slot th.lane = some { th with wait := .tend t } ∧
      (s'.core w.core).writes = []) ∧
    (∀ b, s.block? w.blk = some b → b.queues.all List.isEmpty = true → s.tendMet w.blk = true → s.wave? w.core w.slot = some w →
      w.lane? th.lane = some th → th.wait = .tend t →
      ∃ s', exec (.tendRetire w.blk) s = .next s' ∧ s'.lane? w.core w.slot th.lane = some ({ th with wait := .no }.after 4 t)) ∧
    (∀ (a : Reg) pl, s.OnPath w th → Alone s w th → NoSpills s → s.poisoned = [] → s.regsOk [a.toNat, a.toNat + 1] →
      s.resolve w.blk (th.pair? s a.toNat) 8 false = .at pl →
      (∀ v ∈ s.tcbVas (s.vfOf w.blk) (th.pair? s a.toNat).toNat, ∃ p, s.resolve w.blk (BitVec.ofNat 64 v.1) 8 v.2 = .at p) →
      ∃ s', exec (.tcbdone a t) s = .next s' ∧ s'.lane? w.core w.slot th.lane = some (th.after s.cur.len t) ∧
        (s.devGet (s.vfOf w.blk) ((th.pair? s a.toNat).toNat + 4) 4 = 0 → s.sameMemory s'))

/-! ## Panels, faults, unwinding -/

/-- NOTCH_PARK, AGE_FORCE, WAVE_SWAP, PENDING_PROMOTE (R248, R265, R266, R319): a thread ready or stalled before a notched instruction, with no
result outstanding and no end check due, parks while a stop is requested; the forced thread's wave comes into a free active slot; an active wave all of whose live threads wait long gives way to
the next pending wave; a pending wave takes an emptied slot of a panel that has nothing to issue. When such a step comes is the agenda's (log entry 1). -/
def Obligations.Panels : Prop :=
  (∀ (s : State) (c sl : Nat) (w : Wave) (th : Thread) (g : Gang) (n : Notch), s.wave? c sl = some w → w.lane? th.lane = some th →
    th.live = true → th.wait.before = true → th.endChk = false → th.outstanding = false → s.gangOf w.blk = some g → g.stop = true → s.atNotch w th = some n →
    ∃ s', exec (.notchPark c sl th.lane) s = .next s' ∧ s'.lane? c sl th.lane = some { th with wait := .notch, marks := [] } ∧
      s.OnlyLanes s' w [th.lane]) ∧
  (∀ (s : State) (c pn : Nat) (w : Wave) (th : Thread), s.forced c pn = some (w, th) → s.wave? c w.slot = some w →
    (w.active = true → exec (.ageForce c pn) s = .next s) ∧
    (w.active = false → s.activeCount c pn + w.slots ≤ 8 → ∃ s', exec (.ageForce c pn) s = .next s' ∧
      s'.wave? c w.slot = some { w with active := true, owed := false } ∧ OnlySlots s s' c [w.slot])) ∧
  (∀ (s : State) (c act pend : Nat) (a p : Wave), s.wave? c act = some a → s.nextPending c (act / 32) false = some p → p.slot = pend →
    s.wave? c pend = some p → pend ≠ act → a.active = true → a.live ≠ 0 → (∀ t ∈ a.lanes, t.live = true → s.waitsLong a t = true) →
    s.activeCount c (act / 32) + p.slots ≤ 8 + a.slots →
    ∃ s', exec (.waveSwap c act pend) s = .next s' ∧ s'.wave? c act = some { a with active := false, pendSince := s.free } ∧
      s'.wave? c pend = some { p with active := true, owed := false } ∧ OnlySlots s s' c [act, pend]) ∧
  (∀ (s : State) (c pn : Nat) (w : Wave), s.nextPending c pn true = some w → s.wave? c w.slot = some w →
    (8 < s.activeCount c pn + w.slots ∨ s.idle c pn = false → exec (.pendingPromote c pn) s = .next s) ∧
    (s.activeCount c pn + w.slots ≤ 8 → s.idle c pn = true → ∃ s', exec (.pendingPromote c pn) s = .next s' ∧
      s'.wave? c w.slot = some { w with active := true, owed := false } ∧ OnlySlots s s' c [w.slot]))

/-- COLLECTIVE_UNWIND (R211, R212) of the one thread that has thrown, in a group at rest with no fault stop and no other throw due: every member goes on at the
catch of the thrower's innermost region with that region and those inside it popped, and every wave of the group holds the record. -/
def Obligations.Unwinding : Prop :=
  ∀ (s : State) (c sl : Nat) (w : Wave) (th : Thread) (x : Throw) (r : Region), s.wave? c sl = some w → w.lane? th.lane = some th →
    th.wait = .thrown x → th.regions.head? = some r → s.waves.filter (fun v => v.lanes.any (fun u => u.thrown?.isSome)) = [w] →
    w.lanes.filter (fun u => u.thrown?.isSome) = [th] → (∀ v ∈ s.waves, s.wave? v.core v.slot = some v) →
    (∀ v ∈ s.waves, s.sameGroup r.level w v = true → (s.core v.core).faults = [] ∧ v.lining = none ∧ ∀ u ∈ v.lanes, u.acc = [] ∧ u.due = none) →
    ∃ s', exec (.collectiveUnwind c sl th.lane) s = .next s' ∧
      ∀ v ∈ s.waves, s.sameGroup r.level w v = true → ∃ v' ∈ s'.waves, v'.core = v.core ∧ v'.slot = v.slot ∧
        v'.regs.x.code = x.code ∧ v'.regs.x.count = 1 ∧ v'.regs.x.pc = x.xpc ∧ v'.regs.x.cls = BitVec.ofNat 32 x.cls ∧
        v'.regs.x.level = BitVec.ofNat 32 r.level ∧
        v'.regs.x.mask = BitVec.ofNat 32 (maskOf 32 (fun l => w.isAt v.core v.slot && l == th.lane)) ∧
        v'.regs.x.lead = BitVec.ofNat 32 (32 * (w.wlin % max 1 ((s.waveRec w).wavesIn r.level)) + th.lane) ∧
        ∀ u ∈ v.lanes, u.live = true → ∃ u' ∈ v'.lanes, u'.lane = u.lane ∧ u'.pc = clearBit0 (catchOf r u.regions) ∧
          u'.regions = outsideOf r u.regions ∧ u'.loops = [] ∧ u'.handler = false ∧ u'.wait = .no ∧ u'.g = u.g ∧ u'.p = u.p ∧ u'.arrived = []

/-- CORE_FAULT_STOP, FAULT_RESUME, FAULT_REFUSE (R281, R333): the record of a core's fault goes into the next slot of its function's ring, where
one is free, a slot being free again once its record is answered (log entry 31); a resumed access issues anew; a refused one that no table
fault is behind is a FAULT user trap. -/
def Obligations.FaultAnswers : Prop :=
  ∀ (s : State) (c : Nat) (f : FaultStop) (rest : List FaultStop), (s.core c).faults = f :: rest →
    (f.recorded = false → s.ringFull f.vf = true → exec (.coreFaultStop c) s = .next s) ∧
    (f.recorded = false → s.ringFull f.vf = false → Orderly s →
      let at_ := s.vfDword f.vf 80 + 32 * (s.faultHead f.vf % s.vfWord f.vf 88)
      let unit := c + (if f.write = true then 2 ^ 16 else 0) + (if f.fetch = true then 2 ^ 17 else 0) + (if f.copy ≠ none then 2 ^ 18 else 0)
      ∃ s', exec (.coreFaultStop c) s = .next s' ∧ (s'.core c).faults = { f with recorded := true, record := s.faultHead f.vf } :: rest ∧
        s'.faultHead f.vf = s.faultHead f.vf + 1 ∧ s'.homeNat at_ 8 = f.va.toNat ∧ s'.homeNat (at_ + 8) 4 = f.kind % 2 ^ 32 ∧
        s'.homeNat (at_ + 12) 4 = unit % 2 ^ 32 ∧ s'.homeNat (at_ + 16) 8 = s.clock.now % 2 ^ 64 ∧ s'.homeNat (at_ + 24) 1 = f.level % 2 ^ 8 ∧
        (∀ x, Apart x 1 at_ 32 → readMem s'.mem x = readMem s.mem x)) ∧
    (∀ (w : Wave) (th : Thread), f.recorded = true → f.copy = none → s.wave? f.who.core f.who.slot = some w →
      w.lane? f.who.lane = some th → th.wait = .fault →
      (∃ s', exec (.faultResume c) s = .next s' ∧ (s'.core c).faults = rest ∧
        (∀ x ∈ s'.mon.faultOpen, x.vf ≠ f.vf ∨ x.record ≠ f.record) ∧
        s'.lane? f.who.core f.who.slot f.who.lane = some { th with wait := .no } ∧ s.sameMemory s') ∧
      (f.kind ≠ 3 → ∃ s', exec (.faultRefuse c) s = .next s' ∧ (s'.core c).faults = rest ∧
        (∀ x ∈ s'.mon.faultOpen, x.vf ≠ f.vf ∨ x.record ≠ f.record) ∧
        s'.lane? f.who.core f.who.slot f.who.lane = some ((Thread.trap s w.regs { th with wait := .no } cFAULT th.pc).issuedIn f.step) ∧
        s.sameMemory s'))

/-! ## The dispatcher -/

/-- LAUNCH_RECORD_TAKE (R300, R303, R308): a queue that is not served, an older record of it with gangs to start, and a slot whose SEQ does
not name it leave everything; else, with no communicator open and no evicted page to come back, HEAD advances, a record of another class is refused with REASON 1, and one that passes
every step is a launch that waits. -/
def Obligations.RecordsTaken : Prop :=
  ∀ (s : State) (vf cls pa : Nat), s.submits = [] →
    let dv := s.queueVa vf cls
    let head := s.devGet vf (dv + 16) 4
    let va := s.devGet vf dv 8 + 256 * (head % max 1 (s.devGet vf (dv + 8) 4))
    let bs := s.vaBytes vf va 256
    let r := recOfBytes bs
    let busy := ∃ p ∈ s.launches, p.2.vf = vf ∧ p.2.prog.lrec.cls = cls ∧ p.2.aborting = none ∧ p.2.status ≤ 1 ∧ p.2.started < p.2.prog.lrec.gangs
    let s1 := s.devPut vf (dv + 16) 4 ((head + 1) % 2 ^ 32)
    (s.served vf cls = false ∨ busy ∨ fld bs 20 4 ≠ (head + 1) % 2 ^ 32 → exec (.launchRecordTake vf cls) s = .next s) ∧
    (s.served vf cls = true → ¬busy → fld bs 20 4 = (head + 1) % 2 ^ 32 → Orderly s → s.comms = [] → Mapped s vf (dv + 16) 4 pa →
      (∀ q, r.cls ≠ cls → Mapped s1 vf r.done.toNat 40 q → Apart pa 4 q 40 →
        ∃ s', exec (.launchRecordTake vf cls) s = .next s' ∧ s'.homeNat pa 4 = (head + 1) % 2 ^ 32 ∧ s'.launches = s.launches ∧
          s'.homeNat q 4 = 3 ∧ s'.homeNat (q + 4) 4 = 1) ∧
      (∀ p ts, r.cls = cls → s1.readProg vf va bs = .ok p → s1.readTemplates vf r = .ok ts → r.cores = false → p.lrec.collective = false → s.moved = [] →
        ∃ s' y, exec (.launchRecordTake vf cls) s = .next s' ∧ s'.homeNat pa 4 = (head + 1) % 2 ^ 32 ∧ s'.launch? s.ids = some y ∧
          y.vf = vf ∧ y.prog = p ∧ y.templates = ts ∧ y.status = 0 ∧ y.started = 0 ∧ y.live = 0 ∧ y.aborting = none))

/-- GANG_START, SPAWN_ENTRY_TAKE, EDGE_CONSUMER_START, EDGE_DRAIN_START (R304, R306, R311 to R313) of work that comes next, with the leases granted: the
gang starts whole, its blocks on the cores of its place, or not at all; a consumer becomes due of an edge that has none waiting or running, by whichever
table names it, and gets the count of items seen then. The place of a
gang start is an operand of the step, any that the rules allow (log entries 1 and 32). -/
def Obligations.GangsStart : Prop :=
  ∀ (s : State) (l : Nat) (x : Launch), s.launch? l = some x → x.id = l → x.open_ = true → x.leased = true →
    let starts := fun (t : State) (tmpl gi : Nat) (args : List Word) (place : List Nat) =>
      (∃ g, t.gang? s.ids = some g ∧ g.launch = l ∧ g.tmpl = tmpl ∧ g.index = gi ∧ g.args = args) ∧
      (∃ y, t.launch? l = some y ∧ y.live = x.live + 1 ∧ y.status = 1 ∧ y.started = x.started + (if tmpl = 0 then 1 else 0)) ∧
      ∀ i < (x.progOf tmpl).lrec.blocksPerGang, ∃ b ∈ t.blocksOf s.ids, b.index = i ∧ place[i]?.map (fun e => e / 4) = some b.core
    (∀ place, x.prog.lrec.cores = false → x.started < x.prog.lrec.gangs → s.isNext x .gang = true →
      (s.startGang x 0 x.started [] none place = none → exec (.gangStart l x.started place) s = .next s) ∧
      (∀ t, s.startGang x 0 x.started [] none place = some t →
        ∃ s', exec (.gangStart l x.started place) s = .next s' ∧ starts s' 0 x.started [] place)) ∧
    (∀ k place t, s.spawnWaiting x ≠ 0 → s.isNext x .spawn = true → k = ((s.spawnEntry x 0).headD 0).toNat % 64 → x.tleased.elem k = true →
      s.findPlace x (k + 1) ((s.spawnDue x).head?.map (fun d => d.2)) = some place →
      s.startGang x (k + 1) 0 ((s.spawnEntry x 0).drop 1) none place = some t →
      ∃ s', exec (.spawnEntryTake l) s = .next s' ∧ starts s' (k + 1) 0 ((s.spawnEntry x 0).drop 1) place) ∧
    (∀ e < x.edgeVas.length,
      let va := x.edgeVas.getD e 0
      let items := (s.edgeOf x e).2.2.1
      let due := fun (dr : Bool) => (s.dueEdges x).find? (fun d => d.edge == e && d.drain == dr)
      (s.edgeBusy x.vf va = false → (x.edgeVas.take e).elem va = false →
        (0 < items → (s.edgeOf x e).2.1 ≤ items → due false = some ⟨e, s.free, items, false⟩) ∧
        (s.onlyConsumers x = true → 1 ≤ items → items < (s.edgeOf x e).2.1 → due true = some ⟨e, s.free, items, true⟩)) ∧
      (∀ d k place t, s.isNext x (.edge e) = true → k = (s.edgeOf x e).2.2.2 → x.tleased.elem k = true → s.findPlace x (k + 1) none = some place →
        let args : List Word := [BitVec.ofNat 32 va, BitVec.ofNat 32 (va / 2 ^ 32), BitVec.ofNat 32 d.items]
        s.startGang x (k + 1) 0 args (some e) place = some t →
        (due false = some d →
          ∃ s', exec (.edgeConsumerStart l e) s = .next s' ∧ starts s' (k + 1) 0 args place ∧ ∃ y, s'.launch? l = some y ∧ e ∈ y.consumers) ∧
        (due true = some d →
          ∃ s', exec (.edgeDrainStart l e) s = .next s' ∧ starts s' (k + 1) 0 args place ∧ ∃ y, s'.launch? l = some y ∧ e ∈ y.consumers)))

/-- LAUNCH_COMPLETE, ALLOWANCE_REFILL, EVICTION_COMPLETE (R307, R316, R331): a launch whose conditions hold, with what it wrote published, has
STATUS 2 and its times in its completion record and is gone; one whose conditions do not hold stays; a bucket at its instant is filled up to
its cap and its tag records are gone, once an instant (log entry 37); an evicted range is away, and no core holds a translation of it; a page of it in device
memory has gone to a frame of host or CXL memory, which its table entry names (log entry 32), and nothing else of memory has changed. -/
def Obligations.DispatcherEnds : Prop :=
  (∀ (s : State) (l : Nat) (x : Launch), s.launch? l = some x → x.aborting = none →
    (s.allDone x = false → exec (.launchComplete l) s = .next s) ∧
    (∀ q, s.allDone x = true → x.coll = none → x.prog.lrec.tcb = 0 → Published s x → s.comms = [] → Orderly s →
      Mapped s x.vf x.prog.lrec.done.toNat 40 q → risingFrom 0 s.launches = true →
      ∃ s', exec (.launchComplete l) s = .next s' ∧ s'.launch? l = none ∧ s'.homeNat q 4 = 2 ∧ s'.homeNat (q + 4) 4 = 0 ∧
        s'.homeNat (q + 8) 4 = 0 ∧ s'.homeNat (q + 12) 4 = 0 ∧ s'.homeNat (q + 16) 8 = 0 ∧ s'.homeNat (q + 32) 8 = s.clock.now % 2 ^ 64 ∧
        (∀ n, x.tstart = some n → s'.homeNat (q + 24) 8 = n % 2 ^ 64) ∧ (∀ a, Apart a 1 q 40 → readMem s'.mem a = readMem s.mem a))) ∧
  (∀ (s : State) (vf b pa : Nat), b < 1024 → Orderly s → Mapped s vf (s.bucketVa vf b) 16 pa →
    let ctrl := s.homeNat (pa + 12) 4
    let period := ctrl / 2 ^ 12 * 10000
    let again := ∃ r ∈ s.refills, r.vf = vf ∧ r.bucket = b ∧ r.instant = s.clock.now
    (ctrl.testBit 0 = false ∨ period = 0 ∨ s.clock.now % period ≠ 0 ∨ again → exec (.allowanceRefill vf b) s = .next s) ∧
    (ctrl.testBit 0 = true → 0 < period → s.clock.now % period = 0 → ¬again → ∃ s', exec (.allowanceRefill vf b) s = .next s' ∧
      s'.homeNat pa 4 = min (s.homeNat pa 4 + s.homeNat (pa + 4) 4) (s.homeNat (pa + 8) 4) ∧
      s'.tags = s.tags.filter (fun t => !(t.vf == vf && t.bucket == b)) ∧ (∀ a, Apart a 1 pa 4 → readMem s'.mem a = readMem s.mem a))) ∧
  (∀ (s : State) (id : Nat), (∀ p ∈ s.launches, p.2.leased = true) →
    let gone := fun (x : Resident) => x ∈ s.residents ∧ x.id = id ∧ x.evicting = true
    ∃ s', exec (.evictionComplete id) s = .next s' ∧
      s'.residents = s.residents.map (fun x => if x.id = id ∧ x.evicting = true then { x with evicting := false, away := true } else x) ∧
      (∀ e, e ∈ s'.tlb ↔ e ∈ s.tlb ∧ ∀ x, gone x → x.vf = e.vf → Apart (x.range.va % 2 ^ 57) x.range.len e.base e.bytes) ∧
      ((∀ x, gone x → ∀ p ∈ s.rangePages x.vf x.range, ∀ l, p.2 = some l → isDevice l.frame = false) →
        { s' with residents := s.residents, tlb := s.tlb } = s) ∧
      (∀ x va l, s.residents.filter (fun y => y.id == id && y.evicting) = [x] → s.rangePages x.vf x.range = [(va, some l)] → isDevice l.frame = true →
        x.range.va % 2 ^ 57 ≤ va → va + l.bytes ≤ x.range.va % 2 ^ 57 + x.range.len → Orderly s →
        ∃ far, (regionOf far = some .host ∨ regionOf far = some .cxl) ∧ s'.homeNat l.place 8 = l.entry % 2 ^ 8 + far ∧
          s'.moved = ⟨x.vf, va, l.level, l.frame, far⟩ :: s.moved ∧ ∀ a, Apart a 1 l.place 8 → readMem s'.mem a = readMem s.mem a))

/-! ## Tenancy and boot -/

/-- Each of these six steps answers a next state in every state. INVALIDATION_REQUEST and _COMPLETE (R325): a request is added, and no core holds a
translation of its range any more; it is answered once no unperformed access uses what it names, and not before. SLICE_SWITCH (R335, R336): with the
slice of another function begun, that function is incoming; a partition at rest begins its scrub, the gangs of one that is not are stopped; one that
is switching notes the function that is then to follow. SCRUB_COMPLETE (R338): the incoming function holds the partition, and no core of it a tile,
slot, window entry, latched state or translation of the one before. PARTITION_REASSIGN (R337): as a switch. BOOT (R339, R340): a stage whose image
passes goes on to the next, one whose image fails leaves the device in recovery; a partition that runs nothing has the image, or, where it fails,
its functions are not enabled. The partitions, their scrub and the words the monitor writes follow log entries 6, 29, 50 and 53. -/
def Obligations.Tenancy : Prop :=
  (∀ (s : State) (vf va len : Nat), ∃ s', exec (.invalidationRequest vf va len) s = .next s' ∧
    s'.invals = s.invals ++ [⟨s.ids, vf, va, len, s.free⟩] ∧
    (∀ e, e ∈ s'.tlb ↔ e ∈ s.tlb ∧ (e.vf = vf → Apart (va % 2 ^ 57) len e.base e.bytes)) ∧
    { s' with invals := s.invals, ids := s.ids, tlb := s.tlb } = s) ∧
  (∀ (s : State) (id : Nat), ∃ s', exec (.invalidationComplete id) s = .next s' ∧ { s' with invals := s.invals } = s ∧
    (s.invals.find? (fun x => x.id == id) = none → s' = s) ∧
    (∀ v, s.invals.find? (fun x => x.id == id) = some v →
      let used := ∃ w ∈ s.waves, ∃ t ∈ w.lanes, ∃ a ∈ t.acc, v.holds (s.vfOf w.blk) a = true
      (used → s' = s) ∧ (¬used → s'.invals = s.invals.filter (fun x => x.id != id)))) ∧
  (∀ (s : State) (n : Nat), ∃ s', exec (.sliceSwitch n) s = .next s' ∧ (look s.partitions n = none ∨ s.slice n s.clock.now = none → s' = s) ∧
    (∀ p f a, look s.partitions n = some p → s.slice n s.clock.now = some (f, a) →
      (∀ g, p.incoming = some g → f ≠ p.queued.getD g → s' = { s with partitions := s'.partitions } ∧
        look s'.partitions n = some { p with queued := some f }) ∧
      (p.incoming = none → f = p.vf → a ≠ s.clock.now → s' = s) ∧
      (p.incoming = none → p.scrubbing = false → f ≠ p.vf → ∃ p', look s'.partitions n = some p' ∧
        p'.incoming = some f ∧ p'.vf = p.vf ∧ (s.partGangs p = [] → p'.scrubbing = true) ∧
        (∀ k g, k ∈ s.partGangs p → s.gang? k = some g → g.id = k → p'.scrubbing = false ∧ ∃ g', s'.gang? k = some g' ∧ g'.stop = true)))) ∧
  (∀ (s : State) (n : Nat), ∃ s', exec (.scrubComplete n) s = .next s' ∧ (∀ p, look s.partitions n = some p → p.scrubbing = false → s' = s) ∧
    (∀ p f, look s.partitions n = some p → p.scrubbing = true → p.incoming = some f → p.queued = none →
      look s'.partitions n = some { p with vf := f, incoming := none, scrubbing := false } ∧
      ∀ c ∈ p.cores, (s'.core c).tiles = [] ∧ (s'.core c).slots = [] ∧ (s'.core c).window = [] ∧ (s'.core c).mq.latch = Latch.reset ∧
        ∀ e ∈ s'.tlb, e.core ≠ c ∧ (e.core = 192 → e.vf ≠ p.vf))) ∧
  (∀ (s : State) (n vf : Nat), ∃ s', exec (.partitionReassign n vf) s = .next s' ∧ (look s.partitions n = none → s' = s) ∧
    (∀ p, look s.partitions n = some p →
      (p.incoming ≠ none → look s'.partitions n = some { p with queued := some vf }) ∧
      (p.incoming = none → p.vf = vf → s' = s) ∧
      (p.incoming = none → p.vf ≠ vf → p.scrubbing = false → ∃ p', look s'.partitions n = some p' ∧ p'.incoming = some vf ∧ p'.vf = p.vf ∧
        (s.partGangs p = [] → p'.scrubbing = true) ∧
        (∀ k g, k ∈ s.partGangs p → s.gang? k = some g → g.id = k → p'.scrubbing = false ∧ ∃ g', s'.gang? k = some g' ∧ g'.stop = true)))) ∧
  (∀ (s : State) (n : Nat) (hdr payload key : List Byte),
    let ok := s.imageOk (min 3 (s.mon.bootStage + 1)) n hdr payload key
    ∃ s', exec (.boot n hdr payload key) s = .next s' ∧ (hdr.length ≠ 1024 ∨ fld hdr 0 4 ≠ 0x4E5A4952 → ok = false) ∧
    (s.mon.recovery = true → s' = s) ∧
    (s.mon.recovery = false → s.mon.bootStage < 2 →
      s'.mon.bootStage = s.mon.bootStage + (if ok = true then 1 else 0) ∧ s'.mon.recovery = !ok ∧ { s' with mon := s.mon } = s) ∧
    (∀ p, s.mon.recovery = false → 2 ≤ s.mon.bootStage → look s.partitions n = some p → p.incoming = none → p.scrubbing = false →
      s.partGangs p = [] → risingFrom 0 s.mon.regs = true →
      (ok = true → ∃ p', look s'.partitions n = some p' ∧ p'.booted = true ∧ p'.image = (hdr.drop 24).take 64 ∧ p'.vf = p.vf ∧
        (p.image ≠ [] → p.image ≠ p'.image → p'.scrubbing = true)) ∧
      (ok = false → look s'.partitions n = some { p with booted := false } ∧
        ∀ vf < 256, s.vfWord vf 4 = n → (s'.vfWord vf 92).testBit 0 = false)))

/-! ## Pre-emption -/

/-- PREEMPT_REQUEST (R341): the gangs named are to stop, from now where they were not already, and their launches are not placed where those run. PREEMPT_HARD_STOP
(R342): not before 200 microseconds of wall time; then every live thread with nothing due is stopped where it stands, one parked at a notch
staying so. CONTEXT_SAVE (R341, R343): nothing where on none of the cores of the gang with something to save it rests with its operations drained; a core where
it does is saved by itself, the image holding its blocks that have not ended, no wave of which is left there; with all of them saved the image holds the gang,
and the gang runs no more; what a hard stop finds outstanding is log entry 38. GANG_RESUME (R346, R349, R350): not for an
image in a debug halt, of a launch that aborts, or whose gang is still being saved, and not where the place does not take it whole; one whose FORMAT or SIZE is wrong aborts the launch
with class 6 and code 0x101; else the gang runs again and its image is gone. -/
def Obligations.Preemption : Prop :=
  (∀ (s : State) (gs : List Nat) (k : Nat) (g : Gang), s.gang? k = some g → g.id = k → k ∈ gs →
    ∃ s' g', exec (.preemptRequest gs) s = .next s' ∧ s'.gang? k = some g' ∧ g'.stop = true ∧ g'.baste = false ∧
      g'.stopAt = (if g.stop = true then g.stopAt else s.clock.wall) ∧
      ∀ x, s.launch? g.launch = some x → ∃ h, s'.launch? g.launch = some { x with held := h } ∧ ∀ n ∈ s.gangParts k, n ∈ h) ∧
  (∀ (s : State) (k : Nat) (g : Gang), s.gang? k = some g → g.stop = true →
    (s.clock.wall < g.stopAt + 200000 → exec (.preemptHardStop k) s = .next s) ∧
    (∀ w th, g.stopAt + 200000 ≤ s.clock.wall → g.still = false → (∀ v ∈ s.waves, ∀ u ∈ v.lanes, u.acc = []) → s.wave? w.core w.slot = some w →
      s.inGang k w = true → w.lane? th.lane = some th → th.live = true → th.due = none → th.endChk = false →
      ∃ s', exec (.preemptHardStop k) s = .next s' ∧
        (th.wait = .no → s'.lane? w.core w.slot th.lane = some { th with wait := .stopped, marks := [] }) ∧
        (th.wait = .notch → s'.lane? w.core w.slot th.lane = some th))) ∧
  (∀ (s : State) (k : Nat) (g : Gang), s.gang? k = some g → g.id = k → g.stop = true → g.rolling = false →
    (∀ v ∈ s.waves, v.lining = none ∧ ∀ u ∈ v.lanes, u.acc = []) →
    let unsaved := fun (b : Block) => b ∈ s.blocksOf k ∧ b.ended = false ∧ b.away = none
    let goes := fun (c : Nat) => s.coreRests k c = true ∧ s.coreDrained k c = true
    ((∃ b, unsaved b) → (∀ b, unsaved b → ¬goes b.core) → exec (.contextSave k) s = .next s) ∧
    (∀ b, unsaved b → goes b.core → g.baste = false → ∃ s' m, exec (.contextSave k) s = .next s' ∧ look s'.images k = some m ∧
      (∃ x ∈ m.blocks, x.block.id = b.id) ∧ ∀ w ∈ s'.waves, w.blk ≠ b.id) ∧
    ((∃ b, unsaved b) → (∀ b ∈ s.blocksOf k, (b.ended = false → unsaved b ∧ goes b.core) ∧ b.queues.all List.isEmpty = true ∧
        ∀ c, ∀ o ∈ (s.core c).matOps, o.blk ≠ b.id) → g.baste = false → risingFrom 0 s.gangs = true →
      ∃ s' m, exec (.contextSave k) s = .next s' ∧ look s'.images k = some m ∧ m.gang.launch = g.launch ∧ m.gang.index = g.index ∧
        m.gang.args = g.args ∧ m.hard = g.hard ∧ m.halt = ((s.launch? g.launch).map (fun l => l.halted)).getD false ∧
        m.blocks.length = ((s.blocksOf k).filter (fun b => !b.ended)).length ∧ s'.gang? k = none ∧
        ∀ b ∈ s.blocksOf k, b.ended = false → ∀ w ∈ s'.waves, w.blk ≠ b.id)) ∧
  (∀ (s : State) (k : Nat) (m : Image) (l : Launch) (place : List Nat), look s.images k = some m → m.id = k →
    s.launch? m.gang.launch = some l → l.prog.lrec.cores = false →
    (m.halt = true ∨ l.aborting ≠ none ∨ s.gang? k ≠ none → exec (.gangResume k place) s = .next s) ∧
    (m.halt = false → l.aborting = none → s.gang? k = none → (l.halted = true → ∀ p ∈ s.gangs, p.2.launch = l.id → p.2.stop = false) →
      let t := State.resume { s with images := eraseAt s.images k } (Image.found s m) (place.take m.blocks.length)
      (m.wrong = true → exec (.gangResume k place) s = .next (s.abortLaunch l.id 6 0x101#32 s.freeXpc)) ∧
      (m.wrong = false → t = none → exec (.gangResume k place) s = .next s) ∧
      (m.wrong = false → t ≠ none → risingFrom 0 s.images = true →
        ∃ s', exec (.gangResume k place) s = .next s' ∧ s'.gang? k = some m.gang ∧ look s'.images k = none)))

/-- HALT_RESUME and HALT_ABORT (R344, R276) of a launch in a debug halt: HALT clears in every image; or, with every gang saved and what it wrote
published, the launch is gone with its images, and its completion record says that it aborted with class 6 and code 0x104. -/
def Obligations.Halts : Prop :=
  ∀ (s : State) (l : Nat) (x : Launch), s.launch? l = some x →
    (∃ s', exec (.haltResume l) s = .next s' ∧ s'.launch? l = some { x with halted := false } ∧
      ∀ k m, look s.images k = some m →
        look s'.images k = some (if m.gang.launch = l then { m with halt := false } else m)) ∧
    (x.halted = false → (∀ p ∈ s.images, p.2.gang.launch = l → p.2.halt = false) → exec (.haltAbort l) s = .next s) ∧
    (∀ q, x.halted = true → x.aborting = none → x.status ≤ 1 → x.coll = none → Published s x → s.comms = [] →
      (∀ c ∈ x.used, (s.core c).window = []) → (∀ p ∈ s.gangs, p.2.launch ≠ l) → Orderly s → Mapped s x.vf x.prog.lrec.done.toNat 40 q →
      risingFrom 0 s.launches = true →
      ∃ s', exec (.haltAbort l) s = .next s' ∧ s'.launch? l = none ∧ (∀ p ∈ s'.images, p.2.gang.launch ≠ l) ∧ s'.homeNat q 4 = 4 ∧
        s'.homeNat (q + 8) 4 = 6 ∧ s'.homeNat (q + 12) 4 = 0x104 ∧ s'.homeNat (q + 32) 8 = s.clock.now % 2 ^ 64)

/-! ## Collectives -/

/-- The chunks and the commands of a Bobbin (R353, R362 to R366, R382). CHUNK_ARRIVE: a chunk that comes too late (log entry 74), of no other rank, of a
fenced peer or too long is dropped; else it takes a free slot, or, with none free or chunks waiting, the lowest free place of the spool (log entry
47), in the form of log entry 46; a spool that does not take it is emptied of its instance. SPOOL_FETCH: the oldest of the spool, as it stands there,
takes a free slot. CREDIT: an event. SEND, REDUCE, WRITE, FREE, DONE of a firmware other than schedule 0 (log entry 66): the command enters the ring
for the current instance, or, out of bounds or with no instance, is an ERROR event (log entry 45). PARTNER_ABORT_NOTICE: noted for an instance not
yet active, and for a COMMID that no open descriptor has; dropped where it comes too late (log entry 74). COMMUNICATOR_EN_CLEAR: refused while EN is set, an instance has not ended, or a
launch that names the descriptor has not; else the communicator is gone and its OPEN bit clear. -/
def Obligations.Chunks : Prop :=
  ∀ (s : State) (cm : Nat) (k : Comm), look s.comms cm = some k →
    let becomes := fun (i : Instr) (k' : Comm) => ∃ s', exec i s = .next s' ∧ look s'.comms cm = some k'
    let empties := fun (i : Instr) (inst : Nat) => ∃ s' k', exec i s = .next s' ∧ look s'.comms cm = some k' ∧ ∀ p ∈ k'.spool, p.2.inst ≠ inst
    (∀ inst rank chunk data, let c : ChunkSlot := ⟨inst, chunk, rank, data, 1⟩
      let gone := (∀ x ∈ k.instances, x.inst = inst → x.over_ = true) ∧ s.tooLate k inst = true
      let kept := ¬gone ∧ rank < k.nrank ∧ rank ≠ k.rank ∧ s.peerState (k.peers.getD rank 0) ≠ 1 ∧ data.length ≤ k.slotb
      (¬kept → exec (.chunkArrive cm inst rank chunk data) s = .next s) ∧
      (kept →
        (∀ i, k.spool = [] → k.freeSlot = some i → becomes (.chunkArrive cm inst rank chunk data)
          { k with slots := insertAt k.slots i c, events := k.events ++ [.arrive chunk rank i] }) ∧
        (k.spool ≠ [] ∨ k.freeSlot = none →
          (k.freePlace = none → exec (.chunkArrive cm inst rank chunk data) s = .next s) ∧
          (∀ p, k.freePlace = some p → s.spoolOk k p data.length = true →
            becomes (.chunkArrive cm inst rank chunk data) { k with spool := k.spool ++ [(p, c)] }) ∧
          (∀ p, k.freePlace = some p → s.spoolOk k p data.length = false → empties (.chunkArrive cm inst rank chunk data) inst)))) ∧
    (∀ i p c rest, k.freeSlot = some i → k.spool = (p, c) :: rest →
      (s.spoolOk k p c.data.length = true → s.spoolFar k p c.data.length = [] →
        becomes (.spoolFetch cm) { k with
          spool := rest, slots := insertAt k.slots i { c with data := s.vaBytes k.vf (k.spoolVa + p * k.slotb) c.data.length }
          events := k.events ++ [.arrive c.chunk c.rank i] }) ∧
      (s.spoolOk k p c.data.length = true → s.spoolFar k p c.data.length ≠ [] → becomes (.spoolFetch cm) k) ∧
      (s.spoolOk k p c.data.length = false → empties (.spoolFetch cm) c.inst)) ∧
    becomes (.bobCredit cm) { k with events := k.events ++ [.credit] } ∧
    (s.scheduled k = true → ∀ isSlot ix rank slot chunk, becomes (.bobSend cm isSlot ix rank) k ∧ becomes (.bobReduce cm slot isSlot ix) k ∧
      becomes (.bobWrite cm slot chunk) k ∧ becomes (.bobFree cm slot) k ∧ becomes (.bobDone cm chunk) k) ∧
    (s.scheduled k = false →
      let cur := s.current k
      (∀ isSlot ix rank, (cur = none ∨ k.nrank ≤ rank ∨ isSlot = true ∧ k.nslot ≤ ix →
          becomes (.bobSend cm isSlot ix rank) { k with events := k.events ++ [.error] }) ∧
        (∀ x, cur = some x → rank < k.nrank → (isSlot = true → ix < k.nslot) →
          becomes (.bobSend cm isSlot ix rank) { k with cmds := k.cmds ++ [.send x.inst isSlot ix rank] })) ∧
      (∀ slot isSlot ix, (cur = none ∨ k.nslot ≤ slot ∨ isSlot = true ∧ k.nslot ≤ ix →
          becomes (.bobReduce cm slot isSlot ix) { k with events := k.events ++ [.error] }) ∧
        (∀ x, cur = some x → slot < k.nslot → (isSlot = true → ix < k.nslot) →
          becomes (.bobReduce cm slot isSlot ix) { k with cmds := k.cmds ++ [.reduce x.inst slot isSlot ix] })) ∧
      (∀ slot chunk, (cur = none ∨ k.nslot ≤ slot → becomes (.bobWrite cm slot chunk) { k with events := k.events ++ [.error] }) ∧
        (∀ x, cur = some x → slot < k.nslot → becomes (.bobWrite cm slot chunk) { k with cmds := k.cmds ++ [.write x.inst slot chunk] })) ∧
      (∀ slot, (k.nslot ≤ slot → becomes (.bobFree cm slot) { k with events := k.events ++ [.error] }) ∧
        (slot < k.nslot → becomes (.bobFree cm slot) { k with cmds := k.cmds ++ [.free slot] })) ∧
      (∀ chunk, (cur = none → becomes (.bobDone cm chunk) { k with events := k.events ++ [.error] }) ∧
        (∀ x, cur = some x → becomes (.bobDone cm chunk) { k with cmds := k.cmds ++ [.done x.inst chunk] }))) ∧
    (∀ commid inst rank, s.comms.find? (fun p => p.2.commid == commid) = none →
      (1024 ≤ rank → exec (.partnerAbortNotice commid inst rank) s = .next s) ∧
      (rank < 1024 → exec (.partnerAbortNotice commid inst rank) s =
        .next { s with early := (commid, inst, rank) :: s.early.filter (fun n => n.1 != commid || n.2.1 != inst) })) ∧
    (∀ inst rank, s.comms.find? (fun p => p.2.commid == k.commid) = some (cm, k) →
      (k.nrank ≤ rank → exec (.partnerAbortNotice k.commid inst rank) s = .next s) ∧
      (rank < k.nrank → (∀ x ∈ k.instances, x.inst = inst → x.active = false) →
        ((∀ x ∈ k.instances, x.inst = inst → x.over_ = true) → s.tooLate k inst = true → exec (.partnerAbortNotice k.commid inst rank) s = .next s) ∧
        ((∃ x ∈ k.instances, x.inst = inst ∧ x.over_ = false) ∨ s.tooLate k inst = false →
          becomes (.partnerAbortNotice k.commid inst rank) { k with notices := (inst, 1, rank) :: k.notices.filter (fun n => n.1 != inst) }))) ∧
    (let ctrl := s.homeNat (k.pa + 28) 4
      let busy := (∃ x ∈ k.instances, x.aborted = none ∧ x.complete = false) ∨
        ∃ l ∈ s.launches, l.2.vf = k.vf ∧ l.2.status ≤ 1 ∧ ∃ c, l.2.coll = some c ∧ c.cdesc = k.cdesc
      (ctrl.testBit 0 = true ∨ busy → exec (.communicatorEnClear cm) s = .next s) ∧
      (ctrl.testBit 0 = false → ¬busy → Orderly s → risingFrom 0 s.comms = true →
        ∃ s', exec (.communicatorEnClear cm) s = .next s' ∧ look s'.comms cm = none ∧
          s'.homeNat (k.pa + 28) 4 = ctrl - (if ctrl.testBit 1 = true then 2 else 0)))

/-- CHUNK_STEP_SELECT at a Bobbin with one communicator, of a firmware other than schedule 0 (log entry 66), whose next command is ready (R355, R358,
R362, R363): FREE empties a slot; DONE marks a chunk, and the last chunk of an instance that has fired completes it, with its number in the
communicator's completion word; WRITE of a result chunk that nothing else has written places the slot's bytes at the chunk's address. When an instance
is complete, and which one is performed, are log entries 45 and 48. INSTANCE_ABORT (R360, R366): a cause of 1 to 5, with a rank of the communicator
where it names one, ends the current instance, empties its slots and its places of the spool, is an event, and fails the wait of its WAIT launches,
with class ABORT or, for cause 2, REMOTE_FENCED (log entry 17). -/
def Obligations.ChunkSteps : Prop :=
  (∀ (s : State) (bob cm n : Nat) (k : Comm) (c : BobCmd), s.comms.filter (fun p => p.2.home == bob) = [(cm, k)] →
    look s.comms cm = some k → s.scheduled k = false → s.nextCmd k = some (n, c) → k.isReady c = true →
    let rest := k.cmds.take n ++ k.cmds.drop (n + 1)
    (∀ sl, c = .free sl → risingFrom 0 k.slots = true → (∀ x ∈ k.instances, x.active = true → k.isComplete x = false) →
      ∃ s' k', exec (.chunkStepSelect bob) s = .next s' ∧
        look s'.comms cm = some k' ∧ k'.cmds = rest ∧ look k'.slots sl = none ∧ k'.instances = k.instances) ∧
    (∀ i ch x, c = .done i ch → k.inst? i = some x → x.aborted = none → x.complete = false →
      ∃ s' k' x', exec (.chunkStepSelect bob) s = .next s' ∧ look s'.comms cm = some k' ∧ k'.cmds = rest ∧ k'.inst? i = some x' ∧ ch ∈ x'.done ∧
        (x.fired ≠ [] → (∀ c < x.coll.nchunk, c ∈ x.done ∨ c = ch) → Orderly s → x'.complete = true ∧ s'.homeNat (k.pa + 56) 4 = i % 2 ^ 32)) ∧
    (∀ i sl ch x a pa, c = .write i sl ch → k.inst? i = some x → x.aborted = none → x.complete = false → look k.slots sl = some a →
      (ch < x.coll.nchunk → x.coll.resultHere k.nrank k.rank ch = true → ch ∉ x.breached → Orderly s →
        Mapped s k.vf (x.coll.chunkVa ch) (a.data.take x.coll.chunk).length pa → Apart pa (a.data.take x.coll.chunk).length (k.pa + 56) 4 →
        ∃ s' k' x', exec (.chunkStepSelect bob) s = .next s' ∧ look s'.comms cm = some k' ∧ k'.cmds = rest ∧ k'.inst? i = some x' ∧
          ch ∈ x'.written ∧ s'.homeBytes pa (a.data.take x.coll.chunk).length = a.data.take x.coll.chunk) ∧
      (x.coll.resultHere k.nrank k.rank ch = false → (∀ x ∈ k.instances, x.active = true → k.isComplete x = false) →
        ∃ s', exec (.chunkStepSelect bob) s = .next s' ∧ s.sameMemory s'))) ∧
  (∀ (s : State) (cm cause rank : Nat) (k : Comm) (x : CollInst), look s.comms cm = some k → s.current k = some x → k.inst? x.inst = some x →
    (cause = 0 ∨ 5 < cause ∨ cause ≤ 2 ∧ k.nrank ≤ rank → exec (.instanceAbort cm cause rank) s = .next s) ∧
    (1 ≤ cause → cause ≤ 5 → (cause ≤ 2 → rank < k.nrank) → ∃ s' k' x', exec (.instanceAbort cm cause rank) s = .next s' ∧
      look s'.comms cm = some k' ∧
      k'.inst? x.inst = some x' ∧ x'.aborted = some (cause, if cause ≤ 2 then rank else k.rank) ∧ (∀ p ∈ k'.slots, p.2.inst ≠ x.inst) ∧
      (∀ p ∈ k'.spool, p.2.inst ≠ x.inst) ∧ k'.events = k.events ++ [.abort cause] ∧
      ∀ l y c, s.launch? l = some y → y.vf = k.vf → y.coll = some c → c.cdesc = k.cdesc → c.inst = x.inst → c.role = 2 →
        s'.launch? l = some { y with waitAbort := some (if cause = 2 then 9 else 12) }))

/-! ## The host, peers, ports -/

/-- HOST_WINDOW_READ and _WRITE (R373): the bytes at the home, of no spill area (R196) and, written, no fired chunk (R356), edge in use
(R220) or allowance entry in force (R316), or, where the window is
disabled or the translation fails, WFAULT and nothing else; what the package does not hold is requested first. REMOTE_RESPONSE (R378): the request of a
write that is not posted is gone; a read's data of the right length become the package's copy, or, where a
refresh has let go of what it would bring, are not used. HOST_COMPLETION_TIMEOUT (R376, R381): not before the
range in force, and never for a posted write; a load's lane then throws REMOTE_FENCED with code 1 or 2 by its region, as it stood at the load where
that is kept (R40, log entry 75). PEER_REQUEST (R375, R378, R382): no answer to a fenced peer; else a read, a write or an atomic operation on device
memory, by the size and operation codes of log entry 55. -/
def Obligations.HostAndPeers : Prop :=
  (∀ (s : State) (vf off len : Nat),
    (∀ pas, s.windowRange vf off len false = some pas → NoSpill s (pas.map Place.phys) →
      ((∀ pa ∈ pas, isRemote pa = true → look s.copies pa ≠ none) → ∃ s', exec (.hostWindowRead vf off len) s = .next s' ∧
        s'.answer = some (pas.map (fun pa => readMem s.mem pa)) ∧ { s' with answer := s.answer } = s) ∧
      ((∃ pa ∈ pas, isRemote pa = true ∧ look s.copies pa = none) → ∃ s', exec (.hostWindowRead vf off len) s = .next s' ∧ s.sameMemory s')) ∧
    (s.windowRange vf off len false = none → ∃ s', exec (.hostWindowRead vf off len) s = .next s' ∧ s'.answer = none ∧
      s'.reg 0 vf 12 = s.reg 0 vf 12 ||| 2 ∧ s.sameMemory s')) ∧
  (∀ (s : State) (vf off : Nat) (data : List Byte),
    (∀ pas, s.windowRange vf off data.length true = some pas → pas.Nodup → Orderly s →
      NoSpill (s.homeScatter pas data) (pas.map Place.phys) → NoChunk (s.homeScatter pas data) (pas.map Place.phys) → NoMisuse s (pas.map Place.phys) →
      ∃ s', exec (.hostWindowWrite vf off data) s = .next s' ∧
        (∀ i, i < data.length → readMem s'.mem (pas.getD i 0) = data.getD i 0) ∧ ∀ pa, pa ∉ pas → readMem s'.mem pa = readMem s.mem pa) ∧
    (s.windowRange vf off data.length true = none → ∃ s', exec (.hostWindowWrite vf off data) s = .next s' ∧
      s'.reg 0 vf 12 = s.reg 0 vf 12 ||| 2 ∧ s.sameMemory s')) ∧
  (∀ (s : State) (id : Nat) (q : Request) (data : List Byte), s.request? id = some q →
    (q.kind = .write ∨ (∃ c i r, q.kind = .chunk c i r) → ∃ s', exec (.remoteResponse id data) s = .next s' ∧
      s'.requests = dropFirst (fun x => decide (x = q)) s.requests ∧ s.sameMemory s') ∧
    (q.kind = .posted → exec (.remoteResponse id data) s = .next s) ∧
    (q.kind = .read → data.length ≠ q.len → exec (.remoteResponse id data) s = .next s) ∧
    (q.kind = .read → data.length = q.len → q.outdated = true → ∃ s', exec (.remoteResponse id data) s = .next s' ∧
      s'.requests = dropFirst (fun x => decide (x = q)) s.requests ∧ s.sameMemory s') ∧
    (q.kind = .read → data.length = q.len → q.outdated = false → Orderly s →
      (∀ i, i < q.len → look s.copies (q.pa + i) = none ∧ (s.endRequest q).inFlight (q.pa + i) = false) →
      ∃ s', exec (.remoteResponse id data) s = .next s' ∧ s'.requests = dropFirst (fun x => decide (x = q)) s.requests ∧
        (∀ i, i < q.len → readMem s'.mem (q.pa + i) = data.getD i 0 ∧ look s'.copies (q.pa + i) = some false) ∧
        ∀ x, Apart x 1 q.pa q.len → readMem s'.mem x = readMem s.mem x)) ∧
  (∀ (s : State) (id : Nat) (q : Request) (th : Thread) (n : Nat) (a : Access), s.request? id = some q →
    (q.region = 2 ∨ q.kind = .posted ∨ s.reqAge q < s.timeoutRange.1 → exec (.hostCompletionTimeout id) s = .next s) ∧
    (s.timeoutRange.1 ≤ s.reqAge q → q.kind = .read → q.region ≤ 1 → s.lane? q.who.core q.who.slot q.who.lane = some th → th.lane = q.who.lane →
      (s.core q.who.core).window = [] → th.accessOf q = some n → th.acc[n]? = some a → ∃ s', exec (.hostCompletionTimeout id) s = .next s' ∧
      s'.requests = dropFirst (fun x => decide (x = q)) s.requests ∧ s'.lane? q.who.core q.who.slot q.who.lane =
        some { (a.back.map th.withRegs).getD th with
          acc := th.acc.take n, pc := a.pc, endChk := false, wait := .thrown ⟨9, if q.region = 0 then 1 else 2, a.pc, s.cycles, a.step⟩ })) ∧
  (∀ (s : State) (peer pa op : Nat) (data : List Byte), Orderly s →
    let size := if op = 3 then data.length / 2 else data.length
    let pls := (List.range size).map (fun i => Place.phys (pa + i))
    let unguarded := fun (bs : List Byte) => NoSpill (s.homeWriteBytes none pa bs) pls ∧ NoChunk (s.homeWriteBytes none pa bs) pls
    (s.peerState peer = 1 → ∃ s', exec (.peerRequest peer pa op data) s = .next s' ∧ s'.answer = none ∧ s.sameMemory s') ∧
    (s.peerState peer ≠ 1 → isDevice pa = true → isDevice (pa + size - 1) = true → isCap size = true → size ≤ 256 → pa % size = 0 → NoSpill s pls →
      (op = 0 → ∃ s', exec (.peerRequest peer pa op data) s = .next s' ∧ s'.answer = some (s.homeBytes pa size) ∧ s.sameMemory s') ∧
      (op = 1 → NoMisuse s pls → unguarded data → ∃ s', exec (.peerRequest peer pa op data) s = .next s' ∧ s'.answer = some [] ∧ s'.homeBytes pa size = data ∧
        ∀ x, Apart x 1 pa size → readMem s'.mem x = readMem s.mem x) ∧
      (∀ m, 2 ≤ op → peerOps[op - 2]? = some m → size = 4 ∨ size = 8 ∧ m ≠ .addf → NoMisuse s pls → (∀ bs, bs.length = size → unguarded bs) →
        ∃ s', exec (.peerRequest peer pa op data) s = .next s' ∧ s'.answer = some (s.homeBytes pa size) ∧
          s'.homeNat pa size = (amo m (8 * size) (s.homeNat pa size) (leNat (data.take size)) (leNat (data.drop size))).getD (s.homeNat pa size) ∧
          ∀ x, Apart x 1 pa size → readMem s'.mem x = readMem s.mem x)))

/-- PEER_REQUEST_TIMEOUT (R380): not while the peer holds or before its limit; then the peer is fenced, the count up, and its requests are gone.
UNFENCE (R382): a fenced peer is as one that never was. HOLD_NOTICE (R383, R385): only of a peer of this make that is not fenced; the peer
holds, from its first notice; one that comes 2 ms after the last, when the hold is over, begins another. HOLD_QUIET_EXPIRE (R383): not before 2 ms after
the last notice. HOLD_LIMIT_EXPIRE (R383): not before 30 s; its notices are ignored from then on. HOLD_NOTICE_SEND (R384): to every peer present while a port retrains (log entry 58), once in a
millisecond. PORT_RETRAIN and _COMPLETE (R384): a port in retraining, from now; and no longer. -/
def Obligations.FencesAndHolds : Prop :=
  (∀ (s : State) (id : Nat) (q : Request), s.request? id = some q →
    (q.region ≠ 2 ∨ s.peerState q.peer = 2 ∨ s.reqAge q < (s.reg 3 q.peer 0).toNat * 10000 → exec (.peerRequestTimeout id) s = .next s) ∧
    (q.region = 2 → s.peerState q.peer ≠ 2 → (s.reg 3 q.peer 0).toNat * 10000 ≤ s.reqAge q → s.reg 3 q.peer 8 ≠ 0xFFFFFFFF#32 →
      ∃ s', exec (.peerRequestTimeout id) s = .next s' ∧ s'.peerState q.peer = 1 ∧ s'.reg 3 q.peer 8 = s.reg 3 q.peer 8 + 1 ∧
        (s.comms = [] → (∀ c, (s.core c).window = []) → (∀ x ∈ s.requests, x.region = 2 → x.peer = q.peer → x.kind = .read ∧ s.copyOf x = none) →
          s'.requests = s.requests.filter (fun x => !(x.region == 2 && x.peer == q.peer))))) ∧
  (∀ (s : State) (p : Nat), risingFrom 0 s.mon.regs = true →
    (s.peerState p ≠ 1 → exec (.unfence p) s = .next s) ∧
    (s.peerState p = 1 → ∃ s', exec (.unfence p) s = .next s' ∧ s'.peerState p = 0 ∧ s'.peerMake p = s.peerMake p)) ∧
  (∀ (s : State) (p : Nat),
    let current := ∀ h ∈ s.holds, s.clock.wall < h.last + 2000000 ∧ (h.ignoring = true ∨ s.clock.wall < h.began + 30000000000)
    (current → s.peerMake p ≠ 1 ∨ s.peerState p = 1 → exec (.holdNotice p) s = .next s) ∧
    (current → s.peerMake p = 1 → s.peerState p ≠ 1 → s.hold? p = none → ∃ s', exec (.holdNotice p) s = .next s' ∧ s'.peerState p = 2 ∧
      s'.hold? p = some ⟨p, s.clock.wall, s.clock.wall, false⟩) ∧
    (∀ h, current → s.peerMake p = 1 → s.peerState p ≠ 1 → s.hold? p = some h →
      ∃ s', exec (.holdNotice p) s = .next s' ∧ s'.hold? p = some { h with last := s.clock.wall } ∧ s'.mon = s.mon) ∧
    (∀ h, s.holds = [h] → h.peer = p → h.last + 2000000 ≤ s.clock.wall → s.peerMake p = 1 → s.peerState p = 2 → risingFrom 0 s.mon.regs = true →
      ∃ s', exec (.holdNotice p) s = .next s' ∧ s'.peerState p = 2 ∧ s'.hold? p = some ⟨p, s.clock.wall, s.clock.wall, false⟩)) ∧
  (∀ (s : State) (p : Nat) (h : PeerHold), s.hold? p = some h → risingFrom 0 s.mon.regs = true →
    (s.clock.wall < h.last + 2000000 → exec (.holdQuietExpire p) s = .next s) ∧
    (h.last + 2000000 ≤ s.clock.wall → ∃ s', exec (.holdQuietExpire p) s = .next s' ∧ s'.hold? p = none ∧
      s'.peerState p = (if s.peerState p = 2 then 0 else s.peerState p)) ∧
    (h.ignoring = true ∨ s.clock.wall < h.began + 30000000000 → exec (.holdLimitExpire p) s = .next s) ∧
    (h.ignoring = false → h.began + 30000000000 ≤ s.clock.wall → ∃ s', exec (.holdLimitExpire p) s = .next s' ∧
      s'.peerState p = (if s.peerState p = 2 then 0 else s.peerState p) ∧
      s'.hold? p = some { h with ignoring := true })) ∧
  (∀ (s : State), ∃ s', exec .holdNoticeSend s = .next s' ∧ { s' with noticed := s.noticed } = s ∧
    ∀ p < 1024, s.retraining ≠ [] → s.peerMake p ≠ 0 →
      (∀ a, look s.noticed p = some a → s.clock.wall < a + 1000000 → look s'.noticed p = some a) ∧
      ((∀ a, look s.noticed p = some a → a + 1000000 ≤ s.clock.wall) → look s'.noticed p = some s.clock.wall)) ∧
  (∀ (s : State) (n : Nat),
    (16 ≤ n ∨ look s.retraining n ≠ none → exec (.portRetrain n) s = .next s) ∧
    (n < 16 → look s.retraining n = none → ∃ s', exec (.portRetrain n) s = .next s' ∧ look s'.retraining n = some s.clock.wall ∧
      { s' with retraining := s.retraining } = s) ∧
    (risingFrom 0 s.retraining = true → ∃ s', exec (.portRetrainComplete n) s = .next s' ∧ look s'.retraining n = none ∧
      { s' with retraining := s.retraining } = s))

/-- PORT_TRANSFER_COMPLETE, TIME_INPUT_LOCK, TIME_INPUT_LOSS (R386, R387): the data is in memory, or has been read from it, and the entry after it,
where that is no allowance entry in force nor an edge in use (R220, R316); or a fault record is written, where the ring has a slot, and nothing happens before; a count behind the input steps forward to it, one ahead of it
stays. The bytes of an error entry are free values (log entry 59); the count without an input is kept to the half nanosecond (log entry 61). -/
def Obligations.PortsAndTime : Prop :=
  (∀ (s : State) (vf port va cva pa q : Nat) (data entry : List Byte), port ≤ 2 →
    (s.portFault vf va data.length true = none → s.portFault vf cva entry.length true = none → Orderly s → NoAreas s →
      Mapped s vf va data.length pa →
      (∀ m, (∀ x, Apart x 1 pa data.length → readMem m x = readMem s.mem x) → Mapped { s with mem := m } vf cva entry.length q) →
      NoMisuse s ((List.range data.length).map (fun i => .phys (pa + i))) →
      (∀ m, (∀ x, Apart x 1 pa data.length → readMem m x = readMem s.mem x) →
        NoMisuse { s with mem := m } ((List.range entry.length).map (fun i => .phys (q + i)))) →
      Apart pa data.length q entry.length → ∃ s', exec (.portTransferComplete vf port va data cva entry) s = .next s' ∧
        s'.homeBytes pa data.length = data ∧ s'.homeBytes q entry.length = entry ∧
        ∀ x, Apart x 1 pa data.length → Apart x 1 q entry.length → readMem s'.mem x = readMem s.mem x) ∧
    (s.portFault vf va data.length false = none → s.portFault vf cva entry.length true = none → Orderly s → NoAreas s →
      Mapped s vf va data.length pa → Mapped s vf cva entry.length q → NoMisuse s ((List.range entry.length).map (fun i => .phys (q + i))) →
      ∃ s', exec (.portTransferComplete vf (port + 3) va data cva entry) s = .next s' ∧
        s'.answer = some (s.homeBytes pa data.length) ∧ s'.homeBytes q entry.length = entry ∧
        ∀ x, Apart x 1 q entry.length → readMem s'.mem x = readMem s.mem x) ∧
    (∀ write : Bool, let way := if write = true then port else port + 3
      s.portFault vf va data.length write ≠ none ∨ s.portFault vf cva entry.length true ≠ none →
      (s.ringFull vf = true → exec (.portTransferComplete vf way va data cva entry) s = .next s) ∧
      (s.ringFull vf = false →
        ∃ s', exec (.portTransferComplete vf way va data cva entry) s = .next s' ∧ s'.faultHead vf = s.faultHead vf + 1))) ∧
  (∀ (s : State) (n : Nat), ∃ s', exec (.timeInputLock n) s = .next s' ∧ s'.clock.now = max s.clock.now n ∧ s'.clock.lock = true ∧
    s'.clock.ever = true ∧ s'.clock.hold = false ∧ s'.clock.losses = s.clock.losses ∧ s'.clock.wall = s.clock.wall ∧
    s'.clock.input = n ∧ (n ≤ s.clock.now → { s' with clock := s.clock } = s)) ∧
  (∀ (s : State), (s.clock.lock = false → exec .timeInputLoss s = .next s) ∧
    (s.clock.lock = true → ∃ s', exec .timeInputLoss s = .next s' ∧ s'.clock.lock = false ∧ s'.clock.hold = true ∧
      s'.clock.losses = (s.clock.losses + 1) % 2 ^ 16 ∧ s'.clock.now = s.clock.now ∧ { s' with clock := s.clock } = s))

/-! ## Reliability and the monitor -/

/-- BASTING_INTERVAL_TIMEOUT (R393): not before 2 ms of an interval; then the gang is to stop and be basted, and its launch is
no longer placed on the partitions it runs on (R341). UNCORRECTABLE_ERROR and
ROLLBACK_REQUEST (R394, R395): the gang rolls back, with the line of device memory that was hit. GANG_WATCHDOG (R401): a report once no live
thread has issued for the limit, and not while it is off, paused or has reported. CORRECTABLE_ERROR (R397, R398): a record in the health
ring, or, with the events of the interval at the threshold, a lasting fault. ARRAY_ROW_TEST and KROW_RETIRE (R399, R400): rows that fail the
test are lasting faults (log entry 44); a row is retired with a spare, or, without one, the core is marked and its gangs are to stop.
CORE_POWER_GATE and _UNGATE (R227): the core's clock stands still while it is gated, which may be at any time (log entry 60). When a gang is
relaunched is log entry 41. -/
def Obligations.Reliability : Prop :=
  (∀ (s : State) (k : Nat) (g : Gang), s.gang? k = some g → g.id = k →
    (g.stop = true ∨ g.rolling = true ∨ s.clock.wall < g.openedAt + 2000000 → exec (.bastingIntervalTimeout k) s = .next s) ∧
    (g.stop = false → g.rolling = false → g.openedAt + 2000000 ≤ s.clock.wall → ∃ s', exec (.bastingIntervalTimeout k) s = .next s' ∧
      s'.gang? k = some { g with baste := true, stop := true, stopAt := s.clock.wall } ∧
      ∀ x, s.launch? g.launch = some x → ∃ h, s'.launch? g.launch = some { x with held := h } ∧ ∀ p, p ∈ h ↔ p ∈ x.held ∨ p ∈ s.gangParts k) ∧
    (∀ unit pa, ∃ s' g', exec (.uncorrectableError k unit pa) s = .next s' ∧ s'.gang? k = some g' ∧ g'.rolling = true ∧
      (isDevice pa = true → unit / 2 ^ 28 = 5 ∨ unit / 2 ^ 28 = 6 → g'.hit = some (pa / 64 * 64))) ∧
    (∃ s', exec (.rollbackRequest k) s = .next s' ∧ s'.gang? k = some { g with rolling := true } ∧ s.sameMemory s') ∧
    (let limit := (s.reg 1 0 0x1000C).toNat * 1000000
      let ts := (s.waves.filter (s.inGang k)).flatMap (fun w => w.lanes.filter (fun t => t.live))
      (limit = 0 ∨ g.reported = true ∨ s.watchPaused g = true ∨ (∃ t ∈ ts, s.clock.wall < t.lastIssue + limit) →
        exec (.gangWatchdog k) s = .next s) ∧
      (limit ≠ 0 → g.reported = false → s.watchPaused g = false → ts ≠ [] → (∀ t ∈ ts, t.lastIssue + limit ≤ s.clock.wall) →
        ∃ s', exec (.gangWatchdog k) s = .next s' ∧ s'.gang? k = some { g with reported := true }))) ∧
  (∀ (s : State) (unit pa fn : Nat), Orderly s → (s.reg 1 0 0x10000).getLsbD 0 = true →
    let cap := (s.reg 1 0 0x10018).toNat
    let head := s.reg 1 0 0x1001C
    let at_ := s.reg64 1 0 0x10010 + 32 * (head.toNat % cap)
    let since := s.clock.wall - (s.reg 1 0 0x10008).toNat * 1000000000
    let n := 1 + (s.mon.events.filter (fun e => e.1 == unit && decide (since ≤ e.2))).length
    (head - s.reg 1 0 0x10020).toNat ≠ cap → head ≠ 0xFFFFFFFF#32 → unit ∉ s.mon.lasting →
      ∃ s', exec (.correctableError unit pa fn) s = .next s' ∧
        ((s.reg 1 0 0x10004).toNat ≤ n → unit ∈ s'.mon.lasting) ∧
        (n < (s.reg 1 0 0x10004).toNat → unit ∉ s'.mon.lasting ∧ (unit, s.clock.wall) ∈ s'.mon.events ∧
          s'.reg 1 0 0x1001C = head + 1 ∧ s'.homeNat at_ 8 = s.clock.now % 2 ^ 64 ∧ s'.homeNat (at_ + 8) 1 = 1 ∧
          s'.homeNat (at_ + 9) 1 = fn % 2 ^ 8 ∧ s'.homeNat (at_ + 12) 4 = unit % 2 ^ 32 ∧ s'.homeNat (at_ + 16) 8 = pa / 64 * 64 % 2 ^ 64)) ∧
  (∀ (s : State) (c : Nat) (bad : List Nat), c < 192 →
    ((s.core c).array ≠ none ∨ 0xFF ∉ (s.core c).rowsDue → exec (.arrayRowTest c bad) s = .next s) ∧
    ((s.core c).array = none → 0xFF ∈ (s.core c).rowsDue → ∃ s', exec (.arrayRowTest c bad) s = .next s' ∧ 0xFF ∉ (s'.core c).rowsDue ∧
      ∀ r ∈ bad, r < 128 → unitOf 1 c r ∈ s'.mon.lasting)) ∧
  (∀ (s : State) (c row : Nat), c < 192 → row ≠ 0xFF → (s.reg 1 0 0x10000).getLsbD 1 = true → (s.core c).array = none →
    row ∈ (s.core c).rowsDue → risingFrom 0 s.mon.regs = true →
    let v := s.reg 1 0 (arrayOff c)
    ∃ s', exec (.krowRetire c row) s = .next s' ∧ row ∉ (s'.core c).rowsDue ∧
      (v.toNat % 16 ≠ 0 → s'.reg 1 0 (arrayOff c) = v - 1 + 0x100) ∧
      (v.toNat % 16 = 0 → (s'.reg 1 0 (arrayOff c)).getLsbD 16 = true ∧
        ∀ k g, k ∈ s.gangsOn c → s.gang? k = some g → g.id = k → ∃ g', s'.gang? k = some g' ∧ g'.stop = true)) ∧
  (∀ (s : State) (c : Nat),
    ((s.core c).powered = true → ∃ s', exec (.corePowerGate c) s = .next s' ∧ (s'.core c).powered = false ∧ s'.clockOf c = s.clockOf c) ∧
    ((s.core c).powered = false → exec (.corePowerGate c) s = .next s) ∧
    ((s.core c).powered = false → (s.core c).gatedAt ≤ s.cycles → ∃ s', exec (.corePowerUngate c) s = .next s' ∧
      (s'.core c).powered = true ∧ s'.clockOf c = s.clockOf c) ∧
    ((s.core c).powered = true → exec (.corePowerUngate c) s = .next s))

/-- GAUGE_CLEAR, LINK_RETRY_INTERVAL_END, SAMPLER_SAMPLE, REGISTER_WRITE (R5, R372, R397, R403 to R411): a gauge at its reset values; a retry
interval counted by each gauge that takes it; the one record that a panel has taken and not written, in its ring, and none left; as a cycle ends in which
a panel samples, the record of its one wave, which has issued, and the marks of the cycle after it, with the next sample PERIOD cycles later; the bits of a
register that a write sets and those that a written 1 clears. That register maps act by the access codes of R5 is log entry 54; that a sample is taken as
its cycle ends and written later, and the record of waves that did not issue or are lined, log entry 52. -/
def Obligations.MonitorRegisters : Prop :=
  (∀ (s : State) (n : Nat), n < 64 → risingFrom 0 s.mon.regs = true → ∃ s', exec (.gaugeClear n) s = .next s' ∧
    s'.reg 1 0 (gaugeOff n + 0xC) = 0xFFFFFFFF#32 ∧ s'.reg 1 0 (gaugeOff n + 0x10) = 0 ∧ s'.reg 1 0 (gaugeOff n + 0x14) = 0 ∧
    s'.reg 1 0 (gaugeOff n + 0x18) = 0 ∧ (∀ i < 32, s'.reg 1 0 (gaugeOff n + 0x20 + 4 * i) = 0) ∧
    s'.reg 1 0 (gaugeOff n) = s.reg 1 0 (gaugeOff n) ∧ { s' with mon := s.mon } = s) ∧
  (∀ (s : State) (port retries n : Nat), port < 16 → n < 64 → s.gaugeTakes n 7 port none = true → (s.reg 1 0 (gaugeOff n)).getLsbD 1 = false →
    ∃ s', exec (.linkRetryIntervalEnd port retries) s = .next s' ∧
      s'.reg 1 0 (gaugeOff n + 0x14) = satInc (s.reg 1 0 (gaugeOff n + 0x14)) ∧ { s' with mon := s.mon } = s) ∧
  (∀ (s : State) (c pn : Nat) (r : SampleRec), Orderly s → (s.core c).unwritten.filter (fun x => x.panel == pn) = [r] →
    let o := samplerOff c pn
    let cap := (s.reg 1 0 (o + 0x10)).toNat
    let head := s.reg 1 0 (o + 0x14)
    let at_ := s.reg64 1 0 (o + 8) + 16 * (head.toNat % cap)
    (head - s.reg 1 0 (o + 0x18)).toNat ≠ cap → head ≠ 0xFFFFFFFF#32 → ∃ s', exec (.samplerSample c pn) s = .next s' ∧
      s'.reg 1 0 (o + 0x14) = head + 1 ∧ (s'.core c).unwritten = (s.core c).unwritten.filter (fun x => x.panel != pn) ∧
      s'.homeNat at_ 8 = r.pc.toNat ∧ s'.homeNat (at_ + 8) 4 = r.stamp.toNat ∧ s'.homeNat (at_ + 12) 1 = r.slot % 2 ^ 8 ∧
      s'.homeNat (at_ + 13) 1 = r.st % 2 ^ 8 ∧ s'.homeNat (at_ + 14) 1 = r.reason % 2 ^ 8 ∧ s'.homeNat (at_ + 15) 1 = r.func % 2 ^ 8) ∧
  (∀ (s : State) (c pn : Nat) (x : Seen) (w : Wave) (e : Issued), let now := s.clockOf c
    (s.core c).sampleAt = [(pn, now)] → (s.reg 1 0 (samplerOff c pn)).getLsbD 0 = true → s.samples c pn x.vf = true →
    (s.core c).roster.filter (fun y => y.slot / 32 == pn) = [x] → x.slot = x.wave → s.wave? c x.wave = some w → w.blk = x.blk → w.lining = none →
    look (s.core c).issued x.wave = some e → e.clk = now →
    let after := (s.endCycles c (now + 1)).core c
    after.unwritten = (s.core c).unwritten ++ [⟨pn, e.pc, BitVec.ofNat 32 now, x.byte, 0, 0, x.vf⟩] ++ (s.core c).marks ∧ after.marks = [] ∧
      after.sampleAt = [(pn, now + max 1 (s.reg 1 0 (samplerOff c pn + 4)).toNat)]) ∧
  (∀ (s : State) (v : Word), risingFrom 0 s.mon.regs = true →
    (∃ s', exec (.registerWrite 1 0 0x10000 v) s = .next s' ∧ s'.reg 1 0 0x10000 = (s.reg 1 0 0x10000 &&& ~~~3#32) ||| (v &&& 3#32) ∧
      { s' with mon := s.mon } = s) ∧
    (∀ off ∈ [0x10004, 0x10008, 0x1000C, 0x10010, 0x10014, 0x10018, 0x10020], ∃ s', exec (.registerWrite 1 0 off v) s = .next s' ∧
      s'.reg 1 0 off = v ∧ { s' with mon := s.mon } = s) ∧
    (∀ vf < 256, ∃ s', exec (.registerWrite 0 vf 12 v) s = .next s' ∧
      s'.reg 0 vf 12 = s.reg 0 vf 12 &&& ~~~(v &&& 2#32) ∧ { s' with mon := s.mon } = s) ∧
    (∀ p < 1024, ∃ s', exec (.registerWrite 3 p 12 1#32) s = .next s' ∧ s'.peerState p = (if s.peerState p = 1 then 0 else s.peerState p)))

/-! ## Rounding -/

/-- FADD, FMUL and FFMA (R105) of finite operands, with no flag enabled in $ftrap: the lane's destination takes the exact sum, product, or product plus
addend, an integer count of 2^-298, rounded once in the mode of $frnd, and $fflags the flags of that rounding (R64, R71 to R73, R76). Nothing here is
computed by the model's own functions on numbers. -/
def Obligations.FloatRounding : Prop :=
  ∀ (s : State) (w : Wave) (th : Thread) (d a b : Reg) (t : Bool), s.OnPath w th → w.regs.ftrap? s = 0 → s.regsOk [d.toNat, a.toNat, b.toNat] →
    let x := th.g? s a.toNat
    let y := th.g? s b.toNat
    let z := th.g? s d.toNat
    finite x → finite y →
    let gives := fun (i : Instr) (exact : Int) => ∃ s' r fl v, exec i s = .next s' ∧
      Rounded (RMode.ofBits ((w.regs.frnd? s).setWidth 2)) exact r ∧ RoundedFlags exact r fl ∧ (1024 + 0x072 ∉ th.marks → v = th.fflags ||| fl) ∧
      s'.lane? w.core w.slot th.lane = some (((th.withFflags v fl).setG s d.toNat r).after s.cur.len t)
    gives (.fadd d a b t) (2 ^ 149 * (units x + units y)) ∧ gives (.fmul d a b t) (units x * units y) ∧
      (finite z → gives (.ffma d a b t) (2 ^ 149 * units z + units x * units y))

/-! ## Reset, decoding, the step -/

/-- Reset meets the invariants: memory is in its canonical form, and the rest of the state in its order. What reset leaves in the register maps, by the tables of R326, R372, R379, R387, R397, R403 and R407; and no launch, wave or memory. That
the maps of the functions hold 0, that nothing is launched and that memory lists nothing is the model's choice (log entries 2, 7 and 29). -/
def Obligations.ResetState : Prop :=
  let s := State.reset
  s.Inv ∧ s.Ordered ∧
  s.reg 1 0 0x10000 = 3 ∧ s.reg 1 0 0x10004 = 3 ∧ s.reg 1 0 0x10008 = 600 ∧ s.reg 1 0 0x1000C = 0 ∧ (∀ c < 192, s.reg 1 0 (arrayOff c) = 8) ∧
  (∀ n < 64, s.reg 1 0 (gaugeOff n) = 0 ∧ s.reg 1 0 (gaugeOff n + 0xC) = 0xFFFFFFFF#32 ∧ s.reg 1 0 (gaugeOff n + 0x10) = 0) ∧
  (∀ c < 192, ∀ p < 4, s.reg 1 0 (samplerOff c p) = 0 ∧ s.reg 1 0 (samplerOff c p + 4) = 1024) ∧
  (∀ p < 1024, s.reg 3 p 0 = 100 ∧ s.peerMake p = 0 ∧ s.peerState p = 0) ∧ (∀ vf < 256, ∀ off, s.reg 2 vf off = 0 ∧ s.reg 0 vf off = 0) ∧
  s.regValue 1 0 0x40000 = 0 ∧ s.clock.now = 0 ∧ s.mon.bootStage = 0 ∧ s.waves = [] ∧ s.launches = [] ∧ s.mem = []

/-- Words written out from R43, R44, R53 and R54, and the worked cases of R61 and R37: what they decode to, and that a non-zero unused field
and a reserved scope are refused. -/
def Obligations.DecodeWords : Prop :=
  decodeTableWord 32 (3 * 2 ^ 22 + 2 * 2 ^ 15 + 1 * 2 ^ 8 + 0x01 * 4 + 1) = some (.add 1 2 3 false) ∧
  decodeTableWord 32 (5 * 2 ^ 29 + 9 * 2 ^ 22 + 8 * 2 ^ 15 + 7 * 2 ^ 8 + 0x01 * 4 + 3) = some (.andn 7 8 9 true) ∧
  decodeTableWord 32 (0x3FF * 2 ^ 22 + 5 * 2 ^ 15 + 4 * 2 ^ 8 + 0x08 * 4 + 1) = some (.addi 4 5 0x3FF false) ∧
  decodeTableWord 32 (0x1FFFF * 2 ^ 15 + 6 * 2 ^ 8 + 0x0E * 4 + 1) = some (.li 6 0x1FFFF false) ∧
  decodeTableWord 32 (0x80000 * 2 ^ 12 + 1 * 2 ^ 11 + 2 * 2 ^ 8 + 0x20 * 4 + 1) = some (.bra 0x80000 2 true false) ∧
  decodeTableWord 32 (3 * 2 ^ 27 + 2 * 2 ^ 22 + 10 * 2 ^ 15 + 12 * 2 ^ 8 + 0x2F * 4 + 1) = some (.cas 12 10 false 0 2 false) ∧
  decodeTableWord 32 0x000200C1 = some (.pub 4 false) ∧ decodeTableWord 32 0x000183C1 = none ∧ decodeTableWord 32 0x000380C1 = none ∧
  decodeTableWord 16 (2 * 2 ^ 11 + 1 * 2 ^ 5 + 1 * 2) = some (.cAdd 1 2) ∧ decodeTableWord 16 (0x1F * 2 ^ 11 + 3 * 2 ^ 5 + 15 * 2) = some (.li5 3 0x1F) ∧
  decodeTableWord 16 0 = some .ill16 ∧ decodeTableWord 32 (0x37 * 4 + 1) = none ∧ decodeTableWord 32 (7 * 2 ^ 29 + 0x03 * 4 + 1) = none

/-- DECODE AND ENCODE AGREE: the bytes of every well-formed instruction that has an encoding decode to it, with what follows them left. -/
def Obligations.DecodeEncode : Prop :=
  ∀ (i : Instr) (bs rest : List Byte), i.WellFormed → encode i = some bs → decode (bs ++ rest) = .ok (i, rest)

/-- Every word has one meaning: bytes that decode to an instruction other than a 32-bit ILL, whose other bits are ignored, decode to a
well-formed one and are its encoding. -/
def Obligations.EncodeDecode : Prop :=
  ∀ (i : Instr) (bs rest : List Byte), decode bs = .ok (i, rest) → i ≠ .ill32 → i.WellFormed ∧ ∃ e, encode i = some e ∧ bs = e ++ rest

/-- A STEP RUNS THE DECODED INSTRUCTION: where a path is the next to issue, every lane of it ready, in a wave that is not lined, and the bytes
at its program counter can be fetched on the package and decode to an instruction, the step is that instruction's execution on the path, then what
its issue leaves behind (R263, R307, R401, R404, R409), and after it what is due at the step's end; bytes that decode to none are executed as
RESERVED_OR_ILLEGAL_WORD. One that acts beyond its thread waits while an earlier access of the path may yet throw (R40, log entry 75). That the second
path of an issue is the next step is a part of the model's schedule (log entry 1). -/
def Obligations.StepRunsDecoded : Prop :=
  ∀ (s : State) (x : Issue) (w : Wave) (bs : List Byte) (b0 b1 : Byte), s.second = some x → s.wave? x.core x.slot = some w → x.lanes ≠ [] →
    (w.lanes.filter (fun t => x.lanes.elem t.lane)).map (fun t => t.lane) = x.lanes →
    (∀ t ∈ w.lanes, t.lane ∈ x.lanes → t.pc = x.pc ∧ t.live = true ∧ t.wait = .no ∧ t.endChk = false) → w.lining = none →
    let s0 : State := { s with free := s.free + 1, cur := x, second := none }
    let s1 : State := { s0 with cur := { x with len := bs.length } }
    let clear := ∀ t ∈ w.lanes, t.lane ∈ x.lanes → ∀ a ∈ t.acc, a.back = none
    s0.fetchBytes x.core w.blk x.pc = (.ok b0 b1, bs) → s0.fetchFar x.core w.blk x.pc (codeLength bs) = none →
    s0.fetchPoison w.blk x.pc bs.length = none →
    let after := fun (r : Res) => match s1.counted w r with
      | .next t => .next t.settleAll
      | r => r
    (∀ i rest, decode bs = .ok (i, rest) →
      (outward i = false ∨ clear → step s = after (exec i s1)) ∧ (outward i = true → ¬clear → step s = after (.next (s1.holdAll .drain)))) ∧
    (∀ e, decode bs = .error e → step s = after (exec .reservedOrIllegalWord s1))

/-- EVERY STEP KEEPS memory in its canonical form. -/
def Obligations.StepKeepsMemory : Prop := ∀ (s s' : State), s.Inv → step s = .next s' → s'.Inv

/-- EVERY STEP KEEPS the order of the rest of the state: the places of writes, the keyed lists, the lanes, the scratchpads. -/
def Obligations.StepKeepsOrder : Prop := ∀ (s s' : State), s.Ordered → step s = .next s' → s'.Ordered

/-- The register instructions, the transfers, and the throws and traps change nothing but the lanes of the path, the two registers of the wave
that an exception or a returned SWR result changes, and, by an exception, the core's window; the memory instructions, besides, the faults
recorded in the core, a store or an atomic where the wave's comparators agree (R389), an LDC of a wave that is not lined where nothing is poisoned and no mapped
tile keeps a spill area; the cross-lane instructions, the lanes that wait at one: every register, flag and special register of every other lane,
and every byte of memory, stays. One that names a register outside the declared count raises ILLOP in every lane (R18). -/
def Obligations.RegisterFrame : Prop :=
  (∀ (i : Instr) (rs : List Nat), Plain i rs → ∀ (s : State) (w : Wave), s.curWave = some w →
    ∃ s', exec i s = .next s' ∧ s.OnlyLanes s' w s.cur.lanes ∧
      (∀ th, s.OnPath w th → ¬s.regsOk rs → s'.lane? w.core w.slot th.lane = some (Thread.trap s w.regs th cILLOP th.pc))) ∧
  (∀ (i : Instr) (rs : List Nat) (only : State → Wave → Prop), Accesses i rs only → ∀ (s : State) (w : Wave), s.curWave = some w → only s w →
    ∃ s', exec i s = .next s' ∧ s.OnlyIssues s' w (fun l => l ∈ s.cur.lanes) ∧
      (∀ th, s.OnPath w th → ¬s.regsOk rs → s'.lane? w.core w.slot th.lane = some (Thread.trap s w.regs th cILLOP th.pc))) ∧
  (∀ (i : Instr) (rs : List Nat) (m : BitVec 3) (t : Bool) (A K : State → Thread → Word) (f : RMode → List Brought → Nat → Word → Word → XResult × Word),
    Cross i rs m t A K f → ∀ (s : State) (w : Wave), s.curWave = some w →
    ∃ s', exec i s = .next s' ∧
      s.OnlyIssues s' w (fun l => l ∈ s.cur.lanes ∨ ∃ u x n a k b, w.lane? l = some u ∧ u.wait = .cross x n a k b) ∧
      (∀ th, s.OnPath w th → ¬s.regsOk rs → s'.lane? w.core w.slot th.lane = some (Thread.trap s w.regs th cILLOP th.pc)))
end

