-- ==== Sys2Proof/Laws/Encode.lean ====
section
/-! SUPPORT. The fields of the words that the encoder packs, and the bytes of a word as the decoder reads them. -/

namespace Sys2Proof

theorem packW_toNat (body maj : Nat) (t : Bool) (hb : body < 2 ^ 24) (hm : maj < 64) :
    (packW body maj t).toNat = body * 256 + maj * 4 + bitNat t * 2 + 1 := by
  have ht : bitNat t ≤ 1 := by cases t <;> decide
  rw [packW, BitVec.toNat_ofNat, Nat.mod_eq_of_lt]
  omega

/-- A field above the major. -/
theorem bits_packW (body maj : Nat) (t : Bool) (lo len : Nat) (hb : body < 2 ^ 24) (hm : maj < 64) (hl : 8 ≤ lo) :
    bits (packW body maj t) lo len = BitVec.ofNat len (body / 2 ^ (lo - 8)) := by
  apply BitVec.eq_of_toNat_eq
  have ht : bitNat t ≤ 1 := by cases t <;> decide
  obtain ⟨k, rfl⟩ := Nat.exists_eq_add_of_le hl
  rw [bits, BitVec.extractLsb'_toNat, BitVec.toNat_ofNat, packW_toNat body maj t hb hm, Nat.shiftRight_eq_div_pow, Nat.pow_add, ← Nat.div_div_eq_div_mul]
  have h : (body * 256 + maj * 4 + bitNat t * 2 + 1) / 2 ^ 8 = body := by omega
  rw [h]
  simp

theorem fMaj_packW (body maj : Nat) (t : Bool) (hb : body < 2 ^ 24) (hm : maj < 64) : (fMaj (packW body maj t)).toNat = maj := by
  have ht : bitNat t ≤ 1 := by cases t <;> decide
  rw [fMaj, bits, BitVec.extractLsb'_toNat, packW_toNat body maj t hb hm, Nat.shiftRight_eq_div_pow]
  omega

theorem fT_packW (body maj : Nat) (t : Bool) (hb : body < 2 ^ 24) (hm : maj < 64) : fT (packW body maj t) = t := by
  rw [fT, flag, BitVec.getLsbD, packW_toNat body maj t hb hm, Nat.testBit, Nat.shiftRight_eq_div_pow]
  cases t <;> simp [bitNat] <;> omega

theorem low_packW (body maj : Nat) (t : Bool) (hb : body < 2 ^ 24) (hm : maj < 64) : (packW body maj t).getLsbD 0 = true := by
  rw [BitVec.getLsbD, packW_toNat body maj t hb hm, Nat.testBit]
  simp
  omega

/-! ## Bytes -/

theorem ofBytes_toBytes_word (w : Word) :
    ofBytes 32 [w.setWidth 8, (w >>> 8).setWidth 8, (w >>> 8 >>> 8).setWidth 8, (w >>> 8 >>> 8 >>> 8).setWidth 8] = w := by
  apply BitVec.eq_of_getLsbD_eq
  intro i hi
  simp only [ofBytes, BitVec.getLsbD_or, BitVec.getLsbD_setWidth, BitVec.getLsbD_shiftLeft, BitVec.getLsbD_ushiftRight]
  interval_cases i <;> simp

theorem ofBytes_toBytes_half (h : Half) : ofBytes 16 [h.setWidth 8, (h >>> 8).setWidth 8] = h := by
  apply BitVec.eq_of_getLsbD_eq
  intro i hi
  simp only [ofBytes, BitVec.getLsbD_or, BitVec.getLsbD_setWidth, BitVec.getLsbD_shiftLeft, BitVec.getLsbD_ushiftRight]
  interval_cases i <;> simp

/-- The bytes of a word with bit 0 set decode as the word. -/
theorem decode_toBytes_word (w : Word) (rest : List Byte) (h : w.getLsbD 0 = true) :
    decode (toBytes 4 w ++ rest) = (match decodeWord w with
      | .ok i => .ok (i, rest)
      | .error r => .error r) := by
  have hb := ofBytes_toBytes_word w
  have hl : lengthOf (w.setWidth 8) = 4 := by simp only [lengthOf, BitVec.getLsbD_setWidth]; simp [h]
  simp only [toBytes, List.cons_append, List.nil_append, decode, hl, hb]
  cases hd : decodeWord w <;> simp

/-- The bytes of a halfword with bit 0 clear decode as the halfword. -/
theorem decode_toBytes_half (x : Half) (rest : List Byte) (h : x.getLsbD 0 = false) :
    decode (toBytes 2 x ++ rest) = .ok (decodeHalf x, rest) := by
  have hb := ofBytes_toBytes_half x
  have hl : lengthOf (x.setWidth 8) = 2 := by
    have h' : (x.setWidth 8).getLsbD 0 = false := by rw [BitVec.getLsbD_setWidth, h]; rfl
    rw [lengthOf, h']; rfl
  simp only [toBytes, List.cons_append, List.nil_append, decode, hl, hb]
  simp

end Sys2Proof
end

