-- ==== Sys2Proof/Laws/State.lean ====
section
/-! SUPPORT. What the named updates of the state leave alone: one lemma per field per update, true by rfl. -/

namespace Sys2Proof.Machine

variable (s : State)

@[simp] theorem State.onCore_waves (c : Nat) (f : Core → Core) : (s.onCore c f).waves = s.waves := rfl
@[simp] theorem State.onCore_blocks (c : Nat) (f : Core → Core) : (s.onCore c f).blocks = s.blocks := rfl
@[simp] theorem State.onCore_gangs (c : Nat) (f : Core → Core) : (s.onCore c f).gangs = s.gangs := rfl
@[simp] theorem State.onCore_launches (c : Nat) (f : Core → Core) : (s.onCore c f).launches = s.launches := rfl
@[simp] theorem State.onCore_bars (c : Nat) (f : Core → Core) : (s.onCore c f).bars = s.bars := rfl
@[simp] theorem State.onCore_mem (c : Nat) (f : Core → Core) : (s.onCore c f).mem = s.mem := rfl
@[simp] theorem State.onCore_stamps (c : Nat) (f : Core → Core) : (s.onCore c f).stamps = s.stamps := rfl
@[simp] theorem State.onCore_copies (c : Nat) (f : Core → Core) : (s.onCore c f).copies = s.copies := rfl
@[simp] theorem State.onCore_poisoned (c : Nat) (f : Core → Core) : (s.onCore c f).poisoned = s.poisoned := rfl
@[simp] theorem State.onCore_loose (c : Nat) (f : Core → Core) : (s.onCore c f).loose = s.loose := rfl
@[simp] theorem State.onCore_doomed (c : Nat) (f : Core → Core) : (s.onCore c f).doomed = s.doomed := rfl
@[simp] theorem State.onCore_owned (c : Nat) (f : Core → Core) : (s.onCore c f).owned = s.owned := rfl
@[simp] theorem State.onCore_moved (c : Nat) (f : Core → Core) : (s.onCore c f).moved = s.moved := rfl
@[simp] theorem State.onCore_visible (c : Nat) (f : Core → Core) : (s.onCore c f).visible = s.visible := rfl
@[simp] theorem State.onCore_tlb (c : Nat) (f : Core → Core) : (s.onCore c f).tlb = s.tlb := rfl
@[simp] theorem State.onCore_ended (c : Nat) (f : Core → Core) : (s.onCore c f).ended = s.ended := rfl
@[simp] theorem State.onCore_residents (c : Nat) (f : Core → Core) : (s.onCore c f).residents = s.residents := rfl
@[simp] theorem State.onCore_tags (c : Nat) (f : Core → Core) : (s.onCore c f).tags = s.tags := rfl
@[simp] theorem State.onCore_refills (c : Nat) (f : Core → Core) : (s.onCore c f).refills = s.refills := rfl
@[simp] theorem State.onCore_partitions (c : Nat) (f : Core → Core) : (s.onCore c f).partitions = s.partitions := rfl
@[simp] theorem State.onCore_invals (c : Nat) (f : Core → Core) : (s.onCore c f).invals = s.invals := rfl
@[simp] theorem State.onCore_requests (c : Nat) (f : Core → Core) : (s.onCore c f).requests = s.requests := rfl
@[simp] theorem State.onCore_holds (c : Nat) (f : Core → Core) : (s.onCore c f).holds = s.holds := rfl
@[simp] theorem State.onCore_retraining (c : Nat) (f : Core → Core) : (s.onCore c f).retraining = s.retraining := rfl
@[simp] theorem State.onCore_noticed (c : Nat) (f : Core → Core) : (s.onCore c f).noticed = s.noticed := rfl
@[simp] theorem State.onCore_answer (c : Nat) (f : Core → Core) : (s.onCore c f).answer = s.answer := rfl
@[simp] theorem State.onCore_comms (c : Nat) (f : Core → Core) : (s.onCore c f).comms = s.comms := rfl
@[simp] theorem State.onCore_early (c : Nat) (f : Core → Core) : (s.onCore c f).early = s.early := rfl
@[simp] theorem State.onCore_images (c : Nat) (f : Core → Core) : (s.onCore c f).images = s.images := rfl
@[simp] theorem State.onCore_restarts (c : Nat) (f : Core → Core) : (s.onCore c f).restarts = s.restarts := rfl
@[simp] theorem State.onCore_submits (c : Nat) (f : Core → Core) : (s.onCore c f).submits = s.submits := rfl
@[simp] theorem State.onCore_mon (c : Nat) (f : Core → Core) : (s.onCore c f).mon = s.mon := rfl
@[simp] theorem State.onCore_clock (c : Nat) (f : Core → Core) : (s.onCore c f).clock = s.clock := rfl
@[simp] theorem State.onCore_cycles (c : Nat) (f : Core → Core) : (s.onCore c f).cycles = s.cycles := rfl
@[simp] theorem State.onCore_agenda (c : Nat) (f : Core → Core) : (s.onCore c f).agenda = s.agenda := rfl
@[simp] theorem State.onCore_cur (c : Nat) (f : Core → Core) : (s.onCore c f).cur = s.cur := rfl
@[simp] theorem State.onCore_second (c : Nat) (f : Core → Core) : (s.onCore c f).second = s.second := rfl
@[simp] theorem State.onCore_free (c : Nat) (f : Core → Core) : (s.onCore c f).free = s.free := rfl
@[simp] theorem State.onCore_ids (c : Nat) (f : Core → Core) : (s.onCore c f).ids = s.ids := rfl
@[simp] theorem State.onCore_stamp (c : Nat) (f : Core → Core) : (s.onCore c f).stamp = s.stamp := rfl
@[simp] theorem State.onCore_inject (c : Nat) (f : Core → Core) : (s.onCore c f).inject = s.inject := rfl

@[simp] theorem State.onBlock_waves (b : Nat) (f : Block → Block) : (s.onBlock b f).waves = s.waves := rfl
@[simp] theorem State.onBlock_gangs (b : Nat) (f : Block → Block) : (s.onBlock b f).gangs = s.gangs := rfl
@[simp] theorem State.onBlock_launches (b : Nat) (f : Block → Block) : (s.onBlock b f).launches = s.launches := rfl
@[simp] theorem State.onBlock_cores (b : Nat) (f : Block → Block) : (s.onBlock b f).cores = s.cores := rfl
@[simp] theorem State.onBlock_bars (b : Nat) (f : Block → Block) : (s.onBlock b f).bars = s.bars := rfl
@[simp] theorem State.onBlock_mem (b : Nat) (f : Block → Block) : (s.onBlock b f).mem = s.mem := rfl
@[simp] theorem State.onBlock_stamps (b : Nat) (f : Block → Block) : (s.onBlock b f).stamps = s.stamps := rfl
@[simp] theorem State.onBlock_copies (b : Nat) (f : Block → Block) : (s.onBlock b f).copies = s.copies := rfl
@[simp] theorem State.onBlock_poisoned (b : Nat) (f : Block → Block) : (s.onBlock b f).poisoned = s.poisoned := rfl
@[simp] theorem State.onBlock_loose (b : Nat) (f : Block → Block) : (s.onBlock b f).loose = s.loose := rfl
@[simp] theorem State.onBlock_doomed (b : Nat) (f : Block → Block) : (s.onBlock b f).doomed = s.doomed := rfl
@[simp] theorem State.onBlock_owned (b : Nat) (f : Block → Block) : (s.onBlock b f).owned = s.owned := rfl
@[simp] theorem State.onBlock_moved (b : Nat) (f : Block → Block) : (s.onBlock b f).moved = s.moved := rfl
@[simp] theorem State.onBlock_visible (b : Nat) (f : Block → Block) : (s.onBlock b f).visible = s.visible := rfl
@[simp] theorem State.onBlock_tlb (b : Nat) (f : Block → Block) : (s.onBlock b f).tlb = s.tlb := rfl
@[simp] theorem State.onBlock_ended (b : Nat) (f : Block → Block) : (s.onBlock b f).ended = s.ended := rfl
@[simp] theorem State.onBlock_residents (b : Nat) (f : Block → Block) : (s.onBlock b f).residents = s.residents := rfl
@[simp] theorem State.onBlock_tags (b : Nat) (f : Block → Block) : (s.onBlock b f).tags = s.tags := rfl
@[simp] theorem State.onBlock_refills (b : Nat) (f : Block → Block) : (s.onBlock b f).refills = s.refills := rfl
@[simp] theorem State.onBlock_partitions (b : Nat) (f : Block → Block) : (s.onBlock b f).partitions = s.partitions := rfl
@[simp] theorem State.onBlock_invals (b : Nat) (f : Block → Block) : (s.onBlock b f).invals = s.invals := rfl
@[simp] theorem State.onBlock_requests (b : Nat) (f : Block → Block) : (s.onBlock b f).requests = s.requests := rfl
@[simp] theorem State.onBlock_holds (b : Nat) (f : Block → Block) : (s.onBlock b f).holds = s.holds := rfl
@[simp] theorem State.onBlock_retraining (b : Nat) (f : Block → Block) : (s.onBlock b f).retraining = s.retraining := rfl
@[simp] theorem State.onBlock_noticed (b : Nat) (f : Block → Block) : (s.onBlock b f).noticed = s.noticed := rfl
@[simp] theorem State.onBlock_answer (b : Nat) (f : Block → Block) : (s.onBlock b f).answer = s.answer := rfl
@[simp] theorem State.onBlock_comms (b : Nat) (f : Block → Block) : (s.onBlock b f).comms = s.comms := rfl
@[simp] theorem State.onBlock_early (b : Nat) (f : Block → Block) : (s.onBlock b f).early = s.early := rfl
@[simp] theorem State.onBlock_images (b : Nat) (f : Block → Block) : (s.onBlock b f).images = s.images := rfl
@[simp] theorem State.onBlock_restarts (b : Nat) (f : Block → Block) : (s.onBlock b f).restarts = s.restarts := rfl
@[simp] theorem State.onBlock_submits (b : Nat) (f : Block → Block) : (s.onBlock b f).submits = s.submits := rfl
@[simp] theorem State.onBlock_mon (b : Nat) (f : Block → Block) : (s.onBlock b f).mon = s.mon := rfl
@[simp] theorem State.onBlock_clock (b : Nat) (f : Block → Block) : (s.onBlock b f).clock = s.clock := rfl
@[simp] theorem State.onBlock_cycles (b : Nat) (f : Block → Block) : (s.onBlock b f).cycles = s.cycles := rfl
@[simp] theorem State.onBlock_agenda (b : Nat) (f : Block → Block) : (s.onBlock b f).agenda = s.agenda := rfl
@[simp] theorem State.onBlock_cur (b : Nat) (f : Block → Block) : (s.onBlock b f).cur = s.cur := rfl
@[simp] theorem State.onBlock_second (b : Nat) (f : Block → Block) : (s.onBlock b f).second = s.second := rfl
@[simp] theorem State.onBlock_free (b : Nat) (f : Block → Block) : (s.onBlock b f).free = s.free := rfl
@[simp] theorem State.onBlock_ids (b : Nat) (f : Block → Block) : (s.onBlock b f).ids = s.ids := rfl
@[simp] theorem State.onBlock_stamp (b : Nat) (f : Block → Block) : (s.onBlock b f).stamp = s.stamp := rfl
@[simp] theorem State.onBlock_inject (b : Nat) (f : Block → Block) : (s.onBlock b f).inject = s.inject := rfl

@[simp] theorem State.onGang_waves (g : Nat) (f : Gang → Gang) : (s.onGang g f).waves = s.waves := rfl
@[simp] theorem State.onGang_blocks (g : Nat) (f : Gang → Gang) : (s.onGang g f).blocks = s.blocks := rfl
@[simp] theorem State.onGang_launches (g : Nat) (f : Gang → Gang) : (s.onGang g f).launches = s.launches := rfl
@[simp] theorem State.onGang_cores (g : Nat) (f : Gang → Gang) : (s.onGang g f).cores = s.cores := rfl
@[simp] theorem State.onGang_bars (g : Nat) (f : Gang → Gang) : (s.onGang g f).bars = s.bars := rfl
@[simp] theorem State.onGang_mem (g : Nat) (f : Gang → Gang) : (s.onGang g f).mem = s.mem := rfl
@[simp] theorem State.onGang_stamps (g : Nat) (f : Gang → Gang) : (s.onGang g f).stamps = s.stamps := rfl
@[simp] theorem State.onGang_copies (g : Nat) (f : Gang → Gang) : (s.onGang g f).copies = s.copies := rfl
@[simp] theorem State.onGang_poisoned (g : Nat) (f : Gang → Gang) : (s.onGang g f).poisoned = s.poisoned := rfl
@[simp] theorem State.onGang_loose (g : Nat) (f : Gang → Gang) : (s.onGang g f).loose = s.loose := rfl
@[simp] theorem State.onGang_doomed (g : Nat) (f : Gang → Gang) : (s.onGang g f).doomed = s.doomed := rfl
@[simp] theorem State.onGang_owned (g : Nat) (f : Gang → Gang) : (s.onGang g f).owned = s.owned := rfl
@[simp] theorem State.onGang_moved (g : Nat) (f : Gang → Gang) : (s.onGang g f).moved = s.moved := rfl
@[simp] theorem State.onGang_visible (g : Nat) (f : Gang → Gang) : (s.onGang g f).visible = s.visible := rfl
@[simp] theorem State.onGang_tlb (g : Nat) (f : Gang → Gang) : (s.onGang g f).tlb = s.tlb := rfl
@[simp] theorem State.onGang_ended (g : Nat) (f : Gang → Gang) : (s.onGang g f).ended = s.ended := rfl
@[simp] theorem State.onGang_residents (g : Nat) (f : Gang → Gang) : (s.onGang g f).residents = s.residents := rfl
@[simp] theorem State.onGang_tags (g : Nat) (f : Gang → Gang) : (s.onGang g f).tags = s.tags := rfl
@[simp] theorem State.onGang_refills (g : Nat) (f : Gang → Gang) : (s.onGang g f).refills = s.refills := rfl
@[simp] theorem State.onGang_partitions (g : Nat) (f : Gang → Gang) : (s.onGang g f).partitions = s.partitions := rfl
@[simp] theorem State.onGang_invals (g : Nat) (f : Gang → Gang) : (s.onGang g f).invals = s.invals := rfl
@[simp] theorem State.onGang_requests (g : Nat) (f : Gang → Gang) : (s.onGang g f).requests = s.requests := rfl
@[simp] theorem State.onGang_holds (g : Nat) (f : Gang → Gang) : (s.onGang g f).holds = s.holds := rfl
@[simp] theorem State.onGang_retraining (g : Nat) (f : Gang → Gang) : (s.onGang g f).retraining = s.retraining := rfl
@[simp] theorem State.onGang_noticed (g : Nat) (f : Gang → Gang) : (s.onGang g f).noticed = s.noticed := rfl
@[simp] theorem State.onGang_answer (g : Nat) (f : Gang → Gang) : (s.onGang g f).answer = s.answer := rfl
@[simp] theorem State.onGang_comms (g : Nat) (f : Gang → Gang) : (s.onGang g f).comms = s.comms := rfl
@[simp] theorem State.onGang_early (g : Nat) (f : Gang → Gang) : (s.onGang g f).early = s.early := rfl
@[simp] theorem State.onGang_images (g : Nat) (f : Gang → Gang) : (s.onGang g f).images = s.images := rfl
@[simp] theorem State.onGang_restarts (g : Nat) (f : Gang → Gang) : (s.onGang g f).restarts = s.restarts := rfl
@[simp] theorem State.onGang_submits (g : Nat) (f : Gang → Gang) : (s.onGang g f).submits = s.submits := rfl
@[simp] theorem State.onGang_mon (g : Nat) (f : Gang → Gang) : (s.onGang g f).mon = s.mon := rfl
@[simp] theorem State.onGang_clock (g : Nat) (f : Gang → Gang) : (s.onGang g f).clock = s.clock := rfl
@[simp] theorem State.onGang_cycles (g : Nat) (f : Gang → Gang) : (s.onGang g f).cycles = s.cycles := rfl
@[simp] theorem State.onGang_agenda (g : Nat) (f : Gang → Gang) : (s.onGang g f).agenda = s.agenda := rfl
@[simp] theorem State.onGang_cur (g : Nat) (f : Gang → Gang) : (s.onGang g f).cur = s.cur := rfl
@[simp] theorem State.onGang_second (g : Nat) (f : Gang → Gang) : (s.onGang g f).second = s.second := rfl
@[simp] theorem State.onGang_free (g : Nat) (f : Gang → Gang) : (s.onGang g f).free = s.free := rfl
@[simp] theorem State.onGang_ids (g : Nat) (f : Gang → Gang) : (s.onGang g f).ids = s.ids := rfl
@[simp] theorem State.onGang_stamp (g : Nat) (f : Gang → Gang) : (s.onGang g f).stamp = s.stamp := rfl
@[simp] theorem State.onGang_inject (g : Nat) (f : Gang → Gang) : (s.onGang g f).inject = s.inject := rfl

@[simp] theorem State.onLaunch_waves (l : Nat) (f : Launch → Launch) : (s.onLaunch l f).waves = s.waves := rfl
@[simp] theorem State.onLaunch_blocks (l : Nat) (f : Launch → Launch) : (s.onLaunch l f).blocks = s.blocks := rfl
@[simp] theorem State.onLaunch_gangs (l : Nat) (f : Launch → Launch) : (s.onLaunch l f).gangs = s.gangs := rfl
@[simp] theorem State.onLaunch_cores (l : Nat) (f : Launch → Launch) : (s.onLaunch l f).cores = s.cores := rfl
@[simp] theorem State.onLaunch_bars (l : Nat) (f : Launch → Launch) : (s.onLaunch l f).bars = s.bars := rfl
@[simp] theorem State.onLaunch_mem (l : Nat) (f : Launch → Launch) : (s.onLaunch l f).mem = s.mem := rfl
@[simp] theorem State.onLaunch_stamps (l : Nat) (f : Launch → Launch) : (s.onLaunch l f).stamps = s.stamps := rfl
@[simp] theorem State.onLaunch_copies (l : Nat) (f : Launch → Launch) : (s.onLaunch l f).copies = s.copies := rfl
@[simp] theorem State.onLaunch_poisoned (l : Nat) (f : Launch → Launch) : (s.onLaunch l f).poisoned = s.poisoned := rfl
@[simp] theorem State.onLaunch_loose (l : Nat) (f : Launch → Launch) : (s.onLaunch l f).loose = s.loose := rfl
@[simp] theorem State.onLaunch_doomed (l : Nat) (f : Launch → Launch) : (s.onLaunch l f).doomed = s.doomed := rfl
@[simp] theorem State.onLaunch_owned (l : Nat) (f : Launch → Launch) : (s.onLaunch l f).owned = s.owned := rfl
@[simp] theorem State.onLaunch_moved (l : Nat) (f : Launch → Launch) : (s.onLaunch l f).moved = s.moved := rfl
@[simp] theorem State.onLaunch_visible (l : Nat) (f : Launch → Launch) : (s.onLaunch l f).visible = s.visible := rfl
@[simp] theorem State.onLaunch_tlb (l : Nat) (f : Launch → Launch) : (s.onLaunch l f).tlb = s.tlb := rfl
@[simp] theorem State.onLaunch_ended (l : Nat) (f : Launch → Launch) : (s.onLaunch l f).ended = s.ended := rfl
@[simp] theorem State.onLaunch_residents (l : Nat) (f : Launch → Launch) : (s.onLaunch l f).residents = s.residents := rfl
@[simp] theorem State.onLaunch_tags (l : Nat) (f : Launch → Launch) : (s.onLaunch l f).tags = s.tags := rfl
@[simp] theorem State.onLaunch_refills (l : Nat) (f : Launch → Launch) : (s.onLaunch l f).refills = s.refills := rfl
@[simp] theorem State.onLaunch_partitions (l : Nat) (f : Launch → Launch) : (s.onLaunch l f).partitions = s.partitions := rfl
@[simp] theorem State.onLaunch_invals (l : Nat) (f : Launch → Launch) : (s.onLaunch l f).invals = s.invals := rfl
@[simp] theorem State.onLaunch_requests (l : Nat) (f : Launch → Launch) : (s.onLaunch l f).requests = s.requests := rfl
@[simp] theorem State.onLaunch_holds (l : Nat) (f : Launch → Launch) : (s.onLaunch l f).holds = s.holds := rfl
@[simp] theorem State.onLaunch_retraining (l : Nat) (f : Launch → Launch) : (s.onLaunch l f).retraining = s.retraining := rfl
@[simp] theorem State.onLaunch_noticed (l : Nat) (f : Launch → Launch) : (s.onLaunch l f).noticed = s.noticed := rfl
@[simp] theorem State.onLaunch_answer (l : Nat) (f : Launch → Launch) : (s.onLaunch l f).answer = s.answer := rfl
@[simp] theorem State.onLaunch_comms (l : Nat) (f : Launch → Launch) : (s.onLaunch l f).comms = s.comms := rfl
@[simp] theorem State.onLaunch_early (l : Nat) (f : Launch → Launch) : (s.onLaunch l f).early = s.early := rfl
@[simp] theorem State.onLaunch_images (l : Nat) (f : Launch → Launch) : (s.onLaunch l f).images = s.images := rfl
@[simp] theorem State.onLaunch_restarts (l : Nat) (f : Launch → Launch) : (s.onLaunch l f).restarts = s.restarts := rfl
@[simp] theorem State.onLaunch_submits (l : Nat) (f : Launch → Launch) : (s.onLaunch l f).submits = s.submits := rfl
@[simp] theorem State.onLaunch_mon (l : Nat) (f : Launch → Launch) : (s.onLaunch l f).mon = s.mon := rfl
@[simp] theorem State.onLaunch_clock (l : Nat) (f : Launch → Launch) : (s.onLaunch l f).clock = s.clock := rfl
@[simp] theorem State.onLaunch_cycles (l : Nat) (f : Launch → Launch) : (s.onLaunch l f).cycles = s.cycles := rfl
@[simp] theorem State.onLaunch_agenda (l : Nat) (f : Launch → Launch) : (s.onLaunch l f).agenda = s.agenda := rfl
@[simp] theorem State.onLaunch_cur (l : Nat) (f : Launch → Launch) : (s.onLaunch l f).cur = s.cur := rfl
@[simp] theorem State.onLaunch_second (l : Nat) (f : Launch → Launch) : (s.onLaunch l f).second = s.second := rfl
@[simp] theorem State.onLaunch_free (l : Nat) (f : Launch → Launch) : (s.onLaunch l f).free = s.free := rfl
@[simp] theorem State.onLaunch_ids (l : Nat) (f : Launch → Launch) : (s.onLaunch l f).ids = s.ids := rfl
@[simp] theorem State.onLaunch_stamp (l : Nat) (f : Launch → Launch) : (s.onLaunch l f).stamp = s.stamp := rfl
@[simp] theorem State.onLaunch_inject (l : Nat) (f : Launch → Launch) : (s.onLaunch l f).inject = s.inject := rfl

@[simp] theorem State.onComm_waves (k : Nat) (f : Comm → Comm) : (s.onComm k f).waves = s.waves := rfl
@[simp] theorem State.onComm_blocks (k : Nat) (f : Comm → Comm) : (s.onComm k f).blocks = s.blocks := rfl
@[simp] theorem State.onComm_gangs (k : Nat) (f : Comm → Comm) : (s.onComm k f).gangs = s.gangs := rfl
@[simp] theorem State.onComm_launches (k : Nat) (f : Comm → Comm) : (s.onComm k f).launches = s.launches := rfl
@[simp] theorem State.onComm_cores (k : Nat) (f : Comm → Comm) : (s.onComm k f).cores = s.cores := rfl
@[simp] theorem State.onComm_bars (k : Nat) (f : Comm → Comm) : (s.onComm k f).bars = s.bars := rfl
@[simp] theorem State.onComm_mem (k : Nat) (f : Comm → Comm) : (s.onComm k f).mem = s.mem := rfl
@[simp] theorem State.onComm_stamps (k : Nat) (f : Comm → Comm) : (s.onComm k f).stamps = s.stamps := rfl
@[simp] theorem State.onComm_copies (k : Nat) (f : Comm → Comm) : (s.onComm k f).copies = s.copies := rfl
@[simp] theorem State.onComm_poisoned (k : Nat) (f : Comm → Comm) : (s.onComm k f).poisoned = s.poisoned := rfl
@[simp] theorem State.onComm_loose (k : Nat) (f : Comm → Comm) : (s.onComm k f).loose = s.loose := rfl
@[simp] theorem State.onComm_doomed (k : Nat) (f : Comm → Comm) : (s.onComm k f).doomed = s.doomed := rfl
@[simp] theorem State.onComm_owned (k : Nat) (f : Comm → Comm) : (s.onComm k f).owned = s.owned := rfl
@[simp] theorem State.onComm_moved (k : Nat) (f : Comm → Comm) : (s.onComm k f).moved = s.moved := rfl
@[simp] theorem State.onComm_visible (k : Nat) (f : Comm → Comm) : (s.onComm k f).visible = s.visible := rfl
@[simp] theorem State.onComm_tlb (k : Nat) (f : Comm → Comm) : (s.onComm k f).tlb = s.tlb := rfl
@[simp] theorem State.onComm_ended (k : Nat) (f : Comm → Comm) : (s.onComm k f).ended = s.ended := rfl
@[simp] theorem State.onComm_residents (k : Nat) (f : Comm → Comm) : (s.onComm k f).residents = s.residents := rfl
@[simp] theorem State.onComm_tags (k : Nat) (f : Comm → Comm) : (s.onComm k f).tags = s.tags := rfl
@[simp] theorem State.onComm_refills (k : Nat) (f : Comm → Comm) : (s.onComm k f).refills = s.refills := rfl
@[simp] theorem State.onComm_partitions (k : Nat) (f : Comm → Comm) : (s.onComm k f).partitions = s.partitions := rfl
@[simp] theorem State.onComm_invals (k : Nat) (f : Comm → Comm) : (s.onComm k f).invals = s.invals := rfl
@[simp] theorem State.onComm_requests (k : Nat) (f : Comm → Comm) : (s.onComm k f).requests = s.requests := rfl
@[simp] theorem State.onComm_holds (k : Nat) (f : Comm → Comm) : (s.onComm k f).holds = s.holds := rfl
@[simp] theorem State.onComm_retraining (k : Nat) (f : Comm → Comm) : (s.onComm k f).retraining = s.retraining := rfl
@[simp] theorem State.onComm_noticed (k : Nat) (f : Comm → Comm) : (s.onComm k f).noticed = s.noticed := rfl
@[simp] theorem State.onComm_answer (k : Nat) (f : Comm → Comm) : (s.onComm k f).answer = s.answer := rfl
@[simp] theorem State.onComm_images (k : Nat) (f : Comm → Comm) : (s.onComm k f).images = s.images := rfl
@[simp] theorem State.onComm_restarts (k : Nat) (f : Comm → Comm) : (s.onComm k f).restarts = s.restarts := rfl
@[simp] theorem State.onComm_submits (k : Nat) (f : Comm → Comm) : (s.onComm k f).submits = s.submits := rfl
@[simp] theorem State.onComm_mon (k : Nat) (f : Comm → Comm) : (s.onComm k f).mon = s.mon := rfl
@[simp] theorem State.onComm_clock (k : Nat) (f : Comm → Comm) : (s.onComm k f).clock = s.clock := rfl
@[simp] theorem State.onComm_cycles (k : Nat) (f : Comm → Comm) : (s.onComm k f).cycles = s.cycles := rfl
@[simp] theorem State.onComm_agenda (k : Nat) (f : Comm → Comm) : (s.onComm k f).agenda = s.agenda := rfl
@[simp] theorem State.onComm_cur (k : Nat) (f : Comm → Comm) : (s.onComm k f).cur = s.cur := rfl
@[simp] theorem State.onComm_second (k : Nat) (f : Comm → Comm) : (s.onComm k f).second = s.second := rfl
@[simp] theorem State.onComm_free (k : Nat) (f : Comm → Comm) : (s.onComm k f).free = s.free := rfl
@[simp] theorem State.onComm_ids (k : Nat) (f : Comm → Comm) : (s.onComm k f).ids = s.ids := rfl
@[simp] theorem State.onComm_stamp (k : Nat) (f : Comm → Comm) : (s.onComm k f).stamp = s.stamp := rfl
@[simp] theorem State.onComm_inject (k : Nat) (f : Comm → Comm) : (s.onComm k f).inject = s.inject := rfl

@[simp] theorem State.onWave_blocks (c sl : Nat) (f : Wave → Wave) : (s.onWave c sl f).blocks = s.blocks := rfl
@[simp] theorem State.onWave_gangs (c sl : Nat) (f : Wave → Wave) : (s.onWave c sl f).gangs = s.gangs := rfl
@[simp] theorem State.onWave_launches (c sl : Nat) (f : Wave → Wave) : (s.onWave c sl f).launches = s.launches := rfl
@[simp] theorem State.onWave_cores (c sl : Nat) (f : Wave → Wave) : (s.onWave c sl f).cores = s.cores := rfl
@[simp] theorem State.onWave_bars (c sl : Nat) (f : Wave → Wave) : (s.onWave c sl f).bars = s.bars := rfl
@[simp] theorem State.onWave_mem (c sl : Nat) (f : Wave → Wave) : (s.onWave c sl f).mem = s.mem := rfl
@[simp] theorem State.onWave_stamps (c sl : Nat) (f : Wave → Wave) : (s.onWave c sl f).stamps = s.stamps := rfl
@[simp] theorem State.onWave_copies (c sl : Nat) (f : Wave → Wave) : (s.onWave c sl f).copies = s.copies := rfl
@[simp] theorem State.onWave_poisoned (c sl : Nat) (f : Wave → Wave) : (s.onWave c sl f).poisoned = s.poisoned := rfl
@[simp] theorem State.onWave_loose (c sl : Nat) (f : Wave → Wave) : (s.onWave c sl f).loose = s.loose := rfl
@[simp] theorem State.onWave_doomed (c sl : Nat) (f : Wave → Wave) : (s.onWave c sl f).doomed = s.doomed := rfl
@[simp] theorem State.onWave_owned (c sl : Nat) (f : Wave → Wave) : (s.onWave c sl f).owned = s.owned := rfl
@[simp] theorem State.onWave_moved (c sl : Nat) (f : Wave → Wave) : (s.onWave c sl f).moved = s.moved := rfl
@[simp] theorem State.onWave_visible (c sl : Nat) (f : Wave → Wave) : (s.onWave c sl f).visible = s.visible := rfl
@[simp] theorem State.onWave_tlb (c sl : Nat) (f : Wave → Wave) : (s.onWave c sl f).tlb = s.tlb := rfl
@[simp] theorem State.onWave_ended (c sl : Nat) (f : Wave → Wave) : (s.onWave c sl f).ended = s.ended := rfl
@[simp] theorem State.onWave_residents (c sl : Nat) (f : Wave → Wave) : (s.onWave c sl f).residents = s.residents := rfl
@[simp] theorem State.onWave_tags (c sl : Nat) (f : Wave → Wave) : (s.onWave c sl f).tags = s.tags := rfl
@[simp] theorem State.onWave_refills (c sl : Nat) (f : Wave → Wave) : (s.onWave c sl f).refills = s.refills := rfl
@[simp] theorem State.onWave_partitions (c sl : Nat) (f : Wave → Wave) : (s.onWave c sl f).partitions = s.partitions := rfl
@[simp] theorem State.onWave_invals (c sl : Nat) (f : Wave → Wave) : (s.onWave c sl f).invals = s.invals := rfl
@[simp] theorem State.onWave_requests (c sl : Nat) (f : Wave → Wave) : (s.onWave c sl f).requests = s.requests := rfl
@[simp] theorem State.onWave_holds (c sl : Nat) (f : Wave → Wave) : (s.onWave c sl f).holds = s.holds := rfl
@[simp] theorem State.onWave_retraining (c sl : Nat) (f : Wave → Wave) : (s.onWave c sl f).retraining = s.retraining := rfl
@[simp] theorem State.onWave_noticed (c sl : Nat) (f : Wave → Wave) : (s.onWave c sl f).noticed = s.noticed := rfl
@[simp] theorem State.onWave_answer (c sl : Nat) (f : Wave → Wave) : (s.onWave c sl f).answer = s.answer := rfl
@[simp] theorem State.onWave_comms (c sl : Nat) (f : Wave → Wave) : (s.onWave c sl f).comms = s.comms := rfl
@[simp] theorem State.onWave_early (c sl : Nat) (f : Wave → Wave) : (s.onWave c sl f).early = s.early := rfl
@[simp] theorem State.onWave_images (c sl : Nat) (f : Wave → Wave) : (s.onWave c sl f).images = s.images := rfl
@[simp] theorem State.onWave_restarts (c sl : Nat) (f : Wave → Wave) : (s.onWave c sl f).restarts = s.restarts := rfl
@[simp] theorem State.onWave_submits (c sl : Nat) (f : Wave → Wave) : (s.onWave c sl f).submits = s.submits := rfl
@[simp] theorem State.onWave_mon (c sl : Nat) (f : Wave → Wave) : (s.onWave c sl f).mon = s.mon := rfl
@[simp] theorem State.onWave_clock (c sl : Nat) (f : Wave → Wave) : (s.onWave c sl f).clock = s.clock := rfl
@[simp] theorem State.onWave_cycles (c sl : Nat) (f : Wave → Wave) : (s.onWave c sl f).cycles = s.cycles := rfl
@[simp] theorem State.onWave_agenda (c sl : Nat) (f : Wave → Wave) : (s.onWave c sl f).agenda = s.agenda := rfl
@[simp] theorem State.onWave_cur (c sl : Nat) (f : Wave → Wave) : (s.onWave c sl f).cur = s.cur := rfl
@[simp] theorem State.onWave_second (c sl : Nat) (f : Wave → Wave) : (s.onWave c sl f).second = s.second := rfl
@[simp] theorem State.onWave_free (c sl : Nat) (f : Wave → Wave) : (s.onWave c sl f).free = s.free := rfl
@[simp] theorem State.onWave_ids (c sl : Nat) (f : Wave → Wave) : (s.onWave c sl f).ids = s.ids := rfl
@[simp] theorem State.onWave_stamp (c sl : Nat) (f : Wave → Wave) : (s.onWave c sl f).stamp = s.stamp := rfl
@[simp] theorem State.onWave_inject (c sl : Nat) (f : Wave → Wave) : (s.onWave c sl f).inject = s.inject := rfl

@[simp] theorem State.onLane_blocks (c sl l : Nat) (f : Thread → Thread) : (s.onLane c sl l f).blocks = s.blocks := rfl
@[simp] theorem State.onLane_gangs (c sl l : Nat) (f : Thread → Thread) : (s.onLane c sl l f).gangs = s.gangs := rfl
@[simp] theorem State.onLane_launches (c sl l : Nat) (f : Thread → Thread) : (s.onLane c sl l f).launches = s.launches := rfl
@[simp] theorem State.onLane_cores (c sl l : Nat) (f : Thread → Thread) : (s.onLane c sl l f).cores = s.cores := rfl
@[simp] theorem State.onLane_bars (c sl l : Nat) (f : Thread → Thread) : (s.onLane c sl l f).bars = s.bars := rfl
@[simp] theorem State.onLane_mem (c sl l : Nat) (f : Thread → Thread) : (s.onLane c sl l f).mem = s.mem := rfl
@[simp] theorem State.onLane_stamps (c sl l : Nat) (f : Thread → Thread) : (s.onLane c sl l f).stamps = s.stamps := rfl
@[simp] theorem State.onLane_copies (c sl l : Nat) (f : Thread → Thread) : (s.onLane c sl l f).copies = s.copies := rfl
@[simp] theorem State.onLane_poisoned (c sl l : Nat) (f : Thread → Thread) : (s.onLane c sl l f).poisoned = s.poisoned := rfl
@[simp] theorem State.onLane_loose (c sl l : Nat) (f : Thread → Thread) : (s.onLane c sl l f).loose = s.loose := rfl
@[simp] theorem State.onLane_doomed (c sl l : Nat) (f : Thread → Thread) : (s.onLane c sl l f).doomed = s.doomed := rfl
@[simp] theorem State.onLane_owned (c sl l : Nat) (f : Thread → Thread) : (s.onLane c sl l f).owned = s.owned := rfl
@[simp] theorem State.onLane_moved (c sl l : Nat) (f : Thread → Thread) : (s.onLane c sl l f).moved = s.moved := rfl
@[simp] theorem State.onLane_visible (c sl l : Nat) (f : Thread → Thread) : (s.onLane c sl l f).visible = s.visible := rfl
@[simp] theorem State.onLane_tlb (c sl l : Nat) (f : Thread → Thread) : (s.onLane c sl l f).tlb = s.tlb := rfl
@[simp] theorem State.onLane_ended (c sl l : Nat) (f : Thread → Thread) : (s.onLane c sl l f).ended = s.ended := rfl
@[simp] theorem State.onLane_residents (c sl l : Nat) (f : Thread → Thread) : (s.onLane c sl l f).residents = s.residents := rfl
@[simp] theorem State.onLane_tags (c sl l : Nat) (f : Thread → Thread) : (s.onLane c sl l f).tags = s.tags := rfl
@[simp] theorem State.onLane_refills (c sl l : Nat) (f : Thread → Thread) : (s.onLane c sl l f).refills = s.refills := rfl
@[simp] theorem State.onLane_partitions (c sl l : Nat) (f : Thread → Thread) : (s.onLane c sl l f).partitions = s.partitions := rfl
@[simp] theorem State.onLane_invals (c sl l : Nat) (f : Thread → Thread) : (s.onLane c sl l f).invals = s.invals := rfl
@[simp] theorem State.onLane_requests (c sl l : Nat) (f : Thread → Thread) : (s.onLane c sl l f).requests = s.requests := rfl
@[simp] theorem State.onLane_holds (c sl l : Nat) (f : Thread → Thread) : (s.onLane c sl l f).holds = s.holds := rfl
@[simp] theorem State.onLane_retraining (c sl l : Nat) (f : Thread → Thread) : (s.onLane c sl l f).retraining = s.retraining := rfl
@[simp] theorem State.onLane_noticed (c sl l : Nat) (f : Thread → Thread) : (s.onLane c sl l f).noticed = s.noticed := rfl
@[simp] theorem State.onLane_answer (c sl l : Nat) (f : Thread → Thread) : (s.onLane c sl l f).answer = s.answer := rfl
@[simp] theorem State.onLane_comms (c sl l : Nat) (f : Thread → Thread) : (s.onLane c sl l f).comms = s.comms := rfl
@[simp] theorem State.onLane_early (c sl l : Nat) (f : Thread → Thread) : (s.onLane c sl l f).early = s.early := rfl
@[simp] theorem State.onLane_images (c sl l : Nat) (f : Thread → Thread) : (s.onLane c sl l f).images = s.images := rfl
@[simp] theorem State.onLane_restarts (c sl l : Nat) (f : Thread → Thread) : (s.onLane c sl l f).restarts = s.restarts := rfl
@[simp] theorem State.onLane_submits (c sl l : Nat) (f : Thread → Thread) : (s.onLane c sl l f).submits = s.submits := rfl
@[simp] theorem State.onLane_mon (c sl l : Nat) (f : Thread → Thread) : (s.onLane c sl l f).mon = s.mon := rfl
@[simp] theorem State.onLane_clock (c sl l : Nat) (f : Thread → Thread) : (s.onLane c sl l f).clock = s.clock := rfl
@[simp] theorem State.onLane_cycles (c sl l : Nat) (f : Thread → Thread) : (s.onLane c sl l f).cycles = s.cycles := rfl
@[simp] theorem State.onLane_agenda (c sl l : Nat) (f : Thread → Thread) : (s.onLane c sl l f).agenda = s.agenda := rfl
@[simp] theorem State.onLane_cur (c sl l : Nat) (f : Thread → Thread) : (s.onLane c sl l f).cur = s.cur := rfl
@[simp] theorem State.onLane_second (c sl l : Nat) (f : Thread → Thread) : (s.onLane c sl l f).second = s.second := rfl
@[simp] theorem State.onLane_free (c sl l : Nat) (f : Thread → Thread) : (s.onLane c sl l f).free = s.free := rfl
@[simp] theorem State.onLane_ids (c sl l : Nat) (f : Thread → Thread) : (s.onLane c sl l f).ids = s.ids := rfl
@[simp] theorem State.onLane_stamp (c sl l : Nat) (f : Thread → Thread) : (s.onLane c sl l f).stamp = s.stamp := rfl
@[simp] theorem State.onLane_inject (c sl l : Nat) (f : Thread → Thread) : (s.onLane c sl l f).inject = s.inject := rfl

@[simp] theorem State.onThreads_blocks (p : Wave → Thread → Bool) (f : Thread → Thread) : (s.onThreads p f).blocks = s.blocks := rfl
@[simp] theorem State.onThreads_gangs (p : Wave → Thread → Bool) (f : Thread → Thread) : (s.onThreads p f).gangs = s.gangs := rfl
@[simp] theorem State.onThreads_launches (p : Wave → Thread → Bool) (f : Thread → Thread) : (s.onThreads p f).launches = s.launches := rfl
@[simp] theorem State.onThreads_cores (p : Wave → Thread → Bool) (f : Thread → Thread) : (s.onThreads p f).cores = s.cores := rfl
@[simp] theorem State.onThreads_bars (p : Wave → Thread → Bool) (f : Thread → Thread) : (s.onThreads p f).bars = s.bars := rfl
@[simp] theorem State.onThreads_mem (p : Wave → Thread → Bool) (f : Thread → Thread) : (s.onThreads p f).mem = s.mem := rfl
@[simp] theorem State.onThreads_stamps (p : Wave → Thread → Bool) (f : Thread → Thread) : (s.onThreads p f).stamps = s.stamps := rfl
@[simp] theorem State.onThreads_copies (p : Wave → Thread → Bool) (f : Thread → Thread) : (s.onThreads p f).copies = s.copies := rfl
@[simp] theorem State.onThreads_poisoned (p : Wave → Thread → Bool) (f : Thread → Thread) : (s.onThreads p f).poisoned = s.poisoned := rfl
@[simp] theorem State.onThreads_loose (p : Wave → Thread → Bool) (f : Thread → Thread) : (s.onThreads p f).loose = s.loose := rfl
@[simp] theorem State.onThreads_doomed (p : Wave → Thread → Bool) (f : Thread → Thread) : (s.onThreads p f).doomed = s.doomed := rfl
@[simp] theorem State.onThreads_owned (p : Wave → Thread → Bool) (f : Thread → Thread) : (s.onThreads p f).owned = s.owned := rfl
@[simp] theorem State.onThreads_moved (p : Wave → Thread → Bool) (f : Thread → Thread) : (s.onThreads p f).moved = s.moved := rfl
@[simp] theorem State.onThreads_visible (p : Wave → Thread → Bool) (f : Thread → Thread) : (s.onThreads p f).visible = s.visible := rfl
@[simp] theorem State.onThreads_tlb (p : Wave → Thread → Bool) (f : Thread → Thread) : (s.onThreads p f).tlb = s.tlb := rfl
@[simp] theorem State.onThreads_ended (p : Wave → Thread → Bool) (f : Thread → Thread) : (s.onThreads p f).ended = s.ended := rfl
@[simp] theorem State.onThreads_residents (p : Wave → Thread → Bool) (f : Thread → Thread) : (s.onThreads p f).residents = s.residents := rfl
@[simp] theorem State.onThreads_tags (p : Wave → Thread → Bool) (f : Thread → Thread) : (s.onThreads p f).tags = s.tags := rfl
@[simp] theorem State.onThreads_refills (p : Wave → Thread → Bool) (f : Thread → Thread) : (s.onThreads p f).refills = s.refills := rfl
@[simp] theorem State.onThreads_partitions (p : Wave → Thread → Bool) (f : Thread → Thread) : (s.onThreads p f).partitions = s.partitions := rfl
@[simp] theorem State.onThreads_invals (p : Wave → Thread → Bool) (f : Thread → Thread) : (s.onThreads p f).invals = s.invals := rfl
@[simp] theorem State.onThreads_requests (p : Wave → Thread → Bool) (f : Thread → Thread) : (s.onThreads p f).requests = s.requests := rfl
@[simp] theorem State.onThreads_holds (p : Wave → Thread → Bool) (f : Thread → Thread) : (s.onThreads p f).holds = s.holds := rfl
@[simp] theorem State.onThreads_retraining (p : Wave → Thread → Bool) (f : Thread → Thread) : (s.onThreads p f).retraining = s.retraining := rfl
@[simp] theorem State.onThreads_noticed (p : Wave → Thread → Bool) (f : Thread → Thread) : (s.onThreads p f).noticed = s.noticed := rfl
@[simp] theorem State.onThreads_answer (p : Wave → Thread → Bool) (f : Thread → Thread) : (s.onThreads p f).answer = s.answer := rfl
@[simp] theorem State.onThreads_comms (p : Wave → Thread → Bool) (f : Thread → Thread) : (s.onThreads p f).comms = s.comms := rfl
@[simp] theorem State.onThreads_early (p : Wave → Thread → Bool) (f : Thread → Thread) : (s.onThreads p f).early = s.early := rfl
@[simp] theorem State.onThreads_images (p : Wave → Thread → Bool) (f : Thread → Thread) : (s.onThreads p f).images = s.images := rfl
@[simp] theorem State.onThreads_restarts (p : Wave → Thread → Bool) (f : Thread → Thread) : (s.onThreads p f).restarts = s.restarts := rfl
@[simp] theorem State.onThreads_submits (p : Wave → Thread → Bool) (f : Thread → Thread) : (s.onThreads p f).submits = s.submits := rfl
@[simp] theorem State.onThreads_mon (p : Wave → Thread → Bool) (f : Thread → Thread) : (s.onThreads p f).mon = s.mon := rfl
@[simp] theorem State.onThreads_clock (p : Wave → Thread → Bool) (f : Thread → Thread) : (s.onThreads p f).clock = s.clock := rfl
@[simp] theorem State.onThreads_cycles (p : Wave → Thread → Bool) (f : Thread → Thread) : (s.onThreads p f).cycles = s.cycles := rfl
@[simp] theorem State.onThreads_agenda (p : Wave → Thread → Bool) (f : Thread → Thread) : (s.onThreads p f).agenda = s.agenda := rfl
@[simp] theorem State.onThreads_cur (p : Wave → Thread → Bool) (f : Thread → Thread) : (s.onThreads p f).cur = s.cur := rfl
@[simp] theorem State.onThreads_second (p : Wave → Thread → Bool) (f : Thread → Thread) : (s.onThreads p f).second = s.second := rfl
@[simp] theorem State.onThreads_free (p : Wave → Thread → Bool) (f : Thread → Thread) : (s.onThreads p f).free = s.free := rfl
@[simp] theorem State.onThreads_ids (p : Wave → Thread → Bool) (f : Thread → Thread) : (s.onThreads p f).ids = s.ids := rfl
@[simp] theorem State.onThreads_stamp (p : Wave → Thread → Bool) (f : Thread → Thread) : (s.onThreads p f).stamp = s.stamp := rfl
@[simp] theorem State.onThreads_inject (p : Wave → Thread → Bool) (f : Thread → Thread) : (s.onThreads p f).inject = s.inject := rfl

@[simp] theorem State.onCur_blocks (f : Wave → Wave) : (s.onCur f).blocks = s.blocks := rfl
@[simp] theorem State.onCur_gangs (f : Wave → Wave) : (s.onCur f).gangs = s.gangs := rfl
@[simp] theorem State.onCur_launches (f : Wave → Wave) : (s.onCur f).launches = s.launches := rfl
@[simp] theorem State.onCur_cores (f : Wave → Wave) : (s.onCur f).cores = s.cores := rfl
@[simp] theorem State.onCur_bars (f : Wave → Wave) : (s.onCur f).bars = s.bars := rfl
@[simp] theorem State.onCur_mem (f : Wave → Wave) : (s.onCur f).mem = s.mem := rfl
@[simp] theorem State.onCur_stamps (f : Wave → Wave) : (s.onCur f).stamps = s.stamps := rfl
@[simp] theorem State.onCur_copies (f : Wave → Wave) : (s.onCur f).copies = s.copies := rfl
@[simp] theorem State.onCur_poisoned (f : Wave → Wave) : (s.onCur f).poisoned = s.poisoned := rfl
@[simp] theorem State.onCur_loose (f : Wave → Wave) : (s.onCur f).loose = s.loose := rfl
@[simp] theorem State.onCur_doomed (f : Wave → Wave) : (s.onCur f).doomed = s.doomed := rfl
@[simp] theorem State.onCur_owned (f : Wave → Wave) : (s.onCur f).owned = s.owned := rfl
@[simp] theorem State.onCur_moved (f : Wave → Wave) : (s.onCur f).moved = s.moved := rfl
@[simp] theorem State.onCur_visible (f : Wave → Wave) : (s.onCur f).visible = s.visible := rfl
@[simp] theorem State.onCur_tlb (f : Wave → Wave) : (s.onCur f).tlb = s.tlb := rfl
@[simp] theorem State.onCur_ended (f : Wave → Wave) : (s.onCur f).ended = s.ended := rfl
@[simp] theorem State.onCur_residents (f : Wave → Wave) : (s.onCur f).residents = s.residents := rfl
@[simp] theorem State.onCur_tags (f : Wave → Wave) : (s.onCur f).tags = s.tags := rfl
@[simp] theorem State.onCur_refills (f : Wave → Wave) : (s.onCur f).refills = s.refills := rfl
@[simp] theorem State.onCur_partitions (f : Wave → Wave) : (s.onCur f).partitions = s.partitions := rfl
@[simp] theorem State.onCur_invals (f : Wave → Wave) : (s.onCur f).invals = s.invals := rfl
@[simp] theorem State.onCur_requests (f : Wave → Wave) : (s.onCur f).requests = s.requests := rfl
@[simp] theorem State.onCur_holds (f : Wave → Wave) : (s.onCur f).holds = s.holds := rfl
@[simp] theorem State.onCur_retraining (f : Wave → Wave) : (s.onCur f).retraining = s.retraining := rfl
@[simp] theorem State.onCur_noticed (f : Wave → Wave) : (s.onCur f).noticed = s.noticed := rfl
@[simp] theorem State.onCur_answer (f : Wave → Wave) : (s.onCur f).answer = s.answer := rfl
@[simp] theorem State.onCur_comms (f : Wave → Wave) : (s.onCur f).comms = s.comms := rfl
@[simp] theorem State.onCur_early (f : Wave → Wave) : (s.onCur f).early = s.early := rfl
@[simp] theorem State.onCur_images (f : Wave → Wave) : (s.onCur f).images = s.images := rfl
@[simp] theorem State.onCur_restarts (f : Wave → Wave) : (s.onCur f).restarts = s.restarts := rfl
@[simp] theorem State.onCur_submits (f : Wave → Wave) : (s.onCur f).submits = s.submits := rfl
@[simp] theorem State.onCur_mon (f : Wave → Wave) : (s.onCur f).mon = s.mon := rfl
@[simp] theorem State.onCur_clock (f : Wave → Wave) : (s.onCur f).clock = s.clock := rfl
@[simp] theorem State.onCur_cycles (f : Wave → Wave) : (s.onCur f).cycles = s.cycles := rfl
@[simp] theorem State.onCur_agenda (f : Wave → Wave) : (s.onCur f).agenda = s.agenda := rfl
@[simp] theorem State.onCur_cur (f : Wave → Wave) : (s.onCur f).cur = s.cur := rfl
@[simp] theorem State.onCur_second (f : Wave → Wave) : (s.onCur f).second = s.second := rfl
@[simp] theorem State.onCur_free (f : Wave → Wave) : (s.onCur f).free = s.free := rfl
@[simp] theorem State.onCur_ids (f : Wave → Wave) : (s.onCur f).ids = s.ids := rfl
@[simp] theorem State.onCur_stamp (f : Wave → Wave) : (s.onCur f).stamp = s.stamp := rfl
@[simp] theorem State.onCur_inject (f : Wave → Wave) : (s.onCur f).inject = s.inject := rfl

@[simp] theorem State.setReg_waves (sp ix off : Nat) (v : Word) : (s.setReg sp ix off v).waves = s.waves := rfl
@[simp] theorem State.setReg_blocks (sp ix off : Nat) (v : Word) : (s.setReg sp ix off v).blocks = s.blocks := rfl
@[simp] theorem State.setReg_gangs (sp ix off : Nat) (v : Word) : (s.setReg sp ix off v).gangs = s.gangs := rfl
@[simp] theorem State.setReg_launches (sp ix off : Nat) (v : Word) : (s.setReg sp ix off v).launches = s.launches := rfl
@[simp] theorem State.setReg_cores (sp ix off : Nat) (v : Word) : (s.setReg sp ix off v).cores = s.cores := rfl
@[simp] theorem State.setReg_bars (sp ix off : Nat) (v : Word) : (s.setReg sp ix off v).bars = s.bars := rfl
@[simp] theorem State.setReg_mem (sp ix off : Nat) (v : Word) : (s.setReg sp ix off v).mem = s.mem := rfl
@[simp] theorem State.setReg_stamps (sp ix off : Nat) (v : Word) : (s.setReg sp ix off v).stamps = s.stamps := rfl
@[simp] theorem State.setReg_copies (sp ix off : Nat) (v : Word) : (s.setReg sp ix off v).copies = s.copies := rfl
@[simp] theorem State.setReg_poisoned (sp ix off : Nat) (v : Word) : (s.setReg sp ix off v).poisoned = s.poisoned := rfl
@[simp] theorem State.setReg_loose (sp ix off : Nat) (v : Word) : (s.setReg sp ix off v).loose = s.loose := rfl
@[simp] theorem State.setReg_doomed (sp ix off : Nat) (v : Word) : (s.setReg sp ix off v).doomed = s.doomed := rfl
@[simp] theorem State.setReg_owned (sp ix off : Nat) (v : Word) : (s.setReg sp ix off v).owned = s.owned := rfl
@[simp] theorem State.setReg_moved (sp ix off : Nat) (v : Word) : (s.setReg sp ix off v).moved = s.moved := rfl
@[simp] theorem State.setReg_visible (sp ix off : Nat) (v : Word) : (s.setReg sp ix off v).visible = s.visible := rfl
@[simp] theorem State.setReg_tlb (sp ix off : Nat) (v : Word) : (s.setReg sp ix off v).tlb = s.tlb := rfl
@[simp] theorem State.setReg_ended (sp ix off : Nat) (v : Word) : (s.setReg sp ix off v).ended = s.ended := rfl
@[simp] theorem State.setReg_residents (sp ix off : Nat) (v : Word) : (s.setReg sp ix off v).residents = s.residents := rfl
@[simp] theorem State.setReg_tags (sp ix off : Nat) (v : Word) : (s.setReg sp ix off v).tags = s.tags := rfl
@[simp] theorem State.setReg_refills (sp ix off : Nat) (v : Word) : (s.setReg sp ix off v).refills = s.refills := rfl
@[simp] theorem State.setReg_partitions (sp ix off : Nat) (v : Word) : (s.setReg sp ix off v).partitions = s.partitions := rfl
@[simp] theorem State.setReg_invals (sp ix off : Nat) (v : Word) : (s.setReg sp ix off v).invals = s.invals := rfl
@[simp] theorem State.setReg_requests (sp ix off : Nat) (v : Word) : (s.setReg sp ix off v).requests = s.requests := rfl
@[simp] theorem State.setReg_holds (sp ix off : Nat) (v : Word) : (s.setReg sp ix off v).holds = s.holds := rfl
@[simp] theorem State.setReg_retraining (sp ix off : Nat) (v : Word) : (s.setReg sp ix off v).retraining = s.retraining := rfl
@[simp] theorem State.setReg_noticed (sp ix off : Nat) (v : Word) : (s.setReg sp ix off v).noticed = s.noticed := rfl
@[simp] theorem State.setReg_answer (sp ix off : Nat) (v : Word) : (s.setReg sp ix off v).answer = s.answer := rfl
@[simp] theorem State.setReg_comms (sp ix off : Nat) (v : Word) : (s.setReg sp ix off v).comms = s.comms := rfl
@[simp] theorem State.setReg_early (sp ix off : Nat) (v : Word) : (s.setReg sp ix off v).early = s.early := rfl
@[simp] theorem State.setReg_images (sp ix off : Nat) (v : Word) : (s.setReg sp ix off v).images = s.images := rfl
@[simp] theorem State.setReg_restarts (sp ix off : Nat) (v : Word) : (s.setReg sp ix off v).restarts = s.restarts := rfl
@[simp] theorem State.setReg_submits (sp ix off : Nat) (v : Word) : (s.setReg sp ix off v).submits = s.submits := rfl
@[simp] theorem State.setReg_clock (sp ix off : Nat) (v : Word) : (s.setReg sp ix off v).clock = s.clock := rfl
@[simp] theorem State.setReg_cycles (sp ix off : Nat) (v : Word) : (s.setReg sp ix off v).cycles = s.cycles := rfl
@[simp] theorem State.setReg_agenda (sp ix off : Nat) (v : Word) : (s.setReg sp ix off v).agenda = s.agenda := rfl
@[simp] theorem State.setReg_cur (sp ix off : Nat) (v : Word) : (s.setReg sp ix off v).cur = s.cur := rfl
@[simp] theorem State.setReg_second (sp ix off : Nat) (v : Word) : (s.setReg sp ix off v).second = s.second := rfl
@[simp] theorem State.setReg_free (sp ix off : Nat) (v : Word) : (s.setReg sp ix off v).free = s.free := rfl
@[simp] theorem State.setReg_ids (sp ix off : Nat) (v : Word) : (s.setReg sp ix off v).ids = s.ids := rfl
@[simp] theorem State.setReg_stamp (sp ix off : Nat) (v : Word) : (s.setReg sp ix off v).stamp = s.stamp := rfl
@[simp] theorem State.setReg_inject (sp ix off : Nat) (v : Word) : (s.setReg sp ix off v).inject = s.inject := rfl

@[simp] theorem State.nextStamp_waves : s.nextStamp.waves = s.waves := rfl
@[simp] theorem State.nextStamp_blocks : s.nextStamp.blocks = s.blocks := rfl
@[simp] theorem State.nextStamp_gangs : s.nextStamp.gangs = s.gangs := rfl
@[simp] theorem State.nextStamp_launches : s.nextStamp.launches = s.launches := rfl
@[simp] theorem State.nextStamp_cores : s.nextStamp.cores = s.cores := rfl
@[simp] theorem State.nextStamp_bars : s.nextStamp.bars = s.bars := rfl
@[simp] theorem State.nextStamp_mem : s.nextStamp.mem = s.mem := rfl
@[simp] theorem State.nextStamp_stamps : s.nextStamp.stamps = s.stamps := rfl
@[simp] theorem State.nextStamp_copies : s.nextStamp.copies = s.copies := rfl
@[simp] theorem State.nextStamp_poisoned : s.nextStamp.poisoned = s.poisoned := rfl
@[simp] theorem State.nextStamp_loose : s.nextStamp.loose = s.loose := rfl
@[simp] theorem State.nextStamp_doomed : s.nextStamp.doomed = s.doomed := rfl
@[simp] theorem State.nextStamp_owned : s.nextStamp.owned = s.owned := rfl
@[simp] theorem State.nextStamp_moved : s.nextStamp.moved = s.moved := rfl
@[simp] theorem State.nextStamp_visible : s.nextStamp.visible = s.visible := rfl
@[simp] theorem State.nextStamp_tlb : s.nextStamp.tlb = s.tlb := rfl
@[simp] theorem State.nextStamp_ended : s.nextStamp.ended = s.ended := rfl
@[simp] theorem State.nextStamp_residents : s.nextStamp.residents = s.residents := rfl
@[simp] theorem State.nextStamp_tags : s.nextStamp.tags = s.tags := rfl
@[simp] theorem State.nextStamp_refills : s.nextStamp.refills = s.refills := rfl
@[simp] theorem State.nextStamp_partitions : s.nextStamp.partitions = s.partitions := rfl
@[simp] theorem State.nextStamp_invals : s.nextStamp.invals = s.invals := rfl
@[simp] theorem State.nextStamp_requests : s.nextStamp.requests = s.requests := rfl
@[simp] theorem State.nextStamp_holds : s.nextStamp.holds = s.holds := rfl
@[simp] theorem State.nextStamp_retraining : s.nextStamp.retraining = s.retraining := rfl
@[simp] theorem State.nextStamp_noticed : s.nextStamp.noticed = s.noticed := rfl
@[simp] theorem State.nextStamp_answer : s.nextStamp.answer = s.answer := rfl
@[simp] theorem State.nextStamp_comms : s.nextStamp.comms = s.comms := rfl
@[simp] theorem State.nextStamp_early : s.nextStamp.early = s.early := rfl
@[simp] theorem State.nextStamp_images : s.nextStamp.images = s.images := rfl
@[simp] theorem State.nextStamp_restarts : s.nextStamp.restarts = s.restarts := rfl
@[simp] theorem State.nextStamp_submits : s.nextStamp.submits = s.submits := rfl
@[simp] theorem State.nextStamp_mon : s.nextStamp.mon = s.mon := rfl
@[simp] theorem State.nextStamp_clock : s.nextStamp.clock = s.clock := rfl
@[simp] theorem State.nextStamp_cycles : s.nextStamp.cycles = s.cycles := rfl
@[simp] theorem State.nextStamp_agenda : s.nextStamp.agenda = s.agenda := rfl
@[simp] theorem State.nextStamp_cur : s.nextStamp.cur = s.cur := rfl
@[simp] theorem State.nextStamp_second : s.nextStamp.second = s.second := rfl
@[simp] theorem State.nextStamp_free : s.nextStamp.free = s.free := rfl
@[simp] theorem State.nextStamp_ids : s.nextStamp.ids = s.ids := rfl
@[simp] theorem State.nextStamp_inject : s.nextStamp.inject = s.inject := rfl

@[simp] theorem State.onPart_waves (n : Nat) (f : Partition → Partition) : (s.onPart n f).waves = s.waves := rfl
@[simp] theorem State.onPart_blocks (n : Nat) (f : Partition → Partition) : (s.onPart n f).blocks = s.blocks := rfl
@[simp] theorem State.onPart_gangs (n : Nat) (f : Partition → Partition) : (s.onPart n f).gangs = s.gangs := rfl
@[simp] theorem State.onPart_launches (n : Nat) (f : Partition → Partition) : (s.onPart n f).launches = s.launches := rfl
@[simp] theorem State.onPart_cores (n : Nat) (f : Partition → Partition) : (s.onPart n f).cores = s.cores := rfl
@[simp] theorem State.onPart_bars (n : Nat) (f : Partition → Partition) : (s.onPart n f).bars = s.bars := rfl
@[simp] theorem State.onPart_mem (n : Nat) (f : Partition → Partition) : (s.onPart n f).mem = s.mem := rfl
@[simp] theorem State.onPart_stamps (n : Nat) (f : Partition → Partition) : (s.onPart n f).stamps = s.stamps := rfl
@[simp] theorem State.onPart_copies (n : Nat) (f : Partition → Partition) : (s.onPart n f).copies = s.copies := rfl
@[simp] theorem State.onPart_poisoned (n : Nat) (f : Partition → Partition) : (s.onPart n f).poisoned = s.poisoned := rfl
@[simp] theorem State.onPart_loose (n : Nat) (f : Partition → Partition) : (s.onPart n f).loose = s.loose := rfl
@[simp] theorem State.onPart_doomed (n : Nat) (f : Partition → Partition) : (s.onPart n f).doomed = s.doomed := rfl
@[simp] theorem State.onPart_owned (n : Nat) (f : Partition → Partition) : (s.onPart n f).owned = s.owned := rfl
@[simp] theorem State.onPart_moved (n : Nat) (f : Partition → Partition) : (s.onPart n f).moved = s.moved := rfl
@[simp] theorem State.onPart_visible (n : Nat) (f : Partition → Partition) : (s.onPart n f).visible = s.visible := rfl
@[simp] theorem State.onPart_tlb (n : Nat) (f : Partition → Partition) : (s.onPart n f).tlb = s.tlb := rfl
@[simp] theorem State.onPart_ended (n : Nat) (f : Partition → Partition) : (s.onPart n f).ended = s.ended := rfl
@[simp] theorem State.onPart_residents (n : Nat) (f : Partition → Partition) : (s.onPart n f).residents = s.residents := rfl
@[simp] theorem State.onPart_tags (n : Nat) (f : Partition → Partition) : (s.onPart n f).tags = s.tags := rfl
@[simp] theorem State.onPart_refills (n : Nat) (f : Partition → Partition) : (s.onPart n f).refills = s.refills := rfl
@[simp] theorem State.onPart_invals (n : Nat) (f : Partition → Partition) : (s.onPart n f).invals = s.invals := rfl
@[simp] theorem State.onPart_requests (n : Nat) (f : Partition → Partition) : (s.onPart n f).requests = s.requests := rfl
@[simp] theorem State.onPart_holds (n : Nat) (f : Partition → Partition) : (s.onPart n f).holds = s.holds := rfl
@[simp] theorem State.onPart_retraining (n : Nat) (f : Partition → Partition) : (s.onPart n f).retraining = s.retraining := rfl
@[simp] theorem State.onPart_noticed (n : Nat) (f : Partition → Partition) : (s.onPart n f).noticed = s.noticed := rfl
@[simp] theorem State.onPart_answer (n : Nat) (f : Partition → Partition) : (s.onPart n f).answer = s.answer := rfl
@[simp] theorem State.onPart_comms (n : Nat) (f : Partition → Partition) : (s.onPart n f).comms = s.comms := rfl
@[simp] theorem State.onPart_early (n : Nat) (f : Partition → Partition) : (s.onPart n f).early = s.early := rfl
@[simp] theorem State.onPart_images (n : Nat) (f : Partition → Partition) : (s.onPart n f).images = s.images := rfl
@[simp] theorem State.onPart_restarts (n : Nat) (f : Partition → Partition) : (s.onPart n f).restarts = s.restarts := rfl
@[simp] theorem State.onPart_submits (n : Nat) (f : Partition → Partition) : (s.onPart n f).submits = s.submits := rfl
@[simp] theorem State.onPart_mon (n : Nat) (f : Partition → Partition) : (s.onPart n f).mon = s.mon := rfl
@[simp] theorem State.onPart_clock (n : Nat) (f : Partition → Partition) : (s.onPart n f).clock = s.clock := rfl
@[simp] theorem State.onPart_cycles (n : Nat) (f : Partition → Partition) : (s.onPart n f).cycles = s.cycles := rfl
@[simp] theorem State.onPart_agenda (n : Nat) (f : Partition → Partition) : (s.onPart n f).agenda = s.agenda := rfl
@[simp] theorem State.onPart_cur (n : Nat) (f : Partition → Partition) : (s.onPart n f).cur = s.cur := rfl
@[simp] theorem State.onPart_second (n : Nat) (f : Partition → Partition) : (s.onPart n f).second = s.second := rfl
@[simp] theorem State.onPart_free (n : Nat) (f : Partition → Partition) : (s.onPart n f).free = s.free := rfl
@[simp] theorem State.onPart_ids (n : Nat) (f : Partition → Partition) : (s.onPart n f).ids = s.ids := rfl
@[simp] theorem State.onPart_stamp (n : Nat) (f : Partition → Partition) : (s.onPart n f).stamp = s.stamp := rfl
@[simp] theorem State.onPart_inject (n : Nat) (f : Partition → Partition) : (s.onPart n f).inject = s.inject := rfl

end Sys2Proof.Machine
end

