-- ==== Sys2Proof/Laws/Lanes.lean ====
section
/-! SUPPORT. What an instruction that acts lane by lane does: the lanes of the path, and nothing else. -/

namespace Sys2Proof.Machine

/-! ## Threads keep their lane -/

section
variable (s : State) (r : WaveRegs) (t : Thread)
@[simp] theorem Thread.setG_lane (d : Nat) (v : Word) : (t.setG s d v).lane = t.lane := rfl
@[simp] theorem Thread.setPair_lane (d : Nat) (v : Dword) : (t.setPair s d v).lane = t.lane := rfl
@[simp] theorem Thread.setP_lane (d : Nat) (b : Bool) : (t.setP s d b).lane = t.lane := by unfold Thread.setP; split <;> rfl
@[simp] theorem Thread.park_lane : t.park.lane = t.lane := by unfold Thread.park; split <;> rfl
@[simp] theorem Thread.tackIf_lane (b : Bool) : (t.tackIf b).lane = t.lane := by unfold Thread.tackIf; split <;> simp
@[simp] theorem Thread.advance_lane (n : Nat) : (t.advance n).lane = t.lane := rfl
@[simp] theorem Thread.goto_lane (a : Dword) : (t.goto a).lane = t.lane := rfl
@[simp] theorem Thread.throws_lane (c : Nat) (k : Word) (x : Dword) : (t.throws s c k x).lane = t.lane := rfl
@[simp] theorem Thread.trap_lane (c : Word) (e : Dword) : (Thread.trap s r t c e).lane = t.lane := by
  unfold Thread.trap
  simp only
  split <;> simp
@[simp] theorem Thread.uret_lane : (t.uret s).lane = t.lane := rfl
@[simp] theorem Thread.link_lane : (t.link s).lane = t.lane := by unfold Thread.link; split <;> rfl
@[simp] theorem Thread.issue_lane (k : AccKind) (p : Place) (a : Dword) : (t.issue s k p a).lane = t.lane := rfl
@[simp] theorem Thread.markResult_lane (d n : Nat) : (t.markResult d n).lane = t.lane := rfl
end

/-- The thread an outcome is about. -/
def Out.thread : Out → Thread
  | .next t => t
  | .jump t _ => t
  | .land t => t
  | .trap t _ => t
  | .trapAfter t _ => t
  | .throw t _ _ => t
  | .rethrow t _ _ _ => t
  | .hold t _ => t

@[simp] theorem Out.apply_lane (s : State) (r : WaveRegs) (len : Nat) (tack : Bool) (o : Out) : (o.apply s r len tack).lane = o.thread.lane := by
  cases o <;> simp [Out.apply, Out.thread]

/-! ## One lane of the path -/

theorem State.flushFor_waves (s : State) (c b : Nat) : (s.flushFor c b).waves = s.waves := rfl

theorem State.wave?_onWave (s : State) (c sl : Nat) (f : Wave → Wave) (hf : ∀ w : Wave, (f w).core = w.core ∧ (f w).slot = w.slot) :
    (s.onWave c sl f).wave? c sl = (s.wave? c sl).map f := by
  unfold State.onWave State.wave?
  simp only
  induction s.waves with
  | nil => rfl
  | cons w rest ih =>
    have hk : ∀ v : Wave, (f v).isAt c sl = v.isAt c sl := by intro v; simp [Wave.isAt, hf v]
    by_cases h : w.isAt c sl = true
    · simp [List.map_cons, h, hk]
    · simp only [Bool.not_eq_true] at h
      simp only [List.map_cons, h, List.find?_cons, Bool.false_eq_true, ite_false]
      exact ih

/-- A wave found at a place is at it. -/
theorem State.wave?_isAt {s : State} {c sl : Nat} {w : Wave} (h : s.wave? c sl = some w) : w.core = c ∧ w.slot = sl := by
  have := List.find?_some h
  simpa [Wave.isAt] using this

theorem lane_find_map (l : List Thread) (n : Nat) (g : Thread → Thread) (hg : ∀ t, (g t).lane = t.lane) :
    (l.map g).find? (fun t => t.lane == n) = (l.find? (fun t => t.lane == n)).map g := by
  induction l with
  | nil => rfl
  | cons t rest ih =>
    by_cases h : (t.lane == n) = true
    · simp [hg, h]
    · simp only [Bool.not_eq_true] at h
      simp only [List.map_cons, List.find?_cons, hg, h]
      exact ih

/-- What a lane-by-lane instruction makes of the wave of its path. -/
def laneWave (s : State) (tack : Bool) (f : Wave → Thread → Out) (w : Wave) : Wave :=
  let raised := w.lanes.any (fun t => s.cur.lanes.elem t.lane && (f w t).raises)
  let w1 : Wave := { w with lanes := w.lanes.map (fun t => if s.cur.lanes.elem t.lane then (f w t).apply s w.regs s.cur.len tack else t) }
  (if raised then { w1 with regs := { w1.regs with tailrule := 0 } } else w1).settleOld

theorem laneWave_place (s : State) (tack : Bool) (f : Wave → Thread → Out) (w : Wave) :
    (laneWave s tack f w).core = w.core ∧ (laneWave s tack f w).slot = w.slot := by
  unfold laneWave
  simp only
  split <;> exact ⟨rfl, rfl⟩

theorem laneWave_lanes (s : State) (tack : Bool) (f : Wave → Thread → Out) (w : Wave) :
    (laneWave s tack f w).lanes = w.lanes.map (fun t => if s.cur.lanes.elem t.lane then (f w t).apply s w.regs s.cur.len tack else t) := by
  unfold laneWave
  simp only
  split <;> rfl

/-- The waves after a lane-by-lane instruction: that of its path changed. -/
theorem State.perLane_waves {s : State} {w : Wave} (h : s.curWave = some w) (tack : Bool) (f : Wave → Thread → Out) :
    (s.perLane tack f).waves = (s.onWave s.cur.core s.cur.slot (laneWave s tack f)).waves := by
  unfold State.perLane
  simp only [h]
  split <;> rfl

/-- WHAT A LANE-BY-LANE INSTRUCTION DOES IN A LANE OF ITS PATH. -/
theorem State.perLane_lane {s : State} {w : Wave} {th : Thread} (h : s.OnPath w th) (tack : Bool) (f : Wave → Thread → Out)
    (hf : ∀ v t, (f v t).thread.lane = t.lane) :
    (s.perLane tack f).lane? w.core w.slot th.lane = some ((f w th).apply s w.regs s.cur.len tack) := by
  obtain ⟨hw, hl, hp⟩ := h
  have hat := State.wave?_isAt (s := s) hw
  have key : (s.perLane tack f).wave? w.core w.slot = some (laneWave s tack f w) := by
    unfold State.wave?
    rw [State.perLane_waves hw, hat.1, hat.2]
    exact (State.wave?_onWave s s.cur.core s.cur.slot _ (laneWave_place s tack f)).trans (by
      rw [show s.wave? s.cur.core s.cur.slot = some w from hw]; rfl)
  unfold State.lane?
  rw [key]
  simp only [Option.bind_some, Wave.lane?]
  rw [laneWave_lanes, lane_find_map _ _ _ (by intro t; split <;> simp [hf])]
  rw [show w.lanes.find? (fun t => t.lane == th.lane) = some th from hl]
  simp [hp]

/-- The same for an instruction that names registers, all of them declared. -/
theorem State.lanes_lane {s : State} {w : Wave} {th : Thread} (h : s.OnPath w th) {regs : List Nat} (hr : s.regsOk regs) (tack : Bool)
    (f : Wave → Thread → Out) (hf : ∀ v t, (f v t).thread.lane = t.lane) :
    (s.lanes regs tack f).lane? w.core w.slot th.lane = some ((f w th).apply s w.regs s.cur.len tack) := by
  unfold State.lanes State.withRegs
  rw [if_pos (List.all_eq_true.mpr hr)]
  exact State.perLane_lane h tack f hf

/-- The thread after an instruction that completed. -/
theorem Out.apply_next (s : State) (r : WaveRegs) (len : Nat) (tack : Bool) (t : Thread) : (Out.next t).apply s r len tack = t.after len tack := by
  have ho : (t.advance len).outstanding = t.outstanding := rfl
  unfold Out.apply Thread.after Thread.tackIf Thread.park
  simp only [ho]
  cases tack <;> cases t.outstanding <;> rfl

end Sys2Proof.Machine
end

