-- ==== Sys2Proof/Laws/Sparse.lean ====
section
/-! SUPPORT. Reading and writing sparse lists: read after write, and the canonical form. -/

namespace Sys2Proof.Machine

variable {α : Type}

@[simp] theorem look_nil (x : Nat) : look ([] : List (Nat × α)) x = none := rfl

@[simp] theorem look_insertAt_same (m : List (Nat × α)) (x : Nat) (v : α) : look (insertAt m x v) x = some v := by
  induction m with
  | nil => simp [insertAt, look]
  | cons p rest ih =>
    obtain ⟨k, w⟩ := p
    simp only [insertAt]
    split
    · simp [look]
    · split
      · simp [look]
      · simp only [look]
        rw [if_neg (by omega)]
        exact ih

theorem look_insertAt_ne (m : List (Nat × α)) {x y : Nat} (v : α) (h : y ≠ x) : look (insertAt m x v) y = look m y := by
  induction m with
  | nil => simp [insertAt, look, Ne.symm h]
  | cons p rest ih =>
    obtain ⟨k, w⟩ := p
    simp only [insertAt]
    split
    · simp [look, Ne.symm h]
    · split
      · rename_i hk
        simp only [look]
        rw [if_neg (Ne.symm h), if_neg (by omega)]
      · simp only [look, ih]

theorem look_eraseAt_ne (m : List (Nat × α)) {x y : Nat} (h : y ≠ x) : look (eraseAt m x) y = look m y := by
  induction m with
  | nil => rfl
  | cons p rest ih =>
    obtain ⟨k, w⟩ := p
    simp only [eraseAt]
    split
    · rename_i hk
      simp only [look]
      rw [if_neg (by omega)]
    · simp only [look, ih]

/-- A key below every listed key is not listed. -/
theorem look_none_of_risingFrom (m : List (Nat × α)) : ∀ {n x : Nat}, risingFrom n m = true → x < n → look m x = none := by
  induction m with
  | nil => intros; rfl
  | cons p rest ih =>
    obtain ⟨k, w⟩ := p
    intro n x h hx
    simp only [risingFrom, Bool.and_eq_true, decide_eq_true_eq] at h
    simp only [look]
    rw [if_neg (by omega)]
    exact ih h.2 (by omega)

theorem risingFrom_mono (m : List (Nat × α)) {n k : Nat} (h : risingFrom n m = true) (hk : k ≤ n) : risingFrom k m = true := by
  cases m with
  | nil => rfl
  | cons p rest =>
    obtain ⟨a, w⟩ := p
    simp only [risingFrom, Bool.and_eq_true, decide_eq_true_eq] at h ⊢
    exact ⟨by omega, h.2⟩

theorem risingFrom_insertAt (m : List (Nat × α)) (x : Nat) (v : α) :
    ∀ {n : Nat}, risingFrom n m = true → n ≤ x → risingFrom n (insertAt m x v) = true := by
  induction m with
  | nil => intro n _ hn; simp [insertAt, risingFrom, hn]
  | cons p rest ih =>
    obtain ⟨k, w⟩ := p
    intro n h hn
    simp only [risingFrom, Bool.and_eq_true, decide_eq_true_eq] at h
    simp only [insertAt]
    split
    · simp only [risingFrom, Bool.and_eq_true, decide_eq_true_eq]
      exact ⟨hn, by omega, h.2⟩
    · split
      · rename_i hk
        simp only [risingFrom, Bool.and_eq_true, decide_eq_true_eq]
        exact ⟨hn, by rw [hk]; exact h.2⟩
      · simp only [risingFrom, Bool.and_eq_true, decide_eq_true_eq]
        exact ⟨h.1, ih h.2 (by omega)⟩

theorem risingFrom_eraseAt (m : List (Nat × α)) (x : Nat) : ∀ {n : Nat}, risingFrom n m = true → risingFrom n (eraseAt m x) = true := by
  induction m with
  | nil => intros; rfl
  | cons p rest ih =>
    obtain ⟨k, w⟩ := p
    intro n h
    simp only [risingFrom, Bool.and_eq_true, decide_eq_true_eq] at h
    simp only [eraseAt]
    split
    · exact risingFrom_mono rest h.2 (by omega)
    · simp only [risingFrom, Bool.and_eq_true, decide_eq_true_eq]
      exact ⟨h.1, ih h.2⟩

theorem look_eraseAt_same (m : List (Nat × α)) (x : Nat) : ∀ {n : Nat}, risingFrom n m = true → look (eraseAt m x) x = none := by
  induction m with
  | nil => intros; rfl
  | cons p rest ih =>
    obtain ⟨k, w⟩ := p
    intro n h
    simp only [risingFrom, Bool.and_eq_true, decide_eq_true_eq] at h
    simp only [eraseAt]
    split
    · rename_i hk
      exact look_none_of_risingFrom rest h.2 (by omega)
    · rename_i hk
      simp only [look]
      rw [if_neg hk]
      exact ih h.2

theorem all_insertAt (m : List (Nat × α)) (x : Nat) (v : α) (p : Nat × α → Bool) (hm : m.all p = true) (hv : p (x, v) = true) :
    (insertAt m x v).all p = true := by
  induction m with
  | nil => simp [insertAt, hv]
  | cons q rest ih =>
    obtain ⟨k, w⟩ := q
    simp only [List.all_cons, Bool.and_eq_true] at hm
    simp only [insertAt]
    split
    · simp [hv, hm.1, hm.2]
    · split
      · simp [hv, hm.2]
      · simp [hm.1, ih hm.2]

theorem all_eraseAt (m : List (Nat × α)) (x : Nat) (p : Nat × α → Bool) (hm : m.all p = true) : (eraseAt m x).all p = true := by
  induction m with
  | nil => rfl
  | cons q rest ih =>
    obtain ⟨k, w⟩ := q
    simp only [List.all_cons, Bool.and_eq_true] at hm
    simp only [eraseAt]
    split
    · exact hm.2
    · simp [hm.1, ih hm.2]

variable [DecidableEq α]

/-- Setting a key keeps the canonical form. -/
theorem canonical_setD (m : List (Nat × α)) (d : α) (x : Nat) (v : α) (h : canonical d m = true) : canonical d (setD m d x v) = true := by
  simp only [canonical, Bool.and_eq_true] at h
  simp only [setD]
  split
  · simp only [canonical, Bool.and_eq_true]
    exact ⟨risingFrom_eraseAt m x h.1, all_eraseAt m x _ h.2⟩
  · rename_i hv
    simp only [canonical, Bool.and_eq_true]
    exact ⟨risingFrom_insertAt m x v h.1 (Nat.zero_le x), all_insertAt m x v _ h.2 (by simp [hv])⟩

/-- Reading a key that was set. -/
theorem getD_setD_same (m : List (Nat × α)) (d : α) (x : Nat) (v : α) (h : canonical d m = true) : getD (setD m d x v) d x = v := by
  simp only [canonical, Bool.and_eq_true] at h
  simp only [setD]
  split
  · rename_i hv
    simp [getD, look_eraseAt_same m x h.1, hv]
  · simp [getD]

/-- Reading another key. -/
theorem getD_setD_ne (m : List (Nat × α)) (d : α) {x y : Nat} (v : α) (h : y ≠ x) : getD (setD m d x v) d y = getD m d y := by
  simp only [setD]
  split
  · simp [getD, look_eraseAt_ne m h]
  · simp [getD, look_insertAt_ne m v h]


omit [DecidableEq α] in
@[simp] theorem getD_insertAt_same (m : List (Nat × α)) (d : α) (x : Nat) (v : α) : getD (insertAt m x v) d x = v := by simp [getD]

omit [DecidableEq α] in
theorem getD_insertAt_ne (m : List (Nat × α)) (d : α) {x y : Nat} (v : α) (h : y ≠ x) : getD (insertAt m x v) d y = getD m d y := by
  simp [getD, look_insertAt_ne m v h]

end Sys2Proof.Machine
end

