-- ==== Sys2Proof/Laws/Memory.lean ====
section
/-! SUPPORT. Memory: what a read gives after a write, and that every operation over memory keeps its canonical form. -/

namespace Sys2Proof.Machine

/-! ## One byte -/

theorem readMem_writeMem_same (m : List Host.Cell) (pa : Nat) (b : Byte) (h : memWf m = true) : readMem (writeMem m pa b) pa = b :=
  getD_setD_same m 0#8 pa b h

theorem readMem_writeMem_ne (m : List Host.Cell) {pa x : Nat} (b : Byte) (h : x ≠ pa) : readMem (writeMem m pa b) x = readMem m x :=
  getD_setD_ne m 0#8 b h

theorem memWf_writeMem (m : List Host.Cell) (pa : Nat) (b : Byte) (h : memWf m = true) : memWf (writeMem m pa b) = true :=
  canonical_setD m 0#8 pa b h

/-! ## The home -/

/-- What a write at the home does to memory: the byte is there if its place is not before that of the last write, else nothing. -/
theorem State.homeWrite_mem (s : State) (gang : Option Nat) (pa : Nat) (b : Byte) (stamp : Nat) :
    (s.homeWrite gang pa b stamp).mem = if getD s.stamps 0 pa ≤ stamp then writeMem s.mem pa b else s.mem := by
  unfold State.homeWrite
  split
  · cases gang with
    | none => rfl
    | some g => dsimp only; split <;> rfl
  · rfl

theorem State.homeWrite_stamps (s : State) (gang : Option Nat) (pa : Nat) (b : Byte) (stamp : Nat) :
    (s.homeWrite gang pa b stamp).stamps = if getD s.stamps 0 pa ≤ stamp then setD s.stamps 0 pa stamp else s.stamps := by
  unfold State.homeWrite
  split
  · cases gang with
    | none => rfl
    | some g => dsimp only; split <;> rfl
  · rfl

theorem State.homeWrite_stamp (s : State) (gang : Option Nat) (pa : Nat) (b : Byte) (stamp : Nat) :
    (s.homeWrite gang pa b stamp).stamp = s.stamp := by
  unfold State.homeWrite
  split
  · cases gang with
    | none => rfl
    | some g => dsimp only; split <;> rfl
  · rfl

theorem State.homeWrite_wf (s : State) (gang : Option Nat) (pa : Nat) (b : Byte) (stamp : Nat) (h : memWf s.mem = true) :
    memWf (s.homeWrite gang pa b stamp).mem = true := by
  rw [State.homeWrite_mem]
  split
  · exact memWf_writeMem _ _ _ h
  · exact h

theorem State.bind_mem (s : State) (pa n : Nat) : (s.bind pa n).mem = s.mem := by
  unfold State.bind
  split
  · split <;> rfl
  · rfl
theorem State.bind_comms (s : State) (pa n : Nat) : (s.bind pa n).comms = s.comms := by
  unfold State.bind
  split
  · split <;> rfl
  · rfl
theorem State.bind_cores (s : State) (pa n : Nat) : (s.bind pa n).cores = s.cores := by
  unfold State.bind
  split
  · split <;> rfl
  · rfl
theorem State.bind_stamps (s : State) (pa n : Nat) : (s.bind pa n).stamps = s.stamps := by
  unfold State.bind
  split
  · split <;> rfl
  · rfl

theorem State.homeWriteBytes_wf (gang : Option Nat) (bs : List Byte) :
    ∀ (s : State) (pa : Nat), memWf s.mem = true → memWf (s.homeWriteBytes gang pa bs).mem = true := by
  induction bs with
  | nil => intro s pa h; exact h
  | cons b rest ih =>
    intro s pa h
    refine ih _ _ ?_
    rw [State.bind_mem]
    exact State.homeWrite_wf _ _ _ _ _ h

/-- A write at the home leaves the communicators and the tiles as they are. -/
theorem State.homeWrite_comms (s : State) (gang : Option Nat) (pa : Nat) (b : Byte) (stamp : Nat) :
    (s.homeWrite gang pa b stamp).comms = s.comms := by
  unfold State.homeWrite
  split
  · cases gang with
    | none => rfl
    | some g => dsimp only; split <;> rfl
  · rfl

theorem keepOld_tiles (k : Core) (pa : Nat) (old : Byte) : (keepOld k pa old).tiles = k.tiles := by
  unfold keepOld
  split <;> rfl

theorem State.homeWrite_tiles (s : State) (gang : Option Nat) (pa : Nat) (b : Byte) (stamp : Nat) :
    (s.homeWrite gang pa b stamp).cores.map (fun c => c.2.tiles) = s.cores.map (fun c => c.2.tiles) := by
  have e : (s.homeWrite gang pa b stamp).cores =
      if getD s.stamps 0 pa ≤ stamp then s.cores.map (fun p => (p.1, if isDevice pa then keepOld p.2 pa (readMem s.mem pa) else p.2)) else s.cores := by
    unfold State.homeWrite
    split
    · cases gang with
      | none => rfl
      | some g => by_cases d : isDevice pa = true <;> simp [d, State.onGang]
    · rfl
  rw [e]
  split
  · rw [List.map_map]
    refine List.map_congr_left (fun p _ => ?_)
    dsimp only [Function.comp]
    split
    · exact keepOld_tiles _ _ _
    · rfl
  · rfl

theorem State.homeWriteBytes_comms (gang : Option Nat) (bs : List Byte) :
    ∀ (s : State) (pa : Nat), (s.homeWriteBytes gang pa bs).comms = s.comms := by
  induction bs with
  | nil => intro s pa; rfl
  | cons b rest ih => intro s pa; exact (ih _ _).trans ((State.bind_comms _ _ _).trans (State.homeWrite_comms _ _ _ _ _))

theorem State.homeWriteBytes_tiles (gang : Option Nat) (bs : List Byte) :
    ∀ (s : State) (pa : Nat), (s.homeWriteBytes gang pa bs).cores.map (fun c => c.2.tiles) = s.cores.map (fun c => c.2.tiles) := by
  induction bs with
  | nil => intro s pa; rfl
  | cons b rest ih => intro s pa; exact (ih _ _).trans ((congrArg (List.map _) (State.bind_cores _ _ _)).trans (State.homeWrite_tiles _ _ _ _ _))

/-- A fold of an operation that keeps the form keeps it. -/
theorem foldl_wf {α : Type} (f : State → α → State) (hf : ∀ s x, memWf s.mem = true → memWf (f s x).mem = true) (l : List α) :
    ∀ s : State, memWf s.mem = true → memWf (l.foldl f s).mem = true := by
  induction l with
  | nil => intro s h; exact h
  | cons x rest ih => intro s h; exact ih _ (hf s x h)

/-! ## Views -/

theorem State.viewWrite_mem (c gang : Nat) (bs : List Byte) : ∀ (s : State) (pa : Nat), (s.viewWrite c gang pa bs).mem = s.mem := by
  induction bs with
  | nil => intro s pa; rfl
  | cons b rest ih => intro s pa; exact (ih _ _).trans rfl

theorem State.orderOwn_mem (s : State) (c : Nat) (p : Nat → Bool) : (s.orderOwn c p).mem = s.mem := rfl

theorem State.placeByte_wf (s : State) (c gang sc pa : Nat) (w : ViewWrite) (h : memWf s.mem = true) :
    memWf (s.placeByte c gang sc pa w).mem = true := by
  unfold State.placeByte
  dsimp only
  split
  · exact State.homeWrite_wf _ _ _ _ _ h
  · exact h

theorem State.flushOverlay_wf (s : State) (g : Nat) (h : memWf s.mem = true) : memWf (s.flushOverlay g).mem = true := by
  unfold State.flushOverlay
  split
  · exact foldl_wf (fun (t : State) (p : Nat × Placed) => t.homeWrite (some g) p.1 p.2.val p.2.stamp)
      (fun s x hs => State.homeWrite_wf s _ _ _ _ hs) _ s h
  · exact h

theorem State.flushByte_wf (s : State) (g pa : Nat) (h : memWf s.mem = true) : memWf (s.flushByte g pa).mem = true := by
  unfold State.flushByte
  split
  · exact State.homeWrite_wf _ _ _ _ _ h
  · exact h

theorem State.covered_mem (s : State) (c : Nat) : (s.covered c).mem = s.mem := by
  unfold State.covered
  generalize s.loose = l
  have key : ∀ (m : List (Nat × Nat)) (u : State) (f : State → Nat × Nat → Nat), (m.foldl (fun t p => t.bind p.1 (f s p)) u).mem = u.mem := by
    intro m
    induction m with
    | nil => intro u f; rfl
    | cons p rest ih => intro u f; exact (ih _ f).trans (State.bind_mem _ _ _)
  exact key l s (fun s p => ((look (s.core c).snap p.1).map (fun q => q.stamp)).getD (s.lastStamp p.1))

theorem State.publish_wf (s : State) (c gang sc : Nat) (hasGang : Bool) (h : memWf s.mem = true) :
    memWf (s.publish c gang sc hasGang).mem = true := by
  unfold State.publish
  split
  · rw [State.orderOwn_mem]; exact h
  · have h1 := foldl_wf (fun (t : State) (p : Nat × ViewWrite) => t.placeByte c gang sc p.1 p.2)
      (fun s x hs => State.placeByte_wf s _ _ _ _ _ hs) (s.core c).writes s h
    rw [State.covered_mem]
    exact foldl_wf State.flushOverlay (fun s x hs => State.flushOverlay_wf s x hs) _ _ h1

theorem State.refresh_mem (s : State) (c sc : Nat) (hasGang : Bool) : (s.refresh c sc hasGang).mem = s.mem := by
  unfold State.refresh
  split
  · rfl
  · dsimp only; split <;> rfl

/-! ## Scratchpads and copies of remote memory -/

theorem State.padWrite_mem (blk : Nat) (bs : List Byte) : ∀ (s : State) (off : Nat), (s.padWrite blk off bs).mem = s.mem := by
  induction bs with
  | nil => intro s off; rfl
  | cons b rest ih => intro s off; exact (ih _ _).trans rfl

theorem State.writePlace_mem (s : State) (c gang : Nat) (pl : Place) (bs : List Byte) : (s.writePlace c gang pl bs).mem = s.mem := by
  cases pl with
  | phys pa => exact State.viewWrite_mem c gang bs s pa
  | pad b off => exact State.padWrite_mem b bs s off

theorem State.fill_wf (s : State) (pa : Nat) (data : List Byte) (h : memWf s.mem = true) : memWf (s.fill pa data).mem = true := by
  unfold State.fill
  refine foldl_wf _ (fun t i ht => ?_) _ _ h
  split
  · exact ht
  · exact memWf_writeMem _ _ _ ht

theorem State.sendDirty_mem (s : State) (who : Issuer) (join : Bool) (p : Nat → Bool) : (s.sendDirty who join p).1.mem = s.mem := rfl

theorem State.setOwner_mem (s : State) (vf : Nat) (pas : List Nat) : (s.setOwner vf pas).mem = s.mem := rfl

theorem State.devStore_wf (s : State) (vf pa : Nat) (bs : List Byte) (h : memWf s.mem = true) : memWf (s.devStore vf pa bs).mem = true := by
  unfold State.devStore
  dsimp only
  split
  · rw [State.sendDirty_mem, State.setOwner_mem]; exact State.homeWriteBytes_wf _ _ _ _ h
  · rw [State.setOwner_mem]; exact State.homeWriteBytes_wf _ _ _ _ h

theorem State.devWriteLong_wf (vf fuel : Nat) :
    ∀ (s : State) (va : Nat) (bs : List Byte), memWf s.mem = true → memWf (s.devWriteLong vf fuel va bs).mem = true := by
  induction fuel with
  | zero => intro s va bs h; exact h
  | succ n ih =>
    intro s va bs h
    unfold State.devWriteLong
    dsimp only
    split
    · exact h
    · refine ih _ _ _ ?_
      split
      · exact h
      · exact State.devStore_wf _ _ _ _ h

theorem State.devWrite_wf (s : State) (vf va : Nat) (bs : List Byte) (h : memWf s.mem = true) : memWf (s.devWrite vf va bs).mem = true :=
  State.devWriteLong_wf _ _ _ _ _ h

theorem State.homeScatter_wf (s : State) (pas : List Nat) (data : List Byte) (h : memWf s.mem = true) :
    memWf (s.homeScatter pas data).mem = true :=
  foldl_wf (fun (t : State) (i : Nat) => t.homeWriteBytes none (pas.getD i 0) [data.getD i 0])
    (fun t _ ht => State.homeWriteBytes_wf none _ t _ ht) _ s h

/-! ## Ordered accesses and breaches -/

theorem State.loosen_mem (s : State) (pa : Nat) : (s.loosen pa).mem = s.mem := rfl

theorem State.snapTake_mem (s : State) (c pa : Nat) (ps : List Placed) : (s.snapTake c pa ps).mem = s.mem := rfl

theorem State.placeOwn_wf (s : State) (c gang sc : Nat) (hasGang : Bool) (pa len : Nat) (h : memWf s.mem = true) :
    memWf (s.placeOwn c gang sc hasGang pa len).mem = true := by
  unfold State.placeOwn
  split
  · exact h
  · refine foldl_wf _ (fun t i ht => ?_) _ s h
    have h1 : memWf (match look (t.core c).writes (pa + i) with
      | some w => (t.loosen (pa + i)).placeByte c gang sc (pa + i) w
      | none => t).mem = true := by
      split
      · exact State.placeByte_wf _ _ _ _ _ _ ht
      · exact ht
    exact foldl_wf _ (fun u g hu => State.flushByte_wf u g _ hu) _ _ h1

theorem State.memoWrite_wf (s : State) (c gang sc : Nat) (hasGang : Bool) (pa : Nat) (data : List Byte) (h : memWf s.mem = true) :
    memWf (s.memoWrite c gang sc hasGang pa data).mem = true := by
  unfold State.memoWrite
  split
  · rw [State.orderOwn_mem, State.viewWrite_mem]; exact h
  · rw [State.snapTake_mem]
    refine foldl_wf _ (fun t i ht => ?_) _ _ h
    dsimp only
    split
    · exact State.homeWrite_wf _ _ _ _ _ ht
    · exact ht

theorem State.scramble_wf (s : State) (pa k : Nat) (h : memWf s.mem = true) : memWf (s.scramble pa k).mem = true :=
  State.homeWrite_wf _ _ _ _ _ h

theorem State.strikeBarriers_wf (s : State) (hit : Place → Bool) (h : memWf s.mem = true) : memWf (s.strikeBarriers hit).mem = true := by
  refine foldl_wf _ (fun t pl ht => ?_) _ s h
  split
  · rw [State.padWrite_mem]; exact ht
  · exact ht

theorem State.breach_wf (s : State) (pas : List Nat) (h : memWf s.mem = true) : memWf (s.breach pas).mem = true := by
  unfold State.breach
  refine foldl_wf _ (fun t c ht => ?_) _ s h
  refine foldl_wf _ (fun u x hu => ?_) _ t ht
  rw [State.onCore_mem]
  refine foldl_wf _ (fun v i hv => ?_) _ u hu
  split
  · exact State.scramble_wf _ _ _ hv
  · exact hv

theorem State.strikeChunks_wf (s : State) (pas : List Nat) (h : memWf s.mem = true) : memWf (s.strikeChunks pas).mem = true := by
  unfold State.strikeChunks
  refine foldl_wf _ (fun t c ht => ?_) _ s h
  refine foldl_wf _ (fun u x hu => ?_) _ t ht
  refine foldl_wf _ (fun v ch hv => ?_) _ u hu
  rw [State.onComm_mem]
  refine foldl_wf _ (fun y i hy => ?_) _ v hv
  split
  · exact State.scramble_wf _ _ _ hy
  · exact hy

/-- What a store or a copy has written keeps the form, whatever it has breached. -/
theorem State.unsettle_wf (s : State) (pas : List Nat) (h : memWf s.mem = true) : memWf (s.unsettle pas).mem = true :=
  foldl_wf _ (fun t _ ht => State.scramble_wf t _ _ ht) _ s h
theorem State.overwrite_wf (s : State) (pls : List Place) (was : State) (h : memWf s.mem = true) : memWf (s.overwrite pls was).mem = true :=
  State.unsettle_wf _ _ (State.strikeChunks_wf _ _ (State.breach_wf _ _ (State.strikeBarriers_wf _ _ h)))

end Sys2Proof.Machine
end

