-- ==== Sys2Proof/Tests/Slice0.lean ====
section
/-! SUPPORT. The model's own tests: for every statement a state that meets its hypotheses, words of the encodings, terms that WellFormed
refuses, single steps. -/

namespace Sys2Proof.Tests
set_option Elab.async false
open Sys2Proof.Machine Sys2Proof.Claims

/-! ## Small states -/

/-- A live lane at the placed address, all its registers 0. -/
def lane (l : Nat) : Thread := Thread.start l true placeVa
/-- The placed wave, of some lanes. -/
def wave (ts : List Thread) : Wave := { placeWave with lanes := ts }
/-- The placed state with one wave of which some lanes issue. -/
def path (w : Wave) (ls : List Nat) : State :=
  { State.reset.place [] with waves := [w], cur := ⟨0, 0, placeVa, 4, ls, false⟩, agenda := [] }
def w1 : Wave := wave [lane 0]
def s1 : State := path w1 [0]
/-- Two lanes, both of the path. -/
def w2 : Wave := { wave [lane 0, lane 1] with regs := { w1.regs with s := [(0, 3#32)] } }
def s2 : State := path w2 [0, 1]

theorem regsOk_of (s : State) (rs : List Nat) (h : rs.all s.regOk = true) : s.regsOk rs := by simpa [State.regsOk] using h
theorem sReady_of (w : Wave) (rs : List Nat) (h : (rs.all fun r => r == 63 || !w.regs.tok.testBit r) = true) : w.sReady rs := by
  simpa [Wave.sReady] using h
theorem orderly_of (s : State) (h : memWf s.mem = true) (k : s.stamps = []) : Orderly s := ⟨h, fun x => by rw [k]; exact Nat.zero_le _⟩
theorem s1_path : s1.OnPath w1 (lane 0) := ⟨by decide +kernel, by decide +kernel, by decide +kernel⟩
theorem s2_path : s2.OnPath w2 (lane 1) := ⟨by decide +kernel, by decide +kernel, by decide +kernel⟩

/-! ## The hypotheses of the statements can be met -/

theorem witness_IntegerTwoSources : IntTwo (.shl 1 126 127 true) 1 126 127 true (fun x y => low (x.toNat * 2 ^ (y.toNat % 32))) ∧
    s1.OnPath w1 (lane 0) ∧ s1.regsOk [1, 126, 127] := ⟨.shl _ _ _ _, s1_path, regsOk_of _ _ (by decide +kernel)⟩

theorem witness_IntegerOneSource : (IntOne (.ctz 0 126 false) 0 126 false
      (fun x => low (((List.range 32).takeWhile (fun i => !x.toNat.testBit i)).length)) ∧ s1.OnPath w1 (lane 0) ∧ s1.regsOk [0, 126]) ∧
    (IntConst (.li5 63 16) 63 false (low (-16)) ∧ s1.regsOk [63]) :=
  ⟨⟨.ctz _ _ _, s1_path, regsOk_of _ _ (by decide +kernel)⟩, .li5 63 16, regsOk_of _ _ (by decide +kernel)⟩

theorem witness_IntegerAccumulate : (IntThree (.mad 1 1 1 true) 1 1 1 true (fun z x y => low (z.toNat + x.toNat * y.toNat)) ∧ s1.OnPath w1 (lane 0) ∧
      s1.regsOk [1, 1, 1]) ∧
    (IntPair (.mad64n 124 124 125 true) 124 124 125 true (fun z x y => z.toNat + x.toNat * y.toNat) ∧ s1.regsOk [124, 125, 124, 125]) ∧ s1.regsOk [1, 2, 3] :=
  ⟨⟨.mad _ _ _ _, s1_path, regsOk_of _ _ (by decide +kernel)⟩, ⟨.mad64n _ _ _ _, regsOk_of _ _ (by decide +kernel)⟩, regsOk_of _ _ (by decide +kernel)⟩

/-- A division by 0, its condition enabled and not. -/
def wDiv : Wave := { w1 with regs := { w1.regs with itrap := 1 } }
theorem witness_Division : Divides (.remn 1 2 3 true) 1 2 3 true
      (fun x y => if y.toNat = 0 then (x.toNat, 1#32) else (x.toNat % y.toNat, 0#32)) ∧
    (s1.OnPath w1 (lane 0) ∧ s1.regsOk [1, 2, 3] ∧ (1#32 &&& w1.regs.itrap? s1) = 0) ∧
    (path wDiv [0]).OnPath wDiv (lane 0) ∧ (1#32 &&& wDiv.regs.itrap? (path wDiv [0])) ≠ 0 :=
  ⟨.remn _ _ _ _, ⟨s1_path, regsOk_of _ _ (by decide +kernel), by decide +kernel⟩, ⟨by decide +kernel, by decide +kernel, by decide +kernel⟩, by decide +kernel⟩

theorem witness_Predicates : (CmpTwo (.icmpLt 7 1 126 true) 7 1 126 true (fun x y => decide (x.toInt < y.toInt)) ∧ s1.OnPath w1 (lane 0) ∧ s1.regsOk [1, 126]) ∧
    CmpOne (.icmpiGen 0 1 0x200 true) 0 1 0x200 true (fun x y => decide (y.toNat ≤ x.toNat)) ∧
    PredTwo (.pnot 6 7 true) 6 7 7 true (fun x _ => !x) ∧ s1.regsOk [1] ∧ s1.regsOk [1, 2, 3] :=
  ⟨⟨.icmpLt _ _ _ _, s1_path, regsOk_of _ _ (by decide +kernel)⟩, .icmpiGen _ _ _ _, .pnot _ _ _, regsOk_of _ _ (by decide +kernel),
    regsOk_of _ _ (by decide +kernel)⟩

theorem witness_FloatResults : s1.OnPath w1 (lane 0) ∧ FpTwo (.fmax 1 2 3 true) 1 2 3 true (fun _ x y => minMax true x y) ∧
    FpThree (.dot2h 1 2 3 true) 1 2 3 true (dot2 ieee16) ∧ FpOne (.rcp 1 2 true) 1 2 true rcpW ∧ s1.regsOk [1, 2, 3] ∧ s1.regsOk [1, 2] :=
  ⟨s1_path, .fmax _ _ _ _, .dot2h _ _ _ _, .rcp _ _ _, regsOk_of _ _ (by decide +kernel), regsOk_of _ _ (by decide +kernel)⟩

/-- The largest finite number, the smallest, and the words 2 and 1 as numbers: in the sum and in the product operands of every exponent. -/
def edgy : Thread := { lane 0 with g := [(1, 1#32), (2, 0x7F7FFFFF#32), (3, 0x80000001#32)] }
theorem witness_FloatRounding : (path (wave [edgy]) [0]).OnPath (wave [edgy]) edgy ∧ (wave [edgy]).regs.ftrap? (path (wave [edgy]) [0]) = 0 ∧
    (path (wave [edgy]) [0]).regsOk [1, 2, 3] ∧ finite (edgy.g? (path (wave [edgy]) [0]) 2) ∧ finite (edgy.g? (path (wave [edgy]) [0]) 3) ∧
    finite (edgy.g? (path (wave [edgy]) [0]) 1) :=
  ⟨⟨by rfl, by rfl, List.Mem.head _⟩, by decide +kernel, regsOk_of _ _ (by decide +kernel), by unfold finite; decide +kernel, by unfold finite; decide +kernel,
   by unfold finite; decide +kernel⟩

/-- A comparison with a quiet NaN, NV enabled. -/
def wNan : Wave := { wave [{ lane 0 with g := [(2, 0x7FC00000#32)] }] with regs := { w1.regs with ftrap := fNV } }
theorem witness_FloatCompare : FpCompare (.fcmpLt 1 2 3 true) 1 2 3 true (fun x y => !(x.isNan || y.isNan) && x.ltv y) true ∧
    (s1.OnPath w1 (lane 0) ∧ s1.regsOk [2, 3]) ∧ (path wNan [0]).OnPath wNan { lane 0 with g := [(2, 0x7FC00000#32)] } ∧
    (f32 0x7FC00000#32).isNan = true ∧ (wNan.regs.ftrap? (path wNan [0]) &&& fNV) ≠ 0 :=
  ⟨.fcmpLt _ _ _ _, ⟨s1_path, regsOk_of _ _ (by decide +kernel)⟩, ⟨by decide +kernel, by decide +kernel, by decide +kernel⟩, by decide +kernel, by decide +kernel⟩

theorem s2_gathered : Gathered s2 w2 0 := ⟨by decide +kernel, by decide +kernel, by decide +kernel, by decide +kernel, sReady_of _ _ (by decide +kernel)⟩
/-- TOPK at K = 0 (k = 1): lane 0 is of rank 0, lane 1 of rank 1. -/
theorem witness_CrossLaneResults : (Cross (.voteAny 1 7 0 true) [] 0 true (opP 7) opNone (fun _ ms _ _ _ => (.p 1 (ms.any (fun b => b.2.1 == 1)), 0)) ∧
      s2.OnPath w2 (lane 1) ∧ s2.regsOk [] ∧ Gathered s2 w2 0) ∧ s2.regsOk [1, 2, 3] ∧ s2.OnPath w2 (lane 0) ∧
    ((members s2 w2 0 (opG 3) opNone).filter (fun b => decide (b.1 < 0))).length ≤ 0 ∧
    0 < ((members s2 w2 0 (opG 3) opNone).filter (fun b => decide (b.1 < 1))).length :=
  ⟨⟨.voteAny _ _ _ _, s2_path, regsOk_of _ _ (by decide +kernel), s2_gathered⟩, regsOk_of _ _ (by decide +kernel),
    ⟨by decide +kernel, by decide +kernel, by decide +kernel⟩, by decide +kernel, by decide +kernel⟩

/-- Lane 1 issues alone: a member that waits for lane 0; under a mask of lane 0 alone, no member. -/
def sAlone : State := path w2 [1]
theorem witness_CrossLaneWaits : Cross (.lsetLive 1 0 true) [1] 0 true opNone opNone (fun _ ms _ _ _ => (.g 1 (word (fun i => ms.any (fun b => b.1 == i))), 0)) ∧
    (sAlone.OnPath w2 (lane 1) ∧ (lane 1).wait = .no ∧ sAlone.regsOk [1] ∧ w2.sReady [0] ∧ (w2.regs.s? 0).getLsbD 1 = true ∧
      ∃ u ∈ w2.lanes, u.live = true ∧ (w2.regs.s? 0).getLsbD u.lane = true ∧ u.lane ∉ sAlone.cur.lanes ∧ u.wait = .no) ∧
    w2.sReady [1] ∧ (w2.regs.s? 1).getLsbD 1 = false :=
  ⟨.lsetLive _ _ _, ⟨⟨by decide +kernel, by decide +kernel, by decide +kernel⟩, rfl, regsOk_of _ _ (by decide +kernel), sReady_of _ _ (by decide +kernel),
    by decide +kernel, by decide +kernel⟩, sReady_of _ _ (by decide +kernel), by decide +kernel⟩

/-- A lane with a write of the link register outstanding. -/
def linkDue : Thread := { lane 0 with marks := [127] }
theorem witness_Branches : s1.OnPath w1 (lane 0) ∧ s1.regsOk [126, 127] ∧ s1.regsOk [0, 1] ∧ 127 ∉ (lane 0).marks ∧
    (path (wave [linkDue]) [0]).OnPath (wave [linkDue]) linkDue ∧ 127 ∈ linkDue.marks :=
  ⟨s1_path, regsOk_of _ _ (by decide +kernel), regsOk_of _ _ (by decide +kernel), by decide +kernel, ⟨by rfl, by rfl, List.Mem.head _⟩, by decide +kernel⟩

/-- The bytes after a LOOP are zeros, which are instructions of two bytes: bodies of 1, of 256 and of 257 instructions; a body of one halfword
that is the first of a 32-bit instruction; a level in use. -/
def loopy : State := { s1 with mem := writeMem s1.mem 0x3004 0x03#8 }
def lvl (ctr : Nat) : LoopLevel := ⟨ctr, placeVa, placeVa, placeVa⟩
def counting (ls : List LoopLevel) (lc : Regs) : Wave := wave [{ lane 0 with loops := ls, lc := lc, endChk := true }]
theorem witness_Loops :
    (s1.OnPath w1 (lane 0) ∧ s1.cur.len = 4 ∧ s1.regsOk [1] ∧ s1.walkBody 0 2 2 (placeVa + 4) 1 0 (placeVa + 4) = (1, placeVa + 4, true)) ∧
    s1.walkBody 0 2 258 (placeVa + 4) 257 0 (placeVa + 4) = (257, placeVa + 516, true) ∧
    loopy.walkBody 0 2 2 (placeVa + 4) 1 0 (placeVa + 4) = (1, placeVa + 4, false) ∧
    (let w := counting [lvl 0] [(0, 2)]
     let t : Thread := { lane 0 with loops := [lvl 0], lc := [(0, 2)], endChk := true }
     (path w []).wave? 0 0 = some w ∧ w.lane? 0 = some t ∧ t.live = true ∧ (lvl 0).fin = t.pc ∧ 1 < (getD t.lc 0 (lvl 0).ctr).toNat) ∧
    (let w := counting [lvl 0, lvl 1] [(0, 1), (1, 2)]
     let t : Thread := { lane 0 with loops := [lvl 0, lvl 1], lc := [(0, 1), (1, 2)], endChk := true }
     (path w []).wave? 0 0 = some w ∧ w.lane? 0 = some t ∧ (getD t.lc 0 (lvl 0).ctr).toNat ≤ 1 ∧ (lvl 1).fin = t.pc ∧
       (lvl 1).ctr ≠ (lvl 0).ctr ∧ 1 < (getD t.lc 0 (lvl 1).ctr).toNat) ∧
    (let o : LoopLevel := ⟨2, placeVa, placeVa, placeVa + 2⟩
     let w := counting [o, lvl 0] [(0, 2)]
     let t : Thread := { lane 0 with loops := [o, lvl 0], lc := [(0, 2)], endChk := true }
     (path w []).wave? 0 0 = some w ∧ w.lane? 0 = some t ∧ t.loops = [o] ++ lvl 0 :: [] ∧ o.fin ≠ t.pc ∧ 1 < (getD t.lc 0 (lvl 0).ctr).toNat) :=
  ⟨⟨s1_path, rfl, regsOk_of _ _ (by decide +kernel), by decide +kernel⟩, by decide +kernel, by decide +kernel, by decide +kernel, by decide +kernel,
   by decide +kernel⟩

/-- Seam 7: lane 0 of two enrolled; both enrolled with lane 1 waiting; lane 1 waiting alone. -/
def seam (e v : Word) (ts : List Thread) : Wave := { wave ts with regs := { w1.regs with seamE := setD [] 0 7 e, seamW := setD [] 0 7 v } }
def waiting : Thread := { lane 1 with wait := .seam 7 0 true }
def wBoth : Wave := seam 3 2 [lane 0, waiting]
def late : State := { path (seam 3 2 [lane 0, waiting]) [] with cycles := 4096 }
theorem witness_Seams :
    ((path (seam 1 0 [lane 0, lane 1]) [1]).OnPath (seam 1 0 [lane 0, lane 1]) (lane 1) ∧
      (getD (seam 1 0 [lane 0, lane 1]).regs.seamE 0 7).getLsbD 1 = false ∧ (getD (seam 1 0 [lane 0, lane 1]).regs.seamW 0 7).getLsbD 1 = false ∧ s1.regsOk [126]) ∧
    ((path (seam 3 0 [lane 0, lane 1]) [1]).OnPath (seam 3 0 [lane 0, lane 1]) (lane 1) ∧
      (getD (seam 3 0 [lane 0, lane 1]).regs.seamW 0 7 ||| ((path (seam 3 0 [lane 0, lane 1]) [1]).curMask &&& 3#32)) ≠ 3#32) ∧
    ((path wBoth [0]).OnPath wBoth (lane 0) ∧ (getD wBoth.regs.seamW 0 7 ||| ((path wBoth [0]).curMask &&& 3#32)) = 3#32 ∧
      canonical (0 : Word) wBoth.regs.seamW = true ∧ canonical (0 : Word) wBoth.regs.seamE = true ∧ (lane 0).wait = .no ∧
      (getD wBoth.regs.seamW 0 7 &&& ~~~(path wBoth [0]).curMask) = (getD wBoth.regs.seamE 0 7 &&& ~~~(path wBoth [0]).curMask)) ∧
    ((path (seam 3 0 [lane 0, lane 1]) [1]).curMask = 2#32) ∧
    late.wave? 0 0 = some wBoth ∧ wBoth.lane? 1 = some waiting ∧ waiting.wait = .seam 7 0 true ∧ (∃ g, late.gangOf 2 = some g ∧ g.stop = false) ∧
    4096 ≤ late.clockOf 0 - 0 ∧ (2#32 : Word) &&& ~~~((1#32 : Word) <<< 1) ≠ 3#32 &&& ~~~((1#32 : Word) <<< 1) :=
  ⟨⟨⟨by decide +kernel, by decide +kernel, by decide +kernel⟩, by decide +kernel, by decide +kernel, regsOk_of _ _ (by decide +kernel)⟩,
   ⟨⟨by decide +kernel, by decide +kernel, by decide +kernel⟩, by decide +kernel⟩,
   ⟨⟨by decide +kernel, by decide +kernel, by decide +kernel⟩, by decide +kernel, by decide +kernel, by decide +kernel, rfl, by decide +kernel⟩,
   by decide +kernel, by decide +kernel, by decide +kernel, rfl, ⟨placeGang, by decide +kernel, rfl⟩, by decide +kernel, by decide +kernel⟩

/-- Both lanes; and lane 1 alone, lane 0 staying. -/
theorem witness_ExitEnds : s2.OnPath w2 (lane 1) ∧ (∀ u ∈ w2.lanes, u.lane ∈ s2.cur.lanes → u.acc = [] ∧ u.wait = .no ∧ u.pc = s2.cur.pc) ∧
    (∀ u ∈ w2.lanes, u.live = true → u.lane ∈ s2.cur.lanes) ∧
    (sAlone.OnPath w2 (lane 1) ∧ 0 ∉ sAlone.cur.lanes ∧ w2.lane? 0 = some (lane 0) ∧ (lane 0).live = true ∧ (lane 0).wait = .no ∧
      canonical (0 : Word) w2.regs.seamE = true ∧ canonical (0 : Word) w2.regs.seamW = true) :=
  ⟨s2_path, by decide +kernel, by decide +kernel, ⟨by decide +kernel, by decide +kernel, by decide +kernel⟩, by decide +kernel, by decide +kernel, rfl, rfl,
   by decide +kernel, by decide +kernel⟩

/-- No region, one, and eight: the most. -/
def region (l : Nat) : Region := ⟨l, placeVa, placeVa⟩
def inTry (rs : List Region) : Thread := { lane 0 with regions := rs }
def wTry (rs : List Region) : Wave := wave [inTry rs]
theorem tryPath (rs : List Region) : (path (wTry rs) [0]).OnPath (wTry rs) (inTry rs) :=
  ⟨by rfl, by rfl, List.Mem.head _⟩
theorem witness_TryRegions :
    ((path (wTry []) [0]).OnPath (wTry []) (inTry []) ∧ (path (wTry []) [0]).images = [] ∧ (wTry []).fresh ∧ (path (wTry []) [0]).levelBad (wTry []) 0 = false ∧
      (path (wTry []) [0]).waves.filter ((path (wTry []) [0]).sameGroup 0 (wTry [])) = [wTry []] ∧
      (∀ u ∈ (wTry []).lanes, u.live = true → u.lane ∈ (path (wTry []) [0]).cur.lanes ∧ u.pc = (inTry []).pc) ∧
      ∀ u ∈ (wTry []).lanes, u.live = true → u.regions.length < 8 ∧ ∀ r, u.regions.head? = some r → 0 ≤ r.level) ∧
    ((path (wTry (List.replicate 8 (region 0))) [0]).OnPath (wTry (List.replicate 8 (region 0))) (inTry (List.replicate 8 (region 0))) ∧
      8 ≤ (inTry (List.replicate 8 (region 0))).regions.length) ∧
    ((path (wTry [region 0]) [0]).OnPath (wTry [region 0]) (inTry [region 0]) ∧ (∃ r, (inTry [region 0]).regions.head? = some r ∧ r.level < 1) ∧
      (path (wTry [region 0]) [0]).waves.filter ((path (wTry [region 0]) [0]).sameGroup 0 (wTry [region 0])) = [wTry [region 0]] ∧
      ∀ u ∈ (wTry [region 0]).lanes, u.live = true → ∃ x, u.regions.head? = some x ∧ x.level = 0 ∧ x.tryPc = placeVa) :=
  ⟨⟨tryPath _, by decide +kernel, (fun _ h => nomatch h), by decide +kernel, by decide +kernel, by decide +kernel, fun u h _ => by
      rw [List.mem_singleton.mp h]; exact ⟨by decide, fun _ _ => Nat.zero_le _⟩⟩,
   ⟨tryPath _, by decide +kernel⟩, tryPath _, ⟨region 0, rfl, by decide⟩, by decide +kernel, fun u h _ => by
      rw [List.mem_singleton.mp h]; exact ⟨region 0, rfl, rfl, rfl⟩⟩

theorem witness_Throws : s1.OnPath w1 (lane 0) ∧ s1.regsOk [126] := ⟨s1_path, regsOk_of _ _ (by decide +kernel)⟩

/-- In the handler of a SILENT trap, and of another. -/
def handling (silent : Bool) : Thread := { lane 0 with handler := true, hsilent := silent, ucause := if silent then 10 else 3, uepc := 0x8040003008#64 }
def wHandler (silent : Bool) (l : Option Lining) : Wave := { wave [handling silent] with lining := l, regs := { w1.regs with utvec := 0x8040004000#64 } }
def lined : Lining := { slot := 1, ckRegs := w1.regs, ckLanes := [lane 0], log := [], replay := [], saved := [], failed := false }
theorem handlerPath (b : Bool) (l : Option Lining) : (path (wHandler b l) [0]).OnPath (wHandler b l) (handling b) := ⟨by rfl, by rfl, List.Mem.head _⟩
theorem witness_Traps :
    (s1.OnPath w1 (lane 0) ∧ w1.regs.old = [] ∧ w1.regs.utvec = 0 ∧ (lane 0).pc.getLsbD 0 = false ∧
      ((lane 0).pc + BitVec.ofNat 64 s1.cur.len).getLsbD 0 = false) ∧
    ((path (wHandler false none) [0]).OnPath (wHandler false none) (handling false) ∧ (wHandler false none).regs.utvec ≠ 0 ∧
      (handling false).handler = true ∧ (handling false).hsilent = false ∧ 1121 ∉ (handling false).marks ∧ (handling false).uepc.getLsbD 0 = false) ∧
    (lane 0).handler = false ∧ (∀ u ∈ w1.lanes, u.lane ∈ s1.cur.lanes → u.handler = false) ∧
    (1122 ∉ (handling false).marks ∧ (handling false).ucause.toNat % 256 ≠ 10 ∧ (wHandler false none).lining = none) ∧
    ((path (wHandler true none) [0]).OnPath (wHandler true none) (handling true) ∧ 1122 ∉ (handling true).marks ∧ (handling true).ucause.toNat % 256 = 10 ∧
      (wHandler true none).lining = none) ∧
    (path (wHandler true (some lined)) [0]).OnPath (wHandler true (some lined)) (handling true) ∧ (wHandler true (some lined)).lining = some lined ∧
      lined.saved = [] ∧ lined.ckLanes.find? (fun x => x.lane == (lane 0).lane) = some (lane 0) ∧ ∀ k b, (lane 0).wait ≠ .barrier k b :=
  ⟨⟨s1_path, rfl, rfl, by decide +kernel, by decide +kernel⟩, ⟨handlerPath _ _, by decide +kernel, rfl, rfl, by decide +kernel, by decide +kernel⟩, rfl,
   by decide +kernel, ⟨by decide +kernel, by decide +kernel, rfl⟩, ⟨handlerPath _ _, by decide +kernel, by decide +kernel, rfl⟩, handlerPath _ _, rfl, rfl, by decide +kernel, fun _ _ h => by cases h⟩

/-- $laneid (0x000) of the map, 0x3FF outside it, the pair 0x061, and the $clock of a path of one lane. -/
theorem witness_SpecialRegisters : s1.OnPath w1 (lane 0) ∧ s1.regsOk [126, 127] ∧ s1.regsOk [126] ∧ s1.special w1 (lane 0) 0x3FF = none ∧
    s1.special w1 (lane 0) 0x061 = some 0 ∧ (lane 0).specialPending 0x061 = false ∧ (∃ v, s1.special w1 (lane 0) 0x009 = some v) ∧
    s1.cur.lanes = [(lane 0).lane] ∧ w1.lining = none ∧
    (w1.lanes.find? (fun x => s1.cur.lanes.elem x.lane)).map (fun x => x.lane) = some (lane 0).lane :=
  ⟨s1_path, regsOk_of _ _ (by decide +kernel), regsOk_of _ _ (by decide +kernel), by decide +kernel, by decide +kernel, by decide +kernel,
   ⟨BitVec.ofNat 64 (2 ^ 40), by decide +kernel⟩, by decide +kernel, rfl, by decide +kernel⟩

/-- Asleep until cycle 5, which has come, and which has not. -/
def asleep : Thread := { lane 0 with wait := .sleep 5 5 false }
/-- A launch whose record enables debug halts. -/
def debuggable : State := { s1 with launches := s1.launches.map (fun p => (p.1, { p.2 with prog := { p.2.prog with lrec := { p.2.prog.lrec with flags := 4 } } })) }
theorem witness_Advances : (s1.OnPath w1 (lane 0) ∧ (lane 0).wait = .no ∧ s1.regsOk [126] ∧ s1.regsOk [126, 127] ∧ s1.cur.lanes = [(lane 0).lane] ∧
      w1.lining = none ∧ s1.samples 0 0 0 = false ∧ (∀ v ∈ s1.waves, v.core = 0 → v.slot / 32 = 0 → v.active = true) ∧ (s1.waveRec w1).debug = false) ∧
    (debuggable.OnPath w1 (lane 0) ∧ (debuggable.waveRec w1).debug = true ∧ (∃ g l, debuggable.gangOf 2 = some g ∧ debuggable.launch? g.launch = some l) ∧
      ∀ k ∈ debuggable.gangs, k.2.id = k.1) ∧
    (path (wave [asleep]) []).wave? 0 0 = some (wave [asleep]) ∧ (wave [asleep]).lane? 0 = some asleep ∧ asleep.wait = .sleep 5 5 false :=
  ⟨⟨s1_path, rfl, regsOk_of _ _ (by decide +kernel), regsOk_of _ _ (by decide +kernel), by decide +kernel, rfl, by decide +kernel, by decide +kernel, by decide +kernel⟩,
   ⟨⟨by decide +kernel, by decide +kernel, by decide +kernel⟩, by decide +kernel, ⟨placeGang, _, by decide +kernel, rfl⟩, by decide +kernel⟩, by decide +kernel, by decide +kernel, rfl⟩

/-! ## Memory -/

theorem noSpills_of (s : State) (h : (s.cores.all fun c => c.2.tiles.isEmpty) = true) : NoSpills s := fun c m x n => by
  have e := List.isEmpty_iff.mp (List.all_eq_true.mp h c m)
  rw [e] at n
  cases n
theorem noAreas_of (s : State) (h : (s.cores.all fun c => c.2.tiles.isEmpty) = true) (k : s.comms = []) : NoAreas s :=
  ⟨noSpills_of s h, fun c m => by rw [k] at m; cases m⟩

/-- The placed wave with s2:s3 an address of the mapped page, or another, and s4 a scratch address. -/
def wAt (va a : Nat) (ts : List Thread) : Wave :=
  { wave ts with regs := { w1.regs with s := setD (setD (setD [] 0 2 (BitVec.ofNat 32 va)) 0 3 (BitVec.ofNat 32 (va / 2 ^ 32))) 0 4 (BitVec.ofNat 32 a) } }
/-- The state with a scratchpad of 256 bytes, and a constant bank 1 of 5 bytes. -/
def padded (s : State) : State :=
  { s with
    blocks := [(2, { placeBlock with padSize := 256 })]
    launches := [(0, { placeLaunch with prog := { placeProg with banks := [(1, 0x8040005000, 5)] } })] }
def pageVa : Nat := 0x8040004000
def sAt (va a : Nat) : State := padded (path (wAt va a [lane 0]) [0])
theorem atPath (va a : Nat) : (sAt va a).OnPath (wAt va a [lane 0]) (lane 0) := ⟨by rfl, by rfl, List.Mem.head _⟩

/-- The last doubleword of the mapped page and of the scratchpad; a bank that is absent, and one that ends inside the doubleword. -/
theorem witness_LoadsAndStoresIssue : (sAt (0x8080000000 - 8) 248).OnPath (wAt (0x8080000000 - 8) 248 [lane 0]) (lane 0) ∧
    (sAt (0x8080000000 - 8) 248).regsOk [5, 6, 7] ∧ (wAt (0x8080000000 - 8) 248 [lane 0]).sReady [2, 3] ∧ (wAt (0x8080000000 - 8) 248 [lane 0]).sReady [4] ∧
    (sAt (0x8080000000 - 8) 248).resolve 2 (0x807FFFFFF8#64 + (0#32).setWidth 64) 8 false = .at (.phys 0x3FFFFFF8) ∧
    (sAt (0x8080000000 - 8) 248).resolve 2 (0x807FFFFFF8#64 + (0#32).setWidth 64) 8 true = .at (.phys 0x3FFFFFF8) ∧
    ((sAt 0 249).OnPath (wAt 0 249 [lane 0]) (lane 0) ∧ (sAt 0 249).regsOk [5, 6, 7] ∧ (wAt 0 249 [lane 0]).sReady [4] ∧
      ((wAt 0 249 [lane 0]).regs.s? 4 + (lane 0).g? (sAt 0 249) 5).toNat % 8 ≠ 0) ∧
    248 % 8 = 0 ∧ (sAt (0x8080000000 - 8) 248).padAt 2 248 = some (2, 248) ∧
    (∃ p, (sAt 0 0).progOf 2 = some p ∧ p.banks.find? (fun k => k.1 == 248 / 2 ^ 16 % 16) = none ∧
      p.banks.find? (fun k => k.1 == 0x10000 / 2 ^ 16 % 16) = some (1, 0x8040005000, 5) ∧ 0x10004 % 2 ^ 16 < 5 ∧ 5 ≤ 0x10005 % 2 ^ 16) ∧
    (∀ va a, (wAt va a [lane 0]).fresh ∧ (sAt va a).poisoned = [] ∧ NoSpills (sAt va a) ∧ (sAt va a).Agrees (wAt va a [lane 0])) :=
  ⟨atPath _ _, regsOk_of _ _ (by decide +kernel), sReady_of _ _ (by decide +kernel), sReady_of _ _ (by decide +kernel), by decide +kernel, by decide +kernel,
   ⟨atPath _ _, regsOk_of _ _ (by decide +kernel), sReady_of _ _ (by decide +kernel), by decide +kernel⟩, by decide,
   by decide +kernel, ⟨{ placeProg with banks := [(1, 0x8040005000, 5)] }, by decide +kernel, by decide +kernel, by decide +kernel, by decide, by decide⟩,
   fun _ _ => ⟨fun _ h => (nomatch h), rfl, noSpills_of _ rfl, .inl rfl⟩⟩

/-- A lease beyond what is mapped. -/
def leasing : State := { sAt 0x8080000000 0 with launches := [(0, { placeLaunch with prog := { placeProg with ranges := [⟨0x8040000000, 2 ^ 31, 3⟩] } })] }
theorem witness_AddressChecks : (sAt 0x8040004001 1).OnPath (wAt 0x8040004001 1 [lane 0]) (lane 0) ∧ (sAt 0x8040004001 1).regsOk [5, 6, 7] ∧
    (wAt 0x8040004001 1 [lane 0]).sReady [2, 3] ∧ (wAt 0x8040004001 1 [lane 0]).sReady [4] ∧ 0x8040004001 % 2 ≠ 0 ∧
    ¬(2 ^ 56 / 2 ^ 56 = 0 ∨ 2 ^ 56 / 2 ^ 56 = 255) ∧ ((sAt (2 ^ 56) 256).OnPath (wAt (2 ^ 56) 256 [lane 0]) (lane 0) ∧ (sAt (2 ^ 56) 256).padAt 2 256 = none) ∧
    ((sAt 0x8080000000 0).windowOf 0x8080000000 = none ∧ ∀ r ∈ (sAt 0x8080000000 0).leaseOf 2, ¬(r.va ≤ 0x8080000000 ∧ 0x8080000000 < r.va + r.len)) ∧
    (leasing.OnPath (wAt 0x8080000000 0 [lane 0]) (lane 0) ∧ leasing.windowOf 0x8080000000 = none ∧
      (∃ r ∈ leasing.leaseOf 2, r.va ≤ 0x8080000000 ∧ 0x8080000000 < r.va + r.len ∧ r.flags.testBit 0 = true) ∧
      ∃ k l, leasing.translate 0 0x8080000000#64 true false = .fail k l) ∧ ∀ va a, (sAt va a).Agrees (wAt va a [lane 0]) :=
  ⟨atPath _ _, regsOk_of _ _ (by decide +kernel), sReady_of _ _ (by decide +kernel), sReady_of _ _ (by decide +kernel), by decide, by decide,
   ⟨atPath _ _, by decide +kernel⟩, ⟨by decide +kernel, by decide +kernel⟩, ⟨⟨by rfl, by rfl, List.Mem.head _⟩, by decide +kernel, by decide +kernel, 1, 2, by decide +kernel⟩, fun _ _ => .inl rfl⟩

/-- A lane parked by a tack with one access. -/
def with_ (k : AccKind) (pl : Place) : Thread :=
  { lane 0 with wait := .tack, marks := [5, 6], acc := [⟨placeVa, k, pl, 0, none, none, 0, 0, none, false⟩] }
def wWith (k : AccKind) (pl : Place) : Wave := wave [with_ k pl]
def sWith (k : AccKind) (pl : Place) : State := padded (path (wWith k pl) [])
theorem performable (k : AccKind) (pl : Place) : Performable (sWith k pl) 0 0 (wWith k pl) (with_ k pl) 0 ⟨placeVa, k, pl, 0, none, none, 0, 0, none, false⟩ :=
  ⟨by rfl, by rfl, by rfl, by cases k <;> simp [State.mayPerform], rfl, .inr rfl⟩

/-- Its registers 5 and 6 are awaited once. -/
theorem once_with (k : AccKind) (pl : Place) {d size : Nat} (h : [5, 6].count d ≤ 1 ∧ (size = 8 → [5, 6].count (d + 1) ≤ 1)) : Once (with_ k pl) 0 d size := by
  intro m e
  rw [show ((with_ k pl).marks :: ((with_ k pl).acc.drop 1).filterMap (fun a => a.back.map (fun r => r.marks))) = [[5, 6]] from rfl, List.mem_singleton] at e
  rw [e]; exact h

/-- A state without tiles, and without communicators, guards nothing. -/
theorem noSpill_of (s : State) (pls : List Place) (h : (s.cores.all fun c => c.2.tiles.isEmpty) = true) : NoSpill s pls := fun c m x n => by
  have e := List.isEmpty_iff.mp (List.all_eq_true.mp h c m)
  rw [e] at n
  cases n
theorem noChunk_of (s : State) (pls : List Place) (h : s.comms = []) : NoChunk s pls := fun k m => by
  rw [h] at m
  cases m
theorem noChunkAfter_of (s : State) (pa n : Nat) (pls : List Place) (h : s.comms = []) : NoChunkAfter s pa n pls := fun m _ => noChunk_of { s with mem := m } pls h
/-- With no table of allowances, and no lane waiting at an edge, nothing is misused. -/
theorem noMisuse_of (s : State) (pls : List Place) (h : (s.tableFns.isEmpty && s.launches.all (fun l => l.2.edgeVas.isEmpty) &&
    s.waves.all (fun w => w.lanes.all (fun t => match t.wait with | .epush _ => false | _ => true))) = true) : NoMisuse s pls := by
  simp only [Bool.and_eq_true, List.isEmpty_iff, List.all_eq_true] at h
  unfold NoMisuse State.misused
  rw [List.filter_eq_nil_iff]
  intro pa _
  rw [h.1.1, Bool.not_eq_true, Bool.or_eq_false_iff]
  refine ⟨rfl, ?_⟩
  unfold State.inEdge
  rw [Bool.or_eq_false_iff, List.any_eq_false, List.any_eq_false]
  refine ⟨fun l m => by rw [h.1.2 l m]; simp, fun w m => ?_⟩
  rw [Bool.not_eq_true, List.any_eq_false]
  intro t n
  have e := h.2 w m t n
  split at e
  · cases e
  · split
    · rename_i p q r; exact absurd r (by simp_all)
    · simp
theorem noBarrier_of (s : State) (pls : List Place) (h : s.namedBarriers = []) : NoBarrier s pls := fun b m => by
  rw [h] at m
  cases m

/-- A pair loaded from memory, of which the core wrote one byte, and from the end of a scratchpad. -/
def viewed (k : AccKind) (pl : Place) : State := { sWith k pl with cores := [(0, { Core.reset with writes := [(0x4003, ⟨0x80, 1, none⟩)] })] }
def owned : State := viewed (.load 8 false 5) (.phys 0x4000)
theorem witness_LoadReturns : (Performable owned 0 0 (wWith (.load 8 false 5) (.phys 0x4000)) (with_ (.load 8 false 5) (.phys 0x4000)) 0
      ⟨placeVa, .load 8 false 5, .phys 0x4000, 0, none, none, 0, 0, none, false⟩ ∧ owned.poisoned = [] ∧ isRemote 0x4000 = false ∧ (look (owned.core 0).writes 0x4003).isSome ∧
      NoSpill owned (Access.places ⟨placeVa, .load 8 false 5, .phys 0x4000, 0, none, none, 0, 0, none, false⟩) ∧
      Once (with_ (.load 8 false 5) (.phys 0x4000)) 0 5 8) ∧
    (Performable (sWith (.load 8 false 5) (.pad 2 248)) 0 0 (wWith (.load 8 false 5) (.pad 2 248)) (with_ (.load 8 false 5) (.pad 2 248)) 0
      ⟨placeVa, .load 8 false 5, .pad 2 248, 0, none, none, 0, 0, none, false⟩ ∧ Once (with_ (.load 8 false 5) (.pad 2 248)) 0 5 8) :=
  ⟨⟨⟨by rfl, by rfl, by rfl, by rfl, rfl, .inr rfl⟩, rfl, by decide +kernel, by decide +kernel, noSpill_of _ _ (by decide +kernel), once_with _ _ (by decide)⟩, performable _ _, once_with _ _ (by decide)⟩

theorem witness_StorePerforms : Performable (sWith (.store [1, 2]) (.phys 0x4000)) 0 0 (wWith (.store [1, 2]) (.phys 0x4000))
      (with_ (.store [1, 2]) (.phys 0x4000)) 0 ⟨placeVa, .store [1, 2], .phys 0x4000, 0, none, none, 0, 0, none, false⟩ ∧
    Performable (sWith (.store [1, 2]) (.pad 2 254)) 0 0 (wWith (.store [1, 2]) (.pad 2 254)) (with_ (.store [1, 2]) (.pad 2 254)) 0
      ⟨placeVa, .store [1, 2], .pad 2 254, 0, none, none, 0, 0, none, false⟩ ∧
    (∃ k, (sWith (.store [1, 2]) (.pad 2 254)).block? 2 = some k ∧ canonical (0 : Byte) k.pad = true) ∧
    ∀ pl pls, NoSpill (sWith (.store [1, 2]) pl) pls ∧ NoChunk (sWith (.store [1, 2]) pl) pls ∧ NoBarrier (sWith (.store [1, 2]) pl) pls ∧
      NoMisuse (sWith (.store [1, 2]) pl) pls :=
  ⟨performable _ _, performable _ _, ⟨_, rfl, by decide +kernel⟩, fun _ _ => ⟨noSpill_of _ _ rfl, noChunk_of _ _ rfl, noBarrier_of _ _ rfl, noMisuse_of _ _ rfl⟩⟩

/-- A pair in g4:g5 that is an address of the page, or of host memory, for a function that forbids scope .tenant, and one that does not. -/
def addressed (va : Nat) : Thread := { lane 0 with g := [(4, BitVec.ofNat 32 va), (5, BitVec.ofNat 32 (va / 2 ^ 32))] }
def policy (s : State) (n : Nat) : State := { s with mon := { s.mon with regs := [(regKey 2 0 44, BitVec.ofNat 32 n)] } }
def sMemo (n : Nat) : State := policy (path (wave [addressed pageVa]) [0]) n
theorem memoPath (n : Nat) : (sMemo n).OnPath (wave [addressed pageVa]) (addressed pageVa) := ⟨by rfl, by rfl, List.Mem.head _⟩
/-- The leaf of the tables maps CXL memory. -/
def cxl : State := { sMemo 3 with mem := writeMem (sMemo 3).mem 0x200E 0x80#8 }
theorem witness_MemoIssues : Memo (.cas 8 4 true 3 4 true) .cas 8 4 true 3 4 true ∧
    ((sMemo 0).OnPath (wave [addressed pageVa]) (addressed pageVa) ∧ (sMemo 0).regsOk [4, 5, 8, 9, 10, 11] ∧ (sMemo 0).scopeForbidden 0 4 = true) ∧
    ((sMemo 1).scopeForbidden 0 4 = false ∧ (sMemo 1).resolve 2 ((addressed pageVa).pair? (sMemo 1) 4) 8 true = .at (.phys 0x4000) ∧
      (sMemo 1).carries 0x4000 .cas 4 = true) ∧
    (cxl.OnPath (wave [addressed pageVa]) (addressed pageVa) ∧ Memo (.cas 8 4 true 3 5 true) .cas 8 4 true 3 5 true ∧ cxl.scopeForbidden 0 5 = false ∧
      cxl.resolve 2 ((addressed pageVa).pair? cxl 4) 8 true = .at (.phys 0x80000000004000) ∧ cxl.carries 0x80000000004000 .cas 5 = false) ∧
    (sMemo 1).Agrees (wave [addressed pageVa]) :=
  ⟨.cas _ _ _ _ _ _, ⟨memoPath _, regsOk_of _ _ (by decide +kernel), by decide +kernel⟩, ⟨by decide +kernel, by decide +kernel, by decide +kernel⟩,
   ⟨⟨by rfl, by rfl, List.Mem.head _⟩, .cas _ _ _ _ _ _, by decide +kernel, by decide +kernel, by decide +kernel⟩, .inl rfl⟩

/-- A launch with gangs. -/
def gangRec : LaunchRec :=
  { placeRec with levels := [BitVec.ofNat 32 (2 ^ 16 + 16), BitVec.ofNat 32 (2 ^ 16 + 17), BitVec.ofNat 32 (2 ^ 16 + 34)], l := 3 }
def ganged (s : State) : State := { s with launches := [(0, { placeLaunch with prog := { placeProg with lrec := gangRec } })] }
/-- A byte at 0x4001 in the instance of the one gang. -/
def layered (s : State) : State := { s with gangs := [(1, { placeGang with overlay := [(0x4001, ⟨9, 0⟩)] })] }
/-- An ordered access of 4 bytes with scope code `sc`. -/
def ordered (op : MemoOp) (sc : Nat) : AccKind := .memo op 4 5 0xFFFFFFFF 0 sc
/-- A CAS of 8 bytes in the scratchpad; a decrement of 4 at the home with scope code 5, in the core's view with code 1, which holds a write of one of its
bytes, and in the gang's instance with code 2; an LDO with no write uncovered. -/
theorem witness_MemoPerforms :
    (Performable (sWith (.memo .cas 8 5 0 7 1) (.pad 2 248)) 0 0 (wWith (.memo .cas 8 5 0 7 1) (.pad 2 248)) (with_ (.memo .cas 8 5 0 7 1) (.pad 2 248)) 0
      ⟨placeVa, .memo .cas 8 5 0 7 1, .pad 2 248, 0, none, none, 0, 0, none, false⟩ ∧ (7#64).toNat < 2 ^ (8 * 8) ∧
      Once (with_ (.memo .cas 8 5 0 7 1) (.pad 2 248)) 0 5 8 ∧
      ∃ k, (sWith (.memo .cas 8 5 0 7 1) (.pad 2 248)).block? 2 = some k ∧ canonical (0 : Byte) k.pad = true) ∧
    (let k : AccKind := ordered .dec 5
     Performable (sWith k (.phys 0x4000)) 0 0 (wWith k (.phys 0x4000)) (with_ k (.phys 0x4000)) 0 ⟨placeVa, k, .phys 0x4000, 0, none, none, 0, 0, none, false⟩ ∧
     (0xFFFFFFFF#64).toNat < 2 ^ (8 * 4) ∧ Once (with_ k (.phys 0x4000)) 0 5 4 ∧ (∀ i < 4, isRemote (0x4000 + i) = false) ∧
     (sWith k (.phys 0x4000)).poisoned = [] ∧ Orderly (sWith k (.phys 0x4000)) ∧
     (∀ i < 4, look ((sWith k (.phys 0x4000)).core 0).writes (0x4000 + i) = none) ∧ (∀ p ∈ (sWith k (.phys 0x4000)).gangs, p.2.overlay = []) ∧
     ∀ pls, NoSpill (sWith k (.phys 0x4000)) pls ∧ NoChunkAfter (sWith k (.phys 0x4000)) 0x4000 4 pls ∧ NoMisuse (sWith k (.phys 0x4000)) pls) ∧
    (Performable (viewed (ordered .dec 1) (.phys 0x4000)) 0 0 (wWith (ordered .dec 1) (.phys 0x4000)) (with_ (ordered .dec 1) (.phys 0x4000)) 0
      ⟨placeVa, ordered .dec 1, .phys 0x4000, 0, none, none, 0, 0, none, false⟩ ∧ Orderly (viewed (ordered .dec 1) (.phys 0x4000)) ∧
      ∀ pls, NoSpill (viewed (ordered .dec 1) (.phys 0x4000)) pls ∧ NoChunkAfter (viewed (ordered .dec 1) (.phys 0x4000)) 0x4000 4 pls ∧
        NoMisuse (viewed (ordered .dec 1) (.phys 0x4000)) pls) ∧
    (let s := layered (ganged (sWith (ordered .dec 2) (.phys 0x4000)))
     Performable s 0 0 (wWith (ordered .dec 2) (.phys 0x4000)) (with_ (ordered .dec 2) (.phys 0x4000)) 0
      ⟨placeVa, ordered .dec 2, .phys 0x4000, 0, none, none, 0, 0, none, false⟩ ∧ (s.recOf 2).hasGang = true ∧ s.gangId 2 = 1 ∧
      s.gang? 1 = some { placeGang with overlay := [(0x4001, ⟨9, 0⟩)] } ∧ (∀ i < 4, look (s.core 0).writes (0x4000 + i) = none) ∧
      (∀ g ∈ s.gangsOn 0, g = 1) ∧ Orderly s ∧ s.poisoned = [] ∧
      ∀ pls, NoSpill s pls ∧ NoChunkAfter s 0x4000 4 pls ∧ NoMisuse s pls) ∧
    (let s := layered (ganged (sWith (ordered .ldo 2) (.phys 0x4000)))
     Performable s 0 0 (wWith (ordered .ldo 2) (.phys 0x4000)) (with_ (ordered .ldo 2) (.phys 0x4000)) 0
      ⟨placeVa, ordered .ldo 2, .phys 0x4000, 0, none, none, 0, 0, none, false⟩ ∧ s.loose = []) :=
  ⟨⟨performable _ _, by decide, once_with _ _ (by decide), _, rfl, by decide +kernel⟩,
   ⟨performable _ _, by decide, once_with _ _ (by decide), by decide +kernel, rfl, orderly_of _ (by decide +kernel) rfl,
     by decide +kernel, by decide +kernel, fun _ => ⟨noSpill_of _ _ rfl, noChunkAfter_of _ _ _ _ rfl, noMisuse_of _ _ (by decide +kernel)⟩⟩,
   ⟨⟨by rfl, by rfl, by rfl, by rfl, rfl, .inr rfl⟩, orderly_of _ (by decide +kernel) rfl,
     fun _ => ⟨noSpill_of _ _ (by decide +kernel), noChunkAfter_of _ _ _ _ rfl, noMisuse_of _ _ (by decide +kernel)⟩⟩,
   ⟨⟨by rfl, by rfl, by rfl, by rfl, rfl, .inr rfl⟩, by decide +kernel, by decide +kernel, by rfl, by decide +kernel, by decide +kernel, orderly_of _ (by decide +kernel) rfl, rfl,
     fun _ => ⟨noSpill_of _ _ rfl, noChunkAfter_of _ _ _ _ rfl, noMisuse_of _ _ (by decide +kernel)⟩⟩,
   ⟨by rfl, by rfl, by rfl, by rfl, rfl, .inr rfl⟩, rfl⟩

theorem witness_Phases : ((sMemo 0).OnPath (wave [addressed pageVa]) (addressed pageVa) ∧ (sMemo 0).scopeForbidden 0 5 = true ∧ (sMemo 0).scopeForbidden 0 3 = false) ∧
    (∀ n, Performable (sWith (.publish n) (.phys 0)) 0 0 (wWith (.publish n) (.phys 0)) (with_ (.publish n) (.phys 0)) 0 ⟨placeVa, .publish n, .phys 0, 0, none, none, 0, 0, none, false⟩ ∧
      Performable (sWith (.refresh n) (.phys 0)) 0 0 (wWith (.refresh n) (.phys 0)) (with_ (.refresh n) (.phys 0)) 0 ⟨placeVa, .refresh n, .phys 0, 0, none, none, 0, 0, none, false⟩ ∧
      ∀ p ∈ (sWith (.publish n) (.phys 0)).gangs, p.2.overlay = []) ∧
    ((ganged (sWith (.publish 2) (.phys 0))).recOf 2).hasGang = true ∧
    (Performable (viewed (.publish 4) (.phys 0)) 0 0 (wWith (.publish 4) (.phys 0)) (with_ (.publish 4) (.phys 0)) 0 ⟨placeVa, .publish 4, .phys 0, 0, none, none, 0, 0, none, false⟩ ∧
      Orderly (viewed (.publish 4) (.phys 0)) ∧ risingFrom 0 ((viewed (.publish 4) (.phys 0)).core 0).writes = true ∧
      look ((viewed (.publish 4) (.phys 0)).core 0).writes 0x4003 = some ⟨0x80, 1, none⟩) :=
  ⟨⟨memoPath _, by decide +kernel, by decide +kernel⟩, fun _ => ⟨performable _ _, performable _ _, fun _ h => by
    rw [List.mem_singleton.mp h]; rfl⟩, by decide +kernel, ⟨by rfl, by rfl, by rfl, by rfl, rfl, .inr rfl⟩, orderly_of _ (by decide +kernel) rfl,
    by decide +kernel, by decide +kernel⟩

/-- A write of the core, in a launch with gangs and in one without; a byte that the gang's instance alone holds. -/
theorem witness_UnaskedUpdates : (risingFrom 0 (owned.core 0).writes = true ∧ look (owned.core 0).writes 0x4003 = some ⟨0x80, 1, none⟩ ∧ owned.gangHas 1 = false ∧
      memWf owned.mem = true ∧ canonical (0 : Nat) owned.stamps = true ∧ ∀ p ∈ owned.gangs, p.2.overlay = []) ∧
    ((ganged owned).gangHas 1 = true ∧ (ganged owned).gang? 1 = some placeGang ∧ look ((ganged owned).core 0).writes 0x4003 = some ⟨0x80, 1, none⟩) ∧
    (let s := layered owned
     look (s.core 0).writes 0x4001 = none ∧ 1 ∈ s.gangsOn 0 ∧ s.gang? 1 = some { placeGang with overlay := [(0x4001, ⟨9, 0⟩)] } ∧
     (∀ p ∈ s.gangs, p.1 = 1) ∧ memWf s.mem = true ∧ risingFrom 0 [(0x4001, (⟨9, 0⟩ : Placed))] = true ∧ getD s.stamps 0 0x4001 ≤ 0) := by decide +kernel

/-! ## Engines -/

/-- A copy descriptor at an offset of the scratchpad: 8 bytes from the page to offset 64 of the scratchpad, no byte barrier. -/
def descAt (off : Nat) : Bytes :=
  [(off + 1, 0x40), (off + 3, 0x40), (off + 4, 0x80), (off + 8, 64), (off + 16, 1), (off + 18, 8), (off + 28, 0xFF), (off + 29, 0xFF),
   (off + 30, 0xFF), (off + 31, 0xFF)]
/-- A list of one of them at 128, a block for ACLAIM of 32 rows at 192. -/
def padBytes : Bytes := descAt 0 ++ [(128, 1)] ++ descAt 136 ++ [(192, 32), (194, 1)]
def engBlock (l : List CopyOp) : Block := { placeBlock with padSize := 256, pad := padBytes, queues := [l, [], [], [], []] }
/-- s4 is the address of a parameter block; queue 0 holds some operations. -/
def sEng (a : Nat) (l : List CopyOp) : State := { path (wAt 0 a [lane 0]) [0] with blocks := [(2, engBlock l)] }
theorem engPath (a : Nat) (l : List CopyOp) : (sEng a l).OnPath (wAt 0 a [lane 0]) (lane 0) := ⟨by rfl, by rfl, List.Mem.head _⟩
def desc0 : CopyDesc :=
  { form := 0, gva := 0x8040004000#64, saddr := [64], gstride := 0, rows := 1, rbytes := 8, obj := 0, first := 0, scope := 0,
    slotSide := false, bobj := none, idx := [] }
def who0 : Issuer := ⟨0, 0, 0, placeVa, 2⟩
def copy0 : CopyOp :=
  { id := 100, blk := 2, who := who0, lanes := [0], step := 0, tok := 7, gone := [], list := [desc0], fence := false, after := [], started := false,
    captured := [], landed := [], req := none, spoilt := false }

theorem witness_CopiesIssue :
    ((sEng 0 []).OnPath (wAt 0 0 [lane 0]) (lane 0) ∧ Quiet (sEng 0 []) (wAt 0 0 [lane 0]) ∧ (wAt 0 0 [lane 0]).sReady [4, 62] ∧ (sEng 0 []).block? 2 = some (engBlock []) ∧
      (engBlock []).queues[0]? = some [] ∧ Copies (.acopyG2s 0 62 4 true) 0 0 62 4 true ∧
      ∃ bs, (sEng 0 []).paramBlock (wAt 0 0 [lane 0]) 4 40 = .ok bs ∧ (sEng 0 []).copyDesc (wAt 0 0 [lane 0]) 0 bs = .ok desc0) ∧
    (∃ c, (sEng 4 []).paramBlock (wAt 0 4 [lane 0]) 4 40 = .error c) ∧
    (∃ bs c, (sEng 64 []).paramBlock (wAt 0 64 [lane 0]) 4 40 = .ok bs ∧ (sEng 64 []).copyDesc (wAt 0 64 [lane 0]) 0 bs = .error c) ∧
    ((sEng 0 (List.replicate 32 copy0)).block? 2 = some (engBlock (List.replicate 32 copy0)) ∧
      (engBlock (List.replicate 32 copy0)).queues[0]? = some (List.replicate 32 copy0)) ∧
    ((sEng 128 []).kickList (wAt 0 128 [lane 0]) 4 = .ok [desc0] ∧ ∃ c, (sEng 64 []).kickList (wAt 0 64 [lane 0]) 4 = .error c) ∧
    ((63#6 : BitVec 6) ≠ 0 ∧ (sEng 0 [copy0]).fenceFull (wAt 0 0 [lane 0]) 63 = none ∧ ((sEng 0 [copy0]).core 0).window = []) :=
  ⟨⟨engPath _ _, by unfold Quiet; decide +kernel, sReady_of _ _ (by decide +kernel), by rfl, by rfl, .acopyG2s _ _ _ _, _, by rfl, by decide +kernel⟩, ⟨cFAULT, by decide +kernel⟩,
   ⟨List.replicate 40 0, cILLOP, by decide +kernel, by decide +kernel⟩, ⟨by rfl, by rfl⟩, ⟨by decide +kernel, cILLOP, by decide +kernel⟩, by decide +kernel⟩

/-- o15 and a15 map a slot and a tile of 32 rows; the core's 16 slots or all its accumulator rows taken. -/
def tile0 : Tile := { blk := 2, mapped := true, m := 32, p := 1, policy := 0, spillN := 0, spill := 0, labels := [], untrusted := false, breached := false, zeroed := [], rows := [] }
def slot0 : Slot := { blk := 2, mapped := true, data := [] }
def sMap (slots : List (Nat × Slot)) (tiles : List (Nat × Tile)) (a : Nat) : State :=
  { sEng a [] with
    blocks := [(2, { engBlock [] with o := [(15, 50)], a := [(15, 60)] })]
    cores := [(0, { Core.reset with slots := slots, tiles := tiles, mq := { MatQueue.reset with holder := some 0, lastBlk := some 2 } })] }
def sOne (a : Nat) : State := sMap [(50, slot0)] [(60, tile0)] a

def started : CopyOp := { copy0 with started := true, captured := [[1, 2, 3, 4, 5, 6, 7, 8]] }
/-- A copy from the scratchpad to the page, and a fence over a completed operation. -/
def outCopy : CopyOp := { copy0 with list := [{ desc0 with form := 1 }] }
def outStarted (sc : Nat) : CopyOp := { started with list := [{ desc0 with form := 1, scope := sc }] }
/-- A copy of two rows with a byte barrier at 240 that COUNTs 16 bytes, the first of a list. -/
def barrierDesc : CopyDesc := { desc0 with saddr := [64, 80], gstride := 16, rows := 2, bobj := some (.pad 2 240) }
def counted : CopyOp := { started with list := [barrierDesc, desc0], captured := [[1, 2, 3, 4, 5, 6, 7, 8], [1, 2, 3, 4, 5, 6, 7, 8]] }
/-- A copy to a slot, and one to a tile. -/
def toSlot : CopyOp := { started with list := [{ desc0 with form := 3, obj := 50 }] }
def toTile : CopyOp := { started with list := [{ desc0 with form := 5, obj := 60 }] }
def fence0 : CopyOp := { copy0 with list := [], fence := true, started := true, after := [99] }
theorem witness_CopyEngine :
    ((sEng 0 [copy0]).block? 2 = some (engBlock [copy0]) ∧ (engBlock [copy0]).ended = false ∧ (sEng 0 [copy0]).headOp 2 0 = some copy0 ∧
      (sEng 0 [copy0]).wave? copy0.who.core copy0.who.slot = some (wAt 0 0 [lane 0]) ∧ ((sEng 0 [copy0]).core copy0.who.core).faults = [] ∧
      (∀ l ∈ copy0.lanes, ∀ x, (sEng 0 [copy0]).lane? 0 0 l = some x → x.acc = []) ∧
      (∃ r rows, (sEng 0 [copy0]).rowsAt 2 desc0 false = (.ok r, rows) ∧ ∀ row ∈ rows, ∀ pa ∈ physOf row, isRemote pa = false) ∧
      (∀ pls, NoSpill (sEng 0 [copy0]) pls)) ∧
    (sEng 0 [outCopy]).headOp 2 0 = some outCopy ∧
    ((sEng 0 [started]).headOp 2 0 = some started ∧ (sEng 0 [started]).selfOverlap 2 desc0 = false ∧ desc0.saddr.getD 0 0 + desc0.rbytes ≤ 2 ^ 32 ∧
      (started.captured.getD 0 []).length = desc0.rbytes ∧ (∀ p ∈ (sEng 0 [started]).blocks, canonical (0 : Byte) p.2.pad = true) ∧
      desc0.toGlobal = false ∧ desc0.onSlot = false ∧ desc0.onTileDst = false ∧ (((sEng 0 [started]).destPlaces 2 desc0 []).flatMap id).Nodup ∧ ∀ pls, NoBarrier (sEng 0 [started]) pls) ∧
    ((sEng 0 [counted]).headOp 2 0 = some counted ∧ (sEng 0 [counted]).selfOverlap 2 barrierDesc = false ∧
      (∀ b ∈ (sEng 0 [counted]).namedBarriers, ∀ p ∈ ((sEng 0 [counted]).destPlaces 2 barrierDesc []).flatMap id, b.meets 16 p 1 = false) ∧
      (((sEng 0 [counted]).destPlaces 2 barrierDesc []).flatMap id).Nodup ∧ (sEng 0 [counted]).block? 2 ≠ none) ∧
    (let s : State := { sOne 0 with blocks := [(2, { engBlock [toSlot] with o := [(15, 50)], a := [(15, 60)] })] }
     let d : CopyDesc := { desc0 with form := 3, obj := 50 }
     s.headOp 2 0 = some toSlot ∧ s.selfOverlap 2 d = false ∧ d.toGlobal = false ∧ d.onSlot = true ∧ look (s.core 0).slots 50 = some slot0 ∧ slot0.mapped = true ∧
       ((s.destPlaces 2 d []).flatMap id).Nodup ∧ s.namedBarriers = []) ∧
    (let s : State := { sOne 0 with blocks := [(2, { engBlock [toTile] with o := [(15, 50)], a := [(15, 60)] })] }
     let d : CopyDesc := { desc0 with form := 5, obj := 60 }
     s.headOp 2 0 = some toTile ∧ s.selfOverlap 2 d = false ∧ d.toGlobal = false ∧ d.onTileDst = true ∧ look (s.core 0).tiles 60 = some tile0 ∧ tile0.mapped = true ∧
       tile0.untrusted = false ∧ d.rbytes % 4 = 0 ∧ ((s.destPlaces 2 d []).flatMap id).Nodup ∧ s.namedBarriers = []) ∧
    (∀ sc ∈ [0, 5], let s := sEng 0 [outStarted sc]
     let d : CopyDesc := { desc0 with form := 1, scope := sc }
     s.headOp 2 0 = some (outStarted sc) ∧ d.toGlobal = true ∧ s.selfOverlap 2 d = false ∧
       s.rowsAt 2 d true = (.ok [], [(List.range' 0x4000 8).map .phys]) ∧ memWf s.mem = true ∧ s.stamps = [] ∧ s.namedBarriers = [] ∧
       (∀ pa ∈ physOf ((List.range' 0x4000 8).map .phys), isRemote pa = false) ∧ ((List.range' 0x4000 8).map Place.phys).Nodup) ∧
    (∀ sc pls, NoAreas (sEng 0 [outStarted sc]) ∧ NoMisuse (sEng 0 [outStarted sc]) pls) ∧
    ((sEng 0 [fence0]).headOp 2 0 = some fence0 ∧ ∀ id ∈ fence0.after, (sEng 0 [fence0]).opLive id = false) :=
  ⟨⟨by rfl, rfl, by rfl, by rfl, by decide +kernel, fun l h x k => by
      rw [List.mem_singleton.mp h] at k; cases k; rfl, ⟨[], [(List.range' 0x4000 8).map .phys], by decide +kernel, by decide +kernel⟩,
      fun _ => noSpill_of _ _ rfl⟩, by rfl,
   ⟨by rfl, by decide +kernel, by decide +kernel, by decide +kernel, by decide +kernel, rfl, rfl, rfl, by decide +kernel, fun _ => noBarrier_of _ _ (by decide +kernel)⟩,
   ⟨by rfl, by decide +kernel, by decide +kernel, by decide +kernel, by decide +kernel⟩, by decide +kernel, by decide +kernel, by decide +kernel,
   fun _ _ => ⟨noAreas_of _ rfl rfl, noMisuse_of _ _ rfl⟩, by rfl, by decide +kernel⟩

theorem onePath (a : Nat) : (sOne a).OnPath (wAt 0 a [lane 0]) (lane 0) := ⟨by rfl, by rfl, List.Mem.head _⟩
def sFull : State := sMap ((List.range 16).map (fun i => (50 + i, slot0))) [(60, { tile0 with m := 256, p := 8 })] 192
theorem witness_SlotsAndTiles :
    ((sOne 192).OnPath (wAt 0 192 [lane 0]) (lane 0) ∧ Quiet (sOne 192) (wAt 0 192 [lane 0]) ∧ (sOne 192).block? 2 = some { engBlock [] with o := [(15, 50)], a := [(15, 60)] } ∧
      0 < (sOne 192).slotsFor 0 2 ∧ risingFrom 0 [(15, 50)] = true ∧ (wAt 0 192 [lane 0]).sReady [4] ∧
      ∃ bs, (sOne 192).paramBlock (wAt 0 192 [lane 0]) 4 16 = .ok bs ∧ aclaimTile 2 bs = .ok tile0 ∧ tile0.m * tile0.p ≤ (sOne 192).rowsFor 0 2) ∧
    (sFull.slotsFor 0 2 = 0 ∧ sFull.rowsFor 0 2 < tile0.m * tile0.p) ∧
    ((sOne 0).regsOk [1] ∧ (sOne 0).oReg 2 15 = some 50 ∧ (sOne 0).cur.lanes = [0] ∧ (wAt 0 0 [lane 0]).lanes.filter (fun u => u.lane == 0) = [lane 0] ∧
      look ((sOne 0).core 0).slots 50 = some slot0 ∧ (sOne 0).slotBusy 0 50 255 124 = false) :=
  ⟨⟨onePath _, by unfold Quiet; decide +kernel, by rfl, by decide +kernel, by decide, sReady_of _ _ (by decide +kernel), _, by rfl, by decide +kernel, by decide +kernel⟩,
   by decide +kernel, regsOk_of _ _ (by decide +kernel), by decide +kernel, by decide +kernel, by decide +kernel, by decide +kernel, by decide +kernel⟩

/-- ACCZERO of a15, which is mapped, and of a0, which is not. -/
theorem witness_MatrixIssue :
    (Matrix (.acczero 15 62 true) 5 [] 62 true
      (fun s w => do let nm ← s.namedChk w 5 [(1, scal 15)]; pure ([(1, scal 15)], [], nm)) ∧
     (sOne 0).OnPath (wAt 0 0 [lane 0]) (lane 0) ∧ Quiet (sOne 0) (wAt 0 0 [lane 0]) ∧ (wAt 0 0 [lane 0]).sReady [62] ∧ (sOne 0).isZero 2 = false ∧
     ((sOne 0).core 0).mq.holder = some 0 ∧ ((sOne 0).core 0).window.length < 16 ∧ ((sOne 0).core 0).mq.ops.length ≤ 32 ∧
     (∃ nm, (sOne 0).namedChk (wAt 0 0 [lane 0]) 5 [(1, scal 15)] = .ok nm) ∧ (∀ g, (sOne 0).progOf 2 = some g → g.rules = []) ∧ ((sOne 0).core 0).voids = []) ∧
    (∃ c, (sOne 0).namedChk (wAt 0 0 [lane 0]) 5 [(1, scal 0)] = .error c) ∧ ((sEng 0 []).core 0).mq.holder ≠ some 0 :=
  ⟨⟨.acczero _ _ _, onePath _, by unfold Quiet; decide +kernel, sReady_of _ _ (by decide +kernel), by decide +kernel, by decide +kernel, by decide +kernel, by decide +kernel, ⟨⟨some 60, [], none⟩, by decide +kernel⟩,
    fun g h => by cases h; rfl, by decide +kernel⟩, ⟨cILLOP, by decide +kernel⟩, by decide +kernel⟩

/-- A matrix operation of the placed block; ACCZERO, TSCALE.SET of two columns, MMA of one row into pleat 0. -/
def mat (f6 : Nat) (ops : List (Nat × List Word)) (obj : Option Nat) : MatOp :=
  { id := 70, blk := 2, who := who0, lanes := [0], step := 0, f6 := f6, n := 0, ops := ops, table := [], obj := obj, slots := [50], dest := none, after := [],
    toks := [], rule := none, set := 0, fresh := false, pleat := some 0, newPleat := false, setPleat := none, labels := [], untrust := false,
    reset := none, spoilt := false }
def mma0 : MatOp := mat 3 (scalars [15, 1, 0, 0, 3, 1, 0, 31, 0, 1] ++ [(11, []), (12, [])]) (some 60)
def tscale0 : MatOp := mat 9 [(1, scal 0), (2, [one32, 0])] none
def withArray (o : MatOp) : State := { (sOne 0).onCore 0 (fun k => { k with array := some (false, o) }) with cycles := 161 }
def withOps (win ops : List MatOp) : State := (sOne 0).onCore 0 (fun k => { k with window := win, mq := { k.mq with ops := ops } })
/-- A wave that has waited for a free thimble since cycle 3. -/
def wThimble : Wave := wave [{ lane 0 with wait := .thimble 3 }]
def sThimble : State := path wThimble []
theorem witness_ThimbleAndArray :
    ((sOne 0).OnPath (wAt 0 0 [lane 0]) (lane 0) ∧ ((sOne 0).queueOf 0 2).holder = some 0 ∧ ((sEng 0 []).queueOf 0 2).holder ≠ some 0) ∧
    ((sThimble.core 0).mq.holder = none ∧ wThimble ∈ sThimble.waves ∧ wThimble.core = 0 ∧ sThimble.isZero wThimble.blk = false ∧
      wThimble.thimbleSince ≠ none) ∧
    (((withOps [tscale0] (List.replicate 31 tscale0)).core 0).window = tscale0 :: [] ∧ tscale0.obj = none ∧ tscale0.fresh = false ∧
      ((withOps [tscale0] (List.replicate 31 tscale0)).core 0).mq.ops.length < 32) ∧
    (((withOps [] [mma0]).core 0).array = none ∧ (withOps [] [mma0]).rowWork 0 = false ∧ (∀ x ∈ ((withOps [] [mma0]).core 0).mq.ops, x.f6 ≠ 10) ∧
      ((withOps [] [mma0]).core 0).nextOp = some (false, mma0) ∧ ∀ t ∈ (withOps [] [mma0]).waves.flatMap (fun w => w.lanes), t.acc = []) ∧
    (((withArray tscale0).core 0).array = some (false, tscale0) ∧ tscale0.f6 = 9 ∧ tscale0.toks = [] ∧ ((withArray tscale0).core 0).voids = [] ∧
      tscale0.dest = none ∧ tscale0.val 1 = 0 ∧ ((withArray tscale0).core 0).mq.ops ++ ((withArray tscale0).core 0).mq0.ops = [] ∧
      ((withArray tscale0).block? 2).map (fun b => b.ended) = some false) ∧
    (((withArray (mat 5 [] (some 60))).core 0).array = some (false, mat 5 [] (some 60)) ∧ look ((withArray (mat 5 [] (some 60))).core 0).tiles 60 = some tile0 ∧ tile0.mapped = true ∧
      (mat 5 [] (some 60)).toks = [] ∧ (mat 5 [] (some 60)).untrust = false ∧ ((withArray (mat 5 [] (some 60))).core 0).mq.ops ++ ((withArray (mat 5 [] (some 60))).core 0).mq0.ops = [] ∧
      ((withArray (mat 5 [] (some 60))).core 0).voids = [] ∧ ((withArray (mat 5 [] (some 60))).block? 2).map (fun b => b.ended) = some false) ∧
    (((withArray mma0).core 0).array = some (false, mma0) ∧ mma0.pleat = some 0 ∧ 0 < tile0.p ∧ tile0.untrusted = false ∧ mma0.newPleat = false ∧
      mma0.spoilt = false ∧ (withArray mma0).inject = [] ∧ mma0.val 6 = 1 ∧
      ((withArray mma0).core 0).arrayAt + 161 ≤ (withArray mma0).clockOf 0 ∧ mma0.destRow 0 = some 31 ∧ 31 < tile0.m ∧
      (((withArray mma0).core 0).queue false).latch.n ≤ 192) :=
  ⟨⟨onePath _, by decide +kernel, by decide +kernel⟩, ⟨by decide +kernel, List.Mem.head _, rfl, by decide +kernel, by decide +kernel⟩,
   ⟨by decide +kernel, rfl, rfl, by decide +kernel⟩, by decide +kernel, by decide +kernel, by decide +kernel, by decide +kernel⟩

/-! ## Synchronisation and tasks -/

/-- Lane 0 having arrived at level 0 in phase 0, the phase then 0 or 1. -/
def arrived : Thread := { lane 0 with arrived := [(0, 0)] }
def sPhase (t : Thread) (p : Nat) : State := { path (wave [t]) [0] with bars := [⟨0, 0, 0, 0, p⟩] }
/-- Two lanes, of which lane 0 alone has come. -/
def wTwo : Wave := wave [lane 0, lane 1]
/-- s4 is not read; g4 is a scratch address. -/
def scratch (a : Nat) : Thread := { lane 0 with g := setD [] 0 4 (BitVec.ofNat 32 a) }
def sBob (a : Nat) : State := padded (path (wave [scratch a]) [0])
theorem clear_of (s : State) (w : Wave) (h : ∀ u ∈ w.lanes, u.lane ∈ s.cur.lanes → u.acc = [] ∧ u.wait = .no ∧ u.pc = s.cur.pc)
    (k : w.lanes.Pairwise (fun x y => x.lane < y.lane)) (l : w.lining = none) : Clear s w := ⟨h, k, l⟩
theorem bobPath (a : Nat) : (sBob a).OnPath (wave [scratch a]) (scratch a) := ⟨by rfl, by rfl, List.Mem.head _⟩

theorem witness_Barriers :
    (s1.OnPath w1 (lane 0) ∧ Clear s1 w1 ∧ s1.levelBad w1 (s1.levelOf w1 7) = false ∧ (s1.waveRec w1).scopeOf (s1.levelOf w1 7) ≠ 5 ∧
      look (lane 0).arrived 0 = none ∧ s1.images = []) ∧
    (let s := path (wave [lane 0]) [0]
     s.waves.filter (s.sameGroup 0 (wave [lane 0])) = [wave [lane 0]] ∧ s.space? (wave [lane 0]) ≠ none ∧ (lane 0).live = true ∧
     ∀ u ∈ (wave [lane 0]).lanes, u.live = true → u.lane ∈ s.cur.lanes ∧ look u.arrived 0 = none) ∧
    ((path wTwo [0]).OnPath wTwo (lane 0) ∧ Clear (path wTwo [0]) wTwo ∧
      ∃ u ∈ wTwo.lanes, u.live = true ∧ u.lane ∉ (path wTwo [0]).cur.lanes ∧ look u.arrived 0 = none) ∧
    ((sPhase arrived 0).OnPath (wave [arrived]) arrived ∧ Clear (sPhase arrived 0) (wave [arrived]) ∧ look arrived.arrived 0 = some 0 ∧
      (sPhase arrived 0).phaseOf 0 (wave [arrived]) ≤ 0 ∧ 0 < (sPhase arrived 1).phaseOf 0 (wave [arrived])) ∧
    ((sBob 248).OnPath (wave [scratch 248]) (scratch 248) ∧ (wave [scratch 248]).fresh ∧ (sBob 248).regsOk [6, 4] ∧ 248 % 16 ≠ 0) ∧ (sBob 256).padRange 2 256 16 = false ∧
    (240 % 16 = 0 ∧ (sBob 240).padRange 2 240 16 = true ∧ (sBob 240).padAt 2 240 = some (2, 240) ∧ (sBob 240).waitAborted (.pad 2 240) = none ∧
      ∃ k, (sBob 240).block? 2 = some k ∧ canonical (0 : Byte) k.pad = true) :=
  ⟨⟨s1_path, clear_of _ _ (by decide +kernel) (by decide +kernel) rfl, by decide +kernel, by decide +kernel, rfl, rfl⟩, by decide +kernel,
   ⟨⟨by decide +kernel, by decide +kernel, by decide +kernel⟩, clear_of _ _ (by decide +kernel) (by decide +kernel) rfl, by decide +kernel⟩,
   ⟨⟨by decide +kernel, by decide +kernel, by decide +kernel⟩, clear_of _ _ (by decide +kernel) (by decide +kernel) rfl, by decide +kernel, by decide +kernel, by decide +kernel⟩,
   ⟨bobPath _, (fun _ h => nomatch h), regsOk_of _ _ (by decide +kernel), by decide⟩, by decide +kernel, by decide, by decide +kernel, by decide +kernel, by decide +kernel, _, by rfl, by decide +kernel⟩

/-- Numbers of some bytes put into memory. -/
def poke (m : List Host.Cell) : List (Nat × Nat × Nat) → List Host.Cell
  | [] => m
  | (pa, n, v) :: rest => poke (placeBytes m pa (leBytes n v)) rest
def poked (s : State) (l : List (Nat × Nat × Nat)) : State := { s with mem := poke s.mem l }
/-- An edge of capacity 2 on the page, its ring beside it. -/
def sEdge (head tail free : Nat) : State :=
  poked (path (wave [addressed pageVa]) [0]) [(0x4000, 4, 2), (0x4008, 4, head), (0x400C, 4, tail), (0x4010, 4, free), (0x4018, 8, 0x8040005000)]
theorem edgePath (h t f : Nat) : (sEdge h t f).OnPath (wave [addressed pageVa]) (addressed pageVa) := ⟨by rfl, by rfl, List.Mem.head _⟩
theorem alone_of (s : State) (w : Wave) (t : Thread) (o : s.cur.lanes = [t.lane])
    (h : ∀ u ∈ w.lanes, u.lane ∈ s.cur.lanes → u.acc = [] ∧ u.wait = .no ∧ u.pc = s.cur.pc) (k : w.lanes.Pairwise (fun x y => x.lane < y.lane))
    (l : w.lining = none) (ws : (s.core w.core).writes = []) (g : s.gangs = [(1, placeGang)]) : Alone s w t :=
  ⟨o, ⟨h, k, l⟩, ws, fun n k h => by
    simp only [State.gang?, g, look] at h
    split at h
    · cases h; rfl
    · cases h⟩
/-- Full, empty, and with one item whose counters pass 2^32. -/
theorem witness_Edges :
    ((sEdge 0 2 0).OnPath (wave [addressed pageVa]) (addressed pageVa) ∧ Alone (sEdge 0 2 0) (wave [addressed pageVa]) (addressed pageVa) ∧ Orderly (sEdge 0 2 0) ∧
      NoAreas (sEdge 0 2 0) ∧ (sEdge 0 2 0).poisoned = [] ∧ (sEdge 0 2 0).resolve 2 ((addressed pageVa).pair? (sEdge 0 2 0) 4) 64 true = .at (.phys 0x4000) ∧ ((sEdge 0 2 0).edgeAt (.phys 0x4000)).good = true ∧
      (sEdge 0 2 0).regsOk [6, 7, 4, 5] ∧ ((sEdge 0 2 0).edgeAt (.phys 0x4000)).free = 0 ∧ Apart 0x5000 4 0x4000 64 ∧
      (sEdge 0 2 0).resolve 2 (((sEdge 0 2 0).edgeAt (.phys 0x4000)).itemVa 2) 4 true = .at (.phys 0x5000)) ∧
    (((sEdge 7 7 2).edgeAt (.phys 0x4000)).items = 0 ∧ ((sEdge 7 7 2).edgeAt (.phys 0x4000)).good = true) ∧
    (let e := (sEdge 0xFFFFFFFF 0 1).edgeAt (.phys 0x4000)
     e.good = true ∧ e.items = 1 ∧ e.free = 1 ∧ (sEdge 0xFFFFFFFF 0 1).resolve 2 (e.itemVa e.head) 4 false = .at (.phys 0x5004)) :=
  ⟨⟨edgePath _ _ _, alone_of _ _ _ (by decide +kernel) (by decide +kernel) (by decide +kernel) rfl (by decide +kernel) (by decide +kernel),
    orderly_of _ (by decide +kernel) rfl, noAreas_of _ rfl rfl, rfl, by decide +kernel, by decide +kernel, regsOk_of _ _ (by decide +kernel), by decide +kernel, .inr (by decide),
    by decide +kernel⟩, by decide +kernel, by decide +kernel⟩

/-- g8 names template 63, the last; a launch that declares it, with a spawn queue of 2 entries. -/
def spawner (k : Nat) : Thread := { lane 0 with g := [(8, BitVec.ofNat 32 k), (9, 1), (10, 2), (11, 3)] }
def spawnLaunch : Launch := { placeLaunch with templates := [(63, placeProg)], prog := { placeProg with lrec := { placeRec with spawnq := 0x8040006000#64 } } }
def sSpawn (k head tail : Nat) : State :=
  { poked (path (wave [spawner k]) [0]) [(0x6000, 8, 0x8040007000), (0x6008, 4, 2), (0x600C, 4, head), (0x6010, 4, tail)] with launches := [(0, spawnLaunch)] }
/-- g8 names bucket 1023 or 1024, g9 asks for 7, g10 is a tag; the buckets 1022 and 1023 by their CTRL words, and tag records. -/
def sAdmit (b tag : Nat) (lo hi : Nat) (tags : List TagRec) : State :=
  { poked (path (wave [{ lane 0 with g := [(8, BitVec.ofNat 32 b), (9, 7), (10, BitVec.ofNat 32 tag)] }]) [0])
      [(0x8000 + 16 * 1022, 4, 3), (0x8000 + 16 * 1022 + 12, 4, lo), (0x8000 + 16 * 1023, 4, 5), (0x8000 + 16 * 1023 + 12, 4, hi)] with
    mon := { Monitor.reset with regs := [(regKey 2 0 24, 0x40008000#32), (regKey 2 0 28, 0x80#32)] }
    tags := tags }
def admitter (b tag : Nat) : Thread := { lane 0 with g := [(8, BitVec.ofNat 32 b), (9, 7), (10, BitVec.ofNat 32 tag)] }
theorem witness_SpawnsAndAdmits :
    ((sSpawn 63 0xFFFFFFFF 0).OnPath (wave [spawner 63]) (spawner 63) ∧ Alone (sSpawn 63 0xFFFFFFFF 0) (wave [spawner 63]) (spawner 63) ∧
      (spawner 63).due = none ∧ Orderly (sSpawn 63 0xFFFFFFFF 0) ∧ NoAreas (sSpawn 63 0xFFFFFFFF 0) ∧ (sSpawn 63 0xFFFFFFFF 0).poisoned = [] ∧ (sSpawn 63 0xFFFFFFFF 0).regsOk [6, 8, 9, 10, 11] ∧ (sSpawn 63 0xFFFFFFFF 0).launchOf 2 = some spawnLaunch ∧
      spawnLaunch.prog.lrec.spawnq ≠ 0 ∧ look spawnLaunch.templates 63 ≠ none ∧
      (sSpawn 63 0xFFFFFFFF 0).resolve 2 spawnLaunch.prog.lrec.spawnq 64 true = .at (.phys 0x6000) ∧
      (let s := sSpawn 63 0xFFFFFFFF 0
       let cap := s.homeNat (0x6000 + 8) 4
       (s.homeNat (0x6000 + 16) 4 + 2 ^ 32 - s.homeNat (0x6000 + 12) 4) % 2 ^ 32 < cap ∧
       s.resolve 2 (BitVec.ofNat 64 (s.homeNat 0x6000 8 + 16 * (s.homeNat (0x6000 + 16) 4 % 2 ^ 32 % cap))) 16 true = .at (.phys 0x7000)) ∧
      Apart 0x7000 16 0x6000 64) ∧
    ((sSpawn 63 0xFFFFFFFE 0).homeNat (0x6000 + 8) 4 ≤
      ((sSpawn 63 0xFFFFFFFE 0).homeNat (0x6000 + 16) 4 + 2 ^ 32 - (sSpawn 63 0xFFFFFFFE 0).homeNat (0x6000 + 12) 4) % 2 ^ 32) ∧
    look spawnLaunch.templates 62 = none ∧
    ((sAdmit 1023 0 1 1 []).OnPath (wave [admitter 1023 0]) (admitter 1023 0) ∧ (sAdmit 1023 0 1 1 []).cur.lanes = [0] ∧ (wave [admitter 1023 0]).fresh ∧ (sAdmit 1023 0 1 1 []).regsOk [6, 8, 9, 10, 11] ∧
      ((sAdmit 1023 0 1 1 []).bucketAt 0 1023).on = true ∧ ((sAdmit 1023 0 1 1 []).bucketAt 0 1023).paired = false) ∧
    ((sAdmit 1023 0 1 0 []).bucketAt 0 1023).on = false ∧
    (let s := sAdmit 1023 9 1 (3 + 4 * 1022) [⟨0, 1023, 9, 4⟩]
     let e := s.bucketAt 0 1023
     e.on = true ∧ e.paired = true ∧ e.pair = 1022 ∧ (s.bucketAt 0 1022).on = true ∧ (s.bucketAt 0 1022).paired = false ∧
     (s.tags.filter (fun r => r.vf == 0 && r.bucket == 1023)).find? (fun r => r.tag == 9#32) = some ⟨0, 1023, 9, 4⟩) ∧
    1024 ≤ ((sAdmit 1023 9 1 1 (List.replicate 1024 ⟨0, 1023, 8, 4⟩)).tags.filter (fun r => r.vf == 0 && r.bucket == 1023)).length :=
  ⟨⟨⟨by rfl, by rfl, List.Mem.head _⟩, alone_of _ _ _ (by decide +kernel) (by decide +kernel) (by decide +kernel) rfl (by decide +kernel) (by decide +kernel),
    rfl, orderly_of _ (by decide +kernel) rfl, noAreas_of _ rfl rfl, rfl, regsOk_of _ _ (by decide +kernel), by rfl, by decide, by decide +kernel, by decide +kernel, by decide +kernel, .inr (by decide)⟩,
   by decide +kernel, by decide +kernel, ⟨⟨by rfl, by rfl, List.Mem.head _⟩, by decide +kernel, (fun _ h => nomatch h), regsOk_of _ _ (by decide +kernel), by decide +kernel, by decide +kernel⟩,
   by decide +kernel, by decide +kernel, by decide +kernel⟩

/-- A thread at its TEND, and one at a TCBDONE. -/
def ending : Thread := { lane 0 with wait := .tend true }
theorem witness_TaskEnds : (s1.OnPath w1 (lane 0) ∧ Clear s1 w1) ∧
    (let s := path (wave [ending]) []
     s.block? 2 = some placeBlock ∧ placeBlock.queues.all List.isEmpty = true ∧ s.tendMet 2 = true ∧ s.wave? 0 0 = some (wave [ending]) ∧
     (wave [ending]).lane? 0 = some ending) ∧
    ((sEdge 0 0 0).OnPath (wave [addressed pageVa]) (addressed pageVa) ∧ Alone (sEdge 0 0 0) (wave [addressed pageVa]) (addressed pageVa) ∧ NoSpills (sEdge 0 0 0) ∧ (sEdge 0 0 0).poisoned = [] ∧ (sEdge 0 0 0).regsOk [4, 5] ∧
      (sEdge 0 0 0).resolve 2 ((addressed pageVa).pair? (sEdge 0 0 0) 4) 8 false = .at (.phys 0x4000) ∧
      (∀ v ∈ (sEdge 0 0 0).tcbVas 0 ((addressed pageVa).pair? (sEdge 0 0 0) 4).toNat, ∃ p, (sEdge 0 0 0).resolve 2 (BitVec.ofNat 64 v.1) 8 v.2 = .at p) ∧
      (sEdge 0 0 0).devGet 0 (((addressed pageVa).pair? (sEdge 0 0 0) 4).toNat + 4) 4 = 0) :=
  ⟨⟨s1_path, clear_of _ _ (by decide +kernel) (by decide +kernel) rfl⟩, by decide +kernel,
   ⟨edgePath _ _ _, alone_of _ _ _ (by decide +kernel) (by decide +kernel) (by decide +kernel) rfl (by decide +kernel) (by decide +kernel),
    noSpills_of _ rfl, rfl, regsOk_of _ _ (by decide +kernel), by decide +kernel, fun v h => by
      have e : (sEdge 0 0 0).tcbVas 0 ((addressed pageVa).pair? (sEdge 0 0 0) 4).toNat = [0, 8, 16, 24].map (fun n => (pageVa + n, false)) := by
        decide +kernel
      rw [e, List.mem_map] at h
      obtain ⟨n, m, rfl⟩ := h
      exact ⟨.phys (0x4000 + n), (by decide +kernel : ∀ n ∈ [0, 8, 16, 24], (sEdge 0 0 0).resolve 2 (BitVec.ofNat 64 (pageVa + n)) 8 false = .at (.phys (0x4000 + n))) n m⟩,
      by decide +kernel⟩⟩

theorem walk_table (s : State) (va level addr e next : Nat) (wr : Bool) (he : s.homeNat (addr + 8 * vaIndex va level) 8 = e)
    (hv : e.testBit 0 = true) (hb : entryBad e level = false) (hp : e.testBit 5 = false) (hl : e.testBit 1 = false) (hn : e / 2 ^ 8 * 2 ^ 8 = next)
    (hd : isDevice next = true) : walkFrom s va wr false (level + 1) addr = walkFrom s va wr false level next := by
  rw [walkFrom]
  simp only [he, hv, hb, hp, hl, hn, hd]
  simp
theorem walk_leaf (s : State) (va level addr e : Nat) (wr : Bool) (he : s.homeNat (addr + 8 * vaIndex va level) 8 = e)
    (hv : e.testBit 0 = true) (hb : entryBad e level = false) (hp : e.testBit 5 = false) (hl : e.testBit 1 = true) (hr : e.testBit 2 = true)
    (hw : e.testBit 3 = true) : walkFrom s va wr false (level + 1) addr = .ok (e / 2 ^ 8 * 2 ^ 8 + va % 2 ^ pageBits level) := by
  rw [walkFrom]
  simp only [he, hv, hb, hp, hl, hr, hw]
  simp
/-- The placed tables map the page's 2^30 bytes at 0, whatever the rest of memory holds. -/
theorem walk_placed (s : State) (va o : Nat) (wr : Bool) (ho : o < 2 ^ 30) (hva : va = 0x8040000000 + o) (h0 : s.homeNat 0 8 = 0x1001)
    (h1 : s.homeNat 0x1008 8 = 0x2001) (h2 : s.homeNat 0x2008 8 = 0x1F) : walkFrom s va wr false 5 0 = .ok o := by
  have i4 : vaIndex va 4 = 0 := by rw [vaIndex, if_neg (by decide)]; omega
  have i3 : vaIndex va 3 = 1 := by rw [vaIndex, if_neg (by decide)]; omega
  have i2 : vaIndex va 2 = 1 := by rw [vaIndex, if_neg (by decide)]; omega
  have m : va % 2 ^ pageBits 2 = o := by rw [pageBits, if_neg (by decide)]; omega
  rw [walk_table s va 4 0 0x1001 0x1000 wr (by rw [i4]; exact h0) (by decide) (by decide) (by decide) (by decide) (by decide) (by decide),
    walk_table s va 3 0x1000 0x2001 0x2000 wr (by rw [i3]; exact h1) (by decide) (by decide) (by decide) (by decide) (by decide) (by decide),
    walk_leaf s va 2 0x2000 0x1F wr (by rw [i2]; exact h2) (by decide) (by decide) (by decide) (by decide) (by decide) (by decide), m]
  simp
theorem homeNat_of (s : State) (m : List Host.Cell) (a b : Nat) (h : ∀ x, x < 0x3000 → readMem m x = readMem s.mem x) (hb : a + b ≤ 0x3000) :
    ({ s with mem := m } : State).homeNat a b = s.homeNat a b := by
  unfold State.homeNat
  congr 1
  apply List.map_congr_left
  intro i hi
  exact h _ (by have := List.mem_range.mp hi; omega)
/-- Bytes of the page beyond the tables are mapped. -/
theorem mapped_of (s : State) (vf va n pa : Nat) (ho : pa + n ≤ 2 ^ 30) (hp : 0x3000 ≤ pa) (hva : va = 0x8040000000 + pa) (hr : s.vfDword vf 8 = 0)
    (h0 : s.homeNat 0 8 = 0x1001) (h1 : s.homeNat 0x1008 8 = 0x2001) (h2 : s.homeNat 0x2008 8 = 0x1F) (ht : s.tlb = []) : Mapped s vf va n pa := by
  have reg : ∀ k < n, regionOf (pa + k) = some .near := fun k hk => by rw [regionOf, if_pos (by omega)]
  refine ⟨fun k hk => by simp [isDevice, reg k hk], fun m hm k hk wr => ?_⟩
  have low : ∀ x, x < 0x3000 → readMem m x = readMem s.mem x := fun x hx => hm x (.inl (by omega))
  have tr : ({ s with mem := m } : State).translate vf (BitVec.ofNat 64 (va + k)) wr false = .ok (pa + k) := by
    have hv : (BitVec.ofNat 64 (va + k)).toNat % 2 ^ 57 = 0x8040000000 + (pa + k) := by
      rw [BitVec.toNat_ofNat]; omega
    have hroot : ({ s with mem := m } : State).vfDword vf 8 = 0 := hr
    rw [State.translate, hv, hroot, walk_placed _ _ (pa + k) wr (by omega) rfl
      ((homeNat_of s m 0 8 low (by omega)).trans h0) ((homeNat_of s m 0x1008 8 low (by omega)).trans h1) ((homeNat_of s m 0x2008 8 low (by omega)).trans h2)]
    simp only [ht, List.find?_nil, Walk.reach, reg k hk, Option.isSome_some, if_true, ownWindow]
  rw [State.devAddr, tr]

/-! ## Panels, faults, the dispatcher -/

/-- A notch at the placed address, and a stop requested. -/
def noted : Launch := { placeLaunch with prog := { placeProg with notches := [⟨placeVa.toNat, 0, 0, 0⟩] } }
def sNotch : State := { s1 with launches := [(0, noted)], gangs := [(1, { placeGang with stop := true })] }
/-- A thread of age 64 in a wave that is pending, or active. -/
def oldThread : Thread := { lane 0 with age := 64 }
def wOld (a : Bool) : Wave := { wave [oldThread] with active := a }
/-- An active wave whose live thread waits for token 1, and a pending one in slot 31 that is ready. -/
def wLong : Wave := { wave [{ lane 0 with wait := .token 2 }] with regs := { w1.regs with tok := 2 } }
def wPend : Wave := { wave [lane 0] with slot := 31, active := false }
def sSwap : State := { s1 with waves := [wLong, wPend] }
theorem witness_Panels : (sNotch.wave? 0 0 = some w1 ∧ w1.lane? 0 = some (lane 0) ∧ (lane 0).live = true ∧ (lane 0).wait.before = true ∧ (lane 0).endChk = false ∧ (lane 0).outstanding = false ∧
      sNotch.gangOf 2 = some { placeGang with stop := true } ∧ sNotch.atNotch w1 (lane 0) = some ⟨placeVa.toNat, 0, 0, 0⟩) ∧
    ((path (wOld true) []).forced 0 0 = some (wOld true, oldThread) ∧ (path (wOld true) []).wave? 0 0 = some (wOld true)) ∧
    ((path (wOld false) []).forced 0 0 = some (wOld false, oldThread) ∧ (path (wOld false) []).wave? 0 0 = some (wOld false) ∧
      (path (wOld false) []).activeCount 0 0 + (wOld false).slots ≤ 8) ∧
    (sSwap.wave? 0 0 = some wLong ∧ sSwap.nextPending 0 0 false = some wPend ∧ sSwap.wave? 0 31 = some wPend ∧ wLong.live ≠ 0 ∧
      (∀ t ∈ wLong.lanes, t.live = true → sSwap.waitsLong wLong t = true) ∧ sSwap.activeCount 0 0 + wPend.slots ≤ 8 + wLong.slots) ∧
    (sSwap.nextPending 0 0 true = some wPend ∧ sSwap.activeCount 0 0 + wPend.slots ≤ 8 ∧ sSwap.idle 0 0 = true) ∧
    ({ s1 with waves := [w1, wPend] } : State).idle 0 0 = false ∧
    (let s : State := { s1 with waves := wPend :: (List.range 8).map (fun k => { w1 with slot := k }) }
     s.nextPending 0 0 true = some wPend ∧ s.wave? 0 31 = some wPend ∧ 8 < s.activeCount 0 0 + wPend.slots) := by decide +kernel

/-- A lane that has thrown in a region at level 1 inside one at level 2. -/
def thrower : Thread := { lane 0 with wait := .thrown ⟨9, 5, placeVa, 7, 0⟩, regions := [⟨1, placeVa + 8, placeVa⟩, ⟨2, placeVa + 16, placeVa⟩] }
theorem witness_Unwinding : let s := path (wave [thrower, { lane 1 with regions := thrower.regions }]) []
    let w := wave [thrower, { lane 1 with regions := thrower.regions }]
    s.wave? 0 0 = some w ∧ w.lane? thrower.lane = some thrower ∧ thrower.wait = .thrown ⟨9, 5, placeVa, 7, 0⟩ ∧
    thrower.regions.head? = some ⟨1, placeVa + 8, placeVa⟩ ∧ s.waves.filter (fun v => v.lanes.any (fun u => u.thrown?.isSome)) = [w] ∧
    w.lanes.filter (fun u => u.thrown?.isSome) = [thrower] ∧ (∀ v ∈ s.waves, s.wave? v.core v.slot = some v) ∧
    (∀ v ∈ s.waves, s.sameGroup 1 w v = true → (s.core v.core).faults = [] ∧ v.lining = none ∧ ∀ u ∈ v.lanes, u.acc = [] ∧ u.due = none) := by decide +kernel

/-- A write fault of kind 1 that holds core 0, recorded or not, in a function whose ring has room for 1 record, or 0. -/
def stopFault (rec : Bool) : FaultStop :=
  { kind := 1, va := 0x8080000000#64, level := 2, write := true, fetch := false, copy := none, who := ⟨0, 0, 0, placeVa, 2⟩, vf := 0, recorded := rec,
    record := 0, step := 0 }
def held : Thread := { lane 0 with wait := .fault }
def sFault (rec : Bool) (cap : Nat) : State :=
  { path (wave [held]) [] with
    cores := [(0, { Core.reset with faults := [stopFault rec] })]
    mon := { Monitor.reset with regs := [(regKey 2 0 80, 0x10000#32), (regKey 2 0 88, BitVec.ofNat 32 cap)] } }
theorem witness_FaultAnswers :
    (((sFault false 0).core 0).faults = [stopFault false] ∧ (sFault false 0).ringFull 0 = true) ∧
    (((sFault false 1).core 0).faults = [stopFault false] ∧ (sFault false 1).ringFull 0 = false ∧ Orderly (sFault false 1)) ∧
    (((sFault true 1).core 0).faults = [stopFault true] ∧ (sFault true 1).wave? 0 0 = some (wave [held]) ∧ (wave [held]).lane? 0 = some held) :=
  ⟨by decide +kernel, ⟨by decide +kernel, by decide +kernel, orderly_of _ (by decide +kernel) rfl⟩, by decide +kernel⟩

/-- A state with bytes put into its page. -/
theorem page_mapped (s : State) (vf va n pa : Nat) (ho : pa + n ≤ 2 ^ 30) (hp : 0x3000 ≤ pa) (hva : va = 0x8040000000 + pa)
    (h : (s.vfDword vf 8 == 0 && s.homeNat 0 8 == 0x1001 && s.homeNat 0x1008 8 == 0x2001 && s.homeNat 0x2008 8 == 0x1F && s.tlb.isEmpty) = true) :
    Mapped s vf va n pa := by
  simp only [Bool.and_eq_true, beq_iff_eq, List.isEmpty_iff] at h
  exact mapped_of s vf va n pa ho hp hva h.1.1.1.1 h.1.1.1.2 h.1.1.2 h.1.2 h.2

/-- A queue of class 7, its queues at 0x8000, HEAD 0xFFFFFFFF in a ring of two: the record in the second slot, of SEQ `seq` and class `cls`,
its range list and completion record behind it. -/
def recordBytes (cls seq : Nat) : List (Nat × Nat × Nat) :=
  [(0x81C0, 8, 0x8040009000), (0x81C8, 4, 2), (0x81D0, 4, 0xFFFFFFFF), (0x81D4, 4, 1),
   (0x9100, 8, 0x8040003000), (0x9108, 1, 128), (0x9109, 1, 2), (0x910A, 1, cls), (0x910B, 1, 1), (0x9114, 4, seq),
   (0x9118, 4, 2 ^ 16 + 16), (0x911C, 4, 2 ^ 16 + 17), (0x9168, 8, 0x804000A000), (0x9188, 8, 0x804000B000),
   (0xA000, 4, 1), (0xA010, 8, 0x8040000000), (0xA018, 4, 2 ^ 14), (0xA01C, 4, 3)]
def queueRegs (en : Nat) : Regs :=
  [(regKey 2 0 16, 0x40008000#32), (regKey 2 0 20, 0x80#32), (regKey 2 0 48, 0x40000000#32), (regKey 2 0 92, BitVec.ofNat 32 en)]
def sQueue (cls seq en : Nat) (ls : List (Nat × Launch)) : State :=
  { poked (State.reset.place []) (recordBytes cls seq) with launches := ls, mon := { Monitor.reset with regs := queueRegs en } }
theorem okProg (e : Except Nat Prog) (h : e.toOption.map (fun p => p.lrec.collective) = some false) : ∃ p, e = .ok p ∧ p.lrec.collective = false := by
  cases e with
  | error => simp [Except.toOption] at h
  | ok p => exact ⟨p, rfl, by simpa [Except.toOption] using h⟩
theorem okList (e : Except Nat (List (Nat × Prog))) (h : e.toOption.map List.length = some 0) : e = .ok [] := by
  cases e with
  | error => simp [Except.toOption] at h
  | ok p => simp [Except.toOption] at h; rw [h]
/-- A queue that is not served, one with an older record still to start, one whose slot is not full; one whose record is of class 6; one
that is admitted. -/
theorem witness_RecordsTaken :
    ((sQueue 7 0 0 []).submits = [] ∧ (sQueue 7 0 0 []).served 0 7 = false) ∧
    (let s := sQueue 7 0 1 [(0, { placeLaunch with started := 0 })]
     ∃ p ∈ s.launches, p.2.vf = 0 ∧ p.2.prog.lrec.cls = 7 ∧ p.2.aborting = none ∧ p.2.status ≤ 1 ∧ p.2.started < p.2.prog.lrec.gangs) ∧
    (let s := sQueue 7 1 1 []
     s.queueVa 0 7 = 0x80400081C0 ∧ s.devGet 0 (0x80400081C0 + 16) 4 = 0xFFFFFFFF ∧ s.devGet 0 0x80400081C0 8 + 256 * (0xFFFFFFFF % max 1 (s.devGet 0 (0x80400081C0 + 8) 4)) = 0x8040009100 ∧
     fld (s.vaBytes 0 0x8040009100 256) 20 4 ≠ (0xFFFFFFFF + 1) % 2 ^ 32) ∧
    (let s := sQueue 6 0 1 []
     s.served 0 7 = true ∧ s.launches = [] ∧ fld (s.vaBytes 0 0x8040009100 256) 20 4 = (0xFFFFFFFF + 1) % 2 ^ 32 ∧ memWf s.mem = true ∧ s.stamps = [] ∧ s.comms = [] ∧
     (recOfBytes (s.vaBytes 0 0x8040009100 256)).cls ≠ 7 ∧ (recOfBytes (s.vaBytes 0 0x8040009100 256)).done.toNat = 0x804000B000) ∧
    Mapped (sQueue 6 0 1 []) 0 (0x80400081C0 + 16) 4 0x81D0 ∧
    Mapped ((sQueue 6 0 1 []).devPut 0 (0x80400081C0 + 16) 4 0) 0 0x804000B000 40 0xB000 ∧ Apart 0x81D0 4 0xB000 40 ∧
    (let s := sQueue 7 0 1 []
     let s1 := s.devPut 0 (0x80400081C0 + 16) 4 0
     let bs := s.vaBytes 0 0x8040009100 256
     s.served 0 7 = true ∧ fld bs 20 4 = 0 ∧ (recOfBytes bs).cls = 7 ∧ (∃ p, s1.readProg 0 0x8040009100 bs = .ok p ∧ p.lrec.collective = false) ∧
     s1.readTemplates 0 (recOfBytes bs) = .ok [] ∧ (recOfBytes bs).cores = false ∧ s.moved = []) :=
  ⟨by decide +kernel, by decide +kernel, by decide +kernel, by decide +kernel, page_mapped _ _ _ _ _ (by decide) (by decide) rfl (by decide +kernel),
   page_mapped _ _ _ _ _ (by decide) (by decide) rfl (by decide +kernel), .inl (by decide), by decide +kernel, by decide +kernel, by decide +kernel,
   okProg _ (by decide +kernel), okList _ (by decide +kernel), by decide +kernel⟩

/-- A search from any neighbourhood on comes to neighbourhood 0. -/
theorem search_zero {α : Type} (n : Nat) (f : Nat → Option α) (h : ∀ m < 48, m ≠ 0 → f m = none) :
    (List.range 48).findSome? (fun k => f ((n + k) % 48)) = f 0 := by
  cases e : f 0 with
  | none =>
    rw [List.findSome?_eq_none_iff]
    intro k _
    rcases Nat.eq_zero_or_pos ((n + k) % 48) with z | z
    · rw [z, e]
    · exact h _ (Nat.mod_lt _ (by decide)) (by omega)
  | some x =>
    cases r : (List.range 48).findSome? (fun k => f ((n + k) % 48)) with
    | none =>
      rw [List.findSome?_eq_none_iff] at r
      have := r ((48 - n % 48) % 48) (List.mem_range.mpr (Nat.mod_lt _ (by decide)))
      rw [show (n + (48 - n % 48) % 48) % 48 = 0 by omega, e] at this
      cases this
    | some y =>
      obtain ⟨k, _, hk⟩ := List.exists_of_findSome?_eq_some r
      rcases Nat.eq_zero_or_pos ((n + k) % 48) with z | z
      · rw [z, e] at hk; exact hk.symm
      · rw [h _ (Nat.mod_lt _ (by decide)) (by omega)] at hk; cases hk
/-- The places that some blocks take in the window of one neighbourhood, by some order of a core's panels. -/
def win (s : State) (n : Nat) (turns : State → Nat → List Nat) (put : State → Nat → Nat → Option State) (part : Partition) (m : Nat) : Option (List Nat) :=
  ((List.range n).foldl (fun (acc : Option (State × List Nat)) i =>
    match acc with
    | none => none
    | some (t, es) =>
      ((windowOfNbh part m).flatMap (fun c => (turns t c).map (fun k => 4 * c + k))).findSome? (fun e =>
        (put t i e).map (fun u => (u, es ++ [e])))) (some (s, []))).map (fun x => x.2)
theorem searchPlace_zero (s : State) (vf : Nat) (may : Nat → Bool) (n n0 : Nat) (turns : State → Nat → List Nat) (put : State → Nat → Nat → Option State)
    (q : Nat × Partition) (h : s.partsOf vf = [q]) (ok : (q.2.booted && !q.2.scrubbing && q.2.incoming.isNone && may q.1) = true)
    (k : ∀ m < 48, m ≠ 0 → win s n turns put q.2 m = none) : s.searchPlace vf may n n0 turns put = win s n turns put q.2 0 := by
  rw [← search_zero n0 (win s n turns put q.2) k]
  unfold State.searchPlace
  simp only [h, List.findSome?_cons, ok, if_true, List.findSome?_nil]
  simp only [win]
  split <;> rename_i e <;> exact e.symm
/-- A block of a gang about to start, put on a core. -/
def gangPut (s : State) (l : Launch) (tmpl : Nat) (t : State) (i e : Nat) : Option State :=
  let r := (l.progOf tmpl).lrec
  let zero := l.prog.lrec.cls == 0
  ({ t with ids := t.ids + 1 } : State).addBlock l.vf zero r (startBlock (t.ids + 1) s.ids i (e / 4) r zero) e
    ((List.range r.wavesPerBlock).map (fun w => startWave (l.progOf tmpl) 0 i w [])) true
/-- Where its blocks go in one window. -/
def gangWin (s : State) (l : Launch) (tmpl : Nat) : Partition → Nat → Option (List Nat) :=
  win (s.newGang l tmpl 0 [] none 0) (l.progOf tmpl).lrec.blocksPerGang (fun t c => t.turns l.vf (l.prog.lrec.cls == 0) (l.progOf tmpl).lrec c) (gangPut s l tmpl)
/-- A launch of one gang that has started `n` of them, with template 63, its leases granted, a spawn queue, an edge. -/
def starter (n : Nat) : Launch :=
  { placeLaunch with
    status := 0, started := n, live := 0, used := [], templates := [(63, placeProg)], tleased := [63], edgeVas := [pageVa]
    prog := { placeProg with lrec := { placeRec with spawnq := 0x8040006000#64, done := 0x804000B000#64 } } }
/-- It alone, its function with one task record; its spawn queue at HEAD and TAIL, its edge with THRESH and one item. -/
def sStart (n head tail thresh items : Nat) : State :=
  { poked (State.reset.place []) [(0x6000, 8, 0x8040007000), (0x6008, 4, 2), (0x600C, 4, head), (0x6010, 4, tail), (0x7000, 4, 63), (0x7010, 4, 63),
      (0x4000, 4, 2), (0x4004, 4, thresh), (0x4008, 4, 0xFFFFFFFF), (0x400C, 4, (0xFFFFFFFF + items) % 2 ^ 32), (0x4014, 4, 63)] with
    waves := [], blocks := [], gangs := [], launches := [(0, starter n)], mon := { Monitor.reset with regs := [(regKey 2 0 40, 1#32)] } }
/-- Function 0 has partition 0 alone, of neighbourhood 0. -/
def ownPart : Nat × Partition := (0, { Partition.reset 0 with vf := 0, booted := true })
theorem startPlace (s : State) (l : Launch) (only : Option Nat) (h : (decide (s.partsOf l.vf = [ownPart]) && (!l.held.elem 0 && (only.map (fun k => k == 0)).getD true) &&
    ((List.range 48).all fun m => m == 0 || (gangWin s l 64 ownPart.2 m).isNone) && gangWin s l 64 ownPart.2 0 == some [0]) = true) :
    s.findPlace l 64 only = some [0] := by
  simp only [Bool.and_eq_true, decide_eq_true_eq, beq_iff_eq, List.all_eq_true, List.mem_range, Bool.or_eq_true, Option.isNone_iff_eq_none] at h
  have ok : (ownPart.2.booted && !ownPart.2.scrubbing && ownPart.2.incoming.isNone && (!l.held.elem ownPart.1 && (only.map (fun o => o == ownPart.1)).getD true)) = true := by
    obtain ⟨a, b⟩ := h.1.1.2
    rw [Bool.and_eq_true]
    exact ⟨rfl, by rw [Bool.and_eq_true]; exact ⟨a, by cases only with | none => rfl | some k => simpa [ownPart] using b⟩⟩
  exact (searchPlace_zero (s.newGang l 64 0 [] none 0) l.vf (fun k => !l.held.elem k && (only.map (fun o => o == k)).getD true) (l.progOf 64).lrec.blocksPerGang
    s.firstWindow (fun t c => t.turns l.vf (l.prog.lrec.cls == 0) (l.progOf 64).lrec c) (gangPut s l 64) ownPart h.1.1.1 ok
    (fun m hm z => (h.1.2 m hm).resolve_left z)).trans h.2
theorem isSome_of {α : Type} (o : Option α) (h : o.isSome = true) : ∃ x, o = some x := Option.isSome_iff_exists.mp h
theorem witness_GangsStart :
    ((sStart 0 0 0 1 0).launch? 0 = some (starter 0) ∧ (starter 0).id = 0 ∧ (starter 0).open_ = true ∧ (starter 0).leased = true ∧
      (starter 0).prog.lrec.cores = false ∧ (starter 0).started < (starter 0).prog.lrec.gangs ∧ (sStart 0 0 0 1 0).isNext (starter 0) .gang = true ∧
      (sStart 0 0 0 1 0).startGang (starter 0) 0 0 [] none [4 * 191] = none) ∧
    (∃ t, (sStart 0 0 0 1 0).startGang (starter 0) 0 0 [] none [4 * 3 + 3] = some t) ∧
    (let s := sStart 0 0xFFFFFFFF 0 1 0
     s.launch? 0 = some (starter 0) ∧ s.spawnWaiting (starter 0) ≠ 0 ∧ s.isNext (starter 0) .spawn = true ∧ ((s.spawnEntry (starter 0) 0).headD 0).toNat % 64 = 63 ∧ look (starter 0).templates 63 ≠ none ∧
     (starter 0).tleased.elem 63 = true ∧ (s.spawnDue (starter 0)).head?.map (fun d => d.2) = some 0) ∧ (sStart 0 0xFFFFFFFF 0 1 0).findPlace (starter 0) 64 (some 0) = some [0] ∧
    (∃ t, (sStart 0 0xFFFFFFFF 0 1 0).startGang (starter 0) 64 0 (((sStart 0 0xFFFFFFFF 0 1 0).spawnEntry (starter 0) 0).drop 1) none [0] = some t) ∧
    (let s := sStart 0 0 0 1 1
     s.launch? 0 = some (starter 0) ∧ 0 < (starter 0).edgeVas.length ∧ (s.edgeOf (starter 0) 0).2.2.2 = 63 ∧
     s.edgeBusy 0 pageVa = false ∧ (s.edgeOf (starter 0) 0).2.2.1 = 1 ∧ (s.edgeOf (starter 0) 0).2.1 = 1 ∧ (starter 0).due = [] ∧
     (s.dueEdges (starter 0)).find? (fun d => d.edge == 0 && d.drain == false) = some ⟨0, s.free, 1, false⟩ ∧
     s.isNext (starter 0) (.edge 0) = true) ∧ (sStart 0 0 0 1 1).findPlace (starter 0) 64 none = some [0] ∧
    (∃ t, (sStart 0 0 0 1 1).startGang (starter 0) 64 0 [0x40004000#32, 0x80#32, 1#32] (some 0) [0] = some t) ∧
    (let s := sStart 1 0 0 2 1
     s.launch? 0 = some (starter 1) ∧ s.onlyConsumers (starter 1) = true ∧ (s.edgeOf (starter 1) 0).2.2.2 = 63 ∧
     (s.edgeOf (starter 1) 0).2.2.1 = 1 ∧ (s.edgeOf (starter 1) 0).2.1 = 2 ∧
     (s.dueEdges (starter 1)).find? (fun d => d.edge == 0 && d.drain == true) = some ⟨0, s.free, 1, true⟩ ∧
     s.isNext (starter 1) (.edge 0) = true) ∧ (sStart 1 0 0 2 1).findPlace (starter 1) 64 none = some [0] ∧
    (∃ t, (sStart 1 0 0 2 1).startGang (starter 1) 64 0 [0x40004000#32, 0x80#32, 1#32] (some 0) [0] = some t) :=
  ⟨by decide +kernel, isSome_of _ (by decide +kernel), by decide +kernel, startPlace _ _ _ (by decide +kernel), isSome_of _ (by decide +kernel),
   by decide +kernel, startPlace _ _ _ (by decide +kernel), isSome_of _ (by decide +kernel), by decide +kernel, startPlace _ _ _ (by decide +kernel),
   isSome_of _ (by decide +kernel)⟩

/-- A launch whose one gang has ended, or runs, its completion record on the page. -/
def ended (live : Nat) : Launch :=
  { placeLaunch with live := live, tstart := some 5, prog := { placeProg with lrec := { placeRec with done := 0x804000B000#64 } } }
def sEnded (live : Nat) : State := { State.reset.place [] with waves := [], blocks := [], gangs := [], launches := [(0, ended live)] }
/-- Bucket 1023 at time `now` with CTRL `ctrl`, level 1, refill 0xFFFFFFFF and cap 0xFFFFFFFE. -/
def sRefill (ctrl now : Nat) (last : List Refill) : State :=
  { poked (State.reset.place []) [(0xBFF0, 4, 1), (0xBFF4, 4, 0xFFFFFFFF), (0xBFF8, 4, 0xFFFFFFFE), (0xBFFC, 4, ctrl)] with
    mon := { Monitor.reset with regs := [(regKey 2 0 24, 0x40008000#32), (regKey 2 0 28, 0x80#32)] }
    clock := { Clock.reset with now := now }
    refills := last, tags := [⟨0, 1023, 9, 4⟩, ⟨0, 1022, 9, 4⟩] }
theorem refill_mapped (c n : Nat) (l : List Refill) (h : (let s := sRefill c n l
    (s.vfDword 0 8 == 0 && s.homeNat 0 8 == 0x1001 && s.homeNat 0x1008 8 == 0x2001 && s.homeNat 0x2008 8 == 0x1F && s.tlb.isEmpty) &&
      s.bucketVa 0 1023 == 0x8040000000 + 0xBFF0) = true) :
    Mapped (sRefill c n l) 0 ((sRefill c n l).bucketVa 0 1023) 16 0xBFF0 :=
  page_mapped _ _ _ _ _ (by decide) (by decide) (eq_of_beq (Bool.and_eq_true_iff.mp h).2) (Bool.and_eq_true_iff.mp h).1
theorem witness_DispatcherEnds :
    ((sEnded 1).launch? 0 = some (ended 1) ∧ (ended 1).aborting = none ∧ (sEnded 1).allDone (ended 1) = false) ∧
    ((sEnded 0).launch? 0 = some (ended 0) ∧ (sEnded 0).allDone (ended 0) = true ∧ (ended 0).coll = none ∧ (ended 0).prog.lrec.tcb = 0 ∧
      (sEnded 0).comms = [] ∧ risingFrom 0 (sEnded 0).launches = true ∧ (ended 0).tstart = some 5) ∧
    Published (sEnded 0) (ended 0) ∧ Orderly (sEnded 0) ∧ Mapped (sEnded 0) 0 (ended 0).prog.lrec.done.toNat 40 0xB000 ∧
    (Orderly (sRefill 0x1001 10000 []) ∧ Mapped (sRefill 0x1001 10000 []) 0 ((sRefill 0x1001 10000 []).bucketVa 0 1023) 16 0xBFF0 ∧
      (sRefill 0x1001 10000 []).homeNat (0xBFF0 + 12) 4 = 0x1001 ∧ ¬∃ r ∈ (sRefill 0x1001 10000 []).refills, r.instant = 10000) ∧
    ((sRefill 0x1000 10000 []).homeNat (0xBFF0 + 12) 4 = 0x1000 ∧ Mapped (sRefill 0x1000 10000 []) 0 ((sRefill 0x1000 10000 []).bucketVa 0 1023) 16 0xBFF0) ∧
    ((sRefill 1 10000 []).homeNat (0xBFF0 + 12) 4 = 1 ∧ Mapped (sRefill 1 10000 []) 0 ((sRefill 1 10000 []).bucketVa 0 1023) 16 0xBFF0) ∧
    ((sRefill 0x1001 10001 []).clock.now % 10000 ≠ 0 ∧ Mapped (sRefill 0x1001 10001 []) 0 ((sRefill 0x1001 10001 []).bucketVa 0 1023) 16 0xBFF0) ∧
    (∃ r ∈ (sRefill 0x1001 10000 [⟨0, 1023, 10000⟩]).refills, r.vf = 0 ∧ r.bucket = 1023 ∧ r.instant = 10000) ∧
    (∀ p ∈ (sEnded 0).launches, p.2.leased = true) ∧
    (let x : Resident := { id := 9, vf := 0, range := ⟨0x8040000000, 2 ^ 30, 3⟩, leases := 0, released := 0, evicting := true, away := false }
     let s : State := { sEnded 0 with residents := [x] }
     ∃ l, s.residents.filter (fun y => y.id == 9 && y.evicting) = [x] ∧ s.rangePages x.vf x.range = [(0x8040000000, some l)] ∧ isDevice l.frame = true ∧
      0x8040000000 + l.bytes ≤ x.range.va % 2 ^ 57 + x.range.len) :=
  ⟨by decide +kernel, by decide +kernel, .inr (by decide +kernel), orderly_of _ (by decide +kernel) rfl,
   page_mapped _ _ _ _ _ (by decide) (by decide) rfl (by decide +kernel), ⟨orderly_of _ (by decide +kernel) rfl, refill_mapped _ _ _ (by decide +kernel), by decide +kernel, by decide +kernel⟩,
   ⟨by decide +kernel, refill_mapped _ _ _ (by decide +kernel)⟩, ⟨by decide +kernel, refill_mapped _ _ _ (by decide +kernel)⟩,
   ⟨by decide +kernel, refill_mapped _ _ _ (by decide +kernel)⟩, by decide +kernel, by decide +kernel, ⟨⟨2, 0x2008, 0x1F⟩, by decide +kernel⟩⟩

/-- An invalidation of one byte, the last of a doubleword that a load is to read, or the one after it. -/
def sInval (va : Nat) : State :=
  { path (wave [{ lane 0 with acc := [⟨placeVa, .load 8 false 5, .phys 0x4000, BitVec.ofNat 64 pageVa, none, none, 0, 0, none, false⟩] }]) [] with invals := [⟨7, 0, va, 1, 1⟩] }
/-- Partition 1 of neighbourhood 1, or 0, with a slice table in which the slice of function 9 begins now. -/
def part (n vf : Nat) : Partition := { Partition.reset n with vf := vf }
def sPart (p : Partition) : State :=
  { s1 with
    partitions := [(1, p)], clock := { Clock.reset with now := 1000005 }
    mon := { Monitor.reset with regs := [(regKey 5 1 0, 5#32), (regKey 5 1 8, 2000000#32), (regKey 5 1 16, 2#32), (regKey 5 1 32, 8#32),
      (regKey 5 1 40, 9#32), (regKey 5 1 44, 1000000#32)] } }
theorem witness_SliceTable : (sPart (part 1 8)).sliceTable 1 = some (5, 2000000, [(8, 0), (9, 1000000)]) := by decide +kernel
theorem witness_Tenancy :
    ((sInval (pageVa + 7)).invals.find? (fun x => x.id == 7) = some ⟨7, 0, pageVa + 7, 1, 1⟩ ∧
      ∃ w ∈ (sInval (pageVa + 7)).waves, ∃ t ∈ w.lanes, ∃ a ∈ t.acc, Inval.holds ⟨7, 0, pageVa + 7, 1, 1⟩ ((sInval (pageVa + 7)).vfOf w.blk) a = true) ∧
    ((sInval (pageVa + 8)).invals.find? (fun x => x.id == 7) = some ⟨7, 0, pageVa + 8, 1, 1⟩ ∧
      ¬∃ w ∈ (sInval (pageVa + 8)).waves, ∃ t ∈ w.lanes, ∃ a ∈ t.acc, Inval.holds ⟨7, 0, pageVa + 8, 1, 1⟩ ((sInval (pageVa + 8)).vfOf w.blk) a = true) ∧
    (look (sPart (part 1 8)).partitions 1 = some (part 1 8) ∧ (part 1 8).incoming = none ∧ (part 1 8).scrubbing = false ∧
      (sPart (part 1 8)).slice 1 (sPart (part 1 8)).clock.now = some (9, (sPart (part 1 8)).clock.now) ∧ (sPart (part 1 8)).partGangs (part 1 8) = []) ∧
    (s1.slice 1 s1.clock.now = none ∧ look s1.partitions 256 = none ∧ s1.invals = []) ∧
    (let p : Partition := { part 1 9 with incoming := some 8 }
     look (sPart p).partitions 1 = some p ∧ 9 ≠ p.queued.getD 8) ∧
    (1 ∈ (sPart (part 0 8)).partGangs (part 0 8) ∧ (sPart (part 0 8)).gang? 1 = some placeGang ∧ placeGang.id = 1) ∧
    (let p : Partition := { part 1 8 with scrubbing := true, incoming := some 9 }
     look (sPart p).partitions 1 = some p ∧ p.queued = none ∧ 7 ∈ p.cores) ∧
    ((part 1 8).vf ≠ 9 ∧ ¬(part 1 8).vf ≠ 8) ∧
    (State.reset.mon.recovery = false ∧ State.reset.mon.bootStage < 2 ∧
      ({ Monitor.reset with recovery := true } : Monitor).recovery = true ∧ ([] : List Byte).length ≠ 1024 ∧ fld (List.replicate 1024 (0 : Byte)) 0 4 ≠ 0x4E5A4952) ∧
    (let s : State := { sPart (part 1 8) with mon := { Monitor.reset with bootStage := 2, regs := [(regKey 2 5 4, 1#32), (regKey 2 5 92, 1#32)] } }
     s.mon.recovery = false ∧ 2 ≤ s.mon.bootStage ∧ look s.partitions 1 = some (part 1 8) ∧ risingFrom 0 s.mon.regs = true ∧ s.vfWord 5 4 = 1) := by
  decide +kernel

/-- A gang stopped since 0, its one live thread ready, or parked at a notch; the wall clock. -/
def stopping (t : Thread) (wall : Nat) : State :=
  { path (wave [t]) [] with gangs := [(1, { placeGang with stop := true })], clock := { Clock.reset with wall := wall } }
def parked : Thread := { lane 0 with wait := .notch }
/-- The placed gang saved. -/
def saved (halt : Bool) : Image :=
  { id := 1, gang := placeGang, hard := false, halt := halt, lined := false, tsave := 0,
    blocks := [{ block := placeBlock, waves := [wave [lane 0]], slots := [], tiles := [], latch := none, holder := none }], phases := [], edits := [] }
def sSaved (halt : Bool) : State := { State.reset.place [] with waves := [], blocks := [], gangs := [], images := [(1, saved halt)] }
theorem witness_Preemption :
    (s1.gang? 1 = some placeGang ∧ placeGang.id = 1 ∧ s1.launch? placeGang.launch = some placeLaunch) ∧
    ((stopping (lane 0) 199999).gang? 1 = some { placeGang with stop := true } ∧ (stopping (lane 0) 199999).clock.wall < 0 + 200000) ∧
    ((stopping (lane 0) 200000).gang? 1 = some { placeGang with stop := true } ∧ placeGang.still = false ∧ 0 + 200000 ≤ (stopping (lane 0) 200000).clock.wall ∧
      (∀ v ∈ (stopping (lane 0) 200000).waves, ∀ u ∈ v.lanes, u.acc = []) ∧ (stopping (lane 0) 200000).wave? 0 0 = some w1 ∧
      (stopping (lane 0) 200000).inGang 1 w1 = true ∧ w1.lane? 0 = some (lane 0) ∧ (lane 0).live = true ∧ (lane 0).due = none ∧ (lane 0).endChk = false ∧
      (lane 0).wait = .no) ∧
    ((stopping parked 200000).wave? 0 0 = some (wave [parked]) ∧ (wave [parked]).lane? 0 = some parked ∧ parked.live = true ∧ parked.due = none) ∧
    ((∃ b ∈ (stopping (lane 0) 0).blocksOf 1, b.ended = false ∧ b.away = none) ∧ (∀ v ∈ (stopping (lane 0) 0).waves, v.lining = none ∧ ∀ u ∈ v.lanes, u.acc = []) ∧
      (stopping (lane 0) 0).coreRests 1 0 = false) ∧
    ((stopping parked 0).blocksOf 1 = [placeBlock] ∧ placeBlock.ended = false ∧ placeBlock.away = none ∧ placeBlock.core = 0 ∧
      (∀ v ∈ (stopping parked 0).waves, v.lining = none ∧ ∀ u ∈ v.lanes, u.acc = []) ∧ placeBlock.queues.all List.isEmpty = true ∧
      (∀ p ∈ (stopping parked 0).cores, p.2.matOps = []) ∧
      (stopping parked 0).coreRests 1 0 = true ∧ (stopping parked 0).coreDrained 1 0 = true ∧ risingFrom 0 (stopping parked 0).gangs = true) ∧
    (look (sSaved true).images 1 = some (saved true) ∧ (saved true).id = 1 ∧ (sSaved true).launch? 0 = some placeLaunch ∧ placeLaunch.prog.lrec.cores = false) ∧
    (look (sSaved false).images 1 = some (saved false) ∧ (sSaved false).launch? 0 = some placeLaunch ∧ placeLaunch.aborting = none ∧ (sSaved false).gang? 1 = none ∧ risingFrom 0 (sSaved false).images = true ∧
      (saved false).wrong = false ∧ placeLaunch.halted = false ∧
      (State.resume { sSaved false with images := eraseAt (sSaved false).images 1 } (Image.found (sSaved false) (saved false)) [4 * 191] = none) ∧
      State.resume { sSaved false with images := eraseAt (sSaved false).images 1 } (Image.found (sSaved false) (saved false)) [4 * 3 + 3] ≠ none) ∧
    (let m : Image := { saved false with edits := [(15, 1)] }
     m.wrong = true ∧ m.halt = false) := by decide +kernel

/-- A launch in a debug halt, its one gang saved. -/
def haltedLaunch : Launch := { ended 1 with halted := true, used := [] }
def sHalt : State := { sSaved true with launches := [(0, haltedLaunch)] }
theorem witness_Halts :
    (s1.launch? 0 = some placeLaunch ∧ placeLaunch.halted = false ∧ ∀ p ∈ s1.images, p.2.gang.launch = 0 → p.2.halt = false) ∧
    (sHalt.launch? 0 = some haltedLaunch ∧ haltedLaunch.aborting = none ∧ haltedLaunch.status ≤ 1 ∧ haltedLaunch.coll = none ∧ haltedLaunch.pubReq = none ∧
      haltedLaunch.used = [] ∧ haltedLaunch.halted = true ∧ sHalt.comms = [] ∧ (∀ p ∈ sHalt.gangs, p.2.launch ≠ 0) ∧ risingFrom 0 sHalt.launches = true ∧
      look sHalt.images 1 = some (saved true)) ∧
    Published sHalt haltedLaunch ∧ Orderly sHalt ∧ Mapped sHalt 0 haltedLaunch.prog.lrec.done.toNat 40 0xB000 :=
  ⟨by decide +kernel, by decide +kernel, .inr (by decide +kernel), orderly_of _ (by decide +kernel) rfl,
   page_mapped _ _ _ _ _ (by decide) (by decide) rfl (by decide +kernel)⟩

/-! ## Collectives -/

/-- A collective of one chunk of 8 bytes, and instance 5 of it: fired, or ended. -/
def coll : Coll :=
  { cdesc := 0x8040004000#64, inst := 5, op := 0, red := 0, role := 1, rbase := 0x8040020000, rstride := 256, chunk := 8, nchunk := 1, rbobj := 0,
    mul := [0, 0, 0, 0, 0, 0, 0, 0], root := 0 }
def inst (ab : Option (Nat × Nat)) (fired : List Nat) : CollInst :=
  { inst := 5, launch := 0, coll := coll, fired := fired, done := [], written := [], torn := [], folded := [], aborted := ab, complete := false,
    breached := [], turn := 0 }
/-- A communicator of two ranks and two slots of 256 bytes, its spool of one place. -/
def comm : Comm :=
  { id := 1, vf := 0, cdesc := 0x8040004000#64, pa := 0x4000, commid := 0, nrank := 2, rank := 0, peers := [0, 1], home := 0, vc := 2, prio := 0, sched := 0,
    nslot := 2, dens := 0, slotb := 256, spoolVa := 0x8040010000, spoolCap := 1, abrec := 0x8040005000#64, instances := [], notices := [], slots := [],
    spool := [], cmds := [], events := [], lastServed := 0, sent := [] }
def chunkSlot : ChunkSlot := ⟨5, 0, 1, [1, 2, 3, 4, 5, 6, 7, 8], 1⟩
def working : Comm := { comm with instances := [inst none [0]] }
def full : Comm := { comm with slots := [(0, chunkSlot), (1, chunkSlot)] }
def spooled : Comm := { full with spool := [(0, chunkSlot)] }
/-- Instance 4 is the last that is done here. -/
def sComm (k : Comm) (ctrl : Nat) : State := { poked s1 [(0x401C, 4, ctrl), (0x4038, 4, 4)] with comms := [(1, k)] }
theorem witness_Chunks :
    (look (sComm comm 3).comms 1 = some comm ∧ comm.inst? 5 = none ∧ comm.freeSlot = some 0 ∧ comm.spool = [] ∧ (sComm comm 3).current comm = none ∧ ¬comm.nrank ≤ 1 ∧
      comm.nrank ≤ 2 ∧ comm.slotb < (List.replicate 257 (0 : Byte)).length ∧ (List.replicate 256 (0 : Byte)).length ≤ comm.slotb ∧
      (sComm comm 3).tooLate comm 5 = false ∧ (sComm comm 3).tooLate comm 4 = true ∧ (sComm comm 3).peerState 1 ≠ 1 ∧ (sComm comm 3).scheduled comm = false) ∧
    (∀ x ∈ ({ comm with instances := [inst (some (1, 1)) []] } : Comm).instances, x.inst = 5 → x.over_ = true) ∧
    (full.freeSlot = none ∧ full.freePlace = some 0 ∧ (sComm full 3).spoolOk full 0 256 = true) ∧ (spooled.spool ≠ [] ∧ spooled.freePlace = none) ∧
    (let k : Comm := { spooled with slots := [(0, chunkSlot)] }
     k.freeSlot = some 1 ∧ k.spool = [(0, chunkSlot)] ∧ (sComm k 3).comms.find? (fun p => p.2.commid == k.commid) = some (1, k) ∧
     (sComm k 3).comms.find? (fun p => p.2.commid == 0xFFFFFFFF) = none ∧ (sComm k 3).spoolOk k 0 chunkSlot.data.length = true ∧ (sComm k 3).spoolFar k 0 chunkSlot.data.length = []) ∧
    (look (sComm working 3).comms 1 = some working ∧ (sComm working 3).current working = some (inst none [0]) ∧ (sComm working 3).scheduled working = false ∧ 1 < working.nslot ∧
      working.nslot ≤ 2) ∧
    (({ comm with instances := [inst none []] } : Comm).inst? 5 = some (inst none []) ∧ (inst none []).active = false ∧ (inst none []).over_ = false ∧
      (sComm { comm with instances := [inst none []] } 3).comms.find? (fun p => p.2.commid == 0) = some (1, { comm with instances := [inst none []] })) ∧
    ((sComm comm 3).homeNat (comm.pa + 28) 4 = 3 ∧ (sComm comm 2).homeNat (comm.pa + 28) 4 = 2 ∧ (∃ x ∈ working.instances, x.aborted = none ∧ x.complete = false) ∧
      (¬∃ x ∈ comm.instances, x.aborted = none ∧ x.complete = false) ∧
      (¬∃ l ∈ (sComm comm 2).launches, l.2.vf = comm.vf ∧ l.2.status ≤ 1 ∧ l.2.coll.isSome = true) ∧ risingFrom 0 (sComm comm 2).comms = true) ∧ Orderly (sComm comm 2) :=
  ⟨by decide +kernel, by decide +kernel, by decide +kernel, by decide +kernel, by decide +kernel, by decide +kernel, by decide +kernel,
   by decide +kernel, orderly_of _ (by decide +kernel) rfl⟩

/-- The communicator with one command, chunk 0 in slot 1. -/
def commanded (c : BobCmd) : Comm := { working with cmds := [c], slots := [(1, chunkSlot)] }
def waiter : Launch := { placeLaunch with coll := some { coll with role := 2 } }
theorem witness_ChunkSteps :
    ((sComm (commanded (.free 1)) 3).comms.filter (fun p => p.2.home == 0) = [(1, commanded (.free 1))] ∧
      look (sComm (commanded (.free 1)) 3).comms 1 = some (commanded (.free 1)) ∧ (sComm (commanded (.free 1)) 3).scheduled (commanded (.free 1)) = false ∧
      (sComm (commanded (.free 1)) 3).nextCmd (commanded (.free 1)) = some (0, .free 1) ∧ (commanded (.free 1)).isReady (.free 1) = true ∧
      (∀ x ∈ (commanded (.free 1)).instances, x.active = true → (commanded (.free 1)).isComplete x = false) ∧
      risingFrom 0 (commanded (.free 1)).slots = true) ∧
    ((sComm (commanded (.done 5 0)) 3).nextCmd (commanded (.done 5 0)) = some (0, .done 5 0) ∧ (commanded (.done 5 0)).isReady (.done 5 0) = true ∧ (commanded (.done 5 0)).inst? 5 = some (inst none [0]) ∧ (inst none [0]).fired ≠ [] ∧
      (∀ c < (inst none [0]).coll.nchunk, c ∈ (inst none [0]).done ∨ c = 0)) ∧ Orderly (sComm (commanded (.done 5 0)) 3) ∧
    ((sComm (commanded (.write 5 1 0)) 3).nextCmd (commanded (.write 5 1 0)) = some (0, .write 5 1 0) ∧ (commanded (.write 5 1 0)).isReady (.write 5 1 0) = true ∧
      look (commanded (.write 5 1 0)).slots 1 = some chunkSlot ∧ coll.resultHere 2 0 0 = true ∧ { coll with op := 3 }.resultHere 2 0 0 = false) ∧
    Mapped (sComm (commanded (.write 5 1 0)) 3) 0 ((inst none [0]).coll.chunkVa 0) (chunkSlot.data.take 8).length 0x20000 ∧
    Apart 0x20000 (chunkSlot.data.take 8).length (0x4000 + 56) 4 ∧
    (let k : Comm := { working with slots := [(1, chunkSlot)], spool := [(0, chunkSlot)] }
     look (sComm k 3).comms 1 = some k ∧ (sComm k 3).current k = some (inst none [0]) ∧ k.inst? 5 = some (inst none [0]) ∧
     waiter.vf = k.vf ∧ waiter.coll = some { coll with role := 2 }) :=
  ⟨by decide +kernel, by decide +kernel, orderly_of _ (by decide +kernel) rfl, by decide +kernel,
   page_mapped _ _ _ _ _ (by decide +kernel) (by decide) (by rfl) (by decide +kernel), .inr (by decide), by decide +kernel⟩

/-! ## The host, peers, ports, time -/

/-- Nothing is guarded after a write where there is no tile and no communicator. -/
theorem unguarded (s : State) (pa : Nat) (bs : List Byte) (pls : List Place) (h : (s.cores.map (fun c => c.2.tiles)).all List.isEmpty = true)
    (k : s.comms = []) :
    NoSpill (s.homeWriteBytes none pa bs) pls ∧ NoChunk (s.homeWriteBytes none pa bs) pls :=
  ⟨noSpill_of _ _ (by rw [← h, ← State.homeWriteBytes_tiles none bs s pa, List.all_map]; rfl), noChunk_of _ _ ((State.homeWriteBytes_comms _ _ _ _).trans k)⟩

/-- A window of function 0 from the page's 0x4000 on. -/
def sWindow : State := { s1 with mon := { Monitor.reset with regs := [(regKey 0 0 0, 0x40004000#32), (regKey 0 0 4, 0x80#32), (regKey 0 0 8, 1#32)] } }
def request (region : Nat) (k : ReqKind) : Request :=
  { id := 7, grps := [7], region := region, peer := 3, pa := 0x4000000000000 + 64, len := 2, who := ⟨0, 0, 0, placeVa, 2⟩, kind := k, data := [],
    sentAt := 0, heldNs := 1, pasid := none, outdated := false, vf := some 0, vc := 1 }
def loadingAcc : Access := ⟨placeVa, .load 2 false 5, .phys 0x4000000000040, 0, some 7, none, 0, 0, none, false⟩
def loading : Thread := { lane 0 with acc := [loadingAcc] }
def sRequest (region : Nat) (k : ReqKind) (wall : Nat) : State :=
  { path (wave [loading]) [] with requests := [request region k], clock := { Clock.reset with wall := wall } }
/-- Peer 3 of an Enzar make in a state. -/
def sPeer (s : State) (st : Nat) : State := { s with mon := { Monitor.reset with regs := [(regKey 3 3 4, BitVec.ofNat 32 (1 + 256 * st))] } }
theorem witness_HostAndPeers :
    sWindow.windowRange 0 (2 ^ 30 - 0x4002) 2 false = some [0x3FFFFFFE, 0x3FFFFFFF] ∧ sWindow.windowRange 0 (2 ^ 30 - 0x4001) 2 false = none ∧
    (sWindow.windowRange 0 0 2 true = some [0x4000, 0x4001] ∧ [0x4000, 0x4001].Nodup) ∧ Orderly sWindow ∧ sWindow.windowRange 1 0 2 true = none ∧
    ((sRequest 0 .write 0).request? 7 = some (request 0 .write) ∧ (sRequest 2 (.chunk 0 0 0) 0).request? 7 = some (request 2 (.chunk 0 0 0)) ∧
      (sRequest 0 .posted 0).request? 7 = some (request 0 .posted) ∧ (sRequest 0 .read 0).request? 7 = some (request 0 .read) ∧
      (∀ i, i < 2 → look (sRequest 0 .read 0).copies ((request 0 .read).pa + i) = none ∧
        ((sRequest 0 .read 0).endRequest (request 0 .read)).inFlight ((request 0 .read).pa + i) = false) ∧ (request 0 .read).outdated = false) ∧ Orderly (sRequest 0 .read 0) ∧
    ((sRequest 1 .read 50000).request? 7 = some (request 1 .read) ∧
      (sRequest 1 .read 50000).reqAge (request 1 .read) < (sRequest 1 .read 50000).timeoutRange.1) ∧
    ((sRequest 1 .read 50001).timeoutRange.1 ≤ (sRequest 1 .read 50001).reqAge (request 1 .read) ∧ (sRequest 1 .read 50001).lane? 0 0 0 = some loading ∧
      ((sRequest 1 .read 50001).core 0).window = [] ∧ loading.accessOf (request 1 .read) = some 0 ∧ loading.acc[0]? = some loadingAcc) ∧
    ((sPeer s1 1).peerState 3 = 1 ∧ (sPeer s1 0).peerState 3 ≠ 1 ∧ isDevice 0x4000 = true ∧ isDevice (0x4000 + 256 - 1) = true ∧ isCap 256 = true ∧ 0x4000 % 256 = 0) ∧
    (isDevice (0x4000 + 8 - 1) = true ∧ isCap 8 = true ∧ peerOps[3 - 2]? = some .cas ∧ peerOps[14 - 2]? = some .addf) ∧ Orderly (sPeer s1 0) ∧
    (∀ pls, NoSpill sWindow pls ∧ NoMisuse sWindow pls ∧ NoMisuse (sPeer s1 0) pls) ∧ (∀ pls, NoSpill (sWindow.homeScatter [0x4000, 0x4001] [1, 2]) pls ∧ NoChunk (sWindow.homeScatter [0x4000, 0x4001] [1, 2]) pls) ∧
    ∀ pa bs pls, NoSpill ((sPeer s1 0).homeWriteBytes none pa bs) pls ∧ NoChunk ((sPeer s1 0).homeWriteBytes none pa bs) pls :=
  ⟨by decide +kernel, by decide +kernel, by decide +kernel, orderly_of _ (by decide +kernel) rfl, by decide +kernel, by decide +kernel,
   orderly_of _ (by decide +kernel) rfl, by decide +kernel, by decide +kernel, by decide +kernel, by decide +kernel, orderly_of _ (by decide +kernel) rfl,
   fun _ => ⟨noSpill_of _ _ rfl, noMisuse_of _ _ rfl, noMisuse_of _ _ rfl⟩, fun _ => ⟨noSpill_of _ _ (by decide +kernel), noChunk_of _ _ (by decide +kernel)⟩, fun _ _ _ => unguarded _ _ _ _ (by decide +kernel) rfl⟩

/-- A hold of peer 3 since 0, its last notice then. -/
def sHold (st wall : Nat) (ig : Bool) : State :=
  { sPeer s1 st with holds := [⟨3, 0, 0, ig⟩], clock := { Clock.reset with wall := wall } }
theorem witness_FencesAndHolds :
    (let s := sPeer (sRequest 2 .read 1000000) 0
     s.request? 7 = some (request 2 .read) ∧ s.reqAge (request 2 .read) < (s.reg 3 3 0).toNat * 10000) ∧
    (let s := sPeer (sRequest 2 .read 1000001) 0
     s.request? 7 = some (request 2 .read) ∧ s.peerState 3 ≠ 2 ∧ (s.reg 3 3 0).toNat * 10000 ≤ s.reqAge (request 2 .read) ∧
     s.reg 3 3 8 ≠ 0xFFFFFFFF#32 ∧ s.comms = [] ∧ (s.cores.all fun c => c.2.window.isEmpty) = true ∧ s.copyOf (request 2 .read) = none) ∧
    ((sPeer s1 0).peerState 3 ≠ 1 ∧ (sPeer s1 1).peerState 3 = 1 ∧ risingFrom 0 (sPeer s1 1).mon.regs = true) ∧
    ((sPeer s1 0).peerMake 3 = 1 ∧ (sPeer s1 0).hold? 3 = none ∧ s1.peerMake 3 ≠ 1) ∧
    ((sHold 2 1 true).peerMake 3 = 1 ∧ (sHold 2 1 true).hold? 3 = some ⟨3, 0, 0, true⟩ ∧
      (∀ h ∈ (sHold 2 1 true).holds, (sHold 2 1 true).clock.wall < h.last + 2000000 ∧ (h.ignoring = true ∨ (sHold 2 1 true).clock.wall < h.began + 30000000000)) ∧
      (sPeer s1 0).holds = []) ∧
    ((sHold 2 2000000 false).holds = [⟨3, 0, 0, false⟩] ∧ (sHold 2 2000000 false).peerMake 3 = 1 ∧ (sHold 2 2000000 false).peerState 3 = 2) ∧
    ((sHold 2 1999999 false).clock.wall < 0 + 2000000 ∧ 0 + 2000000 ≤ (sHold 2 2000000 false).clock.wall ∧ risingFrom 0 (sHold 2 2000000 false).mon.regs = true) ∧
    ((sHold 2 29999999999 false).clock.wall < 0 + 30000000000 ∧ (sHold 2 30000000000 false).peerState 3 = 2 ∧
      0 + 30000000000 ≤ (sHold 2 30000000000 false).clock.wall) ∧
    (let s : State := { sHold 2 1000000 false with retraining := [(15, 0)], noticed := [(3, 0)] }
     s.retraining ≠ [] ∧ s.peerMake 3 ≠ 0 ∧ look s.noticed 3 = some 0 ∧ (∀ a, look s.noticed 3 = some a → a + 1000000 ≤ s.clock.wall) ∧
     look s.retraining 15 ≠ none ∧ look s.retraining 14 = none ∧ risingFrom 0 s.retraining = true) ∧
    (let s : State := { sHold 2 999999 false with retraining := [(15, 0)], noticed := [(3, 0)] }
     look s.noticed 3 = some 0 ∧ s.clock.wall < 0 + 1000000) := by
  refine ⟨by decide +kernel, by decide +kernel, by decide +kernel, by decide +kernel, by decide +kernel, by decide +kernel, by decide +kernel, by decide +kernel, ?_, by decide +kernel⟩
  refine ⟨by decide +kernel, by decide +kernel, by decide +kernel, fun a h => ?_, by decide +kernel, by decide +kernel, by decide +kernel⟩
  rw [show look ({ sHold 2 1000000 false with retraining := [(15, 0)], noticed := [(3, 0)] } : State).noticed 3 = some 0 by decide +kernel] at h
  cases h
  decide +kernel

/-- The data on the page, the entry behind it; beyond the page a fault, in a ring without room and with it. -/
def sPort (cap : Nat) : State := { s1 with mon := { Monitor.reset with regs := [(regKey 2 0 80, 0x10000#32), (regKey 2 0 88, BitVec.ofNat 32 cap)] } }
theorem witness_PortsAndTime :
    ((∀ b, (sPort 0).portFault 0 0x8040004000 2 b = none) ∧ (sPort 0).portFault 0 0x8040005000 4 true = none ∧ Orderly (sPort 0) ∧ NoAreas (sPort 0) ∧
      (∀ m pls, NoMisuse { sPort 0 with mem := m } pls) ∧
      Mapped (sPort 0) 0 0x8040004000 2 0x4000 ∧ Mapped (sPort 0) 0 0x8040005000 4 0x5000 ∧
      (∀ m, (∀ x, Apart x 1 0x4000 2 → readMem m x = readMem (sPort 0).mem x) → Mapped { sPort 0 with mem := m } 0 0x8040005000 4 0x5000) ∧
      Apart 0x4000 2 0x5000 4) ∧
    ((sPort 0).portFault 0 0x807FFFFFFF 2 true = some (0x8080000000, 1, 2) ∧ (sPort 0).ringFull 0 = true) ∧
    ((sPort 1).portFault 0 0x807FFFFFFF 2 false = some (0x8080000000, 1, 2) ∧ (sPort 1).ringFull 0 = false) ∧
    (s1.clock.lock = false ∧ ({ Clock.reset with lock := true, losses := 0xFFFF } : Clock).lock = true) := by
  refine ⟨⟨by decide +kernel, by decide +kernel, orderly_of _ (by decide +kernel) rfl, noAreas_of _ rfl rfl, fun _ _ => noMisuse_of _ _ rfl,
    page_mapped _ _ _ _ _ (by decide) (by decide) rfl (by decide +kernel), page_mapped _ _ _ _ _ (by decide) (by decide) rfl (by decide +kernel), fun m h => ?_, .inl (by decide)⟩, by decide +kernel, by decide +kernel, by decide +kernel⟩
  have low : ∀ x, x < 0x3000 → readMem m x = readMem (sPort 0).mem x := fun x hx => h x (.inl (by omega))
  exact mapped_of _ _ _ _ _ (by decide) (by decide) rfl (show (sPort 0).vfDword 0 8 = 0 by decide +kernel) ((homeNat_of _ _ 0 8 low (by decide)).trans (by decide +kernel))
    ((homeNat_of _ _ 0x1008 8 low (by decide)).trans (by decide +kernel)) ((homeNat_of _ _ 0x2008 8 low (by decide)).trans (by decide +kernel)) rfl

/-! ## Reliability, the monitor -/

/-- The placed gang, GWDOG at `ms`, the health ring with room for 2 records, events of unit 0x10020003 at the given times. -/
def sHealth (ms wall : Nat) (evs : List Nat) : State :=
  { path w1 [] with
    clock := { Clock.reset with wall := wall }
    mon :=
      { Monitor.reset with
        regs := [(regKey 1 0 0x1000C, BitVec.ofNat 32 ms), (regKey 1 0 0x10010, 0x10000#32), (regKey 1 0 0x10018, 2#32)]
        events := evs.map (fun e => (0x10020003, e)) } }
/-- Core 191 with a row due, and 0xFF, for the test of all of them. -/
def sRows (v : List (Nat × Word)) : State :=
  { s1 with cores := [(191, { Core.reset with rowsDue := [7, 0xFF] })], mon := { Monitor.reset with regs := v } }
theorem witness_Reliability :
    ((sHealth 1 1999999 []).gang? 1 = some placeGang ∧ placeGang.id = 1 ∧ placeGang.stop = false ∧ placeGang.rolling = false ∧
      (sHealth 1 1999999 []).clock.wall < placeGang.openedAt + 2000000 ∧ placeGang.openedAt + 2000000 ≤ (sHealth 1 2000000 []).clock.wall) ∧
    (isDevice 0x4000 = true ∧ 0x50000000 / 2 ^ 28 = 5) ∧
    ((sHealth 0 0 []).reg 1 0 0x1000C = 0 ∧ (sHealth 1 999999 []).watchPaused placeGang = false ∧
      (∃ t ∈ ((sHealth 1 999999 []).waves.filter ((sHealth 1 999999 []).inGang 1)).flatMap (fun w => w.lanes.filter (fun t => t.live)),
        (sHealth 1 999999 []).clock.wall < t.lastIssue + 1000000)) ∧
    (let s := sHealth 1 1000000 []
     let ts := (s.waves.filter (s.inGang 1)).flatMap (fun w => w.lanes.filter (fun t => t.live))
     (s.reg 1 0 0x1000C).toNat * 1000000 = 1000000 ∧ s.watchPaused placeGang = false ∧ ts ≠ [] ∧ ∀ t ∈ ts, t.lastIssue + 1000000 ≤ s.clock.wall) ∧
    (Orderly (sHealth 0 0 [0]) ∧ (sHealth 0 0 [0]).reg 1 0 0x10000 = 3 ∧ (sHealth 0 0 [0]).reg 1 0 0x10018 = 2 ∧ (sHealth 0 0 [0]).reg 1 0 0x1001C = 0 ∧
      (sHealth 0 0 [0]).reg 1 0 0x10020 = 0 ∧ 0x10020003 ∉ (sHealth 0 0 [0]).mon.lasting ∧ (sHealth 0 0 [0]).reg 1 0 0x10004 = 3 ∧
      1 + ((sHealth 0 0 [0]).mon.events.filter (fun e => e.1 == 0x10020003 && decide (0 ≤ e.2))).length = 2 ∧
      1 + ((sHealth 0 0 [0, 0]).mon.events.filter (fun e => e.1 == 0x10020003 && decide (0 ≤ e.2))).length = 3) ∧
    (((sRows []).core 191).array = none ∧ 0xFF ∈ ((sRows []).core 191).rowsDue ∧ 0xFF ∉ ((sRows []).core 190).rowsDue ∧ (sRows []).reg 1 0 (arrayOff 191) = 8) ∧
    ((sRows []).reg 1 0 0x10000 = 3 ∧ 7 ∈ ((sRows []).core 191).rowsDue ∧ risingFrom 0 (sRows []).mon.regs = true) ∧
    ((sRows [(regKey 1 0 (arrayOff 191), 0x800#32)]).reg 1 0 (arrayOff 191) = 0x800 ∧ (0x800#32).toNat % 16 = 0 ∧
      risingFrom 0 (sRows [(regKey 1 0 (arrayOff 191), 0x800#32)]).mon.regs = true) ∧
    ((s1.core 0).powered = true ∧ (let s : State := { s1 with cores := [(0, { Core.reset with powered := false })] }; (s.core 0).powered = false ∧ (s.core 0).gatedAt ≤ s.cycles)) :=
  ⟨by decide +kernel, by decide +kernel, by decide +kernel, by decide +kernel,
   ⟨orderly_of _ (by decide +kernel) rfl, by decide +kernel, by decide +kernel, by decide +kernel, by decide +kernel, by decide +kernel, by decide +kernel,
    by decide +kernel, by decide +kernel⟩, by decide +kernel, by decide +kernel, by decide +kernel, by decide +kernel⟩

/-- The sampler of panel 3 of core 191, a record ring of one entry at 0x10000, for function 0; the wave of slot 127 issued in this cycle. -/
def wSampled : Wave := { w1 with core := 191, slot := 127 }
def sampled : SampleRec := ⟨3, placeVa, 0, 31, 0, 0, 0⟩
def sSampled : State :=
  { path wSampled [] with
    cores := [(191, { Core.reset with
      issued := [(127, ⟨0, placeVa, 1, 0⟩)], sampleAt := [(3, 0)], roster := [⟨127, 127, 2, 0, 31, placeVa⟩], unwritten := [sampled] })]
    mon := { Monitor.reset with regs := [(regKey 1 0 (samplerOff 191 3), 3#32), (regKey 1 0 (samplerOff 191 3 + 8), 0x10000#32), (regKey 1 0 (samplerOff 191 3 + 0x10), 1#32)] } }
/-- Gauge 63 counts the retries of port 15, its count at the end of its range. -/
def sGauge : State :=
  { s1 with mon :=
      { Monitor.reset with
        regs := [(regKey 1 0 (gaugeOff 63), 1#32), (regKey 1 0 (gaugeOff 63 + 4), 0xF07#32), (regKey 1 0 (gaugeOff 63 + 0x14), 0xFFFFFFFF#32)] } }
theorem witness_MonitorRegisters : risingFrom 0 sGauge.mon.regs = true ∧ (sGauge.gaugeTakes 63 7 15 none = true ∧ (sGauge.reg 1 0 (gaugeOff 63)).getLsbD 1 = false) ∧
    Orderly sSampled ∧ (sSampled.core 191).unwritten.filter (fun r => r.panel == 3) = [sampled] ∧
    ((sSampled.core 191).sampleAt = [(3, sSampled.clockOf 191)] ∧ (sSampled.reg 1 0 (samplerOff 191 3)).getLsbD 0 = true ∧ sSampled.samples 191 3 0 = true ∧
      (sSampled.core 191).roster.filter (fun y => y.slot / 32 == 3) = [⟨127, 127, 2, 0, 31, placeVa⟩] ∧ sSampled.wave? 191 127 = some wSampled ∧ wSampled.blk = 2 ∧
      wSampled.lining = none ∧ look (sSampled.core 191).issued 127 = some ⟨0, placeVa, 1, 0⟩ ∧ sSampled.clockOf 191 = 0) ∧
    (sSampled.reg 1 0 (samplerOff 191 3 + 0x14) - sSampled.reg 1 0 (samplerOff 191 3 + 0x18)).toNat ≠ (sSampled.reg 1 0 (samplerOff 191 3 + 0x10)).toNat ∧
    sSampled.reg 1 0 (samplerOff 191 3 + 0x14) ≠ 0xFFFFFFFF#32 :=
  ⟨by decide +kernel, by decide +kernel, orderly_of _ (by decide +kernel) rfl, by decide +kernel, by decide +kernel, by decide +kernel, by decide +kernel⟩

/-! ## Decoding, the step -/

theorem witness_DecodeEncode : (Instr.cas 124 122 true 3 5 true).WellFormed ∧ encode (.cas 124 122 true 3 5 true) = some [0xBF#8, 0x7C#8, 0x7D#8, 0x9F#8] := by
  decide +kernel
theorem witness_EncodeDecode : decode [0xBF#8, 0x7C#8, 0x7D#8, 0x9F#8, 0xFF#8] = .ok (.cas 124 122 true 3 5 true, [0xFF#8]) ∧
    Instr.cas 124 122 true 3 5 true ≠ .ill32 := by decide +kernel

/-- The path of lane 0, to issue next, at some bytes. -/
def sFetch (bs : List Byte) : State :=
  { State.reset.place bs with waves := [w1], agenda := [], second := some ⟨0, 0, placeVa, 4, [0], false⟩ }
def sFetched (bs : List Byte) : State :=
  { sFetch bs with free := (sFetch bs).free + 1, cur := ⟨0, 0, placeVa, 4, [0], false⟩, second := none }
/-- An ADD, and a word of major opcode 0x37. -/
def addBytes : List Byte := [0x05, 0x01, 0xC1, 0]
def majBytes : List Byte := [0xDD, 0, 0, 0]
/-- A lane with a load of remote memory that may yet throw. -/
def loadingThrow : Thread := { lane 0 with acc := [{ loadingAcc with back := some (lane 0).laneRegs }] }
theorem witness_StepRunsDecoded :
    ((sFetch addBytes).wave? 0 0 = some w1 ∧ (w1.lanes.filter (fun t => [0].elem t.lane)).map (fun t => t.lane) = [0] ∧
      (∀ t ∈ w1.lanes, t.lane ∈ [0] → t.pc = placeVa ∧ t.live = true ∧ t.wait = .no ∧ t.endChk = false) ∧ w1.lining = none) ∧
    ((sFetched addBytes).fetchBytes 0 w1.blk placeVa = (.ok 0x05 0x01, addBytes) ∧ (sFetched addBytes).fetchFar 0 w1.blk placeVa (codeLength addBytes) = none ∧
      (sFetched addBytes).fetchPoison w1.blk placeVa 4 = none ∧ decode addBytes = .ok (.add 1 2 3 false, [])) ∧
    ((sFetched majBytes).fetchBytes 0 w1.blk placeVa = (.ok 0xDD 0, majBytes) ∧ (sFetched majBytes).fetchFar 0 w1.blk placeVa (codeLength majBytes) = none ∧
      (sFetched majBytes).fetchPoison w1.blk placeVa 4 = none ∧ decode majBytes = .error .reservedMajor) ∧
    (outward (.add 1 2 3 false) = false ∧ outward (.bar 0 false) = true ∧ ∃ a ∈ loadingThrow.acc, a.back ≠ none) :=
  ⟨by decide +kernel, by decide +kernel, by decide +kernel, by decide +kernel⟩

theorem witness_StepKeepsMemory : s1.Inv ∧ ∃ t, step s1 = .next t := ⟨show memWf s1.mem = true by decide +kernel, _, rfl⟩
theorem witness_StepKeepsOrder : State.reset.Ordered ∧ ∃ t, step State.reset = .next t := by
  refine ⟨?_, _, rfl⟩
  constructor <;> simp [State.reset, getD, risingFrom, Monitor.reset]
theorem witness_RegisterFrame : Plain (.ret true) [] ∧ Accesses (.pub 3 true) [] (fun _ _ => True) ∧ Accesses (.st 1 false 0 2 4 true) (2 :: pairIf (decide (2 ^ (0#2).toNat = 8)) 1) State.Agrees ∧ s1.Agrees w1 ∧ Plain (.shl 1 126 127 true) [1, 126, 127] ∧ s1.curWave = some w1 ∧
    s1.OnPath w1 (lane 0) ∧
    ¬({ s1 with launches := [(0, { placeLaunch with prog := { placeProg with lrec := { placeRec with g := 8 } } })] } : State).regsOk [1, 126, 127] :=
  ⟨.ret _, .pub _ _, .st _ _ _ _ _ _, .inl rfl, .intTwo (.shl _ _ _ _), by decide +kernel, s1_path, fun h => absurd (h 126 (.tail _ (.head _))) (by decide +kernel)⟩

/-! ## Words of every major, written out from R43, R44, R53 to R56 -/

theorem test_decode_integer :
    decodeTableWord 32 (3 * 2 ^ 29 + 5 * 2 ^ 22 + 6 * 2 ^ 15 + 7 * 2 ^ 8 + 0x02 * 4 + 3) = some (.mulhsu 7 6 5 true) ∧
    decodeTableWord 32 (6 * 2 ^ 29 + 5 * 2 ^ 22 + 6 * 2 ^ 15 + 7 * 2 ^ 8 + 0x03 * 4 + 1) = some (.fshr 7 6 5 false) ∧
    decodeTableWord 32 (1 * 2 ^ 29 + 127 * 2 ^ 22 + 126 * 2 ^ 15 + 125 * 2 ^ 8 + 0x04 * 4 + 1) = some (.bfxs 125 126 127 false) ∧
    decodeTableWord 32 (7 * 2 ^ 29 + 0 * 2 ^ 22 + 6 * 2 ^ 15 + 7 * 2 ^ 8 + 0x04 * 4 + 1) = some (.brev 7 6 false) ∧
    decodeTableWord 32 (3 * 2 ^ 29 + 5 * 2 ^ 22 + 6 * 2 ^ 15 + 7 * 2 ^ 8 + 0x05 * 4 + 1) = some (.remn 7 6 5 false) ∧
    decodeTableWord 32 (4 * 2 ^ 29 + 5 * 2 ^ 22 + 6 * 2 ^ 15 + 8 * 2 ^ 8 + 0x06 * 4 + 1) = some (.mad64n 8 6 5 false) ∧
    decodeTableWord 32 (6 * 2 ^ 29 + 5 * 2 ^ 22 + 6 * 2 ^ 15 + 7 * 2 ^ 8 + 0x07 * 4 + 1) = some (.icmpTst 7 6 5 false) ∧
    decodeTableWord 32 ((4 * 2 ^ 5 + 31) * 2 ^ 22 + 6 * 2 ^ 15 + 7 * 2 ^ 8 + 0x0C * 4 + 1) = some (.shfiRor 7 6 31 false) ∧
    decodeTableWord 32 (0x200 * 2 ^ 22 + 6 * 2 ^ 15 + (9 * 2 ^ 3 + 5) * 2 ^ 8 + 0x0D * 4 + 1) = some (.icmpiGen 5 6 0x200 false) ∧
    decodeTableWord 32 (0x7FFF * 2 ^ 15 + 6 * 2 ^ 8 + 0x0F * 4 + 1) = some (.lih 6 0x7FFF false) ∧
    decodeTableWord 32 (5 * 2 ^ 29 + 0 * 2 ^ 22 + 6 * 2 ^ 15 + 7 * 2 ^ 8 + 0x10 * 4 + 1) = some (.g2p 7 6 false) ∧
    decodeTableWord 32 (6 * 2 ^ 29 + 5 * 2 ^ 22 + 4 * 2 ^ 15 + 3 * 2 ^ 8 + 0x11 * 4 + 1) = some (.sel 3 4 5 6 false) := by
  decide +kernel
theorem test_decode_float :
    decodeTableWord 32 (7 * 2 ^ 29 + 5 * 2 ^ 22 + 6 * 2 ^ 15 + 7 * 2 ^ 8 + 0x12 * 4 + 3) = some (.fcps 7 6 5 true) ∧
    decodeTableWord 32 (5 * 2 ^ 29 + 5 * 2 ^ 22 + 6 * 2 ^ 15 + 7 * 2 ^ 8 + 0x13 * 4 + 1) = some (.fcmpOr 7 6 5 false) ∧
    decodeTableWord 32 (7 * 2 ^ 29 + 5 * 2 ^ 22 + 6 * 2 ^ 15 + 7 * 2 ^ 8 + 0x14 * 4 + 1) = some (.dot2b 7 6 5 false) ∧
    decodeTableWord 32 (7 * 2 ^ 29 + 0 * 2 ^ 22 + 6 * 2 ^ 15 + 7 * 2 ^ 8 + 0x15 * 4 + 1) = some (.tanh 7 6 false) ∧
    decodeTableWord 32 (0 * 2 ^ 29 + 5 * 2 ^ 22 + 6 * 2 ^ 15 + 7 * 2 ^ 8 + 0x16 * 4 + 1) = some (.fdiv 7 6 5 false) ∧
    decodeTableWord 32 ((3 * 2 ^ 8 + 8 * 2 ^ 4 + 2) * 2 ^ 22 + 6 * 2 ^ 15 + 7 * 2 ^ 8 + 0x17 * 4 + 1) = some (.cvt 7 6 3 8 2 false) ∧
    decodeTableWord 32 ((2 * 2 ^ 7 + 2 ^ 6 + 2 ^ 3 + 6) * 2 ^ 22 + 6 * 2 ^ 15 + 7 * 2 ^ 8 + 0x18 * 4 + 1) = some (.cvt8ToByte 7 6 2 true false true 6 false) ∧
    decodeTableWord 32 ((2 ^ 5 + 2 ^ 4 + 3) * 2 ^ 22 + 6 * 2 ^ 15 + 7 * 2 ^ 8 + 0x18 * 4 + 1) = some (.cvt8FromByte 7 6 true false 3 false) ∧
    decodeTableWord 32 (2 * 2 ^ 29 + 5 * 2 ^ 22 + 6 * 2 ^ 15 + 7 * 2 ^ 8 + 0x19 * 4 + 1) = some (.dot4f 7 6 5 false) := by
  decide +kernel
theorem test_decode_lanes :
    decodeTableWord 32 (3 * 2 ^ 30 + 7 * 2 ^ 27 + 31 * 2 ^ 22 + 6 * 2 ^ 15 + 5 * 2 ^ 8 + 0x1A * 4 + 3) = some (.shflXor 5 6 7 31 true) ∧
    decodeTableWord 32 (0 * 2 ^ 30 + 2 * 2 ^ 27 + 17 * 2 ^ 22 + 6 * 2 ^ 15 + 5 * 2 ^ 8 + 0x1B * 4 + 1) = some (.shflr 5 6 2 17 false) ∧
    decodeTableWord 32 (3 * 2 ^ 30 + 1 * 2 ^ 27 + 0 * 2 ^ 22 + 6 * 2 ^ 15 + 5 * 2 ^ 8 + 0x1C * 4 + 1) = some (.voteBallot 5 6 1 false) ∧
    decodeTableWord 32 (0 * 2 ^ 30 + 1 * 2 ^ 27 + (2 * 2 ^ 3 + 7) * 2 ^ 22 + 6 * 2 ^ 15 + 5 * 2 ^ 8 + 0x1D * 4 + 1) = some (.foldXor 5 6 0 1 2 false) ∧
    decodeTableWord 32 (2 * 2 ^ 30 + 1 * 2 ^ 27 + 31 * 2 ^ 22 + 6 * 2 ^ 15 + 4 * 2 ^ 8 + 0x1E * 4 + 1) = some (.topk 4 6 2 1 31 false) ∧
    decodeTableWord 32 (3 * 2 ^ 30 + 1 * 2 ^ 27 + 0 * 2 ^ 22 + 0 * 2 ^ 15 + 5 * 2 ^ 8 + 0x1F * 4 + 1) = some (.lsetLive 5 1 false) ∧
    decodeTableWord 32 (0xFFFFF * 2 ^ 12 + 0 * 2 ^ 11 + 7 * 2 ^ 8 + 0x21 * 4 + 1) = some (.call 0xFFFFF 7 false false) ∧
    decodeTableWord 32 (1 * 2 ^ 29 + 0 * 2 ^ 22 + 6 * 2 ^ 15 + 0 * 2 ^ 8 + 0x22 * 4 + 1) = some (.callx 6 false) ∧
    decodeTableWord 32 (3 * 2 ^ 29 + 0 * 2 ^ 22 + 0 * 2 ^ 15 + 0 * 2 ^ 8 + 0x22 * 4 + 3) = some (.exit true) ∧
    decodeTableWord 32 (0x3FF * 2 ^ 22 + 127 * 2 ^ 15 + 1 * 2 ^ 10 + 2 * 2 ^ 8 + 0x23 * 4 + 1) = some (.loop 0x3FF 127 true 2 false) ∧
    decodeTableWord 32 (3 * 2 ^ 22 + 5 * 2 ^ 15 + 6 * 2 ^ 8 + 0x24 * 4 + 1) = some (.seamSmask 6 5 false) := by
  decide +kernel
theorem test_decode_system :
    decodeTableWord 32 (0x12345 * 2 ^ 12 + 7 * 2 ^ 8 + 0x25 * 4 + 1) = some (.tryOpen 0x12345 7 false) ∧
    decodeTableWord 32 (4 * 2 ^ 22 + 127 * 2 ^ 15 + 0 * 2 ^ 8 + 0x26 * 4 + 1) = some (.trap 127 false) ∧
    decodeTableWord 32 (7 * 2 ^ 22 + 0 * 2 ^ 15 + 0 * 2 ^ 8 + 0x26 * 4 + 1) = some (.brk false) ∧
    decodeTableWord 32 (0x092 * 2 ^ 22 + 0 * 2 ^ 15 + 6 * 2 ^ 8 + 0x27 * 4 + 1) = some (.srd 6 0x092 false) ∧
    decodeTableWord 32 (0x060 * 2 ^ 22 + 6 * 2 ^ 15 + 0 * 2 ^ 8 + 0x28 * 4 + 1) = some (.swr 6 0x060 false) ∧
    decodeTableWord 32 (6 * 2 ^ 22 + 0 * 2 ^ 15 + 0 * 2 ^ 8 + 0x29 * 4 + 3) = some (.tflush true) ∧
    decodeTableWord 32 (4 * 2 ^ 22 + 5 * 2 ^ 15 + 6 * 2 ^ 8 + 0x35 * 4 + 1) = some (.bobjexp 6 5 false) ∧
    decodeTableWord 32 (3 * 2 ^ 22 + 6 * 2 ^ 15 + 8 * 2 ^ 8 + 0x36 * 4 + 1) = some (.epop 8 6 false) ∧
    decodeTableWord 32 (5 * 2 ^ 22 + 8 * 2 ^ 15 + 7 * 2 ^ 8 + 0x36 * 4 + 1) = some (.admitD 7 8 false) := by
  decide +kernel
theorem test_decode_memory :
    decodeTableWord 32 ((2 ^ 3 + 2 ^ 2 + 1) * 2 ^ 28 + 127 * 2 ^ 21 + 62 * 2 ^ 15 + 7 * 2 ^ 8 + 0x2A * 4 + 1) = some (.ld 7 true true 1 127 62 false) ∧
    decodeTableWord 32 (3 * 2 ^ 28 + 9 * 2 ^ 21 + 2 * 2 ^ 15 + 8 * 2 ^ 8 + 0x2B * 4 + 1) = some (.st 8 false 3 9 2 false) ∧
    decodeTableWord 32 (0 * 2 ^ 28 + 9 * 2 ^ 21 + 3 * 2 ^ 15 + 7 * 2 ^ 8 + 0x2C * 4 + 1) = some (.lds 7 false false 0 9 3 false) ∧
    decodeTableWord 32 (2 * 2 ^ 28 + 9 * 2 ^ 21 + 3 * 2 ^ 15 + 7 * 2 ^ 8 + 0x2D * 4 + 1) = some (.sts 7 false 2 9 3 false) ∧
    decodeTableWord 32 (2 * 2 ^ 28 + 9 * 2 ^ 21 + 3 * 2 ^ 15 + 7 * 2 ^ 8 + 0x2E * 4 + 1) = some (.ldc 7 false false 2 9 3 false) ∧
    decodeTableWord 32 (0 * 2 ^ 31 + 14 * 2 ^ 27 + 3 * 2 ^ 25 + 5 * 2 ^ 22 + 6 * 2 ^ 15 + 7 * 2 ^ 8 + 0x2F * 4 + 1) = some (.amoAddf 7 6 3 5 false) ∧
    decodeTableWord 32 (1 * 2 ^ 31 + 1 * 2 ^ 27 + 2 * 2 ^ 25 + 4 * 2 ^ 22 + 6 * 2 ^ 15 + 8 * 2 ^ 8 + 0x2F * 4 + 1) = some (.sto 8 6 true 2 4 false) ∧
    decodeTableWord 32 (2 * 2 ^ 22 + 5 * 2 ^ 15 + 0 * 2 ^ 8 + 0x30 * 4 + 1) = some (.phase 5 false) := by
  decide +kernel
theorem test_decode_engines :
    decodeTableWord 32 (8 * 2 ^ 26 + 4 * 2 ^ 20 + 63 * 2 ^ 14 + 62 * 2 ^ 8 + 0x31 * 4 + 3) = some (.scatter 4 63 62 true) ∧
    decodeTableWord 32 (9 * 2 ^ 26 + 1 * 2 ^ 20 + 2 * 2 ^ 14 + 3 * 2 ^ 8 + 0x31 * 4 + 1) = some (.kick 1 2 3 false) ∧
    decodeTableWord 32 (10 * 2 ^ 26 + 63 * 2 ^ 20 + 2 * 2 ^ 14 + 0 * 2 ^ 8 + 0x31 * 4 + 1) = some (.qfence 63 2 false) ∧
    decodeTableWord 32 (2 * 2 ^ 26 + 0 * 2 ^ 20 + 2 * 2 ^ 14 + 3 * 2 ^ 8 + 0x32 * 4 + 1) = some (.wload 2 3 false) ∧
    decodeTableWord 32 (9 * 2 ^ 26 + 2 * 2 ^ 20 + 2 * 2 ^ 14 + 3 * 2 ^ 8 + 0x32 * 4 + 1) = some (.tscaleMuls 2 3 false) ∧
    decodeTableWord 32 (63 * 2 ^ 26 + 62 * 2 ^ 20 + 1 * 2 ^ 19 + 15 * 2 ^ 15 + 127 * 2 ^ 8 + 0x33 * 4 + 1) = some (.tslr 127 63 62 true 15 false) ∧
    decodeTableWord 32 (1 * 2 ^ 26 + 2 * 2 ^ 20 + 0 * 2 ^ 19 + 3 * 2 ^ 15 + 4 * 2 ^ 8 + 0x34 * 4 + 3) = some (.tslw 4 1 2 false 3 true) := by
  decide +kernel
theorem test_decode_short :
    decodeTableWord 16 (10 * 2 ^ 11 + 9 * 2 ^ 5 + 8 * 2) = some (.cSar 9 10) ∧
    decodeTableWord 16 (10 * 2 ^ 11 + 9 * 2 ^ 5 + 11 * 2) = some (.cMaxs 9 10) ∧
    decodeTableWord 16 (31 * 2 ^ 11 + 63 * 2 ^ 5 + 12 * 2) = some (.cFadd 63 31) ∧
    decodeTableWord 16 (0x10 * 2 ^ 11 + 9 * 2 ^ 5 + 14 * 2) = some (.addi5 9 0x10) ∧
    decodeTableWord 16 (0 * 2 ^ 11 + 1 * 2 ^ 5 + 0 * 2) = some (.cMov 1 0) := by
  decide +kernel
/-- What R53, R55 and R56 refuse: a reserved selector, a field that is not used, an odd register, a combination. -/
theorem test_decode_refuses :
    decodeTableWord 32 (7 * 2 ^ 29 + 1 * 2 ^ 22 + 1 * 2 ^ 15 + 1 * 2 ^ 8 + 0x03 * 4 + 1) = none ∧
    decodeTableWord 32 (4 * 2 ^ 29 + 1 * 2 ^ 22 + 6 * 2 ^ 15 + 7 * 2 ^ 8 + 0x04 * 4 + 1) = none ∧
    decodeTableWord 32 (3 * 2 ^ 29 + 5 * 2 ^ 22 + 6 * 2 ^ 15 + 7 * 2 ^ 8 + 0x06 * 4 + 1) = none ∧
    decodeTableWord 32 ((2 * 2 ^ 4 + 2) * 2 ^ 22 + 6 * 2 ^ 15 + 7 * 2 ^ 8 + 0x17 * 4 + 1) = none ∧
    decodeTableWord 32 ((2 ^ 5 + 2 ^ 6) * 2 ^ 22 + 6 * 2 ^ 15 + 7 * 2 ^ 8 + 0x18 * 4 + 1) = none ∧
    decodeTableWord 32 (2 ^ 9 * 2 ^ 22 + 6 * 2 ^ 15 + 7 * 2 ^ 8 + 0x18 * 4 + 1) = none ∧
    decodeTableWord 32 (4 * 2 ^ 12 + 1 * 2 ^ 11 + 7 * 2 ^ 8 + 0x20 * 4 + 1) = none ∧
    decodeTableWord 32 (1 * 2 ^ 15 + 2 * 2 ^ 8 + 0x23 * 4 + 1) = none ∧
    decodeTableWord 32 (0x093 * 2 ^ 22 + 0 * 2 ^ 15 + 6 * 2 ^ 8 + 0x27 * 4 + 1) = none ∧
    decodeTableWord 32 (2 ^ 2 * 2 ^ 28 + 9 * 2 ^ 21 + 2 * 2 ^ 15 + 8 * 2 ^ 8 + 0x2B * 4 + 1) = none ∧
    decodeTableWord 32 ((2 ^ 2 + 2) * 2 ^ 28 + 9 * 2 ^ 21 + 2 * 2 ^ 15 + 8 * 2 ^ 8 + 0x2A * 4 + 1) = none ∧
    decodeTableWord 32 (0 * 2 ^ 31 + 0 * 2 ^ 27 + 2 * 2 ^ 25 + 0 * 2 ^ 22 + 6 * 2 ^ 15 + 8 * 2 ^ 8 + 0x2F * 4 + 1) = none ∧
    decodeTableWord 32 (1 * 2 ^ 31 + 14 * 2 ^ 27 + 0 * 2 ^ 25 + 0 * 2 ^ 22 + 6 * 2 ^ 15 + 8 * 2 ^ 8 + 0x2F * 4 + 1) = none ∧
    decodeTableWord 32 (0 * 2 ^ 26 + 8 * 2 ^ 20 + 1 * 2 ^ 14 + 2 * 2 ^ 8 + 0x31 * 4 + 1) = none ∧
    decodeTableWord 32 (10 * 2 ^ 26 + 0 * 2 ^ 20 + 2 * 2 ^ 14 + 0 * 2 ^ 8 + 0x31 * 4 + 1) = none ∧
    decodeTableWord 32 (1 * 2 ^ 29 + 5 * 2 ^ 22 + 6 * 2 ^ 15 + 7 * 2 ^ 8 + 0x16 * 4 + 1) = none ∧
    decodeTableWord 32 (7 * 2 ^ 22 + 0 * 2 ^ 15 + 0 * 2 ^ 8 + 0x36 * 4 + 1) = none := by
  decide +kernel

/-! ## Ill-formed terms, each of which a check of WellFormed refuses -/

/-- An odd register where a pair is needed, or not a multiple of 4 where four are. -/
theorem test_reject_odd : (Instr.mad64s 1 2 3 false).reject = some .oddRegister ∧ (Instr.mad64n 1 2 3 false).reject = some .oddRegister ∧
    (Instr.topk 1 2 0 0 0 false).reject = some .oddRegister ∧ (Instr.brx 1 false).reject = some .oddRegister ∧ (Instr.callx 1 false).reject = some .oddRegister ∧
    (Instr.srd 1 0x009 false).reject = some .oddRegister ∧ (Instr.swr 1 0x060 false).reject = some .oddRegister ∧ (Instr.clock 1 false).reject = some .oddRegister ∧
    (Instr.ptime 1 false).reject = some .oddRegister ∧ (Instr.ld 1 false false 0 1 1 false).reject = some .oddRegister ∧
    (Instr.st 1 false 3 1 2 false).reject = some .oddRegister ∧ (Instr.lds 1 false false 3 1 1 false).reject = some .oddRegister ∧
    (Instr.sts 1 false 3 1 1 false).reject = some .oddRegister ∧ (Instr.ldc 1 false false 3 1 1 false).reject = some .oddRegister ∧
    (Instr.ldo 1 1 false 0 0 false).reject = some .oddRegister ∧ (Instr.cas 126 2 true 0 0 false).reject = some .oddRegister ∧
    (Instr.amoInc 1 2 true 0 0 false).reject = some .oddRegister ∧ (Instr.spawn 1 2 false).reject = some .oddRegister ∧
    (Instr.epush 1 3 false).reject = some .oddRegister ∧ (Instr.epop 1 2 false).reject = some .oddRegister ∧ (Instr.efree 1 false).reject = some .oddRegister ∧
    (Instr.admitD 1 6 false).reject = some .oddRegister ∧ (Instr.tcbdone 1 false).reject = some .oddRegister := by decide
/-- A selector that the tables do not list. -/
theorem test_reject_selector : (Instr.cvt 1 2 0 9 0 false).reject = some .reservedSelector ∧ (Instr.cvt8ToByte 1 2 0 false false false 7 false).reject = some .reservedSelector ∧
    (Instr.cvt8FromByte 1 2 false false 7 false).reject = some .reservedSelector ∧ (Instr.foldAdd 1 2 2 0 0 false).reject = some .reservedSelector ∧
    (Instr.foldXor 1 2 0 0 3 false).reject = some .reservedSelector ∧ (Instr.topk 2 2 3 0 0 false).reject = some .reservedSelector ∧
    (Instr.loop 1 1 false 3 false).reject = some .reservedSelector ∧ (Instr.srd 2 0x00A false).reject = some .reservedSelector ∧
    (Instr.swr 2 0x093 false).reject = some .reservedSelector ∧ (Instr.sto 2 2 false 0 6 false).reject = some .reservedSelector ∧
    (Instr.amoAddf 2 2 0 7 false).reject = some .reservedSelector ∧ (Instr.pub 6 false).reject = some .reservedSelector ∧
    (Instr.rfsh 7 false).reject = some .reservedSelector ∧ (Instr.phase 6 false).reject = some .reservedSelector ∧
    (Instr.acopyG2s 5 0 0 false).reject = some .reservedSelector ∧ (Instr.kick 7 0 0 false).reject = some .reservedSelector := by decide
/-- A combination that is refused, and a count of 0. -/
theorem test_reject_combination : (Instr.cvt 1 2 0 3 3 false).reject = some .illegalCombination ∧ (Instr.foldMinn 1 2 1 0 0 false).reject = some .illegalCombination ∧
    (Instr.bra 0 7 true false).reject = some .illegalCombination ∧ (Instr.call 0 7 true false).reject = some .illegalCombination ∧
    (Instr.ld 2 false true 2 1 2 false).reject = some .illegalCombination ∧ (Instr.lds 2 false true 3 1 2 false).reject = some .illegalCombination ∧
    (Instr.ldo 2 2 false 2 0 false).reject = some .illegalCombination ∧ (Instr.sto 2 2 false 1 0 false).reject = some .illegalCombination ∧
    (Instr.cMov 0 0).reject = some .illegalCombination ∧ (Instr.loop 0 1 false 0 false).reject = some .mustBeZero ∧
    (Instr.qfence 0 1 false).reject = some .mustBeZero := by decide

/-! ## Single steps, their results worked out by hand from the rules -/

/-- The lane after the next step of the placed state with some bytes and lane. -/
def stepped (t : Thread) (bs : List Byte) : Option Thread :=
  match step { sFetch bs with waves := [{ wave [t] with regs := { w1.regs with utvec := 0x8040007000#64 } }] } with
  | .next s => s.lane? 0 0 0
  | _ => none
def with2 (a b : Word) : Thread := { lane 0 with g := setD (setD [] 0 2 a) 0 3 b }
/-- add g1, g2, g3: the sum passes 2^32 and the pc goes on by 4. -/
theorem test_add_wraps : (stepped (with2 0xFFFFFFFF 2) addBytes).map (fun t => (getD t.g 0 1, t.pc)) = some (1#32, placeVa + 4) := by decide +kernel
/-- The halfword of add g2, g3: the pc goes on by 2. -/
theorem test_short_pc : (stepped (with2 5 7) [0x42#8, 0x18#8]).map (fun t => (getD t.g 0 2, t.pc)) = some (12#32, placeVa + 2) := by decide +kernel
/-- A reserved word raises ILLOP: $ucause 3, $uepc the word's address, the handler at $utvec entered. -/
theorem test_illop : (stepped (lane 0) majBytes).map (fun t => (t.ucause, t.uepc, t.handler, t.pc)) = some (3#32, placeVa, true, 0x8040007000#64) := by decide +kernel

/-- A path whose descriptor still lacks its row length, the store of which it has issued (R170): the copy enters its queue as it is issued. -/
def sLate : State :=
  { path (wAt 0 0 [{ lane 0 with acc := [⟨placeVa, .store [8], .pad 2 18, 18, none, none, 0, 0, none, false⟩] }]) [0] with
    blocks := [(2, { engBlock [] with pad := padBytes.filter (fun p => p.1 != 18) })] }
theorem test_copy_after_store : (match execAcopyG2s 0 7 4 false sLate with
    | .next s => (s.block? 2).map (fun b => (b.queues.getD 0 []).flatMap (fun o => o.list))
    | _ => none) = some [desc0] := by decide +kernel
/-- ACOPY.S2O reads the scratchpad at its saddr, not the slot it writes (R177): here bytes 1 to 8 of the descriptor above. -/
theorem test_s2o_source : (sEng 0 []).sideRow 2 0 { desc0 with form := 3, saddr := [1] } 0 = [0x40, 0, 0x40, 0x80, 0, 0, 0, 64] := by decide +kernel
/-- BRK where debug halts are enabled: the thread is stopped after it (R344). -/
theorem test_brk_stops : (match execBrk false { debuggable with cur := ⟨0, 0, placeVa, 4, [0], false⟩ } with
    | .next s => (s.lane? 0 0 0).map (fun t => (t.pc, t.wait))
    | _ => none) = some (placeVa + 4, .stopped) := by decide +kernel

theorem test_reset_inv : memWf State.reset.mem = true := by decide

end Sys2Proof.Tests
end

section
/-! PROOFS. Loads and stores as they issue, and LDC (spec/08 R141, R156, R157, spec/01 R31). First one rule per operation that the memory
instructions are made of, then one lemma per instruction, from which O19 is assembled. -/

namespace Sys2Proof.Machine
open Sys2Proof.Claims

/-! ## What lets an instruction pass -/

theorem State.withRegs_ok {s : State} {rs : List Nat} (h : s.regsOk rs) (k : State) : s.withRegs rs k = k :=
  if_pos (List.all_eq_true.mpr h)

theorem State.withTokens_ready {s : State} {w : Wave} (hw : s.curWave = some w) {rs : List Nat} (h : w.sReady rs) (k : State) :
    s.withTokens rs k = k := by
  have hnone : rs.filter (fun r => r != 63 && w.regs.tok.testBit r) = [] := by
    rw [List.filter_eq_nil_iff]
    intro r hr
    rcases h r hr with e | e <;> simp [e]
  simp [State.withTokens, hw, hnone]

/-! ## What lane-by-lane steps and faults leave unchanged -/

@[simp] theorem State.perLane_mem (s : State) (tack : Bool) (f : Wave → Thread → Out) : (s.perLane tack f).mem = s.mem := by
  unfold State.perLane
  cases s.curWave with
  | none => rfl
  | some w => dsimp only; split <;> rfl

@[simp] theorem State.perLane_blocks (s : State) (tack : Bool) (f : Wave → Thread → Out) : (s.perLane tack f).blocks = s.blocks := by
  unfold State.perLane
  cases s.curWave with
  | none => rfl
  | some w => dsimp only; split <;> rfl

section
variable (s : State) (k l : Nat) (va : Dword) (write fetch : Bool) (blk : Nat) (who : Issuer)
@[simp] theorem State.faultOn_waves : (s.faultOn k l va write fetch blk who).waves = s.waves := rfl
@[simp] theorem State.faultOn_mem : (s.faultOn k l va write fetch blk who).mem = s.mem := rfl
@[simp] theorem State.faultOn_blocks : (s.faultOn k l va write fetch blk who).blocks = s.blocks := rfl
end

/-- A projection that every step of a fold keeps, the fold keeps. -/
theorem foldl_keeps {α β : Type} (p : State → β) (f : State → α → State) (hf : ∀ t x, p (f t x) = p t) (l : List α) :
    ∀ t : State, p (l.foldl f t) = p t := by
  induction l with
  | nil => intro t; rfl
  | cons x rest ih => intro t; exact (ih (f t x)).trans (hf t x)

/-- A lane is found in the waves alone. -/
theorem State.lane?_of_waves {s u : State} (h : u.waves = s.waves) (c sl l : Nat) : u.lane? c sl l = s.lane? c sl l := by
  simp only [State.lane?, State.wave?, h]

/-! ## Accesses to global addresses -/

/-- What `State.memLanes` makes of one lane, by the checks of R157. -/
def State.memOut (s : State) (addr : Wave → Thread → Dword) (size : Nat) (write : Bool) (ok : Wave → Thread → Place → Out) (w : Wave)
    (th : Thread) : Out :=
  match s.resolve w.blk (addr w th) size write with
  | .at pl => ok w th pl
  | .trap => .trap th cFAULT
  | .lease => .throw th 8 0
  | .stop _ _ => .hold th .fault

theorem State.memOut_at {s : State} {addr : Wave → Thread → Dword} {size : Nat} {write : Bool} {ok : Wave → Thread → Place → Out} {w : Wave}
    {th : Thread} {pl : Place} (h : s.resolve w.blk (addr w th) size write = .at pl) : s.memOut addr size write ok w th = ok w th pl := by
  simp only [State.memOut, h]

theorem State.memOut_lane (s : State) (addr : Wave → Thread → Dword) (size : Nat) (write : Bool) {ok : Wave → Thread → Place → Out}
    (hok : ∀ v t pl, (ok v t pl).thread.lane = t.lane) (w : Wave) (th : Thread) : (s.memOut addr size write ok w th).thread.lane = th.lane := by
  unfold State.memOut
  split
  · exact hok w th _
  · rfl
  · rfl
  · rfl

/-- The translation faults that stop lanes of a memory instruction, raised once its lanes have gone their ways. -/
def State.memFaults (s : State) (addr : Wave → Thread → Dword) (size : Nat) (write : Bool) (w : Wave) (u : State) : State :=
  w.lanes.foldl (fun t th =>
    if s.cur.lanes.elem th.lane then
      match s.resolve w.blk (addr w th) size write with
      | .stop k l => t.faultOn k l (addr w th) write false w.blk ⟨w.core, w.slot, th.lane, th.pc, w.blk⟩
      | _ => t
    else t) u

/-- What every fault of an access keeps, all of them keep. -/
theorem State.memFaults_keeps {β : Type} (p : State → β) (hp : ∀ t k l va write fetch blk who, p (t.faultOn k l va write fetch blk who) = p t)
    (s : State) (addr : Wave → Thread → Dword) (size : Nat) (write : Bool) (w : Wave) (u : State) :
    p (s.memFaults addr size write w u) = p u := by
  refine foldl_keeps p _ (fun t th => ?_) w.lanes u
  split
  · split
    · exact hp _ _ _ _ _ _ _ _
    · rfl
  · rfl

section
variable {s : State} {w : Wave} {th : Thread} {regs toks : List Nat} {tack : Bool} {addr : Wave → Thread → Dword} {size : Nat} {write : Bool}
  {ok : Wave → Thread → Place → Out} {after : State → State}

theorem State.memLanes_eq (hw : s.curWave = some w) (hr : s.regsOk regs) (ht : w.sReady toks) :
    s.memLanes regs toks tack addr size write ok after = s.memFaults addr size write w (after (s.perLane tack (s.memOut addr size write ok))) := by
  unfold State.memLanes
  rw [State.withRegs_ok hr, State.withTokens_ready hw ht]
  simp only [hw]
  rfl

/-- WHAT A LOAD OR STORE DOES IN A LANE OF ITS PATH, where nothing follows the lanes but faults; memory and scratchpads stay. -/
theorem State.memLanes_lane (h : s.OnPath w th) (hr : s.regsOk regs) (ht : w.sReady toks) (ha : ∀ u, after u = u)
    (hok : ∀ v t pl, (ok v t pl).thread.lane = t.lane) :
    (s.memLanes regs toks tack addr size write ok after).lane? w.core w.slot th.lane =
        some ((s.memOut addr size write ok w th).apply s w.regs s.cur.len tack) ∧
      (s.memLanes regs toks tack addr size write ok after).mem = s.mem ∧
      (s.memLanes regs toks tack addr size write ok after).blocks = s.blocks := by
  rw [State.memLanes_eq h.wave hr ht, ha]
  refine ⟨?_, ?_, ?_⟩
  · rw [State.lane?_of_waves (State.memFaults_keeps State.waves State.faultOn_waves s addr size write w _)]
    exact State.perLane_lane h tack _ (State.memOut_lane s addr size write hok)
  · exact (State.memFaults_keeps State.mem State.faultOn_mem s addr size write w _).trans (State.perLane_mem _ _ _)
  · exact (State.memFaults_keeps State.blocks State.faultOn_blocks s addr size write w _).trans (State.perLane_blocks _ _ _)
end

/-! ## Accesses to scratch addresses -/

/-- What `State.padLanes` makes of one lane, by steps 1 and 4 of R157. -/
def State.padOut (s : State) (addr : Wave → Thread → Word) (size : Nat) (ok : Wave → Thread → Place → Out) (w : Wave) (th : Thread) : Out :=
  if (addr w th).toNat % size ≠ 0 then .trap th cFAULT
  else
    match s.padAt w.blk (addr w th).toNat with
    | some (b, off) => ok w th (.pad b off)
    | none => .trap th cFAULT

theorem State.padOut_at {s : State} {addr : Wave → Thread → Word} {size : Nat} {ok : Wave → Thread → Place → Out} {w : Wave} {th : Thread}
    {b off : Nat} (hal : (addr w th).toNat % size = 0) (h : s.padAt w.blk (addr w th).toNat = some (b, off)) :
    s.padOut addr size ok w th = ok w th (.pad b off) := by
  simp only [State.padOut, hal, h, ne_eq, not_true_eq_false, if_false]

theorem State.padOut_lane (s : State) (addr : Wave → Thread → Word) (size : Nat) {ok : Wave → Thread → Place → Out}
    (hok : ∀ v t pl, (ok v t pl).thread.lane = t.lane) (w : Wave) (th : Thread) : (s.padOut addr size ok w th).thread.lane = th.lane := by
  unfold State.padOut
  split
  · rfl
  · cases s.padAt w.blk (addr w th).toNat with
    | none => rfl
    | some p => exact hok w th (.pad p.1 p.2)

/-- The same of an instruction that reaches the scratchpad. -/
theorem State.padLanes_lane {s : State} {w : Wave} {th : Thread} {regs toks : List Nat} {tack : Bool} {addr : Wave → Thread → Word} {size : Nat}
    {ok : Wave → Thread → Place → Out} {after : State → State} (h : s.OnPath w th) (hr : s.regsOk regs) (ht : w.sReady toks)
    (ha : ∀ u, after u = u) (hok : ∀ v t pl, (ok v t pl).thread.lane = t.lane) :
    (s.padLanes regs toks tack addr size ok after).lane? w.core w.slot th.lane =
        some ((s.padOut addr size ok w th).apply s w.regs s.cur.len tack) ∧
      (s.padLanes regs toks tack addr size ok after).mem = s.mem ∧
      (s.padLanes regs toks tack addr size ok after).blocks = s.blocks := by
  have e : s.padLanes regs toks tack addr size ok after = s.perLane tack (s.padOut addr size ok) := by
    unfold State.padLanes
    rw [State.withRegs_ok hr, State.withTokens_ready h.wave ht, ha]
    rfl
  rw [e]
  exact ⟨State.perLane_lane h tack _ (State.padOut_lane s addr size hok), State.perLane_mem _ _ _, State.perLane_blocks _ _ _⟩

/-! ## Issued accesses -/

theorem Thread.issue_eq (s : State) (t : Thread) (k : AccKind) (pl : Place) (va : Dword) :
    t.issue s k pl va = { t with acc := t.acc ++ [issuedAt s t k pl va] } := rfl

theorem Thread.load_eq (s : State) (t : Thread) (size : Nat) (sext : Bool) (d : Nat) (pl : Place) (va : Dword) :
    t.load s size sext d pl va =
      { t with acc := t.acc ++ [issuedAt s t (.load size sext d) pl va], marks := dataRegs d size ++ t.marks } := by
  simp only [Thread.load, Thread.issue_eq, Thread.markResult, dataRegs]
  split <;> rfl

/-! ## The comparators of a lined wave (spec/27 R389) -/

/-- Nothing of the log is left to be used: no entry is found. -/
theorem Wave.replay_fresh {w : Wave} (h : w.fresh) (p : LogEntry → Bool) : w.replay p = none := by
  unfold Wave.replay
  cases hl : w.lining with
  | none => rfl
  | some l => simp [h l hl]

theorem State.compare_new {s : State} {w : Wave} (hi : s.inject = []) (hf : w.fresh) (th : Thread) (pl : Place) (data : List Byte) :
    s.compare w th pl data = .new := by
  simp [State.compare, State.mismatch, hi, Wave.replayStore, Wave.replay_fresh hf]

/-- A store from a wave whose comparators agree completes. -/
theorem State.storeOut_agrees {s : State} {w : Wave} (h : s.Agrees w) (th : Thread) (pl : Place) (data : List Byte) (k old : Thread) :
    s.storeOut w th pl data k old = .next k := by
  unfold State.storeOut
  rcases h with hl | ⟨hi, hf⟩
  · simp [hl]
  · simp [State.compare_new hi hf]

theorem State.storeOut_lane (s : State) (w : Wave) (th : Thread) (pl : Place) (data : List Byte) {k old : Thread} (hk : k.lane = th.lane)
    (hold : old.lane = th.lane) : (s.storeOut w th pl data k old).thread.lane = th.lane := by
  unfold State.storeOut
  split
  · exact hk
  · cases s.compare w th pl data with
    | new => exact hk
    | logged => exact hold
    | differs => rfl

theorem State.onWave_self (s : State) (c sl : Nat) : s.onWave c sl (fun v => v) = s := by
  simp [State.onWave]

/-- Comparators that agree have no effect. -/
theorem State.afterCompare_agrees {s : State} {w : Wave} (hw : s.curWave = some w) (h : s.Agrees w) (place : Wave → Thread → Option Place)
    (data : Thread → List Byte) (u : State) : u.afterCompare s place data = u := by
  unfold State.afterCompare
  simp only [hw]
  rcases h with hl | ⟨hi, hf⟩
  · simp [hl]
  · have hnew : ∀ th c, c ≠ Compared.new → ((place w th).map (fun pl => s.compare w th pl (data th)) == some c) = false := by
      intro th c hc
      cases place w th with
      | none => rfl
      | some pl => simp [State.compare_new hi hf, Ne.symm hc]
    simp [hnew, State.silentStore, State.onWave_self]

/-! ## LD, LDS, ST, STS -/

section
variable {s : State} {w : Wave} {th : Thread} (d : Reg) (h x : Bool) (z : BitVec 2) (g : Reg) (sb : BitVec 6) (t : Bool)
variable (hp : s.OnPath w th) (hr : s.regsOk (g.toNat :: dataRegs d.toNat (accSize z)))
include hp hr

theorem ld_issues (ht : w.sReady [sb.toNat, sb.toNat + 1]) {pl : Place}
    (hat : s.resolve w.blk (globalAddr sb.toNat g.toNat s w th) (accSize z) false = .at pl) :
    ∃ s', exec (.ld d h x z g sb t) s = .next s' ∧
      s'.lane? w.core w.slot th.lane = some ((th.load s (accSize z) x d.toNat pl (globalAddr sb.toNat g.toNat s w th)).after s.cur.len t) ∧
      s.sameMemory s' := by
  obtain ⟨hlane, hmem, -⟩ := State.memLanes_lane (tack := t) (addr := globalAddr sb.toNat g.toNat s) (size := accSize z) (write := false)
    (ok := fun w th pl => .next (th.load s (accSize z) x d.toNat pl (globalAddr sb.toNat g.toNat s w th))) (after := id)
    hp hr ht (fun _ => rfl) (fun _ _ _ => rfl)
  rw [State.memOut_at hat, Out.apply_next] at hlane
  exact ⟨_, rfl, hlane, fun pa => by rw [hmem]⟩

theorem lds_issues (ht : w.sReady [sb.toNat]) {b off : Nat} (hal : (scratchAddr sb.toNat g.toNat s w th).toNat % accSize z = 0)
    (hat : s.padAt w.blk (scratchAddr sb.toNat g.toNat s w th).toNat = some (b, off)) :
    ∃ s', exec (.lds d h x z g sb t) s = .next s' ∧
      s'.lane? w.core w.slot th.lane = some ((th.load s (accSize z) x d.toNat (.pad b off) 0).after s.cur.len t) ∧ s.sameMemory s' := by
  obtain ⟨hlane, hmem, -⟩ := State.padLanes_lane (tack := t) (addr := scratchAddr sb.toNat g.toNat s) (size := accSize z)
    (ok := fun _ th pl => .next (th.load s (accSize z) x d.toNat pl 0)) (after := id) hp hr ht (fun _ => rfl) (fun _ _ _ => rfl)
  rw [State.padOut_at hal hat, Out.apply_next] at hlane
  exact ⟨_, rfl, hlane, fun pa => by rw [hmem]⟩

theorem st_issues (ha : s.Agrees w) (ht : w.sReady [sb.toNat, sb.toNat + 1]) {pl : Place}
    (hat : s.resolve w.blk (globalAddr sb.toNat g.toNat s w th) (accSize z) true = .at pl) :
    ∃ s', exec (.st d h z g sb t) s = .next s' ∧
      s'.lane? w.core w.slot th.lane =
        some ((th.issue s (.store (storeData d.toNat (accSize z) s th)) pl (globalAddr sb.toNat g.toNat s w th)).after s.cur.len t) ∧
      s.sameMemory s' ∧ s'.blocks = s.blocks := by
  obtain ⟨hlane, hmem, hblocks⟩ := State.memLanes_lane (tack := t) (addr := globalAddr sb.toNat g.toNat s) (size := accSize z) (write := true)
    (ok := fun w th pl => s.storeOut w th pl (storeData d.toNat (accSize z) s th)
      (th.issue s (.store (storeData d.toNat (accSize z) s th)) pl (globalAddr sb.toNat g.toNat s w th)) th)
    (after := fun u => u.afterCompare s (s.globalPlace (globalAddr sb.toNat g.toNat s) (accSize z) true) (storeData d.toNat (accSize z) s))
    hp hr ht (State.afterCompare_agrees hp.wave ha _ _) (fun v t pl => State.storeOut_lane s v t pl _ rfl rfl)
  rw [State.memOut_at hat, State.storeOut_agrees ha, Out.apply_next] at hlane
  exact ⟨_, rfl, hlane, fun pa => by rw [hmem], hblocks⟩

theorem sts_issues (ha : s.Agrees w) (ht : w.sReady [sb.toNat]) {b off : Nat}
    (hal : (scratchAddr sb.toNat g.toNat s w th).toNat % accSize z = 0)
    (hat : s.padAt w.blk (scratchAddr sb.toNat g.toNat s w th).toNat = some (b, off)) :
    ∃ s', exec (.sts d h z g sb t) s = .next s' ∧
      s'.lane? w.core w.slot th.lane = some ((th.issue s (.store (storeData d.toNat (accSize z) s th)) (.pad b off) 0).after s.cur.len t) ∧
      s.sameMemory s' ∧ s'.blocks = s.blocks := by
  obtain ⟨hlane, hmem, hblocks⟩ := State.padLanes_lane (tack := t) (addr := scratchAddr sb.toNat g.toNat s) (size := accSize z)
    (ok := fun w th pl => s.storeOut w th pl (storeData d.toNat (accSize z) s th)
      (th.issue s (.store (storeData d.toNat (accSize z) s th)) pl 0) th)
    (after := fun u => u.afterCompare s (s.padPlace (scratchAddr sb.toNat g.toNat s) (accSize z)) (storeData d.toNat (accSize z) s))
    hp hr ht (State.afterCompare_agrees hp.wave ha _ _) (fun v t pl => State.storeOut_lane s v t pl _ rfl rfl)
  rw [State.padOut_at hal hat, State.storeOut_agrees ha, Out.apply_next] at hlane
  exact ⟨_, rfl, hlane, fun pa => by rw [hmem], hblocks⟩
end

/-! ## The bytes of a constant bank (spec/01 R31) -/

section
variable {s : State} {blk a pick : Nat} {p : Prog} (hprog : s.progOf blk = some p)
include hprog

theorem State.constByte_undeclared (hb : p.banks.find? (fun k => k.1 == a / 2 ^ 16 % 16) = none) : s.constByte blk a pick = 0 := by
  simp only [State.constByte, hprog, hb]
  rfl

variable {b va n : Nat} (hb : p.banks.find? (fun k => k.1 == a / 2 ^ 16 % 16) = some (b, va, n))
include hb

theorem State.constByte_beyond (hn : n ≤ a % 2 ^ 16) : s.constByte blk a pick = 0 := by
  simp only [State.constByte, hprog, hb, if_neg (Nat.not_lt.mpr hn)]
  rfl

/-- A byte of the bank is one of two, as the device chooses. -/
theorem State.constByte_within (hn : a % 2 ^ 16 < n) :
    s.constByte blk a pick = getD p.cbytes 0#8 (a / 2 ^ 16 % 16 * 2 ^ 16 + a % 2 ^ 16) ∨
      s.constByte blk a pick = readMem s.mem (s.devAddr (s.vfOf blk) (BitVec.ofNat 64 (va + a % 2 ^ 16)) false) := by
  simp only [State.constByte, hprog, hb, if_pos hn]
  split
  · exact .inr rfl
  · exact .inl rfl
end

/-- The bytes that an LDC reads in a lane. -/
def State.ldcBytes (s : State) (blk a size lane : Nat) : List Byte :=
  (List.range size).map (fun i => s.constByte blk (a + i) (5000000 + lane * 8 + i))

theorem State.ldcValue_eq (s : State) (blk a size : Nat) (x : Bool) (lane : Nat) :
    s.ldcValue blk a size x lane = extendLoad size x (leNat (s.ldcBytes blk a size lane)) := rfl

theorem State.ldcBytes_length (s : State) (blk a size lane : Nat) : (s.ldcBytes blk a size lane).length = size := by
  simp [State.ldcBytes]

theorem State.ldcBytes_getD (s : State) (blk a lane : Nat) {size i : Nat} (hi : i < size) (e : Byte) :
    (s.ldcBytes blk a size lane).getD i e = s.constByte blk (a + i) (5000000 + lane * 8 + i) := by
  simp [State.ldcBytes, List.getD, hi]

/-! ## What an LDC leaves of its state: the log of its wave -/

theorem State.breach_noSpills {s : State} (h : NoSpills s) (pas : List Nat) : s.breach pas = s := by
  have hnone : ∀ c ∈ s.cores, c.2.tiles.filter (fun x => x.2.mapped && x.2.policy == 1 && pas.any (s.inSpill x.2)) = [] := by
    intro c hc
    rw [List.filter_eq_nil_iff]
    intro x hx htile
    simp only [Bool.and_eq_true, beq_iff_eq] at htile
    exact h c hc x hx htile.1.1 htile.1.2
  unfold State.breach
  refine List.foldlRecOn (motive := fun t => t = s) s.cores _ rfl (fun t ht c hc => ?_)
  rw [hnone c hc]
  exact ht

theorem State.poisonIn_none {s : State} (h : s.poisoned = []) (pas : List Nat) : s.poisonIn pas = none := by
  simp [State.poisonIn, h]

theorem Wave.logFor_eq (w : Wave) (l : Nat) (e : LogEntry) : w.logFor l e = { w with lining := (w.logFor l e).lining } := by
  unfold Wave.logFor
  split
  · rfl
  · unfold Wave.logEntry
    cases w.lining <;> rfl

theorem Wave.logFor_fresh {w : Wave} (h : w.fresh) (l : Nat) (e : LogEntry) : (w.logFor l e).fresh := by
  unfold Wave.logFor
  split
  · exact h
  · unfold Wave.logEntry
    cases hl : w.lining with
    | none => exact h
    | some old =>
      intro new hnew
      cases hnew
      exact h old hl

theorem State.curWave_onCur {s : State} {w : Wave} (hw : s.curWave = some w) {f : Wave → Wave}
    (hf : ∀ v : Wave, (f v).core = v.core ∧ (f v).slot = v.slot) : (s.onCur f).curWave = some (f w) := by
  refine (State.wave?_onWave s _ _ f hf).trans ?_
  rw [show s.wave? s.cur.core s.cur.slot = some w from hw]
  rfl

/-- `u` is `s` but for what stands in the logs of waves: that of the path is `w` with another lining, of which no re-execution uses
anything. -/
structure OnlyLogged (s u : State) (w : Wave) : Prop where
  state : ∃ ws, u = { s with waves := ws }
  wave : ∃ l, u.curWave = some { w with lining := l } ∧ ({ w with lining := l } : Wave).fresh

theorem OnlyLogged.refl {s : State} {w : Wave} (hw : s.curWave = some w) (hf : w.fresh) : OnlyLogged s s w :=
  ⟨⟨s.waves, rfl⟩, ⟨w.lining, hw, hf⟩⟩

theorem OnlyLogged.mem {s u : State} {w : Wave} (h : OnlyLogged s u w) : u.mem = s.mem := by
  obtain ⟨ws, rfl⟩ := h.state
  rfl

theorem OnlyLogged.onPath {s u : State} {w : Wave} {th : Thread} (h : OnlyLogged s u w) (hp : s.OnPath w th) :
    ∃ l, u.OnPath { w with lining := l } th := by
  obtain ⟨l, hl, -⟩ := h.wave
  obtain ⟨ws, rfl⟩ := h.state
  exact ⟨l, hl, hp.lane, hp.path⟩

theorem OnlyLogged.apply {s u : State} {w : Wave} (h : OnlyLogged s u w) (o : Out) (r : WaveRegs) (tack : Bool) :
    o.apply u r u.cur.len tack = o.apply s r s.cur.len tack := by
  obtain ⟨ws, rfl⟩ := h.state
  cases o <;> rfl

/-- A value from outside a wave that is not re-executing is itself, and is logged (spec/27 R389). -/
theorem OnlyLogged.outside {s u : State} {w : Wave} (h : OnlyLogged s u w) (l : Nat) (v : Dword) :
    OnlyLogged s (u.outside l v).1 w ∧ (u.outside l v).2 = v := by
  obtain ⟨old, hold, hfresh⟩ := h.wave
  have hnone : Wave.replayFor { w with lining := old } l (LogEntry.isValue l u.cur.pc 0) = none := by
    unfold Wave.replayFor
    split
    · rfl
    · exact Wave.replay_fresh hfresh _
  have e : u.outside l v = (u.onCur (fun x => x.logFor l (.value l u.cur.pc 0 v)), v) := by
    simp only [State.outside, hold, hnone]
  rw [e]
  refine ⟨⟨?_, (Wave.logFor { w with lining := old } l (.value l u.cur.pc 0 v)).lining, ?_, ?_⟩, rfl⟩
  · obtain ⟨ws, rfl⟩ := h.state
    exact ⟨_, rfl⟩
  · refine (State.curWave_onCur hold (fun x => ?_)).trans (congrArg some (Wave.logFor_eq _ _ _))
    rw [Wave.logFor_eq]
    exact ⟨rfl, rfl⟩
  · have hlog := Wave.logFor_fresh hfresh l (.value l u.cur.pc 0 v)
    rwa [Wave.logFor_eq] at hlog

/-! ## LDC -/

/-- One lane of the fold of `State.ldcValues`: the value it brings added, and logged where the wave is lined. -/
def ldcTake (lined : Bool) (size : Nat) (addr : Thread → Nat) (value : Thread → Dword) (acc : State × List (Nat × Dword)) (th : Thread) :
    State × List (Nat × Dword) :=
  if !lined ∨ addr th % size ≠ 0 then (acc.1, acc.2 ++ [(th.lane, value th)])
  else ((acc.1.outside th.lane (value th)).1, acc.2 ++ [(th.lane, (acc.1.outside th.lane (value th)).2)])

theorem ldcTake_fold {s : State} {w : Wave} (lined : Bool) (size : Nat) (addr : Thread → Nat) (value : Thread → Dword) (ths : List Thread) :
    ∀ acc : State × List (Nat × Dword), OnlyLogged s acc.1 w →
      OnlyLogged s (ths.foldl (ldcTake lined size addr value) acc).1 w ∧
      (ths.foldl (ldcTake lined size addr value) acc).2 = acc.2 ++ ths.map (fun th => (th.lane, value th)) := by
  induction ths with
  | nil => intro acc h; exact ⟨h, by simp⟩
  | cons th rest ih =>
    intro acc h
    obtain ⟨hout, hval⟩ := h.outside th.lane (value th)
    have hstep : OnlyLogged s (ldcTake lined size addr value acc th).1 w ∧
        (ldcTake lined size addr value acc th).2 = acc.2 ++ [(th.lane, value th)] := by
      unfold ldcTake
      split
      · exact ⟨h, rfl⟩
      · exact ⟨hout, by rw [hval]⟩
    obtain ⟨hlogged, hvals⟩ := ih _ hstep.1
    exact ⟨hlogged, by rw [List.foldl_cons, hvals, hstep.2]; simp⟩

/-- The first lane of a number that is kept is the one found. -/
theorem look_lanes {l : List Thread} {th : Thread} (hl : l.find? (fun t => t.lane == th.lane) = some th) (p : Thread → Bool) (hp : p th = true)
    (f : Thread → Dword) : look ((l.filter p).map (fun t => (t.lane, f t))) th.lane = some (f th) := by
  induction l with
  | nil => cases hl
  | cons t rest ih =>
    by_cases ht : t.lane = th.lane
    · have e : t = th := by simpa [ht] using hl
      simp [e, hp, look]
    · have hrest : rest.find? (fun t => t.lane == th.lane) = some th := by simpa [ht] using hl
      cases hpt : p t with
      | false => simpa [hpt] using ih hrest
      | true => simpa [hpt, look, ht] using ih hrest

section
variable {s : State} {w : Wave}

/-- The values of an LDC of a wave that is not re-executing: for each lane of the path what it reads. -/
theorem State.ldcValues_fresh (hw : s.curWave = some w) (hf : w.fresh) (sb g size : Nat) (x : Bool) :
    OnlyLogged s (s.ldcValues sb g size x).1 w ∧
    (s.ldcValues sb g size x).2 = (w.lanes.filter (fun th => s.cur.lanes.elem th.lane)).map (fun th =>
      (th.lane, s.ldcValue w.blk (scratchAddr sb g s w th).toNat size x th.lane)) := by
  have e : s.ldcValues sb g size x = (w.lanes.filter (fun th => s.cur.lanes.elem th.lane)).foldl
      (ldcTake w.lining.isSome size (fun th => (scratchAddr sb g s w th).toNat)
        (fun th => s.ldcValue w.blk (scratchAddr sb g s w th).toNat size x th.lane)) (s, []) := by
    unfold State.ldcValues
    simp only [hw]
    unfold ldcTake
    simp only [Option.not_isSome]
  rw [e]
  exact ldcTake_fold _ _ _ _ _ (s, []) (OnlyLogged.refl hw hf)

/-- What `execLdc` makes of one lane, from the values by lane. -/
def State.ldcOut (s : State) (d g sb size : Nat) (vs : List (Nat × Dword)) (w : Wave) (th : Thread) : Out :=
  if (scratchAddr sb g s w th).toNat % size ≠ 0 then .trap th cFAULT
  else .next (if size = 8 then th.setPair s d ((look vs th.lane).getD 0) else th.setG s d (((look vs th.lane).getD 0).setWidth 32))

theorem State.ldcOut_lane (s : State) (d g sb size : Nat) (vs : List (Nat × Dword)) (w : Wave) (th : Thread) :
    (s.ldcOut d g sb size vs w th).thread.lane = th.lane := by
  unfold State.ldcOut
  split
  · rfl
  · split <;> rfl

variable {th : Thread} (d : Reg) (h x : Bool) (z : BitVec 2) (g : Reg) (sb : BitVec 6) (t : Bool)
variable (hp : s.OnPath w th) (hr : s.regsOk (g.toNat :: dataRegs d.toNat (accSize z))) (ht : w.sReady [sb.toNat])
  (hf : w.fresh) (hpoison : s.poisoned = []) (hspill : NoSpills s)
include hp hr ht hf hpoison hspill

/-- An LDC in a lane of its path, in a wave that is not re-executing, where it reads nothing that the package answers for. -/
theorem ldc_lane :
    ∃ s', exec (.ldc d h x z g sb t) s = .next s' ∧ s.sameMemory s' ∧
      s'.lane? w.core w.slot th.lane =
        some ((s.ldcOut d.toNat g.toNat sb.toNat (accSize z) (s.ldcValues sb.toNat g.toNat (accSize z) x).2 w th).apply s w.regs s.cur.len t) := by
  obtain ⟨hlogged, -⟩ := State.ldcValues_fresh hp.wave hf sb.toNat g.toNat (accSize z) x
  obtain ⟨l, hpath⟩ := hlogged.onPath hp
  have hw : s.curWave = some w := hp.wave
  have e : execLdc d h x z g sb t s = .next ((s.ldcValues sb.toNat g.toNat (accSize z) x).1.perLane t
      (s.ldcOut d.toNat g.toNat sb.toNat (accSize z) (s.ldcValues sb.toNat g.toNat (accSize z) x).2)) := by
    unfold execLdc
    simp only [State.withRegs_ok hr, State.withTokens_ready hw ht, State.breach_noSpills hspill, State.poisonIn_none hpoison, ite_self, hw]
    rfl
  refine ⟨_, e, fun pa => by rw [State.perLane_mem, hlogged.mem], ?_⟩
  refine (State.perLane_lane hpath t _ (State.ldcOut_lane s _ _ _ _ _)).trans ?_
  rw [hlogged.apply]
  rfl

theorem ldc_misaligned (hal : (scratchAddr sb.toNat g.toNat s w th).toNat % accSize z ≠ 0) :
    ∃ s', exec (.ldc d h x z g sb t) s = .next s' ∧ s.sameMemory s' ∧
      s'.lane? w.core w.slot th.lane = some (Thread.trap s w.regs th cFAULT th.pc) := by
  obtain ⟨s', hexec, hmem, hlane⟩ := ldc_lane d h x z g sb t hp hr ht hf hpoison hspill
  rw [State.ldcOut, if_pos hal] at hlane
  exact ⟨s', hexec, hmem, hlane⟩

theorem ldc_reads (hal : (scratchAddr sb.toNat g.toNat s w th).toNat % accSize z = 0) :
    ∃ s', exec (.ldc d h x z g sb t) s = .next s' ∧ s.sameMemory s' ∧
      s'.lane? w.core w.slot th.lane =
        some ((if accSize z = 8 then th.setPair s d.toNat (s.ldcValue w.blk (scratchAddr sb.toNat g.toNat s w th).toNat (accSize z) x th.lane)
          else th.setG s d.toNat ((s.ldcValue w.blk (scratchAddr sb.toNat g.toNat s w th).toNat (accSize z) x th.lane).setWidth 32)).after
            s.cur.len t) := by
  obtain ⟨s', hexec, hmem, hlane⟩ := ldc_lane d h x z g sb t hp hr ht hf hpoison hspill
  obtain ⟨-, hvals⟩ := State.ldcValues_fresh hp.wave hf sb.toNat g.toNat (accSize z) x
  rw [State.ldcOut, if_neg (not_not.mpr hal), hvals, look_lanes hp.lane _ (List.elem_eq_true_of_mem hp.path), Out.apply_next] at hlane
  exact ⟨s', hexec, hmem, hlane⟩
end

/-- Settles O19: each of LD, LDS, LDC, ST and STS by the lemma of its own above, LDC's bytes by those about the bytes of a bank. -/
theorem loadsAndStoresIssue : Obligations.LoadsAndStoresIssue := by
  unfold Obligations.LoadsAndStoresIssue
  refine ⟨fun d h x z g sb t s w th hp => ?_, fun d h z g sb t s w th hp => ?_⟩
  · intro size rs issues hr
    refine ⟨?ld, ?scratch⟩
    case ld =>
      intro pl ht va hat
      obtain ⟨s', hexec, hlane, hmem⟩ := ld_issues d h x z g sb t hp hr ht hat
      rw [Thread.load_eq] at hlane
      exact ⟨s', hexec, hlane, hmem⟩
    case scratch =>
      intro ht a
      refine ⟨?lds, ?misaligned, ?reads⟩
      case lds =>
        intro b off hal hat
        obtain ⟨s', hexec, hlane, hmem⟩ := lds_issues d h x z g sb t hp hr ht hal hat
        rw [Thread.load_eq] at hlane
        exact ⟨s', hexec, hlane, hmem⟩
      case misaligned =>
        exact fun hal hf hpoison hspill => ldc_misaligned d h x z g sb t hp hr ht hf hpoison hspill hal
      case reads =>
        intro hal hf hpoison hspill
        obtain ⟨s', hexec, hmem, hlane⟩ := ldc_reads d h x z g sb t hp hr ht hf hpoison hspill hal
        refine ⟨s', s.ldcBytes w.blk a size th.lane, hexec, hmem, State.ldcBytes_length _ _ _ _ _, ?undeclared, ?declared, hlane⟩
        case undeclared =>
          intro i hi p hprog hb
          rw [State.ldcBytes_getD _ _ _ _ hi]
          exact State.constByte_undeclared hprog hb
        case declared =>
          intro i hi p hprog b va n hb
          simp only [State.ldcBytes_getD _ _ _ _ hi]
          exact ⟨State.constByte_beyond hprog hb, State.constByte_within hprog hb⟩
  · intro size rs data issues ha hr
    refine ⟨?st, ?sts⟩
    case st =>
      intro pl ht va hat
      exact st_issues d h z g sb t hp hr ha ht hat
    case sts =>
      intro ht a b off hal hat
      exact sts_issues d h z g sb t hp hr ha ht hal hat

end Sys2Proof.Machine
end

section
/-! PROOFS. The comparisons and the predicate instructions, P2G and SEL (spec/05 R94, R97, R100, R101): first the model's conditions as facts
about exact integers, then one lemma per operand form of the model, from which O5 is assembled. -/

namespace Sys2Proof.Machine
open Sys2Proof.Claims

/-! ## Conditions -/

theorem eqW_eq : eqW = fun x y => decide (x.toNat = y.toNat) := by
  funext x y
  rw [eqW, Bool.eq_iff_iff, beq_iff_eq, decide_eq_true_iff, BitVec.toNat_inj]

theorem neW_eq : neW = fun x y => decide (x.toNat ≠ y.toNat) := by
  funext x y
  rw [neW, Bool.eq_iff_iff, bne_iff_ne, decide_eq_true_iff, BitVec.toNat_ne_iff_ne]

/-- A word is not 0 where one of its bits is 1. -/
theorem ne_zero_eq_any_testBit (v : Word) : (v != 0) = (List.range 32).any (fun i => v.toNat.testBit i) := by
  rw [Bool.eq_iff_iff, bne_iff_ne, List.any_eq_true]
  constructor
  · intro hv
    by_contra hnone
    refine hv (BitVec.eq_of_getLsbD_eq fun i hi => ?_)
    have hbit : ¬ v.toNat.testBit i = true := fun hb => hnone ⟨i, List.mem_range.mpr hi, hb⟩
    simpa [BitVec.testBit_toNat] using hbit
  · rintro ⟨i, -, hbit⟩ rfl
    simp at hbit

theorem tstW_eq : tstW = fun x y => (List.range 32).any (fun i => x.toNat.testBit i && y.toNat.testBit i) := by
  funext x y
  refine (ne_zero_eq_any_testBit (x &&& y)).trans ?_
  simp only [BitVec.toNat_and, Nat.testBit_and]

theorem ne_zero_eq_decide (v : Word) : (v != 0) = decide (v.toNat ≠ 0) :=
  congrFun (congrFun neW_eq v) 0

/-! ## The operand forms -/

section
variable {s : State} {w : Wave} {th : Thread}

/-- An instruction that writes registers of a lane and goes on: what it leaves in a lane of its path. -/
theorem State.lanes_next (h : s.OnPath w th) {regs : List Nat} (hr : s.regsOk regs) (t : Bool) (g : Thread → Thread)
    (hg : ∀ u, (g u).lane = u.lane) :
    (s.lanes regs t (fun _ u => .next (g u))).lane? w.core w.slot th.lane = some ((g th).after s.cur.len t) := by
  rw [State.lanes_lane h hr t (fun _ u => .next (g u)) (fun _ u => hg u), Out.apply_next]

theorem cmp2_lane (h : s.OnPath w th) (p : PReg) (a b : Reg) (t : Bool) (f : Word → Word → Bool) (hr : s.regsOk [a.toNat, b.toNat]) :
    ∃ s', cmp2 p a b t f s = .next s' ∧ s'.lane? w.core w.slot th.lane =
      some ((th.setP s p.toNat (f (th.g? s a.toNat) (th.g? s b.toNat))).after s.cur.len t) :=
  ⟨_, rfl, State.lanes_next h hr t _ (fun u => u.setP_lane s _ _)⟩

/-- The immediate of a comparison is sign-extended: the word of the integer it stands for. -/
theorem cmpImm_lane (h : s.OnPath w th) (p : PReg) (a : Reg) (n : BitVec 10) (t : Bool) (f : Word → Word → Bool) (hr : s.regsOk [a.toNat]) :
    ∃ s', cmpImm p a n t f s = .next s' ∧ s'.lane? w.core w.slot th.lane =
      some ((th.setP s p.toNat (f (th.g? s a.toNat) (low n.toInt))).after s.cur.len t) :=
  ⟨_, rfl, State.lanes_next h hr t _ (fun u => u.setP_lane s _ _)⟩

theorem pred2_lane (h : s.OnPath w th) (p a b : PReg) (t : Bool) (f : Bool → Bool → Bool) :
    ∃ s', pred2 p a b t f s = .next s' ∧ s'.lane? w.core w.slot th.lane =
      some ((th.setP s p.toNat (f (th.p? s a.toNat) (th.p? s b.toNat))).after s.cur.len t) :=
  ⟨_, rfl, State.lanes_next h (List.forall_mem_nil _) t _ (fun u => u.setP_lane s _ _)⟩
end

/-! ## Each row of the tables is its operand form with its condition -/

theorem exec_of_cmpTwo {i : Instr} {p : PReg} {a b : Reg} {t : Bool} {f : Word → Word → Bool} (h : CmpTwo i p a b t f) (s : State) :
    exec i s = cmp2 p a b t f s := by
  cases h with
  | icmpEq => rw [← eqW_eq]; rfl
  | icmpNe => rw [← neW_eq]; rfl
  | icmpLt => rfl
  | icmpLe => rfl
  | icmpLtn => rfl
  | icmpLen => rfl
  | icmpTst => rw [← tstW_eq]; rfl
  | g2p => simp only [← ne_zero_eq_decide]; rfl

theorem exec_of_cmpOne {i : Instr} {p : PReg} {a : Reg} {n : BitVec 10} {t : Bool} {f : Word → Word → Bool} (h : CmpOne i p a n t f)
    (s : State) : exec i s = cmpImm p a n t f s := by
  cases h with
  | icmpiEq => rw [← eqW_eq]; rfl
  | icmpiNe => rw [← neW_eq]; rfl
  | icmpiLt => rfl
  | icmpiLe => rfl
  | icmpiGt => rfl
  | icmpiGe => rfl
  | icmpiLtn => rfl
  | icmpiLen => rfl
  | icmpiGtn => rfl
  | icmpiGen => rfl

theorem exec_of_predTwo {i : Instr} {p a b : PReg} {t : Bool} {f : Bool → Bool → Bool} (h : PredTwo i p a b t f) (s : State) :
    exec i s = pred2 p a b t f s := by
  cases h with
  | pand => rfl
  | por => rfl
  | pxor => rfl
  | pnot => rfl

/-! ## P2G and SEL -/

/-- p7 reads 1 (spec/01 R17). -/
@[simp] theorem Thread.p?_seven (s : State) (t : Thread) : t.p? s 7 = true := rfl

theorem Thread.p?_iff (s : State) (t : Thread) (r : Nat) : t.p? s r = true ↔ r = 7 ∨ t.p? s r = true := by
  constructor
  · exact .inr
  · rintro (rfl | hp)
    · exact t.p?_seven s
    · exact hp

theorem ofNat_toNat_bool (b : Bool) : BitVec.ofNat 32 b.toNat = if b = true then 1#32 else 0#32 := by
  cases b with
  | false => rfl
  | true => rfl

section
variable {s : State} {w : Wave} {th : Thread} (h : s.OnPath w th)
include h

theorem p2g_lane (d : Reg) (a : PReg) (t : Bool) (hr : s.regsOk [d.toNat]) :
    ∃ s', exec (.p2g d a t) s = .next s' ∧ s'.lane? w.core w.slot th.lane =
      some ((th.setG s d.toNat (if th.p? s a.toNat = true then 1#32 else 0#32)).after s.cur.len t) := by
  rw [← ofNat_toNat_bool]
  exact ⟨_, rfl, State.lanes_next h hr t (fun u => u.setG s d.toNat (BitVec.ofNat 32 (u.p? s a.toNat).toNat)) (fun _ => rfl)⟩

theorem sel_lane (d a b : Reg) (f : PReg) (t : Bool) (hr : s.regsOk [d.toNat, a.toNat, b.toNat]) :
    ∃ s', exec (.sel d a b f t) s = .next s' ∧ s'.lane? w.core w.slot th.lane =
      some ((th.setG s d.toNat (if f.toNat = 7 ∨ th.p? s f.toNat = true then th.g? s a.toNat else th.g? s b.toNat)).after s.cur.len t) := by
  simp only [← Thread.p?_iff]
  exact ⟨_, rfl, State.lanes_next h hr t
    (fun u => u.setG s d.toNat (if u.p? s f.toNat then u.g? s a.toNat else u.g? s b.toNat)) (fun _ => rfl)⟩
end

/-- Settles O5: each row of the tables is its operand form with its condition; P2G and SEL by the lemmas of their own above. -/
theorem predicates : Obligations.Predicates := by
  unfold Obligations.Predicates
  refine ⟨⟨?cmpTwo, ?cmpOne, ?predTwo⟩, ?p2g, ?sel⟩
  case cmpTwo =>
    intro i p a b t f row s w th hp hr
    rw [exec_of_cmpTwo row]
    exact cmp2_lane hp p a b t f hr
  case cmpOne =>
    intro i p a n t f row s w th hp hr
    rw [exec_of_cmpOne row]
    exact cmpImm_lane hp p a n t f hr
  case predTwo =>
    intro i p a b t f row s w th hp
    rw [exec_of_predTwo row]
    exact pred2_lane hp p a b t f
  case p2g => exact fun d a t s w th hp hr => p2g_lane hp d a t hr
  case sel => exact fun d a b f t s w th hp hr => sel_lane hp d a b f t hr

end Sys2Proof.Machine
end

section
/-! PROOFS. The integer instructions (spec/05 R87 to R93, R95, R96, R98, R102, R115): first the model's functions of words as the exact integers
and bits of the rules, then each row of the tables as its operand form, from which O1 to O4 are assembled. -/

namespace Sys2Proof.Machine
open Sys2Proof.Claims

/-! ## Exact integers and bits as words -/

theorem low_natCast (n : Nat) : low (n : Int) = BitVec.ofNat 32 n := rfl

/-- A word is the word of its number. -/
theorem low_toNat (x : Word) : low (x.toNat : Int) = x := by simp [low_natCast]

theorem low_toInt (x : Word) : low x.toInt = x := BitVec.ofInt_toInt

theorem low_add (a b : Int) : low (a + b) = low a + low b := BitVec.ofInt_add ..
theorem low_mul (a b : Int) : low (a * b) = low a * low b := BitVec.ofInt_mul ..
theorem low_sub (a b : Int) : low (a - b) = low a - low b := by
  rw [eq_comm, sub_eq_iff_eq_add, ← low_add, sub_add_cancel]

theorem high_natCast (n : Nat) : high (n : Int) = BitVec.ofNat 32 (n / 2 ^ 32) := by
  simp only [high]
  exact_mod_cast low_natCast (n / 2 ^ 32)

/-- The bits below `n` of the sum of the powers that a test names are those it names. -/
theorem testBit_sum_pow (f : Nat → Bool) (n : Nat) :
    ((List.range n).map (fun i => if f i then 2 ^ i else 0)).sum < 2 ^ n ∧
      ∀ i, ((List.range n).map (fun i => if f i then 2 ^ i else 0)).sum.testBit i = (decide (i < n) && f i) := by
  induction n with
  | zero => simp
  | succ n ih =>
    obtain ⟨hlt, hbit⟩ := ih
    simp only [List.range_succ, List.map_append, List.sum_append, List.map_cons, List.map_nil, List.sum_cons, List.sum_nil, add_zero]
    cases hf : f n with
    | false =>
      simp only [Bool.false_eq_true, if_false, add_zero]
      refine ⟨hlt.trans (Nat.pow_lt_pow_right (by omega) (by omega)), fun i => ?_⟩
      rw [hbit]
      rcases Nat.lt_trichotomy i n with h | rfl | h
      · simp [h, Nat.lt_succ_of_lt h]
      · simp [hf]
      · simp [show ¬ i < n by omega, show ¬ i < n + 1 by omega]
    | true =>
      simp only [if_true]
      refine ⟨by rw [Nat.pow_succ]; omega, fun i => ?_⟩
      rw [Nat.add_comm]
      rcases Nat.lt_trichotomy i n with h | rfl | h
      · rw [Nat.testBit_two_pow_add_gt h, hbit]
        simp [h, Nat.lt_succ_of_lt h]
      · rw [Nat.testBit_two_pow_add_eq, Nat.testBit_lt_two_pow hlt]
        simp [hf]
      · rw [Nat.testBit_lt_two_pow]
        · simp [show ¬ i < n + 1 by omega]
        · calc 2 ^ n + _ < 2 ^ n + 2 ^ n := by omega
            _ = 2 ^ (n + 1) := by rw [Nat.pow_succ]; omega
            _ ≤ 2 ^ i := Nat.pow_le_pow_right (by omega) h

theorem getLsbD_word (f : Nat → Bool) (i : Nat) : (word f).getLsbD i = (decide (i < 32) && f i) := by
  rw [word, BitVec.getLsbD_ofNat, (testBit_sum_pow f 32).2]
  cases decide (i < 32) <;> simp

/-- A word is the word of a test that its bits meet. -/
theorem eq_word {x : Word} {f : Nat → Bool} (h : ∀ i < 32, x.getLsbD i = f i) : x = word f := by
  refine BitVec.eq_of_getLsbD_eq fun i hi => ?_
  rw [getLsbD_word, h i hi]
  simp [hi]

theorem testBit_toNat_eq (x : Word) (i : Nat) : x.toNat.testBit i = x.getLsbD i := BitVec.testBit_toNat x

/-! ## Sums, products, extremes -/

theorem add_eq_low (x y : Word) : x + y = low (x.toNat + y.toNat) := by rw [low_add, low_toNat, low_toNat]
theorem sub_eq_low (x y : Word) : x - y = low (x.toNat - y.toNat) := by rw [low_sub, low_toNat, low_toNat]
theorem mul_eq_low (x y : Word) : x * y = low (x.toNat * y.toNat) := by rw [low_mul, low_toNat, low_toNat]

theorem mulHighU_eq (x y : Word) : mulHighU x y = high (x.toNat * y.toNat) := by
  rw [← Nat.cast_mul, high_natCast]; rfl

theorem minS_eq (x y : Word) : minS x y = low (min x.toInt y.toInt) := by
  unfold minS
  rw [min_def]
  split <;> rw [low_toInt]
theorem maxS_eq (x y : Word) : maxS x y = low (max x.toInt y.toInt) := by
  unfold maxS
  rw [max_def]
  split <;> rw [low_toInt]
theorem minU_eq (x y : Word) : minU x y = low (min (x.toNat : Int) y.toNat) := by
  unfold minU
  rw [min_def]
  simp only [Nat.cast_le]
  split <;> rw [low_toNat]
theorem maxU_eq (x y : Word) : maxU x y = low (max (x.toNat : Int) y.toNat) := by
  unfold maxU
  rw [max_def]
  simp only [Nat.cast_le]
  split <;> rw [low_toNat]

/-! ## Shifts -/

theorem low_mul_two_pow (x : Word) (n : Nat) : low (x.toNat * 2 ^ n) = x <<< n := by
  apply BitVec.eq_of_toNat_eq
  rw [BitVec.toNat_shiftLeft, Nat.shiftLeft_eq, show ((x.toNat : Int) * 2 ^ n) = ((x.toNat * 2 ^ n : Nat) : Int) by push_cast; rfl, low_natCast]
  exact BitVec.toNat_ofNat ..

theorem low_div_two_pow (x : Word) (n : Nat) : low (x.toNat / 2 ^ n) = x >>> n := by
  apply BitVec.eq_of_toNat_eq
  rw [BitVec.toNat_ushiftRight, Nat.shiftRight_eq_div_pow, show ((x.toNat : Int) / 2 ^ n) = ((x.toNat / 2 ^ n : Nat) : Int) by push_cast; rfl,
    low_natCast, BitVec.toNat_ofNat, Nat.mod_eq_of_lt (Nat.lt_of_le_of_lt (Nat.div_le_self ..) x.isLt)]

theorem low_toInt_div_two_pow (x : Word) (n : Nat) : low (x.toInt / 2 ^ n) = x.sshiftRight n := by
  rw [BitVec.sshiftRight, Int.shiftRight_eq_div_pow]
  norm_cast

/-- The two parts of a rotation have no bit in common. -/
theorem rotateLeft_eq_add (x : Word) (n : Nat) (hn : n < 32) : x.rotateLeft n = x <<< n + x >>> (32 - n) := by
  rw [BitVec.rotateLeft, Nat.mod_eq_of_lt hn, BitVec.rotateLeftAux, BitVec.add_eq_or_of_and_eq_zero]
  apply BitVec.eq_of_getLsbD_eq
  intro i hi
  simp only [BitVec.getLsbD_and, BitVec.getLsbD_shiftLeft, BitVec.getLsbD_ushiftRight, BitVec.getLsbD_zero]
  by_cases h : i < n
  · simp [h]
  · rw [BitVec.getLsbD_of_ge x (32 - n + i) (by omega)]
    simp

theorem rotateRight_eq_add (x : Word) (n : Nat) (hn : n < 32) : x.rotateRight n = x >>> n + x <<< (32 - n) := by
  rw [BitVec.rotateRight, Nat.mod_eq_of_lt hn, BitVec.rotateRightAux, BitVec.add_eq_or_of_and_eq_zero]
  apply BitVec.eq_of_getLsbD_eq
  intro i hi
  simp only [BitVec.getLsbD_and, BitVec.getLsbD_shiftLeft, BitVec.getLsbD_ushiftRight, BitVec.getLsbD_zero]
  by_cases h : i < 32 - n
  · simp [h]
  · rw [BitVec.getLsbD_of_ge x (n + i) (by omega)]
    simp

theorem rolW_eq (x y : Word) :
    rolW x y = low (x.toNat * 2 ^ (y.toNat % 32) + x.toNat / 2 ^ (32 - y.toNat % 32)) := by
  rw [low_add, low_mul_two_pow, low_div_two_pow]
  exact rotateLeft_eq_add x _ (Nat.mod_lt _ (by omega))

theorem rorW_eq (x y : Word) :
    rorW x y = low (x.toNat / 2 ^ (y.toNat % 32) + x.toNat * 2 ^ (32 - y.toNat % 32)) := by
  rw [low_add, low_mul_two_pow, low_div_two_pow]
  exact rotateRight_eq_add x _ (Nat.mod_lt _ (by omega))

/-! ## Bit by bit -/

theorem and_eq_word (x y : Word) : x &&& y = word (fun i => x.toNat.testBit i && y.toNat.testBit i) :=
  eq_word fun i _ => by simp [testBit_toNat_eq]
theorem or_eq_word (x y : Word) : x ||| y = word (fun i => x.toNat.testBit i || y.toNat.testBit i) :=
  eq_word fun i _ => by simp [testBit_toNat_eq]
theorem xor_eq_word (x y : Word) : x ^^^ y = word (fun i => x.toNat.testBit i != y.toNat.testBit i) :=
  eq_word fun i _ => by simp [testBit_toNat_eq]
theorem andn_eq_word (x y : Word) : x &&& ~~~y = word (fun i => x.toNat.testBit i && !y.toNat.testBit i) :=
  eq_word fun i hi => by simp [testBit_toNat_eq, hi]

/-! ## Fields (R90, R91) -/

theorem bfxnW_eq (x y : Word) : bfxnW x y = low (x.toNat / 2 ^ off y % 2 ^ wid y) := by
  rw [show ((x.toNat : Int) / 2 ^ off y % 2 ^ wid y) = ((x.toNat / 2 ^ off y % 2 ^ wid y : Nat) : Int) by push_cast; rfl]
  rfl

theorem fieldMask_eq (y : Word) : fieldMask y = low ((2 ^ wid y - 1) * 2 ^ off y) := by
  rw [show (((2 : Int) ^ wid y - 1) * 2 ^ off y) = (((2 ^ wid y - 1) * 2 ^ off y : Nat) : Int) by
    rw [Nat.cast_mul, Nat.cast_sub Nat.one_le_two_pow]; push_cast; rfl]
  rfl

theorem bfxsW_eq (x y : Word) : bfxsW x y =
    (let v : Int := x.toNat / 2 ^ off y % 2 ^ wid y
     low (if wid y = 0 then 0 else if 2 ^ (wid y - 1) ≤ v then v - 2 ^ wid y else v)) := by
  have hv : ((x.toNat : Int) / 2 ^ off y % 2 ^ wid y) = ((x.toNat / 2 ^ off y % 2 ^ wid y : Nat) : Int) := by push_cast; rfl
  have hle : ∀ v : Nat, (2 : Int) ^ (wid y - 1) ≤ (v : Int) ↔ ¬ v < 2 ^ (wid y - 1) := fun v => by rw [Nat.not_lt]; exact_mod_cast Iff.rfl
  simp only [hv, hle]
  unfold bfxsW
  simp only [show fieldWidth y = wid y from rfl, show fieldOff y = off y from rfl]
  split
  · rfl
  · by_cases h : x.toNat / 2 ^ off y % 2 ^ wid y < 2 ^ (wid y - 1)
    · rw [if_pos h, if_neg (not_not.mpr h), low_natCast]
    · rw [if_neg h, if_pos h]
      rfl

/-- The bits of the mask of a field are those of the field. -/
theorem getLsbD_fieldMask (y : Word) (i : Nat) : (fieldMask y).getLsbD i = decide (off y ≤ i ∧ i < off y + wid y) := by
  have hoff : off y + wid y ≤ 32 := by
    have : off y < 32 := Nat.mod_lt _ (by omega)
    have : wid y ≤ 32 - off y := Nat.min_le_right ..
    omega
  rw [show fieldMask y = BitVec.ofNat 32 ((2 ^ wid y - 1) * 2 ^ off y) from rfl, BitVec.getLsbD_ofNat, ← Nat.shiftLeft_eq, Nat.testBit_shiftLeft,
    Nat.testBit_two_pow_sub_one, ← Bool.decide_and, ← Bool.decide_and, decide_eq_decide]
  omega

theorem bfiW_eq (z x y : Word) : bfiW z x y =
    word (fun i => if off y ≤ i ∧ i < off y + wid y then x.toNat.testBit (i - off y) else z.toNat.testBit i) := by
  refine eq_word fun i hi => ?_
  rw [bfiW, BitVec.getLsbD_or, BitVec.getLsbD_and, BitVec.getLsbD_and, BitVec.getLsbD_not, BitVec.getLsbD_shiftLeft, getLsbD_fieldMask,
    show fieldOff y = off y from rfl]
  by_cases h : off y ≤ i ∧ i < off y + wid y
  · simp [h, hi, testBit_toNat_eq, Nat.not_lt.mpr h.1]
  · rw [if_neg h]
    simp [h, hi, testBit_toNat_eq]

/-! ## Bit counts -/

theorem lt_two_pow_of_getLsbD {x : Nat} : ∀ {n : Nat}, x < 2 ^ (n + 1) → x.testBit n = false → x < 2 ^ n := by
  intro n hx hb
  by_contra h
  have : x.testBit n = true := Nat.testBit_of_two_pow_le_and_two_pow_add_one_gt (by omega) hx
  simp [this] at hb

/-- Of a number below 2^n, all the `n` bits, or those before the highest 1. -/
theorem leadingZeros_eq (x : Word) : ∀ n : Nat, x.toNat < 2 ^ n → leadingZeros n x = if x.toNat = 0 then n else n - 1 - Nat.log2 x.toNat := by
  intro n
  induction n with
  | zero => intro h; simp [leadingZeros]
  | succ n ih =>
    intro h
    unfold leadingZeros
    rw [← testBit_toNat_eq]
    cases hb : x.toNat.testBit n with
    | true =>
      have hle : 2 ^ n ≤ x.toNat := Nat.ge_two_pow_of_testBit hb
      have hpos : 0 < 2 ^ n := Nat.two_pow_pos n
      have hlog : Nat.log2 x.toNat = n := (Nat.log2_eq_iff (by omega)).mpr ⟨hle, h⟩
      rw [if_pos rfl, if_neg (by omega), hlog]
      omega
    | false =>
      have hlt := lt_two_pow_of_getLsbD h hb
      rw [if_neg (by simp), ih hlt]
      by_cases h0 : x.toNat = 0
      · simp [h0]; omega
      · have hlog : Nat.log2 x.toNat < n := (Nat.log2_lt h0).mpr hlt
        rw [if_neg h0, if_neg h0]
        omega

theorem clzW_eq (x : Word) : clzW x = low (if x.toNat = 0 then 32 else 31 - Nat.log2 x.toNat) := by
  rw [clzW, leadingZeros_eq x 32 x.isLt]
  by_cases h0 : x.toNat = 0
  · simp only [if_pos h0]; rfl
  · have hlog : Nat.log2 x.toNat < 32 := (Nat.log2_lt h0).mpr x.isLt
    simp only [if_neg h0]
    rw [show (31 - (Nat.log2 x.toNat : Int)) = ((32 - 1 - Nat.log2 x.toNat : Nat) : Int) by omega, low_natCast]

theorem trailingZeros_eq (x : Word) : ∀ n i : Nat,
    trailingZeros n i x = ((List.range' i n).takeWhile (fun k => !x.toNat.testBit k)).length := by
  intro n
  induction n with
  | zero => intro i; rfl
  | succ n ih =>
    intro i
    unfold trailingZeros
    rw [List.range'_succ, List.takeWhile_cons, testBit_toNat_eq, ih (i + 1)]
    cases x.getLsbD i with
    | true => rfl
    | false => simp [Nat.add_comm]

theorem ctzW_eq (x : Word) : ctzW x = low (((List.range 32).takeWhile (fun i => !x.toNat.testBit i)).length) := by
  rw [ctzW, trailingZeros_eq, low_natCast, List.range_eq_range']

theorem ones_eq (x : Word) : ∀ n : Nat, ones n x = ((List.range n).filter (fun i => x.toNat.testBit i)).length := by
  intro n
  induction n with
  | zero => rfl
  | succ n ih =>
    unfold ones
    rw [List.range_succ, List.filter_append, List.length_append, ih, Nat.add_comm, ← testBit_toNat_eq]
    cases h : x.toNat.testBit n <;> simp [h]

theorem popcW_eq (x : Word) : popcW x = low (((List.range 32).filter (fun i => x.toNat.testBit i)).length) := by
  rw [popcW, ones_eq, low_natCast]

theorem brevW_eq (x : Word) : brevW x = word (fun i => x.toNat.testBit (31 - i)) := by
  refine eq_word fun i hi => ?_
  rw [brevW, BitVec.getLsbD_reverse, BitVec.getMsbD_eq_getLsbD, testBit_toNat_eq]
  simp [hi]

/-! ## Immediates -/

theorem lih_eq (i : BitVec 15) (x : Word) : (i ++ x.setWidth 17 : Word) = low (i.toNat * 2 ^ 17 + x.toNat % 2 ^ 17) := by
  rw [show ((i.toNat : Int) * 2 ^ 17 + x.toNat % 2 ^ 17) = ((i.toNat * 2 ^ 17 + x.toNat % 2 ^ 17 : Nat) : Int) by push_cast; rfl, low_natCast]
  apply BitVec.eq_of_toNat_eq
  have hi := i.isLt
  rw [BitVec.toNat_append, BitVec.toNat_setWidth, ← Nat.shiftLeft_add_eq_or_of_lt (Nat.mod_lt _ (by decide)), Nat.shiftLeft_eq, BitVec.toNat_ofNat]
  omega

/-- A shift by an immediate is a shift by that word. -/
theorem amount_setWidth (n : BitVec 5) : (n.setWidth 32).toNat % 32 = n.toNat := by
  have hn := n.isLt
  rw [BitVec.toNat_setWidth]
  omega

/-! ## Destructive forms -/

theorem toNat_pair (z x : Word) : (z ++ x : Dword).toNat = z.toNat * 2 ^ 32 + x.toNat := by
  have hx := x.isLt
  rw [BitVec.toNat_append, ← Nat.shiftLeft_add_eq_or_of_lt hx, Nat.shiftLeft_eq]

theorem fshlW_eq (z x y : Word) : fshlW z x y = high ((z.toNat * 2 ^ 32 + x.toNat) * 2 ^ (y.toNat % 32)) := by
  rw [show (((z.toNat : Int) * 2 ^ 32 + x.toNat) * 2 ^ (y.toNat % 32)) = (((z.toNat * 2 ^ 32 + x.toNat) * 2 ^ (y.toNat % 32) : Nat) : Int) by
    push_cast; rfl, high_natCast, ← toNat_pair]
  apply BitVec.eq_of_toNat_eq
  rw [fshlW, BitVec.toNat_setWidth, BitVec.toNat_ushiftRight, BitVec.toNat_shiftLeft, Nat.shiftRight_eq_div_pow, Nat.shiftLeft_eq, BitVec.toNat_ofNat,
    show amount y = y.toNat % 32 from rfl]
  generalize (z ++ x : Dword).toNat * 2 ^ (y.toNat % 32) = n
  omega

theorem fshrW_eq (z x y : Word) : fshrW z x y = low ((z.toNat * 2 ^ 32 + x.toNat) / 2 ^ (y.toNat % 32)) := by
  rw [show (((z.toNat : Int) * 2 ^ 32 + x.toNat) / 2 ^ (y.toNat % 32)) = (((z.toNat * 2 ^ 32 + x.toNat) / 2 ^ (y.toNat % 32) : Nat) : Int) by
    push_cast; rfl, low_natCast, ← toNat_pair]
  apply BitVec.eq_of_toNat_eq
  rw [fshrW, BitVec.toNat_setWidth, BitVec.toNat_ushiftRight, Nat.shiftRight_eq_div_pow, BitVec.toNat_ofNat]
  rfl

theorem mad_eq (z x y : Word) : z + x * y = low (z.toNat + x.toNat * y.toNat) := by rw [low_add, low_mul, low_toNat, low_toNat, low_toNat]

theorem madhS_eq (z x y : Word) : madhS z x y = low (z.toNat + (high (x.toInt * y.toInt)).toNat) := by
  rw [low_add, low_toNat, low_toNat]; rfl

theorem madhN_eq (z x y : Word) : madhN z x y = low (z.toNat + (high (x.toNat * y.toNat)).toNat) := by
  rw [low_add, low_toNat, low_toNat, ← mulHighU_eq]; rfl

theorem sadW_eq (z x y : Word) : sadW z x y = low (z.toNat + ((x.toNat - y.toNat : Int)).natAbs) := by
  rw [low_add, low_toNat, sadW]
  congr 1
  split
  · rw [show (((x.toNat : Int) - y.toNat).natAbs : Int) = y.toNat - x.toNat by omega, ← sub_eq_low]
  · rw [show (((x.toNat : Int) - y.toNat).natAbs : Int) = x.toNat - y.toNat by omega, ← sub_eq_low]

/-- A double word is the double word of its number. -/
theorem ofInt_toNat64 (z : Dword) : BitVec.ofInt 64 (z.toNat : Int) = z := by simp

theorem mad64S_eq (z : Dword) (x y : Word) : mad64S z x y = BitVec.ofInt 64 (z.toNat + x.toInt * y.toInt) := by
  rw [BitVec.ofInt_add, BitVec.ofInt_mul, ofInt_toNat64]; rfl

/-- A word as a double word is its number. -/
theorem setWidth_eq_ofInt (x : Word) : x.setWidth 64 = BitVec.ofInt 64 (x.toNat : Int) := by
  apply BitVec.eq_of_toNat_eq
  simp

theorem mad64N_eq (z : Dword) (x y : Word) : mad64N z x y = BitVec.ofInt 64 (z.toNat + x.toNat * y.toNat) := by
  rw [BitVec.ofInt_add, BitVec.ofInt_mul, ofInt_toNat64, ← setWidth_eq_ofInt, ← setWidth_eq_ofInt]; rfl

/-- The word of a sum of exact products is the sum of the products of the words. -/
theorem foldl_eq_low_sum (g h : Nat → Int) (u v : Nat → Word) (hu : ∀ k, u k = low (g k)) (hv : ∀ k, v k = low (h k)) (ks : List Nat) :
    ∀ acc : Word, ks.foldl (fun acc k => acc + u k * v k) acc = acc + low ((ks.map (fun k => g k * h k)).sum) := by
  induction ks with
  | nil => intro acc; exact (BitVec.add_zero acc).symm
  | cons k rest ih =>
    intro acc
    rw [List.foldl_cons, ih, List.map_cons, List.sum_cons, low_add, low_mul, hu, hv, BitVec.add_assoc]

theorem byteOf_eq (x : Word) (k : Nat) : byteOf x k = (x >>> (8 * k)).setWidth 8 := rfl

theorem dot4s_eq (z x y : Word) : dot4s z x y =
    low (z.toNat + ((List.range 4).map (fun k => ((x >>> (8 * k)).setWidth 8).toInt * ((y >>> (8 * k)).setWidth 8).toInt)).sum) := by
  rw [low_add, low_toNat, dot4s,
    foldl_eq_low_sum (fun k => ((x >>> (8 * k)).setWidth 8).toInt) (fun k => ((y >>> (8 * k)).setWidth 8).toInt)
      (fun k => (byteOf x k).signExtend 32) (fun k => (byteOf y k).signExtend 32) (fun _ => rfl) (fun _ => rfl), BitVec.zero_add]

theorem setWidth_byte_eq (b : Byte) : b.setWidth 32 = low (b.toNat : Int) := by
  apply BitVec.eq_of_toNat_eq
  simp [low_natCast]

theorem dot4n_eq (z x y : Word) : dot4n z x y =
    low (z.toNat + ((List.range 4).map (fun k => ((x >>> (8 * k)).setWidth 8).toNat * ((y >>> (8 * k)).setWidth 8).toNat)).sum) := by
  rw [low_add, low_toNat, dot4n,
    foldl_eq_low_sum (fun k => ((x >>> (8 * k)).setWidth 8).toNat) (fun k => ((y >>> (8 * k)).setWidth 8).toNat)
      (fun k => (byteOf x k).setWidth 32) (fun k => (byteOf y k).setWidth 32) (fun _ => setWidth_byte_eq _) (fun _ => setWidth_byte_eq _),
    BitVec.zero_add]
  congr 2

/-! ## Carry and division (R87, R92) -/

theorem addCarry_eq (x y : Word) (c : Bool) :
    addCarry x y c = (low (x.toNat + y.toNat + c.toNat), decide (((x.toNat : Int) + y.toNat + c.toNat) / 2 ^ 32 = 1)) := by
  have hx := x.isLt
  have hy := y.isLt
  have hc : c.toNat ≤ 1 := Bool.toNat_le c
  rw [← Nat.cast_add, ← Nat.cast_add, low_natCast]
  refine Prod.ext rfl (decide_eq_decide.mpr ?_)
  omega

theorem subBorrow_eq (x y : Word) (c : Bool) :
    subBorrow x y c = (low (x.toNat - y.toNat - c.toNat), decide ((x.toNat : Int) - y.toNat - c.toNat < 0)) := by
  rw [low_sub, ← sub_eq_low, low_natCast]
  refine Prod.ext rfl (decide_eq_decide.mpr ?_)
  omega

theorem toInt_eq_zero_iff (y : Word) : y.toInt = 0 ↔ y = 0 := by
  rw [← BitVec.toInt_inj]; rfl

/-- The least signed word is the one divided by -1 that does not fit. -/
theorem overflow_iff (x y : Word) : (x.toInt = -2 ^ 31 ∧ y.toInt = -1) ↔ (x = 0x80000000#32 ∧ y = 0xFFFFFFFF#32) := by
  rw [← BitVec.toInt_inj, ← BitVec.toInt_inj]; rfl

theorem divide_signed (rem : Bool) (x y : Word) : divide true rem x y =
    if y.toInt = 0 then (low (if rem then x.toInt else -1), 1#32)
    else if x.toInt = -2 ^ 31 ∧ y.toInt = -1 then (low (if rem then 0 else -2 ^ 31), 2#32)
    else (low (if rem then x.toInt.tmod y.toInt else x.toInt.tdiv y.toInt), 0#32) := by
  simp only [toInt_eq_zero_iff, overflow_iff, divide, if_true, Int.tmod_def]
  cases rem with
  | false => rfl
  | true => simp only [if_true, low_toInt]; rfl

theorem divide_unsigned (rem : Bool) (x y : Word) : divide false rem x y =
    if y.toNat = 0 then (low (if rem then x.toNat else 2 ^ 32 - 1), 1#32)
    else (low (if rem then ((x.toNat % y.toNat : Nat) : Int) else ((x.toNat / y.toNat : Nat) : Int)), 0#32) := by
  have h0 : y.toNat = 0 ↔ y = 0 := ⟨fun h => BitVec.eq_of_toNat_eq h, fun h => by rw [h]; rfl⟩
  simp only [h0, divide, Bool.false_eq_true, if_false]
  cases rem with
  | false => rfl
  | true => simp only [if_true, low_toNat]; rfl

/-! ## The operand forms -/

section
variable {s : State} {w : Wave} {th : Thread} (h : s.OnPath w th) (d a b : Reg) (t : Bool)
include h

theorem alu2_lane (f : Word → Word → Word) (hr : s.regsOk [d.toNat, a.toNat, b.toNat]) :
    ∃ s', alu2 d a b t f s = .next s' ∧ s'.lane? w.core w.slot th.lane =
      some ((th.setG s d.toNat (f (th.g? s a.toNat) (th.g? s b.toNat))).after s.cur.len t) :=
  ⟨_, rfl, State.lanes_next h hr t (fun u => u.setG s d.toNat (f (u.g? s a.toNat) (u.g? s b.toNat))) (fun _ => rfl)⟩

theorem alu1_lane (f : Word → Word) (hr : s.regsOk [d.toNat, a.toNat]) :
    ∃ s', alu1 d a t f s = .next s' ∧ s'.lane? w.core w.slot th.lane =
      some ((th.setG s d.toNat (f (th.g? s a.toNat))).after s.cur.len t) :=
  ⟨_, rfl, State.lanes_next h hr t (fun u => u.setG s d.toNat (f (u.g? s a.toNat))) (fun _ => rfl)⟩

theorem alu3_lane (f : Word → Word → Word → Word) (hr : s.regsOk [d.toNat, a.toNat, b.toNat]) :
    ∃ s', alu3 d a b t f s = .next s' ∧ s'.lane? w.core w.slot th.lane =
      some ((th.setG s d.toNat (f (th.g? s d.toNat) (th.g? s a.toNat) (th.g? s b.toNat))).after s.cur.len t) :=
  ⟨_, rfl, State.lanes_next h hr t (fun u => u.setG s d.toNat (f (u.g? s d.toNat) (u.g? s a.toNat) (u.g? s b.toNat))) (fun _ => rfl)⟩

theorem aluPair_lane (f : Dword → Word → Word → Dword) (hr : s.regsOk [d.toNat, d.toNat + 1, a.toNat, b.toNat]) :
    ∃ s', aluPair d a b t f s = .next s' ∧ s'.lane? w.core w.slot th.lane =
      some ((th.setPair s d.toNat (f (th.pair? s d.toNat) (th.g? s a.toNat) (th.g? s b.toNat))).after s.cur.len t) :=
  ⟨_, rfl, State.lanes_next h hr t (fun u => u.setPair s d.toNat (f (u.pair? s d.toNat) (u.g? s a.toNat) (u.g? s b.toNat))) (fun _ => rfl)⟩

theorem carryOp_lane (f : Word → Word → Bool → Word × Bool) (hr : s.regsOk [d.toNat, a.toNat, b.toNat]) :
    let r := f (th.g? s a.toNat) (th.g? s b.toNat) (th.p? s 6)
    ∃ s', carryOp d a b t f s = .next s' ∧ s'.lane? w.core w.slot th.lane =
      some (((th.setG s d.toNat r.1).setP s 6 r.2).after s.cur.len t) :=
  ⟨_, rfl, State.lanes_next h hr t (fun u => (u.setG s d.toNat (f (u.g? s a.toNat) (u.g? s b.toNat) (u.p? s 6)).1).setP s 6
    (f (u.g? s a.toNat) (u.g? s b.toNat) (u.p? s 6)).2) (fun _ => Thread.setP_lane s _ _ _)⟩
end

/-- Flags raised by an instruction that completes: those of the thread with its own, where no SWR of them is outstanding. -/
theorem Thread.raiseInt_eq (s : State) (th : Thread) (fl : Word) : th.raiseInt s fl = th.withIflags (th.raised s 0x070 th.iflags fl) fl := rfl

theorem Thread.raised_settled {s : State} {th : Thread} {n : Nat} (h : 1024 + n ∉ th.marks) (old fl : Word) : th.raised s n old fl = old ||| fl := by
  have hm : th.marks.elem (markSpecial n) = false := by simpa [markSpecial] using h
  rw [Thread.raised, hm]
  rfl

@[simp] theorem Thread.raiseInt_lane (s : State) (th : Thread) (fl : Word) : (th.raiseInt s fl).lane = th.lane := by
  unfold Thread.raiseInt
  split <;> rfl

/-- A lane that raises conditions completes or traps; either way it stays the same lane. -/
theorem intOut_lane (s : State) (w : Wave) (th : Thread) (fl : Word) {write : Thread → Thread} (hw : ∀ u, (write u).lane = u.lane) :
    (intOut s w th fl write).thread.lane = th.lane := by
  unfold intOut
  split
  · rfl
  · exact (hw _).trans (th.raiseInt_lane s fl)

theorem intOut_apply (s : State) (w : Wave) (th : Thread) (fl : Word) (write : Thread → Thread) (len : Nat) (t : Bool) :
    (intOut s w th fl write).apply s w.regs len t =
      if fl &&& w.regs.itrap? s = 0 then (write (th.withIflags (th.raised s 0x070 th.iflags fl) fl)).after len t
      else Thread.trap s w.regs { th with iflags := th.iflags ||| fl } cARITH th.pc := by
  unfold intOut
  by_cases h0 : fl &&& w.regs.itrap? s = 0
  · rw [if_neg (not_not.mpr h0), if_pos h0, Out.apply_next, Thread.raiseInt_eq]
  · rw [if_pos h0, if_neg h0]
    rfl

theorem divOp_lane {s : State} {w : Wave} {th : Thread} (h : s.OnPath w th) (signed rem : Bool) (d a b : Reg) (t : Bool)
    (hr : s.regsOk [d.toNat, a.toNat, b.toNat]) :
    let r := divide signed rem (th.g? s a.toNat) (th.g? s b.toNat)
    ∃ s' v, divOp signed rem d a b t s = .next s' ∧ (1024 + 0x070 ∉ th.marks → v = th.iflags ||| r.2) ∧ s'.lane? w.core w.slot th.lane = some (
      if r.2 &&& w.regs.itrap? s = 0 then ((th.withIflags v r.2).setG s d.toNat r.1).after s.cur.len t
      else Thread.trap s w.regs { th with iflags := th.iflags ||| r.2 } cARITH th.pc) := by
  refine ⟨_, th.raised s 0x070 th.iflags (divide signed rem (th.g? s a.toNat) (th.g? s b.toNat)).2, rfl, fun hm => Thread.raised_settled hm _ _, ?_⟩
  rw [State.lanes_lane h hr t _ (fun v u => intOut_lane s v u _ (fun x => x.setG_lane s _ _)), intOut_apply]

/-! ## Each row of the tables is its operand form with its function -/

theorem alu2_congr {f g : Word → Word → Word} (h : ∀ x y, f x y = g x y) (d a b : Reg) (t : Bool) (s : State) : alu2 d a b t f s = alu2 d a b t g s := by
  rw [funext₂ h]
theorem alu1_congr {f g : Word → Word} (h : ∀ x, f x = g x) (d a : Reg) (t : Bool) (s : State) : alu1 d a t f s = alu1 d a t g s := by
  rw [funext h]
theorem alu3_congr {f g : Word → Word → Word → Word} (h : ∀ z x y, f z x y = g z x y) (d a b : Reg) (t : Bool) (s : State) :
    alu3 d a b t f s = alu3 d a b t g s := by
  rw [funext₃ h]
theorem aluPair_congr {f g : Dword → Word → Word → Dword} (h : ∀ z x y, f z x y = g z x y) (d a b : Reg) (t : Bool) (s : State) :
    aluPair d a b t f s = aluPair d a b t g s := by
  rw [funext₃ h]

theorem copySign_eq (x y : Word) : copySign x y = word (fun i => if i = 31 then y.toNat.testBit i else x.toNat.testBit i) := by
  refine eq_word fun i hi => ?_
  simp only [copySign, testBit_toNat_eq, BitVec.getLsbD_or, BitVec.getLsbD_and]
  interval_cases i <;> simp

theorem shlW_eq (x y : Word) : shlW x y = low (x.toNat * 2 ^ (y.toNat % 32)) := (low_mul_two_pow x _).symm
theorem shrW_eq (x y : Word) : shrW x y = low (x.toNat / 2 ^ (y.toNat % 32)) := (low_div_two_pow x _).symm
theorem sarW_eq (x y : Word) : sarW x y = low (x.toInt / 2 ^ (y.toNat % 32)) := (low_toInt_div_two_pow x _).symm

theorem exec_of_intTwo {i : Instr} {d a b : Reg} {t : Bool} {f : Word → Word → Word} (h : IntTwo i d a b t f) (s : State) :
    exec i s = alu2 d a b t f s := by
  cases h with
  | add => exact alu2_congr add_eq_low d a b t s
  | sub => exact alu2_congr sub_eq_low d a b t s
  | and => exact alu2_congr and_eq_word d a b t s
  | or => exact alu2_congr or_eq_word d a b t s
  | xor => exact alu2_congr xor_eq_word d a b t s
  | andn => exact alu2_congr andn_eq_word d a b t s
  | mul => exact alu2_congr mul_eq_low d a b t s
  | mulhs => rfl
  | mulhu => exact alu2_congr mulHighU_eq d a b t s
  | mulhsu => rfl
  | mins => exact alu2_congr minS_eq d a b t s
  | maxs => exact alu2_congr maxS_eq d a b t s
  | minu => exact alu2_congr minU_eq d a b t s
  | maxu => exact alu2_congr maxU_eq d a b t s
  | shl => exact alu2_congr shlW_eq d a b t s
  | shr => exact alu2_congr shrW_eq d a b t s
  | sar => exact alu2_congr sarW_eq d a b t s
  | rol => exact alu2_congr rolW_eq d a b t s
  | ror => exact alu2_congr rorW_eq d a b t s
  | bfxn => exact alu2_congr bfxnW_eq d a b t s
  | bfxs => exact alu2_congr bfxsW_eq d a b t s
  | fcps => exact alu2_congr copySign_eq d a b t s
  | cAdd d b => exact alu2_congr add_eq_low _ _ _ false s
  | cSub d b => exact alu2_congr sub_eq_low _ _ _ false s
  | cAnd d b => exact alu2_congr and_eq_word _ _ _ false s
  | cOr d b => exact alu2_congr or_eq_word _ _ _ false s
  | cXor d b => exact alu2_congr xor_eq_word _ _ _ false s
  | cShl d b => exact alu2_congr shlW_eq _ _ _ false s
  | cShr d b => exact alu2_congr shrW_eq _ _ _ false s
  | cSar d b => exact alu2_congr sarW_eq _ _ _ false s
  | cMul d b => exact alu2_congr mul_eq_low _ _ _ false s
  | cMins d b => exact alu2_congr minS_eq _ _ _ false s
  | cMaxs d b => exact alu2_congr maxS_eq _ _ _ false s

theorem shlW_imm (n : BitVec 5) (x : Word) : shlW x (n.setWidth 32) = low (x.toNat * 2 ^ n.toNat) := by rw [shlW_eq, amount_setWidth]
theorem shrW_imm (n : BitVec 5) (x : Word) : shrW x (n.setWidth 32) = low (x.toNat / 2 ^ n.toNat) := by rw [shrW_eq, amount_setWidth]
theorem sarW_imm (n : BitVec 5) (x : Word) : sarW x (n.setWidth 32) = low (x.toInt / 2 ^ n.toNat) := by rw [sarW_eq, amount_setWidth]
theorem rolW_imm (n : BitVec 5) (x : Word) : rolW x (n.setWidth 32) = low (x.toNat * 2 ^ n.toNat + x.toNat / 2 ^ (32 - n.toNat)) := by rw [rolW_eq, amount_setWidth]
theorem rorW_imm (n : BitVec 5) (x : Word) : rorW x (n.setWidth 32) = low (x.toNat / 2 ^ n.toNat + x.toNat * 2 ^ (32 - n.toNat)) := by rw [rorW_eq, amount_setWidth]

theorem add_imm_eq {k : Nat} (i : BitVec k) (x : Word) : x + imm i = low (x.toNat + i.toInt) := by rw [low_add, low_toNat]; rfl

theorem exec_of_intOne {i : Instr} {d a : Reg} {t : Bool} {f : Word → Word} (h : IntOne i d a t f) (s : State) :
    exec i s = alu1 d a t f s := by
  cases h with
  | bmsk => exact alu1_congr fieldMask_eq d a t s
  | clz => exact alu1_congr clzW_eq d a t s
  | ctz => exact alu1_congr ctzW_eq d a t s
  | popc => exact alu1_congr popcW_eq d a t s
  | brev => exact alu1_congr brevW_eq d a t s
  | addi _ _ i => exact alu1_congr (add_imm_eq i) d a t s
  | andi _ _ i => exact alu1_congr (fun x => and_eq_word x (imm i)) d a t s
  | ori _ _ i => exact alu1_congr (fun x => or_eq_word x (imm i)) d a t s
  | xori _ _ i => exact alu1_congr (fun x => xor_eq_word x (imm i)) d a t s
  | shfiShl _ _ n => exact alu1_congr (shlW_imm n) d a t s
  | shfiShr _ _ n => exact alu1_congr (shrW_imm n) d a t s
  | shfiSar _ _ n => exact alu1_congr (sarW_imm n) d a t s
  | shfiRol _ _ n => exact alu1_congr (rolW_imm n) d a t s
  | shfiRor _ _ n => exact alu1_congr (rorW_imm n) d a t s
  | lih _ i => exact alu1_congr (lih_eq i) d d t s
  | cMov => rfl
  | addi5 _ i => exact alu1_congr (add_imm_eq i) _ _ false s

theorem intConst_lane {i : Instr} {d : Reg} {t : Bool} {v : Word} (row : IntConst i d t v) {s : State} {w : Wave} {th : Thread}
    (h : s.OnPath w th) (hr : s.regsOk [d.toNat]) :
    ∃ s', exec i s = .next s' ∧ s'.lane? w.core w.slot th.lane = some ((th.setG s d.toNat v).after s.cur.len t) := by
  cases row with
  | li _ i => exact ⟨_, rfl, State.lanes_next h hr t (fun u => u.setG s d.toNat (imm i)) (fun _ => rfl)⟩
  | li5 d i =>
    have hd : (d.setWidth 7 : Reg).toNat = d.toNat := by
      have := d.isLt
      rw [BitVec.toNat_setWidth]
      omega
    rw [hd] at hr ⊢
    exact ⟨_, rfl, State.lanes_next h hr false (fun u => u.setG s d.toNat (imm i)) (fun _ => rfl)⟩

theorem exec_of_intThree {i : Instr} {d a b : Reg} {t : Bool} {f : Word → Word → Word → Word} (h : IntThree i d a b t f) (s : State) :
    exec i s = alu3 d a b t f s := by
  cases h with
  | fshl => exact alu3_congr fshlW_eq d a b t s
  | fshr => exact alu3_congr fshrW_eq d a b t s
  | bfi => exact alu3_congr bfiW_eq d a b t s
  | mad => exact alu3_congr mad_eq d a b t s
  | madhs => exact alu3_congr madhS_eq d a b t s
  | madhn => exact alu3_congr madhN_eq d a b t s
  | sad => exact alu3_congr sadW_eq d a b t s
  | dot4s => exact alu3_congr dot4s_eq d a b t s
  | dot4n => exact alu3_congr dot4n_eq d a b t s

theorem exec_of_intPair {i : Instr} {d a b : Reg} {t : Bool} {f : Dword → Word → Word → Int} (h : IntPair i d a b t f) (s : State) :
    exec i s = aluPair d a b t (fun z x y => BitVec.ofInt 64 (f z x y)) s := by
  cases h with
  | mad64s => exact aluPair_congr mad64S_eq d a b t s
  | mad64n => exact aluPair_congr mad64N_eq d a b t s

/-- The form of a division: signed or not, quotient or remainder. -/
theorem divides_form {i : Instr} {d a b : Reg} {t : Bool} {f : Word → Word → Int × Word} (h : Divides i d a b t f) :
    ∃ signed rem, (∀ s, exec i s = divOp signed rem d a b t s) ∧ ∀ x y, divide signed rem x y = (low (f x y).1, (f x y).2) := by
  cases h with
  | divs =>
    refine ⟨true, false, fun _ => rfl, fun x y => ?_⟩
    simp only [divide_signed, Bool.false_eq_true, if_false]
    split_ifs <;> rfl
  | rems =>
    refine ⟨true, true, fun _ => rfl, fun x y => ?_⟩
    simp only [divide_signed, if_true]
    split_ifs <;> rfl
  | divn =>
    refine ⟨false, false, fun _ => rfl, fun x y => ?_⟩
    simp only [divide_unsigned, Bool.false_eq_true, if_false]
    split_ifs <;> rfl
  | remn =>
    refine ⟨false, true, fun _ => rfl, fun x y => ?_⟩
    simp only [divide_unsigned, if_true]
    split_ifs <;> rfl

/-- Settles O1: each row is the form of two sources with its function. -/
theorem integerTwoSources : Obligations.IntegerTwoSources := by
  unfold Obligations.IntegerTwoSources
  intro i d a b t f row s w th hp hr
  rw [exec_of_intTwo row]
  exact alu2_lane hp d a b t f hr

/-- Settles O2: each row is the form of one source with its function, or a constant. -/
theorem integerOneSource : Obligations.IntegerOneSource := by
  unfold Obligations.IntegerOneSource
  refine ⟨?one, ?const⟩
  case one =>
    intro i d a t f row s w th hp hr
    rw [exec_of_intOne row]
    exact alu1_lane hp d a t f hr
  case const => exact fun i d t v row s w th hp hr => intConst_lane row hp hr

/-- Settles O3: the destructive forms on a register and on a pair, and the form with a carry. -/
theorem integerAccumulate : Obligations.IntegerAccumulate := by
  unfold Obligations.IntegerAccumulate
  refine ⟨⟨?three, ?pair⟩, ?carry⟩
  case three =>
    intro i d a b t f row s w th hp hr
    rw [exec_of_intThree row]
    exact alu3_lane hp d a b t f hr
  case pair =>
    intro i d a b t f row s w th hp hr
    rw [exec_of_intPair row]
    exact aluPair_lane hp d a b t _ hr
  case carry =>
    intro d a b t s w th hp hr x y c
    have hadd := carryOp_lane hp d a b t addCarry hr
    have hsub := carryOp_lane hp d a b t subBorrow hr
    simp only [addCarry_eq] at hadd
    simp only [subBorrow_eq] at hsub
    exact ⟨hadd, hsub⟩

/-- Settles O4: each form is `divOp`, whose lanes complete with the exact result or trap, their conditions in `$iflags`. -/
theorem division : Obligations.Division := by
  unfold Obligations.Division
  intro i d a b t f row s w th hp hr
  obtain ⟨signed, rem, hexec, hval⟩ := divides_form row
  have h := divOp_lane hp signed rem d a b t hr
  rw [hval] at h
  rw [hexec]
  exact h
end Sys2Proof.Machine
end

section
/-! PROOFS. The floating-point instructions and comparisons (spec/06 R105 to R114): one lemma per operand form of the model, from which O6 and O7
are assembled. -/

namespace Sys2Proof.Machine
open Sys2Proof.Claims

/-! ## Flags -/

theorem Thread.raiseFp_eq (s : State) (th : Thread) (fl : Word) : th.raiseFp s fl = th.withFflags (th.raised s 0x072 th.fflags fl) fl := rfl

@[simp] theorem Thread.raiseFp_lane (s : State) (th : Thread) (fl : Word) : (th.raiseFp s fl).lane = th.lane := by
  unfold Thread.raiseFp
  split <;> rfl

/-- A lane that raises flags completes or traps; either way it stays the same lane. -/
theorem fpOut_lane (s : State) (w : Wave) (th : Thread) (fl : Word) {write : Thread → Thread} (hw : ∀ u, (write u).lane = u.lane) :
    (fpOut s w th fl write).thread.lane = th.lane := by
  unfold fpOut fpOutIf
  split
  · rfl
  · exact (hw _).trans (th.raiseFp_lane s fl)

theorem fpOut_apply (s : State) (w : Wave) (th : Thread) (fl : Word) (write : Thread → Thread) (len : Nat) (t : Bool) :
    (fpOut s w th fl write).apply s w.regs len t =
      if fl &&& w.regs.ftrap? s = 0 then (write (th.withFflags (th.raised s 0x072 th.fflags fl) fl)).after len t
      else Thread.trap s w.regs { th with fflags := th.fflags ||| fl } cARITH th.pc := by
  unfold fpOut fpOutIf
  by_cases h0 : fl &&& w.regs.ftrap? s = 0
  · rw [if_neg (not_not.mpr h0), if_pos h0, Out.apply_next, Thread.raiseFp_eq]
  · rw [if_pos h0, if_neg h0]
    rfl

/-- What a lane is left with by a floating-point result and its flags: written, or the ARITH trap of an enabled flag. -/
def FpLeaves (s : State) (w : Wave) (th : Thread) (s' : State) (d : Nat) (t : Bool) (r : Word × Word) : Prop :=
  ∃ v, (1024 + 0x072 ∉ th.marks → v = th.fflags ||| r.2) ∧ s'.lane? w.core w.slot th.lane = some (
    if r.2 &&& w.regs.ftrap? s = 0 then ((th.withFflags v r.2).setG s d r.1).after s.cur.len t
    else Thread.trap s w.regs { th with fflags := th.fflags ||| r.2 } cARITH th.pc)

/-! ## The operand forms -/

section
variable {s : State} {w : Wave} {th : Thread} (h : s.OnPath w th)
include h

/-- An instruction of which each lane raises the flags of its result. -/
theorem State.lanes_fp {regs : List Nat} (hr : s.regsOk regs) (d : Nat) (t : Bool) (f : Wave → Thread → Word × Word) :
    FpLeaves s w th (s.lanes regs t (fun v u => fpOut s v u (f v u).2 (fun x => x.setG s d (f v u).1))) d t (f w th) := by
  refine ⟨th.raised s 0x072 th.fflags (f w th).2, fun hm => Thread.raised_settled hm _ _, ?_⟩
  rw [State.lanes_lane h hr t _ (fun v u => fpOut_lane s v u _ (fun x => x.setG_lane s _ _)), fpOut_apply]

variable (d a b : Reg) (t : Bool)

theorem fp2_lane (f : RMode → Word → Word → Word × Word) (hr : s.regsOk [d.toNat, a.toNat, b.toNat]) :
    ∃ s', fp2 d a b t f s = .next s' ∧ FpLeaves s w th s' d.toNat t (f (w.mode s) (th.g? s a.toNat) (th.g? s b.toNat)) :=
  ⟨_, rfl, State.lanes_fp h hr d.toNat t (fun v u => f (v.mode s) (u.g? s a.toNat) (u.g? s b.toNat))⟩

theorem fp3_lane (f : RMode → Word → Word → Word → Word × Word) (hr : s.regsOk [d.toNat, a.toNat, b.toNat]) :
    ∃ s', fp3 d a b t f s = .next s' ∧ FpLeaves s w th s' d.toNat t (f (w.mode s) (th.g? s d.toNat) (th.g? s a.toNat) (th.g? s b.toNat)) :=
  ⟨_, rfl, State.lanes_fp h hr d.toNat t (fun v u => f (v.mode s) (u.g? s d.toNat) (u.g? s a.toNat) (u.g? s b.toNat))⟩

theorem fp1_lane (f : RMode → Word → Word × Word) (hr : s.regsOk [d.toNat, a.toNat]) :
    ∃ s', fp1 d a t f s = .next s' ∧ FpLeaves s w th s' d.toNat t (f (w.mode s) (th.g? s a.toNat)) :=
  ⟨_, rfl, State.lanes_fp h hr d.toNat t (fun v u => f (v.mode s) (u.g? s a.toNat))⟩

/-- A form that raises no flag, as one that raises flags. -/
theorem alu1_lane_fp (f : Word → Word) (hr : s.regsOk [d.toNat, a.toNat]) :
    ∃ s', alu1 d a t f s = .next s' ∧ FpLeaves s w th s' d.toNat t (f (th.g? s a.toNat), 0) := by
  obtain ⟨s', he, hl⟩ := alu1_lane h d a t f hr
  exact ⟨s', he, th.fflags, fun _ => (BitVec.or_zero).symm, by simpa [Thread.withFflags] using hl⟩

/-- DOT4F: ILLOP of the reserved format, the dot product in the others. -/
theorem dot4f_lane (hr : s.regsOk [d.toNat, a.toNat, b.toNat]) :
    ∃ s', exec (.dot4f d a b t) s = .next s' ∧
      ((w.regs.f8fmt? s).toNat % 8 = 7 → s'.lane? w.core w.slot th.lane = some (Thread.trap s w.regs th cILLOP th.pc)) ∧
      ((w.regs.f8fmt? s).toNat % 8 ≠ 7 → FpLeaves s w th s' d.toNat t
        (dot4f (w.regs.f8fmt? s) (w.mode s) (th.g? s d.toNat) (th.g? s a.toNat) (th.g? s b.toNat))) := by
  have hl : ∀ v u, (if (v.regs.f8fmt? s).toNat % 8 = 7 then Out.trap u cILLOP else
      fpOut s v u (dot4f (v.regs.f8fmt? s) (v.mode s) (u.g? s d.toNat) (u.g? s a.toNat) (u.g? s b.toNat)).2
        (fun x => x.setG s d.toNat (dot4f (v.regs.f8fmt? s) (v.mode s) (u.g? s d.toNat) (u.g? s a.toNat) (u.g? s b.toNat)).1)).thread.lane = u.lane := by
    intro v u
    split
    · rfl
    · exact fpOut_lane s v u _ (fun x => x.setG_lane s _ _)
  have key := State.lanes_lane h hr t _ hl
  refine ⟨_, rfl, fun h7 => ?_, fun h7 => ⟨th.raised s 0x072 th.fflags _, fun hm => Thread.raised_settled hm _ _, ?_⟩⟩
  · rw [if_pos h7] at key
    exact key
  · rw [if_neg h7, fpOut_apply] at key
    exact key
end

/-! ## Each row of the tables is its operand form with its function -/

theorem exec_of_fpTwo {i : Instr} {d a b : Reg} {t : Bool} {f : RMode → Word → Word → Word × Word} (h : FpTwo i d a b t f) (s : State) :
    exec i s = fp2 d a b t f s := by
  cases h with
  | fadd => rfl
  | fsub => rfl
  | fmul => rfl
  | fmin => rfl
  | fmax => rfl
  | fdiv => rfl
  | hadd2 => rfl
  | hmul2 => rfl
  | badd2 => rfl
  | bmul2 => rfl
  | cFadd => rfl
  | cFmul => rfl

theorem exec_of_fpThree {i : Instr} {d a b : Reg} {t : Bool} {f : RMode → Word → Word → Word → Word × Word} (h : FpThree i d a b t f) (s : State) :
    exec i s = fp3 d a b t f s := by
  cases h with
  | ffma => rfl
  | ffms => rfl
  | hfma2 => rfl
  | bfma2 => rfl
  | dot2h => rfl
  | dot2b => rfl

/-- The byte conversion to f32 raises no flag; every other row of one source is the form with flags. -/
theorem fpOne_lane {i : Instr} {d a : Reg} {t : Bool} {f : RMode → Word → Word × Word} (row : FpOne i d a t f) {s : State} {w : Wave} {th : Thread}
    (h : s.OnPath w th) (hr : s.regsOk [d.toNat, a.toNat]) :
    ∃ s', exec i s = .next s' ∧ FpLeaves s w th s' d.toNat t (f (w.mode s) (th.g? s a.toNat)) := by
  cases row with
  | cvt8FromByte _ _ i u n => exact alu1_lane_fp h d a t (fromBin8 ⟨n.toNat, u, i⟩) hr
  | rcp => exact fp1_lane h d a t rcpW hr
  | rsq => exact fp1_lane h d a t rsqW hr
  | sqrt => exact fp1_lane h d a t sqrtW hr
  | exp2 => exact fp1_lane h d a t exp2W hr
  | log2 => exact fp1_lane h d a t log2W hr
  | sin => exact fp1_lane h d a t sinW hr
  | cos => exact fp1_lane h d a t cosW hr
  | tanh => exact fp1_lane h d a t tanhW hr
  | cvt _ _ r y x => exact fp1_lane h d a t (fun _ v => cvtW (RMode.ofBits r) y.toNat x.toNat v) hr
  | cvt8ToByte _ _ r sat i u n => exact fp1_lane h d a t (fun _ v => toBin8 ⟨n.toNat, u, i⟩ (RMode.ofBits r) sat v) hr

/-- Settles O6: each row is an operand form whose lanes write their result and flags, or trap. -/
theorem floatResults : Obligations.FloatResults := by
  unfold Obligations.FloatResults
  intro s w th hp out mode
  refine ⟨?two, ?three, ?one, ?dot4f⟩
  case two =>
    intro i d a b t f row hr
    rw [exec_of_fpTwo row]
    exact fp2_lane hp d a b t f hr
  case three =>
    intro i d a b t f row hr
    rw [exec_of_fpThree row]
    exact fp3_lane hp d a b t f hr
  case one => exact fun i d a t f row hr => fpOne_lane row hp hr
  case dot4f => exact fun d a b t hr => dot4f_lane hp d a b t hr

/-! ## Comparisons (R107) -/

theorem nvIf_and_eq_zero_iff (nv : Bool) (m : Word) : nvIf nv &&& m = 0 ↔ ¬(nv = true ∧ m &&& fNV ≠ 0) := by
  cases nv with
  | false => simp [nvIf]
  | true => simp [nvIf, BitVec.and_comm]

theorem Val.eqv_of_nan {x y : Val} (h : (x.isNan || y.isNan) = true) : x.eqv y = false := by
  cases x <;> cases y <;> simp_all [Val.eqv, Val.isNan]

theorem Val.ltv_of_nan {x y : Val} (h : (x.isNan || y.isNan) = true) : x.ltv y = false := by
  cases hx : x.isNan with
  | true => simp [Val.ltv, hx]
  | false => simp [Val.ltv, hx, show y.isNan = true by simpa [hx] using h]

/-- A condition that no NaN meets, told from what is asked of numbers alone. -/
theorem and_not_nan {x y : Val} {c : Bool} (h : (x.isNan || y.isNan) = true → c = false) : (!(x.isNan || y.isNan) && c) = c := by
  cases hn : (x.isNan || y.isNan) with
  | false => rfl
  | true => rw [h hn]; rfl

theorem anySig_pair (x y : Val) : anySig [x, y] = (x.isSig || y.isSig) := by simp [anySig]

theorem fcmp_congr {f g : Val → Val → Bool} (h : ∀ x y, f x y = g x y) (any : Bool) : fcmp any f = fcmp any g := by rw [funext₂ h]

theorem exec_of_fpCompare {i : Instr} {p : PReg} {a b : Reg} {t : Bool} {f : Val → Val → Bool} {any : Bool} (h : FpCompare i p a b t f any)
    (s : State) : exec i s = fpCmp p a b t (fcmp any f) s := by
  cases h with
  | fcmpEq => rw [fcmp_congr (fun x y => and_not_nan (Val.eqv_of_nan (x := x) (y := y)))]; rfl
  | fcmpNe =>
    rw [fcmp_congr (g := fun x y => !x.eqv y) (fun x y => ?_)]
    · rfl
    · cases hn : (x.isNan || y.isNan) with
      | false => rfl
      | true => rw [Val.eqv_of_nan hn]; rfl
  | fcmpLt => rw [fcmp_congr (fun x y => and_not_nan (Val.ltv_of_nan (x := x) (y := y)))]; rfl
  | fcmpLe =>
    rw [fcmp_congr (fun x y => and_not_nan (c := x.ltv y || x.eqv y) (fun hn => by rw [Val.ltv_of_nan hn, Val.eqv_of_nan hn]; rfl))]
    rfl
  | fcmpUn => rfl
  | fcmpOr => rfl

/-- Settles O7: each row is the comparison form, whose lanes write the predicate or trap with NV. -/
theorem floatCompare : Obligations.FloatCompare := by
  unfold Obligations.FloatCompare
  intro i p a b t f any row s w th hp hr x y nv fl
  have hnv : fl = (fcmp any f (th.g? s a.toNat) (th.g? s b.toNat)).2 := by
    simp only [fl, nv, fcmp, anySig_pair, nvIf, x, y]
  refine ⟨_, th.raised s 0x072 th.fflags fl, exec_of_fpCompare row s, fun hm => Thread.raised_settled hm _ _, ?_⟩
  rw [State.lanes_lane hp hr t _ (fun v u => fpOut_lane s v u _ (fun z => z.setP_lane s _ _)), fpOut_apply, ← hnv]
  have hiff : fl &&& w.regs.ftrap? s = 0 ↔ ¬(nv = true ∧ w.regs.ftrap? s &&& fNV ≠ 0) := nvIf_and_eq_zero_iff nv _
  by_cases htrap : nv = true ∧ w.regs.ftrap? s &&& fNV ≠ 0
  · rw [if_pos htrap, if_neg (fun h => hiff.mp h htrap)]
  · rw [if_neg htrap, if_pos (hiff.mpr htrap)]
    rfl

end Sys2Proof.Machine
end

section
/-! PROOFS. Encodings decode to their instructions (spec/02 R36, R37, R43, R44, spec/03 R52 to R54): the fields of a packed word, then one lemma for
each major of the opcode map. -/

namespace Sys2Proof
set_option Elab.async false

/-! ## The fields of a packed word -/

/-- The 32-bit encoding of an instruction, where it has one, has its length bit and decodes to it by its fields. -/
def Instr.Decodes (i : Instr) : Prop := ∀ w, encodeWord i = some w → w.getLsbD 0 = true ∧ decodeFields w = .ok i

/-- Bit 0 of a packed word is the length bit (R36). -/
theorem packW_odd (body maj : Nat) (t : Bool) : (packW body maj t).getLsbD 0 = true := by
  rw [packW, BitVec.getLsbD_ofNat, Nat.testBit_zero, decide_eq_true (p := 0 < 32) (by omega), Bool.true_and, decide_eq_true_eq]
  omega

theorem bitNat_le_one (b : Bool) : bitNat b ≤ 1 := Bool.toNat_le b

@[simp] theorem bits_packW_eq_iff {body maj : Nat} {t : Bool} {lo len : Nat} (x : BitVec len) (hb : body < 2 ^ 24) (hm : maj < 64) (hl : 8 ≤ lo) :
    bits (packW body maj t) lo len = x ↔ body / 2 ^ (lo - 8) % 2 ^ len = x.toNat := by
  rw [bits_packW body maj t lo len hb hm hl, ← BitVec.toNat_inj, BitVec.toNat_ofNat]

/-- A selector read from a packed word. -/
theorem bits_packW_toNat (k : Nat) {body maj : Nat} {t : Bool} {lo len : Nat} (hb : body < 2 ^ 24) (hm : maj < 64) (hl : 8 ≤ lo)
    (h : body / 2 ^ (lo - 8) % 2 ^ len = k) : (bits (packW body maj t) lo len).toNat = k := by
  rw [bits_packW body maj t lo len hb hm hl, BitVec.toNat_ofNat, h]

@[simp] theorem flag_packW_eq_iff {body maj : Nat} {t : Bool} {k : Nat} (b : Bool) (hb : body < 2 ^ 24) (hm : maj < 64) (hl : 8 ≤ k) :
    flag (packW body maj t) k = b ↔ body / 2 ^ (k - 8) % 2 = bitNat b := by
  have h1 := bits_packW body maj t k 1 hb hm hl
  have h2 : (bits (packW body maj t) k 1).toNat = (flag (packW body maj t) k).toNat := by
    rw [bits, flag, BitVec.extractLsb'_toNat, BitVec.getLsbD, Nat.testBit_eq_decide_div_mod_eq, Nat.shiftRight_eq_div_pow]
    rcases Nat.mod_two_eq_zero_or_one ((packW body maj t).toNat / 2 ^ k) with h | h <;> simp [h]
  rw [h1, BitVec.toNat_ofNat] at h2
  rw [show (2 : Nat) = 2 ^ 1 from rfl, show body / (2 ^ 1) ^ (k - 8) = body / 2 ^ (k - 8) by rfl, h2, bitNat]
  cases flag (packW body maj t) k <;> cases b <;> simp

@[simp] theorem fA_packW_eq_iff {body maj : Nat} {t : Bool} (x : Reg) (hb : body < 2 ^ 24) (hm : maj < 64) :
    fA (packW body maj t) = x ↔ body / 2 ^ 7 % 2 ^ 7 = x.toNat := bits_packW_eq_iff x hb hm (by omega)
@[simp] theorem fB_packW_eq_iff {body maj : Nat} {t : Bool} (x : Reg) (hb : body < 2 ^ 24) (hm : maj < 64) :
    fB (packW body maj t) = x ↔ body / 2 ^ 14 % 2 ^ 7 = x.toNat := bits_packW_eq_iff x hb hm (by omega)
@[simp] theorem fD_packW_eq_iff {body maj : Nat} {t : Bool} (x : Reg) (hb : body < 2 ^ 24) (hm : maj < 64) :
    fD (packW body maj t) = x ↔ body % 2 ^ 7 = x.toNat := by
  refine (bits_packW_eq_iff x hb hm (by omega)).trans ?_
  simp
@[simp] theorem fF_packW_eq_iff {body maj : Nat} {t : Bool} (x : BitVec 3) (hb : body < 2 ^ 24) (hm : maj < 64) :
    fF (packW body maj t) = x ↔ body / 2 ^ 21 % 2 ^ 3 = x.toNat := bits_packW_eq_iff x hb hm (by omega)
@[simp] theorem fT_packW_eq {body maj : Nat} {t : Bool} (hb : body < 2 ^ 24) (hm : maj < 64) : fT (packW body maj t) = t :=
  fT_packW body maj t hb hm

@[simp] theorem needZero_eq_ok_iff {w : Word} {fs : List (Nat × Nat)} {i j : Instr} : needZero w fs i = .ok j ↔ (∀ p ∈ fs, bits w p.1 p.2 = 0) ∧ i = j := by
  unfold needZero
  simp only [List.all_eq_true, beq_iff_eq]
  split <;> simp_all

/-! ## One lemma for each major (R52, R53) -/

theorem decodes_ialu (d a b : Reg) (t : Bool) :
    (Instr.add d a b t).Decodes ∧ (Instr.sub d a b t).Decodes ∧ (Instr.and d a b t).Decodes ∧ (Instr.or d a b t).Decodes ∧
    (Instr.xor d a b t).Decodes ∧ (Instr.andn d a b t).Decodes ∧ (Instr.addc d a b t).Decodes ∧ (Instr.subb d a b t).Decodes := by
  refine ⟨?_, ?_, ?_, ?_, ?_, ?_, ?_, ?_⟩ <;> intro w h <;> obtain rfl := Option.some.inj h <;> refine ⟨packW_odd _ _ _, ?_⟩
  all_goals
    simp (disch := omega) only [decodeFields, decIalu, packR, fMaj_packW, fF,
      bits_packW_toNat 0, bits_packW_toNat 1, bits_packW_toNat 2, bits_packW_toNat 3, bits_packW_toNat 4, bits_packW_toNat 5,
      bits_packW_toNat 6, bits_packW_toNat 7]
    simp (disch := omega)
    omega

theorem decodes_imul (d a b : Reg) (t : Bool) :
    (Instr.mul d a b t).Decodes ∧ (Instr.mulhs d a b t).Decodes ∧ (Instr.mulhu d a b t).Decodes ∧ (Instr.mulhsu d a b t).Decodes ∧
    (Instr.mins d a b t).Decodes ∧ (Instr.maxs d a b t).Decodes ∧ (Instr.minu d a b t).Decodes ∧ (Instr.maxu d a b t).Decodes := by
  refine ⟨?_, ?_, ?_, ?_, ?_, ?_, ?_, ?_⟩ <;> intro w h <;> obtain rfl := Option.some.inj h <;> refine ⟨packW_odd _ _ _, ?_⟩
  all_goals
    simp (disch := omega) only [decodeFields, decImul, packR, fMaj_packW, fF,
      bits_packW_toNat 0, bits_packW_toNat 1, bits_packW_toNat 2, bits_packW_toNat 3, bits_packW_toNat 4, bits_packW_toNat 5,
      bits_packW_toNat 6, bits_packW_toNat 7]
    simp (disch := omega)
    omega

theorem decodes_shf (d a b : Reg) (t : Bool) :
    (Instr.shl d a b t).Decodes ∧ (Instr.shr d a b t).Decodes ∧ (Instr.sar d a b t).Decodes ∧ (Instr.rol d a b t).Decodes ∧
    (Instr.ror d a b t).Decodes ∧ (Instr.fshl d a b t).Decodes ∧ (Instr.fshr d a b t).Decodes := by
  refine ⟨?_, ?_, ?_, ?_, ?_, ?_, ?_⟩ <;> intro w h <;> obtain rfl := Option.some.inj h <;> refine ⟨packW_odd _ _ _, ?_⟩
  all_goals
    simp (disch := omega) only [decodeFields, decShf, packR, fMaj_packW, fF,
      bits_packW_toNat 0, bits_packW_toNat 1, bits_packW_toNat 2, bits_packW_toNat 3, bits_packW_toNat 4, bits_packW_toNat 5, bits_packW_toNat 6]
    simp (disch := omega)
    omega

theorem decodes_bits (d a b : Reg) (t : Bool) :
    (Instr.bfxn d a b t).Decodes ∧ (Instr.bfxs d a b t).Decodes ∧ (Instr.bfi d a b t).Decodes ∧ (Instr.bmsk d b t).Decodes ∧
    (Instr.clz d a t).Decodes ∧ (Instr.ctz d a t).Decodes ∧ (Instr.popc d a t).Decodes ∧ (Instr.brev d a t).Decodes := by
  refine ⟨?_, ?_, ?_, ?_, ?_, ?_, ?_, ?_⟩ <;> intro w h <;> obtain rfl := Option.some.inj h <;> refine ⟨packW_odd _ _ _, ?_⟩
  all_goals
    simp (disch := omega) only [decodeFields, decBits, packR, fMaj_packW, fF,
      bits_packW_toNat 0, bits_packW_toNat 1, bits_packW_toNat 2, bits_packW_toNat 3, bits_packW_toNat 4, bits_packW_toNat 5,
      bits_packW_toNat 6, bits_packW_toNat 7]
    simp (disch := omega)
    omega

theorem decodes_idiv (d a b : Reg) (t : Bool) :
    (Instr.divs d a b t).Decodes ∧ (Instr.divn d a b t).Decodes ∧ (Instr.rems d a b t).Decodes ∧ (Instr.remn d a b t).Decodes := by
  refine ⟨?_, ?_, ?_, ?_⟩ <;> intro w h <;> obtain rfl := Option.some.inj h <;> refine ⟨packW_odd _ _ _, ?_⟩
  all_goals
    simp (disch := omega) only [decodeFields, decIdiv, packR, fMaj_packW, fF,
      bits_packW_toNat 0, bits_packW_toNat 1, bits_packW_toNat 2, bits_packW_toNat 3]
    simp (disch := omega)
    omega

theorem decodes_imad (d a b : Reg) (t : Bool) :
    (Instr.mad d a b t).Decodes ∧ (Instr.madhs d a b t).Decodes ∧ (Instr.madhn d a b t).Decodes ∧ (Instr.mad64s d a b t).Decodes ∧
    (Instr.mad64n d a b t).Decodes ∧ (Instr.sad d a b t).Decodes := by
  refine ⟨?_, ?_, ?_, ?_, ?_, ?_⟩ <;> intro w h <;> obtain rfl := Option.some.inj h <;> refine ⟨packW_odd _ _ _, ?_⟩
  all_goals
    simp (disch := omega) only [decodeFields, decImad, packR, fMaj_packW, fF,
      bits_packW_toNat 0, bits_packW_toNat 1, bits_packW_toNat 2, bits_packW_toNat 3, bits_packW_toNat 4, bits_packW_toNat 5]
    simp (disch := omega)
    omega

theorem decodes_icmp (p : BitVec 3) (a b : Reg) (t : Bool) :
    (Instr.icmpEq p a b t).Decodes ∧ (Instr.icmpNe p a b t).Decodes ∧ (Instr.icmpLt p a b t).Decodes ∧ (Instr.icmpLe p a b t).Decodes ∧
    (Instr.icmpLtn p a b t).Decodes ∧ (Instr.icmpLen p a b t).Decodes ∧ (Instr.icmpTst p a b t).Decodes := by
  refine ⟨?_, ?_, ?_, ?_, ?_, ?_, ?_⟩ <;> intro w h <;> obtain rfl := Option.some.inj h <;> refine ⟨packW_odd _ _ _, ?_⟩
  all_goals
    simp (disch := omega) only [decodeFields, decIcmp, packR, fMaj_packW, fF,
      bits_packW_toNat 0, bits_packW_toNat 1, bits_packW_toNat 2, bits_packW_toNat 3, bits_packW_toNat 4, bits_packW_toNat 5, bits_packW_toNat 6]
    simp (disch := omega)
    omega

theorem decodes_addi (d a : Reg) (i : BitVec 10) (t : Bool) :
    (Instr.addi d a i t).Decodes := by
  intro w h
  obtain rfl := Option.some.inj h
  refine ⟨packW_odd _ _ _, ?_⟩
  simp (disch := omega) only [decodeFields, decAddi, packI, fMaj_packW]
  simp (disch := omega)
  omega

theorem decodes_andi (d a : Reg) (i : BitVec 10) (t : Bool) :
    (Instr.andi d a i t).Decodes := by
  intro w h
  obtain rfl := Option.some.inj h
  refine ⟨packW_odd _ _ _, ?_⟩
  simp (disch := omega) only [decodeFields, decAndi, packI, fMaj_packW]
  simp (disch := omega)
  omega

theorem decodes_ori (d a : Reg) (i : BitVec 10) (t : Bool) :
    (Instr.ori d a i t).Decodes := by
  intro w h
  obtain rfl := Option.some.inj h
  refine ⟨packW_odd _ _ _, ?_⟩
  simp (disch := omega) only [decodeFields, decOri, packI, fMaj_packW]
  simp (disch := omega)
  omega

theorem decodes_xori (d a : Reg) (i : BitVec 10) (t : Bool) :
    (Instr.xori d a i t).Decodes := by
  intro w h
  obtain rfl := Option.some.inj h
  refine ⟨packW_odd _ _ _, ?_⟩
  simp (disch := omega) only [decodeFields, decXori, packI, fMaj_packW]
  simp (disch := omega)
  omega

theorem decodes_shfi (d a : Reg) (n : BitVec 5) (t : Bool) :
    (Instr.shfiShl d a n t).Decodes ∧ (Instr.shfiShr d a n t).Decodes ∧ (Instr.shfiSar d a n t).Decodes ∧ (Instr.shfiRol d a n t).Decodes ∧
    (Instr.shfiRor d a n t).Decodes := by
  refine ⟨?_, ?_, ?_, ?_, ?_⟩ <;> intro w h <;> obtain rfl := Option.some.inj h <;> refine ⟨packW_odd _ _ _, ?_⟩
  all_goals
    simp (disch := omega) only [decodeFields, decShfi, packI, fMaj_packW,
      bits_packW_toNat 0, bits_packW_toNat 1, bits_packW_toNat 2, bits_packW_toNat 3, bits_packW_toNat 4]
    simp (disch := omega)
    omega

theorem decodes_icmpi (p : BitVec 3) (a : Reg) (i : BitVec 10) (t : Bool) :
    (Instr.icmpiEq p a i t).Decodes ∧ (Instr.icmpiNe p a i t).Decodes ∧ (Instr.icmpiLt p a i t).Decodes ∧ (Instr.icmpiLe p a i t).Decodes ∧
    (Instr.icmpiGt p a i t).Decodes ∧ (Instr.icmpiGe p a i t).Decodes ∧ (Instr.icmpiLtn p a i t).Decodes ∧ (Instr.icmpiLen p a i t).Decodes ∧
    (Instr.icmpiGtn p a i t).Decodes ∧ (Instr.icmpiGen p a i t).Decodes := by
  refine ⟨?_, ?_, ?_, ?_, ?_, ?_, ?_, ?_, ?_, ?_⟩ <;> intro w h <;> obtain rfl := Option.some.inj h <;> refine ⟨packW_odd _ _ _, ?_⟩
  all_goals
    simp (disch := omega) only [decodeFields, decIcmpi, packI, fMaj_packW,
      bits_packW_toNat 0, bits_packW_toNat 1, bits_packW_toNat 2, bits_packW_toNat 3, bits_packW_toNat 4, bits_packW_toNat 5,
      bits_packW_toNat 6, bits_packW_toNat 7, bits_packW_toNat 8, bits_packW_toNat 9]
    simp (disch := omega)
    omega

theorem decodes_li (d : Reg) (i : BitVec 17) (t : Bool) :
    (Instr.li d i t).Decodes := by
  intro w h
  obtain rfl := Option.some.inj h
  refine ⟨packW_odd _ _ _, ?_⟩
  simp (disch := omega) only [decodeFields, decLi, packU, fMaj_packW]
  simp (disch := omega)
  omega

theorem decodes_lih (d : Reg) (i : BitVec 15) (t : Bool) :
    (Instr.lih d i t).Decodes := by
  intro w h
  obtain rfl := Option.some.inj h
  refine ⟨packW_odd _ _ _, ?_⟩
  simp (disch := omega) only [decodeFields, decLih, packU, fMaj_packW]
  simp (disch := omega)
  omega

theorem decodes_pred (p a b : BitVec 3) (t : Bool) (d a' : Reg) :
    (Instr.pand p a b t).Decodes ∧ (Instr.por p a b t).Decodes ∧ (Instr.pxor p a b t).Decodes ∧ (Instr.pnot p a t).Decodes ∧
    (Instr.p2g d a t).Decodes ∧ (Instr.g2p p a' t).Decodes := by
  refine ⟨?_, ?_, ?_, ?_, ?_, ?_⟩ <;> intro w h <;> obtain rfl := Option.some.inj h <;> refine ⟨packW_odd _ _ _, ?_⟩
  all_goals
    simp (disch := omega) only [decodeFields, decPred, packR, fMaj_packW, fF,
      bits_packW_toNat 0, bits_packW_toNat 1, bits_packW_toNat 2, bits_packW_toNat 3, bits_packW_toNat 4, bits_packW_toNat 5]
    simp (disch := omega)
    omega

theorem decodes_sel (d a b : Reg) (f : BitVec 3) (t : Bool) :
    (Instr.sel d a b f t).Decodes := by
  intro w h
  obtain rfl := Option.some.inj h
  refine ⟨packW_odd _ _ _, ?_⟩
  simp (disch := omega) only [decodeFields, decSel, packR, fMaj_packW]
  simp (disch := omega)
  omega

theorem decodes_falu (d a b : Reg) (t : Bool) :
    (Instr.fadd d a b t).Decodes ∧ (Instr.fsub d a b t).Decodes ∧ (Instr.fmul d a b t).Decodes ∧ (Instr.fmin d a b t).Decodes ∧
    (Instr.fmax d a b t).Decodes ∧ (Instr.ffma d a b t).Decodes ∧ (Instr.ffms d a b t).Decodes ∧ (Instr.fcps d a b t).Decodes := by
  refine ⟨?_, ?_, ?_, ?_, ?_, ?_, ?_, ?_⟩ <;> intro w h <;> obtain rfl := Option.some.inj h <;> refine ⟨packW_odd _ _ _, ?_⟩
  all_goals
    simp (disch := omega) only [decodeFields, decFalu, packR, fMaj_packW, fF,
      bits_packW_toNat 0, bits_packW_toNat 1, bits_packW_toNat 2, bits_packW_toNat 3, bits_packW_toNat 4, bits_packW_toNat 5,
      bits_packW_toNat 6, bits_packW_toNat 7]
    simp (disch := omega)
    omega

theorem decodes_fcmp (p : BitVec 3) (a b : Reg) (t : Bool) :
    (Instr.fcmpEq p a b t).Decodes ∧ (Instr.fcmpNe p a b t).Decodes ∧ (Instr.fcmpLt p a b t).Decodes ∧ (Instr.fcmpLe p a b t).Decodes ∧
    (Instr.fcmpUn p a b t).Decodes ∧ (Instr.fcmpOr p a b t).Decodes := by
  refine ⟨?_, ?_, ?_, ?_, ?_, ?_⟩ <;> intro w h <;> obtain rfl := Option.some.inj h <;> refine ⟨packW_odd _ _ _, ?_⟩
  all_goals
    simp (disch := omega) only [decodeFields, decFcmp, packR, fMaj_packW, fF,
      bits_packW_toNat 0, bits_packW_toNat 1, bits_packW_toNat 2, bits_packW_toNat 3, bits_packW_toNat 4, bits_packW_toNat 5]
    simp (disch := omega)
    omega

theorem decodes_fpk (d a b : Reg) (t : Bool) :
    (Instr.hadd2 d a b t).Decodes ∧ (Instr.hmul2 d a b t).Decodes ∧ (Instr.hfma2 d a b t).Decodes ∧ (Instr.badd2 d a b t).Decodes ∧
    (Instr.bmul2 d a b t).Decodes ∧ (Instr.bfma2 d a b t).Decodes ∧ (Instr.dot2h d a b t).Decodes ∧ (Instr.dot2b d a b t).Decodes := by
  refine ⟨?_, ?_, ?_, ?_, ?_, ?_, ?_, ?_⟩ <;> intro w h <;> obtain rfl := Option.some.inj h <;> refine ⟨packW_odd _ _ _, ?_⟩
  all_goals
    simp (disch := omega) only [decodeFields, decFpk, packR, fMaj_packW, fF,
      bits_packW_toNat 0, bits_packW_toNat 1, bits_packW_toNat 2, bits_packW_toNat 3, bits_packW_toNat 4, bits_packW_toNat 5,
      bits_packW_toNat 6, bits_packW_toNat 7]
    simp (disch := omega)
    omega

theorem decodes_sfu (d a : Reg) (t : Bool) :
    (Instr.rcp d a t).Decodes ∧ (Instr.rsq d a t).Decodes ∧ (Instr.sqrt d a t).Decodes ∧ (Instr.exp2 d a t).Decodes ∧
    (Instr.log2 d a t).Decodes ∧ (Instr.sin d a t).Decodes ∧ (Instr.cos d a t).Decodes ∧ (Instr.tanh d a t).Decodes := by
  refine ⟨?_, ?_, ?_, ?_, ?_, ?_, ?_, ?_⟩ <;> intro w h <;> obtain rfl := Option.some.inj h <;> refine ⟨packW_odd _ _ _, ?_⟩
  all_goals
    simp (disch := omega) only [decodeFields, decSfu, packR, fMaj_packW, fF,
      bits_packW_toNat 0, bits_packW_toNat 1, bits_packW_toNat 2, bits_packW_toNat 3, bits_packW_toNat 4, bits_packW_toNat 5,
      bits_packW_toNat 6, bits_packW_toNat 7]
    simp (disch := omega)
    omega

theorem decodes_fdiv (d a b : Reg) (t : Bool) :
    (Instr.fdiv d a b t).Decodes := by
  intro w h
  obtain rfl := Option.some.inj h
  refine ⟨packW_odd _ _ _, ?_⟩
  simp (disch := omega) only [decodeFields, decFdiv, packR, fMaj_packW, fF, bits_packW_toNat 0]
  simp (disch := omega)
  omega

theorem decodes_cvt (d a : Reg) (r : BitVec 2) (y x : BitVec 4) (t : Bool) :
    (Instr.cvt d a r y x t).Decodes := by
  intro w h
  obtain rfl := Option.some.inj h
  refine ⟨packW_odd _ _ _, ?_⟩
  simp (disch := omega) only [decodeFields, decCvt, packI, fMaj_packW]
  simp (disch := omega)
  omega

theorem decodes_cvt8 (d a : Reg) (r : BitVec 2) (sat i u t : Bool) (n : BitVec 3) :
    (Instr.cvt8ToByte d a r sat i u n t).Decodes ∧ (Instr.cvt8FromByte d a i u n t).Decodes := by
  have hsat := bitNat_le_one sat
  have hi := bitNat_le_one i
  have hu := bitNat_le_one u
  refine ⟨?_, ?_⟩ <;> intro w h <;> obtain rfl := Option.some.inj h <;> refine ⟨packW_odd _ _ _, ?_⟩
  all_goals
    simp (disch := omega) only [decodeFields, decCvt8, packI, fMaj_packW, bits_packW_toNat 0, bits_packW_toNat 1]
    simp (disch := omega)
    omega

theorem decodes_dot4 (d a b : Reg) (t : Bool) :
    (Instr.dot4s d a b t).Decodes ∧ (Instr.dot4n d a b t).Decodes ∧ (Instr.dot4f d a b t).Decodes := by
  refine ⟨?_, ?_, ?_⟩ <;> intro w h <;> obtain rfl := Option.some.inj h <;> refine ⟨packW_odd _ _ _, ?_⟩
  all_goals
    simp (disch := omega) only [decodeFields, decDot4, packR, fMaj_packW, fF, bits_packW_toNat 0, bits_packW_toNat 1, bits_packW_toNat 2]
    simp (disch := omega)
    omega

theorem decodes_shfl (d a : Reg) (m : BitVec 3) (k : BitVec 5) (t : Bool) :
    (Instr.shflIdx d a m k t).Decodes ∧ (Instr.shflUp d a m k t).Decodes ∧ (Instr.shflDn d a m k t).Decodes ∧
    (Instr.shflXor d a m k t).Decodes := by
  refine ⟨?_, ?_, ?_, ?_⟩ <;> intro w h <;> obtain rfl := Option.some.inj h <;> refine ⟨packW_odd _ _ _, ?_⟩
  all_goals
    simp (disch := omega) only [decodeFields, decShfl, packL, fMaj_packW,
      bits_packW_toNat 0, bits_packW_toNat 1, bits_packW_toNat 2, bits_packW_toNat 3]
    simp (disch := omega)
    omega

theorem decodes_shflr (d a : Reg) (m : BitVec 3) (k : BitVec 5) (t : Bool) :
    (Instr.shflr d a m k t).Decodes := by
  intro w h
  obtain rfl := Option.some.inj h
  refine ⟨packW_odd _ _ _, ?_⟩
  simp (disch := omega) only [decodeFields, decShflr, packL, fMaj_packW, bits_packW_toNat 0]
  simp (disch := omega)
  omega

theorem decodes_vote (p a m : BitVec 3) (t : Bool) (d : Reg) :
    (Instr.voteAll p a m t).Decodes ∧ (Instr.voteAny p a m t).Decodes ∧ (Instr.voteSame p a m t).Decodes ∧
    (Instr.voteBallot d a m t).Decodes := by
  refine ⟨?_, ?_, ?_, ?_⟩ <;> intro w h <;> obtain rfl := Option.some.inj h <;> refine ⟨packW_odd _ _ _, ?_⟩
  all_goals
    simp (disch := omega) only [decodeFields, decVote, packL, fMaj_packW,
      bits_packW_toNat 0, bits_packW_toNat 1, bits_packW_toNat 2, bits_packW_toNat 3]
    simp (disch := omega)
    omega

theorem decodes_fold (d a : Reg) (y k : BitVec 2) (m : BitVec 3) (t : Bool) :
    (Instr.foldAdd d a y m k t).Decodes ∧ (Instr.foldMin d a y m k t).Decodes ∧ (Instr.foldMax d a y m k t).Decodes ∧
    (Instr.foldMinn d a y m k t).Decodes ∧ (Instr.foldMaxn d a y m k t).Decodes ∧ (Instr.foldAnd d a y m k t).Decodes ∧
    (Instr.foldOr d a y m k t).Decodes ∧ (Instr.foldXor d a y m k t).Decodes := by
  refine ⟨?_, ?_, ?_, ?_, ?_, ?_, ?_, ?_⟩ <;> intro w h <;> obtain rfl := Option.some.inj h <;> refine ⟨packW_odd _ _ _, ?_⟩
  all_goals
    simp (disch := omega) only [decodeFields, decFold, packL, fMaj_packW,
      bits_packW_toNat 0, bits_packW_toNat 1, bits_packW_toNat 2, bits_packW_toNat 3, bits_packW_toNat 4, bits_packW_toNat 5,
      bits_packW_toNat 6, bits_packW_toNat 7]
    simp (disch := omega)
    omega

theorem decodes_topk (d a : Reg) (y : BitVec 2) (m : BitVec 3) (k : BitVec 5) (t : Bool) :
    (Instr.topk d a y m k t).Decodes := by
  intro w h
  obtain rfl := Option.some.inj h
  refine ⟨packW_odd _ _ _, ?_⟩
  simp (disch := omega) only [decodeFields, decTopk, packL, fMaj_packW]
  simp (disch := omega)
  omega

theorem decodes_lset (d a : Reg) (m p : BitVec 3) (t : Bool) :
    (Instr.lsetEq d a m t).Decodes ∧ (Instr.lsetAlleq p a m t).Decodes ∧ (Instr.lsetFirst p m t).Decodes ∧ (Instr.lsetLive d m t).Decodes := by
  refine ⟨?_, ?_, ?_, ?_⟩ <;> intro w h <;> obtain rfl := Option.some.inj h <;> refine ⟨packW_odd _ _ _, ?_⟩
  all_goals
    simp (disch := omega) only [decodeFields, decLset, packL, fMaj_packW,
      bits_packW_toNat 0, bits_packW_toNat 1, bits_packW_toNat 2, bits_packW_toNat 3]
    simp (disch := omega)
    omega

theorem decodes_bra (d : BitVec 20) (p : BitVec 3) (n t : Bool) :
    (Instr.bra d p n t).Decodes := by
  have hn := bitNat_le_one n
  intro w h
  obtain rfl := Option.some.inj h
  refine ⟨packW_odd _ _ _, ?_⟩
  simp (disch := omega) only [decodeFields, decBra, packB, fMaj_packW]
  simp (disch := omega)
  omega

theorem decodes_call (d : BitVec 20) (p : BitVec 3) (n t : Bool) :
    (Instr.call d p n t).Decodes := by
  have hn := bitNat_le_one n
  intro w h
  obtain rfl := Option.some.inj h
  refine ⟨packW_odd _ _ _, ?_⟩
  simp (disch := omega) only [decodeFields, decCall, packB, fMaj_packW]
  simp (disch := omega)
  omega

theorem decodes_jmpx (a : Reg) (t : Bool) :
    (Instr.brx a t).Decodes ∧ (Instr.callx a t).Decodes ∧ (Instr.ret t).Decodes ∧ (Instr.exit t).Decodes := by
  refine ⟨?_, ?_, ?_, ?_⟩ <;> intro w h <;> obtain rfl := Option.some.inj h <;> refine ⟨packW_odd _ _ _, ?_⟩
  all_goals
    simp (disch := omega) only [decodeFields, decJmpx, packR, fMaj_packW, fF,
      bits_packW_toNat 0, bits_packW_toNat 1, bits_packW_toNat 2, bits_packW_toNat 3]
    simp (disch := omega) <;> omega

theorem decodes_loop (n : BitVec 10) (c : Reg) (i t : Bool) (l : BitVec 2) :
    (Instr.loop n c i l t).Decodes := by
  have hi := bitNat_le_one i
  intro w h
  obtain rfl := Option.some.inj h
  refine ⟨packW_odd _ _ _, ?_⟩
  simp (disch := omega) only [decodeFields, decLoop, packI, fMaj_packW]
  simp (disch := omega)
  omega

theorem decodes_seam (j : BitVec 3) (t : Bool) (d : Reg) :
    (Instr.seamEnrol j t).Decodes ∧ (Instr.seamWait j t).Decodes ∧ (Instr.seamLeave j t).Decodes ∧ (Instr.seamSmask d j t).Decodes := by
  refine ⟨?_, ?_, ?_, ?_⟩ <;> intro w h <;> obtain rfl := Option.some.inj h <;> refine ⟨packW_odd _ _ _, ?_⟩
  all_goals
    simp (disch := omega) only [decodeFields, decSeam, packI, fMaj_packW,
      bits_packW_toNat 0, bits_packW_toNat 1, bits_packW_toNat 2, bits_packW_toNat 3]
    simp (disch := omega)
    omega

theorem decodes_try (d : BitVec 20) (l : BitVec 3) (t : Bool) :
    (Instr.tryOpen d l t).Decodes := by
  intro w h
  obtain rfl := Option.some.inj h
  refine ⟨packW_odd _ _ _, ?_⟩
  simp (disch := omega) only [decodeFields, decTry, packB, fMaj_packW]
  simp (disch := omega)
  omega

theorem decodes_exc (t : Bool) (a : Reg) (c : BitVec 7) :
    (Instr.endtry t).Decodes ∧ (Instr.throwG a t).Decodes ∧ (Instr.throwi c t).Decodes ∧ (Instr.rethrow t).Decodes ∧
    (Instr.trap c t).Decodes ∧ (Instr.uret t).Decodes ∧ (Instr.uretry t).Decodes ∧ (Instr.brk t).Decodes := by
  refine ⟨?_, ?_, ?_, ?_, ?_, ?_, ?_, ?_⟩ <;> intro w h <;> obtain rfl := Option.some.inj h <;> refine ⟨packW_odd _ _ _, ?_⟩
  all_goals
    simp (disch := omega) only [decodeFields, decExc, packI, fMaj_packW,
      bits_packW_toNat 0, bits_packW_toNat 1, bits_packW_toNat 2, bits_packW_toNat 3, bits_packW_toNat 4, bits_packW_toNat 5,
      bits_packW_toNat 6, bits_packW_toNat 7]
    simp (disch := omega) <;> omega

theorem decodes_srd (d : Reg) (r : BitVec 10) (t : Bool) :
    (Instr.srd d r t).Decodes := by
  intro w h
  obtain rfl := Option.some.inj h
  refine ⟨packW_odd _ _ _, ?_⟩
  simp (disch := omega) only [decodeFields, decSrd, packI, fMaj_packW]
  simp (disch := omega)
  omega

theorem decodes_swr (a : Reg) (r : BitVec 10) (t : Bool) :
    (Instr.swr a r t).Decodes := by
  intro w h
  obtain rfl := Option.some.inj h
  refine ⟨packW_odd _ _ _, ?_⟩
  simp (disch := omega) only [decodeFields, decSwr, packI, fMaj_packW]
  simp (disch := omega)
  omega

theorem decodes_misc (t : Bool) (a d : Reg) :
    (Instr.nop t).Decodes ∧ (Instr.yield t).Decodes ∧ (Instr.sleep a t).Decodes ∧ (Instr.clock d t).Decodes ∧ (Instr.ptime d t).Decodes ∧
    (Instr.pmark a t).Decodes ∧ (Instr.tflush t).Decodes := by
  refine ⟨?_, ?_, ?_, ?_, ?_, ?_, ?_⟩ <;> intro w h <;> obtain rfl := Option.some.inj h <;> refine ⟨packW_odd _ _ _, ?_⟩
  all_goals
    simp (disch := omega) only [decodeFields, decMisc, packI, fMaj_packW,
      bits_packW_toNat 0, bits_packW_toNat 1, bits_packW_toNat 2, bits_packW_toNat 3, bits_packW_toNat 4, bits_packW_toNat 5, bits_packW_toNat 6]
    simp (disch := omega) <;> omega

theorem decodes_ld (d g : Reg) (h x t : Bool) (z : BitVec 2) (sb : BitVec 6) :
    (Instr.ld d h x z g sb t).Decodes := by
  have hh := bitNat_le_one h
  have hx := bitNat_le_one x
  intro w h
  obtain rfl := Option.some.inj h
  refine ⟨packW_odd _ _ _, ?_⟩
  simp (disch := omega) only [decodeFields, decLd, packM, fMaj_packW]
  simp (disch := omega)
  omega

theorem decodes_st (d g : Reg) (h t : Bool) (z : BitVec 2) (sb : BitVec 6) :
    (Instr.st d h z g sb t).Decodes := by
  have hh := bitNat_le_one h
  intro w h
  obtain rfl := Option.some.inj h
  refine ⟨packW_odd _ _ _, ?_⟩
  simp (disch := omega) only [decodeFields, decSt, packM, fMaj_packW]
  simp (disch := omega)
  omega

theorem decodes_lds (d g : Reg) (h x t : Bool) (z : BitVec 2) (sb : BitVec 6) :
    (Instr.lds d h x z g sb t).Decodes := by
  have hh := bitNat_le_one h
  have hx := bitNat_le_one x
  intro w h
  obtain rfl := Option.some.inj h
  refine ⟨packW_odd _ _ _, ?_⟩
  simp (disch := omega) only [decodeFields, decLds, packM, fMaj_packW]
  simp (disch := omega)
  omega

theorem decodes_sts (d g : Reg) (h t : Bool) (z : BitVec 2) (sb : BitVec 6) :
    (Instr.sts d h z g sb t).Decodes := by
  have hh := bitNat_le_one h
  intro w h
  obtain rfl := Option.some.inj h
  refine ⟨packW_odd _ _ _, ?_⟩
  simp (disch := omega) only [decodeFields, decSts, packM, fMaj_packW]
  simp (disch := omega)
  omega

theorem decodes_ldc (d g : Reg) (h x t : Bool) (z : BitVec 2) (sb : BitVec 6) :
    (Instr.ldc d h x z g sb t).Decodes := by
  have hh := bitNat_le_one h
  have hx := bitNat_le_one x
  intro w h
  obtain rfl := Option.some.inj h
  refine ⟨packW_odd _ _ _, ?_⟩
  simp (disch := omega) only [decodeFields, decLdc, packM, fMaj_packW]
  simp (disch := omega)
  omega

theorem decodes_memo_first (d a : Reg) (z t : Bool) (e : BitVec 2) (c : BitVec 3) :
    (Instr.ldo d a z e c t).Decodes ∧ (Instr.sto d a z e c t).Decodes ∧ (Instr.swap d a z e c t).Decodes ∧ (Instr.cas d a z e c t).Decodes ∧
    (Instr.amoAdd d a z e c t).Decodes ∧ (Instr.amoAnd d a z e c t).Decodes ∧ (Instr.amoOr d a z e c t).Decodes ∧
    (Instr.amoXor d a z e c t).Decodes := by
  have hz := bitNat_le_one z
  refine ⟨?_, ?_, ?_, ?_, ?_, ?_, ?_, ?_⟩ <;> intro w h <;> obtain rfl := Option.some.inj h <;> refine ⟨packW_odd _ _ _, ?_⟩
  all_goals
    simp (disch := omega) only [decodeFields, decMemo, packO, fMaj_packW,
      bits_packW_toNat 0, bits_packW_toNat 1, bits_packW_toNat 2, bits_packW_toNat 3, bits_packW_toNat 4, bits_packW_toNat 5,
      bits_packW_toNat 6, bits_packW_toNat 7, bits_packW_toNat 8, bits_packW_toNat 9, bits_packW_toNat 10, bits_packW_toNat 11, bits_packW_toNat 12, bits_packW_toNat 13, bits_packW_toNat 14]
    simp (disch := omega)
    omega

theorem decodes_memo_rest (d a : Reg) (z t : Bool) (e : BitVec 2) (c : BitVec 3) :
    (Instr.amoMins d a z e c t).Decodes ∧ (Instr.amoMaxs d a z e c t).Decodes ∧ (Instr.amoMinn d a z e c t).Decodes ∧
    (Instr.amoMaxn d a z e c t).Decodes ∧ (Instr.amoInc d a z e c t).Decodes ∧ (Instr.amoDec d a z e c t).Decodes ∧
    (Instr.amoAddf d a e c t).Decodes := by
  have hz := bitNat_le_one z
  refine ⟨?_, ?_, ?_, ?_, ?_, ?_, ?_⟩ <;> intro w h <;> obtain rfl := Option.some.inj h <;> refine ⟨packW_odd _ _ _, ?_⟩
  all_goals
    simp (disch := omega) only [decodeFields, decMemo, packO, fMaj_packW,
      bits_packW_toNat 0, bits_packW_toNat 1, bits_packW_toNat 2, bits_packW_toNat 3, bits_packW_toNat 4, bits_packW_toNat 5,
      bits_packW_toNat 6, bits_packW_toNat 7, bits_packW_toNat 8, bits_packW_toNat 9, bits_packW_toNat 10, bits_packW_toNat 11, bits_packW_toNat 12, bits_packW_toNat 13, bits_packW_toNat 14]
    simp (disch := omega)
    omega

theorem decodes_phase (c : BitVec 3) (t : Bool) :
    (Instr.pub c t).Decodes ∧ (Instr.rfsh c t).Decodes ∧ (Instr.phase c t).Decodes := by
  refine ⟨?_, ?_, ?_⟩ <;> intro w h <;> obtain rfl := Option.some.inj h <;> refine ⟨packW_odd _ _ _, ?_⟩
  all_goals
    simp (disch := omega) only [decodeFields, decPhase, packI, fMaj_packW, bits_packW_toNat 0, bits_packW_toNat 1, bits_packW_toNat 2]
    simp (disch := omega)
    omega

theorem decodes_eng_first (q : BitVec 3) (k sb : BitVec 6) (t : Bool) :
    (Instr.acopyG2s q k sb t).Decodes ∧ (Instr.acopyS2g q k sb t).Decodes ∧ (Instr.acopyG2o q k sb t).Decodes ∧
    (Instr.acopyS2o q k sb t).Decodes ∧ (Instr.acopyA2s q k sb t).Decodes ∧ (Instr.acopyS2a q k sb t).Decodes ∧
    (Instr.acopyA2g q k sb t).Decodes ∧ (Instr.gather q k sb t).Decodes := by
  refine ⟨?_, ?_, ?_, ?_, ?_, ?_, ?_, ?_⟩ <;> intro w h <;> obtain rfl := Option.some.inj h <;> refine ⟨packW_odd _ _ _, ?_⟩
  all_goals
    simp (disch := omega) only [decodeFields, decEng, packE, fMaj_packW,
      bits_packW_toNat 0, bits_packW_toNat 1, bits_packW_toNat 2, bits_packW_toNat 3, bits_packW_toNat 4, bits_packW_toNat 5,
      bits_packW_toNat 6, bits_packW_toNat 7, bits_packW_toNat 8, bits_packW_toNat 9, bits_packW_toNat 10]
    simp (disch := omega)
    omega

theorem decodes_eng_rest (q : BitVec 3) (k sb n : BitVec 6) (t : Bool) :
    (Instr.scatter q k sb t).Decodes ∧ (Instr.kick q k sb t).Decodes ∧ (Instr.qfence n k t).Decodes := by
  refine ⟨?_, ?_, ?_⟩ <;> intro w h <;> obtain rfl := Option.some.inj h <;> refine ⟨packW_odd _ _ _, ?_⟩
  all_goals
    simp (disch := omega) only [decodeFields, decEng, packE, fMaj_packW,
      bits_packW_toNat 0, bits_packW_toNat 1, bits_packW_toNat 2, bits_packW_toNat 3, bits_packW_toNat 4, bits_packW_toNat 5,
      bits_packW_toNat 6, bits_packW_toNat 7, bits_packW_toNat 8, bits_packW_toNat 9, bits_packW_toNat 10]
    simp (disch := omega)
    omega

theorem decodes_mtx_first (o a : BitVec 4) (t r c p : Bool) (k sb : BitVec 6) :
    (Instr.claim o t).Decodes ∧ (Instr.release o t).Decodes ∧ (Instr.wload k sb t).Decodes ∧ (Instr.mma a r c k sb t).Decodes ∧
    (Instr.bind a c p k sb t).Decodes ∧ (Instr.acczero a k t).Decodes ∧ (Instr.thmtake t).Decodes ∧ (Instr.thmpass t).Decodes := by
  have hr := bitNat_le_one r
  have hc := bitNat_le_one c
  have hp := bitNat_le_one p
  refine ⟨?_, ?_, ?_, ?_, ?_, ?_, ?_, ?_⟩ <;> intro w h <;> obtain rfl := Option.some.inj h <;> refine ⟨packW_odd _ _ _, ?_⟩
  all_goals
    simp (disch := omega) only [decodeFields, decMtx, packE, fMaj_packW,
      bits_packW_toNat 0, bits_packW_toNat 1, bits_packW_toNat 2, bits_packW_toNat 3, bits_packW_toNat 4, bits_packW_toNat 5,
      bits_packW_toNat 6, bits_packW_toNat 7, bits_packW_toNat 8, bits_packW_toNat 9, bits_packW_toNat 10, bits_packW_toNat 11]
    simp (disch := omega) <;> omega

theorem decodes_mtx_rest (t : Bool) (k sb : BitVec 6) (a : BitVec 4) :
    (Instr.thmpassFree t).Decodes ∧ (Instr.trans k sb t).Decodes ∧ (Instr.tscaleSet k sb t).Decodes ∧ (Instr.tscaleMul k sb t).Decodes ∧
    (Instr.tscaleMuls k sb t).Decodes ∧ (Instr.aclaim a sb t).Decodes ∧ (Instr.afree a t).Decodes := by
  refine ⟨?_, ?_, ?_, ?_, ?_, ?_, ?_⟩ <;> intro w h <;> obtain rfl := Option.some.inj h <;> refine ⟨packW_odd _ _ _, ?_⟩
  all_goals
    simp (disch := omega) only [decodeFields, decMtx, packE, fMaj_packW,
      bits_packW_toNat 0, bits_packW_toNat 1, bits_packW_toNat 2, bits_packW_toNat 3, bits_packW_toNat 4, bits_packW_toNat 5,
      bits_packW_toNat 6, bits_packW_toNat 7, bits_packW_toNat 8, bits_packW_toNat 9, bits_packW_toNat 10, bits_packW_toNat 11]
    simp (disch := omega) <;> omega

theorem decodes_tslr (d : Reg) (i sb : BitVec 6) (r t : Bool) (o : BitVec 4) :
    (Instr.tslr d i sb r o t).Decodes := by
  have hr := bitNat_le_one r
  intro w h
  obtain rfl := Option.some.inj h
  refine ⟨packW_odd _ _ _, ?_⟩
  simp (disch := omega) only [decodeFields, decTslr, packT, fMaj_packW]
  simp (disch := omega)
  omega

theorem decodes_tslw (d : Reg) (i sb : BitVec 6) (r t : Bool) (o : BitVec 4) :
    (Instr.tslw d i sb r o t).Decodes := by
  have hr := bitNat_le_one r
  intro w h
  obtain rfl := Option.some.inj h
  refine ⟨packW_odd _ _ _, ?_⟩
  simp (disch := omega) only [decodeFields, decTslw, packT, fMaj_packW]
  simp (disch := omega)
  omega

theorem decodes_bar (l : BitVec 3) (t : Bool) (d a : Reg) :
    (Instr.bar l t).Decodes ∧ (Instr.bararr l t).Decodes ∧ (Instr.barwait l t).Decodes ∧ (Instr.bobjinit d a t).Decodes ∧
    (Instr.bobjexp d a t).Decodes ∧ (Instr.bobjwait a t).Decodes := by
  refine ⟨?_, ?_, ?_, ?_, ?_, ?_⟩ <;> intro w h <;> obtain rfl := Option.some.inj h <;> refine ⟨packW_odd _ _ _, ?_⟩
  all_goals
    simp (disch := omega) only [decodeFields, decBar, packI, fMaj_packW,
      bits_packW_toNat 0, bits_packW_toNat 1, bits_packW_toNat 2, bits_packW_toNat 3, bits_packW_toNat 4, bits_packW_toNat 5]
    simp (disch := omega)
    omega

theorem decodes_task (d a : Reg) (t : Bool) :
    (Instr.spawn d a t).Decodes ∧ (Instr.tend t).Decodes ∧ (Instr.epush d a t).Decodes ∧ (Instr.epop d a t).Decodes ∧
    (Instr.efree a t).Decodes ∧ (Instr.admitD d a t).Decodes ∧ (Instr.tcbdone a t).Decodes := by
  refine ⟨?_, ?_, ?_, ?_, ?_, ?_, ?_⟩ <;> intro w h <;> obtain rfl := Option.some.inj h <;> refine ⟨packW_odd _ _ _, ?_⟩
  all_goals
    simp (disch := omega) only [decodeFields, decTask, packI, fMaj_packW,
      bits_packW_toNat 0, bits_packW_toNat 1, bits_packW_toNat 2, bits_packW_toNat 3, bits_packW_toNat 4, bits_packW_toNat 5, bits_packW_toNat 6]
    simp (disch := omega) <;> omega

/-- Every encoding decodes to its instruction, the operands not yet checked. -/
theorem Instr.decodes (i : Instr) : i.Decodes := by
  cases i
  case add d a b t | sub d a b t | and d a b t | or d a b t | xor d a b t | andn d a b t | addc d a b t | subb d a b t =>
    simp only [decodes_ialu d a b t]
  case mul d a b t | mulhs d a b t | mulhu d a b t | mulhsu d a b t | mins d a b t | maxs d a b t | minu d a b t | maxu d a b t =>
    simp only [decodes_imul d a b t]
  case shl d a b t | shr d a b t | sar d a b t | rol d a b t | ror d a b t | fshl d a b t | fshr d a b t =>
    simp only [decodes_shf d a b t]
  case bfxn d a b t | bfxs d a b t | bfi d a b t => simp only [decodes_bits d a b t]
  case bmsk d b t => simp only [decodes_bits d 0 b t]
  case clz d a t | ctz d a t | popc d a t | brev d a t => simp only [decodes_bits d a 0 t]
  case divs d a b t | divn d a b t | rems d a b t | remn d a b t => simp only [decodes_idiv d a b t]
  case mad d a b t | madhs d a b t | madhn d a b t | mad64s d a b t | mad64n d a b t | sad d a b t =>
    simp only [decodes_imad d a b t]
  case icmpEq p a b t | icmpNe p a b t | icmpLt p a b t | icmpLe p a b t | icmpLtn p a b t | icmpLen p a b t | icmpTst p a b t =>
    simp only [decodes_icmp p a b t]
  case addi d a i t => simp only [decodes_addi d a i t]
  case andi d a i t => simp only [decodes_andi d a i t]
  case ori d a i t => simp only [decodes_ori d a i t]
  case xori d a i t => simp only [decodes_xori d a i t]
  case shfiShl d a n t | shfiShr d a n t | shfiSar d a n t | shfiRol d a n t | shfiRor d a n t =>
    simp only [decodes_shfi d a n t]
  case icmpiEq p a i t | icmpiNe p a i t | icmpiLt p a i t | icmpiLe p a i t | icmpiGt p a i t | icmpiGe p a i t | icmpiLtn p a i t |
      icmpiLen p a i t | icmpiGtn p a i t | icmpiGen p a i t => simp only [decodes_icmpi p a i t]
  case li d i t => simp only [decodes_li d i t]
  case lih d i t => simp only [decodes_lih d i t]
  case pand p a b t | por p a b t | pxor p a b t => simp only [decodes_pred p a b t 0 0]
  case pnot p a t => simp only [decodes_pred p a 0 t 0 0]
  case p2g d a t => simp only [decodes_pred 0 a 0 t d 0]
  case g2p p a' t => simp only [decodes_pred p 0 0 t 0 a']
  case sel d a b f t => simp only [decodes_sel d a b f t]
  case fadd d a b t | fsub d a b t | fmul d a b t | fmin d a b t | fmax d a b t | ffma d a b t | ffms d a b t | fcps d a b t =>
    simp only [decodes_falu d a b t]
  case fcmpEq p a b t | fcmpNe p a b t | fcmpLt p a b t | fcmpLe p a b t | fcmpUn p a b t | fcmpOr p a b t =>
    simp only [decodes_fcmp p a b t]
  case hadd2 d a b t | hmul2 d a b t | hfma2 d a b t | badd2 d a b t | bmul2 d a b t | bfma2 d a b t | dot2h d a b t | dot2b d a b t =>
    simp only [decodes_fpk d a b t]
  case rcp d a t | rsq d a t | sqrt d a t | exp2 d a t | log2 d a t | sin d a t | cos d a t | tanh d a t =>
    simp only [decodes_sfu d a t]
  case fdiv d a b t => simp only [decodes_fdiv d a b t]
  case cvt d a r y x t => simp only [decodes_cvt d a r y x t]
  case cvt8ToByte d a r sat i u n t => simp only [decodes_cvt8 d a r sat i u t n]
  case cvt8FromByte d a i u n t => simp only [decodes_cvt8 d a 0 false i u t n]
  case dot4s d a b t | dot4n d a b t | dot4f d a b t => simp only [decodes_dot4 d a b t]
  case shflIdx d a m k t | shflUp d a m k t | shflDn d a m k t | shflXor d a m k t => simp only [decodes_shfl d a m k t]
  case shflr d a m k t => simp only [decodes_shflr d a m k t]
  case voteAll p a m t | voteAny p a m t | voteSame p a m t => simp only [decodes_vote p a m t 0]
  case voteBallot d a m t => simp only [decodes_vote 0 a m t d]
  case foldAdd d a y m k t | foldMin d a y m k t | foldMax d a y m k t | foldMinn d a y m k t | foldMaxn d a y m k t | foldAnd d a y m k t |
      foldOr d a y m k t | foldXor d a y m k t => simp only [decodes_fold d a y k m t]
  case topk d a y m k t => simp only [decodes_topk d a y m k t]
  case lsetEq d a m t => simp only [decodes_lset d a m 0 t]
  case lsetAlleq p a m t => simp only [decodes_lset 0 a m p t]
  case lsetFirst p m t => simp only [decodes_lset 0 0 m p t]
  case lsetLive d m t => simp only [decodes_lset d 0 m 0 t]
  case bra d p n t => simp only [decodes_bra d p n t]
  case call d p n t => simp only [decodes_call d p n t]
  case brx a t | callx a t => simp only [decodes_jmpx a t]
  case ret t | exit t => simp only [decodes_jmpx 0 t]
  case loop n c i l t => simp only [decodes_loop n c i t l]
  case seamEnrol j t | seamWait j t | seamLeave j t => simp only [decodes_seam j t 0]
  case seamSmask d j t => simp only [decodes_seam j t d]
  case tryOpen d l t => simp only [decodes_try d l t]
  case endtry t | rethrow t | uret t | uretry t | brk t => simp only [decodes_exc t 0 0]
  case throwG a t => simp only [decodes_exc t a 0]
  case throwi c t | trap c t => simp only [decodes_exc t 0 c]
  case srd d r t => simp only [decodes_srd d r t]
  case swr a r t => simp only [decodes_swr a r t]
  case nop t | yield t | tflush t => simp only [decodes_misc t 0 0]
  case sleep a t | pmark a t => simp only [decodes_misc t a 0]
  case clock d t | ptime d t => simp only [decodes_misc t 0 d]
  case ld d h x z g sb t => simp only [decodes_ld d g h x t z sb]
  case st d h z g sb t => simp only [decodes_st d g h t z sb]
  case lds d h x z g sb t => simp only [decodes_lds d g h x t z sb]
  case sts d h z g sb t => simp only [decodes_sts d g h t z sb]
  case ldc d h x z g sb t => simp only [decodes_ldc d g h x t z sb]
  case ldo d a z e c t | sto d a z e c t | swap d a z e c t | cas d a z e c t | amoAdd d a z e c t | amoAnd d a z e c t |
      amoOr d a z e c t | amoXor d a z e c t => simp only [decodes_memo_first d a z t e c]
  case amoMins d a z e c t | amoMaxs d a z e c t | amoMinn d a z e c t | amoMaxn d a z e c t | amoInc d a z e c t | amoDec d a z e c t =>
    simp only [decodes_memo_rest d a z t e c]
  case amoAddf d a e c t => simp only [decodes_memo_rest d a false t e c]
  case pub c t | rfsh c t | phase c t => simp only [decodes_phase c t]
  case acopyG2s q k sb t | acopyS2g q k sb t | acopyG2o q k sb t | acopyS2o q k sb t | acopyA2s q k sb t | acopyS2a q k sb t |
      acopyA2g q k sb t | gather q k sb t => simp only [decodes_eng_first q k sb t]
  case scatter q k sb t | kick q k sb t => simp only [decodes_eng_rest q k sb 0 t]
  case qfence n k t => simp only [decodes_eng_rest 0 k 0 n t]
  case claim o t | release o t => simp only [decodes_mtx_first o 0 t false false false 0 0]
  case wload k sb t => simp only [decodes_mtx_first 0 0 t false false false k sb]
  case mma a r c k sb t => simp only [decodes_mtx_first 0 a t r c false k sb]
  case bind a c p k sb t => simp only [decodes_mtx_first 0 a t false c p k sb]
  case acczero a k t => simp only [decodes_mtx_first 0 a t false false false k 0]
  case thmtake t | thmpass t => simp only [decodes_mtx_first 0 0 t false false false 0 0]
  case thmpassFree t => simp only [decodes_mtx_rest t 0 0 0]
  case trans k sb t | tscaleSet k sb t | tscaleMul k sb t | tscaleMuls k sb t => simp only [decodes_mtx_rest t k sb 0]
  case aclaim a sb t => simp only [decodes_mtx_rest t 0 sb a]
  case afree a t => simp only [decodes_mtx_rest t 0 0 a]
  case tslr d i sb r o t => simp only [decodes_tslr d i sb r t o]
  case tslw d i sb r o t => simp only [decodes_tslw d i sb r t o]
  case bar l t | bararr l t | barwait l t => simp only [decodes_bar l t 0 0]
  case bobjinit d a t | bobjexp d a t => simp only [decodes_bar 0 t d a]
  case bobjwait a t => simp only [decodes_bar 0 t 0 a]
  case spawn d a t | epush d a t | epop d a t | admitD d a t => simp only [decodes_task d a t]
  case tend t => simp only [decodes_task 0 0 t]
  case efree a t | tcbdone a t => simp only [decodes_task 0 a t]
  case ill32 =>
    intro w h
    obtain rfl := Option.some.inj h
    exact ⟨packW_odd 0 0 false, rfl⟩
  all_goals exact fun _ h => nomatch h

end Sys2Proof
end

section
/-! PROOFS. Words that decode are the encodings of what they decode to (spec/02 R36, R37, spec/03 R52 to R55): a word is packed from its fields, one
lemma for each major; then the halfwords, and the bytes of both, from which O55 and O56 are assembled. -/

namespace Sys2Proof
set_option Elab.async false

/-! ## From a word to its encoding -/

@[simp] theorem bits_toNat (w : Word) (lo len : Nat) : (bits w lo len).toNat = w.toNat / 2 ^ lo % 2 ^ len := by
  rw [bits, BitVec.extractLsb'_toNat, Nat.shiftRight_eq_div_pow]
@[simp] theorem fF_toNat (w : Word) : (fF w).toNat = w.toNat / 2 ^ 29 % 2 ^ 3 := bits_toNat w 29 3
@[simp] theorem fB_toNat (w : Word) : (fB w).toNat = w.toNat / 2 ^ 22 % 2 ^ 7 := bits_toNat w 22 7
@[simp] theorem fA_toNat (w : Word) : (fA w).toNat = w.toNat / 2 ^ 15 % 2 ^ 7 := bits_toNat w 15 7
@[simp] theorem fD_toNat (w : Word) : (fD w).toNat = w.toNat / 2 ^ 8 % 2 ^ 7 := bits_toNat w 8 7
@[simp] theorem bitNat_flag (w : Word) (i : Nat) : bitNat (flag w i) = w.toNat / 2 ^ i % 2 := by
  rw [flag, bitNat, BitVec.getLsbD, Nat.testBit_eq_decide_div_mod_eq]
  rcases Nat.mod_two_eq_zero_or_one (w.toNat / 2 ^ i) with h | h <;> simp [h]

theorem bits_eq_zero_iff (w : Word) (lo len : Nat) : bits w lo len = 0#len ↔ w.toNat / 2 ^ lo % 2 ^ len = 0 := by
  rw [← BitVec.toNat_inj, bits_toNat]
  rfl

/-- A word with its length bit set is packed from its fields. -/
theorem packW_eq_of_body {w : Word} {body maj : Nat} (h0 : w.getLsbD 0 = true) (hm : (fMaj w).toNat = maj) (hb : body = w.toNat / 2 ^ 8) :
    packW body maj (fT w) = w := by
  have hw := w.isLt
  have h1 : w.toNat % 2 = 1 := by
    rw [BitVec.getLsbD, Nat.testBit_zero, decide_eq_true_eq] at h0
    exact h0
  rw [fMaj, bits_toNat] at hm
  apply BitVec.eq_of_toNat_eq
  rw [packW, fT, bitNat_flag, BitVec.toNat_ofNat]
  omega

/-- A row without fields that must be zero, as one that names none. -/
theorem ok_iff_noFields (w : Word) (i j : Instr) : (Except.ok i : Except Reject Instr) = .ok j ↔ (∀ p ∈ ([] : List (Nat × Nat)), bits w p.1 p.2 = 0) ∧ i = j := by
  simp

/-! ## One lemma for each major (R52, R53) -/

theorem encodes_ialu {w : Word} {i : Instr} (h0 : w.getLsbD 0 = true) (hm : (fMaj w).toNat = 1) (h : decIalu w = .ok i) : encodeWord i = some w := by
  unfold decIalu at h
  split at h
  all_goals
    simp only [ok_iff_noFields w, needZero_eq_ok_iff, reduceCtorEq] at h
  all_goals
    obtain ⟨hz, rfl⟩ := h
    refine congrArg some (packW_eq_of_body h0 hm ?_)
    simp [bits_eq_zero_iff] at *
    omega

theorem encodes_imul {w : Word} {i : Instr} (h0 : w.getLsbD 0 = true) (hm : (fMaj w).toNat = 2) (h : decImul w = .ok i) : encodeWord i = some w := by
  unfold decImul at h
  split at h
  all_goals
    simp only [ok_iff_noFields w, needZero_eq_ok_iff, reduceCtorEq] at h
  all_goals
    obtain ⟨hz, rfl⟩ := h
    refine congrArg some (packW_eq_of_body h0 hm ?_)
    simp [bits_eq_zero_iff] at *
    omega

theorem encodes_shf {w : Word} {i : Instr} (h0 : w.getLsbD 0 = true) (hm : (fMaj w).toNat = 3) (h : decShf w = .ok i) : encodeWord i = some w := by
  unfold decShf at h
  split at h
  all_goals
    simp only [ok_iff_noFields w, needZero_eq_ok_iff, reduceCtorEq] at h
  all_goals
    obtain ⟨hz, rfl⟩ := h
    refine congrArg some (packW_eq_of_body h0 hm ?_)
    simp [bits_eq_zero_iff] at *
    omega

theorem encodes_bits {w : Word} {i : Instr} (h0 : w.getLsbD 0 = true) (hm : (fMaj w).toNat = 4) (h : decBits w = .ok i) : encodeWord i = some w := by
  unfold decBits at h
  split at h
  all_goals
    simp only [ok_iff_noFields w, needZero_eq_ok_iff, reduceCtorEq] at h
  all_goals
    obtain ⟨hz, rfl⟩ := h
    refine congrArg some (packW_eq_of_body h0 hm ?_)
    simp [bits_eq_zero_iff] at *
    omega

theorem encodes_idiv {w : Word} {i : Instr} (h0 : w.getLsbD 0 = true) (hm : (fMaj w).toNat = 5) (h : decIdiv w = .ok i) : encodeWord i = some w := by
  unfold decIdiv at h
  split at h
  all_goals
    simp only [ok_iff_noFields w, needZero_eq_ok_iff, reduceCtorEq] at h
  all_goals
    obtain ⟨hz, rfl⟩ := h
    refine congrArg some (packW_eq_of_body h0 hm ?_)
    simp [bits_eq_zero_iff] at *
    omega

theorem encodes_imad {w : Word} {i : Instr} (h0 : w.getLsbD 0 = true) (hm : (fMaj w).toNat = 6) (h : decImad w = .ok i) : encodeWord i = some w := by
  unfold decImad at h
  split at h
  all_goals
    simp only [ok_iff_noFields w, needZero_eq_ok_iff, reduceCtorEq] at h
  all_goals
    obtain ⟨hz, rfl⟩ := h
    refine congrArg some (packW_eq_of_body h0 hm ?_)
    simp [bits_eq_zero_iff] at *
    omega

theorem encodes_icmp {w : Word} {i : Instr} (h0 : w.getLsbD 0 = true) (hm : (fMaj w).toNat = 7) (h : decIcmp w = .ok i) : encodeWord i = some w := by
  unfold decIcmp at h
  split at h
  all_goals
    simp only [ok_iff_noFields w, needZero_eq_ok_iff, reduceCtorEq] at h
  all_goals
    obtain ⟨hz, rfl⟩ := h
    refine congrArg some (packW_eq_of_body h0 hm ?_)
    simp [bits_eq_zero_iff] at *
    omega

theorem encodes_addi {w : Word} {i : Instr} (h0 : w.getLsbD 0 = true) (hm : (fMaj w).toNat = 8) (h : decAddi w = .ok i) : encodeWord i = some w := by
  unfold decAddi at h
  simp only [ok_iff_noFields w, needZero_eq_ok_iff] at h
  obtain ⟨hz, rfl⟩ := h
  refine congrArg some (packW_eq_of_body h0 hm ?_)
  simp [bits_eq_zero_iff] at *
  omega

theorem encodes_andi {w : Word} {i : Instr} (h0 : w.getLsbD 0 = true) (hm : (fMaj w).toNat = 9) (h : decAndi w = .ok i) : encodeWord i = some w := by
  unfold decAndi at h
  simp only [ok_iff_noFields w, needZero_eq_ok_iff] at h
  obtain ⟨hz, rfl⟩ := h
  refine congrArg some (packW_eq_of_body h0 hm ?_)
  simp [bits_eq_zero_iff] at *
  omega

theorem encodes_ori {w : Word} {i : Instr} (h0 : w.getLsbD 0 = true) (hm : (fMaj w).toNat = 10) (h : decOri w = .ok i) : encodeWord i = some w := by
  unfold decOri at h
  simp only [ok_iff_noFields w, needZero_eq_ok_iff] at h
  obtain ⟨hz, rfl⟩ := h
  refine congrArg some (packW_eq_of_body h0 hm ?_)
  simp [bits_eq_zero_iff] at *
  omega

theorem encodes_xori {w : Word} {i : Instr} (h0 : w.getLsbD 0 = true) (hm : (fMaj w).toNat = 11) (h : decXori w = .ok i) : encodeWord i = some w := by
  unfold decXori at h
  simp only [ok_iff_noFields w, needZero_eq_ok_iff] at h
  obtain ⟨hz, rfl⟩ := h
  refine congrArg some (packW_eq_of_body h0 hm ?_)
  simp [bits_eq_zero_iff] at *
  omega

theorem encodes_shfi {w : Word} {i : Instr} (h0 : w.getLsbD 0 = true) (hm : (fMaj w).toNat = 12) (h : decShfi w = .ok i) : encodeWord i = some w := by
  unfold decShfi at h
  split at h
  all_goals
    simp only [ok_iff_noFields w, needZero_eq_ok_iff, reduceCtorEq] at h
  all_goals
    obtain ⟨hz, rfl⟩ := h
    refine congrArg some (packW_eq_of_body h0 hm ?_)
    simp [bits_eq_zero_iff] at *
    omega

theorem encodes_icmpi {w : Word} {i : Instr} (h0 : w.getLsbD 0 = true) (hm : (fMaj w).toNat = 13) (h : decIcmpi w = .ok i) : encodeWord i = some w := by
  unfold decIcmpi at h
  split at h
  all_goals
    simp only [ok_iff_noFields w, needZero_eq_ok_iff, reduceCtorEq] at h
  all_goals
    obtain ⟨hz, rfl⟩ := h
    refine congrArg some (packW_eq_of_body h0 hm ?_)
    simp [bits_eq_zero_iff] at *
    omega

theorem encodes_li {w : Word} {i : Instr} (h0 : w.getLsbD 0 = true) (hm : (fMaj w).toNat = 14) (h : decLi w = .ok i) : encodeWord i = some w := by
  unfold decLi at h
  simp only [ok_iff_noFields w, needZero_eq_ok_iff] at h
  obtain ⟨hz, rfl⟩ := h
  refine congrArg some (packW_eq_of_body h0 hm ?_)
  simp [bits_eq_zero_iff] at *
  omega

theorem encodes_lih {w : Word} {i : Instr} (h0 : w.getLsbD 0 = true) (hm : (fMaj w).toNat = 15) (h : decLih w = .ok i) : encodeWord i = some w := by
  unfold decLih at h
  simp only [ok_iff_noFields w, needZero_eq_ok_iff] at h
  obtain ⟨hz, rfl⟩ := h
  refine congrArg some (packW_eq_of_body h0 hm ?_)
  simp [bits_eq_zero_iff] at *
  omega

theorem encodes_pred {w : Word} {i : Instr} (h0 : w.getLsbD 0 = true) (hm : (fMaj w).toNat = 16) (h : decPred w = .ok i) : encodeWord i = some w := by
  unfold decPred at h
  split at h
  all_goals
    simp only [ok_iff_noFields w, needZero_eq_ok_iff, reduceCtorEq] at h
  all_goals
    obtain ⟨hz, rfl⟩ := h
    refine congrArg some (packW_eq_of_body h0 hm ?_)
    simp [bits_eq_zero_iff] at *
    omega

theorem encodes_sel {w : Word} {i : Instr} (h0 : w.getLsbD 0 = true) (hm : (fMaj w).toNat = 17) (h : decSel w = .ok i) : encodeWord i = some w := by
  unfold decSel at h
  simp only [ok_iff_noFields w, needZero_eq_ok_iff] at h
  obtain ⟨hz, rfl⟩ := h
  refine congrArg some (packW_eq_of_body h0 hm ?_)
  simp [bits_eq_zero_iff] at *
  omega

theorem encodes_falu {w : Word} {i : Instr} (h0 : w.getLsbD 0 = true) (hm : (fMaj w).toNat = 18) (h : decFalu w = .ok i) : encodeWord i = some w := by
  unfold decFalu at h
  split at h
  all_goals
    simp only [ok_iff_noFields w, needZero_eq_ok_iff, reduceCtorEq] at h
  all_goals
    obtain ⟨hz, rfl⟩ := h
    refine congrArg some (packW_eq_of_body h0 hm ?_)
    simp [bits_eq_zero_iff] at *
    omega

theorem encodes_fcmp {w : Word} {i : Instr} (h0 : w.getLsbD 0 = true) (hm : (fMaj w).toNat = 19) (h : decFcmp w = .ok i) : encodeWord i = some w := by
  unfold decFcmp at h
  split at h
  all_goals
    simp only [ok_iff_noFields w, needZero_eq_ok_iff, reduceCtorEq] at h
  all_goals
    obtain ⟨hz, rfl⟩ := h
    refine congrArg some (packW_eq_of_body h0 hm ?_)
    simp [bits_eq_zero_iff] at *
    omega

theorem encodes_fpk {w : Word} {i : Instr} (h0 : w.getLsbD 0 = true) (hm : (fMaj w).toNat = 20) (h : decFpk w = .ok i) : encodeWord i = some w := by
  unfold decFpk at h
  split at h
  all_goals
    simp only [ok_iff_noFields w, needZero_eq_ok_iff, reduceCtorEq] at h
  all_goals
    obtain ⟨hz, rfl⟩ := h
    refine congrArg some (packW_eq_of_body h0 hm ?_)
    simp [bits_eq_zero_iff] at *
    omega

theorem encodes_sfu {w : Word} {i : Instr} (h0 : w.getLsbD 0 = true) (hm : (fMaj w).toNat = 21) (h : decSfu w = .ok i) : encodeWord i = some w := by
  unfold decSfu at h
  split at h
  all_goals
    simp only [ok_iff_noFields w, needZero_eq_ok_iff, reduceCtorEq] at h
  all_goals
    obtain ⟨hz, rfl⟩ := h
    refine congrArg some (packW_eq_of_body h0 hm ?_)
    simp [bits_eq_zero_iff] at *
    omega

theorem encodes_fdiv {w : Word} {i : Instr} (h0 : w.getLsbD 0 = true) (hm : (fMaj w).toNat = 22) (h : decFdiv w = .ok i) : encodeWord i = some w := by
  unfold decFdiv at h
  split at h
  all_goals
    simp only [ok_iff_noFields w, needZero_eq_ok_iff, reduceCtorEq] at h
  all_goals
    obtain ⟨hz, rfl⟩ := h
    refine congrArg some (packW_eq_of_body h0 hm ?_)
    simp [bits_eq_zero_iff] at *
    omega

theorem encodes_cvt {w : Word} {i : Instr} (h0 : w.getLsbD 0 = true) (hm : (fMaj w).toNat = 23) (h : decCvt w = .ok i) : encodeWord i = some w := by
  unfold decCvt at h
  simp only [ok_iff_noFields w, needZero_eq_ok_iff] at h
  obtain ⟨hz, rfl⟩ := h
  refine congrArg some (packW_eq_of_body h0 hm ?_)
  simp [bits_eq_zero_iff] at *
  omega

theorem encodes_cvt8 {w : Word} {i : Instr} (h0 : w.getLsbD 0 = true) (hm : (fMaj w).toNat = 24) (h : decCvt8 w = .ok i) : encodeWord i = some w := by
  unfold decCvt8 at h
  split at h
  all_goals
    simp only [ok_iff_noFields w, needZero_eq_ok_iff, reduceCtorEq] at h
  all_goals
    obtain ⟨hz, rfl⟩ := h
    refine congrArg some (packW_eq_of_body h0 hm ?_)
    simp [bits_eq_zero_iff] at *
    omega

theorem encodes_dot4 {w : Word} {i : Instr} (h0 : w.getLsbD 0 = true) (hm : (fMaj w).toNat = 25) (h : decDot4 w = .ok i) : encodeWord i = some w := by
  unfold decDot4 at h
  split at h
  all_goals
    simp only [ok_iff_noFields w, needZero_eq_ok_iff, reduceCtorEq] at h
  all_goals
    obtain ⟨hz, rfl⟩ := h
    refine congrArg some (packW_eq_of_body h0 hm ?_)
    simp [bits_eq_zero_iff] at *
    omega

theorem encodes_shfl {w : Word} {i : Instr} (h0 : w.getLsbD 0 = true) (hm : (fMaj w).toNat = 26) (h : decShfl w = .ok i) : encodeWord i = some w := by
  unfold decShfl at h
  split at h
  all_goals
    simp only [ok_iff_noFields w, needZero_eq_ok_iff, reduceCtorEq] at h
  all_goals
    obtain ⟨hz, rfl⟩ := h
    refine congrArg some (packW_eq_of_body h0 hm ?_)
    simp [bits_eq_zero_iff] at *
    omega

theorem encodes_shflr {w : Word} {i : Instr} (h0 : w.getLsbD 0 = true) (hm : (fMaj w).toNat = 27) (h : decShflr w = .ok i) : encodeWord i = some w := by
  unfold decShflr at h
  split at h
  all_goals
    simp only [ok_iff_noFields w, needZero_eq_ok_iff, reduceCtorEq] at h
  all_goals
    obtain ⟨hz, rfl⟩ := h
    refine congrArg some (packW_eq_of_body h0 hm ?_)
    simp [bits_eq_zero_iff] at *
    omega

theorem encodes_vote {w : Word} {i : Instr} (h0 : w.getLsbD 0 = true) (hm : (fMaj w).toNat = 28) (h : decVote w = .ok i) : encodeWord i = some w := by
  unfold decVote at h
  split at h
  all_goals
    simp only [ok_iff_noFields w, needZero_eq_ok_iff, reduceCtorEq] at h
  all_goals
    obtain ⟨hz, rfl⟩ := h
    refine congrArg some (packW_eq_of_body h0 hm ?_)
    simp [bits_eq_zero_iff] at *
    omega

theorem encodes_fold {w : Word} {i : Instr} (h0 : w.getLsbD 0 = true) (hm : (fMaj w).toNat = 29) (h : decFold w = .ok i) : encodeWord i = some w := by
  unfold decFold at h
  split at h
  all_goals
    simp only [ok_iff_noFields w, needZero_eq_ok_iff, reduceCtorEq] at h
  all_goals
    obtain ⟨hz, rfl⟩ := h
    refine congrArg some (packW_eq_of_body h0 hm ?_)
    simp [bits_eq_zero_iff] at *
    omega

theorem encodes_topk {w : Word} {i : Instr} (h0 : w.getLsbD 0 = true) (hm : (fMaj w).toNat = 30) (h : decTopk w = .ok i) : encodeWord i = some w := by
  unfold decTopk at h
  simp only [ok_iff_noFields w, needZero_eq_ok_iff] at h
  obtain ⟨hz, rfl⟩ := h
  refine congrArg some (packW_eq_of_body h0 hm ?_)
  simp [bits_eq_zero_iff] at *
  omega

theorem encodes_lset {w : Word} {i : Instr} (h0 : w.getLsbD 0 = true) (hm : (fMaj w).toNat = 31) (h : decLset w = .ok i) : encodeWord i = some w := by
  unfold decLset at h
  split at h
  all_goals
    simp only [ok_iff_noFields w, needZero_eq_ok_iff, reduceCtorEq] at h
  all_goals
    obtain ⟨hz, rfl⟩ := h
    refine congrArg some (packW_eq_of_body h0 hm ?_)
    simp [bits_eq_zero_iff] at *
    omega

theorem encodes_bra {w : Word} {i : Instr} (h0 : w.getLsbD 0 = true) (hm : (fMaj w).toNat = 32) (h : decBra w = .ok i) : encodeWord i = some w := by
  unfold decBra at h
  simp only [ok_iff_noFields w, needZero_eq_ok_iff] at h
  obtain ⟨hz, rfl⟩ := h
  refine congrArg some (packW_eq_of_body h0 hm ?_)
  simp [bits_eq_zero_iff] at *
  omega

theorem encodes_call {w : Word} {i : Instr} (h0 : w.getLsbD 0 = true) (hm : (fMaj w).toNat = 33) (h : decCall w = .ok i) : encodeWord i = some w := by
  unfold decCall at h
  simp only [ok_iff_noFields w, needZero_eq_ok_iff] at h
  obtain ⟨hz, rfl⟩ := h
  refine congrArg some (packW_eq_of_body h0 hm ?_)
  simp [bits_eq_zero_iff] at *
  omega

theorem encodes_jmpx {w : Word} {i : Instr} (h0 : w.getLsbD 0 = true) (hm : (fMaj w).toNat = 34) (h : decJmpx w = .ok i) : encodeWord i = some w := by
  unfold decJmpx at h
  split at h
  all_goals
    simp only [ok_iff_noFields w, needZero_eq_ok_iff, reduceCtorEq] at h
  all_goals
    obtain ⟨hz, rfl⟩ := h
    refine congrArg some (packW_eq_of_body h0 hm ?_)
    simp [bits_eq_zero_iff] at *
    omega

theorem encodes_loop {w : Word} {i : Instr} (h0 : w.getLsbD 0 = true) (hm : (fMaj w).toNat = 35) (h : decLoop w = .ok i) : encodeWord i = some w := by
  unfold decLoop at h
  simp only [ok_iff_noFields w, needZero_eq_ok_iff] at h
  obtain ⟨hz, rfl⟩ := h
  refine congrArg some (packW_eq_of_body h0 hm ?_)
  simp [bits_eq_zero_iff] at *
  omega

theorem encodes_seam {w : Word} {i : Instr} (h0 : w.getLsbD 0 = true) (hm : (fMaj w).toNat = 36) (h : decSeam w = .ok i) : encodeWord i = some w := by
  unfold decSeam at h
  split at h
  all_goals
    simp only [ok_iff_noFields w, needZero_eq_ok_iff, reduceCtorEq] at h
  all_goals
    obtain ⟨hz, rfl⟩ := h
    refine congrArg some (packW_eq_of_body h0 hm ?_)
    simp [bits_eq_zero_iff] at *
    omega

theorem encodes_try {w : Word} {i : Instr} (h0 : w.getLsbD 0 = true) (hm : (fMaj w).toNat = 37) (h : decTry w = .ok i) : encodeWord i = some w := by
  unfold decTry at h
  simp only [ok_iff_noFields w, needZero_eq_ok_iff] at h
  obtain ⟨hz, rfl⟩ := h
  refine congrArg some (packW_eq_of_body h0 hm ?_)
  simp [bits_eq_zero_iff] at *
  omega

theorem encodes_exc {w : Word} {i : Instr} (h0 : w.getLsbD 0 = true) (hm : (fMaj w).toNat = 38) (h : decExc w = .ok i) : encodeWord i = some w := by
  unfold decExc at h
  split at h
  all_goals
    simp only [ok_iff_noFields w, needZero_eq_ok_iff, reduceCtorEq] at h
  all_goals
    obtain ⟨hz, rfl⟩ := h
    refine congrArg some (packW_eq_of_body h0 hm ?_)
    simp [bits_eq_zero_iff] at *
    omega

theorem encodes_srd {w : Word} {i : Instr} (h0 : w.getLsbD 0 = true) (hm : (fMaj w).toNat = 39) (h : decSrd w = .ok i) : encodeWord i = some w := by
  unfold decSrd at h
  simp only [ok_iff_noFields w, needZero_eq_ok_iff] at h
  obtain ⟨hz, rfl⟩ := h
  refine congrArg some (packW_eq_of_body h0 hm ?_)
  simp [bits_eq_zero_iff] at *
  omega

theorem encodes_swr {w : Word} {i : Instr} (h0 : w.getLsbD 0 = true) (hm : (fMaj w).toNat = 40) (h : decSwr w = .ok i) : encodeWord i = some w := by
  unfold decSwr at h
  simp only [ok_iff_noFields w, needZero_eq_ok_iff] at h
  obtain ⟨hz, rfl⟩ := h
  refine congrArg some (packW_eq_of_body h0 hm ?_)
  simp [bits_eq_zero_iff] at *
  omega

theorem encodes_misc {w : Word} {i : Instr} (h0 : w.getLsbD 0 = true) (hm : (fMaj w).toNat = 41) (h : decMisc w = .ok i) : encodeWord i = some w := by
  unfold decMisc at h
  split at h
  all_goals
    simp only [ok_iff_noFields w, needZero_eq_ok_iff, reduceCtorEq] at h
  all_goals
    obtain ⟨hz, rfl⟩ := h
    refine congrArg some (packW_eq_of_body h0 hm ?_)
    simp [bits_eq_zero_iff] at *
    omega

theorem encodes_ld {w : Word} {i : Instr} (h0 : w.getLsbD 0 = true) (hm : (fMaj w).toNat = 42) (h : decLd w = .ok i) : encodeWord i = some w := by
  unfold decLd at h
  simp only [ok_iff_noFields w, needZero_eq_ok_iff] at h
  obtain ⟨hz, rfl⟩ := h
  refine congrArg some (packW_eq_of_body h0 hm ?_)
  simp [bits_eq_zero_iff] at *
  omega

theorem encodes_st {w : Word} {i : Instr} (h0 : w.getLsbD 0 = true) (hm : (fMaj w).toNat = 43) (h : decSt w = .ok i) : encodeWord i = some w := by
  unfold decSt at h
  simp only [ok_iff_noFields w, needZero_eq_ok_iff] at h
  obtain ⟨hz, rfl⟩ := h
  refine congrArg some (packW_eq_of_body h0 hm ?_)
  simp [bits_eq_zero_iff] at *
  omega

theorem encodes_lds {w : Word} {i : Instr} (h0 : w.getLsbD 0 = true) (hm : (fMaj w).toNat = 44) (h : decLds w = .ok i) : encodeWord i = some w := by
  unfold decLds at h
  simp only [ok_iff_noFields w, needZero_eq_ok_iff] at h
  obtain ⟨hz, rfl⟩ := h
  refine congrArg some (packW_eq_of_body h0 hm ?_)
  simp [bits_eq_zero_iff] at *
  omega

theorem encodes_sts {w : Word} {i : Instr} (h0 : w.getLsbD 0 = true) (hm : (fMaj w).toNat = 45) (h : decSts w = .ok i) : encodeWord i = some w := by
  unfold decSts at h
  simp only [ok_iff_noFields w, needZero_eq_ok_iff] at h
  obtain ⟨hz, rfl⟩ := h
  refine congrArg some (packW_eq_of_body h0 hm ?_)
  simp [bits_eq_zero_iff] at *
  omega

theorem encodes_ldc {w : Word} {i : Instr} (h0 : w.getLsbD 0 = true) (hm : (fMaj w).toNat = 46) (h : decLdc w = .ok i) : encodeWord i = some w := by
  unfold decLdc at h
  simp only [ok_iff_noFields w, needZero_eq_ok_iff] at h
  obtain ⟨hz, rfl⟩ := h
  refine congrArg some (packW_eq_of_body h0 hm ?_)
  simp [bits_eq_zero_iff] at *
  omega

theorem encodes_memo {w : Word} {i : Instr} (h0 : w.getLsbD 0 = true) (hm : (fMaj w).toNat = 47) (h : decMemo w = .ok i) : encodeWord i = some w := by
  unfold decMemo at h
  split at h
  all_goals
    simp only [ok_iff_noFields w, needZero_eq_ok_iff, reduceCtorEq] at h
  all_goals
    obtain ⟨hz, rfl⟩ := h
    refine congrArg some (packW_eq_of_body h0 hm ?_)
    simp [bits_eq_zero_iff] at *
    omega

theorem encodes_phase {w : Word} {i : Instr} (h0 : w.getLsbD 0 = true) (hm : (fMaj w).toNat = 48) (h : decPhase w = .ok i) : encodeWord i = some w := by
  unfold decPhase at h
  split at h
  all_goals
    simp only [ok_iff_noFields w, needZero_eq_ok_iff, reduceCtorEq] at h
  all_goals
    obtain ⟨hz, rfl⟩ := h
    refine congrArg some (packW_eq_of_body h0 hm ?_)
    simp [bits_eq_zero_iff] at *
    omega

theorem encodes_eng {w : Word} {i : Instr} (h0 : w.getLsbD 0 = true) (hm : (fMaj w).toNat = 49) (h : decEng w = .ok i) : encodeWord i = some w := by
  unfold decEng at h
  split at h
  all_goals
    simp only [ok_iff_noFields w, needZero_eq_ok_iff, reduceCtorEq] at h
  all_goals
    obtain ⟨hz, rfl⟩ := h
    refine congrArg some (packW_eq_of_body h0 hm ?_)
    simp [bits_eq_zero_iff] at *
    omega

theorem encodes_mtx {w : Word} {i : Instr} (h0 : w.getLsbD 0 = true) (hm : (fMaj w).toNat = 50) (h : decMtx w = .ok i) : encodeWord i = some w := by
  unfold decMtx at h
  repeat' split at h
  all_goals
    simp only [ok_iff_noFields w, needZero_eq_ok_iff, reduceCtorEq] at h
  all_goals
    obtain ⟨hz, rfl⟩ := h
    refine congrArg some (packW_eq_of_body h0 hm ?_)
    simp [bits_eq_zero_iff] at *
    omega

theorem encodes_tslr {w : Word} {i : Instr} (h0 : w.getLsbD 0 = true) (hm : (fMaj w).toNat = 51) (h : decTslr w = .ok i) : encodeWord i = some w := by
  unfold decTslr at h
  simp only [ok_iff_noFields w, needZero_eq_ok_iff] at h
  obtain ⟨hz, rfl⟩ := h
  refine congrArg some (packW_eq_of_body h0 hm ?_)
  simp [bits_eq_zero_iff] at *
  omega

theorem encodes_tslw {w : Word} {i : Instr} (h0 : w.getLsbD 0 = true) (hm : (fMaj w).toNat = 52) (h : decTslw w = .ok i) : encodeWord i = some w := by
  unfold decTslw at h
  simp only [ok_iff_noFields w, needZero_eq_ok_iff] at h
  obtain ⟨hz, rfl⟩ := h
  refine congrArg some (packW_eq_of_body h0 hm ?_)
  simp [bits_eq_zero_iff] at *
  omega

theorem encodes_bar {w : Word} {i : Instr} (h0 : w.getLsbD 0 = true) (hm : (fMaj w).toNat = 53) (h : decBar w = .ok i) : encodeWord i = some w := by
  unfold decBar at h
  split at h
  all_goals
    simp only [ok_iff_noFields w, needZero_eq_ok_iff, reduceCtorEq] at h
  all_goals
    obtain ⟨hz, rfl⟩ := h
    refine congrArg some (packW_eq_of_body h0 hm ?_)
    simp [bits_eq_zero_iff] at *
    omega

theorem encodes_task {w : Word} {i : Instr} (h0 : w.getLsbD 0 = true) (hm : (fMaj w).toNat = 54) (h : decTask w = .ok i) : encodeWord i = some w := by
  unfold decTask at h
  split at h
  all_goals
    simp only [ok_iff_noFields w, needZero_eq_ok_iff, reduceCtorEq] at h
  all_goals
    obtain ⟨hz, rfl⟩ := h
    refine congrArg some (packW_eq_of_body h0 hm ?_)
    simp [bits_eq_zero_iff] at *
    omega

/-- A word with its length bit set is the encoding of what its fields give, but for the 32-bit ILL, which ignores them. -/
theorem encodeWord_of_decodeFields {w : Word} {i : Instr} (h0 : w.getLsbD 0 = true) (hne : i ≠ .ill32) (h : decodeFields w = .ok i) :
    encodeWord i = some w := by
  unfold decodeFields at h
  split at h
  · exact absurd (Except.ok.inj h).symm hne
  · exact encodes_ialu h0 ‹_› h
  · exact encodes_imul h0 ‹_› h
  · exact encodes_shf h0 ‹_› h
  · exact encodes_bits h0 ‹_› h
  · exact encodes_idiv h0 ‹_› h
  · exact encodes_imad h0 ‹_› h
  · exact encodes_icmp h0 ‹_› h
  · exact encodes_addi h0 ‹_› h
  · exact encodes_andi h0 ‹_› h
  · exact encodes_ori h0 ‹_› h
  · exact encodes_xori h0 ‹_› h
  · exact encodes_shfi h0 ‹_› h
  · exact encodes_icmpi h0 ‹_› h
  · exact encodes_li h0 ‹_› h
  · exact encodes_lih h0 ‹_› h
  · exact encodes_pred h0 ‹_› h
  · exact encodes_sel h0 ‹_› h
  · exact encodes_falu h0 ‹_› h
  · exact encodes_fcmp h0 ‹_› h
  · exact encodes_fpk h0 ‹_› h
  · exact encodes_sfu h0 ‹_› h
  · exact encodes_fdiv h0 ‹_› h
  · exact encodes_cvt h0 ‹_› h
  · exact encodes_cvt8 h0 ‹_› h
  · exact encodes_dot4 h0 ‹_› h
  · exact encodes_shfl h0 ‹_› h
  · exact encodes_shflr h0 ‹_› h
  · exact encodes_vote h0 ‹_› h
  · exact encodes_fold h0 ‹_› h
  · exact encodes_topk h0 ‹_› h
  · exact encodes_lset h0 ‹_› h
  · exact encodes_bra h0 ‹_› h
  · exact encodes_call h0 ‹_› h
  · exact encodes_jmpx h0 ‹_› h
  · exact encodes_loop h0 ‹_› h
  · exact encodes_seam h0 ‹_› h
  · exact encodes_try h0 ‹_› h
  · exact encodes_exc h0 ‹_› h
  · exact encodes_srd h0 ‹_› h
  · exact encodes_swr h0 ‹_› h
  · exact encodes_misc h0 ‹_› h
  · exact encodes_ld h0 ‹_› h
  · exact encodes_st h0 ‹_› h
  · exact encodes_lds h0 ‹_› h
  · exact encodes_sts h0 ‹_› h
  · exact encodes_ldc h0 ‹_› h
  · exact encodes_memo h0 ‹_› h
  · exact encodes_phase h0 ‹_› h
  · exact encodes_eng h0 ‹_› h
  · exact encodes_mtx h0 ‹_› h
  · exact encodes_tslr h0 ‹_› h
  · exact encodes_tslw h0 ‹_› h
  · exact encodes_bar h0 ‹_› h
  · exact encodes_task h0 ‹_› h
  · exact absurd h (by simp)

/-! ## 16-bit words -/

theorem packC_even (b d op : Nat) : (packC b d op).getLsbD 0 = false := by
  rw [packC, BitVec.getLsbD_ofNat, Nat.testBit_zero, Bool.and_eq_false_iff]
  refine .inr (decide_eq_false ?_)
  omega

theorem extractLsb'_packC (b : BitVec 5) (d : BitVec 6) (op : Nat) (hop : op < 16) :
    (packC b.toNat d.toNat op).extractLsb' 5 6 = d ∧ (packC b.toNat d.toNat op).extractLsb' 11 5 = b ∧
      ((packC b.toNat d.toNat op).extractLsb' 1 4).toNat = op := by
  refine ⟨BitVec.eq_of_toNat_eq ?_, BitVec.eq_of_toNat_eq ?_, ?_⟩
  all_goals
    rw [BitVec.extractLsb'_toNat, packC, BitVec.toNat_ofNat, Nat.shiftRight_eq_div_pow]
    omega

/-- A halfword with its length bit clear is packed from its fields. -/
theorem packC_fields {x : Half} (h0 : x.getLsbD 0 = false) {op : Nat} (hop : (x.extractLsb' 1 4).toNat = op) :
    packC (x.extractLsb' 11 5).toNat (x.extractLsb' 5 6).toNat op = x := by
  have hx := x.isLt
  have h1 : x.toNat % 2 = 0 := by
    rw [BitVec.getLsbD, Nat.testBit_zero, decide_eq_false_iff_not] at h0
    omega
  apply BitVec.eq_of_toNat_eq
  rw [← hop, packC, BitVec.toNat_ofNat, BitVec.extractLsb'_toNat, BitVec.extractLsb'_toNat, BitVec.extractLsb'_toNat,
    Nat.shiftRight_eq_div_pow, Nat.shiftRight_eq_div_pow, Nat.shiftRight_eq_div_pow]
  omega

/-- Every 16-bit encoding decodes to its instruction; C MOV g0, g0 has none, its word being ILL (R37). -/
theorem Instr.decodesHalf (i : Instr) (x : Half) (hr : i.reject = none) (h : encodeHalf i = some x) :
    x.getLsbD 0 = false ∧ decodeHalf x = i := by
  cases i
  case cMov d b =>
    obtain rfl := Option.some.inj h
    obtain ⟨hd, hb, hop⟩ := extractLsb'_packC b d 0 (by omega)
    refine ⟨packC_even _ _ _, ?_⟩
    have hne : packC b.toNat d.toNat 0 ≠ 0 := by
      intro h0
      have hd0 : d = 0 := by rw [← hd, h0]; rfl
      have hb0 : b = 0 := by rw [← hb, h0]; rfl
      subst hd0 hb0
      exact absurd hr (by decide)
    simp only [decodeHalf, hd, hb, hop, if_neg hne]
  case cAdd d b | cSub d b | cAnd d b | cOr d b | cXor d b | cShl d b | cShr d b | cSar d b | cMul d b | cMins d b | cMaxs d b | cFadd d b |
      cFmul d b | addi5 d b | li5 d b =>
    obtain rfl := Option.some.inj h
    refine ⟨packC_even _ _ _, ?_⟩
    simp only [decodeHalf, extractLsb'_packC, Nat.reduceLT]
  case ill16 =>
    obtain rfl := Option.some.inj h
    exact ⟨rfl, rfl⟩
  all_goals exact nomatch h

/-- An instruction has no encoding of each length. -/
theorem encodeWord_of_encodeHalf {i : Instr} {x : Half} (h : encodeHalf i = some x) : encodeWord i = none := by
  cases i
  case cMov | cAdd | cSub | cAnd | cOr | cXor | cShl | cShr | cSar | cMul | cMins | cMaxs | cFadd | cFmul | addi5 | li5 | ill16 => rfl
  all_goals exact nomatch h

/-- A halfword with its length bit clear is the encoding of its instruction. -/
theorem encodeHalf_decodeHalf {x : Half} (h0 : x.getLsbD 0 = false) : encodeHalf (decodeHalf x) = some x ∧ (decodeHalf x).reject = none := by
  unfold decodeHalf
  dsimp only
  split
  next hop =>
    split
    next hx => exact ⟨by rw [hx]; rfl, rfl⟩
    next hx =>
      refine ⟨congrArg some (packC_fields h0 hop), ?_⟩
      have hfields : ¬(x.extractLsb' 5 6 = 0 ∧ x.extractLsb' 11 5 = 0) := by
        rintro ⟨hd, hb⟩
        refine hx ?_
        rw [← packC_fields h0 hop, hd, hb]
        rfl
      simpa [Instr.reject, firstOf] using not_and.mp hfields
  case h_16 =>
    have hop : (x.extractLsb' 1 4).toNat = 15 := by
      have := (x.extractLsb' 1 4).isLt
      simp only [imp_false] at *
      omega
    exact ⟨congrArg some (packC_fields h0 hop), rfl⟩
  all_goals
    next hop => exact ⟨congrArg some (packC_fields h0 hop), rfl⟩

/-! ## Bytes -/

theorem toBytes_ofBytes_half (b0 b1 : Byte) : toBytes 2 (ofBytes 16 [b0, b1]) = [b0, b1] := by
  simp only [toBytes, ofBytes, List.cons.injEq, and_true]
  refine ⟨BitVec.eq_of_getLsbD_eq fun i hi => ?_, BitVec.eq_of_getLsbD_eq fun i hi => ?_⟩
  all_goals interval_cases i <;> simp

theorem toBytes_ofBytes_word (b0 b1 b2 b3 : Byte) : toBytes 4 (ofBytes 32 [b0, b1, b2, b3]) = [b0, b1, b2, b3] := by
  simp only [toBytes, ofBytes, List.cons.injEq, and_true]
  refine ⟨BitVec.eq_of_getLsbD_eq fun i hi => ?_, BitVec.eq_of_getLsbD_eq fun i hi => ?_, BitVec.eq_of_getLsbD_eq fun i hi => ?_,
    BitVec.eq_of_getLsbD_eq fun i hi => ?_⟩
  all_goals interval_cases i <;> simp

/-- The length bit of a word is that of its first byte. -/
theorem ofBytes_lengthBit {n : Nat} (hn : 0 < n) (b : Byte) (rest : List Byte) : (ofBytes n (b :: rest)).getLsbD 0 = b.getLsbD 0 := by
  simp [ofBytes, hn]

theorem lengthOf_eq_two_iff (b : Byte) : lengthOf b = 2 ↔ b.getLsbD 0 = false := by
  unfold lengthOf
  cases b.getLsbD 0 <;> simp

theorem decodeWord_ok_iff (w : Word) (i : Instr) : decodeWord w = .ok i ↔ decodeFields w = .ok i ∧ i.reject = none := by
  unfold decodeWord
  cases decodeFields w with
  | error r => simp
  | ok j =>
    cases hj : j.reject with
    | none =>
      simp only [hj, Except.ok.injEq]
      exact ⟨fun e => ⟨e, e ▸ hj⟩, fun e => e.1⟩
    | some r =>
      simp only [hj, Except.ok.injEq, reduceCtorEq, false_iff, not_and]
      intro e
      rw [← e, hj]
      simp

/-- Settles O55: the fields of a packed word are those it was packed from, and the word has the length bit that its form asks for. -/
theorem decodeEncode : Obligations.DecodeEncode := by
  unfold Obligations.DecodeEncode
  intro i bs rest hwf henc
  unfold encode at henc
  cases hw : encodeWord i with
  | some w =>
    rw [hw] at henc
    obtain rfl := Option.some.inj henc
    obtain ⟨hodd, hdec⟩ := i.decodes w hw
    rw [decode_toBytes_word w rest hodd, (decodeWord_ok_iff w i).mpr ⟨hdec, hwf⟩]
  | none =>
    rw [hw] at henc
    obtain ⟨x, hx, rfl⟩ := Option.map_eq_some_iff.mp henc
    obtain ⟨heven, hdec⟩ := i.decodesHalf x hwf hx
    rw [decode_toBytes_half x rest heven, hdec]

/-- Settles O56: a word with the length bit is packed from the fields it decodes to, and so is a halfword without it. -/
theorem encodeDecode : Obligations.EncodeDecode := by
  unfold Obligations.EncodeDecode
  intro i bs rest hdec hne
  unfold decode at hdec
  split at hdec
  next b0 b1 tail =>
    split at hdec
    next hlen =>
      obtain ⟨rfl, rfl⟩ := Prod.mk.inj (Except.ok.inj hdec)
      have h0 : (ofBytes 16 [b0, b1]).getLsbD 0 = false := by
        rw [ofBytes_lengthBit (by omega), ← lengthOf_eq_two_iff]
        exact hlen
      obtain ⟨henc, hwf⟩ := encodeHalf_decodeHalf h0
      refine ⟨hwf, [b0, b1], ?_, rfl⟩
      rw [encode, encodeWord_of_encodeHalf henc, henc]
      exact congrArg some (toBytes_ofBytes_half b0 b1)
    next hlen =>
      split at hdec
      next b2 b3 tail' =>
        split at hdec
        next j hj =>
          obtain ⟨rfl, rfl⟩ := Prod.mk.inj (Except.ok.inj hdec)
          obtain ⟨hfields, hwf⟩ := (decodeWord_ok_iff _ _).mp hj
          have h0 : (ofBytes 32 [b0, b1, b2, b3]).getLsbD 0 = true := by
            rw [ofBytes_lengthBit (by omega)]
            rw [lengthOf_eq_two_iff] at hlen
            simpa using hlen
          refine ⟨hwf, [b0, b1, b2, b3], ?_, rfl⟩
          rw [encode, encodeWord_of_decodeFields h0 hne hfields]
          exact congrArg some (toBytes_ofBytes_word b0 b1 b2 b3)
        next => exact absurd hdec (by simp)
      next => exact absurd hdec (by simp)
  next => exact absurd hdec (by simp)

end Sys2Proof
end

section
/-! PROOFS. The reset state, words written out from the encoding tables, and what a step does at a path that is next to issue: where two waves
stood in one slot of a core, taking the path would touch both. -/

namespace Sys2Proof
open Sys2Proof.Machine Sys2Proof.Claims

/-! ## Reset -/

/-- Every word of the register maps reads as its reset value after reset. -/
theorem Machine.State.reg_reset (space ix off : Nat) : State.reset.reg space ix off = regReset space off := rfl

theorem regReset_arrayOff (c : Nat) (h : c < 192) : regReset 1 (arrayOff c) = 8 := by
  have hlow : 0x10100 ≤ arrayOff c := by simp only [arrayOff]; omega
  have hhigh : arrayOff c < 0x10100 + 4 * 192 := by simp only [arrayOff]; omega
  have hne : ¬(arrayOff c = 0x10000 ∨ arrayOff c = 0x10004) ∧ arrayOff c ≠ 0x10008 := by omega
  simp [regReset, hne, hlow, hhigh]

/-- A word of a gauge: the minimum is all ones, every other word 0. -/
theorem regReset_gaugeOff (n k : Nat) (hn : n < 64) (hk : k < 0x100) : regReset 1 (gaugeOff n + k) = if k = 0xC then 0xFFFFFFFF#32 else 0 := by
  have hlow : 0x20000 ≤ gaugeOff n + k := by simp only [gaugeOff]; omega
  have hhigh : gaugeOff n + k < 0x24000 := by simp only [gaugeOff]; omega
  have hmod : (gaugeOff n + k) % 0x100 = k := by simp only [gaugeOff]; omega
  have hfixed : ¬(gaugeOff n + k = 0x10000 ∨ gaugeOff n + k = 0x10004) ∧ gaugeOff n + k ≠ 0x10008 := by omega
  have harray : ¬(0x10100 ≤ gaugeOff n + k ∧ gaugeOff n + k < 0x10100 + 4 * 192) := by omega
  have hsampler : ¬(0x30000 ≤ gaugeOff n + k ∧ gaugeOff n + k < 0x3C000 ∧ (gaugeOff n + k) % 0x40 = 0x04) := by omega
  generalize gaugeOff n + k = o at *
  subst hmod
  simp only [regReset, hfixed, harray, hsampler, hlow, hhigh, if_true, if_false, true_and]

/-- A word of a sampler: the period is 1,024, every other word 0. -/
theorem regReset_samplerOff (c p k : Nat) (hc : c < 192) (hp : p < 4) (hk : k < 0x40) :
    regReset 1 (samplerOff c p + k) = if k = 4 then 1024 else 0 := by
  have hlow : 0x30000 ≤ samplerOff c p + k := by simp only [samplerOff]; omega
  have hhigh : samplerOff c p + k < 0x3C000 := by simp only [samplerOff]; omega
  have hmod : (samplerOff c p + k) % 0x40 = k := by simp only [samplerOff]; omega
  have hfixed : ¬(samplerOff c p + k = 0x10000 ∨ samplerOff c p + k = 0x10004) ∧ samplerOff c p + k ≠ 0x10008 := by omega
  have harray : ¬(0x10100 ≤ samplerOff c p + k ∧ samplerOff c p + k < 0x10100 + 4 * 192) := by omega
  have hgauge : ¬(0x20000 ≤ samplerOff c p + k ∧ samplerOff c p + k < 0x24000 ∧ (samplerOff c p + k) % 0x100 = 0x0C) := by omega
  generalize samplerOff c p + k = o at *
  subst hmod
  simp only [regReset, hfixed, harray, hgauge, hlow, hhigh, if_true, if_false, true_and]

theorem Machine.State.reset_ordered : State.reset.Ordered := by
  constructor <;> simp [State.reset, getD, risingFrom, Monitor.reset]

/-- Settles O53: every register map reads as its reset value, and every list of the state but that of the partitions is empty. -/
theorem resetState : Obligations.ResetState := by
  unfold Obligations.ResetState
  simp only [State.reg_reset]
  refine ⟨rfl, State.reset_ordered, rfl, rfl, rfl, rfl, regReset_arrayOff, fun n hn => ⟨?_, ?_, ?_⟩, fun c hc p hp => ⟨?_, ?_⟩,
    fun p _ => ⟨rfl, by simp [State.peerMake, State.reg_reset, regReset], by simp [State.peerState, State.reg_reset, regReset]⟩, fun vf _ off => ⟨rfl, rfl⟩, rfl, rfl, rfl, rfl, rfl, rfl⟩
  · exact regReset_gaugeOff n 0 hn (by omega)
  · exact regReset_gaugeOff n 0xC hn (by omega)
  · exact regReset_gaugeOff n 0x10 hn (by omega)
  · exact regReset_samplerOff c p 0 hc hp (by omega)
  · exact regReset_samplerOff c p 4 hc hp (by omega)

/-! ## Words written out -/

/-- Settles O54: each word is decoded. -/
theorem decodeWords : Obligations.DecodeWords := by
  unfold Obligations.DecodeWords
  decide +kernel

/-! ## A step at a path that is next to issue -/

/-- Two waves in slot 0 of core 0, each of one lane at a 16-bit ADD; the lane of the second, which nothing looks up, parks. -/
def twoInOneSlot : State :=
  { State.reset.place [0x42#8, 0x18#8] with
    waves := [{ placeWave with lanes := [Thread.start 0 true placeVa] }, { placeWave with lanes := [{ Thread.start 0 true placeVa with wait := .tack }] }]
    agenda := []
    second := some ⟨0, 0, placeVa, 4, [0], false⟩ }

/-- What the threads of an outcome wait for. -/
def waitsOf : Res → List Wait
  | .next s => s.waves.flatMap (fun w => w.lanes.map (fun t => t.wait))
  | _ => []

/-- Refutes O57: the statement does not say that no two waves stand in one slot. Where two do, the path taken leaves the wait of both, the
execution on the path as the statement writes it that of the first alone: the second's lane goes on parking. -/
theorem not_stepRunsDecoded : ¬ Obligations.StepRunsDecoded := by
  unfold Obligations.StepRunsDecoded
  intro h
  have hrun := (h twoInOneSlot ⟨0, 0, placeVa, 4, [0], false⟩ { placeWave with lanes := [Thread.start 0 true placeVa] } [0x42#8, 0x18#8] 0x42 0x18 rfl rfl
    (by decide) (by decide) (by decide) rfl (by decide +kernel) (by decide +kernel) (by decide +kernel)).1 (.cAdd 2 3) [] (by decide +kernel)
  have hwaits := congrArg waitsOf (hrun.1 (.inl rfl))
  exact absurd hwaits (by decide +kernel)

end Sys2Proof
end

section
/-! PROOFS. Branches, calls and returns, the throws, and loops (spec/07 R128 to R134, spec/10 R210): what each outcome of a lane leaves, then O10,
O15 and O11. -/

namespace Sys2Proof.Machine
open Sys2Proof.Claims

/-! ## Outcomes of a lane -/

/-- The thread after a taken transfer. -/
theorem Out.apply_jump (s : State) (r : WaveRegs) (len : Nat) (tack : Bool) (t : Thread) (a : Dword) :
    (Out.jump t a).apply s r len tack = t.arriveAt a tack := by
  have ho : (t.goto a).outstanding = t.outstanding := rfl
  unfold Out.apply Thread.arriveAt Thread.tackIf Thread.park
  simp only [ho]
  cases tack <;> cases t.outstanding <;> rfl

theorem State.regsOk_nil (s : State) : s.regsOk [] := List.forall_mem_nil _

section
variable {s : State} {w : Wave} {th : Thread} {i : Instr} {t : Bool} {f : Wave → Thread → Out}

/-- An instruction that acts lane by lane, in a lane of its path. -/
theorem State.exec_perLane (he : exec i s = .next (s.perLane t f)) (h : s.OnPath w th) (hf : ∀ v u, (f v u).thread.lane = u.lane) :
    ∃ s', exec i s = .next s' ∧ s'.lane? w.core w.slot th.lane = some ((f w th).apply s w.regs s.cur.len t) :=
  ⟨_, he, State.perLane_lane h t f hf⟩

/-- The same of one that names registers. -/
theorem State.exec_lanes {regs : List Nat} (he : exec i s = .next (s.lanes regs t f)) (h : s.OnPath w th) (hr : s.regsOk regs)
    (hf : ∀ v u, (f v u).thread.lane = u.lane) :
    ∃ s', exec i s = .next s' ∧ s'.lane? w.core w.slot th.lane = some ((f w th).apply s w.regs s.cur.len t) :=
  ⟨_, he, State.lanes_lane h hr t f hf⟩
end

/-! ## Targets -/

theorem branchTarget_eq (pc : Dword) (d : BitVec 20) : branchTarget pc d = pc + BitVec.ofInt 64 (2 * d.toInt) := by
  have htwo : BitVec.ofInt 64 (2 * d.toInt) = d.signExtend 64 <<< 1 := by
    rw [BitVec.ofInt_mul, BitVec.signExtend, BitVec.shiftLeft_eq_mul_twoPow, BitVec.mul_comm]
    rfl
  rw [branchTarget, htwo]

theorem clearBit0_eq (a : Dword) : clearBit0 a = BitVec.ofNat 64 (a.toNat - a.toNat % 2) := by
  have hbit : a.toNat - a.toNat % 2 = a.toNat / 2 * 2 := by omega
  rw [hbit]
  refine BitVec.eq_of_getLsbD_eq fun i hi => ?_
  rw [BitVec.getLsbD_ofNat, clearBit0, BitVec.getLsbD_and, BitVec.getLsbD_not]
  rcases i with _ | i
  · simp [Nat.testBit_zero]
  · have hshift : (a.toNat / 2 * 2).testBit (i + 1) = a.toNat.testBit (i + 1) := by
      rw [Nat.testBit_succ, Nat.testBit_succ, Nat.mul_div_cancel _ (by decide)]
    rw [hshift, BitVec.testBit_toNat]
    simp [hi]

theorem clearBit0_getLsbD_zero {a : Dword} (h : a.getLsbD 0 = false) : clearBit0 a = a := by
  refine BitVec.eq_of_getLsbD_eq fun i hi => ?_
  rw [clearBit0, BitVec.getLsbD_and, BitVec.getLsbD_not]
  rcases i with _ | i
  · rw [h]
    rfl
  · simp [hi]

/-- The address that RET makes: the link register in the 4 GiB region of the instruction. -/
theorem toNat_region (pc : Dword) (g : Word) : ((pc >>> 32).setWidth 32 ++ g : Dword).toNat = pc.toNat / 2 ^ 32 * 2 ^ 32 + g.toNat := by
  rw [toNat_pair, BitVec.toNat_setWidth, BitVec.toNat_ushiftRight, Nat.shiftRight_eq_div_pow]
  omega

/-! ## The link register -/

/-- The link register after a call, where no write of it is outstanding, and where one is (spec/02 R39). -/
theorem Thread.link_settled (s : State) {th : Thread} (h : 127 ∉ th.marks) :
    th.link s = { th with g := setD th.g 0 127 ((th.pc + 4).setWidth 32) } :=
  if_neg (by simpa using h)
theorem Thread.link_outstanding (s : State) {th : Thread} (h : 127 ∈ th.marks) :
    th.link s = { th with g := setD th.g 0 127 (th.undefined s 2175), marks := 127 :: th.marks } :=
  if_pos (by simpa using h)

/-- A conditional transfer tests its predicate against the bit that inverts it. -/
theorem xor_eq_true_iff (p n : Bool) : xor p n = true ↔ p = !n := by cases p <;> cases n <;> decide

/-! ## O10 -/

section
variable {s : State} {w : Wave} {th : Thread} (h : s.OnPath w th)
include h

theorem bra_lane (d : BitVec 20) (p : PReg) (n t : Bool) :
    ∃ s', exec (.bra d p n t) s = .next s' ∧ s'.lane? w.core w.slot th.lane = some (
      if th.p? s p.toNat = !n then th.arriveAt (th.pc + BitVec.ofInt 64 (2 * d.toInt)) t else th.after s.cur.len t) := by
  obtain ⟨s', hexec, hlane⟩ := State.exec_lanes (i := .bra d p n t) rfl h s.regsOk_nil (fun v u => by split <;> rfl)
  refine ⟨s', hexec, hlane.trans (congrArg some ?_)⟩
  simp only [xor_eq_true_iff, branchTarget_eq]
  split
  · exact Out.apply_jump ..
  · exact Out.apply_next ..

theorem call_lane (d : BitVec 20) (p : PReg) (n t : Bool) :
    ∃ s', exec (.call d p n t) s = .next s' ∧ s'.lane? w.core w.slot th.lane = some (
      if th.p? s p.toNat = !n then (th.link s).arriveAt (th.pc + BitVec.ofInt 64 (2 * d.toInt)) t else th.after s.cur.len t) := by
  obtain ⟨s', hexec, hlane⟩ := State.exec_lanes (i := .call d p n t) rfl h s.regsOk_nil (fun v u => by
    split
    · exact u.link_lane s
    · rfl)
  refine ⟨s', hexec, hlane.trans (congrArg some ?_)⟩
  simp only [xor_eq_true_iff, branchTarget_eq]
  split
  · exact Out.apply_jump ..
  · exact Out.apply_next ..

theorem brx_lane (a : Reg) (t : Bool) (hr : s.regsOk [a.toNat, a.toNat + 1]) :
    ∃ s', exec (.brx a t) s = .next s' ∧ s'.lane? w.core w.slot th.lane = some (th.arriveAt (clearBit0 (th.pair? s a.toNat)) t) := by
  obtain ⟨s', hexec, hlane⟩ := State.exec_lanes (i := .brx a t) rfl h hr (fun _ _ => rfl)
  exact ⟨s', hexec, hlane.trans (congrArg some (Out.apply_jump ..))⟩

theorem callx_lane (a : Reg) (t : Bool) (hr : s.regsOk [a.toNat, a.toNat + 1]) :
    ∃ s', exec (.callx a t) s = .next s' ∧
      s'.lane? w.core w.slot th.lane = some ((th.link s).arriveAt (clearBit0 ((th.link s).pair? s a.toNat)) t) := by
  obtain ⟨s', hexec, hlane⟩ := State.exec_lanes (i := .callx a t) rfl h hr (fun _ u => u.link_lane s)
  exact ⟨s', hexec, hlane.trans (congrArg some (Out.apply_jump ..))⟩

theorem ret_lane (t : Bool) :
    ∃ s', exec (.ret t) s = .next s' ∧ s'.lane? w.core w.slot th.lane =
      some (th.arriveAt (clearBit0 ((th.pc >>> 32).setWidth 32 ++ th.g? s 127)) t) := by
  obtain ⟨s', hexec, hlane⟩ := State.exec_lanes (i := .ret t) rfl h s.regsOk_nil (fun _ _ => rfl)
  exact ⟨s', hexec, hlane.trans (congrArg some (Out.apply_jump ..))⟩
end

/-- Settles O10: each of the five by the lemma of its own above. -/
theorem branches : Obligations.Branches := by
  unfold Obligations.Branches
  intro s w th h linked even
  have hlinked : linked (th.link s) := ⟨Thread.link_settled s, fun hm => ⟨_, Thread.link_outstanding s hm⟩⟩
  have heven : ∀ a : Dword, even a.toNat = clearBit0 a := fun a => (clearBit0_eq a).symm
  simp only [heven]
  refine ⟨bra_lane h, fun d p n t => ?call, brx_lane h, fun a t hr => ?callx, fun t => ?ret⟩
  case call =>
    obtain ⟨s', hexec, hlane⟩ := call_lane h d p n t
    exact ⟨s', th.link s, hexec, hlinked, hlane⟩
  case callx =>
    obtain ⟨s', hexec, hlane⟩ := callx_lane h a t hr
    exact ⟨s', th.link s, hexec, hlinked, hlane⟩
  case ret =>
    rw [← toNat_region, heven]
    exact ret_lane h t

/-! ## O15 -/

/-- Settles O15: each throws in the lanes of its path. -/
theorem throws : Obligations.Throws := by
  unfold Obligations.Throws
  intro s w th t h thrown
  refine ⟨fun a hr => ?throwG, fun c => ?throwi, ?rethrow⟩
  case throwG => exact State.exec_lanes (i := .throwG a t) rfl h hr (fun _ _ => rfl)
  case throwi =>
    rw [BitVec.ofNat_toNat]
    exact State.exec_perLane (i := .throwi c t) rfl h (fun _ _ => rfl)
  case rethrow => exact State.exec_perLane (i := .rethrow t) rfl h (fun _ _ => rfl)

/-! ## O11: a loop starts -/

/-- The count of a LOOP in a lane. -/
def loopCount (i : Bool) (c : Reg) (s : State) (th : Thread) : Word := if i = true then BitVec.ofNat 32 c.toNat else th.g? s c.toNat

/-- The counter that a started level leaves: undefined where the thread's own write of it is outstanding (spec/02 R39). -/
def loopCounter (s : State) (th : Thread) (l : Nat) (count : Word) : Word :=
  if th.specialPending (0x090 + l) then th.undefined s (3200 + l) else count

/-- A LOOP in a lane whose body has been walked. -/
theorem loopLane_eq {s : State} {w : Wave} {th : Thread} {n k : Nat} {last : Dword} {whole : Bool} (count : Word) (l : Nat)
    (hwalk : s.walkBody w.core w.blk (n + 1) (th.pc + 4) n 0 (th.pc + 4) = (k, last, whole)) :
    loopLane s w th n count l =
      if th.loops.any (fun v => v.ctr == l || decide (v.last.toNat < last.toNat)) = true ∨ whole = false then .trap th cILLOP
      else if 256 < k then .trap th cLOOPLEN
      else if count = 0 then .next { th with pc := th.pc + 4 + BitVec.ofNat 64 (2 * n) - 4 }
      else .next { th with lc := setD th.lc 0 l (loopCounter s th l count),
                           loops := ⟨l, th.pc + 4, last, th.pc + 4 + BitVec.ofNat 64 (2 * n)⟩ :: th.loops, marks := (136 + l) :: th.marks } := by
  unfold loopLane
  simp only [hwalk]
  by_cases hclash : th.loops.any (fun v => v.ctr == l || decide (v.last.toNat < last.toNat)) = true
  · simp only [hclash, if_true, true_or]
  · cases whole <;> simp only [hclash, Bool.not_true, Bool.not_false, Bool.false_eq_true, Bool.true_eq_false, if_false, if_true, or_true, or_false]
    rfl

theorem loopLane_lane (s : State) (w : Wave) (th : Thread) (n : Nat) (count : Word) (l : Nat) : (loopLane s w th n count l).thread.lane = th.lane := by
  obtain ⟨⟨k, last, whole⟩, hwalk⟩ : ∃ r, s.walkBody w.core w.blk (n + 1) (th.pc + 4) n 0 (th.pc + 4) = r := ⟨_, rfl⟩
  rw [loopLane_eq count l hwalk]
  split
  · rfl
  · split
    · rfl
    · split <;> rfl

/-! ## O11: the end of a pass -/

/-- A lane after one lane of its wave has changed. -/
theorem State.lane?_onLane {s : State} {c sl l : Nat} {th : Thread} (h : s.lane? c sl l = some th) (f : Thread → Thread)
    (hf : ∀ t : Thread, (f t).lane = t.lane) : (s.onLane c sl l f).lane? c sl l = some (f th) := by
  obtain ⟨w, hw, hl⟩ := Option.bind_eq_some_iff.mp h
  have hmap : (w.onLane l f).lane? l = some (f th) := by
    refine (lane_find_map w.lanes l _ (fun t => ?_)).trans ?_
    · split
      · exact hf t
      · rfl
    · rw [show w.lanes.find? (fun t => t.lane == l) = some th from hl]
      have hat : th.lane = l := by simpa using List.find?_some hl
      simp [hat]
  unfold State.lane? State.onLane
  rw [State.wave?_onWave s c sl (fun v => v.onLane l f) (fun _ => ⟨rfl, rfl⟩), hw]
  exact hmap

/-- Levels that end elsewhere are passed over. -/
theorem endChecks_append (pc : Dword) (ls : List LoopLevel) (lc : Regs) : ∀ newer : List LoopLevel, (∀ o ∈ newer, o.fin ≠ pc) →
    endChecks pc (newer ++ ls) lc = ((endChecks pc ls lc).1, newer ++ (endChecks pc ls lc).2.1, (endChecks pc ls lc).2.2) := by
  intro newer
  induction newer with
  | nil => intro _; rfl
  | cons o rest ih =>
    intro h
    have hrest := ih (fun x hx => h x (List.mem_cons_of_mem _ hx))
    simp only [List.cons_append, endChecks, if_neg (h o (List.mem_cons_self ..)), hrest]

theorem endChecks_elsewhere (pc : Dword) (lc : Regs) (ls : List LoopLevel) (h : ∀ o ∈ ls, o.fin ≠ pc) : endChecks pc ls lc = (pc, ls, lc) := by
  have := endChecks_append pc [] lc ls h
  simpa [endChecks] using this

theorem endChecks_repeats {pc : Dword} {l : LoopLevel} (h : l.fin = pc) (rest : List LoopLevel) {lc : Regs} (hv : 1 < (getD lc 0 l.ctr).toNat) :
    endChecks pc (l :: rest) lc = (l.start, l :: rest, setD lc 0 l.ctr (getD lc 0 l.ctr - 1)) := by
  simp only [endChecks, if_pos h, if_neg (Nat.not_le.mpr hv)]

theorem endChecks_ends {pc : Dword} {l : LoopLevel} (h : l.fin = pc) (rest : List LoopLevel) {lc : Regs} (hv : (getD lc 0 l.ctr).toNat ≤ 1) :
    endChecks pc (l :: rest) lc = endChecks pc rest (setD lc 0 l.ctr 0) := by
  simp only [endChecks, if_pos h, if_pos hv]

theorem Thread.endCheck_due {t : Thread} (hlive : t.live = true) (hdue : t.endChk = true) :
    t.endCheck = { t with pc := (endChecks t.pc t.loops t.lc).1, loops := (endChecks t.pc t.loops t.lc).2.1,
                          lc := (endChecks t.pc t.loops t.lc).2.2, endChk := false } := by
  simp only [Thread.endCheck, hlive, hdue, Bool.and_self, if_true]

@[simp] theorem Thread.endCheck_lane (t : Thread) : t.endCheck.lane = t.lane := by
  unfold Thread.endCheck
  split <;> rfl

theorem pred_eq_ofNat (v : Word) (h : 1 < v.toNat) : BitVec.ofNat 32 (v.toNat - 1) = v - 1 := by bv_omega

/-- Settles O11: a LOOP by what it does once its body is walked; the end check by the levels it passes over and those it comes to. -/
theorem loops : Obligations.Loops := by
  unfold Obligations.Loops
  refine ⟨?start, ?finish⟩
  case start =>
    intro n c i l t s w th k last whole hp hlen hr hwalk count fin clash
    have hcount : (if i then c.setWidth 32 else th.g? s c.toNat) = count := by
      simp only [count, BitVec.ofNat_toNat]
    have hregs : s.regsOk (if i then [] else [c.toNat]) := by
      cases i
      · exact hr rfl
      · exact s.regsOk_nil
    obtain ⟨s', hexec, hlane⟩ := State.exec_lanes (i := .loop n c i l t) rfl hp hregs (fun v u => loopLane_lane s v u _ _ _)
    refine ⟨s', loopCounter s th l.toNat count, hexec, fun hsp => if_neg (by simp [hsp]), hlane.trans (congrArg some ?_)⟩
    rw [hcount, loopLane_eq count l.toNat hwalk, hlen]
    split
    · rfl
    · split
      · rfl
      · split
        · exact Out.apply_next ..
        · exact Out.apply_next ..
  case finish =>
    intro s w th l newer rest hw hl hlive hdue hloops hnewer hfin v
    have hlane : s.lane? w.core w.slot th.lane = some th := Option.bind_eq_some_iff.mpr ⟨w, hw, hl⟩
    refine ⟨_, rfl, fun hv => ?repeats, fun hv hrest => ?ends, fun o mid older hv hrest hmid ho hne hov => ?next⟩
    all_goals
      refine (State.lane?_onLane hlane Thread.endCheck Thread.endCheck_lane).trans (congrArg some ?_)
      rw [Thread.endCheck_due hlive hdue, hloops, endChecks_append th.pc _ _ _ hnewer]
    case repeats => rw [endChecks_repeats hfin rest hv, pred_eq_ofNat _ hv]
    case ends => rw [endChecks_ends hfin rest hv, endChecks_elsewhere th.pc _ _ hrest]
    case next =>
      have hkept : getD (setD th.lc 0 l.ctr 0) 0 o.ctr = getD th.lc 0 o.ctr := getD_setD_ne _ _ _ hne
      rw [endChecks_ends hfin rest hv, hrest, endChecks_append th.pc _ _ _ hmid, endChecks_repeats ho older (by rw [hkept]; exact hov), hkept]

end Sys2Proof.Machine
end

section
/-! PROOFS. Seams (spec/07 R138, R139): what a lane-by-lane instruction leaves of its wave, what the check of a seam does, then O12. -/

namespace Sys2Proof.Machine
open Sys2Proof.Claims

/-! ## The wave of a path -/

section
variable {s : State} {w : Wave} (hw : s.curWave = some w) (t : Bool) (f : Wave → Thread → Out)
include hw

/-- The wave that a lane-by-lane instruction leaves in the slot of its path. -/
theorem State.perLane_wave : (s.perLane t f).wave? w.core w.slot = some (laneWave s t f w) := by
  obtain ⟨hc, hsl⟩ := State.wave?_isAt (s := s) hw
  unfold State.wave?
  rw [State.perLane_waves hw, hc, hsl]
  exact (State.wave?_onWave s s.cur.core s.cur.slot _ (laneWave_place s t f)).trans (congrArg (Option.map _) hw)

omit hw in
/-- The wave that a change of the wave being issued leaves. -/
theorem State.onCur_wave (hw : s.curWave = some w) {g : Wave → Wave} (hg : ∀ v : Wave, (g v).core = v.core ∧ (g v).slot = v.slot) :
    (s.onCur g).wave? w.core w.slot = some (g w) := by
  obtain ⟨hc, hsl⟩ := State.wave?_isAt (s := s) hw
  rw [hc, hsl]
  exact State.curWave_onCur hw hg

@[simp] theorem State.perLane_cur : (s.perLane t f).cur = s.cur := by
  unfold State.perLane
  simp only [hw]
  split <;> rfl

/-- It is the wave of the path still. -/
theorem State.perLane_curWave : (s.perLane t f).curWave = some (laneWave s t f w) := by
  obtain ⟨hc, hsl⟩ := State.wave?_isAt (s := s) hw
  rw [State.curWave, State.perLane_cur hw, ← hc, ← hsl]
  exact State.perLane_wave hw t f
end

section
variable (s : State) (t : Bool) (f : Wave → Thread → Out) (w : Wave)
/-- Of its registers an exception changes `$tailrule`, a returned SWR the values kept. -/
theorem laneWave_regs : { (laneWave s t f w).regs with tailrule := w.regs.tailrule, old := w.regs.old } = w.regs := by
  unfold laneWave
  dsimp only
  split <;> rfl
@[simp] theorem laneWave_core : (laneWave s t f w).core = w.core := (laneWave_place s t f w).1
@[simp] theorem laneWave_slot : (laneWave s t f w).slot = w.slot := (laneWave_place s t f w).2
@[simp] theorem laneWave_seamE : (laneWave s t f w).regs.seamE = w.regs.seamE := by rw [← laneWave_regs s t f w]
@[simp] theorem laneWave_seamW : (laneWave s t f w).regs.seamW = w.regs.seamW := by rw [← laneWave_regs s t f w]

variable {w}
/-- A lane of the path after a lane-by-lane instruction, and one beside it. -/
theorem laneWave_lane {th : Thread} (hl : w.lane? th.lane = some th) (hp : th.lane ∈ s.cur.lanes) (hf : ∀ v u, (f v u).thread.lane = u.lane) :
    (laneWave s t f w).lane? th.lane = some ((f w th).apply s w.regs s.cur.len t) := by
  unfold Wave.lane?
  rw [laneWave_lanes, lane_find_map _ _ _ (by intro u; split <;> simp [hf]), show w.lanes.find? (fun u => u.lane == th.lane) = some th from hl]
  simp [hp]
/-- The same of an instruction that only goes on. -/
theorem laneWave_advance {th : Thread} (hl : w.lane? th.lane = some th) (hp : th.lane ∈ s.cur.lanes) :
    (laneWave s t (fun _ u => .next u) w).lane? th.lane = some (th.after s.cur.len t) :=
  (laneWave_lane s t (fun _ u => .next u) hl hp (fun _ _ => rfl)).trans (congrArg some (Out.apply_next ..))
theorem laneWave_lane_beside {l : Nat} {u : Thread} (hl : w.lane? l = some u) (hp : l ∉ s.cur.lanes) (hf : ∀ v u, (f v u).thread.lane = u.lane) :
    (laneWave s t f w).lane? l = some u := by
  have hat : u.lane = l := by simpa using List.find?_some hl
  unfold Wave.lane?
  rw [laneWave_lanes, lane_find_map _ _ _ (by intro u; split <;> simp [hf]), show w.lanes.find? (fun u => u.lane == l) = some u from hl]
  simp [hat, hp]
end

/-! ## The check of a seam -/

/-- A value other than 0 that was set is read, whatever was listed before. -/
theorem getD_setD_of_ne {α : Type} [DecidableEq α] (m : List (Nat × α)) {d : α} (x : Nat) {v : α} (h : v ≠ d) : getD (setD m d x v) d x = v := by
  rw [setD, if_neg h, getD_insertAt_same]

@[simp] theorem Thread.leaveSeam_lane (t : Thread) (j : Nat) : (t.leaveSeam j).lane = t.lane := by
  unfold Thread.leaveSeam
  split
  · split
    · exact Thread.tackIf_lane ..
    · rfl
  · rfl

/-- Completing under a tack is what `Thread.after` says. -/
theorem Thread.advance_tackIf (t : Thread) (len : Nat) (b : Bool) : (t.advance len).tackIf b = t.after len b := by
  have ho : (t.advance len).outstanding = t.outstanding := rfl
  unfold Thread.after Thread.tackIf Thread.park
  simp only [ho]
  cases b <;> cases t.outstanding <;> rfl

/-- A lane that leaves the seam it waits at goes on after its WAIT. -/
theorem Thread.leaveSeam_waiting {t : Thread} {j since : Nat} {b : Bool} (h : t.wait = .seam j since b) :
    t.leaveSeam j = { t with wait := .no }.after 4 b := by
  simp only [Thread.leaveSeam, h, if_true]
  exact Thread.advance_tackIf _ 4 b

/-- A lane that a waiting one was before. -/
theorem Thread.leaveSeam_of_hold {t : Thread} (h : t.wait = .no) (j since : Nat) (b : Bool) :
    ({ t with wait := .seam j since b }).leaveSeam j = t.after 4 b := by
  rw [Thread.leaveSeam_waiting rfl, ← h]

theorem Wave.seamCheck_place (w : Wave) (j : Nat) : (w.seamCheck j).core = w.core ∧ (w.seamCheck j).slot = w.slot := by
  unfold Wave.seamCheck
  dsimp only
  split <;> exact ⟨rfl, rfl⟩

theorem Wave.seamCheck_clear {w : Wave} {j : Nat} (h : getD w.regs.seamE 0 j ≠ 0) (he : getD w.regs.seamW 0 j = getD w.regs.seamE 0 j) :
    w.seamCheck j = { w with regs := { w.regs with seamE := setD w.regs.seamE 0 j 0, seamW := setD w.regs.seamW 0 j 0 },
                             lanes := w.lanes.map (fun t => if (getD w.regs.seamW 0 j).getLsbD t.lane then t.leaveSeam j else t) } :=
  if_pos ⟨h, he⟩

theorem Wave.seamCheck_stays {w : Wave} {j : Nat} (h : getD w.regs.seamE 0 j = 0 ∨ getD w.regs.seamW 0 j ≠ getD w.regs.seamE 0 j) :
    w.seamCheck j = w := by
  refine if_neg fun hclear => ?_
  rcases h with h | h
  · exact hclear.1 h
  · exact h hclear.2

/-- A lane after the check: it leaves where the seam clears and it waited. -/
theorem Wave.seamCheck_lane {w : Wave} {j l : Nat} {u : Thread} (hl : w.lane? l = some u) :
    (w.seamCheck j).lane? l = some (if (getD w.regs.seamE 0 j ≠ 0 ∧ getD w.regs.seamW 0 j = getD w.regs.seamE 0 j) ∧
      (getD w.regs.seamW 0 j).getLsbD l = true then u.leaveSeam j else u) := by
  have hat : u.lane = l := by simpa using List.find?_some hl
  by_cases h : getD w.regs.seamE 0 j ≠ 0 ∧ getD w.regs.seamW 0 j = getD w.regs.seamE 0 j
  · rw [Wave.seamCheck_clear h.1 h.2]
    refine (lane_find_map w.lanes l _ (fun t => ?_)).trans ?_
    · split
      · exact t.leaveSeam_lane j
      · rfl
    · rw [show w.lanes.find? (fun t => t.lane == l) = some u from hl, Option.map_some, hat]
      simp only [h, true_and, ne_eq, not_false_eq_true, and_self]
  · rw [show w.seamCheck j = w from if_neg h, hl]
    simp only [h, false_and, if_false]

/-- A LEAVE after which the seam does not clear: the lanes' bits leave both masks. -/
theorem Wave.seamLeave_eq {w : Wave} {j : Nat} {mask : Word} (hcE : canonical (0 : Word) w.regs.seamE = true) (hcW : canonical (0 : Word) w.regs.seamW = true)
    (h : getD w.regs.seamE 0 j &&& ~~~mask = 0 ∨ getD w.regs.seamW 0 j &&& ~~~mask ≠ getD w.regs.seamE 0 j &&& ~~~mask) :
    w.seamLeave j mask = { w with regs := { w.regs with
      seamE := setD w.regs.seamE 0 j (getD w.regs.seamE 0 j &&& ~~~mask), seamW := setD w.regs.seamW 0 j (getD w.regs.seamW 0 j &&& ~~~mask) } } := by
  refine Wave.seamCheck_stays ?_
  simp only [getD_setD_same _ _ _ _ hcE, getD_setD_same _ _ _ _ hcW]
  exact h

theorem Wave.seamLeave_place (w : Wave) (j : Nat) (mask : Word) : (w.seamLeave j mask).core = w.core ∧ (w.seamLeave j mask).slot = w.slot :=
  Wave.seamCheck_place _ j

/-! ## The mask of a path -/

/-- A mask of 32 bits is the word of its test. -/
theorem maskOf_eq_sum (p : Nat → Bool) : ∀ n : Nat, maskOf n p = ((List.range n).map (fun i => if p i then 2 ^ i else 0)).sum := by
  intro n
  induction n with
  | zero => rfl
  | succ k ih => simp [maskOf, ih, List.range_succ]

theorem ofNat_maskOf (p : Nat → Bool) : BitVec.ofNat 32 (maskOf 32 p) = word p := by rw [maskOf_eq_sum, word]

theorem State.curMask_getLsbD (s : State) (l : Nat) : s.curMask.getLsbD l = (decide (l < 32) && s.cur.lanes.elem l) := by
  rw [State.curMask, ofNat_maskOf, getLsbD_word]

/-! ## O12 -/

section
variable {s : State} {w : Wave} {th : Thread} (h : s.OnPath w th) (j : BitVec 3) (t : Bool)
include h

theorem seamEnrol_lane : ∃ s' w', exec (.seamEnrol j t) s = .next s' ∧ s'.wave? w.core w.slot = some w' ∧
    w'.regs.seamE = setD w.regs.seamE 0 j.toNat (getD w.regs.seamE 0 j.toNat ||| s.curMask) ∧ w'.regs.seamW = w.regs.seamW ∧
    w'.lane? th.lane = some (th.after s.cur.len t) := by
  have hw := State.curWave_onCur h.wave (f := fun v => { v with regs := { v.regs with
    seamE := setD v.regs.seamE 0 j.toNat (getD v.regs.seamE 0 j.toNat ||| s.curMask) } }) (fun _ => ⟨rfl, rfl⟩)
  refine ⟨_, _, rfl, State.perLane_wave hw t _, laneWave_seamE .., laneWave_seamW .., ?_⟩
  exact laneWave_advance _ t h.lane h.path

theorem seamSmask_lane (d : Reg) (hr : s.regsOk [d.toNat]) : ∃ s', exec (.seamSmask d j t) s = .next s' ∧
    s'.lane? w.core w.slot th.lane = some ((th.setG s d.toNat (getD w.regs.seamE 0 j.toNat)).after s.cur.len t) := by
  obtain ⟨s', hexec, hlane⟩ := State.exec_lanes (i := .seamSmask d j t) rfl h hr (by intro _ _; rfl)
  exact ⟨s', hexec, hlane.trans (congrArg some (Out.apply_next ..))⟩

/-- What a WAIT makes of a lane before the check of the seam. -/
def seamWaitOut (j since : Nat) (t : Bool) (w : Wave) (th : Thread) : Out :=
  if (getD w.regs.seamE 0 j).getLsbD th.lane then .hold th (.seam j since t) else .next th

omit h in
theorem seamWaitOut_lane (j since : Nat) (t : Bool) (w : Wave) (th : Thread) : (seamWaitOut j since t w th).thread.lane = th.lane := by
  unfold seamWaitOut
  split <;> rfl

/-- The lanes of the path that are enrolled counted as waiting. -/
def Wave.seamArrive (j : Nat) (mask : Word) (w : Wave) : Wave :=
  { w with regs := { w.regs with seamW := setD w.regs.seamW 0 j (getD w.regs.seamW 0 j ||| (mask &&& getD w.regs.seamE 0 j)) } }

/-- The wave before the check of a WAIT: the path's lanes have gone on or wait, and those enrolled count as waiting. -/
def seamWaitWave (s : State) (w : Wave) (j : Nat) (t : Bool) : Wave :=
  (laneWave s t (seamWaitOut j (s.clockOf s.cur.core) t) w).seamArrive j s.curMask

omit h in
@[simp] theorem seamWaitWave_seamE (s : State) (w : Wave) (j : Nat) (t : Bool) : (seamWaitWave s w j t).regs.seamE = w.regs.seamE :=
  laneWave_seamE ..
omit h in
@[simp] theorem seamWaitWave_seamW (s : State) (w : Wave) (j : Nat) (t : Bool) : (seamWaitWave s w j t).regs.seamW =
    setD w.regs.seamW 0 j (getD w.regs.seamW 0 j ||| (s.curMask &&& getD w.regs.seamE 0 j)) := by
  simp only [seamWaitWave, Wave.seamArrive, laneWave_seamE, laneWave_seamW]

theorem seamWait_wave : ∃ s', exec (.seamWait j t) s = .next s' ∧ s'.wave? w.core w.slot = some ((seamWaitWave s w j.toNat t).seamCheck j.toNat) := by
  have hw := State.perLane_curWave h.wave t (seamWaitOut j.toNat (s.clockOf s.cur.core) t)
  have hwave := State.onCur_wave hw (g := fun v => (v.seamArrive j.toNat s.curMask).seamCheck j.toNat) (fun v => Wave.seamCheck_place _ _)
  rw [laneWave_core, laneWave_slot] at hwave
  exact ⟨_, rfl, hwave⟩

/-- A lane of the path before the check of a WAIT. -/
theorem seamWaitWave_lane (j : Nat) (t : Bool) : (seamWaitWave s w j t).lane? th.lane = some (
    if (getD w.regs.seamE 0 j).getLsbD th.lane = true then { th with wait := .seam j (s.clockOf w.core) t } else th.after s.cur.len t) := by
  obtain ⟨hc, -⟩ := State.wave?_isAt (s := s) h.wave
  refine (laneWave_lane s t _ h.lane h.path (fun _ _ => seamWaitOut_lane ..)).trans (congrArg some ?_)
  rw [hc]
  unfold seamWaitOut
  split
  · rfl
  · exact Out.apply_next ..

/-- A WAIT after which the seam does not clear. -/
theorem seamWait_stays (hstay : getD w.regs.seamE 0 j.toNat = 0 ∨ getD (seamWaitWave s w j.toNat t).regs.seamW 0 j.toNat ≠ getD w.regs.seamE 0 j.toNat) :
    ∃ s', exec (.seamWait j t) s = .next s' ∧ s'.wave? w.core w.slot = some (seamWaitWave s w j.toNat t) := by
  obtain ⟨s', hexec, hwave⟩ := seamWait_wave h j t
  rw [Wave.seamCheck_stays (by simpa only [seamWaitWave_seamE] using hstay)] at hwave
  exact ⟨s', hexec, hwave⟩

omit h in
/-- An enrolled lane of the path counts as waiting. -/
theorem seamArrive_bit (hp : th.lane ∈ s.cur.lanes) {E : Word} (hE : E.getLsbD th.lane = true) (W : Word) :
    (W ||| (s.curMask &&& E)).getLsbD th.lane = true := by
  have hlt : th.lane < 32 := by
    by_contra hge
    rw [BitVec.getLsbD_of_ge E th.lane (by omega)] at hE
    cases hE
  simp [BitVec.getLsbD_or, BitVec.getLsbD_and, State.curMask_getLsbD, hlt, hp, hE]

theorem seamWait_unenrolled (hE : (getD w.regs.seamE 0 j.toNat).getLsbD th.lane = false) :
    ∃ s', exec (.seamWait j t) s = .next s' ∧ s'.lane? w.core w.slot th.lane = some (th.after s.cur.len t) := by
  obtain ⟨s', hexec, hwave⟩ := seamWait_wave h j t
  have hlane := Wave.seamCheck_lane (j := j.toNat) (seamWaitWave_lane h j.toNat t)
  rw [if_neg] at hlane
  · rw [hE] at hlane
    exact ⟨s', hexec, Option.bind_eq_some_iff.mpr ⟨_, hwave, hlane⟩⟩
  · rintro ⟨⟨-, he⟩, hbit⟩
    rw [he, seamWaitWave_seamE, hE] at hbit
    cases hbit

theorem seamWait_waits (hE : (getD w.regs.seamE 0 j.toNat).getLsbD th.lane = true)
    (hne : getD w.regs.seamW 0 j.toNat ||| (s.curMask &&& getD w.regs.seamE 0 j.toNat) ≠ getD w.regs.seamE 0 j.toNat) :
    ∃ s' w', exec (.seamWait j t) s = .next s' ∧ s'.wave? w.core w.slot = some w' ∧ w'.regs.seamE = w.regs.seamE ∧
      w'.regs.seamW = setD w.regs.seamW 0 j.toNat (getD w.regs.seamW 0 j.toNat ||| (s.curMask &&& getD w.regs.seamE 0 j.toNat)) ∧
      w'.lane? th.lane = some { th with wait := .seam j.toNat (s.clockOf w.core) t } := by
  have hbit := seamArrive_bit h.path hE (getD w.regs.seamW 0 j.toNat)
  have hstay : getD (seamWaitWave s w j.toNat t).regs.seamW 0 j.toNat ≠ getD w.regs.seamE 0 j.toNat := by
    rw [seamWaitWave_seamW, getD_setD_of_ne _ _ (by rintro e; rw [e] at hbit; simp at hbit)]
    exact hne
  obtain ⟨s', hexec, hwave⟩ := seamWait_stays h j t (.inr hstay)
  have hlane := seamWaitWave_lane h j.toNat t
  rw [if_pos hE] at hlane
  exact ⟨s', _, hexec, hwave, seamWaitWave_seamE .., seamWaitWave_seamW .., hlane⟩

theorem seamWait_clears (hE : (getD w.regs.seamE 0 j.toNat).getLsbD th.lane = true)
    (heq : getD w.regs.seamW 0 j.toNat ||| (s.curMask &&& getD w.regs.seamE 0 j.toNat) = getD w.regs.seamE 0 j.toNat)
    (hc : canonical (0 : Word) w.regs.seamW = true) (hno : th.wait = .no) :
    ∃ s' w', exec (.seamWait j t) s = .next s' ∧ s'.wave? w.core w.slot = some w' ∧
      w'.regs.seamE = setD w.regs.seamE 0 j.toNat 0 ∧ getD w'.regs.seamW 0 j.toNat = 0 ∧ w'.lane? th.lane = some (th.after 4 t) ∧
      ∀ u k since b, w.lane? u = some k → u ∉ s.cur.lanes → (getD w.regs.seamE 0 j.toNat).getLsbD u = true → k.wait = .seam j.toNat since b →
        w'.lane? u = some ({ k with wait := .no }.after 4 b) := by
  obtain ⟨s', hexec, hwave⟩ := seamWait_wave h j t
  have hclear : getD (seamWaitWave s w j.toNat t).regs.seamE 0 j.toNat ≠ 0 ∧
      getD (seamWaitWave s w j.toNat t).regs.seamW 0 j.toNat = getD (seamWaitWave s w j.toNat t).regs.seamE 0 j.toNat := by
    rw [seamWaitWave_seamE, seamWaitWave_seamW, heq, getD_setD_same _ _ _ _ hc]
    exact ⟨fun e => by rw [e] at hE; simp at hE, rfl⟩
  have hbit : ∀ {u}, (getD w.regs.seamE 0 j.toNat).getLsbD u = true → (getD (seamWaitWave s w j.toNat t).regs.seamW 0 j.toNat).getLsbD u = true := by
    rw [hclear.2, seamWaitWave_seamE]
    exact id
  refine ⟨s', _, hexec, hwave, ?_, ?_, ?_, fun u k since b hu hbeside hu' hk => ?_⟩
  · rw [Wave.seamCheck_clear hclear.1 hclear.2]
    exact congrArg (fun m => setD m 0 j.toNat 0) (seamWaitWave_seamE ..)
  · rw [Wave.seamCheck_clear hclear.1 hclear.2]
    refine (getD_setD_same (seamWaitWave s w j.toNat t).regs.seamW 0 j.toNat 0 ?_ :)
    rw [seamWaitWave_seamW]
    exact canonical_setD _ _ _ _ hc
  · rw [Wave.seamCheck_lane (seamWaitWave_lane h j.toNat t), if_pos hE, if_pos ⟨hclear, hbit hE⟩, Thread.leaveSeam_of_hold hno]
  · have hthere := laneWave_lane_beside s t (seamWaitOut j.toNat (s.clockOf s.cur.core) t) hu hbeside (fun _ _ => seamWaitOut_lane ..)
    rw [Wave.seamCheck_lane (w := seamWaitWave s w j.toNat t) hthere, if_pos ⟨hclear, hbit hu'⟩, Thread.leaveSeam_waiting hk]

theorem seamLeave_lane (hcE : canonical (0 : Word) w.regs.seamE = true) (hcW : canonical (0 : Word) w.regs.seamW = true)
    (hstay : getD w.regs.seamE 0 j.toNat &&& ~~~s.curMask = 0 ∨
      getD w.regs.seamW 0 j.toNat &&& ~~~s.curMask ≠ getD w.regs.seamE 0 j.toNat &&& ~~~s.curMask) :
    ∃ s' w', exec (.seamLeave j t) s = .next s' ∧ s'.wave? w.core w.slot = some w' ∧
      getD w'.regs.seamE 0 j.toNat = getD w.regs.seamE 0 j.toNat &&& ~~~s.curMask ∧
      getD w'.regs.seamW 0 j.toNat = getD w.regs.seamW 0 j.toNat &&& ~~~s.curMask ∧ w'.lane? th.lane = some (th.after s.cur.len t) := by
  have hw := State.perLane_curWave h.wave t (fun _ u => .next u)
  have hwave := State.onCur_wave hw (g := fun v => v.seamLeave j.toNat s.curMask) (fun v => Wave.seamLeave_place _ _ _)
  rw [laneWave_core, laneWave_slot] at hwave
  refine ⟨_, _, rfl, hwave, ?_, ?_, ?_⟩
  all_goals rw [Wave.seamLeave_eq (by rwa [laneWave_seamE]) (by rwa [laneWave_seamW]) (by rwa [laneWave_seamE, laneWave_seamW])]
  · simp only [laneWave_seamE]
    exact getD_setD_same _ _ _ _ hcE
  · simp only [laneWave_seamW]
    exact getD_setD_same _ _ _ _ hcW
  · exact laneWave_advance s t h.lane h.path
end

/-- What the timeout of a seam makes of its wave. -/
def State.seamTimeout (s : State) (c ln : Nat) (w : Wave) : Wave :=
  match w.lane? ln with
  | some t =>
    match t.wait with
    | .seam j since _ =>
      if 4096 ≤ s.clockOf c - since ∧ !((s.gangOf w.blk).map (fun g => g.stop)).getD false then (w.onLane ln (fun t => t.leaveSeam j)).seamLeave j (1#32 <<< ln) else w
    | _ => w
  | none => w

theorem State.seamTimeout_place (s : State) (c ln : Nat) (w : Wave) : (s.seamTimeout c ln w).core = w.core ∧ (s.seamTimeout c ln w).slot = w.slot := by
  unfold State.seamTimeout
  split
  · split
    · split
      · exact Wave.seamLeave_place _ _ _
      · exact ⟨rfl, rfl⟩
    · exact ⟨rfl, rfl⟩
  · exact ⟨rfl, rfl⟩

theorem execSeamWaitTimeout_eq (c sl ln : Nat) (s : State) : exec (.seamWaitTimeout c sl ln) s = .next (s.onWave c sl (s.seamTimeout c ln)) := rfl

theorem seamTimeout_lane {s : State} {w : Wave} {th : Thread} (j : BitVec 3) {since : Nat} {b : Bool}
    (hcE : canonical (0 : Word) w.regs.seamE = true) (hcW : canonical (0 : Word) w.regs.seamW = true)
    (hw : s.wave? w.core w.slot = some w) (hl : w.lane? th.lane = some th) (hwait : th.wait = .seam j.toNat since b)
    (hrun : s.gangOf w.blk = none ∨ ∃ g, s.gangOf w.blk = some g ∧ g.stop = false) (hlong : 4096 ≤ s.clockOf w.core - since)
    (hstay : getD w.regs.seamE 0 j.toNat &&& ~~~(1#32 <<< th.lane) = 0 ∨
      getD w.regs.seamW 0 j.toNat &&& ~~~(1#32 <<< th.lane) ≠ getD w.regs.seamE 0 j.toNat &&& ~~~(1#32 <<< th.lane)) :
    ∃ s' w', exec (.seamWaitTimeout w.core w.slot th.lane) s = .next s' ∧ s'.wave? w.core w.slot = some w' ∧
      getD w'.regs.seamE 0 j.toNat = getD w.regs.seamE 0 j.toNat &&& ~~~(1#32 <<< th.lane) ∧
      getD w'.regs.seamW 0 j.toNat = getD w.regs.seamW 0 j.toNat &&& ~~~(1#32 <<< th.lane) ∧
      w'.lane? th.lane = some ({ th with wait := .no }.after 4 b) := by
  have hwave := State.wave?_onWave s w.core w.slot (s.seamTimeout w.core th.lane) (s.seamTimeout_place _ _)
  have hgoes : ((s.gangOf w.blk).map (fun g => g.stop)).getD false = false := by
    rcases hrun with hg | ⟨g, hg, hstop⟩
    · rw [hg]
      rfl
    · rw [hg]
      exact hstop
  rw [hw, Option.map_some] at hwave
  have hleaves : s.seamTimeout w.core th.lane w = (w.onLane th.lane (fun t => t.leaveSeam j.toNat)).seamLeave j.toNat (1#32 <<< th.lane) := by
    unfold State.seamTimeout
    simp only [hl, hwait, hlong, hgoes, Bool.not_false, and_self, if_true]
  rw [hleaves, Wave.seamLeave_eq (w := w.onLane th.lane (fun t => t.leaveSeam j.toNat)) hcE hcW hstay] at hwave
  refine ⟨_, _, execSeamWaitTimeout_eq _ _ _ s, hwave, getD_setD_same _ _ _ _ hcE, getD_setD_same _ _ _ _ hcW, ?_⟩
  rw [← Thread.leaveSeam_waiting hwait]
  refine (lane_find_map w.lanes th.lane _ (fun t => ?_)).trans ?_
  · split
    · exact t.leaveSeam_lane _
    · rfl
  · rw [show w.lanes.find? (fun t => t.lane == th.lane) = some th from hl]
    simp

/-- Settles O12: each function of a seam by the lemma of its own above. -/
theorem seams : Obligations.Seams := by
  unfold Obligations.Seams
  refine ⟨?functions, ?leaves⟩
  case functions =>
    intro j t s w th h E W W1
    exact ⟨seamEnrol_lane h j t, fun d hr => seamSmask_lane h j t d hr, fun hE _ => seamWait_unenrolled h j t hE, fun hE hne => seamWait_waits h j t hE hne,
      fun hE heq hc _ hno => seamWait_clears h j t hE heq hc hno⟩
  case leaves =>
    intro j s w th E W hcE hcW
    exact ⟨fun t h hstay => seamLeave_lane h j t hcE hcW hstay,
      fun since b hw hl _ hwait hrun hlong hstay => seamTimeout_lane j hcE hcW hw hl hwait hrun hlong hstay⟩

end Sys2Proof.Machine
end

section
/-! PROOFS. The end of a lane, regions and user traps, special registers, MISC (spec/07 R131, spec/10 R209, R214 to R217, R225 to R227): O14, O16 and
O17 hold; O13 and O18 fail at paths that name a lane their wave does not have, or one lane twice. -/

namespace Sys2Proof.Machine
open Sys2Proof.Claims

/-! ## A placed path -/

/-- The placed state (spec/22 R321) with one wave, of which the lanes of a list issue. -/
def placedPath (w : Wave) (ls : List Nat) : State :=
  { State.reset.place [] with waves := [w], cur := ⟨0, 0, placeVa, 4, ls, false⟩, agenda := [] }
/-- A live lane that stands at the placed instruction. -/
def placedLane (l : Nat) : Thread := Thread.start l true placeVa

/-- What an outcome leaves is its state. -/
theorem Res.eq_get {r : Res} {s s' : State} (h : r = .next s') : s' = r.get s := by rw [h]; rfl

/-! ## O13 -/

/-- Lanes 0 and 1; lane 5, which the wave does not have, is enrolled in seam 0. -/
def absentEnrolled : Wave :=
  { placeWave with lanes := [placedLane 0, placedLane 1], regs := { placeWave.regs with seamE := [(0, 32#32)] } }

/-- Refutes O13: nothing in the statement says that the lanes of the path are lanes of the wave. Lane 5, named by the path and not there, does
not exit, and its bit of seam 0 stays. -/
theorem not_exitEnds : ¬ Obligations.ExitEnds := by
  unfold Obligations.ExitEnds
  intro h
  obtain ⟨s', hexec, -, -, hseams, -⟩ := h false (placedPath absentEnrolled [0, 5]) absentEnrolled (placedLane 0) ⟨rfl, rfl, .head _⟩ (by decide +kernel)
  have hstays : (s'.wave? 0 0).map (fun v => getD v.regs.seamE 0 0 &&& (placedPath absentEnrolled [0, 5]).curMask) = some 32#32 := by
    rw [Res.eq_get (s := placedPath absentEnrolled [0, 5]) hexec]
    decide +kernel
  obtain ⟨v, hv, hbit⟩ := Option.map_eq_some_iff.mp hstays
  have hzero := (hseams v hv (by decide) (by decide) 0 (by decide)).1
  exact absurd (hbit.symm.trans hzero) (by decide)

/-! ## O18 -/

/-- A lane that re-executes with two marks of it at the placed instruction still in the log. -/
def markedTwice : Wave :=
  { placeWave with
    lanes := [placedLane 0]
    lining := some ⟨0, placeWave.regs, [], [], [.effect 0 placeVa 0, .effect 0 placeVa 0], [], false⟩ }

/-- Refutes O18: nothing in the statement says that the path names a lane once. A PMARK of a path that names lane 0 twice, in a re-execution with
two of its marks in the log, passes the lane twice. -/
theorem not_advances : ¬ Obligations.Advances := by
  unfold Obligations.Advances
  intro h
  obtain ⟨-, -, -, -, hpmark⟩ := h.1 (placedPath markedTwice [0, 0]) markedTwice (placedLane 0) false ⟨rfl, rfl, .head _⟩
  obtain ⟨s', hexec, hlane, -⟩ := hpmark 127 (by unfold State.regsOk; decide +kernel)
  have hpc := congrArg (Option.map (fun u => u.pc)) hlane
  rw [Res.eq_get (s := placedPath markedTwice [0, 0]) hexec] at hpc
  exact absurd hpc (by decide +kernel)

/-! ## O16: taking a user trap -/

/-- No value that an SWR has replaced is kept: a register of the wave reads as it stands. -/
theorem WaveRegs.implicit_settled {r : WaveRegs} (h : r.old = []) (s : State) (n : Nat) (new : Dword) : r.implicit s n new = new := by
  simp [WaveRegs.implicit, h]

/-- What a user trap leaves where `$utvec` is 0: a throw of the cause's class and code. -/
theorem Thread.trap_throws {s : State} {r : WaveRegs} (hold : r.old = []) (hv : r.utvec = 0) (t : Thread) (cause : Word) (epc : Dword) :
    Thread.trap s r t cause epc = { t with
      ucause := cause, uepc := clearBit0 epc, endChk := false
      wait := .thrown ⟨cause.toNat % 256, BitVec.ofNat 32 (cause.toNat / 256 % 128), epc, s.cycles, s.free⟩ } := by
  simp only [Thread.trap, WaveRegs.utvec?, WaveRegs.implicit_settled hold, hv, if_true, Thread.throws]

/-- The park of a tack, field by field. -/
theorem Thread.park_eq (t : Thread) :
    t.park = { t with marks := if t.outstanding = true then t.marks else [], wait := if t.outstanding = true then .tack else t.wait } := by
  unfold Thread.park
  cases t.outstanding <;> rfl

/-- What it leaves elsewhere: the thread in its handler. -/
theorem Thread.trap_enters {s : State} {r : WaveRegs} (hold : r.old = []) (hv : r.utvec ≠ 0) (t : Thread) (cause : Word) (epc : Dword) :
    Thread.trap s r t cause epc = { t with
      ucause := cause, uepc := clearBit0 epc, endChk := false, handler := true, hsilent := t.hsilent || cause.toNat % 256 == 10
      suspended := if t.handler = true then t.suspended else t.loops
      loops := [], pc := clearBit0 r.utvec
      marks := if t.outstanding = true then t.marks else [], wait := if t.outstanding = true then .tack else t.wait } := by
  simp only [Thread.trap, WaveRegs.utvec?, WaveRegs.implicit_settled hold, hv, if_false, Thread.park_eq]
  rfl

/-- A cause below 2^15 of another class than SILENT, at an even address: both in the words of R214. -/
def Traps.Enters (s : State) (w : Wave) (th u : Thread) (cause : Nat) (epc : Dword) : Prop :=
  if w.regs.utvec = 0 then
    u = { th with ucause := BitVec.ofNat 32 cause, uepc := epc, endChk := false, wait := .thrown ⟨cause % 256, BitVec.ofNat 32 (cause / 256), epc, s.cycles, s.free⟩ }
  else u = { th with ucause := BitVec.ofNat 32 cause, uepc := epc, endChk := false, handler := true, hsilent := th.hsilent,
                     suspended := if th.handler = true then th.suspended else th.loops, loops := [], pc := w.regs.utvec &&& ~~~1#64,
                     marks := if th.outstanding = true then th.marks else [], wait := if th.outstanding = true then .tack else th.wait }

theorem Thread.trap_enters_handler {s : State} {w : Wave} (hold : w.regs.old = []) (th : Thread) {cause : Nat} (hcause : cause < 2 ^ 15)
    (hclass : cause % 256 ≠ 10) {epc : Dword} (heven : epc.getLsbD 0 = false) :
    Traps.Enters s w th (Thread.trap s w.regs th (BitVec.ofNat 32 cause) epc) cause epc := by
  have hnat : (BitVec.ofNat 32 cause).toNat = cause := by
    rw [BitVec.toNat_ofNat]
    exact Nat.mod_eq_of_lt (by omega)
  have hcode : cause / 256 % 128 = cause / 256 := Nat.mod_eq_of_lt (by omega)
  unfold Traps.Enters
  split
  · next hv => rw [Thread.trap_throws hold hv, hnat, hcode, clearBit0_getLsbD_zero heven]
  · next hv =>
    have hsilent : (th.hsilent || cause % 256 == 10) = th.hsilent := by simp [hclass]
    rw [Thread.trap_enters hold hv, hnat, clearBit0_getLsbD_zero heven, hsilent]
    rfl

/-- The cause of a TRAP: class 11 and the code. -/
theorem trapCause_eq (c : BitVec 7) : 11#32 + (c.setWidth 32 <<< 8) = BitVec.ofNat 32 (11 + c.toNat * 2 ^ 8) := by
  refine BitVec.eq_of_toNat_eq ?_
  have hc := c.isLt
  simp only [BitVec.toNat_add, BitVec.toNat_shiftLeft, BitVec.toNat_setWidth, BitVec.toNat_ofNat, Nat.shiftLeft_eq]
  omega

/-! ## O16: returning from a user trap -/

/-- Whether a thread may execute URETRY. -/
def Thread.mayRetry (s : State) (th : Thread) : Bool :=
  th.handler && (if th.marks.elem (markSpecial 0x062) then th.undefined s 3004 else th.ucause).toNat % 256 == 10

theorem Thread.mayRetry_wrong {s : State} {th : Thread} (h : th.handler = false ∨ 1122 ∉ th.marks ∧ th.ucause.toNat % 256 ≠ 10) : th.mayRetry s = false := by
  unfold Thread.mayRetry
  rcases h with h | ⟨hm, hc⟩
  · simp [h]
  · simp [markSpecial, hm, hc]

theorem Thread.mayRetry_silent {s : State} {th : Thread} (h : th.handler = true) (hm : 1122 ∉ th.marks) (hc : th.ucause.toNat % 256 = 10) :
    th.mayRetry s = true := by
  simp [Thread.mayRetry, markSpecial, h, hm, hc]

/-- What a URETRY makes of a lane, but for the re-execution of a lined wave. -/
def uretryOut (s : State) (w : Wave) (th : Thread) : Out :=
  if !th.mayRetry s then .trap th cILLOP else if w.lining.isSome then .hold th th.wait else .land (th.unlinedRetry s)

theorem uretryOut_lane (s : State) (w : Wave) (th : Thread) : (uretryOut s w th).thread.lane = th.lane := by
  unfold uretryOut
  split
  · rfl
  · split <;> rfl

theorem exec_uretry {s : State} {w : Wave} (hw : s.curWave = some w) (t : Bool) :
    exec (.uretry t) s = .next (if w.lining.isSome && w.lanes.any (fun th => s.cur.lanes.elem th.lane && th.mayRetry s)
      then (s.perLane t (uretryOut s)).retry w.core w.slot else s.perLane t (uretryOut s)) := by
  show execUretry t s = _
  unfold execUretry
  simp only [hw]
  rfl

section
variable {s : State} {w : Wave} {th : Thread} (h : s.OnPath w th)
include h

theorem uret_lane (t : Bool) : ∃ s', exec (.uret t) s = .next s' ∧
    (th.handler = false ∨ th.hsilent = true → s'.lane? w.core w.slot th.lane = some (Thread.trap s w.regs th cILLOP th.pc)) ∧
    (th.handler = true → th.hsilent = false → s'.lane? w.core w.slot th.lane = some ((th.uret s).tackIf t)) := by
  obtain ⟨s', hexec, hlane⟩ := State.exec_perLane (i := .uret t) rfl h (fun v u => by split <;> rfl)
  refine ⟨s', hexec, fun hbad => hlane.trans (congrArg some ?_), fun hh hs => hlane.trans (congrArg some ?_)⟩
  · rw [if_pos (by rcases hbad with e | e <;> simp [e])]
    rfl
  · rw [if_neg (by simp [hh, hs])]
    rfl

/-- A URETRY after which no lane goes back to a checkpoint. -/
theorem uretry_stays (t : Bool) (hno : w.lining = none ∨ ∀ u ∈ w.lanes, u.lane ∈ s.cur.lanes → u.mayRetry s = false) :
    ∃ s', exec (.uretry t) s = .next s' ∧ s'.lane? w.core w.slot th.lane = some ((uretryOut s w th).apply s w.regs s.cur.len t) := by
  refine ⟨_, exec_uretry h.wave t, ?_⟩
  rw [if_neg]
  · exact State.perLane_lane h t _ (uretryOut_lane s)
  · rcases hno with hl | hall
    · simp [hl]
    · simp only [Bool.and_eq_true, List.any_eq_true, not_and, not_exists, Bool.not_eq_true]
      intro _ u hu hp
      exact hall u hu (by simpa using hp)

omit h in
@[simp] theorem Thread.passBarrier_lane (t : Thread) (k phase sc : Nat) : (t.passBarrier s k phase sc).lane = t.lane := by
  unfold Thread.passBarrier
  split
  · split
    · exact Thread.tackIf_lane ..
    · rfl
  · rfl

omit h in
@[simp] theorem laneWave_lining (f : Wave → Thread → Out) (t : Bool) (v : Wave) : (laneWave s t f v).lining = v.lining := by
  unfold laneWave
  dsimp only
  split <;> rfl

omit h in
/-- A re-execution from a checkpoint with no failed MMA: the lanes are those of the checkpoint, none of them aged. -/
theorem State.retry_lane {w : Wave} (hw : s.wave? w.core w.slot = some w) {l : Lining} {c : Thread} (hl : w.lining = some l)
    (hsaved : l.saved = []) (hc : l.ckLanes.find? (fun x => x.lane == c.lane) = some c) (hbar : ∀ k b, c.wait ≠ .barrier k b) :
    (s.retry w.core w.slot).lane? w.core w.slot c.lane = some { c with age := 0 } := by
  unfold State.retry
  simp only [hw, Option.bind_some, hl, hsaved, List.foldl_nil]
  refine Option.bind_eq_some_iff.mpr
    ⟨_, (State.wave?_onWave s w.core w.slot _ (by exact fun _ => ⟨rfl, rfl⟩)).trans (congrArg (Option.map _) hw), ?_⟩
  refine (lane_find_map l.ckLanes c.lane _ (fun t => ?_)).trans ?_
  · split
    · exact Thread.passBarrier_lane ..
    · rfl
  · rw [hc, Option.map_some]
    split
    · next k b hwait => exact absurd hwait (hbar k b)
    · rfl

/-- URETRY puts the lanes of a lined wave back to the checkpoint (spec/27 R391). -/
theorem uretry_goesBack (t : Bool) {l : Lining} {c : Thread} (hl : w.lining = some l) (hgo : th.mayRetry s = true) (hsaved : l.saved = [])
    (hc : l.ckLanes.find? (fun x => x.lane == c.lane) = some c) (hbar : ∀ k b, c.wait ≠ .barrier k b) :
    ∃ s', exec (.uretry t) s = .next s' ∧ s'.lane? w.core w.slot c.lane = some { c with age := 0 } := by
  refine ⟨_, exec_uretry h.wave t, ?_⟩
  have hany : w.lanes.any (fun u => s.cur.lanes.elem u.lane && u.mayRetry s) = true :=
    List.any_eq_true.mpr ⟨th, List.mem_of_find?_eq_some h.lane, by rw [hgo, List.elem_eq_true_of_mem h.path]; rfl⟩
  rw [if_pos (by rw [hl, hany]; rfl)]
  have hwave := State.perLane_wave h.wave t (uretryOut s)
  have hback := State.retry_lane (s := s.perLane t (uretryOut s)) (w := laneWave s t (uretryOut s) w) (by rw [laneWave_core, laneWave_slot]; exact hwave)
    ((laneWave_lining ..).trans hl) hsaved hc hbar
  rwa [laneWave_core, laneWave_slot] at hback
end

/-- Settles O16: a trap taken, by its cause and address; URET and URETRY by the lemmas of their own above. -/
theorem traps : Obligations.Traps := by
  unfold Obligations.Traps
  refine ⟨?taken, ?returned⟩
  case taken =>
    intro s w th h hold enters even hpc hnext
    refine ⟨fun c t => ?trap, fun i hi => ?ill⟩
    case trap =>
      obtain ⟨s', hexec, hlane⟩ := State.exec_perLane (i := .trap c t) rfl h (fun _ _ => rfl)
      refine ⟨s', _, hexec, hlane, ?_⟩
      rw [trapCause_eq]
      exact Thread.trap_enters_handler hold th (by have := c.isLt; omega) (by omega) hnext
    case ill =>
      have hill : exec i s = .next (s.perLane false (fun _ u => .trap u cILLOP)) := by
        simp only [List.mem_cons, List.not_mem_nil, or_false] at hi
        rcases hi with rfl | rfl | rfl <;> rfl
      obtain ⟨s', hexec, hlane⟩ := State.exec_perLane hill h (fun _ _ => rfl)
      exact ⟨s', _, hexec, hlane, Thread.trap_enters_handler hold th (by decide) (by decide) hpc⟩
  case returned =>
    intro s w th t h hno
    refine ⟨?uret, ?uretry⟩
    case uret =>
      obtain ⟨s', hexec, hbad, hgood⟩ := uret_lane h t
      refine ⟨s', hexec, hbad, fun hh hs hm he => ⟨_, hgood hh hs, ?_⟩⟩
      have hpc : (th.uret s).pc = th.uepc := by
        simp only [Thread.uret]
        rw [if_neg (by simpa [markSpecial] using hm), clearBit0_getLsbD_zero he]
      unfold Thread.tackIf Thread.park
      split
      · split <;> exact ⟨hpc, rfl, rfl, rfl, rfl, rfl, rfl⟩
      · exact ⟨hpc, rfl, rfl, rfl, rfl, rfl, rfl⟩
    case uretry =>
      by_cases hback : w.lining = none ∨ ∀ u ∈ w.lanes, u.lane ∈ s.cur.lanes → u.mayRetry s = false
      · obtain ⟨s', hexec, hlane⟩ := uretry_stays h t hback
        refine ⟨s', hexec, fun hw _ => ?_, fun hh hm hc hl => ?_, fun l c hl hh hm hc _ _ _ => ?_⟩
        · rw [hlane, uretryOut, if_pos (by rw [Thread.mayRetry_wrong hw]; rfl)]
          rfl
        · rw [uretryOut, if_neg (by rw [Thread.mayRetry_silent hh hm hc]; decide), if_neg (by rw [hl]; exact Bool.false_ne_true)] at hlane
          refine ⟨_, hlane, ?_⟩
          simp only [Out.apply, Thread.tackIf, Thread.park_eq]
          cases t <;> exact ⟨rfl, rfl, rfl, rfl, rfl⟩
        · rcases hback with hnone | hall
          · rw [hl] at hnone
            cases hnone
          · have hno := hall th (List.mem_of_find?_eq_some h.lane) h.path
            rw [Thread.mayRetry_silent hh hm hc] at hno
            cases hno
      · push Not at hback
        obtain ⟨hlined, u, hu, hpath, hretry⟩ := hback
        refine ⟨_, exec_uretry h.wave t, fun hw hall => ?_, fun _ _ _ hl => absurd hl hlined, fun l c hl hh hm hc hsaved hfind hbar => ?_⟩
        · rcases hall with hl | hall
          · exact absurd hl hlined
          · rw [Thread.mayRetry_wrong (hall u hu hpath)] at hretry
            exact absurd rfl hretry
        · obtain ⟨s', hexec, hlane⟩ := uretry_goesBack h t hl (Thread.mayRetry_silent hh hm hc) hsaved hfind hbar
          rw [exec_uretry h.wave t] at hexec
          cases hexec
          exact hlane

/-! ## O17 -/

/-- The registers of the map that have 64 bits. -/
theorem wideSpecial_iff (n : Nat) : wideSpecial n = true ↔ n = 0x009 ∨ n = 0x044 ∨ n = 0x060 ∨ n = 0x061 := by
  simp [wideSpecial, or_assoc]

/-- The registers that SRD or SWR of a number names. -/
def specialRegs (n r : Nat) : List Nat := if n = 0x009 ∨ n = 0x044 ∨ n = 0x060 ∨ n = 0x061 then [r, r + 1] else [r]

theorem specialRegs_eq (n r : Nat) : (if wideSpecial n = true then [r, r + 1] else [r]) = specialRegs n r := by
  simp only [wideSpecial_iff, specialRegs]

/-- A special register's value written to the register, or the pair, of an SRD. -/
def Thread.takesSpecial (s : State) (th : Thread) (d n : Nat) (v : Dword) : Thread :=
  if n = 0x009 ∨ n = 0x044 ∨ n = 0x060 ∨ n = 0x061 then th.setPair s d v else th.setG s d (v.setWidth 32)

theorem Thread.takesSpecial_eq (s : State) (th : Thread) (d n : Nat) (v : Dword) :
    (if wideSpecial n = true then th.setPair s d v else th.setG s d (v.setWidth 32)) = th.takesSpecial s d n v := by
  simp only [wideSpecial_iff, Thread.takesSpecial]

@[simp] theorem Thread.takesSpecial_lane (s : State) (th : Thread) (d n : Nat) (v : Dword) : (th.takesSpecial s d n v).lane = th.lane := by
  unfold Thread.takesSpecial
  split <;> rfl

/-- The value an SRD writes: undefined while the thread's own write is outstanding (spec/02 R39). -/
def Thread.specialRead (s : State) (th : Thread) (n : Nat) (v : Dword) : Dword :=
  if th.specialPending n then th.undefined s (3100 + 2 * (n % 256)) ++ th.undefined s (3101 + 2 * (n % 256)) else v

/-- What an SRD makes of a lane. -/
def srdOut (s : State) (d n : Nat) (w : Wave) (th : Thread) : Out :=
  match s.special w th n with
  | none => .trap th cILLOP
  | some v => .next (th.takesSpecial s d n (th.specialRead s n v))

theorem srdOut_lane (s : State) (d n : Nat) (w : Wave) (th : Thread) : (srdOut s d n w th).thread.lane = th.lane := by
  unfold srdOut
  split
  · rfl
  · exact Thread.takesSpecial_lane ..

theorem exec_srd (s : State) (d : Reg) (n : BitVec 10) (t : Bool) (hn : ¬(n.toNat = 0x005 ∨ n.toNat = 0x006 ∨ n.toNat = 0x009)) :
    exec (.srd d n t) s = .next (s.lanes (specialRegs n.toNat d.toNat) t (srdOut s d.toNat n.toNat)) := by
  show execSrd d n t s = _
  unfold execSrd
  simp only [if_neg hn, specialRegs_eq, Thread.takesSpecial_eq]
  rfl

/-- Lanes of the path acting alone, where they are the path. -/
theorem State.within_cur {s : State} {ls : List Nat} (h : s.cur.lanes = ls) (f : State → State) (hf : (f s).cur = s.cur) : s.within ls f = f s := by
  have hcur : ({ s with cur := { s.cur with lanes := ls } } : State) = s := by
    rw [← h]
  rw [State.within, hcur, ← hf]

theorem OnlyLogged.cur {s u : State} {w : Wave} (h : OnlyLogged s u w) : u.cur = s.cur := by
  obtain ⟨ws, rfl⟩ := h.state
  rfl

/-- A value from outside the wave, taken by the one lane of a path in a wave that is not re-executing. -/
theorem State.outside_takes {s : State} {w : Wave} {th : Thread} (h : s.OnPath w th) (hone : s.cur.lanes = [th.lane]) (hf : w.fresh) (t : Bool)
    (g : Thread → Dword → Thread) (hg : ∀ u v, (g u v).lane = u.lane) (v : Dword) :
    ((s.outside th.lane v).1.within [th.lane] (fun k => k.perLane t (fun _ u => .next (g u (s.outside th.lane v).2)))).lane? w.core w.slot th.lane =
      some ((g th v).after s.cur.len t) := by
  obtain ⟨hlogged, hval⟩ := (OnlyLogged.refl h.wave hf).outside th.lane v
  obtain ⟨l, hpath⟩ := hlogged.onPath h
  rw [hval, State.within_cur (by rw [hlogged.cur, hone]) _ (State.perLane_cur hpath.wave ..)]
  refine (State.perLane_lane hpath t (fun _ u => .next (g u v)) (fun _ u => hg u v)).trans (congrArg some ?_)
  rw [hlogged.apply, Out.apply_next]

theorem Wave.fresh_of_unlined {w : Wave} (h : w.lining = none) : w.fresh := fun l hl => by
  rw [h] at hl
  cases hl

section
variable {s : State} {w : Wave} {th : Thread} (h : s.OnPath w th) (n : BitVec 10) (t : Bool)
include h

theorem srd_lane (d : Reg) (hr : s.regsOk (specialRegs n.toNat d.toNat)) (hn : ¬(n.toNat = 0x005 ∨ n.toNat = 0x006 ∨ n.toNat = 0x009)) :
    ∃ s', exec (.srd d n t) s = .next s' ∧
      (s.special w th n.toNat = none → s'.lane? w.core w.slot th.lane = some (Thread.trap s w.regs th cILLOP th.pc)) ∧
      ∀ v, s.special w th n.toNat = some v → th.specialPending n.toNat = false →
        s'.lane? w.core w.slot th.lane = some ((th.takesSpecial s d.toNat n.toNat v).after s.cur.len t) := by
  obtain ⟨s', hexec, hlane⟩ := State.exec_lanes (exec_srd s d n t hn) h hr (srdOut_lane s _ _)
  refine ⟨s', hexec, fun hnone => ?_, fun v hv hp => ?_⟩
  · rw [hlane, srdOut, hnone]
    rfl
  · have hread : th.specialRead s n.toNat v = v := if_neg (by rw [hp]; exact Bool.false_ne_true)
    rw [hlane, srdOut, hv]
    dsimp only
    rw [hread]
    exact congrArg some (Out.apply_next ..)

theorem srdOutside_lane (d : Reg) (hone : s.cur.lanes = [th.lane]) (hl : w.lining = none) (hr : s.regsOk (specialRegs n.toNat d.toNat))
    (hn : n.toNat = 0x005 ∨ n.toNat = 0x006 ∨ n.toNat = 0x009) {v : Dword} (hv : s.special w th n.toNat = some v) :
    ∃ s', exec (.srd d n t) s = .next s' ∧
      s'.lane? w.core w.slot th.lane = some ((th.takesSpecial s d.toNat n.toNat v).after s.cur.len t) := by
  have hlane : s.lane? s.cur.core s.cur.slot th.lane = some th := by
    refine Option.bind_eq_some_iff.mpr ⟨w, h.wave, h.lane⟩
  refine ⟨_, rfl, ?_⟩
  show (execSrd d n t s |>.get s).lane? w.core w.slot th.lane = _
  unfold execSrd
  simp only [if_pos hn, readOutside, specialRegs_eq, State.withRegs_ok hr, hone, List.foldl_cons, List.foldl_nil, h.wave, hlane, hv, Thread.takesSpecial_eq]
  exact State.outside_takes h hone (Wave.fresh_of_unlined hl) t (fun u x => u.takesSpecial s d.toNat n.toNat x) (fun u x => u.takesSpecial_lane ..) v

/-- The lowest lane of the path. -/
theorem lowest_lane (hlow : (w.lanes.find? (fun x => s.cur.lanes.elem x.lane)).map (fun x => x.lane) = some th.lane) :
    w.lanes.find? (fun x => s.cur.lanes.elem x.lane) = some th := by
  obtain ⟨low, hfind, heq⟩ := Option.map_eq_some_iff.mp hlow
  rw [hfind]
  obtain ⟨hp, before, after, hsplit, hbefore⟩ := List.find?_eq_some_iff_append.mp hfind
  have hth : w.lanes.find? (fun x => x.lane == th.lane) = some th := h.lane
  rw [hsplit, List.find?_append] at hth
  have hnone : before.find? (fun x => x.lane == th.lane) = none := by
    rw [List.find?_eq_none]
    intro x hx he
    have hxl : x.lane = th.lane := by simpa using he
    have := hbefore x hx
    rw [hxl] at this
    simp [h.path] at this
  rw [hnone, Option.none_or, List.find?_cons_of_pos (by simpa using heq)] at hth
  exact hth

omit h in
/-- The value an SWR takes from a lane. -/
def Thread.specialValue (s : State) (a n : Nat) (th : Thread) : Dword :=
  if n = 0x009 ∨ n = 0x044 ∨ n = 0x060 ∨ n = 0x061 then th.pair? s a else (th.g? s a).setWidth 64

/-- What an SWR makes of a lane. -/
def Thread.specialWritten (s : State) (a n : Nat) (th : Thread) : Thread :=
  if laneSpecial n then th.setSpecial s n (th.specialValue s a n)
  else if waveSpecial n then { th with marks := markSpecial n :: th.marks } else th

omit h in
@[simp] theorem Thread.setSpecial_lane (m : Nat) (v : Dword) : (th.setSpecial s m v).lane = th.lane := by
  unfold Thread.setSpecial
  dsimp only
  split
  · rfl
  · split
    · rfl
    · split
      · rfl
      · split <;> rfl

omit h in
@[simp] theorem Thread.specialWritten_lane (a m : Nat) : (th.specialWritten s a m).lane = th.lane := by
  unfold Thread.specialWritten
  split
  · exact Thread.setSpecial_lane ..
  · split <;> rfl

/-- The value that an SWR of a register of the wave writes. -/
def swrValue (s : State) (w : Wave) (low : Thread) (a n : Nat) : Dword :=
  if w.lanes.any (fun u => s.cur.lanes.elem u.lane && u.specialPending n) then s.freeWord (8000000 + 2 * n) ++ s.freeWord (8000001 + 2 * n)
  else low.specialValue s a n

/-- The register of the wave written, where it is one. -/
def swrWave (s : State) (n : Nat) (v : Dword) (w : Wave) : Wave :=
  if waveSpecial n then { w with regs := w.regs.setSpecial s.cur.lanes n v } else w

omit h in
theorem exec_swr (hw : s.curWave = some w) {low : Thread} (hlow : w.lanes.find? (fun u => s.cur.lanes.elem u.lane) = some low) (a : Reg)
    (hr : s.regsOk (specialRegs n.toNat a.toNat)) :
    exec (.swr a n t) s = .next (if (s.special w low n.toNat).isNone then s.illop
      else (if waveSpecial n.toNat then s.onCur (fun v => { v with regs := v.regs.setSpecial s.cur.lanes n.toNat (swrValue s w low a.toNat n.toNat) }) else s).perLane t
        (fun _ u => .next (u.specialWritten s a.toNat n.toNat))) := by
  have hval : ∀ u : Thread, (if wideSpecial n.toNat = true then u.pair? s a.toNat else (u.g? s a.toNat).setWidth 64) = u.specialValue s a.toNat n.toNat := by
    intro u
    simp only [wideSpecial_iff, Thread.specialValue]
  show execSwr a n t s = _
  unfold execSwr
  simp only [specialRegs_eq, State.withRegs_ok hr, hw, hlow, hval]
  rfl

/-- Some lane of the path comes first. -/
theorem exists_lowest : ∃ low, w.lanes.find? (fun u => s.cur.lanes.elem u.lane) = some low := by
  refine Option.isSome_iff_exists.mp (List.find?_isSome.mpr ⟨th, List.mem_of_find?_eq_some h.lane, List.elem_eq_true_of_mem h.path⟩)

/-- A number that the map does not hold. -/
theorem swr_unmapped (a : Reg) (hr : s.regsOk (specialRegs n.toNat a.toNat)) (hone : s.cur.lanes = [th.lane]) (hnone : s.special w th n.toNat = none) :
    ∃ s', exec (.swr a n t) s = .next s' ∧ s'.lane? w.core w.slot th.lane = some (Thread.trap s w.regs th cILLOP th.pc) := by
  have hlow : w.lanes.find? (fun u => s.cur.lanes.elem u.lane) = some th := by
    have hth : w.lanes.find? (fun u => u.lane == th.lane) = some th := h.lane
    have hsame : (fun u : Thread => s.cur.lanes.elem u.lane) = fun u => u.lane == th.lane := by
      funext u
      rw [hone, Bool.eq_iff_iff]
      simp
    rw [hsame, hth]
  refine ⟨_, exec_swr n t h.wave hlow a hr, ?_⟩
  rw [if_pos (by rw [hnone]; rfl)]
  exact State.perLane_lane h false (fun _ u => .trap u cILLOP) (fun _ _ => rfl)

omit h in
/-- The registers of a thread that an SWR writes are mapped, and are none of the wave's. -/
theorem laneSpecial_mapped {m : Nat} (hm : laneSpecial m = true) : waveSpecial m = false ∧ ∀ u, (s.special w u m).isNone = false := by
  have hcases : m = 0x061 ∨ m = 0x062 ∨ m = 0x070 ∨ m = 0x072 ∨ m = 0x090 ∨ m = 0x091 ∨ m = 0x092 := by
    simp only [laneSpecial, Bool.or_eq_true, beq_iff_eq, Bool.and_eq_true, decide_eq_true_eq] at hm
    omega
  rcases hcases with rfl | rfl | rfl | rfl | rfl | rfl | rfl <;> exact ⟨rfl, fun _ => rfl⟩

/-- An SWR of a register of the thread, in a lane of the path. -/
theorem swr_thread (a : Reg) (hr : s.regsOk (specialRegs n.toNat a.toNat)) (hn : laneSpecial n.toNat = true) :
    ∃ s', exec (.swr a n t) s = .next s' ∧
      s'.lane? w.core w.slot th.lane = some ((th.setSpecial s n.toNat (th.specialValue s a.toNat n.toNat)).after s.cur.len t) := by
  obtain ⟨low, hlow⟩ := exists_lowest h
  obtain ⟨hwave, hmapped⟩ := laneSpecial_mapped (s := s) (w := w) hn
  refine ⟨_, exec_swr n t h.wave hlow a hr, ?_⟩
  rw [if_neg (by rw [hmapped]; exact Bool.false_ne_true), if_neg (by rw [hwave]; exact Bool.false_ne_true)]
  refine (State.perLane_lane h t (fun _ u => .next (u.specialWritten s a.toNat n.toNat)) (fun _ u => u.specialWritten_lane ..)).trans (congrArg some ?_)
  rw [Out.apply_next, Thread.specialWritten, if_pos hn]

omit h in
/-- What a lane-by-lane instruction keeps of the registers of its wave. -/
theorem laneWave_regs_field (s : State) (t : Bool) (f : Wave → Thread → Out) (v : Wave) {α : Type} (p : WaveRegs → α)
    (hp : ∀ r x y, p { r with tailrule := x, old := y } = p r) : p (laneWave s t f v).regs = p v.regs := by
  rw [← hp (laneWave s t f v).regs v.regs.tailrule v.regs.old, laneWave_regs]

omit h in
/-- The registers of the wave that an SWR writes are mapped. -/
theorem waveSpecial_mapped {m : Nat} (hm : waveSpecial m = true) (u : Thread) : (s.special w u m).isNone = false := by
  have hcases : m = 0x060 ∨ m = 0x071 ∨ m = 0x073 ∨ m = 0x074 ∨ m = 0x075 := by
    simp only [waveSpecial, Bool.or_eq_true, beq_iff_eq] at hm
    omega
  rcases hcases with rfl | rfl | rfl | rfl | rfl <;> rfl

/-- The wave after an SWR, where the lane comes first in the path and no earlier write is outstanding. -/
theorem swr_wave (a : Reg) (hr : s.regsOk (specialRegs n.toNat a.toNat)) (hlow : w.lanes.find? (fun u => s.cur.lanes.elem u.lane) = some th)
    (hsettled : ∀ u ∈ w.lanes, u.lane ∈ s.cur.lanes → u.specialPending n.toNat = false) :
    ∃ s' w', exec (.swr a n t) s = .next s' ∧ s'.wave? w.core w.slot = some w' ∧
      (waveSpecial n.toNat = true → ∀ {α : Type} (p : WaveRegs → α), (∀ r x y, p { r with tailrule := x, old := y } = p r) →
        p w'.regs = p (w.regs.setSpecial s.cur.lanes n.toNat (th.specialValue s a.toNat n.toNat))) := by
  have hvalue : swrValue s w th a.toNat n.toNat = th.specialValue s a.toNat n.toNat := by
    refine if_neg ?_
    simp only [List.any_eq_true, Bool.and_eq_true, not_exists, not_and, Bool.not_eq_true]
    intro u hu hp
    exact hsettled u hu (by simpa using hp)
  have hexec := exec_swr n t h.wave hlow a hr
  cases hmapped : (s.special w th n.toNat).isNone with
  | true =>
    rw [if_pos hmapped] at hexec
    refine ⟨_, _, hexec, State.perLane_wave h.wave _ _, fun hn => ?_⟩
    rw [waveSpecial_mapped hn] at hmapped
    cases hmapped
  | false =>
    rw [if_neg (by rw [hmapped]; exact Bool.false_ne_true)] at hexec
    cases hn : waveSpecial n.toNat with
    | false =>
      rw [if_neg (by rw [hn]; exact Bool.false_ne_true)] at hexec
      exact ⟨_, _, hexec, State.perLane_wave h.wave _ _, fun hyes => absurd hyes Bool.false_ne_true⟩
    | true =>
      rw [if_pos hn] at hexec
      have hw := State.curWave_onCur h.wave (f := fun v => { v with regs := v.regs.setSpecial s.cur.lanes n.toNat (swrValue s w th a.toNat n.toNat) })
        (fun _ => ⟨rfl, rfl⟩)
      refine ⟨_, _, hexec, State.perLane_wave hw _ _, fun _ α p hp => ?_⟩
      rw [← hvalue]
      exact laneWave_regs_field _ t _ _ p hp
end

/-- A word widened and cut back. -/
theorem setWidth_setWidth_word (x : Word) : ((x.setWidth 64 : Dword).setWidth 32 : Word) = x := by
  rw [BitVec.setWidth_setWidth_of_le _ (by decide), BitVec.setWidth_eq]

/-- The value of an SWR of a register of 32 bits. -/
theorem Thread.specialValue_narrow {n : Nat} (h : ¬(n = 0x009 ∨ n = 0x044 ∨ n = 0x060 ∨ n = 0x061)) (s : State) (a : Nat) (th : Thread) :
    th.specialValue s a n = (th.g? s a).setWidth 64 := if_neg h

section
variable {s : State} {th : Thread} (x : Word)
/-- Each register of a thread that an SWR writes, where no earlier write of it is outstanding. -/
theorem Thread.setSpecial_iflags (h : th.specialPending 0x070 = false) :
    th.setSpecial s 0x070 (x.setWidth 64) = { th with iflags := x &&& 3#32, marks := (1024 + 0x070) :: th.marks } := by
  simp [Thread.setSpecial, h, markSpecial, setWidth_setWidth_word]
theorem Thread.setSpecial_fflags (h : th.specialPending 0x072 = false) :
    th.setSpecial s 0x072 (x.setWidth 64) = { th with fflags := x &&& 0x1F#32, marks := (1024 + 0x072) :: th.marks } := by
  simp [Thread.setSpecial, h, markSpecial, setWidth_setWidth_word]
theorem Thread.setSpecial_ucause (h : th.specialPending 0x062 = false) :
    th.setSpecial s 0x062 (x.setWidth 64) = { th with ucause := x &&& 0x7FFF#32, marks := (1024 + 0x062) :: th.marks } := by
  simp [Thread.setSpecial, h, markSpecial, setWidth_setWidth_word]
theorem Thread.setSpecial_uepc (h : th.specialPending 0x061 = false) (v : Dword) :
    th.setSpecial s 0x061 v = { th with uepc := v &&& ~~~1#64, marks := (1024 + 0x061) :: th.marks } := by
  simp [Thread.setSpecial, h, markSpecial, clearBit0]
theorem Thread.setSpecial_lc {l : Nat} (h : th.specialPending (0x090 + l) = false) :
    th.setSpecial s (0x090 + l) (x.setWidth 64) = { th with lc := setD th.lc 0 l x, marks := (1024 + 0x090 + l) :: th.marks } := by
  have hne : ∀ k < 0x090, 0x090 + l ≠ k := by omega
  simp [Thread.setSpecial, h, markSpecial, setWidth_setWidth_word, hne]
  omega
end

/-- Settles O17: SRD by what it reads, SWR by where the register is. -/
theorem specialRegisters : Obligations.SpecialRegisters := by
  unfold Obligations.SpecialRegisters
  intro s w th n t h wide rs
  refine ⟨fun d hr hn => ?srd, fun d v hone hl hr hn hv => ?outside, fun a hr => ?swr⟩
  case srd =>
    exact srd_lane h n t d hr (by simpa using hn)
  case outside =>
    exact srdOutside_lane h n t d hone hl hr (by simpa using hn) hv
  case swr =>
    obtain ⟨low, hlow⟩ := exists_lowest h
    obtain ⟨s', hexec⟩ : ∃ s', exec (.swr a n t) s = .next s' := ⟨_, exec_swr n t h.wave hlow a hr⟩
    refine ⟨s', hexec, fun hnone hone => ?unmapped, fun hp => ?thread, fun hset hfirst => ?wave⟩
    case unmapped =>
      obtain ⟨_, hexec', hlane⟩ := swr_unmapped h n t a hr hone hnone
      rw [hexec] at hexec'
      cases hexec'
      exact hlane
    case thread =>
      have hlane : laneSpecial n.toNat = true →
          s'.lane? w.core w.slot th.lane = some ((th.setSpecial s n.toNat (th.specialValue s a.toNat n.toNat)).after s.cur.len t) := by
        intro hn
        obtain ⟨_, hexec', hlane⟩ := swr_thread h n t a hr hn
        rw [hexec] at hexec'
        cases hexec'
        exact hlane
      refine ⟨fun x hn hx => ?_, fun x hn hx => ?_, fun x hn hx => ?_, fun x hn hx => ?_, fun l x hl hn hx => ?_⟩
      all_goals rw [hn] at hp hlane
      · rw [hlane rfl, Thread.specialValue_narrow (by decide), Thread.setSpecial_iflags _ hp, hx]
      · rw [hlane rfl, Thread.specialValue_narrow (by decide), Thread.setSpecial_fflags _ hp, hx]
      · rw [hlane rfl, Thread.setSpecial_uepc hp, hx]
        rfl
      · rw [hlane rfl, Thread.specialValue_narrow (by decide), Thread.setSpecial_ucause _ hp, hx]
      · have hthread : laneSpecial (0x090 + l) = true := by
          simp only [laneSpecial, Bool.or_eq_true, Bool.and_eq_true, decide_eq_true_eq]
          omega
        rw [hlane hthread, Thread.specialValue_narrow (by omega), Thread.setSpecial_lc _ hp, hx]
    case wave =>
      obtain ⟨_, w', hexec', hwave, hregs⟩ := swr_wave h n t a hr (lowest_lane h hfirst) hset
      rw [hexec] at hexec'
      cases hexec'
      refine ⟨w', hwave, fun hn => ?_, fun hn => ?_, fun hn => ?_, fun hn => ?_, fun hn => ?_⟩
      case _ => rw [hregs (by rw [hn]; rfl) WaveRegs.utvec (fun _ _ _ => rfl), hn, Thread.specialValue, if_pos (by decide)]; rfl
      case _ => rw [hregs (by rw [hn]; rfl) WaveRegs.itrap (fun _ _ _ => rfl), hn, Thread.specialValue]; exact congrArg (· &&& 3#32) (setWidth_setWidth_word _)
      case _ => rw [hregs (by rw [hn]; rfl) WaveRegs.ftrap (fun _ _ _ => rfl), hn, Thread.specialValue]; exact congrArg (· &&& 0x1F#32) (setWidth_setWidth_word _)
      case _ => rw [hregs (by rw [hn]; rfl) WaveRegs.frnd (fun _ _ _ => rfl), hn, Thread.specialValue]; exact congrArg (· &&& 3#32) (setWidth_setWidth_word _)
      case _ => rw [hregs (by rw [hn]; rfl) WaveRegs.f8fmt (fun _ _ _ => rfl), hn, Thread.specialValue]; exact congrArg (· &&& 0x1F#32) (setWidth_setWidth_word _)

end Sys2Proof.Machine
end

section
/-! PROOFS. TRY and ENDTRY (spec/10 R209): a path none of whose effects is in a log acts as it stands, a rendezvous whose members have all come is
completed; then O14. -/

namespace Sys2Proof.Machine
open Sys2Proof.Claims

/-! ## Effects, where nothing re-executes -/

section
variable {s : State} {w : Wave} (hw : s.curWave = some w) (hf : w.fresh)
include hw hf

theorem State.effectAgain_fresh (l : Nat) : s.effectAgain l = none := by
  have hnone : w.replayFor l (LogEntry.isEffect l s.cur.pc) = none := by
    unfold Wave.replayFor
    split
    · rfl
    · exact Wave.replay_fresh hf _
  simp only [State.effectAgain, hw, Option.bind_some, hnone]

theorem State.onceLane_fresh (l : Nat) (old : State → Dword → State) (new : State → State) : s.onceLane l old new = new s := by
  simp only [State.onceLane, State.effectAgain_fresh hw hf]

/-- The whole path acts. -/
theorem State.oncePath_fresh (old : State → Nat → Dword → State) (new : State → State) (hne : s.cur.lanes ≠ []) (hcur : (new s).cur = s.cur) :
    s.oncePath old new = new s := by
  have hagain : s.cur.lanes.filter (fun l => (s.effectAgain l).isSome) = [] := by
    simp [State.effectAgain_fresh hw hf]
  have hrest : s.cur.lanes.filter (fun l => (s.effectAgain l).isNone) = s.cur.lanes := by
    simp [State.effectAgain_fresh hw hf]
  simp only [State.oncePath, hagain, hrest, List.foldl_nil, List.isEmpty_iff, hne, if_false]
  exact State.within_cur rfl new hcur
end

/-! ## Groups after a lane-by-lane instruction -/

/-- A lane-by-lane instruction changes waves and cores. -/
theorem State.perLane_eq {s : State} {w : Wave} (hw : s.curWave = some w) (t : Bool) (f : Wave → Thread → Out) :
    ∃ cs, s.perLane t f = { s with waves := (s.onWave s.cur.core s.cur.slot (laneWave s t f)).waves, cores := cs } := by
  unfold State.perLane
  simp only [hw]
  split
  · exact ⟨_, rfl⟩
  · exact ⟨s.cores, rfl⟩

theorem laneWave_blk (s : State) (t : Bool) (f : Wave → Thread → Out) (w : Wave) : (laneWave s t f w).blk = w.blk := by
  unfold laneWave
  dsimp only
  split <;> rfl
theorem laneWave_wlin (s : State) (t : Bool) (f : Wave → Thread → Out) (w : Wave) : (laneWave s t f w).wlin = w.wlin := by
  unfold laneWave
  dsimp only
  split <;> rfl

/-- Waves are in one group or not by their blocks and places alone. -/
theorem State.sameGroup_congr (s : State) (k : Nat) {v v' x x' : Wave} (hv : v'.blk = v.blk ∧ v'.wlin = v.wlin) (hx : x'.blk = x.blk ∧ x'.wlin = x.wlin) :
    s.sameGroup k v' x' = s.sameGroup k v x := by
  simp only [State.sameGroup, State.space?, State.waveRec, hv, hx]

/-- A group of one wave, after a lane-by-lane instruction on its path. -/
theorem State.perLane_group {s : State} {w : Wave} (hw : s.curWave = some w) (himages : s.images = []) {k : Nat}
    (hgroup : s.waves.filter (s.sameGroup k w) = [w]) (t : Bool) (f : Wave → Thread → Out) :
    (s.perLane t f).groupWaves k (laneWave s t f w) = [laneWave s t f w] := by
  obtain ⟨cs, e⟩ := State.perLane_eq hw t f
  obtain ⟨hc, hsl⟩ := State.wave?_isAt (s := s) hw
  have hplace := fun v : Wave => And.intro (laneWave_blk s t f v) (laneWave_wlin s t f v)
  have hsame : ∀ v : Wave, s.sameGroup k (laneWave s t f w) (if v.isAt s.cur.core s.cur.slot then laneWave s t f v else v) = s.sameGroup k w v := by
    intro v
    refine s.sameGroup_congr k (hplace w) ?_
    split
    · exact hplace v
    · exact ⟨rfl, rfl⟩
  have hsaved : (s.perLane t f).savedWaves = [] := by
    rw [e]
    simp only [State.savedWaves, himages, List.flatMap_nil]
  rw [State.groupWaves, hsaved, List.filter_nil, List.map_nil, List.append_nil]
  rw [show (s.perLane t f).waves = s.waves.map (fun v => if v.isAt s.cur.core s.cur.slot then laneWave s t f v else v) by rw [e]; rfl]
  rw [show (s.perLane t f).sameGroup k (laneWave s t f w) = s.sameGroup k (laneWave s t f w) by rw [e]; rfl]
  rw [List.filter_map, show (s.sameGroup k (laneWave s t f w) ∘ fun v => if v.isAt s.cur.core s.cur.slot then laneWave s t f v else v) = s.sameGroup k w from
    funext hsame, hgroup, List.map_singleton, if_pos]
  simp [Wave.isAt, hc, hsl]

/-- A group of one wave after a lane-by-lane instruction meets where every live lane of the wave passes the test. -/
theorem State.perLane_allLive {s : State} {w : Wave} (hw : s.curWave = some w) (himages : s.images = []) {k : Nat}
    (hgroup : s.waves.filter (s.sameGroup k w) = [w]) (t : Bool) (f : Wave → Thread → Out) (p : Thread → Bool)
    (hp : ∀ u ∈ (laneWave s t f w).lanes, u.live = true → p u = true) : (s.perLane t f).allLive k (laneWave s t f w) p = true := by
  rw [State.allLive, State.perLane_group hw himages hgroup, List.all_cons, List.all_nil, Bool.and_true, List.all_eq_true]
  intro u hu
  cases hlive : u.live with
  | false => rfl
  | true => rw [hp u hu hlive]; rfl

/-! ## The rendezvous -/

@[simp] theorem State.meetStep_lane (s : State) (w : Wave) (t : Thread) : (s.meetStep w t).lane = t.lane := by
  unfold State.meetStep
  split
  · split
    · exact Thread.tackIf_lane ..
    · rfl
  · split
    · split
      · exact Thread.tackIf_lane ..
      · rfl
    · rfl
  · rfl

theorem Wave.logPassed_place (w : Wave) (new : List Thread) : (w.logPassed new).core = w.core ∧ (w.logPassed new).slot = w.slot := by
  unfold Wave.logPassed
  split
  · exact ⟨rfl, rfl⟩
  · refine List.foldlRecOn (motive := fun v : Wave => v.core = w.core ∧ v.slot = w.slot) _ _ ⟨rfl, rfl⟩ (fun v hv t _ => ?_)
    rw [Wave.logFor_eq]
    exact hv

/-- A lane after every complete rendezvous has been completed. -/
theorem State.meet_lane {s : State} {w : Wave} {th : Thread} (hw : s.wave? w.core w.slot = some w) (hl : w.lane? th.lane = some th) :
    s.meet.lane? w.core w.slot th.lane = some (s.meetStep w th) := by
  have hplace : ∀ v : Wave, (v.passAll (s.meetStep v)).core = v.core ∧ (v.passAll (s.meetStep v)).slot = v.slot := fun v => Wave.logPassed_place _ _
  have hwave : s.meet.wave? w.core w.slot = some (w.passAll (s.meetStep w)) := by
    have hfind : (s.waves.map (fun v => v.passAll (s.meetStep v))).find? (fun v => v.isAt w.core w.slot) =
        (s.waves.find? (fun v => v.isAt w.core w.slot)).map (fun v => v.passAll (s.meetStep v)) := by
      rw [List.find?_map]
      refine congrArg (Option.map _) (congrArg (fun p => List.find? p s.waves) (funext fun v => ?_))
      simp only [Function.comp, Wave.isAt, hplace]
    rw [State.wave?, State.meet, hfind]
    exact congrArg (Option.map _) hw
  refine Option.bind_eq_some_iff.mpr ⟨_, hwave, ?_⟩
  refine (lane_find_map w.lanes th.lane _ (State.meetStep_lane s w)).trans ?_
  rw [show w.lanes.find? (fun t => t.lane == th.lane) = some th from hl]
  rfl

/-- A thread that waits at no rendezvous stays. -/
theorem State.meetStep_stays (s : State) (w : Wave) {t : Thread} (h1 : ∀ k d b, t.wait ≠ .tryAt k d b) (h2 : ∀ b, t.wait ≠ .endtry b) :
    s.meetStep w t = t := by
  unfold State.meetStep
  split
  · next h => exact absurd h (h1 _ _ _)
  · next h => exact absurd h (h2 _)
  · rfl

theorem Thread.park_wait (t : Thread) : t.park.wait = .tack ∨ t.park.wait = t.wait := by
  unfold Thread.park
  split
  · exact .inl rfl
  · exact .inr rfl

/-- What a thread that has taken a user trap waits for. -/
theorem Thread.trap_wait (s : State) (r : WaveRegs) (t : Thread) (c : Word) (e : Dword) :
    (∃ x, (Thread.trap s r t c e).wait = .thrown x) ∨ (Thread.trap s r t c e).wait = .tack ∨ (Thread.trap s r t c e).wait = t.wait := by
  unfold Thread.trap Thread.throws
  dsimp only
  split
  · exact .inl ⟨_, rfl⟩
  · exact .inr (Thread.park_wait _)

/-! ## TRY and ENDTRY -/

/-- What a TRY makes of a lane before the rendezvous. -/
def tryOut (k : Nat) (d : BitVec 20) (t : Bool) (_ : Wave) (th : Thread) : Out :=
  if 8 ≤ th.regions.length ∨ (th.regions.head?.map (fun r => decide (r.level < k))).getD false then .trap th cILLOP
  else .hold th (.tryAt k (branchTarget th.pc d) t)
/-- What an ENDTRY makes of one. -/
def endtryOut (t : Bool) (_ : Wave) (th : Thread) : Out := if th.regions.isEmpty then .trap th cILLOP else .hold th (.endtry t)

theorem tryOut_lane (k : Nat) (d : BitVec 20) (t : Bool) (w : Wave) (th : Thread) : (tryOut k d t w th).thread.lane = th.lane := by
  unfold tryOut
  split <;> rfl
theorem endtryOut_lane (t : Bool) (w : Wave) (th : Thread) : (endtryOut t w th).thread.lane = th.lane := by
  unfold endtryOut
  split <;> rfl

/-- No outcome ends a lane or brings one back. -/
theorem Thread.tackIf_live (t : Thread) (b : Bool) : (t.tackIf b).live = t.live := by
  unfold Thread.tackIf
  split
  · rw [Thread.park_eq]
  · rfl
theorem Thread.trap_live (s : State) (r : WaveRegs) (t : Thread) (c : Word) (e : Dword) : (Thread.trap s r t c e).live = t.live := by
  unfold Thread.trap
  dsimp only
  split
  · rfl
  · rw [Thread.park_eq]
theorem Out.apply_live (s : State) (r : WaveRegs) (len : Nat) (b : Bool) (o : Out) : (o.apply s r len b).live = o.thread.live := by
  cases o with
  | next t => exact Thread.tackIf_live ..
  | jump t a => exact Thread.tackIf_live ..
  | land t => exact Thread.tackIf_live ..
  | trap t c => exact Thread.trap_live ..
  | trapAfter t c => exact Thread.trap_live ..
  | throw t c k => rfl
  | rethrow t c k x => rfl
  | hold t k => rfl

theorem tryOut_live (k : Nat) (d : BitVec 20) (t : Bool) (w : Wave) (th : Thread) : (tryOut k d t w th).thread.live = th.live := by
  unfold tryOut
  split <;> rfl
theorem endtryOut_live (t : Bool) (w : Wave) (th : Thread) : (endtryOut t w th).thread.live = th.live := by
  unfold endtryOut
  split <;> rfl

/-- What stands in the way of a TRY. -/
theorem tryOut_refused {k : Nat} {th : Thread} (h : 8 ≤ th.regions.length ∨ ∃ r, th.regions.head? = some r ∧ r.level < k) (d : BitVec 20) (t : Bool) (w : Wave) :
    tryOut k d t w th = .trap th cILLOP := by
  refine if_pos ?_
  rcases h with h | ⟨r, hr, hlt⟩
  · exact .inl h
  · right
    rw [hr]
    exact decide_eq_true hlt
theorem tryOut_held {k : Nat} {th : Thread} (hlen : th.regions.length < 8) (h : ∀ r, th.regions.head? = some r → k ≤ r.level) (d : BitVec 20) (t : Bool) (w : Wave) :
    tryOut k d t w th = .hold th (.tryAt k (branchTarget th.pc d) t) := by
  refine if_neg ?_
  rintro (h8 | hlt)
  · omega
  · cases hr : th.regions.head? with
    | none =>
      rw [hr] at hlt
      exact absurd hlt Bool.false_ne_true
    | some r =>
      rw [hr] at hlt
      have := h r hr
      have hlt : r.level < k := of_decide_eq_true hlt
      omega

/-- The path holds a lane. -/
theorem State.OnPath.lanes_ne {s : State} {w : Wave} {th : Thread} (h : s.OnPath w th) : s.cur.lanes ≠ [] := List.ne_nil_of_mem h.path

section
variable {s : State} {w : Wave} {th : Thread} (h : s.OnPath w th) (hf : w.fresh)
include h hf

/-- TRY and ENDTRY act on every lane of the path, once the core's window is flushed; then what has met goes on. -/
theorem exec_tryOpen (d : BitVec 20) (l : BitVec 3) (t : Bool) (hlevel : s.levelBad w (s.levelOf w l) = false) :
    exec (.tryOpen d l t) s = .next (((s.flushFor w.core w.blk).perLane t (tryOut (s.levelOf w l) d t)).meet) := by
  have hall := State.oncePath_fresh (s := s.flushFor w.core w.blk) h.wave hf
    (fun u m _ => u.within [m] (fun v => v.perLane false (fun _ th => .land (th.openTry (s.levelOf w l) (branchTarget th.pc d) t))))
    (fun u => u.perLane t (tryOut (s.levelOf w l) d t)) h.lanes_ne (State.perLane_cur (s := s.flushFor w.core w.blk) h.wave ..)
  show execTryOpen d l t s = _
  unfold execTryOpen
  simp only [h.wave, hlevel]
  exact congrArg (fun u => done (State.meet u)) hall

theorem exec_endtry (t : Bool) : exec (.endtry t) s = .next (((s.flushFor w.core w.blk).perLane t (endtryOut t)).meet) := by
  have hall := State.oncePath_fresh (s := s.flushFor w.core w.blk) h.wave hf
    (fun u m _ => u.within [m] (fun v => v.perLane false (fun _ th => .land (th.closeTry t))))
    (fun u => u.perLane t (endtryOut t)) h.lanes_ne (State.perLane_cur (s := s.flushFor w.core w.blk) h.wave ..)
  show execEndtry t s = _
  unfold execEndtry
  simp only [h.wave]
  exact congrArg (fun u => done (State.meet u)) hall

omit hf in
/-- A lane of the path after the rendezvous. -/
theorem met_lane (t : Bool) (f : Wave → Thread → Out) (hlane : ∀ v u, (f v u).thread.lane = u.lane) :
    ((s.flushFor w.core w.blk).perLane t f).meet.lane? w.core w.slot th.lane =
      some (((s.flushFor w.core w.blk).perLane t f).meetStep (laneWave (s.flushFor w.core w.blk) t f w)
        ((f w th).apply s w.regs s.cur.len t)) := by
  have hwave := State.perLane_wave (s := s.flushFor w.core w.blk) h.wave t f
  have hl := laneWave_lane (s.flushFor w.core w.blk) t f h.lane h.path hlane
  have hat : ((f w th).apply (s.flushFor w.core w.blk) w.regs (s.flushFor w.core w.blk).cur.len t).lane = th.lane := by
    rw [Out.apply_lane, hlane]
  have hmet := State.meet_lane (s := (s.flushFor w.core w.blk).perLane t f) (w := laneWave (s.flushFor w.core w.blk) t f w)
    (th := (f w th).apply (s.flushFor w.core w.blk) w.regs (s.flushFor w.core w.blk).cur.len t)
    (by rw [laneWave_core, laneWave_slot]; exact hwave) (by rw [hat]; exact hl)
  rw [laneWave_core, laneWave_slot, hat] at hmet
  rw [hmet]
  cases f w th <;> rfl

omit hf in
/-- A lane that takes ILLOP stays at no rendezvous. -/
theorem met_illop (t : Bool) (f : Wave → Thread → Out) (hlane : ∀ v u, (f v u).thread.lane = u.lane) (hno : th.wait = .no)
    (hout : f w th = .trap th cILLOP) :
    ((s.flushFor w.core w.blk).perLane t f).meet.lane? w.core w.slot th.lane = some (Thread.trap s w.regs th cILLOP th.pc) := by
  rw [met_lane h t f hlane, hout]
  refine congrArg some (State.meetStep_stays _ _ (fun k d b => ?_) (fun b => ?_))
  all_goals
    rcases Thread.trap_wait s w.regs th cILLOP th.pc with ⟨x, e⟩ | e | e
    · exact fun hw => Wait.noConfusion (e.symm.trans hw)
    · exact fun hw => Wait.noConfusion (e.symm.trans hw)
    · exact fun hw => Wait.noConfusion ((e.trans hno).symm.trans hw)

/-- Where every live lane of the wave is on the path at one address. -/
def Whole (s : State) (w : Wave) (pc : Dword) : Prop := ∀ u ∈ w.lanes, u.live = true → u.lane ∈ s.cur.lanes ∧ u.pc = pc

omit h hf in
/-- A live lane after lanes of the path have been held: the lane before it, waiting. -/
theorem laneWave_held {s : State} {w : Wave} {pc : Dword} (hwhole : Whole s w pc) (t : Bool) (f : Wave → Thread → Out) (k : Thread → Wait)
    (hold : ∀ u ∈ w.lanes, u.live = true → f w u = .hold u (k u)) (hlive : ∀ v u, (f v u).thread.live = u.live)
    {x : Thread} (hx : x ∈ (laneWave s t f w).lanes) (hxl : x.live = true) : ∃ u ∈ w.lanes, u.live = true ∧ u.pc = pc ∧ x = { u with wait := k u } := by
  rw [laneWave_lanes, List.mem_map] at hx
  obtain ⟨u, hu, rfl⟩ := hx
  have hul : u.live = true := by
    split at hxl
    · rwa [Out.apply_live, hlive] at hxl
    · exact hxl
  obtain ⟨hp, hpc⟩ := hwhole u hu hul
  refine ⟨u, hu, hul, hpc, ?_⟩
  rw [if_pos (List.elem_eq_true_of_mem hp), hold u hu hul]
  rfl

omit h hf in
/-- A thread that waits at a complete TRY goes on in its region. -/
theorem State.meetStep_try {s : State} {w : Wave} {t : Thread} {k : Nat} {d : Dword} {b : Bool} (hw : t.wait = .tryAt k d b)
    (hall : s.allLive k w (fun x => x.atTry t.pc k) = true) : s.meetStep w t = t.openTry k d b := by
  simp only [State.meetStep, hw, hall, if_true]

omit h hf in
/-- A thread that waits at a complete ENDTRY leaves its region. -/
theorem State.meetStep_endtry {s : State} {w : Wave} {t : Thread} {r : Region} {rest : List Region} {b : Bool} (hw : t.wait = .endtry b)
    (hr : t.regions = r :: rest) (hall : s.allLive r.level w (fun x => x.atEndtry r) = true) : s.meetStep w t = t.closeTry b := by
  simp only [State.meetStep, hw, hr, hall, if_true]

variable (himages : s.images = []) (hno : th.wait = .no) (hlive : th.live = true)
include himages hno hlive

omit hf in
theorem try_opens (k : Nat) (d : BitVec 20) (t : Bool) (hwhole : Whole s w th.pc) (hgroup : s.waves.filter (s.sameGroup k w) = [w])
    (hfit : ∀ u ∈ w.lanes, u.live = true → u.regions.length < 8 ∧ ∀ r, u.regions.head? = some r → k ≤ r.level) :
    ((s.flushFor w.core w.blk).perLane t (tryOut k d t)).meet.lane? w.core w.slot th.lane =
      some ({ th with regions := ⟨k, th.pc + BitVec.ofInt 64 (2 * d.toInt), th.pc⟩ :: th.regions }.after 4 t) := by
  have hheld : ∀ u ∈ w.lanes, u.live = true → tryOut k d t w u = .hold u (.tryAt k (branchTarget u.pc d) t) :=
    fun u hu hul => tryOut_held (hfit u hu hul).1 (hfit u hu hul).2 d t w
  have hall : ((s.flushFor w.core w.blk).perLane t (tryOut k d t)).allLive k (laneWave (s.flushFor w.core w.blk) t (tryOut k d t) w)
      (fun x => x.atTry th.pc k) = true := by
    refine State.perLane_allLive (s := s.flushFor w.core w.blk) h.wave himages hgroup t _ _ (fun x hx hxl => ?_)
    obtain ⟨u, hu, -, hpc, rfl⟩ := laneWave_held hwhole t (tryOut k d t) (fun u => .tryAt k (branchTarget u.pc d) t) hheld (tryOut_live k d t) hx hxl
    simp [Thread.atTry, hpc]
  rw [met_lane h t _ (tryOut_lane k d t), hheld th (List.mem_of_find?_eq_some h.lane) hlive, Out.apply,
    State.meetStep_try (t := { th with wait := .tryAt k (branchTarget th.pc d) t }) rfl hall, Thread.openTry, Thread.advance_tackIf, branchTarget_eq, ← hno]

omit hf in
theorem endtry_closes (t : Bool) {r : Region} {rest : List Region} (hr : th.regions = r :: rest) (hwhole : Whole s w th.pc)
    (hgroup : s.waves.filter (s.sameGroup r.level w) = [w])
    (hmeet : ∀ u ∈ w.lanes, u.live = true → ∃ x, u.regions.head? = some x ∧ x.level = r.level ∧ x.tryPc = r.tryPc) :
    ((s.flushFor w.core w.blk).perLane t (endtryOut t)).meet.lane? w.core w.slot th.lane = some ({ th with regions := rest }.after 4 t) := by
  have hregions : ∀ u ∈ w.lanes, u.live = true → ∃ x xs, u.regions = x :: xs ∧ x.level = r.level ∧ x.tryPc = r.tryPc := by
    intro u hu hul
    obtain ⟨x, hx, hlevel, htry⟩ := hmeet u hu hul
    obtain ⟨xs, hxs⟩ := List.head?_eq_some_iff.mp hx
    exact ⟨x, xs, hxs, hlevel, htry⟩
  have hheld : ∀ u ∈ w.lanes, u.live = true → endtryOut t w u = .hold u (.endtry t) := by
    intro u hu hul
    obtain ⟨x, xs, hxs, -⟩ := hregions u hu hul
    exact if_neg (by rw [hxs]; exact Bool.false_ne_true)
  have hall : ((s.flushFor w.core w.blk).perLane t (endtryOut t)).allLive r.level (laneWave (s.flushFor w.core w.blk) t (endtryOut t) w)
      (fun x => x.atEndtry r) = true := by
    refine State.perLane_allLive (s := s.flushFor w.core w.blk) h.wave himages hgroup t _ _ (fun x hx hxl => ?_)
    obtain ⟨u, hu, hul, -, rfl⟩ := laneWave_held hwhole t (endtryOut t) (fun _ => .endtry t) hheld (endtryOut_live t) hx hxl
    obtain ⟨y, ys, hys, hlevel, htry⟩ := hregions u hu hul
    simp [Thread.atEndtry, hys, hlevel, htry]
  rw [met_lane h t _ (endtryOut_lane t), hheld th (List.mem_of_find?_eq_some h.lane) hlive, Out.apply,
    State.meetStep_endtry (t := { th with wait := .endtry t }) rfl hr hall, Thread.closeTry, Thread.advance_tackIf, ← hno, hr]
  rfl
end

/-- Settles O14: TRY and ENDTRY by what their rendezvous makes of the lane. -/
theorem tryRegions : Obligations.TryRegions := by
  unfold Obligations.TryRegions
  intro s w th t h hno hlive hf himages whole
  refine ⟨fun d l hlevel => ⟨_, exec_tryOpen h hf d l t hlevel, fun hbad => ?_, fun hwhole hgroup hfit => ?_⟩,
    ⟨_, exec_endtry h hf t, fun hnone => ?_, fun r rest hr hwhole hgroup hmeet => ?_⟩⟩
  · exact met_illop h t _ (tryOut_lane _ d t) hno (tryOut_refused hbad d t w)
  · exact try_opens h himages hno hlive _ d t hwhole hgroup hfit
  · exact met_illop h t _ (endtryOut_lane t) hno (if_pos (by rw [hnone]; rfl))
  · exact endtry_closes h himages hno hlive t hr hwhole hgroup hmeet

end Sys2Proof.Machine
end

section
/-! PROOFS. Cross-lane instructions (spec/07 R117 to R127): why O8 fails as stated, then O9. -/

namespace Sys2Proof.Machine
open Sys2Proof.Claims

/-! ## O8 -/

/-- A wave with a live lane outside the mask s0 that still waits, by an earlier arrival, at a rendezvous of its address and mask. -/
def strayArrival : Wave :=
  { placeWave with
    lanes := [placedLane 0, { placedLane 1 with wait := .cross (.vote 1 1) 1#32 1#32 0#32 false }]
    regs := { placeWave.regs with s := [(0, 1#32)] } }

theorem strayArrival_gathered : Gathered (placedPath strayArrival [0]) strayArrival 0#3 where
  lanes := by decide +kernel
  pcs := by decide +kernel
  sorted := by decide +kernel
  settled := rfl
  ready := by unfold Wave.sReady; decide +kernel

/-- Refutes O8: nothing in the statement says that a lane outside the mask does not stand arrived with the same address and mask. A VOTE ANY of lane 0
alone, whose predicate is false, answers true by the vote that lane 1 brought. -/
theorem not_crossLaneResults : ¬ Obligations.CrossLaneResults := by
  unfold Obligations.CrossLaneResults
  intro h
  obtain ⟨s', v, hexec, hv, hlane⟩ := h.1 _ _ _ _ _ _ _ (Cross.voteAny 1 6 0 false) (placedPath strayArrival [0]) strayArrival (placedLane 0)
    ⟨rfl, rfl, .head _⟩ (State.regsOk_nil _) strayArrival_gathered
  have hp := congrArg (Option.map (fun u => u.p)) hlane
  rw [Res.eq_get (s := placedPath strayArrival [0]) hexec, hv (by decide +kernel)] at hp
  exact absurd hp (by decide +kernel)

/-! ## O9 -/

/-- What a cross-lane instruction makes of a lane: ILLOP outside the mask, an arrival inside it. -/
def crossOutcome (s : State) (m : Nat) (t : Bool) (x : XOp) (A K : State → Thread → Word) (w : Wave) (th : Thread) : Out :=
  if (w.regs.s? m).getLsbD th.lane then .hold th (.cross (x.issuedIn s w) (w.regs.s? m) (A s th) (K s th) t) else .trap th cILLOP

theorem crossOutcome_lane (s : State) (m : Nat) (t : Bool) (x : XOp) (A K : State → Thread → Word) (w : Wave) (th : Thread) :
    (crossOutcome s m t x A K w th).thread.lane = th.lane := by
  unfold crossOutcome
  split <;> rfl

/-- Each row of the table is the shared form with its registers, mask and operands. -/
theorem exec_of_cross {i : Instr} {rs : List Nat} {m : BitVec 3} {t : Bool} {A K : State → Thread → Word}
    {f : RMode → List Brought → Nat → Word → Word → XResult × Word} (h : Cross i rs m t A K f) (s : State) :
    ∃ x, exec i s = .next (s.withRegs rs (s.withTokens [m.toNat] ((s.perLane t (crossOutcome s m.toNat t x A K)).settle s.cur.core s.cur.slot))) := by
  cases h <;> exact ⟨_, rfl⟩

/-- A lane that waits at no rendezvous is left by the completion of those that are complete. -/
theorem Wave.crossStep_stays (s : State) (w : Wave) {t : Thread} (h : ∀ x n a k b, t.wait ≠ .cross x n a k b) : w.crossStep s t = t := by
  unfold Wave.crossStep Wave.crossOut
  cases ht : t.wait with
  | cross x n a k b => exact absurd ht (h x n a k b)
  | _ => rfl

/-- So is one whose rendezvous is not complete. -/
theorem Wave.crossStep_incomplete (s : State) {w : Wave} {t : Thread} {x : XOp} {n a k : Word} {b : Bool} (h : t.wait = .cross x n a k b)
    (hdone : w.crossDone t.pc n = false) : w.crossStep s t = t := by
  simp [Wave.crossStep, Wave.crossOut, h, hdone]

@[simp] theorem XResult.write_lane (s : State) (t : Thread) (r : XResult) : (r.write s t).lane = t.lane := by
  cases r with
  | g => rfl
  | p => exact Thread.setP_lane ..
  | pair => rfl

theorem fpOutIf_lane (s : State) (enabled : Word) (th : Thread) (fl : Word) {write : Thread → Thread} (hw : ∀ u, (write u).lane = u.lane) :
    (fpOutIf s enabled th fl write).thread.lane = th.lane := by
  unfold fpOutIf
  split
  · rfl
  · exact (hw _).trans (th.raiseFp_lane s fl)

@[simp] theorem Wave.crossStep_lane (s : State) (w : Wave) (t : Thread) : (w.crossStep s t).lane = t.lane := by
  unfold Wave.crossStep Wave.crossOut
  cases t.wait with
  | cross x n a k b =>
    by_cases hdone : (t.live && w.crossDone t.pc n) = true
    · simp only [hdone, if_true, Out.apply_lane]
      exact fpOutIf_lane _ _ _ _ (fun u => XResult.write_lane s u _)
    · simp [hdone]
  | _ => rfl

/-- The wave with every complete rendezvous completed. -/
def Wave.settled (s : State) (w : Wave) : Wave := Wave.settleOld { w with lanes := w.lanes.map (fun t => w.crossStep s t) }

theorem Wave.settled_place (s : State) (w : Wave) : (w.settled s).core = w.core ∧ (w.settled s).slot = w.slot := ⟨rfl, rfl⟩

theorem Wave.settled_lane (s : State) (w : Wave) (l : Nat) : (w.settled s).lane? l = (w.lane? l).map (w.crossStep s) :=
  lane_find_map w.lanes l (w.crossStep s) (Wave.crossStep_lane s w)

/-- What a change of one slot's waves makes of the wave in any slot. -/
theorem State.wave?_onWave_any (s : State) (c sl c' sl' : Nat) {g : Wave → Wave} (hg : ∀ v : Wave, (g v).core = v.core ∧ (g v).slot = v.slot) :
    (s.onWave c sl g).wave? c' sl' = (s.wave? c' sl').map (fun v => if v.isAt c sl = true then g v else v) := by
  unfold State.onWave State.wave?
  have hat : ∀ v : Wave, (if v.isAt c sl = true then g v else v).isAt c' sl' = v.isAt c' sl' := by
    intro v
    split
    · simp [Wave.isAt, hg v]
    · rfl
  simp only [List.find?_map, Function.comp_def, hat]

/-- A change that keeps the lanes of its wave keeps every lane. -/
theorem State.lane?_onWave_any (s : State) (c sl c' sl' l : Nat) {g : Wave → Wave} (hg : ∀ v : Wave, (g v).core = v.core ∧ (g v).slot = v.slot)
    (hlanes : ∀ v : Wave, (g v).lanes = v.lanes) : (s.onWave c sl g).lane? c' sl' l = s.lane? c' sl' l := by
  rw [State.lane?, State.wave?_onWave_any s c sl c' sl' hg, State.lane?]
  cases s.wave? c' sl' with
  | none => rfl
  | some v =>
    simp only [Option.map_some, Option.bind_some, Wave.lane?]
    split <;> simp [hlanes]

theorem State.reported_lane (s : State) (c sl c' sl' l : Nat) : (s.reported c sl).lane? c' sl' l = s.lane? c' sl' l := by
  unfold State.reported
  cases s.wave? c sl with
  | none => rfl
  | some w => exact (State.lane?_of_waves (State.flushFor_waves ..) ..).trans (State.lane?_onWave_any s c sl c' sl' l (fun _ => ⟨rfl, rfl⟩) (fun _ => rfl))

theorem State.settle_lane (s : State) {w : Wave} {c sl : Nat} (hw : s.wave? c sl = some w) (l : Nat) :
    (s.settle c sl).lane? c sl l = (w.lane? l).map (w.crossStep s) := by
  have hwave : (s.onWave c sl (fun v => v.settled s)).wave? c sl = some (w.settled s) :=
    (State.wave?_onWave s c sl _ (Wave.settled_place s)).trans (congrArg (Option.map _) hw)
  have hlane : (s.onWave c sl (fun v => v.settled s)).lane? c sl l = (w.lane? l).map (w.crossStep s) := by
    rw [State.lane?, hwave]
    exact Wave.settled_lane s w l
  unfold State.settle
  simp only [hw]
  split
  · exact (State.reported_lane ..).trans hlane
  · exact hlane

/-- What a cross-lane instruction leaves in a lane of its path: its outcome, completed where the rendezvous is. -/
theorem cross_lane {s : State} {w : Wave} {th : Thread} (h : s.OnPath w th) (m : Nat) (t : Bool) (x : XOp) (A K : State → Thread → Word) :
    ((s.perLane t (crossOutcome s m t x A K)).settle s.cur.core s.cur.slot).lane? w.core w.slot th.lane =
      some ((laneWave s t (crossOutcome s m t x A K) w).crossStep (s.perLane t (crossOutcome s m t x A K))
        ((crossOutcome s m t x A K w th).apply s w.regs s.cur.len t)) := by
  obtain ⟨hw, hl, hp⟩ := h
  obtain ⟨hc, hsl⟩ := State.wave?_isAt (s := s) hw
  rw [← hc, ← hsl, State.settle_lane _ (State.perLane_wave hw t _), laneWave_lane s t _ hl hp (crossOutcome_lane s m t x A K)]
  rfl

/-- Settles O9: an ILLOP stands at no rendezvous, and an arrival stays where it is while a member stands elsewhere. -/
theorem crossLaneWaits : Obligations.CrossLaneWaits := by
  unfold Obligations.CrossLaneWaits
  intro i rs m t A K f row s w th hp hno hr hready
  obtain ⟨x, hexec⟩ := exec_of_cross row s
  rw [State.withRegs_ok hr, State.withTokens_ready hp.wave hready] at hexec
  refine ⟨_, hexec, fun hout => ?outside, fun hin hother => ?member⟩
  case outside =>
    rw [cross_lane hp, crossOutcome, hout]
    refine congrArg some (Wave.crossStep_stays _ _ fun y n a k b hwait => ?_)
    rcases Thread.trap_wait s w.regs th cILLOP th.pc with hw | hw | hw <;> simp_all [Out.apply]
  case member =>
    obtain ⟨u, hu, hlive, hmask, hbeside, huno⟩ := hother
    refine ⟨x.issuedIn s w, ?_⟩
    rw [cross_lane hp, crossOutcome, hin, if_pos rfl]
    refine congrArg some (Wave.crossStep_incomplete _ (x := x.issuedIn s w) rfl ?_)
    rw [Wave.crossDone, List.all_eq_false]
    refine ⟨u, ?_, ?_⟩
    · rw [laneWave_lanes, List.mem_map]
      exact ⟨u, hu, by simp [hbeside]⟩
    · simp [hlive, hmask, Thread.arrivedAt, huno]

end Sys2Proof.Machine
end

section
/-! PROOFS. The frames of O60: what a lane-by-lane instruction, a fault of an access and the completion of a rendezvous leave unchanged; then each row
of the tables as one of these. -/

namespace Sys2Proof.Machine
open Sys2Proof.Claims

/-! ## What the parts of an instruction leave unchanged -/

theorem State.core_onCore (s : State) (c c' : Nat) (g : Core → Core) :
    (s.onCore c g).core c' = if c' = c then g (s.core c) else s.core c' := by
  unfold State.core State.onCore
  by_cases h : c' = c
  · simp [h, State.core]
  · rw [if_neg h]
    exact getD_insertAt_ne _ _ _ h

/-- A flush leaves all of a core but its window. -/
theorem Core.flush_eq (k : Core) (blk : Nat) :
    { (if k.window.any (fun e => e.blk == blk) then k.flushWindow else k) with window := k.window } = k := by
  split <;> rfl

theorem laneWave_eq (s : State) (t : Bool) (f : Wave → Thread → Out) (w : Wave) :
    { laneWave s t f w with lanes := w.lanes, regs := { (laneWave s t f w).regs with tailrule := w.regs.tailrule, old := w.regs.old } } = w := by
  unfold laneWave
  dsimp only
  split <;> rfl

theorem Wave.isAt_beside {v w : Wave} (h : w.isAt v.core v.slot = false) : v.isAt w.core w.slot = false := by
  rw [← h, Wave.isAt, Wave.isAt]
  congr 1 <;> exact BEq.comm

section
variable {s : State} {w : Wave} (hw : s.curWave = some w)
include hw

/-- A lane-by-lane instruction changes the lanes of its path. -/
theorem State.perLane_onlyLanes (t : Bool) {f : Wave → Thread → Out} (hf : ∀ v u, (f v u).thread.lane = u.lane) :
    s.OnlyLanes (s.perLane t f) w s.cur.lanes := by
  obtain ⟨hc, hsl⟩ := State.wave?_isAt (s := s) hw
  have hwave := State.perLane_wave hw t f
  refine ⟨fun c sl hat => ?others, fun l hl => ?rest, ⟨_, hwave, laneWave_eq s t f w⟩, fun c => ?cores, ?state⟩
  case others =>
    rw [State.wave?, State.perLane_waves hw t f]
    refine (State.wave?_onWave_any s _ _ c sl (laneWave_place s t f)).trans ?_
    cases hv : s.wave? c sl with
    | none => rfl
    | some v =>
      obtain ⟨hvc, hvs⟩ := State.wave?_isAt hv
      rw [← hvc, ← hvs] at hat
      have hne := Wave.isAt_beside hat
      rw [hc, hsl] at hne
      simp [hne]
  case rest =>
    rw [State.lane?, hwave, State.lane?, hc, hsl, show s.wave? s.cur.core s.cur.slot = some w from hw]
    simp only [Option.bind_some, Wave.lane?]
    rw [laneWave_lanes, lane_find_map _ _ _ (by intro u; split <;> simp [hf])]
    cases hu : w.lanes.find? (fun u => u.lane == l) with
    | none => rfl
    | some u =>
      have hlane : u.lane = l := by simpa using List.find?_some hu
      simp [hlane, hl]
  case cores =>
    unfold State.perLane
    simp only [hw]
    split
    · unfold State.flushFor
      rw [State.core_onCore]
      split
      next e => rw [e]; exact Core.flush_eq ..
      · rfl
    · rfl
  case state =>
    unfold State.perLane
    simp only [hw]
    split <;> rfl
end

theorem State.OnlyLanes.issues {s s' : State} {w : Wave} {ls : List Nat} (h : s.OnlyLanes s' w ls) : s.OnlyIssues s' w (fun l => l ∈ ls) := by
  obtain ⟨others, rest, wave, cores, state⟩ := h
  refine ⟨others, rest, wave, fun c => ?_, state⟩
  conv_rhs => rw [← cores c]
  rw [← cores c]

theorem State.OnlyIssues.mono {s s' : State} {w : Wave} {p q : Nat → Prop} (h : s.OnlyIssues s' w p) (hpq : ∀ l, p l → q l) : s.OnlyIssues s' w q :=
  ⟨h.others, fun l hl => h.rest l (fun hp => hl (hpq l hp)), h.wave, h.cores, h.state⟩

/-- A core that flushes its window or takes a fault besides. -/
theorem State.OnlyIssues.onCore {s s' : State} {w : Wave} {p : Nat → Prop} (h : s.OnlyIssues s' w p) (c : Nat) {g : Core → Core}
    (hg : ∀ k, { g k with window := k.window, faults := k.faults } = k) : s.OnlyIssues (s'.onCore c g) w p := by
  refine ⟨h.others, h.rest, h.wave, fun c' => ?_, h.state⟩
  rw [State.core_onCore]
  by_cases hc : c' = c
  · subst hc
    rw [if_pos rfl]
    have h1 := h.cores c'
    have h2 := hg (s'.core c')
    rw [← h1]
    conv_rhs => rw [← h2]
  · rw [if_neg hc]
    exact h.cores c'

/-- The wave of the path changed besides, in lanes that may change, `$tailrule` and the values kept. -/
theorem State.OnlyIssues.onWave {s s' : State} {w : Wave} {p : Nat → Prop} (h : s.OnlyIssues s' w p) {g : Wave → Wave}
    (hg : ∀ v : Wave, { g v with lanes := v.lanes, regs := { (g v).regs with tailrule := v.regs.tailrule, old := v.regs.old } } = v)
    (hlanes : ∀ v, s'.wave? w.core w.slot = some v → ∀ l, ¬p l → (g v).lane? l = v.lane? l) : s.OnlyIssues (s'.onWave w.core w.slot g) w p := by
  have hplace : ∀ v : Wave, (g v).core = v.core ∧ (g v).slot = v.slot := fun v => by
    have hc := congrArg Wave.core (hg v)
    have hsl := congrArg Wave.slot (hg v)
    exact ⟨hc, hsl⟩
  obtain ⟨v, hv, hvw⟩ := h.wave
  have hwave : (s'.onWave w.core w.slot g).wave? w.core w.slot = some (g v) :=
    (State.wave?_onWave s' _ _ g hplace).trans (congrArg (Option.map g) hv)
  have hboth := (congrArg (fun x : Wave =>
    { x with lanes := w.lanes, regs := { x.regs with tailrule := w.regs.tailrule, old := w.regs.old } }) (hg v)).trans hvw
  refine ⟨fun c sl hat => ?others, fun l hl => ?rest, ⟨g v, hwave, hboth⟩, h.cores, h.state⟩
  case others =>
    refine (State.wave?_onWave_any s' _ _ c sl hplace).trans ?_
    rw [← h.others c sl hat]
    cases hu : s'.wave? c sl with
    | none => rfl
    | some u =>
      obtain ⟨huc, hus⟩ := State.wave?_isAt hu
      rw [← huc, ← hus] at hat
      simp [Wave.isAt_beside hat]
  case rest =>
    rw [← h.rest l hl, State.lane?, hwave, State.lane?, hv]
    exact hlanes v hv l hl

theorem State.OnlyIssues.refl {s : State} {w : Wave} (hw : s.wave? w.core w.slot = some w) (p : Nat → Prop) : s.OnlyIssues s w p :=
  ⟨fun _ _ _ => rfl, fun _ _ => rfl, ⟨w, hw, rfl⟩, fun _ => rfl, rfl⟩

/-- Two parts one after the other. -/
theorem State.OnlyIssues.trans {s u s' : State} {w v : Wave} {p : Nat → Prop} (h : s.OnlyIssues u w p) (hv : u.wave? w.core w.slot = some v)
    (h' : u.OnlyIssues s' v p) : s.OnlyIssues s' w p := by
  obtain ⟨x, hx, hxw⟩ := h.wave
  cases hv.symm.trans hx
  have hc : v.core = w.core := by
    have e := congrArg Wave.core hxw
    exact e
  have hsl : v.slot = w.slot := by
    have e := congrArg Wave.slot hxw
    exact e
  obtain ⟨y, hy, hyv⟩ := h'.wave
  rw [hc, hsl] at hy
  have hwave := (congrArg (fun x : Wave =>
    { x with lanes := w.lanes, regs := { x.regs with tailrule := w.regs.tailrule, old := w.regs.old } }) hyv).trans hxw
  have hstate := (congrArg (fun x : State => { x with waves := s.waves, cores := s.cores }) h'.state).trans h.state
  refine ⟨fun c sl hat => ?_, fun l hl => ?_, ⟨y, hy, hwave⟩, fun c => ?_, hstate⟩
  · refine (h'.others c sl ?_).trans (h.others c sl hat)
    rwa [Wave.isAt, hc, hsl]
  · have h1 := h'.rest l hl
    rw [hc, hsl] at h1
    exact h1.trans (h.rest l hl)
  · exact (congrArg (fun k : Core => { k with window := (s.core c).window, faults := (s.core c).faults }) (h'.cores c)).trans (h.cores c)

/-- What every part of an instruction keeps of the frame, all of them keep. -/
theorem State.OnlyIssues.foldl {α : Type} {s : State} {w : Wave} {p : Nat → Prop} {f : State → α → State}
    (hf : ∀ u x, s.OnlyIssues u w p → s.OnlyIssues (f u x) w p) (l : List α) : ∀ u, s.OnlyIssues u w p → s.OnlyIssues (l.foldl f u) w p := by
  induction l with
  | nil => exact fun u h => h
  | cons x rest ih => exact fun u h => ih _ (hf u x h)

theorem State.OnlyIssues.flushFor {s s' : State} {w : Wave} {p : Nat → Prop} (h : s.OnlyIssues s' w p) (c blk : Nat) :
    s.OnlyIssues (s'.flushFor c blk) w p :=
  h.onCore c (fun k => by split <;> rfl)

theorem State.OnlyIssues.faultOn {s s' : State} {w : Wave} {p : Nat → Prop} (h : s.OnlyIssues s' w p) (k l : Nat) (va : Dword) (write fetch : Bool)
    (blk : Nat) (who : Issuer) : s.OnlyIssues (s'.faultOn k l va write fetch blk who) w p := by
  refine State.OnlyIssues.flushFor (State.OnlyIssues.onCore h who.core ?_) who.core blk
  exact fun _ => rfl

theorem State.OnlyIssues.memFaults {s s' : State} {w : Wave} {p : Nat → Prop} (h : s.OnlyIssues s' w p) (u : State) (addr : Wave → Thread → Dword)
    (size : Nat) (write : Bool) (v : Wave) : s.OnlyIssues (u.memFaults addr size write v s') w p := by
  refine State.OnlyIssues.foldl (fun x th hx => ?_) v.lanes s' h
  split
  · split
    · exact hx.faultOn ..
    · exact hx
  · exact hx

/-! ## Instructions that name registers -/

/-- A register outside the declared count: ILLOP in every lane of the path (spec/01 R18). -/
def Undeclared (s s' : State) (w : Wave) (rs : List Nat) : Prop :=
  ∀ th, s.OnPath w th → ¬s.regsOk rs → s'.lane? w.core w.slot th.lane = some (Thread.trap s w.regs th cILLOP th.pc)

theorem State.withRegs_bad {s : State} {rs : List Nat} (h : ¬s.regsOk rs) (k : State) : s.withRegs rs k = s.illop :=
  if_neg (fun hall => h (List.all_eq_true.mp hall))

theorem State.withRegs_undeclared (s : State) (w : Wave) (rs : List Nat) (k : State) : Undeclared s (s.withRegs rs k) w rs := by
  intro th hp hbad
  rw [State.withRegs_bad hbad]
  exact State.perLane_lane hp false _ (fun _ _ => rfl)

/-- What O60 says of a memory instruction that names registers. -/
structure Framed (s s' : State) (w : Wave) (rs : List Nat) : Prop where
  issues : s.OnlyIssues s' w (fun l => l ∈ s.cur.lanes)
  undeclared : Undeclared s s' w rs

section
variable {s : State} {w : Wave} (hw : s.curWave = some w)
include hw

theorem State.trapAll_onlyLanes (c : Word) : s.OnlyLanes (s.trapAll c) w s.cur.lanes := State.perLane_onlyLanes hw false (fun _ _ => rfl)

theorem State.lanes_frame (rs : List Nat) (t : Bool) {f : Wave → Thread → Out} (hf : ∀ v u, (f v u).thread.lane = u.lane) :
    s.OnlyLanes (s.lanes rs t f) w s.cur.lanes := by
  unfold State.lanes State.withRegs
  split
  · exact State.perLane_onlyLanes hw t hf
  · exact State.trapAll_onlyLanes hw cILLOP

theorem State.withRegs_frame {p : Nat → Prop} (hp : ∀ l ∈ s.cur.lanes, p l) (rs : List Nat) {k : State} (hk : s.OnlyIssues k w p) :
    s.OnlyIssues (s.withRegs rs k) w p := by
  unfold State.withRegs
  split
  · exact hk
  · exact (State.trapAll_onlyLanes hw cILLOP).issues.mono hp

theorem State.withRegs_framed (rs : List Nat) {k : State} (hk : s.OnlyIssues k w (fun l => l ∈ s.cur.lanes)) : Framed s (s.withRegs rs k) w rs :=
  ⟨State.withRegs_frame hw (fun _ h => h) rs hk, State.withRegs_undeclared s w rs k⟩

/-- A path that stalls for a token leaves the same alone. -/
theorem State.withTokens_frame {p : Nat → Prop} (hp : ∀ l ∈ s.cur.lanes, p l) (rs : List Nat) {k : State} (hk : s.OnlyIssues k w p) :
    s.OnlyIssues (s.withTokens rs k) w p := by
  unfold State.withTokens
  simp only [hw]
  split
  · exact hk
  · obtain ⟨hc, hsl⟩ := State.wave?_isAt (s := s) hw
    have hwave : s.wave? w.core w.slot = some w := by rw [hc, hsl]; exact hw
    refine ((State.OnlyIssues.refl hwave p).onCore s.cur.core (fun k => ?_)).trans hwave
      (State.OnlyIssues.mono (State.perLane_onlyLanes (s := s.onCore _ _) hw false (fun _ _ => rfl)).issues hp)
    split <;> rfl
end


/-! ## The register instructions -/

/-- An instruction that acts lane by lane, naming registers. -/
def LaneForm (i : Instr) (rs : List Nat) (s : State) : Prop :=
  ∃ t f, exec i s = .next (s.lanes rs t f) ∧ ∀ v u, (f v u).thread.lane = u.lane

/-- Each of the register instructions acts lane by lane. -/
theorem plain_laneForm {i : Instr} {rs : List Nat} (h : Plain i rs) (s : State) : LaneForm i rs s := by
  unfold LaneForm
  cases h with
  | intTwo row => rw [exec_of_intTwo row]; exact ⟨_, _, rfl, fun _ _ => rfl⟩
  | intOne row => rw [exec_of_intOne row]; exact ⟨_, _, rfl, fun _ _ => rfl⟩
  | intConst row =>
    cases row with
    | li d => exact ⟨_, _, rfl, fun _ _ => rfl⟩
    | li5 d =>
      have hd : (d.setWidth 7 : Reg).toNat = d.toNat := by
        have := d.isLt
        rw [BitVec.toNat_setWidth]
        omega
      rw [hd]
      exact ⟨_, _, rfl, fun _ _ => rfl⟩
  | intThree row => rw [exec_of_intThree row]; exact ⟨_, _, rfl, fun _ _ => rfl⟩
  | intPair row => rw [exec_of_intPair row]; exact ⟨_, _, rfl, fun _ _ => rfl⟩
  | cmpTwo row => rw [exec_of_cmpTwo row]; exact ⟨_, _, rfl, fun _ u => u.setP_lane s _ _⟩
  | cmpOne row => rw [exec_of_cmpOne row]; exact ⟨_, _, rfl, fun _ u => u.setP_lane s _ _⟩
  | predTwo row => rw [exec_of_predTwo row]; exact ⟨_, _, rfl, fun _ u => u.setP_lane s _ _⟩
  | divides row =>
    obtain ⟨signed, rem, hexec, -⟩ := divides_form row
    rw [hexec]
    exact ⟨_, _, rfl, fun v u => intOut_lane s v u _ (fun x => x.setG_lane s _ _)⟩
  | fpTwo row => rw [exec_of_fpTwo row]; exact ⟨_, _, rfl, fun v u => fpOut_lane s v u _ (fun x => x.setG_lane s _ _)⟩
  | fpThree row => rw [exec_of_fpThree row]; exact ⟨_, _, rfl, fun v u => fpOut_lane s v u _ (fun x => x.setG_lane s _ _)⟩
  | fpOne row =>
    cases row with
    | cvt8FromByte => exact ⟨_, _, rfl, fun _ _ => rfl⟩
    | _ => exact ⟨_, _, rfl, fun v u => fpOut_lane s v u _ (fun x => x.setG_lane s _ _)⟩
  | fpCompare row => rw [exec_of_fpCompare row]; exact ⟨_, _, rfl, fun v u => fpOut_lane s v u _ (fun x => x.setP_lane s _ _)⟩
  | addc => exact ⟨_, _, rfl, fun _ u => (u.setG s _ _).setP_lane s _ _⟩
  | subb => exact ⟨_, _, rfl, fun _ u => (u.setG s _ _).setP_lane s _ _⟩
  | p2g => exact ⟨_, _, rfl, fun _ _ => rfl⟩
  | sel => exact ⟨_, _, rfl, fun _ _ => rfl⟩
  | dot4f =>
    refine ⟨_, _, rfl, fun v u => ?_⟩
    dsimp only
    split
    · rfl
    · exact fpOut_lane s v u _ (fun x => x.setG_lane s _ _)
  | bra => refine ⟨_, _, rfl, fun _ _ => ?_⟩; split <;> rfl
  | call =>
    refine ⟨_, _, rfl, fun _ u => ?_⟩
    split
    · exact u.link_lane s
    · rfl
  | brx => exact ⟨_, _, rfl, fun _ _ => rfl⟩
  | callx => exact ⟨_, _, rfl, fun _ u => u.link_lane s⟩
  | ret => exact ⟨_, _, rfl, fun _ _ => rfl⟩
  | loopReg => exact ⟨_, _, rfl, fun v u => loopLane_lane s v u _ _ _⟩
  | loopImm => exact ⟨_, _, rfl, fun v u => loopLane_lane s v u _ _ _⟩
  | throwG => exact ⟨_, _, rfl, fun _ _ => rfl⟩
  | throwi _ t => exact ⟨t, _, rfl, fun _ _ => rfl⟩
  | rethrow t => exact ⟨t, _, rfl, fun _ _ => rfl⟩
  | trap _ t => exact ⟨t, _, rfl, fun _ _ => rfl⟩
  | uret t => refine ⟨t, _, rfl, fun _ _ => ?_⟩; split <;> rfl
  | ill16 => exact ⟨false, _, rfl, fun _ _ => rfl⟩
  | ill32 => exact ⟨false, _, rfl, fun _ _ => rfl⟩
  | reserved => exact ⟨false, _, rfl, fun _ _ => rfl⟩
  | nop t => exact ⟨t, _, rfl, fun _ _ => rfl⟩

/-! ## The memory instructions -/

section
variable {s : State} {w : Wave} (hw : s.curWave = some w)
include hw

/-- A load or store, where nothing follows its lanes but faults. -/
theorem State.memLanes_framed (rs toks : List Nat) (t : Bool) (addr : Wave → Thread → Dword) (size : Nat) (write : Bool)
    {ok : Wave → Thread → Place → Out} {after : State → State} (ha : ∀ u, after u = u) (hok : ∀ v u pl, (ok v u pl).thread.lane = u.lane) :
    Framed s (s.memLanes rs toks t addr size write ok after) w rs := by
  refine State.withRegs_framed hw rs (State.withTokens_frame hw (fun _ h => h) toks ?_)
  simp only [hw, ha]
  exact State.OnlyIssues.memFaults (State.perLane_onlyLanes hw t (State.memOut_lane s addr size write hok)).issues s addr size write w

theorem State.padLanes_framed (rs toks : List Nat) (t : Bool) (addr : Wave → Thread → Word) (size : Nat)
    {ok : Wave → Thread → Place → Out} {after : State → State} (ha : ∀ u, after u = u) (hok : ∀ v u pl, (ok v u pl).thread.lane = u.lane) :
    Framed s (s.padLanes rs toks t addr size ok after) w rs := by
  refine State.withRegs_framed hw rs (State.withTokens_frame hw (fun _ h => h) toks ?_)
  rw [ha]
  exact (State.perLane_onlyLanes hw t (State.padOut_lane s addr size hok)).issues

theorem phase_framed (kinds : List AccKind) (c : BitVec 3) (t : Bool) : ∃ s', phase kinds c t s = .next s' ∧ Framed s s' w [] := by
  refine ⟨_, rfl, ?_, fun th _ hbad => absurd (State.regsOk_nil s) hbad⟩
  simp only [hw]
  split
  · exact (State.trapAll_onlyLanes hw cSCOPE).issues
  · refine State.OnlyIssues.flushFor (State.perLane_onlyLanes hw t (fun _ u => ?_)).issues _ _
    exact List.foldlRecOn (motive := fun v : Thread => v.lane = u.lane) kinds _ rfl (fun v hv k _ => hv)

/-- The values that an LDC of a wave that is not lined brings: nothing is logged. -/
theorem State.ldcValues_unlined (hl : w.lining = none) (sb g size : Nat) (x : Bool) : (s.ldcValues sb g size x).1 = s := by
  unfold State.ldcValues
  simp only [hw, hl, Option.isNone_none, true_or, if_true]
  exact List.foldlRecOn (motive := fun acc : State × List (Nat × Dword) => acc.1 = s) _ _ rfl (fun _ h _ _ => h)

theorem ldc_framed (d : Reg) (h x : Bool) (z : BitVec 2) (g : Reg) (sb : BitVec 6) (t : Bool) (hl : w.lining = none) (hpoison : s.poisoned = [])
    (hspill : NoSpills s) : ∃ s', exec (.ldc d h x z g sb t) s = .next s' ∧ Framed s s' w (g.toNat :: dataRegs d.toNat (accSize z)) := by
  refine ⟨s.withRegs (g.toNat :: dataRegs d.toNat (accSize z)) <| s.withTokens [sb.toNat] (s.perLane t (s.ldcOut d.toNat g.toNat sb.toNat (accSize z)
    (s.ldcValues sb.toNat g.toNat (accSize z) x).2)), ?_, ?_⟩
  · have hvals := State.ldcValues_unlined hw hl sb.toNat g.toNat (accSize z) x
    change execLdc d h x z g sb t s = _
    unfold execLdc
    simp only [State.breach_noSpills hspill, State.poisonIn_none hpoison, ite_self, hw, hvals]
    rfl
  · exact State.withRegs_framed hw _
      (State.withTokens_frame hw (fun _ h => h) _ (State.perLane_onlyLanes hw t (State.ldcOut_lane s _ _ _ _ _)).issues)

variable (d : Reg) (h x : Bool) (z : BitVec 2) (g : Reg) (sb : BitVec 6) (t : Bool)

theorem ld_framed : ∃ s', exec (.ld d h x z g sb t) s = .next s' ∧ Framed s s' w (g.toNat :: dataRegs d.toNat (accSize z)) :=
  ⟨_, rfl, State.memLanes_framed hw (g.toNat :: dataRegs d.toNat (accSize z)) [sb.toNat, sb.toNat + 1] t (globalAddr sb.toNat g.toNat s) (accSize z)
    false (ok := fun w th pl => .next (th.load s (accSize z) x d.toNat pl (globalAddr sb.toNat g.toNat s w th))) (after := id)
    (fun _ => rfl) (fun _ _ _ => rfl)⟩

theorem lds_framed : ∃ s', exec (.lds d h x z g sb t) s = .next s' ∧ Framed s s' w (g.toNat :: dataRegs d.toNat (accSize z)) :=
  ⟨_, rfl, State.padLanes_framed hw (g.toNat :: dataRegs d.toNat (accSize z)) [sb.toNat] t (scratchAddr sb.toNat g.toNat s) (accSize z)
    (ok := fun _ th pl => .next (th.load s (accSize z) x d.toNat pl 0)) (after := id) (fun _ => rfl) (fun _ _ _ => rfl)⟩

theorem st_framed (ha : s.Agrees w) :
    ∃ s', exec (.st d h z g sb t) s = .next s' ∧ Framed s s' w (g.toNat :: dataRegs d.toNat (accSize z)) :=
  ⟨_, rfl, State.memLanes_framed hw (g.toNat :: dataRegs d.toNat (accSize z)) [sb.toNat, sb.toNat + 1] t (globalAddr sb.toNat g.toNat s) (accSize z)
    true (ok := fun w th pl => s.storeOut w th pl (storeData d.toNat (accSize z) s th)
      (th.issue s (.store (storeData d.toNat (accSize z) s th)) pl (globalAddr sb.toNat g.toNat s w th)) th)
    (after := fun u => u.afterCompare s (s.globalPlace (globalAddr sb.toNat g.toNat s) (accSize z) true) (storeData d.toNat (accSize z) s))
    (State.afterCompare_agrees hw ha _ _) (fun v u pl => State.storeOut_lane s v u pl _ rfl rfl)⟩

theorem sts_framed (ha : s.Agrees w) :
    ∃ s', exec (.sts d h z g sb t) s = .next s' ∧ Framed s s' w (g.toNat :: dataRegs d.toNat (accSize z)) :=
  ⟨_, rfl, State.padLanes_framed hw (g.toNat :: dataRegs d.toNat (accSize z)) [sb.toNat] t (scratchAddr sb.toNat g.toNat s) (accSize z)
    (ok := fun w th pl => s.storeOut w th pl (storeData d.toNat (accSize z) s th)
      (th.issue s (.store (storeData d.toNat (accSize z) s th)) pl 0) th)
    (after := fun u => u.afterCompare s (s.padPlace (scratchAddr sb.toNat g.toNat s) (accSize z)) (storeData d.toNat (accSize z) s))
    (State.afterCompare_agrees hw ha _ _) (fun v u pl => State.storeOut_lane s v u pl _ rfl rfl)⟩
end

/-- The lane of an ordered access stays the same. -/
theorem Thread.order_lane (s : State) (t : Thread) (e : BitVec 2) (sc : Nat) (k : AccKind) (pl : Place) (va : Dword) :
    (t.order s e sc k pl va).lane = t.lane := by
  unfold Thread.order
  dsimp only
  split <;> split <;> rfl

/-- What a MEMO makes of a lane, where the link carries it: a trap, an issued access, a store compared. -/
theorem memoTail_lane (s : State) (v : Wave) (u : Thread) (pl : Place) (barred : Bool) (op : MemoOp) (data : List Byte) {k : Thread} (hk : k.lane = u.lane) :
    (if barred = true then Out.trap u cFAULT else if op = .ldo then .next k else s.storeOut v u pl data k k).thread.lane = u.lane := by
  split
  · rfl
  · split
    · exact hk
    · exact State.storeOut_lane s v u pl data hk hk

theorem exec_of_memo {i : Instr} {op : MemoOp} {d a : Reg} {z : Bool} {e : BitVec 2} {c : BitVec 3} {t : Bool} (h : Memo i op d a z e c t) (s : State) :
    exec i s = memo op d a z e c t s := by
  cases h <;> rfl

theorem memo_framed {s : State} {w : Wave} (hw : s.curWave = some w) {i : Instr} {op : MemoOp} {d a : Reg} {z : Bool} {e : BitVec 2} {c : BitVec 3}
    {t : Bool} (row : Memo i op d a z e c t) (ha : op = .ldo ∨ s.Agrees w) :
    ∃ s', exec i s = .next s' ∧ Framed s s' w ([a.toNat, a.toNat + 1] ++ dataRegs d.toNat (if z then 8 else 4) ++
        (if op = .cas then dataRegs (d.toNat + (if z then 8 else 4) / 4) (if z then 8 else 4) else [])) := by
  rw [exec_of_memo row]
  refine ⟨_, rfl, State.withRegs_framed hw _ ?_⟩
  simp only [hw]
  split
  · exact (State.trapAll_onlyLanes hw cSCOPE).issues
  · refine (State.memLanes_framed hw [] [] t _ _ _ (fun u => ?_) (fun v u pl => ?_)).issues
    · split
      · rfl
      next hop => exact State.afterCompare_agrees hw (ha.resolve_left hop) _ _ u
    · have hth : ∀ k, ((if op = .sto then u.order s e c.toNat k pl (u.pair? s a.toNat)
          else (u.order s e c.toNat k pl (u.pair? s a.toNat)).markResult d.toNat (if z then 8 else 4))).lane = u.lane := by
        intro k
        split
        · exact Thread.order_lane s u ..
        · exact Thread.order_lane s u ..
      exact memoTail_lane s v u pl _ op _ (hth _)

theorem pairIf_size (z : BitVec 2) (n : Nat) : pairIf (2 ^ z.toNat = 8) n = dataRegs n (accSize z) := by
  unfold pairIf dataRegs accSize
  simp only [decide_eq_true_eq]

/-- Each of the memory instructions issues what it does in its lanes alone. -/
theorem accesses_framed {i : Instr} {rs : List Nat} {only : State → Wave → Prop} (h : Accesses i rs only) {s : State} {w : Wave}
    (hw : s.curWave = some w) (ha : only s w) : ∃ s', exec i s = .next s' ∧ Framed s s' w rs := by
  cases h with
  | ld => rw [pairIf_size]; exact ld_framed hw ..
  | st => rw [pairIf_size]; exact st_framed hw _ _ _ _ _ _ ha
  | lds => rw [pairIf_size]; exact lds_framed hw ..
  | sts => rw [pairIf_size]; exact sts_framed hw _ _ _ _ _ _ ha
  | ldc =>
    obtain ⟨hl, hpoison, hspill⟩ := ha
    rw [pairIf_size]
    exact ldc_framed hw _ _ _ _ _ _ _ hl hpoison hspill
  | memo row =>
    have h := memo_framed hw row ha
    have hregs : ∀ (z : Bool) (n : Nat), dataRegs n (if z then 8 else 4) = pairIf (z = true) n := by
      intro z n
      cases z <;> rfl
    have hsize : ∀ z : Bool, (if z then 8 else 4) / 4 = if z = true then 2 else 1 := by decide
    simp only [hregs, hsize] at h
    exact h
  | pub c t => exact phase_framed hw [.publish c.toNat] c t
  | rfsh c t => exact phase_framed hw [.refresh c.toNat] c t
  | phase c t => exact phase_framed hw [.publish c.toNat, .refresh c.toNat] c t

/-! ## The cross-lane instructions -/

/-- The lanes that a cross-lane instruction may change: those of the path, and those that stand at a rendezvous. -/
def MeetingLane (s : State) (w : Wave) (l : Nat) : Prop := l ∈ s.cur.lanes ∨ ∃ u x n a k b, w.lane? l = some u ∧ u.wait = .cross x n a k b

theorem State.OnlyIssues.reported {s s' : State} {w : Wave} {p : Nat → Prop} (h : s.OnlyIssues s' w p) : s.OnlyIssues (s'.reported w.core w.slot) w p := by
  unfold State.reported
  split
  · exact h
  · exact (h.onWave (g := fun v => { v with regs := { v.regs with tailrule := 0 } }) (fun _ => rfl) (fun _ _ _ _ => rfl)).flushFor _ _

/-- The completion of rendezvous changes the lanes that stand at one. -/
theorem State.OnlyIssues.settle {s s' : State} {w : Wave} (hw : s.wave? w.core w.slot = some w)
    (h : s.OnlyIssues s' w (fun l => l ∈ s.cur.lanes)) : s.OnlyIssues (s'.settle w.core w.slot) w (MeetingLane s w) := by
  have hsettled : s.OnlyIssues (s'.onWave w.core w.slot (fun v => v.settled s')) w (MeetingLane s w) := by
    refine State.OnlyIssues.onWave (h.mono (fun _ hl => .inl hl)) (fun _ => rfl) (fun v hv l hl => ?_)
    have hsame : v.lane? l = w.lane? l := by
      have e := h.rest l (fun hp => hl (.inl hp))
      rwa [State.lane?, State.lane?, hv, hw] at e
    rw [Wave.settled_lane, hsame]
    cases hu : w.lane? l with
    | none => rfl
    | some u => exact congrArg some (Wave.crossStep_stays s' v (fun x n a k b hwait => hl (.inr ⟨u, x, n, a, k, b, hu, hwait⟩)))
  unfold State.settle
  dsimp only
  split
  · split
    · exact hsettled.reported
    · exact hsettled
  · exact hsettled

/-- Settles O60: each row is a lane-by-lane instruction, one that issues accesses, or one that arrives at a rendezvous, with the frame of its kind. -/
theorem registerFrame : Obligations.RegisterFrame := by
  unfold Obligations.RegisterFrame
  refine ⟨?plain, ?accesses, ?cross⟩
  case plain =>
    intro i rs row s w hw
    obtain ⟨t, f, hexec, hf⟩ := plain_laneForm row s
    exact ⟨_, hexec, State.lanes_frame hw rs t hf, State.withRegs_undeclared s w rs _⟩
  case accesses =>
    intro i rs only row s w hw ha
    obtain ⟨s', hexec, hframe⟩ := accesses_framed row hw ha
    exact ⟨s', hexec, hframe.issues, hframe.undeclared⟩
  case cross =>
    intro i rs m t A K f row s w hw
    obtain ⟨hc, hsl⟩ := State.wave?_isAt (s := s) hw
    have hwave : s.wave? w.core w.slot = some w := by rw [hc, hsl]; exact hw
    obtain ⟨x, hexec⟩ := exec_of_cross row s
    rw [← hc, ← hsl] at hexec
    have hmeet : ∀ l ∈ s.cur.lanes, MeetingLane s w l := fun _ hl => .inl hl
    have hframe := State.OnlyIssues.settle hwave (State.perLane_onlyLanes hw t (crossOutcome_lane s m.toNat t x A K)).issues
    exact ⟨_, hexec, State.withRegs_frame hw hmeet rs (State.withTokens_frame hw hmeet _ hframe), State.withRegs_undeclared s w rs _⟩

end Sys2Proof.Machine
end

section
/-! PROOFS. O52: FADD, FMUL and FFMA of finite operands round their exact result once (spec/04 R64, R71 to R73, R76). The finite words are read as magnitudes in
counts of 2^-149; the model's rounding is read as the quotient and the rest of the exact magnitude, in counts of 2^-298, by a power of two; between the
two multiples about it no finite word lies. -/

namespace Sys2Proof.Machine
open Sys2Proof.Claims
set_option exponentiation.threshold 512

/-! ## Finite words as magnitudes -/

/-- A magnitude with a sign. -/
def withSign (neg : Bool) (n : Nat) : Int := if neg then -(n : Int) else n

/-- The magnitude of the low 31 bits of a finite word, as a count of 2^-149. -/
def mag (c : Nat) : Nat := if c / 2 ^ 23 = 0 then c % 2 ^ 23 else (2 ^ 23 + c % 2 ^ 23) * 2 ^ (c / 2 ^ 23 - 1)

theorem units_eq (w : Word) : units w = withSign (w.getLsbD 31) (mag (w.toNat % 2 ^ 31)) := by
  have he : w.toNat / 2 ^ 23 % 256 = w.toNat % 2 ^ 31 / 2 ^ 23 := by omega
  have hm : w.toNat % 2 ^ 23 = w.toNat % 2 ^ 31 % 2 ^ 23 := by omega
  have hmag : (if w.toNat % 2 ^ 31 / 2 ^ 23 = 0 then ((w.toNat % 2 ^ 31 % 2 ^ 23 : Nat) : Int)
      else (2 ^ 23 + ((w.toNat % 2 ^ 31 % 2 ^ 23 : Nat) : Int)) * 2 ^ (w.toNat % 2 ^ 31 / 2 ^ 23 - 1)) = (mag (w.toNat % 2 ^ 31) : Nat) := by
    unfold mag
    split
    · rfl
    · push_cast
      rfl
  simp only [units, he, hm, hmag, withSign]
  cases w.getLsbD 31 with
  | false => simp
  | true => simp

theorem finite_iff (w : Word) : finite w ↔ w.toNat % 2 ^ 31 < 255 * 2 ^ 23 := by
  have := w.isLt
  unfold finite
  omega

/-- The magnitude of a code that is an exponent and a significand, also one that carries into the exponent. -/
theorem mag_code {j q : Nat} (hq : q ≤ 2 ^ 24) (h : j = 0 ∨ 2 ^ 23 ≤ q) : mag (j * 2 ^ 23 + q) = q * 2 ^ j := by
  unfold mag
  rcases Nat.lt_or_ge q (2 ^ 23) with hlt | hge
  · obtain rfl : j = 0 := h.resolve_right (by omega)
    rw [if_pos (by omega)]
    omega
  · rcases Nat.lt_or_ge q (2 ^ 24) with hlt' | hge'
    · rw [if_neg (by omega), show (j * 2 ^ 23 + q) / 2 ^ 23 - 1 = j by omega, show 2 ^ 23 + (j * 2 ^ 23 + q) % 2 ^ 23 = q by omega]
    · obtain rfl : q = 2 ^ 24 := by omega
      rw [if_neg (by omega), show (j * 2 ^ 23 + 2 ^ 24) / 2 ^ 23 - 1 = j + 1 by omega, show 2 ^ 23 + (j * 2 ^ 23 + 2 ^ 24) % 2 ^ 23 = 2 ^ 23 by omega]
      ring

/-- A magnitude from 2^(n+23) on is a multiple of 2^n. -/
theorem mag_dvd {c n : Nat} (h : 2 ^ (n + 23) ≤ mag c) : 2 ^ n ∣ mag c := by
  unfold mag at h ⊢
  split at h
  · have : 2 ^ 23 ≤ 2 ^ (n + 23) := Nat.pow_le_pow_right (by decide) (by omega)
    omega
  next he =>
    rw [if_neg he]
    have hlt : (2 ^ 23 + c % 2 ^ 23) * 2 ^ (c / 2 ^ 23 - 1) < 2 ^ 24 * 2 ^ (c / 2 ^ 23 - 1) := by
      refine Nat.mul_lt_mul_of_pos_right (by omega) (Nat.two_pow_pos _)
    have hexp : n + 23 < 24 + (c / 2 ^ 23 - 1) := by
      refine (Nat.pow_lt_pow_iff_right (a := 2) (by decide)).mp ?_
      rw [Nat.pow_add 2 24]
      exact lt_of_le_of_lt h hlt
    exact (Nat.pow_dvd_pow 2 (by omega)).mul_left _

theorem mag_le {c : Nat} (h : c < 255 * 2 ^ 23) : mag c ≤ (2 ^ 24 - 1) * 2 ^ 253 := by
  unfold mag
  split
  · omega
  · exact Nat.mul_le_mul (by omega) (Nat.pow_le_pow_right (by decide) (by omega))

/-- No finite word lies between the two multiples of 2^K about a magnitude that has 24 bits above 2^K, or of which 2^K is the least unit. -/
theorem mag_gap {M K : Nat} (hK : 149 ≤ K) (h : K = 149 ∨ 2 ^ (K + 23) ≤ M) (c : Nat) :
    2 ^ 149 * mag c ≤ M / 2 ^ K * 2 ^ K ∨ M / 2 ^ K * 2 ^ K + 2 ^ K ≤ 2 ^ 149 * mag c := by
  have hmul : ∀ {a D : Nat}, 0 < D → D ∣ a → a ≤ M / D * D ∨ M / D * D + D ≤ a := by
    rintro _ D hD ⟨b, rfl⟩
    rcases Nat.lt_or_ge (M / D) b with hb | hb
    · right
      calc M / D * D + D = D * (M / D + 1) := by ring
        _ ≤ D * b := Nat.mul_le_mul_left _ hb
    · left
      rw [Nat.mul_comm D b]
      exact Nat.mul_le_mul_right _ hb
  obtain ⟨n, rfl⟩ := Nat.exists_eq_add_of_le hK
  by_cases hc : 2 ^ (n + 23) ≤ mag c
  · exact hmul (Nat.two_pow_pos _) (by rw [Nat.pow_add]; exact Nat.mul_dvd_mul_left _ (mag_dvd hc))
  · rcases h with h0 | hM
    · obtain rfl : n = 0 := by omega
      exact hmul (Nat.two_pow_pos _) (Nat.dvd_mul_right _ _)
    · left
      have hdiv : 2 ^ 23 ≤ M / 2 ^ (149 + n) := by
        rw [Nat.le_div_iff_mul_le (Nat.two_pow_pos _), ← Nat.pow_add, Nat.add_comm]
        exact hM
      calc 2 ^ 149 * mag c ≤ 2 ^ 149 * 2 ^ (n + 23) := Nat.mul_le_mul_left _ (by omega)
        _ = 2 ^ 23 * 2 ^ (149 + n) := by ring
        _ ≤ M / 2 ^ (149 + n) * 2 ^ (149 + n) := Nat.mul_le_mul_right _ hdiv

/-! ## The model's rounding, in counts of 2^-298 -/

/-- The multiple of `D` that a magnitude is rounded to. -/
def roundedTo (mode : RMode) (neg : Bool) (M D : Nat) : Nat := if roundsUp mode neg (M / D) (M % D) D then M / D + 1 else M / D

theorem roundsUp_exact (mode : RMode) (neg : Bool) (q : Nat) {D : Nat} (hD : 0 < D) : roundsUp mode neg q 0 D = false := by
  cases mode with
  | rne => simp [roundsUp, hD.ne]
  | rtz => rfl
  | rdn => simp [roundsUp]
  | rup => simp [roundsUp]

theorem roundsUp_scale (mode : RMode) (neg : Bool) (q r d : Nat) {B : Nat} (hB : 0 < B) :
    roundsUp mode neg q (r * B) (d * B) = roundsUp mode neg q r d := by
  have h0 : r * B = 0 ↔ r = 0 := by simp [hB.ne']
  cases mode with
  | rne => simp only [roundsUp, ← Nat.mul_assoc, Nat.mul_lt_mul_right hB, Nat.mul_left_inj hB.ne']
  | rtz => rfl
  | rdn => simp only [roundsUp, ne_eq, h0]
  | rup => simp only [roundsUp, ne_eq, h0]

theorem roundMul_eq (mode : RMode) (neg : Bool) (m : Nat) {e k : Int} (he : -298 ≤ e) (hk : -149 ≤ k) :
    roundMul mode neg m e k = (roundedTo mode neg (m * 2 ^ (e + 298).toNat) (2 ^ (k + 298).toNat),
      decide (m * 2 ^ (e + 298).toNat % 2 ^ (k + 298).toNat ≠ 0)) := by
  unfold roundMul roundedTo
  by_cases hle : k ≤ e
  · have hpow : 2 ^ (e + 298).toNat = 2 ^ (e - k).toNat * 2 ^ (k + 298).toNat := by
      rw [← Nat.pow_add]
      congr 1
      omega
    rw [if_pos hle, hpow, ← Nat.mul_assoc, Nat.mul_mod_left, Nat.mul_div_cancel _ (Nat.two_pow_pos _), roundsUp_exact _ _ _ (Nat.two_pow_pos _)]
    simp
  · have hpow : 2 ^ (k + 298).toNat = 2 ^ (k - e).toNat * 2 ^ (e + 298).toNat := by
      rw [← Nat.pow_add]
      congr 1
      omega
    have hB := Nat.two_pow_pos (e + 298).toNat
    rw [if_neg hle, hpow, Nat.mul_div_mul_right _ _ hB, Nat.mul_mod_mul_right, roundsUp_scale _ _ _ _ _ hB]
    simp [hB.ne']

theorem magLt_eq {a b : Nat} {i j : Int} (hi : -298 ≤ i) (hj : -298 ≤ j) :
    magLt a i b j = decide (a * 2 ^ (i + 298).toNat < b * 2 ^ (j + 298).toNat) := by
  unfold magLt
  by_cases h : i ≤ j
  · have hpow : 2 ^ (j + 298).toNat = 2 ^ (j - i).toNat * 2 ^ (i + 298).toNat := by
      rw [← Nat.pow_add]
      congr 1
      omega
    simp only [h, if_true, hpow, ← Nat.mul_assoc, Nat.mul_lt_mul_right (Nat.two_pow_pos _)]
  · have hpow : 2 ^ (i + 298).toNat = 2 ^ (i - j).toNat * 2 ^ (j + 298).toNat := by
      rw [← Nat.pow_add]
      congr 1
      omega
    simp only [h, if_false, hpow, ← Nat.mul_assoc, Nat.mul_lt_mul_right (Nat.two_pow_pos _)]

/-- The code of a rounded magnitude: its exponent and its significand, a carry going into the exponent. -/
theorem encode_num (neg : Bool) {q K : Nat} (hK : 149 ≤ K) (hq : q ≤ 2 ^ 24) (h : K = 149 ∨ 2 ^ 23 ≤ q) :
    ieee32.encode (.num neg q ((K : Int) - 298)) = neg.toNat * 2 ^ 31 + ((K - 149) * 2 ^ 23 + q) := by
  obtain ⟨n, rfl⟩ := Nat.exists_eq_add_of_le hK
  have hbias : ((ieee32.bias : Nat) : Int) = 127 := rfl
  have ht : ((ieee32.t : Nat) : Int) = 23 := rfl
  have hsgn : ieee32.t + ieee32.w = 31 := rfl
  have hpow : 2 ^ ieee32.t = 2 ^ 23 := rfl
  simp only [Ieee.encode, Ieee.emin, hbias, ht, hsgn, hpow]
  split
  next h0 =>
    have : n = 0 := by omega
    simp [h0, this]
  next h0 =>
    have hlo := Nat.log2_self_le h0
    have hhi := Nat.lt_log2_self (n := q)
    have hlog : q.log2 < 23 ∧ q < 2 ^ 23 ∨ q.log2 = 23 ∧ 2 ^ 23 ≤ q ∧ q < 2 ^ 24 ∨ q.log2 = 24 ∧ q = 2 ^ 24 := by
      rcases Nat.lt_or_ge q (2 ^ 23) with h23 | h23
      · exact .inl ⟨(Nat.log2_lt h0).mpr h23, h23⟩
      · rcases Nat.lt_or_ge q (2 ^ 24) with h24 | h24
        · exact .inr (.inl ⟨(Nat.log2_eq_iff h0).mpr ⟨h23, h24⟩, h23, h24⟩)
        · obtain rfl : q = 2 ^ 24 := by omega
          exact .inr (.inr ⟨Nat.log2_two_pow, rfl⟩)
    clear hlo hhi
    split
    next hsub =>
      have hn : n = 0 := by push_cast at hsub; omega
      subst hn
      simp [shiftInt]
    next hnorm =>
      push_cast at hnorm
      rcases hlog with ⟨hl, h23⟩ | ⟨hl, h23, h24⟩ | ⟨hl, rfl⟩
      · omega
      · rw [hl]
        have hexp : (((23 : Nat) : Int) + ((149 + n : Nat) - 298) + 127).toNat = n + 1 := by omega
        have hshift : shiftInt q (((149 + n : Nat) : Int) - 298 - (((23 : Nat) : Int) + ((149 + n : Nat) - 298) - 23)) = q := by
          rw [show ((149 + n : Nat) : Int) - 298 - (((23 : Nat) : Int) + ((149 + n : Nat) - 298) - 23) = 0 by omega]
          simp [shiftInt]
        rw [hexp, hshift]
        omega
      · rw [hl]
        have hexp : (((24 : Nat) : Int) + ((149 + n : Nat) - 298) + 127).toNat = n + 2 := by omega
        have hshift : shiftInt (2 ^ 24) (((149 + n : Nat) : Int) - 298 - (((24 : Nat) : Int) + ((149 + n : Nat) - 298) - 23)) = 2 ^ 23 := by
          rw [show ((149 + n : Nat) : Int) - 298 - (((24 : Nat) : Int) + ((149 + n : Nat) - 298) - 23) = -1 by omega]
          rfl
        rw [hexp, hshift]
        omega

/-- The exponent that a magnitude is rounded at: 24 bits stand above it, or it is the least. -/
structure RoundsAt (M K : Nat) : Prop where
  least : 149 ≤ K
  above : K = 149 ∨ 2 ^ (K + 23) ≤ M
  below : M < 2 ^ (K + 24)

theorem roundsAt_exists {m : Nat} {e : Int} (h0 : m ≠ 0) (he : -298 ≤ e) :
    ∃ K : Nat, max ((Nat.log2 m : Int) + e - (24 : Nat) + 1) (-126 - (24 : Nat) + 1) = (K : Int) - 298 ∧ RoundsAt (m * 2 ^ (e + 298).toNat) K := by
  obtain ⟨n, rfl⟩ : ∃ n : Nat, e = (n : Int) - 298 := ⟨(e + 298).toNat, by omega⟩
  have hn : ((n : Int) - 298 + 298).toNat = n := by omega
  have hlo : 2 ^ (m.log2 + n) ≤ m * 2 ^ n := by
    rw [Nat.pow_add]
    exact Nat.mul_le_mul_right _ (Nat.log2_self_le h0)
  have hhi : m * 2 ^ n < 2 ^ (m.log2 + 1 + n) := by
    rw [Nat.pow_add 2 (m.log2 + 1)]
    exact Nat.mul_lt_mul_of_pos_right Nat.lt_log2_self (Nat.two_pow_pos _)
  rw [hn]
  refine ⟨max (m.log2 + n - 23) 149, by omega, ⟨by omega, ?_, lt_of_lt_of_le hhi (Nat.pow_le_pow_right (by decide) (by omega))⟩⟩
  by_cases hmax : m.log2 + n ≤ 172
  · exact .inl (by omega)
  · exact .inr (by rwa [show max (m.log2 + n - 23) 149 + 23 = m.log2 + n by omega])

section
variable {M K : Nat} (h : RoundsAt M K) (mode : RMode) (neg : Bool)
include h

theorem RoundsAt.quotient_lt : M / 2 ^ K < 2 ^ 24 := by
  rw [Nat.div_lt_iff_lt_mul (Nat.two_pow_pos _), ← Nat.pow_add, Nat.add_comm]
  exact h.below

theorem RoundsAt.le_quotient : K = 149 ∨ 2 ^ 23 ≤ M / 2 ^ K := by
  refine h.above.imp_right fun hM => ?_
  rw [Nat.le_div_iff_mul_le (Nat.two_pow_pos _), ← Nat.pow_add, Nat.add_comm]
  exact hM

theorem RoundsAt.rounded_le : roundedTo mode neg M (2 ^ K) ≤ 2 ^ 24 := by
  have := h.quotient_lt
  unfold roundedTo
  split <;> omega

theorem RoundsAt.le_rounded : K = 149 ∨ 2 ^ 23 ≤ roundedTo mode neg M (2 ^ K) := by
  refine h.le_quotient.imp_right fun hq => ?_
  unfold roundedTo
  split <;> omega
end

/-- The greatest finite magnitude, as a count of 2^-298. -/
def most : Nat := (2 ^ 24 - 1) * 2 ^ 402

/-- The word of a rounded magnitude. -/
def codeOf (neg : Bool) (c : Nat) : Word := BitVec.ofNat 32 (neg.toNat * 2 ^ 31 + c)

/-- An exact number rounded to f32, in counts of 2^-298. -/
theorem round32m_num (mode : RMode) (neg : Bool) {m M K : Nat} {e : Int} (h0 : m ≠ 0) (he : -298 ≤ e) (hM : m * 2 ^ (e + 298).toNat = M)
    (hK : max ((Nat.log2 m : Int) + e - (24 : Nat) + 1) (-126 - (24 : Nat) + 1) = (K : Int) - 298) (h : RoundsAt M K) :
    round32m mode (.num neg m e) =
      if most < roundedTo mode neg M (2 ^ K) * 2 ^ K then
        (codeOf neg (if overflowsToInf mode neg then 255 * 2 ^ 23 else 255 * 2 ^ 23 - 1), fOF ||| fNX)
      else (codeOf neg ((K - 149) * 2 ^ 23 + roundedTo mode neg M (2 ^ K)),
        if M % 2 ^ K ≠ 0 then (if roundedTo mode neg M (2 ^ K) * 2 ^ K < 2 ^ 172 then fUF ||| fNX else fNX) else 0) := by
  have hprec : ieee32.dest.prec = 24 := rfl
  have hemin : ieee32.dest.emin = -126 := rfl
  have hmaxM : ieee32.dest.maxM = 2 ^ 24 - 1 := rfl
  have hmaxE : ieee32.dest.maxE = 104 := rfl
  have hinf : ieee32.dest.hasInf = true := rfl
  have hzero : ieee32.dest.negZero = true := rfl
  have hmul := roundMul_eq mode neg m he (k := (K : Int) - 298) (by have := h.least; omega)
  have hKn : ((K : Int) - 298 + 298).toNat = K := by omega
  rw [hKn, hM] at hmul
  have hleast := h.least
  have hcode := encode_num neg h.least (h.rounded_le mode neg) (h.le_rounded mode neg)
  have hfull : ieee32.encode (.num neg (2 ^ 24 - 1) 104) = neg.toNat * 2 ^ 31 + (255 * 2 ^ 23 - 1) :=
    encode_num neg (q := 2 ^ 24 - 1) (K := 402) (by decide) (by decide) (.inr (by decide))
  have hendless : ieee32.encode (.inf neg) = neg.toNat * 2 ^ 31 + 255 * 2 ^ 23 := rfl
  generalize roundedTo mode neg M (2 ^ K) = q at hmul hcode ⊢
  have hover : magLt (2 ^ 24 - 1) 104 q ((K : Int) - 298) = decide (most < q * 2 ^ K) := by
    rw [magLt_eq (by omega) (by omega), hKn, show ((104 : Int) + 298).toNat = 402 from rfl, most]
  have hunder : magLt q ((K : Int) - 298) 1 (-126) = decide (q * 2 ^ K < 2 ^ 172) := by
    rw [magLt_eq (by omega) (by omega), hKn, Nat.one_mul]
    rfl
  simp only [round32m, roundIeee, roundTo, hprec, hemin, hmaxM, hmaxE, hinf, hzero, h0, if_false, hK, hmul, Bool.false_eq_true, hover, hunder,
    decide_eq_true_eq, Bool.or_true, Bool.and_true, if_true]
  by_cases hbig : most < q * 2 ^ K
  · simp only [hbig, if_true, codeOf]
    cases overflowsToInf mode neg with
    | false => simp only [Bool.false_eq_true, if_false, hfull]
    | true => simp only [if_true, hendless]
  · simp only [hbig, if_false, codeOf, hcode]

/-- The same of any number, 0 too. -/
theorem round32m_eq (mode : RMode) (neg : Bool) (m : Nat) {e : Int} (he : -298 ≤ e) :
    ∃ K, RoundsAt (m * 2 ^ (e + 298).toNat) K ∧ round32m mode (.num neg m e) =
      if most < roundedTo mode neg (m * 2 ^ (e + 298).toNat) (2 ^ K) * 2 ^ K then
        (codeOf neg (if overflowsToInf mode neg then 255 * 2 ^ 23 else 255 * 2 ^ 23 - 1), fOF ||| fNX)
      else (codeOf neg ((K - 149) * 2 ^ 23 + roundedTo mode neg (m * 2 ^ (e + 298).toNat) (2 ^ K)),
        if m * 2 ^ (e + 298).toNat % 2 ^ K ≠ 0 then
          (if roundedTo mode neg (m * 2 ^ (e + 298).toNat) (2 ^ K) * 2 ^ K < 2 ^ 172 then fUF ||| fNX else fNX)
        else 0) := by
  by_cases h0 : m = 0
  · refine ⟨149, ⟨le_rfl, .inl rfl, by simp [h0]⟩, ?_⟩
    have hq : roundedTo mode neg 0 (2 ^ 149) = 0 := by
      rw [roundedTo, Nat.zero_mod, roundsUp_exact _ _ _ (Nat.two_pow_pos _)]
      rfl
    have hcode : ieee32.encode (.num neg 0 0) = neg.toNat * 2 ^ 31 := rfl
    have hzero : ieee32.dest.negZero = true := rfl
    rw [h0, Nat.zero_mul, hq]
    simp [round32m, roundIeee, roundTo, hzero, hcode, codeOf]
  · obtain ⟨K, hK, h⟩ := roundsAt_exists h0 he
    exact ⟨K, h, round32m_num mode neg h0 he rfl hK h⟩

/-! ## The word of a rounded magnitude -/

section
variable (neg : Bool) {c : Nat} (hc : c < 2 ^ 31)
include hc

theorem codeOf_toNat : (codeOf neg c).toNat = neg.toNat * 2 ^ 31 + c := by
  rw [codeOf, BitVec.toNat_ofNat, Nat.mod_eq_of_lt]
  cases neg
  · simp; omega
  · simp; omega

theorem codeOf_low : (codeOf neg c).toNat % 2 ^ 31 = c := by
  rw [codeOf_toNat neg hc]
  omega

theorem codeOf_sign : (codeOf neg c).getLsbD 31 = neg := by
  rw [← testBit_toNat_eq, codeOf_toNat neg hc, Nat.testBit_eq_decide_div_mod_eq]
  cases neg
  · simp; omega
  · simp; omega

theorem units_codeOf : units (codeOf neg c) = withSign neg (mag c) := by rw [units_eq, codeOf_sign neg hc, codeOf_low neg hc]

theorem finite_codeOf : finite (codeOf neg c) ↔ c < 255 * 2 ^ 23 := by rw [finite_iff, codeOf_low neg hc]
end

theorem mul_withSign (n : Bool) (a b : Nat) : (a : Int) * withSign n b = withSign n (a * b) := by
  cases n <;> simp [withSign]

theorem natAbs_withSign (n : Bool) (a : Nat) : (withSign n a).natAbs = a := by
  cases n <;> simp [withSign]

/-- The value of a finite word, as a count of 2^-298. -/
theorem value_eq {y : Word} (hy : finite y) : ∃ (n : Bool) (c : Nat), c < 255 * 2 ^ 23 ∧ 2 ^ 149 * units y = withSign n (2 ^ 149 * mag c) := by
  refine ⟨y.getLsbD 31, y.toNat % 2 ^ 31, (finite_iff y).mp hy, ?_⟩
  rw [units_eq, ← mul_withSign]
  rfl

theorem most_eq : most = 2 ^ 149 * mag (255 * 2 ^ 23 - 1) := by
  rw [show mag (255 * 2 ^ 23 - 1) = (2 ^ 24 - 1) * 2 ^ 253 from rfl, most, show 402 = 149 + 253 from rfl, Nat.pow_add]
  ring

section
variable {M K : Nat} (h : RoundsAt M K)
include h

/-- A magnitude whose multiple below is past the greatest finite one reaches 2^128. -/
theorem RoundsAt.past_most (hL : most < M / 2 ^ K * 2 ^ K) : 2 ^ 426 ≤ M / 2 ^ K * 2 ^ K := by
  have hq := h.quotient_lt
  have hK : 402 < K := by
    by_contra hle
    have hpow := Nat.pow_le_pow_right (n := 2) Nat.two_pos (show K ≤ 402 by omega)
    have hle := Nat.mul_le_mul (Nat.le_sub_one_of_lt hq) hpow
    rw [← most] at hle
    omega
  have hq23 := h.le_quotient.resolve_left (by omega)
  calc 2 ^ 426 = 2 ^ 23 * 2 ^ 403 := by rw [← Nat.pow_add]
    _ ≤ M / 2 ^ K * 2 ^ K := Nat.mul_le_mul hq23 (Nat.pow_le_pow_right (by decide) hK)

/-- One whose multiple below is the greatest finite one. -/
theorem RoundsAt.at_most (hL : M / 2 ^ K * 2 ^ K = most) : K = 402 ∧ M / 2 ^ K = 2 ^ 24 - 1 := by
  have hq := h.quotient_lt
  have hpos := Nat.two_pow_pos 402
  rcases Nat.lt_trichotomy K 402 with hlt | heq | hgt
  · exfalso
    have hpow := Nat.pow_le_pow_right (n := 2) Nat.two_pos (show K ≤ 401 by omega)
    have hle := Nat.mul_le_mul (Nat.le_sub_one_of_lt hq) hpow
    rw [hL] at hle
    have hexp := (Nat.pow_le_pow_iff_right Nat.one_lt_two).mp (Nat.le_of_mul_le_mul_left hle (by decide))
    omega
  · refine ⟨heq, ?_⟩
    rw [heq, most] at hL
    rw [heq]
    exact Nat.eq_of_mul_eq_mul_right hpos hL
  · exfalso
    obtain ⟨n, rfl⟩ := Nat.exists_eq_add_of_lt hgt
    have hsplit : 2 ^ (402 + n + 1) = 2 * 2 ^ n * 2 ^ 402 := by rw [Nat.pow_succ, Nat.pow_add]; ring
    rw [hsplit, most, ← Nat.mul_assoc] at hL
    have := Nat.eq_of_mul_eq_mul_right hpos hL
    have hodd : (M / (2 * 2 ^ n * 2 ^ 402) * (2 * 2 ^ n)) % 2 = 0 := by
      rw [Nat.mul_comm 2, ← Nat.mul_assoc]
      exact Nat.mul_mod_left _ _
    omega

theorem RoundsAt.most_gap : most ≤ M / 2 ^ K * 2 ^ K ∨ M / 2 ^ K * 2 ^ K + 2 ^ K ≤ most := by
  rw [most_eq]
  exact mag_gap h.least h.above _
end

/-! ## Each mode gives the word it asks for -/

/-- What the rounded multiple is: of the two about the magnitude the one below or the one above. -/
theorem roundedTo_mul (mode : RMode) (neg : Bool) (M : Nat) {D : Nat} :
    roundedTo mode neg M D * D = if roundsUp mode neg (M / D) (M % D) D = true then M / D * D + D else M / D * D := by
  unfold roundedTo
  split
  · exact Nat.succ_mul ..
  · rfl

section
variable {M K : Nat} (h : RoundsAt M K)
include h

/-- Past the greatest finite number by half of its last place or more: there nearest-even overflows, and there alone. -/
theorem RoundsAt.rne_overflows (neg : Bool) : most < roundedTo .rne neg M (2 ^ K) * 2 ^ K ↔ (2 ^ 25 - 1) * 2 ^ 401 ≤ M := by
  have hsplit := Nat.div_add_mod M (2 ^ K)
  have hlt := Nat.mod_lt M (Nat.two_pow_pos K)
  have hgap := h.most_gap
  have hpast := h.past_most
  have hhalf : 2 ^ 402 = 2 * 2 ^ 401 := Nat.pow_succ'
  have hat : M / 2 ^ K * 2 ^ K = most → 2 ^ K = 2 * 2 ^ 401 ∧ M / 2 ^ K % 2 = 1 := by
    intro hL
    obtain ⟨rfl, hq⟩ := h.at_most hL
    exact ⟨hhalf, by rw [hq]; rfl⟩
  have hmost : most = (2 ^ 25 - 2) * 2 ^ 401 := by
    rw [most, hhalf, ← Nat.mul_assoc]
    rfl
  have htop : 2 ^ 426 = 2 ^ 25 * 2 ^ 401 := by rw [← Nat.pow_add]
  rw [roundedTo_mul]
  simp only [roundsUp, Bool.or_eq_true, Bool.and_eq_true, decide_eq_true_eq, beq_iff_eq]
  rw [Nat.mul_comm] at hsplit
  rw [htop] at hpast
  clear htop hhalf h
  generalize M / 2 ^ K = q at *
  generalize q * 2 ^ K = L at *
  generalize M % 2 ^ K = R at *
  generalize 2 ^ K = D at *
  generalize 2 ^ 401 = P at *
  split <;> omega

/-- What is known of the multiples about a magnitude, for `omega`. -/
theorem RoundsAt.facts : M / 2 ^ K * 2 ^ K + M % 2 ^ K = M ∧ M % 2 ^ K < 2 ^ K ∧ (most ≤ M / 2 ^ K * 2 ^ K ∨ M / 2 ^ K * 2 ^ K + 2 ^ K ≤ most) := by
  refine ⟨?_, Nat.mod_lt M (Nat.two_pow_pos K), h.most_gap⟩
  rw [Nat.mul_comm]
  exact Nat.div_add_mod M (2 ^ K)

/-- A finite word is not between them, and not past the greatest. -/
theorem RoundsAt.value_gap {y : Word} (hy : finite y) : ∃ (n : Bool) (a : Nat), 2 ^ 149 * units y = withSign n a ∧ a ≤ most ∧
    (a ≤ M / 2 ^ K * 2 ^ K ∨ M / 2 ^ K * 2 ^ K + 2 ^ K ≤ a) := by
  obtain ⟨n, c, hc, hval⟩ := value_eq hy
  refine ⟨n, 2 ^ 149 * mag c, hval, ?_, mag_gap h.least h.above c⟩
  rw [most, show 402 = 149 + 253 from rfl, Nat.pow_add, Nat.mul_left_comm]
  exact Nat.mul_le_mul_left _ (mag_le hc)

/-- The word of a multiple that does not pass the greatest finite number. -/
theorem RoundsAt.word_finite {q : Nat} (hq : q ≤ 2 ^ 24) (hq' : K = 149 ∨ 2 ^ 23 ≤ q) (hle : q * 2 ^ K ≤ most) (neg : Bool) :
    (K - 149) * 2 ^ 23 + q < 255 * 2 ^ 23 ∧ 2 ^ 149 * units (codeOf neg ((K - 149) * 2 ^ 23 + q)) = withSign neg (q * 2 ^ K) := by
  have hlt : (K - 149) * 2 ^ 23 + q < 255 * 2 ^ 23 := by
    by_contra hge
    have hK : 402 ≤ K := by omega
    rcases Nat.lt_or_ge 402 K with hgt | hle402
    · have hpow := Nat.pow_le_pow_right (n := 2) Nat.two_pos (show 403 ≤ K from hgt)
      have hmul := Nat.mul_le_mul (hq'.resolve_left (by omega)) hpow
      have htop : 2 ^ 23 * 2 ^ 403 = 2 ^ 24 * 2 ^ 402 := by rw [← Nat.pow_add, ← Nat.pow_add]
      rw [htop] at hmul
      exact absurd (Nat.le_of_mul_le_mul_right (le_trans hmul hle) (Nat.two_pow_pos 402)) (by decide)
    · obtain rfl : K = 402 := by omega
      have hq24 : q = 2 ^ 24 := by omega
      rw [hq24, most] at hle
      exact absurd (Nat.le_of_mul_le_mul_right hle (Nat.two_pow_pos 402)) (by decide)
  refine ⟨hlt, ?_⟩
  rw [units_codeOf neg (by omega), mag_code hq (hq'.imp_left (by omega))]
  obtain ⟨n, rfl⟩ := Nat.exists_eq_add_of_le h.least
  rw [Nat.add_sub_cancel_left, Nat.pow_add 2 149 n, Nat.mul_left_comm q]
  exact mul_withSign neg (2 ^ 149) (q * 2 ^ n)
end

/-- The word that a magnitude is rounded to. -/
def roundedWord (mode : RMode) (neg : Bool) (M K : Nat) : Word :=
  if most < roundedTo mode neg M (2 ^ K) * 2 ^ K then codeOf neg (if overflowsToInf mode neg then 255 * 2 ^ 23 else 255 * 2 ^ 23 - 1)
  else codeOf neg ((K - 149) * 2 ^ 23 + roundedTo mode neg M (2 ^ K))

section
variable {M K : Nat} (h : RoundsAt M K) (mode : RMode) (neg : Bool)
include h

/-- Where it is not past the greatest finite number it is the multiple, with its parity. -/
theorem RoundsAt.word_within (hle : roundedTo mode neg M (2 ^ K) * 2 ^ K ≤ most) : finite (roundedWord mode neg M K) ∧
    2 ^ 149 * units (roundedWord mode neg M K) = withSign neg (roundedTo mode neg M (2 ^ K) * 2 ^ K) ∧
    (roundedWord mode neg M K).toNat % 2 = roundedTo mode neg M (2 ^ K) % 2 := by
  obtain ⟨hlt, hval⟩ := h.word_finite (h.rounded_le mode neg) (h.le_rounded mode neg) hle neg
  rw [roundedWord, if_neg (Nat.not_lt.mpr hle)]
  refine ⟨(finite_codeOf neg (by omega)).mpr hlt, hval, ?_⟩
  rw [codeOf_toNat neg (by omega)]
  omega

omit h in
/-- Past it, it is infinite or the greatest finite word. -/
theorem word_past (hlt : most < roundedTo mode neg M (2 ^ K) * 2 ^ K) :
    (overflowsToInf mode neg = true → roundedWord mode neg M K = codeOf neg (255 * 2 ^ 23)) ∧
    (overflowsToInf mode neg = false → finite (roundedWord mode neg M K) ∧ 2 ^ 149 * units (roundedWord mode neg M K) = withSign neg most) := by
  rw [roundedWord, if_pos hlt]
  refine ⟨fun hinf => by rw [hinf, if_pos rfl], fun hinf => ?_⟩
  rw [hinf, if_neg Bool.false_ne_true]
  refine ⟨(finite_codeOf neg (by decide)).mpr (by decide), ?_⟩
  rw [units_codeOf neg (by decide), most_eq]
  exact mul_withSign neg (2 ^ 149) _

theorem RoundsAt.word_sign : (roundedWord mode neg M K).getLsbD 31 = neg := by
  unfold roundedWord
  split
  · split
    · exact codeOf_sign neg (by decide)
    · exact codeOf_sign neg (by decide)
  next hle =>
    have := (h.word_finite (h.rounded_le mode neg) (h.le_rounded mode neg) (Nat.not_lt.mp hle) neg).1
    exact codeOf_sign neg (by omega)

/-- The sign of the word is that of the number. -/
theorem RoundsAt.word_neg (hx : withSign neg M ≠ 0) : (roundedWord mode neg M K).getLsbD 31 = decide (withSign neg M < 0) := by
  rw [h.word_sign]
  cases neg with
  | false => simp [withSign]
  | true =>
    have : 0 < M := by
      simp only [withSign] at hx
      omega
    simp [withSign, this]

omit h in
theorem withSign_false (a : Nat) : withSign false a = a := rfl
omit h in
theorem withSign_true (a : Nat) : withSign true a = -(a : Int) := rfl

omit h in
/-- A magnitude rounded away from zero: the multiple above, where it is not one itself. -/
theorem rounded_away {mode : RMode} {neg : Bool} (hmode : ∀ q r d, roundsUp mode neg q r d = decide (r ≠ 0)) :
    roundedTo mode neg M (2 ^ K) * 2 ^ K = if M % 2 ^ K = 0 then M / 2 ^ K * 2 ^ K else M / 2 ^ K * 2 ^ K + 2 ^ K := by
  rw [roundedTo_mul, hmode]
  by_cases h0 : M % 2 ^ K = 0
  · simp [h0]
  · simp [h0]

/-- The least finite magnitude that is not below the number, negative or not: what a directed mode asks for away from zero. -/
theorem RoundsAt.away_spec {mode : RMode} {neg : Bool} (hmode : ∀ q r d, roundsUp mode neg q r d = decide (r ≠ 0)) (hinf : overflowsToInf mode neg = true) :
    if most < M then roundedWord mode neg M K = codeOf neg (255 * 2 ^ 23)
    else ∃ Q, finite (roundedWord mode neg M K) ∧ 2 ^ 149 * units (roundedWord mode neg M K) = withSign neg Q ∧ M ≤ Q ∧
      ∀ y, finite y → ∃ n a, 2 ^ 149 * units y = withSign n a ∧ (M ≤ a → Q ≤ a) := by
  obtain ⟨hsplit, hlt, hmost⟩ := h.facts
  have hq := rounded_away (M := M) (K := K) hmode
  split
  next hM =>
    refine (word_past mode neg ?_).1 hinf
    rw [hq]
    split <;> omega
  next hM =>
    have hle : roundedTo mode neg M (2 ^ K) * 2 ^ K ≤ most := by
      rw [hq]
      split <;> omega
    obtain ⟨hfin, hval, -⟩ := h.word_within mode neg hle
    refine ⟨_, hfin, hval, ?_, fun y hy => ?_⟩
    · rw [hq]
      split <;> omega
    · obtain ⟨n, a, ha, -, hgap⟩ := h.value_gap hy
      refine ⟨n, a, ha, fun hMa => ?_⟩
      rw [hq]
      split <;> omega

/-- The greatest finite magnitude that is not above it: what a directed mode asks for towards zero. -/
theorem RoundsAt.towards_spec {mode : RMode} {neg : Bool} (hmode : ∀ q r d, roundsUp mode neg q r d = false) (hinf : overflowsToInf mode neg = false) :
    ∃ Q, finite (roundedWord mode neg M K) ∧ 2 ^ 149 * units (roundedWord mode neg M K) = withSign neg Q ∧ Q ≤ M ∧
      ∀ y, finite y → ∃ n a, 2 ^ 149 * units y = withSign n a ∧ (a ≤ M → a ≤ Q) := by
  obtain ⟨hsplit, hlt, hmost⟩ := h.facts
  have hq : roundedTo mode neg M (2 ^ K) * 2 ^ K = M / 2 ^ K * 2 ^ K := by
    rw [roundedTo_mul, hmode]
    rfl
  by_cases hbig : most < roundedTo mode neg M (2 ^ K) * 2 ^ K
  · obtain ⟨hfin, hval⟩ := (word_past mode neg hbig).2 hinf
    refine ⟨most, hfin, hval, by omega, fun y hy => ?_⟩
    obtain ⟨n, a, ha, hamost, -⟩ := h.value_gap hy
    exact ⟨n, a, ha, fun _ => hamost⟩
  · obtain ⟨hfin, hval, -⟩ := h.word_within mode neg (Nat.not_lt.mp hbig)
    refine ⟨_, hfin, hval, by omega, fun y hy => ?_⟩
    obtain ⟨n, a, ha, -, hgap⟩ := h.value_gap hy
    exact ⟨n, a, ha, by omega⟩

theorem RoundsAt.rounded_rtz : Rounded .rtz (withSign neg M) (roundedWord .rtz neg M K) := by
  obtain ⟨Q, hfin, hval, hQ, hbest⟩ := h.towards_spec (mode := .rtz) (neg := neg) (fun _ _ _ => rfl) rfl
  refine ⟨h.word_neg .rtz neg, ?_⟩
  dsimp only
  rw [hval, natAbs_withSign, natAbs_withSign]
  refine ⟨hfin, hQ, fun y hy hle => ?_⟩
  obtain ⟨n, a, ha, hmax⟩ := hbest y hy
  rw [ha, natAbs_withSign] at hle ⊢
  exact hmax hle

omit h in
theorem most_cast : ((2 ^ 24 - 1) * 2 ^ 402 : Int) = (most : Nat) := by
  rw [most, Nat.cast_mul, Nat.cast_pow]
  rfl

theorem RoundsAt.rounded_rdn : Rounded .rdn (withSign neg M) (roundedWord .rdn neg M K) := by
  refine ⟨h.word_neg .rdn neg, ?_⟩
  dsimp only
  rw [most_cast]
  cases neg with
  | false =>
    obtain ⟨Q, hfin, hval, hQ, hbest⟩ := h.towards_spec (mode := .rdn) (neg := false) (fun _ _ _ => rfl) rfl
    rw [withSign_false] at hval ⊢
    rw [if_neg (by omega), hval]
    refine ⟨hfin, by omega, fun y hy hle => ?_⟩
    obtain ⟨n, a, ha, hmax⟩ := hbest y hy
    rw [ha] at hle ⊢
    cases n <;> simp only [withSign_false, withSign_true] at hle ⊢ <;> omega
  | true =>
    have hspec := h.away_spec (mode := .rdn) (neg := true) (fun _ _ _ => rfl) rfl
    rw [withSign_true]
    by_cases hM : most < M
    · rw [if_pos hM] at hspec
      rw [if_pos (by omega), hspec]
      rfl
    · rw [if_neg hM] at hspec
      obtain ⟨Q, hfin, hval, hQ, hbest⟩ := hspec
      rw [withSign_true] at hval
      rw [if_neg (by omega), hval]
      refine ⟨hfin, by omega, fun y hy hle => ?_⟩
      obtain ⟨n, a, ha, hmin⟩ := hbest y hy
      rw [ha] at hle ⊢
      cases n <;> simp only [withSign_false, withSign_true] at hle ⊢ <;> omega

theorem RoundsAt.rounded_rup : Rounded .rup (withSign neg M) (roundedWord .rup neg M K) := by
  refine ⟨h.word_neg .rup neg, ?_⟩
  dsimp only
  rw [most_cast]
  cases neg with
  | true =>
    obtain ⟨Q, hfin, hval, hQ, hbest⟩ := h.towards_spec (mode := .rup) (neg := true) (fun _ _ _ => rfl) rfl
    rw [withSign_true] at hval ⊢
    rw [if_neg (by omega), hval]
    refine ⟨hfin, by omega, fun y hy hle => ?_⟩
    obtain ⟨n, a, ha, hmax⟩ := hbest y hy
    rw [ha] at hle ⊢
    cases n <;> simp only [withSign_false, withSign_true] at hle ⊢ <;> omega
  | false =>
    have hspec := h.away_spec (mode := .rup) (neg := false) (fun _ _ _ => rfl) rfl
    rw [withSign_false]
    by_cases hM : most < M
    · rw [if_pos hM] at hspec
      rw [if_pos (by omega), hspec]
      rfl
    · rw [if_neg hM] at hspec
      obtain ⟨Q, hfin, hval, hQ, hbest⟩ := hspec
      rw [withSign_false] at hval
      rw [if_neg (by omega), hval]
      refine ⟨hfin, by omega, fun y hy hle => ?_⟩
      obtain ⟨n, a, ha, hmin⟩ := hbest y hy
      rw [ha] at hle ⊢
      cases n <;> simp only [withSign_false, withSign_true] at hle ⊢ <;> omega

/-- To nearest: the nearer multiple, of two as near the even one. -/
theorem RoundsAt.rounded_rne : Rounded .rne (withSign neg M) (roundedWord .rne neg M K) := by
  obtain ⟨hsplit, hlt, -⟩ := h.facts
  have hover := h.rne_overflows neg
  refine ⟨h.word_neg .rne neg, ?_⟩
  dsimp only
  rw [natAbs_withSign]
  split
  next hbig =>
    rw [(word_past .rne neg (hover.mpr hbig)).1 rfl]
    exact codeOf_low neg (by decide)
  next hbig =>
    obtain ⟨hfin, hval, hpar⟩ := h.word_within .rne neg (Nat.not_lt.mp (fun hp => hbig (hover.mp hp)))
    have hup : roundedTo .rne neg M (2 ^ K) =
        if 2 ^ K < 2 * (M % 2 ^ K) ∨ (2 * (M % 2 ^ K) = 2 ^ K ∧ M / 2 ^ K % 2 = 1) then M / 2 ^ K + 1 else M / 2 ^ K := by
      simp only [roundedTo, roundsUp, Bool.or_eq_true, Bool.and_eq_true, decide_eq_true_eq, beq_iff_eq]
    have hmul : (M / 2 ^ K + 1) * 2 ^ K = M / 2 ^ K * 2 ^ K + 2 ^ K := Nat.succ_mul ..
    refine ⟨hfin, fun y hy => ?_⟩
    obtain ⟨n, a, ha, -, hgap⟩ := h.value_gap hy
    rw [hval, ha, hpar, hup]
    clear hover hbig hval hpar hup hfin ha hy h
    split
    next hr =>
      rw [hmul]
      generalize M / 2 ^ K * 2 ^ K = L at *
      generalize M / 2 ^ K = q at *
      generalize M % 2 ^ K = R at *
      generalize 2 ^ K = D at *
      cases n <;> cases neg <;> simp only [withSign_false, withSign_true] <;> omega
    next hr =>
      generalize M / 2 ^ K * 2 ^ K = L at *
      generalize M / 2 ^ K = q at *
      generalize M % 2 ^ K = R at *
      generalize 2 ^ K = D at *
      cases n <;> cases neg <;> simp only [withSign_false, withSign_true] <;> omega

/-- Every mode gives the word it asks for. -/
theorem RoundsAt.rounded : Rounded mode (withSign neg M) (roundedWord mode neg M K) := by
  cases mode with
  | rne => exact h.rounded_rne neg
  | rtz => exact h.rounded_rtz neg
  | rdn => exact h.rounded_rdn neg
  | rup => exact h.rounded_rup neg

/-- The flags of that rounding. -/
def roundedFlags (mode : RMode) (neg : Bool) (M K : Nat) : Word :=
  if most < roundedTo mode neg M (2 ^ K) * 2 ^ K then fOF ||| fNX
  else if M % 2 ^ K ≠ 0 then (if roundedTo mode neg M (2 ^ K) * 2 ^ K < 2 ^ 172 then fUF ||| fNX else fNX) else 0

/-- Overflow, as the word and the magnitude show it. -/
theorem RoundsAt.overflows_iff :
    (¬finite (roundedWord mode neg M K) ∨ 2 ^ 426 ≤ M) ↔ most < roundedTo mode neg M (2 ^ K) * 2 ^ K := by
  obtain ⟨hsplit, hlt, hmost⟩ := h.facts
  have hge : M / 2 ^ K * 2 ^ K ≤ roundedTo mode neg M (2 ^ K) * 2 ^ K := by
    rw [roundedTo_mul]
    split <;> omega
  constructor
  · rintro (hinf | hM)
    · by_contra hle
      exact hinf (h.word_within mode neg (Nat.not_lt.mp hle)).1
    · have hlarge : (2 ^ 24 - 1) * 2 ^ 402 + 2 ^ 402 = 2 ^ 426 := by rw [← Nat.succ_mul, show 426 = 24 + 402 from rfl, Nat.pow_add]; rfl
      rw [← most] at hlarge
      have hpos := Nat.two_pow_pos 402
      by_cases hL : M / 2 ^ K * 2 ^ K = most
      · obtain ⟨rfl, -⟩ := h.at_most hL
        omega
      · omega
  · intro hbig
    cases hov : overflowsToInf mode neg with
    | true =>
      left
      rw [(word_past mode neg hbig).1 hov, finite_codeOf neg (by decide)]
      decide
    | false =>
      right
      have hdown : ∀ q r d, roundsUp mode neg q r d = false := by
        intro q r d
        cases mode with
        | rne => exact absurd hov (by simp [overflowsToInf])
        | rtz => rfl
        | rdn => simp only [overflowsToInf] at hov; simp [roundsUp, hov]
        | rup => simp only [overflowsToInf] at hov; simp [roundsUp, hov]
      rw [roundedTo_mul, hdown] at hbig
      have := h.past_most hbig
      omega

omit h in
/-- A magnitude that is a multiple is rounded to itself, any other to another. -/
theorem roundedTo_exact_iff : roundedTo mode neg M (2 ^ K) * 2 ^ K = M ↔ M % 2 ^ K = 0 := by
  have hsplit := Nat.div_add_mod M (2 ^ K)
  have hlt := Nat.mod_lt M (Nat.two_pow_pos K)
  rw [Nat.mul_comm] at hsplit
  rw [roundedTo_mul]
  by_cases h0 : M % 2 ^ K = 0
  · rw [h0, roundsUp_exact _ _ _ (Nat.two_pow_pos K), if_neg Bool.false_ne_true]
    omega
  · split <;> omega

omit h in
theorem withSign_inj (a b : Nat) : withSign neg a = withSign neg b ↔ a = b := by
  cases neg <;> simp [withSign]

omit h in
/-- A value in counts of 2^-298 is below the smallest normal number where its word is. -/
theorem units_subnormal {r : Word} {a : Nat} (hval : 2 ^ 149 * units r = withSign neg a) : (units r).natAbs < 2 ^ 23 ↔ a < 2 ^ 172 := by
  have habs : 2 ^ 149 * (units r).natAbs = a := by
    rw [← natAbs_withSign neg a, ← hval, Int.natAbs_mul]
    rfl
  rw [← habs, show 2 ^ 172 = 2 ^ 149 * 2 ^ 23 from rfl]
  exact (Nat.mul_lt_mul_left (Nat.two_pow_pos 149)).symm

/-- The flags are those of the rounding. -/
theorem RoundsAt.rounded_flags : RoundedFlags (withSign neg M) (roundedWord mode neg M K) (roundedFlags mode neg M K) := by
  have hover := h.overflows_iff mode neg
  unfold RoundedFlags
  dsimp only
  rw [natAbs_withSign, hover]
  by_cases hbig : most < roundedTo mode neg M (2 ^ K) * 2 ^ K
  · have hfl : Machine.roundedFlags mode neg M K = fOF ||| fNX := if_pos hbig
    have hbits : (fOF ||| fNX) &&& ~~~7#32 = 0 ∧ (fOF ||| fNX).getLsbD 2 = true ∧ (fOF ||| fNX).getLsbD 0 = true ∧ (fOF ||| fNX).getLsbD 1 = false := by
      decide
    obtain ⟨hhigh, hof, hnx, huf⟩ := hbits
    rw [hfl, hhigh, hof, hnx, huf]
    refine ⟨rfl, by simp [hbig], by simp [hbig], fun hfin _ => ?_, fun _ => rfl⟩
    cases hov : overflowsToInf mode neg with
    | true =>
      rw [(word_past mode neg hbig).1 hov, finite_codeOf neg (by decide)] at hfin
      exact absurd hfin (by decide)
    | false =>
      have hnormal : ¬most < 2 ^ 172 := by
        rw [most_eq]
        decide
      have hlarge := (units_subnormal neg ((word_past mode neg hbig).2 hov).2).not.mpr hnormal
      exact iff_of_false Bool.false_ne_true (fun hu => hlarge hu.2)
  · obtain ⟨hfin, hval, -⟩ := h.word_within mode neg (Nat.not_lt.mp hbig)
    have hexact : 2 ^ 149 * units (roundedWord mode neg M K) ≠ withSign neg M ↔ M % 2 ^ K ≠ 0 := by
      rw [hval, ne_eq, withSign_inj, roundedTo_exact_iff]
    have hfl : Machine.roundedFlags mode neg M K =
        if M % 2 ^ K ≠ 0 then (if roundedTo mode neg M (2 ^ K) * 2 ^ K < 2 ^ 172 then fUF ||| fNX else fNX) else 0 := if_neg hbig
    rw [hexact, units_subnormal neg hval, hfl]
    simp only [hbig, hfin, false_or, not_true_eq_false]
    by_cases h0 : M % 2 ^ K = 0
    · simp [h0]
    · by_cases hsmall : roundedTo mode neg M (2 ^ K) * 2 ^ K < 2 ^ 172
      · have hbits : (fUF ||| fNX) &&& ~~~7#32 = 0 ∧ (fUF ||| fNX).getLsbD 2 = false ∧ (fUF ||| fNX).getLsbD 0 = true ∧
          (fUF ||| fNX).getLsbD 1 = true := by decide
        obtain ⟨hhigh, hof, hnx, huf⟩ := hbits
        rw [if_pos h0, if_pos hsmall, hhigh, hof, hnx, huf]
        exact ⟨rfl, by simp, by simp [h0], fun _ _ => iff_of_true rfl ⟨h0, hsmall⟩, False.elim⟩
      · have hbits : fNX &&& ~~~7#32 = 0 ∧ fNX.getLsbD 2 = false ∧ fNX.getLsbD 0 = true ∧ fNX.getLsbD 1 = false := by decide
        obtain ⟨hhigh, hof, hnx, huf⟩ := hbits
        rw [if_pos h0, if_neg hsmall, hhigh, hof, hnx, huf]
        exact ⟨rfl, by simp, by simp [h0], fun _ _ => iff_of_false Bool.false_ne_true (fun hu => hsmall hu.2), False.elim⟩
end

/-! ## Exact operands and results -/

/-- A model value that is a number, exact in counts of 2^-298. -/
def Exact (v : Val) (x : Int) : Prop := ∃ neg m e, v = .num neg m e ∧ -298 ≤ e ∧ x = withSign neg (m * 2 ^ (e + 298).toNat)

/-- Of finite words the value, exact in counts of 2^-149. -/
theorem f32_of_finite {x : Word} (hx : finite x) : ∃ neg m e, f32 x = .num neg m e ∧ -149 ≤ e ∧ units x = withSign neg (m * 2 ^ (e + 149).toNat) := by
  have hneg : (decide (x.toNat / 2 ^ (23 + 8) % 2 = 1)) = x.getLsbD 31 := by
    rw [← testBit_toNat_eq, Nat.testBit_eq_decide_div_mod_eq]
  have hlow : x.toNat % 2 ^ 31 / 2 ^ 23 = x.toNat / 2 ^ 23 % 2 ^ 8 := by omega
  have hfrac : x.toNat % 2 ^ 31 % 2 ^ 23 = x.toNat % 2 ^ 23 := by omega
  have hne : x.toNat / 2 ^ 23 % 2 ^ 8 ≠ 2 ^ 8 - 1 := hx
  have hbias : ((ieee32.bias : Nat) : Int) = 127 := rfl
  have ht : ieee32.t = 23 := rfl
  have hw : ieee32.w = 8 := rfl
  rw [units_eq, mag, hlow, hfrac]
  simp only [f32, Ieee.decode, hbias, ht, hw, hneg]
  split
  · exact ⟨_, _, _, rfl, by decide, by simp⟩
  next he =>
    refine ⟨_, _, _, rfl, by omega, ?_⟩
    congr 3
    omega

theorem f32_exact {x : Word} (hx : finite x) : Exact (f32 x) (2 ^ 149 * units x) := by
  obtain ⟨neg, m, e, hv, he, hu⟩ := f32_of_finite hx
  refine ⟨neg, m, e, hv, by omega, ?_⟩
  rw [hu, show (e + 298).toNat = (e + 149).toNat + 149 by omega, Nat.pow_add, ← Nat.mul_assoc, Nat.mul_comm _ (2 ^ 149)]
  exact mul_withSign neg (2 ^ 149) _

theorem f32_notSig {x : Word} (hx : finite x) : (f32 x).isSig = false := by
  obtain ⟨neg, m, e, hv, -, -⟩ := f32_of_finite hx
  rw [hv]
  rfl

theorem withSign_mul (n k : Bool) (a b : Nat) : withSign n a * withSign k b = withSign (n != k) (a * b) := by
  cases n <;> cases k <;> simp [withSign]

/-- The product of finite words is exact. -/
theorem mulV_exact {x y : Word} (hx : finite x) (hy : finite y) :
    ∃ v, mulV (f32 x) (f32 y) = (v, false) ∧ Exact v (units x * units y) := by
  obtain ⟨n, m, e, hv, he, hu⟩ := f32_of_finite hx
  obtain ⟨n', m', e', hv', he', hu'⟩ := f32_of_finite hy
  refine ⟨_, by rw [hv, hv']; rfl, _, _, _, rfl, by omega, ?_⟩
  rw [hu, hu', withSign_mul, show (e + e' + 298).toNat = (e + 149).toNat + (e' + 149).toNat by omega, Nat.pow_add]
  congr 1
  ring

theorem signedAt_eq (n : Bool) (m : Nat) {e k : Int} (hk : -298 ≤ k) (hle : k ≤ e) :
    signedAt n m e k * 2 ^ (k + 298).toNat = withSign n (m * 2 ^ (e + 298).toNat) := by
  rw [show (e + 298).toNat = (e - k).toNat + (k + 298).toNat by omega, Nat.pow_add]
  cases n
  · simp [signedAt, withSign, mul_assoc]
  · simp [signedAt, withSign, mul_assoc]

/-- The sum of exact numbers is exact. -/
theorem addV_exact (mode : RMode) {a b : Val} {x y : Int} (ha : Exact a x) (hb : Exact b y) : ∃ v, addV mode a b = (v, false) ∧ Exact v (x + y) := by
  obtain ⟨n, m, e, rfl, he, rfl⟩ := ha
  obtain ⟨n', m', e', rfl, he', rfl⟩ := hb
  refine ⟨_, rfl, ?_⟩
  have hk : -298 ≤ min e e' := by omega
  have hsum : (addFinite n m e n' m' e').1 * 2 ^ (min e e' + 298).toNat =
      withSign n (m * 2 ^ (e + 298).toNat) + withSign n' (m' * 2 ^ (e' + 298).toNat) := by
    rw [← signedAt_eq n m hk (by omega), ← signedAt_eq n' m' hk (by omega), ← add_mul]
    rfl
  rw [← hsum]
  change Exact (ofCount _ (addFinite n m e n' m' e').1 (min e e')) _
  generalize (addFinite n m e n' m' e').1 = z
  unfold ofCount
  split
  next h0 => exact ⟨_, _, _, rfl, hk, by simp [h0, withSign]⟩
  next h0 =>
    refine ⟨_, _, _, rfl, hk, ?_⟩
    by_cases hz : z < 0
    · have habs : (z.natAbs : Int) = -z := by omega
      simp only [hz, decide_true, withSign_true, Nat.cast_mul, habs, Nat.cast_pow, Nat.cast_ofNat]
      ring
    · have habs : (z.natAbs : Int) = z := by omega
      simp only [hz, decide_false, withSign_false, Nat.cast_mul, habs, Nat.cast_pow, Nat.cast_ofNat]

/-- WHAT ROUNDING AN EXACT NUMBER GIVES: the word its mode asks for, and the flags of that. -/
theorem round32m_exact (mode : RMode) {v : Val} {x : Int} (h : Exact v x) :
    Rounded mode x (round32m mode v).1 ∧ RoundedFlags x (round32m mode v).1 (round32m mode v).2 := by
  obtain ⟨neg, m, e, rfl, he, rfl⟩ := h
  obtain ⟨K, hK, hround⟩ := round32m_eq mode neg m he
  have hword : (round32m mode (.num neg m e)).1 = roundedWord mode neg (m * 2 ^ (e + 298).toNat) K := by
    rw [hround, roundedWord]
    split <;> rfl
  have hflags : (round32m mode (.num neg m e)).2 = roundedFlags mode neg (m * 2 ^ (e + 298).toNat) K := by
    rw [hround, roundedFlags]
    split <;> rfl
  rw [hword, hflags]
  exact ⟨hK.rounded mode neg, hK.rounded_flags mode neg⟩

/-! ## The three instructions -/

/-- What O52 asks of an instruction: the exact number rounded, and its flags. -/
def GivesRounded (s : State) (w : Wave) (th : Thread) (d : Reg) (t : Bool) (i : Instr) (exact : Int) : Prop :=
  ∃ s' r fl v, exec i s = .next s' ∧ Rounded (RMode.ofBits ((w.regs.frnd? s).setWidth 2)) exact r ∧ RoundedFlags exact r fl ∧
    (1024 + 0x072 ∉ th.marks → v = th.fflags ||| fl) ∧
    s'.lane? w.core w.slot th.lane = some (((th.withFflags v fl).setG s d.toNat r).after s.cur.len t)

/-- With no flag enabled a floating-point result is written. -/
theorem givesRounded_of_leaves {s s' : State} {w : Wave} {th : Thread} {d : Reg} {t : Bool} {i : Instr} {v : Val} {x : Int} (hexec : exec i s = .next s')
    (htrap : w.regs.ftrap? s = 0) (hx : Exact v x) (h : FpLeaves s w th s' d.toNat t (round32m (w.mode s) v)) : GivesRounded s w th d t i x := by
  obtain ⟨fl, hv, hlane⟩ := h
  have h0 : (round32m (w.mode s) v).2 &&& w.regs.ftrap? s = 0 := by simp [htrap]
  rw [if_pos h0] at hlane
  obtain ⟨hr, hf⟩ := round32m_exact (w.mode s) hx
  exact ⟨s', _, _, fl, hexec, hr, hf, hv, hlane⟩

section
variable {x y z : Word} (hx : finite x) (hy : finite y) (mode : RMode)
include hx hy

theorem fadd32_exact : ∃ v, Exact v (2 ^ 149 * (units x + units y)) ∧ fadd32 mode (f32 x) (f32 y) = round32m mode v := by
  obtain ⟨v, hv, hexact⟩ := addV_exact mode (f32_exact hx) (f32_exact hy)
  rw [← mul_add] at hexact
  exact ⟨v, hexact, by simp [fadd32, hv, anySig, f32_notSig hx, f32_notSig hy, nvIf]⟩

theorem fmul32_exact : ∃ v, Exact v (units x * units y) ∧ fmul32 mode (f32 x) (f32 y) = round32m mode v := by
  obtain ⟨v, hv, hexact⟩ := mulV_exact hx hy
  exact ⟨v, hexact, by simp [fmul32, hv, anySig, f32_notSig hx, f32_notSig hy, nvIf]⟩

theorem ffma_exact (hz : finite z) : ∃ v, Exact v (2 ^ 149 * units z + units x * units y) ∧
    (BitVec.ofNat 32 (fmaF ieee32 mode (f32 z) (f32 x) (f32 y)).1, (fmaF ieee32 mode (f32 z) (f32 x) (f32 y)).2) = round32m mode v := by
  obtain ⟨p, hp, hprod⟩ := mulV_exact hx hy
  obtain ⟨v, hv, hexact⟩ := addV_exact mode (f32_exact hz) hprod
  exact ⟨v, hexact, by simp [fmaF, round32m, hp, hv, anySig, f32_notSig hx, f32_notSig hy, f32_notSig hz, nvIf]⟩
end

/-- Settles O52: the exact sum, product, or product plus addend of finite operands is rounded by `round32m`. -/
theorem floatRounding : Obligations.FloatRounding := by
  unfold Obligations.FloatRounding
  intro s w th d a b t hp htrap hr x y z hx hy gives
  refine ⟨?add, ?mul, fun hz => ?fma⟩
  case add =>
    obtain ⟨v, hexact, hv⟩ := fadd32_exact hx hy (w.mode s)
    obtain ⟨s', hexec, hleaves⟩ := fp2_lane hp d a b t (fun mode p q => fadd32 mode (f32 p) (f32 q)) hr
    rw [hv] at hleaves
    exact givesRounded_of_leaves hexec htrap hexact hleaves
  case mul =>
    obtain ⟨v, hexact, hv⟩ := fmul32_exact hx hy (w.mode s)
    obtain ⟨s', hexec, hleaves⟩ := fp2_lane hp d a b t (fun mode p q => fmul32 mode (f32 p) (f32 q)) hr
    rw [hv] at hleaves
    exact givesRounded_of_leaves hexec htrap hexact hleaves
  case fma =>
    obtain ⟨v, hexact, hv⟩ := ffma_exact hx hy (w.mode s) hz
    obtain ⟨s', hexec, hleaves⟩ := fp3_lane hp d a b t (fun mode r p q =>
      (BitVec.ofNat 32 (fmaF ieee32 mode (f32 r) (f32 p) (f32 q)).1, (fmaF ieee32 mode (f32 r) (f32 p) (f32 q)).2)) hr
    rw [hv] at hleaves
    exact givesRounded_of_leaves hexec htrap hexact hleaves

end Sys2Proof.Machine
end

section
/-! PROOFS. The checks of an address (spec/08 R157): the fault records of accesses that fail translation, an LDC in a state that it has disturbed, then O20. -/

namespace Sys2Proof.Machine
open Sys2Proof.Claims

/-! ## Fault records -/

/-- A core's fault records are kept by a further one, which stands among them. -/
theorem State.faultOn_faults (u : State) (k l : Nat) (va : Dword) (write fetch : Bool) (blk : Nat) (who : Issuer) (c : Nat) :
    ((u.faultOn k l va write fetch blk who).core c).faults = (u.core c).faults ++ if c = who.core then
      [{ kind := k, va := va, level := l, write := write, fetch := fetch, copy := none, who := who, vf := u.vfOf blk,
         recorded := false, record := 0, step := u.free }] else [] := by
  unfold State.faultOn State.flushFor
  rw [State.core_onCore]
  by_cases hc : c = who.core
  · subst hc
    simp only [if_true]
    split <;> simp [State.core_onCore, Core.flushWindow]
  · simp [hc, State.core_onCore]

section
variable {s : State} {addr : Wave → Thread → Dword} {size : Nat} {write : Bool} {w : Wave}

/-- The faults of some lanes, raised one after another. -/
def faultsOf (s : State) (addr : Wave → Thread → Dword) (size : Nat) (write : Bool) (w : Wave) (t : State) (th : Thread) : State :=
  if s.cur.lanes.elem th.lane then
    match s.resolve w.blk (addr w th) size write with
    | .stop k l => t.faultOn k l (addr w th) write false w.blk ⟨w.core, w.slot, th.lane, th.pc, w.blk⟩
    | _ => t
  else t

theorem faultsOf_keeps (t : State) (th : Thread) : (faultsOf s addr size write w t th).vfOf w.blk = t.vfOf w.blk ∧
    ∀ c, ∀ f ∈ (t.core c).faults, f ∈ ((faultsOf s addr size write w t th).core c).faults := by
  unfold faultsOf
  split
  · split
    · refine ⟨rfl, fun c f hf => ?_⟩
      rw [State.faultOn_faults]
      exact List.mem_append_left _ hf
    · exact ⟨rfl, fun _ _ hf => hf⟩
  · exact ⟨rfl, fun _ _ hf => hf⟩

theorem faultsOf_fold_keeps (ths : List Thread) : ∀ t : State, (ths.foldl (faultsOf s addr size write w) t).vfOf w.blk = t.vfOf w.blk ∧
    ∀ c, ∀ f ∈ (t.core c).faults, f ∈ ((ths.foldl (faultsOf s addr size write w) t).core c).faults := by
  induction ths with
  | nil => exact fun t => ⟨rfl, fun _ _ hf => hf⟩
  | cons x rest ih =>
    intro t
    obtain ⟨hv, hf⟩ := faultsOf_keeps (s := s) (addr := addr) (size := size) (write := write) (w := w) t x
    obtain ⟨hv', hf'⟩ := ih (faultsOf s addr size write w t x)
    exact ⟨hv'.trans hv, fun c f h => hf' c f (hf c f h)⟩

/-- A lane whose access stops has its record in its core. -/
theorem State.memFaults_raises {th : Thread} (hth : th ∈ w.lanes) (hp : th.lane ∈ s.cur.lanes) {k l : Nat}
    (hstop : s.resolve w.blk (addr w th) size write = .stop k l) (u : State) (hvf : u.vfOf w.blk = s.vfOf w.blk) :
    ∃ f ∈ ((s.memFaults addr size write w u).core w.core).faults, f.kind = k ∧ f.va = addr w th ∧ f.level = l ∧ f.write = write ∧
      f.who = ⟨w.core, w.slot, th.lane, th.pc, w.blk⟩ ∧ f.recorded = false ∧ f.fetch = false ∧ f.copy = none ∧ f.vf = s.vfOf w.blk := by
  change ∃ f ∈ ((w.lanes.foldl (faultsOf s addr size write w) u).core w.core).faults, _
  obtain ⟨before, after, hlanes⟩ := List.append_of_mem hth
  rw [hlanes, List.foldl_append, List.foldl_cons]
  obtain ⟨hv, -⟩ := faultsOf_fold_keeps (s := s) (addr := addr) (size := size) (write := write) (w := w) before u
  generalize before.foldl (faultsOf s addr size write w) u = t at hv
  refine ⟨{ kind := k, va := addr w th, level := l, write := write, fetch := false, copy := none, who := ⟨w.core, w.slot, th.lane, th.pc, w.blk⟩,
            vf := t.vfOf w.blk, recorded := false, record := 0, step := t.free },
    (faultsOf_fold_keeps after _).2 w.core _ ?_, rfl, rfl, rfl, rfl, rfl, rfl, rfl, rfl, hv.trans hvf⟩
  unfold faultsOf
  simp only [List.elem_eq_mem, hp, decide_true, if_true, hstop]
  rw [State.faultOn_faults, if_pos rfl]
  exact List.mem_append_right _ (List.mem_singleton.mpr rfl)
end

/-! ## The outcomes of the checks -/

section
variable {s : State} {blk : Nat} {va : Dword} {size : Nat} {write : Bool}

/-- The canonical addresses of R28. -/
theorem canonicalVa_iff : canonicalVa va = true ↔ va.toNat / 2 ^ 56 = 0 ∨ va.toNat / 2 ^ 56 = 255 := by simp [canonicalVa]

theorem resolve_trap (h : va.toNat % size ≠ 0 ∨ ¬canonicalVa va = true) : s.resolve blk va size write = .trap := by
  unfold State.resolve
  by_cases hal : va.toNat % size ≠ 0
  · rw [if_pos hal]
  · rw [if_neg hal, if_pos (by simpa using h.resolve_left hal)]

theorem inLease_iff {rs : List Range} {x : Nat} :
    inLease rs x write false = true ↔ ∃ r ∈ rs, r.va ≤ x ∧ x < r.va + r.len ∧ (write = true → r.flags.testBit 0 = true) := by
  cases write <;> simp [inLease, and_assoc]

variable (hal : va.toNat % size = 0) (hcan : canonicalVa va = true) (hwin : s.windowOf va.toNat = none)
include hal hcan hwin

theorem resolve_lease (h : ¬inLease (s.leaseOf blk) va.toNat write false = true) : s.resolve blk va size write = .lease := by
  unfold State.resolve
  rw [if_neg (by simpa using hal), if_neg (by simp [hcan]), hwin]
  exact if_pos (by simpa using h)

theorem resolve_stop (h : inLease (s.leaseOf blk) va.toNat write false = true) {k l : Nat} (hf : s.translate (s.vfOf blk) va write false = .fail k l) :
    s.resolve blk va size write = .stop k l := by
  unfold State.resolve
  rw [if_neg (by simpa using hal), if_neg (by simp [hcan]), hwin]
  simp [h, hf]
end

theorem Wave.mem_of_lane? {w : Wave} {l : Nat} {th : Thread} (h : w.lane? l = some th) : th ∈ w.lanes := List.mem_of_find?_eq_some h

/-- A load or store at a global address, by the outcome of the checks in a lane: what O20 says of one. -/
theorem memLanes_checks {s : State} {w : Wave} {th : Thread} (hp : s.OnPath w th) {regs toks : List Nat} (hr : s.regsOk regs) (ht : w.sReady toks)
    (tack : Bool) (addr : Wave → Thread → Dword) (size : Nat) (write : Bool) {ok : Wave → Thread → Place → Out} {after : State → State}
    (ha : ∀ u, after u = u) (hok : ∀ v u pl, (ok v u pl).thread.lane = u.lane) :
    let s' := s.memLanes regs toks tack addr size write ok after
    let va := addr w th
    let outside := ∀ r ∈ s.leaseOf w.blk, ¬(r.va ≤ va.toNat ∧ va.toNat < r.va + r.len ∧ (write = true → r.flags.testBit 0 = true))
    s.sameMemory s' ∧
    (va.toNat % size ≠ 0 ∨ ¬(va.toNat / 2 ^ 56 = 0 ∨ va.toNat / 2 ^ 56 = 255) →
      s'.lane? w.core w.slot th.lane = some (Thread.trap s w.regs th cFAULT th.pc)) ∧
    (va.toNat % size = 0 → va.toNat / 2 ^ 56 = 0 ∨ va.toNat / 2 ^ 56 = 255 → s.windowOf va.toNat = none → outside →
      s'.lane? w.core w.slot th.lane = some { th with wait := .thrown ⟨8, 0, th.pc, s.cycles, s.free⟩ }) ∧
    (∀ k l, va.toNat % size = 0 → va.toNat / 2 ^ 56 = 0 ∨ va.toNat / 2 ^ 56 = 255 → s.windowOf va.toNat = none → ¬outside →
      s.translate (s.vfOf w.blk) va write false = .fail k l →
      s'.lane? w.core w.slot th.lane = some { th with wait := .fault } ∧
      ∃ f ∈ (s'.core w.core).faults, f.kind = k ∧ f.va = va ∧ f.level = l ∧ f.write = write ∧ f.who = ⟨w.core, w.slot, th.lane, th.pc, w.blk⟩ ∧
        f.recorded = false ∧ f.fetch = false ∧ f.copy = none ∧ f.vf = s.vfOf w.blk) := by
  intro s' va outside
  obtain ⟨hlane, hmem, -⟩ := State.memLanes_lane (tack := tack) (addr := addr) (size := size) (write := write) hp hr ht ha hok
  have houtside : outside ↔ ¬inLease (s.leaseOf w.blk) va.toNat write false = true := by
    rw [inLease_iff]
    simp only [outside, not_exists, not_and]
  simp only [← canonicalVa_iff]
  rw [houtside, not_not]
  refine ⟨fun pa => by rw [hmem], fun h => ?trap, fun hal hcan hwin h => ?lease, fun k l hal hcan hwin h hf => ?stop⟩
  case trap =>
    rw [State.memOut, resolve_trap h] at hlane
    exact hlane
  case lease =>
    rw [State.memOut, resolve_lease hal hcan hwin h] at hlane
    exact hlane
  case stop =>
    have hstop := resolve_stop hal hcan hwin h hf
    rw [State.memOut, hstop] at hlane
    refine ⟨hlane, ?_⟩
    have e : s' = s.memFaults addr size write w (s.perLane tack (s.memOut addr size write ok)) := by
      rw [← ha (s.perLane tack _)]
      exact State.memLanes_eq hp.wave hr ht
    rw [e]
    refine State.memFaults_raises (Wave.mem_of_lane? hp.lane) hp.path hstop _ ?_
    obtain ⟨cs, eq⟩ := State.perLane_eq hp.wave tack (s.memOut addr size write ok)
    rw [eq]
    rfl

/-! ## A misaligned LDC, and scratch addresses -/

theorem State.padOut_bad {s : State} {addr : Wave → Thread → Word} {size : Nat} {ok : Wave → Thread → Place → Out} {w : Wave} {th : Thread}
    (hbad : (addr w th).toNat % size ≠ 0 ∨ s.padAt w.blk (addr w th).toNat = none) : s.padOut addr size ok w th = .trap th cFAULT := by
  unfold State.padOut
  by_cases hal : (addr w th).toNat % size ≠ 0
  · exact if_pos hal
  · rw [if_neg hal, hbad.resolve_left hal]


/-- `u` is `s` in all that a trap of its path reads: the path, the wave of the path but for its log, and the step. -/
structure SameStep (s u : State) (w : Wave) : Prop where
  cur : u.cur = s.cur
  free : u.free = s.free
  cycles : u.cycles = s.cycles
  wave : ∃ l, u.curWave = some { w with lining := l }

theorem Thread.trap_congr {s u : State} (hfree : u.free = s.free) (hcycles : u.cycles = s.cycles) (r : WaveRegs) (t : Thread) (c : Word) (e : Dword) :
    Thread.trap u r t c e = Thread.trap s r t c e := by
  have hv : r.utvec? u = r.utvec? s := by rw [WaveRegs.utvec?, WaveRegs.implicit, hfree]; rfl
  rw [Thread.trap, Thread.trap, hv, Thread.throws, Thread.throws, hfree, hcycles]

/-- A wave put in the place of the wave of the path stands there. -/
theorem State.curWave_put {u : State} {v w1 : Wave} (hv : u.curWave = some v) (hc : w1.core = v.core) (hs : w1.slot = v.slot) :
    (u.onCur (fun _ => w1)).curWave = some w1 := by
  have hat : w1.isAt u.cur.core u.cur.slot = true := by
    have h := List.find?_some hv
    rwa [Wave.isAt, ← hc, ← hs] at h
  change (u.onCur (fun _ => w1)).wave? u.cur.core u.cur.slot = some w1
  unfold State.onCur State.onWave State.wave?
  have hput : (fun w => (if Wave.isAt w u.cur.core u.cur.slot = true then w1 else w).isAt u.cur.core u.cur.slot) =
      fun w => w.isAt u.cur.core u.cur.slot := by
    funext w
    split
    next h => rw [hat, h]
    next => rfl
  rw [List.find?_map, Function.comp_def, hput, show u.waves.find? (fun w => w.isAt u.cur.core u.cur.slot) = some v from hv]
  exact congrArg some (if_pos (List.find?_some hv))

/-- What an LDC's lanes take from outside leaves the rest of the step. -/
theorem SameStep.outside {s u : State} {w : Wave} (h : SameStep s u w) (l : Nat) (v : Dword) : SameStep s (u.outside l v).1 w := by
  obtain ⟨old, hold⟩ := h.wave
  have hlog : ∀ e, SameStep s (u.onCur (fun x => x.logFor l e)) w := fun e =>
    ⟨h.cur, h.free, h.cycles, (Wave.logFor { w with lining := old } l e).lining, (State.curWave_onCur hold (fun x => by
      rw [Wave.logFor_eq]
      exact ⟨rfl, rfl⟩)).trans (congrArg some (Wave.logFor_eq _ _ _))⟩
  unfold State.outside
  simp only [hold]
  split
  next x w1 hreplay =>
    have hw1 : w1 = { w with lining := w1.lining } := by
      unfold Wave.replayFor Wave.replay at hreplay
      split at hreplay
      · exact absurd hreplay (by simp)
      · cases old with
        | none => exact absurd hreplay (by simp)
        | some k =>
          obtain ⟨e, -, he⟩ := Option.map_eq_some_iff.mp hreplay
          rw [← (Prod.mk.inj he).2]
    refine ⟨h.cur, h.free, h.cycles, w1.lining, ?_⟩
    rw [← hw1]
    exact State.curWave_put hold ((congrArg Wave.core hw1 :)) ((congrArg Wave.slot hw1 :))
  · exact hlog _

/-- The values of an LDC leave the rest of the step, whatever they are. -/
theorem SameStep.ldcValues {s u : State} {w : Wave} (h : SameStep s u w) (sb g size : Nat) (x : Bool) :
    SameStep s (u.ldcValues sb g size x).1 w := by
  unfold State.ldcValues
  split
  · exact h
  · refine List.foldlRecOn (motive := fun acc : State × List (Nat × Dword) => SameStep s acc.1 w) _ _ h (fun acc hacc th _ => ?_)
    dsimp only
    split
    · exact hacc
    · exact hacc.outside th.lane _

/-- What a path's step reads of the state, but for memory. -/
def State.front (s : State) : List Wave × Issue × Nat × Nat := (s.waves, s.cur, s.free, s.cycles)

theorem State.onCore_front (s : State) (c : Nat) (f : Core → Core) : (s.onCore c f).front = s.front := rfl

theorem State.homeWrite_front (s : State) (gang : Option Nat) (pa : Nat) (b : Byte) (stamp : Nat) : (s.homeWrite gang pa b stamp).front = s.front := by
  unfold State.homeWrite
  split
  · split
    · split <;> rfl
    · rfl
  · rfl

theorem State.scramble_front (s : State) (pa k : Nat) : (s.scramble pa k).front = s.front := State.homeWrite_front ..

theorem State.breach_front (s : State) (pas : List Nat) : (s.breach pas).front = s.front := by
  refine foldl_keeps State.front _ (fun t c => foldl_keeps State.front _ (fun u x => ?_) _ t) _ s
  refine (State.onCore_front ..).trans (foldl_keeps State.front _ (fun v i => ?_) _ u)
  split
  · exact State.scramble_front ..
  · rfl

theorem SameStep.of_front {s u : State} {w : Wave} (hw : s.curWave = some w) (h : u.front = s.front) : SameStep s u w := by
  obtain ⟨hwaves, hcur, hfree, hcycles⟩ := (by simpa [State.front] using h : u.waves = s.waves ∧ u.cur = s.cur ∧ u.free = s.free ∧ u.cycles = s.cycles)
  exact ⟨hcur, hfree, hcycles, w.lining, by rw [State.curWave, State.wave?, hwaves, hcur]; exact hw⟩

theorem State.consume_waves (s : State) (blk line : Nat) : (s.consume blk line).waves = s.waves := by
  unfold State.consume
  split <;> rfl

section
variable {s : State} {w : Wave} {th : Thread} (d : Reg) (h x : Bool) (z : BitVec 2) (g : Reg) (sb : BitVec 6) (t : Bool)
variable (hp : s.OnPath w th) (hr : s.regsOk (g.toNat :: dataRegs d.toNat (accSize z)))
include hp hr

/-- A misaligned LDC traps its lane, whatever the others read. -/
theorem ldc_traps (ht : w.sReady [sb.toNat]) (hal : (scratchAddr sb.toNat g.toNat s w th).toNat % accSize z ≠ 0) :
    ∃ s', exec (.ldc d h x z g sb t) s = .next s' ∧
      s'.lane? w.core w.slot th.lane = some (Thread.trap s w.regs th cFAULT th.pc) := by
  refine ⟨_, rfl, ?_⟩
  rw [State.withRegs_ok hr, State.withTokens_ready hp.wave ht]
  dsimp only
  generalize hs0 : (if (s.ldcPas sb.toNat g.toNat (accSize z)).isEmpty = true then s else s.breach (s.ldcPas sb.toNat g.toNat (accSize z))) = s0
  have hsame : SameStep s s0 w := by
    rw [← hs0]
    split
    · exact SameStep.of_front hp.wave rfl
    · exact SameStep.of_front hp.wave (State.breach_front ..)
  obtain ⟨hcur, hfree, hcycles, l, hl⟩ := hsame.ldcValues sb.toNat g.toNat (accSize z) x
  generalize s0.ldcValues sb.toNat g.toNat (accSize z) x = vs at hcur hfree hcycles hl
  have hon : vs.1.OnPath { w with lining := l } th := ⟨hl, hp.lane, by rw [hcur]; exact hp.path⟩
  have hlane := State.perLane_lane hon t (s.ldcOut d.toNat g.toNat sb.toNat (accSize z) vs.2) (State.ldcOut_lane s _ _ _ _ _)
  rw [State.ldcOut, if_pos (by exact hal)] at hlane
  refine Eq.trans ?_ (hlane.trans (congrArg some (Thread.trap_congr hfree hcycles _ _ _ _)))
  split
  · exact State.lane?_of_waves (State.consume_waves ..) _ _ _
  · rfl

/-- A scratch access that is misaligned or out of bounds traps its lane. -/
theorem lds_traps (ht : w.sReady [sb.toNat])
    (hbad : (scratchAddr sb.toNat g.toNat s w th).toNat % accSize z ≠ 0 ∨ s.padAt w.blk (scratchAddr sb.toNat g.toNat s w th).toNat = none) :
    ∃ s', exec (.lds d h x z g sb t) s = .next s' ∧ s.sameMemory s' ∧
      s'.lane? w.core w.slot th.lane = some (Thread.trap s w.regs th cFAULT th.pc) := by
  obtain ⟨hlane, hmem, -⟩ := State.padLanes_lane (tack := t) (addr := scratchAddr sb.toNat g.toNat s) (size := accSize z)
    (ok := fun _ th pl => .next (th.load s (accSize z) x d.toNat pl 0)) (after := id) hp hr ht (fun _ => rfl) (fun _ _ _ => rfl)
  rw [State.padOut_bad hbad] at hlane
  exact ⟨_, rfl, fun pa => by rw [hmem], hlane⟩

theorem sts_traps (ha : s.Agrees w) (ht : w.sReady [sb.toNat])
    (hbad : (scratchAddr sb.toNat g.toNat s w th).toNat % accSize z ≠ 0 ∨ s.padAt w.blk (scratchAddr sb.toNat g.toNat s w th).toNat = none) :
    ∃ s', exec (.sts d h z g sb t) s = .next s' ∧ s.sameMemory s' ∧
      s'.lane? w.core w.slot th.lane = some (Thread.trap s w.regs th cFAULT th.pc) := by
  obtain ⟨hlane, hmem, -⟩ := State.padLanes_lane (tack := t) (addr := scratchAddr sb.toNat g.toNat s) (size := accSize z)
    (ok := fun w th pl => s.storeOut w th pl (storeData d.toNat (accSize z) s th)
      (th.issue s (.store (storeData d.toNat (accSize z) s th)) pl 0) th)
    (after := fun u => u.afterCompare s (s.padPlace (scratchAddr sb.toNat g.toNat s) (accSize z)) (storeData d.toNat (accSize z) s))
    hp hr ht (State.afterCompare_agrees hp.wave ha _ _) (fun v t pl => State.storeOut_lane s v t pl _ rfl rfl)
  rw [State.padOut_bad hbad] at hlane
  exact ⟨_, rfl, fun pa => by rw [hmem], hlane⟩
end

/-- Settles O20: global addresses by `memLanes_checks`, scratch and constant ones by the traps of LDS, STS and LDC. -/
theorem addressChecks : Obligations.AddressChecks := by
  unfold Obligations.AddressChecks
  intro d h x z g sb t s w th hp size ha hr
  refine ⟨fun ht => ?global, fun ht => ⟨fun i hi hbad => ?scratch, fun hal => ldc_traps d h x z g sb t hp hr ht hal⟩⟩
  case global =>
    intro va canonical outside i write hi
    rcases hi with ⟨rfl, rfl⟩ | ⟨rfl, rfl⟩
    · refine ⟨_, rfl, memLanes_checks (tack := t) (addr := globalAddr sb.toNat g.toNat s) (size := accSize z) (write := false)
        (ok := fun w th pl => .next (th.load s (accSize z) x d.toNat pl (globalAddr sb.toNat g.toNat s w th))) (after := id)
        hp hr ht (fun _ => rfl) (fun _ _ _ => rfl)⟩
    · refine ⟨_, rfl, memLanes_checks (tack := t) (addr := globalAddr sb.toNat g.toNat s) (size := accSize z) (write := true)
        (ok := fun w th pl => s.storeOut w th pl (storeData d.toNat (accSize z) s th)
          (th.issue s (.store (storeData d.toNat (accSize z) s th)) pl (globalAddr sb.toNat g.toNat s w th)) th)
        (after := fun u => u.afterCompare s (s.globalPlace (globalAddr sb.toNat g.toNat s) (accSize z) true) (storeData d.toNat (accSize z) s))
        hp hr ht (State.afterCompare_agrees hp.wave ha _ _) (fun v t pl => State.storeOut_lane s v t pl _ rfl rfl)⟩
  case scratch =>
    rcases List.mem_pair.mp hi with rfl | rfl
    · exact lds_traps d h x z g sb t hp hr ht hbad
    · exact sts_traps d h z g sb t hp hr ha ht hbad

end Sys2Proof.Machine
end

section
/-! PROOFS. Accesses performed (spec/08 R141 to R144): what a performed access leaves of its lane, and what it leaves where the package guards nothing that it
writes; then O21, O22. -/

namespace Sys2Proof.Machine
open Sys2Proof.Claims

/-! ## Sparse lists -/

theorem mem_insertAt {α : Type} {m : List (Nat × α)} {x : Nat} {v : α} {p : Nat × α} (h : p ∈ insertAt m x v) : p = (x, v) ∨ p ∈ m := by
  induction m with
  | nil => exact .inl (by simpa [insertAt] using h)
  | cons q rest ih =>
    unfold insertAt at h
    split at h
    · exact (List.mem_cons.mp h).imp_right id
    · split at h
      · exact (List.mem_cons.mp h).imp_right (List.mem_cons_of_mem _)
      · rcases List.mem_cons.mp h with rfl | h
        · exact .inr (List.mem_cons_self ..)
        · exact (ih h).imp_right (List.mem_cons_of_mem _)

theorem mem_of_look {α : Type} {m : List (Nat × α)} {x : Nat} {v : α} (h : look m x = some v) : (x, v) ∈ m := by
  induction m with
  | nil => cases h
  | cons q rest ih =>
    obtain ⟨k, w⟩ := q
    unfold look at h
    split at h
    next hk => cases h; rw [hk]; exact List.mem_cons_self ..
    next => exact List.mem_cons_of_mem _ (ih h)

theorem look_onKey {α : Type} (m : List (Nat × α)) (x y : Nat) (f : α → α) : look (onKey m x f) y = if y = x then (look m x).map f else look m y := by
  unfold onKey
  by_cases hy : y = x
  · subst hy
    cases h : look m y with
    | none => simp [h]
    | some v => simp
  · rw [if_neg hy]
    split
    · exact look_insertAt_ne m _ hy
    · rfl

theorem mem_onKey {α : Type} {m : List (Nat × α)} {x : Nat} {f : α → α} {p : Nat × α} (h : p ∈ onKey m x f) :
    p ∈ m ∨ ∃ v, (x, v) ∈ m ∧ p = (x, f v) := by
  unfold onKey at h
  split at h
  next v hv => exact (mem_insertAt h).symm.imp_right (fun e => ⟨v, mem_of_look hv, e⟩)
  next => exact .inl h

/-! ## Translation -/

theorem walkFrom_congr {s t : State} (hmem : t.mem = s.mem) (va : Nat) (write fetch : Bool) :
    ∀ level addr, walkFrom t va write fetch level addr = walkFrom s va write fetch level addr := by
  have hnat : ∀ a n, t.homeNat a n = s.homeNat a n := fun a n => by rw [State.homeNat, State.homeNat, hmem]
  intro level
  induction level with
  | zero => exact fun _ => rfl
  | succ n ih => exact fun addr => by simp only [walkFrom, hnat, ih]

theorem State.translate_congr {s t : State} (hmem : t.mem = s.mem) (hmon : t.mon = s.mon) (htlb : t.tlb = s.tlb) (hfree : t.free = s.free)
    (vf : Nat) (va : Dword) (write fetch : Bool) : t.translate vf va write fetch = s.translate vf va write fetch := by
  simp only [State.translate, walkFrom_congr hmem, State.vfDword, State.vfWord, State.pasidOf, State.reg, hmon, htlb, hfree]

theorem State.underSpan_congr {s t : State} (hmem : t.mem = s.mem) (hmon : t.mon = s.mon) (htlb : t.tlb = s.tlb) (hfree : t.free = s.free)
    (vf : Nat) (va : Dword) (len pa : Nat) (fetch : Bool) : t.underSpan vf va len pa fetch = s.underSpan vf va len pa fetch := by
  simp only [State.underSpan, State.translate_congr hmem hmon htlb hfree]

/-! ## What the package guards -/

/-- Where no spill area is met, nothing is breached. -/
theorem State.breach_of_noSpill {s : State} {pls : List Place} (h : NoSpill s pls) {pas : List Nat} (hp : ∀ pa ∈ pas, Place.phys pa ∈ pls) :
    s.breach pas = s := by
  have hnone : ∀ c ∈ s.cores, c.2.tiles.filter (fun x => x.2.mapped && x.2.policy == 1 && pas.any (s.inSpill x.2)) = [] := by
    intro c hc
    rw [List.filter_eq_nil_iff]
    intro x hx htile
    simp only [Bool.and_eq_true, beq_iff_eq, List.any_eq_true] at htile
    obtain ⟨⟨hmapped, hpolicy⟩, pa, hpa, hin⟩ := htile
    rw [h c hc x hx hmapped hpolicy pa (hp pa hpa)] at hin
    cases hin
  unfold State.breach
  refine List.foldlRecOn (motive := fun t => t = s) s.cores _ rfl (fun t ht c hc => ?_)
  rw [hnone c hc]
  exact ht

/-- Where no fired chunk is met, none is struck. -/
theorem State.strikeChunks_of_noChunk {s : State} {pls : List Place} (h : NoChunk s pls) {pas : List Nat} (hp : ∀ pa ∈ pas, Place.phys pa ∈ pls) :
    s.strikeChunks pas = s := by
  unfold State.strikeChunks
  refine List.foldlRecOn (motive := fun t => t = s) s.comms _ rfl (fun t ht c hc => ?_)
  refine List.foldlRecOn (motive := fun t => t = s) _ _ ht (fun u hu x hx => ?_)
  obtain ⟨hx, hactive⟩ := List.mem_filter.mp hx
  have hnone : x.fired.filter (fun ch => pas.any (fun pa => s.underSpan c.2.vf (BitVec.ofNat 64 (x.coll.chunkVa ch)) x.coll.chunk pa false)) = [] := by
    rw [List.filter_eq_nil_iff]
    intro ch hch hany
    obtain ⟨pa, hpa, hin⟩ := List.any_eq_true.mp hany
    rw [h c hc x hx hactive ch hch pa (hp pa hpa)] at hin
    cases hin
  rw [hnone]
  exact hu

/-- Where no byte barrier that an operation names is met, none is struck. -/
theorem State.strikeBarriers_of_none {s : State} {hit : Place → Bool} (h : ∀ b ∈ s.namedBarriers, hit b = false) : s.strikeBarriers hit = s := by
  unfold State.strikeBarriers
  rw [List.filter_eq_nil_iff.mpr (fun b hb => by rw [h b hb]; exact Bool.false_ne_true)]
  rfl

theorem mem_physOf {pls : List Place} {pa : Nat} : pa ∈ physOf pls ↔ Place.phys pa ∈ pls := by
  unfold physOf
  rw [List.mem_filterMap]
  constructor
  · rintro ⟨p, hp, he⟩
    cases p with
    | phys x => cases he; exact hp
    | pad b off => cases he
  · exact fun h => ⟨_, h, rfl⟩

/-- What is written where nothing is guarded strikes nothing. -/
theorem State.overwrite_unguarded {s was : State} {pls : List Place} (hspill : NoSpill s pls) (hchunk : NoChunk s pls) (hbar : NoBarrier s pls)
    (hmis : NoMisuse was pls) : s.overwrite pls was = s := by
  have hb : s.strikeBarriers (fun b => pls.any (fun p => b.meets 16 p 1)) = s :=
    State.strikeBarriers_of_none (fun b hb => List.any_eq_false.mpr (fun p hp => by rw [hbar b hb p hp]; exact Bool.false_ne_true))
  have hphys : ∀ pa ∈ physOf pls, Place.phys pa ∈ pls := fun _ h => mem_physOf.mp h
  unfold State.overwrite
  rw [hb, State.breach_of_noSpill hspill hphys, State.strikeChunks_of_noChunk hchunk hphys, show was.misused (physOf pls) = [] from hmis]
  rfl

/-! ## What a settled rendezvous leaves -/

/-- Nothing is different but waves and the rewrite windows of cores. -/
structure OnlyWaves (s t : State) : Prop where
  cores : ∀ k, { t.core k with window := (s.core k).window } = s.core k
  state : { t with waves := s.waves, cores := s.cores } = s

theorem OnlyWaves.of_waves (s : State) (ws : List Wave) : OnlyWaves s { s with waves := ws } := ⟨fun _ => rfl, rfl⟩

theorem OnlyWaves.trans {s t u : State} (h : OnlyWaves s t) (h' : OnlyWaves t u) : OnlyWaves s u := by
  refine ⟨fun k => ?_, (congrArg (fun x : State => { x with waves := s.waves, cores := s.cores }) h'.state).trans h.state⟩
  have e := h'.cores k
  refine Eq.trans ?_ (h.cores k)
  rw [← e]

theorem OnlyWaves.flushFor (s : State) (c blk : Nat) : OnlyWaves s (s.flushFor c blk) := by
  refine ⟨fun k => ?_, rfl⟩
  rw [State.flushFor, State.core_onCore]
  split
  next hk =>
    subst hk
    split <;> rfl
  next => rfl

theorem OnlyWaves.reported (s : State) (c sl : Nat) : OnlyWaves s (s.reported c sl) := by
  unfold State.reported
  split
  · exact OnlyWaves.of_waves s _
  · exact (OnlyWaves.of_waves s _).trans (OnlyWaves.flushFor ..)

theorem OnlyWaves.settle (s : State) (c sl : Nat) : OnlyWaves s (s.settle c sl) := by
  unfold State.settle
  dsimp only
  split
  · split
    · exact (OnlyWaves.of_waves s _).trans (OnlyWaves.reported ..)
    · exact OnlyWaves.of_waves s _
  · exact OnlyWaves.of_waves s _

section
variable {s t : State} (h : OnlyWaves s t)
include h

theorem OnlyWaves.mem : t.mem = s.mem := by
  have e := congrArg State.mem h.state
  exact e
theorem OnlyWaves.blocks : t.blocks = s.blocks := by
  have e := congrArg State.blocks h.state
  exact e
theorem OnlyWaves.gangs : t.gangs = s.gangs := by
  have e := congrArg State.gangs h.state
  exact e
theorem OnlyWaves.stamps : t.stamps = s.stamps := by
  have e := congrArg State.stamps h.state
  exact e
theorem OnlyWaves.writes (k : Nat) : (t.core k).writes = (s.core k).writes := by
  have e := congrArg Core.writes (h.cores k)
  exact e
theorem OnlyWaves.snap (k : Nat) : (t.core k).snap = (s.core k).snap := by
  have e := congrArg Core.snap (h.cores k)
  exact e

theorem OnlyWaves.snapByte (k x : Nat) : t.snapByte k x = s.snapByte k x := by
  simp only [State.snapByte, State.gangsOn, State.gang?, State.home, h.snap, h.blocks, h.gangs, h.mem, h.stamps]

theorem OnlyWaves.viewByte (k x : Nat) : t.viewByte k x = s.viewByte k x := by
  simp only [State.viewByte, h.writes, h.snapByte]

theorem OnlyWaves.padByte (b x : Nat) : t.padByte b x = s.padByte b x := by
  simp only [State.padByte, State.block?, h.blocks]
end

/-! ## A performed access, in its lane -/

/-- A thread whose `n`-th access has left, `f` its result. -/
def Thread.cleared (n : Nat) (f : Thread → Thread) (t : Thread) : Thread :=
  f { t with acc := t.acc.take n ++ (t.acc.drop (n + 1)).map (fun a => { a with back := a.back.map (fun r => (f (t.withRegs r)).laneRegs) }) }

theorem Thread.without_eq (t : Thread) (n : Nat) (f : Thread → Thread) : Thread.without t n f =
    if (t.cleared n f).outstanding = false ∧ t.wait = .tack then { t.cleared n f with wait := .no, marks := [] } else t.cleared n f := rfl

theorem Thread.unpark_lane (s : State) (c : Nat) (t : Thread) : (t.unpark s c).lane = t.lane := by
  unfold Thread.unpark
  split
  · rfl
  · split <;> rfl

theorem Thread.returned_lane (s : State) (t : Thread) (d size : Nat) (v : Dword) : (t.returned s d size v).lane = t.lane := by
  unfold Thread.returned
  dsimp only
  split <;> rfl

theorem Thread.returned_wait (s : State) (t : Thread) (d size : Nat) (v : Dword) : (t.returned s d size v).wait = t.wait := by
  unfold Thread.returned
  dsimp only
  split <;> rfl

theorem Wave.lane?_onLane {w : Wave} {l : Nat} {t : Thread} (h : w.lane? l = some t) {f : Thread → Thread} (hf : ∀ t, (f t).lane = t.lane) :
    (w.onLane l f).lane? l = some (f t) := by
  have hkeep : ∀ u : Thread, (if u.lane = l then f u else u).lane = u.lane := fun u => by split <;> simp [hf]
  refine (lane_find_map w.lanes l _ hkeep).trans ?_
  rw [show w.lanes.find? (fun u => u.lane == l) = some t from h, Option.map_some, if_pos (by simpa using List.find?_some h)]

section
variable {s : State} {c sl n : Nat} {w : Wave} {th : Thread} {a : Access} (hp : Performable s c sl w th n a)
include hp

theorem performAnd_eq {p : Access → Bool} (hk : p a = true) :
    s.performAnd c sl th.lane n p = (s.performWith c sl th.lane n w a).settle c sl := by
  unfold State.performAnd State.performNth
  simp only [hp.wave, hp.lane, splitAtNth, hp.nth, Option.map_some, hk, hp.may, Bool.and_self, if_true]

/-- A wave that is not lined logs nothing. -/
theorem log_unlined (e : LogEntry) : w.logAccess a e = w := by
  unfold Wave.logAccess Wave.logEntry
  rw [hp.unlined]
  split <;> rfl

theorem replay_unlined (l : Nat) (pc va : Dword) : (if a.silent = true then none else w.replayValue l pc va) = none := by
  unfold Wave.replayValue Wave.replay
  rw [hp.unlined]
  split <;> rfl

/-- The lane of a performed access: the access is gone, its result written, and the rendezvous that follows leaves it. -/
theorem finish_lane {u v : State} {f g : Thread → Thread} (hu : u.wave? c sl = some w)
    (hv : v.waves = (u.finish c sl th.lane n f).waves) (hlane : ∀ t, (f t).lane = t.lane) (hwait : ∀ t, (f t).wait = t.wait)
    (hth : ∀ acc, f { th with acc := acc } = g { th with acc := acc })
    (hback : ∀ x ∈ th.acc.drop (n + 1), ∀ r, x.back = some r → f (th.withRegs r) = g (th.withRegs r)) :
    (v.settle c sl).lane? c sl th.lane = some (Thread.without th n g) := by
  have hfin : (u.finish c sl th.lane n f).wave? c sl = some (w.onLane th.lane (fun t => Thread.unpark u c (t.cleared n f))) :=
    (State.wave?_onWave u c sl (fun x => x.onLane th.lane (fun t => Thread.unpark u c (t.cleared n f))) (fun _ => ⟨rfl, rfl⟩)).trans
      (congrArg (Option.map _) hu)
  have hwave : v.wave? c sl = some (w.onLane th.lane (fun t => Thread.unpark u c (t.cleared n f))) := by
    rw [State.wave?, hv]
    exact hfin
  have hcleared : th.cleared n f = th.cleared n g := by
    unfold Thread.cleared
    rw [hth]
    congr 3
    refine List.map_congr_left (fun x hx => ?_)
    cases hxb : x.back with
    | none => rfl
    | some r => simp only [Option.map_some, hback x hx r hxb]
  have hkept : (th.cleared n g).wait = th.wait := by
    rw [← hcleared]
    exact hwait _
  have hunpark : Thread.unpark u c (th.cleared n g) = Thread.without th n g := by
    rw [Thread.without_eq]
    unfold Thread.unpark
    cases hout : (th.cleared n g).outstanding with
    | true => simp
    | false => rcases hp.waits with hw | hw <;> simp [hkept, hw]
  have hrest : ∀ x m y z b, (Thread.without th n g).wait ≠ .cross x m y z b := by
    intro x m y z b
    rw [Thread.without_eq]
    rcases hp.waits with hw | hw <;> split <;> simp [hkept, hw]
  have hon := Wave.lane?_onLane (f := fun t => Thread.unpark u c (t.cleared n f)) hp.lane (fun t => (Thread.unpark_lane u c _).trans (hlane _))
  rw [State.settle_lane v hwave, hon, hcleared, hunpark, Option.map_some, Wave.crossStep_stays v _ hrest]
end

/-- The value that a load's size in bytes returns, where its registers are awaited once. -/
theorem Thread.returned_takes (s : State) (t : Thread) {d size : Nat} (v : Dword) (h : t.marks.count d ≤ 1)
    (h8 : size = 8 → t.marks.count (d + 1) ≤ 1) : t.returned s d size v = Thread.takes d size v t := by
  have hd : ¬2 ≤ t.marks.count d := by omega
  unfold Thread.returned Thread.takes Thread.return1
  by_cases hs : size = 8
  · have hd1 : ¬2 ≤ t.marks.count (d + 1) := by have := h8 hs; omega
    simp [hs, hd, hd1]
  · simp [hs, hd]

section
variable {s : State} {c sl n : Nat} {w : Wave} {th : Thread} {a : Access} (hp : Performable s c sl w th n a)
include hp

/-- The lane that a returned result leaves. -/
theorem returned_lane {u v u' : State} {d size : Nat} {x : Dword} (hu : u.wave? c sl = some w) (honce : Once th n d size)
    (hv : v.waves = (u.finish c sl th.lane n (fun t => t.returned u' d size x)).waves) :
    (v.settle c sl).lane? c sl th.lane = some (Thread.without th n (Thread.takes d size x)) := by
  refine finish_lane hp hu hv (fun t => ?_) (fun t => ?_) (fun acc => ?_) (fun y hy r hr => ?_)
  · exact Thread.returned_lane ..
  · exact Thread.returned_wait ..
  · obtain ⟨h, h8⟩ := honce th.marks (List.mem_cons_self ..)
    exact Thread.returned_takes u' _ x h h8
  · obtain ⟨h, h8⟩ := honce r.marks (List.mem_cons_of_mem _ (List.mem_filterMap.mpr ⟨y, hy, by rw [hr]; rfl⟩))
    exact Thread.returned_takes u' _ x h h8
end

/-! ## Loads -/

section
variable {s : State}

theorem State.setReg_rest {t : State} (h : { t with mon := s.mon } = s) (space ix off : Nat) (v : Word) :
    { t.setReg space ix off v with mon := s.mon } = s := h

theorem State.gaugeCount_rest {t : State} (h : { t with mon := s.mon } = s) (n v : Nat) : { t.gaugeCount n v with mon := s.mon } = s := by
  unfold State.gaugeCount
  dsimp only
  split
  · exact State.setReg_rest h ..
  · exact State.setReg_rest (State.setReg_rest (State.setReg_rest (State.setReg_rest h ..) ..) ..) ..

/-- A gauge counts in the register maps alone. -/
theorem State.gauge_rest (src inst : Nat) (vf : Option Nat) (v : Nat) : { s.gauge src inst vf v with mon := s.mon } = s := by
  refine List.foldlRecOn (motive := fun t : State => { t with mon := s.mon } = s) _ _ rfl (fun t ht n _ => ?_)
  split
  · exact State.gaugeCount_rest ht ..
  · exact ht

variable {a : Access}

theorem State.breachAt_unguarded (h : NoSpill s a.places) : s.breachAt a = s := by
  unfold State.breachAt
  cases hpl : a.place with
  | pad b off => rfl
  | phys pa =>
    refine State.breach_of_noSpill h (fun x hx => ?_)
    obtain ⟨i, hi, rfl⟩ := List.mem_map.mp hx
    exact List.mem_map.mpr ⟨i, hi, by rw [hpl]⟩

theorem State.poisonHit_none (h : s.poisoned = []) (c pa n : Nat) : s.poisonHit c pa n = none := by simp [State.poisonHit, h]

/-- What the package does not have to fetch is there. -/
theorem State.fetched_local (hpoison : s.poisoned = []) (hlocal : ∀ pa, a.place = .phys pa → isRemote pa = false) (c sl l n : Nat)
    (k : State → State) : s.fetched c sl l n a k = k s := by
  unfold State.fetched
  cases hpl : a.place with
  | pad b off => rfl
  | phys pa => simp [State.poisonHit_none hpoison, hlocal pa hpl]

/-- The change of a wave that is the same is none. -/
theorem State.wave?_onWave_same {c sl : Nat} {w : Wave} (hw : s.wave? c sl = some w) {f : Wave → Wave}
    (hf : ∀ v : Wave, (f v).core = v.core ∧ (f v).slot = v.slot) (h : f w = w) : (s.onWave c sl f).wave? c sl = some w := by
  rw [State.wave?_onWave s c sl f hf, hw, Option.map_some, h]

theorem Wave.logAccess_place (w : Wave) (a : Access) (e : LogEntry) : (w.logAccess a e).core = w.core ∧ (w.logAccess a e).slot = w.slot := by
  unfold Wave.logAccess Wave.logEntry
  split
  · exact ⟨rfl, rfl⟩
  · split <;> exact ⟨rfl, rfl⟩
end

/-- Settles O21: the value is that of the bytes at the place, and returns as `returned_lane` says. -/
theorem loadReturns : Obligations.LoadReturns := by
  unfold Obligations.LoadReturns
  intro c sl n s w th a size sx d hp hkind hsize honce hpoison hspill bytes hbytes v
  have hlocal : ∀ pa, a.place = .phys pa → isRemote pa = false := fun pa hpa => by
    rcases hbytes with ⟨x, hx, hr, -⟩ | ⟨b, off, hx, -⟩
    · cases hx.symm.trans hpa; exact hr
    · cases hx.symm.trans hpa
  have hread : s.readPlace c a.place size = bytes := by
    rcases hbytes with ⟨x, hx, -, rfl⟩ | ⟨b, off, hx, rfl⟩ <;> rw [hx] <;> rfl
  have hload : Access.isLoad a = true := by rw [Access.isLoad, hkind]
  have hperform : { s.performWith c sl th.lane n w a with mon := s.mon } =
      (s.onWave c sl (fun w => w.logAccess a (.value th.lane a.pc a.va v))).finish c sl th.lane n (fun t => t.returned s d size v) := by
    have e : s.performWith c sl th.lane n w a = s.performLoad c sl th.lane n w a size sx d := by rw [State.performWith, hkind]
    rw [e]
    unfold State.performLoad
    rw [replay_unlined hp]
    dsimp only
    rw [State.fetched_local hpoison hlocal, State.breachAt_unguarded hspill, hread]
    split
    · exact State.gauge_rest ..
    · rfl
  refine ⟨_, congrArg Host.Outcome.next (performAnd_eq hp hload), fun pa => ?_, ?_⟩
  · have hmem := congrArg State.mem hperform
    rw [(OnlyWaves.settle _ c sl).mem]
    exact congrArg (fun m => readMem m pa) hmem
  · have hwave := State.wave?_onWave_same hp.wave (fun x => Wave.logAccess_place x a (.value th.lane a.pc a.va v)) (log_unlined hp _)
    exact returned_lane hp hwave honce ((congrArg State.waves hperform :))

/-! ## Stores -/

section
variable (c g : Nat)

/-- A store changes what its core has written, and nothing else. -/
theorem State.viewWrite_rest (bs : List Byte) : ∀ (s : State) (pa : Nat), { s.viewWrite c g pa bs with cores := s.cores } = s := by
  induction bs with
  | nil => exact fun _ _ => rfl
  | cons b rest ih =>
    intro s pa
    exact (congrArg (fun x : State => { x with cores := s.cores }) (ih (s.onCore c _) (pa + 1)))

theorem State.viewWrite_core (bs : List Byte) : ∀ (s : State) (pa k : Nat), ∃ ws, (s.viewWrite c g pa bs).core k = { s.core k with writes := ws } ∧
    (k ≠ c → ws = (s.core k).writes) ∧ (k = c → ∀ i < bs.length, look ws (pa + i) = some ⟨bs.getD i 0, g, none⟩) ∧
    ∀ x, x < pa ∨ pa + bs.length ≤ x → look ws x = look (s.core k).writes x := by
  induction bs with
  | nil => exact fun s pa k => ⟨_, rfl, fun _ => rfl, fun _ i hi => absurd hi (Nat.not_lt_zero i), fun _ _ => rfl⟩
  | cons b rest ih =>
    intro s pa k
    obtain ⟨ws, hcore, hne, hin, hout⟩ := ih (s.onCore c (fun k => { k with writes := insertAt k.writes pa ⟨b, g, none⟩ })) (pa + 1) k
    rw [State.core_onCore] at hcore hne hout
    by_cases hk : k = c
    · subst hk
      rw [if_pos rfl] at hcore hne hout
      refine ⟨ws, hcore, fun h => absurd rfl h, fun _ i hi => ?_, fun x hx => ?_⟩
      · cases i with
        | zero => rw [Nat.add_zero, hout pa (.inl (Nat.lt_succ_self pa)), look_insertAt_same]; rfl
        | succ j => rw [← Nat.add_assoc, Nat.add_right_comm, hin rfl j (Nat.lt_of_succ_lt_succ hi)]; rfl
      · simp only [List.length_cons] at hx
        rw [hout x (by omega), look_insertAt_ne _ _ (by omega)]
    · rw [if_neg hk] at hcore hne hout
      refine ⟨ws, hcore, hne, fun h => absurd h hk, fun x hx => hout x ?_⟩
      simp only [List.length_cons] at hx
      omega

/-- The tiles of the cores stay. -/
theorem State.viewWrite_tiles (bs : List Byte) : ∀ (s : State) (pa : Nat), ∀ p ∈ (s.viewWrite c g pa bs).cores, ∀ x ∈ p.2.tiles,
    ∃ q ∈ s.cores, x ∈ q.2.tiles := by
  induction bs with
  | nil => exact fun s pa p hp x hx => ⟨p, hp, hx⟩
  | cons b rest ih =>
    intro s pa p hp x hx
    obtain ⟨q, hq, hxq⟩ := ih _ _ p hp x hx
    rcases mem_insertAt hq with rfl | hq
    · change x ∈ (s.core c).tiles at hxq
      rw [State.core, getD] at hxq
      cases hl : look s.cores c with
      | none => rw [hl] at hxq; cases hxq
      | some k => rw [hl] at hxq; exact ⟨(c, k), mem_of_look hl, hxq⟩
    · exact ⟨q, hq, hxq⟩
end

section
variable {s t : State} {pls : List Place}

/-- A state with the same memory, tables and communicators, and no other tiles, guards nothing more. -/
theorem noSpill_of_tiles (h : NoSpill s pls) (hmem : t.mem = s.mem) (hmon : t.mon = s.mon) (htlb : t.tlb = s.tlb) (hfree : t.free = s.free)
    (hblocks : t.blocks = s.blocks) (hgangs : t.gangs = s.gangs) (hlaunches : t.launches = s.launches)
    (htiles : ∀ p ∈ t.cores, ∀ x ∈ p.2.tiles, ∃ q ∈ s.cores, x ∈ q.2.tiles) : NoSpill t pls := by
  intro p hp x hx hm hpol pa hpa
  obtain ⟨q, hq, hxq⟩ := htiles p hp x hx
  have hvf : t.vfOf x.2.blk = s.vfOf x.2.blk := by
    simp only [State.vfOf, State.launchOf, State.gangOf, State.block?, State.gang?, State.launch?, hblocks, hgangs, hlaunches]
  rw [State.inSpill, State.underSpan_congr hmem hmon htlb hfree, hvf]
  exact h q hq x hxq hm hpol pa hpa

theorem noChunk_of_comms (h : NoChunk s pls) (hmem : t.mem = s.mem) (hmon : t.mon = s.mon) (htlb : t.tlb = s.tlb) (hfree : t.free = s.free)
    (hcomms : t.comms = s.comms) : NoChunk t pls := by
  intro k hk x hx ha ch hch pa hpa
  rw [hcomms] at hk
  rw [State.underSpan_congr hmem hmon htlb hfree]
  exact h k hk x hx ha ch hch pa hpa

theorem noSpill_of_pad (h : ∀ pa, Place.phys pa ∉ pls) : NoSpill s pls := fun _ _ _ _ _ _ pa hpa => absurd hpa (h pa)
theorem noChunk_of_pad (h : ∀ pa, Place.phys pa ∉ pls) : NoChunk s pls := fun _ _ _ _ _ _ _ pa hpa => absurd hpa (h pa)

theorem noBarrier_of_queues (h : NoBarrier s pls) (hq : ∀ p ∈ t.blocks, ∃ q ∈ s.blocks, p.2.queues = q.2.queues) : NoBarrier t pls := by
  intro b hb
  refine h b ?_
  simp only [State.namedBarriers, List.mem_eraseDups, List.mem_flatMap] at hb ⊢
  obtain ⟨p, hp, q, hqp, hrest⟩ := hb
  obtain ⟨p', hp', e⟩ := hq p hp
  exact ⟨p', hp', q, by rw [← e]; exact hqp, hrest⟩
end

/-- A scratchpad's bytes with some more written. -/
def putBytes (m : List (Nat × Byte)) (off : Nat) : List Byte → List (Nat × Byte)
  | [] => m
  | b :: rest => putBytes (setD m 0#8 off b) (off + 1) rest

theorem getD_putBytes_beside (bs : List Byte) : ∀ (m : List (Nat × Byte)) (off : Nat), ∀ x, x < off ∨ off + bs.length ≤ x →
    getD (putBytes m off bs) 0#8 x = getD m 0#8 x := by
  induction bs with
  | nil => exact fun _ _ _ _ => rfl
  | cons b rest ih =>
    intro m off x hx
    rw [List.length_cons] at hx
    exact (ih _ _ x (by omega)).trans (getD_setD_ne m 0#8 b (by omega))

theorem getD_putBytes (bs : List Byte) : ∀ (m : List (Nat × Byte)) (off : Nat), canonical (0 : Byte) m = true → ∀ i < bs.length,
    getD (putBytes m off bs) 0#8 (off + i) = bs.getD i 0 := by
  induction bs with
  | nil => exact fun _ _ _ i hi => absurd hi (Nat.not_lt_zero i)
  | cons b rest ih =>
    intro m off hm i hi
    cases i with
    | zero => exact (getD_putBytes_beside rest _ _ off (.inl (Nat.lt_succ_self off))).trans (getD_setD_same m 0#8 off b hm)
    | succ j =>
      rw [show off + (j + 1) = off + 1 + j by omega]
      exact ih _ _ (canonical_setD m 0#8 off b hm) j (Nat.lt_of_succ_lt_succ hi)

section
variable (b : Nat)

theorem State.padWrite_rest (bs : List Byte) : ∀ (s : State) (off : Nat), { s.padWrite b off bs with blocks := s.blocks } = s := by
  induction bs with
  | nil => exact fun _ _ => rfl
  | cons x rest ih =>
    intro s off
    exact congrArg (fun u : State => { u with blocks := s.blocks }) (ih (s.onBlock b _) (off + 1))

theorem State.padWrite_block (bs : List Byte) : ∀ (s : State) (off j : Nat), (s.padWrite b off bs).block? j =
    (s.block? j).map (fun k => if j = b then { k with pad := putBytes k.pad off bs } else k) := by
  induction bs with
  | nil =>
    intro s off j
    cases h : s.block? j with
    | none => simp [State.padWrite, h]
    | some k => simp [State.padWrite, putBytes, h]
  | cons x rest ih =>
    intro s off j
    refine (ih _ _ j).trans ?_
    rw [State.block?, State.onBlock, look_onKey]
    by_cases hj : j = b
    · subst hj
      rw [if_pos rfl, Option.map_map]
      refine congrArg (fun f => Option.map f _) (funext fun k => ?_)
      simp [putBytes]
    · simp only [if_neg hj]
      rfl

theorem State.padWrite_queues (bs : List Byte) : ∀ (s : State) (off : Nat), ∀ p ∈ (s.padWrite b off bs).blocks,
    ∃ q ∈ s.blocks, p.2.queues = q.2.queues := by
  induction bs with
  | nil => exact fun s off p hp => ⟨p, hp, rfl⟩
  | cons x rest ih =>
    intro s off p hp
    obtain ⟨q, hq, e⟩ := ih _ _ p hp
    rcases mem_onKey hq with hq | ⟨v, hv, rfl⟩
    · exact ⟨q, hq, e⟩
    · exact ⟨_, hv, e⟩
end

/-- What is written at the places of a store that guards nothing strikes nothing. -/
theorem State.writePlace_unguarded {s t : State} {a : Access} (ht : { t with waves := s.waves } = s) (hspill : NoSpill s a.places)
    (hchunk : NoChunk s a.places) (hbar : NoBarrier s a.places) (hmis : NoMisuse s a.places) (c g : Nat) (data : List Byte) :
    (t.writePlace c g a.place data).overwrite a.places s = t.writePlace c g a.place data := by
  obtain ⟨ws, rfl⟩ : ∃ ws, t = { s with waves := ws } := ⟨t.waves, by rw [← ht]⟩
  cases hpl : a.place with
  | phys pa =>
    have hrest := State.viewWrite_rest c g data { s with waves := ws } pa
    refine State.overwrite_unguarded ?_ ?_ ?_ hmis
    · exact noSpill_of_tiles hspill (congrArg State.mem hrest :) (congrArg State.mon hrest :) (congrArg State.tlb hrest :) (congrArg State.free hrest :)
        (congrArg State.blocks hrest :) (congrArg State.gangs hrest :) (congrArg State.launches hrest :) (State.viewWrite_tiles c g data _ pa)
    · exact noChunk_of_comms hchunk (congrArg State.mem hrest :) (congrArg State.mon hrest :) (congrArg State.tlb hrest :) (congrArg State.free hrest :)
        (congrArg State.comms hrest :)
    · refine noBarrier_of_queues hbar (fun p hp => ⟨p, ?_, rfl⟩)
      have e := congrArg State.blocks hrest
      rw [← e]
      exact hp
  | pad b off =>
    have hpad : ∀ pa, Place.phys pa ∉ a.places := by
      intro pa hpa
      obtain ⟨i, -, hi⟩ := List.mem_map.mp hpa
      rw [hpl] at hi
      cases hi
    exact State.overwrite_unguarded (noSpill_of_pad hpad) (noChunk_of_pad hpad) (noBarrier_of_queues hbar (State.padWrite_queues b data _ off)) hmis

/-- Settles O22: what is written enters the view or the scratchpad, and the rest of the step leaves both. -/
theorem storePerforms : Obligations.StorePerforms := by
  unfold Obligations.StorePerforms
  intro c sl n s w th a data hp hkind hspill hchunk hbar hmis
  have hstore : Access.isStore a = true := by rw [Access.isStore, hkind]
  generalize hlog : s.onWave c sl (fun w => w.logAccess a (.store th.lane a.pc a.place data)) = s1
  have hs1 : { s1 with waves := s.waves } = s := by rw [← hlog]; rfl
  have hwave : s1.wave? c sl = some w := by
    rw [← hlog]
    exact State.wave?_onWave_same hp.wave (fun x => Wave.logAccess_place x a _) (log_unlined hp _)
  generalize hwritten : s1.writePlace c (s.gangId w.blk) a.place data = t
  have hperform : s.performWith c sl th.lane n w a = t.finish c sl th.lane n (fun t => t) := by
    rw [State.performWith, hkind]
    dsimp only
    unfold State.performStore
    dsimp only
    rw [hlog, State.writePlace_unguarded hs1 hspill hchunk hbar hmis, hwritten]
  have hmem : t.mem = s.mem := by
    rw [← hwritten, State.writePlace_mem]
    exact (congrArg State.mem hs1 :)
  have hlast : OnlyWaves t ((s.performWith c sl th.lane n w a).settle c sl) := by
    rw [hperform]
    exact (OnlyWaves.of_waves t _).trans (OnlyWaves.settle ..)
  refine ⟨_, congrArg Host.Outcome.next (performAnd_eq hp hstore), fun pa => ?mem, ?gone, fun pa hpa => ?phys, fun b off k hpa hk hcan => ?pad⟩
  case mem => rw [hlast.mem, hmem]
  case gone =>
    have ht : t.waves = s1.waves := by
      rw [← hwritten]
      cases a.place with
      | phys pa => exact (congrArg State.waves (State.viewWrite_rest c _ data s1 pa) :)
      | pad b off => exact (congrArg State.waves (State.padWrite_rest b data s1 off) :)
    have hw : t.wave? c sl = some w := by rw [State.wave?, ht]; exact hwave
    exact finish_lane hp hw (by rw [hperform]) (fun _ => rfl) (fun _ => rfl) (fun _ => rfl) (fun _ _ _ _ => rfl)
  case phys =>
    have e : t = s1.viewWrite c (s.gangId w.blk) pa data := by rw [← hwritten, hpa]; rfl
    have hrest : { t with cores := s1.cores } = s1 := by rw [e]; exact State.viewWrite_rest ..
    have hcore := State.viewWrite_core c (s.gangId w.blk) data s1 pa
    rw [← e] at hcore
    have hs1core : ∀ k, s1.core k = s.core k := fun k => by rw [← hlog]; rfl
    have hblocks : t.blocks = s.blocks := ((congrArg State.blocks hrest :).trans (congrArg State.blocks hs1 :))
    have hsnap : ∀ k x, t.snapByte k x = s.snapByte k x := by
      intro k x
      obtain ⟨ws, hk, -⟩ := hcore k
      have hgangs : t.gangs = s.gangs := ((congrArg State.gangs hrest :).trans (congrArg State.gangs hs1 :))
      have hstamps : t.stamps = s.stamps := ((congrArg State.stamps hrest :).trans (congrArg State.stamps hs1 :))
      simp only [State.snapByte, State.gangsOn, State.gang?, State.home, hk, hs1core, hblocks, hgangs, hmem, hstamps]
    refine ⟨fun i hi => ?_, fun k x hx => ?_, hlast.blocks.trans hblocks⟩
    · obtain ⟨ws, hk, -, hin, -⟩ := hcore c
      rw [hlast.viewByte, State.viewByte, hk, hin rfl i hi]
    · obtain ⟨ws, hk, hne, -, hout⟩ := hcore k
      rw [hlast.viewByte, State.viewByte, State.viewByte, hsnap, hk]
      by_cases hkc : k = c
      · rw [hout x (hx.resolve_left (not_not.mpr hkc)), hs1core]
      · rw [hne hkc, hs1core]
  case pad =>
    have e : t = s1.padWrite b off data := by rw [← hwritten, hpa]; rfl
    have hs1block : ∀ j, s1.block? j = s.block? j := fun j => by rw [← hlog]; rfl
    have hblock := State.padWrite_block b data s1 off
    rw [← e] at hblock
    refine ⟨fun i hi => ?_, fun j x hx => ?_, fun j => ?_⟩
    · rw [hlast.padByte, State.padByte, hblock, hs1block, hk]
      simpa using getD_putBytes data k.pad off hcan i hi
    · rw [hlast.padByte, State.padByte, State.padByte, hblock, hs1block]
      cases hj : s.block? j with
      | none => rfl
      | some u =>
        by_cases hjb : j = b
        · simpa [hjb] using getD_putBytes_beside data u.pad off x (hx.resolve_left (not_not.mpr hjb))
        · simp [hjb]
    · have hcores : t.cores = s.cores := by
        rw [e]
        exact ((congrArg State.cores (State.padWrite_rest b data s1 off) :).trans (congrArg State.cores hs1 :))
      have hj : t.core j = s.core j := by rw [State.core, State.core, hcores]
      rw [← hj]
      exact hlast.cores j

end Sys2Proof.Machine
end

section
/-! PROOFS. A MEMO issues (spec/08 R159 to R164): what it makes of a lane, by the outcome of its checks; then O23. -/

namespace Sys2Proof.Machine
open Sys2Proof.Claims

section
variable (s : State) (op : MemoOp) (d a : Reg) (z : Bool) (e : BitVec 2) (c : BitVec 3)

/-- A register, or a pair, as a MEMO of a size reads it. -/
def Thread.memoValue (th : Thread) (r : Nat) : Dword := if z then th.pair? s r else (th.g? s r).setWidth 64
/-- The value that a CAS stores, 0 of another operation. -/
def Thread.memoNew (th : Thread) : Dword := if op = .cas then th.memoValue s z (d.toNat + (if z then 8 else 4) / 4) else 0
/-- The link that a place is reached over carries the operation (R375). -/
def State.carriedAt (pl : Place) : Bool :=
  match pl with
  | .phys pa => s.carries pa op c.toNat
  | .pad _ _ => true

/-- A thread that has issued a MEMO at a place. -/
def Thread.memoIssued (th : Thread) (pl : Place) : Thread :=
  let th1 := th.order s e c.toNat (.memo op (if z then 8 else 4) d.toNat (th.memoValue s z d.toNat) (th.memoNew s op d z) c.toNat) pl (th.pair? s a.toNat)
  if op = .sto then th1 else th1.markResult d.toNat (if z then 8 else 4)

/-- What a MEMO makes of a lane whose address is good. -/
def State.memoOut (w : Wave) (th : Thread) (pl : Place) : Out :=
  if !s.carriedAt op c pl then .trap th cFAULT
  else if op = .ldo then .next (th.memoIssued s op d a z e c pl)
  else s.storeOut w th pl (memoData op (if z then 8 else 4) (th.memoValue s z d.toNat) (th.memoNew s op d z) c.toNat)
    (th.memoIssued s op d a z e c pl) (th.memoIssued s op d a z e c pl)

variable {s op d a z e c} {w : Wave} {th : Thread} {pl : Place}

theorem Thread.memoIssued_lane : (th.memoIssued s op d a z e c pl).lane = th.lane := by
  unfold Thread.memoIssued
  dsimp only
  split
  · exact Thread.order_lane ..
  · exact Thread.order_lane ..

theorem State.memoOut_lane : (s.memoOut op d a z e c w th pl).thread.lane = th.lane := by
  unfold State.memoOut
  split
  · rfl
  · split
    · exact Thread.memoIssued_lane
    · exact State.storeOut_lane s _ _ _ _ Thread.memoIssued_lane Thread.memoIssued_lane

theorem State.memoOut_barred (h : s.carriedAt op c pl = false) : s.memoOut op d a z e c w th pl = .trap th cFAULT := by simp [State.memoOut, h]

theorem State.memoOut_carried (h : s.carriedAt op c pl = true) (ha : s.Agrees w) :
    s.memoOut op d a z e c w th pl = .next (th.memoIssued s op d a z e c pl) := by
  unfold State.memoOut
  rw [h]
  by_cases hop : op = .ldo
  · simp [hop]
  · simp [hop, State.storeOut_agrees ha]

/-- An access beside a data access cannot throw. -/
theorem Thread.memoIssued_eq : th.memoIssued s op d a z e c pl = { th with
    acc := th.acc ++ (if e.getLsbD 1 = true then [issuedAt s th (.publish c.toNat) pl (th.pair? s a.toNat)] else []) ++
      [issuedAt s th (.memo op (if z then 8 else 4) d.toNat (th.memoValue s z d.toNat) (th.memoNew s op d z) c.toNat) pl (th.pair? s a.toNat)] ++
      (if e.getLsbD 0 = true then [issuedAt s th (.refresh c.toNat) pl (th.pair? s a.toNat)] else [])
    marks := if op = MemoOp.sto then th.marks else (if z = true then [d.toNat, d.toNat + 1] else [d.toNat]) ++ th.marks } := by
  have horder : ∀ k va, th.order s e c.toNat k pl va = { th with
      acc := th.acc ++ (if e.getLsbD 1 = true then [issuedAt s th (.publish c.toNat) pl va] else []) ++ [issuedAt s th k pl va] ++
        (if e.getLsbD 0 = true then [issuedAt s th (.refresh c.toNat) pl va] else []) } := by
    intro k va
    unfold Thread.order
    cases h1 : e.getLsbD 1 <;> cases h0 : e.getLsbD 0 <;> simp [Thread.issue, issuedAt, Thread.laneRegs]
  unfold Thread.memoIssued
  rw [horder]
  by_cases hop : op = .sto
  · simp [hop]
  · cases z <;> simp [hop, Thread.markResult]
end

/-- Settles O23: the scope check for every lane, then `memLanes` with what `memoOut` makes of a good address. -/
theorem memoIssues : Obligations.MemoIssues := by
  unfold Obligations.MemoIssues
  intro i op d a z e c t row s w th hp size rs val next va ha hr
  have hregs : s.regsOk ([a.toNat, a.toNat + 1] ++ dataRegs d.toNat size ++ (if op = .cas then dataRegs (d.toNat + size / 4) size else [])) := by
    have hdata : ∀ (z : Bool) (n : Nat), dataRegs n (if z = true then 8 else 4) = if z = true then [n, n + 1] else [n] := fun z n => by cases z <;> rfl
    have hnext : ∀ z : Bool, (if z = true then 8 else 4) / 4 = if z = true then 2 else 1 := by decide
    simp only [size, hdata, hnext]
    exact hr
  have hw : s.curWave = some w := hp.wave
  have hexec : exec i s = done (if s.scopeForbidden (s.vfOf w.blk) c.toNat then s.trapAll cSCOPE
      else s.memLanes [] [] t (fun _ th => th.pair? s a.toNat) size (op != .ldo) (s.memoOut op d a z e c) (fun u => if op = .ldo then u
        else u.afterCompare s (fun w th => (s.globalPlace (fun _ th => th.pair? s a.toNat) size true w th).filter (fun pl => s.carriedAt op c pl))
          (fun th => memoData op size (th.memoValue s z d.toNat) (th.memoNew s op d z) c.toNat))) := by
    rw [exec_of_memo row]
    unfold memo
    dsimp only
    rw [State.withRegs_ok hregs]
    simp only [hw]
    rfl
  have hafter : ∀ u : State, (if op = .ldo then u
      else u.afterCompare s (fun w th => (s.globalPlace (fun _ th => th.pair? s a.toNat) size true w th).filter (fun pl => s.carriedAt op c pl))
        (fun th => memoData op size (th.memoValue s z d.toNat) (th.memoNew s op d z) c.toNat)) = u := fun u => by
    split
    · rfl
    · exact State.afterCompare_agrees hw ha _ _ u
  obtain ⟨hlane, hmem, -⟩ := State.memLanes_lane (tack := t) (addr := fun _ th => th.pair? s a.toNat) (size := size) (write := op != .ldo)
    (ok := s.memoOut op d a z e c) hp (regs := []) (toks := []) (State.regsOk_nil s) (fun r hr => absurd hr List.not_mem_nil) hafter (fun _ _ _ => State.memoOut_lane)
  refine ⟨_, hexec, fun pa => ?mem, fun hf => ?scope, fun hf pl hat => ⟨fun hbar => ?barred, fun hcarry => ?carried⟩⟩
  case mem =>
    split
    · exact congrArg (fun m => readMem m pa) (State.perLane_mem ..)
    · rw [hmem]
  case scope =>
    rw [if_pos hf]
    exact State.perLane_lane hp false (fun _ th => .trap th cSCOPE) (fun _ _ => rfl)
  case barred =>
    obtain ⟨pa, rfl, hno⟩ := hbar
    rw [if_neg (by simp [hf]), hlane, State.memOut_at hat, State.memoOut_barred (by exact hno)]
    rfl
  case carried =>
    have hc : s.carriedAt op c pl = true := by
      cases pl with
      | phys pa => exact hcarry pa rfl
      | pad b off => rfl
    rw [if_neg (by simp [hf]), hlane, State.memOut_at hat, State.memoOut_carried hc ha, Out.apply_next, Thread.memoIssued_eq]
    cases z <;> rfl

end Sys2Proof.Machine
end

section
/-! PROOFS. A compare-and-swap of a peer whose data is no pair of operands: what refutes O47. -/

namespace Sys2Proof.Machine
open Sys2Proof.Claims

/-- The comparand 0 and five bytes more, of a compare-and-swap on four. -/
def oddOperands : List Byte := [0, 0, 0, 0, 0, 0, 0, 0, 1]

/-- A write at the home of a device with no core has none to tell. -/
theorem State.homeWriteBytes_no_cores {s : State} (h : s.cores = []) (gang : Option Nat) (pa : Nat) (bs : List Byte) :
    (s.homeWriteBytes gang pa bs).cores = [] := by
  have e := State.homeWriteBytes_tiles gang bs s pa
  rw [h] at e
  exact List.map_eq_nil_iff.mp e

theorem reset_unguarded (pa : Nat) (bs : List Byte) (pls : List Place) :
    NoSpill (State.reset.homeWriteBytes none pa bs) pls ∧ NoChunk (State.reset.homeWriteBytes none pa bs) pls := by
  refine ⟨fun c hc => ?_, fun k hk => ?_⟩
  · rw [State.homeWriteBytes_no_cores rfl] at hc
    cases hc
  · rw [State.homeWriteBytes_comms] at hk
    cases hk

/-- A number of bytes is below its bound. -/
theorem leNat_lt (bs : List Byte) : leNat bs < 256 ^ bs.length := by
  induction bs with
  | nil => exact Nat.one_pos
  | cons b rest ih =>
    have hb := b.isLt
    rw [leNat, List.length_cons, Nat.pow_succ]
    omega

theorem State.homeNat_lt (s : State) (pa n : Nat) : s.homeNat pa n < 256 ^ n := by
  have h := leNat_lt ((List.range n).map (fun i => readMem s.mem (pa + i)))
  rwa [List.length_map, List.length_range] at h

/-- Refutes O47: data of nine bytes is, by the statement's own count, a compare-and-swap on four bytes, whose new value of five bytes does not fit
them; where the comparand is met, memory cannot read as that value. -/
theorem not_hostAndPeers : ¬ Obligations.HostAndPeers := by
  unfold Obligations.HostAndPeers
  intro h
  obtain ⟨-, -, -, -, hpeer⟩ := h
  have horderly : Orderly State.reset := ⟨rfl, fun _ => Nat.le_refl 0⟩
  obtain ⟨-, hserved⟩ := hpeer State.reset 0 0x4000 3 oddOperands horderly
  have hspill : ∀ pls, NoSpill State.reset pls := fun pls c hc => absurd hc List.not_mem_nil
  obtain ⟨-, -, hatomic⟩ := hserved (by decide +kernel) (by decide +kernel) (by decide +kernel) (by decide +kernel) (by decide +kernel)
    (by decide +kernel) (hspill _)
  obtain ⟨s', -, -, hnew, -⟩ := hatomic .cas (by decide) rfl (.inl (by decide)) (by unfold NoMisuse; decide +kernel)
    (fun bs _ => reset_unguarded 0x4000 bs _)
  have hbig : (amo .cas (8 * 4) (State.reset.homeNat 0x4000 4) (leNat (oddOperands.take 4)) (leNat (oddOperands.drop 4))).getD
      (State.reset.homeNat 0x4000 4) = 2 ^ 32 := by decide +kernel
  have hlt := State.homeNat_lt s' 0x4000 4
  exact absurd (hnew.trans hbig) (Nat.ne_of_lt hlt)

end Sys2Proof.Machine
end

section
/-! PROOFS. The register maps read after a write, and what the operations over memory leave of the state. -/

namespace Sys2Proof.Machine
open Sys2Proof.Claims

/-! ## Register maps -/

theorem look_setD_ne {α : Type} [DecidableEq α] (m : List (Nat × α)) (d : α) {x y : Nat} (v : α) (h : y ≠ x) : look (setD m d x v) y = look m y := by
  unfold setD
  split
  · exact look_eraseAt_ne m h
  · exact look_insertAt_ne m v h

theorem getD_setD_rising {α : Type} [DecidableEq α] (m : List (Nat × α)) (d : α) (x : Nat) (v : α) (h : v ≠ d ∨ risingFrom 0 m = true) :
    getD (setD m d x v) d x = v := by
  unfold setD
  split
  next hv => rw [getD, look_eraseAt_same m x (h.resolve_left (not_not.mpr hv)), hv]
  next => exact getD_insertAt_same m d x v

theorem risingFrom_setD {α : Type} [DecidableEq α] {m : List (Nat × α)} (h : risingFrom 0 m = true) (d : α) (x : Nat) (v : α) :
    risingFrom 0 (setD m d x v) = true := by
  unfold setD
  split
  · exact risingFrom_eraseAt m x h
  · exact risingFrom_insertAt m x v h (Nat.zero_le x)

section
variable (s : State) (space ix off : Nat) (v : Word)

/-- A word that is set reads as set: where it is not the reset value, or where the map lists a word once. -/
theorem State.reg_setReg (h : v ≠ regReset space off ∨ risingFrom 0 s.mon.regs = true) : (s.setReg space ix off v).reg space ix off = v :=
  getD_setD_rising _ _ _ _ h

theorem State.reg_setReg_beside {space' ix' off' : Nat} (h : regKey space' ix' off' ≠ regKey space ix off) :
    (s.setReg space ix off v).reg space' ix' off' = s.reg space' ix' off' := by
  unfold State.reg State.setReg getD
  rw [look_setD_ne _ _ _ h]

theorem State.setReg_rising (h : risingFrom 0 s.mon.regs = true) : risingFrom 0 (s.setReg space ix off v).mon.regs = true := risingFrom_setD h _ _ _
end

/-! ## Memory steps -/

/-- Nothing is different but what memory operations change: the orders of writes, the views, the scratchpads, the instances' marks, what is to be sent. -/
def OnlyMemory (s t : State) : Prop :=
  { t with cores := s.cores, gangs := s.gangs, blocks := s.blocks, comms := s.comms, mem := s.mem, stamps := s.stamps, stamp := s.stamp, copies := s.copies,
           owned := s.owned, loose := s.loose, doomed := s.doomed, poisoned := s.poisoned, requests := s.requests, ids := s.ids } = s

theorem OnlyMemory.refl (s : State) : OnlyMemory s s := rfl

theorem OnlyMemory.trans {s t u : State} (h : OnlyMemory s t) (h' : OnlyMemory t u) : OnlyMemory s u := by
  have e := (congrArg (fun x : State => { x with
    cores := s.cores, gangs := s.gangs, blocks := s.blocks, comms := s.comms, mem := s.mem, stamps := s.stamps, stamp := s.stamp, copies := s.copies,
    owned := s.owned, loose := s.loose, doomed := s.doomed, poisoned := s.poisoned, requests := s.requests, ids := s.ids }) h' :)
  exact e.trans h

theorem OnlyMemory.foldl {α : Type} {f : State → α → State} (hf : ∀ t x, OnlyMemory t (f t x)) (l : List α) : ∀ s, OnlyMemory s (l.foldl f s) := by
  induction l with
  | nil => exact OnlyMemory.refl
  | cons x rest ih => exact fun s => (hf s x).trans (ih (f s x))

section
variable {s t : State} (h : OnlyMemory s t)
include h

theorem OnlyMemory.waves : t.waves = s.waves := (congrArg State.waves h :)
theorem OnlyMemory.launches : t.launches = s.launches := (congrArg State.launches h :)
theorem OnlyMemory.mon : t.mon = s.mon := (congrArg State.mon h :)
theorem OnlyMemory.clock : t.clock = s.clock := (congrArg State.clock h :)
theorem OnlyMemory.free : t.free = s.free := (congrArg State.free h :)
theorem OnlyMemory.tlb : t.tlb = s.tlb := (congrArg State.tlb h :)
theorem OnlyMemory.cur : t.cur = s.cur := (congrArg State.cur h :)
theorem OnlyMemory.cycles : t.cycles = s.cycles := (congrArg State.cycles h :)
theorem OnlyMemory.tags : t.tags = s.tags := (congrArg State.tags h :)
theorem OnlyMemory.partitions : t.partitions = s.partitions := (congrArg State.partitions h :)

theorem OnlyMemory.reg (space ix off : Nat) : t.reg space ix off = s.reg space ix off := by rw [State.reg, State.reg, h.mon]
theorem OnlyMemory.lane? (c sl l : Nat) : t.lane? c sl l = s.lane? c sl l := State.lane?_of_waves h.waves c sl l
theorem OnlyMemory.wave? (c sl : Nat) : t.wave? c sl = s.wave? c sl := by rw [State.wave?, State.wave?, h.waves]
end

section
variable (s : State)

theorem OnlyMemory.onCore (c : Nat) (f : Core → Core) : OnlyMemory s (s.onCore c f) := rfl
theorem OnlyMemory.onGang (g : Nat) (f : Gang → Gang) : OnlyMemory s (s.onGang g f) := rfl
theorem OnlyMemory.onBlock (b : Nat) (f : Block → Block) : OnlyMemory s (s.onBlock b f) := rfl
theorem OnlyMemory.onComm (k : Nat) (f : Comm → Comm) : OnlyMemory s (s.onComm k f) := rfl

theorem OnlyMemory.homeWrite (gang : Option Nat) (pa : Nat) (b : Byte) (stamp : Nat) : OnlyMemory s (s.homeWrite gang pa b stamp) := by
  unfold State.homeWrite
  split
  · cases gang with
    | none => exact rfl
    | some g =>
      dsimp only
      split <;> exact rfl
  · exact rfl

theorem OnlyMemory.bind (pa n : Nat) : OnlyMemory s (s.bind pa n) := by
  unfold State.bind
  split
  · split <;> exact rfl
  · exact rfl

theorem OnlyMemory.homeWriteBytes (gang : Option Nat) (bs : List Byte) : ∀ (s : State) (pa : Nat), OnlyMemory s (s.homeWriteBytes gang pa bs) := by
  induction bs with
  | nil => exact fun s _ => OnlyMemory.refl s
  | cons b rest ih =>
    intro s pa
    refine OnlyMemory.trans ?_ ((OnlyMemory.homeWrite { s with stamp := s.stamp + 1 } gang pa b (s.stamp + 1)).trans ((OnlyMemory.bind ..).trans (ih ..)))
    exact rfl

theorem OnlyMemory.sendDirty (who : Issuer) (join : Bool) (p : Nat → Bool) : OnlyMemory s (s.sendDirty who join p).1 := rfl

theorem OnlyMemory.devStore (vf pa : Nat) (bs : List Byte) : OnlyMemory s (s.devStore vf pa bs) := by
  have hput : OnlyMemory s ((s.homeWriteBytes none pa bs).setOwner vf ((List.range bs.length).map (fun i => pa + i))) :=
    (OnlyMemory.homeWriteBytes none bs s pa).trans rfl
  unfold State.devStore
  dsimp only
  split
  · exact hput.trans (OnlyMemory.sendDirty ..)
  · exact hput

theorem OnlyMemory.devWriteLong (vf fuel : Nat) : ∀ (s : State) (va : Nat) (bs : List Byte), OnlyMemory s (s.devWriteLong vf fuel va bs) := by
  induction fuel with
  | zero => exact fun s _ _ => OnlyMemory.refl s
  | succ n ih =>
    intro s va bs
    unfold State.devWriteLong
    dsimp only
    split
    · exact OnlyMemory.refl s
    · refine OnlyMemory.trans ?_ (ih ..)
      split
      · exact OnlyMemory.refl s
      · exact OnlyMemory.devStore ..

theorem OnlyMemory.devWrite (vf va : Nat) (bs : List Byte) : OnlyMemory s (s.devWrite vf va bs) := OnlyMemory.devWriteLong ..

theorem OnlyMemory.homeScatter (pas : List Nat) (data : List Byte) : OnlyMemory s (s.homeScatter pas data) :=
  OnlyMemory.foldl (fun t _ => OnlyMemory.homeWriteBytes none _ t _) _ s

theorem OnlyMemory.scramble (pa k : Nat) : OnlyMemory s (s.scramble pa k) :=
  OnlyMemory.trans (t := { s with
    stamp := s.stamp + 1
    cores := s.cores.map (fun p => (p.1, { p.2 with writes := eraseAt p.2.writes pa, snap := eraseAt p.2.snap pa }))
    gangs := s.gangs.map (fun g => (g.1, { g.2 with overlay := eraseAt g.2.overlay pa })) }) rfl (OnlyMemory.homeWrite ..)

theorem OnlyMemory.breach (pas : List Nat) : OnlyMemory s (s.breach pas) := by
  refine OnlyMemory.foldl (fun t c => OnlyMemory.foldl (fun u x => ?_) _ t) _ s
  refine OnlyMemory.trans (OnlyMemory.foldl (fun v i => ?_) (List.range x.2.spillBytes) u) (OnlyMemory.onCore ..)
  split
  · exact OnlyMemory.scramble ..
  · exact OnlyMemory.refl v

theorem OnlyMemory.strikeChunks (pas : List Nat) : OnlyMemory s (s.strikeChunks pas) := by
  refine OnlyMemory.foldl (fun t c => OnlyMemory.foldl (fun u x => OnlyMemory.foldl (fun v ch => ?_) _ u) _ t) _ s
  refine OnlyMemory.trans (OnlyMemory.foldl (fun y i => ?_) (List.range x.coll.chunk) v) (OnlyMemory.onComm ..)
  split
  · exact OnlyMemory.scramble ..
  · exact OnlyMemory.refl y

theorem OnlyMemory.viewWrite (c g : Nat) (bs : List Byte) (pa : Nat) : OnlyMemory s (s.viewWrite c g pa bs) := by
  have e := State.viewWrite_rest c g bs s pa
  exact (congrArg (fun x : State => { x with
    cores := s.cores, gangs := s.gangs, blocks := s.blocks, comms := s.comms, mem := s.mem, stamps := s.stamps, stamp := s.stamp, copies := s.copies,
    owned := s.owned, loose := s.loose, doomed := s.doomed, poisoned := s.poisoned, requests := s.requests, ids := s.ids }) e :)

theorem OnlyMemory.padWrite (b off : Nat) (bs : List Byte) : OnlyMemory s (s.padWrite b off bs) := by
  have e := State.padWrite_rest b bs s off
  exact (congrArg (fun x : State => { x with
    cores := s.cores, gangs := s.gangs, blocks := s.blocks, comms := s.comms, mem := s.mem, stamps := s.stamps, stamp := s.stamp, copies := s.copies,
    owned := s.owned, loose := s.loose, doomed := s.doomed, poisoned := s.poisoned, requests := s.requests, ids := s.ids }) e :)

theorem OnlyMemory.writePlace (c g : Nat) (pl : Place) (bs : List Byte) : OnlyMemory s (s.writePlace c g pl bs) := by
  cases pl with
  | phys pa => exact OnlyMemory.viewWrite ..
  | pad b off => exact OnlyMemory.padWrite ..

theorem OnlyMemory.strikeBarriers (hit : Place → Bool) : OnlyMemory s (s.strikeBarriers hit) := by
  refine OnlyMemory.foldl (fun t pl => ?_) _ s
  split
  · exact OnlyMemory.padWrite ..
  · exact OnlyMemory.refl t

theorem OnlyMemory.unsettle (pas : List Nat) : OnlyMemory s (s.unsettle pas) := OnlyMemory.foldl (fun _ _ => OnlyMemory.scramble ..) _ s

theorem OnlyMemory.overwrite (pls : List Place) (was : State) : OnlyMemory s (s.overwrite pls was) :=
  (((OnlyMemory.strikeBarriers ..).trans (OnlyMemory.breach ..)).trans (OnlyMemory.strikeChunks ..)).trans (OnlyMemory.unsettle ..)

theorem OnlyMemory.setBarrier (pl : Place) (n z : Word) : OnlyMemory s (s.setBarrier pl n z) := by
  cases pl with
  | phys pa => exact OnlyMemory.refl s
  | pad b off => exact OnlyMemory.padWrite ..

theorem OnlyMemory.countDown (o : Option Place) (n : Nat) : OnlyMemory s (s.countDown o n) := by
  cases o with
  | none => exact OnlyMemory.refl s
  | some pl => exact OnlyMemory.setBarrier ..

theorem OnlyMemory.scatterWrite (c g : Nat) (pls : List Place) (data : List Byte) : OnlyMemory s (s.scatterWrite c g pls data) :=
  OnlyMemory.foldl (fun _ _ => OnlyMemory.writePlace ..) _ s

theorem OnlyMemory.scratchWrite (blk : Nat) (bs : List Byte) : ∀ (s : State) (a : Nat), OnlyMemory s (s.scratchWrite blk a bs) := by
  induction bs with
  | nil => exact fun s _ => OnlyMemory.refl s
  | cons b rest ih =>
    intro s a
    refine OnlyMemory.trans ?_ (ih ..)
    split
    · exact OnlyMemory.padWrite ..
    · exact OnlyMemory.refl s

theorem OnlyMemory.putRow (blk c : Nat) (d : CopyDesc) (i j : Nat) (data : List Byte) : OnlyMemory s (s.putRow blk c d i j data) := by
  unfold State.putRow
  split
  · exact OnlyMemory.onCore ..
  · split
    · exact OnlyMemory.onCore ..
    · exact OnlyMemory.scratchWrite ..

theorem OnlyMemory.placeByte (c g sc pa : Nat) (w : ViewWrite) : OnlyMemory s (s.placeByte c g sc pa w) := by
  unfold State.placeByte
  dsimp only
  split
  · exact OnlyMemory.trans (t := s.nextStamp.onCore c _) rfl (OnlyMemory.homeWrite ..)
  · exact rfl

theorem OnlyMemory.orderOwn (c : Nat) (p : Nat → Bool) : OnlyMemory s (s.orderOwn c p) := rfl

theorem OnlyMemory.flushOverlay (g : Nat) : OnlyMemory s (s.flushOverlay g) := by
  unfold State.flushOverlay
  split
  · exact (OnlyMemory.foldl (fun t (p : Nat × Placed) => OnlyMemory.homeWrite t (some g) p.1 p.2.val p.2.stamp) _ s).trans (OnlyMemory.onGang ..)
  · exact OnlyMemory.refl s

theorem OnlyMemory.flushByte (g pa : Nat) : OnlyMemory s (s.flushByte g pa) := by
  unfold State.flushByte
  split
  · exact (OnlyMemory.homeWrite ..).trans (OnlyMemory.onGang ..)
  · exact OnlyMemory.refl s

theorem OnlyMemory.covered (c : Nat) : OnlyMemory s (s.covered c) := OnlyMemory.foldl (fun t _ => OnlyMemory.bind t _ _) _ s

theorem OnlyMemory.publish (c g sc : Nat) (hasGang : Bool) : OnlyMemory s (s.publish c g sc hasGang) := by
  unfold State.publish
  split
  · exact OnlyMemory.orderOwn ..
  · refine OnlyMemory.trans ?_ (OnlyMemory.covered ..)
    exact (OnlyMemory.foldl (fun t (p : Nat × ViewWrite) => OnlyMemory.placeByte t c g sc p.1 p.2) _ s).trans (OnlyMemory.foldl (fun _ _ => OnlyMemory.flushOverlay ..) _ _)
end

end Sys2Proof.Machine
end

section
/-! PROOFS. The selvedge and hold notices (spec/26 R380 to R385): the registers of peers, requests that complete poisoned, holds; then O48. -/

namespace Sys2Proof.Machine
open Sys2Proof.Claims

/-! ## The peer table -/

section
variable (s : State) (p st : Nat)

theorem State.peerMake_lt : s.peerMake p < 256 := Nat.mod_lt _ (by decide)
theorem State.peerState_lt : s.peerState p < 256 := Nat.mod_lt _ (by decide)

/-- The word of a peer's make and state. -/
theorem peerWord_toNat {m st : Nat} (hm : m < 256) (hst : st < 256) : (BitVec.ofNat 32 (m + 256 * st)).toNat = m + 256 * st := by
  rw [BitVec.toNat_ofNat]
  omega

variable (hst : st < 256) (hset : BitVec.ofNat 32 (s.peerMake p + 256 * st) ≠ 0 ∨ risingFrom 0 s.mon.regs = true)
include hst hset

theorem State.peerState_setPeerState : (s.setPeerState p st).peerState p = st := by
  have hm := s.peerMake_lt p
  rw [State.peerState, State.setPeerState, State.reg_setReg s 3 p 4 _ hset, peerWord_toNat hm hst]
  omega

theorem State.peerMake_setPeerState : (s.setPeerState p st).peerMake p = s.peerMake p := by
  have hm := s.peerMake_lt p
  rw [State.peerMake, State.setPeerState, State.reg_setReg s 3 p 4 _ hset, peerWord_toNat hm hst]
  omega
end

/-- A state above 0 is no reset value. -/
theorem peerWord_ne_zero {m st : Nat} (hm : m < 256) (hst : st < 256) (h : 0 < st) : BitVec.ofNat 32 (m + 256 * st) ≠ 0 := by
  intro e
  have := congrArg BitVec.toNat e
  rw [peerWord_toNat hm hst] at this
  simp at this
  omega

/-! ## What a poisoned request leaves -/

/-- The words of the peer table, and of the maps after it, read as before. -/
def SamePeers (s t : State) : Prop := ∀ k, regKey 3 0 0 ≤ k → look t.mon.regs k = look s.mon.regs k

theorem SamePeers.of_mon {s t : State} (h : t.mon = s.mon) : SamePeers s t := fun _ _ => by rw [h]
theorem SamePeers.trans {s t u : State} (h : SamePeers s t) (h' : SamePeers t u) : SamePeers s u := fun k hk => (h' k hk).trans (h k hk)

theorem SamePeers.reg {s t : State} (h : SamePeers s t) (p off : Nat) : t.reg 3 p off = s.reg 3 p off := by
  have hk : regKey 3 0 0 ≤ regKey 3 p off := by unfold regKey; omega
  rw [State.reg, State.reg, getD, getD, h _ hk]

theorem SamePeers.setReg (s : State) (off : Nat) (hoff : off < 2 ^ 20) (v : Word) : SamePeers s (s.setReg 1 0 off v) := fun k hk =>
  look_setD_ne _ _ _ (by unfold regKey at hk ⊢; omega)

theorem gaugeOff_lt {n : Nat} (h : n < 64) : gaugeOff n + 0x100 ≤ 2 ^ 20 := by unfold gaugeOff; omega

theorem SamePeers.gaugeCount (s : State) {n : Nat} (hn : n < 64) (v : Nat) : SamePeers s (s.gaugeCount n v) := by
  have hoff := gaugeOff_lt hn
  unfold State.gaugeCount
  dsimp only
  split
  · exact SamePeers.setReg _ _ (by omega) _
  · refine ((SamePeers.setReg _ _ ?_ _).trans (SamePeers.setReg _ _ ?_ _)).trans ((SamePeers.setReg _ _ ?_ _).trans (SamePeers.setReg _ _ ?_ _))
    · omega
    · omega
    · omega
    · have : ∀ m, min 31 m ≤ 31 := fun m => Nat.min_le_left 31 m
      split
      · have := this (bitLength (min v 0xFFFFFFFF)); omega
      · split
        · omega
        · have := Nat.min_le_left 31 (1 + (min v 4294967295 - (s.reg 1 0 (gaugeOff n + 8)).toNat) / 2 ^ ((s.reg 1 0 (gaugeOff n)).toNat / 16 % 32)); omega

theorem SamePeers.gauge (s : State) (src inst : Nat) (vf : Option Nat) (v : Nat) : SamePeers s (s.gauge src inst vf v) := by
  refine List.foldlRecOn (motive := fun t : State => SamePeers s t) _ _ (fun _ _ => rfl) (fun t ht n hn => ?_)
  split
  · exact ht.trans (SamePeers.gaugeCount t (List.mem_range.mp hn) v)
  · exact ht

theorem SamePeers.endRequest (s : State) (q : Request) : SamePeers s (s.endRequest q) := by
  unfold State.endRequest
  dsimp only
  split
  · exact SamePeers.trans (t := { s with requests := dropFirst (fun x => decide (x = q)) s.requests }) (SamePeers.of_mon rfl) (SamePeers.gauge _ _ _ _ _)
  · exact SamePeers.of_mon rfl

/-! ### The register maps stay -/

theorem State.abortInstance_mon (s : State) (k i cause rank : Nat) : (s.abortInstance k i cause rank).mon = s.mon := by
  unfold State.abortInstance
  split
  · rfl
  · split
    · rfl
    · dsimp only
      split
      · rfl
      · rw [(OnlyMemory.devWrite ..).mon]
        split
        · rw [(OnlyMemory.homeWriteBytes ..).mon]
          rfl
        · rfl

theorem State.abortOrKeep_mon (s : State) (k i cause rank : Nat) : (s.abortOrKeep k i cause rank).mon = s.mon := by
  unfold State.abortOrKeep
  split
  · rfl
  · split
    · exact State.abortInstance_mon ..
    · split <;> rfl

theorem State.spoilCopy_mon (s : State) (o : CopyOp) (d : CopyDesc) : (s.spoilCopy o d).mon = s.mon := by
  refine OnlyMemory.mon (OnlyMemory.foldl (fun t i => ?_) _ s)
  split
  · exact OnlyMemory.refl t
  · split
    · split
      · exact (OnlyMemory.scatterWrite ..).trans (OnlyMemory.overwrite ..)
      · exact OnlyMemory.refl t
    · exact OnlyMemory.putRow ..

theorem State.writeToken_mon (s : State) (who : Issuer) (tok : Nat) (v : Word) : (s.writeToken who tok v).mon = s.mon := by
  unfold State.writeToken
  split <;> rfl

theorem State.cancelCopy_mon (s : State) (o : CopyOp) : (s.cancelCopy o).mon = s.mon := by
  unfold State.cancelCopy
  split
  · rfl
  · refine (State.writeToken_mon ..).trans ?_
    refine foldl_keeps State.mon _ (fun t i => ?_) _ _
    split
    · exact ((OnlyMemory.countDown ..).mon).trans (State.spoilCopy_mon ..)
    · rfl

theorem State.failCopy_mon (s : State) (o : CopyOp) (cls : Nat) (code : Word) : (s.failCopy o cls code).mon = s.mon := State.cancelCopy_mon s o

theorem State.reported_mon (s : State) (c sl : Nat) : (s.reported c sl).mon = s.mon := by
  unfold State.reported
  split <;> rfl

theorem State.poisonWrite_mon (s : State) (q : Request) : (s.poisonWrite q).mon = s.mon := by
  unfold State.poisonWrite
  dsimp only
  split
  · refine (State.failCopy_mon ..).trans ?_
    split <;> rfl
  · split
    · rfl
    · rfl

theorem State.poisonFetch_mon (s : State) (q : Request) : (s.poisonFetch q).mon = s.mon := by
  unfold State.poisonFetch
  split
  · rfl
  · exact State.reported_mon ..

theorem State.poisonRead_mon (s : State) (q : Request) : (s.poisonRead q).mon = s.mon := by
  unfold State.poisonRead
  split
  · exact State.reported_mon ..
  · split
    · exact State.failCopy_mon ..
    · split
      · split <;> rfl
      · rfl

theorem SamePeers.poison (s : State) (q : Request) : SamePeers s (s.poison q) := by
  refine (SamePeers.endRequest s q).trans (SamePeers.of_mon ?_)
  unfold State.poison
  dsimp only
  cases q.kind with
  | read => exact State.poisonRead_mon ..
  | memo op => exact State.poisonRead_mon ..
  | fetch => exact State.poisonFetch_mon ..
  | chunk c i r => exact State.abortInstance_mon ..
  | spool c i b =>
    dsimp only
    split
    · exact State.abortOrKeep_mon ..
    · rfl
  | write => exact State.poisonWrite_mon ..
  | posted => exact State.poisonWrite_mon ..
  | flush => exact State.poisonWrite_mon ..

theorem State.abortPeer_mon (s : State) (p : Nat) : (s.abortPeer p).mon = s.mon := by
  refine foldl_keeps State.mon _ (fun t c => ?_) _ s
  split
  · refine (foldl_keeps State.mon _ (fun u x => State.abortInstance_mon ..) _ _).trans ?_
    exact (OnlyMemory.homeWriteBytes ..).mon
  · rfl

/-! ### The requests of a fenced peer -/

section
variable {α : Type} {p : α → Bool} {q : α} {rest : List α}

theorem filter_dropFirst (l : List α) (same : α → Bool) (hself : same q = true) (hsame : ∀ x, same x = true → x = q) (h : l.filter p = q :: rest) :
    (dropFirst same l).filter p = rest ∧ (dropFirst same l).filter (fun x => !p x) = l.filter (fun x => !p x) := by
  induction l with
  | nil => cases h
  | cons x l ih =>
    unfold dropFirst
    by_cases hx : p x = true
    · rw [List.filter_cons_of_pos hx] at h
      obtain ⟨rfl, hrest⟩ := List.cons.inj h
      rw [if_pos hself]
      exact ⟨hrest, by rw [List.filter_cons_of_neg (by simp [hx])]⟩
    · have hq : p q = true := (List.mem_filter.mp (h ▸ List.mem_cons_self .. : q ∈ (x :: l).filter p)).2
      have hne : ¬same x = true := fun e => hx (by rw [hsame x e]; exact hq)
      rw [List.filter_cons_of_neg hx] at h
      obtain ⟨h1, h2⟩ := ih h
      rw [if_neg hne, List.filter_cons_of_neg hx, List.filter_cons_of_pos (by simpa using hx), List.filter_cons_of_pos (by simpa using hx), h2]
      exact ⟨h1, rfl⟩
end

theorem State.endRequest_rest (s : State) (q : Request) :
    { s.endRequest q with mon := s.mon } = { s with requests := dropFirst (fun x => decide (x = q)) s.requests } := by
  unfold State.endRequest
  dsimp only
  split
  · exact State.gauge_rest (s := { s with requests := dropFirst (fun x => decide (x = q)) s.requests }) ..
  · rfl

/-- A read that completes poisoned, and that no copy waits on, ends: requests, blocks and communicators are else as before. -/
theorem State.poison_read (s : State) {q : Request} (hk : q.kind = .read) (hcopy : s.copyOf q = none) :
    (s.poison q).requests = dropFirst (fun x => decide (x = q)) s.requests ∧ (s.poison q).blocks = s.blocks ∧ (s.poison q).comms = s.comms := by
  have hrest := State.endRequest_rest s q
  have hcopy1 : (s.endRequest q).copyOf q = none := by
    rw [State.copyOf, show (s.endRequest q).blocks = s.blocks from (congrArg State.blocks hrest :)]
    exact hcopy
  have hread : ((s.endRequest q).poisonRead q).requests = (s.endRequest q).requests ∧
      ((s.endRequest q).poisonRead q).blocks = (s.endRequest q).blocks ∧ ((s.endRequest q).poisonRead q).comms = (s.endRequest q).comms := by
    have hrep : ∀ (t : State) (c sl : Nat), (t.reported c sl).requests = t.requests ∧ (t.reported c sl).blocks = t.blocks ∧
        (t.reported c sl).comms = t.comms := by
      intro t c sl
      unfold State.reported
      split <;> exact ⟨rfl, rfl, rfl⟩
    unfold State.poisonRead
    split
    · exact hrep ..
    · rw [hcopy1]
      dsimp only
      split
      · split <;> exact ⟨rfl, rfl, rfl⟩
      · exact ⟨rfl, rfl, rfl⟩
  have e : s.poison q = (s.endRequest q).poisonRead q := by
    unfold State.poison
    rw [hk]
  obtain ⟨h1, h2, h3⟩ := hread
  rw [e, h1, h2, h3]
  exact ⟨(congrArg State.requests hrest :), (congrArg State.blocks hrest :), (congrArg State.comms hrest :)⟩

/-- The reads among the requests, one after another poisoned. -/
theorem State.poison_all (p : Request → Bool) (l : List Request) : ∀ s : State, s.requests.filter p = l →
    (∀ x ∈ l, x.kind = .read ∧ s.copyOf x = none) → (l.foldl State.poison s).requests = s.requests.filter (fun x => !p x) ∧
      (l.foldl State.poison s).comms = s.comms := by
  induction l with
  | nil =>
    intro s hl _
    refine ⟨(List.filter_eq_self.mpr (fun x hx => ?_)).symm, rfl⟩
    simpa using List.filter_eq_nil_iff.mp hl x hx
  | cons q rest ih =>
    intro s hl hall
    obtain ⟨hk, hcopy⟩ := hall q (List.mem_cons_self ..)
    obtain ⟨hreq, hblocks, hcomms⟩ := State.poison_read s hk hcopy
    obtain ⟨hrest, hkept⟩ := filter_dropFirst s.requests (fun x => decide (x = q)) (by simp) (fun x h => by simpa using h) hl
    obtain ⟨h1, h2⟩ := ih (s.poison q) (by rw [hreq]; exact hrest) (fun x hx => by
      obtain ⟨hxk, hxc⟩ := hall x (List.mem_cons_of_mem _ hx)
      exact ⟨hxk, by rw [State.copyOf, hblocks]; exact hxc⟩)
    exact ⟨h1.trans (by rw [hreq, hkept]), h2.trans hcomms⟩

/-! ### A fence -/

/-- With no communicator open a fence aborts none. -/
theorem State.abortPeer_none {s : State} (h : s.comms = []) (p : Nat) : s.abortPeer p = s := by
  rw [State.abortPeer, h]
  rfl

/-- The marks of a fence in the peer table: the peer's state, and the count. -/
def State.fenceWord (s : State) (p : Nat) : State := (s.setPeerState p 1).setReg 3 p 8 (s.reg 3 p 8 + 1)
/-- The peer's hold gone besides. -/
def State.fenceMarks (s : State) (p : Nat) : State := { s.fenceWord p with holds := (s.fenceWord p).holds.filter (fun h => h.peer != p) }

theorem State.fence_eq (s : State) (p : Nat) : s.fence p =
    (((s.requests.filter (fun q => q.region == 2 && q.peer == p)).foldl State.poison s).fenceMarks p).abortPeer p := by
  unfold State.fence State.fenceMarks State.fenceWord
  rfl

theorem State.fenceMarks_requests (s : State) (p : Nat) : (s.fenceMarks p).requests = s.requests := by
  change (s.fenceWord p).requests = _
  rw [State.fenceWord, State.setPeerState, State.setReg_requests, State.setReg_requests]
theorem State.fenceMarks_comms (s : State) (p : Nat) : (s.fenceMarks p).comms = s.comms := by
  change (s.fenceWord p).comms = _
  rw [State.fenceWord, State.setPeerState, State.setReg_comms, State.setReg_comms]
theorem State.fenceMarks_mon (s : State) (p : Nat) : (s.fenceMarks p).mon = (s.fenceWord p).mon := rfl

/-- The registers of a peer that is fenced. -/
theorem State.fence_peer (s : State) (p : Nat) (h : s.reg 3 p 8 ≠ 0xFFFFFFFF#32) :
    (s.fence p).peerState p = 1 ∧ (s.fence p).reg 3 p 8 = s.reg 3 p 8 + 1 := by
  rw [State.fence_eq]
  have hsame : SamePeers s ((s.requests.filter (fun q => q.region == 2 && q.peer == p)).foldl State.poison s) :=
    List.foldlRecOn (motive := fun t : State => SamePeers s t) _ _ (fun _ _ => rfl) (fun t ht q _ => ht.trans (SamePeers.poison t q))
  generalize (s.requests.filter (fun q => q.region == 2 && q.peer == p)).foldl State.poison s = s1 at hsame
  have hone : s.reg 3 p 8 + 1 ≠ 0 := by
    intro e
    exact h (by bv_omega)
  have hbeside : regKey 3 p 4 ≠ regKey 3 p 8 := by unfold regKey; omega
  refine ⟨?_, ?_⟩
  · rw [State.peerState, State.reg, State.abortPeer_mon, State.fenceMarks_mon, ← State.reg, State.fenceWord, State.reg_setReg_beside _ 3 p 8 _ hbeside]
    exact State.peerState_setPeerState s1 p 1 (by decide) (.inl (peerWord_ne_zero (State.peerMake_lt s1 p) (by decide) (by decide)))
  · rw [State.reg, State.abortPeer_mon, State.fenceMarks_mon, ← State.reg, State.fenceWord]
    rw [State.reg_setReg _ 3 p 8 _ (.inl (by rw [hsame.reg]; exact hone)), hsame.reg]

theorem State.fence_requests (s : State) (p : Nat) (hcomms : s.comms = [])
    (hall : ∀ x ∈ s.requests, x.region = 2 → x.peer = p → x.kind = .read ∧ s.copyOf x = none) :
    (s.fence p).requests = s.requests.filter (fun x => !(x.region == 2 && x.peer == p)) := by
  obtain ⟨h1, h2⟩ := State.poison_all (fun q => q.region == 2 && q.peer == p) _ s rfl (fun x hx => by
    obtain ⟨hx, hp⟩ := List.mem_filter.mp hx
    simp only [Bool.and_eq_true, beq_iff_eq] at hp
    exact hall x hx hp.1 hp.2)
  rw [State.fence_eq, State.abortPeer_none (by rw [State.fenceMarks_comms, h2]; exact hcomms), State.fenceMarks_requests]
  exact h1

/-! ## Holds -/

section
variable {s : State} {p : Nat}

theorem State.hold?_putHold (h : PeerHold) : (s.putHold h).hold? h.peer = some h := by simp [State.hold?, State.putHold]

theorem State.hold?_peer {h : PeerHold} (hh : s.hold? p = some h) : h.peer = p := by simpa using List.find?_some hh

theorem State.endHold_holds : (s.endHold p).holds = s.holds := by
  unfold State.endHold
  split <;> rfl
theorem State.endHold_clock : (s.endHold p).clock = s.clock := by
  unfold State.endHold
  split <;> rfl

theorem State.endHold_state (hr : risingFrom 0 s.mon.regs = true) : (s.endHold p).peerState p = if s.peerState p = 2 then 0 else s.peerState p := by
  unfold State.endHold
  split
  · exact State.peerState_setPeerState s p 0 (by decide) (.inr hr)
  · rfl
theorem State.endHold_make (hr : risingFrom 0 s.mon.regs = true) : (s.endHold p).peerMake p = s.peerMake p := by
  unfold State.endHold
  split
  · exact State.peerMake_setPeerState s p 0 (by decide) (.inr hr)
  · rfl

/-- The state with no hold of a peer. -/
def State.withoutHold (s : State) (p : Nat) : State := { s with holds := s.holds.filter (fun x => x.peer != p) }

theorem State.hold?_quiet : (s.withoutHold p).hold? p = none := by
  rw [State.hold?, List.find?_eq_none]
  intro x hx
  simpa using (List.mem_filter.mp hx).2

theorem State.hold?_endHold (s : State) : (s.endHold p).hold? p = s.hold? p := congrArg (List.find? _) State.endHold_holds

section
variable {h : PeerHold} (hh : s.hold? p = some h)
include hh

theorem State.holdQuiet_early (hlast : s.clock.wall < h.last + 2000000) : s.holdQuiet p = s := by
  rw [State.holdQuiet, hh]
  exact if_neg (by omega)
theorem State.holdQuiet_over (hlast : h.last + 2000000 ≤ s.clock.wall) : s.holdQuiet p = (s.withoutHold p).endHold p := by
  rw [State.holdQuiet, hh]
  exact if_pos hlast
theorem State.holdLimit_early (h1 : h.ignoring = true ∨ s.clock.wall < h.began + 30000000000) : s.holdLimit p = s := by
  rw [State.holdLimit, hh]
  refine if_neg (fun hc => ?_)
  simp only [Bool.and_eq_true, Bool.not_eq_true', decide_eq_true_eq] at hc
  rcases h1 with hi | hb
  · rw [hi] at hc; exact absurd hc.1 (by decide)
  · omega
theorem State.holdLimit_over (hi : h.ignoring = false) (hb : h.began + 30000000000 ≤ s.clock.wall) :
    s.holdLimit p = (s.endHold p).putHold { h with ignoring := true } := by
  rw [State.holdLimit, hh]
  exact if_pos (by simp [hi, hb])
end

/-! ### A notice of a peer -/

section
variable {t : State} (ht : s.settleHolds = t)
include ht

theorem State.holdNotice_eq : exec (.holdNotice p) s = .next (if t.peerMake p ≠ 1 ∨ t.peerState p = 1 then t
    else match t.hold? p with
      | none => (t.setPeerState p 2).putHold ⟨p, t.clock.wall, t.clock.wall, false⟩
      | some h => t.putHold { h with last := t.clock.wall }) := by
  subst ht
  rfl

theorem State.holdNotice_none (h : t.peerMake p ≠ 1 ∨ t.peerState p = 1) : exec (.holdNotice p) s = .next t := by
  rw [State.holdNotice_eq ht, if_pos h]

variable (hm : t.peerMake p = 1) (hs : t.peerState p ≠ 1)
include hm hs

theorem State.holdNotice_new (hh : t.hold? p = none) :
    exec (.holdNotice p) s = .next ((t.setPeerState p 2).putHold ⟨p, t.clock.wall, t.clock.wall, false⟩) := by
  rw [State.holdNotice_eq ht, if_neg (by simp [hm, hs])]
  simp only [hh]

theorem State.holdNotice_known {h : PeerHold} (hh : t.hold? p = some h) :
    exec (.holdNotice p) s = .next (t.putHold { h with last := t.clock.wall }) := by
  rw [State.holdNotice_eq ht, if_neg (by simp [hm, hs])]
  simp only [hh]
end

theorem State.putHold_mon (s : State) (h : PeerHold) : (s.putHold h).mon = s.mon := rfl

theorem State.peerState_putHold (s : State) (h : PeerHold) (p : Nat) : (s.putHold h).peerState p = s.peerState p := by
  rw [State.peerState, State.reg, State.putHold_mon, ← State.reg, ← State.peerState]

theorem State.peerState_newHold (s : State) (p : Nat) : ((s.setPeerState p 2).putHold ⟨p, s.clock.wall, s.clock.wall, false⟩).peerState p = 2 :=
  (State.peerState_putHold ..).trans
    (State.peerState_setPeerState s p 2 (by decide) (.inl (peerWord_ne_zero (State.peerMake_lt s p) (by decide) (by decide))))

/-- Holds that have not ended stay. -/
theorem State.settleHolds_current
    (h : ∀ h ∈ s.holds, s.clock.wall < h.last + 2000000 ∧ (h.ignoring = true ∨ s.clock.wall < h.began + 30000000000)) : s.settleHolds = s := by
  unfold State.settleHolds
  refine List.foldlRecOn (motive := fun t => t = s) _ _ rfl (fun t ht p _ => ?_)
  subst ht
  cases hx : t.hold? p with
  | none =>
    have hlimit : t.holdLimit p = t := by rw [State.holdLimit, hx]
    rw [hlimit, State.holdQuiet, hx]
  | some x =>
    obtain ⟨hq, hb⟩ := h x (List.mem_of_find?_eq_some hx)
    rw [State.holdLimit_early hx hb, State.holdQuiet_early hx hq]

/-- The last time a hold notice of the peer came, before and after the limit is looked at. -/
theorem State.holdLimit_hold {h : PeerHold} (hh : s.hold? h.peer = some h) (hs : s.peerState h.peer = 2) (hr : risingFrom 0 s.mon.regs = true) :
    (∃ h', (s.holdLimit h.peer).hold? h.peer = some h' ∧ h'.last = h.last) ∧ (s.holdLimit h.peer).clock = s.clock ∧
      ((s.holdLimit h.peer).peerState h.peer = 2 ∨ (s.holdLimit h.peer).peerState h.peer = 0) ∧
      (s.holdLimit h.peer).peerMake h.peer = s.peerMake h.peer ∧ risingFrom 0 (s.holdLimit h.peer).mon.regs = true := by
  by_cases hover : h.ignoring = false ∧ h.began + 30000000000 ≤ s.clock.wall
  · rw [State.holdLimit_over hh hover.1 hover.2]
    refine ⟨⟨_, State.hold?_putHold { h with ignoring := true }, rfl⟩, State.endHold_clock, .inr ?_, State.endHold_make hr, ?_⟩
    · exact (State.endHold_state hr).trans (if_pos hs)
    · unfold State.endHold
      rw [if_pos hs]
      exact State.setReg_rising s _ _ _ _ hr
  · have hearly : h.ignoring = true ∨ s.clock.wall < h.began + 30000000000 := by
      cases hi : h.ignoring with
      | true => exact .inl rfl
      | false => exact .inr (by simpa [hi] using hover)
    rw [State.holdLimit_early hh hearly]
    exact ⟨⟨h, hh, rfl⟩, rfl, .inl hs, rfl, hr⟩

/-- The one hold, quiet for 2 ms, is over. -/
theorem State.settleHolds_over {h : PeerHold} (hholds : s.holds = [h]) (hlast : h.last + 2000000 ≤ s.clock.wall) (hs : s.peerState h.peer = 2)
    (hr : risingFrom 0 s.mon.regs = true) : s.settleHolds.hold? h.peer = none ∧ s.settleHolds.peerState h.peer = 0 ∧
      s.settleHolds.peerMake h.peer = s.peerMake h.peer ∧ s.settleHolds.clock = s.clock := by
  have hh : s.hold? h.peer = some h := by simp [State.hold?, hholds]
  have e : s.settleHolds = (s.holdLimit h.peer).holdQuiet h.peer := by
    rw [State.settleHolds, hholds]
    rfl
  obtain ⟨⟨h', hh', hlast'⟩, hclock, hstate, hmake, hr'⟩ := State.holdLimit_hold hh hs hr
  rw [e, State.holdQuiet_over hh' (by rw [hclock, hlast']; exact hlast)]
  generalize s.holdLimit h.peer = u at hclock hstate hmake hr'
  refine ⟨(State.hold?_endHold _).trans State.hold?_quiet, ?_, ?_, ?_⟩
  · refine (State.endHold_state (s := u.withoutHold h.peer) hr').trans ?_
    change (if u.peerState h.peer = 2 then 0 else u.peerState h.peer) = 0
    split
    · rfl
    · rcases hstate with h | h
      · contradiction
      · exact h
  · exact (State.endHold_make (s := u.withoutHold h.peer) hr').trans hmake
  · exact State.endHold_clock.trans hclock
end

/-! ## Notices sent -/

/-- A notice sent to a peer, where the last is 1 ms old. -/
def State.notice (t : State) (p : Nat) : State :=
  match look t.noticed p with
  | some at_ => if at_ + 1000000 ≤ t.clock.wall then { t with noticed := insertAt t.noticed p t.clock.wall } else t
  | none => { t with noticed := insertAt t.noticed p t.clock.wall }

theorem State.notice_rest (t : State) (p : Nat) : { t.notice p with noticed := t.noticed } = t := by
  unfold State.notice
  split
  · split <;> rfl
  · rfl

theorem State.notice_beside (t : State) {p x : Nat} (h : x ≠ p) : look (t.notice p).noticed x = look t.noticed x := by
  unfold State.notice
  split
  · split
    · exact look_insertAt_ne _ _ h
    · rfl
  · exact look_insertAt_ne _ _ h

/-- The time of the last notice to a peer, once one has been sent if it is due. -/
def noticeTime (wall : Nat) (last : Option Nat) : Option Nat :=
  match last with
  | some at_ => if at_ + 1000000 ≤ wall then some wall else some at_
  | none => some wall

theorem State.notice_same (t : State) (p : Nat) : look (t.notice p).noticed p = noticeTime t.clock.wall (look t.noticed p) := by
  unfold State.notice noticeTime
  cases h : look t.noticed p with
  | none => exact look_insertAt_same ..
  | some at_ =>
    dsimp only
    split
    · exact look_insertAt_same ..
    · exact h

/-- Notices to peers without repetition: each is sent one, the rest is as before. -/
theorem State.notice_all (l : List Nat) : ∀ t : State, l.Nodup → { l.foldl State.notice t with noticed := t.noticed } = t ∧
    ∀ p ∈ l, look (l.foldl State.notice t).noticed p = noticeTime t.clock.wall (look t.noticed p) := by
  have hbeside : ∀ (l : List Nat) (t : State) (p : Nat), p ∉ l → look (l.foldl State.notice t).noticed p = look t.noticed p := by
    intro l
    induction l with
    | nil => exact fun _ _ _ => rfl
    | cons x rest ih =>
      intro t p hp
      obtain ⟨hpx, hpr⟩ := not_or.mp (fun h => hp (List.mem_cons.mpr h))
      exact (ih _ p hpr).trans (State.notice_beside t hpx)
  induction l with
  | nil => exact fun t _ => ⟨rfl, fun p hp => absurd hp List.not_mem_nil⟩
  | cons x rest ih =>
    intro t hl
    obtain ⟨hx, hrest⟩ := List.nodup_cons.mp hl
    obtain ⟨h1, h2⟩ := ih (t.notice x) hrest
    have hwall : (t.notice x).clock = t.clock := (congrArg State.clock (State.notice_rest t x) :)
    refine ⟨(congrArg (fun u : State => { u with noticed := t.noticed }) h1).trans (State.notice_rest t x), fun p hp => ?_⟩
    rcases List.mem_cons.mp hp with rfl | hp
    · rw [List.foldl_cons, hbeside _ _ _ hx, State.notice_same]
    · have hpx : p ≠ x := fun e => hx (e ▸ hp)
      rw [List.foldl_cons, h2 p hp, hwall, State.notice_beside t hpx]

theorem nodup_eraseDups (l : List Nat) : l.eraseDups.Nodup := by
  induction hn : l.length using Nat.strong_induction_on generalizing l with
  | _ n ih =>
    cases l with
    | nil => exact List.nodup_nil
    | cons x rest =>
      rw [List.eraseDups_cons]
      refine List.nodup_cons.mpr ⟨fun h => ?_, ih _ ?_ _ rfl⟩
      · rw [List.mem_eraseDups, List.mem_filter] at h
        simp at h
      · have := List.length_filter_le (fun b => !b == x) rest
        rw [← hn, List.length_cons]
        omega

/-- While a port retrains, the peers that are present are told. -/
theorem State.mem_noticeTargets {s : State} {p : Nat} (hp : p < 1024) (hr : s.retraining ≠ []) (hm : s.peerMake p ≠ 0) : p ∈ s.noticeTargets := by
  unfold State.noticeTargets
  rw [List.mem_eraseDups, List.mem_append]
  left
  rw [if_neg (by simpa using hr)]
  exact List.mem_filter.mpr ⟨List.mem_range.mpr hp, by simpa using hm⟩

/-- Settles O48, each step by the lemmas on fences, holds and notices above. -/
theorem fencesAndHolds : Obligations.FencesAndHolds := by
  unfold Obligations.FencesAndHolds
  refine ⟨fun s id q hq => ?timeout, fun s p hr => ?unfence, fun s p => ?notice, fun s p h hh hr => ?expire, fun s => ?send, fun s n => ?retrain⟩
  case timeout =>
    have hexec : exec (.peerRequestTimeout id) s = .next (if s.peerTimedOut q then s.fence q.peer else s) := by
      change done _ = _
      rw [hq]
      rfl
    refine ⟨fun h => ?_, fun h2 hheld hage hcount => ?_⟩
    · have hno : s.peerTimedOut q = false := by
        unfold State.peerTimedOut
        rcases h with h | h | h
        · simp [h]
        · simp [h]
        · simp [Nat.not_le.mpr h]
      rw [hexec, hno]
      rfl
    · have hyes : s.peerTimedOut q = true := by simp [State.peerTimedOut, h2, hheld, hage]
      obtain ⟨hstate, hreg⟩ := State.fence_peer s q.peer hcount
      refine ⟨_, by rw [hexec, if_pos hyes], hstate, hreg, fun hcomms _ hall => ?_⟩
      exact State.fence_requests s q.peer hcomms hall
  case unfence =>
    refine ⟨fun h => congrArg Host.Outcome.next (if_neg h), fun h => ⟨_, congrArg Host.Outcome.next (if_pos h), ?_, ?_⟩⟩
    · exact State.peerState_setPeerState s p 0 (by decide) (.inr hr)
    · exact State.peerMake_setPeerState s p 0 (by decide) (.inr hr)
  case notice =>
    intro current
    refine ⟨fun hc h => ?_, fun hc hm hs hh => ?_, fun h hc hm hs hh => ?_, fun h hholds hpeer hlast hm hs hr => ?_⟩
    · exact State.holdNotice_none (State.settleHolds_current hc) h
    · refine ⟨_, State.holdNotice_new (State.settleHolds_current hc) hm hs hh, ?_, State.hold?_putHold _⟩
      exact State.peerState_newHold s p
    · refine ⟨_, State.holdNotice_known (State.settleHolds_current hc) hm hs hh, ?_, rfl⟩
      have e := State.hold?_putHold (s := s) { h with last := s.clock.wall }
      exact State.hold?_peer hh ▸ e
    · subst hpeer
      obtain ⟨hnone, hstate, hmake, hclock⟩ := State.settleHolds_over hholds hlast hs hr
      have hone : s.settleHolds.peerMake h.peer = 1 := hmake.trans hm
      refine ⟨_, State.holdNotice_new rfl hone (by omega) hnone, State.peerState_newHold _ _, ?_⟩
      rw [hclock]
      exact State.hold?_putHold _
  case expire =>
    have hp := State.hold?_peer hh
    have hquiet : exec (.holdQuietExpire p) s = .next (s.holdQuiet p) := rfl
    have hlimit : exec (.holdLimitExpire p) s = .next (s.holdLimit p) := rfl
    refine ⟨fun h => ?_, fun h1 => ?_, fun h1 => ?_, fun hi hb => ?_⟩
    · rw [hquiet, State.holdQuiet_early hh h]
    · refine ⟨_, hquiet, ?_⟩
      rw [State.holdQuiet_over hh h1]
      exact ⟨(State.hold?_endHold _).trans State.hold?_quiet, State.endHold_state (s := State.withoutHold s p) hr⟩
    · rw [hlimit, State.holdLimit_early hh h1]
    · refine ⟨_, hlimit, ?_⟩
      rw [State.holdLimit_over hh hi hb]
      refine ⟨?_, ?_⟩
      · rw [State.peerState_putHold]
        exact State.endHold_state hr
      · have e := State.hold?_putHold (s := s.endHold p) { h with ignoring := true }
        subst hp
        exact e
  case send =>
    obtain ⟨hrest, hsent⟩ := State.notice_all s.noticeTargets s (nodup_eraseDups _)
    refine ⟨_, rfl, hrest, fun p hp hr hm => ?_⟩
    have hlook := hsent p (State.mem_noticeTargets hp hr hm)
    refine ⟨fun a ha hlt => hlook.trans ?_, fun hall => hlook.trans ?_⟩
    · rw [ha, noticeTime, if_neg (by omega)]
    · unfold noticeTime
      cases ha : look s.noticed p with
      | none => rfl
      | some a => exact if_pos (hall a ha)
  case retrain =>
    refine ⟨fun h => ?_, fun hn hnone => ?_, fun hr => ⟨_, rfl, look_eraseAt_same s.retraining n hr, rfl⟩⟩
    · refine congrArg Host.Outcome.next (if_neg (fun hc => ?_))
      rcases h with h | h
      · omega
      · exact h (Option.isNone_iff_eq_none.mp hc.2)
    · exact ⟨_, congrArg Host.Outcome.next (if_pos ⟨hn, Option.isNone_iff_eq_none.mpr hnone⟩), look_insertAt_same .., rfl⟩

end Sys2Proof.Machine
end

section
/-! PROOFS. What a panel does with its waves (spec/12 R248, spec/13 R265, R266, spec/21 R319): O36. -/

namespace Sys2Proof.Machine
open Sys2Proof.Claims

/-! ## Changes of single slots -/

theorem onlySlots_trans {s t u : State} {c : Nat} {xs ys : List Nat} (h : OnlySlots s t c xs) (h' : OnlySlots t u c ys) : OnlySlots s u c (xs ++ ys) := by
  refine ⟨fun c' sl hne => ?_, ?_⟩
  · have hxy : (c' ≠ c ∨ sl ∉ xs) ∧ (c' ≠ c ∨ sl ∉ ys) := by
      rw [List.mem_append] at hne
      tauto
    exact (h'.1 c' sl hxy.2).trans (h.1 c' sl hxy.1)
  · exact (congrArg (fun x : State => { x with waves := s.waves }) h'.2).trans h.2

theorem onlySlots_onWave (s : State) (c sl : Nat) {f : Wave → Wave} (hf : ∀ v : Wave, (f v).core = v.core ∧ (f v).slot = v.slot) :
    OnlySlots s (s.onWave c sl f) c [sl] := by
  refine ⟨fun c' sl' hne => ?_, rfl⟩
  rw [State.wave?_onWave_any s c sl c' sl' hf]
  cases hv : s.wave? c' sl' with
  | none => rfl
  | some v =>
    have hat := List.find?_some hv
    simp only [Wave.isAt, Bool.and_eq_true, beq_iff_eq] at hat
    have hno : v.isAt c sl = false := by
      rw [List.mem_singleton] at hne
      simp only [Wave.isAt, hat.1, hat.2, Bool.and_eq_false_iff, beq_eq_false_iff_ne]
      exact hne
    rw [Option.map_some, hno]
    rfl

/-- The wave of a slot, changed. -/
theorem State.wave?_changed {s : State} {w : Wave} {f : Wave → Wave} (hf : ∀ v : Wave, (f v).core = v.core ∧ (f v).slot = v.slot)
    (h : s.wave? w.core w.slot = some w) : (s.onWave w.core w.slot f).wave? w.core w.slot = some (f w) :=
  (State.wave?_onWave s w.core w.slot f hf).trans (congrArg (Option.map f) h)

theorem Wave.lane?_onLane_beside (w : Wave) {l l' : Nat} {f : Thread → Thread} (hf : ∀ t, (f t).lane = t.lane) (hl : l' ≠ l) :
    (w.onLane l f).lane? l' = w.lane? l' := by
  refine (lane_find_map w.lanes l' _ (fun u => by split <;> simp [hf])).trans ?_
  change Option.map _ (w.lane? l') = w.lane? l'
  cases hu : w.lane? l' with
  | none => rfl
  | some u =>
    have hlane : u.lane = l' := by simpa using List.find?_some hu
    rw [Option.map_some, if_neg (by omega)]

theorem State.activate_slots (s : State) (w : Wave) : OnlySlots s (s.activate w) w.core [w.slot] := onlySlots_onWave _ _ _ (fun _ => ⟨rfl, rfl⟩)
theorem State.displace_slots (s : State) (w : Wave) : OnlySlots s (s.displace w) w.core [w.slot] := onlySlots_onWave _ _ _ (fun _ => ⟨rfl, rfl⟩)

theorem State.activate_wave {s : State} {w : Wave} (h : s.wave? w.core w.slot = some w) :
    (s.activate w).wave? w.core w.slot = some { w with active := true, owed := false } := by
  refine State.wave?_changed ?_ h
  exact fun _ => ⟨rfl, rfl⟩
theorem State.displace_wave {s : State} {w : Wave} (h : s.wave? w.core w.slot = some w) :
    (s.displace w).wave? w.core w.slot = some { w with active := false, pendSince := s.free } := by
  refine State.wave?_changed ?_ h
  exact fun _ => ⟨rfl, rfl⟩

/-! ## Which wave is chosen -/

theorem mem_panelWaves {s : State} {c pn : Nat} {w : Wave} (h : w ∈ s.panelWaves c pn) : w.core = c ∧ w.slot / 32 = pn := by
  simpa using (List.mem_filter.mp h).2

theorem mem_of_leastBy {f : Wave → Nat} {l : List Wave} : ∀ {w : Wave}, leastBy f l = some w → w ∈ l := by
  induction l with
  | nil => exact fun h => nomatch h
  | cons x rest ih =>
    intro w h
    rw [leastBy] at h
    cases hr : leastBy f rest with
    | none =>
      rw [hr] at h
      exact Option.some.inj h ▸ List.mem_cons_self ..
    | some v =>
      rw [hr] at h
      dsimp only at h
      split at h
      · exact Option.some.inj h ▸ List.mem_cons_self ..
      · exact Option.some.inj h ▸ List.mem_cons_of_mem _ (ih hr)

theorem State.nextPending_panel {s : State} {c pn : Nat} {any : Bool} {w : Wave} (h : s.nextPending c pn any = some w) : w.core = c ∧ w.slot / 32 = pn := by
  refine mem_panelWaves (s := s) ?_
  unfold State.nextPending at h
  dsimp only at h
  split at h
  next v hv =>
    split at hv
    · have := mem_of_leastBy hv
      exact Option.some.inj h ▸ (List.mem_filter.mp (List.mem_filter.mp this).1).1
    · cases hv
  · split at h
    next v hv =>
      exact Option.some.inj h ▸ (List.mem_filter.mp (List.mem_filter.mp (mem_of_leastBy hv)).1).1
    · split at h
      · exact (List.mem_filter.mp (mem_of_leastBy h)).1
      · cases h

theorem State.forced_panel {s : State} {c pn : Nat} {w : Wave} {th : Thread} (h : s.forced c pn = some (w, th)) : w.core = c ∧ w.slot / 32 = pn := by
  have hmem : ∀ p, s.forced c pn = some p → p.1 ∈ s.panelWaves c pn := by
    unfold State.forced
    dsimp only
    refine List.foldlRecOn (motive := fun acc : Option (Wave × Thread) => ∀ p, acc = some p → p.1 ∈ s.panelWaves c pn) _ _ (fun p hp => nomatch hp)
      (fun acc ih q hq p hp => ?_)
    have hqw : q.1 ∈ s.panelWaves c pn := by
      obtain ⟨v, hv, hin⟩ := List.mem_flatMap.mp hq
      obtain ⟨t, -, rfl⟩ := List.mem_map.mp hin
      exact (List.mem_filter.mp hv).1
    cases acc with
    | none => exact Option.some.inj hp ▸ hqw
    | some r =>
      dsimp only at hp
      split at hp
      · exact Option.some.inj hp ▸ hqw
      · exact ih p hp
  exact mem_panelWaves (hmem _ h)

/-! ## Active slots -/

theorem State.makeRoom_fits {s : State} {c pn need : Nat} (may : State → Wave → Bool) (fuel : Nat) (h : s.activeCount c pn + need ≤ 8) :
    s.makeRoom c pn need may fuel = s := by
  cases fuel with
  | zero => rfl
  | succ n => exact if_pos h

/-- A sum over a list goes down by what one of its terms does, where none goes up. -/
theorem sum_map_drop {α : Type} {f g : α → Nat} {a : α} {k : Nat} (hle : ∀ x, g x ≤ f x) (ha : g a + k ≤ f a) :
    ∀ {l : List α}, a ∈ l → (l.map g).sum + k ≤ (l.map f).sum
  | x :: rest, hmem => by
    simp only [List.map_cons, List.sum_cons]
    have hrest : (rest.map g).sum ≤ (rest.map f).sum := List.sum_le_sum (fun y _ => hle y)
    rcases List.mem_cons.mp hmem with rfl | hin
    · omega
    · have := sum_map_drop hle ha hin
      have := hle x
      omega

/-- The slots that a wave counts for in a panel. -/
def Wave.counts (c pn : Nat) (w : Wave) : Nat := if w.core = c ∧ w.slot / 32 = pn ∧ w.active = true then w.slots else 0

theorem State.activeCount_eq (s : State) (c pn : Nat) : s.activeCount c pn = (s.waves.map (Wave.counts c pn)).sum := by
  rw [State.activeCount, State.panelWaves]
  induction s.waves with
  | nil => rfl
  | cons w rest ih =>
    rw [List.map_cons, List.sum_cons, ← ih]
    by_cases hin : w.core = c ∧ w.slot / 32 = pn
    · by_cases hact : w.active = true
      · simp [Wave.counts, hin, hact]
      · simp [Wave.counts, hin, hact]
    · have : ¬(w.core = c ∧ w.slot / 32 = pn ∧ w.active = true) := fun h => hin ⟨h.1, h.2.1⟩
      rw [Wave.counts, if_neg this, List.filter_cons_of_neg (by simpa using hin)]
      omega

/-- An active wave that is displaced frees the slots it counts for. -/
theorem State.activeCount_displace {s : State} {a : Wave} (h : a ∈ s.waves) (hact : a.active = true) :
    (s.displace a).activeCount a.core (a.slot / 32) + a.slots ≤ s.activeCount a.core (a.slot / 32) := by
  rw [State.activeCount_eq, State.activeCount_eq, State.displace, State.onWave, List.map_map]
  refine sum_map_drop (a := a) (fun v => ?_) ?_ h
  · rw [Function.comp]
    split
    · simp [Wave.counts]
    · exact le_rfl
  · simp [Wave.counts, Wave.isAt, hact]

/-! ## Parking at a notch -/

/-- A lane changed, and the window flushed for its block. -/
theorem State.onLane_onlyLanes {s : State} {w : Wave} (hw : s.wave? w.core w.slot = some w) (l : Nat) {f : Thread → Thread} (hf : ∀ t, (f t).lane = t.lane) :
    s.OnlyLanes ((s.onLane w.core w.slot l f).flushFor w.core w.blk) w [l] := by
  have hplace : ∀ v : Wave, (v.onLane l f).core = v.core ∧ (v.onLane l f).slot = v.slot := fun _ => ⟨rfl, rfl⟩
  have hwave : (s.onLane w.core w.slot l f).wave? w.core w.slot = some (w.onLane l f) := State.wave?_changed hplace hw
  refine ⟨fun c sl hat => ?others, fun l' hl => ?rest, ⟨w.onLane l f, hwave, rfl⟩, fun c => ?cores, ?state⟩
  case others =>
    refine (onlySlots_onWave s w.core w.slot hplace).1 c sl ?_
    simp only [Wave.isAt, Bool.and_eq_false_iff, beq_eq_false_iff_ne] at hat
    rw [List.mem_singleton]
    exact hat.imp Ne.symm Ne.symm
  case rest =>
    refine (State.lane?_of_waves (State.flushFor_waves ..) ..).trans ?_
    rw [State.lane?, hwave, State.lane?, hw]
    exact Wave.lane?_onLane_beside w hf (by simpa using hl)
  case cores =>
    rw [State.flushFor, State.core_onCore]
    split
    · subst c
      exact Core.flush_eq ..
    · rfl
  case state => rfl

/-- Settles O36. A step changes the slots it names, and there is room for the wave that comes in. -/
theorem panels : Obligations.Panels := by
  unfold Obligations.Panels
  refine ⟨fun s c sl w th g n hw hth hlive hbefore hchk hout hg hstop hnotch => ?park, fun s c pn w th hforced hw => ?force,
    fun s c act pend a p ha hnext hslot hp hne hact hlive hlong hroom => ?swap, fun s c pn w hnext hw => ?promote⟩
  case park =>
    obtain ⟨rfl, rfl⟩ := State.wave?_isAt hw
    refine ⟨(s.onLane w.core w.slot th.lane (fun x => { x with wait := .notch, marks := [] })).flushFor w.core w.blk, ?_, ?_,
      State.onLane_onlyLanes hw th.lane (fun _ => rfl)⟩
    · change done (match s.wave? _ _ with | none => s | some w => match w.lane? _ with | none => s | some t => _) = _
      rw [hw]
      dsimp only
      rw [hth]
      dsimp only
      rw [if_pos (by simp [hg, hstop, hlive, hchk, hbefore, hnotch]), if_neg (by simp [hout])]
      rfl
    · refine (State.lane?_of_waves (State.flushFor_waves ..) ..).trans ?_
      refine State.lane?_onLane ?_ _ (fun _ => rfl)
      rw [State.lane?, hw]
      exact hth
  case force =>
    obtain ⟨hcore, hpn⟩ := State.forced_panel hforced
    subst hcore hpn
    have hexec : exec (.ageForce w.core (w.slot / 32)) s = .next (if w.active then s else s.bringIn w) := by
      change done (s.forceIn _ _) = _
      rw [State.forceIn, hforced]
      rfl
    refine ⟨fun h => by rw [hexec, if_pos h], fun h hroom => ⟨_, by rw [hexec, if_neg (by simp [h])], ?_⟩⟩
    rw [State.bringIn, State.makeRoom_fits _ _ hroom, if_pos hroom]
    exact ⟨State.activate_wave hw, State.activate_slots s w⟩
  case swap =>
    obtain ⟨rfl, rfl⟩ := State.wave?_isAt ha
    obtain ⟨hpc, hpp⟩ := State.nextPending_panel hnext
    subst hslot
    have hmem : a ∈ s.waves := List.mem_of_find?_eq_some ha
    have hfits : (s.displace a).activeCount a.core (a.slot / 32) + p.slots ≤ 8 := by
      have := State.activeCount_displace hmem hact
      omega
    have hswap : s.swapWaves a p = (s.displace a).activate p := by
      rw [State.swapWaves, State.makeRoom_fits _ _ hfits, if_pos hfits]
    have hp' : (s.displace a).wave? p.core p.slot = some p := by
      rw [(State.displace_slots s a).1 _ _ (.inr (by simpa using hne)), hpc]
      exact hp
    refine ⟨(s.displace a).activate p, ?_, ?_, ?_, ?_⟩
    · rw [← hswap]
      change done (match s.wave? _ _, s.nextPending _ _ false with | some a, some p => _ | _, _ => s) = _
      rw [ha, hnext]
      refine congrArg Host.Outcome.next (if_pos ?_)
      have hall : a.lanes.all (fun t => !t.live || s.waitsLong a t) = true := by
        rw [List.all_eq_true]
        intro t ht
        cases hl : t.live with
        | false => rfl
        | true => exact hlong t ht hl
      simp [hact, hlive, hall]
    · rw [(State.activate_slots _ p).1 _ _ (.inr (by simpa using Ne.symm hne))]
      exact State.displace_wave ha
    · rw [← hpc]
      exact State.activate_wave hp'
    · have h := onlySlots_trans (State.displace_slots s a) (hpc ▸ State.activate_slots (s.displace a) p)
      exact h
  case promote =>
    obtain ⟨hcore, hpn⟩ := State.nextPending_panel hnext
    have hexec : exec (.pendingPromote c pn) s = .next (if s.idle c pn then (if s.activeCount c pn + w.slots ≤ 8 then s.activate w else s) else s) := by
      change done (if s.idle c pn then s.promote c pn else s) = _
      rw [State.promote, hnext]
      rfl
    refine ⟨fun h => ?_, fun hroom hidle => ⟨_, by rw [hexec, if_pos hidle, if_pos hroom], ?_⟩⟩
    · rw [hexec]
      rcases h with h | h
      · rw [if_neg (Nat.not_le.mpr h), ite_self]
      · rw [if_neg (by simp [h])]
    · subst hcore
      exact ⟨State.activate_wave hw, State.activate_slots s w⟩

end Sys2Proof.Machine
end

section
/-! PROOFS. Writes of the device at the home (spec/08 R143): what memory reads after them, and what they leave. -/

namespace Sys2Proof.Machine
open Sys2Proof.Claims

/-! ## Numbers in bytes -/

@[simp] theorem leBytes_length (n : Nat) : ∀ v, (leBytes n v).length = n := by
  induction n with
  | zero => exact fun _ => rfl
  | succ n ih => exact fun v => congrArg Nat.succ (ih _)

theorem leNat_leBytes (n : Nat) : ∀ v, leNat (leBytes n v) = v % 2 ^ (8 * n) := by
  induction n with
  | zero => exact fun v => (Nat.mod_one v).symm
  | succ n ih =>
    intro v
    rw [leBytes, leNat, ih, BitVec.toNat_ofNat, show 8 * (n + 1) = 8 + 8 * n from by omega, Nat.pow_add, Nat.mod_mul]

/-! ## What a write at the home leaves -/

/-- Bytes have been written at the home at a physical address: they are what memory reads there, and nothing is different but the orders of writes and what
the cores may go on fetching. -/
structure HomeWritten (s t : State) (pa : Nat) (bs : List Byte) : Prop where
  orderly : Orderly t
  frame : { t with cores := s.cores, mem := s.mem, stamps := s.stamps, stamp := s.stamp, copies := s.copies, owned := s.owned, loose := s.loose,
                   poisoned := s.poisoned } = s
  cores : ∀ c, { t.core c with icache := (s.core c).icache } = s.core c
  tiles : t.cores.map (fun c => c.2.tiles) = s.cores.map (fun c => c.2.tiles)
  reads : ∀ x, readMem t.mem x = if pa ≤ x ∧ x < pa + bs.length then bs.getD (x - pa) 0 else readMem s.mem x

theorem HomeWritten.nothing {s : State} (h : Orderly s) (pa : Nat) : HomeWritten s s pa [] :=
  ⟨h, rfl, fun _ => rfl, rfl, fun x => (if_neg (by simp)).symm⟩

section
variable {s t u : State} {pa : Nat} {bs : List Byte}

theorem HomeWritten.append {cs : List Byte} (h : HomeWritten s t pa bs) (h' : HomeWritten t u (pa + bs.length) cs) : HomeWritten s u pa (bs ++ cs) := by
  refine ⟨h'.orderly, ?_, fun c => ?_, h'.tiles.trans h.tiles, fun x => ?_⟩
  · exact (congrArg (fun x : State => { x with
      cores := s.cores, mem := s.mem, stamps := s.stamps, stamp := s.stamp, copies := s.copies, owned := s.owned, loose := s.loose,
      poisoned := s.poisoned }) h'.frame :).trans h.frame
  · exact (congrArg (fun k : Core => { k with icache := (s.core c).icache }) (h'.cores c) :).trans (h.cores c)
  · rw [h'.reads, h.reads, List.length_append]
    by_cases h2 : pa + bs.length ≤ x
    · by_cases h3 : x < pa + bs.length + cs.length
      · rw [if_pos ⟨h2, h3⟩, if_pos ⟨by omega, by omega⟩, List.getD_append_right _ _ _ _ (by omega), Nat.sub_sub]
      · rw [if_neg (by omega), if_neg (by omega), if_neg (by omega)]
    · rw [if_neg (by omega)]
      by_cases h1 : pa ≤ x
      · rw [if_pos ⟨h1, by omega⟩, if_pos ⟨h1, by omega⟩, List.getD_append _ _ _ _ (by omega)]
      · rw [if_neg (by omega), if_neg (by omega)]

/-! ### Reading it back -/

theorem HomeWritten.beside (h : HomeWritten s t pa bs) {x : Nat} (hx : Apart x 1 pa bs.length) : readMem t.mem x = readMem s.mem x := by
  rw [h.reads, if_neg]
  unfold Apart at hx
  omega

theorem HomeWritten.bytes_part (h : HomeWritten s t pa bs) {k n : Nat} (hk : k + n ≤ bs.length) : t.homeBytes (pa + k) n = (bs.drop k).take n := by
  refine List.ext_getElem ?_ (fun i hi hj => ?_)
  · simp only [State.homeBytes, List.length_map, List.length_range, List.length_take, List.length_drop]
    omega
  · simp only [State.homeBytes, List.length_map, List.length_range] at hi
    simp only [State.homeBytes, List.getElem_map, List.getElem_range, List.getElem_take, List.getElem_drop]
    rw [h.reads, if_pos ⟨by omega, by omega⟩, show pa + k + i - pa = k + i from by omega, List.getD_eq_getElem _ _ (by omega)]

theorem HomeWritten.bytes (h : HomeWritten s t pa bs) : t.homeBytes pa bs.length = bs := by
  have e := h.bytes_part (k := 0) (n := bs.length) (by omega)
  rwa [Nat.add_zero, List.drop_zero, List.take_length] at e

theorem HomeWritten.nat_part (h : HomeWritten s t pa bs) {k n : Nat} (hk : k + n ≤ bs.length) : t.homeNat (pa + k) n = leNat ((bs.drop k).take n) :=
  congrArg leNat (h.bytes_part hk)

/-- A number among the bytes written. -/
theorem HomeWritten.field (h : HomeWritten s t pa bs) {pre post : List Byte} {k n v : Nat} (e : bs = pre ++ leBytes n v ++ post) (hk : pre.length = k) :
    t.homeNat (pa + k) n = v % 2 ^ (8 * n) := by
  subst hk e
  have hlen := leBytes_length n v
  rw [h.nat_part (by simp [hlen]), List.append_assoc, List.drop_left, List.take_left' hlen]
  exact leNat_leBytes n v

theorem homeNat_congr {s t : State} {pa n : Nat} (h : ∀ i < n, readMem t.mem (pa + i) = readMem s.mem (pa + i)) : t.homeNat pa n = s.homeNat pa n := by
  unfold State.homeNat
  exact congrArg leNat (List.map_congr_left (fun i hi => h i (List.mem_range.mp hi)))

/-- A number apart from them. -/
theorem HomeWritten.nat_beside (h : HomeWritten s t pa bs) {q n : Nat} (hq : Apart pa bs.length q n) : t.homeNat q n = s.homeNat q n := by
  refine homeNat_congr (fun i hi => h.beside ?_)
  unfold Apart at hq ⊢
  omega
end

/-! ## One byte, and bytes in a row -/

theorem keepOld_eq (k : Core) (pa : Nat) (old : Byte) : { keepOld k pa old with icache := k.icache } = k := by
  unfold keepOld
  split <;> rfl

/-- A change of every core that keeps all of it but what it may fetch. -/
theorem core_map_icache (s : State) (f : Core → Core) (hf : ∀ k, { f k with icache := k.icache } = k) (c : Nat) (t : State)
    (ht : t.cores = s.cores.map (fun p => (p.1, f p.2))) : { t.core c with icache := (s.core c).icache } = s.core c := by
  have hlook : look t.cores c = (look s.cores c).map f := by
    rw [ht]
    induction s.cores with
    | nil => rfl
    | cons p rest ih =>
      simp only [List.map_cons, look]
      split
      · rfl
      · exact ih
  unfold State.core getD
  rw [hlook]
  cases look s.cores c with
  | none => rfl
  | some k => exact hf k

theorem State.bind_rest (s : State) (pa n : Nat) : { s.bind pa n with loose := s.loose } = s := by
  unfold State.bind
  split
  · rfl
  · rfl

/-- A byte at the home under the next place. -/
def State.homeNext (s : State) (pa : Nat) (b : Byte) : State := ({ s with stamp := s.stamp + 1 } : State).homeWrite none pa b (s.stamp + 1)

section
variable {s : State} (h : Orderly s) (pa : Nat) (b : Byte)
include h

theorem State.homeNext_later : getD ({ s with stamp := s.stamp + 1 } : State).stamps 0 pa ≤ s.stamp + 1 := Nat.le_succ_of_le (h.2 pa)

theorem State.homeNext_cores : (s.homeNext pa b).cores = s.cores.map (fun p => (p.1, if isDevice pa then keepOld p.2 pa (readMem s.mem pa) else p.2)) := by
  rw [State.homeNext, State.homeWrite, if_pos (State.homeNext_later h pa)]

theorem State.homeNext_mem : (s.homeNext pa b).mem = writeMem s.mem pa b := by
  rw [State.homeNext, State.homeWrite_mem, if_pos (State.homeNext_later h pa)]

theorem State.homeNext_written : HomeWritten s (s.homeNext pa b) pa [b] := by
  refine ⟨⟨?_, fun x => ?_⟩, ?_, fun c => ?_, State.homeWrite_tiles .., fun x => ?_⟩
  · rw [State.homeNext_mem h]
    exact memWf_writeMem _ _ _ h.1
  · rw [State.homeNext, State.homeWrite_stamps, State.homeWrite_stamp, if_pos (State.homeNext_later h pa)]
    by_cases hx : x = pa
    · subst hx
      rw [getD_setD_rising _ _ _ _ (.inl (Nat.succ_ne_zero _))]
    · rw [getD_setD_ne _ _ _ hx]
      exact Nat.le_succ_of_le (h.2 x)
  · rw [State.homeNext, State.homeWrite, if_pos (State.homeNext_later h pa)]
  · refine core_map_icache s (fun k => if isDevice pa then keepOld k pa (readMem s.mem pa) else k) (fun k => ?_) c _ (State.homeNext_cores h pa b)
    split
    · exact keepOld_eq ..
    · rfl
  · rw [State.homeNext_mem h]
    by_cases hx : x = pa
    · subst hx
      rw [readMem_writeMem_same _ _ _ h.1, if_pos ⟨le_rfl, by simp⟩, Nat.sub_self]
      rfl
    · rw [readMem_writeMem_ne _ _ hx, if_neg]
      simp only [List.length_singleton]
      omega
end

/-- What a refresh must bring changes nothing of it. -/
theorem HomeWritten.bind {s t : State} {pa : Nat} {bs : List Byte} (h : HomeWritten s t pa bs) (a n : Nat) : HomeWritten s (t.bind a n) pa bs := by
  have e := State.bind_rest t a n
  refine ⟨⟨?_, fun x => ?_⟩, ?_, fun c => ?_, ?_, fun x => ?_⟩
  · rw [State.bind_mem]
    exact h.orderly.1
  · rw [State.bind_stamps, show (t.bind a n).stamp = t.stamp from (congrArg State.stamp e :)]
    exact h.orderly.2 x
  · refine Eq.trans ?_ h.frame
    exact (congrArg (fun x : State => { x with
      cores := s.cores, mem := s.mem, stamps := s.stamps, stamp := s.stamp, copies := s.copies, owned := s.owned, loose := s.loose,
      poisoned := s.poisoned }) e :)
  · rw [State.core, State.bind_cores]
    exact h.cores c
  · rw [State.bind_cores]
    exact h.tiles
  · rw [State.bind_mem]
    exact h.reads x

theorem State.homeWrite_one {s : State} (h : Orderly s) (pa : Nat) (b : Byte) : HomeWritten s ((s.homeNext pa b).bind pa (s.stamp + 1)) pa [b] :=
  (State.homeNext_written h pa b).bind _ _

theorem State.homeWriteBytes_written (bs : List Byte) : ∀ {s : State}, Orderly s → ∀ pa : Nat, HomeWritten s (s.homeWriteBytes none pa bs) pa bs := by
  induction bs with
  | nil => exact fun h pa => HomeWritten.nothing h pa
  | cons b rest ih =>
    intro s h pa
    have h1 := State.homeWrite_one h pa b
    exact h1.append (ih h1.orderly _)

end Sys2Proof.Machine
end

section
/-! PROOFS. Writes of the device at virtual addresses (spec/24 R355): at addresses that lie in device memory in a row, writes at the home. -/

namespace Sys2Proof.Machine
open Sys2Proof.Claims

section
variable {s t : State} {pa : Nat} {bs : List Byte}

/-- The owners of bytes beyond the package are no part of it. -/
theorem HomeWritten.setOwner (h : HomeWritten s t pa bs) (vf : Nat) (pas : List Nat) : HomeWritten s (t.setOwner vf pas) pa bs :=
  ⟨h.orderly, h.frame, h.cores, h.tiles, h.reads⟩

theorem HomeWritten.mon (h : HomeWritten s t pa bs) : t.mon = s.mon := (congrArg State.mon h.frame :)
theorem HomeWritten.tlb (h : HomeWritten s t pa bs) : t.tlb = s.tlb := (congrArg State.tlb h.frame :)
theorem HomeWritten.free (h : HomeWritten s t pa bs) : t.free = s.free := (congrArg State.free h.frame :)
theorem HomeWritten.waves (h : HomeWritten s t pa bs) : t.waves = s.waves := (congrArg State.waves h.frame :)
theorem HomeWritten.blocks (h : HomeWritten s t pa bs) : t.blocks = s.blocks := (congrArg State.blocks h.frame :)
theorem HomeWritten.gangs (h : HomeWritten s t pa bs) : t.gangs = s.gangs := (congrArg State.gangs h.frame :)
theorem HomeWritten.launches (h : HomeWritten s t pa bs) : t.launches = s.launches := (congrArg State.launches h.frame :)
theorem HomeWritten.comms (h : HomeWritten s t pa bs) : t.comms = s.comms := (congrArg State.comms h.frame :)
theorem HomeWritten.clock (h : HomeWritten s t pa bs) : t.clock = s.clock := (congrArg State.clock h.frame :)
theorem HomeWritten.requests (h : HomeWritten s t pa bs) : t.requests = s.requests := (congrArg State.requests h.frame :)
theorem HomeWritten.ids (h : HomeWritten s t pa bs) : t.ids = s.ids := (congrArg State.ids h.frame :)
theorem HomeWritten.submits (h : HomeWritten s t pa bs) : t.submits = s.submits := (congrArg State.submits h.frame :)

theorem isDevice_ne_top {pa : Nat} (h : isDevice pa = true) : pa ≠ 2 ^ 56 := by
  rintro rfl
  exact absurd h (by decide)
theorem isDevice_local {pa : Nat} (h : isDevice pa = true) : isRemote pa = false := by simp [isRemote, h]

variable {vf va n : Nat}

/-- Where the bytes at some addresses lie is the same after a write of some of them. -/
theorem mapped_written (hm : Mapped s vf va n pa) (h : HomeWritten s t pa bs) (hn : bs.length ≤ n) {k : Nat} (hk : k < n) (wr : Bool) :
    t.devAddr vf (BitVec.ofNat 64 (va + k)) wr = pa + k := by
  rw [← hm.2 t.mem (fun x hx => h.beside (by unfold Apart at hx ⊢; omega)) k hk wr]
  unfold State.devAddr
  rw [State.translate_congr (s := { s with mem := t.mem }) (t := t) rfl h.mon h.tlb h.free]

/-- Where they lie now. -/
theorem mapped_now (hm : Mapped s vf va n pa) {k : Nat} (hk : k < n) (wr : Bool) : s.devAddr vf (BitVec.ofNat 64 (va + k)) wr = pa + k :=
  hm.2 s.mem (fun _ _ => rfl) k hk wr

theorem State.devStore_written (h : Orderly s) (hpa : isDevice pa = true) (vf : Nat) (bs : List Byte) : HomeWritten s (s.devStore vf pa bs) pa bs := by
  have e : s.devStore vf pa bs = (s.homeWriteBytes none pa bs).setOwner vf ((List.range bs.length).map (fun i => pa + i)) := by
    unfold State.devStore
    rw [isDevice_local hpa]
    rfl
  rw [e]
  exact (State.homeWriteBytes_written bs h pa).setOwner ..

theorem State.devWriteLong_nil (s : State) (vf fuel va : Nat) : s.devWriteLong vf fuel va [] = s := by
  cases fuel <;> rfl

/-- Line by line, the bytes after those already written. -/
theorem State.devWriteLong_written (hm : Mapped s vf va n pa) (fuel : Nat) : ∀ {t : State} {pre bs : List Byte}, HomeWritten s t pa pre →
    pre.length + bs.length ≤ n → (va + pre.length) % 64 + bs.length ≤ 64 * fuel →
      HomeWritten s (t.devWriteLong vf fuel (va + pre.length) bs) pa (pre ++ bs) := by
  induction fuel with
  | zero =>
    intro t pre bs h _ hf
    have : bs = [] := List.eq_nil_of_length_eq_zero (by omega)
    subst this
    rwa [List.append_nil]
  | succ fuel ih =>
    intro t pre bs h hn hf
    by_cases hbs : bs = []
    · subst hbs
      rw [State.devWriteLong_nil, List.append_nil]
      exact h
    · have hpos : 0 < bs.length := List.length_pos_iff.mpr hbs
      have haddr := mapped_written hm h (by omega) (k := pre.length) (by omega) true
      have hdev := hm.1 pre.length (by omega)
      rw [State.devWriteLong, if_neg (by simp [hbs])]
      dsimp only
      rw [haddr, if_neg (isDevice_ne_top hdev)]
      generalize hline : 64 - (va + pre.length) % 64 = line
      have hline' : 0 < line := by omega
      have hfirst := h.append (State.devStore_written h.orderly hdev vf (bs.take line))
      by_cases hall : bs.length ≤ line
      · rw [List.drop_eq_nil_of_le hall, State.devWriteLong_nil]
        rwa [List.take_of_length_le hall] at hfirst ⊢
      · have hlen : (pre ++ bs.take line).length = pre.length + line := by
          rw [List.length_append, List.length_take, Nat.min_eq_left (by omega)]
        have hrest := ih (bs := bs.drop line) hfirst (by rw [hlen, List.length_drop]; omega) (by rw [hlen, List.length_drop]; omega)
        rw [List.append_assoc, List.take_append_drop, hlen, ← Nat.add_assoc] at hrest
        exact hrest

/-- A write of the device at addresses mapped in a row. -/
theorem State.devWrite_written (hm : Mapped s vf va n pa) (h : Orderly s) (bs : List Byte) (hn : bs.length ≤ n) :
    HomeWritten s (s.devWrite vf va bs) pa bs :=
  State.devWriteLong_written hm _ (pre := []) (HomeWritten.nothing h pa) (by simpa using hn) (by simp; omega)

theorem State.devPut_written (hm : Mapped s vf va n pa) (h : Orderly s) {k : Nat} (hk : k ≤ n) (v : Nat) :
    HomeWritten s (s.devPut vf va k v) pa (leBytes k v) := State.devWrite_written hm h _ (by simpa using hk)

/-- What the device reads at addresses mapped in a row. -/
theorem State.devGet_mapped (hm : Mapped s vf va n pa) {k : Nat} (hk : 0 < n) : s.devGet vf va k = s.homeNat pa k := by
  have e := mapped_now hm (k := 0) hk false
  rw [State.devGet, State.vaNat]
  rw [Nat.add_zero, Nat.add_zero] at e
  rw [e]
end

end Sys2Proof.Machine
end

section
/-! PROOFS. The records of a core's faults, and the monitor's answers (spec/15 R281, spec/22 R333): O38. -/

namespace Sys2Proof.Machine
open Sys2Proof.Claims

/-- A record noted as written. -/
def State.faultNoted (t : State) (vf n unit : Nat) : State :=
  { t with mon := { t.mon with faultHead := setD t.mon.faultHead 0 vf (n + 1), faultOpen := t.mon.faultOpen ++ [⟨vf, n, unit % 2 ^ 16⟩] } }

theorem State.faultNoted_head (t : State) (vf n unit : Nat) : (t.faultNoted vf n unit).faultHead vf = n + 1 :=
  getD_setD_rising _ _ _ _ (.inl (Nat.succ_ne_zero _))

/-- The first fault without a record marked with one. -/
def Core.recorded (k : Core) (n : Nat) : Core :=
  { k with faults := changeFirst (fun x => !x.recorded) (fun x => some { x with recorded := true, record := n }) k.faults }

section
variable {s : State} {c : Nat} {f : FaultStop} {rest : List FaultStop} (hf : (s.core c).faults = f :: rest)
include hf

/-! ## The record -/

theorem execCoreFaultStop_eq (h : f.recorded = false) : exec (.coreFaultStop c) s = .next (if s.ringFull f.vf then s
    else (s.faultRecord f.vf f.va.toNat f.kind
      (c + (if f.write then 2 ^ 16 else 0) + (if f.fetch then 2 ^ 17 else 0) + (if f.copy.isSome then 2 ^ 18 else 0)) f.level).onCore c
        (fun k => k.recorded (s.faultHead f.vf))) := by
  change done (match (s.core c).faults.find? (fun f => !f.recorded) with | none => s | some f => _) = _
  rw [hf, List.find?_cons_of_pos (by simp [h])]
  rfl

/-- The bytes of a record. -/
def recordBytes (va kind unit now level : Nat) : List Byte :=
  leBytes 8 va ++ leBytes 4 kind ++ leBytes 4 unit ++ leBytes 8 now ++ leBytes 1 level ++ leBytes 7 0

omit hf in
theorem State.faultRecord_written (h : Orderly s) {vf : Nat} (hfull : s.ringFull vf = false) (va kind unit level : Nat) :
    ∃ t, HomeWritten s t (s.vfDword vf 80 + 32 * (s.faultHead vf % s.vfWord vf 88)) (recordBytes va kind unit s.clock.now level) ∧
      s.faultRecord vf va kind unit level = t.faultNoted vf (s.faultHead vf) unit := by
  have hcap : max 1 (s.vfWord vf 88) = s.vfWord vf 88 := by
    rw [State.ringFull, Bool.or_eq_false_iff] at hfull
    have := hfull.1
    simp only [beq_eq_false_iff_ne] at this
    omega
  refine ⟨_, State.homeWriteBytes_written _ h _, ?_⟩
  unfold State.faultRecord recordBytes
  dsimp only
  rw [hcap]
  rfl

/-! ## The answer -/

theorem State.answered_eq (h : f.recorded = true) (k : State → FaultStop → State) :
    s.answered c k = k ((s.freeSlot f.vf f.record).onCore c (fun x => { x with faults := changeFirst (fun y => y.recorded) (fun _ => none) x.faults })) f := by
  rw [State.answered, hf, List.find?_cons_of_pos h]
end

/-- The state with the slot of a core's first fault freed, and the fault gone. -/
def State.afterAnswer (s : State) (c : Nat) (f : FaultStop) : State :=
  (s.freeSlot f.vf f.record).onCore c (fun x => { x with faults := changeFirst (fun y => y.recorded) (fun _ => none) x.faults })

section
variable {s : State} {c : Nat} {f : FaultStop} {rest : List FaultStop}

theorem State.afterAnswer_faults (hf : (s.core c).faults = f :: rest) (h : f.recorded = true) : ((s.afterAnswer c f).core c).faults = rest := by
  rw [State.afterAnswer, State.core_onCore, if_pos rfl]
  change changeFirst _ _ (s.core c).faults = _
  rw [hf, changeFirst, if_pos h]

theorem State.afterAnswer_open (s : State) (c : Nat) (f : FaultStop) : ∀ x ∈ (s.afterAnswer c f).mon.faultOpen, x.vf ≠ f.vf ∨ x.record ≠ f.record := by
  intro x hx
  have := (List.mem_filter.mp hx).2
  simpa using this

theorem State.afterAnswer_wave (s : State) (c : Nat) (f : FaultStop) (k sl : Nat) : (s.afterAnswer c f).wave? k sl = s.wave? k sl := rfl

/-- A wave whose last exception no rule of the Tailor stage is behind. -/
def Wave.unruled (w : Wave) : Wave := { w with regs := { w.regs with tailrule := 0 } }

theorem State.flushFor_faults (s : State) (c blk c' : Nat) : ((s.flushFor c blk).core c').faults = (s.core c').faults := by
  rw [State.flushFor, State.core_onCore]
  split
  · subst c'
    exact (congrArg Core.faults (Core.flush_eq ..) :)
  · rfl

theorem Thread.issuedIn_lane (t : Thread) (n : Nat) : (t.issuedIn n).lane = t.lane := by
  unfold Thread.issuedIn
  split <;> rfl

/-- What a wave lets go of with a fault. -/
def FaultStop.lets (f : FaultStop) (g : Wave → Thread → Thread) (w : Wave) : Wave :=
  { w with lanes := w.lanes.map (fun t =>
    if t.wait = .fault ∧ (t.lane = f.who.lane ∨ (f.fetch = true ∧ t.pc = f.who.pc)) then g w { t with wait := .no } else t) }

/-- What lets go of the lane of an access that faulted. -/
theorem State.unfault_lane {w : Wave} {th : Thread} {g : Wave → Thread → Thread} (hg : ∀ v t, (g v t).lane = t.lane)
    (hw : s.wave? f.who.core f.who.slot = some w) (hth : w.lane? f.who.lane = some th) (hwait : th.wait = .fault) :
    (s.unfault f g).lane? f.who.core f.who.slot f.who.lane = some (g w { th with wait := .no }) := by
  have hlane : th.lane = f.who.lane := by simpa using List.find?_some hth
  rw [State.lane?, show s.unfault f g = s.onWave f.who.core f.who.slot (f.lets g) from rfl,
    State.wave?_onWave s _ _ (f.lets g) (fun _ => ⟨rfl, rfl⟩), hw]
  refine (lane_find_map w.lanes f.who.lane _ (fun t => ?_)).trans ?_
  · split
    · exact hg _ _
    · rfl
  · rw [show w.lanes.find? (fun t => t.lane == f.who.lane) = some th from hth, Option.map_some, if_pos ⟨hwait, .inl hlane⟩]
end

end Sys2Proof.Machine

namespace Sys2Proof.Machine
open Sys2Proof.Claims

/-- Settles O38: a record is 32 bytes written at the home, and an answer frees its slot and lets go of its lane. -/
theorem faultAnswers : Obligations.FaultAnswers := by
  unfold Obligations.FaultAnswers
  intro s c f rest hf
  refine ⟨fun hrec hfull => ?full, fun hrec hfull horderly => ?record, fun w th hrec hcopy hw hth hwait => ⟨?resume, fun hkind => ?refuse⟩⟩
  case full => rw [execCoreFaultStop_eq hf hrec, if_pos hfull]
  case record =>
    intro at_ unit
    have hunit : c + (if f.write then 2 ^ 16 else 0) + (if f.fetch then 2 ^ 17 else 0) + (if f.copy.isSome then 2 ^ 18 else 0) = unit := by
      cases h : f.copy <;> simp [unit, h]
    obtain ⟨t, ht, hrecord⟩ := State.faultRecord_written horderly hfull f.va.toNat f.kind unit f.level
    refine ⟨(t.faultNoted f.vf (s.faultHead f.vf) unit).onCore c (fun k => k.recorded (s.faultHead f.vf)), ?_, ?_, ?_, ?_, ?_, ?_, ?_, ?_, fun x hx => ht.beside hx⟩
    · rw [execCoreFaultStop_eq hf hrec, hfull, if_neg Bool.false_ne_true, hunit, hrecord]
    · rw [State.core_onCore, if_pos rfl]
      change changeFirst _ _ (t.core c).faults = _
      rw [show (t.core c).faults = (s.core c).faults from (congrArg Core.faults (ht.cores c) :), hf, changeFirst, if_pos (by simp [hrec])]
    · exact State.faultNoted_head ..
    · refine (ht.field (pre := []) (k := 0) rfl rfl).trans (Nat.mod_eq_of_lt f.va.isLt)
    · exact ht.field (pre := leBytes 8 _) rfl (leBytes_length ..)
    · exact ht.field (pre := leBytes 8 _ ++ leBytes 4 _) rfl (by simp)
    · exact ht.field (pre := leBytes 8 _ ++ leBytes 4 _ ++ leBytes 4 _) rfl (by simp)
    · exact ht.field (pre := leBytes 8 _ ++ leBytes 4 _ ++ leBytes 4 _ ++ leBytes 8 _) rfl (by simp)
  case resume =>
    refine ⟨(s.afterAnswer c f).unfault f (fun _ x => x), ?_, State.afterAnswer_faults hf hrec, State.afterAnswer_open s c f,
      State.unfault_lane (fun _ _ => rfl) hw hth hwait, fun _ => rfl⟩
    change done (s.answered c _) = _
    rw [State.answered_eq hf hrec, hcopy]
    rfl
  case refuse =>
    have hrefuse : exec (.faultRefuse c) s = .next ((((s.afterAnswer c f).unfault f (fun w x => (Thread.trap (s.afterAnswer c f) w.regs x cFAULT x.pc).issuedIn f.step)).onWave f.who.core f.who.slot Wave.unruled).flushFor w.core w.blk) := by
      change done (s.answered c _) = _
      rw [State.answered_eq hf hrec, if_neg hkind, hcopy]
      change done (match s.wave? f.who.core f.who.slot with | some w => _ | none => _) = _
      rw [hw]
      rfl
    refine ⟨_, hrefuse, ?_, State.afterAnswer_open s c f, ?_, fun _ => rfl⟩
    · exact (State.flushFor_faults ..).trans (State.afterAnswer_faults hf hrec)
    · refine (State.lane?_of_waves (State.flushFor_waves ..) ..).trans ?_
      refine (State.lane?_onWave_any _ _ _ _ _ _ (g := Wave.unruled) (fun _ => ⟨rfl, rfl⟩) (fun _ => rfl)).trans ?_
      refine (State.unfault_lane (s := s.afterAnswer c f) (fun v t => ?_) hw hth hwait).trans (congrArg some ?_)
      · exact (Thread.issuedIn_lane ..).trans (Thread.trap_lane ..)
      · exact congrArg (fun u : Thread => u.issuedIn f.step) (Thread.trap_congr rfl rfl _ _ _ _)

end Sys2Proof.Machine
end

section
/-! PROOFS. A launch whose publish takes a number that a request under way already bears (spec/21 R307): what refutes O41 and O44. -/

namespace Sys2Proof.Machine
open Sys2Proof.Claims

/-! ## The placed tables -/

section
variable {a : Nat} (ha : 0x8040000000 ≤ a) (hb : a < 0x8040000000 + 2 ^ 30)
include ha hb

theorem placed_vaIndex : vaIndex a 4 = 0 ∧ vaIndex a 3 = 1 ∧ vaIndex a 2 = 1 := by
  refine ⟨?_, ?_, ?_⟩
  · rw [vaIndex, if_neg (by decide)]
    omega
  · rw [vaIndex, if_neg (by decide)]
    omega
  · rw [vaIndex, if_neg (by decide)]
    omega

/-- The walk through the placed tables, whatever else memory holds. -/
theorem walkFrom_placed {t : State} (h4 : t.homeNat 0 8 = 0x1001) (h3 : t.homeNat 0x1008 8 = 0x2001) (h2 : t.homeNat 0x2008 8 = 0x1F) (wr : Bool) :
    walkFrom t a wr false 5 0 = .ok (a - 0x8040000000) := by
  obtain ⟨i4, i3, i2⟩ := placed_vaIndex ha hb
  have l2 : walkFrom t a wr false 3 0x2000 = .ok (a - 0x8040000000) := by
    have hoff : 0x1F / 2 ^ 8 * 2 ^ 8 + a % 2 ^ pageBits 2 = a - 0x8040000000 := by
      rw [show pageBits 2 = 30 from rfl]
      omega
    rw [walkFrom, i2, show 0x2000 + 8 * 1 = 0x2008 from rfl, h2]
    dsimp only
    rw [if_neg (by decide), if_neg (by decide), if_neg (by decide), if_pos (by decide), if_neg (by cases wr <;> decide), hoff]
  have l3 : walkFrom t a wr false 4 0x1000 = .ok (a - 0x8040000000) := by
    rw [walkFrom, i3, show 0x1000 + 8 * 1 = 0x1008 from rfl, h3]
    dsimp only
    rw [if_neg (by decide), if_neg (by decide), if_neg (by decide), if_neg (by decide), if_pos (by decide)]
    exact l2
  rw [walkFrom, i4, h4]
  dsimp only
  rw [if_neg (by decide), if_neg (by decide), if_neg (by decide), if_neg (by decide), if_pos (by decide)]
  exact l3
end

/-- Memory with the placed tables, and no translation held: addresses of the placed page past the tables lie in device memory. -/
theorem placed_mapped {s : State} (hmem : s.mem = placeTables []) (hmon : s.vfDword 0 8 = 0) (htlb : s.tlb = []) {q n : Nat} (hq : 0x3000 ≤ q)
    (hn : q + n ≤ 2 ^ 30) : Mapped s 0 (0x8040000000 + q) n q := by
  refine ⟨fun k hk => ?_, fun m hm k hk wr => ?_⟩
  · have hnear : regionOf (q + k) = some .near := if_pos (by omega)
    rw [isDevice, hnear]
    rfl
  · have hsame : ∀ p, p + 8 ≤ 0x3000 → ({ s with mem := m } : State).homeNat p 8 = s.homeNat p 8 := fun p hp =>
      homeNat_congr (s := s) (t := { s with mem := m }) (fun i hi => hm _ (.inl (by omega)))
    have hs : ∀ p, s.homeNat p 8 = ({ State.reset with mem := placeTables [] } : State).homeNat p 8 := fun p => by
      rw [State.homeNat, State.homeNat, hmem]
    have hwalk := walkFrom_placed (a := 0x8040000000 + q + k) (by omega) (by omega) (t := { s with mem := m })
      ((hsame _ (by decide)).trans ((hs _).trans (by decide +kernel))) ((hsame _ (by decide)).trans ((hs _).trans (by decide +kernel)))
      ((hsame _ (by decide)).trans ((hs _).trans (by decide +kernel))) wr
    have haddr : (BitVec.ofNat 64 (0x8040000000 + q + k)).toNat % 2 ^ 57 = 0x8040000000 + q + k := by
      rw [BitVec.toNat_ofNat]
      omega
    have htrans : ({ s with mem := m } : State).translate 0 (BitVec.ofNat 64 (0x8040000000 + q + k)) wr false = .ok (q + k) := by
      rw [State.translate, haddr, show ({ s with mem := m } : State).tlb = [] from htlb]
      change (walkFrom { s with mem := m } _ wr false 5 (s.vfDword 0 8)).reach = _
      rw [hmon, hwalk, show 0x8040000000 + q + k - 0x8040000000 = q + k from by omega]
      have hnear : regionOf (q + k) = some .near := if_pos (by omega)
      simp [Walk.reach, ownWindow, hnear]
    rw [State.devAddr, htrans]

/-! ## The launch -/

/-- The placed launch, all of whose gangs have ended; its completion record lies in the placed page. -/
def endedLaunch : Launch :=
  { placeLaunch with live := 0, used := [], prog := { placeProg with lrec := { placeRec with done := 0x8040010000#64 } } }

/-- A device that has that launch, and a read under way in a group of the number that the next publish takes. -/
def numberTaken : State :=
  { State.reset with
    mem := placeTables []
    launches := [(0, endedLaunch)]
    requests := [⟨0, [0], 0, 0, 0, 0, Issuer.device, .read, [], 0, 0, none, false, none, 0⟩] }

/-- Refutes O41: the statement lets a read under way bear the number that the publish at the launch's end takes; the launch then waits for the read, and is
not gone. -/
theorem not_dispatcherEnds : ¬ Obligations.DispatcherEnds := by
  unfold Obligations.DispatcherEnds
  intro h
  obtain ⟨hcomplete, -, -⟩ := h
  have hpublished : Published numberTaken endedLaunch := .inr ⟨rfl, fun c hc => absurd hc List.not_mem_nil, fun g hg => absurd hg List.not_mem_nil,
    fun p hp => absurd hp List.not_mem_nil, by decide⟩
  have horderly : Orderly numberTaken := ⟨by decide +kernel, fun _ => Nat.le_refl 0⟩
  obtain ⟨s', hexec, hgone, -⟩ := (hcomplete numberTaken 0 endedLaunch rfl rfl).2 0x10000 (by decide +kernel) rfl rfl hpublished rfl horderly
    (placed_mapped (q := 0x10000) rfl rfl rfl (by decide) (by decide)) (by decide +kernel)
  have hstays : (match exec (.launchComplete 0) numberTaken with
    | .next t => (t.launch? 0).isSome
    | _ => false) = true := by decide +kernel
  rw [hexec] at hstays
  change (s'.launch? 0).isSome = true at hstays
  rw [hgone] at hstays
  exact absurd hstays (by decide)

/-- The same launch in a debug halt. -/
def haltedTaken : State := { numberTaken with launches := [(0, { endedLaunch with halted := true })] }

/-- Refutes O44 in the same way: the abort out of the halt publishes, too, and waits for the read. -/
theorem not_halts : ¬ Obligations.Halts := by
  unfold Obligations.Halts
  intro h
  have hpublished : Published haltedTaken { endedLaunch with halted := true } :=
    .inr ⟨rfl, fun c hc => absurd hc List.not_mem_nil, fun g hg => absurd hg List.not_mem_nil, fun p hp => absurd hp List.not_mem_nil, by decide⟩
  have horderly : Orderly haltedTaken := ⟨by decide +kernel, fun _ => Nat.le_refl 0⟩
  obtain ⟨s', hexec, hgone, -⟩ := (h haltedTaken 0 { endedLaunch with halted := true } rfl).2.2 0x10000 rfl rfl (by decide) rfl hpublished rfl
    (fun c hc => absurd hc List.not_mem_nil) (fun p hp => absurd hp List.not_mem_nil) horderly
    (placed_mapped (q := 0x10000) rfl rfl rfl (by decide) (by decide)) (by decide +kernel)
  have hstays : (match exec (.haltAbort 0) haltedTaken with
    | .next t => (t.launch? 0).isSome
    | _ => false) = true := by decide +kernel
  rw [hexec] at hstays
  change (s'.launch? 0).isSome = true at hstays
  rw [hgone] at hstays
  exact absurd hstays (by decide)

end Sys2Proof.Machine
end

section
/-! PROOFS. What a publish leaves of the cores, what a stop request does, and the tenancy steps (spec/22 R325, R334 to R340): O42. -/

namespace Sys2Proof.Machine
open Sys2Proof.Claims

/-! ## Keyed lists with their values changed -/

theorem look_mapPair {α β : Type} (f : Nat × α → Nat × β) (hf : ∀ p, (f p).1 = p.1) (m : List (Nat × α)) (x : Nat) :
    look (m.map f) x = (look m x).map (fun v => (f (x, v)).2) := by
  induction m with
  | nil => rfl
  | cons p rest ih =>
    obtain ⟨k, v⟩ := p
    have hk : f (k, v) = (k, (f (k, v)).2) := Prod.ext (hf (k, v)) rfl
    rw [List.map_cons, hk]
    by_cases h : k = x
    · subst h
      simp [look]
    · simp [look, h, ih]

/-! ## Cores whose views alone are different -/

/-- A core is the same but for its writes, its snapshot and its cached instructions. -/
def SameEngines (k k' : Core) : Prop := { k' with writes := k.writes, snap := k.snap, icache := k.icache } = k

theorem SameEngines.refl (k : Core) : SameEngines k k := rfl

theorem SameEngines.trans {k k' k'' : Core} (h : SameEngines k k') (h' : SameEngines k' k'') : SameEngines k k'' := by
  have e := (congrArg (fun x : Core => { x with
    writes := k.writes, snap := k.snap, icache := k.icache }) h' :)
  exact e.trans h

theorem SameEngines.tiles {k k' : Core} (h : SameEngines k k') : k'.tiles = k.tiles := (congrArg Core.tiles h :)
theorem SameEngines.slots {k k' : Core} (h : SameEngines k k') : k'.slots = k.slots := (congrArg Core.slots h :)
theorem SameEngines.window {k k' : Core} (h : SameEngines k k') : k'.window = k.window := (congrArg Core.window h :)
theorem SameEngines.mq {k k' : Core} (h : SameEngines k k') : k'.mq = k.mq := (congrArg Core.mq h :)

/-- Every core is the same but for its view. -/
structure OnlyViews (s t : State) : Prop where
  engines : ∀ c, SameEngines (s.core c) (t.core c)

theorem OnlyViews.refl (s : State) : OnlyViews s s := ⟨fun c => SameEngines.refl (s.core c)⟩
theorem OnlyViews.trans {s t u : State} (h : OnlyViews s t) (h' : OnlyViews t u) : OnlyViews s u := ⟨fun c => (h.engines c).trans (h'.engines c)⟩
theorem OnlyViews.of_cores {s t : State} (h : t.cores = s.cores) : OnlyViews s t := ⟨fun c => by
  rw [State.core, State.core, h]
  exact SameEngines.refl _⟩

theorem OnlyViews.foldl {α : Type} {f : State → α → State} (hf : ∀ t x, OnlyViews t (f t x)) (l : List α) : ∀ s, OnlyViews s (l.foldl f s) := by
  induction l with
  | nil => exact OnlyViews.refl
  | cons x rest ih => exact fun s => (hf s x).trans (ih (f s x))

section
variable (s : State)

theorem OnlyViews.onCore (c : Nat) {f : Core → Core} (hf : ∀ k, SameEngines k (f k)) : OnlyViews s (s.onCore c f) := ⟨fun x => by
  rw [State.core_onCore]
  split
  · subst x
    exact hf _
  · exact SameEngines.refl _⟩

theorem OnlyViews.bind (pa n : Nat) : OnlyViews s (s.bind pa n) := OnlyViews.of_cores (by
  unfold State.bind
  split <;> rfl)

theorem OnlyViews.of_map {s t : State} {f : Core → Core} (hf : ∀ k, SameEngines k (f k)) (h : t.cores = s.cores.map (fun p => (p.1, f p.2))) :
    OnlyViews s t := ⟨fun c => by
  unfold State.core getD
  rw [h, look_mapPair (fun p => (p.1, f p.2)) (fun _ => rfl)]
  cases look s.cores c with
  | none => exact SameEngines.refl _
  | some v => exact hf v⟩

theorem OnlyViews.homeWrite (gang : Option Nat) (pa : Nat) (b : Byte) (stamp : Nat) : OnlyViews s (s.homeWrite gang pa b stamp) := by
  unfold State.homeWrite
  split
  · refine OnlyViews.of_map (f := fun k => if isDevice pa then keepOld k pa (readMem s.mem pa) else k) (fun k => ?_) ?_
    · split <;> rfl
    · cases gang with
      | none => rfl
      | some g =>
        dsimp only
        by_cases h : isDevice pa = true
        · simp only [h, if_true]
          rfl
        · simp only [h, if_false, Bool.false_eq_true]
  · exact OnlyViews.refl s

theorem OnlyViews.onGang (g : Nat) (f : Gang → Gang) : OnlyViews s (s.onGang g f) := OnlyViews.of_cores rfl

theorem OnlyViews.placeByte (c g sc pa : Nat) (w : ViewWrite) : OnlyViews s (s.placeByte c g sc pa w) := by
  have h1 : OnlyViews s (s.nextStamp.onCore c (fun k => { k with writes := eraseAt k.writes pa, snap := takeLater k.snap pa ⟨w.val, w.stamp.getD s.nextStamp.stamp⟩ })) :=
    OnlyViews.trans (t := s.nextStamp) (OnlyViews.of_cores rfl) (OnlyViews.onCore _ c (fun _ => rfl))
  unfold State.placeByte
  dsimp only
  split
  · exact h1.trans (OnlyViews.homeWrite ..)
  · exact h1.trans (OnlyViews.onGang ..)

theorem OnlyViews.orderOwn (c : Nat) (p : Nat → Bool) : OnlyViews s (s.orderOwn c p) := by
  unfold State.orderOwn
  refine OnlyViews.trans (t := s.nextStamp) (OnlyViews.of_cores rfl) (OnlyViews.onCore _ c ?_)
  exact fun _ => rfl

theorem OnlyViews.flushOverlay (g : Nat) : OnlyViews s (s.flushOverlay g) := by
  unfold State.flushOverlay
  split
  · exact (OnlyViews.foldl (fun t (p : Nat × Placed) => OnlyViews.homeWrite t (some g) p.1 p.2.val p.2.stamp) _ s).trans (OnlyViews.onGang ..)
  · exact OnlyViews.refl s

theorem OnlyViews.covered (c : Nat) : OnlyViews s (s.covered c) := OnlyViews.foldl (fun t _ => OnlyViews.bind t _ _) _ s

theorem OnlyViews.publish (c g sc : Nat) (hasGang : Bool) : OnlyViews s (s.publish c g sc hasGang) := by
  unfold State.publish
  split
  · exact OnlyViews.orderOwn ..
  · refine OnlyViews.trans ?_ (OnlyViews.covered ..)
    exact (OnlyViews.foldl (fun t (p : Nat × ViewWrite) => OnlyViews.placeByte t c g sc p.1 p.2) _ s).trans
      (OnlyViews.foldl (fun _ _ => OnlyViews.flushOverlay ..) _ _)

end

/-! ## Stop requests -/

section
variable (s : State)

/-- A flush changes no window entry but its freshness. -/
theorem Core.flush_window (k : Core) (blk : Nat) (h : k.window = []) :
    (if k.window.any (fun e => e.blk == blk) then k.flushWindow else k) = k := by
  rw [h]
  rfl

/-- The cores stay but for the freshness of window entries. -/
def OnlyFlush (s t : State) : Prop :=
  { t with cores := s.cores } = s ∧ ∀ c, { t.core c with window := (s.core c).window } = s.core c ∧ ((s.core c).window = [] → (t.core c).window = [])

theorem OnlyFlush.refl : OnlyFlush s s := ⟨rfl, fun _ => ⟨rfl, id⟩⟩

variable {s} in
theorem OnlyFlush.trans {t u : State} (h : OnlyFlush s t) (h' : OnlyFlush t u) : OnlyFlush s u := by
  obtain ⟨e, hc⟩ := h
  obtain ⟨e', hc'⟩ := h'
  refine ⟨(congrArg (fun x : State => { x with
    cores := s.cores }) e' :).trans e, fun c => ⟨?_, fun h0 => (hc' c).2 ((hc c).2 h0)⟩⟩
  exact (congrArg (fun x : Core => { x with
    window := (s.core c).window }) (hc' c).1 :).trans (hc c).1

theorem OnlyFlush.flushFor (c blk : Nat) : OnlyFlush s (s.flushFor c blk) := by
  refine ⟨rfl, fun x => ?_⟩
  rw [State.flushFor, State.core_onCore]
  split
  · subst x
    exact ⟨Core.flush_eq .., fun h => by rw [Core.flush_window _ _ h, h]⟩
  · exact ⟨rfl, id⟩

theorem OnlyFlush.foldl (l : List (Nat × Block)) : ∀ s : State, OnlyFlush s (l.foldl (fun t b => t.flushFor b.2.core b.1) s) := by
  induction l with
  | nil => exact OnlyFlush.refl
  | cons b rest ih => exact fun s => (OnlyFlush.flushFor s _ _).trans (ih _)

/-- A gang that a stop request names. -/
def Gang.stopping (s : State) (hit : Bool) (g : Gang) : Gang := if hit && !g.stop then { g with stop := true, stopAt := s.clock.wall } else g

/-- The state with a stop noted in the gangs that a request names. -/
def State.stopNoted (s : State) (p : Gang → Bool) : State := { s with gangs := s.gangs.map (fun g => (g.1, g.2.stopping s (p g.2))) }

theorem State.requestStop_flush (p : Gang → Bool) : OnlyFlush (s.stopNoted p) (s.requestStop p) := by
  have e : s.stopNoted p =
      { s with gangs := s.gangs.map (fun g => if p g.2 && !g.2.stop then (g.1, { g.2 with stop := true, stopAt := s.clock.wall }) else g) } := by
    refine congrArg (fun l => { s with gangs := l }) (List.map_congr_left (fun g _ => ?_))
    unfold Gang.stopping
    split <;> rfl
  rw [e]
  exact OnlyFlush.foldl ..

/-- The state with the launches of some gangs held and a stop noted in them. -/
def State.preemptNoted (s : State) (gs : List Nat) : State :=
  State.stopNoted { s.hold (s.named? gs) with gangs := s.gangs.map (fun p => if s.named? gs p.2 then (p.1, { p.2 with baste := false }) else p) } (s.named? gs)

theorem State.preempt_flush (gs : List Nat) : OnlyFlush (s.preemptNoted gs) (s.preempt gs) := State.requestStop_flush ..

theorem State.preempt_rest (gs : List Nat) : { s.preempt gs with cores := s.cores, gangs := s.gangs, launches := s.launches } = s :=
  (congrArg (fun x : State => { x with
    cores := s.cores, gangs := s.gangs, launches := s.launches }) (s.preempt_flush gs).1 :)

theorem State.preempt_partitions (gs : List Nat) : (s.preempt gs).partitions = s.partitions := (congrArg State.partitions (s.preempt_rest gs) :)
theorem State.preempt_tlb (gs : List Nat) : (s.preempt gs).tlb = s.tlb := (congrArg State.tlb (s.preempt_rest gs) :)
theorem State.preempt_blocks (gs : List Nat) : (s.preempt gs).blocks = s.blocks := (congrArg State.blocks (s.preempt_rest gs) :)

/-- A gang after a request that names some. -/
theorem State.preempt_gang? (gs : List Nat) (k : Nat) :
    (s.preempt gs).gang? k = (s.gang? k).map (fun g =>
      let g' := if s.named? gs g then { g with baste := false } else g
      g'.stopping s (s.named? gs g')) := by
  have e : (s.preempt gs).gangs = (s.preemptNoted gs).gangs := (congrArg State.gangs (s.preempt_flush gs).1 :)
  unfold State.gang?
  rw [e, State.preemptNoted, State.stopNoted]
  dsimp only
  rw [look_mapPair (fun g : Nat × Gang => (g.1, g.2.stopping _ (s.named? gs g.2))) (fun _ => rfl),
    look_mapPair (fun p => if s.named? gs p.2 then (p.1, { p.2 with baste := false }) else p)]
  · rw [Option.map_map]
    refine congrArg (Option.map · (look s.gangs k)) (funext fun g => ?_)
    dsimp only [Function.comp]
    split <;> rfl
  · intro p
    split <;> rfl

theorem State.preempt_named {gs : List Nat} {k : Nat} {g : Gang} (h : s.gang? k = some g) (hk : g.id = k) (hm : k ∈ gs) :
    (s.preempt gs).gang? k = some { g with baste := false, stop := true, stopAt := if g.stop = true then g.stopAt else s.clock.wall } := by
  have hn : ∀ x : Gang, x.id = k → s.named? gs x = true := by
    intro x hx
    simp [State.named?, hx, hm]
  rw [State.preempt_gang?, h, Option.map_some]
  dsimp only
  rw [if_pos (hn g hk), hn _ (by exact hk), Gang.stopping]
  cases hst : g.stop
  · simp [hst]
  · simp [← hst]

theorem State.preempt_gangs_isSome (gs : List Nat) (k : Nat) : ((s.preempt gs).gang? k).isSome = (s.gang? k).isSome := by
  rw [State.preempt_gang?, Option.isSome_map]

end

/-! ## Switches of a partition -/

section
variable (s : State)

theorem State.onPart_look (n m : Nat) (f : Partition → Partition) :
    look (s.onPart n f).partitions m = if m = n then (look s.partitions n).map f else look s.partitions m := look_onKey ..

variable {s} in
theorem State.onPart_hit {n : Nat} {p : Partition} (h : look s.partitions n = some p) (f : Partition → Partition) :
    look (s.onPart n f).partitions n = some (f p) := by
  rw [State.onPart_look, if_pos rfl, h, Option.map_some]

theorem State.partGangs_congr {s t : State} {p q : Partition} (hb : t.blocks = s.blocks) (hn : q.nbh = p.nbh)
    (hg : ∀ k, (t.gang? k).isSome = (s.gang? k).isSome) : t.partGangs q = s.partGangs p := by
  have hon : t.gangsOn = s.gangsOn := funext fun c => by rw [State.gangsOn, State.gangsOn, hb]
  unfold State.partGangs
  rw [show q.cores = p.cores by rw [Partition.cores, Partition.cores, hn], hon]
  exact congrArg (List.filter · _) (funext hg)

variable {s} {n f : Nat} {p : Partition} (hp : look s.partitions n = some p)
include hp

theorem State.beginSwitch_eq : s.beginSwitch n f = (s.onPart n (fun q => { q with incoming := some f })).preempt (s.partGangs p) := by
  unfold State.beginSwitch
  rw [hp]

theorem State.beginSwitch_look : look (s.beginSwitch n f).partitions n = some { p with incoming := some f } := by
  rw [State.beginSwitch_eq hp, State.preempt_partitions, State.onPart_look, if_pos rfl, hp]
  rfl

theorem State.beginSwitch_partGangs : (s.beginSwitch n f).partGangs { p with incoming := some f } = s.partGangs p := by
  rw [State.beginSwitch_eq hp]
  exact State.partGangs_congr (State.preempt_blocks ..) rfl (State.preempt_gangs_isSome _ _)

/-- A gang of the partition after its switch has begun. -/
theorem State.beginSwitch_gang {k : Nat} {g : Gang} (hm : k ∈ s.partGangs p) (h : s.gang? k = some g) (hk : g.id = k) :
    ∃ g', (s.beginSwitch n f).gang? k = some g' ∧ g'.stop = true := by
  rw [State.beginSwitch_eq hp]
  exact ⟨_, State.preempt_named _ h hk hm, rfl⟩

/-- A switch to another function that has just begun, of a partition that is not being scrubbed. -/
theorem State.begun_settle (hs : p.scrubbing = false) (hf : f ≠ p.vf) :
    (s.beginSwitch n f).settleSwitch n =
      if s.partGangs p = [] then (s.beginSwitch n f).onPart n (fun q => { q with scrubbing := true }) else s.beginSwitch n f := by
  unfold State.settleSwitch
  rw [State.beginSwitch_look hp]
  dsimp only
  rw [State.beginSwitch_partGangs hp, hs, if_neg hf]
  cases s.partGangs p <;> rfl

/-- What a switch that begins leaves of its partition and of the gangs there. -/
theorem State.begun_switch (hs : p.scrubbing = false) (hf : f ≠ p.vf) : ∃ p', look ((s.beginSwitch n f).settleSwitch n).partitions n = some p' ∧
    p'.incoming = some f ∧ p'.vf = p.vf ∧ (s.partGangs p = [] → p'.scrubbing = true) ∧
    (∀ k g, k ∈ s.partGangs p → s.gang? k = some g → g.id = k →
      p'.scrubbing = false ∧ ∃ g', ((s.beginSwitch n f).settleSwitch n).gang? k = some g' ∧ g'.stop = true) := by
  rw [State.begun_settle hp hs hf]
  split
  next he =>
    refine ⟨{ p with incoming := some f, scrubbing := true }, ?_, rfl, rfl, fun _ => rfl, fun k g hm => ?_⟩
    · rw [State.onPart_look, if_pos rfl, State.beginSwitch_look hp]
      rfl
    · rw [he] at hm
      exact absurd hm List.not_mem_nil
  next he => exact ⟨_, State.beginSwitch_look hp, rfl, rfl, fun e => absurd e he, fun k g hm h hk => ⟨hs, State.beginSwitch_gang hp hm h hk⟩⟩

end

/-! ## Invalidations -/

theorem Cached.meets_iff (e : Cached) (vf va len : Nat) : e.meets vf va len = true ↔ e.vf = vf ∧ ¬Apart va len e.base e.bytes := by
  simp only [Cached.meets, Apart, Bool.and_eq_true, beq_iff_eq, decide_eq_true_eq]
  constructor
  · rintro ⟨⟨h, ha⟩, hb⟩
    exact ⟨h, by omega⟩
  · rintro ⟨h, ha⟩
    exact ⟨⟨h, by omega⟩, by omega⟩

theorem invalidationRequest_next (s : State) (vf va len : Nat) : ∃ s', exec (.invalidationRequest vf va len) s = .next s' ∧
    s'.invals = s.invals ++ [⟨s.ids, vf, va, len, s.free⟩] ∧
    (∀ e, e ∈ s'.tlb ↔ e ∈ s.tlb ∧ (e.vf = vf → Apart (va % 2 ^ 57) len e.base e.bytes)) ∧
    { s' with invals := s.invals, ids := s.ids, tlb := s.tlb } = s := by
  refine ⟨_, rfl, rfl, fun e => ?_, rfl⟩
  have h := Cached.meets_iff e vf (va % 2 ^ 57) len
  rw [show (e ∈ s.tlb.filter (fun e => !e.meets vf (va % 2 ^ 57) len)) = _ from propext List.mem_filter]
  refine and_congr_right (fun _ => ?_)
  rw [Bool.not_eq_true', ← Bool.not_eq_true, h]
  exact ⟨fun hn hv => Classical.byContradiction (fun ha => hn ⟨hv, ha⟩), fun hi hb => hb.2 (hi hb.1)⟩

/-- Whether an access is under way that may use what an invalidation names. -/
theorem inval_used_iff (s : State) (v : Inval) : (s.waves.any (fun w => w.lanes.any (fun t => t.acc.any (v.holds (s.vfOf w.blk))))) = true ↔
    ∃ w ∈ s.waves, ∃ t ∈ w.lanes, ∃ a ∈ t.acc, v.holds (s.vfOf w.blk) a = true := by
  simp only [List.any_eq_true]

theorem invalidationComplete_next (s : State) (id : Nat) : ∃ s', exec (.invalidationComplete id) s = .next s' ∧ { s' with invals := s.invals } = s ∧
    (s.invals.find? (fun x => x.id == id) = none → s' = s) ∧
    (∀ v, s.invals.find? (fun x => x.id == id) = some v →
      let used := ∃ w ∈ s.waves, ∃ t ∈ w.lanes, ∃ a ∈ t.acc, v.holds (s.vfOf w.blk) a = true
      (used → s' = s) ∧ (¬used → s'.invals = s.invals.filter (fun x => x.id != id))) := by
  cases h : s.invals.find? (fun x => x.id == id) with
  | none =>
    refine ⟨s, ?_, rfl, fun _ => rfl, nofun⟩
    change done (match s.invals.find? (fun x => x.id == id) with | none => _ | some v => _) = _
    rw [h]
    rfl
  | some v =>
    by_cases hu : ∃ w ∈ s.waves, ∃ t ∈ w.lanes, ∃ a ∈ t.acc, v.holds (s.vfOf w.blk) a = true
    · refine ⟨s, ?_, rfl, nofun, fun v' hv => ?_⟩
      · change done (match s.invals.find? (fun x => x.id == id) with | none => _ | some v => _) = _
        rw [h]
        exact congrArg Host.Outcome.next (if_pos ((inval_used_iff s v).mpr hu))
      · cases hv
        exact ⟨fun _ => rfl, fun hn => absurd hu hn⟩
    · refine ⟨{ s with invals := s.invals.filter (fun x => x.id != id) }, ?_, rfl, nofun, fun v' hv => ?_⟩
      · change done (match s.invals.find? (fun x => x.id == id) with | none => _ | some v => _) = _
        rw [h]
        exact congrArg Host.Outcome.next (if_neg (fun e => hu ((inval_used_iff s v).mp e)))
      · cases hv
        exact ⟨fun hy => absurd hy hu, fun _ => rfl⟩

/-! ## Slices and reassignment -/

theorem sliceSwitch_next (s : State) (n : Nat) : ∃ s', exec (.sliceSwitch n) s = .next s' ∧ (look s.partitions n = none ∨ s.slice n s.clock.now = none → s' = s) ∧
    (∀ p f a, look s.partitions n = some p → s.slice n s.clock.now = some (f, a) →
      (∀ g, p.incoming = some g → f ≠ p.queued.getD g → s' = { s with partitions := s'.partitions } ∧
        look s'.partitions n = some { p with queued := some f }) ∧
      (p.incoming = none → f = p.vf → a ≠ s.clock.now → s' = s) ∧
      (p.incoming = none → p.scrubbing = false → f ≠ p.vf → ∃ p', look s'.partitions n = some p' ∧
        p'.incoming = some f ∧ p'.vf = p.vf ∧ (s.partGangs p = [] → p'.scrubbing = true) ∧
        (∀ k g, k ∈ s.partGangs p → s.gang? k = some g → g.id = k → p'.scrubbing = false ∧ ∃ g', s'.gang? k = some g' ∧ g'.stop = true))) := by
  have hx : exec (.sliceSwitch n) s = execSliceSwitch n s := rfl
  rw [hx, execSliceSwitch]
  refine ⟨_, rfl, ?_⟩
  cases hp : look s.partitions n with
  | none => exact ⟨fun _ => rfl, nofun⟩
  | some p =>
    cases hl : s.slice n s.clock.now with
    | none => exact ⟨fun _ => rfl, nofun⟩
    | some fa =>
      obtain ⟨f, a⟩ := fa
      refine ⟨fun h => (h.elim nofun nofun), fun q f' a' hq hfa => ?_⟩
      cases hq
      cases hfa
      dsimp only
      refine ⟨fun g hg hne => ?_, fun hi hv ha => ?_, fun hi hs hv => ?_⟩
      · rw [hg]
        dsimp only
        rw [if_neg hne]
        refine ⟨rfl, ?_⟩
        rw [State.onPart_look, if_pos rfl, hp, Option.map_some, hg]
      · rw [hi]
        exact if_pos ⟨hv, ha⟩
      · rw [hi]
        dsimp only
        rw [if_neg (fun e => hv e.1)]
        exact State.begun_switch hp hs hv

theorem partitionReassign_next (s : State) (n vf : Nat) : ∃ s', exec (.partitionReassign n vf) s = .next s' ∧ (look s.partitions n = none → s' = s) ∧
    (∀ p, look s.partitions n = some p →
      (p.incoming ≠ none → look s'.partitions n = some { p with queued := some vf }) ∧
      (p.incoming = none → p.vf = vf → s' = s) ∧
      (p.incoming = none → p.vf ≠ vf → p.scrubbing = false → ∃ p', look s'.partitions n = some p' ∧ p'.incoming = some vf ∧ p'.vf = p.vf ∧
        (s.partGangs p = [] → p'.scrubbing = true) ∧
        (∀ k g, k ∈ s.partGangs p → s.gang? k = some g → g.id = k → p'.scrubbing = false ∧ ∃ g', s'.gang? k = some g' ∧ g'.stop = true))) := by
  have hx : exec (.partitionReassign n vf) s = execPartitionReassign n vf s := rfl
  rw [hx, execPartitionReassign]
  refine ⟨_, rfl, ?_⟩
  cases hp : look s.partitions n with
  | none => exact ⟨fun _ => rfl, nofun⟩
  | some p =>
    refine ⟨nofun, fun q hq => ?_⟩
    cases hq
    dsimp only
    refine ⟨fun hne => ?_, fun hi hv => ?_, fun hi hv hs => ?_⟩
    · obtain ⟨g, hg⟩ := Option.ne_none_iff_exists'.mp hne
      rw [hg]
      dsimp only
      rw [State.onPart_look, if_pos rfl, hp]
      rw [Option.map_some, hg]
    · rw [hi]
      exact if_pos hv
    · rw [hi]
      dsimp only
      rw [if_neg hv]
      exact State.begun_switch hp hs (Ne.symm hv)

/-! ## Scrubs -/

/-- A core that holds nothing of the function before: no tile, slot, window entry or latched state. -/
structure Core.Bare (k : Core) : Prop where
  tiles : k.tiles = []
  slots : k.slots = []
  window : k.window = []
  latch : k.mq.latch = Latch.reset

theorem Core.Bare.views {k k' : Core} (h : k.Bare) (e : SameEngines k k') : k'.Bare :=
  ⟨e.tiles.trans h.tiles, e.slots.trans h.slots, e.window.trans h.window, (congrArg MatQueue.latch e.mq).trans h.latch⟩

theorem Core.Bare.flush {k k' : Core} (h : k.Bare) (e : { k' with window := k.window } = k) (hw : k'.window = []) : k'.Bare :=
  ⟨(congrArg Core.tiles e :).trans h.tiles, (congrArg Core.slots e :).trans h.slots, hw, (congrArg (fun x : Core => x.mq.latch) e :).trans h.latch⟩

theorem State.scrubCore_partitions (s : State) (vf c : Nat) : (s.scrubCore vf c).partitions = s.partitions := (OnlyMemory.publish s c 0 3 true).partitions

theorem State.scrubCore_bare (s : State) (vf c : Nat) : ((s.scrubCore vf c).core c).Bare := by
  unfold State.scrubCore
  dsimp only
  rw [State.core_onCore, if_pos rfl]
  exact ⟨rfl, rfl, rfl, rfl⟩

theorem State.scrubCore_keeps {s : State} {vf c x : Nat} (h : (s.core x).Bare) : ((s.scrubCore vf c).core x).Bare := by
  by_cases hx : x = c
  · rw [hx]
    exact State.scrubCore_bare ..
  · unfold State.scrubCore
    dsimp only
    rw [State.core_onCore, if_neg hx]
    exact h.views ((OnlyViews.publish s c 0 3 true).engines x)

theorem scrubbed_partitions (vf : Nat) (cs : List Nat) : ∀ s : State, (cs.foldl (fun t c => t.scrubCore vf c) s).partitions = s.partitions := by
  induction cs with
  | nil => exact fun _ => rfl
  | cons c rest ih => exact fun s => (ih _).trans (State.scrubCore_partitions ..)

theorem scrubbed_keeps (vf : Nat) {x : Nat} (cs : List Nat) : ∀ s : State, (s.core x).Bare → ((cs.foldl (fun t c => t.scrubCore vf c) s).core x).Bare := by
  induction cs with
  | nil => exact fun _ h => h
  | cons c rest ih => exact fun s h => ih _ (State.scrubCore_keeps h)

theorem scrubbed_bare (vf : Nat) {x : Nat} (cs : List Nat) : ∀ s : State, x ∈ cs → ((cs.foldl (fun t c => t.scrubCore vf c) s).core x).Bare := by
  induction cs with
  | nil => exact fun _ h => absurd h List.not_mem_nil
  | cons c rest ih =>
    intro s h
    rcases List.mem_cons.mp h with rfl | h
    · exact scrubbed_keeps vf rest _ (State.scrubCore_bare ..)
    · exact ih _ h

/-- What a partition is once its function has it, with its cores bare and no translation of the function before. -/
structure State.HandedOver (s : State) (n : Nat) (p : Partition) (t : State) : Prop where
  part : look t.partitions n = some p
  bare : ∀ c, (s.core c).Bare → (t.core c).Bare
  tlb : t.tlb = s.tlb

section
variable {s : State} {n : Nat} {p : Partition}

theorem State.HandedOver.onPart {t : State} (h : s.HandedOver n p t) {m : Nat} (hm : m ≠ n) (f : Partition → Partition) :
    s.HandedOver n p (t.onPart m f) :=
  ⟨by rw [State.onPart_look, if_neg (Ne.symm hm), h.part], h.bare, h.tlb⟩

theorem State.HandedOver.preempt {t : State} (h : s.HandedOver n p t) (gs : List Nat) : s.HandedOver n p (t.preempt gs) := by
  refine ⟨by rw [State.preempt_partitions, h.part], fun c hc => ?_, by rw [State.preempt_tlb, h.tlb]⟩
  obtain ⟨e, hw⟩ := (State.preempt_flush t gs).2 c
  exact (h.bare c hc).flush e (hw (h.bare c hc).window)

theorem State.HandedOver.beginSwitch {t : State} (h : s.HandedOver n p t) {m : Nat} (hm : m ≠ n) (f : Nat) : s.HandedOver n p (t.beginSwitch m f) := by
  unfold State.beginSwitch
  split
  · exact h
  · exact (h.onPart hm _).preempt _

theorem State.HandedOver.finishSwitch {t : State} (h : s.HandedOver n p t) {m : Nat} (hm : m ≠ n) : s.HandedOver n p (t.finishSwitch m) := by
  unfold State.finishSwitch
  split
  · exact h
  · dsimp only
    split
    · exact (h.onPart hm _).beginSwitch hm _
    · exact h.onPart hm _

theorem State.HandedOver.settleSwitch {t : State} (h : s.HandedOver n p t) (hi : p.incoming = none) (m : Nat) :
    s.HandedOver n p (t.settleSwitch m) := by
  by_cases hm : m = n
  · subst hm
    unfold State.settleSwitch
    rw [h.part]
    dsimp only
    rw [hi]
    exact h
  · unfold State.settleSwitch
    split
    · exact h
    · split
      · exact h
      · split
        · exact h
        · split
          · exact h.finishSwitch hm
          · exact h.onPart hm _

theorem State.HandedOver.settleSwitches {t : State} (h : s.HandedOver n p t) (hi : p.incoming = none) : s.HandedOver n p t.settleSwitches := by
  have hl : ∀ (l : List Nat) (u : State), s.HandedOver n p u → s.HandedOver n p (l.foldl State.settleSwitch u) := by
    intro l
    induction l with
    | nil => exact fun _ hu => hu
    | cons m rest ih => exact fun u hu => ih _ (hu.settleSwitch hi m)
  exact hl _ t h

end

/-- A state whose cores of a partition have been scrubbed, without the translations of the outgoing function. -/
def State.scrubbed (s : State) (p : Partition) : State :=
  let s1 := p.cores.foldl (fun t c => t.scrubCore p.vf c) s
  { s1 with tlb := s1.tlb.filter (fun e => !p.cores.elem e.core && (e.core != 192 || e.vf != p.vf)) }

theorem scrubComplete_next (s : State) (n : Nat) : ∃ s', exec (.scrubComplete n) s = .next s' ∧
    (∀ p, look s.partitions n = some p → p.scrubbing = false → s' = s) ∧
    (∀ p f, look s.partitions n = some p → p.scrubbing = true → p.incoming = some f → p.queued = none →
      look s'.partitions n = some { p with vf := f, incoming := none, scrubbing := false } ∧
      ∀ c ∈ p.cores, (s'.core c).tiles = [] ∧ (s'.core c).slots = [] ∧ (s'.core c).window = [] ∧ (s'.core c).mq.latch = Latch.reset ∧
        ∀ e ∈ s'.tlb, e.core ≠ c ∧ (e.core = 192 → e.vf ≠ p.vf)) := by
  have hx : exec (.scrubComplete n) s = execScrubComplete n s := rfl
  rw [hx, execScrubComplete]
  refine ⟨_, rfl, ?_⟩
  cases hp : look s.partitions n with
  | none => exact ⟨nofun, nofun⟩
  | some p =>
    dsimp only
    refine ⟨fun q hq hs => ?_, fun q f hq hs hf hn => ?_⟩
    · cases hq
      rw [hs]
      rfl
    · cases hq
      rw [if_pos hs]
      have hu : look (s.scrubbed p).partitions n = some p := by
        rw [State.scrubbed]
        dsimp only
        rw [scrubbed_partitions, hp]
      have h0 : (s.scrubbed p).HandedOver n { p with vf := f, incoming := none, queued := none, scrubbing := false } ((s.scrubbed p).finishSwitch n) := by
        unfold State.finishSwitch
        rw [hu]
        dsimp only
        rw [hn, hf]
        refine ⟨?_, fun _ h => h, rfl⟩
        rw [State.onPart_look, if_pos rfl, hu, Option.map_some]
        rfl
      have h1 := h0.settleSwitches rfl
      refine ⟨hn ▸ h1.part, fun c hc => ?_⟩
      have hb := h1.bare c (scrubbed_bare p.vf p.cores s hc)
      refine ⟨hb.tiles, hb.slots, hb.window, hb.latch, fun e he => ?_⟩
      have he' : e ∈ (s.scrubbed p).tlb := (congrArg (e ∈ ·) h1.tlb).mp he
      have hk := (List.mem_filter.mp he').2
      simp only [Bool.and_eq_true, Bool.not_eq_true', Bool.or_eq_true, bne_iff_ne, ne_eq] at hk
      refine ⟨fun hec => ?_, fun h192 => hk.2.resolve_left (fun hne => hne h192)⟩
      have := hk.1
      rw [hec, List.elem_eq_mem, decide_eq_false_iff_not] at this
      exact this hc

/-! ## The boot chain -/

theorem imageOk_false {s : State} {kind n : Nat} {hdr payload key : List Byte} (h : hdr.length ≠ 1024 ∨ fld hdr 0 4 ≠ 0x4E5A4952) :
    s.imageOk kind n hdr payload key = false := by
  unfold State.imageOk
  rcases h with h | h
  · rw [beq_eq_false_iff_ne.mpr h]
    rfl
  · rw [beq_eq_false_iff_ne.mpr h, Bool.and_false]
    rfl

theorem testBit_zero_pred {x : Nat} (hx : x < 2 ^ 32) (h : x.testBit 0 = true) : (BitVec.ofNat 32 (x - 1)).toNat.testBit 0 = false := by
  simp only [Nat.testBit_zero, decide_eq_true_eq, decide_eq_false_iff_not, BitVec.toNat_ofNat] at h ⊢
  omega

/-- The step of `State.disable` at one function. -/
def State.disableFn (part : Nat) (t : State) (vf : Nat) : State :=
  if t.vfWord vf 4 = part ∧ (t.vfWord vf 92).testBit 0 then t.setReg 2 vf 92 (BitVec.ofNat 32 (t.vfWord vf 92 - 1)) else t

theorem State.disable_eq (s : State) (part : Nat) : s.disable part = (List.range 256).foldl (State.disableFn part) s := rfl

theorem State.vfWord_reg (s : State) (vf off : Nat) : s.vfWord vf off = (s.reg 2 vf off).toNat := rfl

section
variable (part : Nat) (t : State) (vf : Nat)

theorem State.disableFn_partitions : (State.disableFn part t vf).partitions = t.partitions := by
  unfold State.disableFn
  split <;> rfl

variable {t} in
theorem State.disableFn_rising (h : risingFrom 0 t.mon.regs = true) : risingFrom 0 (State.disableFn part t vf).mon.regs = true := by
  unfold State.disableFn
  split
  · exact State.setReg_rising _ _ _ _ _ h
  · exact h

theorem State.disableFn_beside {x off : Nat} (h : x ≠ vf ∨ off ≠ 92) (hoff : off < 2 ^ 20) :
    (State.disableFn part t vf).vfWord x off = t.vfWord x off := by
  unfold State.disableFn
  split
  · refine congrArg BitVec.toNat (State.reg_setReg_beside _ _ _ _ _ ?_)
    unfold regKey
    omega
  · rfl

theorem State.disableFn_off (hr : risingFrom 0 t.mon.regs = true) (h : t.vfWord vf 4 = part) :
    ((State.disableFn part t vf).vfWord vf 92).testBit 0 = false := by
  unfold State.disableFn
  split
  next hb =>
    rw [State.vfWord_reg, State.reg_setReg _ _ _ _ _ (.inr hr)]
    exact testBit_zero_pred (t.reg 2 vf 92).isLt hb.2
  next hb => exact Bool.eq_false_of_not_eq_true (fun e => hb ⟨h, e⟩)
end

theorem disabled_partitions (part : Nat) (l : List Nat) : ∀ t : State, (l.foldl (State.disableFn part) t).partitions = t.partitions := by
  induction l with
  | nil => exact fun _ => rfl
  | cons v rest ih => exact fun t => (ih _).trans (State.disableFn_partitions ..)

/-- A function of the partition whose EN bit is clear, or is still to be cleared. -/
theorem disabled_off (part : Nat) {x : Nat} (l : List Nat) : ∀ t : State, risingFrom 0 t.mon.regs = true → t.vfWord x 4 = part →
    x ∈ l ∨ (t.vfWord x 92).testBit 0 = false → ((l.foldl (State.disableFn part) t).vfWord x 92).testBit 0 = false := by
  induction l with
  | nil => exact fun t _ _ h => h.resolve_left List.not_mem_nil
  | cons v rest ih =>
    intro t hr h4 h
    refine ih _ (State.disableFn_rising part v hr) (by rw [State.disableFn_beside part t v (.inr (by decide)) (by decide), h4]) ?_
    by_cases hv : x = v
    · subst hv
      exact .inr (State.disableFn_off part t x hr h4)
    · rw [State.disableFn_beside part t v (.inl hv) (by decide)]
      exact h.imp_left (fun hm => (List.mem_cons.mp hm).resolve_left hv)

theorem boot_next (s : State) (n : Nat) (hdr payload key : List Byte) :
    let ok := s.imageOk (min 3 (s.mon.bootStage + 1)) n hdr payload key
    ∃ s', exec (.boot n hdr payload key) s = .next s' ∧ (hdr.length ≠ 1024 ∨ fld hdr 0 4 ≠ 0x4E5A4952 → ok = false) ∧
    (s.mon.recovery = true → s' = s) ∧
    (s.mon.recovery = false → s.mon.bootStage < 2 →
      s'.mon.bootStage = s.mon.bootStage + (if ok = true then 1 else 0) ∧ s'.mon.recovery = !ok ∧ { s' with mon := s.mon } = s) ∧
    (∀ p, s.mon.recovery = false → 2 ≤ s.mon.bootStage → look s.partitions n = some p → p.incoming = none → p.scrubbing = false →
      s.partGangs p = [] → risingFrom 0 s.mon.regs = true →
      (ok = true → ∃ p', look s'.partitions n = some p' ∧ p'.booted = true ∧ p'.image = (hdr.drop 24).take 64 ∧ p'.vf = p.vf ∧
        (p.image ≠ [] → p.image ≠ p'.image → p'.scrubbing = true)) ∧
      (ok = false → look s'.partitions n = some { p with booted := false } ∧
        ∀ vf < 256, s.vfWord vf 4 = n → (s'.vfWord vf 92).testBit 0 = false)) := by
  have hx : exec (.boot n hdr payload key) s = execBoot n hdr payload key s := rfl
  rw [hx, execBoot]
  dsimp only
  refine ⟨_, rfl, imageOk_false, fun h => by rw [h]; rfl, ?_⟩
  generalize s.imageOk (min 3 (s.mon.bootStage + 1)) n hdr payload key = ok
  refine ⟨fun hrec hst => ?_, fun p hrec hst hp hi hs hg hr => ?_⟩
  · rw [hrec, if_neg Bool.false_ne_true, if_pos hst]
    cases ok with
    | true => exact ⟨rfl, rfl, rfl⟩
    | false => exact ⟨rfl, rfl, rfl⟩
  · rw [hrec, if_neg Bool.false_ne_true, if_neg (Nat.not_lt.mpr hst), hp]
    dsimp only
    have hrest : (p.incoming.isSome || p.scrubbing || !(s.partGangs p).isEmpty) = false := by
      rw [hi, hs, hg]
      rfl
    rw [hrest, if_neg Bool.false_ne_true]
    refine ⟨fun hok => ?_, fun hok => ?_⟩
    · rw [if_pos hok]
      refine ⟨_, State.onPart_hit hp _, rfl, rfl, rfl, fun hne hne' => ?_⟩
      dsimp only
      rw [beq_eq_false_iff_ne.mpr hne', Bool.or_false, List.isEmpty_eq_false_iff.mpr hne]
      rfl
    · rw [if_neg (by rw [hok]; exact Bool.false_ne_true), State.disable_eq]
      refine ⟨?_, fun vf hvf h4 => ?_⟩
      · rw [disabled_partitions, State.onPart_hit hp, hi, hs]
      · exact disabled_off n (List.range 256) _ hr h4 (.inl (List.mem_range.mpr hvf))

/-- Settles O42: each step unfolds to its cases; a switch that begins is followed through the stop request it makes, a scrub core by core, and the
functions of a partition that failed to boot one by one. -/
theorem tenancy : Obligations.Tenancy :=
  ⟨invalidationRequest_next, invalidationComplete_next, sliceSwitch_next, scrubComplete_next, partitionReassign_next, boot_next⟩

end Sys2Proof.Machine
end

section
/-! PROOFS. Pre-emption: the request, the hard stop, the save core by core, the resumption (spec/23 R341 to R350): O43. -/

namespace Sys2Proof.Machine
open Sys2Proof.Claims

/-! ## What a publish leaves of gangs and blocks -/

/-- A gang is the same but for its overlay and its log. -/
def SameGang (g g' : Gang) : Prop := { g' with overlay := g.overlay, log := g.log } = g

theorem SameGang.trans {g g' g'' : Gang} (h : SameGang g g') (h' : SameGang g' g'') : SameGang g g'' := by
  have e := (congrArg (fun x : Gang => { x with
    overlay := g.overlay, log := g.log }) h' :)
  exact e.trans h

/-- A publish's footprint: views, instances, the orders of writes; every gang is the same but for its overlay and log. -/
structure OnlyPlaces (s t : State) : Prop where
  rest : { t with cores := s.cores, gangs := s.gangs, mem := s.mem, stamps := s.stamps, stamp := s.stamp, copies := s.copies, owned := s.owned,
                  loose := s.loose, poisoned := s.poisoned } = s
  views : OnlyViews s t
  gang : ∀ k g, s.gang? k = some g → ∃ g', t.gang? k = some g' ∧ SameGang g g'
  rising : risingFrom 0 s.gangs = true → risingFrom 0 t.gangs = true

theorem OnlyPlaces.refl (s : State) : OnlyPlaces s s := ⟨rfl, OnlyViews.refl s, fun _ g h => ⟨g, h, rfl⟩, id⟩

theorem OnlyPlaces.trans {s t u : State} (h : OnlyPlaces s t) (h' : OnlyPlaces t u) : OnlyPlaces s u where
  rest := (congrArg (fun x : State => { x with
    cores := s.cores, gangs := s.gangs, mem := s.mem, stamps := s.stamps, stamp := s.stamp, copies := s.copies, owned := s.owned,
    loose := s.loose, poisoned := s.poisoned }) h'.rest :).trans h.rest
  views := h.views.trans h'.views
  gang := fun k g hg => by
    obtain ⟨g1, h1, e1⟩ := h.gang k g hg
    obtain ⟨g2, h2, e2⟩ := h'.gang k g1 h1
    exact ⟨g2, h2, e1.trans e2⟩
  rising := fun hr => h'.rising (h.rising hr)

theorem OnlyPlaces.foldl {α : Type} {f : State → α → State} (hf : ∀ t x, OnlyPlaces t (f t x)) (l : List α) : ∀ s, OnlyPlaces s (l.foldl f s) := by
  induction l with
  | nil => exact OnlyPlaces.refl
  | cons x rest ih => exact fun s => (hf s x).trans (ih (f s x))

section
variable (s : State)

theorem OnlyPlaces.onCore (c : Nat) {f : Core → Core} (hf : ∀ k, SameEngines k (f k)) : OnlyPlaces s (s.onCore c f) :=
  ⟨rfl, OnlyViews.onCore s c hf, fun _ g h => ⟨g, h, rfl⟩, id⟩

theorem risingFrom_onKey {α : Type} {m : List (Nat × α)} (h : risingFrom 0 m = true) (x : Nat) (f : α → α) : risingFrom 0 (onKey m x f) = true := by
  unfold onKey
  split
  · exact risingFrom_insertAt _ _ _ h (Nat.zero_le _)
  · exact h

theorem OnlyPlaces.onGang (k : Nat) {f : Gang → Gang} (hf : ∀ g, SameGang g (f g)) : OnlyPlaces s (s.onGang k f) where
  rest := rfl
  views := OnlyViews.onGang s k f
  gang := fun k' g h => by
    have e : (s.onGang k f).gang? k' = if k' = k then (s.gang? k).map f else s.gang? k' := look_onKey ..
    rw [e]
    split
    next hk =>
      rw [← hk, h]
      exact ⟨f g, rfl, hf g⟩
    next => exact ⟨g, h, rfl⟩
  rising := fun h => risingFrom_onKey h k f

theorem State.bind_eq (pa n : Nat) : s.bind pa n = { s with loose := (s.bind pa n).loose } := by
  unfold State.bind
  split <;> rfl

theorem OnlyPlaces.bind (pa n : Nat) : OnlyPlaces s (s.bind pa n) := by
  have e := State.bind_eq s pa n
  have hg : (s.bind pa n).gangs = s.gangs := (congrArg State.gangs e :)
  have hr : { s.bind pa n with
      cores := s.cores, gangs := s.gangs, mem := s.mem, stamps := s.stamps, stamp := s.stamp, copies := s.copies, owned := s.owned,
      loose := s.loose, poisoned := s.poisoned } = s := by
    unfold State.bind
    split <;> rfl
  exact ⟨hr, OnlyViews.bind s pa n, fun k g h => ⟨g, by rw [State.gang?, hg]; exact h, rfl⟩, fun h => by rw [hg]; exact h⟩

/-- The gangs after a home write: the log of the gang that wrote has the line. -/
theorem State.homeWrite_gangs (gang : Option Nat) (pa : Nat) (b : Byte) (stamp : Nat) :
    (s.homeWrite gang pa b stamp).gangs = s.gangs ∨
    ∃ g, (s.homeWrite gang pa b stamp).gangs = (s.onGang g (fun k => { k with log := logLine s k.log pa stamp })).gangs := by
  unfold State.homeWrite
  split
  · cases gang with
    | none => exact .inl rfl
    | some g =>
      dsimp only
      split
      · exact .inr ⟨g, rfl⟩
      · exact .inl rfl
  · exact .inl rfl

theorem State.homeWrite_rest (gang : Option Nat) (pa : Nat) (b : Byte) (stamp : Nat) :
    { s.homeWrite gang pa b stamp with
      cores := s.cores, gangs := s.gangs, mem := s.mem, stamps := s.stamps, stamp := s.stamp, copies := s.copies, owned := s.owned,
      loose := s.loose, poisoned := s.poisoned } = s := by
  unfold State.homeWrite
  split
  · cases gang with
    | none => rfl
    | some g =>
      dsimp only
      split <;> rfl
  · rfl

theorem OnlyPlaces.homeWrite (gang : Option Nat) (pa : Nat) (b : Byte) (stamp : Nat) : OnlyPlaces s (s.homeWrite gang pa b stamp) := by
  obtain ⟨t, ht, e⟩ : ∃ t, OnlyPlaces s t ∧ (s.homeWrite gang pa b stamp).gangs = t.gangs := by
    rcases State.homeWrite_gangs s gang pa b stamp with e | ⟨g, e⟩
    · exact ⟨s, OnlyPlaces.refl s, e⟩
    · refine ⟨_, OnlyPlaces.onGang s g (f := fun k => { k with log := logLine s k.log pa stamp }) (fun _ => rfl), ?_⟩
      exact e
  refine ⟨State.homeWrite_rest s gang pa b stamp, OnlyViews.homeWrite s gang pa b stamp, fun k g h => ?_, fun h => ?_⟩
  · rw [State.gang?, e]
    exact ht.gang k g h
  · rw [e]
    exact ht.rising h

theorem OnlyPlaces.nextStamp : OnlyPlaces s s.nextStamp := ⟨rfl, OnlyViews.of_cores rfl, fun _ g h => ⟨g, h, rfl⟩, id⟩

theorem OnlyPlaces.placeByte (c g sc pa : Nat) (w : ViewWrite) : OnlyPlaces s (s.placeByte c g sc pa w) := by
  have h1 : OnlyPlaces s (s.nextStamp.onCore c (fun k => { k with writes := eraseAt k.writes pa, snap := takeLater k.snap pa ⟨w.val, w.stamp.getD s.nextStamp.stamp⟩ })) :=
    (OnlyPlaces.nextStamp s).trans (OnlyPlaces.onCore _ c (fun _ => rfl))
  unfold State.placeByte
  dsimp only
  split
  · exact h1.trans (OnlyPlaces.homeWrite ..)
  · exact h1.trans (OnlyPlaces.onGang _ _ (fun _ => rfl))

theorem OnlyPlaces.orderOwn (c : Nat) (p : Nat → Bool) : OnlyPlaces s (s.orderOwn c p) := by
  unfold State.orderOwn
  refine (OnlyPlaces.nextStamp s).trans (OnlyPlaces.onCore _ c ?_)
  exact fun _ => rfl

theorem OnlyPlaces.flushOverlay (g : Nat) : OnlyPlaces s (s.flushOverlay g) := by
  unfold State.flushOverlay
  split
  · exact (OnlyPlaces.foldl (fun t (p : Nat × Placed) => OnlyPlaces.homeWrite t (some g) p.1 p.2.val p.2.stamp) _ s).trans
      (OnlyPlaces.onGang _ _ (fun _ => rfl))
  · exact OnlyPlaces.refl s

theorem OnlyPlaces.covered (c : Nat) : OnlyPlaces s (s.covered c) := OnlyPlaces.foldl (fun t _ => OnlyPlaces.bind t _ _) _ s

theorem OnlyPlaces.publish (c g sc : Nat) (hasGang : Bool) : OnlyPlaces s (s.publish c g sc hasGang) := by
  unfold State.publish
  split
  · exact OnlyPlaces.orderOwn ..
  · refine OnlyPlaces.trans ?_ (OnlyPlaces.covered ..)
    exact (OnlyPlaces.foldl (fun t (p : Nat × ViewWrite) => OnlyPlaces.placeByte t c g sc p.1 p.2) _ s).trans
      (OnlyPlaces.foldl (fun _ _ => OnlyPlaces.flushOverlay ..) _ _)
end

section
variable {s t : State} (h : OnlyPlaces s t)
include h

theorem OnlyPlaces.waves : t.waves = s.waves := (congrArg State.waves h.rest :)
theorem OnlyPlaces.blocks : t.blocks = s.blocks := (congrArg State.blocks h.rest :)
theorem OnlyPlaces.images : t.images = s.images := (congrArg State.images h.rest :)
theorem OnlyPlaces.launches : t.launches = s.launches := (congrArg State.launches h.rest :)

theorem OnlyPlaces.matOps (c : Nat) : (t.core c).matOps = (s.core c).matOps := by
  have e := h.views.engines c
  unfold Core.matOps
  rw [e.window, e.mq, show (t.core c).mq0 = (s.core c).mq0 from (congrArg Core.mq0 e :), show (t.core c).array = (s.core c).array from (congrArg Core.array e :)]

theorem OnlyPlaces.blocksOf (k : Nat) : t.blocksOf k = s.blocksOf k := by rw [State.blocksOf, State.blocksOf, h.blocks]
end

/-! ## Waves with nothing unperformed -/

section
variable {s : State} (h : ∀ v ∈ s.waves, ∀ u ∈ v.lanes, u.acc = [])
include h

theorem State.drain_idle (c sl : Nat) (ls : List Nat) : s.drain c sl ls = s := by
  refine List.foldl_fixed' (fun l => ?_) ls
  split
  next th hth =>
    obtain ⟨w, hw, hl⟩ := Option.bind_eq_some_iff.mp (by exact hth)
    rw [h w (List.mem_of_find?_eq_some hw) th (Wave.mem_of_lane? hl)]
    rfl
  next => rfl

theorem State.drainWaves_idle (p : Wave → Bool) : s.drainWaves p = s := by
  exact List.foldl_fixed' (fun w => State.drain_idle h w.core w.slot _) _

theorem State.dropMismatches_idle (p : Wave → Bool) : s.dropMismatches p = s := by
  unfold State.dropMismatches
  have hmem : ∀ w ∈ s.waves.filter (fun w => p w && w.lining.isSome), w ∈ s.waves := fun w hw => (List.mem_filter.mp hw).1
  generalize s.waves.filter (fun w => p w && w.lining.isSome) = ws at hmem
  induction ws with
  | nil => rfl
  | cons w rest ih =>
    have hnone : w.lanes.filter (fun x => s.inject.elem x.lane && x.acc.any Access.compared) = [] := by
      refine List.filter_eq_nil_iff.mpr (fun x hx => ?_)
      rw [h w (hmem w List.mem_cons_self) x hx, List.any_nil, Bool.and_false]
      exact Bool.false_ne_true
    rw [List.foldl_cons, hnone]
    exact ih (fun v hv => hmem v (List.mem_cons_of_mem _ hv))

end

/-! ## The request -/

theorem State.preempt_launches (s : State) (gs : List Nat) : (s.preempt gs).launches = (s.hold (s.named? gs)).launches :=
  (congrArg State.launches (State.preempt_flush s gs).1 :)

/-- Where a launch is not placed any more: the partitions that gangs of it run on. -/
def State.heldFor (s : State) (p : Gang → Bool) (l : Nat) (x : Launch) : Launch :=
  { x with held := (x.held ++ (s.gangs.filter (fun g => g.2.launch == l && p g.2)).flatMap (fun g => s.gangParts g.1)).eraseDups }

theorem State.hold_launches (s : State) (p : Gang → Bool) : (s.hold p).launches = s.launches.map (fun l => (l.1, s.heldFor p l.1 l.2)) := rfl

theorem State.named_of_mem {s : State} {gs : List Nat} {g : Gang} (h : g.id ∈ gs) : s.named? gs g = true := by
  simp [State.named?, h]

theorem preemptRequest_next (s : State) (gs : List Nat) (k : Nat) (g : Gang) (hg : s.gang? k = some g) (hk : g.id = k) (hm : k ∈ gs) :
    ∃ s' g', exec (.preemptRequest gs) s = .next s' ∧ s'.gang? k = some g' ∧ g'.stop = true ∧ g'.baste = false ∧
      g'.stopAt = (if g.stop = true then g.stopAt else s.clock.wall) ∧
      ∀ x, s.launch? g.launch = some x → ∃ h, s'.launch? g.launch = some { x with held := h } ∧ ∀ n ∈ s.gangParts k, n ∈ h := by
  refine ⟨s.preempt gs, _, rfl, State.preempt_named s hg hk hm, rfl, rfl, rfl, fun x hx => ?_⟩
  rw [State.launch?, State.preempt_launches, State.hold_launches, look_mapPair (fun l => (l.1, s.heldFor (s.named? gs) l.1 l.2)) (fun _ => rfl),
    show look s.launches g.launch = some x from hx]
  refine ⟨_, rfl, fun n hn => ?_⟩
  rw [List.mem_eraseDups]
  refine List.mem_append_right _ (List.mem_flatMap.mpr ⟨(k, g), List.mem_filter.mpr ⟨mem_of_look hg, ?_⟩, hn⟩)
  rw [State.named_of_mem (hk ▸ hm), Bool.and_true, beq_iff_eq]

/-! ## The hard stop -/

/-- The waves of a gang with every thread stopped where it may be. -/
def State.hardStopped (s : State) (k : Nat) (w : Wave) : Wave :=
  if s.inGang k w then { w with lanes := w.lanes.map (fun t => Thread.hardStop s w t) } else w

theorem Thread.hardStop_lane (s : State) (w : Wave) (t : Thread) : (Thread.hardStop s w t).lane = t.lane := by
  unfold Thread.hardStop
  split
  · rfl
  · split
    · rfl
    · change t.endCheck.lane = t.lane
      unfold Thread.endCheck
      split <;> rfl

theorem State.hardStopped_lane {s t : State} {k : Nat} {w : Wave} (hw : s.wave? w.core w.slot = some w) (hg : s.inGang k w = true)
    (ht : t.waves = s.waves.map (s.hardStopped k)) (l : Nat) :
    t.lane? w.core w.slot l = (w.lane? l).map (Thread.hardStop s w) := by
  have hat : ∀ v : Wave, (s.hardStopped k v).isAt w.core w.slot = v.isAt w.core w.slot := by
    intro v
    unfold State.hardStopped
    split <;> rfl
  have hwave : t.wave? w.core w.slot = some { w with lanes := w.lanes.map (Thread.hardStop s w) } := by
    rw [State.wave?, ht, List.find?_map, Function.comp_def]
    simp only [hat]
    rw [show s.waves.find? (fun v => v.isAt w.core w.slot) = some w from hw, Option.map_some, State.hardStopped, if_pos hg]
  rw [State.lane?, hwave]
  exact lane_find_map _ _ _ (Thread.hardStop_lane s w)

theorem State.inGang_of_iff {s : State} {k : Nat} {w : Wave} (h : s.inGang k w = true) : ∃ b, s.block? w.blk = some b ∧ b.gang = k := by
  unfold State.inGang at h
  split at h
  next b hb => exact ⟨b, hb, beq_iff_eq.mp h⟩
  next => exact absurd h Bool.false_ne_true

/-- Whether a thread with nothing unperformed and no end check due rests, in a gang that does not stand still: by what it waits for. -/
theorem State.rests_ready {s : State} {k : Nat} {w : Wave} {g : Gang} (hg : s.gang? k = some g) (hs : g.still = false) (hin : s.inGang k w = true)
    {th : Thread} (ha : th.acc = []) (he : th.endChk = false) :
    (th.wait = .no → s.rests w th = false) ∧ (th.wait = .notch → s.rests w th = true) := by
  obtain ⟨b, hb, hbk⟩ := State.inGang_of_iff hin
  have hgang : s.gangOf w.blk = some g := by rw [State.gangOf, hb, Option.bind_some, hbk, hg]
  constructor
  · intro hw
    rw [State.rests, ha, he, hgang, hw, Option.map_some, Option.getD_some, hs]
    rfl
  · intro hw
    rw [State.rests, ha, he, hgang, hw, Option.map_some, Option.getD_some, hs]
    rfl

theorem Thread.hardStop_ready {s : State} {w : Wave} {th : Thread} (hl : th.live = true) (hd : th.due = none) (ha : th.acc = []) (he : th.endChk = false)
    (hw : th.wait = .no) (hr : s.rests w th = false) : Thread.hardStop s w th = { th with wait := .stopped, marks := [] } := by
  have hend : th.endCheck = th := by
    rw [Thread.endCheck, he, Bool.and_false, if_neg Bool.false_ne_true]
  have hstays : (!th.live || s.rests w th || th.due.isSome) = false := by
    rw [hl, hr, hd]
    rfl
  have hidle : (th.outstanding || !th.acc.isEmpty) = false := by
    rw [Thread.outstanding, ha]
    rfl
  unfold Thread.hardStop
  rw [hstays, if_neg Bool.false_ne_true, hw, hend]
  dsimp only
  rw [hidle]
  rfl

theorem preemptHardStop_next (s : State) (k : Nat) (g : Gang) (hg : s.gang? k = some g) (hstop : g.stop = true) :
    (s.clock.wall < g.stopAt + 200000 → exec (.preemptHardStop k) s = .next s) ∧
    (∀ w th, g.stopAt + 200000 ≤ s.clock.wall → g.still = false → (∀ v ∈ s.waves, ∀ u ∈ v.lanes, u.acc = []) → s.wave? w.core w.slot = some w →
      s.inGang k w = true → w.lane? th.lane = some th → th.live = true → th.due = none → th.endChk = false →
      ∃ s', exec (.preemptHardStop k) s = .next s' ∧
        (th.wait = .no → s'.lane? w.core w.slot th.lane = some { th with wait := .stopped, marks := [] }) ∧
        (th.wait = .notch → s'.lane? w.core w.slot th.lane = some th)) := by
  have hx : exec (.preemptHardStop k) s = execPreemptHardStop k s := rfl
  rw [hx, execPreemptHardStop, hg]
  dsimp only
  rw [hstop]
  refine ⟨fun ht => ?_, fun w th ht hs ha hw hin hl hlive hd he => ?_⟩
  · rw [decide_eq_true ht]
    rfl
  · rw [decide_eq_false (Nat.not_lt.mpr ht), if_neg (by decide), State.dropMismatches_idle ha, State.drainWaves_idle ha]
    have hacc := ha w (List.mem_of_find?_eq_some hw) th (Wave.mem_of_lane? hl)
    obtain ⟨hno, hnotch⟩ := State.rests_ready (s := s.dropFaults (s.inGang k)) (w := w) hg hs hin hacc he
    have hlane : ∀ t : State, t.waves = (s.dropFaults (s.inGang k)).waves.map (State.hardStopped (s.dropFaults (s.inGang k)) k) →
        t.lane? w.core w.slot th.lane = some (Thread.hardStop (s.dropFaults (s.inGang k)) w th) := by
      intro t e
      rw [State.hardStopped_lane (s := s.dropFaults (s.inGang k)) hw hin e, hl]
      rfl
    refine ⟨_, rfl, fun hwait => ?_, fun hwait => ?_⟩
    · rw [hlane _ rfl, Thread.hardStop_ready hlive hd hacc he hwait (hno hwait)]
    · rw [hlane _ rfl, Thread.hardStop, hnotch hwait, hlive]
      rfl

/-! ## A core saved -/

/-- Cores changed one after another, none of them in its matrix operations. -/
theorem State.coresChanged {f : Nat → Core → Core} (hf : ∀ c k, (f c k).matOps = k.matOps) (l : List Nat) : ∀ s : State,
    { l.foldl (fun t c => t.onCore c (f c)) s with cores := s.cores } = s ∧
    ∀ c, ((l.foldl (fun t c => t.onCore c (f c)) s).core c).matOps = (s.core c).matOps := by
  induction l with
  | nil => exact fun s => ⟨rfl, fun _ => rfl⟩
  | cons x rest ih =>
    intro s
    obtain ⟨e, hc⟩ := ih (s.onCore x (f x))
    refine ⟨(congrArg (fun u : State => { u with
      cores := s.cores }) e :), fun c => ?_⟩
    rw [List.foldl_cons, hc c, State.core_onCore]
    split
    next h => rw [hf, h]
    next => rfl

section
variable (s : State) (g : Nat) (p : Block → Bool)

/-- Whether a block of a number is one of those of a gang that are freed. -/
def State.frees (blk : Nat) : Bool := ((s.blocksOf g).filter p).any (fun b => b.id == blk)

/-- A matrix queue of a core without what such blocks hold of it. -/
def State.queueFreed (c : Nat) (q : MatQueue) : MatQueue :=
  { q with
    holder := q.holder.filter (fun h => !((s.wave? c h).map (fun w => s.frees g p w.blk)).getD false)
    kept := q.kept.filter (fun x => !s.frees g p x.1)
    lastBlk := q.lastBlk.filter (fun b => !s.frees g p b) }

/-- A core without what such blocks hold on it. -/
def State.unitsFreed (c : Nat) (k : Core) : Core :=
  { k with
    slots := k.slots.filter (fun x => !s.frees g p x.2.blk), tiles := k.tiles.filter (fun x => !s.frees g p x.2.blk)
    mq := s.queueFreed g p c k.mq, mq0 := s.queueFreed g p c k.mq0 }

/-- The cores that such blocks stand on, freed. -/
def State.coresFreed : State := (((s.blocksOf g).filter p).map (fun b => b.core)).eraseDups.foldl (fun t c => t.onCore c (s.unitsFreed g p c)) s

theorem State.freeUnits_eq : s.freeUnits g p =
    { s.coresFreed g p with waves := (s.coresFreed g p).waves.filter (fun w => !s.frees g p w.blk) } := rfl

theorem State.coresFreed_rest : { s.coresFreed g p with cores := s.cores } = s :=
  (State.coresChanged (f := s.unitsFreed g p) (fun _ _ => rfl) _ s).1

theorem State.freeUnits_rest : { s.freeUnits g p with cores := s.cores, waves := s.waves } = s :=
  (congrArg (fun u : State => { u with
    waves := s.waves }) (s.coresFreed_rest g p) :)

theorem State.freeUnits_blocks : (s.freeUnits g p).blocks = s.blocks := (congrArg State.blocks (s.freeUnits_rest g p) :)
theorem State.freeUnits_gangs : (s.freeUnits g p).gangs = s.gangs := (congrArg State.gangs (s.freeUnits_rest g p) :)
theorem State.freeUnits_launches : (s.freeUnits g p).launches = s.launches := (congrArg State.launches (s.freeUnits_rest g p) :)

theorem State.freeUnits_matOps (c : Nat) : ((s.freeUnits g p).core c).matOps = (s.core c).matOps := by
  rw [State.freeUnits_eq]
  exact (State.coresChanged (f := s.unitsFreed g p) (fun _ _ => rfl) _ s).2 c

theorem State.freeUnits_waves {w : Wave} (h : w ∈ (s.freeUnits g p).waves) : w ∈ s.waves ∧ ∀ b ∈ s.blocksOf g, p b = true → w.blk ≠ b.id := by
  rw [State.freeUnits_eq] at h
  obtain ⟨hw, hn⟩ := List.mem_filter.mp h
  rw [show (s.coresFreed g p).waves = s.waves from (congrArg State.waves (s.coresFreed_rest g p) :)] at hw
  refine ⟨hw, fun b hb hp e => ?_⟩
  rw [Bool.not_eq_true', State.frees, List.any_eq_false] at hn
  exact hn b (List.mem_filter.mpr ⟨hb, hp⟩) (beq_iff_eq.mpr e.symm)

end

/-- A block as it stands, or away from its core. -/
def Block.Moved (b b' : Block) : Prop := b' = b ∨ ∃ e, b' = { b with core := 192, away := some e }

theorem Block.Moved.same {b b' : Block} (h : b.Moved b') : b'.id = b.id ∧ b'.gang = b.gang ∧ b'.ended = b.ended ∧ b'.queues = b.queues := by
  rcases h with rfl | ⟨e, rfl⟩ <;> exact ⟨rfl, rfl, rfl, rfl⟩

/-- Which blocks of a gang a core's save takes. -/
def takes (c : Nat) (b : Block) : Bool := b.core == c && !b.ended
/-- A core of a gang published, with what its blocks hold there freed. -/
def State.coreLeft (s : State) (g : Gang) (c : Nat) : State := (s.publish c g.id 3 true).freeUnits g.id (takes c)
/-- The sections of the blocks that a core's save takes. -/
def State.sections (s : State) (g : Gang) (c : Nat) : List SavedBlock :=
  (((s.publish c g.id 3 true).blocksOf g.id).filter (takes c)).map (s.publish c g.id 3 true).savedBlock
/-- The image that a gang's saved cores have so far. -/
def State.imageSoFar (s : State) (g : Gang) (halt : Bool) (c : Nat) : Image :=
  (look (s.publish c g.id 3 true).images g.id).getD ((s.publish c g.id 3 true).image g halt [])
/-- Where a block stands after one more core is saved. -/
def State.movedBlock (t : State) (g c : Nat) (b : Block) : Block :=
  if b.gang == g && takes c b then { b with core := 192, away := some ((t.publish c g 3 true).placeOf b) } else b

theorem State.saveCore_eq (s : State) (g : Gang) (halt : Bool) (c : Nat) : s.saveCore g halt c = { s.coreLeft g c with
    images := insertAt (s.coreLeft g c).images g.id { s.imageSoFar g halt c with blocks := (s.imageSoFar g halt c).blocks ++ s.sections g c }
    blocks := (s.coreLeft g c).blocks.map (fun b => if b.2.gang == g.id && takes c b.2 then
      (b.1, { b.2 with core := 192, away := some ((s.publish c g.id 3 true).placeOf b.2) }) else b) } := rfl

section
variable (s : State) (g : Gang) (halt : Bool) (c : Nat)

theorem State.saveCore_image : ∃ m, look (s.saveCore g halt c).images g.id = some m ∧
    m.blocks = ((look s.images g.id).map (fun m => m.blocks)).getD [] ++ s.sections g c := by
  have hp := OnlyPlaces.publish s c g.id 3 true
  rw [State.saveCore_eq]
  dsimp only
  rw [look_insertAt_same]
  refine ⟨_, rfl, ?_⟩
  refine congrArg (· ++ _) ?_
  rw [State.imageSoFar, hp.images]
  cases look s.images g.id <;> rfl

theorem State.saveCore_waves {w : Wave} (h : w ∈ (s.saveCore g halt c).waves) :
    w ∈ s.waves ∧ ∀ b ∈ s.blocksOf g.id, b.core = c → b.ended = false → w.blk ≠ b.id := by
  have hp := OnlyPlaces.publish s c g.id 3 true
  rw [State.saveCore_eq] at h
  dsimp only at h
  rw [State.coreLeft] at h
  obtain ⟨hw, hn⟩ := State.freeUnits_waves (s.publish c g.id 3 true) g.id (takes c) h
  refine ⟨(congrArg (w ∈ ·) hp.waves).mp hw, fun b hb hc he => hn b ((congrArg (b ∈ ·) (hp.blocksOf _)).mpr hb) ?_⟩
  rw [takes, hc, he, beq_self_eq_true]
  rfl

theorem State.saveCore_blocks : (s.saveCore g halt c).blocks = s.blocks.map (fun p => (p.1, s.movedBlock g.id c p.2)) := by
  rw [State.saveCore_eq]
  dsimp only
  rw [State.coreLeft, State.freeUnits_blocks, (OnlyPlaces.publish s c g.id 3 true).blocks]
  refine List.map_congr_left (fun p _ => ?_)
  rw [State.movedBlock]
  split <;> rfl

theorem State.saveCore_gangs : (s.saveCore g halt c).gangs = (s.publish c g.id 3 true).gangs := by
  rw [State.saveCore_eq]
  dsimp only
  rw [State.coreLeft, State.freeUnits_gangs]

theorem State.saveCore_launches : (s.saveCore g halt c).launches = s.launches := by
  rw [State.saveCore_eq]
  dsimp only
  rw [State.coreLeft, State.freeUnits_launches, (OnlyPlaces.publish s c g.id 3 true).launches]

theorem State.saveCore_matOps (x : Nat) : ((s.saveCore g halt c).core x).matOps = (s.core x).matOps := by
  have e : (s.saveCore g halt c).core x = (s.coreLeft g c).core x := by
    rw [State.saveCore_eq, State.core, State.core]
  rw [e, State.coreLeft, State.freeUnits_matOps, (OnlyPlaces.publish s c g.id 3 true).matOps]

end

theorem State.movedBlock_away {t : State} {k c : Nat} {b : Block} (hg : b.gang = k) (hc : b.core = c) (he : b.ended = false) :
    (t.movedBlock k c b).away.isSome = true := by
  unfold State.movedBlock takes
  rw [hg, hc, he, beq_self_eq_true, beq_self_eq_true]
  rfl

theorem State.movedBlock_keeps {t : State} {k c : Nat} {b : Block} (h : b.away.isSome = true) : (t.movedBlock k c b).away.isSome = true := by
  unfold State.movedBlock
  split
  · rfl
  · exact h

theorem State.movedBlock_other {t : State} {k c : Nat} {b : Block} (h : b.core ≠ c) : t.movedBlock k c b = b := by
  unfold State.movedBlock takes
  rw [beq_eq_false_iff_ne.mpr h, Bool.false_and, Bool.and_false, if_neg Bool.false_ne_true]

theorem Block.Moved.again {b b' : Block} (h : b.Moved b') (t : State) (k c : Nat) : b.Moved (t.movedBlock k c b') := by
  unfold State.movedBlock
  split
  · rcases h with rfl | ⟨e, rfl⟩
    · exact .inr ⟨_, rfl⟩
    · exact .inr ⟨_, rfl⟩
  · exact h

/-- A gang while its cores are saved one after another: `μ` says where its blocks are now, `cs` which cores have been saved. -/
structure Saving (s : State) (g : Gang) (cs : List Nat) (t : State) (μ : Block → Block) : Prop where
  blocks : t.blocks = s.blocks.map (fun p => (p.1, μ p.2))
  moved : ∀ b : Block, b.Moved (μ b)
  gone : ∀ b ∈ s.blocksOf g.id, b.ended = false → b.core ∈ cs ∨ μ b ≠ b → (μ b).away.isSome = true ∧ (∀ w ∈ t.waves, w.blk ≠ b.id) ∧
    ∃ m, look t.images g.id = some m ∧ ∃ x ∈ m.blocks, x.block.id = b.id
  gang : ∃ g', t.gang? g.id = some g' ∧ SameGang g g'
  launches : t.launches = s.launches
  mats : ∀ c, (t.core c).matOps = (s.core c).matOps
  rising : risingFrom 0 s.gangs = true → risingFrom 0 t.gangs = true

theorem Saving.start {s : State} {g : Gang} (h : s.gang? g.id = some g) : Saving s g [] s id where
  blocks := (List.map_id _).symm
  moved := fun _ => .inl rfl
  gone := fun _ _ _ h => (h.elim (fun hm => absurd hm List.not_mem_nil) (fun hn => absurd rfl hn))
  gang := ⟨g, h, rfl⟩
  launches := rfl
  mats := fun _ => rfl
  rising := id

section
variable {s t : State} {g : Gang} {cs : List Nat} {μ : Block → Block} (h : Saving s g cs t μ)
include h

theorem Saving.blocksOf : t.blocksOf g.id = (s.blocksOf g.id).map μ := by
  rw [State.blocksOf, h.blocks, List.map_map, State.blocksOf]
  rw [show ((fun x : Nat × Block => x.2) ∘ fun p : Nat × Block => (p.1, μ p.2)) = μ ∘ (fun x => x.2) from rfl, ← List.map_map, List.filter_map]
  refine congrArg (List.map μ) (List.filter_congr (fun b _ => ?_))
  rw [Function.comp, (h.moved b).same.2.1]

/-- One more core saved. -/
theorem Saving.core {g' : Gang} (hg : t.gang? g.id = some g') (halt : Bool) (c : Nat) :
    Saving s g (c :: cs) (t.saveCore g' halt c) (fun b => t.movedBlock g'.id c (μ b)) := by
  obtain ⟨g0, hg0, hsame⟩ := h.gang
  obtain rfl : g' = g0 := Option.some.inj (hg.symm.trans hg0)
  have hid : g'.id = g.id := (congrArg Gang.id hsame :)
  refine ⟨?_, fun b => (h.moved b).again .., fun b hb he hc => ?_, ?_, ?_, fun x => ?_, fun hr => ?_⟩
  · rw [State.saveCore_blocks, h.blocks, List.map_map]
    rfl
  · have hbs : μ b ∈ t.blocksOf g'.id := by
      rw [hid, h.blocksOf]
      exact List.mem_map_of_mem hb
    obtain ⟨hsid, hsg, hse, -⟩ := (h.moved b).same
    have hgang : (μ b).gang = g'.id := beq_iff_eq.mp (List.mem_filter.mp hbs).2
    obtain ⟨m, hm, hmb⟩ := State.saveCore_image t g' halt c
    rw [← hid]
    by_cases hcore : (μ b).core = c
    · refine ⟨State.movedBlock_away hgang hcore (hse.trans he), fun w hw => ?_, m, hm, (t.publish c g'.id 3 true).savedBlock (μ b), ?_, hsid⟩
      · exact hsid ▸ (State.saveCore_waves _ _ _ _ hw).2 (μ b) hbs hcore (hse.trans he)
      · rw [hmb, State.sections]
        refine List.mem_append_right _ (List.mem_map_of_mem (List.mem_filter.mpr ⟨?_, ?_⟩))
        · rw [(OnlyPlaces.publish t c g'.id 3 true).blocksOf]
          exact hbs
        · rw [takes, hcore, hse, he, beq_self_eq_true]
          rfl
    · have hold : b.core ∈ cs ∨ μ b ≠ b := by
        rcases hc with hc | hc
        · rcases List.mem_cons.mp hc with hc | hc
          · exact .inr (fun e => hcore (e.symm ▸ hc))
          · exact .inl hc
        · exact .inr (fun e => hc ((State.movedBlock_other hcore).trans e))
      obtain ⟨haway, hnone, m0, hm0, x, hx, hxb⟩ := h.gone b hb he hold
      refine ⟨State.movedBlock_keeps haway, fun w hw => hnone w (State.saveCore_waves _ _ _ _ hw).1, m, hm, x, ?_, hxb⟩
      rw [hmb, hid, hm0]
      exact List.mem_append_left _ hx
  · obtain ⟨g1, hg1, e1⟩ := (OnlyPlaces.publish t c g'.id 3 true).gang g.id g' hg
    refine ⟨g1, ?_, hsame.trans e1⟩
    rw [State.gang?, State.saveCore_gangs]
    exact hg1
  · rw [State.saveCore_launches, h.launches]
  · rw [State.saveCore_matOps, h.mats]
  · rw [State.saveCore_gangs]
    exact (OnlyPlaces.publish t c g'.id 3 true).rising (h.rising hr)

end

/-! ## The whole save -/

/-- A core saved for the gang as it stands. -/
def State.saveStep (k : Nat) (g : Gang) (halt : Bool) (t : State) (c : Nat) : State := t.saveCore ((t.gang? k).getD g) halt c

theorem Saving.cores {s : State} {g : Gang} (halt : Bool) (l : List Nat) : ∀ {t : State} {cs : List Nat} {μ : Block → Block}, Saving s g cs t μ →
    ∃ cs' μ', Saving s g cs' (l.foldl (State.saveStep g.id g halt) t) μ' ∧ (∀ c ∈ l, c ∈ cs') ∧ ∀ c ∈ cs, c ∈ cs' := by
  induction l with
  | nil => exact fun {t cs μ} h => ⟨cs, μ, h, fun _ hc => absurd hc List.not_mem_nil, fun _ => id⟩
  | cons x rest ih =>
    intro t cs μ h
    obtain ⟨g', hg', -⟩ := h.gang
    have hstep : State.saveStep g.id g halt t x = t.saveCore g' halt x := by rw [State.saveStep, hg', Option.getD_some]
    obtain ⟨cs', μ', h', hin, hold⟩ := ih (h.core hg' halt x)
    refine ⟨cs', μ', by rw [List.foldl_cons, hstep]; exact h', fun c hc => ?_, fun c hc => hold c (List.mem_cons_of_mem _ hc)⟩
    rcases List.mem_cons.mp hc with rfl | hc
    · exact hold c List.mem_cons_self
    · exact hin c hc

/-- A gang whose last core is saved, what its ended blocks' cores hold published. -/
def State.endsPublished (s : State) (g : Gang) : State :=
  ((((s.blocksOf g.id).filter (fun b => b.ended)).map (fun b => b.core)).eraseDups).foldl (fun t c => t.publish c g.id 3 true) s

theorem State.endsPublished_places (s : State) (g : Gang) : OnlyPlaces s (s.endsPublished g) :=
  OnlyPlaces.foldl (fun t c => OnlyPlaces.publish t c g.id 3 true) _ s

/-- The section that an image has of a block. -/
def sectionOf (parts : List SavedBlock) (b : Block) : Option SavedBlock :=
  (parts.find? (fun x => x.block.id == b.id)).map (fun x => { x with block := b.saved })

/-- The image of a gang whose every core is saved. -/
def State.completeImage (s : State) (g : Gang) (halt : Bool) : Image :=
  s.image ((s.gang? g.id).getD g) halt (((s.blocksOf g.id).filter (fun b => !b.ended)).filterMap (sectionOf (((look s.images g.id).map (fun m => m.blocks)).getD [])))

/-- The state with a gang's image in its place. -/
def State.imaged (s : State) (g : Gang) (halt : Bool) : State :=
  { s with
    gangs := eraseAt s.gangs g.id, images := insertAt (eraseAt s.images g.id) g.id (s.completeImage g halt)
    blocks := s.blocks.filter (fun b => b.2.gang != g.id || b.2.ended) }

theorem State.finishSave_eq (s : State) (g : Gang) (halt : Bool) (h : g.baste = false) : s.finishSave g halt = (s.endsPublished g).imaged g halt := by
  unfold State.finishSave
  rw [h, Bool.false_and, if_neg Bool.false_ne_true]
  rfl

theorem sectionOf_isSome {parts : List SavedBlock} {b : Block} (h : ∃ x ∈ parts, x.block.id = b.id) :
    ∃ x, sectionOf parts b = some x ∧ x.block.id = b.id := by
  obtain ⟨x, hx, he⟩ := h
  obtain ⟨y, hy⟩ := Option.isSome_iff_exists.mp (List.find?_isSome (p := fun x => x.block.id == b.id) |>.mpr ⟨x, hx, beq_iff_eq.mpr he⟩)
  exact ⟨{ y with block := b.saved }, by rw [sectionOf, hy, Option.map_some], rfl⟩

/-- The cores of a gang that have something to save. -/
def State.coresToSave (s : State) (k : Nat) : List Nat := (((s.blocksOf k).filter (fun b => !b.ended && b.away.isNone)).map (fun b => b.core)).eraseDups

/-- Whether a core of a gang may be saved. -/
def State.coreGoes (s : State) (k c : Nat) : Bool := s.coreRests k c && s.coreDrained k c

theorem State.mem_coresToSave {s : State} {k c : Nat} : c ∈ s.coresToSave k ↔ ∃ b ∈ s.blocksOf k, b.ended = false ∧ b.away = none ∧ b.core = c := by
  rw [State.coresToSave, List.mem_eraseDups, List.mem_map]
  simp only [List.mem_filter, Bool.and_eq_true, Bool.not_eq_true', Option.isNone_iff_eq_none, and_assoc]

section
variable {s : State} {g : Gang} (hg : s.gang? g.id = some g) (hstop : g.stop = true) (hroll : g.rolling = false)
  (hidle : ∀ v ∈ s.waves, v.lining = none ∧ ∀ u ∈ v.lanes, u.acc = [])

/-- The state with every core of a gang saved that may be. -/
def State.coresSaved (s : State) (g : Gang) : State :=
  ((s.coresToSave g.id).filter (s.coreGoes g.id)).foldl (State.saveStep g.id g (((s.launch? g.launch).map (fun l => l.halted)).getD false)) s

include hg hstop hroll hidle in
theorem contextSave_eq (hb : ∃ b ∈ s.blocksOf g.id, b.ended = false) : exec (.contextSave g.id) s = .next
    (if (s.coresSaved g).saveLeft g.id then s.coresSaved g
    else (s.coresSaved g).finishSave (((s.coresSaved g).gang? g.id).getD g) (((s.launch? g.launch).map (fun l => l.halted)).getD false)) := by
  have hacc : ∀ v ∈ s.waves, ∀ u ∈ v.lanes, u.acc = [] := fun v hv => (hidle v hv).2
  have hx : exec (.contextSave g.id) s = execContextSave g.id s := rfl
  have hall : (s.blocksOf g.id).all (fun b => b.ended) = false := by
    obtain ⟨b, hm, he⟩ := hb
    rw [List.all_eq_false]
    exact ⟨b, hm, by rw [he]; exact Bool.false_ne_true⟩
  rw [hx, execContextSave, hg]
  dsimp only
  rw [hstop, hroll, hall, if_neg (by decide), State.dropMismatches_idle hacc, State.drainWaves_idle hacc]
  rfl

include hg in
theorem coresSaved_saving : ∃ cs μ, Saving s g cs (s.coresSaved g) μ ∧ ∀ b ∈ s.blocksOf g.id, b.ended = false → b.away = none →
    s.coreGoes g.id b.core = true → b.core ∈ cs := by
  obtain ⟨cs, μ, h, hin, -⟩ := (Saving.start hg).cores (((s.launch? g.launch).map (fun l => l.halted)).getD false) ((s.coresToSave g.id).filter (s.coreGoes g.id))
  exact ⟨cs, μ, h, fun b hb he ha hgo => hin _ (List.mem_filter.mpr ⟨State.mem_coresToSave.mpr ⟨b, hb, he, ha, rfl⟩, hgo⟩)⟩

end

/-- What is found of a gang whose save is finished from a state in which all its cores have been. -/
theorem Saving.finish {s t : State} {g : Gang} {cs : List Nat} {μ : Block → Block} (h : Saving s g cs t μ) (hb : g.baste = false) (halt : Bool) :
    ∃ m g', look (t.finishSave ((t.gang? g.id).getD g) halt).images g.id = some m ∧ SameGang g g' ∧
      m = (t.endsPublished ((t.gang? g.id).getD g)).image g' halt m.blocks ∧
      m.blocks = (((s.blocksOf g.id).map μ).filter (fun b => !b.ended)).filterMap (sectionOf (((look t.images g.id).map (fun m => m.blocks)).getD [])) ∧
      (t.finishSave ((t.gang? g.id).getD g) halt).waves = t.waves ∧
      (risingFrom 0 s.gangs = true → (t.finishSave ((t.gang? g.id).getD g) halt).gang? g.id = none) := by
  obtain ⟨g1, hg1, e1⟩ := h.gang
  rw [hg1, Option.getD_some]
  have hid : g1.id = g.id := (congrArg Gang.id e1 :)
  have hp := State.endsPublished_places t g1
  obtain ⟨g2, hg2, e2⟩ := hp.gang g.id g1 hg1
  have hb1 : g1.baste = false := (congrArg Gang.baste e1 :).trans hb
  rw [State.finishSave_eq _ _ _ hb1, State.imaged]
  dsimp only
  rw [hid]
  refine ⟨_, g2, look_insertAt_same _ _ _, e1.trans e2, ?_, ?_, hp.waves, fun hr => look_eraseAt_same _ _ (hp.rising (h.rising hr))⟩
  · rw [State.completeImage, hid, hg2]
    rfl
  · rw [State.completeImage, hid, hp.images, hp.blocksOf, h.blocksOf]
    rfl

theorem contextSave_next (s : State) (k : Nat) (g : Gang) (hg : s.gang? k = some g) (hk : g.id = k) (hstop : g.stop = true) (hroll : g.rolling = false)
    (hidle : ∀ v ∈ s.waves, v.lining = none ∧ ∀ u ∈ v.lanes, u.acc = []) :
    let unsaved := fun (b : Block) => b ∈ s.blocksOf k ∧ b.ended = false ∧ b.away = none
    let goes := fun (c : Nat) => s.coreRests k c = true ∧ s.coreDrained k c = true
    ((∃ b, unsaved b) → (∀ b, unsaved b → ¬goes b.core) → exec (.contextSave k) s = .next s) ∧
    (∀ b, unsaved b → goes b.core → g.baste = false → ∃ s' m, exec (.contextSave k) s = .next s' ∧ look s'.images k = some m ∧
      (∃ x ∈ m.blocks, x.block.id = b.id) ∧ ∀ w ∈ s'.waves, w.blk ≠ b.id) ∧
    ((∃ b, unsaved b) → (∀ b ∈ s.blocksOf k, (b.ended = false → unsaved b ∧ goes b.core) ∧ b.queues.all List.isEmpty = true ∧
        ∀ c, ∀ o ∈ (s.core c).matOps, o.blk ≠ b.id) → g.baste = false → risingFrom 0 s.gangs = true →
      ∃ s' m, exec (.contextSave k) s = .next s' ∧ look s'.images k = some m ∧ m.gang.launch = g.launch ∧ m.gang.index = g.index ∧
        m.gang.args = g.args ∧ m.hard = g.hard ∧ m.halt = ((s.launch? g.launch).map (fun l => l.halted)).getD false ∧
        m.blocks.length = ((s.blocksOf k).filter (fun b => !b.ended)).length ∧ s'.gang? k = none ∧
        ∀ b ∈ s.blocksOf k, b.ended = false → ∀ w ∈ s'.waves, w.blk ≠ b.id) := by
  intro unsaved goes
  subst hk
  have hgo : ∀ c, goes c ↔ s.coreGoes g.id c = true := fun c => by rw [State.coreGoes, Bool.and_eq_true]
  refine ⟨fun ⟨b, hb⟩ hnone => ?_, fun b hb hc hbaste => ?_, fun ⟨b0, hb0⟩ hall hbaste hr => ?_⟩
  · obtain ⟨hm, he, ha⟩ := hb
    rw [contextSave_eq hg hstop hroll hidle ⟨b, hm, he⟩]
    have hcs : s.coresSaved g = s := by
      have hnil : (s.coresToSave g.id).filter (s.coreGoes g.id) = [] := by
        refine List.filter_eq_nil_iff.mpr (fun c hc => ?_)
        obtain ⟨b', hb', he', ha', rfl⟩ := State.mem_coresToSave.mp hc
        exact fun h => hnone b' ⟨hb', he', ha'⟩ ((hgo _).mpr h)
      rw [State.coresSaved, hnil]
      rfl
    have hleft : s.saveLeft g.id = true := by
      refine List.any_eq_true.mpr ⟨b, hm, ?_⟩
      rw [he, ha]
      rfl
    rw [hcs, if_pos hleft]
  · obtain ⟨hm, he, ha⟩ := hb
    obtain ⟨cs, μ, hs, hin⟩ := coresSaved_saving hg
    obtain ⟨haway, hnone, m, hlook, hx⟩ := hs.gone b hm he (.inl (hin b hm he ha ((hgo _).mp hc)))
    obtain ⟨hsid, -, hse, -⟩ := (hs.moved b).same
    rw [contextSave_eq hg hstop hroll hidle ⟨b, hm, he⟩]
    split
    · exact ⟨_, m, rfl, hlook, hx, hnone⟩
    · obtain ⟨m', g', hlook', -, -, hmb, hw, -⟩ := hs.finish hbaste (((s.launch? g.launch).map (fun l => l.halted)).getD false)
      refine ⟨_, m', rfl, hlook', ?_, fun w h => hnone w (hw ▸ h)⟩
      obtain ⟨x, hxs, hxb⟩ := sectionOf_isSome (parts := m.blocks) (b := μ b) (hsid ▸ hx)
      refine ⟨x, ?_, hxb.trans hsid⟩
      rw [hmb, hlook]
      refine List.mem_filterMap.mpr ⟨μ b, List.mem_filter.mpr ⟨List.mem_map_of_mem hm, ?_⟩, hxs⟩
      rw [hse, he]
      rfl
  · obtain ⟨hm0, he0, ha0⟩ := hb0
    obtain ⟨cs, μ, hs, hin⟩ := coresSaved_saving hg
    have hgone : ∀ b ∈ s.blocksOf g.id, b.ended = false → (μ b).away.isSome = true ∧ (∀ w ∈ (s.coresSaved g).waves, w.blk ≠ b.id) ∧
        ∃ m, look (s.coresSaved g).images g.id = some m ∧ ∃ x ∈ m.blocks, x.block.id = b.id := by
      intro b hm he
      obtain ⟨⟨-, -, ha⟩, hc⟩ := (hall b hm).1 he
      exact hs.gone b hm he (.inl (hin b hm he ha ((hgo _).mp hc)))
    have hleft : (s.coresSaved g).saveLeft g.id = false := by
      rw [State.saveLeft, hs.blocksOf, List.any_map, List.any_eq_false]
      intro b hm hb
      obtain ⟨hsid, -, hse, hsq⟩ := (hs.moved b).same
      obtain ⟨hend, hq, hmat⟩ := hall b hm
      rw [Function.comp, hse, hsq, hq, hs.mats, hsid, Bool.or_eq_true, Bool.or_eq_true] at hb
      rcases hb with (hb | hb) | hb
      · rw [Bool.and_eq_true, Bool.not_eq_true'] at hb
        have := (hgone b hm hb.1).1
        rw [Option.isSome_iff_ne_none] at this
        exact this (Option.isNone_iff_eq_none.mp hb.2)
      · exact absurd hb (by decide)
      · obtain ⟨o, ho, e⟩ := List.any_eq_true.mp hb
        exact hmat _ o ho (beq_iff_eq.mp e)
    rw [contextSave_eq hg hstop hroll hidle ⟨b0, hm0, he0⟩, hleft, if_neg Bool.false_ne_true]
    obtain ⟨m, g', hlook, hsame, hm, hmb, hw, hnone⟩ := hs.finish hbaste (((s.launch? g.launch).map (fun l => l.halted)).getD false)
    refine ⟨_, m, rfl, hlook, ?_, ?_, ?_, ?_, ?_, ?_, hnone hr, fun b hb he w h => (hgone b hb he).2.1 w (hw ▸ h)⟩
    · rw [hm]
      exact (congrArg Gang.launch hsame :)
    · rw [hm]
      exact (congrArg Gang.index hsame :)
    · rw [hm]
      exact (congrArg Gang.args hsame :)
    · rw [hm]
      exact (congrArg Gang.hard hsame :)
    · rw [hm]
      rfl
    · have hall' : ∀ b ∈ ((s.blocksOf g.id).map μ).filter (fun b => !b.ended),
          (sectionOf (((look (s.coresSaved g).images g.id).map (fun m => m.blocks)).getD []) b).isSome = true := by
        intro b' hb'
        obtain ⟨hb', hne⟩ := List.mem_filter.mp hb'
        obtain ⟨b, hb, rfl⟩ := List.mem_map.mp hb'
        obtain ⟨hsid, -, hse, -⟩ := (hs.moved b).same
        rw [hse, Bool.not_eq_true'] at hne
        obtain ⟨m1, hm1, hx⟩ := (hgone b hb hne).2.2
        obtain ⟨x, hxs, -⟩ := sectionOf_isSome (parts := m1.blocks) (b := μ b) (hsid ▸ hx)
        rw [hm1, Option.map_some, Option.getD_some, hxs]
        rfl
      rw [hmb, List.filterMap_length_eq_length.mpr hall', List.filter_map, List.length_map]
      refine congrArg List.length (List.filter_congr (fun b _ => ?_))
      rw [Function.comp, (hs.moved b).same.2.2.1]

/-! ## The resumption -/

theorem Image.found_id (s : State) (m : Image) : (Image.found s m).id = m.id ∧ (Image.found s m).gang = m.gang ∧
    (Image.found s m).blocks.length = m.blocks.length := by
  unfold Image.found
  split
  · exact ⟨rfl, rfl, rfl⟩
  · exact ⟨rfl, rfl, List.length_map ..⟩

/-- What putting blocks back on their cores leaves: the gangs and the images. -/
structure KeepsGangs (s t : State) : Prop where
  gangs : t.gangs = s.gangs
  images : t.images = s.images

theorem KeepsGangs.refl (s : State) : KeepsGangs s s := ⟨rfl, rfl⟩
theorem KeepsGangs.trans {s t u : State} (h : KeepsGangs s t) (h' : KeepsGangs t u) : KeepsGangs s u := ⟨h'.gangs.trans h.gangs, h'.images.trans h.images⟩

/-- A chain of steps each of which may refuse. -/
theorem KeepsGangs.foldl {f : Option State → Nat → Option State} (hnone : ∀ i, f none i = none) (hf : ∀ t i u, f (some t) i = some u → KeepsGangs t u)
    (l : List Nat) : ∀ (s u : State), l.foldl f (some s) = some u → KeepsGangs s u := by
  have hn : ∀ l : List Nat, l.foldl f none = none := by
    intro l
    induction l with
    | nil => rfl
    | cons i rest ih => rw [List.foldl_cons, hnone, ih]
  induction l with
  | nil => exact fun s u h => (Option.some.inj h) ▸ KeepsGangs.refl s
  | cons i rest ih =>
    intro s u h
    rw [List.foldl_cons] at h
    cases hs : f (some s) i with
    | none => rw [hs, hn] at h; exact nomatch h
    | some t => exact (hf s i t hs).trans (ih t u (hs ▸ h))

theorem State.addWave_keeps {s u : State} {w : Wave} {pn : Nat} {lined : Bool} (h : s.addWave w pn lined false = some u) : KeepsGangs s u := by
  unfold State.addWave at h
  dsimp only at h
  split at h
  next =>
    obtain ⟨-, h⟩ := Option.ite_none_left_eq_some.mp h
    rw [Bool.not_false, if_pos rfl] at h
    exact (Option.some.inj h) ▸ ⟨rfl, rfl⟩
  next => exact nomatch h

theorem State.addBlock_keeps {s u : State} {vf rot : Nat} {zero : Bool} {r : LaunchRec} {b : Block} {ws : List Wave}
    (h : s.addBlock vf zero r b rot ws false = some u) : KeepsGangs s u := by
  unfold State.addBlock at h
  split at h
  · exact nomatch h
  · refine KeepsGangs.trans (t := { s with ids := s.ids + 1, blocks := _ }) ⟨rfl, rfl⟩ (KeepsGangs.foldl (fun _ => rfl) (fun t i v hv => ?_) _ _ _ h)
    cases hw : ws[i]? with
    | none =>
      rw [hw] at hv
      exact nomatch hv
    | some w =>
      rw [hw] at hv
      exact State.addWave_keeps hv

theorem State.restoreUnits_keeps {s u : State} {x : SavedBlock} {c : Nat} (h : s.restoreUnits x c = some u) : KeepsGangs s u := by
  unfold State.restoreUnits at h
  dsimp only at h
  split at h
  · exact nomatch h
  · split at h
    · exact (Option.some.inj h) ▸ ⟨rfl, rfl⟩
    · exact (Option.some.inj h) ▸ ⟨rfl, rfl⟩

theorem State.refresh_keeps (s : State) (c : Nat) : KeepsGangs s (s.refresh c 3 true) := ⟨rfl, rfl⟩

theorem State.restoreBlock_keeps {s u : State} {l : Launch} {r : LaunchRec} {x : SavedBlock} {e : Nat} (h : s.restoreBlock l r x e = some u) :
    KeepsGangs s u := by
  unfold State.restoreBlock at h
  dsimp only at h
  split at h
  · exact nomatch h
  next s1 h1 =>
    obtain ⟨t, ht, rfl⟩ := Option.map_eq_some_iff.mp h
    exact (State.addBlock_keeps h1).trans ((State.restoreUnits_keeps ht).trans (State.refresh_keeps t _))

/-- The blocks of an image put back one after another. -/
theorem restored_keeps {s0 u : State} {l : Launch} {r : LaunchRec} {m : Image} {place : List Nat} {f : Option State → Nat → Option State}
    (hf : ∀ acc i, f acc i = match acc, m.blocks[i]?, place[i]? with
      | some t, some x, some e => t.restoreBlock l r x e
      | _, _, _ => none) {ns : List Nat} (h : ns.foldl f (some s0) = some u) : KeepsGangs s0 u := by
  refine KeepsGangs.foldl (fun i => hf none i) (fun t i v hv => ?_) _ _ _ h
  rw [hf] at hv
  cases hb : m.blocks[i]? with
  | none =>
    rw [hb] at hv
    exact nomatch hv
  | some x =>
    cases he : place[i]? with
    | none =>
      rw [hb, he] at hv
      exact nomatch hv
    | some e =>
      rw [hb, he] at hv
      exact State.restoreBlock_keeps hv

/-- A gang put back as its image has it: it runs as the image says, every image stays. -/
theorem State.resume_gang {s u : State} {m : Image} {place : List Nat} (h : s.resume m place = some u) :
    u.gang? m.id = some m.gang ∧ u.images = s.images := by
  unfold State.resume at h
  split at h
  · exact nomatch h
  next l hl =>
    dsimp only at h
    split at h
    · exact nomatch h
    · obtain ⟨t, ht, rfl⟩ := Option.map_eq_some_iff.mp h
      have hk := restored_keeps (fun acc i => rfl) ht
      refine ⟨?_, hk.images⟩
      change look t.gangs m.id = _
      rw [hk.gangs]
      exact look_insertAt_same ..

theorem State.settleHeld_keeps (s : State) : KeepsGangs s s.settleHeld := ⟨rfl, rfl⟩

theorem gangResume_next (s : State) (k : Nat) (m : Image) (l : Launch) (place : List Nat) (hm : look s.images k = some m) (hk : m.id = k)
    (hl : s.launch? m.gang.launch = some l) (hc : l.prog.lrec.cores = false) :
    (m.halt = true ∨ l.aborting ≠ none ∨ s.gang? k ≠ none → exec (.gangResume k place) s = .next s) ∧
    (m.halt = false → l.aborting = none → s.gang? k = none → (l.halted = true → ∀ p ∈ s.gangs, p.2.launch = l.id → p.2.stop = false) →
      let t := State.resume { s with images := eraseAt s.images k } (Image.found s m) (place.take m.blocks.length)
      (m.wrong = true → exec (.gangResume k place) s = .next (s.abortLaunch l.id 6 0x101#32 s.freeXpc)) ∧
      (m.wrong = false → t = none → exec (.gangResume k place) s = .next s) ∧
      (m.wrong = false → t ≠ none → risingFrom 0 s.images = true →
        ∃ s', exec (.gangResume k place) s = .next s' ∧ s'.gang? k = some m.gang ∧ look s'.images k = none)) := by
  have hx : exec (.gangResume k place) s = execGangResume k place s := rfl
  rw [hx, execGangResume, hm]
  dsimp only
  rw [hl]
  dsimp only
  rw [hc, if_neg Bool.false_ne_true, List.all_cons, List.all_nil, Bool.and_true, hk]
  subst hk
  refine ⟨fun h => ?_, fun hh ha hg hst => ?_⟩
  · have hready : (!m.halt && (s.gang? m.id).isNone && l.aborting.isNone &&
        (!(false || l.halted) || !s.gangs.any (fun g => g.2.launch == l.id && g.2.stop))) = false := by
      rcases h with h | h | h
      · rw [h]
        rfl
      · rw [Option.isNone_eq_false_iff.mpr (Option.isSome_iff_ne_none.mpr h), Bool.and_false, Bool.false_and]
      · rw [Option.isNone_eq_false_iff.mpr (Option.isSome_iff_ne_none.mpr h), Bool.and_false, Bool.false_and, Bool.false_and]
    rw [hready]
    rfl
  · have hready : (!m.halt && (s.gang? m.id).isNone && l.aborting.isNone &&
        (!(false || l.halted) || !s.gangs.any (fun g => g.2.launch == l.id && g.2.stop))) = true := by
      rw [hh, hg, ha]
      cases hlh : l.halted with
      | false => rfl
      | true =>
        have : s.gangs.any (fun g => g.2.launch == l.id && g.2.stop) = false := by
          rw [List.any_eq_false]
          intro p hp hps
          rw [Bool.and_eq_true, beq_iff_eq] at hps
          exact Bool.false_ne_true ((hst hlh p hp hps.1).symm.trans hps.2)
        rw [this]
        rfl
    obtain ⟨hfid, hfg, hflen⟩ := Image.found_id s m
    have hone : s.resumeAll ([m].map (Image.found s)) place =
        State.resume { s with images := eraseAt s.images m.id } (Image.found s m) (place.take m.blocks.length) := by
      rw [List.map_cons, List.map_nil, State.resumeAll, hfid, hflen]
      cases State.resume { s with images := eraseAt s.images m.id } (Image.found s m) (place.take m.blocks.length) <;> rfl
    rw [hready, Bool.not_true, if_neg Bool.false_ne_true, List.any_cons, List.any_nil, Bool.or_false, hone]
    clear hone
    refine ⟨fun hw => by rw [hw]; rfl, fun hw ht => by rw [hw, ht]; rfl, fun hw ht hr => ?_⟩
    obtain ⟨u, hu⟩ := Option.ne_none_iff_exists'.mp ht
    rw [hw, if_neg Bool.false_ne_true, hu]
    obtain ⟨hgang, himg⟩ := State.resume_gang hu
    rw [hfid, hfg] at hgang
    refine ⟨_, rfl, hgang, ?_⟩
    change look u.images m.id = none
    rw [himg]
    exact look_eraseAt_same _ _ hr

/-- Settles O43: the request as it names a gang; the hard stop thread by thread; the save by an invariant over the cores saved one after another; the
resumption as the place takes the gang or not. -/
theorem preemption : Obligations.Preemption :=
  ⟨preemptRequest_next, preemptHardStop_next, contextSave_next, gangResume_next⟩

end Sys2Proof.Machine
end

section
/-! PROOFS. Communicators: arriving chunks, the spool, the command ring, notices and the close (spec/24 R353, R362 to R366): O45. -/

namespace Sys2Proof.Machine
open Sys2Proof.Claims

/-! ## What the device's writes leave of the communicators -/

theorem State.onComm_look (s : State) (c m : Nat) (f : Comm → Comm) :
    look (s.onComm c f).comms m = if m = c then (look s.comms c).map f else look s.comms m := look_onKey ..

theorem State.onComm_hit {s : State} {c : Nat} {k : Comm} (h : look s.comms c = some k) (f : Comm → Comm) : look (s.onComm c f).comms c = some (f k) := by
  rw [State.onComm_look, if_pos rfl, h, Option.map_some]

theorem State.devStore_comms (s : State) (vf pa : Nat) (bs : List Byte) : (s.devStore vf pa bs).comms = s.comms := by
  have h := State.homeWriteBytes_comms none bs s pa
  unfold State.devStore
  dsimp only
  split
  · exact h
  · exact h

theorem State.devWriteLong_comms (vf fuel : Nat) : ∀ (s : State) (va : Nat) (bs : List Byte), (s.devWriteLong vf fuel va bs).comms = s.comms := by
  induction fuel with
  | zero => exact fun _ _ _ => rfl
  | succ n ih =>
    intro s va bs
    unfold State.devWriteLong
    dsimp only
    split
    · rfl
    · rw [ih]
      split
      · rfl
      · exact State.devStore_comms ..

theorem State.devWrite_comms (s : State) (vf va : Nat) (bs : List Byte) : (s.devWrite vf va bs).comms = s.comms := State.devWriteLong_comms ..

/-! ## The abort of an instance -/

/-- A communicator as the abort of an instance leaves it. -/
def Comm.withAbort (m : Comm) (i cause rank : Nat) : Comm :=
  { (m.onInst i (fun y => { y with aborted := some (cause, rank) })) with
    slots := m.slots.filter (fun p => p.2.inst != i)
    spool := m.spool.filter (fun p => p.2.inst != i)
    cmds := m.cmds.filter (fun c => c.inst? != some i)
    sent := m.sent.filter (fun p => p.2.inst != i)
    events := m.events ++ [.abort cause] }

/-- A launch that waits on an aborted instance, as it learns of it. -/
def Comm.tells (cm : Comm) (i cause : Nat) (p : Nat × Launch) : Nat × Launch :=
  match p.2.coll with
  | some c => if p.2.vf = cm.vf ∧ c.cdesc = cm.cdesc ∧ c.inst = i ∧ c.role = 2 then
      (p.1, { p.2 with waitAbort := some (abortClass cause) }) else p
  | none => p

section
variable {s : State} {k i : Nat} {cm : Comm} (hk : look s.comms k = some cm)
include hk

/-- What the abort of an instance does, where it does something. -/
theorem State.abortInstance_at {x : CollInst} (hx : cm.inst? i = some x) (ho : x.over_ = false) (cause rank : Nat) :
    (s.abortInstance k i cause rank).comms = (s.onComm k (fun m => m.withAbort i cause rank)).comms ∧
    (s.abortInstance k i cause rank).launches = s.launches.map (cm.tells i cause) := by
  unfold State.abortInstance
  rw [hk]
  dsimp only
  rw [hx]
  dsimp only
  rw [ho, if_neg Bool.false_ne_true]
  dsimp only
  rw [State.devWrite_comms, (OnlyMemory.devWrite _ _ _ _).launches]
  split
  · rw [State.homeWriteBytes_comms, (OnlyMemory.homeWriteBytes none _ _ _).launches]
    exact ⟨rfl, rfl⟩
  · exact ⟨rfl, rfl⟩

theorem State.abortInstance_look (cause rank : Nat) : ∃ cm', look (s.abortInstance k i cause rank).comms k = some cm' := by
  cases hx : cm.inst? i with
  | none =>
    refine ⟨cm, ?_⟩
    rw [State.abortInstance, hk]
    dsimp only
    rw [hx, hk]
  | some x =>
    cases ho : x.over_ with
    | true =>
      refine ⟨cm, ?_⟩
      rw [State.abortInstance, hk]
      dsimp only
      rw [hx]
      dsimp only
      rw [ho, if_pos rfl, hk]
    | false =>
      rw [(State.abortInstance_at hk hx ho cause rank).1]
      exact ⟨_, State.onComm_hit hk _⟩

theorem State.abortOrKeep_look (cause rank : Nat) : ∃ cm', look (s.abortOrKeep k i cause rank).comms k = some cm' := by
  unfold State.abortOrKeep
  rw [hk]
  dsimp only
  split
  · exact State.abortInstance_look hk cause rank
  · split
    · exact ⟨cm, hk⟩
    · exact ⟨_, State.onComm_hit hk _⟩

/-- A spool that fails holds nothing of its instance. -/
theorem State.spoolFails_look : ∃ k', look (s.spoolFails k i cm).comms k = some k' ∧ ∀ p ∈ k'.spool, p.2.inst ≠ i := by
  obtain ⟨cm', h⟩ := State.abortOrKeep_look (i := i) hk 4 cm.rank
  refine ⟨_, State.onComm_hit h _, fun p hp => ?_⟩
  exact bne_iff_ne.mp (List.mem_filter.mp hp).2

end

/-! ## Arrivals -/

/-- A chunk that a communicator does not drop (R363, R382). -/
def State.keepsChunk (s : State) (k : Comm) (inst rank n : Nat) : Prop :=
  ¬((∀ x ∈ k.instances, x.inst = inst → x.over_ = true) ∧ s.tooLate k inst = true) ∧ rank < k.nrank ∧ rank ≠ k.rank ∧
    s.peerState (k.peers.getD rank 0) ≠ 1 ∧ n ≤ k.slotb

theorem allOver_iff (l : List CollInst) (inst : Nat) :
    l.all (fun x => x.inst != inst || x.over_) = true ↔ ∀ x ∈ l, x.inst = inst → x.over_ = true := by
  rw [List.all_eq_true]
  refine forall_congr' (fun x => forall_congr' (fun _ => ?_))
  rw [Bool.or_eq_true, bne_iff_ne, ne_eq, ← Decidable.imp_iff_not_or]

theorem State.dropsChunk_iff (s : State) (k : Comm) (inst rank n : Nat) :
    (k.instances.all (fun x => x.inst != inst || x.over_) && s.tooLate k inst || decide (k.nrank ≤ rank) || rank == k.rank ||
      s.peerState (k.peers.getD rank 0) == 1 || decide (k.slotb < n)) = true ↔ ¬s.keepsChunk k inst rank n := by
  rw [Bool.or_eq_true, Bool.or_eq_true, Bool.or_eq_true, Bool.or_eq_true, Bool.and_eq_true, allOver_iff, decide_eq_true_iff, decide_eq_true_iff,
    beq_iff_eq, beq_iff_eq, State.keepsChunk]
  simp only [not_and_or, not_not, not_lt, not_le, ne_eq, or_assoc]
  rw [← not_and_or, not_not]

section
variable {s : State} {cm : Nat} {k : Comm} (hk : look s.comms cm = some k) {inst rank chunk : Nat} {data : List Byte}
include hk

theorem chunkArrive_dropped (h : ¬s.keepsChunk k inst rank data.length) : exec (.chunkArrive cm inst rank chunk data) s = .next s := by
  have hx : exec (.chunkArrive cm inst rank chunk data) s = execChunkArrive cm inst rank chunk data s := rfl
  rw [hx, execChunkArrive, hk]
  dsimp only
  rw [if_pos ((s.dropsChunk_iff ..).mpr h)]
  rfl

variable (h : s.keepsChunk k inst rank data.length)
include h

/-- A chunk that is kept: into a slot, or behind the spool. -/
theorem chunkArrive_kept : exec (.chunkArrive cm inst rank chunk data) s = .next (
    match if k.spool.isEmpty then k.freeSlot else none with
    | some i => s.onComm cm (fun m => m.land i ⟨inst, chunk, rank, data, 1⟩)
    | none =>
      match k.freePlace with
      | none => s
      | some p =>
        if s.spoolOk k p data.length then
          ((s.devWrite k.vf (k.spoolVa + p * k.slotb) data).tagSpool s.ids cm inst).onComm cm (fun m => { m with spool := m.spool ++ [(p, ⟨inst, chunk, rank, data, 1⟩)] })
        else s.spoolFails cm inst k) := by
  have hx : exec (.chunkArrive cm inst rank chunk data) s = execChunkArrive cm inst rank chunk data s := rfl
  rw [hx, execChunkArrive, hk]
  dsimp only
  rw [if_neg (fun e => (s.dropsChunk_iff ..).mp e h)]
  rfl

theorem chunkArrive_slot {i : Nat} (hs : k.spool = []) (hi : k.freeSlot = some i) : ∃ s', exec (.chunkArrive cm inst rank chunk data) s = .next s' ∧
    look s'.comms cm = some { k with slots := insertAt k.slots i ⟨inst, chunk, rank, data, 1⟩, events := k.events ++ [.arrive chunk rank i] } := by
  have hslot : (if k.spool.isEmpty then k.freeSlot else none) = some i := by
    rw [hs, ← hi]
    rfl
  rw [chunkArrive_kept hk h, hslot]
  exact ⟨_, rfl, State.onComm_hit hk _⟩

theorem chunkArrive_behind (hs : k.spool ≠ [] ∨ k.freeSlot = none) :
    (k.freePlace = none → exec (.chunkArrive cm inst rank chunk data) s = .next s) ∧
    (∀ p, k.freePlace = some p → s.spoolOk k p data.length = true → ∃ s', exec (.chunkArrive cm inst rank chunk data) s = .next s' ∧
      look s'.comms cm = some { k with spool := k.spool ++ [(p, ⟨inst, chunk, rank, data, 1⟩)] }) ∧
    (∀ p, k.freePlace = some p → s.spoolOk k p data.length = false → ∃ s' k', exec (.chunkArrive cm inst rank chunk data) s = .next s' ∧
      look s'.comms cm = some k' ∧ ∀ p ∈ k'.spool, p.2.inst ≠ inst) := by
  have hnone : (if k.spool.isEmpty then k.freeSlot else none) = none := by
    split
    next he => exact hs.resolve_left (fun hn => hn (List.isEmpty_iff.mp he))
    next => rfl
  rw [chunkArrive_kept hk h, hnone]
  dsimp only
  refine ⟨fun hp => by rw [hp], fun p hp ho => ?_, fun p hp ho => ?_⟩
  · rw [hp]
    dsimp only
    rw [if_pos ho]
    refine ⟨_, rfl, State.onComm_hit ?_ _⟩
    change look (s.devWrite k.vf (k.spoolVa + p * k.slotb) data).comms cm = some k
    rw [State.devWrite_comms, hk]
  · rw [hp]
    dsimp only
    rw [ho, if_neg Bool.false_ne_true]
    obtain ⟨k', hl, hn⟩ := State.spoolFails_look (i := inst) hk
    exact ⟨_, k', rfl, hl, hn⟩

end

/-! ## The spool read back -/

section
variable {s : State} {cm : Nat} {k : Comm} (hk : look s.comms cm = some k) {i p : Nat} {c : ChunkSlot} {rest : List (Nat × ChunkSlot)}
  (hi : k.freeSlot = some i) (hs : k.spool = (p, c) :: rest)
include hk hi hs

theorem spoolFetch_next :
    (s.spoolOk k p c.data.length = true → s.spoolFar k p c.data.length = [] → ∃ s', exec (.spoolFetch cm) s = .next s' ∧ look s'.comms cm = some { k with
      spool := rest, slots := insertAt k.slots i { c with data := s.vaBytes k.vf (k.spoolVa + p * k.slotb) c.data.length }
      events := k.events ++ [.arrive c.chunk c.rank i] }) ∧
    (s.spoolOk k p c.data.length = true → s.spoolFar k p c.data.length ≠ [] → ∃ s', exec (.spoolFetch cm) s = .next s' ∧ look s'.comms cm = some k) ∧
    (s.spoolOk k p c.data.length = false → ∃ s' k', exec (.spoolFetch cm) s = .next s' ∧ look s'.comms cm = some k' ∧
      ∀ p ∈ k'.spool, p.2.inst ≠ c.inst) := by
  have hx : exec (.spoolFetch cm) s = execSpoolFetch cm s := rfl
  rw [hx, execSpoolFetch, hk]
  dsimp only
  rw [hi, hs]
  dsimp only
  refine ⟨fun ho hf => ?_, fun ho hf => ?_, fun ho => ?_⟩
  · rw [ho, Bool.not_true, if_neg Bool.false_ne_true, hf]
    exact ⟨_, rfl, State.onComm_hit hk _⟩
  · rw [ho, Bool.not_true, if_neg Bool.false_ne_true]
    cases hfar : s.spoolFar k p c.data.length with
    | nil => exact absurd hfar hf
    | cons l ls =>
      dsimp only
      have hc : ∀ (far : List Nat) (t : State), (far.foldl (fun t l =>
          if t.requests.any (fun q => q.kind == .spool cm c.inst true && q.pa == l) then t
          else (t.sendAs (some k.vf) l 64 Issuer.device (.spool cm c.inst true) []).1) t).comms = t.comms := by
        intro far
        induction far with
        | nil => exact fun _ => rfl
        | cons x xs ih =>
          intro t
          rw [List.foldl_cons, ih]
          split <;> rfl
      refine ⟨_, rfl, ?_⟩
      rw [hc, hk]
  · rw [ho, Bool.not_false, if_pos rfl]
    obtain ⟨k', hl, hn⟩ := State.spoolFails_look (i := c.inst) hk
    exact ⟨_, k', rfl, hl, hn⟩

end

/-! ## The command ring -/

section
variable {s : State} {cm : Nat} {k : Comm} (hk : look s.comms cm = some k) {ok : Comm → Bool} {f : Nat → BobCmd}
include hk

theorem State.command_scheduled (h : s.scheduled k = true) : look (s.command cm ok f).comms cm = some k := by
  rw [State.command, State.onComm_hit hk, h, if_pos rfl]

variable (h : s.scheduled k = false)
include h

theorem State.command_refused (hno : s.current k = none ∨ ok k = false) : look (s.command cm ok f).comms cm = some { k with events := k.events ++ [.error] } := by
  rw [State.command, State.onComm_hit hk, h, if_neg Bool.false_ne_true]
  cases hc : s.current k with
  | none => rfl
  | some x =>
    dsimp only
    rw [hno.resolve_left (fun e => nomatch hc.symm.trans e), if_neg Bool.false_ne_true]

theorem State.command_taken {x : CollInst} (hx : s.current k = some x) (hok : ok k = true) :
    look (s.command cm ok f).comms cm = some { k with cmds := k.cmds ++ [f x.inst] } := by
  rw [State.command, State.onComm_hit hk, h, if_neg Bool.false_ne_true, hx]
  dsimp only
  rw [if_pos hok]

end

theorem rankSlotOk_iff {n ix nslot rank : Nat} {isSlot : Bool} :
    (decide (rank < n) && (!isSlot || decide (ix < nslot))) = true ↔ rank < n ∧ (isSlot = true → ix < nslot) := by
  cases isSlot <;> simp

section
variable {s : State} {cm : Nat} {k : Comm} (hk : look s.comms cm = some k)
include hk

theorem scheduled_commands (h : s.scheduled k = true) (isSlot : Bool) (ix rank slot chunk : Nat) :
    let becomes := fun (i : Instr) (k' : Comm) => ∃ s', exec i s = .next s' ∧ look s'.comms cm = some k'
    becomes (.bobSend cm isSlot ix rank) k ∧ becomes (.bobReduce cm slot isSlot ix) k ∧
      becomes (.bobWrite cm slot chunk) k ∧ becomes (.bobFree cm slot) k ∧ becomes (.bobDone cm chunk) k := by
  refine ⟨⟨_, rfl, State.command_scheduled hk h⟩, ⟨_, rfl, State.command_scheduled hk h⟩, ⟨_, rfl, State.command_scheduled hk h⟩, ⟨_, rfl, ?_⟩,
    ⟨_, rfl, State.command_scheduled hk h⟩⟩
  rw [State.onComm_hit hk, h, if_pos rfl]

variable (h : s.scheduled k = false)
include h

theorem bobSend_next (isSlot : Bool) (ix rank : Nat) :
    (s.current k = none ∨ k.nrank ≤ rank ∨ isSlot = true ∧ k.nslot ≤ ix → ∃ s', exec (.bobSend cm isSlot ix rank) s = .next s' ∧
      look s'.comms cm = some { k with events := k.events ++ [.error] }) ∧
    (∀ x, s.current k = some x → rank < k.nrank → (isSlot = true → ix < k.nslot) → ∃ s', exec (.bobSend cm isSlot ix rank) s = .next s' ∧
      look s'.comms cm = some { k with cmds := k.cmds ++ [.send x.inst isSlot ix rank] }) := by
  refine ⟨fun hno => ⟨_, rfl, State.command_refused hk h (hno.imp_right (fun hb => ?_))⟩,
    fun x hx hr hs => ⟨_, rfl, State.command_taken hk h hx (rankSlotOk_iff.mpr ⟨hr, hs⟩)⟩⟩
  refine Bool.eq_false_of_not_eq_true (fun e => ?_)
  obtain ⟨hr, hs⟩ := rankSlotOk_iff.mp e
  rcases hb with hb | ⟨hi, hb⟩
  · exact absurd hr (Nat.not_lt.mpr hb)
  · exact absurd (hs hi) (Nat.not_lt.mpr hb)

theorem bobReduce_next (slot : Nat) (isSlot : Bool) (ix : Nat) :
    (s.current k = none ∨ k.nslot ≤ slot ∨ isSlot = true ∧ k.nslot ≤ ix → ∃ s', exec (.bobReduce cm slot isSlot ix) s = .next s' ∧
      look s'.comms cm = some { k with events := k.events ++ [.error] }) ∧
    (∀ x, s.current k = some x → slot < k.nslot → (isSlot = true → ix < k.nslot) → ∃ s', exec (.bobReduce cm slot isSlot ix) s = .next s' ∧
      look s'.comms cm = some { k with cmds := k.cmds ++ [.reduce x.inst slot isSlot ix] }) := by
  refine ⟨fun hno => ⟨_, rfl, State.command_refused hk h (hno.imp_right (fun hb => ?_))⟩,
    fun x hx hr hs => ⟨_, rfl, State.command_taken hk h hx (rankSlotOk_iff.mpr ⟨hr, hs⟩)⟩⟩
  refine Bool.eq_false_of_not_eq_true (fun e => ?_)
  obtain ⟨hr, hs⟩ := rankSlotOk_iff.mp e
  rcases hb with hb | ⟨hi, hb⟩
  · exact absurd hr (Nat.not_lt.mpr hb)
  · exact absurd (hs hi) (Nat.not_lt.mpr hb)

theorem bobWrite_next (slot chunk : Nat) :
    (s.current k = none ∨ k.nslot ≤ slot → ∃ s', exec (.bobWrite cm slot chunk) s = .next s' ∧
      look s'.comms cm = some { k with events := k.events ++ [.error] }) ∧
    (∀ x, s.current k = some x → slot < k.nslot → ∃ s', exec (.bobWrite cm slot chunk) s = .next s' ∧
      look s'.comms cm = some { k with cmds := k.cmds ++ [.write x.inst slot chunk] }) :=
  ⟨fun hno => ⟨_, rfl, State.command_refused hk h (hno.imp_right (fun hb => decide_eq_false (Nat.not_lt.mpr hb)))⟩,
    fun x hx hs => ⟨_, rfl, State.command_taken hk h hx (decide_eq_true hs)⟩⟩

theorem bobFree_next (slot : Nat) :
    (k.nslot ≤ slot → ∃ s', exec (.bobFree cm slot) s = .next s' ∧ look s'.comms cm = some { k with events := k.events ++ [.error] }) ∧
    (slot < k.nslot → ∃ s', exec (.bobFree cm slot) s = .next s' ∧ look s'.comms cm = some { k with cmds := k.cmds ++ [.free slot] }) := by
  refine ⟨fun hs => ⟨_, rfl, ?_⟩, fun hs => ⟨_, rfl, ?_⟩⟩
  · rw [State.onComm_hit hk, h, if_neg Bool.false_ne_true, if_neg (Nat.not_lt.mpr hs)]
  · rw [State.onComm_hit hk, h, if_neg Bool.false_ne_true, if_pos hs]

theorem bobDone_next (chunk : Nat) :
    (s.current k = none → ∃ s', exec (.bobDone cm chunk) s = .next s' ∧ look s'.comms cm = some { k with events := k.events ++ [.error] }) ∧
    (∀ x, s.current k = some x → ∃ s', exec (.bobDone cm chunk) s = .next s' ∧
      look s'.comms cm = some { k with cmds := k.cmds ++ [.done x.inst chunk] }) :=
  ⟨fun hno => ⟨_, rfl, State.command_refused hk h (.inl hno)⟩, fun x hx => ⟨_, rfl, State.command_taken hk h hx rfl⟩⟩

end

/-! ## Notices of partners -/

theorem abortNotice_early {s : State} {commid : Nat} (inst rank : Nat) (hf : s.comms.find? (fun p => p.2.commid == commid) = none) :
    (1024 ≤ rank → exec (.partnerAbortNotice commid inst rank) s = .next s) ∧
    (rank < 1024 → exec (.partnerAbortNotice commid inst rank) s =
      .next { s with early := (commid, inst, rank) :: s.early.filter (fun n => n.1 != commid || n.2.1 != inst) }) := by
  have hx : exec (.partnerAbortNotice commid inst rank) s = execPartnerAbortNotice commid inst rank s := rfl
  rw [hx, execPartnerAbortNotice, hf]
  dsimp only
  exact ⟨fun hr => by rw [if_neg (Nat.not_lt.mpr hr)]; rfl, fun hr => by rw [if_pos hr]; rfl⟩

section
variable {s : State} {cm : Nat} {k : Comm} (hk : look s.comms cm = some k)
include hk

theorem abortNotice_next (inst rank : Nat) (hf : s.comms.find? (fun p => p.2.commid == k.commid) = some (cm, k)) :
    (k.nrank ≤ rank → exec (.partnerAbortNotice k.commid inst rank) s = .next s) ∧
    (rank < k.nrank → (∀ x ∈ k.instances, x.inst = inst → x.active = false) →
      ((∀ x ∈ k.instances, x.inst = inst → x.over_ = true) → s.tooLate k inst = true → exec (.partnerAbortNotice k.commid inst rank) s = .next s) ∧
      ((∃ x ∈ k.instances, x.inst = inst ∧ x.over_ = false) ∨ s.tooLate k inst = false →
        ∃ s', exec (.partnerAbortNotice k.commid inst rank) s = .next s' ∧
          look s'.comms cm = some { k with notices := (inst, 1, rank) :: k.notices.filter (fun n => n.1 != inst) })) := by
  have hx : exec (.partnerAbortNotice k.commid inst rank) s = execPartnerAbortNotice k.commid inst rank s := rfl
  rw [hx, execPartnerAbortNotice, hf]
  dsimp only
  refine ⟨fun hr => by rw [if_neg (Nat.not_lt.mpr hr)]; rfl, fun hr hin => ?_⟩
  have hany : k.instances.any (fun x => x.inst == inst && x.active) = false := by
    rw [List.any_eq_false]
    intro x hm e
    rw [Bool.and_eq_true, beq_iff_eq] at e
    exact Bool.false_ne_true ((hin x hm e.1).symm.trans e.2)
  rw [if_pos hr, State.abortOrKeep, hk]
  dsimp only
  rw [hany, if_neg Bool.false_ne_true]
  refine ⟨fun hover hlate => ?_, fun hon => ?_⟩
  · rw [(allOver_iff _ _).mpr hover, hlate]
    rfl
  · rw [if_neg]
    · exact ⟨_, rfl, State.onComm_hit hk _⟩
    · rw [Bool.and_eq_true, allOver_iff]
      rintro ⟨hover, hlate⟩
      rcases hon with ⟨x, hm, hi, ho⟩ | hon
      · exact Bool.false_ne_true (ho.symm.trans (hover x hm hi))
      · exact Bool.false_ne_true (hon.symm.trans hlate)

/-! ## The close -/

omit hk in
theorem State.homeNat_withComms (t : State) (cs : List (Nat × Comm)) : ({ t with comms := cs } : State).homeNat = t.homeNat := rfl

omit hk in
theorem State.mayClose_iff : s.mayClose k = true ↔ (s.homeNat (k.pa + 28) 4).testBit 0 = false ∧
    ¬((∃ x ∈ k.instances, x.aborted = none ∧ x.complete = false) ∨
      ∃ l ∈ s.launches, l.2.vf = k.vf ∧ l.2.status ≤ 1 ∧ ∃ c, l.2.coll = some c ∧ c.cdesc = k.cdesc) := by
  have hinst : k.instances.all CollInst.over_ = true ↔ ¬∃ x ∈ k.instances, x.aborted = none ∧ x.complete = false := by
    rw [List.all_eq_true, not_exists]
    refine forall_congr' (fun x => ?_)
    rw [not_and]
    refine forall_congr' (fun _ => ?_)
    rw [CollInst.over_, Bool.or_eq_true, Option.isSome_iff_ne_none, not_and, Bool.not_eq_false, ne_eq, Decidable.or_iff_not_imp_left, not_not]
  have hcoll : ∀ l : Launch, (l.coll.map (fun c => c.cdesc == k.cdesc)).getD false = true ↔ ∃ c, l.coll = some c ∧ c.cdesc = k.cdesc := by
    intro l
    cases l.coll <;> simp
  have hlaunch : s.launches.all (fun l => !(l.2.vf == k.vf && decide (l.2.status ≤ 1) && ((l.2.coll.map (fun c => c.cdesc == k.cdesc)).getD false))) = true ↔
      ¬∃ l ∈ s.launches, l.2.vf = k.vf ∧ l.2.status ≤ 1 ∧ ∃ c, l.2.coll = some c ∧ c.cdesc = k.cdesc := by
    rw [List.all_eq_true, not_exists]
    refine forall_congr' (fun l => ?_)
    rw [not_and]
    refine forall_congr' (fun _ => ?_)
    rw [Bool.not_eq_true', ← Bool.not_eq_true, Bool.and_eq_true, Bool.and_eq_true, beq_iff_eq, decide_eq_true_iff, hcoll, and_assoc]
  rw [State.mayClose, Bool.and_eq_true, Bool.and_eq_true, hinst, hlaunch, Bool.not_eq_true', not_or, and_assoc]

theorem enClear_next :
    let ctrl := s.homeNat (k.pa + 28) 4
    let busy := (∃ x ∈ k.instances, x.aborted = none ∧ x.complete = false) ∨
      ∃ l ∈ s.launches, l.2.vf = k.vf ∧ l.2.status ≤ 1 ∧ ∃ c, l.2.coll = some c ∧ c.cdesc = k.cdesc
    (ctrl.testBit 0 = true ∨ busy → exec (.communicatorEnClear cm) s = .next s) ∧
    (ctrl.testBit 0 = false → ¬busy → Orderly s → risingFrom 0 s.comms = true →
      ∃ s', exec (.communicatorEnClear cm) s = .next s' ∧ look s'.comms cm = none ∧
        s'.homeNat (k.pa + 28) 4 = ctrl - (if ctrl.testBit 1 = true then 2 else 0)) := by
  intro ctrl busy
  have hx : exec (.communicatorEnClear cm) s = done (s.closeComm cm) := rfl
  rw [hx, State.closeComm, hk]
  dsimp only
  refine ⟨fun h => ?_, fun hen hb ho hr => ?_⟩
  · rw [if_neg]
    · rfl
    · rw [State.mayClose_iff]
      rintro ⟨h1, h2⟩
      exact h.elim (fun e => Bool.false_ne_true (h1.symm.trans e)) h2
  · rw [if_pos ((State.mayClose_iff).mpr ⟨hen, hb⟩)]
    refine ⟨_, rfl, ?_, ?_⟩
    · rw [State.homeWriteBytes_comms]
      exact look_eraseAt_same _ _ hr
    · have hw := State.homeWriteBytes_written (leBytes 4 (ctrl - (if ctrl.testBit 1 then 2 else 0))) ho (k.pa + 28)
      have hlt : ctrl < 2 ^ (8 * 4) := State.homeNat_lt s (k.pa + 28) 4
      have e := hw.field (pre := []) (post := []) (k := 0) (n := 4) (List.append_nil _).symm rfl
      rw [Nat.add_zero, Nat.mod_eq_of_lt (lt_of_le_of_lt (Nat.sub_le _ _) hlt)] at e
      rw [State.homeNat_withComms]
      exact e

end

/-- Settles O45: each step of a communicator by its own rule, through what becomes of the one communicator it names. -/
theorem chunks : Obligations.Chunks := by
  intro s cm k hk becomes empties
  refine ⟨fun inst rank chunk data => ⟨fun h => chunkArrive_dropped hk h, fun h => ⟨fun i hs hi => chunkArrive_slot hk h hs hi, chunkArrive_behind hk h⟩⟩,
    fun i p c rest hi hs => spoolFetch_next hk hi hs, ⟨_, rfl, State.onComm_hit hk _⟩, scheduled_commands hk, fun h =>
      ⟨bobSend_next hk h, bobReduce_next hk h, bobWrite_next hk h, bobFree_next hk h, bobDone_next hk h⟩,
    fun commid inst rank hf => abortNotice_early inst rank hf, fun inst rank hf => abortNotice_next hk inst rank hf, enClear_next hk⟩

end Sys2Proof.Machine
end

section
/-! PROOFS. The chunk engine's step and the abort of an instance (spec/24 R355 to R367): O46. -/

namespace Sys2Proof.Machine
open Sys2Proof.Claims

/-! ## Footprints -/

/-- Nothing is different but scratchpads and saved images: what the waits for a chunk are counted down in. -/
def OnlyPads (s t : State) : Prop := { t with blocks := s.blocks, images := s.images, restarts := s.restarts } = s

theorem OnlyPads.trans {s t u : State} (h : OnlyPads s t) (h' : OnlyPads t u) : OnlyPads s u :=
  (congrArg (fun x : State => { x with
    blocks := s.blocks, images := s.images, restarts := s.restarts }) h' :).trans h

theorem OnlyPads.withImages {s t : State} (h : OnlyPads s t) (im re : List (Nat × Image)) : OnlyPads s { t with images := im, restarts := re } := h

theorem State.padWrite_pads (s : State) (b off : Nat) (bs : List Byte) : OnlyPads s (s.padWrite b off bs) := by
  have e := State.padWrite_rest b bs s off
  exact (congrArg (fun x : State => { x with
    blocks := s.blocks, images := s.images, restarts := s.restarts }) e :)

theorem State.countDown_pads (s : State) (b o n : Nat) : OnlyPads s (s.countDown (some (.pad b o)) n) := State.padWrite_pads ..

theorem State.countWaits_pads (s : State) (vf : Nat) (x : CollInst) (c : Nat) : OnlyPads s (s.countWaits vf x c) := by
  unfold State.countWaits
  dsimp only
  refine OnlyPads.withImages ?_ _ _
  refine List.foldlRecOn (motive := fun t : State => OnlyPads s t) _ _ (by exact rfl) (fun t ht p _ => ?_)
  split
  · split
    · split
      · exact ht.trans (State.countDown_pads t _ _ _)
      · exact ht
    · exact ht
  · exact ht

theorem OnlyPads.comms {s t : State} (h : OnlyPads s t) : t.comms = s.comms := (congrArg State.comms h :)
theorem OnlyPads.mem {s t : State} (h : OnlyPads s t) : t.mem = s.mem := (congrArg State.mem h :)
theorem OnlyPads.orderly {s t : State} (h : OnlyPads s t) (ho : Orderly s) : Orderly t := by
  unfold Orderly
  rw [h.mem, show t.stamps = s.stamps from (congrArg State.stamps h :), show t.stamp = s.stamp from (congrArg State.stamp h :)]
  exact ho

/-! ## Instances -/

theorem Comm.inst?_onInst (k : Comm) (i : Nat) (f : CollInst → CollInst) (hf : ∀ x, (f x).inst = x.inst) :
    (k.onInst i f).inst? i = (k.inst? i).map (fun x => if x.over_ = false then f x else x) := by
  unfold Comm.inst? Comm.onInst
  dsimp only
  induction k.instances with
  | nil => rfl
  | cons x rest ih =>
    by_cases hx : x.inst = i
    · have hhead : ((if x.inst = i ∧ x.over_ = false then f x else x).inst == i) = true := by
        split
        · rw [hf, hx, beq_self_eq_true]
        · rw [hx, beq_self_eq_true]
      rw [List.map_cons, List.find?_cons_of_pos (p := fun x : CollInst => x.inst == i) hhead,
        List.find?_cons_of_pos (p := fun x : CollInst => x.inst == i) (beq_iff_eq.mpr hx), Option.map_some]
      by_cases ho : x.over_ = false
      · rw [if_pos ⟨hx, ho⟩, if_pos ho]
      · rw [if_neg (fun e => ho e.2), if_neg ho]
    · rw [List.map_cons, if_neg (fun e => hx e.1), List.find?_cons_of_neg (p := fun x : CollInst => x.inst == i) (by simpa using hx),
        List.find?_cons_of_neg (p := fun x : CollInst => x.inst == i) (by simpa using hx)]
      exact ih

theorem Comm.mem_of_inst? {k : Comm} {i : Nat} {x : CollInst} (h : k.inst? i = some x) : x ∈ k.instances ∧ x.inst = i :=
  ⟨List.mem_of_find?_eq_some h, beq_iff_eq.mp (List.find?_some (p := fun x : CollInst => x.inst == i) h)⟩

theorem CollInst.active_iff {x : CollInst} : x.active = true ↔ x.over_ = false ∧ x.fired ≠ [] := by
  unfold CollInst.active CollInst.over_
  cases x.aborted <;> cases x.complete <;> cases x.fired <;> simp

/-- The instance that a communicator performs is active. -/
theorem State.current_active {s : State} {k : Comm} {x : CollInst} (h : s.current k = some x) : x ∈ k.instances ∧ x.active = true := by
  unfold State.current at h
  have key : ∀ (l : List CollInst) (acc : Option CollInst) (P : CollInst → Prop), (∀ y ∈ l, P y) → (∀ y, acc = some y → P y) →
      ∀ y, l.foldl (fun acc x => match acc with
        | some y => if instAfter y.inst x.inst then some x else some y
        | none => some x) acc = some y → P y := by
    intro l
    induction l with
    | nil => exact fun acc P _ ha y hy => ha y hy
    | cons z rest ih =>
      intro acc P hl ha y hy
      refine ih _ P (fun w hw => hl w (List.mem_cons_of_mem _ hw)) (fun w hw => ?_) y hy
      cases acc with
      | none => exact (Option.some.inj hw) ▸ hl z List.mem_cons_self
      | some v =>
        dsimp only at hw
        split at hw
        · exact (Option.some.inj hw) ▸ hl z List.mem_cons_self
        · exact (Option.some.inj hw) ▸ ha v rfl
  refine key _ none (fun x => x ∈ k.instances ∧ x.active = true) (fun y hy => ?_) nofun x h
  obtain ⟨hm, ha⟩ := List.mem_filter.mp hy
  exact ⟨hm, (Bool.and_eq_true _ _ ▸ ha).1⟩

/-! ## An instance that settles -/

/-- A communicator as the completion of an instance leaves it. -/
def Comm.withDone (m : Comm) (i : Nat) : Comm :=
  { (m.onInst i (fun y => { y with complete := true })) with sent := m.sent.filter (fun p => p.2.inst != i) }

section
variable {s : State} {id i : Nat} {k : Comm} (hk : look s.comms id = some k)
include hk

theorem State.settleInstance_idle (h : ∀ x ∈ k.instances, x.active = true → k.isComplete x = false) : s.settleInstance id i = s := by
  unfold State.settleInstance
  rw [hk]
  dsimp only
  split
  · rfl
  next x hx =>
    rw [if_neg]
    intro e
    obtain ⟨ha, hc⟩ := (Bool.and_eq_true _ _ ▸ e)
    exact Bool.false_ne_true ((h x (Comm.mem_of_inst? hx).1 ha).symm.trans hc)

variable {x : CollInst} (hx : k.inst? i = some x)
include hx

theorem State.settleInstance_eq : s.settleInstance id i = if x.active && k.isComplete x then
    (s.homeWriteBytes none (k.pa + 56) (leBytes 4 i)).onComm id (fun m => m.withDone i) else s := by
  unfold State.settleInstance
  rw [hk]
  dsimp only
  rw [hx]
  rfl

/-- What the settling of an instance leaves of it. -/
theorem State.settleInstance_inst : ∃ k' x', look (s.settleInstance id i).comms id = some k' ∧ k'.cmds = k.cmds ∧ k'.inst? i = some x' ∧
    x'.done = x.done ∧ x'.written = x.written ∧ (x.active = true → k.isComplete x = true → x'.complete = true) := by
  rw [State.settleInstance_eq hk hx]
  split
  next h =>
    obtain ⟨ha, hc⟩ := (Bool.and_eq_true _ _ ▸ h)
    have hl : look ((s.homeWriteBytes none (k.pa + 56) (leBytes 4 i)).onComm id (fun m => m.withDone i)).comms id = some (k.withDone i) :=
      State.onComm_hit (by rw [State.homeWriteBytes_comms, hk]) _
    refine ⟨_, { x with complete := true }, hl, rfl, ?_, rfl, rfl, fun _ _ => rfl⟩
    have e := Comm.inst?_onInst k i (fun y => { y with complete := true }) (fun _ => rfl)
    rw [hx, Option.map_some, if_pos (CollInst.active_iff.mp ha).1] at e
    exact e
  next h => exact ⟨k, x, hk, rfl, hx, rfl, rfl, fun ha hc => absurd (by rw [ha, hc]; rfl) h⟩

end

/-! ## The step of the engine -/

/-- A communicator with a command taken from its ring. -/
def Comm.took (m : Comm) (n free : Nat) : Comm := { m with cmds := m.cmds.take n ++ m.cmds.drop (n + 1), lastServed := free }

/-- The state after a command is performed, with the instance settled that its communicator performed. -/
def State.stepped (s : State) (cm : Nat) (k : Comm) (n : Nat) (c : BobCmd) : State :=
  match s.current k with
  | some x => (((s.onComm cm (fun m => m.took n s.free)).bobStep cm k c).onComm cm id).settleInstance cm x.inst
  | none => ((s.onComm cm (fun m => m.took n s.free)).bobStep cm k c).onComm cm id

section
variable {s : State} {bob cm n : Nat} {k : Comm} {c : BobCmd} (hhome : s.comms.filter (fun p => p.2.home == bob) = [(cm, k)])
  (hsched : s.scheduled k = false) (hnext : s.nextCmd k = some (n, c)) (hready : k.isReady c = true) (hfar : s.chunkFar k c = [])
include hhome hsched hnext hready hfar

theorem chunkStepSelect_eq : ∃ v, exec (.chunkStepSelect bob) s = .next ((s.stepped cm k n c).gauge 9 bob none v) := by
  have hx : exec (.chunkStepSelect bob) s = execChunkStepSelect bob s := rfl
  have hcould : ([(cm, k)] : List (Nat × Comm)).filter (fun p => ((s.nextCmd p.2).map (fun c => p.2.isReady c.2)).getD false) = [(cm, k)] := by
    rw [List.filter_cons_of_pos]
    · rfl
    · rw [hnext]
      exact hready
  have hnear : ((s.nextCmd k).map (fun c => !(s.chunkFar k c.2).isEmpty)).getD false = false := by
    rw [hnext, Option.map_some, Option.getD_some, hfar]
    rfl
  have hnone : ([(cm, k)] : List (Nat × Comm)).filter (fun p => ((s.nextCmd p.2).map (fun c => !(s.chunkFar p.2 c.2).isEmpty)).getD false) = [] := by
    rw [List.filter_cons_of_neg (by dsimp only; rw [hnear]; exact Bool.false_ne_true), List.filter_nil]
  have hall : ([(cm, k)] : List (Nat × Comm)).filter (fun p => !((s.nextCmd p.2).map (fun c => !(s.chunkFar p.2 c.2).isEmpty)).getD false) = [(cm, k)] := by
    rw [List.filter_cons_of_pos (by dsimp only; rw [hnear]; rfl), List.filter_nil]
  have hone : ([(cm, k)] : List (Nat × Comm)).find? (fun p => [(cm, k)].all (fun q => q.1 == p.1 || p.2.before q.2)) = some (cm, k) := by
    rw [List.find?_cons_of_pos (by simp)]
  rw [hx, execChunkStepSelect, hhome]
  dsimp only
  rw [hcould, hall, hnone, hone]
  dsimp only [List.foldl_nil]
  rw [hnext]
  dsimp only
  refine ⟨(s.stepped cm k n c).slotsOn bob, ?_⟩
  rw [State.stepped]
  cases s.current k with
  | none => rfl
  | some x =>
    dsimp only [Option.map_some]
    rw [hsched]
    rfl

end

section
variable {s : State} {cm n : Nat} {k : Comm} {c : BobCmd}

theorem State.onComm_id_look (t : State) (cm m : Nat) : look (t.onComm cm id).comms m = look t.comms m := by
  rw [State.onComm_look]
  split
  next h => rw [h, Option.map_id_fun, id]
  next => rfl

/-- The instance whose command is next, where it has not ended, is performed. -/
theorem State.current_of_next (hsched : s.scheduled k = false) (hnext : s.nextCmd k = some (n, c)) {i : Nat} {x : CollInst} (hc : c.inst? = some i)
    (hx : k.inst? i = some x) (ho : x.over_ = false) : ∃ y, s.current k = some y ∧ y.inst = i := by
  unfold State.nextCmd at hnext
  rw [hsched, if_neg Bool.false_ne_true] at hnext
  dsimp only at hnext
  obtain ⟨n', hix, hn⟩ := Option.bind_eq_some_iff.mp hnext
  obtain ⟨c', hc', he⟩ := Option.map_eq_some_iff.mp hn
  cases he
  have hmine : ∀ (f : BobCmd → Bool) (l : List BobCmd) (n : Nat), indexOf f l = some n → ∀ c, l[n]? = some c → f c = true := by
    intro f l
    induction l with
    | nil => exact fun _ h => nomatch h
    | cons z rest ih =>
      intro n h c hl
      unfold indexOf at h
      split at h
      next hz =>
        cases h
        cases hl
        exact hz
      next =>
        obtain ⟨m, hm, rfl⟩ := Option.map_eq_some_iff.mp h
        exact ih m hm c (by simpa using hl)
  have hm := hmine _ _ _ hix _ hc'
  rw [hc] at hm
  dsimp only at hm
  rw [hx, Option.map_some, Option.getD_some, ho, Bool.false_or, beq_iff_eq] at hm
  obtain ⟨y, hy, hyi⟩ := Option.map_eq_some_iff.mp hm
  exact ⟨y, hy, hyi⟩

end

/-! ## Each command -/

section
variable {s : State} {bob cm n : Nat} {k : Comm} {c : BobCmd} (hhome : s.comms.filter (fun p => p.2.home == bob) = [(cm, k)])
  (hk : look s.comms cm = some k) (hsched : s.scheduled k = false) (hnext : s.nextCmd k = some (n, c)) (hready : k.isReady c = true)

theorem State.gauge_comms (t : State) (a b : Nat) (o : Option Nat) (v : Nat) : (t.gauge a b o v).comms = t.comms :=
  (congrArg State.comms (State.gauge_rest (s := t) a b o v) :)

theorem State.gauge_mem (t : State) (a b : Nat) (o : Option Nat) (v : Nat) : (t.gauge a b o v).mem = t.mem :=
  (congrArg State.mem (State.gauge_rest (s := t) a b o v) :)

/-- A step whose end settles no instance. -/
theorem State.stepped_idle {k' : Comm} (hl : look ((s.onComm cm (fun m => m.took n s.free)).bobStep cm k c).comms cm = some k')
    (h : ∀ x ∈ k'.instances, x.active = true → k'.isComplete x = false) :
    s.stepped cm k n c = ((s.onComm cm (fun m => m.took n s.free)).bobStep cm k c).onComm cm id := by
  unfold State.stepped
  cases s.current k with
  | none => rfl
  | some y => exact State.settleInstance_idle (by rw [State.onComm_id_look, hl]) h

include hhome hk hsched hnext hready

theorem chunkStep_free {sl : Nat} (hc : c = .free sl) (hr : risingFrom 0 k.slots = true) (hi : ∀ x ∈ k.instances, x.active = true → k.isComplete x = false) :
    ∃ s' k', exec (.chunkStepSelect bob) s = .next s' ∧ look s'.comms cm = some k' ∧ k'.cmds = k.cmds.take n ++ k.cmds.drop (n + 1) ∧
      look k'.slots sl = none ∧ k'.instances = k.instances := by
  subst hc
  obtain ⟨v, hv⟩ := chunkStepSelect_eq hhome hsched hnext hready rfl
  have hl : look ((s.onComm cm (fun m => m.took n s.free)).bobStep cm k (.free sl)).comms cm =
      some { k.took n s.free with slots := eraseAt k.slots sl } := State.onComm_hit (State.onComm_hit hk _) _
  have hidle := State.stepped_idle hl hi
  refine ⟨_, { k.took n s.free with slots := eraseAt k.slots sl }, hv, ?_, rfl, look_eraseAt_same _ _ hr, rfl⟩
  rw [State.gauge_comms, hidle, State.onComm_id_look, hl]

omit hhome hk hready in
/-- A step whose command is of the instance that its communicator performs, by what it leaves of that instance. -/
theorem State.stepped_settles {t : State} {i : Nat} {x x3 : CollInst} {k3 : Comm} (hc : c.inst? = some i) (hx : k.inst? i = some x) (ho : x.over_ = false)
    (ht : (s.onComm cm (fun m => m.took n s.free)).bobStep cm k c = t) (hl : look t.comms cm = some k3) (hx3 : k3.inst? i = some x3) :
    s.stepped cm k n c = if x3.active && k3.isComplete x3 then
      ((t.onComm cm id).homeWriteBytes none (k3.pa + 56) (leBytes 4 i)).onComm cm (fun m => m.withDone i) else t.onComm cm id := by
  obtain ⟨y, hy, rfl⟩ := State.current_of_next hsched hnext hc hx ho
  rw [State.stepped, hy]
  dsimp only
  rw [ht]
  exact State.settleInstance_eq ((State.onComm_id_look t cm cm).trans hl) hx3

end

/-- An instance with a chunk marked done, and written where its result lies here. -/
def CollInst.marked (here : Bool) (ch : Nat) (y : CollInst) : CollInst :=
  { y with done := if y.done.elem ch then y.done else ch :: y.done, written := if here then ch :: y.written else y.written }

theorem CollInst.marked_done (here : Bool) (ch : Nat) (x : CollInst) : ch ∈ (x.marked here ch).done ∧ ∀ c ∈ x.done, c ∈ (x.marked here ch).done := by
  unfold CollInst.marked
  dsimp only
  split
  next h => exact ⟨by simpa using h, fun _ => id⟩
  next h => exact ⟨List.mem_cons_self, fun _ => List.mem_cons_of_mem _⟩

/-- An instance with a chunk written. -/
def CollInst.wrote (ch : Nat) (y : CollInst) : CollInst := { y with written := if y.written.elem ch then y.written else ch :: y.written }

section
variable {s : State} {cm i ch : Nat} {k : Comm} {x : CollInst} (hx : k.inst? i = some x) (ho : x.over_ = false)
include hx ho

theorem State.bobStep_done : ∃ here, OnlyPads (s.onComm cm (fun m => m.onInst i (CollInst.marked here ch))) (s.bobStep cm k (.done i ch)) := by
  have hi := (Comm.mem_of_inst? hx).2
  unfold State.bobStep
  rw [show (BobCmd.done i ch).inst?.bind k.inst? = some x from hx]
  dsimp only
  rw [ho, if_neg Bool.false_ne_true, hi]
  split
  · exact ⟨true, State.countWaits_pads (s.onComm cm (fun m => m.onInst i (CollInst.marked true ch))) k.vf x ch⟩
  · exact ⟨false, by exact rfl⟩

variable {sl : Nat} {a : ChunkSlot} (ha : look k.slots sl = some a)
include ha

theorem State.bobStep_write (hch : ch < x.coll.nchunk) (hr : x.coll.resultHere k.nrank k.rank ch = true) :
    OnlyPads ((s.putChunk k x ch (a.data.take x.coll.chunk)).onComm cm (fun m => m.onInst i (CollInst.wrote ch))) (s.bobStep cm k (.write i sl ch)) := by
  have hi := (Comm.mem_of_inst? hx).2
  unfold State.bobStep
  rw [show (BobCmd.write i sl ch).inst?.bind k.inst? = some x from hx]
  dsimp only
  rw [ho, if_neg Bool.false_ne_true, hi, ha]
  dsimp only
  have hres : (decide (ch < x.coll.nchunk) && x.coll.resultHere k.nrank k.rank ch) = true := by
    rw [decide_eq_true hch, hr, Bool.and_true]
  rw [if_pos hres]
  split
  · exact rfl
  · exact State.countWaits_pads ((s.putChunk k x ch (a.data.take x.coll.chunk)).onComm cm (fun m => m.onInst i (CollInst.wrote ch))) k.vf x ch

theorem State.bobStep_write_elsewhere (hr : x.coll.resultHere k.nrank k.rank ch = false) : s.bobStep cm k (.write i sl ch) = s := by
  unfold State.bobStep
  rw [show (BobCmd.write i sl ch).inst?.bind k.inst? = some x from hx]
  dsimp only
  rw [ho, if_neg Bool.false_ne_true, ha]
  dsimp only
  have hres : (decide (ch < x.coll.nchunk) && x.coll.resultHere k.nrank k.rank ch) = false := by
    rw [hr, Bool.and_false]
  rw [if_neg (by rw [hres]; exact Bool.false_ne_true)]

end

/-! ## A result chunk placed -/

section
variable {s : State} {k : Comm} {x : CollInst} {ch pa : Nat} {bs : List Byte}

theorem State.putChunk_comms : (s.putChunk k x ch bs).comms = s.comms := by
  unfold State.putChunk State.asContexts
  dsimp only
  rw [State.devWrite_comms]

/-- Mapped bytes stay so where memory, the registers, the translations held and the free values do. -/
theorem mapped_congr {s t : State} {vf va n pa : Nat} (hmem : t.mem = s.mem) (hmon : t.mon = s.mon) (htlb : t.tlb = s.tlb) (hfree : t.free = s.free)
    (h : Mapped s vf va n pa) : Mapped t vf va n pa := by
  refine ⟨h.1, fun m hm k hk wr => ?_⟩
  rw [← h.2 m (fun x hx => by rw [hm x hx, hmem]) k hk wr]
  unfold State.devAddr
  rw [State.translate_congr (s := { s with mem := m }) (t := { t with mem := m }) rfl hmon htlb hfree]

/-- The bytes of a result chunk that nothing else has written, where they go. -/
theorem State.putChunk_written (hb : ch ∉ x.breached) (ho : Orderly s) (hm : Mapped s k.vf (x.coll.chunkVa ch) bs.length pa) :
    Orderly (s.putChunk k x ch bs) ∧ (s.putChunk k x ch bs).homeBytes pa bs.length = bs := by
  have hel : x.breached.elem ch = false := by
    rw [List.elem_eq_mem, decide_eq_false_iff_not]
    exact hb
  have key : ∀ (g : List (Nat × Gang)) (g' : State → List (Nat × Gang)),
      Orderly { ({ s with gangs := g } : State).devWrite k.vf (x.coll.chunkVa ch) bs with gangs := g' s } ∧
      State.homeBytes { ({ s with gangs := g } : State).devWrite k.vf (x.coll.chunkVa ch) bs with gangs := g' s } pa bs.length = bs := by
    intro g g'
    have hw := State.devWrite_written (s := { s with gangs := g }) (mapped_congr (s := s) rfl rfl rfl rfl hm) ho bs (le_refl _)
    exact ⟨hw.orderly, hw.bytes⟩
  unfold State.putChunk State.asContexts
  dsimp only
  rw [hel, if_neg Bool.false_ne_true]
  exact key _ (fun _ => _)

end

/-! ## The steps of an instance that is performed -/

/-- A word that the device has written at the home, read back. -/
theorem State.homeNat_word {t : State} (h : Orderly t) (q v : Nat) : (t.homeWriteBytes none q (leBytes 4 v)).homeNat q 4 = v % 2 ^ 32 := by
  have e := (State.homeWriteBytes_written (leBytes 4 v) h q).field (pre := []) (post := []) (k := 0) (n := 4) (v := v) (List.append_nil _).symm rfl
  rwa [Nat.add_zero] at e

theorem State.homeNat_of_mem {t u : State} (h : u.mem = t.mem) (q n : Nat) : u.homeNat q n = t.homeNat q n :=
  homeNat_congr (fun j _ => congrArg (fun m => readMem m (q + j)) h)

theorem Comm.took_inst (k : Comm) (n free i : Nat) : (k.took n free).inst? i = k.inst? i := rfl

/-- An instance at work after a command changed it, in its communicator. -/
theorem Comm.took_onInst {k : Comm} {n free i : Nat} {x : CollInst} (hx : k.inst? i = some x) (ho : x.over_ = false) {f : CollInst → CollInst}
    (hf : ∀ y, (f y).inst = y.inst) : ((k.took n free).onInst i f).inst? i = some (f x) := by
  rw [Comm.inst?_onInst _ _ _ hf, Comm.took_inst, hx, Option.map_some, if_pos ho]

section
variable {s : State} {bob cm n i ch : Nat} {k : Comm} {x : CollInst} (hhome : s.comms.filter (fun p => p.2.home == bob) = [(cm, k)])
  (hk : look s.comms cm = some k) (hsched : s.scheduled k = false) (hx : k.inst? i = some x) (ho : x.over_ = false)
include hhome hk hsched hx ho

theorem chunkStep_done (hnext : s.nextCmd k = some (n, .done i ch)) (hready : k.isReady (.done i ch) = true) :
    ∃ s' k' x', exec (.chunkStepSelect bob) s = .next s' ∧ look s'.comms cm = some k' ∧ k'.cmds = k.cmds.take n ++ k.cmds.drop (n + 1) ∧
      k'.inst? i = some x' ∧ ch ∈ x'.done ∧
      (x.fired ≠ [] → (∀ c < x.coll.nchunk, c ∈ x.done ∨ c = ch) → Orderly s → x'.complete = true ∧ s'.homeNat (k.pa + 56) 4 = i % 2 ^ 32) := by
  obtain ⟨v, hv⟩ := chunkStepSelect_eq hhome hsched hnext hready (by unfold State.chunkFar; split <;> simp_all)
  obtain ⟨here, hb⟩ := State.bobStep_done (s := s.onComm cm (fun m => m.took n s.free)) (cm := cm) (ch := ch) hx ho
  generalize ht : (s.onComm cm (fun m => m.took n s.free)).bobStep cm k (.done i ch) = t at hb
  have hl : look t.comms cm = some ((k.took n s.free).onInst i (CollInst.marked here ch)) := by
    rw [hb.comms]
    exact State.onComm_hit (State.onComm_hit hk _) _
  have hx3 : ((k.took n s.free).onInst i (CollInst.marked here ch)).inst? i = some (x.marked here ch) := Comm.took_onInst hx ho (fun _ => rfl)
  obtain ⟨hdone, hold⟩ := CollInst.marked_done here ch x
  obtain ⟨k', x', hl', hcmds, hx', hd', -, hcomp⟩ := State.settleInstance_inst (s := t.onComm cm id) (id := cm) ((State.onComm_id_look t cm cm).trans hl) hx3
  have hstep : s.stepped cm k n (.done i ch) = (t.onComm cm id).settleInstance cm i := by
    obtain ⟨y, hy, rfl⟩ := State.current_of_next hsched hnext rfl hx ho
    rw [State.stepped, hy, ← ht]
  refine ⟨_, k', x', hv, ?_, hcmds, hx', hd' ▸ hdone, fun hfired hall horder => ?_⟩
  · rw [State.gauge_comms, hstep, hl']
  · have hactive : (x.marked here ch).active = true := CollInst.active_iff.mpr ⟨ho, hfired⟩
    have hcomplete : ((k.took n s.free).onInst i (CollInst.marked here ch)).isComplete (x.marked here ch) = true := by
      refine List.all_eq_true.mpr (fun c hc => ?_)
      have hmem : c ∈ (x.marked here ch).done := (hall c (List.mem_range.mp hc)).elim (hold c) (fun e => e ▸ hdone)
      rw [List.elem_eq_mem, decide_eq_true hmem, Bool.true_or]
    refine ⟨hcomp hactive hcomplete, ?_⟩
    have hnat : ∀ u : State, u.mem = (s.stepped cm k n (.done i ch)).mem → u.homeNat (k.pa + 56) 4 = i % 2 ^ 32 := by
      intro u hu
      rw [hstep, State.settleInstance_eq ((State.onComm_id_look t cm cm).trans hl) hx3, hactive, hcomplete, Bool.and_true, if_pos rfl] at hu
      have hot : Orderly (t.onComm cm id) := hb.orderly (s := (s.onComm cm _).onComm cm _) horder
      rw [State.onComm_mem, show ((k.took n s.free).onInst i (CollInst.marked here ch)).pa = k.pa from rfl] at hu
      rw [State.homeNat_of_mem hu]
      exact State.homeNat_word hot (k.pa + 56) i
    exact hnat _ (State.gauge_mem ..)

theorem chunkStep_write {sl : Nat} {a : ChunkSlot} (hnext : s.nextCmd k = some (n, .write i sl ch)) (hready : k.isReady (.write i sl ch) = true)
    (ha : look k.slots sl = some a) {pa : Nat} (hch : ch < x.coll.nchunk) (hr : x.coll.resultHere k.nrank k.rank ch = true) (hb : ch ∉ x.breached)
    (horder : Orderly s) (hm : Mapped s k.vf (x.coll.chunkVa ch) (a.data.take x.coll.chunk).length pa)
    (happ : Apart pa (a.data.take x.coll.chunk).length (k.pa + 56) 4) :
    ∃ s' k' x', exec (.chunkStepSelect bob) s = .next s' ∧ look s'.comms cm = some k' ∧ k'.cmds = k.cmds.take n ++ k.cmds.drop (n + 1) ∧
      k'.inst? i = some x' ∧ ch ∈ x'.written ∧ s'.homeBytes pa (a.data.take x.coll.chunk).length = a.data.take x.coll.chunk := by
  obtain ⟨v, hv⟩ := chunkStepSelect_eq hhome hsched hnext hready (by unfold State.chunkFar; split <;> simp_all)
  have hp := State.bobStep_write (s := s.onComm cm (fun m => m.took n s.free)) (cm := cm) hx ho ha hch hr
  obtain ⟨hpo, hpb⟩ := State.putChunk_written (s := s.onComm cm (fun m => m.took n s.free)) (k := k) hb horder (mapped_congr (s := s) rfl rfl rfl rfl hm)
  generalize ht : (s.onComm cm (fun m => m.took n s.free)).bobStep cm k (.write i sl ch) = t at hp
  have hl : look t.comms cm = some ((k.took n s.free).onInst i (CollInst.wrote ch)) := by
    rw [hp.comms]
    refine State.onComm_hit ?_ _
    rw [State.putChunk_comms]
    exact State.onComm_hit hk _
  have hx3 : ((k.took n s.free).onInst i (CollInst.wrote ch)).inst? i = some (x.wrote ch) := Comm.took_onInst hx ho (fun _ => rfl)
  obtain ⟨k', x', hl', hcmds, hx', -, hw', -⟩ := State.settleInstance_inst (s := t.onComm cm id) (id := cm) ((State.onComm_id_look t cm cm).trans hl) hx3
  have hstep : s.stepped cm k n (.write i sl ch) = (t.onComm cm id).settleInstance cm i := by
    obtain ⟨y, hy, rfl⟩ := State.current_of_next hsched hnext rfl hx ho
    rw [State.stepped, hy, ← ht]
  have hot : Orderly (t.onComm cm id) := hp.orderly (s := State.onComm _ cm _) hpo
  have hbt : t.homeBytes pa (a.data.take x.coll.chunk).length = a.data.take x.coll.chunk := by
    refine Eq.trans ?_ hpb
    exact List.map_congr_left (fun j _ => congrArg (fun m => readMem m (pa + j)) hp.mem)
  have hbytes : ∀ u : State, u.mem = (s.stepped cm k n (.write i sl ch)).mem →
      u.homeBytes pa (a.data.take x.coll.chunk).length = a.data.take x.coll.chunk := by
    intro u hu
    refine Eq.trans ?_ hbt
    refine List.map_congr_left (fun j hj => ?_)
    rw [hu, hstep, State.settleInstance_eq ((State.onComm_id_look t cm cm).trans hl) hx3]
    split
    · rw [State.onComm_mem, show ((k.took n s.free).onInst i (CollInst.wrote ch)).pa = k.pa from rfl]
      refine (State.homeWriteBytes_written (leBytes 4 i) hot (k.pa + 56)).beside ?_
      have hj' := List.mem_range.mp hj
      unfold Apart at happ ⊢
      rw [leBytes_length]
      omega
    · rfl
  refine ⟨_, k', x', hv, ?_, hcmds, hx', ?_, hbytes _ (State.gauge_mem ..)⟩
  · rw [State.gauge_comms, hstep, hl']
  · rw [hw', CollInst.wrote]
    dsimp only
    split
    next h => simpa using h
    next => exact List.mem_cons_self

theorem chunkStep_write_elsewhere {sl : Nat} {a : ChunkSlot} (hnext : s.nextCmd k = some (n, .write i sl ch)) (hready : k.isReady (.write i sl ch) = true)
    (ha : look k.slots sl = some a) (hr : x.coll.resultHere k.nrank k.rank ch = false) (hi : ∀ x ∈ k.instances, x.active = true → k.isComplete x = false) :
    ∃ s', exec (.chunkStepSelect bob) s = .next s' ∧ s.sameMemory s' := by
  obtain ⟨v, hv⟩ := chunkStepSelect_eq hhome hsched hnext hready (by unfold State.chunkFar; split <;> simp_all)
  have hb := State.bobStep_write_elsewhere (s := s.onComm cm (fun m => m.took n s.free)) (cm := cm) hx ho ha hr
  have hl : look ((s.onComm cm (fun m => m.took n s.free)).bobStep cm k (.write i sl ch)).comms cm = some (k.took n s.free) := by
    rw [hb]
    exact State.onComm_hit hk _
  refine ⟨_, hv, fun pa => ?_⟩
  rw [State.gauge_mem, State.stepped_idle hl hi, hb]
  rfl

end

/-! ## The abort -/

theorem instanceAbort_next (s : State) (cm cause rank : Nat) (k : Comm) (x : CollInst) (hk : look s.comms cm = some k) (hc : s.current k = some x)
    (hx : k.inst? x.inst = some x) :
    (cause = 0 ∨ 5 < cause ∨ cause ≤ 2 ∧ k.nrank ≤ rank → exec (.instanceAbort cm cause rank) s = .next s) ∧
    (1 ≤ cause → cause ≤ 5 → (cause ≤ 2 → rank < k.nrank) → ∃ s' k' x', exec (.instanceAbort cm cause rank) s = .next s' ∧
      look s'.comms cm = some k' ∧
      k'.inst? x.inst = some x' ∧ x'.aborted = some (cause, if cause ≤ 2 then rank else k.rank) ∧ (∀ p ∈ k'.slots, p.2.inst ≠ x.inst) ∧
      (∀ p ∈ k'.spool, p.2.inst ≠ x.inst) ∧ k'.events = k.events ++ [.abort cause] ∧
      ∀ l y c, s.launch? l = some y → y.vf = k.vf → y.coll = some c → c.cdesc = k.cdesc → c.inst = x.inst → c.role = 2 →
        s'.launch? l = some { y with waitAbort := some (if cause = 2 then 9 else 12) }) := by
  have he : exec (.instanceAbort cm cause rank) s = execInstanceAbort cm cause rank s := rfl
  rw [he, execInstanceAbort, hk]
  dsimp only
  rw [hc]
  dsimp only
  refine ⟨fun h => by rw [if_neg (by omega)]; rfl, fun h1 h5 hr => ?_⟩
  rw [if_pos ⟨h1, h5, by omega⟩]
  have ho := (CollInst.active_iff.mp (State.current_active hc).2).1
  generalize hrk : (if cause ≤ 2 then rank else k.rank) = r
  obtain ⟨hcomms, hlaunches⟩ := State.abortInstance_at hk hx ho cause r
  have hinst : (k.withAbort x.inst cause r).inst? x.inst = some { x with aborted := some (cause, r) } := by
    have e := Comm.inst?_onInst k x.inst (fun y => { y with aborted := some (cause, r) }) (fun _ => rfl)
    rw [hx, Option.map_some, if_pos ho] at e
    exact e
  refine ⟨_, k.withAbort x.inst cause r, _, rfl, ?_, hinst, rfl, fun p hp => bne_iff_ne.mp (List.mem_filter.mp hp).2,
    fun p hp => bne_iff_ne.mp (List.mem_filter.mp hp).2, rfl, fun l y c hl hvf hcoll hcd hci hrole => ?_⟩
  · rw [hcomms, State.onComm_hit hk]
  · have hkey : ∀ p, (k.tells x.inst cause p).1 = p.1 := by
      intro p
      unfold Comm.tells
      split
      · split <;> rfl
      · rfl
    rw [State.launch?, hlaunches, look_mapPair _ hkey, show look s.launches l = some y from hl, Option.map_some, Comm.tells]
    dsimp only
    rw [hcoll]
    dsimp only
    rw [if_pos ⟨hvf, hcd, hci, hrole⟩, abortClass]

/-- Settles O46: the one command of the step and the settling of the instance that follows it; the abort as it changes the communicator and the launches
that wait. -/
theorem chunkSteps : Obligations.ChunkSteps := by
  refine ⟨fun s bob cm n k c hhome hk hsched hnext hready => ⟨fun sl hc hr hi => chunkStep_free hhome hk hsched hnext hready hc hr hi,
    fun i ch x hc hx ha hn => ?_, fun i sl ch x a pa hc hx ha hn hsl => ?_⟩, instanceAbort_next⟩
  · subst hc
    have ho : x.over_ = false := by rw [CollInst.over_, ha, hn]; rfl
    exact chunkStep_done hhome hk hsched hx ho hnext hready
  · subst hc
    have ho : x.over_ = false := by rw [CollInst.over_, ha, hn]; rfl
    exact ⟨fun hch hr hb horder hm happ => chunkStep_write hhome hk hsched hx ho hnext hready hsl hch hr hb horder hm happ,
      fun hr hi => chunkStep_write_elsewhere hhome hk hsched hx ho hnext hready hsl hr hi⟩

end Sys2Proof.Machine
end

section
/-! PROOFS. Slots and tiles (spec/09 R182 to R184, R195): O29. -/

namespace Sys2Proof.Machine
open Sys2Proof.Claims

/-! ## A path with nothing unperformed -/

theorem State.drain_drained {s : State} {c sl : Nat} {ls : List Nat} (h : ∀ l ∈ ls, ∀ x, s.lane? c sl l = some x → x.acc = []) : s.drain c sl ls = s := by
  induction ls with
  | nil => rfl
  | cons l rest ih =>
    have hl : s.drain c sl [l] = s := by
      rw [State.drain, List.foldl_cons, List.foldl_nil]
      split
      next th hth => rw [h l List.mem_cons_self th hth]; rfl
      next => rfl
    rw [show s.drain c sl (l :: rest) = (s.drain c sl [l]).drain c sl rest from rfl, hl]
    exact ih (fun x hx => h x (List.mem_cons_of_mem _ hx))

section
variable {s : State} {w : Wave} (hw : s.curWave = some w) (hq : Quiet s w)
include hw hq

theorem quiet_lane {l : Nat} (hl : l ∈ s.cur.lanes) {x : Thread} (hx : s.lane? s.cur.core s.cur.slot l = some x) :
    x.acc = [] ∧ x.wait = .no ∧ x.pc = s.cur.pc ∧ x.due = none := by
  obtain ⟨v, hv, hl'⟩ := Option.bind_eq_some_iff.mp (by exact hx)
  obtain rfl := Option.some.inj (hw.symm.trans hv)
  have hlane : x.lane = l := by simpa using List.find?_some (p := fun t : Thread => t.lane == l) hl'
  exact hq x (Wave.mem_of_lane? hl') (hlane ▸ hl)

/-- A path whose lanes have nothing unperformed and wait for nothing goes on with all its lanes. -/
theorem State.afterAccesses_quiet (hne : s.cur.lanes ≠ []) (k : State → State) : s.afterAccesses k = { k s with cur := s.cur } := by
  have hall : ∀ p : Thread → Bool, (∀ x : Thread, x.acc = [] → x.wait = .no → x.pc = s.cur.pc → x.due = none → p x = true) →
      ∀ l ∈ s.cur.lanes, ((s.lane? s.cur.core s.cur.slot l).map p).getD true = true := by
    intro p hp l hl
    cases hx : s.lane? s.cur.core s.cur.slot l with
    | none => rfl
    | some x =>
      obtain ⟨ha, hwait, hpc, hdue⟩ := quiet_lane hw hq hl hx
      exact hp x ha hwait hpc hdue
  unfold State.afterAccesses
  dsimp only
  rw [State.drain_drained (fun l hl x hx => (quiet_lane hw hq hl hx).1)]
  have hhere := List.filter_eq_self.mpr (hall (fun t => t.wait == .no && t.pc == s.cur.pc && t.due.isNone)
    (fun x _ hwait hpc hdue => by simp [hwait, hpc, hdue]))
  rw [hhere, if_neg (by simpa using hne), if_pos (List.all_eq_true.mpr (hall (fun t => t.acc.isEmpty) (fun x ha _ _ _ => by simp [ha])))]
  rfl
end

/-! ## Every lane of the path goes on in a changed state -/

theorem State.perLane_goesOn {s t : State} {w : Wave} {th : Thread} (h : s.OnPath w th) (hwaves : t.waves = s.waves) (hcur : t.cur = s.cur) (tack : Bool) :
    (t.perLane tack (fun _ th => .next th)).lane? w.core w.slot th.lane = some (th.after s.cur.len tack) := by
  have ht : t.OnPath w th := by
    refine ⟨?_, h.lane, hcur ▸ h.path⟩
    rw [← h.wave, State.curWave, State.curWave, State.wave?, State.wave?, hwaves, hcur]
  rw [State.perLane_lane ht tack _ (fun _ _ => rfl), Out.apply_next, hcur]

theorem State.perLane_slots {s : State} {w : Wave} (hw : s.curWave = some w) (t : Bool) {f : Wave → Thread → Out} (hf : ∀ v u, (f v u).thread.lane = u.lane) (c : Nat) :
    ((s.perLane t f).core c).slots = (s.core c).slots ∧ ((s.perLane t f).core c).tiles = (s.core c).tiles := by
  have h := (State.perLane_onlyLanes hw t hf).cores c
  exact ⟨(congrArg Core.slots h :), (congrArg Core.tiles h :)⟩

section
variable {s : State} {w : Wave} {th : Thread} (h : s.OnPath w th)
include h

theorem State.illop_traps : s.illop.lane? w.core w.slot th.lane = some (Thread.trap s w.regs th cILLOP th.pc) :=
  State.perLane_lane h false (fun _ t => .trap t cILLOP) (fun _ _ => rfl)

theorem State.trapAll_traps (c : Word) : (s.trapAll c).lane? w.core w.slot th.lane = some (Thread.trap s w.regs th c th.pc) :=
  State.perLane_lane h false (fun _ t => .trap t c) (fun _ _ => rfl)

theorem State.holdAll_waits (x : Wait) : (s.holdAll x).lane? w.core w.slot th.lane = some { th with wait := x } :=
  State.perLane_lane h false (fun _ t => .hold t x) (fun _ _ => rfl)
end

/-! ## The registers of a block -/

theorem State.oReg_at {s : State} {blk : Nat} {b : Block} (hb : s.block? blk = some b) (n : Nat) : s.oReg blk n = look b.o n := by
  rw [State.oReg, hb]; rfl
theorem State.aReg_at {s : State} {blk : Nat} {b : Block} (hb : s.block? blk = some b) (n : Nat) : s.aReg blk n = look b.a n := by
  rw [State.aReg, hb]; rfl
theorem State.block?_onBlock {s : State} {blk : Nat} {b : Block} (hb : s.block? blk = some b) (f : Block → Block) :
    (s.onBlock blk f).block? blk = some (f b) := by
  rw [State.block?, State.onBlock, look_onKey, if_pos rfl]
  exact congrArg (Option.map f) hb
theorem State.block?_perLane (s : State) (t : Bool) (f : Wave → Thread → Out) (x : Nat) : (s.perLane t f).block? x = s.block? x := by
  rw [State.block?, State.block?, State.perLane_blocks]

section
variable {s : State} {w : Wave} {th : Thread} {b : Block} (h : s.OnPath w th) (hb : s.block? w.blk = some b)
include h hb

/-- CLAIM by the path of a wave of a block. -/
theorem exec_claim (n : BitVec 4) (t : Bool) : ∃ s', exec (.claim n t) s = .next s' ∧
    (look b.o n.toNat ≠ none → s'.lane? w.core w.slot th.lane = some (Thread.trap s w.regs th cILLOP th.pc)) ∧
    (look b.o n.toNat = none → s.slotsFor w.core w.blk = 0 → s'.lane? w.core w.slot th.lane = some { th with wait := .claim }) ∧
    (look b.o n.toNat = none → 0 < s.slotsFor w.core w.blk → s'.lane? w.core w.slot th.lane = some (th.after s.cur.len t) ∧
      ∃ id, s'.oReg w.blk n.toNat = some id ∧ look (s'.core w.core).slots id = some { blk := w.blk, mapped := true, data := [] }) := by
  have hx : exec (.claim n t) s = execClaim n t s := rfl
  rw [hx, execClaim, h.wave]
  dsimp only
  rw [State.oReg_at hb]
  cases hl : look b.o n.toNat with
  | some id => exact ⟨_, rfl, fun _ => State.illop_traps h, nofun, nofun⟩
  | none =>
    by_cases h0 : s.slotsFor w.core w.blk = 0
    · rw [if_neg (by simp), if_pos h0]
      exact ⟨_, rfl, fun e => absurd rfl e, fun _ _ => State.holdAll_waits h .claim, fun _ e => absurd h0 (Nat.ne_of_gt e)⟩
    · rw [if_neg (by simp), if_neg h0]
      refine ⟨_, rfl, fun e => absurd rfl e, fun _ e => absurd e h0, fun _ _ => ⟨State.perLane_goesOn h (by rfl) (by rfl) t, s.ids, ?_, ?_⟩⟩
      · rw [State.oReg, State.block?_perLane, State.block?_onBlock (b := b) (by exact hb)]
        exact look_insertAt_same ..
      · rw [(State.perLane_slots (w := w) (by exact h.wave) t (fun _ _ => rfl) w.core).1]
        rw [show ∀ (u : State) f, ((u.onBlock w.blk f).core w.core) = u.core w.core from fun _ _ => rfl, State.core_onCore, if_pos rfl]
        exact look_insertAt_same ..

theorem exec_release (n : BitVec 4) (t : Bool) : ∃ s', exec (.release n t) s = .next s' ∧
    (look b.o n.toNat = none → s'.lane? w.core w.slot th.lane = some (Thread.trap s w.regs th cILLOP th.pc)) ∧
    (∀ id, look b.o n.toNat = some id → risingFrom 0 b.o = true →
      s'.lane? w.core w.slot th.lane = some (th.after s.cur.len t) ∧ s'.oReg w.blk n.toNat = none) := by
  have hx : exec (.release n t) s = execRelease n t s := rfl
  rw [hx, execRelease, h.wave]
  dsimp only
  rw [State.oReg_at hb]
  cases hl : look b.o n.toNat with
  | none => exact ⟨_, rfl, fun _ => State.illop_traps h, nofun⟩
  | some id =>
    refine ⟨_, rfl, nofun, fun _ _ hr => ⟨State.perLane_goesOn h (by rfl) (by rfl) t, ?_⟩⟩
    rw [State.oReg, State.block?_perLane, State.tidy]
    rw [show ∀ (u : State) c f x, (u.onCore c f).block? x = u.block? x from fun _ _ _ _ => rfl, State.block?_onBlock (b := b) (by exact hb)]
    exact look_eraseAt_same _ _ hr

theorem exec_afree (n : BitVec 4) (t : Bool) : ∃ s', exec (.afree n t) s = .next s' ∧
    (look b.a n.toNat = none → s'.lane? w.core w.slot th.lane = some (Thread.trap s w.regs th cILLOP th.pc)) ∧
    (∀ id, look b.a n.toNat = some id → risingFrom 0 b.a = true →
      s'.lane? w.core w.slot th.lane = some (th.after s.cur.len t) ∧ s'.aReg w.blk n.toNat = none) := by
  have hx : exec (.afree n t) s = execAfree n t s := rfl
  rw [hx, execAfree, h.wave]
  dsimp only
  rw [State.aReg_at hb]
  cases hl : look b.a n.toNat with
  | none => exact ⟨_, rfl, fun _ => State.illop_traps h, nofun⟩
  | some id =>
    refine ⟨_, rfl, nofun, fun _ _ hr => ⟨State.perLane_goesOn h (by rfl) (by rfl) t, ?_⟩⟩
    rw [State.aReg, State.block?_perLane, State.tidy]
    rw [show ∀ (u : State) c f x, (u.onCore c f).block? x = u.block? x from fun _ _ _ _ => rfl, State.block?_onBlock (b := b) (by exact hb)]
    exact look_eraseAt_same _ _ hr

/-- ACLAIM by a path with nothing unperformed. -/
theorem exec_aclaim (n : BitVec 4) (sb : BitVec 6) (t : Bool) (hs : w.sReady [sb.toNat]) (hq : Quiet s w) : ∃ s', exec (.aclaim n sb t) s = .next s' ∧
    (look b.a n.toNat ≠ none → s'.lane? w.core w.slot th.lane = some (Thread.trap s w.regs th cILLOP th.pc)) ∧
    (∀ bs tile, look b.a n.toNat = none → s.paramBlock w sb.toNat 16 = .ok bs → aclaimTile w.blk bs = .ok tile →
      (s.rowsFor w.core w.blk < tile.m * tile.p → s'.lane? w.core w.slot th.lane = some { th with wait := .aclaim (tile.m * tile.p) }) ∧
      (tile.m * tile.p ≤ s.rowsFor w.core w.blk → s'.lane? w.core w.slot th.lane = some (th.after s.cur.len t) ∧
        ∃ id, s'.aReg w.blk n.toNat = some id ∧ look (s'.core w.core).tiles id = some tile)) := by
  have hx : exec (.aclaim n sb t) s = execAclaim n sb t s := rfl
  rw [hx, execAclaim, State.withTokens_ready h.wave hs, h.wave]
  dsimp only
  rw [State.aReg_at hb]
  cases hl : look b.a n.toNat with
  | some id => exact ⟨_, rfl, fun _ => State.illop_traps h, nofun⟩
  | none =>
    rw [if_neg (by simp), State.afterAccesses_quiet h.wave hq h.lanes_ne]
    refine ⟨_, rfl, fun e => absurd rfl e, fun bs tile _ hbs htile => ?_⟩
    have hc : (do let bs ← s.paramBlock w sb.toNat 16; aclaimTile w.blk bs : Chk Tile) = .ok tile := by rw [hbs]; exact htile
    rw [hc, State.checked]
    dsimp only
    refine ⟨fun hlt => ?few, fun hle => ?enough⟩
    case few =>
      rw [if_pos hlt]
      exact State.holdAll_waits h _
    case enough =>
      rw [if_neg (Nat.not_lt.mpr hle)]
      refine ⟨State.perLane_goesOn h (by rfl) (by rfl) t, s.ids, ?_, ?_⟩
      · rw [State.aReg, show ∀ (u : State) k x, ({ u with cur := k } : State).block? x = u.block? x from fun _ _ _ => rfl, State.block?_perLane,
          State.block?_onBlock (b := b) (by exact hb)]
        exact look_insertAt_same ..
      · rw [show ∀ (u : State) k x, ({ u with cur := k } : State).core x = u.core x from fun _ _ _ => rfl, (State.perLane_slots (w := w) (by exact h.wave) t (fun _ _ => rfl) w.core).2]
        rw [show ∀ (u : State) f, ((u.onBlock w.blk f).core w.core) = u.core w.core from fun _ _ => rfl, State.core_onCore, if_pos rfl]
        exact look_insertAt_same ..
end

/-! ## The slices of a slot -/

/-- Consecutive keys given values from the first on. -/
theorem look_insertRun {α : Type} (f : Nat → α) (off : Nat) (m : List (Nat × α)) (y n : Nat) :
    look ((List.range n).foldl (fun m i => insertAt m (off + i) (f i)) m) y = if off ≤ y ∧ y < off + n then some (f (y - off)) else look m y := by
  induction n with
  | zero => rw [if_neg (by omega)]; rfl
  | succ n ih =>
    rw [List.range_succ, List.foldl_append, List.foldl_cons, List.foldl_nil]
    by_cases hy : y = off + n
    · rw [hy, look_insertAt_same, if_pos (by omega), Nat.add_sub_cancel_left]
    · rw [look_insertAt_ne _ _ hy, ih]
      exact if_congr (by omega) rfl rfl

theorem getD_leBytes (v : Nat) (d : Byte) : ∀ n j, j < n → (leBytes n v).getD j d = BitVec.ofNat 8 (v / 2 ^ (8 * j)) := by
  intro n
  induction n generalizing v with
  | zero => intro j hj; omega
  | succ n ih =>
    intro j hj
    cases j with
    | zero => simp [leBytes]
    | succ j =>
      rw [leBytes, List.getD_cons_succ, ih _ j (by omega), Nat.div_div_eq_div_mul, ← show (2 ^ 8 * 2 ^ (8 * j) : Nat) = 256 * 2 ^ (8 * j) from rfl, ← Nat.pow_add,
        Nat.mul_succ, Nat.add_comm]

theorem State.slotByte_congr {s t : State} {c id : Nat} (h : look (t.core c).slots id = look (s.core c).slots id) (y : Nat) :
    t.slotByte c id y = s.slotByte c id y := by
  unfold State.slotByte
  rw [h]

section
variable (s : State) (c id off : Nat) (bs : List Byte)

theorem State.slotByte_slotWrite_beside (k y : Nat) (h : k ≠ id ∨ y < off ∨ off + bs.length ≤ y) : (s.slotWrite c id off bs).slotByte c k y = s.slotByte c k y := by
  unfold State.slotByte State.slotWrite
  rw [State.core_onCore, if_pos rfl]
  dsimp only
  rw [look_onKey]
  by_cases hk : k = id
  · subst hk
    rw [if_pos rfl]
    cases look (s.core c).slots k with
    | none => rfl
    | some x =>
      simp only [Option.map_some, Option.bind_some]
      rw [look_insertRun (fun i => bs.getD i 0), if_neg (by omega)]
  · rw [if_neg hk]

theorem State.slotByte_slotWrite {x : Slot} (hx : look (s.core c).slots id = some x) (j : Nat) (hj : j < bs.length) :
    (s.slotWrite c id off bs).slotByte c id (off + j) = bs.getD j 0 := by
  unfold State.slotByte State.slotWrite
  rw [State.core_onCore, if_pos rfl]
  dsimp only
  rw [look_onKey, if_pos rfl, hx]
  simp only [Option.map_some, Option.bind_some]
  rw [look_insertRun (fun i => bs.getD i 0), if_pos (by omega), Nat.add_sub_cancel_left]

theorem State.spoil_slots (row byte : Nat) : ((s.spoil c id row byte).core c).slots = (s.core c).slots := by
  unfold State.spoil
  dsimp only
  rw [State.core_onCore, if_pos rfl]
  rfl
end

section
variable {s : State} {w : Wave} {th : Thread} {id : Nat} (h : s.OnPath w th) (d : Reg) (i sb : BitVec 6) (r : Bool) (o : BitVec 4) (t : Bool)
    (hr : s.regsOk [d.toNat]) (hs : w.sReady [sb.toNat]) (ho : s.oReg w.blk o.toNat = some id)
include h hr hs ho

theorem exec_tslr : ∃ s', exec (.tslr d i sb r o t) s = .next s' ∧
    s'.lane? w.core w.slot th.lane = some ((th.setG s d.toNat (BitVec.ofNat 32 (leNat ((List.range 4).map (fun j => s.slotByte w.core id
      (128 * (slice r (((w.regs.s? sb.toNat).toNat + i.toNat) % 256) th.lane).1 + (slice r (((w.regs.s? sb.toNat).toNat + i.toNat) % 256) th.lane).2 + j)))))).after
        s.cur.len t) := by
  have hx : exec (.tslr d i sb r o t) s = execTslr d i sb r o t s := rfl
  rw [hx, execTslr, State.withRegs_ok hr, h.wave]
  dsimp only
  rw [ho]
  dsimp only
  rw [State.withTokens_ready h.wave hs]
  refine ⟨_, rfl, ?_⟩
  rw [State.perLane_lane h t _ (fun _ _ => rfl), Out.apply_next]

/-- TSLW by a path of one lane. -/
theorem exec_tslw {x : Slot} (hone : s.cur.lanes = [th.lane]) (hlane : w.lanes.filter (fun u => u.lane == th.lane) = [th])
    (hslot : look (s.core w.core).slots id = some x) {row byte : Nat} (hrow : slice r (((w.regs.s? sb.toNat).toNat + i.toNat) % 256) th.lane = (row, byte))
    (hfree : ∀ j < 4, s.slotBusy w.core id row (byte + j) = false) : ∃ s', exec (.tslw d i sb r o t) s = .next s' ∧
    s'.lane? w.core w.slot th.lane = some (th.after s.cur.len t) ∧
    (∀ j < 4, s'.slotByte w.core id (128 * row + byte + j) = BitVec.ofNat 8 ((th.g? s d.toNat).toNat / 2 ^ (8 * j))) ∧
    (∀ k y, k ≠ id ∨ y < 128 * row + byte ∨ 128 * row + byte + 4 ≤ y → s'.slotByte w.core k y = s.slotByte w.core k y) := by
  have hx : exec (.tslw d i sb r o t) s = execTslw d i sb r o t s := rfl
  have hlanes : w.lanes.filter (fun u => s.cur.lanes.elem u.lane) = [th] := by
    rw [← hlane, hone]
    exact List.filter_congr (fun u _ => by simp [Bool.beq_eq_decide_eq])
  have hbs : (List.range 4).map (fun j => if s.slotBusy w.core id row (byte + j) = true then (s.anyBytes (6400000 + th.lane) 4).getD j 0
      else (leBytes 4 (th.g? s d.toNat).toNat).getD j 0) = (List.range 4).map (fun j => BitVec.ofNat 8 ((th.g? s d.toNat).toNat / 2 ^ (8 * j))) := by
    refine List.map_congr_left (fun j hj => ?_)
    have hj4 := List.mem_range.mp hj
    rw [hfree j hj4, if_neg (by decide), getD_leBytes _ _ 4 j hj4]
  rw [hx, execTslw, State.withRegs_ok hr, h.wave]
  dsimp only
  rw [ho]
  dsimp only
  rw [State.withTokens_ready h.wave hs, hlanes, List.foldl_cons, List.foldl_nil]
  simp only [hrow]
  rw [hbs]
  generalize hbytes : (List.range 4).map (fun j => BitVec.ofNat 8 ((th.g? s d.toNat).toNat / 2 ^ (8 * j))) = bs
  have hlen : bs.length = 4 := by rw [← hbytes]; simp
  have hslots : ∀ k y, (((s.slotWrite w.core id (128 * row + byte) bs).spoil w.core id row byte).perLane t (fun _ th => .next th)).slotByte w.core k y =
      (s.slotWrite w.core id (128 * row + byte) bs).slotByte w.core k y := by
    intro k y
    refine State.slotByte_congr ?_ y
    rw [(State.perLane_slots (w := w) (by exact h.wave) t (fun _ _ => rfl) w.core).1, State.spoil_slots]
  refine ⟨_, rfl, State.perLane_goesOn h (by rfl) (by rfl) t, fun j hj => ?_, fun k y hy => ?_⟩
  · rw [hslots, State.slotByte_slotWrite _ _ _ _ _ hslot j (by omega), ← hbytes]
    simp [List.getD, hj]
  · rw [hslots, State.slotByte_slotWrite_beside _ _ _ _ _ k y (by omega)]
end

theorem slice_eq (r : Bool) (idx l : Nat) : slice r idx l = (if r = true then 32 * (idx / 32) + l else idx, if r = true then 4 * (idx % 32) else 4 * l) := by
  cases r <;> rfl

/-- Settles O29: each instruction by the state of the register it names. -/
theorem slotsAndTiles : Obligations.SlotsAndTiles := by
  unfold Obligations.SlotsAndTiles
  refine ⟨?maps, ?slices⟩
  case maps =>
    intro s w th b n sb t h hb
    exact ⟨exec_claim h hb n t, exec_release h hb n t, fun hs hq => exec_aclaim h hb n sb t hs hq, exec_afree h hb n t⟩
  case slices =>
    intro d i sb r o t s w th id h hr hs ho idx row byte
    have hslice : slice r idx th.lane = (row, byte) := slice_eq r idx th.lane
    refine ⟨?_, fun x hone hlane hslot hfree => exec_tslw h d i sb r o t hr hs ho hone hlane hslot hslice hfree⟩
    obtain ⟨s', hx, hl⟩ := exec_tslr h d i sb r o t hr hs ho
    rw [hslice] at hl
    exact ⟨s', hx, hl⟩

end Sys2Proof.Machine
end

section
/-! PROOFS. The collective unwinding of a group (spec/10 R211, R212): O37. -/

namespace Sys2Proof.Machine
open Sys2Proof.Claims

/-! ## Lists in which one element alone counts -/

theorem flatMap_filter {α β : Type} {q : α → Bool} {g : α → List β} {l : List α} (h : ∀ v ∈ l, q v = false → g v = []) :
    (l.filter q).flatMap g = l.flatMap g := by
  induction l with
  | nil => rfl
  | cons v rest ih =>
    have ih := ih (fun x hx => h x (List.mem_cons_of_mem _ hx))
    cases hq : q v with
    | true => rw [List.filter_cons_of_pos hq, List.flatMap_cons, List.flatMap_cons, ih]
    | false => rw [List.filter_cons_of_neg (by simp [hq]), List.flatMap_cons, h v List.mem_cons_self hq, ih]; rfl

theorem filterMap_filter {α β : Type} {q : α → Bool} {g : α → Option β} {l : List α} (h : ∀ v ∈ l, q v = false → g v = none) :
    (l.filter q).filterMap g = l.filterMap g := by
  induction l with
  | nil => rfl
  | cons v rest ih =>
    have ih := ih (fun x hx => h x (List.mem_cons_of_mem _ hx))
    cases hq : q v with
    | true => rw [List.filter_cons_of_pos hq, List.filterMap_cons, List.filterMap_cons, ih]
    | false => rw [List.filter_cons_of_neg (by simp [hq]), List.filterMap_cons, h v List.mem_cons_self hq, ih]

/-! ## Waves whose registers alone change -/

/-- The waves are as they were but for their registers and logs. -/
def SameLanes (s t : State) : Prop := ∃ f : Wave → Wave, (∀ v, { f v with regs := v.regs, lining := v.lining } = v) ∧ t.waves = s.waves.map f

theorem SameLanes.of_waves {s t : State} (h : t.waves = s.waves) : SameLanes s t := ⟨id, fun _ => rfl, by rw [h, List.map_id]⟩

theorem SameLanes.trans {s t u : State} (h : SameLanes s t) (h' : SameLanes t u) : SameLanes s u := by
  obtain ⟨f, hf, hw⟩ := h
  obtain ⟨g, hg, hw'⟩ := h'
  refine ⟨fun v => g (f v), fun v => ?_, by rw [hw', hw, List.map_map]; rfl⟩
  exact (congrArg (fun x : Wave => { x with
    regs := v.regs, lining := v.lining }) (hg (f v)) :).trans (hf v)

theorem SameLanes.foldl {α : Type} {f : State → α → State} (hf : ∀ t x, SameLanes t (f t x)) (l : List α) (s : State) : SameLanes s (l.foldl f s) :=
  List.foldlRecOn (motive := SameLanes s) l f (SameLanes.of_waves rfl) (fun _ ht x _ => ht.trans (hf _ x))

theorem SameLanes.onWave {s : State} {c sl : Nat} {f : Wave → Wave} (hf : ∀ v, { f v with regs := v.regs, lining := v.lining } = v) :
    SameLanes s (s.onWave c sl f) := by
  refine ⟨fun v => if v.isAt c sl then f v else v, fun v => ?_, rfl⟩
  dsimp only
  split
  · exact hf v
  · rfl

theorem Wave.logEntry_rest (w v : Wave) (e : LogEntry) (h : { v with regs := w.regs } = w) :
    { v.logEntry e with regs := w.regs, lining := w.lining } = w := by
  unfold Wave.logEntry
  split
  · exact (congrArg (fun x : Wave => { x with lining := w.lining }) h :)
  · exact (congrArg (fun x : Wave => { x with lining := w.lining }) h :)

theorem State.writeToken_lanes (s : State) (who : Issuer) (tok : Nat) (v : Word) : SameLanes s (s.writeToken who tok v) := by
  unfold State.writeToken
  split
  · exact SameLanes.of_waves rfl
  · exact SameLanes.onWave (fun w => Wave.logEntry_rest w _ _ rfl)

theorem State.spoilCopy_memory (s : State) (o : CopyOp) (d : CopyDesc) : OnlyMemory s (s.spoilCopy o d) := by
  unfold State.spoilCopy
  refine OnlyMemory.foldl (fun t i => ?_) _ s
  split
  · exact OnlyMemory.refl t
  · split
    · split
      · exact (OnlyMemory.scatterWrite _ _ _ _ _).trans (OnlyMemory.overwrite _ _ _)
      · exact OnlyMemory.refl t
    · exact OnlyMemory.putRow _ _ _ _ _ _ _

theorem State.cancelCopy_lanes (s : State) (o : CopyOp) : SameLanes s (s.cancelCopy o) := by
  unfold State.cancelCopy
  split
  · exact SameLanes.of_waves rfl
  · dsimp only
    refine ((SameLanes.of_waves (OnlyMemory.waves ?_)).trans (State.writeToken_lanes _ _ _ _)).trans (SameLanes.of_waves rfl)
    refine (OnlyMemory.onBlock _ _ _).trans (OnlyMemory.foldl (fun t i => ?_) _ _)
    split
    · exact (State.spoilCopy_memory _ _ _).trans (OnlyMemory.countDown _ _ _)
    · exact OnlyMemory.refl t

theorem State.cancelCopies_lanes (s : State) (p : CopyOp → Bool) : SameLanes s (s.cancelCopies p) :=
  SameLanes.foldl State.cancelCopy_lanes _ s

theorem State.refresh_waves (s : State) (c sc : Nat) (hasGang : Bool) : (s.refresh c sc hasGang).waves = s.waves := by
  unfold State.refresh
  split
  · rfl
  · dsimp only
    split <;> rfl

/-! ## The group of a throw -/

theorem State.sameGroup_self (s : State) (k : Nat) (w : Wave) : s.sameGroup k w w = true := by
  unfold State.sameGroup
  rw [beq_self_eq_true, beq_self_eq_true]
  rfl

theorem Thread.thrown?_of_wait {t : Thread} {x : Throw} (h : t.wait = .thrown x) : t.thrown? = some x := by
  unfold Thread.thrown?
  rw [h]

theorem Thread.throwing?_of_thrown {t : Thread} {x : Throw} (h : t.thrown? = some x) : t.throwing? = some x := by
  unfold Thread.throwing?
  rw [h]

theorem Thread.throwing?_of_none {t : Thread} (h : t.thrown?.isSome = false) (hd : t.due = none) : t.throwing? = none := by
  unfold Thread.throwing?
  rw [Option.isSome_eq_false_iff.mp h |> Option.isNone_iff_eq_none.mp, hd]

section
variable {s : State} {w : Wave} {th : Thread} {x : Throw} {r : Region} (hx : th.thrown? = some x) (hr : th.regions.head? = some r)
    (hone : s.waves.filter (fun v => v.lanes.any (fun u => u.thrown?.isSome)) = [w]) (hlane : w.lanes.filter (fun u => u.thrown?.isSome) = [th])
include hx hr hone hlane

/-- The region that the only throw is for. -/
theorem State.outermost_one : s.outermost w th = some r := by
  have hall : s.waves.flatMap (fun v => v.lanes.filterMap (fun u => if u.thrown?.isSome then some (v, u.regions.head?) else none)) = [(w, some r)] := by
    rw [← flatMap_filter (q := fun v => v.lanes.any (fun u => u.thrown?.isSome)), hone]
    · rw [List.flatMap_cons, List.flatMap_nil, List.append_nil, ← filterMap_filter (q := fun u => u.thrown?.isSome) (fun u _ hu => by rw [if_neg (by simp [hu])]), hlane]
      rw [List.filterMap_cons, if_pos (by rw [hx]; rfl), hr]
      rfl
    · intro v _ hv
      refine List.filterMap_eq_nil_iff.mpr (fun u hu => if_neg ?_)
      simpa using List.any_eq_false.mp hv u hu
  obtain ⟨rest, hregs⟩ : ∃ rest, th.regions = r :: rest := List.head?_eq_some_iff.mp hr
  have hdepth : th.depthOf (some r) = some 0 := by
    rw [Thread.depthOf, hregs]
    simp [indexOf]
  unfold State.outermost
  dsimp only
  rw [hall]
  simp only [List.filterMap_cons, List.filterMap_nil]
  rw [if_pos (State.sameGroup_self s r.level w), hdepth]
  simp [hr]

variable (hrest : ∀ v ∈ s.waves, s.sameGroup r.level w v = true → (s.core v.core).faults = [] ∧ v.lining = none ∧ ∀ u ∈ v.lanes, u.acc = [] ∧ u.due = none)
    (hfirst : ∀ v ∈ s.waves, s.wave? v.core v.slot = some v)

include hrest in
/-- The only member of the group that is to throw. -/
theorem State.throwers_one : (s.waves.filter (s.sameGroup r.level w)).flatMap (fun v => v.lanes.filterMap (fun t =>
    match t.throwing? with
    | some x => if (t.regions.head?.map (fun y => y.level == r.level && y.tryPc == r.tryPc)).getD false then some (v, t.lane, x) else none
    | none => none)) = [(w, th.lane, x)] := by
  have hnone : ∀ v ∈ s.waves.filter (s.sameGroup r.level w), ∀ u ∈ v.lanes, u.thrown?.isSome = false → u.throwing? = none := fun v hv u hu h =>
    Thread.throwing?_of_none h ((hrest v (List.mem_of_mem_filter hv) (List.of_mem_filter hv)).2.2 u hu).2
  rw [← flatMap_filter (q := fun v => v.lanes.any (fun u => u.thrown?.isSome)), List.filter_comm, hone,
    List.filter_cons_of_pos (State.sameGroup_self s r.level w), List.filter_nil, List.flatMap_cons, List.flatMap_nil, List.append_nil,
    ← filterMap_filter (q := fun u => u.thrown?.isSome), hlane]
  · rw [List.filterMap_cons, Thread.throwing?_of_thrown hx]
    dsimp only
    rw [hr, if_pos (by simp)]
    rfl
  · intro u hu h
    have hw : w ∈ s.waves := (List.mem_filter.mp (hone ▸ List.mem_singleton_self w)).1
    rw [hnone w (List.mem_filter.mpr ⟨hw, State.sameGroup_self s r.level w⟩) u hu h]
  · intro v hv h
    refine List.filterMap_eq_nil_iff.mpr (fun u hu => ?_)
    rw [hnone v hv u hu (by simpa using List.any_eq_false.mp h u hu)]
end

section
variable {s : State} {p : Wave → Bool} (hunlined : ∀ v ∈ s.waves, p v = true → v.lining = none)
    (hacc : ∀ v ∈ s.waves, p v = true → ∀ u ∈ v.lanes, u.acc = []) (hfirst : ∀ v ∈ s.waves, s.wave? v.core v.slot = some v)

include hunlined in
theorem State.dropMismatches_unlined : s.dropMismatches p = s := by
  have hnone : s.waves.filter (fun w => p w && w.lining.isSome) = [] := by
    refine List.filter_eq_nil_iff.mpr (fun v hv h => ?_)
    rw [Bool.and_eq_true] at h
    rw [hunlined v hv h.1] at h
    exact absurd h.2 (by decide)
  rw [State.dropMismatches, hnone]
  rfl

include hacc hfirst in
theorem State.drainWaves_quiet : s.drainWaves p = s := by
  unfold State.drainWaves
  refine List.foldlRecOn (motive := fun t => t = s) _ _ rfl (fun t ht v hv => ?_)
  rw [ht]
  refine State.drain_drained (fun l hl x hx => ?_)
  obtain ⟨u, hu, hl'⟩ := Option.bind_eq_some_iff.mp (by exact hx)
  obtain rfl := Option.some.inj ((hfirst v (List.mem_of_mem_filter hv)).symm.trans hu)
  exact hacc v (List.mem_of_mem_filter hv) (List.of_mem_filter hv) x (Wave.mem_of_lane? hl')

include hacc in
theorem State.quiet_of_none : s.quiet p = true := by
  refine List.all_eq_true.mpr (fun v hv => List.all_eq_true.mpr (fun u hu => ?_))
  rw [hacc v (List.mem_of_mem_filter hv) (List.of_mem_filter hv) u hu]
  rfl
end

/-- A live member steered to the catch. -/
theorem Thread.steer_live {u : Thread} (h : u.live = true) (r : Region) : (u.steer r).lane = u.lane ∧ (u.steer r).pc = clearBit0 (catchOf r u.regions) ∧
    (u.steer r).regions = outsideOf r u.regions ∧ (u.steer r).loops = [] ∧ (u.steer r).handler = false ∧ (u.steer r).wait = .no ∧ (u.steer r).g = u.g ∧
    (u.steer r).p = u.p ∧ (u.steer r).arrived = [] := by
  unfold Thread.steer
  rw [h]
  exact ⟨rfl, rfl, rfl, rfl, rfl, rfl, rfl, rfl, rfl⟩

/-- The views of the group's cores brought up to date: no wave changes. -/
theorem State.flushedGroup_waves (l : List Wave) (sc : Nat) (hasGang : Bool) (s : State) :
    (l.foldl (fun t v => (t.flushFor v.core v.blk).refresh v.core sc hasGang) s).waves = s.waves :=
  List.foldlRecOn (motive := fun t : State => t.waves = s.waves) l _ rfl (fun t ht v _ => (State.refresh_waves ..).trans ht)

/-- What the unwinding of a group leaves in a wave: the record, the lanes at the catch. -/
def Wave.caught (v : Wave) (r : Region) (e : XRecord) (v' : Wave) : Prop :=
  v'.core = v.core ∧ v'.slot = v.slot ∧ v'.regs.x = e ∧ v'.lanes = v.lanes.map (fun t => t.steer r)

section
variable {s : State} {w : Wave} {th : Thread} {x : Throw} {r : Region} (hx : th.thrown? = some x) (hr : th.regions.head? = some r)
    (hone : s.waves.filter (fun v => v.lanes.any (fun u => u.thrown?.isSome)) = [w]) (hlane : w.lanes.filter (fun u => u.thrown?.isSome) = [th])
    (hrest : ∀ v ∈ s.waves, s.sameGroup r.level w v = true → (s.core v.core).faults = [] ∧ v.lining = none ∧ ∀ u ∈ v.lanes, u.acc = [] ∧ u.due = none)
    (hfirst : ∀ v ∈ s.waves, s.wave? v.core v.slot = some v)
include hx hr hone hlane hrest hfirst

theorem State.unwind_caught {v : Wave} (hv : v ∈ s.waves) (hg : s.sameGroup r.level w v = true) : ∃ v' ∈ (s.unwind w r).waves,
    v.caught r (xrecord x (32 * (w.wlin % max 1 ((s.waveRec w).wavesIn r.level)) + th.lane) 1
      (maskOf 32 (fun l => w.isAt v.core v.slot && th.lane == l)) r.level) v' := by
  have hacc : ∀ v ∈ s.waves, s.sameGroup r.level w v = true → ∀ u ∈ v.lanes, u.acc = [] := fun v hv h u hu => ((hrest v hv h).2.2 u hu).1
  unfold State.unwind
  dsimp only
  rw [State.dropMismatches_unlined (fun v hv h => (hrest v hv h).2.1), State.drainWaves_quiet hacc hfirst]
  generalize hT : List.flatMap _ (List.filter (s.sameGroup r.level w) s.waves) = T
  obtain rfl : T = [(w, th.lane, x)] := hT.symm.trans (State.throwers_one hx hr hone hlane hrest)
  rw [State.quiet_of_none hacc]
  have hcyc : (([(w, th.lane, x)].filter (fun p : Wave × Nat × Throw =>
      ((p.1.lane? p.2.1).bind (fun t => t.thrown?)).isSome)).map (fun p : Wave × Nat × Throw => p.2.2.cyc)).min?.getD x.cyc = x.cyc := by
    rw [List.filter_cons]
    split <;> rfl
  simp only [hcyc]
  rw [if_neg (by decide), State.flushedGroup_waves]
  have hmerged : [(w, th.lane, x)].filter (fun p : Wave × Nat × Throw => p.2.2.cyc == x.cyc ||
      [(w, th.lane, x)].any (fun q => q.2.2.cyc == x.cyc && q.1.isAt p.1.core p.1.slot && q.2.2.step == p.2.2.step)) = [(w, th.lane, x)] := by
    rw [List.filter_cons_of_pos (by simp)]
    rfl
  simp only [hmerged]
  simp only [List.foldl_cons, List.foldl_nil, List.headD_cons, List.any_cons, List.any_nil, Bool.or_false, Nat.lt_irrefl, if_false, List.length_singleton]
  obtain ⟨f, hf, hwaves⟩ := State.cancelCopies_lanes s (fun o => ((s.issuing? o.who).map (fun v => s.sameGroup r.level w v && v.lanes.any (fun t => t.live && t.lane == o.who.lane))).getD false)
  refine ⟨_, List.mem_map.mpr ⟨f v, ?_, rfl⟩, ?_⟩
  · exact hwaves ▸ List.mem_map_of_mem hv
  have hgf : s.sameGroup r.level w (f v) = true := by
    have e := hf v
    rw [← hg, State.sameGroup, State.sameGroup, State.space?, State.space?, show (f v).blk = v.blk from (congrArg Wave.blk e :), show (f v).wlin = v.wlin from (congrArg Wave.wlin e :)]
    rfl
  rw [hgf]
  have e := hf v
  have hcore : (f v).core = v.core := (congrArg Wave.core e :)
  have hslot : (f v).slot = v.slot := (congrArg Wave.slot e :)
  have hlanes : (f v).lanes = v.lanes := (congrArg Wave.lanes e :)
  refine ⟨hcore, hslot, ?_, ?_⟩
  · rw [if_neg (by decide), ← hcore, ← hslot]
    rfl
  · rw [if_neg (by decide), ← hlanes]
    rfl

omit hfirst in
theorem exec_unwind {c sl : Nat} (hw : s.wave? c sl = some w) (hl : w.lane? th.lane = some th) :
    exec (.collectiveUnwind c sl th.lane) s = .next (s.unwind w r) := by
  have hx' : exec (.collectiveUnwind c sl th.lane) s = execCollectiveUnwind c sl th.lane s := rfl
  rw [hx', execCollectiveUnwind, hw]
  dsimp only
  rw [hl]
  dsimp only
  rw [hx]
  dsimp only
  rw [State.outermost_one hx hr hone hlane]
  dsimp only
  rw [if_neg]
  · rfl
  · simp only [List.any_eq_true, not_exists, not_and]
    intro v hv h
    rw [(hrest v (List.mem_of_mem_filter hv) (List.of_mem_filter hv)).1] at h
    exact absurd h (by decide)
end

/-- Settles O37: the group's throws are the one throw, and every member is steered to its catch. -/
theorem unwinding : Obligations.Unwinding := by
  unfold Obligations.Unwinding
  intro s c sl w th x r hw hl hwait hr hone hlane hfirst hrest
  have hx := Thread.thrown?_of_wait hwait
  refine ⟨_, exec_unwind hx hr hone hlane hrest hw hl, fun v hv hg => ?_⟩
  obtain ⟨v', hv', hcore, hslot, hrec, hlanes⟩ := State.unwind_caught hx hr hone hlane hrest hfirst hv hg
  refine ⟨v', hv', hcore, hslot, ?_⟩
  rw [hrec]
  refine ⟨rfl, rfl, rfl, rfl, rfl, ?_, rfl, fun u hu hlive => ⟨u.steer r, ?_, Thread.steer_live hlive r⟩⟩
  · simp only [xrecord, BEq.comm (a := th.lane)]
  · exact hlanes ▸ List.mem_map_of_mem hu

end Sys2Proof.Machine
end

section
/-! PROOFS. A path that publishes first (spec/08 R146), and what a publish leaves; TEND, its retirement and TCBDONE (spec/10 R222, R224): O35. -/

namespace Sys2Proof.Machine
open Sys2Proof.Claims

/-! ## The lanes of a path that has nothing unperformed -/

/-- The lanes of a wave that stand in a list, in the wave's order. -/
def Wave.among (w : Wave) (ls : List Nat) : List Nat := (w.lanes.filter (fun t => ls.elem t.lane)).map (·.lane)

/-- The state in which the lanes of the path that exist are about to act, the values before an SWR that nothing waits for dropped. -/
def State.readied (s : State) (w : Wave) : State :=
  { s with waves := (s.onWave s.cur.core s.cur.slot Wave.settleOld).waves, cur := { s.cur with lanes := w.among s.cur.lanes } }

/-- The state once part of a path has acted: the path is the one it was. -/
def State.backTo (u s : State) : State := { u with cur := s.cur }

@[simp] theorem State.backTo_lane? (u s : State) (c sl l : Nat) : (u.backTo s).lane? c sl l = u.lane? c sl l := rfl
@[simp] theorem State.backTo_mem (u s : State) : (u.backTo s).mem = u.mem := rfl
@[simp] theorem State.backTo_core (u s : State) (c : Nat) : (u.backTo s).core c = u.core c := rfl
@[simp] theorem State.backTo_blocks (u s : State) : (u.backTo s).blocks = u.blocks := rfl
@[simp] theorem State.backTo_cur (u s : State) : (u.backTo s).cur = s.cur := rfl

theorem clear_fresh {s : State} {w : Wave} (h : Clear s w) : w.fresh := fun l e => by rw [h.unlined] at e; exact nomatch e

/-- An instruction of a path of no lane: what nothing waits for is dropped. -/
theorem State.perLane_none {u : State} {w : Wave} (hw : u.curWave = some w) (hl : u.cur.lanes = []) (t : Bool) (f : Wave → Thread → Out) :
    u.perLane t f = u.onWave u.cur.core u.cur.slot Wave.settleOld := by
  have hno : ∀ (v : Wave) (p : Thread → Bool), v.lanes.any (fun t => ([] : List Nat).elem t.lane && p t) = false := fun v p =>
    List.any_eq_false.mpr (fun t _ => by simp)
  have hmap : ∀ (v : Wave) (g : Thread → Thread), v.lanes.map (fun t => if ([] : List Nat).elem t.lane then g t else t) = v.lanes := fun v g =>
    (List.map_congr_left (fun t _ => if_neg (by simp))).trans v.lanes.map_id'
  unfold State.perLane
  rw [hw]
  dsimp only
  rw [hl, hno, if_neg (by decide)]
  simp only [hno, hmap]
  rfl

section
variable {s : State} {w : Wave} {th : Thread} (h : s.OnPath w th)
include h

theorem State.readied_curWave : (s.readied w).curWave = some w.settleOld := by
  have e : (s.readied w).curWave = (s.onCur Wave.settleOld).curWave := rfl
  rw [e]
  exact State.curWave_onCur h.wave (fun _ => ⟨rfl, rfl⟩)

theorem State.readied_onPath : (s.readied w).OnPath w.settleOld th where
  wave := State.readied_curWave h
  lane := h.lane
  path := by
    have hmem : th ∈ w.lanes.filter (fun t => s.cur.lanes.elem t.lane) :=
      List.mem_filter.mpr ⟨Wave.mem_of_lane? h.lane, List.elem_eq_true_of_mem h.path⟩
    exact List.mem_map_of_mem (f := fun t : Thread => t.lane) hmem

theorem State.within_none (x : Wait) : s.within [] (fun u => u.holdAll x) = { s with waves := (s.onWave s.cur.core s.cur.slot Wave.settleOld).waves } := by
  have hw : ({ s with cur := { s.cur with lanes := [] } } : State).curWave = some w := h.wave
  rw [State.within, State.holdAll, State.perLane_none hw rfl]
  rfl

variable (hc : Clear s w)
include hc

theorem State.drain_clear : s.drain s.cur.core s.cur.slot s.cur.lanes = s := by
  refine State.drain_drained (fun l hl x hx => ?_)
  obtain ⟨v, hv, hl'⟩ := Option.bind_eq_some_iff.mp (by exact hx)
  obtain rfl := Option.some.inj (h.wave.symm.trans hv)
  have hlane : x.lane = l := by simpa using List.find?_some (p := fun t : Thread => t.lane == l) hl'
  exact (hc.lanes x (Wave.mem_of_lane? hl') (hlane ▸ hl)).1

/-- A publish at a scope other than .system waits for nothing: every lane of the path goes on with what follows it. -/
theorem State.afterPublish_clear {sc : Nat} (hsc : sc ≠ 5) (k : State → State) : s.afterPublish sc k =
    (k ((s.readied w).publish s.cur.core (s.gangId w.blk) sc (s.recOf w.blk).hasGang)).backTo s := by
  have hfar : ∀ b, (sc == 5 && b) = false := fun b => by rw [beq_eq_false_iff_ne.mpr hsc]; rfl
  have hready : ∀ u ∈ w.lanes, s.cur.lanes.elem u.lane = true → (u.wait == .no && u.pc == s.cur.pc) = true ∧ u.acc.isEmpty = true := by
    intro u hu hl
    obtain ⟨ha, hwait, hpc⟩ := hc.lanes u hu (List.mem_of_elem_eq_true hl)
    simp [ha, hwait, hpc]
  have hok : s.curLanes (fun t => (t.wait == .no && t.pc == s.cur.pc) && t.acc.isEmpty && !(sc == 5 && (s.publish s.cur.core 0 5 true).unsent)) =
      w.among s.cur.lanes := by
    rw [State.curLanes, h.wave, hfar]
    refine congrArg (List.map (fun t : Thread => t.lane)) (List.filter_congr (fun u hu => ?_))
    cases hl : s.cur.lanes.elem u.lane with
    | false => rfl
    | true => rw [(hready u hu hl).1, (hready u hu hl).2]; rfl
  have hlate : s.curLanes (fun t => (t.wait == .no && t.pc == s.cur.pc) && !(t.acc.isEmpty && !(sc == 5 && (s.publish s.cur.core 0 5 true).unsent))) = [] := by
    rw [State.curLanes, h.wave, hfar]
    refine List.map_eq_nil_iff.mpr (List.filter_eq_nil_iff.mpr (fun u hu => ?_))
    cases hl : s.cur.lanes.elem u.lane with
    | false => simp
    | true => rw [(hready u hu hl).1, (hready u hu hl).2]; simp
  have hmem := (State.readied_onPath h).path
  unfold State.afterPublish
  dsimp only
  rw [State.drain_clear h hc, hok, hlate, hfar]
  have hsettled : s.within [] (fun u => if false = true then u.perLane false (fun _ t => .hold (if t.acc.isEmpty then t.issue u (.publish 5) (.phys 0) 0 else t) .drain)
      else u.holdAll .drain) = { s with waves := (s.onWave s.cur.core s.cur.slot Wave.settleOld).waves } := State.within_none h .drain
  rw [hsettled]
  have hw : ({ s with waves := (s.onWave s.cur.core s.cur.slot Wave.settleOld).waves } : State).curWave = some w.settleOld := State.readied_curWave h
  rw [hw]
  dsimp only
  rw [if_neg (by rw [List.isEmpty_iff]; exact List.ne_nil_of_mem hmem)]
  rfl
end

/-- A path stands as it did where its wave and the path are the same. -/
theorem State.OnPath.of_same {s t : State} {w : Wave} {th : Thread} (h : s.OnPath w th) (hw : t.waves = s.waves) (hc : t.cur = s.cur) : t.OnPath w th where
  wave := by rw [← h.wave, State.curWave, State.curWave, State.wave?, State.wave?, hw, hc]
  lane := h.lane
  path := hc ▸ h.path

/-! ## What a publish leaves of the writes of cores -/

theorem State.core_writes_of_map {s t : State} {f : Core → Core} (hf : ∀ k, (f k).writes = k.writes) (h : t.cores = s.cores.map (fun p => (p.1, f p.2))) (c : Nat) :
    (t.core c).writes = (s.core c).writes := by
  unfold State.core getD
  rw [h, look_mapPair (fun p => (p.1, f p.2)) (fun _ => rfl)]
  cases look s.cores c with
  | none => rfl
  | some v => exact hf v

theorem State.homeWrite_writes (s : State) (gang : Option Nat) (pa : Nat) (b : Byte) (stamp c : Nat) :
    ((s.homeWrite gang pa b stamp).core c).writes = (s.core c).writes := by
  unfold State.homeWrite
  split
  · refine State.core_writes_of_map (f := fun k => if isDevice pa then keepOld k pa (readMem s.mem pa) else k) (fun k => ?_) ?_ c
    · split <;> rfl
    · cases gang with
      | none => rfl
      | some g =>
        dsimp only
        by_cases h : isDevice pa = true
        · simp only [h, if_true]
          rfl
        · simp only [h, if_false, Bool.false_eq_true]
  · rfl

theorem State.flushOverlay_writes (s : State) (g c : Nat) : ((s.flushOverlay g).core c).writes = (s.core c).writes := by
  unfold State.flushOverlay
  split
  · exact List.foldlRecOn (motive := fun t : State => (t.core c).writes = (s.core c).writes) _ _ rfl
      (fun t ht p _ => (State.homeWrite_writes t _ _ _ _ c).trans ht)
  · rfl

theorem State.covered_writes (s : State) (x c : Nat) : ((s.covered x).core c).writes = (s.core c).writes :=
  List.foldlRecOn (motive := fun t : State => (t.core c).writes = (s.core c).writes) _ _ rfl
    (fun t ht p _ => ((congrArg (fun u : State => (u.core c).writes) (State.bind_eq t _ _) :)).trans ht)

theorem State.placeByte_writes (s : State) (c g sc pa : Nat) (w : ViewWrite) (x : Nat) :
    ((s.placeByte c g sc pa w).core x).writes = if x = c then eraseAt (s.core c).writes pa else (s.core x).writes := by
  have h2 : ∀ (k : Core → Core), (∀ y, (k y).writes = eraseAt y.writes pa) →
      (((s.nextStamp).onCore c k).core x).writes = if x = c then eraseAt (s.core c).writes pa else (s.core x).writes := by
    intro k hk
    rw [State.core_onCore]
    split
    · exact hk _
    · rfl
  unfold State.placeByte
  dsimp only
  split
  · exact (State.homeWrite_writes _ _ _ _ _ x).trans (h2 _ (fun _ => rfl))
  · exact h2 (fun k => { k with writes := eraseAt k.writes pa, snap := takeLater k.snap pa ⟨w.val, w.stamp.getD (s.stamp + 1)⟩ }) (fun _ => rfl)

/-- A core that holds no write of its own holds none after a publish of any core. -/
theorem State.publish_keepsNone {s : State} {x : Nat} (h : (s.core x).writes = []) (c g sc : Nat) (hasGang : Bool) :
    ((s.publish c g sc hasGang).core x).writes = [] := by
  unfold State.publish
  split
  · unfold State.orderOwn
    dsimp only
    rw [State.core_onCore]
    split
    next hx =>
      subst x
      exact List.map_eq_nil_iff.mpr h
    next => exact h
  · dsimp only
    rw [State.covered_writes]
    refine List.foldlRecOn (motive := fun t : State => (t.core x).writes = []) _ _ ?_ (fun t ht g _ => (State.flushOverlay_writes t g x).trans ht)
    refine List.foldlRecOn (motive := fun t : State => (t.core x).writes = []) _ _ h (fun t ht p _ => ?_)
    rw [State.placeByte_writes]
    split
    next hx => rw [← hx, ht]; rfl
    next => exact ht

/-- After a publish at a scope that reaches beyond the core it holds no write of its own. -/
theorem State.publish_clears (s : State) (c g sc : Nat) (hasGang : Bool) (hsc : ¬ (sc ≤ 1 ∨ (sc = 2 ∧ hasGang = false))) :
    ((s.publish c g sc hasGang).core c).writes = [] := by
  have hfold : ∀ (l : List (Nat × ViewWrite)) (t : State), (t.core c).writes = l →
      ((l.foldl (fun t p => t.placeByte c g sc p.1 p.2) t).core c).writes = [] := by
    intro l
    induction l with
    | nil => exact fun _ h => h
    | cons p rest ih =>
      refine fun t h => ih _ ?_
      rw [State.placeByte_writes, if_pos rfl, h]
      exact if_pos rfl
  unfold State.publish
  rw [if_neg hsc]
  dsimp only
  rw [State.covered_writes]
  exact List.foldlRecOn (motive := fun t : State => (t.core c).writes = []) _ _ (hfold _ s rfl) (fun t ht g _ => (State.flushOverlay_writes t g c).trans ht)

/-! ## TEND -/

theorem State.tendPublish_waves (s : State) (blk : Nat) : (s.tendPublish blk).waves = s.waves := by
  unfold State.tendPublish
  split
  · split
    · exact (OnlyMemory.publish ..).waves
    · rfl
  · rfl

theorem State.tendPublish_keepsNone {s : State} {x : Nat} (h : (s.core x).writes = []) (blk : Nat) : ((s.tendPublish blk).core x).writes = [] := by
  unfold State.tendPublish
  split
  · split
    · exact State.publish_keepsNone h ..
    · exact h
  · exact h

section
variable {s : State} {w : Wave} {th : Thread} (h : s.OnPath w th)
include h

theorem exec_tend (hc : Clear s w) (t : Bool) : ∃ s', exec (.tend t) s = .next s' ∧ s'.lane? w.core w.slot th.lane = some { th with wait := .tend t } ∧
    (s'.core w.core).writes = [] := by
  obtain ⟨hcore, _⟩ := State.wave?_isAt (s := s) h.wave
  have hpath : ((s.readied w).publish s.cur.core (s.gangId w.blk) 3 (s.recOf w.blk).hasGang).OnPath w.settleOld th :=
    (State.readied_onPath h).of_same (OnlyMemory.publish ..).waves (OnlyMemory.publish ..).cur
  have hnone := State.publish_clears (s.readied w) w.core (s.gangId w.blk) 3 (s.recOf w.blk).hasGang (by omega)
  have hx : exec (.tend t) s = execTend t s := rfl
  rw [hx, execTend, State.oncePath_fresh h.wave (clear_fresh hc) _ _ h.lanes_ne (by rw [State.afterPublish_clear h hc (by decide)]; rfl),
    State.afterPublish_clear h hc (by decide)]
  rw [← hcore] at hpath ⊢
  generalize (s.readied w).publish w.core (s.gangId w.blk) 3 (s.recOf w.blk).hasGang = u at hpath hnone
  dsimp only
  have hheld := State.holdAll_waits hpath (.tend t)
  have hcw : (u.holdAll (.tend t)).curWave = some (laneWave u false (fun _ t' => .hold t' (.tend t)) w.settleOld) :=
    State.perLane_curWave hpath.wave false _
  have hkeep : ((u.holdAll (.tend t)).core w.core).writes = [] := by
    have e := (State.perLane_onlyLanes hpath.wave false (f := fun _ t' => .hold t' (.tend t)) (fun _ _ => rfl)).cores w.core
    exact (congrArg Core.writes e :).trans hnone
  rw [hcw]
  refine ⟨_, rfl, ?_, ?_⟩
  · refine Eq.trans ?_ hheld
    exact State.lane?_of_waves (State.tendPublish_waves _ _) _ _ _
  · exact State.tendPublish_keepsNone hkeep _
end
/-! ## Its retirement -/

theorem State.wave?_map {s : State} {f : Wave → Wave} (hf : ∀ v : Wave, (f v).core = v.core ∧ (f v).slot = v.slot) (c sl : Nat) :
    ({ s with waves := s.waves.map f } : State).wave? c sl = (s.wave? c sl).map f := by
  unfold State.wave?
  rw [List.find?_map]
  refine congrArg (Option.map f) (congrArg (fun p => s.waves.find? p) (funext fun v => ?_))
  obtain ⟨hc, hs⟩ := hf v
  simp [Wave.isAt, hc, hs]

theorem Wave.passAll_place (w : Wave) (f : Thread → Thread) : (w.passAll f).core = w.core ∧ (w.passAll f).slot = w.slot := Wave.logPassed_place w _

theorem State.taskState_memory (s : State) (g : Gang) (st : Nat) : OnlyMemory s (s.taskState g st) := by
  unfold State.taskState
  split
  · exact (OnlyMemory.devWrite ..).trans (OnlyMemory.devWrite ..)
  · exact OnlyMemory.refl s

/-- A thread that waits at a TEND, let go on. -/
def Thread.retired (t : Thread) : Thread :=
  match t.wait with
  | .tend k => (({ t with wait := .no }).advance 4).tackIf k
  | _ => t

theorem Thread.retired_lane (t : Thread) : t.retired.lane = t.lane := by
  unfold Thread.retired
  split
  next k _ => rw [Thread.advance_tackIf]; rfl
  next => rfl

theorem Thread.retired_of_tend {t : Thread} {k : Bool} (h : t.wait = .tend k) : t.retired = ({ t with wait := .no }).after 4 k := by
  unfold Thread.retired
  rw [h]
  dsimp only
  exact Thread.advance_tackIf ..

/-- Every thread of a block let go on from its TEND. -/
theorem State.retired_lane {u : State} {w : Wave} {th : Thread} {t : Bool} (hw : u.wave? w.core w.slot = some w) (hl : w.lane? th.lane = some th)
    (hwait : th.wait = .tend t) : ({ u with
      waves := u.waves.map (fun v => if v.blk = w.blk then v.passAll Thread.retired else v) } : State).lane? w.core w.slot th.lane =
      some ({ th with wait := .no }.after 4 t) := by
  rw [State.lane?, State.wave?_map (fun v => ?_), hw, Option.map_some, Option.bind_some, if_pos rfl]
  · refine (lane_find_map w.lanes th.lane Thread.retired Thread.retired_lane).trans ?_
    rw [show w.lanes.find? (fun t => t.lane == th.lane) = some th from hl, Option.map_some, Thread.retired_of_tend hwait]
  · split
    · exact Wave.passAll_place v _
    · exact ⟨rfl, rfl⟩

theorem exec_tendRetire {s : State} {w : Wave} {th : Thread} {b : Block} {t : Bool} (hb : s.block? w.blk = some b) (hq : b.queues.all List.isEmpty = true)
    (hmet : s.tendMet w.blk = true) (hw : s.wave? w.core w.slot = some w) (hl : w.lane? th.lane = some th) (hwait : th.wait = .tend t) :
    ∃ s', exec (.tendRetire w.blk) s = .next s' ∧ s'.lane? w.core w.slot th.lane = some ({ th with wait := .no }.after 4 t) := by
  have hx : exec (.tendRetire w.blk) s = execTendRetire w.blk s := rfl
  rw [hx, execTendRetire, hb]
  dsimp only
  rw [hmet, hq, if_neg (by decide)]
  refine ⟨_, rfl, ?_⟩
  refine State.retired_lane ?_ hl hwait
  rw [← hw]
  split
  · exact (State.taskState_memory _ _ _).wave? _ _
  · rfl

/-! ## A state in which addresses and memory are the same -/

/-- Memory, its translation and the blocks, gangs and launches that reach it are the same. -/
structure SameHome (s t : State) : Prop where
  rest : { t with
    waves := s.waves, cur := s.cur, gangs := s.gangs, loose := s.loose } = s
  gang : ∀ g, t.gang? g = s.gang? g

theorem SameHome.refl (s : State) : SameHome s s := ⟨rfl, fun _ => rfl⟩

theorem SameHome.trans {s t u : State} (h : SameHome s t) (h' : SameHome t u) : SameHome s u where
  rest := (congrArg (fun x : State => { x with
    waves := s.waves, cur := s.cur, gangs := s.gangs, loose := s.loose }) h'.rest :).trans h.rest
  gang g := (h'.gang g).trans (h.gang g)

section
variable {s t : State} (h : SameHome s t)
include h

theorem SameHome.mem : t.mem = s.mem := (congrArg State.mem h.rest :)
theorem SameHome.mon : t.mon = s.mon := (congrArg State.mon h.rest :)
theorem SameHome.tlb : t.tlb = s.tlb := (congrArg State.tlb h.rest :)
theorem SameHome.free : t.free = s.free := (congrArg State.free h.rest :)
theorem SameHome.cores : t.cores = s.cores := (congrArg State.cores h.rest :)
theorem SameHome.blocks : t.blocks = s.blocks := (congrArg State.blocks h.rest :)
theorem SameHome.launches : t.launches = s.launches := (congrArg State.launches h.rest :)
theorem SameHome.poisoned : t.poisoned = s.poisoned := (congrArg State.poisoned h.rest :)
theorem SameHome.stamps : t.stamps = s.stamps := (congrArg State.stamps h.rest :)
theorem SameHome.stamp : t.stamp = s.stamp := (congrArg State.stamp h.rest :)
theorem SameHome.comms : t.comms = s.comms := (congrArg State.comms h.rest :)
theorem SameHome.block? (b : Nat) : t.block? b = s.block? b := by rw [State.block?, State.block?, h.blocks]
theorem SameHome.gangOf (b : Nat) : t.gangOf b = s.gangOf b := by
  rw [State.gangOf, State.gangOf, h.block?]
  exact congrArg (Option.bind (s.block? b)) (funext fun k => h.gang k.gang)
theorem SameHome.launchOf (b : Nat) : t.launchOf b = s.launchOf b := by
  rw [State.launchOf, State.launchOf, h.gangOf]
  exact congrArg (Option.bind (s.gangOf b)) (funext fun g => by rw [State.launch?, State.launch?, h.launches])
theorem SameHome.vfOf (b : Nat) : t.vfOf b = s.vfOf b := by rw [State.vfOf, State.vfOf, h.launchOf]
theorem SameHome.leaseOf (b : Nat) : t.leaseOf b = s.leaseOf b := by rw [State.leaseOf, State.leaseOf, h.launchOf]
theorem SameHome.gangId (b : Nat) : t.gangId b = s.gangId b := by rw [State.gangId, State.gangId, h.block?]
theorem SameHome.recOf (b : Nat) : t.recOf b = s.recOf b := by
  have hp : t.progOf b = s.progOf b := by simp only [State.progOf, h.gangOf, State.launch?, h.launches]
  rw [State.recOf, State.recOf, hp]
theorem SameHome.padAt (b a : Nat) : t.padAt b a = s.padAt b a := by
  have hb : ∀ g, t.blocksOf g = s.blocksOf g := fun g => by rw [State.blocksOf, State.blocksOf, h.blocks]
  unfold State.padAt
  rw [h.block?]
  simp only [h.recOf, hb]
theorem SameHome.translate (vf : Nat) (va : Dword) (write fetch : Bool) : t.translate vf va write fetch = s.translate vf va write fetch :=
  State.translate_congr h.mem h.mon h.tlb h.free vf va write fetch
theorem SameHome.resolve (b : Nat) (va : Dword) (n : Nat) (write : Bool) : t.resolve b va n write = s.resolve b va n write := by
  have hw : t.windowOf va.toNat = s.windowOf va.toNat := by rw [State.windowOf, State.windowOf, h.blocks]
  unfold State.resolve
  rw [hw, h.leaseOf, h.vfOf, h.translate]
  simp only [h.padAt]
theorem SameHome.homeNat (pa n : Nat) : t.homeNat pa n = s.homeNat pa n := State.homeNat_of_mem h.mem pa n
theorem SameHome.core (c : Nat) : t.core c = s.core c := by rw [State.core, State.core, h.cores]
theorem SameHome.orderly (ho : Orderly s) : Orderly t := by
  refine ⟨by rw [h.mem]; exact ho.1, fun x => ?_⟩
  rw [h.stamps, h.stamp]
  exact ho.2 x
theorem SameHome.noAreas (ha : NoAreas s) : NoAreas t := by
  refine ⟨fun c hc => ?_, fun k hk => ?_⟩
  · rw [h.cores] at hc
    exact ha.1 c hc
  · rw [h.comms] at hk
    exact ha.2 k hk
theorem SameHome.devGet (vf va n : Nat) : t.devGet vf va n = s.devGet vf va n := by
  simp only [State.devGet, State.vaNat, State.devAddr, h.translate, h.homeNat]
end

section
variable {s : State} {c : Nat} (hw : (s.core c).writes = []) (ho : ∀ g k, s.gang? g = some k → k.overlay = [])
include hw ho

/-- A publish of what there is nothing of changes nothing that memory reads as. -/
theorem SameHome.publish (g sc : Nat) (hasGang : Bool) (hsc : ¬ (sc ≤ 1 ∨ (sc = 2 ∧ hasGang = false))) : SameHome s (s.publish c g sc hasGang) := by
  unfold State.publish
  rw [if_neg hsc, hw, List.foldl_nil]
  dsimp only
  generalize (s.gangsOn c).filter (fun g' => wide sc || g' != g) = gs
  refine SameHome.trans (t := gs.foldl State.flushOverlay s) ?_ ?_
  · refine List.foldlRecOn (motive := SameHome s) _ _ (SameHome.refl s) (fun t ht g' _ => ht.trans ?_)
    unfold State.flushOverlay
    split
    next k hk =>
      have hk' : k.overlay = [] := ho g' k (by rw [← ht.gang]; exact hk)
      rw [hk']
      refine ⟨rfl, fun x => ?_⟩
      have e : (t.onGang g' (fun k => { k with overlay := [] })).gang? x = if x = g' then (t.gang? g').map (fun k => { k with overlay := [] }) else t.gang? x :=
        look_onKey ..
      refine e.trans ?_
      split
      next hx => rw [hx, hk, Option.map_some, ← hk']
      next => rfl
    next => exact SameHome.refl t
  · refine List.foldlRecOn (motive := SameHome _) _ _ (SameHome.refl _) (fun t ht p _ => ht.trans ?_)
    rw [State.bind_eq]
    exact ⟨rfl, fun _ => rfl⟩

omit ho hw in
theorem SameHome.readied (s : State) (w : Wave) : SameHome s (s.readied w) := ⟨rfl, fun _ => rfl⟩
end

/-! ## TCBDONE -/

/-- The waves and the path are the same. -/
structure SamePath (s t : State) : Prop where
  waves : t.waves = s.waves
  cur : t.cur = s.cur

theorem SamePath.refl (s : State) : SamePath s s := ⟨rfl, rfl⟩
theorem SamePath.trans {s t u : State} (h : SamePath s t) (h' : SamePath t u) : SamePath s u := ⟨h'.waves.trans h.waves, h'.cur.trans h.cur⟩
theorem SamePath.foldl {α : Type} {f : State → α → State} (hf : ∀ t x, SamePath t (f t x)) (l : List α) (s : State) : SamePath s (l.foldl f s) :=
  List.foldlRecOn (motive := SamePath s) l f (SamePath.refl s) (fun _ ht x _ => ht.trans (hf _ x))
theorem OnlyMemory.path {s t : State} (h : OnlyMemory s t) : SamePath s t := ⟨h.waves, h.cur⟩

theorem State.devWrite_path (s : State) (vf va : Nat) (bs : List Byte) : SamePath s (s.devWrite vf va bs) := (OnlyMemory.devWrite s vf va bs).path
theorem State.devPut_path (s : State) (vf va n v : Nat) : SamePath s (s.devPut vf va n v) := (OnlyMemory.devWrite s vf va (leBytes n v)).path

theorem State.placeRecord_path (s : State) (q : Submit) : SamePath s (s.placeRecord q) := by
  unfold State.placeRecord
  exact ((State.devWrite_path ..).trans (State.devWrite_path ..)).trans (State.devPut_path ..)

theorem State.placeReady_path (s : State) : SamePath s s.placeReady := by
  have h := fun subs : List Submit => SamePath.foldl State.placeRecord_path (s.submits.filter (fun q => decide
    ((q.index + 2 ^ 32 - s.devGet q.vf (s.queueVa q.vf q.cls + 16) 4) % 2 ^ 32 < s.devGet q.vf (s.queueVa q.vf q.cls + 8) 4))) { s with submits := subs }
  exact ⟨(h _).waves, (h _).cur⟩

theorem State.submit_path (s : State) (vf va : Nat) : SamePath s (s.submit vf va) := by
  unfold State.submit
  dsimp only
  refine SamePath.trans ?_ (State.placeReady_path _)
  generalize s.queueVa vf _ = dv
  have h := State.devPut_path s vf (dv + 12) 4 ((s.devGet vf (dv + 12) 4 + 1) % 2 ^ 32)
  exact ⟨h.waves, h.cur⟩

theorem State.asContexts_path (s : State) (gs pas : List Nat) {f : State → State} (hf : ∀ t, SamePath t (f t)) : SamePath s (s.asContexts gs pas f) := by
  unfold State.asContexts
  dsimp only
  exact ⟨(hf _).waves, (hf _).cur⟩

theorem State.retireTcb_path (s : State) (gs : List Nat) (vf tcb : Nat) : SamePath s (s.retireTcb gs vf tcb) := by
  unfold State.retireTcb
  refine SamePath.foldl (fun u i => ?_) _ s
  dsimp only
  split
  · exact SamePath.refl u
  · have h1 : ∀ va v pas, SamePath u (u.asContexts gs pas (fun x => x.devPut vf va 4 v)) := fun va v pas =>
      State.asContexts_path u gs pas (fun t => State.devPut_path t vf va 4 v)
    split
    · exact (h1 _ _ _).trans (State.submit_path _ _ _)
    · exact h1 _ _ _

theorem State.freshen_path (s : State) (c pa n : Nat) : SamePath s (s.freshen c pa n) := ⟨rfl, rfl⟩

/-! ## One lane of a path -/

theorem filter_lane_of_sorted {l : List Thread} {x : Thread} (h : l.Pairwise (fun x y => x.lane < y.lane)) (hx : x ∈ l) :
    l.filter (fun t => t.lane == x.lane) = [x] := by
  induction l with
  | nil => exact nomatch hx
  | cons y rest ih =>
    obtain ⟨hy, hrest⟩ := List.pairwise_cons.mp h
    by_cases hxy : x = y
    · subst hxy
      rw [List.filter_cons_of_pos (by simp), List.filter_eq_nil_iff.mpr (fun z hz => by simp [(Nat.ne_of_lt (hy z hz)).symm])]
    · have hx' : x ∈ rest := (List.mem_cons.mp hx).resolve_left hxy
      rw [List.filter_cons_of_neg (by simpa using Nat.ne_of_lt (hy x hx')), ih hrest hx']

theorem Wave.among_one {w : Wave} {th : Thread} (h : w.lanes.Pairwise (fun x y => x.lane < y.lane)) (hl : w.lane? th.lane = some th) :
    w.among [th.lane] = [th.lane] := by
  have e : w.lanes.filter (fun t => [th.lane].elem t.lane) = w.lanes.filter (fun t => t.lane == th.lane) :=
    List.filter_congr (fun t _ => by simp [Bool.beq_eq_decide_eq])
  rw [Wave.among, e, filter_lane_of_sorted h (Wave.mem_of_lane? hl)]
  rfl

theorem Thread.g?_free {s t : State} (h : t.free = s.free) (x : Thread) (r : Nat) : x.g? t r = x.g? s r := by
  simp only [Thread.g?, Thread.undefined, State.freeWord, h]
theorem Thread.pair?_free {s t : State} (h : t.free = s.free) (x : Thread) (r : Nat) : x.pair? t r = x.pair? s r := by
  rw [Thread.pair?, Thread.pair?, Thread.g?_free h, Thread.g?_free h]

theorem Wave.logFor_unlined {w : Wave} (h : w.lining = none) (l : Nat) (e : LogEntry) : w.logFor l e = w := by
  unfold Wave.logFor Wave.logEntry
  rw [h]
  split <;> rfl

theorem Wave.logFor_place (w : Wave) (l : Nat) (e : LogEntry) : (w.logFor l e).core = w.core ∧ (w.logFor l e).slot = w.slot := by
  unfold Wave.logFor Wave.logEntry
  split
  · exact ⟨rfl, rfl⟩
  · split <;> exact ⟨rfl, rfl⟩

/-- Every byte that a task instruction reaches reads as it stands. -/
theorem State.touch_clean {s : State} (hs : NoSpills s) (hp : s.poisoned = []) (c b : Nat) (pl : Place) (n : Nat) : s.touch c b pl n = s := by
  unfold State.touch
  split
  · rfl
  · next pa =>
    have hb : s.breach ((List.range n).map (fun i => pa + i)) = s :=
      State.breach_of_noSpill (pls := ((List.range n).map (fun i => pa + i)).map Place.phys)
        (fun c hc x hx hm hpol => absurd hpol (hs c hc x hx hm)) (fun q hq => List.mem_map_of_mem hq)
    dsimp only
    rw [State.poisonHit_none hp, hb]

section
variable {u : State} {v : Wave} {th : Thread} (h : u.OnPath v th)
include h

theorem State.logEffect_onPath (hu : v.lining = none) (l : Nat) (x : Dword) : (u.logEffect l x).OnPath v th where
  wave := (State.curWave_onCur h.wave (fun y => Wave.logFor_place y l _)).trans (congrArg some (Wave.logFor_unlined hu l _))
  lane := h.lane
  path := h.path

theorem State.within_onPath {ls : List Nat} (hl : th.lane ∈ ls) : ({ u with cur := { u.cur with lanes := ls } } : State).OnPath v th where
  wave := h.wave
  lane := h.lane
  path := hl

theorem State.laneOut_next (t : Bool) {o : Thread → Out} {x : Thread} (ho : o th = .next x) (hlane : ∀ y, (o y).thread.lane = y.lane) :
    (u.laneOut th.lane t o).lane? v.core v.slot th.lane = some (x.after u.cur.len t) := by
  have e := State.perLane_lane (State.within_onPath h (List.mem_singleton_self th.lane)) t (fun _ y => o y) (fun _ y => hlane y)
  refine Eq.trans (by exact e) ?_
  rw [ho, Out.apply_next]

theorem State.effectOut_next (hu : v.lining = none) (t : Bool) (d : Dword) {o : Thread → Out} {x : Thread} (ho : o th = .next x)
    (hlane : ∀ y, (o y).thread.lane = y.lane) : (u.effectOut th.lane t d o).lane? v.core v.slot th.lane = some (x.after u.cur.len t) :=
  State.laneOut_next (State.logEffect_onPath h hu _ _) t ho hlane

/-- A task instruction of one lane, on a good address. -/
theorem State.edgeLanes_one (hone : u.cur.lanes = [th.lane]) (hf : v.fresh) {a align : Nat} {write : Bool} {pl : Place}
    (hr : u.resolve v.blk (th.pair? u a) align write = .at pl) (hs : NoSpills u) (hp : u.poisoned = [])
    (f : State → Wave → Nat → Thread → Place → State) (again : State → Nat → Dword → State) :
    u.edgeLanes a align write f again = f u v th.lane th pl := by
  unfold State.edgeLanes
  rw [hone, List.foldl_cons, List.foldl_nil, h.wave]
  dsimp only
  rw [h.lane]
  dsimp only
  rw [hr]
  dsimp only
  rw [State.onceLane_fresh h.wave hf, State.touch_clean hs hp]
end

theorem State.logEffect_mem (s : State) (l : Nat) (x : Dword) : (s.logEffect l x).mem = s.mem := rfl
theorem State.effectOut_mem (s : State) (l : Nat) (t : Bool) (d : Dword) (o : Thread → Out) : (s.effectOut l t d o).mem = s.mem := State.perLane_mem ..

/-! ## A lane with nothing to publish -/

/-- The state in which the one lane of a path acts after its publish: nothing of memory has changed. -/
structure AloneAt (s : State) (w : Wave) (th : Thread) (u : State) : Prop where
  home : SameHome s u
  path : u.OnPath w.settleOld th
  one : u.cur.lanes = [th.lane]
  len : u.cur.len = s.cur.len

theorem State.afterPublish_alone {s : State} {w : Wave} {th : Thread} (h : s.OnPath w th) (ha : Alone s w th) :
    ∃ u, AloneAt s w th u ∧ ∀ k : State → State, s.afterPublish 3 k = (k u).backTo s := by
  refine ⟨_, ?_, State.afterPublish_clear h ha.clear (by decide)⟩
  obtain ⟨hcore, _⟩ := State.wave?_isAt (s := s) h.wave
  have hw : ((s.readied w).core s.cur.core).writes = [] := hcore ▸ ha.writes
  have hcur := (OnlyMemory.publish (s.readied w) s.cur.core (s.gangId w.blk) 3 (s.recOf w.blk).hasGang).cur
  refine ⟨(SameHome.readied s w).trans (SameHome.publish hw ha.overlays _ 3 _ (by omega)), (State.readied_onPath h).of_same (OnlyMemory.publish ..).waves hcur, ?_, ?_⟩
  · rw [hcur]
    change w.among s.cur.lanes = _
    rw [ha.one, Wave.among_one ha.clear.sorted h.lane]
  · rw [hcur]
    rfl

section
variable {s u : State} {w : Wave} {th : Thread} (h : AloneAt s w th u)
include h

theorem AloneAt.noSpills (hs : NoSpills s) : NoSpills u := by
  intro c hc
  rw [h.home.cores] at hc
  exact hs c hc
end

theorem settled_fresh {s : State} {w : Wave} (h : Clear s w) : w.settleOld.fresh := fun l e => clear_fresh h l e

theorem foldl_touch_clean {s : State} (hs : NoSpills s) (hp : s.poisoned = []) (c b : Nat) (l : List (Dword × Resolve)) :
    l.foldl (fun (x : State) p => match p.2 with
      | .at pl => x.touch c b pl 8
      | _ => x) s = s := by
  refine List.foldl_fixed' (fun p => ?_) l
  split
  · exact State.touch_clean hs hp ..
  · rfl

/-- A block that has no successors is retired with nothing written. -/
theorem State.retireTcb_none {s : State} {vf tcb : Nat} (h : s.devGet vf (tcb + 4) 4 = 0) (gs : List Nat) : s.retireTcb gs vf tcb = s := by
  unfold State.retireTcb
  rw [h]
  rfl

theorem State.freshened_mem (l : List (Nat × Bool)) (c vf : Nat) (s : State) :
    (l.foldl (fun x v => x.freshen c (x.devAddr vf (BitVec.ofNat 64 v.1) false) 8) s).mem = s.mem :=
  List.foldlRecOn (motive := fun t : State => t.mem = s.mem) l _ rfl (fun _ ht _ _ => ht)

theorem exec_tcbdone {s : State} {w : Wave} {th : Thread} (h : s.OnPath w th) (ha : Alone s w th) (hs : NoSpills s) (hp : s.poisoned = []) (a : Reg) (t : Bool)
    {pl : Place} (hr : s.regsOk [a.toNat, a.toNat + 1]) (hpl : s.resolve w.blk (th.pair? s a.toNat) 8 false = .at pl)
    (hvas : ∀ v ∈ s.tcbVas (s.vfOf w.blk) (th.pair? s a.toNat).toNat, ∃ p, s.resolve w.blk (BitVec.ofNat 64 v.1) 8 v.2 = .at p) :
    ∃ s', exec (.tcbdone a t) s = .next s' ∧ s'.lane? w.core w.slot th.lane = some (th.after s.cur.len t) ∧
      (s.devGet (s.vfOf w.blk) ((th.pair? s a.toNat).toNat + 4) 4 = 0 → s.sameMemory s') := by
  have hx : exec (.tcbdone a t) s = execTcbdone a t s := rfl
  obtain ⟨u, hu, e⟩ := State.afterPublish_alone h ha
  have hsu := hu.noSpills hs
  have hpu : u.poisoned = [] := hu.home.poisoned.trans hp
  have hpair : th.pair? u a.toNat = th.pair? s a.toNat := Thread.pair?_free hu.home.free th _
  have hvasu : ∀ vf tcb, u.tcbVas vf tcb = s.tcbVas vf tcb := fun vf tcb => by simp only [State.tcbVas, hu.home.devGet]
  rw [hx, execTcbdone, State.withRegs_ok hr, e]
  dsimp only
  rw [State.edgeLanes_one hu.path hu.one (settled_fresh ha.clear) (by rw [hpair, hu.home.resolve]; exact hpl) hsu hpu]
  rw [hpair, hu.home.vfOf, hvasu, List.find?_eq_none.mpr ?good]
  case good =>
    intro p hpm
    obtain ⟨v, hv, rfl⟩ := List.mem_map.mp hpm
    obtain ⟨q, hq⟩ := hvas v hv
    simp only [hu.home.resolve]
    rw [show w.settleOld.blk = w.blk from rfl, hq]
    exact Bool.false_ne_true
  dsimp only
  generalize hF : List.foldl _ u (List.map _ _) = u0
  obtain rfl : u = u0 := (foldl_touch_clean hsu hpu w.core w.blk _).symm.trans hF
  have hpath : ∀ (l : List (Nat × Bool)) (tcb : Nat), SamePath u (l.foldl (fun x v => x.freshen w.settleOld.core (x.devAddr (s.vfOf w.settleOld.blk) (BitVec.ofNat 64 v.1) false) 8)
      (u.retireTcb [u.gangId w.settleOld.blk] (s.vfOf w.settleOld.blk) tcb)) := fun l tcb =>
    (State.retireTcb_path u _ _ tcb).trans (SamePath.foldl (fun x v => State.freshen_path x _ _ _) l _)
  refine ⟨_, rfl, ?_, fun hn pa => ?_⟩
  · have hp := hpath (s.tcbVas (s.vfOf w.settleOld.blk) (th.pair? s a.toNat).toNat) (th.pair? s a.toNat).toNat
    rw [State.backTo_lane?]
    refine (State.effectOut_next (hu.path.of_same hp.waves hp.cur) ha.clear.unlined t 0 rfl (fun _ => rfl)).trans ?_
    rw [hp.cur, hu.len]
  · rw [State.backTo_mem, State.effectOut_mem]
    refine congrArg (fun m => readMem m pa) (Eq.trans ?_ hu.home.mem)
    rw [State.freshened_mem, State.retireTcb_none]
    rw [hu.home.devGet]
    exact hn

/-- Settles O35: a TEND publishes before it waits, all that wait are let go on at once, and TCBDONE acts lane by lane after its publish. -/
theorem taskEnds : Obligations.TaskEnds := by
  unfold Obligations.TaskEnds
  intro s w th t
  refine ⟨fun h hc => exec_tend h hc t, fun b hb hq hmet hw hl hwait => exec_tendRetire hb hq hmet hw hl hwait, ?_⟩
  exact fun a pl h ha hs hp hr hpl hvas => exec_tcbdone h ha hs hp a t hr hpl hvas

end Sys2Proof.Machine
end

section
/-! PROOFS. What the task instructions write at the home (spec/10 R218), and EPUSH, EPOP, EFREE, SPAWN and ADMIT of one lane (R219 to R223): O33, O34. -/

namespace Sys2Proof.Machine
open Sys2Proof.Claims

/-! ## A write at .tenant -/

/-- `t` is `s` but for bytes written at the home by an agent of a core, with what that leaves in views, in instances and in the orders of writes. -/
structure MemoWritten (s t : State) (pa : Nat) (bs : List Byte) : Prop where
  places : OnlyPlaces s t
  orderly : Orderly t
  tiles : ∀ p ∈ t.cores, ∀ x ∈ p.2.tiles, ∃ q ∈ s.cores, x ∈ q.2.tiles
  reads : ∀ x, readMem t.mem x = if pa ≤ x ∧ x < pa + bs.length then bs.getD (x - pa) 0 else readMem s.mem x

section
variable {s t : State} {pa : Nat} {bs : List Byte} (h : MemoWritten s t pa bs)
include h

theorem MemoWritten.beside {x : Nat} (hx : Apart x 1 pa bs.length) : readMem t.mem x = readMem s.mem x := by
  rw [h.reads, if_neg]
  unfold Apart at hx
  omega

theorem MemoWritten.nat_beside {q n : Nat} (hq : Apart q n pa bs.length) : t.homeNat q n = s.homeNat q n :=
  homeNat_congr (fun i hi => h.beside (by unfold Apart at hq ⊢; omega))

theorem MemoWritten.nat {n v : Nat} (e : bs = leBytes n v) : t.homeNat pa n = v % 2 ^ (8 * n) := by
  have hbytes : (List.range n).map (fun i => readMem t.mem (pa + i)) = leBytes n v := by
    refine List.ext_getElem (by simp) (fun i hi _ => ?_)
    have hin : i < n := by simpa using hi
    rw [List.getElem_map, List.getElem_range, h.reads, e, if_pos (by simp [hin]), Nat.add_sub_cancel_left, List.getD_eq_getElem _ _ (by simpa using hin)]
  rw [State.homeNat, hbytes, leNat_leBytes]

theorem MemoWritten.areas (ha : NoAreas s) : NoAreas t := by
  refine ⟨fun p hp x hx hm => ?_, fun k hk => ?_⟩
  · obtain ⟨q, hq, hx'⟩ := h.tiles p hp x hx
    exact ha.1 q hq x hx' hm
  · have e : t.comms = s.comms := (congrArg State.comms h.places.rest :)
    rw [e] at hk
    exact ha.2 k hk

theorem MemoWritten.path : SamePath s t := ⟨h.places.waves, (congrArg State.cur h.places.rest :)⟩
theorem MemoWritten.free : t.free = s.free := (congrArg State.free h.places.rest :)
end

theorem State.loosen_places (s : State) (pa : Nat) : OnlyPlaces s (s.loosen pa) := ⟨rfl, OnlyViews.of_cores rfl, fun _ g h => ⟨g, h, rfl⟩, id⟩

/-- The home after some bytes written in a row under one place: what a byte reads as, and that no place is above it. -/
structure MemoWriting (s : State) (pa st : Nat) (bs : List Byte) (i : Nat) (t : State) : Prop where
  places : OnlyPlaces s t
  wf : memWf t.mem = true
  stamps : ∀ x, getD t.stamps 0 x ≤ st
  stamp : t.stamp = st
  tiles : t.cores.map (fun c => c.2.tiles) = s.cores.map (fun c => c.2.tiles)
  reads : ∀ x, readMem t.mem x = if pa ≤ x ∧ x < pa + i then bs.getD (x - pa) 0 else readMem s.mem x

theorem MemoWriting.next {s t : State} {pa st i : Nat} {bs : List Byte} (h : MemoWriting s pa st bs i t) (hst : st ≠ 0) (g : Nat) :
    MemoWriting s pa st bs (i + 1) ((t.loosen (pa + i)).homeWrite (some g) (pa + i) (bs.getD i 0) st) := by
  have hle : getD (t.loosen (pa + i)).stamps 0 (pa + i) ≤ st := h.stamps _
  have hmem : ((t.loosen (pa + i)).homeWrite (some g) (pa + i) (bs.getD i 0) st).mem = writeMem t.mem (pa + i) (bs.getD i 0) := by
    rw [State.homeWrite_mem, if_pos hle]
    rfl
  refine ⟨(h.places.trans (State.loosen_places t _)).trans (OnlyPlaces.homeWrite ..), ?_, fun x => ?_, ?_, (State.homeWrite_tiles ..).trans h.tiles, fun x => ?_⟩
  · rw [hmem]
    exact memWf_writeMem _ _ _ h.wf
  · rw [State.homeWrite_stamps, if_pos hle]
    by_cases hx : x = pa + i
    · subst hx
      rw [getD_setD_rising _ _ _ _ (.inl hst)]
    · rw [getD_setD_ne _ _ _ hx]
      exact h.stamps x
  · rw [State.homeWrite_stamp]
    exact h.stamp
  · rw [hmem]
    by_cases hx : x = pa + i
    · subst hx
      rw [readMem_writeMem_same _ _ _ h.wf, if_pos (by omega), Nat.add_sub_cancel_left]
    · rw [readMem_writeMem_ne _ _ hx, h.reads]
      exact if_congr (by omega) rfl rfl

theorem State.snapTake_places (s : State) (c pa : Nat) (ps : List Placed) : OnlyPlaces s (s.snapTake c pa ps) :=
  OnlyPlaces.onCore s c (fun _ => rfl)

theorem State.snapTake_tiles {s : State} {c pa : Nat} {ps : List Placed} : ∀ p ∈ (s.snapTake c pa ps).cores, ∀ x ∈ p.2.tiles, ∃ q ∈ s.cores, x ∈ q.2.tiles := by
  intro p hp x hx
  rcases mem_insertAt hp with rfl | hp
  · have hx' : x ∈ (s.core c).tiles := hx
    unfold State.core getD at hx'
    cases hl : look s.cores c with
    | none => rw [hl] at hx'; exact nomatch hx'
    | some k => rw [hl] at hx'; exact ⟨(c, k), mem_of_look hl, hx'⟩
  · exact ⟨p, hp, hx⟩

/-- An atomic operation's write at .tenant. -/
theorem State.memoWrite_written {s : State} (h : Orderly s) (c g pa : Nat) (bs : List Byte) : MemoWritten s (s.memoWrite c g 3 true pa bs) pa bs := by
  have h0 : MemoWriting s pa (s.stamp + 1) bs 0 s.nextStamp := by
    refine ⟨OnlyPlaces.nextStamp s, h.1, fun x => Nat.le_succ_of_le (h.2 x), rfl, rfl, fun x => ?_⟩
    rw [if_neg (by omega)]
    rfl
  have hall : ∀ n, MemoWriting s pa (s.stamp + 1) bs n ((List.range n).foldl (fun t i => (t.loosen (pa + i)).homeWrite (some g) (pa + i) (bs.getD i 0) (s.stamp + 1)) s.nextStamp) := by
    intro n
    induction n with
    | zero => exact h0
    | succ n ih =>
      rw [List.range_succ, List.foldl_append]
      exact ih.next (Nat.succ_ne_zero _) g
  have hn := hall bs.length
  unfold State.memoWrite
  rw [if_neg (by omega)]
  dsimp only [wide]
  refine ⟨hn.places.trans (State.snapTake_places ..), ⟨hn.wf, fun x => ?_⟩, fun p hp x hx => ?_, hn.reads⟩
  · exact (hn.stamps x).trans (Nat.le_of_eq hn.stamp.symm)
  · obtain ⟨q, hq, hx'⟩ := State.snapTake_tiles p hp x hx
    have hmem : q.2.tiles ∈ s.cores.map (fun c => c.2.tiles) := hn.tiles ▸ List.mem_map_of_mem (f := fun c : Nat × Core => c.2.tiles) hq
    obtain ⟨r, hr, e⟩ := List.mem_map.mp hmem
    exact ⟨r, hr, e ▸ hx'⟩

/-- A number put at the home: what it leaves for what follows, and what memory reads as. -/
structure NumberPut (s t : State) (pa n v : Nat) : Prop where
  orderly : Orderly t
  areas : NoAreas t
  path : SamePath s t
  free : t.free = s.free
  tags : t.tags = s.tags
  nat : t.homeNat pa n = v % 2 ^ (8 * n)
  nat_beside : ∀ q m, Apart q m pa n → t.homeNat q m = s.homeNat q m
  beside : ∀ x, Apart x 1 pa n → readMem t.mem x = readMem s.mem x

section
variable {s : State} (ha : NoAreas s)
include ha

theorem State.breach_noAreas (pas : List Nat) : s.breach pas = s :=
  State.breach_of_noSpill (pls := pas.map Place.phys) (fun c hc x hx hm hpol => absurd hpol (ha.1 c hc x hx hm)) (fun _ hq => List.mem_map_of_mem hq)

theorem State.strikeChunks_noAreas (pas : List Nat) : s.strikeChunks pas = s :=
  State.strikeChunks_of_noChunk (pls := pas.map Place.phys) (fun k hk x hx hactive => absurd hactive (by rw [ha.2 k hk x hx]; exact Bool.false_ne_true))
    (fun _ hq => List.mem_map_of_mem hq)

theorem State.tenantPut_written (ho : Orderly s) (c g pa n v : Nat) : NumberPut s (s.tenantPut c g (.phys pa) n v) pa n v := by
  have hw := State.memoWrite_written ho c g pa (leBytes n v)
  have e : s.tenantPut c g (.phys pa) n v = s.memoWrite c g 3 true pa (leBytes n v) := by
    unfold State.tenantPut
    dsimp only
    rw [State.breach_noAreas ha, State.strikeChunks_noAreas (hw.areas ha)]
  rw [e]
  exact ⟨hw.orderly, hw.areas ha, hw.path, hw.free, (congrArg State.tags hw.places.rest :), hw.nat rfl, fun q m hq => hw.nat_beside (by rw [leBytes_length]; exact hq),
    fun x hx => hw.beside (by rw [leBytes_length]; exact hx)⟩
end

/-! ## What the view of a core that has written nothing holds of a location -/

theorem State.placeTenant_nothing {s : State} {c : Nat} (hw : (s.core c).writes = []) (ho : ∀ g k, s.gang? g = some k → k.overlay = []) (g : Nat) (p : Place) (n : Nat) :
    s.placeTenant c g p n = s := by
  unfold State.placeTenant
  split
  · unfold State.placeOwn
    rw [if_neg (by omega)]
    refine List.foldlRecOn (motive := fun t => t = s) _ _ rfl (fun t ht i _ => ?_)
    subst ht
    rw [hw]
    dsimp only [look]
    refine List.foldlRecOn (motive := fun t' => t' = t) _ _ rfl (fun u hu g' _ => ?_)
    subst hu
    unfold State.flushByte
    split
    next q hq =>
      obtain ⟨k, hk, hlook⟩ := Option.bind_eq_some_iff.mp hq
      rw [ho g' k hk] at hlook
      exact nomatch hlook
    next => rfl
  · rfl

/-! ## A lane that completes -/

/-- A path none of whose lanes raises an exception changes waves alone. -/
theorem State.perLane_onlyWaves {s : State} {w : Wave} (hw : s.curWave = some w) (t : Bool) {f : Wave → Thread → Out} (hf : ∀ u, (f w u).raises = false) :
    ∃ ws, s.perLane t f = { s with waves := ws } := by
  unfold State.perLane
  rw [hw]
  dsimp only
  rw [if_neg (by simp [hf])]
  exact ⟨_, rfl⟩

/-- A lane that completes with its effect logged changes waves alone. -/
theorem State.effectOut_onlyWaves {u : State} {v : Wave} {th : Thread} (h : u.OnPath v th) (l : Nat) (t : Bool) (d : Dword) {o : Thread → Out} (hf : ∀ y, (o y).raises = false) :
    ∃ ws, u.effectOut l t d o = { u with waves := ws } := by
  have hw : ({ u.logEffect l d with cur := { u.cur with lanes := [l] } } : State).curWave = some (v.logFor l (.effect l u.cur.pc d)) :=
    State.curWave_onCur h.wave (fun y => Wave.logFor_place y l _)
  obtain ⟨ws, e⟩ := State.perLane_onlyWaves hw t (f := fun _ y => o y) hf
  refine ⟨ws, ?_⟩
  refine Eq.trans (b := ({ ({ u.logEffect l d with cur := { u.cur with lanes := [l] } } : State).perLane t (fun _ y => o y) with cur := u.cur } : State)) rfl ?_
  rw [e]
  rfl

/-- Waves alone are different: nothing that memory reads as. -/
theorem orderly_waves {s : State} (h : Orderly s) (ws : List Wave) : Orderly { s with waves := ws } := h
theorem noAreas_waves {s : State} (h : NoAreas s) (ws : List Wave) : NoAreas { s with waves := ws } := h

/-! ## Edges -/

theorem SameHome.tenantNat {s t : State} (h : SameHome s t) (pa n : Nat) : t.tenantNat (.phys pa) n = s.tenantNat (.phys pa) n := h.homeNat pa n
theorem SameHome.edgeAt {s t : State} (h : SameHome s t) (pa : Nat) : t.edgeAt (.phys pa) = s.edgeAt (.phys pa) := by
  unfold State.edgeAt Place.plus
  simp only [h.tenantNat]

theorem State.backTo_homeNat (u s : State) (pa n : Nat) : (u.backTo s).homeNat pa n = u.homeNat pa n := rfl

theorem State.laneOut_hold {u : State} {v : Wave} {th : Thread} (h : u.OnPath v th) (x : Wait) :
    (u.laneOut th.lane false (fun y => .hold y x)).lane? v.core v.slot th.lane = some { th with wait := x } := by
  have e := State.perLane_lane (State.within_onPath h (List.mem_singleton_self th.lane)) false (fun _ y => .hold y x) (fun _ _ => rfl)
  exact Eq.trans (by exact e) rfl

/-- A refresh issued by a lane with nothing unperformed, a pair written. -/
theorem Thread.setPair_refreshes {s : State} {th : Thread} (h : th.acc = []) (d : Nat) (v : Dword) : (th.setPair s d v).issue s (.refresh 3) (.phys 0) 0 =
    { th.setPair s d v with acc := [issuedAt s th (.refresh 3) (.phys 0) 0] } := by
  have e : (th.setPair s d v).acc = [] := h
  rw [Thread.issue, e]
  rfl

theorem State.laneOut_mem (s : State) (l : Nat) (t : Bool) (o : Thread → Out) : (s.laneOut l t o).mem = s.mem := State.perLane_mem ..

section
variable {s : State} {w : Wave} {th : Thread} (h : s.OnPath w th) (ha : Alone s w th) (ho : Orderly s) (hareas : NoAreas s) (hp : s.poisoned = [])
include h ha ho hareas hp

variable (a : Reg) {pa : Nat} (hpa : s.resolve w.blk (th.pair? s a.toNat) 64 true = .at (.phys pa)) (hgood : (s.edgeAt (.phys pa)).good = true)
include hpa hgood

theorem exec_epush (d : Reg) (t : Bool) {q : Nat} (hr : s.regsOk [d.toNat, a.toNat, a.toNat + 1]) (hq : Apart q 4 pa 64)
    (hitem : s.resolve w.blk ((s.edgeAt (.phys pa)).itemVa (s.edgeAt (.phys pa)).tail) 4 true = .at (.phys q)) :
    ∃ s', exec (.epush d a t) s = .next s' ∧
      ((s.edgeAt (.phys pa)).free = 0 → s'.lane? w.core w.slot th.lane = some { th with wait := .epush (.phys pa) } ∧ s.sameMemory s') ∧
      (0 < (s.edgeAt (.phys pa)).free → s'.lane? w.core w.slot th.lane = some (th.after s.cur.len t) ∧ s'.homeNat q 4 = (th.g? s d.toNat).toNat ∧
        s'.homeNat (pa + 12) 4 = ((s.edgeAt (.phys pa)).tail + 1) % 2 ^ 32 ∧ s'.homeNat (pa + 16) 4 = (s.edgeAt (.phys pa)).free - 1 ∧
        (∀ x, Apart x 1 q 4 → Apart x 1 (pa + 12) 8 → readMem s'.mem x = readMem s.mem x)) := by
  have hx : exec (.epush d a t) s = execEpush d a t s := rfl
  obtain ⟨u, hu, e⟩ := State.afterPublish_alone h ha
  have hau := hu.home.noAreas hareas
  rw [hx, execEpush, State.withRegs_ok hr, e]
  dsimp only
  rw [State.edgeLanes_one hu.path hu.one (settled_fresh ha.clear) (by rw [Thread.pair?_free hu.home.free, hu.home.resolve]; exact hpa) hau.1 (hu.home.poisoned.trans hp)]
  rw [State.placeTenant_nothing (by rw [hu.home.core]; exact ha.writes) (fun g k hk => ha.overlays g k (by rw [← hu.home.gang]; exact hk)), hu.home.edgeAt, hgood]
  generalize hedge : s.edgeAt (.phys pa) = ed at hitem ⊢
  rw [if_neg (by decide)]
  by_cases hfree : ed.free = 0
  · rw [if_pos hfree]
    refine ⟨_, rfl, fun _ => ⟨?_, fun x => ?_⟩, fun hpos => absurd hfree (Nat.ne_of_gt hpos)⟩
    · exact State.laneOut_hold hu.path _
    · rw [State.backTo_mem, State.laneOut_mem, hu.home.mem]
  · rw [if_neg hfree, hu.home.resolve, show w.settleOld.blk = w.blk from rfl, hitem]
    dsimp only
    generalize u.gangId w.blk = g
    have h1 := State.tenantPut_written hau (hu.home.orderly ho) w.core g q 4 (th.g? u d.toNat).toNat
    have h2 := State.tenantPut_written h1.areas h1.orderly w.core g (pa + 12) 4 ((ed.tail + 1) % 2 ^ 32)
    have h3 := State.tenantPut_written h2.areas h2.orderly w.core g (pa + 16) 4 (ed.free - 1)
    have hlt : ed.free < 2 ^ 32 := by rw [← hedge]; exact State.homeNat_lt ..
    unfold Apart at hq
    refine ⟨_, rfl, fun h0 => absurd h0 hfree, fun _ => ?_⟩
    rw [State.backTo_lane?, State.backTo_homeNat, State.backTo_homeNat, State.backTo_homeNat, State.backTo_mem]
    simp only [Place.plus, show w.settleOld.core = w.core from rfl]
    generalize u.tenantPut w.core g (.phys q) 4 (th.g? u d.toNat).toNat = u1 at h1 h2 h3 ⊢
    generalize u1.tenantPut w.core g (.phys (pa + 12)) 4 ((ed.tail + 1) % 2 ^ 32) = u2 at h2 h3 ⊢
    generalize u2.tenantPut w.core g (.phys (pa + 16)) 4 (ed.free - 1) = u3 at h3 ⊢
    have hpath := (h1.path.trans h2.path).trans h3.path
    have hmem := State.effectOut_mem u3 th.lane t 0 .next
    refine ⟨?_, ?_, ?_, ?_, fun x hxq hxp => ?_⟩
    · refine (State.effectOut_next (hu.path.of_same hpath.waves hpath.cur) ha.clear.unlined t 0 rfl (fun _ => rfl)).trans ?_
      rw [hpath.cur, hu.len]
    · rw [State.homeNat_of_mem hmem, h3.nat_beside q 4 (by unfold Apart; omega), h2.nat_beside q 4 (by unfold Apart; omega), h1.nat, Thread.g?_free hu.home.free]
      exact Nat.mod_eq_of_lt (th.g? s d.toNat).isLt
    · rw [State.homeNat_of_mem hmem, h3.nat_beside (pa + 12) 4 (by unfold Apart; omega), h2.nat]
      exact Nat.mod_mod _ _
    · rw [State.homeNat_of_mem hmem, h3.nat]
      exact Nat.mod_eq_of_lt (by omega)
    · unfold Apart at hxq hxp
      rw [hmem, h3.beside x (by unfold Apart; omega), h2.beside x (by unfold Apart; omega), h1.beside x (by unfold Apart; omega), hu.home.mem]

theorem exec_epop (d : Reg) (t : Bool) {q : Nat} (hr : s.regsOk [d.toNat, d.toNat + 1, a.toNat, a.toNat + 1])
    (hitem : s.resolve w.blk ((s.edgeAt (.phys pa)).itemVa (s.edgeAt (.phys pa)).head) 4 false = .at (.phys q)) :
    ∃ s', exec (.epop d a t) s = .next s' ∧
      ((s.edgeAt (.phys pa)).items = 0 → s'.lane? w.core w.slot th.lane = some ((th.setPair s d.toNat 0xFFFFFFFF00000000#64).after s.cur.len t) ∧ s.sameMemory s') ∧
      (0 < (s.edgeAt (.phys pa)).items → s'.lane? w.core w.slot th.lane =
          some ({ th.setPair s d.toNat (BitVec.ofNat 64 (s.homeNat q 4)) with acc := [issuedAt s th (.refresh 3) (.phys 0) 0] }.after s.cur.len t) ∧
        s'.homeNat (pa + 8) 4 = ((s.edgeAt (.phys pa)).head + 1) % 2 ^ 32 ∧ (∀ x, Apart x 1 (pa + 8) 4 → readMem s'.mem x = readMem s.mem x)) := by
  have hx : exec (.epop d a t) s = execEpop d a t s := rfl
  have hnothing := State.placeTenant_nothing ha.writes ha.overlays
  rw [hx, execEpop, State.withRegs_ok hr, State.edgeLanes_one h ha.one (clear_fresh ha.clear) hpa hareas.1 hp]
  dsimp only
  rw [hnothing, hgood]
  generalize s.edgeAt (.phys pa) = ed at hitem ⊢
  rw [if_neg (by decide)]
  by_cases hitems : ed.items = 0
  · rw [if_pos hitems]
    refine ⟨_, rfl, fun _ => ⟨?_, fun x => ?_⟩, fun hpos => absurd hitems (Nat.ne_of_gt hpos)⟩
    · exact State.effectOut_next h ha.clear.unlined t _ rfl (fun _ => rfl)
    · rw [State.effectOut_mem]
  · rw [if_neg hitems, hitem]
    dsimp only
    rw [State.touch_clean hareas.1 hp, hnothing]
    simp only [Place.plus]
    generalize s.gangId w.blk = g
    have h1 := State.tenantPut_written hareas ho w.core g (pa + 8) 4 ((ed.head + 1) % 2 ^ 32)
    generalize s.tenantPut w.core g (.phys (pa + 8)) 4 ((ed.head + 1) % 2 ^ 32) = u1 at h1 ⊢
    rw [show s.tenantNat (.phys q) 4 = s.homeNat q 4 from rfl]
    generalize s.homeNat q 4 = v
    have hacc : th.acc = [] := (ha.clear.lanes th (Wave.mem_of_lane? h.lane) h.path).1
    refine ⟨_, rfl, fun h0 => absurd h0 hitems, fun _ => ⟨?_, ?_, fun x hx => ?_⟩⟩
    · refine (State.effectOut_next (h.of_same h1.path.waves h1.path.cur) ha.clear.unlined t _ (x := (th.setPair s d.toNat (BitVec.ofNat 64 v)).issue s (.refresh 3) (.phys 0) 0)
        rfl (fun _ => rfl)).trans ?_
      rw [h1.path.cur, Thread.setPair_refreshes hacc]
    · rw [State.homeNat_of_mem (State.effectOut_mem ..), h1.nat]
      exact Nat.mod_mod _ _
    · rw [State.effectOut_mem, h1.beside x hx]

theorem exec_efree (t : Bool) (hr : s.regsOk [a.toNat, a.toNat + 1]) :
    ∃ s', exec (.efree a t) s = .next s' ∧ s'.lane? w.core w.slot th.lane = some (th.after s.cur.len t) ∧
      s'.homeNat (pa + 16) 4 = min ((s.edgeAt (.phys pa)).free + 1) ((s.edgeAt (.phys pa)).cap - (s.edgeAt (.phys pa)).items) ∧
      (∀ x, Apart x 1 (pa + 16) 4 → readMem s'.mem x = readMem s.mem x) := by
  have hx : exec (.efree a t) s = execEfree a t s := rfl
  obtain ⟨u, hu, e⟩ := State.afterPublish_alone h ha
  have hau := hu.home.noAreas hareas
  rw [hx, execEfree, State.withRegs_ok hr, e]
  dsimp only
  rw [State.edgeLanes_one hu.path hu.one (settled_fresh ha.clear) (by rw [Thread.pair?_free hu.home.free, hu.home.resolve]; exact hpa) hau.1 (hu.home.poisoned.trans hp)]
  rw [State.placeTenant_nothing (by rw [hu.home.core]; exact ha.writes) (fun g k hk => ha.overlays g k (by rw [← hu.home.gang]; exact hk)), hu.home.edgeAt, hgood]
  have hcap : (s.edgeAt (.phys pa)).cap < 2 ^ 32 := State.homeNat_lt ..
  generalize s.edgeAt (.phys pa) = ed at hcap ⊢
  rw [if_neg (by decide)]
  simp only [Place.plus]
  generalize u.gangId w.settleOld.blk = g
  have h1 := State.tenantPut_written hau (hu.home.orderly ho) w.core g (pa + 16) 4 (min (ed.free + 1) (ed.cap - ed.items))
  rw [show w.settleOld.core = w.core from rfl]
  generalize u.tenantPut w.core g (.phys (pa + 16)) 4 (min (ed.free + 1) (ed.cap - ed.items)) = u1 at h1 ⊢
  refine ⟨_, rfl, ?_, ?_, fun x hx => ?_⟩
  · rw [State.backTo_lane?]
    refine (State.effectOut_next (hu.path.of_same h1.path.waves h1.path.cur) ha.clear.unlined t 0 rfl (fun _ => rfl)).trans ?_
    rw [h1.path.cur, hu.len]
  · rw [State.backTo_homeNat, State.homeNat_of_mem (State.effectOut_mem ..), h1.nat]
    exact Nat.mod_eq_of_lt (by omega)
  · rw [State.backTo_mem, State.effectOut_mem, h1.beside x hx, hu.home.mem]
end

/-- Settles O33: each instruction acts in the state its publish leaves, in which the edge reads as before. -/
theorem edges : Obligations.Edges := by
  unfold Obligations.Edges
  intro s w th d a t pa h ha ho hareas hp hpa hgood e
  exact ⟨fun q hr hq hitem => exec_epush h ha ho hareas hp a hpa hgood d t hr hq hitem,
    fun q hr hitem => exec_epop h ha ho hareas hp a hpa hgood d t hr hitem, fun hr => exec_efree h ha ho hareas hp a hpa hgood t hr⟩

theorem Wave.logFor_lanes (w : Wave) (l : Nat) (e : LogEntry) : (w.logFor l e).lanes = w.lanes := by
  unfold Wave.logFor Wave.logEntry
  split
  · rfl
  · split <;> rfl

/-! ## ADMIT -/

section
variable {u : State} {v : Wave} {th : Thread} (h : u.OnPath v th)
include h

/-- A lane that completes with its effect logged, in a wave lined or not. -/
theorem State.effectOut_completes (t : Bool) (d : Dword) {o : Thread → Out} {x : Thread} (ho : o th = .next x) (hlane : ∀ y, (o y).thread.lane = y.lane) :
    (u.effectOut th.lane t d o).lane? v.core v.slot th.lane = some (x.after u.cur.len t) := by
  have hplace := Wave.logFor_place v th.lane (.effect th.lane u.cur.pc d)
  have hpath : (u.logEffect th.lane d).OnPath (v.logFor th.lane (.effect th.lane u.cur.pc d)) th := by
    refine ⟨State.curWave_onCur h.wave (fun y => Wave.logFor_place y th.lane _), ?_, h.path⟩
    rw [Wave.lane?, Wave.logFor_lanes]
    exact h.lane
  have e := State.laneOut_next hpath t ho hlane
  rw [hplace.1, hplace.2] at e
  exact e

theorem State.within_illop : (u.within [th.lane] State.illop).lane? v.core v.slot th.lane = some (Thread.trap u v.regs th cILLOP th.pc) := by
  refine Eq.trans (by exact State.illop_traps (State.within_onPath h (List.mem_singleton_self th.lane))) ?_
  exact congrArg some (Thread.trap_congr rfl rfl ..)
end

theorem State.effectOut_tags {u : State} {v : Wave} {th : Thread} (h : u.OnPath v th) (l : Nat) (t : Bool) (d : Dword) {o : Thread → Out} (hf : ∀ y, (o y).raises = false) :
    (u.effectOut l t d o).tags = u.tags := by
  obtain ⟨ws, e⟩ := State.effectOut_onlyWaves h l t d hf
  rw [e]

/-- What ADMIT of one lane answers, and the state that it acts on. -/
theorem exec_admit {s : State} {w : Wave} {th : Thread} (h : s.OnPath w th) (hone : s.cur.lanes = [th.lane]) (hf : w.fresh) (d a : Reg) (t : Bool)
    (hr : s.regsOk [d.toNat, a.toNat, a.toNat + 1, a.toNat + 2, a.toNat + 3]) : ∃ s', exec (.admitD d a t) s = .next s' ∧
    (1023 < (th.g? s a.toNat).toNat → s'.lane? w.core w.slot th.lane = some (Thread.trap s w.regs th cILLOP th.pc)) ∧
    (∀ u v, (th.g? s a.toNat).toNat ≤ 1023 →
      s.admitOne (s.vfOf w.blk) (th.g? s a.toNat).toNat (th.g? s (a.toNat + 1)).toNat (th.g? s (a.toNat + 2)) = (u, v) → SamePath s u →
      s'.lane? w.core w.slot th.lane = some ((th.setG s d.toNat v).after s.cur.len t) ∧ s'.tags = u.tags ∧ s'.mem = u.mem) := by
  have hx : exec (.admitD d a t) s = execAdmit d a t s := rfl
  rw [hx, execAdmit]
  dsimp only
  rw [State.withRegs_ok hr, h.wave]
  dsimp only
  rw [hone, List.foldl_cons, List.foldl_nil, h.lane]
  dsimp only
  by_cases hb : 1023 < (th.g? s a.toNat).toNat
  · rw [if_pos hb]
    exact ⟨_, rfl, fun _ => State.within_illop h, fun _ _ hle => absurd hb (Nat.not_lt.mpr hle)⟩
  · rw [if_neg hb, State.onceLane_fresh h.wave hf]
    refine ⟨_, rfl, fun hlt => absurd hlt hb, fun u v _ hu hpath => ?_⟩
    rw [hu]
    have hup := h.of_same hpath.waves hpath.cur
    refine ⟨?_, State.effectOut_tags hup _ _ _ (fun _ => rfl), State.effectOut_mem ..⟩
    refine (State.effectOut_completes hup t _ (x := th.setG s d.toNat v) rfl (fun _ => rfl)).trans ?_
    rw [hpath.cur]

/-- The records of a bucket. -/
def State.tagsOf (s : State) (vf b : Nat) : List TagRec := s.tags.filter (fun r => r.vf == vf && r.bucket == b)

/-- What a bucket grants of a request. -/
def State.grantOf (s : State) (vf b n : Nat) : Nat :=
  if (s.bucketAt vf b).paired = true then min (min n (s.bucketAt vf b).level) (s.bucketAt vf (s.bucketAt vf b).pair).level else min n (s.bucketAt vf b).level

section
variable (s : State) (vf b n : Nat) (tag : Word)

theorem State.admitOne_off (h : (s.bucketAt vf b).on = false ∨ (s.bucketAt vf b).paired = true ∧
    ((s.bucketAt vf (s.bucketAt vf b).pair).on = false ∨ (s.bucketAt vf (s.bucketAt vf b).pair).paired = true)) : s.admitOne vf b n tag = (s, 0) := by
  unfold State.admitOne
  dsimp only
  by_cases hon : (s.bucketAt vf b).on = true
  · obtain ⟨hpair, hdie⟩ := h.resolve_left (by rw [hon]; exact Bool.noConfusion)
    rw [hon, if_neg (by decide), if_pos]
    rw [hpair]
    rcases hdie with e | e <;> rw [e] <;> simp
  · rw [if_pos (by simpa using hon)]

variable {s vf b n tag} (hon : (s.bucketAt vf b).on = true) (hdie : (s.bucketAt vf b).paired = true →
    (s.bucketAt vf (s.bucketAt vf b).pair).on = true ∧ (s.bucketAt vf (s.bucketAt vf b).pair).paired = false)
include hon hdie

theorem State.admit_open : ((!(s.bucketAt vf b).on) = false) ∧
    ((s.bucketAt vf b).paired && (!(s.bucketAt vf (s.bucketAt vf b).pair).on || (s.bucketAt vf (s.bucketAt vf b).pair).paired)) = false := by
  refine ⟨by rw [hon]; rfl, ?_⟩
  cases hp : (s.bucketAt vf b).paired with
  | false => rfl
  | true =>
    obtain ⟨h1, h2⟩ := hdie hp
    rw [h1, h2]
    rfl

theorem State.admitOne_again {r : TagRec} (ht : tag ≠ 0) (hr : (s.tagsOf vf b).find? (fun r => r.tag == tag) = some r) : s.admitOne vf b n tag = (s, r.grant) := by
  obtain ⟨h1, h2⟩ := State.admit_open hon hdie
  unfold State.admitOne
  dsimp only
  rw [h1, h2, if_neg (by decide), if_neg (by decide), if_neg ht, show (s.tags.filter (fun r => r.vf == vf && r.bucket == b)).find? (fun r => r.tag == tag) = some r from hr]

theorem State.admitOne_full (ht : tag ≠ 0) (hr : (s.tagsOf vf b).find? (fun r => r.tag == tag) = none) (hfull : 1024 ≤ (s.tagsOf vf b).length) :
    s.admitOne vf b n tag = (s, 0xFFFFFFFF#32) := by
  obtain ⟨h1, h2⟩ := State.admit_open hon hdie
  unfold State.admitOne
  dsimp only
  rw [h1, h2, if_neg (by decide), if_neg (by decide), if_neg ht, show (s.tags.filter (fun r => r.vf == vf && r.bucket == b)).find? (fun r => r.tag == tag) = none from hr]
  exact if_pos ⟨ht, hfull⟩

theorem State.admitOne_grants (hr : tag ≠ 0 → (s.tagsOf vf b).find? (fun r => r.tag == tag) = none ∧ (s.tagsOf vf b).length < 1024) :
    ∃ u, s.admitOne vf b n tag = (u, BitVec.ofNat 32 (s.grantOf vf b n)) ∧ SamePath s u ∧
      u.tags = if tag = 0 then s.tags else ⟨vf, b, tag, BitVec.ofNat 32 (s.grantOf vf b n)⟩ :: s.tags := by
  obtain ⟨h1, h2⟩ := State.admit_open hon hdie
  have hnone : (if tag = 0 then none else (s.tags.filter (fun r => r.vf == vf && r.bucket == b)).find? (fun r => r.tag == tag)) = none := by
    split
    · rfl
    next ht => exact (hr ht).1
  have hroom : ¬ (tag ≠ 0 ∧ 1024 ≤ (s.tags.filter (fun r => r.vf == vf && r.bucket == b)).length) := fun ⟨ht, hle⟩ => absurd (hr ht).2 (Nat.not_lt.mpr hle)
  unfold State.admitOne
  dsimp only
  rw [h1, h2, if_neg (by decide), if_neg (by decide), hnone]
  dsimp only
  rw [if_neg hroom]
  refine ⟨_, rfl, ?_⟩
  generalize hs2 : (if (s.bucketAt vf b).paired = true then _ else _ : State) = s2
  have h2 : OnlyMemory s s2 := by
    rw [← hs2]
    split
    · exact (OnlyMemory.devWrite s ..).trans (OnlyMemory.devWrite ..)
    · exact OnlyMemory.devWrite s ..
  split
  · exact ⟨h2.path, h2.tags⟩
  · exact ⟨⟨h2.waves, h2.cur⟩, congrArg (List.cons _) h2.tags⟩
end

/-! ## SPAWN -/

theorem State.within_one {s : State} {l : Nat} (h : s.cur.lanes = [l]) (f : State → State) : s.within [l] f = (f s).backTo s := by
  have e : ({ s with cur := { s.cur with lanes := [l] } } : State) = s := by rw [← h]
  rw [State.within, e]
  rfl

theorem Thread.setG_free {s t : State} (h : t.free = s.free) (x : Thread) (r : Nat) (v : Word) : x.setG t r v = x.setG s r v := by
  simp only [Thread.setG, Thread.undefined, State.freeWord, h]

theorem State.afterAccesses_backTo {s : State} {w : Wave} {th : Thread} (h : s.OnPath w th) (hq : Quiet s w) (k : State → State) :
    s.afterAccesses k = (k s).backTo s := State.afterAccesses_quiet h.wave hq h.lanes_ne k

/-- The entry of a spawn queue that its tail names. -/
def State.spawnSlot (s : State) (pa : Nat) : Dword :=
  BitVec.ofNat 64 (s.homeNat pa 8 + 16 * (s.homeNat (pa + 16) 4 % 2 ^ 32 % s.homeNat (pa + 8) 4))
/-- The entries that a spawn queue holds. -/
def State.spawnHeld (s : State) (pa : Nat) : Nat := (s.homeNat (pa + 16) 4 + 2 ^ 32 - s.homeNat (pa + 12) 4) % 2 ^ 32

/-- Words put in a row at the home. -/
structure EntryPut (s t : State) (q n : Nat) (f : Nat → Nat) : Prop where
  orderly : Orderly t
  areas : NoAreas t
  path : SamePath s t
  free : t.free = s.free
  nat : ∀ i < n, t.homeNat (q + 4 * i) 4 = f i % 2 ^ 32
  nat_beside : ∀ y m, Apart y m q (4 * n) → t.homeNat y m = s.homeNat y m

theorem State.entryPut_written {s : State} (hareas : NoAreas s) (ho : Orderly s) (c g q : Nat) (f : Nat → Nat) (n : Nat) :
    EntryPut s ((List.range n).foldl (fun v i => v.tenantPut c g (.phys (q + 4 * i)) 4 (f i)) s) q n f := by
  induction n with
  | zero => exact ⟨ho, hareas, SamePath.refl s, rfl, fun i hi => absurd hi (Nat.not_lt_zero i), fun _ _ _ => rfl⟩
  | succ n ih =>
    rw [List.range_succ, List.foldl_append, List.foldl_cons, List.foldl_nil]
    have hput := State.tenantPut_written ih.areas ih.orderly c g (q + 4 * n) 4 (f n)
    refine ⟨hput.orderly, hput.areas, ih.path.trans hput.path, hput.free.trans ih.free, fun i hi => ?_, fun y m hy => ?_⟩
    · by_cases hin : i = n
      · subst hin
        exact hput.nat
      · rw [hput.nat_beside (q + 4 * i) 4 (by unfold Apart; omega), ih.nat i (by omega)]
    · unfold Apart at hy
      rw [hput.nat_beside y m (by unfold Apart; omega), ih.nat_beside y m (by unfold Apart; omega)]

section
variable {s u : State} {w : Wave} {th : Thread} (h : s.OnPath w th) (ha : Alone s w th) (hu : AloneAt s w th u) (ho : Orderly s) (hareas : NoAreas s)
    (hp : s.poisoned = [])
include ha hu ho hareas

omit ho hareas in
/-- A lane of the state after its publish completes with a word: what memory holds has not changed. -/
theorem AloneAt.effectOut {x : State} (hx : SamePath u x) (hf : x.free = s.free) (hox : Orderly x) (hax : NoAreas x) (t : Bool) (e : Dword) (d : Nat) (v : Word) :
    (x.effectOut th.lane t e (fun y => .next (y.setG u d v))).lane? w.core w.slot th.lane = some ((th.setG s d v).after s.cur.len t) ∧
    Orderly (x.effectOut th.lane t e (fun y => .next (y.setG u d v))) ∧ NoAreas (x.effectOut th.lane t e (fun y => .next (y.setG u d v))) := by
  have hpath := hu.path.of_same hx.waves hx.cur
  refine ⟨?_, ?_⟩
  · refine (State.effectOut_next hpath ha.clear.unlined t e (x := th.setG u d v) rfl (fun _ => rfl)).trans ?_
    rw [hx.cur, hu.len, Thread.setG_free hu.home.free]
  · obtain ⟨ws, e⟩ := State.effectOut_onlyWaves hpath th.lane t e (o := fun y => .next (y.setG u d v)) (fun _ => rfl)
    rw [e]
    exact ⟨orderly_waves hox ws, noAreas_waves hax ws⟩

include h hp in
/-- SPAWN of the one lane: a full queue. -/
theorem AloneAt.spawnStep_full (d a : Nat) (t : Bool) {pa : Nat} (hfull : s.homeNat (pa + 8) 4 ≤ s.spawnHeld pa) :
    (u.spawnStep w (.phys pa) d a t [th.lane]).lane? w.core w.slot th.lane = some ((th.setG s d 0xFFFFFFFF#32).after s.cur.len t) := by
  have hfree : s.homeNat (pa + 8) 4 - (s.homeNat (pa + 16) 4 + 2 ^ 32 - s.homeNat (pa + 12) 4) % 2 ^ 32 = 0 := Nat.sub_eq_zero_of_le hfull
  unfold State.spawnStep
  dsimp only
  rw [State.touch_clean (hu.noSpills hareas.1) (hu.home.poisoned.trans hp),
    State.placeTenant_nothing (by rw [hu.home.core]; exact ha.writes) (fun g k hk => ha.overlays g k (by rw [← hu.home.gang]; exact hk)),
    List.foldl_cons, List.foldl_nil, h.lane]
  dsimp only [Place.plus]
  simp only [hu.home.tenantNat, show ∀ q n, s.tenantNat (.phys q) n = s.homeNat q n from fun _ _ => rfl]
  rw [hfree, if_neg (by decide)]
  dsimp only
  obtain ⟨hl, hox, hax⟩ := hu.effectOut ha (SamePath.refl u) hu.home.free (hu.home.orderly ho) (hu.home.noAreas hareas) t 0xFFFFFFFF#64 d 0xFFFFFFFF#32
  generalize u.effectOut th.lane t 0xFFFFFFFF#64 (fun x => .next (x.setG u d 0xFFFFFFFF#32)) = x at hl hox hax ⊢
  have hput := State.tenantPut_written hax hox w.core (u.gangId w.blk) (pa + 16) 4 ((s.homeNat (pa + 16) 4 + 0) % 2 ^ 32)
  rw [State.lane?_of_waves hput.path.waves]
  exact hl

include h hp in
/-- SPAWN of the one lane: its entry at the tail. -/
theorem AloneAt.spawnStep_room (d a : Nat) (t : Bool) {pa q : Nat} (hroom : s.spawnHeld pa < s.homeNat (pa + 8) 4)
    (hslot : s.resolve w.blk (s.spawnSlot pa) 16 true = .at (.phys q)) (hapart : Apart q 16 pa 64) :
    (u.spawnStep w (.phys pa) d a t [th.lane]).lane? w.core w.slot th.lane = some ((th.setG s d (BitVec.ofNat 32 (s.homeNat (pa + 16) 4))).after s.cur.len t) ∧
    (∀ i < 4, (u.spawnStep w (.phys pa) d a t [th.lane]).homeNat (q + 4 * i) 4 = (th.g? s (a + i)).toNat) ∧
    (u.spawnStep w (.phys pa) d a t [th.lane]).homeNat (pa + 16) 4 = (s.homeNat (pa + 16) 4 + 1) % 2 ^ 32 := by
  have hfree : 0 < s.homeNat (pa + 8) 4 - (s.homeNat (pa + 16) 4 + 2 ^ 32 - s.homeNat (pa + 12) 4) % 2 ^ 32 := Nat.sub_pos_of_lt hroom
  have htail : (s.homeNat (pa + 16) 4 + 0) % 2 ^ 32 = s.homeNat (pa + 16) 4 := Nat.mod_eq_of_lt (State.homeNat_lt ..)
  have hslot' : u.resolve w.blk (BitVec.ofNat 64 (s.homeNat pa 8 + 16 * ((s.homeNat (pa + 16) 4 + 0) % 2 ^ 32 % s.homeNat (pa + 8) 4))) 16 true = .at (.phys q) := by
    rw [hu.home.resolve]
    exact hslot
  unfold State.spawnStep
  dsimp only
  rw [State.touch_clean (hu.noSpills hareas.1) (hu.home.poisoned.trans hp),
    State.placeTenant_nothing (by rw [hu.home.core]; exact ha.writes) (fun g k hk => ha.overlays g k (by rw [← hu.home.gang]; exact hk)),
    List.foldl_cons, List.foldl_nil, h.lane]
  dsimp only [Place.plus]
  simp only [hu.home.tenantNat, show ∀ q n, s.tenantNat (.phys q) n = s.homeNat q n from fun _ _ => rfl]
  rw [if_pos hfree, hslot']
  dsimp only
  rw [htail]
  have hentry := State.entryPut_written (hu.home.noAreas hareas) (hu.home.orderly ho) w.core (u.gangId w.blk) q
    (fun i => (((List.range 4).map (fun i => th.g? u (a + i))).getD i 0).toNat) 4
  generalize (List.range 4).foldl (fun v i => v.tenantPut w.core (u.gangId w.blk) (.phys (q + 4 * i)) 4 (((List.range 4).map (fun i => th.g? u (a + i))).getD i 0).toNat) u = x
    at hentry ⊢
  generalize hv : BitVec.ofNat 32 (s.homeNat (pa + 16) 4) = v
  obtain ⟨hl, hox, hax⟩ := hu.effectOut ha hentry.path (hentry.free.trans hu.home.free) hentry.orderly hentry.areas t (v.setWidth 64) d v
  have hmem := State.effectOut_mem x th.lane t (v.setWidth 64) (fun y => .next (y.setG u d v))
  generalize x.effectOut th.lane t (v.setWidth 64) (fun y => .next (y.setG u d v)) = y at hl hox hax hmem ⊢
  have hput := State.tenantPut_written hax hox w.core (u.gangId w.blk) (pa + 16) 4 ((s.homeNat (pa + 16) 4 + (0 + 1)) % 2 ^ 32)
  unfold Apart at hapart
  refine ⟨?_, fun i hi => ?_, ?_⟩
  · rw [State.lane?_of_waves hput.path.waves]
    exact hl
  · rw [hput.nat_beside (q + 4 * i) 4 (by unfold Apart; omega), State.homeNat_of_mem hmem, hentry.nat i hi, List.getD_eq_getElem _ _ (by simpa using hi), List.getElem_map, List.getElem_range,
      Thread.g?_free hu.home.free]
    exact Nat.mod_eq_of_lt (th.g? s (a + i)).isLt
  · rw [hput.nat]
    exact Nat.mod_mod _ _
end

section
variable {s : State} {w : Wave} {th : Thread} (h : s.OnPath w th) (ha : Alone s w th)
include h ha

theorem State.curLanes_one (p : Thread → Bool) : s.curLanes p = if p th = true then [th.lane] else [] := by
  have e : w.lanes.filter (fun t => s.cur.lanes.elem t.lane && p t) = (w.lanes.filter (fun t => t.lane == th.lane)).filter p := by
    rw [List.filter_filter]
    refine List.filter_congr (fun t _ => ?_)
    rw [ha.one, Bool.and_comm]
    simp [Bool.beq_eq_decide_eq]
  rw [State.curLanes, h.wave]
  dsimp only
  rw [e, filter_lane_of_sorted ha.clear.sorted (Wave.mem_of_lane? h.lane), List.filter_singleton]
  cases p th with
  | true => rfl
  | false => rfl

theorem quiet_of_alone (hd : th.due = none) : Quiet s w := by
  intro u hu hl
  obtain ⟨hacc, hwait, hpc⟩ := ha.clear.lanes u hu hl
  refine ⟨hacc, hwait, hpc, ?_⟩
  have hlane : u.lane = th.lane := by rw [ha.one] at hl; simpa using hl
  have hmem : u ∈ w.lanes.filter (fun t => t.lane == th.lane) := List.mem_filter.mpr ⟨hu, by simp [hlane]⟩
  rw [filter_lane_of_sorted ha.clear.sorted (Wave.mem_of_lane? h.lane)] at hmem
  rw [List.mem_singleton.mp hmem]
  exact hd

theorem exec_spawn (d a : Reg) (t : Bool) {l : Launch} (hd : th.due = none) (ho : Orderly s) (hareas : NoAreas s) (hp : s.poisoned = [])
    (hr : s.regsOk [d.toNat, a.toNat, a.toNat + 1, a.toNat + 2, a.toNat + 3]) (hl : s.launchOf w.blk = some l) : ∃ s', exec (.spawn d a t) s = .next s' ∧
    (l.prog.lrec.spawnq = 0 ∨ 64 ≤ (th.g? s a.toNat).toNat ∨ look l.templates (th.g? s a.toNat).toNat = none →
      s'.lane? w.core w.slot th.lane = some (Thread.trap s w.regs th cILLOP th.pc) ∧ s.sameMemory s') ∧
    (∀ pa q, l.prog.lrec.spawnq ≠ 0 → (th.g? s a.toNat).toNat < 64 → look l.templates (th.g? s a.toNat).toNat ≠ none →
      s.resolve w.blk l.prog.lrec.spawnq 64 true = .at (.phys pa) → s.resolve w.blk (s.spawnSlot pa) 16 true = .at (.phys q) → Apart q 16 pa 64 →
      (s.homeNat (pa + 8) 4 ≤ s.spawnHeld pa → s'.lane? w.core w.slot th.lane = some ((th.setG s d.toNat 0xFFFFFFFF#32).after s.cur.len t)) ∧
      (s.spawnHeld pa < s.homeNat (pa + 8) 4 →
        s'.lane? w.core w.slot th.lane = some ((th.setG s d.toNat (BitVec.ofNat 32 (s.homeNat (pa + 16) 4))).after s.cur.len t) ∧
        (∀ i < 4, s'.homeNat (q + 4 * i) 4 = (th.g? s (a.toNat + i)).toNat) ∧ s'.homeNat (pa + 16) 4 = (s.homeNat (pa + 16) 4 + 1) % 2 ^ 32)) := by
  have hx : exec (.spawn d a t) s = execSpawn d a t s := rfl
  rw [hx, execSpawn]
  dsimp only
  rw [State.withRegs_ok hr, h.wave]
  dsimp only
  rw [hl]
  dsimp only
  by_cases hq0 : l.prog.lrec.spawnq = 0
  · rw [if_pos hq0]
    refine ⟨_, rfl, fun _ => ⟨State.illop_traps h, fun pa => ?_⟩, fun _ _ hne => absurd hq0 hne⟩
    rw [State.illop, State.perLane_mem]
  rw [if_neg hq0, State.curLanes_one h ha, State.curLanes_one h ha]
  cases hoffer : l.offers (th.g? s a.toNat) with
  | false =>
    have hbad : ¬ ((th.g? s a.toNat).toNat < 64 ∧ look l.templates (th.g? s a.toNat).toNat ≠ none) := by
      intro ⟨h1, h2⟩
      rw [Launch.offers, decide_eq_true h1, Option.isSome_iff_ne_none.mpr h2] at hoffer
      exact Bool.noConfusion hoffer
    refine ⟨_, rfl, fun _ => ⟨State.within_illop h, fun pa => ?_⟩, fun _ _ _ h1 h2 => absurd ⟨h1, h2⟩ hbad⟩
    refine congrArg (fun m => readMem m pa) ?_
    exact State.perLane_mem ..
  | true =>
    have hgood : (th.g? s a.toNat).toNat < 64 ∧ look l.templates (th.g? s a.toNat).toNat ≠ none := by
      rw [Launch.offers, Bool.and_eq_true] at hoffer
      exact ⟨of_decide_eq_true hoffer.1, Option.isSome_iff_ne_none.mp hoffer.2⟩
    obtain ⟨u, hu, e⟩ := State.afterPublish_alone h ha
    have hacts := State.afterAccesses_backTo h (quiet_of_alone h ha hd)
    rw [show (if (!true) = true then [th.lane] else []) = ([] : List Nat) from rfl, show (if true = true then [th.lane] else []) = [th.lane] from rfl,
      if_pos (show ([] : List Nat).isEmpty = true from rfl), if_neg (show ¬ [th.lane].isEmpty = true from Bool.false_ne_true), State.within_one ha.one,
      State.oncePath_fresh h.wave (clear_fresh ha.clear) _ _ h.lanes_ne (by rw [hacts]; rfl), hacts, e]
    refine ⟨_, rfl, fun hor => ?_, fun pa q _ _ _ hpa hslot hapart => ?_⟩
    · rcases hor with h0 | h1 | h2
      · exact absurd h0 hq0
      · exact absurd hgood.1 (Nat.not_lt.mpr h1)
      · exact absurd h2 hgood.2
    · rw [hu.home.resolve, hpa]
      dsimp only
      simp only [hu.one, State.backTo_lane?, State.backTo_homeNat]
      exact ⟨fun hfull => hu.spawnStep_full h ha ho hareas hp d.toNat a.toNat t hfull,
        fun hroom => hu.spawnStep_room h ha ho hareas hp d.toNat a.toNat t hroom hslot hapart⟩
end

/-- Settles O34: SPAWN acts in the state its publish leaves; ADMIT answers as the one lane's request of its bucket does. -/
theorem spawnsAndAdmits : Obligations.SpawnsAndAdmits := by
  unfold Obligations.SpawnsAndAdmits
  refine ⟨?spawn, ?allowance⟩
  case spawn =>
    intro s w th d a t l h ha hd ho hareas hp hr hl
    obtain ⟨s', hx, hbad, hgood⟩ := exec_spawn h ha d a t hd ho hareas hp hr hl
    exact ⟨s', hx, hbad, fun pa q hne h64 htmpl hpa hslot hapart => hgood pa q hne h64 htmpl hpa hslot hapart⟩
  case allowance =>
    intro s w th d a t h hone hf hr vf b n tag e die mine gets grant
    obtain ⟨s', hx, htrap, hanswer⟩ := exec_admit h hone hf d a t hr
    refine ⟨s', hx, htrap, fun hb => ⟨fun hoff => ?_, fun hon hdie => ⟨fun r ht hfind => ?_, fun ht hfind hfull => ?_, fun ht => ?_, fun ht hfind hroom => ?_⟩⟩⟩
    · obtain ⟨hl, htags, hmem⟩ := hanswer _ _ hb (State.admitOne_off s vf b n tag hoff) (SamePath.refl s)
      exact ⟨hl, htags, fun pa => congrArg (fun m => readMem m pa) hmem⟩
    · obtain ⟨hl, htags, hmem⟩ := hanswer _ _ hb (State.admitOne_again hon hdie ht hfind) (SamePath.refl s)
      exact ⟨hl, htags, fun pa => congrArg (fun m => readMem m pa) hmem⟩
    · obtain ⟨hl, htags, hmem⟩ := hanswer _ _ hb (State.admitOne_full hon hdie ht hfind hfull) (SamePath.refl s)
      exact ⟨hl, htags, fun pa => congrArg (fun m => readMem m pa) hmem⟩
    · obtain ⟨u, hu, hpath, htags'⟩ := State.admitOne_grants (n := n) hon hdie (fun hne => absurd ht hne)
      obtain ⟨hl, htags, _⟩ := hanswer _ _ hb hu hpath
      exact ⟨hl, htags.trans (htags'.trans (if_pos ht))⟩
    · obtain ⟨u, hu, hpath, htags'⟩ := State.admitOne_grants (n := n) hon hdie (fun _ => ⟨hfind, hroom⟩)
      obtain ⟨hl, htags, _⟩ := hanswer _ _ hb hu hpath
      exact ⟨hl, htags.trans (htags'.trans (if_neg ht))⟩

end Sys2Proof.Machine
end

section
/-! PROOFS. Barriers (spec/10 R203) and byte-barrier objects (R206 to R208): O32. -/

namespace Sys2Proof.Machine
open Sys2Proof.Claims

/-! ## Waves that keep their places -/

/-- A change of waves that keeps where each stands and what it runs. -/
structure KeepsPlace (f : Wave → Wave) : Prop where
  core : ∀ v, (f v).core = v.core
  slot : ∀ v, (f v).slot = v.slot
  blk : ∀ v, (f v).blk = v.blk
  wlin : ∀ v, (f v).wlin = v.wlin

theorem KeepsPlace.id : KeepsPlace (fun v => v) := ⟨fun _ => rfl, fun _ => rfl, fun _ => rfl, fun _ => rfl⟩
theorem KeepsPlace.comp {f g : Wave → Wave} (hf : KeepsPlace f) (hg : KeepsPlace g) : KeepsPlace (fun v => g (f v)) :=
  ⟨fun v => (hg.core _).trans (hf.core v), fun v => (hg.slot _).trans (hf.slot v), fun v => (hg.blk _).trans (hf.blk v), fun v => (hg.wlin _).trans (hf.wlin v)⟩
theorem KeepsPlace.at {f : Wave → Wave} (hf : KeepsPlace f) (c sl : Nat) : KeepsPlace (fun v => if v.isAt c sl then f v else v) where
  core v := by split <;> [exact hf.core v; rfl]
  slot v := by split <;> [exact hf.slot v; rfl]
  blk v := by split <;> [exact hf.blk v; rfl]
  wlin v := by split <;> [exact hf.wlin v; rfl]

theorem keepsPlace_settleOld : KeepsPlace Wave.settleOld := ⟨fun _ => rfl, fun _ => rfl, fun _ => rfl, fun _ => rfl⟩
theorem keepsPlace_laneWave (s : State) (t : Bool) (f : Wave → Thread → Out) : KeepsPlace (laneWave s t f) := by
  refine ⟨fun v => (laneWave_place s t f v).1, fun v => (laneWave_place s t f v).2, fun v => ?_, fun v => ?_⟩
  · unfold laneWave
    dsimp only
    split <;> rfl
  · unfold laneWave
    dsimp only
    split <;> rfl
theorem keepsPlace_logFor (l : Nat) (e : LogEntry) : KeepsPlace (fun v => v.logFor l e) := by
  refine ⟨fun v => (Wave.logFor_place v l e).1, fun v => (Wave.logFor_place v l e).2, fun v => ?_, fun v => ?_⟩
  · unfold Wave.logFor Wave.logEntry
    split
    · rfl
    · split <;> rfl
  · unfold Wave.logFor Wave.logEntry
    split
    · rfl
    · split <;> rfl

/-! ## Lanes that act one after another -/

/-- What an instruction that raises nothing makes of a thread depends on nothing else. -/
theorem Out.apply_of_quiet {o : Out} (h : o.raises = false) (s u : State) (r r' : WaveRegs) (len : Nat) (tack : Bool) :
    o.apply s r len tack = o.apply u r' len tack := by
  cases o with
  | next t => rfl
  | jump t a => rfl
  | land t => rfl
  | hold t w => rfl
  | trap t c => exact Bool.noConfusion h
  | trapAfter t c => exact Bool.noConfusion h
  | throw t c k => exact Bool.noConfusion h
  | rethrow t c k x => exact Bool.noConfusion h

/-- A state in which some lanes of the path have acted, each by itself. -/
structure Acted (s : State) (w : Wave) (g : Thread → Thread) (lanes : List Nat) (u : State) : Prop where
  state : ∃ f, KeepsPlace f ∧ u = { s with waves := s.waves.map f } ∧ (f w).lining = none ∧
    (f w).lanes = w.lanes.map (fun t => if lanes.elem t.lane then g t else t)

theorem Acted.start {s : State} {w : Wave} (h : w.lining = none) (g : Thread → Thread) : Acted s w g [] s :=
  ⟨_, KeepsPlace.id, by rw [List.map_id'], h, ((List.map_congr_left (fun t _ => if_neg (by simp))).trans w.lanes.map_id').symm⟩

theorem Acted.curWave {s u : State} {w : Wave} {g : Thread → Thread} {ls : List Nat} (hw : s.curWave = some w) (h : Acted s w g ls u) :
    ∃ y, u.curWave = some y ∧ y.core = w.core ∧ y.slot = w.slot ∧ y.blk = w.blk ∧ y.lining = none ∧
      y.lanes = w.lanes.map (fun t => if ls.elem t.lane then g t else t) := by
  obtain ⟨f, hf, rfl, hlin, hlanes⟩ := h.state
  refine ⟨f w, ?_, hf.core w, hf.slot w, hf.blk w, hlin, hlanes⟩
  have e := State.wave?_map (s := s) (f := f) (fun v => ⟨hf.core v, hf.slot v⟩) s.cur.core s.cur.slot
  refine e.trans ?_
  rw [show s.wave? s.cur.core s.cur.slot = some w from hw]
  rfl

/-- A further change of the wave of the path. -/
theorem Acted.change {s u : State} {w : Wave} {g : Thread → Thread} {ls ls' : List Nat} (hw : s.curWave = some w) (h : Acted s w g ls u) {f' : Wave → Wave}
    (hf' : KeepsPlace f') {u' : State} (hu' : u' = { u with waves := (u.onWave s.cur.core s.cur.slot f').waves }) (hlining : ∀ y, y.lining = none → (f' y).lining = none)
    (hlanes : ∀ y : Wave, y.lining = none → y.lanes = w.lanes.map (fun t => if ls.elem t.lane then g t else t) →
      (f' y).lanes = w.lanes.map (fun t => if ls'.elem t.lane then g t else t)) : Acted s w g ls' u' := by
  obtain ⟨f, hf, rfl, hlin, hl⟩ := h.state
  have hat : (f w).isAt s.cur.core s.cur.slot = true := by
    have hwa := List.find?_some (p := fun v : Wave => v.isAt s.cur.core s.cur.slot) hw
    unfold Wave.isAt at hwa ⊢
    rw [hf.core, hf.slot]
    exact hwa
  refine ⟨⟨_, hf.comp (hf'.at s.cur.core s.cur.slot), ?_, ?_, ?_⟩⟩
  · rw [hu']
    unfold State.onWave
    dsimp only
    rw [List.map_map]
    rfl
  · rw [if_pos hat]
    exact hlining _ hlin
  · rw [if_pos hat]
    exact hlanes _ hlin hl

section
variable {s : State} {w : Wave} (hw : s.curWave = some w) {o : Thread → Out} (hquiet : ∀ t, (o t).raises = false) (hlane : ∀ t, (o t).thread.lane = t.lane)
    (tack : Bool) {g : Thread → Thread} (hg : ∀ t, g t = (o t).apply s w.regs s.cur.len tack)
include hw

theorem Acted.logged {u : State} {ls : List Nat} (h : Acted s w g ls u) (l : Nat) (e : LogEntry) : Acted s w g ls (u.onCur (fun y => y.logFor l e)) := by
  have hcur : u.cur = s.cur := by
    obtain ⟨f, _, rfl, _⟩ := h.state
    rfl
  refine h.change hw (keepsPlace_logFor l e) ?_ (fun y hy => by rw [Wave.logFor_unlined hy]; exact hy) (fun y hy hl => by rw [Wave.logFor_unlined hy]; exact hl)
  exact show u.onCur _ = u.onWave s.cur.core s.cur.slot _ by rw [State.onCur, hcur]

include hquiet hlane hg in
/-- One more lane acts. -/
theorem Acted.next {u : State} {ls : List Nat} {l : Nat} (h : Acted s w g ls u) (hl : ls.elem l = false) :
    Acted s w g (l :: ls) (u.within [l] (fun v => v.perLane tack (fun _ t => o t))) := by
  have hcur : u.cur = s.cur := by
    obtain ⟨f, _, rfl, _⟩ := h.state
    rfl
  obtain ⟨y, hy, _⟩ := h.curWave hw
  generalize hx : ({ u with cur := { u.cur with lanes := [l] } } : State) = x
  have hxy : x.curWave = some y := by rw [← hx]; exact hy
  have hxc : x.cur = { s.cur with lanes := [l] } := by rw [← hx, hcur]
  obtain ⟨ws, hws⟩ := State.perLane_onlyWaves hxy tack (f := fun _ t => o t) hquiet
  have hwaves := State.perLane_waves hxy tack (fun _ t => o t)
  refine h.change hw (keepsPlace_laneWave x tack (fun _ t => o t)) ?_ (fun y hy => (laneWave_lining ..).trans hy) (fun y _ hlanes => ?_)
  · rw [State.within, hx, hws]
    rw [hws] at hwaves
    rw [show ws = _ from hwaves, hxc, ← hx]
    rfl
  · rw [laneWave_lanes, hlanes, List.map_map, hxc]
    refine List.map_congr_left (fun t _ => ?_)
    simp only [Function.comp]
    have hgl : (g t).lane = t.lane := by rw [hg, Out.apply_lane]; exact hlane t
    by_cases hin : ls.elem t.lane = true
    · have hne : t.lane ≠ l := fun e => by rw [e, hl] at hin; exact Bool.noConfusion hin
      rw [if_pos hin, hgl, if_neg (by simpa using hne), if_pos (by simpa using Or.inr (List.mem_of_elem_eq_true hin))]
    · rw [if_neg hin]
      by_cases ht : t.lane = l
      · rw [if_pos (by simp [ht]), if_pos (by simp [ht]), hg]
        exact Out.apply_of_quiet (hquiet t) ..
      · rw [if_neg (by simpa using ht), if_neg (by simpa [ht] using hin)]
end

/-! ## Arrivals -/

theorem State.arrivalPhase_unlined {u : State} {y : Wave} (hy : u.curWave = some y) (hl : y.lining = none) (l k p : Nat) :
    u.arrivalPhase l k p = (u.onCur (fun v => v.logFor l (.phase l k p)), p) := by
  have hnone : y.replayFor l (LogEntry.isPhase l k) = none := by
    unfold Wave.replayFor Wave.replay
    rw [hl]
    split <;> rfl
  unfold State.arrivalPhase
  rw [hy, Option.bind_some, hnone]

/-- What the arrival of a lane is: recorded in the phase, and the lane goes on or waits. -/
def arrivalOut (s : State) (k now p sc : Nat) (wait tack : Bool) (t : Thread) : Out :=
  if wait then .land (Thread.passBarrier s { t with arrived := insertAt t.arrived k p, wait := .barrier k tack } k now sc)
  else .next { t with arrived := insertAt t.arrived k p }

theorem arrivalOut_raises (s : State) (k now p sc : Nat) (wait tack : Bool) (t : Thread) : (arrivalOut s k now p sc wait tack t).raises = false := by
  unfold arrivalOut
  split <;> rfl
theorem arrivalOut_lane (s : State) (k now p sc : Nat) (wait tack : Bool) (t : Thread) : (arrivalOut s k now p sc wait tack t).thread.lane = t.lane := by
  unfold arrivalOut
  split
  · dsimp only [Out.thread]
    rw [Thread.passBarrier_lane]
  · rfl

/-- A lane that has arrived. -/
def Thread.arrival (t : Thread) (k p len : Nat) (wait tack : Bool) : Thread :=
  if wait then { t with arrived := insertAt t.arrived k p, wait := .barrier k tack } else { t with arrived := insertAt t.arrived k p }.after len tack

theorem arrivalOut_apply (s : State) (r : WaveRegs) (len k p sc : Nat) (wait tack : Bool) (t : Thread) :
    t.arrival k p len wait tack = (arrivalOut s k p p sc wait tack t).apply s r len (tack && !wait) := by
  unfold Thread.arrival arrivalOut
  cases wait with
  | true =>
    have hstay : Thread.passBarrier s { t with arrived := insertAt t.arrived k p, wait := .barrier k tack } k p sc =
        { t with arrived := insertAt t.arrived k p, wait := .barrier k tack } := by
      unfold Thread.passBarrier
      dsimp only
      rw [look_insertAt_same, if_neg (by simp)]
    rw [if_pos rfl, if_pos rfl, hstay]
    cases tack <;> rfl
  | false =>
    rw [if_neg (by decide), if_neg (by decide), Out.apply_next]
    cases tack <;> rfl

/-- The lanes of a path that arrive, one after another: the state before the phase is looked at. -/
theorem State.arrive_acted {s : State} {v : Wave} (hv : s.curWave = some v) (hlin : v.lining = none) (hnd : s.cur.lanes.Nodup) (w : Wave) (k : Nat) (wait tack : Bool) :
    ∃ u, Acted s v (fun t => t.arrival k (s.phaseOf k w) s.cur.len wait tack) s.cur.lanes.reverse u ∧ s.arrive w k wait tack = u.barCheck k w := by
  unfold State.arrive
  dsimp only
  have hfold : ∀ (ls done : List Nat) (u : State), (ls.reverse ++ done).Nodup → Acted s v (fun t => t.arrival k (s.phaseOf k w) s.cur.len wait tack) done u →
      Acted s v (fun t => t.arrival k (s.phaseOf k w) s.cur.len wait tack) (ls.reverse ++ done) (ls.foldl (fun u l =>
        (u.arrivalPhase l k (s.phaseOf k w)).1.within [l] (fun v => v.perLane (tack && !wait) (fun _ t =>
          arrivalOut s k (s.phaseOf k w) (u.arrivalPhase l k (s.phaseOf k w)).2 ((s.waveRec w).scopeOf k) wait tack t))) u) := by
    intro ls
    induction ls with
    | nil => exact fun _ _ _ hu => hu
    | cons l rest ih =>
      intro done u hnd hu
      have hsplit : (l :: rest).reverse ++ done = rest.reverse ++ (l :: done) := by simp
      rw [hsplit] at hnd ⊢
      rw [List.foldl_cons]
      refine ih (l :: done) _ hnd ?_
      have hl : done.elem l = false := by
        have h2 := (List.nodup_append.mp hnd).2.1
        simpa using (List.nodup_cons.mp h2).1
      obtain ⟨y, hy, _, _, _, hylin, _⟩ := hu.curWave hv
      rw [State.arrivalPhase_unlined hy hylin]
      exact (hu.logged hv l _).next hv (fun t => arrivalOut_raises ..) (fun t => arrivalOut_lane ..) (tack && !wait)
        (fun t => arrivalOut_apply s v.regs s.cur.len k (s.phaseOf k w) ((s.waveRec w).scopeOf k) wait tack t) hl
  have h := hfold s.cur.lanes [] s (by simpa using hnd) (Acted.start hlin _)
  rw [List.append_nil] at h
  exact ⟨_, h, rfl⟩

/-! ## The groups of waves, and clocks -/

/-- A gang without what a publish changes of it. -/
def Gang.bare (g : Gang) : Gang := { g with overlay := [], log := [] }

/-- Every gang is the same but for its overlay and its log, and none is there that was not. -/
structure SameGangs (s t : State) : Prop where
  bare : ∀ g, (t.gang? g).map Gang.bare = (s.gang? g).map Gang.bare

theorem SameGangs.of_gangs {s t : State} (h : t.gangs = s.gangs) : SameGangs s t := ⟨fun g => by rw [State.gang?, State.gang?, h]⟩
theorem SameGangs.trans {s t u : State} (h : SameGangs s t) (h' : SameGangs t u) : SameGangs s u := ⟨fun g => (h'.bare g).trans (h.bare g)⟩
theorem SameGangs.foldl {α : Type} {f : State → α → State} (hf : ∀ t x, SameGangs t (f t x)) (l : List α) (s : State) : SameGangs s (l.foldl f s) :=
  List.foldlRecOn (motive := SameGangs s) l f (SameGangs.of_gangs rfl) (fun _ ht x _ => ht.trans (hf _ x))

section
variable (s : State)

theorem SameGangs.onGang (g : Nat) {f : Gang → Gang} (hf : ∀ k, (f k).bare = k.bare) : SameGangs s (s.onGang g f) := ⟨fun x => by
  have e : (s.onGang g f).gang? x = if x = g then (s.gang? g).map f else s.gang? x := look_onKey ..
  rw [e]
  split
  next hx =>
    rw [hx, Option.map_map]
    exact congrArg (fun k => (s.gang? g).map k) (funext hf)
  next => rfl⟩

theorem SameGangs.homeWrite (gang : Option Nat) (pa : Nat) (b : Byte) (stamp : Nat) : SameGangs s (s.homeWrite gang pa b stamp) := by
  rcases State.homeWrite_gangs s gang pa b stamp with e | ⟨g, e⟩
  · exact SameGangs.of_gangs e
  · have h := SameGangs.onGang s g (f := fun k => { k with log := logLine s k.log pa stamp }) (fun _ => by simp only [Gang.bare])
    exact ⟨fun x => by rw [State.gang?, e]; exact h.bare x⟩

theorem SameGangs.placeByte (c g sc pa : Nat) (w : ViewWrite) : SameGangs s (s.placeByte c g sc pa w) := by
  have h1 : SameGangs s (s.nextStamp.onCore c (fun k => { k with writes := eraseAt k.writes pa, snap := takeLater k.snap pa ⟨w.val, w.stamp.getD s.nextStamp.stamp⟩ })) :=
    SameGangs.of_gangs rfl
  unfold State.placeByte
  dsimp only
  split
  · exact h1.trans (SameGangs.homeWrite ..)
  · exact h1.trans (SameGangs.onGang _ _ (fun _ => rfl))

theorem SameGangs.bind (pa n : Nat) : SameGangs s (s.bind pa n) := SameGangs.of_gangs (by
  unfold State.bind
  split <;> rfl)

theorem SameGangs.covered (c : Nat) : SameGangs s (s.covered c) := SameGangs.foldl (fun t _ => SameGangs.bind t _ _) _ s

theorem SameGangs.publish (c g sc : Nat) (hasGang : Bool) : SameGangs s (s.publish c g sc hasGang) := by
  unfold State.publish
  split
  · exact SameGangs.of_gangs rfl
  · refine SameGangs.trans ?_ (SameGangs.covered _ c)
    refine (SameGangs.foldl (fun t (p : Nat × ViewWrite) => SameGangs.placeByte t c g sc p.1 p.2) _ s).trans (SameGangs.foldl (fun t g' => ?_) _ _)
    unfold State.flushOverlay
    split
    · exact (SameGangs.foldl (fun t (p : Nat × Placed) => SameGangs.homeWrite t (some g') p.1 p.2.val p.2.stamp) _ t).trans (SameGangs.onGang _ _ (fun _ => rfl))
    · exact SameGangs.of_gangs rfl
end

/-- What the groups of waves, their barriers and the clocks of cores are read from is the same. -/
structure SameGroups (s t : State) : Prop where
  gangs : SameGangs s t
  launches : t.launches = s.launches
  blocks : t.blocks = s.blocks
  bars : t.bars = s.bars
  images : t.images = s.images
  free : t.free = s.free
  clock : ∀ c, t.clockOf c = s.clockOf c

theorem SameGroups.refl (s : State) : SameGroups s s := ⟨SameGangs.of_gangs rfl, rfl, rfl, rfl, rfl, rfl, fun _ => rfl⟩
theorem SameGroups.trans {s t u : State} (h : SameGroups s t) (h' : SameGroups t u) : SameGroups s u :=
  ⟨h.gangs.trans h'.gangs, h'.launches.trans h.launches, h'.blocks.trans h.blocks, h'.bars.trans h.bars, h'.images.trans h.images, h'.free.trans h.free,
    fun c => (h'.clock c).trans (h.clock c)⟩

/-- A core whose power and clock offset are the same shows the same clock. -/
theorem clockOf_congr {s t : State} {c : Nat} (hcyc : t.cycles = s.cycles) (h : (t.core c).powered = (s.core c).powered ∧ (t.core c).clkOff = (s.core c).clkOff ∧
    (t.core c).gatedAt = (s.core c).gatedAt) : t.clockOf c = s.clockOf c := by
  obtain ⟨h1, h2, h3⟩ := h
  unfold State.clockOf
  dsimp only
  rw [h1, h2, h3, hcyc]

section
variable {s t : State} (h : SameGroups s t)
include h

theorem SameGroups.space? (w : Wave) : t.space? w = s.space? w := by
  have e : ∀ x : State, x.space? w = ((x.block? w.blk).bind (fun k => (x.gang? k.gang).map Gang.bare)).map Gang.space := by
    intro x
    rw [State.space?, State.gangOf]
    cases x.block? w.blk with
    | none => rfl
    | some k =>
      simp only [Option.bind_some, Option.map_map]
      rfl
  rw [e t, e s, State.block?, State.block?, h.blocks]
  simp only [h.gangs.bare]

theorem SameGroups.waveRec (w : Wave) : t.waveRec w = s.waveRec w := by
  have e : ∀ x : State, x.progOf w.blk = ((x.block? w.blk).bind (fun k => (x.gang? k.gang).map Gang.bare)).bind (fun g => (x.launch? g.launch).map (fun l => l.progOf g.tmpl)) := by
    intro x
    rw [State.progOf, State.gangOf]
    cases x.block? w.blk with
    | none => rfl
    | some k =>
      cases hg : x.gang? k.gang with
      | none => simp [hg]
      | some g =>
        simp only [Option.bind_some, hg, Option.map_some]
        rw [show g.bare.launch = g.launch from rfl, show g.bare.tmpl = g.tmpl from rfl]
        cases x.launch? g.launch <;> rfl
  rw [State.waveRec, State.waveRec, State.recOf, State.recOf, e t, e s, State.block?, State.block?, h.blocks]
  simp only [h.gangs.bare, State.launch?, h.launches]

theorem SameGroups.phaseOf (k : Nat) (w : Wave) : t.phaseOf k w = s.phaseOf k w := by
  unfold State.phaseOf
  rw [h.space?, h.waveRec, h.bars]

theorem SameGroups.sameGroup (k : Nat) (w v : Wave) : t.sameGroup k w v = s.sameGroup k w v := by
  unfold State.sameGroup
  rw [h.space?, h.space?, h.waveRec]
end

/-- A wave with the same place is of the same groups. -/
theorem State.sameGroup_place {s : State} {k : Nat} {w v v' : Wave} (hb : v'.blk = v.blk) (hl : v'.wlin = v.wlin) : s.sameGroup k w v' = s.sameGroup k w v := by
  unfold State.sameGroup State.space?
  rw [hb, hl]

theorem SameGroups.publish (s : State) (c g sc : Nat) (hasGang : Bool) : SameGroups s (s.publish c g sc hasGang) := by
  have hp := OnlyPlaces.publish s c g sc hasGang
  refine ⟨SameGangs.publish s c g sc hasGang, hp.launches, hp.blocks, (congrArg State.bars hp.rest :), hp.images, (congrArg State.free hp.rest :), fun x => ?_⟩
  have e := hp.views.engines x
  exact clockOf_congr (congrArg State.cycles hp.rest :) ⟨(congrArg Core.powered e :), (congrArg Core.clkOff e :), (congrArg Core.gatedAt e :)⟩

theorem SameGroups.of_cores {s t : State} (h : { t with
    waves := s.waves, cores := s.cores, cur := s.cur } = s) (hc : ∀ c, { t.core c with window := (s.core c).window } = s.core c) : SameGroups s t := by
  refine ⟨SameGangs.of_gangs (congrArg State.gangs h :), (congrArg State.launches h :), (congrArg State.blocks h :), (congrArg State.bars h :),
    (congrArg State.images h :), (congrArg State.free h :), fun x => ?_⟩
  have e := hc x
  exact clockOf_congr (congrArg State.cycles h :) ⟨(congrArg Core.powered e :), (congrArg Core.clkOff e :), (congrArg Core.gatedAt e :)⟩

/-! ## The lanes that have arrived already -/

/-- A wave's lanes that a path holds and a test picks. -/
theorem State.curLanes_among {s : State} {w : Wave} (hw : s.curWave = some w) (hs : w.lanes.Pairwise (fun x y => x.lane < y.lane)) (p : Thread → Bool) :
    ∀ t ∈ w.lanes, (s.curLanes p).elem t.lane = (s.cur.lanes.elem t.lane && p t) := by
  intro t ht
  rw [State.curLanes, hw]
  dsimp only
  cases hp : s.cur.lanes.elem t.lane && p t with
  | true =>
    exact List.elem_eq_true_of_mem (List.mem_map_of_mem (f := fun t : Thread => t.lane) (List.mem_filter.mpr ⟨ht, hp⟩))
  | false =>
    refine Bool.eq_false_iff.mpr (fun he => ?_)
    obtain ⟨u, hu, hlane⟩ := List.mem_map.mp (List.mem_of_elem_eq_true he)
    obtain ⟨hmem, hpu⟩ := List.mem_filter.mp hu
    have hfilter : u ∈ w.lanes.filter (fun x => x.lane == t.lane) := List.mem_filter.mpr ⟨hmem, by simpa using hlane⟩
    rw [filter_lane_of_sorted hs ht] at hfilter
    rw [List.mem_singleton.mp hfilter, hp] at hpu
    exact Bool.noConfusion hpu

theorem Wave.lane?_of_map {v w : Wave} {f : Thread → Thread} (h : v.lanes = w.lanes.map f) (hf : ∀ t, (f t).lane = t.lane) (l : Nat) :
    v.lane? l = (w.lane? l).map f := by
  rw [Wave.lane?, h]
  exact lane_find_map w.lanes l f hf

/-- `u` is `s` with its wave changed in place, the lanes each by a function, and, of its cores, the windows. -/
structure Refused (s : State) (w : Wave) (f : Thread → Thread) (u : State) (v : Wave) : Prop where
  map : ∃ g, KeepsPlace g ∧ u.waves = s.waves.map g ∧ v = g w
  wave : u.curWave = some v
  lanes : v.lanes = w.lanes.map f
  lining : v.lining = none
  cur : u.cur = s.cur
  groups : SameGroups s u

/-- The wave after an instruction of the path in place. -/
theorem State.perLane_refused {s : State} {w : Wave} (hw : s.curWave = some w) (hl : w.lining = none) (t : Bool) {f : Wave → Thread → Out}
    (hf : ∀ v u, (f v u).thread.lane = u.lane) :
    Refused s w (fun u => if s.cur.lanes.elem u.lane then (f w u).apply s w.regs s.cur.len t else u) (s.perLane t f) (laneWave s t f w) := by
  have hat := List.find?_some (p := fun v : Wave => v.isAt s.cur.core s.cur.slot) hw
  have ho := State.perLane_onlyLanes hw t hf
  refine ⟨⟨_, (keepsPlace_laneWave s t f).at s.cur.core s.cur.slot, State.perLane_waves hw t f, (if_pos hat).symm⟩, State.perLane_curWave hw t f, laneWave_lanes .., ?_,
    State.perLane_cur hw t f, SameGroups.of_cores ?_ ho.cores⟩
  · exact (laneWave_lining ..).trans hl
  · exact (congrArg (fun x : State => { x with
      cur := s.cur }) ho.state :)

/-- A path of which a test picks lanes that take ILLOP. -/
def State.refuseLanes (s : State) (bad : List Nat) : State := if bad.isEmpty then s else s.within bad State.illop

theorem State.refuseLanes_refused {s : State} {w : Wave} (hw : s.curWave = some w) (hl : w.lining = none) (hs : w.lanes.Pairwise (fun x y => x.lane < y.lane)) (p : Thread → Bool) :
    ∃ v, Refused s w (fun u => if s.cur.lanes.elem u.lane && p u then Thread.trap s w.regs u cILLOP u.pc else u) (s.refuseLanes (s.curLanes p)) v := by
  have hpick := State.curLanes_among hw hs p
  unfold State.refuseLanes
  split
  next hbad =>
    refine ⟨w, ⟨_, KeepsPlace.id, (List.map_id' _).symm, rfl⟩, hw, ?_, hl, rfl, SameGroups.refl s⟩
    refine ((List.map_congr_left (fun u hu => ?_)).trans (w.lanes.map_id')).symm
    rw [← hpick u hu, List.isEmpty_iff.mp hbad]
    rfl
  next =>
    generalize hx : ({ s with cur := { s.cur with lanes := s.curLanes p } } : State) = x
    have hxw : x.curWave = some w := by rw [← hx]; exact hw
    have h := State.perLane_refused hxw hl false (f := fun _ t => .trap t cILLOP) (fun _ _ => rfl)
    refine ⟨_, ⟨?_, ?_, ?_, h.lining, rfl, ?_⟩⟩
    · obtain ⟨g, hg, hgw, hv⟩ := h.map
      refine ⟨g, hg, ?_, hv⟩
      rw [State.within, hx]
      refine Eq.trans hgw ?_
      rw [← hx]
    · rw [State.within, hx]
      refine Eq.trans ?_ h.wave
      rw [State.curWave, State.curWave, h.cur, ← hx]
      rfl
    · rw [h.lanes]
      refine List.map_congr_left (fun u hu => ?_)
      rw [← hpick u hu, ← hx]
      exact if_congr Iff.rfl (Thread.trap_congr rfl rfl ..) rfl
    · rw [State.within, hx]
      have hgroups : SameGroups s x := by rw [← hx]; exact ⟨⟨fun _ => rfl⟩, rfl, rfl, rfl, rfl, rfl, fun _ => rfl⟩
      have h2 := hgroups.trans h.groups
      exact ⟨⟨h2.gangs.bare⟩, h2.launches, h2.blocks, h2.bars, h2.images, h2.free, h2.clock⟩

/-! ## The phase -/

theorem Thread.passBarrier_congr {s u : State} (hc : u.clockOf u.cur.core = s.clockOf s.cur.core) (hf : u.free = s.free) (t : Thread) (k p sc : Nat) :
    Thread.passBarrier u t k p sc = Thread.passBarrier s t k p sc := by
  simp only [Thread.passBarrier, Thread.issue, hc, hf]

/-- Whether the phase of a wave's group is complete. -/
def State.barMet (s : State) (k : Nat) (w : Wave) : Bool :=
  s.allLive k w (fun t => look t.arrived k == some (s.phaseOf k w)) &&
  (s.groupWaves k w).any (fun v => v.lanes.any (fun t => t.live && look t.arrived k == some (s.phaseOf k w)))

/-- A wave of the group once the phase is looked at. -/
theorem State.barCheck_wave {u : State} {w y : Wave} {k c sl : Nat} (hy : u.wave? c sl = some y) (hg : u.sameGroup k w y = true) :
    ∃ y', (u.barCheck k w).wave? c sl = some y' ∧ y'.lanes = y.lanes.map (fun t =>
      if u.barMet k w then Thread.passBarrier u t k (u.phaseOf k w + 1) ((u.waveRec w).scopeOf k) else t) := by
  unfold State.barCheck
  dsimp only
  rw [show (u.allLive k w (fun t => look t.arrived k == some (u.phaseOf k w)) && (u.groupWaves k w).any (fun v => v.lanes.any (fun t => t.live &&
    look t.arrived k == some (u.phaseOf k w)))) = u.barMet k w from rfl]
  cases u.barMet k w with
  | false =>
    rw [if_neg (by decide)]
    exact ⟨y, hy, (y.lanes.map_id').symm⟩
  | true =>
    rw [if_pos rfl]
    have hnext : (u.nextPhase k w).waves = u.waves := by
      unfold State.nextPhase
      split <;> rfl
    have e := State.wave?_map (s := u.nextPhase k w) (f := fun v => if u.sameGroup k w v then { v with
        lanes := v.lanes.map (fun t => Thread.passBarrier u t k (u.phaseOf k w + 1) ((u.waveRec w).scopeOf k)) } else v)
      (fun v => by split <;> exact ⟨rfl, rfl⟩) c sl
    rw [show (u.nextPhase k w).wave? c sl = some y by rw [State.wave?, hnext]; exact hy, Option.map_some, if_pos hg] at e
    exact ⟨_, e, rfl⟩

/-- The phase after a completed one. -/
theorem State.barCheck_phase {u : State} {w : Wave} {k : Nat} (h : u.barMet k w = true) (hs : u.space? w ≠ none) : (u.barCheck k w).phaseOf k w = u.phaseOf k w + 1 := by
  obtain ⟨sp, hsp⟩ := Option.ne_none_iff_exists'.mp hs
  have hbars : ∀ (v : State), v.space? w = some sp → v.waveRec w = u.waveRec w →
      v.bars = ⟨sp.1, sp.2, k, (u.waveRec w).groupOf k w.wlin, u.phaseOf k w + 1⟩ :: u.bars.filter (fun b => !b.isOf sp k ((u.waveRec w).groupOf k w.wlin)) →
      v.phaseOf k w = u.phaseOf k w + 1 := by
    intro v h1 h2 h3
    rw [State.phaseOf, h1]
    dsimp only
    rw [h2, h3, List.find?_cons_of_pos (by simp [BarInst.isOf])]
  unfold State.barCheck
  dsimp only
  rw [show (u.allLive k w (fun t => look t.arrived k == some (u.phaseOf k w)) && (u.groupWaves k w).any (fun v => v.lanes.any (fun t => t.live &&
    look t.arrived k == some (u.phaseOf k w)))) = u.barMet k w from rfl, h, if_pos rfl]
  unfold State.nextPhase
  rw [hsp]
  exact hbars _ hsp rfl rfl

/-! ## BAR and BARARR -/

/-- A lane of the path after a barrier instruction, before the phase is looked at. -/
def State.arriveLane (s : State) (w : Wave) (k : Nat) (wait tack : Bool) (u : Thread) : Thread :=
  if s.cur.lanes.elem u.lane then
    if (look u.arrived k).isSome then Thread.trap s w.regs u cILLOP u.pc else u.arrival k (s.phaseOf k w) s.cur.len wait tack
  else u

/-- A lane after the phase has been looked at, `pass` saying whether it was complete. -/
def State.barLane (s : State) (w : Wave) (k : Nat) (pass : Bool) (u : Thread) : Thread :=
  if pass then Thread.passBarrier s u k (s.phaseOf k w + 1) ((s.waveRec w).scopeOf k) else u

theorem Thread.arrival_lane (t : Thread) (k p len : Nat) (wait tack : Bool) : (t.arrival k p len wait tack).lane = t.lane := by
  unfold Thread.arrival
  split <;> rfl
theorem State.arriveLane_lane (s : State) (w : Wave) (k : Nat) (wait tack : Bool) (u : Thread) : (s.arriveLane w k wait tack u).lane = u.lane := by
  unfold State.arriveLane
  split
  · split
    · exact Thread.trap_lane ..
    · exact Thread.arrival_lane ..
  · rfl
theorem State.barLane_lane (s : State) (w : Wave) (k : Nat) (pass : Bool) (u : Thread) : (s.barLane w k pass u).lane = u.lane := by
  unfold State.barLane
  split
  · exact Thread.passBarrier_lane ..
  · rfl

theorem Wave.lane?_of_sorted {w : Wave} {t : Thread} (h : w.lanes.Pairwise (fun x y => x.lane < y.lane)) (ht : t ∈ w.lanes) : w.lane? t.lane = some t := by
  rw [Wave.lane?, ← List.head?_filter, filter_lane_of_sorted h ht]
  rfl

theorem Wave.among_nodup {w : Wave} (h : w.lanes.Pairwise (fun x y => x.lane < y.lane)) (ls : List Nat) : (w.among ls).Nodup := by
  refine List.pairwise_map.mpr ?_
  exact (h.sublist List.filter_sublist).imp (fun hlt => Nat.ne_of_lt hlt)

theorem Wave.among_elem {w : Wave} {t : Thread} (ht : t ∈ w.lanes) (ls : List Nat) : (w.among ls).elem t.lane = ls.elem t.lane := by
  cases h : ls.elem t.lane with
  | true => exact List.elem_eq_true_of_mem (List.mem_map_of_mem (f := fun t : Thread => t.lane) (List.mem_filter.mpr ⟨ht, h⟩))
  | false =>
    refine Bool.eq_false_iff.mpr (fun he => ?_)
    obtain ⟨u, hu, hlane⟩ := List.mem_map.mp (List.mem_of_elem_eq_true he)
    rw [← hlane, (List.mem_filter.mp hu).2] at h
    exact Bool.noConfusion h

/-- The lanes that arrive at a barrier: the state before the phase is looked at. -/
structure Arrived (s : State) (w : Wave) (k : Nat) (wait tack : Bool) (u : State) : Prop where
  map : ∃ f y, KeepsPlace f ∧ u.waves = s.waves.map f ∧ y = f w ∧ u.wave? w.core w.slot = some y ∧ y.lanes = w.lanes.map (s.arriveLane w k wait tack)
  groups : SameGroups s u
  core : u.cur.core = s.cur.core

section
variable {s : State} {w : Wave} {th : Thread} (h : s.OnPath w th) (hc : Clear s w) (l : BitVec 3) (wait tack : Bool)
include h hc

theorem arriveAt_arrived (hbad : s.levelBad w (s.levelOf w l) = false) (hsc : (s.waveRec w).scopeOf (s.levelOf w l) ≠ 5) :
    ∃ s' u, arriveAt l wait tack s = .next s' ∧ Arrived s w (s.levelOf w l) wait tack u ∧
      ((∀ t ∈ w.lanes, s.cur.lanes.elem t.lane = true → (look t.arrived (s.levelOf w l)).isSome = true) ∧ s' = u ∨
        ∃ c, s' = { u.barCheck (s.levelOf w l) w with cur := c }) := by
  generalize hk : s.levelOf w l = k at hbad hsc ⊢
  have hflush : SameGroups s (s.flushFor w.core w.blk) := SameGroups.of_cores rfl (fun c => by
    unfold State.flushFor
    rw [State.core_onCore]
    split
    next hcc =>
      subst c
      dsimp only
      split <;> rfl
    next => rfl)
  generalize hs1 : s.flushFor w.core w.blk = s1 at hflush
  have hw1 : s1.curWave = some w := by rw [← hs1]; exact h.wave
  have hcur1 : s1.cur = s.cur := by rw [← hs1]; rfl
  have hwaves1 : s1.waves = s.waves := by rw [← hs1]; rfl
  obtain ⟨v, hv⟩ := State.refuseLanes_refused hw1 hc.unlined hc.sorted (fun x => (look x.arrived k).isSome)
  have hgood := State.curLanes_among hw1 hc.sorted (fun x => !(look x.arrived k).isSome)
  generalize hs2 : s1.refuseLanes (s1.curLanes (fun x => (look x.arrived k).isSome)) = s2 at hv
  generalize hgl : s1.curLanes (fun x => !(look x.arrived k).isSome) = good at hgood
  unfold arriveAt
  rw [h.wave]
  dsimp only
  rw [hk, hbad, if_neg (by decide), hs1]
  change ∃ s' u, done (if (s1.curLanes (fun x => !(look x.arrived k).isSome)).isEmpty = true then s1.refuseLanes (s1.curLanes (fun x => (look x.arrived k).isSome)) else
    (s1.refuseLanes (s1.curLanes (fun x => (look x.arrived k).isSome))).within (s1.curLanes (fun x => !(look x.arrived k).isSome))
      (fun u => u.afterPublish ((s.waveRec w).scopeOf k) (fun v => v.arrive w k wait tack))) = _ ∧ _
  rw [hs2, hgl]
  obtain ⟨hcore, hslot⟩ := State.wave?_isAt (s := s) h.wave
  have htrap : ∀ u : Thread, Thread.trap s1 w.regs u cILLOP u.pc = Thread.trap s w.regs u cILLOP u.pc := fun u => by
    rw [← hs1]
    exact Thread.trap_congr rfl rfl ..
  obtain ⟨f, hf, hfw, hvf⟩ := hv.map
  have hat2 : s2.wave? w.core w.slot = some v := by
    rw [hcore, hslot, ← hcur1, ← hv.cur]
    exact hv.wave
  cases hge : good.isEmpty with
  | true =>
    rw [if_pos rfl]
    have hnone : ∀ t ∈ w.lanes, s.cur.lanes.elem t.lane = true → (look t.arrived k).isSome = true := by
      intro t ht hl
      have e := hgood t ht
      rw [List.isEmpty_iff.mp hge, hcur1, hl] at e
      simpa using e.symm
    refine ⟨s2, s2, rfl, ⟨⟨f, v, hf, hfw.trans (by rw [hwaves1]), hvf, hat2, ?_⟩, hflush.trans hv.groups, by rw [hv.cur, hcur1]⟩, .inl ⟨hnone, rfl⟩⟩
    rw [hv.lanes]
    refine List.map_congr_left (fun t ht => ?_)
    unfold State.arriveLane
    rw [hcur1, htrap]
    cases hl : s.cur.lanes.elem t.lane with
    | false => rfl
    | true => rw [hnone t ht hl]; rfl
  | false =>
    rw [if_neg (by decide)]
    have hlanesv : v.lanes = w.lanes.map (fun u => if s.cur.lanes.elem u.lane && (look u.arrived k).isSome then Thread.trap s w.regs u cILLOP u.pc else u) := by
      rw [hv.lanes]
      refine List.map_congr_left (fun t _ => ?_)
      rw [hcur1, htrap]
    have hstays : ∀ t ∈ w.lanes, good.elem t.lane = true →
        (if s.cur.lanes.elem t.lane && (look t.arrived k).isSome then Thread.trap s w.regs t cILLOP t.pc else t) = t ∧ s.cur.lanes.elem t.lane = true := by
      intro t ht hg
      rw [hgood t ht, hcur1, Bool.and_eq_true, Bool.not_eq_true'] at hg
      exact ⟨if_neg (by rw [hg.2]; simp), hg.1⟩
    have hlane1 : ∀ t : Thread, (if s.cur.lanes.elem t.lane && (look t.arrived k).isSome then Thread.trap s w.regs t cILLOP t.pc else t).lane = t.lane := by
      intro t
      split
      · exact Thread.trap_lane ..
      · rfl
    generalize hx : ({ s2 with cur := { s2.cur with lanes := good } } : State) = x
    have hxw : x.curWave = some v := by rw [← hx]; exact hv.wave
    have hxl : x.cur.lanes = good := by rw [← hx]
    have hxg : SameGroups s2 x := by rw [← hx]; exact ⟨⟨fun _ => rfl⟩, rfl, rfl, rfl, rfl, rfl, fun _ => rfl⟩
    have hclear : Clear x v := by
      refine ⟨fun y hy hl => ?_, ?_, hv.lining⟩
      · rw [hlanesv] at hy
        obtain ⟨t, ht, rfl⟩ := List.mem_map.mp hy
        rw [hlane1, hxl] at hl
        obtain ⟨hst, hin⟩ := hstays t ht (List.elem_eq_true_of_mem hl)
        rw [hst, ← hx, show ({ s2 with cur := { s2.cur with lanes := good } } : State).cur.pc = s2.cur.pc from rfl, hv.cur, hcur1]
        exact hc.lanes t ht (List.mem_of_elem_eq_true hin)
      · rw [hlanesv]
        refine List.pairwise_map.mpr (hc.sorted.imp (fun {a b} hlt => ?_))
        rw [hlane1, hlane1]
        exact hlt
    obtain ⟨u0, hu0⟩ : ∃ u0, x.OnPath v u0 := by
      obtain ⟨n, hn⟩ := List.exists_mem_of_ne_nil good (fun e => by rw [e] at hge; exact Bool.noConfusion hge)
      obtain ⟨t, ht, rfl⟩ : ∃ t ∈ w.lanes, t.lane = n := by
        rw [← hgl, State.curLanes, hw1] at hn
        obtain ⟨t, ht, hlane⟩ := List.mem_map.mp hn
        exact ⟨t, (List.mem_filter.mp ht).1, hlane⟩
      refine ⟨t, hxw, ?_, hxl ▸ hn⟩
      rw [Wave.lane?_of_map hlanesv hlane1, Wave.lane?_of_sorted hc.sorted ht, Option.map_some, (hstays t ht (List.elem_eq_true_of_mem hn)).1]
    have hpub := State.afterPublish_clear hu0 hclear hsc (fun v => v.arrive w k wait tack)
    generalize hp : (x.readied v).publish x.cur.core (x.gangId v.blk) ((s.waveRec w).scopeOf k) (x.recOf v.blk).hasGang = pub at hpub
    have hpubw : SamePath (x.readied v) pub := by rw [← hp]; exact (OnlyMemory.publish ..).path
    have hpubg : SameGroups x pub := by
      have hr : SameGroups x (x.readied v) := ⟨⟨fun _ => rfl⟩, rfl, rfl, rfl, rfl, rfl, fun _ => rfl⟩
      rw [← hp]
      exact hr.trans (SameGroups.publish ..)
    have hcw : pub.curWave = some v.settleOld := ((State.readied_onPath hu0).of_same hpubw.waves hpubw.cur).wave
    have hpl : pub.cur.lanes = v.among good := by
      rw [hpubw.cur, ← hxl]
      rfl
    obtain ⟨u, hu, harrive⟩ := State.arrive_acted hcw hv.lining (by rw [hpl]; exact Wave.among_nodup hclear.sorted good) w k wait tack
    rw [hpubg.phaseOf, hxg.phaseOf, hv.groups.phaseOf, hflush.phaseOf] at hu
    obtain ⟨f', hf', rfl, _, hl'⟩ := hu.state
    have hxc : x.cur.core = s.cur.core ∧ x.cur.slot = s.cur.slot ∧ x.cur.len = s.cur.len := by
      rw [← hx, show ({ s2 with cur := { s2.cur with lanes := good } } : State).cur = { s2.cur with lanes := good } from rfl, hv.cur, hcur1]
      exact ⟨rfl, rfl, rfl⟩
    have hpc : pub.cur.core = s.cur.core ∧ pub.cur.slot = s.cur.slot ∧ pub.cur.len = s.cur.len := by rw [hpubw.cur]; exact hxc
    have hwave : pub.wave? w.core w.slot = some v.settleOld := by
      rw [hcore, hslot, ← hpc.1, ← hpc.2.1]
      exact hcw
    refine ⟨_, { pub with waves := pub.waves.map f' }, rfl, ⟨⟨fun z => f' (if (f z).isAt x.cur.core x.cur.slot then (f z).settleOld else f z), f' v.settleOld, ?_, ?_, ?_, ?_, ?_⟩, ?_, hpc.1⟩, .inr ⟨s2.cur, ?_⟩⟩
    · exact (hf.comp (keepsPlace_settleOld.at x.cur.core x.cur.slot)).comp hf'
    · have e1 : (x.readied v).waves = x.waves.map (fun z => if z.isAt x.cur.core x.cur.slot then z.settleOld else z) := rfl
      have e2 : x.waves = s.waves.map f := by rw [← hx, ← hwaves1]; exact hfw
      rw [show ({ pub with waves := pub.waves.map f' } : State).waves = pub.waves.map f' from rfl, hpubw.waves, e1, e2, List.map_map, List.map_map]
      rfl
    · have hatv : (f w).isAt x.cur.core x.cur.slot = true := by
        rw [← hvf]
        exact List.find?_some (p := fun v : Wave => v.isAt x.cur.core x.cur.slot) hxw
      dsimp only
      rw [if_pos hatv, hvf]
    · exact (State.wave?_map (s := pub) (f := f') (fun z => ⟨hf'.core z, hf'.slot z⟩) w.core w.slot).trans (congrArg (Option.map f') hwave)
    · rw [hl', show v.settleOld.lanes = v.lanes from rfl, hlanesv, List.map_map]
      refine List.map_congr_left (fun t ht => ?_)
      have hmem : (if s.cur.lanes.elem t.lane && (look t.arrived k).isSome then Thread.trap s w.regs t cILLOP t.pc else t) ∈ v.lanes := by
        rw [hlanesv]
        exact List.mem_map_of_mem (f := fun u : Thread => if s.cur.lanes.elem u.lane && (look u.arrived k).isSome then Thread.trap s w.regs u cILLOP u.pc else u) ht
      have hin : pub.cur.lanes.reverse.elem t.lane = good.elem t.lane := by
        rw [hpl, ← hlane1 t, ← Wave.among_elem hmem good, List.elem_eq_contains, List.elem_eq_contains, List.contains_reverse]
      simp only [Function.comp]
      rw [hlane1, hin, hpc.2.2, hgood t ht, hcur1]
      unfold State.arriveLane
      cases s.cur.lanes.elem t.lane with
      | false => rfl
      | true =>
        cases (look t.arrived k).isSome with
        | false => rfl
        | true => rfl
    · have hz : SameGroups pub { pub with waves := pub.waves.map f' } := ⟨⟨fun _ => rfl⟩, rfl, rfl, rfl, rfl, rfl, fun _ => rfl⟩
      exact (((hflush.trans hv.groups).trans hxg).trans hpubg).trans hz
    · rw [State.within, hx, hpub, harrive]
      rfl
end

section
variable {s u : State} {w : Wave} {k : Nat} {wait tack : Bool} (ha : Arrived s w k wait tack u) {th : Thread} (hth : w.lane? th.lane = some th)
include ha hth

theorem Arrived.lane : u.lane? w.core w.slot th.lane = some (s.arriveLane w k wait tack th) := by
  obtain ⟨f, y, _, _, _, hy, hl⟩ := ha.map
  rw [State.lane?, hy, Option.bind_some, Wave.lane?_of_map hl (State.arriveLane_lane s w k wait tack), hth]
  rfl

/-- A lane of the wave once the phase has been looked at. -/
theorem Arrived.checked (hcore : w.core = s.cur.core) :
    (u.barCheck k w).lane? w.core w.slot th.lane = some (s.barLane w k (u.barMet k w) (s.arriveLane w k wait tack th)) := by
  obtain ⟨f, y, hf, _, rfl, hy, hl⟩ := ha.map
  have hg : u.sameGroup k w (f w) = true := (State.sameGroup_place (hf.blk w) (hf.wlin w)).trans (State.sameGroup_self ..)
  obtain ⟨y', hy', hl'⟩ := State.barCheck_wave (k := k) hy hg
  have hlanes : y'.lanes = w.lanes.map (fun t => s.barLane w k (u.barMet k w) (s.arriveLane w k wait tack t)) := by
    rw [hl', hl, List.map_map]
    refine List.map_congr_left (fun t _ => ?_)
    simp only [Function.comp]
    unfold State.barLane
    rw [ha.groups.phaseOf, ha.groups.waveRec]
    exact if_congr Iff.rfl (Thread.passBarrier_congr (by rw [ha.core]; exact ha.groups.clock _) ha.groups.free ..) rfl
  rw [State.lane?, hy', Option.bind_some, Wave.lane?_of_map hlanes (fun t => (State.barLane_lane ..).trans (State.arriveLane_lane ..)), hth]
  rfl
end

/-- A thread that waits at no barrier is let go by none. -/
theorem State.barLane_same {s : State} {w : Wave} {k : Nat} {t : Thread} (h : ∀ j c, t.wait ≠ .barrier j c) (pass : Bool) : s.barLane w k pass t = t := by
  unfold State.barLane
  split
  · unfold Thread.passBarrier
    split
    next j c he => exact absurd he (h j c)
    next => rfl
  · rfl

theorem Thread.trap_noBarrier {s : State} {r : WaveRegs} {t : Thread} (h : t.wait = .no) (c : Word) (e : Dword) :
    ∀ j b, (Thread.trap s r t c e).wait ≠ .barrier j b := by
  intro j b he
  rcases Thread.trap_wait s r t c e with ⟨x, hx⟩ | hx | hx
  · rw [he] at hx
    exact nomatch hx
  · rw [he] at hx
    exact nomatch hx
  · rw [he, h] at hx
    exact nomatch hx

theorem Thread.after_noBarrier {t : Thread} (h : t.wait = .no) (len : Nat) (tack : Bool) : ∀ j b, (t.after len tack).wait ≠ .barrier j b := by
  intro j b he
  unfold Thread.after at he
  dsimp only at he
  split at he
  · exact nomatch he
  · rw [h] at he
    exact nomatch he

/-- A live lane off the path without a record keeps the phase from completing. -/
theorem Arrived.unmet {s u : State} {w : Wave} {k : Nat} {wait tack : Bool} (ha : Arrived s w k wait tack u) (hcore : w.core = s.cur.core) {x : Thread}
    (hx : x ∈ w.lanes) (hlive : x.live = true) (hoff : x.lane ∉ s.cur.lanes) (hnone : look x.arrived k = none) : u.barMet k w = false := by
  obtain ⟨f, y, hf, _, rfl, hy, hl⟩ := ha.map
  have hg : u.sameGroup k w (f w) = true := (State.sameGroup_place (hf.blk w) (hf.wlin w)).trans (State.sameGroup_self ..)
  have hstays : s.arriveLane w k wait tack x = x := if_neg (by simpa using hoff)
  have hmem : x ∈ (f w).lanes := by
    rw [hl]
    exact List.mem_map.mpr ⟨x, hx, hstays⟩
  have hin : f w ∈ u.groupWaves k w := List.mem_append_left _ (List.mem_filter.mpr ⟨List.mem_of_find?_eq_some hy, hg⟩)
  unfold State.barMet
  refine Bool.and_eq_false_iff.mpr (.inl (Bool.eq_false_iff.mpr (fun hall => ?_)))
  have h1 := List.all_eq_true.mp (List.all_eq_true.mp hall _ hin) x hmem
  dsimp only at h1
  rw [hlive, hnone] at h1
  exact Bool.noConfusion h1

/-- With every live lane of the path's wave, the only one of its group, the phase completes. -/
theorem Arrived.met {s u : State} {w : Wave} {k : Nat} {wait tack : Bool} (ha : Arrived s w k wait tack u) (himg : s.images = [])
    (hone : s.waves.filter (s.sameGroup k w) = [w]) {th : Thread} (hth : th ∈ w.lanes) (hlive : th.live = true)
    (hall : ∀ x ∈ w.lanes, x.live = true → x.lane ∈ s.cur.lanes ∧ look x.arrived k = none) : u.barMet k w = true := by
  obtain ⟨f, y, hf, hfw, rfl, hy, hl⟩ := ha.map
  have hgroup : u.groupWaves k w = [f w] := by
    have e : (fun v => u.sameGroup k w (f v)) = s.sameGroup k w := funext (fun v =>
      (State.sameGroup_place (hf.blk v) (hf.wlin v)).trans (ha.groups.sameGroup k w v))
    rw [State.groupWaves, hfw, List.filter_map, show (u.sameGroup k w ∘ f) = _ from e, hone, State.savedWaves, ha.groups.images, himg]
    rfl
  have harr : ∀ x ∈ w.lanes, x.live = true → look (s.arriveLane w k wait tack x).arrived k = some (s.phaseOf k w) := by
    intro x hx hxl
    obtain ⟨hin, hno⟩ := hall x hx hxl
    unfold State.arriveLane
    rw [if_pos (by simpa using hin), hno, if_neg (by decide)]
    unfold Thread.arrival
    split <;> exact look_insertAt_same ..
  have hlives : ∀ x, (s.arriveLane w k wait tack x).live = x.live := by
    intro x
    unfold State.arriveLane
    split
    · split
      · exact Thread.trap_live ..
      · unfold Thread.arrival
        split <;> rfl
    · rfl
  unfold State.barMet State.allLive
  rw [hgroup, ha.groups.phaseOf]
  simp only [List.all_cons, List.all_nil, List.any_cons, List.any_nil, Bool.and_true, Bool.or_false, hl, List.all_map, List.any_map, Bool.and_eq_true]
  refine ⟨List.all_eq_true.mpr (fun x hx => ?_), List.any_eq_true.mpr ⟨th, hth, ?_⟩⟩
  · simp only [Function.comp, hlives]
    cases hxl : x.live with
    | false => rfl
    | true => simp [harr x hx hxl]
  · simp only [Function.comp, hlives, hlive, harr th hth hlive, Bool.true_and]
    simp

/-- The access of a refresh that a phase leaves due. -/
def State.refreshAt (s : State) (w : Wave) (k : Nat) (th : Thread) : Access :=
  { issuedAt s th (.refresh ((s.waveRec w).scopeOf k)) (.phys 0) 0 with issued := s.clockOf w.core }

section
variable {s : State} {w : Wave} {th : Thread} (h : s.OnPath w th) (hc : Clear s w) (l : BitVec 3) (wait tack : Bool) (hbad : s.levelBad w (s.levelOf w l) = false)
  (hsc : (s.waveRec w).scopeOf (s.levelOf w l) ≠ 5)
include h hc hbad hsc

/-- An arrival at a barrier: what the lane is once the phase has been looked at, `pass` saying whether it was complete. -/
theorem arriveAt_lane : ∃ s' u pass, arriveAt l wait tack s = .next s' ∧
    s'.lane? w.core w.slot th.lane = some (s.barLane w (s.levelOf w l) pass (s.arriveLane w (s.levelOf w l) wait tack th)) ∧
    (look th.arrived (s.levelOf w l) = none → Arrived s w (s.levelOf w l) wait tack u ∧ pass = u.barMet (s.levelOf w l) w ∧
      ∃ c, s' = { u.barCheck (s.levelOf w l) w with cur := c }) := by
  obtain ⟨hcore, _⟩ := State.wave?_isAt (s := s) h.wave
  obtain ⟨s', u, hs', ha, hcase⟩ := arriveAt_arrived h hc l wait tack hbad hsc
  have hmem := Wave.mem_of_lane? h.lane
  rcases hcase with ⟨hall, rfl⟩ | ⟨c, rfl⟩
  · refine ⟨s', s', false, hs', ha.lane h.lane, fun hnone => ?_⟩
    have e := hall th hmem (by simpa using h.path)
    rw [hnone] at e
    exact Bool.noConfusion e
  · exact ⟨_, u, _, hs', ha.checked h.lane hcore, fun _ => ⟨ha, rfl, c, rfl⟩⟩

omit hbad hsc in
/-- A second arrival raises ILLOP. -/
theorem arriveAt_again {s' : State} {pass : Bool}
    (hl : s'.lane? w.core w.slot th.lane = some (s.barLane w (s.levelOf w l) pass (s.arriveLane w (s.levelOf w l) wait tack th)))
    (hsome : look th.arrived (s.levelOf w l) ≠ none) : s'.lane? w.core w.slot th.lane = some (Thread.trap s w.regs th cILLOP th.pc) := by
  obtain ⟨r, hr⟩ := Option.ne_none_iff_exists'.mp hsome
  have e : s.arriveLane w (s.levelOf w l) wait tack th = Thread.trap s w.regs th cILLOP th.pc := by
    unfold State.arriveLane
    rw [if_pos (by simpa using h.path), hr]
    rfl
  rw [hl, e, State.barLane_same (Thread.trap_noBarrier (hc.lanes th (Wave.mem_of_lane? h.lane) h.path).2.1 _ _)]

omit hc hbad hsc in
theorem State.arriveLane_first (hnone : look th.arrived (s.levelOf w l) = none) :
    s.arriveLane w (s.levelOf w l) wait tack th = th.arrival (s.levelOf w l) (s.phaseOf (s.levelOf w l) w) s.cur.len wait tack := by
  unfold State.arriveLane
  rw [if_pos (by simpa using h.path), hnone]
  rfl

theorem bararr_arrives : ∃ s', exec (.bararr l tack) s = .next s' ∧
    (look th.arrived (s.levelOf w l) ≠ none → s'.lane? w.core w.slot th.lane = some (Thread.trap s w.regs th cILLOP th.pc)) ∧
    (look th.arrived (s.levelOf w l) = none → s'.lane? w.core w.slot th.lane =
      some ({ th with arrived := insertAt th.arrived (s.levelOf w l) (s.phaseOf (s.levelOf w l) w) }.after s.cur.len tack)) := by
  obtain ⟨s', u, pass, hs', hl, _⟩ := arriveAt_lane h hc l false tack hbad hsc
  refine ⟨s', hs', arriveAt_again h hc l false tack hl, fun hnone => ?_⟩
  have hw := (hc.lanes th (Wave.mem_of_lane? h.lane) h.path).2.1
  rw [State.arriveLane_first h l false tack hnone, show th.arrival (s.levelOf w l) (s.phaseOf (s.levelOf w l) w) s.cur.len false tack = Thread.after _ _ _ from rfl,
    State.barLane_same (Thread.after_noBarrier (by exact hw) _ _)] at hl
  exact hl

omit hbad hsc in
/-- A thread whose phase completes. -/
theorem Thread.passBarrier_passes (k p : Nat) (hcore : w.core = s.cur.core) :
    Thread.passBarrier s { th with arrived := insertAt th.arrived k p, wait := .barrier k tack } k (p + 1) ((s.waveRec w).scopeOf k) =
      { th with arrived := eraseAt (insertAt th.arrived k p) k, acc := [s.refreshAt w k th] }.after 4 tack := by
  obtain ⟨hacc, hwait, _⟩ := hc.lanes th (Wave.mem_of_lane? h.lane) h.path
  unfold Thread.passBarrier
  dsimp only
  rw [look_insertAt_same, if_pos (by simp)]
  simp only [Thread.issue, hacc, List.nil_append]
  rw [← hcore, Thread.advance_tackIf, show mayThrow (.refresh ((s.waveRec w).scopeOf k)) (.phys 0) = false from rfl, if_neg (by decide)]
  rw [State.refreshAt, issuedAt, show mayThrow (.refresh ((s.waveRec w).scopeOf k)) (.phys 0) = false from rfl, if_neg (by decide), hwait]

theorem bar_arrives : ∃ s', exec (.bar l tack) s = .next s' ∧
    (look th.arrived (s.levelOf w l) ≠ none → s'.lane? w.core w.slot th.lane = some (Thread.trap s w.regs th cILLOP th.pc)) ∧
    (look th.arrived (s.levelOf w l) = none → (∃ u ∈ w.lanes, u.live = true ∧ u.lane ∉ s.cur.lanes ∧ look u.arrived (s.levelOf w l) = none) →
      s'.lane? w.core w.slot th.lane = some { th with
        arrived := insertAt th.arrived (s.levelOf w l) (s.phaseOf (s.levelOf w l) w), wait := .barrier (s.levelOf w l) tack }) ∧
    (s.images = [] → s.waves.filter (s.sameGroup (s.levelOf w l) w) = [w] → s.space? w ≠ none → th.live = true →
      (∀ u ∈ w.lanes, u.live = true → u.lane ∈ s.cur.lanes ∧ look u.arrived (s.levelOf w l) = none) →
      s'.phaseOf (s.levelOf w l) w = s.phaseOf (s.levelOf w l) w + 1 ∧ s'.lane? w.core w.slot th.lane =
        some ({ th with
          arrived := eraseAt (insertAt th.arrived (s.levelOf w l) (s.phaseOf (s.levelOf w l) w)) (s.levelOf w l),
          acc := [s.refreshAt w (s.levelOf w l) th] }.after 4 tack)) := by
  obtain ⟨hcore, _⟩ := State.wave?_isAt (s := s) h.wave
  obtain ⟨s', u, pass, hs', hl, hfirst⟩ := arriveAt_lane h hc l true tack hbad hsc
  have hmem := Wave.mem_of_lane? h.lane
  refine ⟨s', hs', arriveAt_again h hc l true tack hl, fun hnone ⟨x, hx, hlive, hoff, hno⟩ => ?_, fun himg hone hsp hlive hall => ?_⟩
  · obtain ⟨ha, rfl, _⟩ := hfirst hnone
    rw [State.arriveLane_first h l true tack hnone, ha.unmet hcore hx hlive hoff hno] at hl
    exact hl
  · have hnone := (hall th hmem hlive).2
    obtain ⟨ha, rfl, c, rfl⟩ := hfirst hnone
    have hmet := ha.met himg hone hmem hlive hall
    refine ⟨?_, ?_⟩
    · have hsp' : u.space? w ≠ none := by rw [ha.groups.space?]; exact hsp
      exact (State.barCheck_phase hmet hsp').trans (by rw [ha.groups.phaseOf])
    · rw [State.arriveLane_first h l true tack hnone, hmet] at hl
      exact hl.trans (congrArg some (Thread.passBarrier_passes h hc tack _ _ hcore))
end

/-! ## BARWAIT -/

/-- What a lane does at a BARWAIT. -/
def State.barwaitOut (s : State) (w : Wave) (k : Nat) (tack : Bool) (th : Thread) : Out :=
  match look th.arrived k with
  | none => .next th
  | some r =>
    if r < s.phaseOf k w then .next (({ th with arrived := eraseAt th.arrived k }).issue s (.refresh ((s.waveRec w).scopeOf k)) (.phys 0) 0)
    else .hold th (.barrier k tack)

theorem State.barwaitOut_lane (s : State) (w : Wave) (k : Nat) (tack : Bool) (t : Thread) : (s.barwaitOut w k tack t).thread.lane = t.lane := by
  unfold State.barwaitOut
  split
  · rfl
  · split <;> rfl
theorem State.barwaitOut_raises (s : State) (w : Wave) (k : Nat) (tack : Bool) (t : Thread) : (s.barwaitOut w k tack t).raises = false := by
  unfold State.barwaitOut
  split
  · rfl
  · split <;> rfl

section
variable {s : State} {w : Wave} {th : Thread} (h : s.OnPath w th) (hc : Clear s w) (l : BitVec 3) (tack : Bool) (hbad : s.levelBad w (s.levelOf w l) = false)
include h hc hbad

omit hc in
theorem barwait_lane : ∃ s', exec (.barwait l tack) s = .next s' ∧
    s'.lane? w.core w.slot th.lane = some ((s.barwaitOut w (s.levelOf w l) tack th).apply s w.regs s.cur.len tack) := by
  have hx : exec (.barwait l tack) s = execBarwait l tack s := rfl
  have h1 : (s.flushFor w.core w.blk).OnPath w th := ⟨h.wave, h.lane, h.path⟩
  rw [hx, execBarwait, h.wave]
  dsimp only
  rw [hbad, if_neg (by decide)]
  refine ⟨_, rfl, ?_⟩
  have e := State.perLane_lane h1 tack (fun _ => s.barwaitOut w (s.levelOf w l) tack) (fun _ t => s.barwaitOut_lane ..)
  exact e.trans (congrArg some (Out.apply_of_quiet (s.barwaitOut_raises ..) ..))

theorem barwait_waits : ∃ s', exec (.barwait l tack) s = .next s' ∧
    (look th.arrived (s.levelOf w l) = none → s'.lane? w.core w.slot th.lane = some (th.after s.cur.len tack)) ∧
    (∀ r, look th.arrived (s.levelOf w l) = some r → s.phaseOf (s.levelOf w l) w ≤ r →
      s'.lane? w.core w.slot th.lane = some { th with wait := .barrier (s.levelOf w l) tack }) ∧
    (∀ r, look th.arrived (s.levelOf w l) = some r → r < s.phaseOf (s.levelOf w l) w →
      s'.lane? w.core w.slot th.lane = some ({ th with
        arrived := eraseAt th.arrived (s.levelOf w l), acc := [s.refreshAt w (s.levelOf w l) th] }.after s.cur.len tack)) := by
  obtain ⟨s', hs', hl⟩ := barwait_lane h l tack hbad
  obtain ⟨hcore, _⟩ := State.wave?_isAt (s := s) h.wave
  refine ⟨s', hs', fun hnone => ?_, fun r hr hle => ?_, fun r hr hlt => ?_⟩
  · rw [hl, State.barwaitOut, hnone, Out.apply_next]
  · rw [hl, State.barwaitOut, hr]
    dsimp only
    rw [if_neg (Nat.not_lt.mpr hle)]
    rfl
  · rw [hl, State.barwaitOut, hr]
    dsimp only
    rw [if_pos hlt, Out.apply_next]
    simp only [Thread.issue, (hc.lanes th (Wave.mem_of_lane? h.lane) h.path).1, List.nil_append]
    rw [show mayThrow (.refresh ((s.waveRec w).scopeOf (s.levelOf w l))) (.phys 0) = false from rfl, if_neg (by decide), ← hcore]
    rfl
end

/-! ## Byte-barrier objects -/

section
variable {s : State} {b : Nat} {k : Block} (hk : s.block? b = some k)
include hk

theorem State.padByte_padWrite (hcan : canonical (0 : Byte) k.pad = true) (off : Nat) (bs : List Byte) {i : Nat} (hi : i < bs.length) :
    (s.padWrite b off bs).padByte b (off + i) = bs.getD i 0 := by
  rw [State.padByte, State.padWrite_block, hk, Option.map_some, if_pos rfl]
  exact getD_putBytes bs k.pad off hcan i hi

/-- Bytes of a scratchpad that was written, read back. -/
theorem State.padBytes_padWrite (hcan : canonical (0 : Byte) k.pad = true) (off : Nat) (pre mid post : List Byte) :
    (s.padWrite b off (pre ++ mid ++ post)).padBytes b (off + pre.length) mid.length = mid := by
  rw [State.padBytes]
  refine List.ext_getElem (by simp) (fun i h1 h2 => ?_)
  rw [List.getElem_map, List.getElem_range, Nat.add_assoc, State.padByte_padWrite hk hcan off _ (by simp; omega), List.getD_eq_getElem?_getD,
    List.append_assoc, List.getElem?_append_right (by omega), Nat.add_sub_cancel_left, List.getElem?_append_left h2, List.getElem?_eq_getElem h2]
  rfl
end

theorem State.padByte_beside (s : State) (b off : Nat) (bs : List Byte) {j x : Nat} (h : j ≠ b ∨ x < off ∨ off + bs.length ≤ x) :
    (s.padWrite b off bs).padByte j x = s.padByte j x := by
  rw [State.padByte, State.padByte, State.padWrite_block]
  cases s.block? j with
  | none => rfl
  | some k =>
    rw [Option.map_some]
    dsimp only
    split
    next hj => exact getD_putBytes_beside bs k.pad off x (h.resolve_left (fun hne => hne hj))
    next => rfl

theorem leNat_leBytes_word (v : Word) : BitVec.ofNat 32 (leNat (leBytes 4 v.toNat)) = v := by
  rw [leNat_leBytes, Nat.mod_eq_of_lt v.isLt, BitVec.ofNat_toNat, BitVec.setWidth_eq]

/-- What a byte barrier reads as once it has been set, with whatever bytes follow it. -/
theorem State.padWrite_barrier {s : State} {b off : Nat} {k : Block} (hk : s.block? b = some k) (hcan : canonical (0 : Byte) k.pad = true) (count zeros : Word) (post : List Byte) :
    (s.padWrite b off (leBytes 4 count.toNat ++ leBytes 4 zeros.toNat ++ post)).barrierCount (.pad b off) = count ∧
    (s.padWrite b off (leBytes 4 count.toNat ++ leBytes 4 zeros.toNat ++ post)).barrierZeros (.pad b off) = zeros := by
  have h1 := State.padBytes_padWrite hk hcan off [] (leBytes 4 count.toNat) (leBytes 4 zeros.toNat ++ post)
  have h2 := State.padBytes_padWrite hk hcan off (leBytes 4 count.toNat) (leBytes 4 zeros.toNat) post
  rw [List.nil_append, ← List.append_assoc, leBytes_length] at h1
  rw [leBytes_length, leBytes_length] at h2
  constructor
  · exact (congrArg (fun bs => BitVec.ofNat 32 (leNat bs)) h1).trans (leNat_leBytes_word count)
  · exact (congrArg (fun bs => BitVec.ofNat 32 (leNat bs)) h2).trans (leNat_leBytes_word zeros)

/-- The scratchpads of blocks are the same. -/
theorem State.padByte_congr {s u : State} (h : u.blocks = s.blocks) (j x : Nat) : u.padByte j x = s.padByte j x := by
  rw [State.padByte, State.padByte, State.block?, State.block?, h]
theorem State.barrier_congr {s u : State} (h : u.blocks = s.blocks) (pl : Place) : u.barrierCount pl = s.barrierCount pl ∧ u.barrierZeros pl = s.barrierZeros pl := by
  cases pl with
  | phys _ => exact ⟨rfl, rfl⟩
  | pad b off => simp only [State.barrierCount, State.barrierZeros, State.padBytes, State.padByte_congr h, and_self]

section
variable {s : State} {w : Wave} {th : Thread} (h : s.OnPath w th) (hone : s.cur.lanes = [th.lane]) (a : Reg) (t : Bool) (f : State → Nat → Thread → Place → State)
include h hone

/-- A byte-barrier instruction of one lane that a check of R207 fails. -/
theorem State.bobj_faults (hbad : (th.g? s a.toNat).toNat % 16 ≠ 0 ∨ s.padRange w.blk (th.g? s a.toNat).toNat 16 = false) :
    s.bobj a.toNat t f = (s.trapAll cFAULT).backTo s := by
  have hno : ¬ ((th.g? s a.toNat).toNat % 16 = 0 ∧ s.padRange w.blk (th.g? s a.toNat).toNat 16 = true) := by
    rintro ⟨h1, h2⟩
    exact hbad.elim (fun e => e h1) (fun e => by rw [h2] at e; exact Bool.noConfusion e)
  rw [State.bobj, hone, List.foldl_cons, List.foldl_nil, h.wave]
  dsimp only
  rw [h.lane]
  dsimp only
  rw [if_neg hno]
  exact State.within_one hone _

/-- One that they pass. -/
theorem State.bobj_acts (hf : w.fresh) {b off : Nat} (hal : (th.g? s a.toNat).toNat % 16 = 0) (hr : s.padRange w.blk (th.g? s a.toNat).toNat 16 = true)
    (hp : s.padAt w.blk (th.g? s a.toNat).toNat = some (b, off)) : s.bobj a.toNat t f = f s th.lane th (.pad b off) := by
  rw [State.bobj, hone, List.foldl_cons, List.foldl_nil, h.wave]
  dsimp only
  rw [h.lane]
  dsimp only
  rw [if_pos ⟨hal, hr⟩, hp]
  exact State.onceLane_fresh h.wave hf ..

omit h hone in
theorem State.laneDone_lane {u : State} (hu : u.OnPath w th) : (u.laneDone th.lane t).lane? w.core w.slot th.lane = some (th.after u.cur.len t) :=
  State.effectOut_completes hu t 0 (o := fun y => .next y) rfl (fun _ => rfl)

omit h hone in
theorem State.laneDone_blocks {u : State} (hu : u.OnPath w th) (l : Nat) : (u.laneDone l t).blocks = u.blocks := by
  obtain ⟨ws, e⟩ := State.effectOut_onlyWaves hu l t 0 (o := fun y => .next y) (fun _ => rfl)
  exact (congrArg State.blocks e :)

omit hone in
/-- A scratchpad written and the lane completed. -/
theorem State.padWrite_onPath (b off : Nat) (bs : List Byte) : (s.padWrite b off bs).OnPath w th ∧ (s.padWrite b off bs).cur = s.cur := by
  have e := State.padWrite_rest b bs s off
  have hw : (s.padWrite b off bs).waves = s.waves := (congrArg State.waves e :)
  have hc : (s.padWrite b off bs).cur = s.cur := (congrArg State.cur e :)
  exact ⟨h.of_same hw hc, hc⟩
end

section
variable {s : State} {w : Wave} {th : Thread} (h : s.OnPath w th) (hone : s.cur.lanes = [th.lane]) (hf : w.fresh) (d a : Reg) (t : Bool)
  (hr : s.regsOk [d.toNat, a.toNat])
include hr

theorem regsOk_second : s.regsOk [a.toNat] := fun r hin => hr r (List.mem_cons_of_mem _ hin)

theorem exec_bobjinit_eq : ∃ f : State → Nat → Thread → Place → State, exec (.bobjinit d a t) s = .next (s.bobj a.toNat t f) ∧
    ∀ u l th b off, f u l th (.pad b off) = (u.padWrite b off (leBytes 4 (th.g? s d.toNat).toNat ++ leBytes 12 0)).laneDone l t :=
  ⟨_, congrArg Host.Outcome.next (State.withRegs_ok hr _), fun _ _ _ _ _ => rfl⟩
theorem exec_bobjexp_eq : ∃ f : State → Nat → Thread → Place → State, exec (.bobjexp d a t) s = .next (s.bobj a.toNat t f) ∧
    ∀ u l th pl, f u l th pl = (u.setBarrier pl (u.barrierCount pl + th.g? s d.toNat)
      (if u.barrierCount pl ≠ 0 ∧ u.barrierCount pl + th.g? s d.toNat = 0 then u.barrierZeros pl + 1 else u.barrierZeros pl)).laneDone l t :=
  ⟨_, congrArg Host.Outcome.next (State.withRegs_ok hr _), fun _ _ _ _ => rfl⟩
theorem exec_bobjwait_eq : ∃ f : State → Nat → Thread → Place → State, exec (.bobjwait a t) s = .next (s.bobj a.toNat t f) ∧
    ∀ u l th pl, f u l th pl = (match u.waitAborted pl with
      | some cls => u.within [l] (fun v => v.perLane false (fun _ x => .throw x cls 0))
      | none => if u.barrierCount pl = 0 then u.laneDone l t else u.within [l] (fun v => v.holdAll (.bobj pl))) :=
  ⟨_, congrArg Host.Outcome.next (State.withRegs_ok (regsOk_second d a hr) _), fun _ _ _ _ => rfl⟩

include h hone

theorem bobj_faults (i : Instr) (hi : i ∈ [Instr.bobjinit d a t, Instr.bobjexp d a t, Instr.bobjwait a t])
    (hbad : (th.g? s a.toNat).toNat % 16 ≠ 0 ∨ s.padRange w.blk (th.g? s a.toNat).toNat 16 = false) :
    ∃ s', exec i s = .next s' ∧ s'.lane? w.core w.slot th.lane = some (Thread.trap s w.regs th cFAULT th.pc) ∧ s'.blocks = s.blocks := by
  have key : ∀ f, exec i s = .next (s.bobj a.toNat t f) →
      ∃ s', exec i s = .next s' ∧ s'.lane? w.core w.slot th.lane = some (Thread.trap s w.regs th cFAULT th.pc) ∧ s'.blocks = s.blocks := by
    intro f hx
    rw [State.bobj_faults h hone a t f hbad] at hx
    exact ⟨_, hx, State.trapAll_traps h cFAULT, State.perLane_blocks ..⟩
  simp only [List.mem_cons, List.not_mem_nil, or_false] at hi
  rcases hi with rfl | rfl | rfl
  · exact key _ (exec_bobjinit_eq d a t hr).choose_spec.1
  · exact key _ (exec_bobjexp_eq d a t hr).choose_spec.1
  · exact key _ (exec_bobjwait_eq d a t hr).choose_spec.1

include hf
variable {b off : Nat} {k : Block} (hal : (th.g? s a.toNat).toNat % 16 = 0) (hrange : s.padRange w.blk (th.g? s a.toNat).toNat 16 = true)
  (hp : s.padAt w.blk (th.g? s a.toNat).toNat = some (b, off))
include hal hrange hp

theorem bobjwait_waits : ∃ s', exec (.bobjwait a t) s = .next s' ∧ s'.blocks = s.blocks ∧
    (∀ c, s.waitAborted (.pad b off) = some c → s'.lane? w.core w.slot th.lane = some { th with wait := .thrown ⟨c, 0, th.pc, s.cycles, s.free⟩ }) ∧
    (s.waitAborted (.pad b off) = none → s'.lane? w.core w.slot th.lane =
      some (if s.barrierCount (.pad b off) = 0 then th.after s.cur.len t else { th with wait := .bobj (.pad b off) })) := by
  obtain ⟨f, hx, hfn⟩ := exec_bobjwait_eq d a t hr
  rw [State.bobj_acts h hone a t f hf hal hrange hp, hfn] at hx
  cases hab : s.waitAborted (.pad b off) with
  | some c =>
    rw [hab] at hx
    dsimp only at hx
    rw [State.within_one hone] at hx
    refine ⟨_, hx, State.perLane_blocks .., fun c' hc => ?_, nofun⟩
    obtain rfl := Option.some.inj hc
    exact State.perLane_lane h false (fun _ x => .throw x c 0) (fun _ _ => rfl)
  | none =>
    rw [hab] at hx
    dsimp only at hx
    split at hx
    next hz =>
      exact ⟨_, hx, State.laneDone_blocks t h _, nofun, fun _ => by rw [if_pos hz]; exact State.laneDone_lane t h⟩
    next hz =>
      rw [State.within_one hone] at hx
      exact ⟨_, hx, State.perLane_blocks .., nofun, fun _ => by rw [if_neg hz]; exact State.holdAll_waits h _⟩

variable (hk : s.block? b = some k) (hcan : canonical (0 : Byte) k.pad = true)
include hk hcan

omit hr hone hf hal hrange hp in
/-- A byte-barrier object written, and the lane completed. -/
theorem State.barrierWritten (count zeros : Word) (post : List Byte) (u : State) (hu : u = s.padWrite b off (leBytes 4 count.toNat ++ leBytes 4 zeros.toNat ++ post)) :
    (u.laneDone th.lane t).lane? w.core w.slot th.lane = some (th.after s.cur.len t) ∧ (u.laneDone th.lane t).barrierCount (.pad b off) = count ∧
    (u.laneDone th.lane t).barrierZeros (.pad b off) = zeros ∧ (∀ j < post.length, (u.laneDone th.lane t).padByte b (off + (8 + j)) = post.getD j 0) ∧
    (∀ j x, j ≠ b ∨ x < off ∨ off + (8 + post.length) ≤ x → (u.laneDone th.lane t).padByte j x = s.padByte j x) := by
  obtain ⟨hpath, hcur⟩ := State.padWrite_onPath h b off (leBytes 4 count.toNat ++ leBytes 4 zeros.toNat ++ post)
  rw [← hu] at hpath hcur
  have hblocks := State.laneDone_blocks t hpath th.lane
  obtain ⟨hcount, hzeros⟩ := State.padWrite_barrier hk hcan count zeros post
  rw [← hu] at hcount hzeros
  refine ⟨by rw [← hcur]; exact State.laneDone_lane t hpath, (State.barrier_congr hblocks _).1.trans hcount, (State.barrier_congr hblocks _).2.trans hzeros,
    fun j hj => ?_, fun j x hx => ?_⟩
  · rw [State.padByte_congr hblocks, hu, State.padByte_padWrite hk hcan off _ (by simp; omega), List.getD_eq_getElem?_getD, List.getElem?_append_right (by simp),
      ← List.getD_eq_getElem?_getD, show 8 + j - (leBytes 4 count.toNat ++ leBytes 4 zeros.toNat).length = j by simp]
  · rw [State.padByte_congr hblocks, hu, State.padByte_beside]
    rw [List.length_append, List.length_append, leBytes_length, leBytes_length]
    exact hx

theorem bobjinit_sets : ∃ s', exec (.bobjinit d a t) s = .next s' ∧ s'.lane? w.core w.slot th.lane = some (th.after s.cur.len t) ∧
    s'.barrierCount (.pad b off) = th.g? s d.toNat ∧ s'.barrierZeros (.pad b off) = 0 ∧ (∀ j < 8, s'.padByte b (off + 8 + j) = 0) ∧
    (∀ j x, j ≠ b ∨ x < off ∨ off + 16 ≤ x → s'.padByte j x = s.padByte j x) := by
  obtain ⟨f, hx, hfn⟩ := exec_bobjinit_eq d a t hr
  rw [State.bobj_acts h hone a t f hf hal hrange hp, hfn] at hx
  obtain ⟨hl, hc, hz, hrest, hframe⟩ := State.barrierWritten h t (off := off) hk hcan (th.g? s d.toNat) 0 (List.replicate 8 0) _ rfl
  refine ⟨_, hx, hl, hc, hz, fun j hj => ?_, hframe⟩
  have e := hrest j (by simpa using hj)
  rw [← Nat.add_assoc] at e
  refine Eq.trans (by exact e) ?_
  rw [List.getD_eq_getElem?_getD, List.getElem?_replicate, if_pos hj, Option.getD_some]

theorem bobjexp_adds : ∃ s', exec (.bobjexp d a t) s = .next s' ∧ s'.lane? w.core w.slot th.lane = some (th.after s.cur.len t) ∧
    s'.barrierCount (.pad b off) = BitVec.ofNat 32 ((s.barrierCount (.pad b off)).toNat + (th.g? s d.toNat).toNat) ∧
    s'.barrierZeros (.pad b off) = (if (s.barrierCount (.pad b off)).toNat ≠ 0 ∧
      ((s.barrierCount (.pad b off)).toNat + (th.g? s d.toNat).toNat) % 2 ^ 32 = 0 then s.barrierZeros (.pad b off) + 1 else s.barrierZeros (.pad b off)) ∧
    (∀ j x, j ≠ b ∨ x < off ∨ off + 8 ≤ x → s'.padByte j x = s.padByte j x) := by
  obtain ⟨f, hx, hfn⟩ := exec_bobjexp_eq d a t hr
  rw [State.bobj_acts h hone a t f hf hal hrange hp, hfn] at hx
  generalize s.barrierCount (.pad b off) = old at hx ⊢
  generalize s.barrierZeros (.pad b off) = zs at hx ⊢
  generalize th.g? s d.toNat = v at hx ⊢
  obtain ⟨hl, hc, hz, _, hframe⟩ := State.barrierWritten h t (off := off) hk hcan (old + v) (if old ≠ 0 ∧ old + v = 0 then zs + 1 else zs) [] _ rfl
  rw [List.append_nil] at hl hc hz hframe
  have hsum : old + v = BitVec.ofNat 32 (old.toNat + v.toNat) := by
    apply BitVec.eq_of_toNat_eq
    rw [BitVec.toNat_add, BitVec.toNat_ofNat]
  have hiff : (old ≠ 0 ∧ old + v = 0) ↔ (old.toNat ≠ 0 ∧ (old.toNat + v.toNat) % 2 ^ 32 = 0) := by
    rw [Ne, Ne, ← BitVec.toNat_inj, ← BitVec.toNat_inj (x := old + v), BitVec.toNat_add]
    rfl
  refine ⟨_, hx, hl, hc.trans hsum, hz.trans (if_congr hiff rfl rfl), hframe⟩
end

/-- Settles O32: the arrivals of a path from a clear path are recorded lane by lane before the phase is looked at; a byte-barrier object is 16 bytes of a
scratchpad. -/
theorem barriers : Obligations.Barriers := by
  unfold Obligations.Barriers
  refine ⟨fun s w th l t h hc hbad hsc => ?_, fun s w th d a t h hone hf hr => ?_⟩
  · intro k p refresh ill
    exact ⟨bararr_arrives h hc l t hbad hsc, bar_arrives h hc l t hbad hsc, barwait_waits h hc l t hbad⟩
  · intro addr
    refine ⟨fun i hi hbad => bobj_faults h hone d a t hr i hi hbad, fun b off k hal hrange hp hk hcan => ?_⟩
    intro o
    exact ⟨bobjinit_sets h hone hf d a t hr hal hrange hp hk hcan, bobjexp_adds h hone hf d a t hr hal hrange hp hk hcan,
      bobjwait_waits h hone hf d a t hr hal hrange hp⟩

end Sys2Proof.Machine
end

section
/-! PROOFS. Port transfers and the time input (spec/26 R386, R387): O49. -/

namespace Sys2Proof.Machine
open Sys2Proof.Claims

/-! ## Writes where nothing is guarded -/

theorem HomeWritten.noAreas {s t : State} {pa : Nat} {bs : List Byte} (h : HomeWritten s t pa bs) (ha : NoAreas s) : NoAreas t := by
  refine ⟨fun c hc x hx => ?_, fun k hk => ?_⟩
  · have hm : c.2.tiles ∈ s.cores.map (fun c => c.2.tiles) := by
      rw [← h.tiles]
      exact List.mem_map_of_mem (f := fun c : Nat × Core => c.2.tiles) hc
    obtain ⟨q, hq, e⟩ := List.mem_map.mp hm
    exact ha.1 q hq x (by rw [e]; exact hx)
  · rw [h.comms] at hk
    exact ha.2 k hk

/-- What must not be written now is the same where memory, the registers, the translations held, the free values, the launches and the waves are. -/
theorem State.misused_congr {s t : State} (hmem : t.mem = s.mem) (hmon : t.mon = s.mon) (htlb : t.tlb = s.tlb) (hfree : t.free = s.free)
    (hlaunches : t.launches = s.launches) (hwaves : t.waves = s.waves) (pas : List Nat) : t.misused pas = s.misused pas := by
  have hspan : ∀ vf va n pa wr, t.underSpan vf va n pa wr = s.underSpan vf va n pa wr := fun vf va n pa wr => by rw [State.underSpan_congr hmem hmon htlb hfree]
  have hnat : ∀ vf va n, t.vaNat vf va n = s.vaNat vf va n := fun vf va n => by
    rw [State.vaNat, State.vaNat, State.devAddr, State.devAddr, State.translate_congr hmem hmon htlb hfree, State.homeNat, State.homeNat, hmem]
  have hword : ∀ vf off, t.vfDword vf off = s.vfDword vf off := fun vf off => by
    simp only [State.vfDword, State.vfWord, State.reg, hmon]
  simp only [State.misused, State.tableFns, State.inBucket, State.inEdge, hspan, hnat, hword, hmon, hlaunches, hwaves]

theorem State.strikeBarriers_phys (s : State) (pas : List Nat) : s.strikeBarriers (fun b => (pas.map Place.phys).any (fun p => b.meets 16 p 1)) = s := by
  unfold State.strikeBarriers
  refine List.foldlRecOn (motive := fun t => t = s) _ _ rfl (fun t ht pl hpl => ?_)
  rw [ht]
  obtain ⟨p, hp, hmeets⟩ := List.any_eq_true.mp (List.mem_filter.mp hpl).2
  obtain ⟨pa, _, rfl⟩ := List.mem_map.mp hp
  cases pl with
  | phys x => rfl
  | pad b off => exact Bool.noConfusion hmeets

/-- Bytes written at physical addresses where nothing is guarded strike nothing. -/
theorem State.overwrite_noAreas {t was : State} (ha : NoAreas t) {pas : List Nat} (hmis : NoMisuse was (pas.map Place.phys)) :
    t.overwrite (pas.map Place.phys) was = t := by
  unfold State.overwrite
  rw [State.strikeBarriers_phys, State.breach_noAreas ha, State.strikeChunks_noAreas ha, show was.misused (physOf (pas.map Place.phys)) = [] from hmis]
  rfl

/-! ## A range mapped in a row -/

/-- The addresses of a range mapped in a row that a port may reach. -/
theorem State.mapRange_mapped {s : State} {vf va n pa : Nat} {wr : Bool} (hm : Mapped s vf va n pa) (hcan : ∀ i < n, canonicalVa (BitVec.ofNat 64 (va + i)) = true) :
    ∀ k ≤ n, s.mapRange vf va wr k = some ((List.range k).map (fun i => pa + i)) := by
  intro k
  induction k with
  | zero => exact fun _ => rfl
  | succ k ih =>
    intro hk
    have hdev := hm.1 k hk
    have haddr := mapped_now hm hk wr
    rw [State.mapRange, ih (Nat.le_of_succ_le hk)]
    dsimp only
    rw [hcan k hk]
    unfold State.devAddr at haddr
    cases htr : s.translate vf (BitVec.ofNat 64 (va + k)) wr false with
    | ok p =>
      rw [htr] at haddr
      dsimp only at haddr
      rw [haddr, List.range_succ, List.map_append]
      rfl
    | fail x y =>
      rw [htr] at haddr
      dsimp only at haddr
      rw [← haddr] at hdev
      exact absurd hdev (by decide)

/-- A range a port reaches is canonical. -/
theorem State.portFault_canonical {s : State} {vf va n : Nat} {wr : Bool} (h : s.portFault vf va n wr = none) (i : Nat) (hi : i < n) :
    canonicalVa (BitVec.ofNat 64 (va + i)) = true := by
  have e := List.findSome?_eq_none_iff.mp h i (List.mem_range.mpr hi)
  dsimp only at e
  cases hc : canonicalVa (BitVec.ofNat 64 (va + i)) with
  | true => rfl
  | false =>
    rw [hc] at e
    exact nomatch e

/-- Bytes written one by one at addresses in a row. -/
theorem State.homeScatter_written {s : State} (ho : Orderly s) (pa : Nat) (bs : List Byte) :
    HomeWritten s (s.homeScatter ((List.range bs.length).map (fun i => pa + i)) bs) pa bs := by
  have key : ∀ k, k ≤ bs.length → HomeWritten s ((List.range k).foldl (fun t i =>
      t.homeWriteBytes none (((List.range bs.length).map (fun i => pa + i)).getD i 0) [bs.getD i 0]) s) pa (bs.take k) := by
    intro k
    induction k with
    | zero => exact fun _ => HomeWritten.nothing ho pa
    | succ k ih =>
      intro hk
      have hw := ih (Nat.le_of_succ_le hk)
      have hlen : (bs.take k).length = k := by rw [List.length_take]; omega
      have hone := State.homeWriteBytes_written [bs.getD k 0] hw.orderly (pa + (bs.take k).length)
      have hat : ((List.range bs.length).map (fun i => pa + i)).getD k 0 = pa + (bs.take k).length := by
        rw [hlen, List.getD_eq_getElem?_getD, List.getElem?_map, List.getElem?_range hk]
        rfl
      rw [List.range_succ, List.foldl_append, List.foldl_cons, List.foldl_nil, List.take_succ_eq_append_getElem hk, hat]
      have e := hw.append hone
      rwa [List.getD_eq_getElem?_getD, List.getElem?_eq_getElem hk, Option.getD_some] at e ⊢
  have h := key bs.length le_rfl
  rw [List.take_length] at h
  unfold State.homeScatter
  rw [List.length_map, List.length_range]
  exact h

/-! ## What a port writes -/

/-- Bytes that a port writes. -/
def State.portPut (s : State) (vf a : Nat) (bs : List Byte) : State :=
  match s.mapRange vf a true bs.length with
  | some pas => ((s.homeScatter pas bs).setOwner vf pas).overwrite (pas.map Place.phys) s
  | none => s

theorem OnlyMemory.setOwner (s : State) (vf : Nat) (pas : List Nat) : OnlyMemory s (s.setOwner vf pas) := rfl
theorem OnlyMemory.portPut (s : State) (vf a : Nat) (bs : List Byte) : OnlyMemory s (s.portPut vf a bs) := by
  unfold State.portPut
  split
  · exact ((OnlyMemory.homeScatter s _ _).trans (OnlyMemory.setOwner ..)).trans (OnlyMemory.overwrite ..)
  · exact OnlyMemory.refl s

theorem State.portPut_written {s : State} {vf va pa : Nat} {bs : List Byte} (ho : Orderly s) (ha : NoAreas s)
    (hmap : s.mapRange vf va true bs.length = some ((List.range bs.length).map (fun i => pa + i)))
    (hmis : NoMisuse s ((List.range bs.length).map (fun i => .phys (pa + i)))) : HomeWritten s (s.portPut vf va bs) pa bs := by
  have hw := (State.homeScatter_written ho pa bs).setOwner vf ((List.range bs.length).map (fun i => pa + i))
  have hmis' : NoMisuse s (((List.range bs.length).map (fun i => pa + i)).map Place.phys) := by
    rw [List.map_map]
    exact hmis
  unfold State.portPut
  rw [hmap]
  dsimp only
  rw [State.overwrite_noAreas (hw.noAreas ha) hmis']
  exact hw

/-! ## A transfer -/

/-- The lines beyond the package, not held there, that a transfer out of memory has to read. -/
def State.portFar (s : State) (vf va n : Nat) (write : Bool) : List Nat :=
  if write then [] else ((((s.mapRange vf va write n).getD []).filter (fun pa => isRemote pa && (look s.copies pa).isNone)).map (fun pa => pa / 64 * 64)).eraseDups

/-- The data of a transfer, moved. -/
def State.portMove (s : State) (vf va : Nat) (data : List Byte) (write : Bool) : State :=
  if write then s.portPut vf va data
  else { s.breach ((s.mapRange vf va write data.length).getD []) with
    answer := some (((s.mapRange vf va write data.length).getD []).map (fun pa => readMem (s.breach ((s.mapRange vf va write data.length).getD [])).mem pa)) }

/-- The fault record of a port. -/
def State.portRecord (s : State) (vf port : Nat) (f : Nat × Nat × Nat) (w : Bool) : State :=
  s.faultRecord vf f.1 f.2.1 ((if port % 3 < 2 then 0x200 + port % 3 else 0x210) + (if w then 2 ^ 16 else 0)) f.2.2

section
variable {s : State} {vf way va cva : Nat} {data entry : List Byte} (hway : way ≤ 5) {write : Bool} (hw : decide (way < 3) = write)
include hway hw

/-- A transfer with nothing to fault and nothing to be requested. -/
theorem exec_port_moves (h1 : s.portFault vf va data.length write = none) (h2 : s.portFault vf cva entry.length true = none)
    (hfar : s.portFar vf va data.length write = []) :
    exec (.portTransferComplete vf way va data cva entry) s = .next ((s.portMove vf va data write).portPut vf cva entry) := by
  have hx : exec (.portTransferComplete vf way va data cva entry) s = execPortTransferComplete vf way va data cva entry s := rfl
  have e : exec (.portTransferComplete vf way va data cva entry) s = .next (if (s.portFar vf va data.length write).any s.outOfReach then
        s.portPut vf cva (s.errorEntry entry.length)
      else if (s.portFar vf va data.length write).isEmpty then (s.portMove vf va data write).portPut vf cva entry
      else (s.portFar vf va data.length write).foldl (fun t l =>
        if t.requests.any (fun q => q.kind == .read && q.who == Issuer.device && q.pa == l) then t else (t.sendAs (some vf) l 64 Issuer.device .read []).1) s) := by
    rw [hx, execPortTransferComplete]
    dsimp only
    rw [if_neg (Nat.not_lt.mpr hway), hw, h1, h2]
    rfl
  rw [e, hfar]
  rfl

/-- A transfer whose data moves and whose completion entry faults. -/
theorem exec_port_late {g : Nat × Nat × Nat} (h1 : s.portFault vf va data.length write = none) (h2 : s.portFault vf cva entry.length true = some g) :
    exec (.portTransferComplete vf way va data cva entry) s = .next (if s.ringFull vf then s
      else (if (s.portFar vf va data.length write).isEmpty then s.portMove vf va data write else s).portRecord vf way g true) := by
  have hx : exec (.portTransferComplete vf way va data cva entry) s = execPortTransferComplete vf way va data cva entry s := rfl
  rw [hx, execPortTransferComplete]
  dsimp only
  rw [if_neg (Nat.not_lt.mpr hway), hw, h1, h2]
  rfl

variable (hfault : s.portFault vf va data.length write ≠ none ∨ s.portFault vf cva entry.length true ≠ none)
include hfault

/-- A transfer that faults, with no slot for its record, is held. -/
theorem exec_port_held (hfull : s.ringFull vf = true) : exec (.portTransferComplete vf way va data cva entry) s = .next s := by
  have hx : exec (.portTransferComplete vf way va data cva entry) s = execPortTransferComplete vf way va data cva entry s := rfl
  rw [hx, execPortTransferComplete]
  dsimp only
  rw [if_neg (Nat.not_lt.mpr hway), hw]
  cases h1 : s.portFault vf va data.length write with
  | none =>
    cases h2 : s.portFault vf cva entry.length true with
    | none => exact absurd hfault (by rw [h1, h2]; simp)
    | some g => dsimp only; rw [hfull]; rfl
  | some f =>
    cases h2 : s.portFault vf cva entry.length true with
    | none => dsimp only; rw [hfull]; rfl
    | some g => dsimp only; rw [hfull]; rfl

/-- A transfer that faults, with a slot for its record: the record is written, after the data or before an error entry or alone. -/
theorem exec_port_faults (hfull : s.ringFull vf = false) : ∃ f w,
    exec (.portTransferComplete vf way va data cva entry) s = .next ((s.portRecord vf way f w).portPut vf cva (s.errorEntry entry.length)) ∨
    exec (.portTransferComplete vf way va data cva entry) s = .next (s.portRecord vf way f w) ∨
    exec (.portTransferComplete vf way va data cva entry) s = .next ((s.portMove vf va data write).portRecord vf way f w) := by
  cases h1 : s.portFault vf va data.length write with
  | none =>
    cases h2 : s.portFault vf cva entry.length true with
    | none => exact absurd hfault (by rw [h1, h2]; simp)
    | some g =>
      refine ⟨g, true, .inr ?_⟩
      rw [exec_port_late hway hw h1 h2, hfull, if_neg Bool.false_ne_true]
      cases (s.portFar vf va data.length write).isEmpty with
      | true => exact .inr rfl
      | false => exact .inl rfl
  | some f =>
    refine ⟨f, write, ?_⟩
    have hx : exec (.portTransferComplete vf way va data cva entry) s = execPortTransferComplete vf way va data cva entry s := rfl
    rw [hx, execPortTransferComplete]
    dsimp only
    rw [if_neg (Nat.not_lt.mpr hway), hw, h1]
    cases h2 : s.portFault vf cva entry.length true with
    | none => dsimp only; rw [hfull]; exact .inl rfl
    | some g => dsimp only; rw [hfull]; exact .inr (.inl rfl)
end

/-! ## What a transfer leaves -/

theorem State.faultHead_mon {s t : State} (h : t.mon = s.mon) (vf : Nat) : t.faultHead vf = s.faultHead vf := by rw [State.faultHead, State.faultHead, h]

theorem State.portRecord_head (s : State) (vf port : Nat) (f : Nat × Nat × Nat) (w : Bool) : (s.portRecord vf port f w).faultHead vf = s.faultHead vf + 1 := by
  rw [State.portRecord, State.faultRecord]
  dsimp only [State.faultHead]
  exact getD_setD_rising _ _ _ _ (.inl (Nat.succ_ne_zero _))

theorem State.portMove_mon (s : State) (vf va : Nat) (data : List Byte) (write : Bool) : (s.portMove vf va data write).mon = s.mon := by
  unfold State.portMove
  split
  · exact (OnlyMemory.portPut ..).mon
  · exact (OnlyMemory.breach ..).mon

section
variable {s : State} {vf port va cva pa q : Nat} {data entry : List Byte} (hp : port ≤ 2)
include hp

theorem port_faults (write : Bool) (hfault : s.portFault vf va data.length write ≠ none ∨ s.portFault vf cva entry.length true ≠ none) :
    (s.ringFull vf = true → exec (.portTransferComplete vf (if write = true then port else port + 3) va data cva entry) s = .next s) ∧
    (s.ringFull vf = false → ∃ s', exec (.portTransferComplete vf (if write = true then port else port + 3) va data cva entry) s = .next s' ∧
      s'.faultHead vf = s.faultHead vf + 1) := by
  have hway : (if write = true then port else port + 3) ≤ 5 := by split <;> omega
  have hw : decide ((if write = true then port else port + 3) < 3) = write := by
    cases write with
    | true => exact decide_eq_true (by rw [if_pos rfl]; omega)
    | false => exact decide_eq_false (by rw [if_neg Bool.false_ne_true]; omega)
  refine ⟨exec_port_held hway hw hfault, fun hfull => ?_⟩
  obtain ⟨f, w, he⟩ := exec_port_faults hway hw hfault hfull
  rcases he with he | he | he
  · exact ⟨_, he, (State.faultHead_mon (OnlyMemory.portPut ..).mon vf).trans (State.portRecord_head ..)⟩
  · exact ⟨_, he, State.portRecord_head ..⟩
  · exact ⟨_, he, (State.portRecord_head ..).trans (congrArg Nat.succ (State.faultHead_mon (State.portMove_mon ..) vf))⟩

variable (h2 : s.portFault vf cva entry.length true = none) (ho : Orderly s) (ha : NoAreas s) (hm : Mapped s vf va data.length pa)
include h2 ho ha hm

theorem port_out (h1 : s.portFault vf va data.length false = none) (hq : Mapped s vf cva entry.length q)
    (hmis : NoMisuse s ((List.range entry.length).map (fun i => .phys (q + i)))) :
    ∃ s', exec (.portTransferComplete vf (port + 3) va data cva entry) s = .next s' ∧
      s'.answer = some (s.homeBytes pa data.length) ∧ s'.homeBytes q entry.length = entry ∧
      ∀ x, Apart x 1 q entry.length → readMem s'.mem x = readMem s.mem x := by
  have hmap := State.mapRange_mapped (wr := false) hm (State.portFault_canonical h1) _ le_rfl
  have hfar : s.portFar vf va data.length false = [] := by
    unfold State.portFar
    rw [if_neg Bool.false_ne_true, hmap, Option.getD_some, List.filter_eq_nil_iff.mpr]
    · rfl
    · intro x hx
      obtain ⟨i, hi, rfl⟩ := List.mem_map.mp hx
      rw [isDevice_local (hm.1 i (List.mem_range.mp hi))]
      exact Bool.false_ne_true
  have hmove : s.portMove vf va data false = { s with answer := some (s.homeBytes pa data.length) } := by
    unfold State.portMove
    rw [if_neg Bool.false_ne_true, hmap, Option.getD_some, State.breach_noAreas ha, List.map_map]
    rfl
  have hx := exec_port_moves (way := port + 3) (by omega) (decide_eq_false (by omega)) h1 h2 hfar
  rw [hmove] at hx
  generalize hv : ({ s with answer := some (s.homeBytes pa data.length) } : State) = v at hx
  have hqv : Mapped v vf cva entry.length q := by rw [← hv]; exact mapped_congr (s := s) rfl rfl rfl rfl hq
  have hov : Orderly v := by rw [← hv]; exact ho
  have hav : NoAreas v := by rw [← hv]; exact ha
  have hmisv : NoMisuse v ((List.range entry.length).map (fun i => .phys (q + i))) := by
    rw [← hv]
    exact (State.misused_congr (s := s) rfl rfl rfl rfl rfl rfl _).trans hmis
  have hput := State.portPut_written hov hav (State.mapRange_mapped hqv (State.portFault_canonical h2) _ le_rfl) hmisv
  refine ⟨_, hx, ?_, hput.bytes, fun x hxa => ?_⟩
  · rw [show (v.portPut vf cva entry).answer = v.answer from (congrArg State.answer hput.frame :), ← hv]
  · rw [hput.beside hxa, ← hv]

theorem port_in (h1 : s.portFault vf va data.length true = none)
    (hq : ∀ m, (∀ x, Apart x 1 pa data.length → readMem m x = readMem s.mem x) → Mapped { s with mem := m } vf cva entry.length q)
    (hmis : NoMisuse s ((List.range data.length).map (fun i => .phys (pa + i))))
    (hmis2 : ∀ m, (∀ x, Apart x 1 pa data.length → readMem m x = readMem s.mem x) →
      NoMisuse { s with mem := m } ((List.range entry.length).map (fun i => .phys (q + i)))) (hapart : Apart pa data.length q entry.length) :
    ∃ s', exec (.portTransferComplete vf port va data cva entry) s = .next s' ∧
      s'.homeBytes pa data.length = data ∧ s'.homeBytes q entry.length = entry ∧
      ∀ x, Apart x 1 pa data.length → Apart x 1 q entry.length → readMem s'.mem x = readMem s.mem x := by
  have hput := State.portPut_written ho ha (State.mapRange_mapped hm (State.portFault_canonical h1) _ le_rfl) hmis
  have hx := exec_port_moves (way := port) (by omega) (decide_eq_true (by omega)) h1 h2 (if_pos rfl)
  rw [show s.portMove vf va data true = s.portPut vf va data from if_pos rfl] at hx
  generalize s.portPut vf va data = v at hx hput
  have hbeside : ∀ x, Apart x 1 pa data.length → readMem v.mem x = readMem s.mem x := fun x => hput.beside
  have hqv : Mapped v vf cva entry.length q := mapped_congr (s := { s with mem := v.mem }) rfl hput.mon hput.tlb hput.free (hq _ hbeside)
  have hmisv : NoMisuse v ((List.range entry.length).map (fun i => .phys (q + i))) :=
    (State.misused_congr (s := { s with mem := v.mem }) (t := v) rfl hput.mon hput.tlb hput.free hput.launches hput.waves _).trans (hmis2 _ hbeside)
  have hput2 := State.portPut_written hput.orderly (hput.noAreas ha) (State.mapRange_mapped hqv (State.portFault_canonical h2) _ le_rfl) hmisv
  refine ⟨_, hx, ?_, hput2.bytes, fun x hxd hxe => (hput2.beside hxe).trans (hbeside x hxd)⟩
  refine Eq.trans (List.map_congr_left (fun i hi => hput2.beside ?_)) hput.bytes
  have := List.mem_range.mp hi
  unfold Apart at hapart ⊢
  omega
end

/-! ## The time input -/

theorem State.refill_clock (s : State) (vf b n : Nat) : (s.refill vf b n).clock = s.clock := (OnlyMemory.devWrite ..).clock

theorem foldl_clock {α : Type} {f : State → α → State} (hf : ∀ t x, (f t x).clock = t.clock) (l : List α) (s : State) : (l.foldl f s).clock = s.clock := by
  induction l generalizing s with
  | nil => rfl
  | cons x rest ih => exact (ih _).trans (hf s x)

/-- The refills of a bucket since a time. -/
def State.refillDue (t0 : Nat) (u : State) (vf b : Nat) : State :=
  if 0 < u.refillPeriod vf b ∧ 0 < u.clock.now / max 1 (u.refillPeriod vf b) - t0 / max 1 (u.refillPeriod vf b) then
    u.refill vf b (u.clock.now / max 1 (u.refillPeriod vf b) - t0 / max 1 (u.refillPeriod vf b)) else u

theorem State.refillDue_clock (t0 : Nat) (u : State) (vf b : Nat) : (State.refillDue t0 u vf b).clock = u.clock := by
  unfold State.refillDue
  split
  · exact State.refill_clock ..
  · rfl

theorem State.refillsSince_eq (s : State) (t0 : Nat) : s.refillsSince t0 = if s.clock.now / 10000 ≤ t0 / 10000 then s
    else ((List.range 256).filter (fun vf => (s.vfWord vf 92).testBit 0 && s.vfDword vf 24 != 0)).foldl
      (fun t vf => (List.range 1024).foldl (fun u b => State.refillDue t0 u vf b) t) s := rfl

theorem foldl_refills_clock (t0 : Nat) (vfs buckets : List Nat) (s : State) :
    (vfs.foldl (fun t vf => buckets.foldl (fun u b => State.refillDue t0 u vf b) t) s).clock = s.clock :=
  foldl_clock (fun t vf => foldl_clock (fun u b => State.refillDue_clock t0 u vf b) _ t) _ s

theorem State.refillsSince_clock (s : State) (t0 : Nat) : (s.refillsSince t0).clock = s.clock := by
  rw [State.refillsSince_eq]
  by_cases h : s.clock.now / 10000 ≤ t0 / 10000
  · rw [if_pos h]
  · rw [if_neg h, foldl_refills_clock]

/-- Time that has not gone on brings no refill. -/
theorem State.refillsSince_now {s : State} {t0 : Nat} (h : s.clock.now ≤ t0) : s.refillsSince t0 = s := if_pos (Nat.div_le_div_right h)

/-- The clock locked to the input. -/
def State.timeLocked (s : State) (n : Nat) : State :=
  { s with clock := { s.clock with now := max s.clock.now n, lock := true, ever := true, hold := false, input := n, half := 0 } }

theorem exec_timeInputLock (s : State) (n : Nat) : exec (.timeInputLock n) s = .next ((s.timeLocked n).refillsSince s.clock.now) := rfl

theorem timeInputLock_locks (s : State) (n : Nat) : ∃ s', exec (.timeInputLock n) s = .next s' ∧ s'.clock.now = max s.clock.now n ∧ s'.clock.lock = true ∧
    s'.clock.ever = true ∧ s'.clock.hold = false ∧ s'.clock.losses = s.clock.losses ∧ s'.clock.wall = s.clock.wall ∧
    s'.clock.input = n ∧ (n ≤ s.clock.now → { s' with clock := s.clock } = s) := by
  have hc := State.refillsSince_clock (s.timeLocked n) s.clock.now
  have hnow : n ≤ s.clock.now → (s.timeLocked n).refillsSince s.clock.now = s.timeLocked n := fun hn =>
    State.refillsSince_now (s := s.timeLocked n) (by exact le_of_eq (max_eq_left hn))
  refine ⟨_, exec_timeInputLock s n, ?_⟩
  generalize (s.timeLocked n).refillsSince s.clock.now = u at hc hnow ⊢
  rw [hc]
  refine ⟨rfl, rfl, rfl, rfl, rfl, rfl, rfl, fun hn => ?_⟩
  rw [hnow hn]
  rfl

/-- Settles O49: what a port writes goes where its addresses are mapped in a row; a step forward of the count brings refills, which leave the clock. -/
theorem portsAndTime : Obligations.PortsAndTime := by
  unfold Obligations.PortsAndTime
  refine ⟨fun s vf port va cva pa q data entry hp => ⟨fun h1 h2 ho ha hm hq hmis hmis2 hapart => port_in hp h2 ho ha hm h1 hq hmis hmis2 hapart,
    fun h1 h2 ho ha hm hq hmis => port_out hp h2 ho ha hm h1 hq hmis, fun write => ?_⟩, fun s n => ?_, fun s => ⟨fun hl => ?_, fun hl => ?_⟩⟩
  · intro way hfault
    exact port_faults hp write hfault
  · exact timeInputLock_locks s n
  · exact congrArg Host.Outcome.next (if_neg (by rw [hl]; exact Bool.false_ne_true))
  · exact ⟨_, congrArg Host.Outcome.next (if_pos hl), rfl, rfl, rfl, rfl, rfl⟩

end Sys2Proof.Machine
end

section
/-! PROOFS. Basting of a gang where another bears its number (spec/27 R393): O50. -/

namespace Sys2Proof.Machine
open Sys2Proof.Claims

/-! ## Two gangs of one number -/

/-- A device 2 ms after reset with two gangs that bear the number 0, the second of which runs in partition 0. -/
def twinGangs : State :=
  { State.reset with
    clock := { State.reset.clock with wall := 2000000 }
    launches := [(0, placeLaunch)]
    gangs := [(0, { placeGang with id := 0 }), (1, { placeGang with id := 0 })]
    blocks := [(0, { placeBlock with gang := 1 })]
    partitions := [(0, { Partition.reset 0 with nbh := [0] })] }

/-- Refutes O50: the statement lets a second gang bear the number of the basted one; the launch is then no longer placed where that one runs, either. -/
theorem not_reliability : ¬ Obligations.Reliability := by
  unfold Obligations.Reliability
  intro h
  obtain ⟨hbaste, -⟩ := h
  obtain ⟨-, hdue, -⟩ := hbaste twinGangs 0 _ rfl rfl
  obtain ⟨s', hexec, -, hheld⟩ := hdue rfl rfl (by decide)
  obtain ⟨p, hp, hiff⟩ := hheld placeLaunch rfl
  have hholds : (match exec (.bastingIntervalTimeout 0) twinGangs with
    | .next t => (t.launch? 0).map (fun x => x.held)
    | _ => none) = some [0] := by decide +kernel
  rw [hexec] at hholds
  change (s'.launch? 0).map (fun x => x.held) = some [0] at hholds
  rw [show s'.launch? 0 = _ from hp] at hholds
  have hnone : twinGangs.gangParts 0 = [] := by decide +kernel
  have hz := (hiff 0).mp (by rw [show p = [0] from Option.some.inj hholds]; exact List.mem_singleton_self 0)
  rw [hnone] at hz
  exact hz.elim List.not_mem_nil List.not_mem_nil

end Sys2Proof.Machine
end

section
/-! PROOFS. Gauges, samplers and writes of register maps (spec/28 R403 to R411, spec/00 R5): O51. -/

namespace Sys2Proof.Machine
open Sys2Proof.Claims

/-! ## Registers of one map -/

theorem regKey_ne_off {space ix off off' : Nat} (h : off' ≠ off) : regKey space ix off' ≠ regKey space ix off := fun e => h (Nat.add_left_cancel e)

/-- A register of a map after another of the same map is set. -/
theorem State.reg_setReg_off (s : State) {space ix off off' : Nat} (v : Word) (h : off' ≠ off) : (s.setReg space ix off v).reg space ix off' = s.reg space ix off' :=
  State.reg_setReg_beside s _ _ _ v (regKey_ne_off h)

/-! ## GAUGE_CLEAR -/

/-- Words of a map set to 0 one after another. -/
structure Zeroed (o n : Nat) (t u : State) : Prop where
  zero : ∀ i < n, u.reg 1 0 (o + 4 * i) = 0
  beside : ∀ off, (∀ i < n, off ≠ o + 4 * i) → u.reg 1 0 off = t.reg 1 0 off
  rising : risingFrom 0 u.mon.regs = true
  rest : { u with mon := t.mon } = t

theorem zeroed_words (o : Nat) {t : State} (ht : risingFrom 0 t.mon.regs = true) : ∀ n : Nat, Zeroed o n t ((List.range n).foldl (fun t i => t.setReg 1 0 (o + 4 * i) 0) t) := by
  intro n
  induction n with
  | zero => exact ⟨fun i hi => absurd hi (Nat.not_lt_zero i), fun _ _ => rfl, ht, rfl⟩
  | succ n ih =>
    rw [List.range_succ, List.foldl_append, List.foldl_cons, List.foldl_nil]
    generalize (List.range n).foldl (fun t i => t.setReg 1 0 (o + 4 * i) 0) t = u at ih ⊢
    refine ⟨fun i hi => ?_, fun off hoff => ?_, State.setReg_rising u _ _ _ _ ih.rising, ih.rest⟩
    · by_cases e : i = n
      · rw [e, State.reg_setReg u _ _ _ _ (.inr ih.rising)]
      · rw [State.reg_setReg_off _ _ (by omega)]
        exact ih.zero i (by omega)
    · rw [State.reg_setReg_off _ _ (hoff n (Nat.lt_succ_self n))]
      exact ih.beside off (fun i hi => hoff i (by omega))

/-- A gauge with its counters, but not its bins, at their reset values. -/
def State.clearCounters (s : State) (o : Nat) : State :=
  (((s.setReg 1 0 (o + 0xC) 0xFFFFFFFF#32).setReg 1 0 (o + 0x10) 0).setReg 1 0 (o + 0x14) 0).setReg 1 0 (o + 0x18) 0

theorem State.clearCounters_rest (s : State) (o : Nat) : { s.clearCounters o with mon := s.mon } = s :=
  State.setReg_rest (State.setReg_rest (State.setReg_rest (State.setReg_rest (s := s) rfl 1 0 _ _) 1 0 _ _) 1 0 _ _) 1 0 _ _

theorem State.clearGauge_zeroed (s : State) (n : Nat) (hr : risingFrom 0 s.mon.regs = true) : Zeroed (gaugeOff n + 0x20) 32 (s.clearCounters (gaugeOff n)) (s.clearGauge n) :=
  zeroed_words (gaugeOff n + 0x20) (State.setReg_rising _ 1 0 _ 0 (State.setReg_rising _ 1 0 _ 0 (State.setReg_rising _ 1 0 _ 0 (State.setReg_rising s 1 0 _ _ hr)))) 32

theorem gaugeClear_clears (s : State) (n : Nat) (hn : n < 64) (hr : risingFrom 0 s.mon.regs = true) : ∃ s', exec (.gaugeClear n) s = .next s' ∧
    s'.reg 1 0 (gaugeOff n + 0xC) = 0xFFFFFFFF#32 ∧ s'.reg 1 0 (gaugeOff n + 0x10) = 0 ∧ s'.reg 1 0 (gaugeOff n + 0x14) = 0 ∧
    s'.reg 1 0 (gaugeOff n + 0x18) = 0 ∧ (∀ i < 32, s'.reg 1 0 (gaugeOff n + 0x20 + 4 * i) = 0) ∧
    s'.reg 1 0 (gaugeOff n) = s.reg 1 0 (gaugeOff n) ∧ { s' with mon := s.mon } = s := by
  have hx : exec (.gaugeClear n) s = execGaugeClear n s := rfl
  rw [hx, execGaugeClear, if_pos hn]
  refine ⟨s.clearGauge n, rfl, ?_⟩
  have hz := s.clearGauge_zeroed n hr
  generalize s.clearGauge n = u at hz ⊢
  generalize gaugeOff n = o at hz ⊢
  have r1 := State.setReg_rising s 1 0 (o + 0xC) 0xFFFFFFFF#32 hr
  have r2 := State.setReg_rising _ 1 0 (o + 0x10) 0 r1
  have r3 := State.setReg_rising _ 1 0 (o + 0x14) 0 r2
  refine ⟨?_, ?_, ?_, ?_, hz.zero, ?_, (congrArg (fun x : State => { x with
    mon := s.mon }) hz.rest :).trans (s.clearCounters_rest o)⟩
  · rw [hz.beside _ (fun i _ => by omega), State.clearCounters, State.reg_setReg_off _ _ (by omega), State.reg_setReg_off _ _ (by omega),
      State.reg_setReg_off _ _ (by omega), State.reg_setReg s 1 0 _ _ (.inr hr)]
  · rw [hz.beside _ (fun i _ => by omega), State.clearCounters, State.reg_setReg_off _ _ (by omega), State.reg_setReg_off _ _ (by omega),
      State.reg_setReg _ 1 0 _ _ (.inr r1)]
  · rw [hz.beside _ (fun i _ => by omega), State.clearCounters, State.reg_setReg_off _ _ (by omega), State.reg_setReg _ 1 0 _ _ (.inr r2)]
  · rw [hz.beside _ (fun i _ => by omega), State.clearCounters, State.reg_setReg _ 1 0 _ _ (.inr r3)]
  · rw [hz.beside _ (fun i _ => by omega), State.clearCounters, State.reg_setReg_off _ _ (by omega), State.reg_setReg_off _ _ (by omega),
      State.reg_setReg_off _ _ (by omega), State.reg_setReg_off _ _ (by omega)]

/-! ## LINK_RETRY_INTERVAL_END -/

/-- The bin that a gauge counts a value in. -/
def State.gaugeBin (t : State) (n v : Nat) : Nat :=
  if (t.reg 1 0 (gaugeOff n)).getLsbD 3 then min 31 (bitLength (min v 0xFFFFFFFF))
  else if min v 0xFFFFFFFF < (t.reg 1 0 (gaugeOff n + 8)).toNat then 0
  else min 31 (1 + (min v 0xFFFFFFFF - (t.reg 1 0 (gaugeOff n + 8)).toNat) / 2 ^ ((t.reg 1 0 (gaugeOff n)).toNat / 16 % 32))

theorem State.gaugeBin_le (t : State) (n v : Nat) : t.gaugeBin n v ≤ 31 := by
  unfold State.gaugeBin
  split
  · exact Nat.min_le_left ..
  · split
    · exact Nat.zero_le _
    · exact Nat.min_le_left ..

/-- What a gauge that takes a value sets of its words, its COUNT and a bin last. -/
theorem State.gaugeCount_eq (t : State) (n v : Nat) (h : (t.reg 1 0 (gaugeOff n)).getLsbD 1 = false) : ∃ x y c z,
    t.gaugeCount n v = ((((t.setReg 1 0 (gaugeOff n + 0x0C) x).setReg 1 0 (gaugeOff n + 0x10) y).setReg 1 0 (gaugeOff n + 0x14) c).setReg 1 0
      (gaugeOff n + 0x20 + 4 * t.gaugeBin n v) z) ∧
    c = satInc (((t.setReg 1 0 (gaugeOff n + 0x0C) x).setReg 1 0 (gaugeOff n + 0x10) y).reg 1 0 (gaugeOff n + 0x14)) := by
  unfold State.gaugeCount
  dsimp only
  rw [h, if_neg Bool.false_ne_true]
  exact ⟨_, _, _, _, rfl, rfl⟩

/-- The registers of a gauge after another has counted. -/
theorem State.gaugeCount_beside (t : State) {m n k : Nat} (v : Nat) (hne : m ≠ n) (hk : k < 0x100) :
    (t.gaugeCount m v).reg 1 0 (gaugeOff n + k) = t.reg 1 0 (gaugeOff n + k) := by
  have hoff : ∀ j < 0x100, gaugeOff n + k ≠ gaugeOff m + j := fun j hj => by unfold gaugeOff; omega
  cases h : (t.reg 1 0 (gaugeOff m)).getLsbD 1 with
  | true =>
    unfold State.gaugeCount
    dsimp only
    rw [h, if_pos rfl, State.reg_setReg_off _ _ (hoff 0x18 (by omega))]
  | false =>
    obtain ⟨x, y, c, z, e, _⟩ := State.gaugeCount_eq t m v h
    have hbin := t.gaugeBin_le m v
    rw [e, State.reg_setReg_off _ _ (by rw [Nat.add_assoc]; exact hoff _ (by omega)), State.reg_setReg_off _ _ (hoff 0x14 (by omega)),
      State.reg_setReg_off _ _ (hoff 0x10 (by omega)), State.reg_setReg_off _ _ (hoff 0x0C (by omega))]

theorem satInc_ne_zero (x : Word) : satInc x ≠ 0 := by
  unfold satInc
  split
  next h => rw [h]; decide
  next h => bv_omega

theorem regReset_gauge {n k : Nat} (hn : n < 64) (hk : k < 0x100) (hc : k ≠ 0x0C) : regReset 1 (gaugeOff n + k) = 0 := by
  unfold regReset gaugeOff
  rw [if_pos rfl, if_neg (by omega), if_neg (by omega), if_neg (by omega), if_neg (by omega), if_neg (by omega)]

/-- The COUNT of a gauge that takes a value. -/
theorem State.gaugeCount_count (t : State) {n : Nat} (v : Nat) (hn : n < 64) (hoff : (t.reg 1 0 (gaugeOff n)).getLsbD 1 = false) :
    (t.gaugeCount n v).reg 1 0 (gaugeOff n + 0x14) = satInc (t.reg 1 0 (gaugeOff n + 0x14)) := by
  obtain ⟨x, y, c, z, e, hc⟩ := State.gaugeCount_eq t n v hoff
  have hne : c ≠ regReset 1 (gaugeOff n + 0x14) := by
    rw [regReset_gauge hn (by omega) (by omega), hc]
    exact satInc_ne_zero _
  rw [e, State.reg_setReg_off _ _ (by omega), State.reg_setReg _ 1 0 _ _ (.inl hne), hc, State.reg_setReg_off _ _ (by omega), State.reg_setReg_off _ _ (by omega)]

/-- Gauges that count one after another, a gauge not among them. -/
theorem gauges_beside (src inst : Nat) (vf : Option Nat) (v : Nat) {n k : Nat} (hk : k < 0x100) : ∀ (l : List Nat) (t : State), n ∉ l →
    (l.foldl (fun t n => if t.gaugeTakes n src inst vf then t.gaugeCount n v else t) t).reg 1 0 (gaugeOff n + k) = t.reg 1 0 (gaugeOff n + k) := by
  intro l
  induction l with
  | nil => exact fun _ _ => rfl
  | cons m rest ih =>
    intro t hn
    rw [List.foldl_cons, ih _ (fun h => hn (List.mem_cons_of_mem _ h))]
    split
    · exact State.gaugeCount_beside t v (fun e => hn (e ▸ List.mem_cons_self)) hk
    · rfl

theorem linkRetry_counts (s : State) (port retries n : Nat) (hp : port < 16) (hn : n < 64) (htakes : s.gaugeTakes n 7 port none = true)
    (hoff : (s.reg 1 0 (gaugeOff n)).getLsbD 1 = false) : ∃ s', exec (.linkRetryIntervalEnd port retries) s = .next s' ∧
      s'.reg 1 0 (gaugeOff n + 0x14) = satInc (s.reg 1 0 (gaugeOff n + 0x14)) ∧ { s' with mon := s.mon } = s := by
  have hx : exec (.linkRetryIntervalEnd port retries) s = execLinkRetryIntervalEnd port retries s := rfl
  rw [hx, execLinkRetryIntervalEnd, if_pos hp]
  refine ⟨s.gauge 7 port none retries, rfl, ?_, State.gauge_rest ..⟩
  obtain ⟨pre, post, hsplit⟩ := List.append_of_mem (List.mem_range.mpr hn)
  have hnd : (pre ++ n :: post).Nodup := hsplit ▸ List.nodup_range
  have hpre : n ∉ pre := fun h => (List.nodup_append.mp hnd).2.2 n h n List.mem_cons_self rfl
  have hpost : n ∉ post := (List.nodup_cons.mp (List.nodup_append.mp hnd).2.1).1
  unfold State.gauge
  rw [hsplit, List.foldl_append, List.foldl_cons, gauges_beside _ _ _ _ (by omega) post _ hpost]
  have hb := fun {k : Nat} (hk : k < 0x100) => gauges_beside 7 port none retries hk pre s hpre
  generalize pre.foldl _ s = u at hb ⊢
  have h0 : u.reg 1 0 (gaugeOff n) = s.reg 1 0 (gaugeOff n) := hb (k := 0) (by omega)
  have ht : u.gaugeTakes n 7 port none = true := by
    rw [← htakes]
    unfold State.gaugeTakes
    dsimp only
    rw [h0, hb (k := 4) (by omega)]
  rw [if_pos ht, State.gaugeCount_count u retries hn (by rw [h0]; exact hoff), hb (by omega)]

/-! ## SAMPLER_SAMPLE -/

theorem regReset_sampler (c pn : Nat) {k : Nat} (hk : k < 0x40) (hne : k ≠ 4) : regReset 1 (samplerOff c pn + k) = 0 := by
  unfold regReset samplerOff
  rw [if_pos rfl, if_neg (by omega), if_neg (by omega), if_neg (by omega), if_neg (by omega), if_neg (by omega)]

/-- The bytes of a sample record. -/
def SampleRec.bytes (r : SampleRec) : List Byte :=
  leBytes 8 r.pc.toNat ++ leBytes 4 r.stamp.toNat ++ leBytes 1 r.slot ++ leBytes 1 r.st ++ leBytes 1 r.reason ++ leBytes 1 r.func

theorem State.sampleRecord_eq (s : State) (c : Nat) (r : SampleRec)
    (hfull : (s.reg 1 0 (samplerOff c r.panel + 0x14) - s.reg 1 0 (samplerOff c r.panel + 0x18)).toNat ≠ (s.reg 1 0 (samplerOff c r.panel + 0x10)).toNat) :
    s.sampleRecord c r = (s.homeWriteBytes none (s.reg64 1 0 (samplerOff c r.panel + 8) +
      16 * ((s.reg 1 0 (samplerOff c r.panel + 0x14)).toNat % (s.reg 1 0 (samplerOff c r.panel + 0x10)).toNat)) r.bytes).setReg 1 0 (samplerOff c r.panel + 0x14)
        (s.reg 1 0 (samplerOff c r.panel + 0x14) + 1) := if_neg hfull

theorem sampler_writes (s : State) (c pn : Nat) (r : SampleRec) (ho : Orderly s) (hone : (s.core c).unwritten.filter (fun x => x.panel == pn) = [r])
    (hfull : (s.reg 1 0 (samplerOff c pn + 0x14) - s.reg 1 0 (samplerOff c pn + 0x18)).toNat ≠ (s.reg 1 0 (samplerOff c pn + 0x10)).toNat)
    (hhead : s.reg 1 0 (samplerOff c pn + 0x14) ≠ 0xFFFFFFFF#32) :
    ∃ s' t, exec (.samplerSample c pn) s = .next s' ∧ s'.reg 1 0 (samplerOff c pn + 0x14) = s.reg 1 0 (samplerOff c pn + 0x14) + 1 ∧
      (s'.core c).unwritten = (s.core c).unwritten.filter (fun x => x.panel != pn) ∧ s'.mem = t.mem ∧
      HomeWritten (s.onCore c (fun k => { k with unwritten := k.unwritten.filter (fun x => x.panel != pn) })) t
        (s.reg64 1 0 (samplerOff c pn + 8) + 16 * ((s.reg 1 0 (samplerOff c pn + 0x14)).toNat % (s.reg 1 0 (samplerOff c pn + 0x10)).toNat)) r.bytes := by
  have hx : exec (.samplerSample c pn) s = execSamplerSample c pn s := rfl
  have hpanel : r.panel = pn := by
    have hr : r ∈ (s.core c).unwritten.filter (fun x => x.panel == pn) := by rw [hone]; exact List.mem_singleton_self r
    simpa using (List.mem_filter.mp hr).2
  have hne : s.reg 1 0 (samplerOff c pn + 0x14) + 1 ≠ regReset 1 (samplerOff c pn + 0x14) := by
    rw [regReset_sampler c pn (by omega) (by omega)]
    intro e
    apply hhead
    bv_omega
  rw [hx, execSamplerSample, hone, List.isEmpty_cons, if_neg Bool.false_ne_true, List.foldl_cons, List.foldl_nil]
  have hcore := State.core_onCore s c c (fun k => { k with unwritten := k.unwritten.filter (fun x => x.panel != pn) })
  rw [if_pos rfl] at hcore
  have hreg : ∀ off, (s.onCore c (fun k => { k with unwritten := k.unwritten.filter (fun x => x.panel != pn) })).reg 1 0 off = s.reg 1 0 off := fun _ => rfl
  have hreg64 : ∀ off, (s.onCore c (fun k => { k with unwritten := k.unwritten.filter (fun x => x.panel != pn) })).reg64 1 0 off = s.reg64 1 0 off := fun _ => rfl
  have hou : Orderly (s.onCore c (fun k => { k with unwritten := k.unwritten.filter (fun x => x.panel != pn) })) := ho
  generalize s.onCore c (fun k => { k with unwritten := k.unwritten.filter (fun x => x.panel != pn) }) = u at hcore hreg hreg64 hou ⊢
  rw [State.sampleRecord_eq u c r (by rw [hpanel, hreg, hreg, hreg]; exact hfull), hpanel, hreg, hreg, hreg64]
  have hw := State.homeWriteBytes_written r.bytes hou (s.reg64 1 0 (samplerOff c pn + 8) +
    16 * ((s.reg 1 0 (samplerOff c pn + 0x14)).toNat % (s.reg 1 0 (samplerOff c pn + 0x10)).toNat))
  generalize u.homeWriteBytes none _ r.bytes = v at hw ⊢
  refine ⟨_, v, rfl, State.reg_setReg v 1 0 _ _ (.inl hne), ?_, rfl, hw⟩
  have hk := hw.cores c
  exact (congrArg Core.unwritten hk :).trans (congrArg Core.unwritten hcore)

/-- The fields of a sample record that has been written. -/
theorem SampleRec.fields {s t : State} {at_ : Nat} {r : SampleRec} (hw : HomeWritten s t at_ r.bytes) :
    t.homeNat at_ 8 = r.pc.toNat ∧ t.homeNat (at_ + 8) 4 = r.stamp.toNat ∧ t.homeNat (at_ + 12) 1 = r.slot % 2 ^ 8 ∧
    t.homeNat (at_ + 13) 1 = r.st % 2 ^ 8 ∧ t.homeNat (at_ + 14) 1 = r.reason % 2 ^ 8 ∧ t.homeNat (at_ + 15) 1 = r.func % 2 ^ 8 := by
  have e1 := hw.field (pre := []) (post := leBytes 4 r.stamp.toNat ++ leBytes 1 r.slot ++ leBytes 1 r.st ++ leBytes 1 r.reason ++ leBytes 1 r.func) (k := 0)
    (n := 8) (v := r.pc.toNat) (by simp only [SampleRec.bytes, List.nil_append, List.append_assoc]) rfl
  have e2 := hw.field (pre := leBytes 8 r.pc.toNat) (post := leBytes 1 r.slot ++ leBytes 1 r.st ++ leBytes 1 r.reason ++ leBytes 1 r.func) (k := 8)
    (n := 4) (v := r.stamp.toNat) (by simp only [SampleRec.bytes, List.append_assoc]) (by simp)
  have e3 := hw.field (pre := leBytes 8 r.pc.toNat ++ leBytes 4 r.stamp.toNat) (post := leBytes 1 r.st ++ leBytes 1 r.reason ++ leBytes 1 r.func) (k := 12)
    (n := 1) (v := r.slot) (by simp only [SampleRec.bytes, List.append_assoc]) (by simp)
  have e4 := hw.field (pre := leBytes 8 r.pc.toNat ++ leBytes 4 r.stamp.toNat ++ leBytes 1 r.slot) (post := leBytes 1 r.reason ++ leBytes 1 r.func) (k := 13)
    (n := 1) (v := r.st) (by simp only [SampleRec.bytes, List.append_assoc]) (by simp)
  have e5 := hw.field (pre := leBytes 8 r.pc.toNat ++ leBytes 4 r.stamp.toNat ++ leBytes 1 r.slot ++ leBytes 1 r.st) (post := leBytes 1 r.func) (k := 14)
    (n := 1) (v := r.reason) (by simp only [SampleRec.bytes, List.append_assoc]) (by simp)
  have e6 := hw.field (pre := leBytes 8 r.pc.toNat ++ leBytes 4 r.stamp.toNat ++ leBytes 1 r.slot ++ leBytes 1 r.st ++ leBytes 1 r.reason) (post := []) (k := 15)
    (n := 1) (v := r.func) (by simp only [SampleRec.bytes, List.append_assoc, List.append_nil]) (by simp)
  rw [Nat.add_zero, Nat.mod_eq_of_lt r.pc.isLt] at e1
  rw [Nat.mod_eq_of_lt r.stamp.isLt] at e2
  exact ⟨e1, e2, e3, e4, e5, e6⟩

/-! ## The cycle of a sample -/

section
variable {s : State} {c pn : Nat} {x : Seen} {w : Wave} {e : Issued} (hat : (s.core c).sampleAt = [(pn, s.clockOf c)])
  (hen : (s.reg 1 0 (samplerOff c pn)).getLsbD 0 = true) (hsam : s.samples c pn x.vf = true)
  (hx : x.slot = x.wave) (hw : s.wave? c x.wave = some w) (hblk : w.blk = x.blk) (hlin : w.lining = none)
  (he : look (s.core c).issued x.wave = some e) (hclk : e.clk = s.clockOf c)

/-- A core with a sample's record, its panel's next sample due at a count. -/
def Core.sampled (k : Core) (pn next : Nat) (r : SampleRec) : Core := { k with
  sampleAt := insertAt k.sampleAt pn next
  unwritten := k.unwritten ++ [r] }
/-- A core at the end of a cycle, the marks of the cycle behind its samples. -/
def Core.cycleEnded (k : Core) : Core := { k with unwritten := k.unwritten ++ k.marks, marks := [], roster := [] }
/-- The record of a wave that has issued. -/
def Seen.issuedRec (x : Seen) (pn now : Nat) (e : Issued) : SampleRec := ⟨pn, e.pc, BitVec.ofNat 32 now, x.byte, 0, 0, x.vf⟩

/-- The period of a panel's samples. -/
def State.samplePeriod (s : State) (c pn : Nat) : Nat := max 1 (s.reg 1 0 (samplerOff c pn + 4)).toNat

include hx hw hblk hlin he hclk in
/-- What a wave that has issued shows. -/
theorem State.sampleOf_issued : s.sampleOf c x = (0, 0, e.pc) := by
  unfold State.sampleOf
  dsimp only
  have hfilter : (s.wave? c x.wave).filter (fun w => w.blk == x.blk) = some w := by rw [hw, Option.filter_some, if_pos (by simpa using hblk)]
  rw [hfilter, he, Option.map_some, hlin, Option.filter_some, if_pos (by simp [hclk, hx])]

include hsam hx hw hblk hlin he hclk in
/-- The sample of the cycle that ends. -/
theorem State.takeSample_one : s.takeSample c pn (s.clockOf c) [x] =
    s.onCore c (fun k => k.sampled pn (s.clockOf c + s.samplePeriod c pn) (x.issuedRec pn (s.clockOf c) e)) := by
  have hsame : ({ s with cycles := s.cycles + (s.clockOf c - s.clockOf c) } : State) = s := by rw [Nat.sub_self, Nat.add_zero]
  unfold State.takeSample
  dsimp only
  rw [hsame, List.filter_cons_of_pos (by simpa using hsam), List.filter_nil, List.map_cons, List.map_nil, State.sampleOf_issued hx hw hblk hlin he hclk]
  rfl

include hat hen hsam hx hw hblk hlin he hclk in
theorem State.endCycles_samples (hroster : (s.core c).roster.filter (fun y => y.slot / 32 == pn) = [x]) :
    ((s.endCycles c (s.clockOf c + 1)).core c).unwritten = (s.core c).unwritten ++ [x.issuedRec pn (s.clockOf c) e] ++ (s.core c).marks ∧
    ((s.endCycles c (s.clockOf c + 1)).core c).marks = [] ∧
    ((s.endCycles c (s.clockOf c + 1)).core c).sampleAt = [(pn, s.clockOf c + s.samplePeriod c pn)] := by
  have hperiod : 1 ≤ s.samplePeriod c pn := Nat.le_max_left ..
  have hfirst : s.takeSamples c pn (s.clockOf c + 1) [x] 1 = s.takeSample c pn (s.clockOf c) [x] := by
    rw [State.takeSamples, hat, show getD [(pn, s.clockOf c)] 0 pn = s.clockOf c by simp [getD, look]]
    exact if_pos ⟨hen, Nat.lt_succ_self _⟩
  have hrun : s.endCycles c (s.clockOf c + 1) = (((s.takeSample c pn (s.clockOf c) [x]).onCore c Core.cycleEnded).core c).sampleAt.foldl
      (fun t p => t.takeSamples c p.1 (s.clockOf c + 1) (t.seen c p.1) (s.clockOf c + 1 - s.clockOf c)) ((s.takeSample c pn (s.clockOf c) [x]).onCore c Core.cycleEnded) := by
    rw [← hfirst, ← hroster]
    unfold State.endCycles
    rw [if_neg (by omega), hat]
    rfl
  have hcore : ((s.onCore c (fun k => k.sampled pn (s.clockOf c + s.samplePeriod c pn) (x.issuedRec pn (s.clockOf c) e))).onCore c Core.cycleEnded).core c =
      ((s.core c).sampled pn (s.clockOf c + s.samplePeriod c pn) (x.issuedRec pn (s.clockOf c) e)).cycleEnded := by
    rw [State.core_onCore, if_pos rfl, State.core_onCore, if_pos rfl]
  rw [hrun, State.takeSample_one hsam hx hw hblk hlin he hclk]
  generalize (s.onCore c (fun k => k.sampled pn (s.clockOf c + s.samplePeriod c pn) (x.issuedRec pn (s.clockOf c) e))).onCore c Core.cycleEnded = u at hcore ⊢
  have hu : (u.core c).sampleAt = [(pn, s.clockOf c + s.samplePeriod c pn)] := by
    rw [hcore, Core.cycleEnded, Core.sampled, hat]
    simp [insertAt]
  have hlast : u.takeSamples c pn (s.clockOf c + 1) (u.seen c pn) (s.clockOf c + 1 - s.clockOf c) = u := by
    rw [Nat.add_sub_cancel_left, State.takeSamples, hu,
      show getD [(pn, s.clockOf c + s.samplePeriod c pn)] 0 pn = s.clockOf c + s.samplePeriod c pn by simp [getD, look]]
    exact if_neg (by omega)
  rw [hu, List.foldl_cons, List.foldl_nil, hlast]
  exact ⟨congrArg Core.unwritten hcore, congrArg Core.marks hcore, hu⟩
end

/-! ## REGISTER_WRITE -/

theorem word_and_ones (v : Word) : v &&& 0xFFFFFFFF#32 = v := BitVec.and_allOnes

section
variable {s : State} (v : Word) (hr : risingFrom 0 s.mon.regs = true)

/-- A write of a register that does nothing beside, in its turn. -/
theorem registerWrite_eq {space ix off : Nat} (hal : off % 4 = 0) (hspace : space ≤ 6) (hix : ix < mapCount space) (hturn : s.outOfTurn space ix off = false)
    (h92 : space ≠ 2) : exec (.registerWrite space ix off v) s = .next ((s.setReg space ix off
      (((s.reg space ix off &&& ~~~rwMask space off) ||| (v &&& rwMask space off)) &&& ~~~(v &&& w1cMask space off))).writeAction space ix off (s.reg space ix off) v) := by
  have hx : exec (.registerWrite space ix off v) s = execRegisterWrite space ix off v s := rfl
  rw [hx, execRegisterWrite, if_neg (by omega), if_neg (by omega), if_neg (by omega), if_neg (by omega)]
  dsimp only
  rw [hturn, if_neg Bool.false_ne_true, if_neg (by tauto)]
  rfl

include hr

theorem healthControl_write : ∃ s', exec (.registerWrite 1 0 0x10000 v) s = .next s' ∧
    s'.reg 1 0 0x10000 = (s.reg 1 0 0x10000 &&& ~~~3#32) ||| (v &&& 3#32) ∧ { s' with mon := s.mon } = s := by
  refine ⟨_, registerWrite_eq v (by decide) (by decide) (by decide) rfl (by decide), ?_, rfl⟩
  refine Eq.trans (State.reg_setReg s 1 0 0x10000 _ (.inr hr)) ?_
  rw [show rwMask 1 0x10000 = 3#32 from rfl, show w1cMask 1 0x10000 = 0#32 from rfl]
  simp only [BitVec.and_zero, word_and_ones, show ~~~(0#32) = 0xFFFFFFFF#32 from rfl]

theorem healthWord_write (off : Nat) (ho : off ∈ [0x10004, 0x10008, 0x1000C, 0x10010, 0x10014, 0x10018, 0x10020]) :
    ∃ s', exec (.registerWrite 1 0 off v) s = .next s' ∧ s'.reg 1 0 off = v ∧ { s' with mon := s.mon } = s := by
  have hturn : s.outOfTurn 1 0 off = false ∧ off % 4 = 0 ∧ rwMask 1 off = 0xFFFFFFFF#32 ∧ w1cMask 1 off = 0 ∧
      ∀ (t : State) (old v : Word), t.writeAction 1 0 off old v = t := by
    simp only [List.mem_cons, List.not_mem_nil, or_false] at ho
    rcases ho with rfl | rfl | rfl | rfl | rfl | rfl | rfl
    all_goals exact ⟨rfl, rfl, rfl, rfl, fun _ _ _ => rfl⟩
  obtain ⟨hturn, hal, hrw, hw1c, hact⟩ := hturn
  refine ⟨_, registerWrite_eq v hal (by decide) (by decide) hturn (by decide), ?_, ?_⟩
  · rw [hact, State.reg_setReg s 1 0 off _ (.inr hr), hrw, hw1c]
    rw [show ~~~(0xFFFFFFFF#32) = 0#32 from rfl, show (v &&& (0 : Word)) = 0#32 from BitVec.and_zero, show ~~~(0#32) = 0xFFFFFFFF#32 from rfl, BitVec.and_zero,
      BitVec.zero_or, word_and_ones, word_and_ones]
  · rw [hact]
    rfl

theorem windowStatus_write (vf : Nat) (hvf : vf < 256) :
    ∃ s', exec (.registerWrite 0 vf 12 v) s = .next s' ∧ s'.reg 0 vf 12 = s.reg 0 vf 12 &&& ~~~(v &&& 2#32) ∧ { s' with mon := s.mon } = s := by
  refine ⟨_, registerWrite_eq v (by decide) (by decide) hvf rfl (by decide), ?_, rfl⟩
  refine Eq.trans (State.reg_setReg s 0 vf 12 _ (.inr hr)) ?_
  rw [show rwMask 0 12 = 0#32 from rfl, show w1cMask 0 12 = 2#32 from rfl]
  simp only [BitVec.and_zero, BitVec.or_zero, word_and_ones, show ~~~(0#32) = 0xFFFFFFFF#32 from rfl]

theorem unfence_write (p : Nat) (hp : p < 1024) : ∃ s', exec (.registerWrite 3 p 12 1#32) s = .next s' ∧
    s'.peerState p = (if s.peerState p = 1 then 0 else s.peerState p) := by
  refine ⟨_, registerWrite_eq 1#32 (by decide) (by decide) hp rfl (by decide), ?_⟩
  generalize hnew : ((s.reg 3 p 12 &&& ~~~rwMask 3 12) ||| (1#32 &&& rwMask 3 12)) &&& ~~~(1#32 &&& w1cMask 3 12) = new
  have hrt := State.setReg_rising s 3 p 12 new hr
  have hst : (s.setReg 3 p 12 new).peerState p = s.peerState p := by
    unfold State.peerState
    rw [State.reg_setReg_off s new (by decide)]
  generalize s.setReg 3 p 12 new = t at hrt hst ⊢
  change (if 1#32 = 1#32 ∧ t.peerState p = 1 then t.setPeerState p 0 else t).peerState p = _
  rw [← hst]
  by_cases h1 : t.peerState p = 1
  · rw [if_pos ⟨rfl, h1⟩, if_pos h1]
    unfold State.setPeerState State.peerState
    rw [State.reg_setReg t 3 p 4 _ (.inr hrt), BitVec.toNat_ofNat]
    have hmake : t.peerMake p < 256 := Nat.mod_lt _ (by decide)
    omega
  · rw [if_neg (fun h => h1 h.2), if_neg h1]
end

/-- Settles O51: a gauge's words lie apart from another's; a sample's cycle ends with one record of its panel; what a register write does beside lies in
another word. -/
theorem monitorRegisters : Obligations.MonitorRegisters := by
  unfold Obligations.MonitorRegisters
  refine ⟨gaugeClear_clears, linkRetry_counts, fun s c pn r ho hone => ?_, fun s c pn x w e => ?_, fun s v hr =>
    ⟨healthControl_write v hr, healthWord_write v hr, windowStatus_write v hr, unfence_write hr⟩⟩
  · intro o cap head at_ hfull hhead
    obtain ⟨s', t, hx, hreg, hunwritten, hmem, hw⟩ := sampler_writes s c pn r ho hone hfull hhead
    refine ⟨s', hx, hreg, hunwritten, ?_⟩
    simp only [State.homeNat_of_mem hmem]
    exact SampleRec.fields hw
  · intro now hat hen hsam hroster hx hw hblk hlin he hclk after
    exact State.endCycles_samples hat hen hsam hx hw hblk hlin he hclk hroster

end Sys2Proof.Machine
end

section
/-! PROOFS. Launch records taken (spec/21 R300, R303, R308): O39. -/

namespace Sys2Proof.Machine
open Sys2Proof.Claims

/-! ## Parts of a mapped range -/

section
variable {s t : State} {vf va n pa : Nat} (hm : Mapped s vf va n pa)
include hm

theorem mapped_part {k m : Nat} (h : k + m ≤ n) : Mapped s vf (va + k) m (pa + k) := by
  refine ⟨fun i hi => ?_, fun mem hmem i hi wr => ?_⟩
  · rw [Nat.add_assoc]
    exact hm.1 (k + i) (by omega)
  · rw [Nat.add_assoc, Nat.add_assoc]
    refine hm.2 mem (fun x hx => hmem x ?_) (k + i) (by omega) wr
    unfold Apart at hx ⊢
    omega

/-- A range stays mapped, whatever its bytes become. -/
theorem mapped_kept (hmem : ∀ x, Apart x 1 pa n → readMem t.mem x = readMem s.mem x) (hmon : t.mon = s.mon) (htlb : t.tlb = s.tlb) (hfree : t.free = s.free) :
    Mapped t vf va n pa := by
  refine mapped_congr (s := { s with mem := t.mem }) rfl hmon htlb hfree ⟨hm.1, fun m hmm k hk wr => ?_⟩
  exact hm.2 m (fun x hx => (hmm x hx).trans (hmem x hx)) k hk wr
end

/-- Home bytes of a range have changed, and nothing else that the steps of the device read. -/
structure HomeChanged (s t : State) (pa n : Nat) : Prop where
  orderly : Orderly t
  mon : t.mon = s.mon
  tlb : t.tlb = s.tlb
  free : t.free = s.free
  launches : t.launches = s.launches
  comms : t.comms = s.comms
  ids : t.ids = s.ids
  clock : t.clock = s.clock
  beside : ∀ x, Apart x 1 pa n → readMem t.mem x = readMem s.mem x

theorem HomeChanged.refl {s : State} (h : Orderly s) (pa n : Nat) : HomeChanged s s pa n := ⟨h, rfl, rfl, rfl, rfl, rfl, rfl, rfl, fun _ _ => rfl⟩
theorem HomeChanged.trans {s t u : State} {pa n : Nat} (h : HomeChanged s t pa n) (h' : HomeChanged t u pa n) : HomeChanged s u pa n :=
  ⟨h'.orderly, h'.mon.trans h.mon, h'.tlb.trans h.tlb, h'.free.trans h.free, h'.launches.trans h.launches, h'.comms.trans h.comms, h'.ids.trans h.ids,
    h'.clock.trans h.clock, fun x hx => (h'.beside x hx).trans (h.beside x hx)⟩
theorem HomeWritten.changed {s t : State} {q pa n : Nat} {bs : List Byte} (h : HomeWritten s t q bs) (h1 : pa ≤ q) (h2 : q + bs.length ≤ pa + n) : HomeChanged s t pa n :=
  ⟨h.orderly, h.mon, h.tlb, h.free, h.launches, h.comms, h.ids, h.clock, fun x hx => h.beside (by unfold Apart at hx ⊢; omega)⟩
theorem HomeChanged.mapped {s t : State} {vf va pa n : Nat} (h : HomeChanged s t pa n) (hm : Mapped s vf va n pa) : Mapped t vf va n pa :=
  mapped_kept hm h.beside h.mon h.tlb h.free
theorem HomeChanged.nat_beside {s t : State} {pa n : Nat} (h : HomeChanged s t pa n) {q k : Nat} (hq : Apart pa n q k) : t.homeNat q k = s.homeNat q k :=
  homeNat_congr (fun i hi => h.beside _ (by unfold Apart at hq ⊢; omega))

/-! ## Completion records -/

section
variable {s : State} {vf va n pa : Nat} (hm : Mapped s vf va n pa) (ho : Orderly s)
include hm ho

/-- A number put into a mapped range. -/
theorem State.devPut_changed {k m : Nat} (h : k + m ≤ n) (v : Nat) :
    HomeChanged s (s.devPut vf (va + k) m v) pa n ∧ HomeWritten s (s.devPut vf (va + k) m v) (pa + k) (leBytes m v) := by
  have hw := State.devPut_written (mapped_part hm h) ho (le_refl m) v
  exact ⟨hw.changed (Nat.le_add_right ..) (by rw [leBytes_length]; omega), hw⟩
end

theorem HomeWritten.number {s t : State} {pa n v : Nat} (h : HomeWritten s t pa (leBytes n v)) : t.homeNat pa n = v % 2 ^ (8 * n) :=
  h.field (pre := []) (post := []) (k := 0) (List.append_nil _).symm rfl

section
variable {s : State} {vf q : Nat} {done : Dword} (hm : Mapped s vf done.toNat 40 q) (ho : Orderly s)
include hm ho

omit ho in
/-- The end of a completion record: its time, then its STATUS. -/
theorem State.doneRecord_closed {t : State} (h : HomeChanged s t q 40) {reason : Nat} (hr : t.homeNat (q + 4) 4 = reason % 2 ^ 32) (now status : Nat) :
    HomeChanged s ((t.devPut vf (done.toNat + 32) 8 now).devPut vf done.toNat 4 status) q 40 ∧
    ((t.devPut vf (done.toNat + 32) 8 now).devPut vf done.toNat 4 status).homeNat q 4 = status % 2 ^ 32 ∧
    ((t.devPut vf (done.toNat + 32) 8 now).devPut vf done.toNat 4 status).homeNat (q + 4) 4 = reason % 2 ^ 32 := by
  obtain ⟨h1, w1⟩ := State.devPut_changed (h.mapped hm) h.orderly (k := 32) (m := 8) (by decide) now
  generalize t.devPut vf (done.toNat + 32) 8 now = u at h1 w1 ⊢
  obtain ⟨h2, w2⟩ := State.devPut_changed (h1.mapped (h.mapped hm)) h1.orderly (k := 0) (m := 4) (by decide) status
  rw [Nat.add_zero, Nat.add_zero] at w2
  rw [Nat.add_zero] at h2
  exact ⟨(h.trans h1).trans h2, w2.number, by rw [w2.nat_beside (.inl (by rw [leBytes_length])), w1.nat_beside (.inr (by omega)), hr]⟩

/-- A completion record: its STATUS and its REASON. -/
theorem State.doneRecord_written (status reason cls : Nat) (code : Word) (xpc : Dword) (tstart : Option Nat) :
    HomeChanged s (s.doneRecord vf done status reason cls code xpc tstart) q 40 ∧
    (s.doneRecord vf done status reason cls code xpc tstart).homeNat q 4 = status % 2 ^ 32 ∧
    (s.doneRecord vf done status reason cls code xpc tstart).homeNat (q + 4) 4 = reason % 2 ^ 32 := by
  unfold State.doneRecord
  dsimp only
  obtain ⟨h1, w1⟩ := State.devPut_changed hm ho (k := 4) (m := 4) (by decide) reason
  generalize s.devPut vf (done.toNat + 4) 4 reason = t1 at h1 w1 ⊢
  obtain ⟨h2, w2⟩ := State.devPut_changed (h1.mapped hm) h1.orderly (k := 8) (m := 4) (by decide) cls
  generalize t1.devPut vf (done.toNat + 8) 4 cls = t2 at h2 w2 ⊢
  replace h2 := h1.trans h2
  obtain ⟨h3, w3⟩ := State.devPut_changed (h2.mapped hm) h2.orderly (k := 12) (m := 4) (by decide) code.toNat
  generalize t2.devPut vf (done.toNat + 12) 4 code.toNat = t3 at h3 w3 ⊢
  replace h3 := h2.trans h3
  obtain ⟨h4, w4⟩ := State.devPut_changed (h3.mapped hm) h3.orderly (k := 16) (m := 8) (by decide) xpc.toNat
  generalize t3.devPut vf (done.toNat + 16) 8 xpc.toNat = t4 at h4 w4 ⊢
  replace h4 := h3.trans h4
  have hreason : t4.homeNat (q + 4) 4 = reason % 2 ^ 32 := by
    rw [w4.nat_beside (.inr (by omega)), w3.nat_beside (.inr (by omega)), w2.nat_beside (.inr (by omega)), w1.number]
  cases tstart with
  | none => exact State.doneRecord_closed hm h4 hreason s.clock.now status
  | some n =>
    obtain ⟨h5, w5⟩ := State.devPut_changed (h4.mapped hm) h4.orderly (k := 24) (m := 8) (by decide) n
    exact State.doneRecord_closed hm (h4.trans h5) (by rw [w5.nat_beside (.inr (by omega)), hreason]) s.clock.now status
end

/-! ## Leases -/

/-- What granting leases, or making room for them, changes: what is resident, the translations held, the numbers given out. -/
structure OnlyLeases (s t : State) : Prop where
  rest : { t with ids := s.ids, residents := s.residents, tlb := s.tlb } = s

theorem OnlyLeases.refl (s : State) : OnlyLeases s s := ⟨rfl⟩
theorem OnlyLeases.trans {s t u : State} (h : OnlyLeases s t) (h' : OnlyLeases t u) : OnlyLeases s u :=
  ⟨(congrArg (fun x : State => { x with
    ids := s.ids, residents := s.residents, tlb := s.tlb }) h'.rest :).trans h.rest⟩
theorem OnlyLeases.moved {s t : State} (h : OnlyLeases s t) : t.moved = s.moved := (congrArg State.moved h.rest :)
theorem OnlyLeases.launches {s t : State} (h : OnlyLeases s t) : t.launches = s.launches := (congrArg State.launches h.rest :)
theorem OnlyLeases.mem {s t : State} (h : OnlyLeases s t) : t.mem = s.mem := (congrArg State.mem h.rest :)
theorem OnlyLeases.comms {s t : State} (h : OnlyLeases s t) : t.comms = s.comms := (congrArg State.comms h.rest :)

theorem OnlyLeases.holdTranslation (s : State) (core vf va : Nat) : OnlyLeases s (s.holdTranslation core vf va) := by
  unfold State.holdTranslation
  split
  · exact OnlyLeases.refl s
  · dsimp only
    split <;> exact ⟨rfl⟩

theorem State.bringBack_nothing {s : State} (h : s.moved = []) (vf : Nat) (r : Range) : s.bringBack vf r = s := by
  unfold State.bringBack
  dsimp only
  rw [h, List.filter_nil, List.foldl_nil, h]
  exact congrArg (fun m => { s with moved := m }) h.symm

/-- A lease, with nothing away from device memory. -/
theorem OnlyLeases.lease1 {s : State} (h : s.moved = []) (vf : Nat) (r : Range) : OnlyLeases s (s.lease1 vf r) := by
  unfold State.lease1
  dsimp only
  rw [State.bringBack_nothing (by exact h)]
  generalize hu : ({ s with
    ids := s.ids + 1 + s.residents.length
    residents := _ } : State) = u
  have h0 : OnlyLeases s u := by rw [← hu]; exact ⟨rfl⟩
  have h1 : OnlyLeases s ((u.rangePages vf r).foldl (fun t p => t.holdTranslation 192 vf p.1) u) :=
    List.foldlRecOn (motive := OnlyLeases s) _ _ h0 (fun t ht p _ => ht.trans (OnlyLeases.holdTranslation ..))
  split
  · exact h1
  · exact h1.trans ⟨rfl⟩

theorem OnlyLeases.evictFor (vf : Nat) (rs : List Range) (up : List (List Range)) : ∀ (fuel : Nat) (s : State), OnlyLeases s (s.evictFor vf rs up fuel) := by
  intro fuel
  induction fuel with
  | zero => exact fun s => OnlyLeases.refl s
  | succ fuel ih =>
    intro s
    unfold State.evictFor
    dsimp only
    split
    · exact OnlyLeases.refl s
    · split
      · exact OnlyLeases.refl s
      · refine OnlyLeases.trans ?_ (ih _)
        exact ⟨rfl⟩

theorem OnlyLeases.tryLease {s : State} (h : s.moved = []) (vf : Nat) (rs : List Range) : OnlyLeases s (s.tryLease vf rs).1 := by
  unfold State.tryLease
  split
  · exact OnlyLeases.refl s
  · split
    · exact List.foldlRecOn (motive := OnlyLeases s) _ _ (OnlyLeases.refl s) (fun t ht r _ => ht.trans (OnlyLeases.lease1 (ht.moved.trans h) vf r))
    · exact OnlyLeases.evictFor ..

/-- A launch whose leases are tried is there as before, but for whether they are granted. -/
theorem State.leaseLaunch_keeps {s : State} (h : s.moved = []) {l : Nat} {x : Launch} (hx : s.launch? l = some x) :
    (∃ b, (s.leaseLaunch l).launch? l = some { x with leased := b }) ∧ (s.leaseLaunch l).mem = s.mem ∧ (s.leaseLaunch l).comms = s.comms := by
  unfold State.leaseLaunch
  rw [hx]
  dsimp only
  split
  · exact ⟨⟨x.leased, hx⟩, rfl, rfl⟩
  · have ht := OnlyLeases.tryLease h x.vf x.prog.ranges
    generalize (s.tryLease x.vf x.prog.ranges).1 = t at ht ⊢
    have hlt : t.launch? l = some x := by rw [State.launch?, ht.launches]; exact hx
    split
    · refine ⟨⟨true, ?_⟩, ht.mem, ht.comms⟩
      have e : (t.onLaunch l (fun y => { y with leased := true })).launch? l = if l = l then (t.launch? l).map (fun y => { y with leased := true }) else t.launch? l := look_onKey ..
      rw [e, if_pos rfl, hlt]
      rfl
    · exact ⟨⟨x.leased, hlt⟩, ht.mem, ht.comms⟩

/-! ## LAUNCH_RECORD_TAKE -/

theorem State.closeIdle_none {s : State} (h : s.comms = []) : s.closeIdle = s := by
  unfold State.closeIdle
  rw [h]
  rfl

theorem State.placeReady_none {s : State} (h : s.submits = []) : s.placeReady = s := by
  unfold State.placeReady
  dsimp only
  rw [h, List.filter_nil, List.filter_nil, List.foldl_nil]
  exact congrArg (fun q => { s with submits := q }) h.symm

/-- A gauge that counts changes neither memory nor launches. -/
theorem State.gauge_keeps (s : State) (src inst : Nat) (vf : Option Nat) (v : Nat) :
    (s.gauge src inst vf v).mem = s.mem ∧ (s.gauge src inst vf v).launches = s.launches := by
  have e := State.gauge_rest (s := s) src inst vf v
  exact ⟨(congrArg State.mem e :), (congrArg State.launches e :)⟩

section
variable {s : State} {vf cls : Nat}

/-- The address of the record in the slot at HEAD. -/
def State.recordVa (s : State) (vf cls : Nat) : Nat :=
  s.devGet vf (s.queueVa vf cls) 8 + 256 * (s.devGet vf (s.queueVa vf cls + 16) 4 % max 1 (s.devGet vf (s.queueVa vf cls + 8) 4))
/-- Whether an older record of the queue has gangs to start. -/
def State.queueBusy (s : State) (vf cls : Nat) : Bool :=
  s.launches.any (fun p => p.2.vf == vf && p.2.prog.lrec.cls == cls && p.2.aborting.isNone && decide (p.2.status ≤ 1) &&
    decide (p.2.started < p.2.prog.lrec.gangs))
/-- HEAD advanced. -/
def State.headTaken (s : State) (vf cls : Nat) : State :=
  s.devPut vf (s.queueVa vf cls + 16) 4 ((s.devGet vf (s.queueVa vf cls + 16) 4 + 1) % 2 ^ 32)

theorem State.queueBusy_iff : s.queueBusy vf cls = true ↔
    ∃ p ∈ s.launches, p.2.vf = vf ∧ p.2.prog.lrec.cls = cls ∧ p.2.aborting = none ∧ p.2.status ≤ 1 ∧ p.2.started < p.2.prog.lrec.gangs := by
  simp [State.queueBusy, List.any_eq_true, and_assoc]

theorem exec_recordTake_left (h : s.served vf cls = false ∨ s.queueBusy vf cls = true ∨
    fld (s.vaBytes vf (s.recordVa vf cls) 256) 20 4 ≠ (s.devGet vf (s.queueVa vf cls + 16) 4 + 1) % 2 ^ 32) : exec (.launchRecordTake vf cls) s = .next s := by
  refine congrArg Host.Outcome.next (if_pos ?_)
  change (!s.served vf cls || s.queueBusy vf cls || fld (s.vaBytes vf (s.recordVa vf cls) 256) 20 4 != (s.devGet vf (s.queueVa vf cls + 16) 4 + 1) % 2 ^ 32) = true
  rcases h with h | h | h
  · simp [h]
  · simp [h]
  · rw [bne_iff_ne.mpr h, Bool.or_true]

theorem exec_recordTake_taken (h1 : s.served vf cls = true) (h2 : s.queueBusy vf cls = false)
    (h3 : fld (s.vaBytes vf (s.recordVa vf cls) 256) 20 4 = (s.devGet vf (s.queueVa vf cls + 16) 4 + 1) % 2 ^ 32) : ∃ since depth,
    exec (.launchRecordTake vf cls) s = .next ((((s.headTaken vf cls).placeReady.admitRecord since vf cls (s.recordVa vf cls)
      (s.vaBytes vf (s.recordVa vf cls) 256)).closeIdle).gauge 3 cls (some vf) depth) := by
  refine ⟨_, _, congrArg Host.Outcome.next (if_neg ?_)⟩
  change ¬(!s.served vf cls || s.queueBusy vf cls || fld (s.vaBytes vf (s.recordVa vf cls) 256) 20 4 != (s.devGet vf (s.queueVa vf cls + 16) 4 + 1) % 2 ^ 32) = true
  simp [h1, h2, h3]

/-- A record of another class is refused. -/
theorem State.admitRecord_refused (s : State) (since va : Nat) {vf cls : Nat} {bs : List Byte} (h : (recOfBytes bs).cls ≠ cls) :
    s.admitRecord since vf cls va bs = s.doneRecord vf (recOfBytes bs).done 3 1 0 0 0 none := if_pos h

/-- One that passes every step becomes a launch. -/
theorem State.admitRecord_admitted (s : State) (since : Nat) {vf cls va : Nat} {bs : List Byte} {p : Prog} {ts : List (Nat × Prog)} (h : (recOfBytes bs).cls = cls)
    (hp : s.readProg vf va bs = .ok p) (ht : s.readTemplates vf (recOfBytes bs) = .ok ts) (hc : (recOfBytes bs).cores = false) (hk : p.lrec.collective = false) :
    s.admitRecord since vf cls va bs =
      ({ s with ids := s.ids + 1, launches := insertAt s.launches s.ids (newLaunch s since s.ids vf p ts none) } : State).leaseLaunch s.ids := by
  have hcoll : s.readColl vf p = .ok (s, none) := by
    unfold State.readColl
    rw [hk]
    rfl
  unfold State.admitRecord
  dsimp only
  rw [if_neg (by rw [h]; exact fun e => e rfl), hp, ht]
  dsimp only
  rw [hc, hcoll]
  rfl

section
variable (hsub : s.submits = []) (h1 : s.served vf cls = true) (h2 : s.queueBusy vf cls = false)
  (h3 : fld (s.vaBytes vf (s.recordVa vf cls) 256) 20 4 = (s.devGet vf (s.queueVa vf cls + 16) 4 + 1) % 2 ^ 32) (ho : Orderly s) (hcomms : s.comms = [])
  {pa : Nat} (hm : Mapped s vf (s.queueVa vf cls + 16) 4 pa)
include hsub h1 h2 h3 ho hcomms hm

theorem recordTake_refuses {q : Nat} (hcls : (recOfBytes (s.vaBytes vf (s.recordVa vf cls) 256)).cls ≠ cls)
    (hq : Mapped (s.headTaken vf cls) vf (recOfBytes (s.vaBytes vf (s.recordVa vf cls) 256)).done.toNat 40 q) (hapart : Apart pa 4 q 40) :
    ∃ s', exec (.launchRecordTake vf cls) s = .next s' ∧ s'.homeNat pa 4 = (s.devGet vf (s.queueVa vf cls + 16) 4 + 1) % 2 ^ 32 ∧ s'.launches = s.launches ∧
      s'.homeNat q 4 = 3 ∧ s'.homeNat (q + 4) 4 = 1 := by
  obtain ⟨since, depth, hx⟩ := exec_recordTake_taken h1 h2 h3
  have hw := State.devPut_written hm ho (le_refl 4) ((s.devGet vf (s.queueVa vf cls + 16) 4 + 1) % 2 ^ 32)
  rw [show s.devPut vf (s.queueVa vf cls + 16) 4 ((s.devGet vf (s.queueVa vf cls + 16) 4 + 1) % 2 ^ 32) = s.headTaken vf cls from rfl] at hw
  generalize s.headTaken vf cls = t at hx hw hq
  rw [State.placeReady_none (hw.submits.trans hsub), State.admitRecord_refused _ _ _ hcls] at hx
  obtain ⟨hd, hstatus, hreason⟩ := State.doneRecord_written hq hw.orderly 3 1 0 0 0 none
  generalize t.doneRecord vf _ 3 1 0 0 0 none = u at hx hd hstatus hreason
  rw [State.closeIdle_none (hd.comms.trans (hw.comms.trans hcomms))] at hx
  obtain ⟨hmem, hlaunches⟩ := u.gauge_keeps 3 cls (some vf) depth
  refine ⟨_, hx, ?_, hlaunches.trans (hd.launches.trans hw.launches), ?_, ?_⟩
  · rw [State.homeNat_of_mem hmem, hd.nat_beside hapart.symm, hw.number, Nat.mod_mod]
  · rw [State.homeNat_of_mem hmem, hstatus]
    rfl
  · rw [State.homeNat_of_mem hmem, hreason]
    rfl

theorem recordTake_admits {p : Prog} {ts : List (Nat × Prog)} (hcls : (recOfBytes (s.vaBytes vf (s.recordVa vf cls) 256)).cls = cls)
    (hp : (s.headTaken vf cls).readProg vf (s.recordVa vf cls) (s.vaBytes vf (s.recordVa vf cls) 256) = .ok p)
    (ht : (s.headTaken vf cls).readTemplates vf (recOfBytes (s.vaBytes vf (s.recordVa vf cls) 256)) = .ok ts)
    (hc : (recOfBytes (s.vaBytes vf (s.recordVa vf cls) 256)).cores = false) (hk : p.lrec.collective = false) (hmoved : s.moved = []) :
    ∃ s' y, exec (.launchRecordTake vf cls) s = .next s' ∧ s'.homeNat pa 4 = (s.devGet vf (s.queueVa vf cls + 16) 4 + 1) % 2 ^ 32 ∧ s'.launch? s.ids = some y ∧
      y.vf = vf ∧ y.prog = p ∧ y.templates = ts ∧ y.status = 0 ∧ y.started = 0 ∧ y.live = 0 ∧ y.aborting = none := by
  obtain ⟨since, depth, hx⟩ := exec_recordTake_taken h1 h2 h3
  have hw := State.devPut_written hm ho (le_refl 4) ((s.devGet vf (s.queueVa vf cls + 16) 4 + 1) % 2 ^ 32)
  rw [show s.devPut vf (s.queueVa vf cls + 16) 4 ((s.devGet vf (s.queueVa vf cls + 16) 4 + 1) % 2 ^ 32) = s.headTaken vf cls from rfl] at hw
  generalize s.headTaken vf cls = t at hx hw hp ht
  rw [State.placeReady_none (hw.submits.trans hsub), State.admitRecord_admitted t since hcls hp ht hc hk, hw.ids] at hx
  have hmt : t.moved = [] := (congrArg State.moved hw.frame :).trans hmoved
  have hct : t.comms = [] := hw.comms.trans hcomms
  have hnum := hw.number
  generalize hy : newLaunch t since s.ids vf p ts none = y at hx
  generalize hv : ({ t with ids := s.ids + 1, launches := insertAt t.launches s.ids y } : State) = v at hx
  have hvl : v.launch? s.ids = some y := by rw [← hv]; exact look_insertAt_same ..
  obtain ⟨⟨b, hb⟩, hmem, hcv⟩ := State.leaseLaunch_keeps (s := v) (by rw [← hv]; exact hmt) hvl
  generalize v.leaseLaunch s.ids = u at hx hb hmem hcv
  rw [State.closeIdle_none (hcv.trans (by rw [← hv]; exact hct))] at hx
  obtain ⟨hmemg, hlaunches⟩ := u.gauge_keeps 3 cls (some vf) depth
  refine ⟨_, { y with leased := b }, hx, ?_, ?_, ?_⟩
  · rw [State.homeNat_of_mem hmemg, State.homeNat_of_mem hmem, ← hv, ← Nat.mod_mod, ← hnum]
    rfl
  · rw [State.launch?, hlaunches]
    exact hb
  · rw [← hy]
    exact ⟨rfl, rfl, rfl, rfl, rfl, rfl, rfl⟩
end
end

/-- Settles O39: HEAD advances first; the record is then refused, its completion record written, or becomes a launch whose leases are tried at once. -/
theorem recordsTaken : Obligations.RecordsTaken := by
  unfold Obligations.RecordsTaken
  intro s vf cls pa hsub dv head va bs r busy s1
  refine ⟨fun h => exec_recordTake_left ?_, fun h1 h2 h3 ho hcomms hm => ⟨fun q hcls hq hapart => ?_, fun p ts hcls hp ht hc hk hmoved => ?_⟩⟩
  · exact h.imp_right (fun h => h.imp_left State.queueBusy_iff.mpr)
  · exact recordTake_refuses hsub h1 (Bool.eq_false_iff.mpr (fun e => h2 (State.queueBusy_iff.mp e))) h3 ho hcomms hm hcls hq hapart
  · exact recordTake_admits hsub h1 (Bool.eq_false_iff.mpr (fun e => h2 (State.queueBusy_iff.mp e))) h3 ho hcomms hm hcls hp ht hc hk hmoved

end Sys2Proof.Machine
end

section
/-! PROOFS. Gangs started (spec/21 R304, R306, R311 to R313): O40. -/

namespace Sys2Proof.Machine
open Sys2Proof.Claims

/-! ## What keeps launches, gangs and the places of blocks -/

/-- Launches are the same; every gang and every block is there, as it was but for what is written. -/
structure KeepsRun (s t : State) : Prop where
  launches : t.launches = s.launches
  gang : ∀ k g, s.gang? k = some g → ∃ g', t.gang? k = some g' ∧ SameGang g g'
  block : ∀ k b, s.block? k = some b → ∃ b', t.block? k = some b' ∧ b'.gang = b.gang ∧ b'.index = b.index ∧ b'.core = b.core

theorem KeepsRun.of_same {s t : State} (hl : t.launches = s.launches) (hg : t.gangs = s.gangs) (hb : t.blocks = s.blocks) : KeepsRun s t :=
  ⟨hl, fun k g h => ⟨g, by rw [State.gang?, hg]; exact h, rfl⟩, fun k b h => ⟨b, by rw [State.block?, hb]; exact h, rfl, rfl, rfl⟩⟩
theorem KeepsRun.of_places {s t : State} (h : OnlyPlaces s t) : KeepsRun s t :=
  ⟨h.launches, h.gang, fun k b hb => ⟨b, by rw [State.block?, h.blocks]; exact hb, rfl, rfl, rfl⟩⟩
theorem KeepsRun.refl (s : State) : KeepsRun s s := KeepsRun.of_same rfl rfl rfl
theorem KeepsRun.trans {s t u : State} (h : KeepsRun s t) (h' : KeepsRun t u) : KeepsRun s u where
  launches := h'.launches.trans h.launches
  gang := fun k g hg => by
    obtain ⟨g1, h1, e1⟩ := h.gang k g hg
    obtain ⟨g2, h2, e2⟩ := h'.gang k g1 h1
    exact ⟨g2, h2, e1.trans e2⟩
  block := fun k b hb => by
    obtain ⟨b1, h1, hg1, hi1, hc1⟩ := h.block k b hb
    obtain ⟨b2, h2, hg2, hi2, hc2⟩ := h'.block k b1 h1
    exact ⟨b2, h2, hg2.trans hg1, hi2.trans hi1, hc2.trans hc1⟩
theorem KeepsRun.foldl {α : Type} {f : State → α → State} (hf : ∀ t x, KeepsRun t (f t x)) (l : List α) (s : State) : KeepsRun s (l.foldl f s) :=
  List.foldlRecOn (motive := KeepsRun s) l f (KeepsRun.refl s) (fun _ ht x _ => ht.trans (hf _ x))

section
variable (s : State)

theorem KeepsRun.homeWriteBytes (gang : Option Nat) (bs : List Byte) : ∀ (s : State) (pa : Nat), KeepsRun s (s.homeWriteBytes gang pa bs) := by
  induction bs with
  | nil => exact fun s _ => KeepsRun.refl s
  | cons b rest ih =>
    intro s pa
    refine KeepsRun.trans ?_ ((KeepsRun.of_places (OnlyPlaces.homeWrite { s with stamp := s.stamp + 1 } gang pa b (s.stamp + 1))).trans
      ((KeepsRun.of_places (OnlyPlaces.bind ..)).trans (ih ..)))
    exact KeepsRun.of_same rfl rfl rfl

theorem KeepsRun.sendDirty (who : Issuer) (join : Bool) (p : Nat → Bool) : KeepsRun s (s.sendDirty who join p).1 := KeepsRun.of_same rfl rfl rfl

theorem KeepsRun.devStore (vf pa : Nat) (bs : List Byte) : KeepsRun s (s.devStore vf pa bs) := by
  have hput : KeepsRun s ((s.homeWriteBytes none pa bs).setOwner vf ((List.range bs.length).map (fun i => pa + i))) :=
    (KeepsRun.homeWriteBytes none bs s pa).trans (KeepsRun.of_same rfl rfl rfl)
  unfold State.devStore
  dsimp only
  split
  · exact hput.trans (KeepsRun.sendDirty ..)
  · exact hput

theorem KeepsRun.devWriteLong (vf fuel : Nat) : ∀ (s : State) (va : Nat) (bs : List Byte), KeepsRun s (s.devWriteLong vf fuel va bs) := by
  induction fuel with
  | zero => exact fun s _ _ => KeepsRun.refl s
  | succ n ih =>
    intro s va bs
    unfold State.devWriteLong
    dsimp only
    split
    · exact KeepsRun.refl s
    · refine KeepsRun.trans ?_ (ih ..)
      split
      · exact KeepsRun.refl s
      · exact KeepsRun.devStore ..

theorem KeepsRun.devWrite (vf va : Nat) (bs : List Byte) : KeepsRun s (s.devWrite vf va bs) := KeepsRun.devWriteLong ..

theorem KeepsRun.refresh (c sc : Nat) (hasGang : Bool) : KeepsRun s (s.refresh c sc hasGang) := by
  unfold State.refresh
  split
  · exact KeepsRun.refl s
  · dsimp only
    split <;> exact KeepsRun.of_same rfl rfl rfl

theorem KeepsRun.padWrite (b off : Nat) (bs : List Byte) : KeepsRun s (s.padWrite b off bs) := by
  have e := State.padWrite_rest b bs s off
  refine ⟨(congrArg State.launches e :), fun k g h => ⟨g, ?_, rfl⟩, fun k x h => ?_⟩
  · rw [State.gang?, show (s.padWrite b off bs).gangs = s.gangs from (congrArg State.gangs e :)]
    exact h
  · rw [State.padWrite_block, h, Option.map_some]
    refine ⟨_, rfl, ?_⟩
    split <;> exact ⟨rfl, rfl, rfl⟩

theorem KeepsRun.setBarrier (pl : Place) (n z : Word) : KeepsRun s (s.setBarrier pl n z) := by
  cases pl with
  | phys _ => exact KeepsRun.refl s
  | pad b off => exact KeepsRun.padWrite ..

theorem KeepsRun.blockReady (l : Launch) (tmpl : Nat) (r : LaunchRec) (b : Block) (wlin : Nat) : KeepsRun s (s.blockReady l tmpl r b wlin) := by
  have h1 := KeepsRun.refresh s b.core 3 true
  unfold State.blockReady
  dsimp only
  split
  · split
    · split
      · exact h1.trans (KeepsRun.setBarrier ..)
      · exact h1
    · exact h1
  · exact h1
end

theorem KeepsRun.devPut (s : State) (vf va n v : Nat) : KeepsRun s (s.devPut vf va n v) := KeepsRun.devWrite ..

/-! ## Waves placed -/

/-- Nothing is different but waves. -/
def WavesOnly (s t : State) : Prop := ∃ ws, t = { s with waves := ws }

theorem WavesOnly.trans {s t u : State} (h : WavesOnly s t) (h' : WavesOnly t u) : WavesOnly s u := by
  obtain ⟨ws, rfl⟩ := h
  obtain ⟨vs, rfl⟩ := h'
  exact ⟨vs, rfl⟩

theorem State.makeRoom_waves (c pn need : Nat) (may : State → Wave → Bool) : ∀ (fuel : Nat) (s : State), WavesOnly s (s.makeRoom c pn need may fuel) := by
  intro fuel
  induction fuel with
  | zero => exact fun s => ⟨s.waves, rfl⟩
  | succ fuel ih =>
    intro s
    unfold State.makeRoom
    split
    · exact ⟨s.waves, rfl⟩
    · dsimp only
      split
      · exact ⟨s.waves, rfl⟩
      · exact WavesOnly.trans ⟨_, rfl⟩ (ih _)

theorem WavesOnly.ite {s t u : State} {c : Prop} [Decidable c] (ht : WavesOnly s t) (hu : WavesOnly s u) : WavesOnly s (if c then t else u) := by
  split <;> [exact ht; exact hu]

theorem State.addWave_waves {s t : State} {w : Wave} {pn : Nat} {lined starting : Bool} (h : s.addWave w pn lined starting = some t) : WavesOnly s t := by
  unfold State.addWave at h
  dsimp only at h
  generalize (if lined = true then 2 else 1 : Nat) = need at h
  split at h
  next a rest _ _ =>
    by_cases hn : rest.length + 1 ≠ need
    · rw [if_pos hn] at h
      exact nomatch h
    · rw [if_neg hn] at h
      cases starting with
      | false =>
        rw [Bool.not_false, if_pos rfl] at h
        obtain rfl := Option.some.inj h
        exact ⟨_, rfl⟩
      | true =>
        rw [Bool.not_true, if_neg Bool.false_ne_true] at h
        obtain rfl := Option.some.inj h
        have hroom : ∀ (ws : List Wave) (c : Prop) [Decidable c] (may : State → Wave → Bool), WavesOnly s (if c then ({ s with waves := ws } : State).makeRoom w.core pn need may 8
            else { s with waves := ws }) := fun ws c _ may => WavesOnly.ite (WavesOnly.trans ⟨ws, rfl⟩ (State.makeRoom_waves ..)) ⟨ws, rfl⟩
        exact WavesOnly.ite (WavesOnly.trans (hroom ..) ⟨_, rfl⟩) (WavesOnly.trans (hroom ..) ⟨_, rfl⟩)
  next => exact nomatch h

/-- Steps numbered in a row, each of which may fail: what holds at first and is kept by each holds of what they end in. -/
theorem foldl_range_some {f : Option State → Nat → Option State} (hnone : ∀ i, f none i = none) {P : Nat → State → Prop} {u : State} (hu : P 0 u)
    (hstep : ∀ i v t, P i v → f (some v) i = some t → P (i + 1) t) : ∀ (n : Nat) (t : State), (List.range n).foldl f (some u) = some t → P n t := by
  intro n
  induction n with
  | zero =>
    intro t ht
    obtain rfl := Option.some.inj ht
    exact hu
  | succ n ih =>
    intro t ht
    rw [List.range_succ, List.foldl_append, List.foldl_cons, List.foldl_nil] at ht
    cases hv : (List.range n).foldl f (some u) with
    | none =>
      rw [hv, hnone] at ht
      exact nomatch ht
    | some v =>
      rw [hv] at ht
      exact hstep n v t (ih v hv) ht

/-- A block placed: it is listed under its number, and nothing else is different but waves and the numbers given out. -/
theorem State.addBlock_some {s t : State} {vf : Nat} {zero : Bool} {r : LaunchRec} {b : Block} {rot : Nat} {ws : List Wave} {starting : Bool}
    (h : s.addBlock vf zero r b rot ws starting = some t) :
    ∃ sb, WavesOnly { s with ids := s.ids + 1, blocks := insertAt s.blocks b.id { b with sbase := sb } } t := by
  unfold State.addBlock at h
  split at h
  · exact nomatch h
  · dsimp only at h
    refine ⟨2 ^ 25 * ((Config.apertureBase + s.ids) % 2 ^ 31), ?_⟩
    generalize ({ s with ids := s.ids + 1, blocks := insertAt s.blocks b.id { b with sbase := 2 ^ 25 * ((Config.apertureBase + s.ids) % 2 ^ 31) } } : State) = s1 at h ⊢
    refine foldl_range_some (P := fun _ u => WavesOnly s1 u) ?_ ⟨s1.waves, rfl⟩ ?_ _ t h
    · exact fun i => rfl
    · intro i u t hu ht
      cases hw : ws[i]? with
      | none =>
        rw [hw] at ht
        exact nomatch ht
      | some w =>
        rw [hw] at ht
        exact hu.trans (State.addWave_waves ht)

/-! ## The blocks of a gang -/

/-- The first `n` blocks of a gang are listed on the cores of their places; launches and gangs are the same. -/
structure Placing (s : State) (gang : Nat) (place : List Nat) (n : Nat) (t : State) : Prop where
  launches : t.launches = s.launches
  gangs : t.gangs = s.gangs
  blocks : ∀ i < n, ∃ k b, k ≤ t.ids ∧ t.block? k = some b ∧ b.gang = gang ∧ b.index = i ∧ place[i]?.map (fun e => e / 4) = some b.core

theorem State.addBlocks_some {s t : State} {l : Launch} {p : Prog} {gang gi : Nat} {args : List Word} {place : List Nat}
    (h : s.addBlocks l p gang gi args place = some t) : Placing s gang place p.lrec.blocksPerGang t := by
  unfold State.addBlocks at h
  refine foldl_range_some (P := fun n u => Placing s gang place n u) ?_ ⟨rfl, rfl, fun i hi => absurd hi (Nat.not_lt_zero i)⟩ ?_ _ t h
  · exact fun i => rfl
  · intro i u t hu ht
    cases he : place[i]? with
    | none =>
      rw [he] at ht
      exact nomatch ht
    | some e =>
      rw [he] at ht
      dsimp only at ht
      obtain ⟨sb, ws, rfl⟩ := State.addBlock_some ht
      refine ⟨hu.launches, hu.gangs, fun j hj => ?_⟩
      by_cases hji : j = i
      · subst hji
        exact ⟨u.ids + 1, _, Nat.le_succ _, look_insertAt_same .., rfl, rfl, by rw [he]; rfl⟩
      · obtain ⟨k, b, hk, hb, hrest⟩ := hu.blocks j (by omega)
        refine ⟨k, b, by exact Nat.le_trans hk (by exact Nat.le_add_right _ 2), ?_, hrest⟩
        exact (look_insertAt_ne _ _ (by exact Nat.ne_of_lt (Nat.lt_succ_of_le hk))).trans hb

/-! ## A gang started -/

/-- A gang of a launch has started. -/
structure GangStarted (s : State) (x : Launch) (tmpl gi : Nat) (args : List Word) (edge : Option Nat) (place : List Nat) (t : State) : Prop where
  gang : ∃ g, t.gang? s.ids = some g ∧ g.launch = x.id ∧ g.tmpl = tmpl ∧ g.index = gi ∧ g.args = args
  launch : ∃ y, t.launch? x.id = some y ∧ y.live = x.live + 1 ∧ y.status = 1 ∧ y.started = x.started + (if tmpl = 0 then 1 else 0) ∧
    ∀ e, edge = some e → e ∈ y.consumers
  blocks : ∀ i < (x.progOf tmpl).lrec.blocksPerGang, ∃ k b, t.block? k = some b ∧ b.gang = s.ids ∧ b.index = i ∧ place[i]?.map (fun e => e / 4) = some b.core

section
variable {s t u : State} {x : Launch} {tmpl gi : Nat} {args : List Word} {edge : Option Nat} {place : List Nat}

/-- A started gang after a change of its launch that keeps what it counts. -/
theorem GangStarted.onLaunch (h : GangStarted s x tmpl gi args edge place t) (l : Nat) {f : Launch → Launch}
    (hf : ∀ y, (f y).live = y.live ∧ (f y).status = y.status ∧ (f y).started = y.started ∧ (f y).consumers = y.consumers) :
    GangStarted s x tmpl gi args edge place (t.onLaunch l f) := by
  refine ⟨h.gang, ?_, h.blocks⟩
  obtain ⟨y, hy, hlive, hstatus, hstarted, hcons⟩ := h.launch
  have e : (t.onLaunch l f).launch? x.id = if x.id = l then (t.launch? l).map f else t.launch? x.id := look_onKey ..
  by_cases hl : x.id = l
  · subst hl
    rw [if_pos rfl, hy] at e
    obtain ⟨h1, h2, h3, h4⟩ := hf y
    exact ⟨f y, e, h1.trans hlive, h2.trans hstatus, h3.trans hstarted, by rw [h4]; exact hcons⟩
  · rw [if_neg hl] at e
    exact ⟨y, e.trans hy, hlive, hstatus, hstarted, hcons⟩

/-- The same after anything that keeps launches, gangs and the places of blocks. -/
theorem GangStarted.keep (h : GangStarted s x tmpl gi args edge place t) (hk : KeepsRun t u) : GangStarted s x tmpl gi args edge place u := by
  refine ⟨?_, ?_, fun i hi => ?_⟩
  · obtain ⟨g, hg, h1, h2, h3, h4⟩ := h.gang
    obtain ⟨g', hg', e⟩ := hk.gang _ g hg
    exact ⟨g', hg', (congrArg Gang.launch e :).trans h1, (congrArg Gang.tmpl e :).trans h2, (congrArg Gang.index e :).trans h3, (congrArg Gang.args e :).trans h4⟩
  · obtain ⟨y, hy, hrest⟩ := h.launch
    exact ⟨y, by rw [State.launch?, hk.launches]; exact hy, hrest⟩
  · obtain ⟨k, b, hb, hg, hix, hc⟩ := h.blocks i hi
    obtain ⟨b', hb', hg', hi', hc'⟩ := hk.block k b hb
    exact ⟨k, b', hb', hg'.trans hg, hi'.trans hix, by rw [hc']; exact hc⟩

/-- The launch and the gang of a start, before its blocks are placed. -/
structure GangNew (s : State) (x : Launch) (tmpl gi : Nat) (args : List Word) (edge : Option Nat) (u : State) : Prop where
  gang : ∃ g, u.gang? s.ids = some g ∧ g.launch = x.id ∧ g.tmpl = tmpl ∧ g.index = gi ∧ g.args = args
  launch : ∃ y, u.launch? x.id = some y ∧ y.live = x.live + 1 ∧ y.status = x.status ∧ y.started = x.started + (if tmpl = 0 then 1 else 0) ∧
    ∀ e, edge = some e → e ∈ y.consumers

theorem GangNew.keep (h : GangNew s x tmpl gi args edge t) (hk : KeepsRun t u) : GangNew s x tmpl gi args edge u := by
  refine ⟨?_, ?_⟩
  · obtain ⟨g, hg, h1, h2, h3, h4⟩ := h.gang
    obtain ⟨g', hg', e⟩ := hk.gang _ g hg
    exact ⟨g', hg', (congrArg Gang.launch e :).trans h1, (congrArg Gang.tmpl e :).trans h2, (congrArg Gang.index e :).trans h3, (congrArg Gang.args e :).trans h4⟩
  · obtain ⟨y, hy, hrest⟩ := h.launch
    exact ⟨y, by rw [State.launch?, hk.launches]; exact hy, hrest⟩

theorem State.newGang_new (hx : s.launch? x.id = some x) {tr : Nat} {f : Launch → Launch} {h : Gang → Gang}
    (hf : (f x).live = x.live + 1 ∧ (f x).status = x.status ∧ (f x).started = (if tmpl = 0 then x.started + 1 else x.started) ∧
      ∀ e, edge = some e → e ∈ (f x).consumers)
    (hh : ∀ g, (h g).launch = g.launch ∧ (h g).tmpl = g.tmpl ∧ (h g).index = g.index ∧ (h g).args = g.args) :
    GangNew s x tmpl gi args edge (((s.newGang x tmpl gi args edge tr).onLaunch x.id f).onGang s.ids h) := by
  obtain ⟨h1, h2, h3, h4⟩ := hf
  refine ⟨?_, f x, ?_, h1, h2, ?_, h4⟩
  · have e : (((s.newGang x tmpl gi args edge tr).onLaunch x.id f).onGang s.ids h).gang? s.ids =
        if s.ids = s.ids then ((s.newGang x tmpl gi args edge tr).gang? s.ids).map h else (s.newGang x tmpl gi args edge tr).gang? s.ids := look_onKey ..
    have hg : (s.newGang x tmpl gi args edge tr).gang? s.ids = some _ := look_insertAt_same ..
    rw [if_pos rfl, hg, Option.map_some] at e
    obtain ⟨g1, g2, g3, g4⟩ := hh _
    exact ⟨_, e, g1, g2, g3, g4⟩
  · have e : (((s.newGang x tmpl gi args edge tr).onLaunch x.id f).onGang s.ids h).launch? x.id =
        if x.id = x.id then (s.launch? x.id).map f else s.launch? x.id := look_onKey ..
    rw [if_pos rfl, hx] at e
    exact e
  · rw [h3]
    by_cases ht : tmpl = 0
    · rw [if_pos ht, if_pos ht]
    · rw [if_neg ht, if_neg ht, Nat.add_zero]

theorem KeepsRun.writeTask (s : State) (vf : Nat) (p : Prog) (g : Gang) (n : Nat) : KeepsRun s (s.writeTask vf p g n) := KeepsRun.devWrite ..

theorem KeepsRun.writeTasks (s : State) (id vf : Nat) (p : Prog) : KeepsRun s (match s.gang? id with
    | some g => s.writeTask vf p g 0
    | none => s) := by
  cases s.gang? id with
  | none => exact KeepsRun.refl s
  | some g => exact KeepsRun.writeTask ..

/-- The last of a start: the status of a launch whose first gang it is. -/
theorem GangStarted.status (hn : GangNew s x tmpl gi args edge t)
    (hb : ∀ i < (x.progOf tmpl).lrec.blocksPerGang, ∃ k b, t.block? k = some b ∧ b.gang = s.ids ∧ b.index = i ∧ place[i]?.map (fun e => e / 4) = some b.core)
    (hst : x.status ≤ 1) (va : Nat) :
    GangStarted s x tmpl gi args edge place (if x.status = 0 then (t.devPut x.vf va 4 1).onLaunch x.id (fun y => { y with status := 1 }) else t) := by
  obtain ⟨y, hy, hlive, hstatus, hstarted, hcons⟩ := hn.launch
  by_cases h0 : x.status = 0
  · rw [if_pos h0]
    have hk := KeepsRun.devPut t x.vf va 4 1
    generalize t.devPut x.vf va 4 1 = u at hk ⊢
    refine ⟨(hn.keep hk).gang, ⟨{ y with status := 1 }, ?_, hlive, rfl, hstarted, hcons⟩, fun i hi => ?_⟩
    · have e : (u.onLaunch x.id (fun y => { y with status := 1 })).launch? x.id =
          if x.id = x.id then (u.launch? x.id).map (fun y => { y with status := 1 }) else u.launch? x.id := look_onKey ..
      rw [if_pos rfl, show u.launch? x.id = some y by rw [State.launch?, hk.launches]; exact hy] at e
      exact e
    · obtain ⟨k, b, hb, hg, hix, hc⟩ := hb i hi
      obtain ⟨b', hb', hg', hi', hc'⟩ := hk.block k b hb
      exact ⟨k, b', hb', hg'.trans hg, hi'.trans hix, by rw [hc']; exact hc⟩
  · rw [if_neg h0]
    exact ⟨hn.gang, ⟨y, hy, hlive, by omega, hstarted, hcons⟩, hb⟩

theorem State.startGang_some (hx : s.launch? x.id = some x) (hst : x.status ≤ 1) (h : s.startGang x tmpl gi args edge place = some t) :
    GangStarted s x tmpl gi args edge place t := by
  unfold State.startGang at h
  dsimp only at h
  split at h
  next tr _ _ =>
    generalize hu : (((s.newGang x tmpl gi args edge tr).onLaunch x.id _).onGang s.ids _ : State) = u at h
    have h1 : GangNew s x tmpl gi args edge u := by
      rw [← hu]
      refine State.newGang_new hx ⟨rfl, rfl, rfl, fun e he => ?_⟩ (fun g => ⟨rfl, rfl, rfl, rfl⟩)
      subst he
      exact List.mem_cons_self ..
    split at h
    next => exact nomatch h
    next s2 hs2 =>
      have hp := State.addBlocks_some hs2
      have h2 : GangNew s x tmpl gi args edge s2 :=
        ⟨by rw [State.gang?, hp.gangs]; exact h1.gang, by rw [State.launch?, hp.launches]; exact h1.launch⟩
      generalize hs3 : (s2.blocksOf s.ids).foldl _ s2 = s3 at h
      have hk3 : KeepsRun s2 s3 := by
        rw [← hs3]
        exact KeepsRun.foldl (fun _ _ => KeepsRun.blockReady ..) _ _
      have hk := hk3.trans (KeepsRun.writeTasks s3 s.ids x.vf (x.progOf tmpl))
      obtain rfl := Option.some.inj h
      refine GangStarted.status (h2.keep hk) (fun i hi => ?_) hst _
      obtain ⟨k, b, _, hb, hg, hix, hc⟩ := hp.blocks i hi
      obtain ⟨b', hb', hg', hi', hc'⟩ := hk.block k b hb
      exact ⟨k, b', hb', hg'.trans hg, hi'.trans hix, by rw [hc']; exact hc⟩
  next => exact nomatch h
end

/-! ## The work that starts a gang -/

section
variable {s : State} {l : Nat} {x : Launch}

theorem State.leaseLaunch_granted (hx : s.launch? l = some x) (h : x.leased = true) : s.leaseLaunch l = s := by
  unfold State.leaseLaunch
  rw [hx]
  dsimp only
  rw [h, Bool.true_or, if_pos rfl]

theorem State.leaseTemplate_granted (hx : s.launch? l = some x) {k : Nat} (h : x.tleased.elem k = true) : s.leaseTemplate l k = s := by
  unfold State.leaseTemplate
  rw [hx]
  dsimp only
  cases look x.templates k with
  | none => rfl
  | some p => exact if_pos h

theorem State.startTask_found {k : Nat} {args : List Word} {edge only : Option Nat} {place : List Nat} (ho : x.open_ = true) (hl : x.leased = true)
    (hk : x.tleased.elem k = true) (hp : s.findPlace x (k + 1) only = some place) :
    s.startTask x k args edge only = s.startGang x (k + 1) 0 args edge place := by
  unfold State.startTask
  rw [ho, hl, hk, hp]
  rfl

theorem execGangStart_first {gi : Nat} {place : List Nat} (hx : s.launch? l = some x) (hl : x.leased = true) (ho : x.toStart = true)
    (hg : x.started = gi) (hn : s.isNext x .gang = true) (hc : x.prog.lrec.cores = false) :
    exec (.gangStart l gi place) s = .next ((s.startGang x 0 gi [] none place).getD s) := by
  have e : exec (.gangStart l gi place) s = execGangStart l gi place s := rfl
  rw [e, execGangStart, State.leaseLaunch_granted hx hl, hx]
  dsimp only
  rw [ho, hl, hn, beq_iff_eq.mpr hg, hc]
  rfl

theorem execSpawnEntryTake_first {k : Nat} {place : List Nat} {t : State} (hx : s.launch? l = some x) (ho : x.open_ = true) (hl : x.leased = true)
    (hw : s.spawnWaiting x ≠ 0) (hn : s.isNext x .spawn = true) (hk : k = ((s.spawnEntry x 0).headD 0).toNat % 64) (hkl : x.tleased.elem k = true)
    (hp : s.findPlace x (k + 1) ((s.spawnDue x).head?.map (fun d => d.2)) = some place)
    (ht : s.startGang x (k + 1) 0 ((s.spawnEntry x 0).drop 1) none place = some t) :
    exec (.spawnEntryTake l) s = .next ((t.onLaunch l (fun y => { y with spawned := y.spawned.drop 1 })).devPut x.vf (x.prog.lrec.spawnq.toNat + 12) 4
      ((t.devGet x.vf (x.prog.lrec.spawnq.toNat + 12) 4 + 1) % 2 ^ 32)) := by
  have e : exec (.spawnEntryTake l) s = execSpawnEntryTake l s := rfl
  rw [e, execSpawnEntryTake, hx]
  dsimp only
  rw [← hk, hn, decide_eq_false hw, Bool.not_true, Bool.or_false, if_neg Bool.false_ne_true, State.leaseTemplate_granted hx hkl, hx, Option.bind_some,
    State.startTask_found ho hl hkl hp, ht]
  rfl

theorem State.startConsumer_first {e : Nat} {drain : Bool} {d : DueEdge} {k : Nat} {place : List Nat} {t : State} (hx : s.launch? l = some x)
    (ho : x.open_ = true) (hl : x.leased = true) (hd : (s.dueEdges x).find? (fun d => d.edge == e && d.drain == drain) = some d)
    (hn : s.isNext x (.edge e) = true) (hk : k = (s.edgeOf x e).2.2.2) (hkl : x.tleased.elem k = true) (hp : s.findPlace x (k + 1) none = some place)
    (ht : s.startGang x (k + 1) 0 [BitVec.ofNat 32 (x.edgeVas.getD e 0), BitVec.ofNat 32 (x.edgeVas.getD e 0 / 2 ^ 32), BitVec.ofNat 32 d.items]
      (some e) place = some t) :
    s.startConsumer l e drain = t.devWrite x.vf (x.edgeVas.getD e 0 + 32) (s.anyBytes (7500 + e) 32) := by
  unfold State.startConsumer
  rw [hx]
  dsimp only
  rw [hd]
  dsimp only
  rw [hn, Bool.not_true, if_neg Bool.false_ne_true, ← hk, State.leaseTemplate_granted hx hkl, hx, Option.bind_some, State.startTask_found ho hl hkl hp, ht]
end

/-! ## Edges that become due -/

section
variable {s : State} {x : Launch} {e : Nat}

/-- Of an edge that has no consumer waiting, nothing is noted as due. -/
theorem State.due_of_free {l : Nat} (hx : s.launch? l = some x) (hb : s.edgeBusy x.vf (x.edgeVas.getD e 0) = false) : ∀ d ∈ x.due, d.edge ≠ e := by
  intro d hd he
  unfold State.edgeBusy at hb
  have h1 := List.any_eq_false.mp hb _ (mem_of_look hx)
  refine h1 ?_
  rw [Bool.and_eq_true]
  refine ⟨beq_self_eq_true _, List.any_eq_true.mpr ⟨d.edge, List.mem_append_right _ (List.mem_map_of_mem hd), ?_⟩⟩
  rw [he]
  exact beq_self_eq_true _

/-- Each edge makes at most one entry of a list made edge by edge: the one found is its own. -/
theorem find?_filterMap_range {f : Nat → Option DueEdge} (hf : ∀ i d, f i = some d → d.edge = i) {d : DueEdge} {n : Nat} (hn : e < n) (he : f e = some d) :
    ((List.range n).filterMap f).find? (fun y => y.edge == e && y.drain == d.drain) = some d := by
  induction n with
  | zero => exact absurd hn (Nat.not_lt_zero e)
  | succ n ih =>
    rw [List.range_succ, List.filterMap_append, List.find?_append]
    by_cases hen : e < n
    · rw [ih hen]
      rfl
    · obtain rfl : e = n := by omega
      have hnone : ((List.range e).filterMap f).find? (fun y => y.edge == e && y.drain == d.drain) = none := by
        refine List.find?_eq_none.mpr (fun y hy => ?_)
        obtain ⟨i, hi, hfi⟩ := List.mem_filterMap.mp hy
        have hne : y.edge ≠ e := by
          rw [hf i y hfi]
          exact Nat.ne_of_lt (List.mem_range.mp hi)
        rw [beq_eq_false_iff_ne.mpr hne, Bool.false_and]
        exact Bool.false_ne_true
      have hd : d.edge = e := hf e d he
      rw [hnone, Option.none_or]
      simp [he, hd]

/-- What becomes due of an edge that nothing waits for. -/
theorem State.find_dueEdges {l : Nat} (hx : s.launch? l = some x) (he : e < x.edgeVas.length) (hb : s.edgeBusy x.vf (x.edgeVas.getD e 0) = false) {d : DueEdge}
    (hd : (if s.edgeDue x e false then some ⟨e, s.free, (s.edgeOf x e).2.2.1, false⟩
      else if s.edgeDue x e true then some ⟨e, s.free, (s.edgeOf x e).2.2.1, true⟩ else none : Option DueEdge) = some d) :
    (s.dueEdges x).find? (fun y => y.edge == e && y.drain == d.drain) = some d := by
  have hnone : x.due.find? (fun y => y.edge == e && y.drain == d.drain) = none := by
    refine List.find?_eq_none.mpr (fun y hy => ?_)
    rw [beq_eq_false_iff_ne.mpr (State.due_of_free hx hb y hy), Bool.false_and]
    exact Bool.false_ne_true
  unfold State.dueEdges
  rw [List.find?_append, hnone, Option.none_or]
  refine find?_filterMap_range (fun i y hy => ?_) he hd
  split at hy
  · obtain rfl := Option.some.inj hy
    rfl
  · split at hy
    · obtain rfl := Option.some.inj hy
      rfl
    · exact nomatch hy

theorem State.edgeDue_eq (hb : s.edgeBusy x.vf (x.edgeVas.getD e 0) = false) (ht : (x.edgeVas.take e).elem (x.edgeVas.getD e 0) = false) (drain : Bool) :
    s.edgeDue x e drain = if drain then s.onlyConsumers x && decide (1 ≤ (s.edgeOf x e).2.2.1) && decide ((s.edgeOf x e).2.2.1 < (s.edgeOf x e).2.1)
      else decide ((s.edgeOf x e).2.1 ≤ (s.edgeOf x e).2.2.1) && decide (0 < (s.edgeOf x e).2.2.1) := by
  unfold State.edgeDue
  rw [hb, ht]
  rfl
end

/-- A started gang, as the statement about starts has it. -/
theorem GangStarted.starts {s t : State} {x : Launch} {tmpl gi : Nat} {args : List Word} {edge : Option Nat} {place : List Nat}
    (h : GangStarted s x tmpl gi args edge place t) :
    (∃ g, t.gang? s.ids = some g ∧ g.launch = x.id ∧ g.tmpl = tmpl ∧ g.index = gi ∧ g.args = args) ∧
    (∃ y, t.launch? x.id = some y ∧ y.live = x.live + 1 ∧ y.status = 1 ∧ y.started = x.started + (if tmpl = 0 then 1 else 0)) ∧
    ∀ i < (x.progOf tmpl).lrec.blocksPerGang, ∃ b ∈ t.blocksOf s.ids, b.index = i ∧ place[i]?.map (fun e => e / 4) = some b.core := by
  refine ⟨h.gang, ?_, fun i hi => ?_⟩
  · obtain ⟨y, hy, hlive, hstatus, hstarted, -⟩ := h.launch
    exact ⟨y, hy, hlive, hstatus, hstarted⟩
  · obtain ⟨k, b, hb, hg, hix, hc⟩ := h.blocks i hi
    exact ⟨b, List.mem_filter.mpr ⟨List.mem_map.mpr ⟨_, mem_of_look hb, rfl⟩, beq_iff_eq.mpr hg⟩, hix, hc⟩

/-- Settles O40: a start is a gang new, its blocks placed one after another, and writes that keep launches, gangs and the places of blocks; of an edge that
nothing waits for, the one entry that becomes due is its own. -/
theorem gangsStart : Obligations.GangsStart := by
  unfold Obligations.GangsStart
  intro s l x hx hid ho hl starts
  subst hid
  have hst : x.status ≤ 1 := by
    unfold Launch.open_ at ho
    exact of_decide_eq_true (Bool.and_eq_true_iff.mp (Bool.and_eq_true_iff.mp ho).1).1
  refine ⟨fun place hc hg hn => ?_, fun k place t hw hn hk hkl hp ht => ?_, ?_⟩
  · have hto : x.toStart = true := by
      unfold Launch.toStart
      rw [ho, decide_eq_true hg]
      rfl
    have hex := execGangStart_first (place := place) hx hl hto rfl hn hc
    refine ⟨fun h => ?_, fun t h => ⟨t, ?_, (State.startGang_some hx hst h).starts⟩⟩
    · rw [hex, h, Option.getD_none]
    · rw [hex, h, Option.getD_some]
  · have hstart := State.startGang_some hx hst ht
    refine ⟨_, execSpawnEntryTake_first hx ho hl hw hn hk hkl hp ht, ?_⟩
    exact ((hstart.onLaunch x.id (f := fun y => { y with spawned := y.spawned.drop 1 }) (fun y => ⟨rfl, rfl, rfl, rfl⟩)).keep
      (KeepsRun.devPut _ _ _ _ _)).starts
  intro e he va items due
  refine ⟨fun hb htk => ⟨fun h0 h1 => ?_, fun h0 h1 h2 => ?_⟩, ?_⟩
  · refine State.find_dueEdges hx he hb (d := ⟨e, s.free, items, false⟩) ?_
    rw [State.edgeDue_eq hb htk, if_neg Bool.false_ne_true, decide_eq_true h1, decide_eq_true h0]
    rfl
  · refine State.find_dueEdges hx he hb (d := ⟨e, s.free, items, true⟩) ?_
    have hf : s.edgeDue x e false = false := by
      rw [State.edgeDue_eq hb htk, if_neg Bool.false_ne_true, decide_eq_false (Nat.not_le.mpr h2), Bool.false_and]
    have ht : s.edgeDue x e true = true := by
      rw [State.edgeDue_eq hb htk, if_pos rfl, h0, decide_eq_true h1, decide_eq_true h2]
      rfl
    rw [hf, if_neg Bool.false_ne_true, ht, if_pos rfl]
  intro d k place t hn hk hkl hp args ht
  have hstart := (State.startGang_some hx hst ht).keep (KeepsRun.devWrite t x.vf (x.edgeVas.getD e 0 + 32) (s.anyBytes (7500 + e) 32))
  have hcons : ∃ y, (t.devWrite x.vf (x.edgeVas.getD e 0 + 32) (s.anyBytes (7500 + e) 32)).launch? x.id = some y ∧ e ∈ y.consumers := by
    obtain ⟨y, hy, -, -, -, hc⟩ := hstart.launch
    exact ⟨y, hy, hc e rfl⟩
  have hex : ∀ drain : Bool, due drain = some d →
      s.startConsumer x.id e drain = t.devWrite x.vf (x.edgeVas.getD e 0 + 32) (s.anyBytes (7500 + e) 32) :=
    fun drain hd => State.startConsumer_first hx ho hl hd hn hk hkl hp ht
  refine ⟨fun hd => ⟨_, ?_, hstart.starts, hcons⟩, fun hd => ⟨_, ?_, hstart.starts, hcons⟩⟩
  · exact congrArg Host.Outcome.next (hex false hd)
  · exact congrArg Host.Outcome.next (hex true hd)

end Sys2Proof.Machine
end

section
/-! PROOFS. What the device places unasked (spec/08 R142, R143, R145): O26. -/

namespace Sys2Proof.Machine
open Sys2Proof.Claims

/-! ## Placements -/

/-- Writes have taken places in their orders: nothing else is different, and nothing has gone back. -/
structure Onward (c : Nat) (s t : State) : Prop where
  blocks : t.blocks = s.blocks
  launches : t.launches = s.launches
  stamp : s.stamp ≤ t.stamp
  rising : risingFrom 0 (s.core c).writes = true → risingFrom 0 (t.core c).writes = true
  wf : memWf s.mem = true → memWf t.mem = true
  stamps : canonical (0 : Nat) s.stamps = true → canonical (0 : Nat) t.stamps = true
  gang : ∀ g k, s.gang? g = some k → ∃ k', t.gang? g = some k' ∧ SameGang k k' ∧ (risingFrom 0 k.overlay = true → risingFrom 0 k'.overlay = true)
  home : ∀ x, getD s.stamps 0 x ≤ getD t.stamps 0 x
  unlisted : ∀ k x, look (s.core k).snap x = none → look (t.core k).snap x = none
  snap : ∀ k x p, look (s.core k).snap x = some p → ∃ q, look (t.core k).snap x = some q ∧ p.stamp ≤ q.stamp
  overlay : ∀ g k x p, s.gang? g = some k → look k.overlay x = some p →
    p.stamp ≤ getD t.stamps 0 x ∨ ∃ k' q, t.gang? g = some k' ∧ look k'.overlay x = some q ∧ p.stamp ≤ q.stamp

/-- What stands at one location is as it was: at the home, in the writes of a core, in every gang's instance. -/
structure Beside (c pa : Nat) (s t : State) : Prop where
  home : t.home pa = s.home pa
  write : look (t.core c).writes pa = look (s.core c).writes pa
  overlay : ∀ g, (t.gang? g).map (fun k => look k.overlay pa) = (s.gang? g).map (fun k => look k.overlay pa)

theorem Beside.trans {c pa : Nat} {s t u : State} (h : Beside c pa s t) (h' : Beside c pa t u) : Beside c pa s u :=
  ⟨h'.home.trans h.home, h'.write.trans h.write, fun g => (h'.overlay g).trans (h.overlay g)⟩
theorem Beside.of_same {c pa : Nat} {s t : State} (hm : t.mem = s.mem) (hst : t.stamps = s.stamps) (hc : t.cores = s.cores) (hg : t.gangs = s.gangs) :
    Beside c pa s t := by
  refine ⟨?_, ?_, fun g => ?_⟩
  · rw [State.home, State.home, hm, hst]
  · rw [State.core, State.core, hc]
  · rw [State.gang?, State.gang?, hg]
theorem Beside.refl (c pa : Nat) (s : State) : Beside c pa s s := Beside.of_same rfl rfl rfl rfl

theorem Beside.held {c pa : Nat} {s t : State} (h : Beside c pa s t) {g : Nat} {k : Gang} (hk : s.gang? g = some k) :
    ∃ k', t.gang? g = some k' ∧ look k'.overlay pa = look k.overlay pa := by
  have e := h.overlay g
  rw [hk, Option.map_some] at e
  obtain ⟨k', hk', e'⟩ := Option.map_eq_some_iff.mp e
  exact ⟨k', hk', e'⟩

/-- A gang of the later state is one of the earlier. -/
theorem Beside.was {c pa : Nat} {s t : State} (h : Beside c pa s t) {g : Nat} {k' : Gang} (hk : t.gang? g = some k') :
    ∃ k, s.gang? g = some k ∧ look k'.overlay pa = look k.overlay pa := by
  have e := h.overlay g
  rw [hk, Option.map_some] at e
  obtain ⟨k, hk, e'⟩ := Option.map_eq_some_iff.mp e.symm
  exact ⟨k, hk, e'.symm⟩

theorem Onward.of_same {c : Nat} {s t : State} (hb : t.blocks = s.blocks) (hl : t.launches = s.launches) (hn : s.stamp ≤ t.stamp) (hm : t.mem = s.mem)
    (hst : t.stamps = s.stamps) (hc : t.cores = s.cores) (hg : t.gangs = s.gangs) : Onward c s t := by
  have hcore : ∀ k, t.core k = s.core k := fun k => by rw [State.core, State.core, hc]
  have hgang : ∀ g, t.gang? g = s.gang? g := fun g => by rw [State.gang?, State.gang?, hg]
  exact {
    blocks := hb
    launches := hl
    stamp := hn
    rising := fun h => by rw [hcore]; exact h
    wf := fun h => by rw [hm]; exact h
    stamps := fun h => by rw [hst]; exact h
    gang := fun g k h => ⟨k, (hgang g).trans h, rfl, id⟩
    home := fun x => by rw [hst]
    unlisted := fun k x h => by rw [hcore]; exact h
    snap := fun k x p h => ⟨p, by rw [hcore]; exact h, Nat.le_refl _⟩
    overlay := fun g k x p h hp => .inr ⟨k, p, (hgang g).trans h, hp, Nat.le_refl _⟩ }
theorem Onward.refl (c : Nat) (s : State) : Onward c s s := Onward.of_same rfl rfl (Nat.le_refl _) rfl rfl rfl rfl

theorem Onward.trans {c : Nat} {s t u : State} (h : Onward c s t) (h' : Onward c t u) : Onward c s u where
  blocks := h'.blocks.trans h.blocks
  launches := h'.launches.trans h.launches
  stamp := Nat.le_trans h.stamp h'.stamp
  rising := fun hr => h'.rising (h.rising hr)
  wf := fun hm => h'.wf (h.wf hm)
  stamps := fun hm => h'.stamps (h.stamps hm)
  gang := fun g k hk => by
    obtain ⟨k1, h1, e1, r1⟩ := h.gang g k hk
    obtain ⟨k2, h2, e2, r2⟩ := h'.gang g k1 h1
    exact ⟨k2, h2, e1.trans e2, fun hr => r2 (r1 hr)⟩
  home := fun x => Nat.le_trans (h.home x) (h'.home x)
  unlisted := fun k x hk => h'.unlisted k x (h.unlisted k x hk)
  snap := fun k x p hp => by
    obtain ⟨q, hq, hle⟩ := h.snap k x p hp
    obtain ⟨r, hr, hle'⟩ := h'.snap k x q hq
    exact ⟨r, hr, Nat.le_trans hle hle'⟩
  overlay := fun g k x p hk hp => by
    rcases h.overlay g k x p hk hp with hle | ⟨k1, q, hk1, hq, hle⟩
    · exact .inl (Nat.le_trans hle (h'.home x))
    · rcases h'.overlay g k1 x q hk1 hq with hle' | ⟨k2, r, hk2, hr, hle'⟩
      · exact .inl (Nat.le_trans hle hle')
      · exact .inr ⟨k2, r, hk2, hr, Nat.le_trans hle hle'⟩

theorem Onward.foldl {α : Type} {c : Nat} {f : State → α → State} (hf : ∀ t x, Onward c t (f t x)) (l : List α) (s : State) : Onward c s (l.foldl f s) :=
  List.foldlRecOn (motive := Onward c s) l f (Onward.refl c s) (fun _ ht x _ => ht.trans (hf _ x))

theorem Beside.foldl {α : Type} {c pa : Nat} {f : State → α → State} (l : List α) (hf : ∀ t, ∀ x ∈ l, Beside c pa t (f t x)) (s : State) :
    Beside c pa s (l.foldl f s) :=
  List.foldlRecOn (motive := Beside c pa s) l f (Beside.refl c pa s) (fun _ ht x hx => ht.trans (hf _ x hx))

theorem Onward.gangsOn {c : Nat} {s t : State} (h : Onward c s t) (k : Nat) : t.gangsOn k = s.gangsOn k := by rw [State.gangsOn, State.gangsOn, h.blocks]

theorem Onward.gangHas {c : Nat} {s t : State} (h : Onward c s t) {g : Nat} {k : Gang} (hk : s.gang? g = some k) : t.gangHas g = s.gangHas g := by
  obtain ⟨k', hk', e, -⟩ := h.gang g k hk
  unfold State.gangHas
  rw [hk, hk', Option.bind_some, Option.bind_some, State.launch?, State.launch?, h.launches, show k'.launch = k.launch from (congrArg Gang.launch e :),
    show k'.tmpl = k.tmpl from (congrArg Gang.tmpl e :)]

/-- A gang that is not there has no gang levels. -/
theorem Beside.gangHas {c pa : Nat} {s t : State} (h : Onward c s t) (hb : Beside c pa s t) (g : Nat) : t.gangHas g = s.gangHas g := by
  cases hk : s.gang? g with
  | some k => exact h.gangHas hk
  | none =>
    have e := hb.overlay g
    rw [hk, Option.map_none, Option.map_eq_none_iff] at e
    unfold State.gangHas
    rw [hk, e]
    rfl

/-! ## The last write of a location that a core can see -/

/-- The latest of what some gangs hold of a location and of what is given. -/
theorem foldl_later_le {s t : State} {x : Nat} (l : List Nat) (hover : ∀ g k p, s.gang? g = some k → look k.overlay x = some p →
      p.stamp ≤ getD t.stamps 0 x ∨ ∃ k' q, t.gang? g = some k' ∧ look k'.overlay x = some q ∧ p.stamp ≤ q.stamp) : ∀ a b : Placed,
    a.stamp ≤ b.stamp → getD t.stamps 0 x ≤ b.stamp →
    (l.foldl (fun acc g => match (s.gang? g).bind (fun k => look k.overlay x) with
      | some p => later acc p
      | none => acc) a).stamp ≤
    (l.foldl (fun acc g => match (t.gang? g).bind (fun k => look k.overlay x) with
      | some p => later acc p
      | none => acc) b).stamp := by
  have later_stamp : ∀ a b : Placed, (later a b).stamp = max a.stamp b.stamp := fun a b => by
    unfold later
    split <;> omega
  induction l with
  | nil => exact fun a b h _ => h
  | cons g rest ih =>
    intro a b hab hb
    rw [List.foldl_cons, List.foldl_cons]
    have hup : b.stamp ≤ (match (t.gang? g).bind (fun k => look k.overlay x) with
        | some p => later b p
        | none => b).stamp := by
      cases (t.gang? g).bind (fun k => look k.overlay x) with
      | none => exact Nat.le_refl _
      | some q =>
        dsimp only
        rw [later_stamp]
        exact Nat.le_max_left ..
    refine ih _ _ ?_ (Nat.le_trans hb hup)
    cases hg : (s.gang? g).bind (fun k => look k.overlay x) with
    | none => exact Nat.le_trans hab hup
    | some p =>
      dsimp only
      rw [later_stamp, Nat.max_le]
      refine ⟨Nat.le_trans hab hup, ?_⟩
      obtain ⟨k, hk, hp⟩ := Option.bind_eq_some_iff.mp hg
      rcases hover g k p hk hp with hle | ⟨k', q, hk', hq, hle⟩
      · exact Nat.le_trans hle (Nat.le_trans hb hup)
      · rw [hk', Option.bind_some, hq]
        dsimp only
        rw [later_stamp]
        exact Nat.le_trans hle (Nat.le_max_right ..)

theorem Onward.snapByte {c : Nat} {s t : State} (h : Onward c s t) (k x : Nat) : (s.snapByte k x).stamp ≤ (t.snapByte k x).stamp := by
  unfold State.snapByte
  cases hk : look (s.core k).snap x with
  | some p =>
    obtain ⟨q, hq, hle⟩ := h.snap k x p hk
    rw [hq]
    exact hle
  | none =>
    rw [h.unlisted k x hk, h.gangsOn]
    dsimp only
    exact foldl_later_le _ (fun g k p hg hp => h.overlay g k x p hg hp) _ _ (h.home x) (Nat.le_refl _)

/-! ## The steps a placement is made of -/

section
variable (s : State) (c : Nat)

theorem State.core_snap_of_map {s t : State} {f : Core → Core} (hf : ∀ k, (f k).snap = k.snap) (h : t.cores = s.cores.map (fun p => (p.1, f p.2))) (c : Nat) :
    (t.core c).snap = (s.core c).snap := by
  unfold State.core getD
  rw [h, look_mapPair (fun p => (p.1, f p.2)) (fun _ => rfl)]
  cases look s.cores c with
  | none => rfl
  | some v => exact hf v

theorem State.homeWrite_snap (gang : Option Nat) (pa : Nat) (b : Byte) (stamp : Nat) : ((s.homeWrite gang pa b stamp).core c).snap = (s.core c).snap := by
  unfold State.homeWrite
  split
  · refine State.core_snap_of_map (f := fun k => if isDevice pa then keepOld k pa (readMem s.mem pa) else k) (fun k => ?_) ?_ c
    · split <;> rfl
    · cases gang with
      | none => rfl
      | some g =>
        dsimp only
        by_cases h : isDevice pa = true
        · simp only [h, if_true]
          rfl
        · simp only [h, if_false, Bool.false_eq_true]
  · rfl

/-- A gang after a home write: its log alone may be different. -/
theorem State.homeWrite_gang (gang : Option Nat) (pa : Nat) (b : Byte) (stamp g : Nat) :
    (s.homeWrite gang pa b stamp).gang? g = s.gang? g ∨
    ∃ f : List (Nat × Placed) → List (Nat × Placed), (s.homeWrite gang pa b stamp).gang? g = (s.gang? g).map (fun k => { k with log := f k.log }) := by
  rcases State.homeWrite_gangs s gang pa b stamp with e | ⟨g', e⟩
  · exact .inl (congrArg (fun m => look m g) e :)
  · have e' : (s.homeWrite gang pa b stamp).gang? g = _ := ((congrArg (fun m => look m g) e :)).trans
      (look_onKey s.gangs g' g (fun k => { k with log := logLine s k.log pa stamp }))
    by_cases hg : g = g'
    · subst hg
      rw [if_pos rfl] at e'
      exact .inr ⟨fun l => logLine s l pa stamp, e'⟩
    · rw [if_neg hg] at e'
      exact .inl e'

theorem State.homeWrite_overlay (gang : Option Nat) (pa : Nat) (b : Byte) (stamp g x : Nat) :
    ((s.homeWrite gang pa b stamp).gang? g).map (fun k => look k.overlay x) = (s.gang? g).map (fun k => look k.overlay x) := by
  rcases State.homeWrite_gang s gang pa b stamp g with e | ⟨f, e⟩
  · rw [e]
  · rw [e, Option.map_map]
    rfl

/-- The place of the last write at the home never goes back. -/
theorem State.homeWrite_place (gang : Option Nat) (pa : Nat) (b : Byte) (stamp x : Nat) : getD s.stamps 0 x ≤ getD (s.homeWrite gang pa b stamp).stamps 0 x := by
  rw [State.homeWrite_stamps]
  split
  next h =>
    by_cases hx : x = pa
    · subst hx
      by_cases hs : stamp = 0
      · omega
      · rw [getD_setD_rising _ _ _ _ (.inl hs)]
        exact h
    · rw [getD_setD_ne _ _ _ hx]
  next => exact Nat.le_refl _

/-- A write at the home is before no write that stands there then. -/
theorem State.homeWrite_reaches (gang : Option Nat) (pa : Nat) (b : Byte) (stamp : Nat) : stamp ≤ getD (s.homeWrite gang pa b stamp).stamps 0 pa := by
  rw [State.homeWrite_stamps]
  split
  next h =>
    by_cases hs : stamp = 0
    · omega
    · rw [getD_setD_rising _ _ _ _ (.inl hs)]
  next h => omega

theorem State.homeWrite_home_ne (gang : Option Nat) (pa : Nat) (b : Byte) (stamp : Nat) {x : Nat} (hx : x ≠ pa) : (s.homeWrite gang pa b stamp).home x = s.home x := by
  rw [State.home, State.home, State.homeWrite_stamps, State.homeWrite_mem]
  split
  · rw [writeMem, readMem, readMem, getD_setD_ne _ _ _ hx, getD_setD_ne _ _ _ hx]
  · rfl

theorem Onward.homeWrite (gang : Option Nat) (pa : Nat) (b : Byte) (stamp : Nat) : Onward c s (s.homeWrite gang pa b stamp) where
  blocks := (congrArg State.blocks (State.homeWrite_rest s gang pa b stamp) :)
  launches := (congrArg State.launches (State.homeWrite_rest s gang pa b stamp) :)
  stamp := Nat.le_of_eq (State.homeWrite_stamp s gang pa b stamp).symm
  rising := fun h => by rw [State.homeWrite_writes]; exact h
  wf := State.homeWrite_wf s gang pa b stamp
  stamps := fun h => by
    rw [State.homeWrite_stamps]
    split
    · exact canonical_setD _ _ _ _ h
    · exact h
  gang := fun g k hk => by
    rcases State.homeWrite_gang s gang pa b stamp g with e | ⟨f, e⟩
    · exact ⟨k, e.trans hk, rfl, id⟩
    · rw [hk] at e
      exact ⟨_, e, rfl, id⟩
  home := State.homeWrite_place s gang pa b stamp
  unlisted := fun k x h => by rw [State.homeWrite_snap]; exact h
  snap := fun k x p h => ⟨p, by rw [State.homeWrite_snap]; exact h, Nat.le_refl _⟩
  overlay := fun g k x p hk hp => by
    have e := State.homeWrite_overlay s gang pa b stamp g x
    rw [hk, Option.map_some, hp] at e
    obtain ⟨k', hk', e'⟩ := Option.map_eq_some_iff.mp e
    exact .inr ⟨k', p, hk', e', Nat.le_refl _⟩

theorem Beside.homeWrite (gang : Option Nat) (pa : Nat) (b : Byte) (stamp : Nat) {x : Nat} (hx : x ≠ pa) : Beside c x s (s.homeWrite gang pa b stamp) :=
  ⟨State.homeWrite_home_ne s gang pa b stamp hx, by rw [State.homeWrite_writes], fun g => State.homeWrite_overlay s gang pa b stamp g x⟩

/-- A change of a core's own writes and of its snapshot that takes nothing back. -/
theorem Onward.onCore {f : Core → Core} (hr : risingFrom 0 (s.core c).writes = true → risingFrom 0 (f (s.core c)).writes = true)
    (hn : ∀ x, look (s.core c).snap x = none → look (f (s.core c)).snap x = none)
    (hs : ∀ x p, look (s.core c).snap x = some p → ∃ q, look (f (s.core c)).snap x = some q ∧ p.stamp ≤ q.stamp) : Onward c s (s.onCore c f) where
  blocks := rfl
  launches := rfl
  stamp := Nat.le_refl _
  rising := fun h => by rw [State.core_onCore, if_pos rfl]; exact hr h
  wf := id
  stamps := id
  gang := fun g k hk => ⟨k, hk, rfl, id⟩
  home := fun x => Nat.le_refl _
  unlisted := fun k x h => by
    rw [State.core_onCore]
    split
    next hk => exact hn x (hk ▸ h)
    next => exact h
  snap := fun k x p h => by
    rw [State.core_onCore]
    split
    next hk => exact hs x p (hk ▸ h)
    next => exact ⟨p, h, Nat.le_refl _⟩
  overlay := fun g k x p hk hp => .inr ⟨k, p, hk, hp, Nat.le_refl _⟩

theorem Beside.onCore {f : Core → Core} {x : Nat} (hw : look (f (s.core c)).writes x = look (s.core c).writes x) : Beside c x s (s.onCore c f) :=
  ⟨rfl, by rw [State.core_onCore, if_pos rfl]; exact hw, fun _ => rfl⟩

theorem look_takeLater_ne (m : List (Nat × Placed)) (pa : Nat) (p : Placed) {x : Nat} (hx : x ≠ pa) : look (takeLater m pa p) x = look m x := by
  unfold takeLater
  split
  · exact look_insertAt_ne _ _ hx
  · rfl

theorem look_takeLater_same (m : List (Nat × Placed)) (pa : Nat) (p : Placed) : look (takeLater m pa p) pa = (look m pa).map (fun q => later q p) := by
  unfold takeLater
  cases h : look m pa with
  | none => exact h
  | some q => exact look_insertAt_same ..

theorem later_stamp (a b : Placed) : (later a b).stamp = max a.stamp b.stamp := by
  unfold later
  split <;> omega

/-- A change of a gang's instance that takes nothing back. -/
theorem Onward.onGang (g : Nat) {f : Gang → Gang} (hsame : ∀ k, SameGang k (f k)) (hr : ∀ k, risingFrom 0 k.overlay = true → risingFrom 0 (f k).overlay = true)
    (ho : ∀ k x p, s.gang? g = some k → look k.overlay x = some p → p.stamp ≤ getD s.stamps 0 x ∨ ∃ q, look (f k).overlay x = some q ∧ p.stamp ≤ q.stamp) :
    Onward c s (s.onGang g f) where
  blocks := rfl
  launches := rfl
  stamp := Nat.le_refl _
  rising := id
  wf := id
  stamps := id
  gang := fun g' k hk => by
    have e : (s.onGang g f).gang? g' = if g' = g then (s.gang? g).map f else s.gang? g' := look_onKey ..
    rw [e]
    split
    next hg =>
      rw [← hg, hk]
      exact ⟨f k, rfl, hsame k, hr k⟩
    next => exact ⟨k, hk, rfl, id⟩
  home := fun x => Nat.le_refl _
  unlisted := fun _ _ => id
  snap := fun k x p h => ⟨p, h, Nat.le_refl _⟩
  overlay := fun g' k x p hk hp => by
    have e : (s.onGang g f).gang? g' = if g' = g then (s.gang? g).map f else s.gang? g' := look_onKey ..
    rw [e]
    split
    next hg =>
      subst hg
      rcases ho k x p hk hp with hle | ⟨q, hq, hle⟩
      · exact .inl hle
      · exact .inr ⟨f k, q, by rw [hk]; rfl, hq, hle⟩
    next => exact .inr ⟨k, p, hk, hp, Nat.le_refl _⟩

theorem Beside.onGang (g : Nat) {f : Gang → Gang} {x : Nat} (hf : ∀ k, look (f k).overlay x = look k.overlay x) : Beside c x s (s.onGang g f) := by
  refine ⟨rfl, rfl, fun g' => ?_⟩
  have e : (s.onGang g f).gang? g' = if g' = g then (s.gang? g).map f else s.gang? g' := look_onKey ..
  rw [e]
  split
  next hg =>
    subst hg
    rw [Option.map_map]
    exact congrArg (fun h => Option.map h (s.gang? g')) (funext hf)
  next => rfl

theorem Onward.nextStamp : Onward c s s.nextStamp := Onward.of_same rfl rfl (Nat.le_succ _) rfl rfl rfl rfl
theorem Beside.nextStamp (x : Nat) : Beside c x s s.nextStamp := Beside.of_same rfl rfl rfl rfl

theorem risingFrom_map {α : Type} {f : Nat × α → Nat × α} (hf : ∀ p, (f p).1 = p.1) (m : List (Nat × α)) : ∀ n, risingFrom n (m.map f) = risingFrom n m := by
  induction m with
  | nil => exact fun _ => rfl
  | cons p rest ih =>
    intro n
    obtain ⟨k, v⟩ := p
    have e : f (k, v) = (k, (f (k, v)).2) := Prod.ext (hf (k, v)) rfl
    rw [List.map_cons, e, risingFrom, risingFrom, ih]

/-- A write that takes a place in its order, or one that has it or is not meant. -/
def ordered (p : Nat → Bool) (n : Nat) (x : Nat) (w : ViewWrite) : ViewWrite := if p x = true ∧ w.stamp.isNone = true then { w with stamp := some n } else w

theorem look_orderOwn (p : Nat → Bool) (x : Nat) : look ((s.orderOwn c p).core c).writes x = (look (s.core c).writes x).map (ordered p (s.stamp + 1) x) := by
  unfold State.orderOwn
  dsimp only
  rw [State.core_onCore, if_pos rfl]
  refine (look_mapPair _ (fun q => ?_) _ x).trans (congrArg (fun h => Option.map h (look (s.core c).writes x)) (funext fun w => ?_))
  · split <;> rfl
  · unfold ordered
    dsimp only
    split <;> rfl

theorem Onward.orderOwn (p : Nat → Bool) : Onward c s (s.orderOwn c p) := by
  unfold State.orderOwn
  dsimp only
  refine (Onward.nextStamp s c).trans (Onward.onCore _ c (fun h => ?_) (fun _ => id) (fun x q h => ⟨q, h, Nat.le_refl _⟩))
  refine (risingFrom_map (fun q => ?_) _ _).trans h
  split <;> rfl

theorem Beside.orderOwn (p : Nat → Bool) {x : Nat} (hx : p x = false) : Beside c x s (s.orderOwn c p) := by
  refine ⟨rfl, ?_, fun _ => rfl⟩
  rw [look_orderOwn]
  have e : ordered p (s.stamp + 1) x = id := funext fun w => by
    unfold ordered
    rw [if_neg (fun h => by rw [hx] at h; exact Bool.false_ne_true h.1)]
    rfl
  rw [e, Option.map_id_fun, id]

theorem Onward.loosen (pa : Nat) : Onward c s (s.loosen pa) := Onward.of_same rfl rfl (Nat.le_refl _) rfl rfl rfl rfl
theorem Beside.loosen (pa x : Nat) : Beside c x s (s.loosen pa) := Beside.of_same rfl rfl rfl rfl

/-- A write gone from the writes of a core, and taken by its snapshot. -/
def State.takenIn (s : State) (c pa : Nat) (w : ViewWrite) : State :=
  s.nextStamp.onCore c (fun k => { k with writes := eraseAt k.writes pa, snap := takeLater k.snap pa ⟨w.val, w.stamp.getD (s.stamp + 1)⟩ })
/-- The entry of an instance for a byte placed in it. -/
def Gang.takes (k : Gang) (pa : Nat) (p : Placed) : Gang :=
  { k with overlay := if (look k.overlay pa).isSome then takeLater k.overlay pa p else insertAt k.overlay pa p }

theorem State.placeByte_eq (g sc pa : Nat) (w : ViewWrite) : s.placeByte c g sc pa w =
    if wide sc then (s.takenIn c pa w).homeWrite (some w.gang) pa w.val (w.stamp.getD (s.stamp + 1))
    else (s.takenIn c pa w).onGang g (fun k => k.takes pa ⟨w.val, w.stamp.getD (s.stamp + 1)⟩) := rfl

theorem Onward.takenIn (pa : Nat) (w : ViewWrite) : Onward c s (s.takenIn c pa w) := by
  refine (Onward.nextStamp s c).trans (Onward.onCore _ c (risingFrom_eraseAt _ _) (fun x h => ?_) (fun x p h => ?_))
  · by_cases hx : x = pa
    · subst hx
      exact (look_takeLater_same ..).trans (by rw [h]; rfl)
    · exact (look_takeLater_ne _ _ _ hx).trans h
  · by_cases hx : x = pa
    · subst hx
      refine ⟨later p _, (look_takeLater_same ..).trans (by rw [h]; rfl), ?_⟩
      rw [later_stamp]
      exact Nat.le_max_left ..
    · exact ⟨p, (look_takeLater_ne _ _ _ hx).trans h, Nat.le_refl _⟩

theorem Beside.takenIn (pa : Nat) (w : ViewWrite) {x : Nat} (hx : x ≠ pa) : Beside c x s (s.takenIn c pa w) :=
  (Beside.nextStamp s c x).trans (Beside.onCore _ c (look_eraseAt_ne _ hx))

theorem Gang.look_takes_ne (k : Gang) (pa : Nat) (p : Placed) {x : Nat} (hx : x ≠ pa) : look (k.takes pa p).overlay x = look k.overlay x := by
  unfold Gang.takes
  dsimp only
  split
  · exact look_takeLater_ne _ _ _ hx
  · exact look_insertAt_ne _ _ hx

theorem Gang.look_takes_same (k : Gang) (pa : Nat) (p : Placed) : look (k.takes pa p).overlay pa = some (match look k.overlay pa with
    | some q => later q p
    | none => p) := by
  unfold Gang.takes
  dsimp only
  cases h : look k.overlay pa with
  | some q =>
    rw [Option.isSome_some, if_pos rfl, look_takeLater_same, h]
    rfl
  | none =>
    rw [Option.isSome_none, if_neg Bool.false_ne_true]
    exact look_insertAt_same ..

theorem risingFrom_takeLater {m : List (Nat × Placed)} (h : risingFrom 0 m = true) (pa : Nat) (p : Placed) : risingFrom 0 (takeLater m pa p) = true := by
  unfold takeLater
  split
  · exact risingFrom_insertAt _ _ _ h (Nat.zero_le _)
  · exact h

theorem Gang.takes_rising (k : Gang) (pa : Nat) (p : Placed) (h : risingFrom 0 k.overlay = true) : risingFrom 0 (k.takes pa p).overlay = true := by
  unfold Gang.takes
  dsimp only
  split
  · exact risingFrom_takeLater h pa p
  · exact risingFrom_insertAt _ _ _ h (Nat.zero_le _)

theorem Onward.takes (g pa : Nat) (p : Placed) : Onward c s (s.onGang g (fun k => k.takes pa p)) := by
  refine Onward.onGang s c g (fun _ => rfl) (fun k => k.takes_rising pa p) (fun k x q _ hq => .inr ?_)
  by_cases hx : x = pa
  · subst hx
    rw [Gang.look_takes_same, hq]
    refine ⟨_, rfl, ?_⟩
    rw [later_stamp]
    exact Nat.le_max_left ..
  · rw [Gang.look_takes_ne k pa p hx, hq]
    exact ⟨q, rfl, Nat.le_refl _⟩

theorem Onward.placeByte (g sc pa : Nat) (w : ViewWrite) : Onward c s (s.placeByte c g sc pa w) := by
  rw [State.placeByte_eq]
  split
  · exact (Onward.takenIn s c pa w).trans (Onward.homeWrite _ c _ _ _ _)
  · exact (Onward.takenIn s c pa w).trans (Onward.takes _ c _ _ _)

theorem Beside.placeByte (g sc pa : Nat) (w : ViewWrite) {x : Nat} (hx : x ≠ pa) : Beside c x s (s.placeByte c g sc pa w) := by
  rw [State.placeByte_eq]
  split
  · exact (Beside.takenIn s c pa w hx).trans (Beside.homeWrite _ c _ _ _ _ hx)
  · exact (Beside.takenIn s c pa w hx).trans (Beside.onGang _ c g (fun k => k.look_takes_ne pa _ hx))

theorem State.flushByte_eq (g pa : Nat) {p : Placed} {k : Gang} (hk : s.gang? g = some k) (hp : look k.overlay pa = some p) :
    s.flushByte g pa = (s.homeWrite (some g) pa p.val p.stamp).onGang g (fun k => { k with overlay := eraseAt k.overlay pa }) := by
  unfold State.flushByte
  rw [hk, Option.bind_some, hp]

theorem State.flushByte_none (g pa : Nat) (h : ∀ k, s.gang? g = some k → look k.overlay pa = none) : s.flushByte g pa = s := by
  unfold State.flushByte
  cases hk : s.gang? g with
  | none => rfl
  | some k => rw [Option.bind_some, h k hk]

theorem Onward.flushByte (g pa : Nat) : Onward c s (s.flushByte g pa) := by
  by_cases h : ∀ k, s.gang? g = some k → look k.overlay pa = none
  · rw [State.flushByte_none s g pa h]
    exact Onward.refl c s
  · push Not at h
    obtain ⟨k, hk, hne⟩ := h
    obtain ⟨p, hp⟩ := Option.ne_none_iff_exists'.mp hne
    rw [State.flushByte_eq s g pa hk hp]
    refine (Onward.homeWrite s c (some g) pa p.val p.stamp).trans (Onward.onGang _ c g (fun _ => rfl) (fun k => risingFrom_eraseAt _ _) (fun k1 x q hk1 hq => ?_))
    by_cases hx : x = pa
    · subst hx
      have e := State.homeWrite_overlay s (some g) x p.val p.stamp g x
      rw [hk, hk1, Option.map_some, Option.map_some, hp, hq] at e
      obtain rfl := Option.some.inj (Option.some.inj e)
      exact .inl (State.homeWrite_reaches ..)
    · exact .inr ⟨q, (look_eraseAt_ne _ hx).trans hq, Nat.le_refl _⟩

theorem Beside.flushByte (g pa : Nat) {x : Nat} (hx : x ≠ pa) : Beside c x s (s.flushByte g pa) := by
  unfold State.flushByte
  split
  · exact (Beside.homeWrite s c _ _ _ _ hx).trans (Beside.onGang _ c g (fun k => look_eraseAt_ne _ hx))
  · exact Beside.refl c x s

theorem State.flushByte_writes (g pa : Nat) : ((s.flushByte g pa).core c).writes = (s.core c).writes := by
  unfold State.flushByte
  split
  · exact State.homeWrite_writes ..
  · rfl

/-! ## What one location's placement does -/

/-- What the gangs of a core hold of a location goes to the home. -/
def State.flushGangs (s : State) (c pa : Nat) : State := (s.gangsOn c).foldl (fun t g => t.flushByte g pa) s

theorem Onward.flushGangs (pa : Nat) : Onward c s (s.flushGangs c pa) := Onward.foldl (fun t g => Onward.flushByte t c g pa) _ s
theorem Beside.flushGangs (pa : Nat) {x : Nat} (hx : x ≠ pa) : Beside c x s (s.flushGangs c pa) := Beside.foldl _ (fun t g _ => Beside.flushByte t c g pa hx) s
theorem State.flushGangs_writes (pa : Nat) : ((s.flushGangs c pa).core c).writes = (s.core c).writes :=
  List.foldlRecOn (motive := fun t : State => (t.core c).writes = (s.core c).writes) _ _ rfl (fun t ht g _ => (State.flushByte_writes t c g pa).trans ht)

/-- A core's own write of a location placed, or, where its gang has no levels, only ordered. -/
def State.placeMine (s : State) (c sc pa : Nat) : State :=
  match look (s.core c).writes pa with
  | some w => if sc = 2 ∧ s.gangHas w.gang = false then s.orderOwn c (fun x => x == pa) else (s.loosen pa).placeByte c w.gang sc pa w
  | none => s

theorem State.placeAt_eq (sc pa : Nat) : s.placeAt c sc pa = if sc ≤ 1 then s.orderOwn c (fun x => x == pa)
    else if wide sc then (s.placeMine c sc pa).flushGangs c pa else s.placeMine c sc pa := rfl

theorem Onward.placeMine (sc pa : Nat) : Onward c s (s.placeMine c sc pa) := by
  unfold State.placeMine
  split
  · split
    · exact Onward.orderOwn ..
    · exact (Onward.loosen s c pa).trans (Onward.placeByte ..)
  · exact Onward.refl c s

theorem Beside.placeMine (sc pa : Nat) {x : Nat} (hx : x ≠ pa) : Beside c x s (s.placeMine c sc pa) := by
  unfold State.placeMine
  split
  · split
    · exact Beside.orderOwn s c _ (beq_eq_false_iff_ne.mpr hx)
    · exact (Beside.loosen s c pa x).trans (Beside.placeByte _ c _ _ _ _ hx)
  · exact Beside.refl c x s

theorem Onward.placeAt (sc pa : Nat) : Onward c s (s.placeAt c sc pa) := by
  rw [State.placeAt_eq]
  split
  · exact Onward.orderOwn ..
  · split
    · exact (Onward.placeMine s c sc pa).trans (Onward.flushGangs ..)
    · exact Onward.placeMine ..

theorem Beside.placeAt (sc pa : Nat) {x : Nat} (hx : x ≠ pa) : Beside c x s (s.placeAt c sc pa) := by
  rw [State.placeAt_eq]
  split
  · exact Beside.orderOwn s c _ (beq_eq_false_iff_ne.mpr hx)
  · split
    · exact (Beside.placeMine s c sc pa hx).trans (Beside.flushGangs _ c pa hx)
    · exact Beside.placeMine s c sc pa hx
end

/-! ## A unit of a core's snapshot -/

/-- A unit of a list, location by location: dropped or set. -/
def setUnit {α : Type} (gone : Nat → Bool) (v : Nat → α) (base n : Nat) (m : List (Nat × α)) : List (Nat × α) :=
  (List.range n).foldl (fun m i => if gone i then eraseAt m (base + i) else insertAt m (base + i) (v i)) m

section
variable {α : Type} (gone : Nat → Bool) (v : Nat → α) (base : Nat) (m : List (Nat × α))

theorem setUnit_succ (n : Nat) : setUnit gone v base (n + 1) m = if gone n then eraseAt (setUnit gone v base n m) (base + n)
    else insertAt (setUnit gone v base n m) (base + n) (v n) := by
  unfold setUnit
  rw [List.range_succ, List.foldl_append, List.foldl_cons, List.foldl_nil]

theorem look_setUnit_ne {x : Nat} : ∀ n, (∀ i < n, x ≠ base + i) → look (setUnit gone v base n m) x = look m x := by
  intro n
  induction n with
  | zero => exact fun _ => rfl
  | succ n ih =>
    intro h
    have hx := h n (Nat.lt_succ_self n)
    have ih := ih (fun i hi => h i (Nat.lt_succ_of_lt hi))
    rw [setUnit_succ]
    split
    · exact (look_eraseAt_ne _ hx).trans ih
    · exact (look_insertAt_ne _ _ hx).trans ih

theorem look_setUnit_set {i : Nat} (hg : gone i = false) : ∀ n, i < n → look (setUnit gone v base n m) (base + i) = some (v i) := by
  intro n
  induction n with
  | zero => exact fun h => absurd h (Nat.not_lt_zero i)
  | succ n ih =>
    intro h
    rw [setUnit_succ]
    by_cases hi : i = n
    · subst hi
      rw [hg, if_neg Bool.false_ne_true]
      exact look_insertAt_same ..
    · have hx : base + i ≠ base + n := by omega
      have ih := ih (by omega)
      split
      · exact (look_eraseAt_ne _ hx).trans ih
      · exact (look_insertAt_ne _ _ hx).trans ih

theorem setUnit_rising (h : risingFrom 0 m = true) : ∀ n, risingFrom 0 (setUnit gone v base n m) = true := by
  intro n
  induction n with
  | zero => exact h
  | succ n ih =>
    rw [setUnit_succ]
    split
    · exact risingFrom_eraseAt _ _ ih
    · exact risingFrom_insertAt _ _ _ ih (Nat.zero_le _)

theorem look_setUnit_gone (h : risingFrom 0 m = true) {i : Nat} (hg : gone i = true) : ∀ n, i < n → look (setUnit gone v base n m) (base + i) = none := by
  intro n
  induction n with
  | zero => exact fun h => absurd h (Nat.not_lt_zero i)
  | succ n ih =>
    intro hn
    rw [setUnit_succ]
    by_cases hi : i = n
    · subst hi
      rw [hg, if_pos rfl]
      exact look_eraseAt_same _ _ (setUnit_rising gone v base m h i)
    · have hx : base + i ≠ base + n := by omega
      have ih := ih (by omega)
      split
      · exact (look_eraseAt_ne _ hx).trans ih
      · exact (look_insertAt_ne _ _ hx).trans ih

theorem look_filter_key (p : Nat → Bool) (x : Nat) : look (m.filter (fun q => p q.1)) x = if p x = true then look m x else none := by
  induction m with
  | nil => exact (ite_self none).symm
  | cons q rest ih =>
    obtain ⟨k, w⟩ := q
    by_cases hk : p k = true
    · rw [List.filter_cons_of_pos (by exact hk), look, look, ih]
      by_cases hx : k = x
      · subst hx
        rw [if_pos rfl, if_pos rfl, if_pos hk]
      · rw [if_neg hx, if_neg hx]
    · rw [List.filter_cons_of_neg (by exact hk), ih, look]
      by_cases hx : k = x
      · subst hx
        rw [if_neg hk, if_neg hk]
      · rw [if_neg hx]
end

/-- The latest that the gangs of a core and the home hold of a location. -/
def State.freshByte (s : State) (c x : Nat) : Placed :=
  (s.gangsOn c).foldl (fun acc g =>
    match (s.gang? g).bind (fun k => look k.overlay x) with
    | some p => later acc p
    | none => acc) (s.home x)

/-- Whether the snapshot of a core lets go of a byte of a unit that it takes: it has no copy to take. -/
def State.unitGone (s : State) (base i : Nat) : Bool := isRemote base && (look s.copies (base + i)).isNone
/-- What it takes of a byte else. -/
def State.unitByte (s : State) (c base i : Nat) : Placed := later (s.freshByte c (base + i)) (s.snapByte c (base + i))

/-- A core whose snapshot takes a unit. -/
def Core.unitTaken (k : Core) (s : State) (c base : Nat) : Core :=
  { k with
    snap := setUnit (s.unitGone base) (s.unitByte c base) base 64 k.snap
    icache := if isRemote base then k.icache.filter (fun p => p.1 / 64 != base / 64 || s.freeBit (4600000 + p.1 % 64 / 2)) else k.icache }

theorem execSnapshotUpdate_eq (c pa : Nat) (s : State) : exec (.snapshotUpdate c pa) s = .next (s.onCore c (fun k => k.unitTaken s c (pa / 64 * 64))) := rfl

section
variable (s : State) (c : Nat)

theorem State.home_le_freshByte (x : Nat) : getD s.stamps 0 x ≤ (s.freshByte c x).stamp := by
  refine List.foldlRecOn (motive := fun a : Placed => getD s.stamps 0 x ≤ a.stamp) _ _ (Nat.le_refl _) (fun a ha g _ => ?_)
  split
  · rw [later_stamp]
    exact Nat.le_trans ha (Nat.le_max_left ..)
  · exact ha

/-- Cached instructions after a snapshot took a unit: outside the unit, and of memory of the package, as they were. -/
theorem Core.look_unitTaken_icache (k : Core) (base x : Nat) : look (k.unitTaken s c base).icache x =
    if isRemote base = true ∧ (x / 64 != base / 64 || s.freeBit (4600000 + x % 64 / 2)) = false then none else look k.icache x := by
  unfold Core.unitTaken
  dsimp only
  by_cases hr : isRemote base = true
  · rw [if_pos hr, look_filter_key k.icache (fun y => y / 64 != base / 64 || s.freeBit (4600000 + y % 64 / 2)) x]
    cases (x / 64 != base / 64 || s.freeBit (4600000 + x % 64 / 2)) with
    | true => rw [if_pos rfl, if_neg (fun h => Bool.false_ne_true h.2.symm)]
    | false => rw [if_neg Bool.false_ne_true, if_pos ⟨hr, rfl⟩]
  · rw [if_neg hr, if_neg (fun h => hr h.1)]

end

/-- A core's snapshot takes a unit, and nothing in it goes back. -/
theorem snapshotUpdate_takes (c pa : Nat) (s : State) : let base := pa / 64 * 64
    ∃ s', exec (.snapshotUpdate c pa) s = .next s' ∧ s.sameMemory s' ∧
      (∀ i < 64, isRemote base = false ∨ look s.copies (base + i) ≠ none → ∃ p, look (s'.core c).snap (base + i) = some p ∧
        (s.snapByte c (base + i)).stamp ≤ p.stamp ∧ getD s.stamps 0 (base + i) ≤ p.stamp) ∧
      (∀ i < 64, isRemote base = true → look s.copies (base + i) = none → risingFrom 0 (s.core c).snap = true →
        look (s'.core c).snap (base + i) = none) ∧
      (∀ x, x < base ∨ base + 64 ≤ x → s'.snapByte c x = s.snapByte c x) ∧
      (∀ x b, look (s'.core c).icache x = some b → look (s.core c).icache x = some b) ∧
      (∀ k x, k ≠ c ∨ isRemote base = false ∨ x < base ∨ base + 64 ≤ x → look (s'.core k).icache x = look (s.core k).icache x) ∧
      (∀ k, { s'.core k with snap := (s.core k).snap, icache := (s.core k).icache } = s.core k) ∧ { s' with cores := s.cores } = s := by
  intro base
  have hcore : ∀ k, (s.onCore c (fun k => k.unitTaken s c base)).core k = if k = c then (s.core c).unitTaken s c base else s.core k :=
    fun k => State.core_onCore ..
  refine ⟨_, execSnapshotUpdate_eq c pa s, fun _ => rfl, fun i hi hfar => ?_, fun i hi hfar hc hr => ?_, fun x hx => ?_, fun x b hb => ?_, fun k x hk => ?_,
    fun k => ?_, rfl⟩
  · refine ⟨later (s.freshByte c (base + i)) (s.snapByte c (base + i)), ?_, ?_, ?_⟩
    · rw [hcore, if_pos rfl]
      refine look_setUnit_set (s.unitGone base) (s.unitByte c base) base (s.core c).snap ?_ 64 hi
      unfold State.unitGone
      rcases hfar with h | h
      · rw [h, Bool.false_and]
      · rw [Option.isNone_eq_false_iff.mpr (Option.isSome_iff_ne_none.mpr h), Bool.and_false]
    · rw [later_stamp]
      exact Nat.le_max_right ..
    · rw [later_stamp]
      exact Nat.le_trans (State.home_le_freshByte s c _) (Nat.le_max_left ..)
  · rw [hcore, if_pos rfl]
    refine look_setUnit_gone (s.unitGone base) (s.unitByte c base) base _ hr ?_ 64 hi
    rw [State.unitGone, hfar, hc]
    rfl
  · have e : look ((s.onCore c (fun k => k.unitTaken s c base)).core c).snap x = look (s.core c).snap x := by
      rw [hcore, if_pos rfl]
      exact look_setUnit_ne (s.unitGone base) (s.unitByte c base) base (s.core c).snap 64 (fun i hi => by omega)
    unfold State.snapByte
    rw [e]
    rfl
  · rw [hcore, if_pos rfl, Core.look_unitTaken_icache] at hb
    split at hb
    · exact nomatch hb
    · exact hb
  · rw [hcore]
    split
    next h =>
      subst h
      rw [Core.look_unitTaken_icache, if_neg]
      rintro ⟨hr, hx⟩
      rcases hk with h | h | h
      · exact h rfl
      · rw [h] at hr
        exact Bool.false_ne_true hr
      · rw [Bool.or_eq_false_iff] at hx
        have : x / 64 = base / 64 := by simpa using hx.1
        omega
    next => rfl
  · rw [hcore]
    split
    next h =>
      subst h
      rfl
    next => rfl

/-! ## One location placed -/

theorem ordered_self (p : Nat → Bool) (n : Nat) {x : Nat} (hx : p x = true) (w : ViewWrite) : (ordered p n x w).val = w.val ∧ (ordered p n x w).stamp.isSome = true := by
  unfold ordered
  cases h : w.stamp with
  | none => rw [if_pos ⟨hx, rfl⟩]; exact ⟨rfl, rfl⟩
  | some m => rw [if_neg (fun hn => Bool.false_ne_true hn.2)]; exact ⟨rfl, by rw [h]; rfl⟩

section
variable {s : State} {c sc pa : Nat}

theorem State.placeAt_ordered (h : sc ≤ 1) : s.placeAt c sc pa = s.orderOwn c (fun x => x == pa) := by rw [State.placeAt_eq, if_pos h]

theorem State.placeAt_gang (h : sc = 2) : s.placeAt c sc pa = s.placeMine c sc pa := by
  subst h
  rw [State.placeAt_eq, if_neg (by omega), wide, decide_eq_false (by omega), if_neg Bool.false_ne_true]

theorem State.placeAt_wide (h : 3 ≤ sc) : s.placeAt c sc pa = (s.placeMine c sc pa).flushGangs c pa := by
  rw [State.placeAt_eq, if_neg (by omega), wide, decide_eq_true h, if_pos rfl]

/-- A write that its scope leaves in the view has a place there. -/
theorem State.orderOwn_has {w : ViewWrite} (hw : look (s.core c).writes pa = some w) :
    ∃ p, look ((s.orderOwn c (fun x => x == pa)).core c).writes pa = some p ∧ p.val = w.val ∧ p.stamp.isSome = true := by
  rw [look_orderOwn, hw]
  exact ⟨_, rfl, ordered_self _ _ (beq_self_eq_true pa) w⟩

theorem State.placeMine_ordered {w : ViewWrite} (h : sc = 2) (hw : look (s.core c).writes pa = some w) (hg : s.gangHas w.gang = false) :
    s.placeMine c sc pa = s.orderOwn c (fun x => x == pa) := by
  unfold State.placeMine
  rw [hw]
  exact if_pos ⟨h, hg⟩

theorem State.placeMine_places {w : ViewWrite} (hw : look (s.core c).writes pa = some w) (hg : sc = 2 → s.gangHas w.gang = true) :
    s.placeMine c sc pa = (s.loosen pa).placeByte c w.gang sc pa w := by
  unfold State.placeMine
  rw [hw]
  refine if_neg (fun h => ?_)
  rw [hg h.1] at h
  exact Bool.false_ne_true h.2.symm

theorem State.placeMine_none (hw : look (s.core c).writes pa = none) : s.placeMine c sc pa = s := by
  unfold State.placeMine
  rw [hw]

/-- What is placed wider than the gang has left the core's writes. -/
theorem State.placeAt_leaves (h : 3 ≤ sc) (hr : risingFrom 0 (s.core c).writes = true) : look ((s.placeAt c sc pa).core c).writes pa = none := by
  rw [State.placeAt_wide h, State.flushGangs_writes]
  cases hw : look (s.core c).writes pa with
  | none => rw [State.placeMine_none hw]; exact hw
  | some w =>
    rw [State.placeMine_places hw (fun h2 => by omega), State.placeByte_writes, if_pos rfl]
    exact look_eraseAt_same _ _ hr

/-- A write placed at .gang: it is in the instance of its gang, at its place. -/
theorem State.placeAt_instance {w : ViewWrite} {k : Gang} (h : sc = 2) (hw : look (s.core c).writes pa = some w) (hr : risingFrom 0 (s.core c).writes = true)
    (hg : s.gangHas w.gang = true) (hk : s.gang? w.gang = some k) : look ((s.placeAt c sc pa).core c).writes pa = none ∧
    ∃ k', (s.placeAt c sc pa).gang? w.gang = some k' ∧ look k'.overlay pa = some (match look k.overlay pa with
      | some q => later q ⟨w.val, w.stamp.getD (s.stamp + 1)⟩
      | none => ⟨w.val, w.stamp.getD (s.stamp + 1)⟩) := by
  rw [State.placeAt_gang h, State.placeMine_places hw (fun _ => hg)]
  refine ⟨?_, k.takes pa ⟨w.val, w.stamp.getD (s.stamp + 1)⟩, ?_, Gang.look_takes_same ..⟩
  · rw [State.placeByte_writes, if_pos rfl]
    exact look_eraseAt_same _ _ hr
  · rw [State.placeByte_eq, if_neg (by rw [wide, decide_eq_false (by omega)]; exact Bool.false_ne_true)]
    have e : (((s.loosen pa).takenIn c pa w).onGang w.gang (fun k => k.takes pa ⟨w.val, w.stamp.getD (s.stamp + 1)⟩)).gang? w.gang =
        if w.gang = w.gang then (s.gang? w.gang).map (fun k => k.takes pa ⟨w.val, w.stamp.getD (s.stamp + 1)⟩) else s.gang? w.gang := look_onKey ..
    rw [if_pos rfl, hk] at e
    exact e

/-- With no gang holding a location, nothing of it goes to the home. -/
theorem State.flushGangs_none (h : ∀ g k, s.gang? g = some k → look k.overlay pa = none) : s.flushGangs c pa = s := by
  unfold State.flushGangs
  exact List.foldlRecOn (motive := fun t : State => t = s) _ _ rfl (fun t ht g _ => by
    subst ht
    exact State.flushByte_none _ g pa (fun k hk => h g k hk))

theorem State.homeWrite_here (hm : memWf s.mem = true) (hst : canonical (0 : Nat) s.stamps = true) (gang : Option Nat) (b : Byte) (n : Nat) :
    (s.homeWrite gang pa b n).home pa = if getD s.stamps 0 pa ≤ n then ⟨b, n⟩ else s.home pa := by
  rw [State.home, State.home, State.homeWrite_stamps, State.homeWrite_mem]
  split
  · rw [writeMem, readMem, getD_setD_same _ _ _ _ hm, getD_setD_same _ _ _ _ hst]
  · rfl

/-- A write placed wider than the gang, that no gang holds anything after: it is at the home at its place, unless a later write stands there. -/
theorem State.placeAt_home {w : ViewWrite} (h : 3 ≤ sc) (hw : look (s.core c).writes pa = some w) (hm : memWf s.mem = true)
    (hst : canonical (0 : Nat) s.stamps = true) (hg : ∀ g k, s.gang? g = some k → look k.overlay pa = none) :
    (s.placeAt c sc pa).home pa = if getD s.stamps 0 pa ≤ w.stamp.getD (s.stamp + 1) then ⟨w.val, w.stamp.getD (s.stamp + 1)⟩ else s.home pa := by
  rw [State.placeAt_wide h, State.placeMine_places hw (fun h2 => by omega), State.placeByte_eq, if_pos (by rw [wide, decide_eq_true h])]
  rw [State.flushGangs_none]
  · exact State.homeWrite_here (s := (s.loosen pa).takenIn c pa w) hm hst ..
  · intro g k hk
    have e := State.homeWrite_overlay ((s.loosen pa).takenIn c pa w) (some w.gang) pa w.val (w.stamp.getD ((s.loosen pa).stamp + 1)) g pa
    rw [hk, Option.map_some] at e
    obtain ⟨k1, hk1, e1⟩ := Option.map_eq_some_iff.mp e.symm
    exact e1.symm.trans (hg g k1 hk1)

/-- What the one gang that holds a location has of it goes to the home. -/
theorem State.flushByte_one {g : Nat} {k : Gang} {p : Placed} (hk : s.gang? g = some k) (hp : look k.overlay pa = some p)
    (hothers : ∀ h o, h ≠ g → s.gang? h = some o → look o.overlay pa = none) (hm : memWf s.mem = true) (hr : risingFrom 0 k.overlay = true)
    (hle : getD s.stamps 0 pa ≤ p.stamp) :
    readMem (s.flushByte g pa).mem pa = p.val ∧ (∃ k', (s.flushByte g pa).gang? g = some k') ∧
    ∀ h o, (s.flushByte g pa).gang? h = some o → look o.overlay pa = none := by
  rw [State.flushByte_eq s g pa hk hp]
  have hgang : ∀ h, ((s.homeWrite (some g) pa p.val p.stamp).onGang g (fun k => { k with overlay := eraseAt k.overlay pa })).gang? h =
      if h = g then ((s.homeWrite (some g) pa p.val p.stamp).gang? g).map (fun k => { k with overlay := eraseAt k.overlay pa })
      else (s.homeWrite (some g) pa p.val p.stamp).gang? h := fun h => look_onKey ..
  have hover := State.homeWrite_overlay s (some g) pa p.val p.stamp
  obtain ⟨k1, hk1, e1⟩ : ∃ k1, (s.homeWrite (some g) pa p.val p.stamp).gang? g = some k1 ∧ k1.overlay = k.overlay := by
    rcases State.homeWrite_gang s (some g) pa p.val p.stamp g with e | ⟨f, e⟩
    · exact ⟨k, e.trans hk, rfl⟩
    · rw [hk] at e
      exact ⟨_, e, rfl⟩
  refine ⟨?_, ⟨_, by rw [hgang, if_pos rfl, hk1]; rfl⟩, fun h o ho => ?_⟩
  · have e : readMem (s.homeWrite (some g) pa p.val p.stamp).mem pa = p.val := by
      rw [State.homeWrite_mem, if_pos hle]
      exact getD_setD_same _ _ _ _ hm
    exact e
  · rw [hgang] at ho
    by_cases hg : h = g
    · rw [if_pos hg, hk1] at ho
      obtain rfl := Option.some.inj ho
      exact look_eraseAt_same _ _ (by rw [e1]; exact hr)
    · rw [if_neg hg] at ho
      have e := hover h pa
      rw [ho, Option.map_some] at e
      obtain ⟨o1, ho1, e2⟩ := Option.map_eq_some_iff.mp e.symm
      exact e2.symm.trans (hothers h o1 hg ho1)

theorem State.flushGangs_one {g : Nat} {k : Gang} {p : Placed} (hon : g ∈ s.gangsOn c) (hk : s.gang? g = some k) (hp : look k.overlay pa = some p)
    (hothers : ∀ h o, h ≠ g → s.gang? h = some o → look o.overlay pa = none) (hm : memWf s.mem = true) (hr : risingFrom 0 k.overlay = true)
    (hle : getD s.stamps 0 pa ≤ p.stamp) :
    readMem (s.flushGangs c pa).mem pa = p.val ∧ ∃ k', (s.flushGangs c pa).gang? g = some k' ∧ look k'.overlay pa = none := by
  obtain ⟨hval, ⟨k', hk'⟩, hnone⟩ := State.flushByte_one hk hp hothers hm hr hle
  have hstill : ∀ l : List Nat, l.foldl (fun t h => t.flushByte h pa) (s.flushByte g pa) = s.flushByte g pa := fun l =>
    List.foldlRecOn (motive := fun t : State => t = s.flushByte g pa) _ _ rfl (fun t ht h _ => by
      subst ht
      exact State.flushByte_none _ h pa (fun k hk => hnone h k hk))
  have hfold : ∀ l : List Nat, g ∈ l → l.foldl (fun t h => t.flushByte h pa) s = s.flushByte g pa := by
    intro l
    induction l with
    | nil => exact fun h => nomatch h
    | cons h rest ih =>
      intro hmem
      rw [List.foldl_cons]
      by_cases hg : h = g
      · subst hg
        exact hstill rest
      · rw [State.flushByte_none s h pa (fun o ho => hothers h o hg ho)]
        exact ih ((List.mem_cons.mp hmem).resolve_left (Ne.symm hg))
  unfold State.flushGangs
  rw [hfold _ hon]
  exact ⟨hval, k', hk', hnone g k' hk'⟩
end

/-! ## What the device places -/

/-- Whether a location goes with the one that the device places: it is that one, or one of its unit that the device chooses. -/
def State.goesAlong (s : State) (pa x : Nat) : Bool := x == pa || (x / 64 == pa / 64 && s.freeBit (4500000 + x % 64))
/-- The places of a unit that go along. -/
def State.along (s : State) (pa : Nat) : List Nat := (List.range 64).filter (fun i => s.goesAlong pa (pa / 64 * 64 + i))
/-- All of them placed. -/
def State.placeUnit (s : State) (c pa sc : Nat) : State := (s.along pa).foldl (fun t i => t.placeAt c sc (pa / 64 * 64 + i)) s
/-- At .system, what lies beyond the package is sent. -/
def State.placeSend (s : State) (c pa sc : Nat) : State :=
  if sc = 5 then ((s.placeUnit c pa sc).sendDirty Issuer.device false (fun x => s.goesAlong pa x && !(s.placeUnit c pa sc).outOfReach x)).1 else s.placeUnit c pa sc

theorem execSpontaneousPlacement_eq (c pa sc : Nat) (s : State) : exec (.spontaneousPlacement c pa sc) s = .next (if 5 < sc then s else s.placeSend c pa sc) := by
  have e : exec (.spontaneousPlacement c pa sc) s = execSpontaneousPlacement c pa sc s := rfl
  rw [e]
  unfold execSpontaneousPlacement
  dsimp only
  split
  · rfl
  · rfl

section
variable (s : State) (c pa sc : Nat)

theorem State.placeSend_same : (s.placeSend c pa sc).blocks = (s.placeUnit c pa sc).blocks ∧ (s.placeSend c pa sc).launches = (s.placeUnit c pa sc).launches ∧
    (s.placeSend c pa sc).stamp = (s.placeUnit c pa sc).stamp ∧ (s.placeSend c pa sc).mem = (s.placeUnit c pa sc).mem ∧
    (s.placeSend c pa sc).stamps = (s.placeUnit c pa sc).stamps ∧ (s.placeSend c pa sc).cores = (s.placeUnit c pa sc).cores ∧
    (s.placeSend c pa sc).gangs = (s.placeUnit c pa sc).gangs := by
  unfold State.placeSend
  split <;> exact ⟨rfl, rfl, rfl, rfl, rfl, rfl, rfl⟩

theorem Onward.placeSend : Onward c (s.placeUnit c pa sc) (s.placeSend c pa sc) := by
  obtain ⟨h1, h2, h3, h4, h5, h6, h7⟩ := State.placeSend_same s c pa sc
  exact Onward.of_same h1 h2 (Nat.le_of_eq h3.symm) h4 h5 h6 h7
theorem Beside.placeSend (x : Nat) : Beside c x (s.placeUnit c pa sc) (s.placeSend c pa sc) := by
  obtain ⟨-, -, -, h4, h5, h6, h7⟩ := State.placeSend_same s c pa sc
  exact Beside.of_same h4 h5 h6 h7

/-- A unit placed keeps what does not go along. -/
theorem State.placeSend_beside {x : Nat} (hx : ∀ i ∈ s.along pa, x ≠ pa / 64 * 64 + i) : Beside c x s (s.placeSend c pa sc) :=
  (Beside.foldl _ (fun t i hi => Beside.placeAt t c sc _ (hx i hi)) s).trans (Beside.placeSend s c pa sc x)

theorem State.placeSend_onward : Onward c s (s.placeSend c pa sc) := (Onward.foldl (fun t _ => Onward.placeAt t c sc _) _ s).trans (Onward.placeSend s c pa sc)

/-- A location that goes along is placed, once, with nothing else of it changed before or after. -/
theorem State.placeSend_at {i : Nat} (hi : i ∈ s.along pa) : ∃ t, Onward c s t ∧ Beside c (pa / 64 * 64 + i) s t ∧
    Onward c (t.placeAt c sc (pa / 64 * 64 + i)) (s.placeSend c pa sc) ∧ Beside c (pa / 64 * 64 + i) (t.placeAt c sc (pa / 64 * 64 + i)) (s.placeSend c pa sc) := by
  have hnd : (s.along pa).Nodup := List.nodup_range.filter _
  obtain ⟨l1, l2, hl⟩ := List.append_of_mem hi
  rw [hl] at hnd
  have hne1 : ∀ j ∈ l1, j ≠ i := fun j hj h => by
    subst h
    exact (List.nodup_append.mp hnd).2.2 j hj j (List.mem_cons_self ..) rfl
  have hne2 : ∀ j ∈ l2, j ≠ i := fun j hj h => by
    subst h
    exact (List.nodup_cons.mp (List.nodup_append.mp hnd).2.1).1 hj
  have e : s.placeUnit c pa sc = l2.foldl (fun t i => t.placeAt c sc (pa / 64 * 64 + i))
      ((l1.foldl (fun t i => t.placeAt c sc (pa / 64 * 64 + i)) s).placeAt c sc (pa / 64 * 64 + i)) := by
    unfold State.placeUnit
    rw [hl, List.foldl_append, List.foldl_cons]
  refine ⟨l1.foldl (fun t i => t.placeAt c sc (pa / 64 * 64 + i)) s, Onward.foldl (fun t _ => Onward.placeAt t c sc _) _ s,
    Beside.foldl _ (fun t j hj => Beside.placeAt t c sc _ (fun h => hne1 j hj (by omega))) s, ?_, ?_⟩
  · refine Onward.trans ?_ (Onward.placeSend s c pa sc)
    rw [e]
    exact Onward.foldl (fun t _ => Onward.placeAt t c sc _) _ _
  · refine Beside.trans ?_ (Beside.placeSend s c pa sc _)
    rw [e]
    exact Beside.foldl _ (fun t j hj => Beside.placeAt t c sc _ (fun h => hne2 j hj (by omega))) _

theorem State.self_along : pa % 64 ∈ s.along pa := by
  refine List.mem_filter.mpr ⟨List.mem_range.mpr (Nat.mod_lt _ (by decide)), ?_⟩
  unfold State.goesAlong
  rw [beq_iff_eq.mpr (show pa / 64 * 64 + pa % 64 = pa by omega)]
  rfl

theorem State.placeSend_self : ∃ t, Onward c s t ∧ Beside c pa s t ∧ Onward c (t.placeAt c sc pa) (s.placeSend c pa sc) ∧
    Beside c pa (t.placeAt c sc pa) (s.placeSend c pa sc) := by
  have h := State.placeSend_at s c pa sc (State.self_along s pa)
  rw [show pa / 64 * 64 + pa % 64 = pa by omega] at h
  exact h

/-- A placement at .gang or narrower writes nothing at the home. -/
theorem State.placeAt_mem (h : sc ≤ 2) : (s.placeAt c sc pa).mem = s.mem := by
  rw [State.placeAt_eq]
  split
  · rfl
  · rw [if_neg (by rw [wide, decide_eq_false (by omega)]; exact Bool.false_ne_true)]
    unfold State.placeMine
    split
    · split
      · rfl
      · rw [State.placeByte_eq, if_neg (by rw [wide, decide_eq_false (by omega)]; exact Bool.false_ne_true)]
        rfl
    · rfl

theorem State.placeSend_mem (h : sc ≤ 2) : (s.placeSend c pa sc).mem = s.mem := by
  rw [(State.placeSend_same s c pa sc).2.2.2.1]
  exact List.foldlRecOn (motive := fun t : State => t.mem = s.mem) _ _ rfl (fun t ht i _ => (State.placeAt_mem t c _ sc h).trans ht)

/-- Writes that take places in their orders change no view. -/
theorem State.viewByte_orderOwn (p : Nat → Bool) (k x : Nat) : (s.orderOwn c p).viewByte k x = s.viewByte k x := by
  have hsnap : (s.orderOwn c p).snapByte k x = s.snapByte k x := by
    have e : ((s.orderOwn c p).core k).snap = (s.core k).snap := by
      rw [State.orderOwn, State.core_onCore]
      split
      next h =>
        subst h
        rfl
      next => rfl
    unfold State.snapByte
    rw [e]
    rfl
  unfold State.viewByte
  rw [hsnap]
  by_cases hk : k = c
  · subst hk
    rw [look_orderOwn]
    cases look (s.core k).writes x with
    | none => rfl
    | some w =>
      dsimp only [Option.map_some]
      unfold ordered
      split <;> rfl
  · have e : ((s.orderOwn c p).core k).writes = (s.core k).writes := by
      rw [State.orderOwn, State.core_onCore, if_neg hk]
      rfl
    rw [e]

theorem State.viewByte_of_same {s t : State} (hc : t.cores = s.cores) (hb : t.blocks = s.blocks) (hg : t.gangs = s.gangs) (hm : t.mem = s.mem)
    (hst : t.stamps = s.stamps) (k x : Nat) : t.viewByte k x = s.viewByte k x := by
  unfold State.viewByte State.snapByte State.gangsOn State.gang? State.home State.core
  rw [hc, hb, hg, hm, hst]

theorem State.placeSend_view (h : sc ≤ 1) (k x : Nat) : (s.placeSend c pa sc).viewByte k x = s.viewByte k x := by
  obtain ⟨h1, -, -, h4, h5, h6, h7⟩ := State.placeSend_same s c pa sc
  rw [State.viewByte_of_same h6 h1 h7 h4 h5]
  exact List.foldlRecOn (motive := fun t : State => t.viewByte k x = s.viewByte k x) _ _ rfl (fun t ht i _ => by
    rw [State.placeAt_ordered h, State.viewByte_orderOwn, ht])
end

/-- The place of a write: its own, or one after all that have been given out. -/
theorem placeOf_write {n m : Nat} (w : ViewWrite) (h : n ≤ m) : (w.stamp = none → n < w.stamp.getD (m + 1)) ∧ ∀ k, w.stamp = some k → w.stamp.getD (m + 1) = k := by
  refine ⟨fun e => ?_, fun k e => by rw [e]; rfl⟩
  rw [e]
  exact Nat.lt_succ_of_le h

/-- The write of one location leaves the core's own writes for the order at a scope. -/
theorem spontaneousPlacement_places (c pa sc : Nat) (s : State) : let base := pa / 64 * 64
    ∃ s', exec (.spontaneousPlacement c pa sc) s = .next s' ∧ (5 < sc → s' = s) ∧ (sc ≤ 2 → s.sameMemory s') ∧
      (sc ≤ 1 → (∀ k x, s'.viewByte k x = s.viewByte k x) ∧ ∀ w, look (s.core c).writes pa = some w →
        ∃ p, look (s'.core c).writes pa = some p ∧ p.val = w.val ∧ p.stamp.isSome = true) ∧
      (∀ w, sc = 2 → look (s.core c).writes pa = some w → risingFrom 0 (s.core c).writes = true →
        (s.gangHas w.gang = false → ∃ p, look (s'.core c).writes pa = some p ∧ p.val = w.val ∧ p.stamp.isSome = true) ∧
        (∀ k, s.gangHas w.gang = true → s.gang? w.gang = some k → look (s'.core c).writes pa = none ∧
          ∃ n k', (w.stamp = none → s.stamp < n) ∧ (∀ m, w.stamp = some m → n = m) ∧ s'.gang? w.gang = some k' ∧
            look k'.overlay pa = some (match look k.overlay pa with
              | some q => later q ⟨w.val, n⟩
              | none => ⟨w.val, n⟩))) ∧
      (3 ≤ sc → sc ≤ 5 → risingFrom 0 (s.core c).writes = true → look (s'.core c).writes pa = none ∧
        (∀ x, look (s'.core c).writes x = look (s.core c).writes x ∨ look (s'.core c).writes x = none ∧ base ≤ x ∧ x < base + 64)) ∧
      (∀ w, 3 ≤ sc → sc ≤ 5 → risingFrom 0 (s.core c).writes = true → look (s.core c).writes pa = some w → memWf s.mem = true →
        canonical (0 : Nat) s.stamps = true → (∀ g k, s.gang? g = some k → look k.overlay pa = none) →
        ∃ n, (w.stamp = none → s.stamp < n) ∧ (∀ m, w.stamp = some m → n = m) ∧
          (getD s.stamps 0 pa ≤ n → readMem s'.mem pa = w.val ∧ getD s'.stamps 0 pa = n) ∧
          (n < getD s.stamps 0 pa → readMem s'.mem pa = readMem s.mem pa ∧ getD s'.stamps 0 pa = getD s.stamps 0 pa)) ∧
      (∀ g k p, 3 ≤ sc → sc ≤ 5 → look (s.core c).writes pa = none → g ∈ s.gangsOn c → s.gang? g = some k → look k.overlay pa = some p →
        (∀ h o, h ≠ g → s.gang? h = some o → look o.overlay pa = none) → memWf s.mem = true → risingFrom 0 k.overlay = true →
        getD s.stamps 0 pa ≤ p.stamp → readMem s'.mem pa = p.val ∧ ∃ k', s'.gang? g = some k' ∧ look k'.overlay pa = none) ∧
      (∀ k x, getD s.stamps 0 x ≤ getD s'.stamps 0 x ∧ (s.snapByte k x).stamp ≤ (s'.snapByte k x).stamp) := by
  intro base
  by_cases h5 : 5 < sc
  · refine ⟨s, by rw [execSpontaneousPlacement_eq, if_pos h5], fun _ => rfl, fun _ _ => rfl, fun h => by omega, fun _ h => by omega, fun _ h => by omega,
      fun _ _ h => by omega, fun _ _ _ _ h => by omega, fun k x => ⟨Nat.le_refl _, Nat.le_refl _⟩⟩
  · obtain ⟨t, ho, hb, ho', hb'⟩ := State.placeSend_self s c pa sc
    have hall := State.placeSend_onward s c pa sc
    have hback : ∀ u : State, u = t.placeAt c sc pa → ∀ w p, look (u.core c).writes pa = some p ∧ p.val = w ∧ p.stamp.isSome = true →
        ∃ p, look ((s.placeSend c pa sc).core c).writes pa = some p ∧ p.val = w ∧ p.stamp.isSome = true := by
      rintro u rfl w p ⟨hp, hrest⟩
      exact ⟨p, hb'.write.trans hp, hrest⟩
    refine ⟨s.placeSend c pa sc, by rw [execSpontaneousPlacement_eq, if_neg h5], fun h => absurd h h5, fun h x => ?_, fun h => ⟨fun k x => ?_, fun w hw => ?_⟩,
      fun w h2 hw hr => ⟨fun hg => ?_, fun k hg hk => ?_⟩, fun h3 _ hr => ⟨?_, fun x => ?_⟩, fun w h3 _ hr hw hm hst hg => ?_,
      fun g k p h3 _ hw hon hk hp hothers hm hr hle => ?_, fun k x => ⟨hall.home x, hall.snapByte k x⟩⟩
    · rw [State.placeSend_mem s c pa sc h]
    · exact State.placeSend_view s c pa sc h k x
    · obtain ⟨p, hp⟩ := State.orderOwn_has (hb.write.trans hw)
      exact hback _ (State.placeAt_ordered h).symm _ p hp
    · obtain ⟨p, hp⟩ := State.orderOwn_has (hb.write.trans hw)
      refine hback _ ?_ _ p hp
      rw [State.placeAt_gang h2, State.placeMine_ordered h2 (hb.write.trans hw) ((hb.gangHas ho w.gang).trans hg)]
    · obtain ⟨k1, hk1, e1⟩ := hb.held hk
      obtain ⟨hnone, k2, hk2, e2⟩ := State.placeAt_instance (pa := pa) h2 (hb.write.trans hw) (ho.rising hr) ((hb.gangHas ho w.gang).trans hg) hk1
      obtain ⟨k3, hk3, e3⟩ := hb'.held hk2
      rw [e1] at e2
      obtain ⟨hp1, hp2⟩ := placeOf_write w ho.stamp
      exact ⟨hb'.write.trans hnone, _, k3, hp1, fun m e => hp2 m e, hk3, e3.trans e2⟩
    · exact hb'.write.trans (State.placeAt_leaves h3 (ho.rising hr))
    · by_cases hx : ∃ i ∈ s.along pa, x = base + i
      · obtain ⟨i, hi, rfl⟩ := hx
        obtain ⟨u, hou, -, -, hbu⟩ := State.placeSend_at s c pa sc hi
        have hlt := List.mem_range.mp (List.mem_filter.mp hi).1
        exact .inr ⟨hbu.write.trans (State.placeAt_leaves h3 (hou.rising hr)), by omega, by omega⟩
      · exact .inl (State.placeSend_beside s c pa sc (fun i hi e => hx ⟨i, hi, e⟩)).write
    · have hnone : ∀ g k, t.gang? g = some k → look k.overlay pa = none := fun g k hk => by
        obtain ⟨k1, hk1, e1⟩ := hb.was hk
        exact e1.trans (hg g k1 hk1)
      have hhome := hb'.home.trans (State.placeAt_home h3 (hb.write.trans hw) (ho.wf hm) (ho.stamps hst) hnone)
      have hsame : getD t.stamps 0 pa = getD s.stamps 0 pa := (congrArg Placed.stamp hb.home :)
      obtain ⟨hp1, hp2⟩ := placeOf_write w ho.stamp
      rw [hsame] at hhome
      refine ⟨_, hp1, fun m e => hp2 m e, fun hle => ?_, fun hlt => ?_⟩
      · rw [if_pos hle] at hhome
        exact ⟨(congrArg Placed.val hhome :), (congrArg Placed.stamp hhome :)⟩
      · rw [if_neg (by omega), hb.home] at hhome
        exact ⟨(congrArg Placed.val hhome :), (congrArg Placed.stamp hhome :)⟩
    · obtain ⟨k1, hk1, e1, hr1⟩ := ho.gang g k hk
      obtain ⟨k1', hk1', e1'⟩ := hb.held hk
      obtain rfl := Option.some.inj (hk1.symm.trans hk1')
      have hsame : getD t.stamps 0 pa = getD s.stamps 0 pa := (congrArg Placed.stamp hb.home :)
      have hat : t.placeAt c sc pa = t.flushGangs c pa := by rw [State.placeAt_wide h3, State.placeMine_none (hb.write.trans hw)]
      obtain ⟨hval, k2, hk2, e2⟩ := State.flushGangs_one (c := c) (by rw [ho.gangsOn]; exact hon) hk1 (e1'.trans hp) (fun h o hne ho1 => by
        obtain ⟨o1, ho2, e3⟩ := hb.was ho1
        exact e3.trans (hothers h o1 hne ho2)) (ho.wf hm) (hr1 hr) (by rw [hsame]; exact hle)
      rw [hat] at hb'
      obtain ⟨k3, hk3, e3⟩ := hb'.held hk2
      exact ⟨((congrArg Placed.val hb'.home :)).trans hval, k3, hk3, e3.trans e2⟩

/-- Settles O26: a unit taken is read location by location; a placement keeps what stands at every location but the ones it places, and nothing goes back. -/
theorem unaskedUpdates : Obligations.UnaskedUpdates := by
  unfold Obligations.UnaskedUpdates
  intro c pa s base
  exact ⟨snapshotUpdate_takes c pa s, fun sc => spontaneousPlacement_places c pa sc s⟩

end Sys2Proof.Machine
end

section
/-! PROOFS. Publish and refresh (spec/08 R146, R147, R152, R153, R165, R166): O25. -/

namespace Sys2Proof.Machine
open Sys2Proof.Claims

/-! ## Their issue -/

section
variable {s : State} {w : Wave} {th : Thread} (h : s.OnPath w th)

/-- The accesses of a phase issued, one after another: none may throw. -/
theorem Thread.issue_phases (kinds : List AccKind) (hk : ∀ k ∈ kinds, mayThrow k (.phys 0) = false) : ∀ t : Thread, t.pc = th.pc → t.hsilent = th.hsilent →
    kinds.foldl (fun u k => u.issue s k (.phys 0) 0) t = { t with acc := t.acc ++ kinds.map (fun k => issuedAt s th k (.phys 0) 0) } := by
  induction kinds with
  | nil =>
    intro t _ _
    rw [List.map_nil, List.append_nil]
    rfl
  | cons k rest ih =>
    intro t hpc hsil
    have hno := hk k (List.mem_cons_self ..)
    have e : t.issue s k (.phys 0) 0 = { t with acc := t.acc ++ [issuedAt s th k (.phys 0) 0] } := by
      unfold Thread.issue issuedAt
      rw [hno, hpc, hsil]
      rfl
    rw [List.foldl_cons, e]
    refine (ih (fun k' hk' => hk k' (List.mem_cons_of_mem _ hk')) { t with acc := t.acc ++ [issuedAt s th k (.phys 0) 0] } hpc hsil).trans ?_
    dsimp only
    rw [List.append_assoc]
    rfl

include h
/-- A phase issues at its scope, or traps where the function's policy forbids it. -/
theorem phase_issues (kinds : List AccKind) (hk : ∀ k ∈ kinds, mayThrow k (.phys 0) = false) (c : BitVec 3) (t : Bool) :
    ∃ s', phase kinds c t s = .next s' ∧ s.sameMemory s' ∧
      s'.lane? w.core w.slot th.lane = some (if s.scopeForbidden (s.vfOf w.blk) c.toNat = true then Thread.trap s w.regs th cSCOPE th.pc
        else { th with acc := th.acc ++ kinds.map (fun k => issuedAt s th k (.phys 0) 0) }.after s.cur.len t) := by
  refine ⟨_, congrArg Host.Outcome.next (show _ = if s.scopeForbidden (s.vfOf w.blk) c.toNat = true then s.trapAll cSCOPE
    else (s.perLane t (fun _ th => .next (kinds.foldl (fun u k => u.issue s k (.phys 0) 0) th))).flushFor s.cur.core w.blk by
      rw [show s.curWave = some w from h.wave]), ?_, ?_⟩
  · intro pa
    split
    · exact congrArg (fun m => readMem m pa) (State.perLane_mem ..)
    · rw [(OnlyWaves.flushFor _ _ _).mem]
      exact congrArg (fun m => readMem m pa) (State.perLane_mem ..)
  · by_cases hf : s.scopeForbidden (s.vfOf w.blk) c.toNat = true
    · rw [if_pos hf, if_pos hf]
      exact State.trapAll_traps h cSCOPE
    · rw [if_neg hf, if_neg hf, State.lane?_of_waves (State.flushFor_waves _ _ _)]
      have hlane : ∀ (v : Wave) (u : Thread), (Out.next (kinds.foldl (fun x k => x.issue s k (.phys 0) 0) u)).thread.lane = u.lane := fun v u =>
        (congrArg Thread.lane (Thread.issue_phases (s := s) (th := u) kinds hk u rfl rfl) :)
      rw [State.perLane_lane h t _ hlane, Out.apply_next, Thread.issue_phases kinds hk th rfl rfl]
end

/-! ## A publish performed -/

section
variable {s : State} {c g sc pa : Nat} {hg : Bool}

/-- A location that no gang holds, and its byte at the home. -/
def HomeOnly (s : State) (pa : Nat) (b : Byte) : Prop := readMem s.mem pa = b ∧ ∀ g k, s.gang? g = some k → look k.overlay pa = none

theorem HomeOnly.beside {t : State} {b : Byte} (h : HomeOnly s pa b) (hb : Beside c pa s t) : HomeOnly t pa b := by
  refine ⟨(congrArg Placed.val hb.home :).trans h.1, fun g k hk => ?_⟩
  obtain ⟨k1, hk1, e⟩ := hb.was hk
  exact e.trans (h.2 g k1 hk1)

theorem mem_keys_of_look_none {α : Type} {m : List (Nat × α)} {x : Nat} (h : look m x = none) : ∀ p ∈ m, x ≠ p.1 := by
  induction m with
  | nil => exact fun p hp => nomatch hp
  | cons q rest ih =>
    obtain ⟨k, v⟩ := q
    rw [look] at h
    split at h
    · exact nomatch h
    next hk =>
      intro p hp
      rcases List.mem_cons.mp hp with rfl | hp
      · exact fun e => hk e.symm
      · exact ih h p hp

theorem rising_pairwise {α : Type} (m : List (Nat × α)) : ∀ {n}, risingFrom n m = true → (∀ p ∈ m, n ≤ p.1) ∧ m.Pairwise (fun p q => p.1 < q.1) := by
  induction m with
  | nil => exact fun _ => ⟨fun p hp => (nomatch hp), List.Pairwise.nil⟩
  | cons q rest ih =>
    intro n h
    obtain ⟨k, v⟩ := q
    rw [risingFrom, Bool.and_eq_true, decide_eq_true_iff] at h
    obtain ⟨hlow, hpair⟩ := ih h.2
    refine ⟨fun p hp => ?_, List.pairwise_cons.mpr ⟨fun p hp => hlow p hp, hpair⟩⟩
    rcases List.mem_cons.mp hp with rfl | hp
    · exact h.1
    · have := hlow p hp
      omega

theorem State.covered_rest (s : State) (c : Nat) : { s.covered c with loose := s.loose } = s :=
  List.foldlRecOn (motive := fun t : State => { t with loose := s.loose } = s) _ _ rfl (fun t ht p _ =>
    ((congrArg (fun x : State => { x with
      loose := s.loose }) (State.bind_eq t _ _) :)).trans ht)

/-- What the gangs hold of other locations goes to the home beside it. -/
theorem HomeOnly.flushOverlay {b : Byte} (h : HomeOnly s pa b) (g : Nat) : HomeOnly (s.flushOverlay g) pa b := by
  unfold State.flushOverlay
  cases hk : s.gang? g with
  | none => exact h
  | some k =>
    have hne := mem_keys_of_look_none (h.2 g k hk)
    have h1 := h.beside (c := 0) (Beside.foldl (f := fun t (p : Nat × Placed) => t.homeWrite (some g) p.1 p.2.val p.2.stamp) k.overlay
      (fun t p hp => Beside.homeWrite t 0 (some g) p.1 p.2.val p.2.stamp (hne p hp)) s)
    dsimp only
    generalize k.overlay.foldl (fun t (p : Nat × Placed) => t.homeWrite (some g) p.1 p.2.val p.2.stamp) s = t at h1
    refine ⟨h1.1, fun g' k' hk' => ?_⟩
    have e : (t.onGang g (fun k => { k with overlay := [] })).gang? g' = if g' = g then (t.gang? g).map (fun k => { k with overlay := [] }) else t.gang? g' :=
      look_onKey ..
    rw [e] at hk'
    split at hk'
    · obtain ⟨k1, -, rfl⟩ := Option.map_eq_some_iff.mp hk'
      rfl
    · exact h1.2 g' k' hk'

/-- A write of a core that none has followed, of a location that no gang holds, stands at the home after a publish wider than the gang. -/
theorem State.publish_home (h : Orderly s) (hsc : 3 ≤ sc) (hr : risingFrom 0 (s.core c).writes = true) {own : ViewWrite}
    (hw : look (s.core c).writes pa = some own) (hlast : ∀ m, own.stamp = some m → getD s.stamps 0 pa ≤ m)
    (hnone : ∀ g k, s.gang? g = some k → look k.overlay pa = none) : readMem (s.publish c g sc hg).mem pa = own.val := by
  obtain ⟨l1, l2, hl⟩ := List.append_of_mem (mem_of_look hw)
  have hkeys : (s.core c).writes.Pairwise (fun p q => p.1 < q.1) := (rising_pairwise _ hr).2
  rw [hl] at hkeys
  have hk1 : ∀ p ∈ l1, pa ≠ p.1 := fun p hp e => by
    have := (List.pairwise_append.mp hkeys).2.2 p hp (pa, own) (List.mem_cons_self ..)
    exact Nat.lt_irrefl _ (e ▸ this)
  have hk2 : ∀ p ∈ l2, pa ≠ p.1 := fun p hp e => by
    have := (List.pairwise_cons.mp (List.pairwise_append.mp hkeys).2.1).1 p hp
    exact Nat.lt_irrefl _ (e ▸ this)
  have hb1 : Beside c pa s (l1.foldl (fun t p => t.placeByte c g sc p.1 p.2) s) := Beside.foldl _ (fun t p hp => Beside.placeByte t c g sc p.1 p.2 (hk1 p hp)) s
  have ho1 : Onward c s (l1.foldl (fun t p => t.placeByte c g sc p.1 p.2) s) := Onward.foldl (fun t p => Onward.placeByte t c g sc p.1 p.2) l1 s
  have e : (s.core c).writes.foldl (fun t p => t.placeByte c g sc p.1 p.2) s = l2.foldl (fun t p => t.placeByte c g sc p.1 p.2)
      ((l1.foldl (fun t p => t.placeByte c g sc p.1 p.2) s).placeByte c g sc pa own) := by rw [hl, List.foldl_append, List.foldl_cons]
  generalize l1.foldl (fun t p => t.placeByte c g sc p.1 p.2) s = t at hb1 ho1 e
  have hstamp : getD t.stamps 0 pa = getD s.stamps 0 pa := (congrArg Placed.stamp hb1.home :)
  have hle : getD t.stamps 0 pa ≤ own.stamp.getD (t.stamp + 1) := by
    rw [hstamp]
    cases ho : own.stamp with
    | some m => exact hlast m ho
    | none => exact Nat.le_trans (h.2 pa) (Nat.le_trans ho1.stamp (Nat.le_succ _))
  have hat : HomeOnly (t.placeByte c g sc pa own) pa own.val := by
    rw [State.placeByte_eq, if_pos (by rw [wide, decide_eq_true hsc])]
    refine ⟨?_, fun g' k hk => ?_⟩
    · rw [State.homeWrite_mem, if_pos (by exact hle)]
      exact getD_setD_same _ _ _ _ (ho1.wf h.1)
    · have e1 := State.homeWrite_overlay (t.takenIn c pa own) (some own.gang) pa own.val (own.stamp.getD (t.stamp + 1)) g' pa
      rw [hk, Option.map_some] at e1
      obtain ⟨k1, hk1', e2⟩ := Option.map_eq_some_iff.mp e1.symm
      obtain ⟨k2, hk2', e3⟩ := hb1.was hk1'
      exact e2.symm.trans (e3.trans (hnone g' k2 hk2'))
  have hall : HomeOnly ((s.core c).writes.foldl (fun t p => t.placeByte c g sc p.1 p.2) s) pa own.val := by
    rw [e]
    exact hat.beside (Beside.foldl _ (fun t p hp => Beside.placeByte t c g sc p.1 p.2 (hk2 p hp)) _)
  unfold State.publish
  rw [if_neg (by omega)]
  dsimp only
  generalize (s.core c).writes.foldl (fun t p => t.placeByte c g sc p.1 p.2) s = u at hall
  have hflush := List.foldlRecOn (motive := fun t : State => HomeOnly t pa own.val) ((u.gangsOn c).filter (fun g' => wide sc || g' != g)) State.flushOverlay hall
    (fun t ht g' _ => ht.flushOverlay g')
  exact ((congrArg (fun x : State => readMem x.mem pa) (State.covered_rest _ c) :)).trans hflush.1

/-! ## What a publish leaves of memory -/

/-- Memory is the same, and of some gangs no instance holds a write. -/
def NoneHeld (m : List Host.Cell) (p : Nat → Prop) (t : State) : Prop := t.mem = m ∧ ∀ g, p g → ∀ k, t.gang? g = some k → k.overlay = []

theorem NoneHeld.placeByte {m : List Host.Cell} {p : Nat → Prop} {t : State} (h : NoneHeld m p t) (hsc : sc ≤ 2) (hp : ¬p g) (w : ViewWrite) (x : Nat) :
    NoneHeld m p (t.placeByte c g sc x w) := by
  rw [State.placeByte_eq, if_neg (by rw [wide, decide_eq_false (by omega)]; exact Bool.false_ne_true)]
  refine ⟨h.1, fun g' hg' k hk => ?_⟩
  have e : ((t.takenIn c x w).onGang g (fun k => k.takes x ⟨w.val, w.stamp.getD (t.stamp + 1)⟩)).gang? g' =
      if g' = g then (t.gang? g).map (fun k => k.takes x ⟨w.val, w.stamp.getD (t.stamp + 1)⟩) else t.gang? g' := look_onKey ..
  have hne : g' ≠ g := fun h => hp (h ▸ hg')
  rw [e, if_neg hne] at hk
  exact h.2 g' hg' k hk

theorem NoneHeld.flushOverlay {m : List Host.Cell} {p : Nat → Prop} {t : State} (h : NoneHeld m p t) {g : Nat} (hp : p g) : NoneHeld m p (t.flushOverlay g) := by
  unfold State.flushOverlay
  cases hk : t.gang? g with
  | none => exact h
  | some k =>
    dsimp only
    rw [h.2 g hp k hk]
    refine ⟨h.1, fun g' hg' k' hk' => ?_⟩
    have e : (t.onGang g (fun k => { k with overlay := [] })).gang? g' = if g' = g then (t.gang? g).map (fun k => { k with overlay := [] }) else t.gang? g' :=
      look_onKey ..
    rw [List.foldl_nil, e] at hk'
    split at hk'
    · obtain ⟨k1, -, rfl⟩ := Option.map_eq_some_iff.mp hk'
      rfl
    · exact h.2 g' hg' k' hk'

/-- At .gang and narrower, where no other gang of the core holds anything, a publish writes nothing at the home. -/
theorem State.publish_mem (hsc : sc ≤ 2) (hnone : ∀ x ∈ s.gangsOn c, ∀ k, s.gang? x = some k → x ≠ g → k.overlay = []) :
    (s.publish c g sc hg).mem = s.mem := by
  unfold State.publish
  split
  · rfl
  · have h0 : NoneHeld s.mem (fun x => x ∈ s.gangsOn c ∧ x ≠ g) s := ⟨rfl, fun x hx k hk => hnone x hx.1 k hk hx.2⟩
    have h1 := List.foldlRecOn (motive := NoneHeld s.mem (fun x => x ∈ s.gangsOn c ∧ x ≠ g)) (s.core c).writes
      (fun t p => t.placeByte c g sc p.1 p.2) h0 (fun t ht q _ => ht.placeByte hsc (fun h => h.2 rfl) q.2 q.1)
    have hon := (Onward.foldl (c := c) (fun t (p : Nat × ViewWrite) => Onward.placeByte t c g sc p.1 p.2) (s.core c).writes s).gangsOn c
    dsimp only
    generalize (s.core c).writes.foldl (fun t p => t.placeByte c g sc p.1 p.2) s = u at h1 hon
    rw [show (State.covered _ c).mem = _ from (congrArg State.mem (State.covered_rest _ c) :)]
    refine (List.foldlRecOn (motive := NoneHeld s.mem (fun x => x ∈ s.gangsOn c ∧ x ≠ g)) _ _ h1 (fun t ht x hx => ht.flushOverlay ?_)).1
    obtain ⟨hx, hw⟩ := List.mem_filter.mp hx
    refine ⟨hon ▸ hx, fun e => ?_⟩
    rw [wide, decide_eq_false (by omega), e] at hw
    simp at hw

/-- At .wave and .block every write of the core's view has its place, and stays. -/
theorem State.publish_orders (hsc : sc ≤ 1) : (s.publish c g sc hg).gangs = s.gangs ∧ (∀ k x, (s.publish c g sc hg).viewByte k x = s.viewByte k x) ∧
    ∀ x p, look ((s.publish c g sc hg).core c).writes x = some p → p.stamp.isSome = true := by
  have e : s.publish c g sc hg = s.orderOwn c (fun _ => true) := by
    unfold State.publish
    rw [if_pos (.inl hsc)]
  rw [e]
  refine ⟨rfl, fun k x => State.viewByte_orderOwn s c _ k x, fun x p hp => ?_⟩
  rw [look_orderOwn] at hp
  obtain ⟨w, -, rfl⟩ := Option.map_eq_some_iff.mp hp
  exact (ordered_self (fun _ => true) (s.stamp + 1) rfl w).2
end

/-! ## A refresh performed -/

section
variable (s : State) (c sc : Nat) (hg : Bool)

/-- What a refresh below .system leaves of its core. -/
def Core.refreshed (k : Core) (s : State) (c sc : Nat) : Core :=
  { k with
    snap := k.snap.filter (fun p => !(sc == 5 || !isRemote p.1 || decide (p.2.stamp < ((look s.owned p.1).map (fun o => o.1)).getD 0)) || s.leaves c p.1)
    icache := if wide sc then k.icache.filter (fun p => s.inLoopBody c p.1) else k.icache }

theorem State.refresh_eq (h : sc ≠ 5) : s.refresh c sc hg = if sc ≤ 1 ∨ (sc = 2 ∧ hg = false) then s else s.onCore c (fun k => k.refreshed s c sc) := by
  unfold State.refresh
  rw [if_neg h]
  split
  · rfl
  · rfl

theorem State.refresh_rest (h : sc ≠ 5) : { s.refresh c sc hg with cores := s.cores } = s := by
  rw [State.refresh_eq s c sc hg h]
  split <;> rfl

theorem State.refresh_core (h : sc ≠ 5) (hfar : ¬(sc ≤ 1 ∨ (sc = 2 ∧ hg = false))) : (s.refresh c sc hg).core c = (s.core c).refreshed s c sc := by
  rw [State.refresh_eq s c sc hg h, if_neg hfar, State.core_onCore, if_pos rfl]

/-- What a snapshot keeps of a location misses nothing that a refresh must bring. -/
theorem Core.mem_refreshed {k : Core} (hsc : sc ≠ 5) (hk : k = s.core c) {p : Nat × Placed} (hp : p ∈ (k.refreshed s c sc).snap) : p ∈ k.snap ∧
    ((isRemote p.1 = true ∧ ∀ o, look s.owned p.1 = some o → o.1 ≤ p.2.stamp) ∨ s.lastStamp p.1 ≤ p.2.stamp ∨
      (isDevice p.1 = true ∧ ∃ b, look s.loose p.1 = some b ∧ b ≤ p.2.stamp)) := by
  obtain ⟨hmem, hkept⟩ := List.mem_filter.mp hp
  refine ⟨hmem, ?_⟩
  rw [Bool.or_eq_true] at hkept
  rcases hkept with hgone | hleft
  · rw [Bool.not_eq_true', Bool.or_eq_false_iff, Bool.or_eq_false_iff] at hgone
    obtain ⟨⟨-, hrem⟩, hlater⟩ := hgone
    refine .inl ⟨by simpa using hrem, fun o ho => ?_⟩
    rw [ho] at hlater
    simpa using hlater
  · unfold State.leaves at hleft
    dsimp only at hleft
    rw [Bool.and_eq_true] at hleft
    have hall := List.all_eq_true.mp hleft.2 p (List.mem_filter.mpr ⟨by rw [← hk]; exact hmem, beq_self_eq_true _⟩)
    rw [Bool.or_eq_true] at hall
    rcases hall with hlag | hlast
    · unfold State.lags at hlag
      rw [Bool.and_eq_true] at hlag
      obtain ⟨hdev, hb⟩ := hlag
      cases hl : look s.loose p.1 with
      | none =>
        rw [hl] at hb
        exact absurd hb Bool.false_ne_true
      | some b =>
        rw [hl] at hb
        exact .inr (.inr ⟨hdev, b, rfl, by simpa using hb⟩)
    · exact .inr (.inl (of_decide_eq_true hlast))

theorem Core.refreshed_icache {k : Core} (hsc : 3 ≤ sc) {p : Nat × Byte} (hp : p ∈ (k.refreshed s c sc).icache) : s.inLoopBody c p.1 = true := by
  unfold Core.refreshed at hp
  dsimp only at hp
  rw [wide, decide_eq_true hsc, if_pos rfl] at hp
  exact (List.mem_filter.mp hp).2
end

/-! ## The statement -/

section
variable {c sl n : Nat} {s : State} {w : Wave} {th : Thread} {a : Access} {sc : Nat} (hp : Performable s c sl w th n a)
include hp

theorem publishComplete_performs (hsc : sc ≤ 4) (hreq : a.req = none) (hk : a.kind = .publish sc) :
    ∃ s', exec (.publishComplete c sl th.lane n) s = .next s' ∧ s'.lane? c sl th.lane = some (Thread.without th n) ∧
       (3 ≤ sc ∨ sc = 2 ∧ (s.recOf w.blk).hasGang = true → (s'.core c).writes = []) ∧
       (∀ pa own, 3 ≤ sc → Orderly s → risingFrom 0 (s.core c).writes = true → look (s.core c).writes pa = some own →
         (∀ m, own.stamp = some m → getD s.stamps 0 pa ≤ m) → (∀ g k, s.gang? g = some k → look k.overlay pa = none) → readMem s'.mem pa = own.val) ∧
       (sc ≤ 2 → (∀ g ∈ s.gangsOn c, ∀ k, s.gang? g = some k → g ≠ s.gangId w.blk → k.overlay = []) → s.sameMemory s') ∧
       (sc ≤ 1 → s'.gangs = s.gangs ∧ (∀ k x, s'.viewByte k x = s.viewByte k x) ∧
         ∀ x p, look (s'.core c).writes x = some p → p.stamp.isSome = true) := by
  have hw : s.performWith c sl th.lane n w a = (s.publish c (s.gangId w.blk) sc (s.recOf w.blk).hasGang).finish c sl th.lane n (fun t => t) := by
    rw [State.performWith, hk]
    dsimp only
    rw [State.performPublish, hreq]
    dsimp only
    rw [if_pos (by omega)]
  have hex : exec (.publishComplete c sl th.lane n) s =
      .next (((s.publish c (s.gangId w.blk) sc (s.recOf w.blk).hasGang).finish c sl th.lane n (fun t => t)).settle c sl) :=
    congrArg Host.Outcome.next ((performAnd_eq hp (by rw [Access.isPublish, hk])).trans (congrArg (fun u : State => u.settle c sl) hw))
  have hwaves : (s.publish c (s.gangId w.blk) sc (s.recOf w.blk).hasGang).waves = s.waves := (OnlyMemory.publish ..).waves
  have hlane : ∀ u : State, u.waves = s.waves → ((u.finish c sl th.lane n (fun t => t)).settle c sl).lane? c sl th.lane = some (Thread.without th n) :=
    fun u hu => finish_lane hp (u := u) (by rw [State.wave?, hu]; exact hp.wave) rfl (fun _ => rfl) (fun _ => rfl) (fun _ => rfl) (fun _ _ _ _ => rfl)
  have hrest : ∀ u : State, OnlyWaves u ((u.finish c sl th.lane n (fun t => t)).settle c sl) := fun u =>
    OnlyWaves.trans (OnlyWaves.of_waves u _) (OnlyWaves.settle _ c sl)
  refine ⟨_, hex, hlane _ hwaves, fun hfar => ?_, fun pa own h3 ho hr hw hlast hnone => ?_, fun h2 hnone pa => ?_, fun h1 => ⟨?_, fun k x => ?_, fun x p hx => ?_⟩⟩
  · rw [(hrest _).writes]
    exact State.publish_clears s c _ sc _ (by rcases hfar with h | ⟨h, hg⟩ <;> simp_all; omega)
  · rw [(hrest _).mem]
    exact State.publish_home ho h3 hr hw hlast hnone
  · rw [(hrest _).mem, State.publish_mem h2 hnone]
  · rw [(hrest _).gangs, (State.publish_orders h1).1]
  · rw [(hrest _).viewByte, (State.publish_orders h1).2.1]
  · rw [(hrest _).writes] at hx
    exact (State.publish_orders h1).2.2 x p hx

theorem refreshComplete_performs (hsc : sc ≤ 4) (hk : a.kind = .refresh sc) :
    ∃ s', exec (.refreshComplete c sl th.lane n) s = .next s' ∧ s'.lane? c sl th.lane = some (Thread.without th n) ∧
       s.sameMemory s' ∧ (3 ≤ sc ∨ sc = 2 ∧ (s.recOf w.blk).hasGang = true → (s'.core c).writes = (s.core c).writes ∧
         ∀ p ∈ (s'.core c).snap, p ∈ (s.core c).snap ∧
           ((isRemote p.1 = true ∧ ∀ o, look s.owned p.1 = some o → o.1 ≤ p.2.stamp) ∨ s.lastStamp p.1 ≤ p.2.stamp ∨
             (isDevice p.1 = true ∧ ∃ b, look s.loose p.1 = some b ∧ b ≤ p.2.stamp))) ∧
       (3 ≤ sc → ∀ p ∈ (s'.core c).icache, s.inLoopBody c p.1 = true) ∧
       (sc ≤ 1 → ∀ k, { s'.core k with window := (s.core k).window } = s.core k) := by
  have hw : s.performWith c sl th.lane n w a = (s.refresh c sc (s.recOf w.blk).hasGang).finish c sl th.lane n (fun t => t) := by rw [State.performWith, hk]
  have hex : exec (.refreshComplete c sl th.lane n) s =
      .next (((s.refresh c sc (s.recOf w.blk).hasGang).finish c sl th.lane n (fun t => t)).settle c sl) :=
    congrArg Host.Outcome.next ((performAnd_eq hp (by rw [Access.isRefresh, hk])).trans (congrArg (fun u : State => u.settle c sl) hw))
  have h5 : sc ≠ 5 := by omega
  have hsame := State.refresh_rest s c sc (s.recOf w.blk).hasGang h5
  have hwaves : (s.refresh c sc (s.recOf w.blk).hasGang).waves = s.waves := (congrArg State.waves hsame :)
  have hmem : (s.refresh c sc (s.recOf w.blk).hasGang).mem = s.mem := (congrArg State.mem hsame :)
  have hlane : ∀ u : State, u.waves = s.waves → ((u.finish c sl th.lane n (fun t => t)).settle c sl).lane? c sl th.lane = some (Thread.without th n) :=
    fun u hu => finish_lane hp (u := u) (by rw [State.wave?, hu]; exact hp.wave) rfl (fun _ => rfl) (fun _ => rfl) (fun _ => rfl) (fun _ _ _ _ => rfl)
  have hrest : ∀ u : State, OnlyWaves u ((u.finish c sl th.lane n (fun t => t)).settle c sl) := fun u =>
    OnlyWaves.trans (OnlyWaves.of_waves u _) (OnlyWaves.settle _ c sl)
  refine ⟨_, hex, hlane _ hwaves, fun pa => ?_, fun hfar => ?_, fun h3 p hp' => ?_, fun h1 k => ?_⟩
  · rw [(hrest _).mem, hmem]
  · have hcore := State.refresh_core s c sc (s.recOf w.blk).hasGang h5 (by rcases hfar with h | ⟨h, hg⟩ <;> simp_all; omega)
    rw [(hrest _).writes, (hrest _).snap, hcore]
    exact ⟨rfl, fun p hp' => Core.mem_refreshed s c sc h5 rfl hp'⟩
  · have hcore := State.refresh_core s c sc (s.recOf w.blk).hasGang h5 (by omega)
    have e := (congrArg Core.icache ((hrest (s.refresh c sc (s.recOf w.blk).hasGang)).cores c) :)
    rw [hcore] at e
    exact Core.refreshed_icache s c sc h3 (e ▸ hp')
  · have e : s.refresh c sc (s.recOf w.blk).hasGang = s := by
      unfold State.refresh
      rw [if_pos (.inl h1)]
    rw [e]
    exact (hrest s).cores k
end

/-- Settles O25: a phase issues its accesses; a publish places the core's writes one after another, each beside the others; a refresh drops what its core's
snapshot misses. -/
theorem phases : Obligations.Phases := by
  unfold Obligations.Phases
  refine ⟨?_, fun c sl n s w th a sc hp hsc hreq => ⟨publishComplete_performs hp hsc hreq, refreshComplete_performs hp hsc⟩⟩
  intro c t s w th h acc p hp
  have hmem : p = (Instr.pub c t, [AccKind.publish c.toNat]) ∨ p = (.rfsh c t, [.refresh c.toNat]) ∨ p = (.phase c t, [.publish c.toNat, .refresh c.toNat]) := by
    simpa using hp
  rcases hmem with rfl | rfl | rfl
  · exact phase_issues h [.publish c.toNat] (by simp [mayThrow]) c t
  · exact phase_issues h [.refresh c.toNat] (by simp [mayThrow]) c t
  · exact phase_issues h [.publish c.toNat, .refresh c.toNat] (by simp [mayThrow]) c t

end Sys2Proof.Machine
end

section
/-! PROOFS. A performed MEMO (spec/08 R160, R161): O24. -/

namespace Sys2Proof.Machine
open Sys2Proof.Claims

/-! ## The operations -/

theorem toInt_signedOf {size : Nat} (hs : size = 4 ∨ size = 8) {y : Dword} (hy : y.toNat < 2 ^ (8 * size)) :
    (if size = 8 then y.toInt else (y.setWidth 32).toInt) = signedOf (8 * size) y.toNat := by
  unfold signedOf
  rcases hs with rfl | rfl
  · rw [if_neg (by decide), BitVec.toInt_eq_toNat_cond, BitVec.toNat_setWidth, Nat.mod_eq_of_lt hy]
    norm_num at hy ⊢
    split <;> split <;> omega
  · rw [if_pos rfl, BitVec.toInt_eq_toNat_cond]
    norm_num
    split <;> split <;> omega

theorem signedOf_inj {z a b : Nat} (ha : a < 2 ^ z) (hb : b < 2 ^ z) (h : signedOf z a = signedOf z b) : a = b := by
  unfold signedOf at h
  have ha' : (a : Int) < 2 ^ z := by exact_mod_cast ha
  have hb' : (b : Int) < 2 ^ z := by exact_mod_cast hb
  split at h <;> split at h <;> omega

/-- The operation on numbers of the size is the operation on their bits. -/
theorem MemoOp.apply_amo (op : MemoOp) {size : Nat} {m v n : Dword} (hsize : size = 4 ∨ size = 8) (hf : op = .addf → size = 4)
    (hm : m.toNat < 2 ^ (8 * size)) (hv : v.toNat < 2 ^ (8 * size)) :
    (op.apply size m v n).map BitVec.toNat = amo op (8 * size) m.toNat v.toNat n.toNat := by
  have hz : 8 * size = 32 ∨ 8 * size = 64 := by omega
  have h64 : 2 ^ (8 * size) ≤ 2 ^ 64 := Nat.pow_le_pow_right (by decide) (by omega)
  have hle : (if size = 8 then m.toInt else (m.setWidth 32).toInt) ≤ (if size = 8 then v.toInt else (v.setWidth 32).toInt) ↔
      signedOf (8 * size) m.toNat ≤ signedOf (8 * size) v.toNat := by rw [toInt_signedOf hsize hm, toInt_signedOf hsize hv]
  have hmv : m = v ↔ m.toNat = v.toNat := BitVec.toNat_inj.symm
  unfold MemoOp.apply amo
  cases op with
  | ldo => rfl
  | sto => rfl
  | swap => rfl
  | cas =>
    dsimp only
    by_cases h : m = v
    · rw [if_pos h, if_pos (hmv.mp h)]
      rfl
    · rw [if_neg h, if_neg (fun e => h (hmv.mpr e))]
      rfl
  | add =>
    dsimp only [Option.map_some]
    rw [BitVec.toNat_ofNat, Nat.mod_eq_of_lt (Nat.lt_of_lt_of_le (Nat.mod_lt _ (Nat.two_pow_pos _)) h64)]
  | and => exact congrArg some (BitVec.toNat_and m v)
  | or => exact congrArg some (BitVec.toNat_or m v)
  | xor => exact congrArg some (BitVec.toNat_xor m v)
  | mins =>
    dsimp only [Option.map_some]
    by_cases h : signedOf (8 * size) v.toNat < signedOf (8 * size) m.toNat
    · rw [if_pos h, if_neg (fun e => not_lt.mpr (hle.mp e) h)]
    · rw [if_neg h, if_pos (hle.mpr (not_lt.mp h))]
  | maxs =>
    dsimp only [Option.map_some]
    rcases lt_trichotomy (signedOf (8 * size) m.toNat) (signedOf (8 * size) v.toNat) with h | h | h
    · rw [if_pos h, if_pos (hle.mpr (Int.le_of_lt h))]
    · rw [if_neg (Int.not_lt.mpr (Int.le_of_eq h.symm)), if_pos (hle.mpr (Int.le_of_eq h)), signedOf_inj hm hv h]
    · rw [if_neg (Int.not_lt.mpr (Int.le_of_lt h)), if_neg (fun e => Int.not_lt.mpr (hle.mp e) h)]
  | minn =>
    dsimp only [Option.map_some]
    by_cases h : m.toNat ≤ v.toNat
    · rw [if_pos h, Nat.min_eq_left h]
    · rw [if_neg h, Nat.min_eq_right (by omega)]
  | maxn =>
    dsimp only [Option.map_some]
    by_cases h : m.toNat ≤ v.toNat
    · rw [if_pos h, Nat.max_eq_right h]
    · rw [if_neg h, Nat.max_eq_left (by omega)]
  | inc =>
    dsimp only [Option.map_some]
    by_cases h : v.toNat ≤ m.toNat
    · rw [if_pos h, if_pos h]
      rfl
    · rw [if_neg h, if_neg h, BitVec.toNat_add, show (1 : Dword).toNat = 1 from rfl, Nat.mod_eq_of_lt]
      omega
  | dec =>
    have h0 : m = 0 ↔ m.toNat = 0 := BitVec.toNat_inj.symm
    dsimp only [Option.map_some]
    by_cases h : m.toNat = 0 ∨ v.toNat < m.toNat
    · rw [if_pos h, if_pos (by rw [h0]; exact h)]
    · rw [if_neg h, if_neg (by rw [h0]; exact h), BitVec.toNat_sub, show (1 : Dword).toNat = 1 from rfl]
      have hpos : 1 ≤ m.toNat := by omega
      have := m.isLt
      norm_num
      omega
  | addf =>
    dsimp only [Option.map_some]
    rw [hf rfl] at hm hv
    rw [BitVec.toNat_setWidth, Nat.mod_eq_of_lt (Nat.lt_of_lt_of_le (BitVec.isLt _) (by decide))]
    rfl

/-- The byte that an operation leaves of a number at a place of it. -/
def amoByte (op : MemoOp) (size m v n i : Nat) (old : Byte) : Byte :=
  match amo op (8 * size) m v n with
  | some y => BitVec.ofNat 8 (y / 2 ^ (8 * i))
  | none => old

theorem amoByte_of_some {op : MemoOp} {size m v n y i : Nat} {old : Byte} (h : amo op (8 * size) m v n = some y) (hi : i < size) :
    amoByte op size m v n i old = (leBytes size y).getD i 0 := by
  unfold amoByte
  rw [h, getD_leBytes _ _ _ _ hi]
theorem amoByte_of_none {op : MemoOp} {size m v n i : Nat} {old : Byte} (h : amo op (8 * size) m v n = none) : amoByte op size m v n i old = old := by
  unfold amoByte
  rw [h]

/-- The number of some bytes, as an operation takes it. -/
theorem toNat_ofBytes {bs : List Byte} {size : Nat} (hl : bs.length = size) (hsize : size = 4 ∨ size = 8) :
    (BitVec.ofNat 64 (leNat bs) : Dword).toNat = leNat bs ∧ leNat bs < 2 ^ (8 * size) := by
  have h := leNat_lt bs
  rw [hl, show (256 : Nat) ^ size = 2 ^ (8 * size) by rw [Nat.pow_mul]] at h
  refine ⟨?_, h⟩
  rw [BitVec.toNat_ofNat, Nat.mod_eq_of_lt (Nat.lt_of_lt_of_le h (Nat.pow_le_pow_right (by decide) (by omega)))]

/-! ## What an operation does where its bytes are -/

section
variable (s : State) (c g sc : Nat) (has : Bool) (op : MemoOp) (size : Nat) (v x : Dword)

/-- The old value of an operation on some bytes, and the new bytes, if it writes. -/
theorem apply_bytes {bs : List Byte} (hl : bs.length = size) (hsize : size = 4 ∨ size = 8) (hf : op = .addf → size = 4) (hv : v.toNat < 2 ^ (8 * size)) :
    (op.apply size (BitVec.ofNat 64 (leNat bs)) v x).map BitVec.toNat = amo op (8 * size) (leNat bs) v.toNat x.toNat := by
  obtain ⟨e, hm⟩ := toNat_ofBytes hl hsize
  have h := op.apply_amo (m := BitVec.ofNat 64 (leNat bs)) (n := x) hsize hf (by rw [e]; exact hm) hv
  rw [e] at h
  exact h

theorem State.atomic_pad (b off : Nat) : s.atomic c g sc has (.pad b off) size (fun m => op.apply size m v x) =
    (match op.apply size (BitVec.ofNat 64 (leNat (s.padBytes b off size))) v x with
      | some y => s.padWrite b off (leBytes size y.toNat)
      | none => s, BitVec.ofNat 64 (leNat (s.padBytes b off size))) := by
  unfold State.atomic
  dsimp only
  cases op.apply size (BitVec.ofNat 64 (leNat (s.padBytes b off size))) v x <;> rfl

/-- What an operation on memory leaves, its own writes of the bytes placed before. -/
def State.atomicAt (t : State) (c g sc : Nat) (has : Bool) (pa size : Nat) (new : Option Dword) : State :=
  match new with
  | some y => t.memoWrite c g sc has pa (leBytes size y.toNat)
  | none => if sc ≤ 1 ∨ (sc = 2 ∧ has = false) then t else t.snapTake c pa (t.orderBytes g sc pa size)

theorem State.atomic_phys (pa : Nat) : s.atomic c g sc has (.phys pa) size (fun m => op.apply size m v x) =
    ((s.placeOwn c g sc has pa size).atomicAt c g sc has pa size
        (op.apply size (BitVec.ofNat 64 (leNat ((s.placeOwn c g sc has pa size).memoRead c g sc has pa size))) v x),
      BitVec.ofNat 64 (leNat ((s.placeOwn c g sc has pa size).memoRead c g sc has pa size))) := by
  unfold State.atomic State.atomicAt
  dsimp only
  cases op.apply size (BitVec.ofNat 64 (leNat ((s.placeOwn c g sc has pa size).memoRead c g sc has pa size))) v x <;> rfl

/-- Where the core and the gangs that come between hold no write of the bytes, nothing has to be placed first. -/
theorem State.placeOwn_none {pa : Nat} (hfar : ¬(sc ≤ 1 ∨ (sc = 2 ∧ has = false))) (hw : ∀ i < size, look (s.core c).writes (pa + i) = none)
    (hg : ∀ g' ∈ s.gangsOn c, (wide sc || g' != g) = true → ∀ k, s.gang? g' = some k → ∀ i < size, look k.overlay (pa + i) = none) :
    s.placeOwn c g sc has pa size = s := by
  unfold State.placeOwn
  rw [if_neg hfar]
  refine List.foldlRecOn (motive := fun t : State => t = s) _ _ rfl (fun t ht i hi => ?_)
  subst ht
  have hi := List.mem_range.mp hi
  rw [hw i hi]
  refine List.foldlRecOn (motive := fun u : State => u = t) _ _ rfl (fun u hu g' hg' => ?_)
  subst hu
  obtain ⟨hon, hwide⟩ := List.mem_filter.mp hg'
  exact State.flushByte_none u g' (pa + i) (fun k hk => hg g' hon hwide k hk i hi)
end

/-! ## The end of a MEMO -/

/-- What follows the operation of a MEMO: its log, its gauge, its result. -/
def State.memoEnd (s2 : State) (c sl lane n : Nat) (vf : Nat) (a : Access) (op : MemoOp) (size d : Nat) (v x : Dword) (sc : Nat) (m : Dword) : State :=
  let s3 := s2.onWave c sl (fun w =>
    (if op = .ldo then w else w.logAccess a (.store lane a.pc a.place (memoData op size v x sc))).logAccess a (.value lane a.pc a.va m))
  let s3 := if op = .ldo ∧ !a.inPad then s3.gauge 1 c (some vf) (s3.clockOf c - a.issued) else s3
  s3.finish c sl lane n (fun t => if op = .sto then t else t.returned s3 d size m)

/-- Nothing is different but waves, the rewrite windows of cores and the gauges. -/
def Returned (u t : State) : Prop := ∃ v, { v with waves := u.waves, mon := u.mon } = u ∧ OnlyWaves v t

section
variable {u t : State} (h : Returned u t)
include h

theorem Returned.mem : t.mem = u.mem := by
  obtain ⟨v, hv, ho⟩ := h
  exact ho.mem.trans (congrArg State.mem hv :)
theorem Returned.gang (g : Nat) : t.gang? g = u.gang? g := by
  obtain ⟨v, hv, ho⟩ := h
  rw [State.gang?, ho.gangs]
  exact (congrArg (fun x : State => look x.gangs g) hv :)
theorem Returned.viewByte (k x : Nat) : t.viewByte k x = u.viewByte k x := by
  obtain ⟨v, hv, ho⟩ := h
  exact (ho.viewByte k x).trans (congrArg (fun y : State => y.viewByte k x) hv :)
theorem Returned.padByte (b x : Nat) : t.padByte b x = u.padByte b x := by
  obtain ⟨v, hv, ho⟩ := h
  exact (ho.padByte b x).trans (congrArg (fun y : State => y.padByte b x) hv :)
end

section
variable {s : State} {c sl n : Nat} {w : Wave} {th : Thread} {a : Access} (hp : Performable s c sl w th n a) {op : MemoOp} {size d sc : Nat} {v x : Dword}
include hp

/-- What the end of a MEMO leaves: its lane with the result, and the rest as the operation left it. -/
theorem memoEnd_returns {u : State} (hu : u.waves = s.waves) (honce : Once th n d size) (vf : Nat) (m : Dword) :
    ((u.memoEnd c sl th.lane n vf a op size d v x sc m).settle c sl).lane? c sl th.lane =
      some (if op = .sto then Thread.without th n else Thread.without th n (Thread.takes d size m)) ∧
    Returned u ((u.memoEnd c sl th.lane n vf a op size d v x sc m).settle c sl) := by
  have hplace : ∀ y : Wave, ((if op = .ldo then y else y.logAccess a (.store th.lane a.pc a.place (memoData op size v x sc))).logAccess a (.value th.lane a.pc a.va m)).core = y.core ∧
      ((if op = .ldo then y else y.logAccess a (.store th.lane a.pc a.place (memoData op size v x sc))).logAccess a (.value th.lane a.pc a.va m)).slot = y.slot := by
    intro y
    obtain ⟨h1, h2⟩ := Wave.logAccess_place (if op = .ldo then y else y.logAccess a (.store th.lane a.pc a.place (memoData op size v x sc))) a (.value th.lane a.pc a.va m)
    obtain ⟨h3, h4⟩ := Wave.logAccess_place y a (.store th.lane a.pc a.place (memoData op size v x sc))
    refine ⟨h1.trans ?_, h2.trans ?_⟩
    · split <;> [rfl; exact h3]
    · split <;> [rfl; exact h4]
  have hlog : (if op = .ldo then w else w.logAccess a (.store th.lane a.pc a.place (memoData op size v x sc))).logAccess a (.value th.lane a.pc a.va m) = w := by
    rw [log_unlined hp (.store th.lane a.pc a.place (memoData op size v x sc)), ite_self, log_unlined hp]
  have hwave : u.wave? c sl = some w := by rw [State.wave?, hu]; exact hp.wave
  have hlogged := State.wave?_onWave_same hwave hplace hlog
  unfold State.memoEnd
  dsimp only
  generalize hv1 : u.onWave c sl (fun w => (if op = .ldo then w else w.logAccess a (.store th.lane a.pc a.place (memoData op size v x sc))).logAccess a
    (.value th.lane a.pc a.va m)) = u1 at hlogged
  have hu1 : { u1 with waves := u.waves } = u := by rw [← hv1]; rfl
  generalize hv2 : (if op = .ldo ∧ (!a.inPad) = true then u1.gauge 1 c (some vf) (u1.clockOf c - a.issued) else u1) = u2
  have hu2 : { u2 with mon := u1.mon } = u1 := by
    rw [← hv2]
    split
    · exact State.gauge_rest ..
    · rfl
  have hw2 : u2.wave? c sl = some w := (congrArg (fun y : State => y.wave? c sl) hu2 :).trans hlogged
  refine ⟨?_, u2, ?_, (OnlyWaves.of_waves u2 _).trans (OnlyWaves.settle ..)⟩
  · by_cases ho : op = .sto
    · rw [if_pos ho]
      exact finish_lane hp (f := fun t => if op = .sto then t else t.returned u2 d size m) hw2 rfl (fun t => by rw [if_pos ho]) (fun t => by rw [if_pos ho]) (fun acc => by rw [if_pos ho])
        (fun _ _ _ _ => by rw [if_pos ho])
    · simp only [if_neg ho]
      exact returned_lane hp hw2 honce rfl
  · exact ((congrArg (fun y : State => { y with
      waves := u.waves, mon := u.mon }) hu2 :)).trans ((congrArg (fun y : State => { y with
      mon := u.mon }) hu1 :))

/-- A MEMO is performed where it stands: the operation, then its end. -/
theorem performWith_memo (hk : a.kind = .memo op size d v x sc) (hhere : ∀ k : State → State, s.fetched c sl th.lane n a k = k s) (hbreach : s.breachAt a = s)
    (hlocal : ∀ pa, a.place = .phys pa → isRemote pa = false) (hread : ¬(op = .ldo ∧ s.readsOld c sc (s.recOf w.blk).hasGang a = true)) :
    s.performWith c sl th.lane n w a =
      ((s.atomic c (s.gangId w.blk) sc (s.recOf w.blk).hasGang a.place size (fun m => op.apply size m v x)).1.strikeAt a op s).memoEnd
        c sl th.lane n (s.vfOf w.blk) a op size d v x sc
        (s.atomic c (s.gangId w.blk) sc (s.recOf w.blk).hasGang a.place size (fun m => op.apply size m v x)).2 := by
  have e : s.performWith c sl th.lane n w a = s.performMemo c sl th.lane n w a op size d v x sc := by rw [State.performWith, hk]
  rw [e]
  unfold State.performMemo State.memoEnd
  rw [replay_unlined hp]
  dsimp only
  cases hpl : a.place with
  | pad b off =>
    dsimp only
    rw [hhere, hbreach, if_neg hread]
  | phys pa =>
    dsimp only
    rw [if_neg (fun h => by rw [hlocal pa hpl] at h; exact Bool.false_ne_true h.2), hhere, hbreach, if_neg hread]

/-- What a MEMO performed leaves, where its operation leaves `u` and strikes nothing. -/
theorem memoPerformed_leaves (hk : a.kind = .memo op size d v x sc) (hhere : ∀ k : State → State, s.fetched c sl th.lane n a k = k s) (hbreach : s.breachAt a = s)
    (hlocal : ∀ pa, a.place = .phys pa → isRemote pa = false) (hread : ¬(op = .ldo ∧ s.readsOld c sc (s.recOf w.blk).hasGang a = true)) (honce : Once th n d size)
    {u : State} {m : Dword} (hu : u.waves = s.waves)
    (hat : s.atomic c (s.gangId w.blk) sc (s.recOf w.blk).hasGang a.place size (fun m => op.apply size m v x) = (u, m)) (hstrike : u.strikeAt a op s = u) :
    ((s.performWith c sl th.lane n w a).settle c sl).lane? c sl th.lane =
      some (if op = .sto then Thread.without th n else Thread.without th n (Thread.takes d size m)) ∧
    Returned u ((s.performWith c sl th.lane n w a).settle c sl) := by
  rw [performWith_memo hp hk hhere hbreach hlocal hread, hat, hstrike]
  exact memoEnd_returns hp hu honce ..
end

/-! ## In a scratchpad -/

section
variable {s : State} {c sl n : Nat} {w : Wave} {th : Thread} {a : Access} (hp : Performable s c sl w th n a) {op : MemoOp} {size d sc : Nat} {v x : Dword}
  (hk : a.kind = .memo op size d v x sc) (hsize : size = 4 ∨ size = 8) (hf : op = .addf → size = 4) (hv : v.toNat < 2 ^ (8 * size)) (honce : Once th n d size)
include hp hk hsize hf hv honce

theorem memoPerformed_pad {b off : Nat} {k : Block} (hpl : a.place = .pad b off) (hb : s.block? b = some k) (hcan : canonical (0 : Byte) k.pad = true) :
    let m := leNat ((List.range size).map (fun i => s.padByte b (off + i)))
    ((s.performWith c sl th.lane n w a).settle c sl).lane? c sl th.lane =
      some (if op = .sto then Thread.without th n else Thread.without th n (Thread.takes d size (BitVec.ofNat 64 m))) ∧
    s.sameMemory ((s.performWith c sl th.lane n w a).settle c sl) ∧
    (∀ i < size, ((s.performWith c sl th.lane n w a).settle c sl).padByte b (off + i) = amoByte op size m v.toNat x.toNat i (s.padByte b (off + i))) ∧
    (∀ j y, j ≠ b ∨ (y < off ∨ off + size ≤ y) → ((s.performWith c sl th.lane n w a).settle c sl).padByte j y = s.padByte j y) := by
  intro m
  have happly : (op.apply size (BitVec.ofNat 64 m) v x).map BitVec.toNat = amo op (8 * size) m v.toNat x.toNat :=
    apply_bytes op size v x (bs := s.padBytes b off size) (by simp [State.padBytes]) hsize hf hv
  have hleaves : ∀ u : State, u.waves = s.waves → (match op.apply size (BitVec.ofNat 64 m) v x with
      | some y => s.padWrite b off (leBytes size y.toNat)
      | none => s) = u → _ := fun u hu hat => memoPerformed_leaves hp hk (u := u) (m := BitVec.ofNat 64 m)
    (fun k => by unfold State.fetched; rw [hpl]) (by unfold State.breachAt; rw [hpl]) (fun pa h => by rw [hpl] at h; exact nomatch h)
    (fun h => by rw [State.readsOld, hpl] at h; exact Bool.false_ne_true h.2) honce hu (by rw [hpl, State.atomic_pad, ← hat]; rfl)
    (by unfold State.strikeAt; rw [hpl])
  cases hn : op.apply size (BitVec.ofNat 64 m) v x with
  | none =>
    obtain ⟨hlane, hret⟩ := hleaves s rfl (by rw [hn])
    have hamo : amo op (8 * size) m v.toNat x.toNat = none := happly.symm.trans (Option.map_eq_none_iff.mpr hn)
    refine ⟨hlane, fun pa => by rw [hret.mem], fun i hi => ?_, fun j y _ => hret.padByte j y⟩
    rw [hret.padByte, amoByte_of_none hamo]
  | some y =>
    have hrest := State.padWrite_rest b (leBytes size y.toNat) s off
    obtain ⟨hlane, hret⟩ := hleaves (s.padWrite b off (leBytes size y.toNat)) (congrArg State.waves hrest :) (by rw [hn])
    have hamo : amo op (8 * size) m v.toNat x.toNat = some y.toNat := happly.symm.trans (Option.map_eq_some_iff.mpr ⟨y, hn, rfl⟩)
    refine ⟨hlane, fun pa => ?_, fun i hi => ?_, fun j z hz => ?_⟩
    · rw [hret.mem, (congrArg State.mem hrest :)]
    · rw [hret.padByte, amoByte_of_some hamo hi]
      exact State.padByte_padWrite hb hcan off _ (by rw [leBytes_length]; exact hi)
    · rw [hret.padByte]
      exact State.padByte_beside s b off _ (by rw [leBytes_length]; exact hz)
end

/-! ## In memory -/

theorem OnlyPlaces.viewWrite (c g : Nat) (bs : List Byte) : ∀ (s : State) (pa : Nat), OnlyPlaces s (s.viewWrite c g pa bs) := by
  induction bs with
  | nil => exact fun s _ => OnlyPlaces.refl s
  | cons b rest ih =>
    intro s pa
    exact (OnlyPlaces.onCore s c (f := fun k => { k with writes := insertAt k.writes pa ⟨b, g, none⟩ }) (fun _ => rfl)).trans (ih _ (pa + 1))

/-- The view after a store: its bytes in the view of its core, and nothing else. -/
theorem State.viewByte_viewWrite (s : State) (c g pa : Nat) (bs : List Byte) :
    (∀ i < bs.length, (s.viewWrite c g pa bs).viewByte c (pa + i) = bs.getD i 0) ∧
    ∀ j y, j ≠ c ∨ (y < pa ∨ pa + bs.length ≤ y) → (s.viewWrite c g pa bs).viewByte j y = s.viewByte j y := by
  have hrest := State.viewWrite_rest c g bs s pa
  have hcore := State.viewWrite_core c g bs s pa
  have hsnap : ∀ k x, (s.viewWrite c g pa bs).snapByte k x = s.snapByte k x := by
    intro k x
    obtain ⟨ws, hk, -⟩ := hcore k
    have hb : (s.viewWrite c g pa bs).blocks = s.blocks := (congrArg State.blocks hrest :)
    have hgangs : (s.viewWrite c g pa bs).gangs = s.gangs := (congrArg State.gangs hrest :)
    have hstamps : (s.viewWrite c g pa bs).stamps = s.stamps := (congrArg State.stamps hrest :)
    have hmem : (s.viewWrite c g pa bs).mem = s.mem := (congrArg State.mem hrest :)
    simp only [State.snapByte, State.gangsOn, State.gang?, State.home, hk, hb, hgangs, hmem, hstamps]
  refine ⟨fun i hi => ?_, fun j y hy => ?_⟩
  · obtain ⟨ws, hk, -, hin, -⟩ := hcore c
    rw [State.viewByte, hk, hin rfl i hi]
  · obtain ⟨ws, hk, hne, -, hout⟩ := hcore j
    rw [State.viewByte, State.viewByte, hsnap, hk]
    by_cases hj : j = c
    · rw [hout y (hy.resolve_left (not_not.mpr hj))]
    · rw [hne hj]

theorem State.viewBytes_congr {s t : State} (h : ∀ k x, t.viewByte k x = s.viewByte k x) (c pa n : Nat) : t.viewBytes c pa n = s.viewBytes c pa n :=
  List.map_congr_left (fun i _ => h c (pa + i))

/-- An instance with some bytes written in a row under one place. -/
structure InstanceWriting (s : State) (g pa st : Nat) (k : Gang) (bs : List Byte) (i : Nat) (t : State) : Prop where
  places : OnlyPlaces s t
  mem : t.mem = s.mem
  gang : ∃ k', t.gang? g = some k' ∧ ∀ y, look k'.overlay y = if pa ≤ y ∧ y < pa + i then some ⟨bs.getD (y - pa) 0, st⟩ else look k.overlay y

theorem InstanceWriting.next {s t : State} {g pa st i : Nat} {k : Gang} {bs : List Byte} (h : InstanceWriting s g pa st k bs i t) :
    InstanceWriting s g pa st k bs (i + 1) ((t.loosen (pa + i)).onGang g (fun k => { k with overlay := insertAt k.overlay (pa + i) ⟨bs.getD i 0, st⟩ })) := by
  refine ⟨(h.places.trans (State.loosen_places t _)).trans (OnlyPlaces.onGang _ g (fun _ => rfl)), h.mem, ?_⟩
  obtain ⟨k', hk', hlook⟩ := h.gang
  have e : ((t.loosen (pa + i)).onGang g (fun k => { k with overlay := insertAt k.overlay (pa + i) ⟨bs.getD i 0, st⟩ })).gang? g =
      if g = g then (t.gang? g).map (fun k => { k with overlay := insertAt k.overlay (pa + i) ⟨bs.getD i 0, st⟩ }) else t.gang? g := look_onKey ..
  rw [if_pos rfl, hk', Option.map_some] at e
  refine ⟨_, e, fun y => ?_⟩
  dsimp only
  by_cases hy : y = pa + i
  · subst hy
    rw [look_insertAt_same, if_pos (by omega), Nat.add_sub_cancel_left]
  · rw [look_insertAt_ne _ _ hy, hlook]
    by_cases hin : pa ≤ y ∧ y < pa + i
    · rw [if_pos hin, if_pos (by omega)]
    · rw [if_neg hin, if_neg (by omega)]

/-- The write of a MEMO at .gang. -/
theorem State.memoWrite_instance {s : State} {g : Nat} {k : Gang} (hk : s.gang? g = some k) (c pa : Nat) (bs : List Byte) :
    InstanceWriting s g pa (s.stamp + 1) k bs bs.length (s.memoWrite c g 2 true pa bs) := by
  have hall : ∀ n, InstanceWriting s g pa (s.stamp + 1) k bs n ((List.range n).foldl (fun t i =>
      (t.loosen (pa + i)).onGang g (fun k => { k with overlay := insertAt k.overlay (pa + i) ⟨bs.getD i 0, s.stamp + 1⟩ })) s.nextStamp) := by
    intro n
    induction n with
    | zero => exact ⟨OnlyPlaces.nextStamp s, rfl, k, hk, fun y => by rw [if_neg (by omega)]⟩
    | succ n ih =>
      rw [List.range_succ, List.foldl_append]
      exact ih.next
  have hn := hall bs.length
  unfold State.memoWrite
  rw [if_neg (by decide)]
  dsimp only [wide]
  exact ⟨hn.places.trans (State.snapTake_places ..), hn.mem, hn.gang⟩

/-- The same wider, at whatever scope. -/
theorem State.memoWrite_wide (s : State) (c g pa : Nat) (bs : List Byte) {sc : Nat} (h : 3 ≤ sc) (has : Bool) : s.memoWrite c g sc has pa bs = s.memoWrite c g 3 true pa bs := by
  unfold State.memoWrite
  rw [if_neg (by omega), if_neg (by decide), show wide sc = wide 3 by rw [wide, wide, decide_eq_true h]; rfl]

theorem State.orderBytes_wide (s : State) (g pa n : Nat) {sc : Nat} (h : 3 ≤ sc) : (s.orderBytes g sc pa n).map (fun p => p.val) = (List.range n).map (fun i => readMem s.mem (pa + i)) := by
  unfold State.orderBytes
  rw [List.map_map]
  refine List.map_congr_left (fun i _ => ?_)
  rw [Function.comp_apply, wide, decide_eq_true h, if_pos rfl]
  rfl

/-- What a MEMO writes strikes nothing, where it writes what nothing guards. -/
theorem State.strikeAt_none {s u : State} {a : Access} {op : MemoOp} {pa : Nat} (hpl : a.place = .phys pa)
    (h : op = .ldo ∨ NoChunkAfter s pa a.size a.places ∧ NoMisuse s a.places) (hu : OnlyPlaces s u)
    (hmem : ∀ x, x < pa ∨ pa + a.size ≤ x → readMem u.mem x = readMem s.mem x) : u.strikeAt a op s = u := by
  have hplaces : ∀ x ∈ (List.range a.size).map (fun i => pa + i), Place.phys x ∈ a.places := by
    intro x hx
    obtain ⟨i, hi, rfl⟩ := List.mem_map.mp hx
    exact List.mem_map.mpr ⟨i, hi, by rw [hpl]⟩
  have hphys : physOf a.places = (List.range a.size).map (fun i => pa + i) := by
    unfold physOf Access.places
    rw [hpl, List.filterMap_map]
    exact List.filterMap_eq_map (f := fun i => pa + i) ▸ rfl
  unfold State.strikeAt
  rw [hpl]
  dsimp only
  by_cases hop : op = .ldo
  · rw [if_pos hop]
  · obtain ⟨hchunk, hmis⟩ := h.resolve_left hop
    rw [if_neg hop, ← hphys, show s.misused (physOf a.places) = [] from hmis, hphys]
    refine Eq.trans (State.strikeChunks_of_noChunk (pls := a.places) ?_ hplaces) rfl
    exact noChunk_of_comms (hchunk u.mem hmem) rfl (congrArg State.mon hu.rest :) (congrArg State.tlb hu.rest :) (congrArg State.free hu.rest :)
      (congrArg State.comms hu.rest :)

/-- What an ordered read of the package's memory does not return from the snapshot: what no uncovered write stands of. -/
theorem memo_readsNew {s : State} {c : Nat} {w : Wave} {a : Access} {op : MemoOp} {size d sc pa : Nat} {v x : Dword} (hk : a.kind = .memo op size d v x sc)
    (hsize : size = 4 ∨ size = 8) (hpl : a.place = .phys pa) (hsettled : op = .ldo → ∀ i < size, look s.loose (pa + i) = none) : ¬(op = .ldo ∧ s.readsOld c sc (s.recOf w.blk).hasGang a = true) := by
  rintro ⟨hop, h⟩
  have hasize : a.size = size := by rw [Access.size, hk]
  rw [State.readsOld, hpl] at h
  dsimp only at h
  rw [Bool.and_eq_true, List.all_eq_true] at h
  have h0 := h.2 0 (List.mem_range.mpr (by rw [hasize]; omega))
  rw [Bool.and_eq_true] at h0
  have hlag := h0.2
  cases hsnap : look (s.core c).snap (pa + 0) with
  | none => rw [hsnap] at hlag; exact Bool.false_ne_true hlag
  | some p =>
    rw [hsnap, Option.map_some, Option.getD_some, State.lags, hsettled hop 0 (by omega)] at hlag
    simp at hlag

section
variable {s : State} {c sl n : Nat} {w : Wave} {th : Thread} {a : Access} (hp : Performable s c sl w th n a) {op : MemoOp} {size d sc pa : Nat} {v x : Dword}
  (hk : a.kind = .memo op size d v x sc) (hsize : size = 4 ∨ size = 8) (hf : op = .addf → size = 4) (hv : v.toNat < 2 ^ (8 * size)) (honce : Once th n d size)
  (hpl : a.place = .phys pa) (hspill : NoSpill s a.places) (hguard : op = .ldo ∨ NoChunkAfter s pa size a.places ∧ NoMisuse s a.places)
  (hfar : ∀ i < size, isRemote (pa + i) = false) (hpoison : s.poisoned = [])
include hp hk hsize hf hv honce hpl hspill hguard hfar hpoison

/-- A MEMO on memory of the package: what its operation leaves, whichever home it has, once the operation's own places are known. -/
theorem memoPerformed_phys (hread : ¬(op = .ldo ∧ s.readsOld c sc (s.recOf w.blk).hasGang a = true)) {t : State} {m : Nat}
    (hplaced : s.placeOwn c (s.gangId w.blk) sc (s.recOf w.blk).hasGang pa size = t) (hpt : OnlyPlaces s t)
    (hm : leNat (t.memoRead c (s.gangId w.blk) sc (s.recOf w.blk).hasGang pa size) = m)
    (hl : (t.memoRead c (s.gangId w.blk) sc (s.recOf w.blk).hasGang pa size).length = size) {u : State}
    (hnone : amo op (8 * size) m v.toNat x.toNat = none → t.atomicAt c (s.gangId w.blk) sc (s.recOf w.blk).hasGang pa size none = u)
    (hsome : ∀ y, amo op (8 * size) m v.toNat x.toNat = some y → t.memoWrite c (s.gangId w.blk) sc (s.recOf w.blk).hasGang pa (leBytes size y) = u)
    (hpu : OnlyPlaces s u) (hmem : ∀ z, z < pa ∨ pa + size ≤ z → readMem u.mem z = readMem s.mem z) :
    ((s.performWith c sl th.lane n w a).settle c sl).lane? c sl th.lane =
      some (if op = .sto then Thread.without th n else Thread.without th n (Thread.takes d size (BitVec.ofNat 64 m))) ∧
    Returned u ((s.performWith c sl th.lane n w a).settle c sl) := by
  have hasize : a.size = size := by rw [Access.size, hk]
  have hlocal : ∀ q, a.place = .phys q → isRemote q = false := fun q hq => by
    rw [hpl] at hq
    obtain rfl := Place.phys.inj hq
    exact hfar 0 (by omega)
  have happly := apply_bytes op size v x hl hsize hf hv
  rw [hm] at happly
  have hat : t.atomicAt c (s.gangId w.blk) sc (s.recOf w.blk).hasGang pa size (op.apply size (BitVec.ofNat 64 m) v x) = u := by
    cases hn : op.apply size (BitVec.ofNat 64 m) v x with
    | none =>
      rw [hn] at happly
      exact hnone happly.symm
    | some y =>
      rw [hn] at happly
      exact hsome y.toNat happly.symm
  refine memoPerformed_leaves hp hk (fun k => State.fetched_local hpoison hlocal ..) (State.breachAt_unguarded hspill) hlocal hread honce (u := u)
    (m := BitVec.ofNat 64 m) hpu.waves ?_ (State.strikeAt_none hpl (by rw [hasize]; exact hguard) hpu (by rw [hasize]; exact hmem))
  rw [hpl, State.atomic_phys, hplaced, hm, hat]

/-- At .wave and .block, and at .gang of a launch without gangs: in the core's view. -/
theorem memoPerformed_view (hsc : sc ≤ 1 ∨ sc = 2 ∧ (s.recOf w.blk).hasGang = false) :
    let m := leNat (s.viewBytes c pa size)
    ((s.performWith c sl th.lane n w a).settle c sl).lane? c sl th.lane =
      some (if op = .sto then Thread.without th n else Thread.without th n (Thread.takes d size (BitVec.ofNat 64 m))) ∧
    s.sameMemory ((s.performWith c sl th.lane n w a).settle c sl) ∧
    (∀ i < size, ((s.performWith c sl th.lane n w a).settle c sl).viewByte c (pa + i) = amoByte op size m v.toNat x.toNat i (s.viewByte c (pa + i))) ∧
    (∀ j y, j ≠ c ∨ (y < pa ∨ pa + size ≤ y) → ((s.performWith c sl th.lane n w a).settle c sl).viewByte j y = s.viewByte j y) := by
  intro m
  have hread : ¬(op = .ldo ∧ s.readsOld c sc (s.recOf w.blk).hasGang a = true) := by
    rintro ⟨-, h⟩
    rw [State.readsOld, hpl] at h
    dsimp only at h
    rw [show (wide sc || (sc == 2 && (s.recOf w.blk).hasGang)) = false by rcases hsc with h | ⟨rfl, h⟩ <;> simp_all [wide]; omega] at h
    exact Bool.false_ne_true h
  have hplaced : s.placeOwn c (s.gangId w.blk) sc (s.recOf w.blk).hasGang pa size = s.orderOwn c (fun y => decide (pa ≤ y) && decide (y < pa + size)) := by
    unfold State.placeOwn
    rw [if_pos hsc]
  have hview := State.viewByte_orderOwn s c (fun y => decide (pa ≤ y) && decide (y < pa + size))
  have hbytes : (s.orderOwn c (fun y => decide (pa ≤ y) && decide (y < pa + size))).memoRead c (s.gangId w.blk) sc (s.recOf w.blk).hasGang pa size = s.viewBytes c pa size := by
    unfold State.memoRead
    rw [if_pos hsc, State.viewBytes_congr hview]
  have hpt := OnlyPlaces.orderOwn s c (fun y => decide (pa ≤ y) && decide (y < pa + size))
  have hmt : (s.orderOwn c (fun y => decide (pa ≤ y) && decide (y < pa + size))).mem = s.mem := rfl
  generalize s.orderOwn c (fun y => decide (pa ≤ y) && decide (y < pa + size)) = t at hplaced hview hbytes hpt hmt
  have hperf := fun u => memoPerformed_phys (u := u) hp hk hsize hf hv honce hpl hspill hguard hfar hpoison hread hplaced hpt (m := m) (by rw [hbytes])
    (by rw [hbytes]; simp [State.viewBytes])
  cases hamo : amo op (8 * size) m v.toNat x.toNat with
  | none =>
    obtain ⟨hlane, hret⟩ := hperf (t) (fun _ => if_pos hsc) (fun y hy => by rw [hamo] at hy; exact nomatch hy) hpt (fun z _ => by rw [hmt])
    refine ⟨hlane, fun z => by rw [hret.mem, hmt], fun i hi => ?_, fun j y _ => (hret.viewByte j y).trans (hview j y)⟩
    rw [hret.viewByte, hview, amoByte_of_none hamo]
  | some y =>
    have hw : t.memoWrite c (s.gangId w.blk) sc (s.recOf w.blk).hasGang pa (leBytes size y) =
        (t.viewWrite c (s.gangId w.blk) pa (leBytes size y)).orderOwn c (fun z => decide (pa ≤ z) && decide (z < pa + (leBytes size y).length)) := by
      unfold State.memoWrite
      rw [if_pos hsc]
    have hpv := (hpt.trans (OnlyPlaces.viewWrite c (s.gangId w.blk) (leBytes size y) t pa)).trans
      (OnlyPlaces.orderOwn _ c (fun z => decide (pa ≤ z) && decide (z < pa + (leBytes size y).length)))
    have hmv : ((t.viewWrite c (s.gangId w.blk) pa (leBytes size y)).orderOwn c (fun z => decide (pa ≤ z) && decide (z < pa + (leBytes size y).length))).mem = s.mem :=
      (congrArg State.mem (State.viewWrite_rest c (s.gangId w.blk) (leBytes size y) t pa) :).trans hmt
    have hvv := State.viewByte_orderOwn (t.viewWrite c (s.gangId w.blk) pa (leBytes size y)) c (fun z => decide (pa ≤ z) && decide (z < pa + (leBytes size y).length))
    obtain ⟨hin, hout⟩ := State.viewByte_viewWrite t c (s.gangId w.blk) pa (leBytes size y)
    rw [leBytes_length] at hin hout
    generalize (t.viewWrite c (s.gangId w.blk) pa (leBytes size y)).orderOwn c (fun z => decide (pa ≤ z) && decide (z < pa + (leBytes size y).length)) = u at hw hpv hmv hvv
    obtain ⟨hlane, hret⟩ := hperf (u) (fun h => by rw [hamo] at h; exact nomatch h)
      (fun z hz => by rw [hamo] at hz; obtain rfl := Option.some.inj hz; exact hw) hpv (fun z _ => by rw [hmv])
    refine ⟨hlane, fun z => by rw [hret.mem, hmv], fun i hi => ?_, fun j z hz => ?_⟩
    · rw [hret.viewByte, hvv, hin i hi, amoByte_of_some hamo hi]
    · rw [hret.viewByte, hvv, hout j z hz, hview]

/-- At .gang: in the gang's instance. -/
theorem memoPerformed_gang {k : Gang} (hsc : sc = 2) (hhas : (s.recOf w.blk).hasGang = true) (hgang : s.gang? (s.gangId w.blk) = some k)
    (hw : ∀ i < size, look (s.core c).writes (pa + i) = none) (hsettled : op = .ldo → ∀ i < size, look s.loose (pa + i) = none)
    (hothers : ∀ g ∈ s.gangsOn c, g ≠ s.gangId w.blk → ∀ o, s.gang? g = some o → ∀ i < size, look o.overlay (pa + i) = none) :
    let m := leNat ((List.range size).map (fun i => match look k.overlay (pa + i) with
      | some p => (later (s.home (pa + i)) p).val
      | none => readMem s.mem (pa + i)))
    ((s.performWith c sl th.lane n w a).settle c sl).lane? c sl th.lane =
      some (if op = .sto then Thread.without th n else Thread.without th n (Thread.takes d size (BitVec.ofNat 64 m))) ∧
    s.sameMemory ((s.performWith c sl th.lane n w a).settle c sl) ∧ ∃ k', ((s.performWith c sl th.lane n w a).settle c sl).gang? (s.gangId w.blk) = some k' ∧
      (∀ y, (y < pa ∨ pa + size ≤ y) ∨ amo op (8 * size) m v.toNat x.toNat = none → look k'.overlay y = look k.overlay y) ∧
      (∀ i < size, amo op (8 * size) m v.toNat x.toNat ≠ none → ∃ q, look k'.overlay (pa + i) = some q ∧ q.val = amoByte op size m v.toNat x.toNat i 0 ∧ s.stamp < q.stamp) := by
  intro m
  subst hsc
  have hfar2 : ¬((2 : Nat) ≤ 1 ∨ ((2 : Nat) = 2 ∧ (s.recOf w.blk).hasGang = false)) := by simp [hhas]
  have hplaced := State.placeOwn_none s c (s.gangId w.blk) 2 (s.recOf w.blk).hasGang size hfar2 hw
    (fun g' hon hne k' hk' i hi => hothers g' hon (by simpa [wide] using hne) k' hk' i hi)
  have hbytes : s.memoRead c (s.gangId w.blk) 2 (s.recOf w.blk).hasGang pa size = (List.range size).map (fun i => match look k.overlay (pa + i) with
      | some p => (later (s.home (pa + i)) p).val
      | none => readMem s.mem (pa + i)) := by
    unfold State.memoRead State.orderBytes
    rw [if_neg hfar2, List.map_map]
    refine List.map_congr_left (fun i _ => ?_)
    rw [Function.comp_apply, if_neg (by decide), hgang, Option.bind_some]
    cases look k.overlay (pa + i) <;> rfl
  have hperf := fun u => memoPerformed_phys (u := u) hp hk hsize hf hv honce hpl hspill hguard hfar hpoison
    (memo_readsNew hk hsize hpl hsettled) hplaced (OnlyPlaces.refl s) (m := m) (by rw [hbytes]) (by rw [hbytes]; simp)
  cases hamo : amo op (8 * size) m v.toNat x.toNat with
  | none =>
    obtain ⟨hlane, hret⟩ := hperf (s.snapTake c pa (s.orderBytes (s.gangId w.blk) 2 pa size)) (fun _ => if_neg hfar2)
      (fun y hy => by rw [hamo] at hy; exact nomatch hy) (State.snapTake_places ..) (fun z _ => rfl)
    exact ⟨hlane, fun z => by rw [hret.mem]; rfl, k, (hret.gang _).trans hgang, fun y _ => rfl, fun i _ h => absurd rfl h⟩
  | some y =>
    have hwrite := State.memoWrite_instance hgang c pa (leBytes size y)
    obtain ⟨hlane, hret⟩ := hperf (s.memoWrite c (s.gangId w.blk) 2 true pa (leBytes size y)) (fun h => by rw [hamo] at h; exact nomatch h)
      (fun z hz => by rw [hamo] at hz; obtain rfl := Option.some.inj hz; rw [hhas]) hwrite.places (fun z _ => by rw [hwrite.mem])
    obtain ⟨k', hk', hlook⟩ := hwrite.gang
    refine ⟨hlane, fun z => by rw [hret.mem, hwrite.mem], k', (hret.gang _).trans hk', fun z hz => ?_, fun i hi _ => ?_⟩
    · rw [hlook, if_neg]
      rw [leBytes_length]
      have := hz.resolve_right (by simp)
      omega
    · refine ⟨⟨(leBytes size y).getD i 0, s.stamp + 1⟩, ?_, (amoByte_of_some hamo hi).symm, Nat.lt_succ_self _⟩
      rw [hlook, leBytes_length, if_pos (by omega), Nat.add_sub_cancel_left]

/-- At .tenant and wider: at the home. -/
theorem memoPerformed_home (ho : Orderly s) (h3 : 3 ≤ sc) (hw : ∀ i < size, look (s.core c).writes (pa + i) = none)
    (hsettled : op = .ldo → ∀ i < size, look s.loose (pa + i) = none) (hothers : ∀ i < size, ∀ g k, s.gang? g = some k → look k.overlay (pa + i) = none) :
    let m := leNat ((List.range size).map (fun i => readMem s.mem (pa + i)))
    ((s.performWith c sl th.lane n w a).settle c sl).lane? c sl th.lane =
      some (if op = .sto then Thread.without th n else Thread.without th n (Thread.takes d size (BitVec.ofNat 64 m))) ∧
    (∀ i < size, readMem ((s.performWith c sl th.lane n w a).settle c sl).mem (pa + i) = amoByte op size m v.toNat x.toNat i (readMem s.mem (pa + i))) ∧
    (∀ y, y < pa ∨ pa + size ≤ y → readMem ((s.performWith c sl th.lane n w a).settle c sl).mem y = readMem s.mem y) := by
  intro m
  have hfar2 : ¬(sc ≤ 1 ∨ (sc = 2 ∧ (s.recOf w.blk).hasGang = false)) := by omega
  have hplaced := State.placeOwn_none s c (s.gangId w.blk) sc (s.recOf w.blk).hasGang size hfar2 hw (fun g' _ _ k' hk' i hi => hothers i hi g' k' hk')
  have hbytes : s.memoRead c (s.gangId w.blk) sc (s.recOf w.blk).hasGang pa size = (List.range size).map (fun i => readMem s.mem (pa + i)) := by
    unfold State.memoRead
    rw [if_neg hfar2, State.orderBytes_wide _ _ _ _ h3]
  have hperf := fun u => memoPerformed_phys (u := u) hp hk hsize hf hv honce hpl hspill hguard hfar hpoison
    (memo_readsNew hk hsize hpl hsettled) hplaced (OnlyPlaces.refl s) (m := m) (by rw [hbytes]) (by rw [hbytes]; simp)
  cases hamo : amo op (8 * size) m v.toNat x.toNat with
  | none =>
    obtain ⟨hlane, hret⟩ := hperf (s.snapTake c pa (s.orderBytes (s.gangId w.blk) sc pa size)) (fun _ => if_neg hfar2)
      (fun y hy => by rw [hamo] at hy; exact nomatch hy) (State.snapTake_places ..) (fun z _ => rfl)
    refine ⟨hlane, fun i hi => ?_, fun y _ => by rw [hret.mem]; rfl⟩
    rw [hret.mem, amoByte_of_none hamo]
    rfl
  | some y =>
    have hwrite := State.memoWrite_written ho c (s.gangId w.blk) pa (leBytes size y)
    have hreads := hwrite.reads
    rw [leBytes_length] at hreads
    obtain ⟨hlane, hret⟩ := hperf (s.memoWrite c (s.gangId w.blk) 3 true pa (leBytes size y)) (fun h => by rw [hamo] at h; exact nomatch h)
      (fun z hz => by rw [hamo] at hz; obtain rfl := Option.some.inj hz; exact State.memoWrite_wide s c _ pa _ h3 _) hwrite.places
      (fun z hz => by rw [hreads, if_neg (by omega)])
    refine ⟨hlane, fun i hi => ?_, fun z hz => by rw [hret.mem, hreads, if_neg (by omega)]⟩
    rw [hret.mem, hreads, if_pos (by omega), Nat.add_sub_cancel_left, amoByte_of_some hamo hi]
end

/-- Settles O24: the operation on the bytes where they stand, in each of the places that a scope gives them, and then the end that every MEMO has. -/
theorem memoPerforms : Obligations.MemoPerforms := by
  unfold Obligations.MemoPerforms
  intro c sl n s w th a op size d sc v x hp hk hsize hf hv hx honce gained becomes outside
  have hmemo : Access.isMemo a = true := by rw [Access.isMemo, hk]
  refine ⟨_, congrArg Host.Outcome.next (performAnd_eq hp hmemo), fun b off k hpl hb hcan => memoPerformed_pad hp hk hsize hf hv honce hpl hb hcan, ?_⟩
  intro pa hpl hspill hguard hfar hpoison ho has mine unwritten settled
  refine ⟨fun hsc => memoPerformed_view hp hk hsize hf hv honce hpl hspill hguard hfar hpoison hsc,
    fun k hsc hhas hgang hw hset hothers => memoPerformed_gang hp hk hsize hf hv honce hpl hspill hguard hfar hpoison hsc hhas hgang hw hset hothers,
    fun h3 _ hw hset hothers => memoPerformed_home hp hk hsize hf hv honce hpl hspill hguard hfar hpoison ho h3 hw hset (fun i hi g k => hothers i hi g k)⟩

end Sys2Proof.Machine
end

section
/-! PROOFS. The issue of copies, lists and fences (spec/09 R167 to R171, R179, R180): O27. -/

namespace Sys2Proof.Machine
open Sys2Proof.Claims

/-! ## A token made pending, and the path that goes on -/

theorem getElem?_modifyNth {α : Type} (f : α → α) (l : List α) : ∀ n m, (modifyNth f l n)[m]? = if m = n then (l[m]?).map f else l[m]? := by
  induction l with
  | nil => intro n m; cases n <;> simp [modifyNth]
  | cons x rest ih =>
    intro n m
    cases n with
    | zero => cases m <;> simp [modifyNth]
    | succ n =>
      cases m with
      | zero => simp [modifyNth]
      | succ m =>
        rw [modifyNth, List.getElem?_cons_succ, List.getElem?_cons_succ, ih]
        simp only [Nat.add_right_cancel_iff]

/-- A wave with a token register pending. -/
def Wave.pends (w : Wave) (k : Nat) : Wave :=
  if 63 ≤ k then w else { w with regs := { w.regs with tok := if w.regs.tok.testBit k then w.regs.tok else w.regs.tok + 2 ^ k } }

theorem Wave.pends_place (w : Wave) (k : Nat) : (w.pends k).core = w.core ∧ (w.pends k).slot = w.slot ∧ (w.pends k).lanes = w.lanes := by
  unfold Wave.pends
  split <;> exact ⟨rfl, rfl, rfl⟩

theorem Wave.pends_bit (w : Wave) {k : Nat} (h : k < 63) : (w.pends k).regs.tok.testBit k = true := by
  unfold Wave.pends
  rw [if_neg (by omega)]
  dsimp only
  split
  next hb => exact hb
  next hb => rw [Nat.add_comm, Nat.testBit_two_pow_add_eq, Bool.not_eq_true] at *; simpa using hb

section
variable {s u : State} {w : Wave} {th : Thread} (h : s.OnPath w th) (hw : u.waves = s.waves) (hc : u.cur = s.cur)
include h hw hc

theorem State.pend_onPath (k : Nat) : (u.pend k).OnPath (w.pends k) th := by
  have hu : u.OnPath w th := h.of_same hw hc
  refine ⟨?_, ?_, ?_⟩
  · unfold State.pend Wave.pends
    split
    · exact hu.wave
    · exact State.curWave_onCur (f := fun w => { w with regs := { w.regs with tok := if w.regs.tok.testBit k then w.regs.tok else w.regs.tok + 2 ^ k } })
        hu.wave (fun _ => ⟨rfl, rfl⟩)
  · have e := Wave.pends_place w k
    rw [Wave.lane?, e.2.2]
    exact h.lane
  · have e : (u.pend k).cur = u.cur := by
      unfold State.pend
      split <;> rfl
    rw [e, hc]
    exact h.path
/-- A path that issued an operation goes on; its token is pending; the blocks and the engines of the cores are as the issue left them. -/
theorem State.issue_goesOn (k : Nat) (t : Bool) :
    ((u.pend k).perLane t (fun _ th => .next th)).lane? w.core w.slot th.lane = some (th.after s.cur.len t) ∧
    pending ((u.pend k).perLane t (fun _ th => .next th)) w k ∧
    ((u.pend k).perLane t (fun _ th => .next th)).blocks = u.blocks ∧
    ∀ c, { ((u.pend k).perLane t (fun _ th => .next th)).core c with window := (u.core c).window } = u.core c := by
  have hp := State.pend_onPath h hw hc k
  obtain ⟨hcore, hslot, -⟩ := Wave.pends_place w k
  have hlen : (u.pend k).cur = s.cur := by
    rw [← hc]
    unfold State.pend
    split <;> rfl
  have hrest : (u.pend k).blocks = u.blocks ∧ (u.pend k).cores = u.cores := by
    unfold State.pend
    split <;> exact ⟨rfl, rfl⟩
  refine ⟨?_, fun hk => ?_, ?_, fun c => ?_⟩
  · have e := State.perLane_lane hp t (fun _ th => .next th) (fun _ _ => rfl)
    rw [hcore, hslot, Out.apply_next, hlen] at e
    exact e
  · have e := State.perLane_wave hp.wave t (fun _ th => .next th)
    rw [hcore, hslot] at e
    refine ⟨_, e, ?_⟩
    have er := congrArg (fun v : Wave => v.regs.tok.testBit k) (laneWave_eq (u.pend k) t (fun _ th => .next th) (w.pends k))
    exact er.trans (Wave.pends_bit w hk)
  · rw [State.perLane_blocks, hrest.1]
  · have e := (State.perLane_onlyLanes hp.wave t (f := fun _ th => .next th) (fun _ _ => rfl)).cores c
    have ec : (u.pend k).core c = u.core c := by rw [State.core, State.core, hrest.2]
    rw [ec] at e
    exact e
end

/-! ## Copies and lists -/

section
variable {s : State} {w : Wave} {th : Thread} {b : Block} {q : Nat} {l : List CopyOp}

theorem State.withQueue_eq (hw : s.curWave = some w) (hb : s.block? w.blk = some b) (hq : b.queues[q]? = some l) (k : Wave → State) :
    s.withQueue q k = if l.length < 32 then k w else s.holdAll (.queue q) := by
  unfold State.withQueue
  rw [hw]
  dsimp only
  rw [hb, Option.bind_some, hq]

/-- The operation that the path enters in a copy queue. -/
def State.copyOp (s : State) (w : Wave) (tok : Nat) (ds : List CopyDesc) : CopyOp :=
  { id := s.ids, blk := w.blk, who := s.issuer, lanes := s.cur.lanes, step := s.free, tok := tok, gone := [], list := ds, fence := false, after := [],
    started := false, captured := [], landed := [], req := none, spoilt := false }

theorem State.enterCopy_enters (h : s.OnPath w th) (hb : s.block? w.blk = some b) (hq : b.queues[q]? = some l) (tok : Nat) (ds : List CopyDesc) (t : Bool) :
    (s.enterCopy w q tok ds t).lane? w.core w.slot th.lane = some (th.after s.cur.len t) ∧ pending (s.enterCopy w q tok ds t) w tok ∧
    ((s.enterCopy w q tok ds t).block? w.blk).bind (fun x => x.queues[q]?) = some (l ++ [s.copyOp w tok ds]) := by
  unfold State.enterCopy
  dsimp only
  have hg := State.gauge_rest (s := { s with ids := s.ids + 1 }) 4 w.core (some (s.vfOf w.blk))
    (((s.block? w.blk).map (fun b => (b.queues.getD q []).length + 1)).getD 0)
  generalize State.gauge _ 4 w.core (some (s.vfOf w.blk)) _ = u at hg ⊢
  have hub : (u.block? w.blk) = some b := by
    rw [← hb]
    exact (congrArg (fun x : State => x.block? w.blk) hg :)
  have hv : (u.onCopies w.blk q (fun l => l ++ [s.copyOp w tok ds])).waves = s.waves := (congrArg State.waves hg :)
  have hcur : (u.onCopies w.blk q (fun l => l ++ [s.copyOp w tok ds])).cur = s.cur := (congrArg State.cur hg :)
  have hblk := State.block?_onBlock hub (fun b => { b with queues := modifyNth (fun l => l ++ [s.copyOp w tok ds]) b.queues q })
  obtain ⟨hlane, hpend, hblocks, -⟩ := State.issue_goesOn h hv hcur tok t
  refine ⟨hlane, hpend, ?_⟩
  have e : (((u.onCopies w.blk q (fun l => l ++ [s.copyOp w tok ds])).pend tok).perLane t (fun _ th => .next th)).block? w.blk =
      some { b with queues := modifyNth (fun l => l ++ [s.copyOp w tok ds]) b.queues q } := by
    rw [State.block?, hblocks]
    exact hblk
  refine (congrArg (fun o : Option Block => o.bind (fun x => x.queues[q]?)) e).trans ?_
  rw [Option.bind_some, getElem?_modifyNth, if_pos rfl, hq]
  rfl

/-- What a check at issue leads to, on a path that waits for nothing. -/
theorem State.afterAccesses_checked {α : Type} (h : s.OnPath w th) (hquiet : Quiet s w) (c : State → Chk α) (k : State → α → State) :
    s.afterAccesses (fun u => u.checked (c u) (k u)) = { (match c s with
      | .error cause => s.trapAll cause
      | .ok v => k s v) with cur := s.cur } := by
  rw [State.afterAccesses_quiet h.wave hquiet h.lanes_ne]
  rfl

/-- What a path leaves that issues a checked copy, or list of copies. -/
theorem copyIssue_enters (h : s.OnPath w th) (hquiet : Quiet s w) (hb : s.block? w.blk = some b) (hq : b.queues[q]? = some l) (hlen : l.length < 32)
    (sb tok : Nat) (hready : w.sReady [sb, tok]) (c : State → Wave → Chk (List CopyDesc)) (t : Bool) {s' : State}
    (hs' : s' = s.withTokens [sb, tok] (s.withQueue q (fun w => s.afterAccesses (fun u => u.checked (c u w) (fun ds => u.enterCopy w q tok ds t))))) :
    (∀ cause, c s w = .error cause → s'.lane? w.core w.slot th.lane = some (Thread.trap s w.regs th cause th.pc) ∧ s'.blocks = s.blocks) ∧
    (∀ ds, c s w = .ok ds → s'.lane? w.core w.slot th.lane = some (th.after s.cur.len t) ∧ pending s' w tok ∧
      (s'.block? w.blk).bind (fun x => x.queues[q]?) = some (l ++ [s.copyOp w tok ds])) := by
  rw [State.withTokens_ready h.wave hready, State.withQueue_eq h.wave hb hq, if_pos hlen,
    State.afterAccesses_checked h hquiet (fun u => c u w) (fun u ds => u.enterCopy w q tok ds t)] at hs'
  refine ⟨fun cause hc => ?_, fun ds hc => ?_⟩
  · rw [hc] at hs'
    subst hs'
    exact ⟨State.trapAll_traps h cause, State.perLane_blocks s _ _⟩
  · rw [hc] at hs'
    subst hs'
    obtain ⟨hlane, hpend, hin⟩ := State.enterCopy_enters h hb hq tok ds t
    exact ⟨hlane, hpend, hin⟩

/-- The same of one descriptor, by its parameter block and its fields. -/
theorem exec_of_copies {i : Instr} {form : Nat} {q : BitVec 3} {k sb : BitVec 6} {t : Bool} (hi : Copies i form q k sb t) (s : State) : exec i s = copyForm form q k sb t s := by
  cases hi <;> rfl

/-- The checked descriptor of a copy form. -/
def copyChk (form sb : Nat) (u : State) (w : Wave) : Chk (List CopyDesc) := do
  let d ← (do let bs ← u.paramBlock w sb 40; u.copyDesc w form bs)
  pure [d]

theorem copyForm_eq (form : Nat) (q : BitVec 3) (k sb : BitVec 6) (t : Bool) (s : State) : copyForm form q k sb t s =
    .next (s.withTokens [sb.toNat, k.toNat] (s.withQueue q.toNat (fun w => s.afterAccesses (fun u => u.checked (copyChk form sb.toNat u w)
      (fun ds => u.enterCopy w q.toNat k.toNat ds t))))) := by
  have e : ∀ (w : Wave) (u : State), u.checked (do let bs ← u.paramBlock w sb.toNat 40; u.copyDesc w form bs) (fun d => u.enterCopy w q.toNat k.toNat [d] t) =
      u.checked (copyChk form sb.toNat u w) (fun ds => u.enterCopy w q.toNat k.toNat ds t) := by
    intro w u
    unfold copyChk
    cases (do let bs ← u.paramBlock w sb.toNat 40; u.copyDesc w form bs : Chk CopyDesc) <;> rfl
  unfold copyForm
  simp only [e]
  rfl
end

/-! ## Fences -/

/-- The entry of a fence in a copy queue. -/
def State.fenceEntry (u s : State) (w : Wave) (n k q : Nat) (qs : List Nat) : CopyOp :=
  { id := u.ids, blk := w.blk, who := s.issuer, lanes := s.cur.lanes, step := s.free, tok := if qs.head? = some q then k else 64,
    gone := [], list := [], fence := true, after := s.fenceAfter w n, started := true, captured := [], landed := [], req := none, spoilt := false }
/-- The entries of a fence in some copy queues. -/
def State.fenceIn (s : State) (w : Wave) (n k : Nat) (all qs : List Nat) (u : State) : State :=
  qs.foldl (fun u q => ({ u with ids := u.ids + 1 } : State).onCopies w.blk q (fun l => l ++ [u.fenceEntry s w n k q all])) u

/-- A block whose queues have the entries of a fence, one in each of some. -/
structure Fenced (s : State) (w : Wave) (n : Nat) (qs : List Nat) (b b' : Block) : Prop where
  gang : b'.gang = b.gang
  other : ∀ q, q ∉ qs → b'.queues[q]? = b.queues[q]?
  entry : ∀ q ∈ qs, ∀ l, b.queues[q]? = some l → ∃ op : CopyOp, b'.queues[q]? = some (l ++ [op]) ∧ op.fence = true ∧ op.after = s.fenceAfter w n

section
variable {s : State} {w : Wave} {n k : Nat} {all : List Nat}

theorem State.fenceIn_rest (qs : List Nat) : ∀ u : State, { s.fenceIn w n k all qs u with blocks := u.blocks, ids := u.ids } = u := by
  induction qs with
  | nil => exact fun _ => rfl
  | cons q rest ih =>
    intro u
    exact (congrArg (fun x : State => { x with
      blocks := u.blocks, ids := u.ids }) (ih (({ u with ids := u.ids + 1 } : State).onCopies w.blk q (fun l => l ++ [u.fenceEntry s w n k q all]))) :)

theorem State.fenceIn_fenced (qs : List Nat) : ∀ (u : State) (b : Block), u.block? w.blk = some b → qs.Nodup →
    ∃ b', (s.fenceIn w n k all qs u).block? w.blk = some b' ∧ Fenced s w n qs b b' := by
  induction qs with
  | nil => exact fun u b hb _ => ⟨b, hb, rfl, fun _ _ => rfl, fun _ h => nomatch h⟩
  | cons q rest ih =>
    intro u b hb hnd
    obtain ⟨hq, hnd⟩ := List.nodup_cons.mp hnd
    have hb1 : (({ u with ids := u.ids + 1 } : State).onCopies w.blk q (fun l => l ++ [u.fenceEntry s w n k q all])).block? w.blk =
        some { b with queues := modifyNth (fun l => l ++ [u.fenceEntry s w n k q all]) b.queues q } := State.block?_onBlock (s := { u with ids := u.ids + 1 }) hb _
    obtain ⟨b', hb', hgang, hother, hentry⟩ := ih _ _ hb1 hnd
    refine ⟨b', hb', hgang, fun p hp => ?_, fun p hp l hl => ?_⟩
    · rw [List.mem_cons, not_or] at hp
      rw [hother p hp.2, getElem?_modifyNth, if_neg hp.1]
    · by_cases hpq : p = q
      · subst hpq
        refine ⟨u.fenceEntry s w n k p all, ?_, rfl, rfl⟩
        rw [hother p hq, getElem?_modifyNth, if_pos rfl, hl]
        rfl
      · refine hentry p ((List.mem_cons.mp hp).resolve_left hpq) l ?_
        rw [getElem?_modifyNth, if_neg hpq]
        exact hl
end

/-- The matrix queue's entry of a fence: nothing of the block stands in the window. -/
def State.fenceMatrix (s1 s : State) (w : Wave) (n k : Nat) (qs : List Nat) : State :=
  (({ s1 with ids := s1.ids + 1 } : State).flushFor w.core w.blk).onCore w.core (fun c => c.onQueue (s.isZero w.blk) (fun x =>
    { x with ops := x.ops ++ [fenceOp s1.ids w.blk s.issuer s.cur.lanes s.free (s.fenceAfter w n) (if qs.isEmpty ∧ k ≠ 63 then [⟨s.issuer, k, false⟩] else [])] }))

/-- The copy queues that a fence names. -/
def fenceQueues (n : Nat) : List Nat := (List.range 5).filter (fun q => n.testBit q)

theorem mem_fenceQueues {n q : Nat} : q ∈ fenceQueues n ↔ q < 5 ∧ n.testBit q = true := by
  rw [fenceQueues, List.mem_filter, List.mem_range]

theorem fenceQueues_nodup (n : Nat) : (fenceQueues n).Nodup := List.nodup_range.filter _

theorem Core.onQueue_queue (c : Core) (zero : Bool) (f : MatQueue → MatQueue) : (c.onQueue zero f).queue zero = f (c.queue zero) := by
  cases zero <;> rfl

theorem Core.flushFor_queue (s : State) (c blk k : Nat) (zero : Bool) : ((s.flushFor c blk).core k).queue zero = (s.core k).queue zero := by
  have e := (OnlyWaves.flushFor s c blk).cores k
  exact (congrArg (fun x : Core => x.queue zero) e :)

section
variable {s : State} {w : Wave} {th : Thread} {b : Block} (h : s.OnPath w th) (hb : s.block? w.blk = some b)
include h hb

omit h in
/-- What a fence waits for: what its block has in the copy queues that it names. -/
theorem mem_fenceAfter_copies {n p : Nat} {m : List CopyOp} (hp : p < 5) (hn : n.testBit p = true) (hm : b.queues[p]? = some m) {o : CopyOp} (ho : o ∈ m) :
    o.id ∈ s.fenceAfter w n := by
  unfold State.fenceAfter
  dsimp only
  rw [hb]
  refine List.mem_append_left _ (List.mem_flatMap.mpr ⟨p, List.mem_range.mpr hp, ?_⟩)
  rw [if_pos hn, List.getD, hm]
  exact List.mem_map_of_mem ho

omit h hb in
theorem mem_fenceAfter_matrix {n : Nat} (hn : n.testBit 5 = true) {x : MatOp} (hx : x ∈ (s.core w.core).matOps) (hblk : x.blk = w.blk) : x.id ∈ s.fenceAfter w n := by
  unfold State.fenceAfter
  dsimp only
  rw [if_pos hn]
  exact List.mem_append_right _ (List.mem_map_of_mem (List.mem_filter.mpr ⟨hx, beq_iff_eq.mpr hblk⟩))

omit hb in
/-- A fence that finds room: its entries, and the path goes on. -/
theorem exec_qfence {n k : BitVec 6} {t : Bool} (hready : w.sReady [k.toNat]) (hn : n ≠ 0) (hroom : s.fenceFull w n.toNat = none)
    (hwin : n.toNat.testBit 5 = true → ∀ e ∈ (s.core w.core).window, e.blk ≠ w.blk) :
    exec (.qfence n k t) s = .next (((if n.toNat.testBit 5 = true then
        (s.fenceIn w n.toNat k.toNat (fenceQueues n.toNat) (fenceQueues n.toNat) s).fenceMatrix s w n.toNat k.toNat (fenceQueues n.toNat)
      else s.fenceIn w n.toNat k.toNat (fenceQueues n.toNat) (fenceQueues n.toNat) s).pend k.toNat).perLane t (fun _ th => .next th)) := by
  have hx : exec (.qfence n k t) s = execQfence n k t s := rfl
  rw [hx, execQfence, State.withTokens_ready h.wave hready, h.wave]
  dsimp only
  rw [if_neg hn, hroom]
  dsimp only
  have hbit : n.getLsbD 5 = n.toNat.testBit 5 := rfl
  rw [hbit]
  by_cases h5 : n.toNat.testBit 5 = true
  · have hheld : (s.core w.core).window.any (fun e => e.blk == w.blk) = false := List.any_eq_false.mpr (fun e he => by simpa using hwin h5 e he)
    rw [if_pos h5, if_pos h5, hheld, if_neg Bool.false_ne_true]
    rfl
  · rw [if_neg h5, if_neg h5]
    rfl

theorem qfence_enters {n k : BitVec 6} {t : Bool} (hready : w.sReady [k.toNat]) (hn : n ≠ 0) (hroom : s.fenceFull w n.toNat = none)
    (hwin : n.toNat.testBit 5 = true → ∀ e ∈ (s.core w.core).window, e.blk ≠ w.blk) :
    ∃ s', exec (.qfence n k t) s = .next s' ∧ s'.lane? w.core w.slot th.lane = some (th.after s.cur.len t) ∧ pending s' w k.toNat ∧
         (∀ q l, q < 5 → b.queues[q]? = some l →
           (n.toNat.testBit q = false → (s'.block? w.blk).bind (fun x => x.queues[q]?) = some l) ∧
           (n.toNat.testBit q = true → ∃ op, (s'.block? w.blk).bind (fun x => x.queues[q]?) = some (l ++ [op]) ∧ op.fence = true ∧
             ∀ p m, p < 5 → n.toNat.testBit p = true → b.queues[p]? = some m → ∀ o ∈ m, o.id ∈ op.after)) ∧
         (n.toNat.testBit 5 = true → ∃ o, (s'.queueOf w.core w.blk).ops = (s.queueOf w.core w.blk).ops ++ [o] ∧ o.f6 = 10 ∧
           ∀ x ∈ (s.core w.core).matOps, x.blk = w.blk → x.id ∈ o.after) := by
  refine ⟨_, exec_qfence h hready hn hroom hwin, ?_⟩
  obtain ⟨b', hb', hf⟩ := State.fenceIn_fenced (s := s) (w := w) (n := n.toNat) (k := k.toNat) (all := fenceQueues n.toNat) (fenceQueues n.toNat) s b hb (fenceQueues_nodup _)
  have hrest := State.fenceIn_rest (s := s) (w := w) (n := n.toNat) (k := k.toNat) (all := fenceQueues n.toNat) (fenceQueues n.toNat) s
  generalize s.fenceIn w n.toNat k.toNat (fenceQueues n.toNat) (fenceQueues n.toNat) s = u at hb' hrest
  have hmat : ∀ v : State, v = (if n.toNat.testBit 5 = true then u.fenceMatrix s w n.toNat k.toNat (fenceQueues n.toNat) else u) →
      v.waves = s.waves ∧ v.cur = s.cur ∧ v.blocks = u.blocks ∧ v.gangs = s.gangs ∧ v.launches = s.launches ∧
      (n.toNat.testBit 5 = true → ∃ o : MatOp, ((v.core w.core).queue (s.isZero w.blk)).ops = (s.queueOf w.core w.blk).ops ++ [o] ∧ o.f6 = 10 ∧
        o.after = s.fenceAfter w n.toNat) := by
    rintro v rfl
    by_cases h5 : n.toNat.testBit 5 = true
    · rw [if_pos h5]
      refine ⟨(congrArg State.waves hrest :), (congrArg State.cur hrest :), rfl, (congrArg State.gangs hrest :), (congrArg State.launches hrest :), fun _ => ?_⟩
      refine ⟨fenceOp u.ids w.blk s.issuer s.cur.lanes s.free (s.fenceAfter w n.toNat)
        (if (fenceQueues n.toNat).isEmpty ∧ k.toNat ≠ 63 then [⟨s.issuer, k.toNat, false⟩] else []), ?_, rfl, rfl⟩
      have hc : ((({ u with ids := u.ids + 1 } : State).flushFor w.core w.blk).core w.core).queue (s.isZero w.blk) = s.queueOf w.core w.blk := by
        rw [Core.flushFor_queue]
        exact (congrArg (fun x : State => (x.core w.core).queue (s.isZero w.blk)) hrest :)
      rw [State.fenceMatrix, State.core_onCore, if_pos rfl, Core.onQueue_queue, hc]
    · rw [if_neg h5]
      exact ⟨(congrArg State.waves hrest :), (congrArg State.cur hrest :), rfl, (congrArg State.gangs hrest :), (congrArg State.launches hrest :),
        fun h => absurd h h5⟩
  generalize (if n.toNat.testBit 5 = true then u.fenceMatrix s w n.toNat k.toNat (fenceQueues n.toNat) else u) = v at hmat
  obtain ⟨hwaves, hcur, hblocks, hgangs, hlaunches, hqueue⟩ := hmat v rfl
  obtain ⟨hlane, hpend, hblk, hcores⟩ := State.issue_goesOn h hwaves hcur k.toNat t
  have hfin : ((v.pend k.toNat).perLane t (fun _ th => .next th)).block? w.blk = some b' := by
    rw [State.block?, hblk, hblocks]
    exact hb'
  refine ⟨hlane, hpend, fun q l hq hl => ⟨fun hno => ?_, fun hyes => ?_⟩, fun h5 => ?_⟩
  · refine (congrArg (fun o : Option Block => o.bind (fun x => x.queues[q]?)) hfin).trans ?_
    rw [Option.bind_some, hf.other q (fun hm => by rw [(mem_fenceQueues.mp hm).2] at hno; exact nomatch hno), hl]
  · obtain ⟨op, hop, hfence, hafter⟩ := hf.entry q (mem_fenceQueues.mpr ⟨hq, hyes⟩) l hl
    refine ⟨op, (congrArg (fun o : Option Block => o.bind (fun x => x.queues[q]?)) hfin).trans hop, hfence, fun p m hp hn' hm o ho => ?_⟩
    rw [hafter]
    exact mem_fenceAfter_copies hb hp hn' hm ho
  · obtain ⟨o, hops, hf6, hafter⟩ := hqueue h5
    refine ⟨o, ?_, hf6, fun x hx hxb => by rw [hafter]; exact mem_fenceAfter_matrix h5 hx hxb⟩
    have hz : ((v.pend k.toNat).perLane t (fun _ th => .next th)).isZero w.blk = s.isZero w.blk := by
      have hg : ((v.pend k.toNat).perLane t (fun _ th => .next th)).gangs = s.gangs ∧ ((v.pend k.toNat).perLane t (fun _ th => .next th)).launches = s.launches := by
        have e := (State.perLane_onlyLanes (State.pend_onPath h hwaves hcur k.toNat).wave t (f := fun _ th => .next th) (fun _ _ => rfl)).state
        have ep : (v.pend k.toNat).gangs = v.gangs ∧ (v.pend k.toNat).launches = v.launches := by
          unfold State.pend
          split <;> exact ⟨rfl, rfl⟩
        exact ⟨((congrArg State.gangs e :).trans ep.1).trans hgangs, ((congrArg State.launches e :).trans ep.2).trans hlaunches⟩
      simp only [State.isZero, State.launchOf, State.gangOf, hfin, hb, Option.bind_some, State.gang?, State.launch?, hg.1, hg.2, hf.gang]
    rw [State.queueOf, hz, ← hops]
    exact (congrArg (fun x : Core => (x.queue (s.isZero w.blk)).ops) (hcores w.core) :)
end

/-- Settles O27: the checks of a copy lead to a trap or to one entry at the end of its queue; a fence enters each queue that it names. -/
theorem copiesIssue : Obligations.CopiesIssue := by
  unfold Obligations.CopiesIssue
  refine ⟨?_, ?_⟩
  · intro s w th b q k sb t l h hquiet hready hb hq entered trapped
    have hcopied : ∀ (s' : State) (ds : List CopyDesc), s'.lane? w.core w.slot th.lane = some (th.after s.cur.len t) ∧ pending s' w k.toNat ∧
        (s'.block? w.blk).bind (fun x => x.queues[q.toNat]?) = some (l ++ [s.copyOp w k.toNat ds]) → entered s' ds :=
      fun s' ds ⟨hlane, hpend, hin⟩ => ⟨hlane, hpend, s.copyOp w k.toNat ds, hin, rfl, rfl, rfl, rfl, rfl, rfl, rfl, rfl⟩
    refine ⟨fun i form hi => ⟨_, (exec_of_copies hi s).trans (copyForm_eq form q k sb t s), fun hfull => ?_, fun hlen => ?_⟩, ⟨_, rfl, fun hlen => ?_⟩⟩
    · rw [State.withTokens_ready h.wave hready, State.withQueue_eq h.wave hb hq, if_neg (by omega)]
      exact State.holdAll_waits h (.queue q.toNat)
    · obtain ⟨herr, hok⟩ := copyIssue_enters h hquiet hb hq hlen sb.toNat k.toNat hready (copyChk form sb.toNat) t rfl
      refine ⟨fun c hc => herr c ?_, fun bs hbs => ⟨fun c hc => herr c ?_, fun d hd => hcopied _ _ (hok [d] ?_)⟩⟩
      · rw [copyChk, hc]
        rfl
      · rw [copyChk, hbs]
        exact congrArg (fun x : Chk CopyDesc => x.bind (fun d => .ok [d])) hc
      · rw [copyChk, hbs]
        exact congrArg (fun x : Chk CopyDesc => x.bind (fun d => .ok [d])) hd
    · obtain ⟨herr, hok⟩ := copyIssue_enters h hquiet hb hq hlen sb.toNat k.toNat hready (fun u w => u.kickList w sb.toNat) t rfl
      exact ⟨fun c hc => herr c hc, fun ds hds => hcopied _ _ (hok ds hds)⟩
  · intro s w th b n k t h hready hb
    by_cases hn : n = 0
    · refine ⟨s.illop, ?_, fun _ => State.illop_traps h, fun h0 => absurd hn h0⟩
      have hx : exec (.qfence n k t) s = execQfence n k t s := rfl
      rw [hx, execQfence, State.withTokens_ready h.wave hready, h.wave]
      exact congrArg Host.Outcome.next (if_pos hn)
    · by_cases hroom : s.fenceFull w n.toNat = none ∧ (n.toNat.testBit 5 = true → ∀ e ∈ (s.core w.core).window, e.blk ≠ w.blk)
      · obtain ⟨s', hex, hrest⟩ := qfence_enters h hb (t := t) hready hn hroom.1 hroom.2
        exact ⟨s', hex, fun h0 => absurd h0 hn, fun _ _ _ => hrest⟩
      · exact ⟨_, rfl, fun h0 => absurd h0 hn, fun _ h1 h2 => absurd ⟨h1, h2⟩ hroom⟩

end Sys2Proof.Machine
end

section
/-! PROOFS. The issue of the instructions of the matrix queue (spec/09 R167, R168, R192, spec/11 R228): O30. -/

namespace Sys2Proof.Machine
open Sys2Proof.Claims

/-! ## The stalls -/

theorem State.withThimble_eq {s : State} {w : Wave} (hw : s.curWave = some w) (hz : s.isZero w.blk = false) (k : Wave → State) :
    s.withThimble k = if (s.core w.core).mq.holder ≠ some w.slot then s.holdAll (.thimble (s.clockOf w.core))
      else if !s.windowRoom w.core w.blk 0 then s.holdAll .window else k w := by
  have hq : s.queueOf w.core w.blk = (s.core w.core).mq := by rw [State.queueOf, hz]; rfl
  rw [State.withThimble, hw]
  dsimp only
  rw [hq]

/-- A window and a queue that are not both near their ends take an operation. -/
theorem State.windowRoom_of {s : State} {c blk : Nat} (hz : s.isZero blk = false) (hwin : (s.core c).window.length < 16)
    (hops : (s.core c).mq.ops.length ≤ 32) : s.windowRoom c blk 0 = true := by
  have h48 : (s.core c).window.length + (s.core c).mq.ops.length + 0 < 48 := by omega
  rw [State.windowRoom, hz]
  simp only [hwin, h48, decide_true, Bool.true_or, Bool.and_self, Bool.false_eq_true, ↓reduceIte]

/-! ## An operation arrives in the window -/

theorem State.leaveTo_of_le {s : State} {c n : Nat} (h : (s.core c).window.length ≤ n) (fuel : Nat) : s.leaveTo c n fuel = s := by
  cases fuel with
  | zero => rfl
  | succ fuel => rw [State.leaveTo, if_pos h]

theorem State.rewrite_noRules (s : State) (c cls fuel : Nat) : s.rewrite c cls [] fuel = s := by
  cases fuel <;> rfl

theorem State.onCore_congr {s : State} {c : Nat} {f g : Core → Core} (h : f (s.core c) = g (s.core c)) : s.onCore c f = s.onCore c g := by
  rw [State.onCore, State.onCore, h]

theorem State.settleVoids_none {s : State} {c : Nat} (h : (s.core c).voids = []) : s.settleVoids c = s.onCore c (fun k => { k with voids := [] }) := by
  have e : (fun k : Core => ({ k with voids := k.voids.filter (fun v => !(!v.after.any s.opLive)) } : Core)) (s.core c) = { s.core c with voids := [] } := by
    dsimp only
    rw [h, List.filter_nil]
  rw [State.settleVoids, h]
  exact State.onCore_congr e

/-- An operation at the end of the window of a core. -/
def State.joins (s : State) (c : Nat) (o : MatOp) : State :=
  s.onCore c (fun k => { k with window := k.window ++ [o], winSince := if k.window.isEmpty then s.clockOf c else k.winSince })

theorem State.joins_core (s : State) (c : Nat) (o : MatOp) : (s.joins c o).core c = { s.core c with
    window := (s.core c).window ++ [o], winSince := if (s.core c).window.isEmpty then s.clockOf c else (s.core c).winSince } := by
  rw [State.joins, State.core_onCore, if_pos rfl]

/-- The rules of a launch with their numbers. -/
def numberedRules (p : Option Prog) : List (Nat × List Byte) :=
  match p with
  | some p => (List.range p.rules.length).map (fun i => (i, p.rules.getD i []))
  | none => []

theorem numberedRules_none {p : Option Prog} (h : ∀ g, p = some g → g.rules = []) : numberedRules p = [] := by
  cases p with
  | none => rfl
  | some g =>
    rw [numberedRules, h g rfl]
    rfl

theorem State.matArrive_eq {s : State} {c : Nat} {o : MatOp} (hz : s.isZero o.blk = false) (hwin : (s.core c).window.length ≤ 15) :
    s.matArrive c o = (((s.joins c o).rewrite c ((s.joins c o).recOf o.blk).rnd (numberedRules (s.progOf o.blk)) 4).settleVoids c).leaveTo c 16 4 := by
  have e : s.matArrive c o = if s.isZero o.blk then s.queueEntry c true o
      else (let s2 := (s.leaveTo c 15 20).onCore c (fun k => { k with window := k.window ++ [o], winSince := if k.window.isEmpty then s.clockOf c else k.winSince })
        ((s2.rewrite c (s2.recOf o.blk).rnd (numberedRules (s2.progOf o.blk)) 4).settleVoids c).leaveTo c 16 4) := rfl
  rw [e, if_neg (by rw [hz]; exact Bool.false_ne_true), State.leaveTo_of_le hwin]
  rfl

/-- An arrival in a window that has room, of a launch without rules: the entry stands at its end, and nothing else but the core's window changes. -/
theorem State.matArrive_window {s : State} {c : Nat} {o : MatOp} (hz : s.isZero o.blk = false) (hwin : (s.core c).window.length < 16)
    (hrules : ∀ g, s.progOf o.blk = some g → g.rules = []) (hvoids : (s.core c).voids = []) :
    { s.matArrive c o with cores := s.cores } = s ∧ ((s.matArrive c o).core c).window = (s.core c).window ++ [o] := by
  have hcore := s.joins_core c o
  have hin : { s.joins c o with cores := s.cores } = s := rfl
  rw [State.matArrive_eq hz (Nat.le_of_lt_succ hwin), numberedRules_none hrules, State.rewrite_noRules]
  generalize s.joins c o = u at hcore hin ⊢
  rw [State.settleVoids_none (by rw [hcore]; exact hvoids)]
  have hwindow : ((u.onCore c (fun k => { k with voids := [] })).core c).window = (s.core c).window ++ [o] := by
    rw [State.core_onCore, if_pos rfl]
    exact congrArg Core.window hcore
  rw [State.leaveTo_of_le (n := 16) (by rw [hwindow, List.length_append, List.length_singleton]; omega)]
  exact ⟨hin, hwindow⟩

/-! ## The issue -/

/-- The operation that a path enters in the window. -/
def State.matOp (s : State) (w : Wave) (f6 tok : Nat) (p : Parsed) (due : Option Latch) : MatOp :=
  { id := s.ids, blk := w.blk, who := s.issuer, lanes := s.cur.lanes, step := s.free, f6 := f6,
    n := nField f6 (fun i => (((look p.1 i).getD []).headD 0).toNat), ops := p.1, table := p.2.1, obj := p.2.2.obj, slots := p.2.2.slots,
    dest := p.2.2.dest, after := [], toks := if tok = 63 then [] else [⟨s.issuer, tok, f6 == 3⟩], rule := none, set := 0, fresh := true,
    pleat := none, newPleat := false, setPleat := none, labels := [], untrust := false, reset := due, spoilt := false }

section
variable {s : State} {w : Wave} {th : Thread} (h : s.OnPath w th)
include h

/-- A checked operation arrives; its token is pending, and the path goes on. -/
theorem State.enterMat_enters {u : State} (hu : { u with cores := s.cores } = s) (hcwin : (u.core w.core).window = (s.core w.core).window)
    (hcvoids : (u.core w.core).voids = (s.core w.core).voids) (hz : s.isZero w.blk = false) (hwin : (s.core w.core).window.length < 16)
    (hrules : ∀ g, s.progOf w.blk = some g → g.rules = []) (hvoids : (s.core w.core).voids = []) (f6 tok : Nat) (p : Parsed) (t : Bool) :
    (u.enterMat w f6 tok p.1 p.2.1 p.2.2 t).lane? w.core w.slot th.lane = some (th.after s.cur.len t) ∧ pending (u.enterMat w f6 tok p.1 p.2.1 p.2.2 t) w tok ∧
    ∃ due, ((u.enterMat w f6 tok p.1 p.2.1 p.2.2 t).core w.core).window = (s.core w.core).window ++ [s.matOp w f6 tok p due] := by
  have hwaves : u.waves = s.waves := (congrArg State.waves hu :)
  have hcur : u.cur = s.cur := (congrArg State.cur hu :)
  have hzu : u.isZero w.blk = false := (congrArg (fun x : State => x.isZero w.blk) hu).trans hz
  have hop : ∃ due, u.matOp w f6 tok p (u.queueOf w.core w.blk).resetDue = s.matOp w f6 tok p due := by
    refine ⟨(u.queueOf w.core w.blk).resetDue, ?_⟩
    exact (congrArg (fun x : State => x.matOp w f6 tok p (u.queueOf w.core w.blk).resetDue) hu :)
  obtain ⟨due, hdue⟩ := hop
  have hdef : u.enterMat w f6 tok p.1 p.2.1 p.2.2 t = (let s2 := ((({ u with ids := u.ids + 1 } : State).onCore w.core (fun k =>
      k.onQueue (u.isZero w.blk) (fun q => { q with resetDue := none }))).pend tok).matArrive w.core (u.matOp w f6 tok p (u.queueOf w.core w.blk).resetDue)
      if 16 < (s2.core w.core).window.length then u.holdAll .window
      else (s2.gauge 5 w.core (some (u.vfOf w.blk)) (s2.queueOf w.core w.blk).ops.length).perLane t (fun _ th => .next th)) := rfl
  rw [hdef, hdue, hzu]
  dsimp only
  generalize hv : (({ u with ids := u.ids + 1 } : State).onCore w.core (fun k => k.onQueue false (fun q => { q with resetDue := none }))) = v
  have hvrest : { v with cores := s.cores, ids := s.ids } = s := by
    rw [← hv]
    exact (congrArg (fun x : State => { x with ids := s.ids }) hu :)
  have hvcore : (v.core w.core).window = (s.core w.core).window ∧ (v.core w.core).voids = (s.core w.core).voids := by
    rw [← hv, State.core_onCore, if_pos rfl]
    exact ⟨hcwin, hcvoids⟩
  have hpend : { v.pend tok with waves := v.waves } = v := by
    unfold State.pend
    split <;> rfl
  have hzv : (v.pend tok).isZero w.blk = false := by
    refine (congrArg (fun x : State => x.isZero w.blk) hpend).trans ?_
    exact (congrArg (fun x : State => x.isZero w.blk) hvrest).trans hz
  have hprog : ∀ g, (v.pend tok).progOf w.blk = some g → g.rules = [] := fun g hg => by
    have e1 : (v.pend tok).progOf w.blk = v.progOf w.blk := (congrArg (fun x : State => x.progOf w.blk) hpend :)
    have e2 : v.progOf w.blk = s.progOf w.blk := (congrArg (fun x : State => x.progOf w.blk) hvrest :)
    exact hrules g (by rw [← e2, ← e1]; exact hg)
  have hcp : (v.pend tok).core w.core = v.core w.core := (congrArg (fun x : State => x.core w.core) hpend :)
  have harr := State.matArrive_window (o := s.matOp w f6 tok p due) hzv (by rw [hcp, hvcore.1]; exact hwin) hprog (by rw [hcp, hvcore.2]; exact hvoids)
  obtain ⟨hleaves, hwindow⟩ := harr
  rw [hcp, hvcore.1] at hwindow
  generalize (v.pend tok).matArrive w.core (s.matOp w f6 tok p due) = x at hleaves hwindow
  rw [if_neg (by rw [hwindow, List.length_append, List.length_singleton]; omega)]
  have hg := State.gauge_rest (s := x) 5 w.core (some (u.vfOf w.blk)) (x.queueOf w.core w.blk).ops.length
  generalize x.gauge 5 w.core (some (u.vfOf w.blk)) (x.queueOf w.core w.blk).ops.length = y at hg ⊢
  have hy : y = ({ v with cores := y.cores, mon := y.mon } : State).pend tok := by
    have e : ({ v with cores := y.cores, mon := y.mon } : State).pend tok = { v.pend tok with cores := y.cores, mon := y.mon } := by
      unfold State.pend
      split <;> rfl
    have ex : y = { x with
      cores := y.cores, mon := y.mon } := (congrArg (fun z : State => { z with
      cores := y.cores, mon := y.mon }) hg :)
    rw [e]
    refine ex.trans ?_
    exact (congrArg (fun z : State => { z with
      cores := y.cores, mon := y.mon }) hleaves :)
  have hgo := State.issue_goesOn h (u := { v with cores := y.cores, mon := y.mon }) (congrArg State.waves hvrest :) (congrArg State.cur hvrest :) tok t
  rw [← hy] at hgo
  have hon : ∃ v', y.curWave = some v' := by
    rw [hy]
    exact ⟨_, (State.pend_onPath h (u := { v with cores := y.cores, mon := y.mon }) (congrArg State.waves hvrest :) (congrArg State.cur hvrest :) tok).wave⟩
  obtain ⟨v', hv'⟩ := hon
  obtain ⟨hlane, hpended, -, -⟩ := hgo
  refine ⟨hlane, hpended, due, ?_⟩
  obtain ⟨ws, hws⟩ := State.perLane_onlyWaves hv' t (f := fun _ th => .next th) (fun _ => rfl)
  rw [hws, ← hwindow]
  exact (congrArg (fun z : State => (z.core w.core).window) hg :)
end

theorem exec_of_matrix {i : Instr} {f6 : Nat} {rs : List Nat} {k : BitVec 6} {t : Bool} {parse : State → Wave → Chk Parsed}
    (hi : Matrix i f6 rs k t parse) (s : State) : exec i s = matrix f6 rs k t parse s := by
  cases hi <;> rfl

/-- The state that a WLOAD is captured in: the format and count of its queue's loaded matrix. -/
def State.wloads (s : State) (w : Wave) (f6 : Nat) (p : Parsed) : State :=
  if f6 = 2 then s.onCore w.core (fun c => c.onQueue (s.isZero w.blk) (fun q =>
    { q with wfmt := (((look p.1 2).getD []).headD 0).toNat, wn := (((look p.1 4).getD []).headD 0).toNat }))
  else s

theorem State.wloads_rest (s : State) (w : Wave) (f6 : Nat) (p : Parsed) : { s.wloads w f6 p with cores := s.cores } = s ∧
    ((s.wloads w f6 p).core w.core).window = (s.core w.core).window ∧ ((s.wloads w f6 p).core w.core).voids = (s.core w.core).voids := by
  unfold State.wloads
  split
  · refine ⟨rfl, ?_⟩
    rw [State.core_onCore, if_pos rfl]
    cases s.isZero w.blk <;> exact ⟨rfl, rfl⟩
  · exact ⟨rfl, rfl, rfl⟩

section
variable {s : State} {w : Wave} {th : Thread} (h : s.OnPath w th) (f6 : Nat) (k : BitVec 6) (t : Bool) (parse : State → Wave → Chk Parsed)

theorem State.issueMat_refused {c : Word} (hc : parse s w = .error c) : s.issueMat w f6 k t parse = s.trapAll c := by
  rw [State.issueMat, hc]
  rfl

theorem State.issueMat_checked {p : Parsed} (hp : parse s w = .ok p) :
    s.issueMat w f6 k t parse = (s.wloads w f6 p).enterMat w f6 k.toNat p.1 p.2.1 p.2.2 t := by
  rw [State.issueMat, hp]
  rfl

include h in
/-- The checks and the arrival come in the state as it stands, whether or not the accesses of the path came first. -/
theorem State.issueMat_after {rs : List Nat} (hquiet : rs ≠ [] → Quiet s w) :
    ∃ c, (if rs.isEmpty then s.issueMat w f6 k t parse else s.afterAccesses (fun u => u.issueMat w f6 k t parse)) =
      { s.issueMat w f6 k t parse with cur := c } := by
  cases rs with
  | nil => exact ⟨(s.issueMat w f6 k t parse).cur, rfl⟩
  | cons r rest => exact ⟨s.cur, State.afterAccesses_quiet h.wave (hquiet (List.cons_ne_nil r rest)) h.lanes_ne (fun u => u.issueMat w f6 k t parse)⟩

end

/-- Settles O30: the stalls in their order, the checked operands read after the path's accesses, and the arrival in the window. -/
theorem matrixIssue : Obligations.MatrixIssue := by
  unfold Obligations.MatrixIssue
  intro i f6 rs k t parse hi s w th h hquiet hready hz
  have hx : exec i s = .next (s.withThimble (fun w => if rs.isEmpty then s.issueMat w f6 k t parse
      else s.afterAccesses (fun u => u.issueMat w f6 k t parse))) := by
    rw [exec_of_matrix hi, matrix, State.withTokens_ready h.wave hready]
    rfl
  obtain ⟨cur, hissue⟩ := State.issueMat_after h f6 k t parse hquiet
  rw [State.withThimble_eq h.wave hz, hissue] at hx
  refine ⟨_, hx, fun hh => ?_, fun hh hwin hops => ?_⟩
  · rw [if_pos hh]
    exact State.holdAll_waits h _
  · rw [if_neg (not_not.mpr hh), State.windowRoom_of hz hwin hops, Bool.not_true, if_neg Bool.false_ne_true]
    refine ⟨fun c hc => ?_, fun p hp hrules hvoids => ?_⟩
    · rw [State.issueMat_refused f6 k t parse hc]
      exact State.trapAll_traps h c
    · rw [State.issueMat_checked f6 k t parse hp]
      obtain ⟨hrest, hwindow, hsets⟩ := State.wloads_rest s w f6 p
      obtain ⟨hlane, hpend, due, hin⟩ := State.enterMat_enters h hrest hwindow hsets hz hwin hrules hvoids f6 k.toNat p t
      have h63 : k.toNat = 63 ↔ k = 63#6 := by rw [← BitVec.toNat_inj]; rfl
      have htoks : (s.matOp w f6 k.toNat p due).toks = if k = 63#6 then [] else [⟨s.issuer, k.toNat, f6 == 3⟩] := if_congr h63 rfl rfl
      exact ⟨hlane, hpend, s.matOp w f6 k.toNat p due, hin, rfl, rfl, rfl, rfl, rfl, rfl, rfl, rfl, rfl, htoks⟩
end Sys2Proof.Machine
end

section
/-! PROOFS. The thimble, the window, the array, and what its operations leave (spec/09 R188 to R198, spec/11 R229): O31. -/

namespace Sys2Proof.Machine
open Sys2Proof.Claims

/-! ## The thimble -/

section
variable {s : State} {w : Wave} {th : Thread} (h : s.OnPath w th)
include h

/-- A path that goes on leaves the holders of the queues. -/
theorem State.perLane_holder {u : State} (hw : u.waves = s.waves) (hc : u.cur = s.cur) (hz : u.isZero w.blk = s.isZero w.blk) (t : Bool) :
    ((u.perLane t (fun _ th => .next th)).queueOf w.core w.blk).holder = ((u.core w.core).queue (s.isZero w.blk)).holder := by
  obtain ⟨ws, hws⟩ := State.perLane_onlyWaves (h.of_same hw hc).wave t (f := fun _ th => .next th) (fun _ => rfl)
  rw [hws, ← hz]
  rfl

theorem thmtake_takes (t : Bool) : ∃ s', exec (.thmtake t) s = .next s' ∧ s'.lane? w.core w.slot th.lane = some (
    if (s.queueOf w.core w.blk).holder = some w.slot then th.after s.cur.len t else { th with wait := .thimble (s.clockOf w.core) }) := by
  have hx : exec (.thmtake t) s = execThmtake t s := rfl
  rw [hx, execThmtake, h.wave]
  dsimp only
  by_cases hh : (s.queueOf w.core w.blk).holder = some w.slot
  · rw [if_pos hh, if_pos hh]
    exact ⟨_, rfl, State.perLane_goesOn h rfl rfl t⟩
  · rw [if_neg hh, if_neg hh]
    exact ⟨_, rfl, State.holdAll_waits h _⟩

omit h in
/-- The thimble passed on: to the next wave of the block, or kept. -/
theorem State.passThimble_holder {u : State} (hu : u.waves = s.waves) (hz : u.isZero w.blk = s.isZero w.blk)
    (hh : ((u.core w.core).queue (s.isZero w.blk)).holder = some w.slot) :
    (((u.passThimble w false).core w.core).queue (s.isZero w.blk)).holder = match s.nextWave w with
      | some v => some v.slot
      | none => some w.slot := by
  have hn : u.nextWave w = s.nextWave w := by rw [State.nextWave, State.nextWave, hu]
  rw [State.passThimble, State.core_onCore, if_pos rfl, hz, Core.onQueue_queue, hn]
  cases s.nextWave w with
  | none => exact hh
  | some v =>
    dsimp only
    unfold MatQueue.give
    split <;> rfl

theorem thmpass_passes (t : Bool) : ∃ s', exec (.thmpass t) s = .next s' ∧ s'.lane? w.core w.slot th.lane = some (
      if (s.queueOf w.core w.blk).holder = some w.slot then th.after s.cur.len t else Thread.trap s w.regs th cILLOP th.pc) ∧
    ((s.queueOf w.core w.blk).holder = some w.slot → (s'.queueOf w.core w.blk).holder = match s.nextWave w with
      | some v => some v.slot
      | none => some w.slot) := by
  have hx : exec (.thmpass t) s = execThmpass t s := rfl
  rw [hx, execThmpass, h.wave]
  dsimp only
  by_cases hh : (s.queueOf w.core w.blk).holder = some w.slot
  · rw [if_neg (not_not.mpr hh), if_pos hh]
    refine ⟨_, rfl, State.perLane_goesOn (t := (s.flushFor w.core w.blk).passThimble w false) h rfl rfl t, fun _ => ?_⟩
    refine (State.perLane_holder h (u := (s.flushFor w.core w.blk).passThimble w false) rfl rfl rfl t).trans ?_
    exact State.passThimble_holder (u := s.flushFor w.core w.blk) rfl rfl (by rw [Core.flushFor_queue]; exact hh)
  · rw [if_pos hh, if_neg hh]
    exact ⟨_, rfl, State.illop_traps h, fun e => absurd e hh⟩

/-- The thimble freed by its holder. -/
def State.thimbleFreed (s : State) (w : Wave) : State :=
  (s.flushFor w.core w.blk).onCore w.core (fun k => k.onQueue (s.isZero w.blk) (fun q => { q with holder := none }))

theorem thmpassFree_frees (t : Bool) : ∃ s', exec (.thmpassFree t) s = .next s' ∧ s'.lane? w.core w.slot th.lane = some (
      if (s.queueOf w.core w.blk).holder = some w.slot then th.after s.cur.len t else Thread.trap s w.regs th cILLOP th.pc) ∧
    ((s.queueOf w.core w.blk).holder = some w.slot → (s'.queueOf w.core w.blk).holder = none) := by
  have hx : exec (.thmpassFree t) s = execThmpassFree t s := rfl
  rw [hx, execThmpassFree, h.wave]
  dsimp only
  by_cases hh : (s.queueOf w.core w.blk).holder = some w.slot
  · rw [if_neg (not_not.mpr hh), if_pos hh]
    refine ⟨_, rfl, State.perLane_goesOn (t := s.thimbleFreed w) h rfl rfl t, fun _ => ?_⟩
    refine (State.perLane_holder h (u := s.thimbleFreed w) rfl rfl rfl t).trans ?_
    rw [State.thimbleFreed, State.core_onCore, if_pos rfl, Core.onQueue_queue]
  · rw [if_pos hh, if_neg hh]
    exact ⟨_, rfl, State.illop_traps h, fun e => absurd e hh⟩
end

/-! ## The grant -/

/-- What the waves that wait for a thimble are ordered by: class, then the time they began to wait. -/
def State.thimbleKey (s : State) (w : Wave) : Nat × Nat := (((s.launchOf w.blk).map (fun l => l.prog.lrec.cls)).getD 7, (w.thimbleSince).getD 0)
/-- The waves that wait for a thimble. -/
def State.thimbleWaits (s : State) (c : Nat) (zero : Bool) : List Wave :=
  s.waves.filter (fun w => w.core == c && s.isZero w.blk == zero && w.thimbleSince.isSome)
/-- Whether a key comes before another. -/
def keyBefore (a b : Nat × Nat) : Bool := decide (a.1 < b.1) || (a.1 == b.1 && decide (a.2 < b.2))

theorem keyBefore_iff (a b : Nat × Nat) : keyBefore a b = true ↔ Prod.Lex (· < ·) (· < ·) a b := by
  rw [keyBefore, Prod.lex_def]
  simp

theorem mem_thimbleWaits {s : State} {c : Nat} {zero : Bool} {w : Wave} :
    w ∈ s.thimbleWaits c zero ↔ w ∈ s.waves ∧ w.core = c ∧ s.isZero w.blk = zero ∧ w.thimbleSince ≠ none := by
  rw [State.thimbleWaits, List.mem_filter, Bool.and_eq_true, Bool.and_eq_true, beq_iff_eq, beq_iff_eq, Option.isSome_iff_ne_none, and_assoc]

/-- A list of waves that is not empty has one that none comes before. -/
theorem exists_first (s : State) {l : List Wave} (h : l ≠ []) : ∃ w ∈ l, ∀ v ∈ l, keyBefore (s.thimbleKey v) (s.thimbleKey w) = false := by
  obtain ⟨w, hw, hmin⟩ := (InvImage.wf s.thimbleKey (WellFounded.prod_lex wellFounded_lt wellFounded_lt)).has_min {w | w ∈ l}
    ⟨_, List.head_mem h⟩
  refine ⟨w, hw, fun v hv => Bool.eq_false_iff.mpr (fun hb => hmin v hv ?_)⟩
  exact (keyBefore_iff _ _).mp hb

theorem thimbleGrant_grants {s : State} {c : Nat} {zero : Bool} (hfree : ((s.core c).queue zero).holder = none) (hsome : s.thimbleWaits c zero ≠ []) :
    ∃ s' v, exec (.thimbleGrant c zero) s = .next s' ∧ v ∈ s.thimbleWaits c zero ∧ ((s'.core c).queue zero).holder = some v.slot ∧
      ∀ u ∈ s.thimbleWaits c zero, keyBefore (s.thimbleKey u) (s.thimbleKey v) = false := by
  have hx : exec (.thimbleGrant c zero) s = .next (if ((s.core c).queue zero).holder.isSome then s
    else
      let best := (s.thimbleWaits c zero).filter (fun w => (s.thimbleWaits c zero).all (fun v => !keyBefore (s.thimbleKey v) (s.thimbleKey w)))
      match best[Config.freeNat s.free 6300000 % max 1 best.length]? with
      | some w => s.onCore c (fun k => k.onQueue zero (fun q => q.give w.slot w.blk))
      | none => s) := rfl
  rw [hx, hfree, Option.isSome_none, if_neg Bool.false_ne_true]
  dsimp only
  have hbest : ∀ v, v ∈ (s.thimbleWaits c zero).filter (fun w => (s.thimbleWaits c zero).all (fun v => !keyBefore (s.thimbleKey v) (s.thimbleKey w))) ↔
      v ∈ s.thimbleWaits c zero ∧ ∀ u ∈ s.thimbleWaits c zero, keyBefore (s.thimbleKey u) (s.thimbleKey v) = false := by
    intro v
    rw [List.mem_filter, List.all_eq_true]
    simp only [Bool.not_eq_true']
  obtain ⟨w, hw, hfirst⟩ := exists_first s hsome
  have hin := (hbest w).mpr ⟨hw, hfirst⟩
  generalize (s.thimbleWaits c zero).filter (fun w => (s.thimbleWaits c zero).all (fun v => !keyBefore (s.thimbleKey v) (s.thimbleKey w))) = best at hbest hin ⊢
  have hlen : Config.freeNat s.free 6300000 % max 1 best.length < best.length := by
    have := List.length_pos_of_mem hin
    rw [max_eq_right this]
    exact Nat.mod_lt _ this
  rw [List.getElem?_eq_getElem hlen]
  obtain ⟨hv, hmin⟩ := (hbest _).mp (List.getElem_mem hlen)
  refine ⟨_, _, rfl, hv, ?_, hmin⟩
  rw [State.core_onCore, if_pos rfl, Core.onQueue_queue]
  unfold MatQueue.give
  split <;> rfl

/-! ## The window and the array take -/

theorem windowEntryLeave_leaves {s : State} {c : Nat} {o : MatOp} {rest : List MatOp} (hwin : (s.core c).window = o :: rest) (hobj : o.obj = none)
    (hfresh : o.fresh = false ∨ (∀ x ∈ (s.core c).mq.ops, x.f6 = 10)) (hroom : (s.core c).mq.ops.length < 32) :
    ∃ s', exec (.windowEntryLeave c) s = .next s' ∧ (s'.core c).window = rest ∧ (s'.core c).mq.ops = (s.core c).mq.ops ++ [o] := by
  have hx : exec (.windowEntryLeave c) s = execWindowEntryLeave c s := rfl
  have hgo : (!o.fresh || !(s.core c).mq.holdsOp || decide (16 < (s.core c).window.length)) = true := by
    rcases hfresh with e | e
    · rw [e]; rfl
    · have : (s.core c).mq.holdsOp = false := List.any_eq_false.mpr (fun x hx => by simp [e x hx])
      rw [this]
      simp
  rw [hx, execWindowEntryLeave, hwin]
  dsimp only
  rw [← hwin, hgo, if_pos rfl, State.windowLeave]
  rw [hwin]
  dsimp only
  rw [if_neg (by omega), State.queueEntry, hobj]
  refine ⟨_, rfl, ?_⟩
  rw [Option.bind_none, State.core_onCore, if_pos rfl, State.core_onCore, if_pos rfl]
  exact ⟨rfl, rfl⟩
end Sys2Proof.Machine
end

section
/-! PROOFS. The array takes an operation, and what an operation leaves (spec/09 R188, R190, R194, R198): O31. -/

namespace Sys2Proof.Machine
open Sys2Proof.Claims

/-! ## Tokens and fences -/

/-- Nothing but tokens, and the sets that wait, is different. -/
structure Settles (s t : State) : Prop where
  lanes : SameLanes s t
  cores : ∀ k, { t.core k with voids := (s.core k).voids } = s.core k
  rest : { t with waves := s.waves, cores := s.cores } = s

theorem Settles.refl (s : State) : Settles s s := ⟨SameLanes.of_waves rfl, fun _ => rfl, rfl⟩

theorem Settles.trans {s t u : State} (h : Settles s t) (h' : Settles t u) : Settles s u := by
  refine ⟨h.lanes.trans h'.lanes, fun k => ?_, (congrArg (fun x : State => { x with waves := s.waves, cores := s.cores }) h'.rest).trans h.rest⟩
  exact (congrArg (fun x : Core => { x with voids := (s.core k).voids }) (h'.cores k)).trans (h.cores k)

theorem Settles.writeToken (s : State) (who : Issuer) (tok : Nat) (v : Word) : Settles s (s.writeToken who tok v) := by
  refine ⟨State.writeToken_lanes s who tok v, fun k => ?_, ?_⟩ <;> (unfold State.writeToken; split <;> rfl)

theorem Settles.voids (s : State) (c : Nat) : Settles s (s.settleVoids c) := by
  unfold State.settleVoids
  dsimp only
  refine List.foldlRecOn (motive := Settles s) _ _ ?_ (fun t ht k _ => ht.trans (Settles.writeToken t k.who k.reg 0))
  refine ⟨SameLanes.of_waves rfl, fun k => ?_, rfl⟩
  rw [State.core_onCore]
  split
  next e => rw [e]
  next => rfl

section
variable {s t : State} (h : Settles s t)
include h

theorem Settles.lane? (c sl l : Nat) : t.lane? c sl l = s.lane? c sl l := by
  obtain ⟨f, hf, hw⟩ := h.lanes
  have e : t.wave? c sl = (s.wave? c sl).map f := by
    have em := State.wave?_map (s := s) (f := f) (fun v => ⟨(congrArg Wave.core (hf v) :), (congrArg Wave.slot (hf v) :)⟩) c sl
    rw [State.wave?] at em
    rw [State.wave?, hw]
    exact em
  unfold State.lane?
  rw [e]
  cases s.wave? c sl with
  | none => rfl
  | some v => exact congrArg (fun l' => l'.find? (fun t => t.lane == l)) (congrArg Wave.lanes (hf v) :)

theorem Settles.queue (c : Nat) (zero : Bool) : (t.core c).queue zero = (s.core c).queue zero := (congrArg (fun x : Core => x.queue zero) (h.cores c) :)
end

/-- A queue without fences. -/
def Core.NoFences (k : Core) : Prop := ∀ x ∈ k.mq.ops ++ k.mq0.ops, x.f6 ≠ 10

theorem Core.NoFences.queue {k : Core} (h : k.NoFences) (zero : Bool) : ∀ x ∈ (k.queue zero).ops, x.f6 ≠ 10 := by
  intro x hx
  cases zero with
  | false => exact h x (List.mem_append_left _ hx)
  | true => exact h x (List.mem_append_right _ hx)

theorem State.settleFences_none {s : State} {c : Nat} (h : (s.core c).NoFences) (zero : Bool) : s.settleFences c zero = s.settleVoids c := by
  rw [State.settleFences]
  cases hn : ((s.core c).queue zero).ops.length with
  | zero => rfl
  | succ n =>
    have hf : ((s.core c).queue zero).ops.find? (fun o => o.f6 == 10 && !o.after.any s.opLive) = none :=
      List.find?_eq_none.mpr (fun x hx => by simp [h.queue zero x hx])
    rw [State.passFences, hf]

theorem Settles.noFences {s t : State} (h : Settles s t) {c : Nat} (hn : (s.core c).NoFences) : (t.core c).NoFences := by
  have h0 := h.queue c false
  have h1 := h.queue c true
  unfold Core.NoFences
  rw [show (t.core c).mq = (s.core c).mq from h0, show (t.core c).mq0 = (s.core c).mq0 from h1]
  exact hn

theorem Settles.fences {s : State} {c : Nat} (h : (s.core c).NoFences) : Settles s ((s.settleFences c true).settleFences c false) := by
  have h1 : Settles s (s.settleFences c true) := by rw [State.settleFences_none h]; exact Settles.voids s c
  rw [State.settleFences_none (h1.noFences h) false]
  exact h1.trans (Settles.voids _ c)

/-! ## The array takes an operation -/

theorem State.drainBefore_drained {s : State} {who : Issuer} {lanes : List Nat} (h : drained s who lanes) (step : Nat) :
    s.drainBefore who lanes step = s ∧ s.drainedBefore who lanes step = true := by
  constructor
  · unfold State.drainBefore
    refine List.foldlRecOn (motive := fun t => t = s) lanes _ rfl (fun t ht l hl => ?_)
    subst ht
    cases hx : t.lane? who.core who.slot l with
    | none => rfl
    | some th =>
      dsimp only
      rw [h l hl th hx]
      rfl
  · refine List.all_eq_true.mpr (fun l hl => ?_)
    cases hx : s.lane? who.core who.slot l with
    | none => rfl
    | some th =>
      dsimp only
      rw [h l hl th hx]
      rfl

theorem arrayTake_takes {s : State} {c : Nat} {zero : Bool} {o : MatOp} (harr : (s.core c).array = none) (hrow : s.rowWork c = false)
    (hn : (s.core c).NoFences) (hnext : (s.core c).nextOp = some (zero, o)) (hd : drained s o.who o.lanes) :
    ∃ s', exec (.arrayTakeOperation c) s = .next s' ∧ (s'.core c).array = some (zero, o) ∧ (s'.core c).arrayAt = s.clockOf c ∧
      ∀ x ∈ ((s'.core c).queue zero).ops, x.id ≠ o.id := by
  have hx : exec (.arrayTakeOperation c) s = execArrayTakeOperation c s := rfl
  have hs := Settles.fences hn
  rw [hx, execArrayTakeOperation]
  dsimp only
  generalize (s.settleFences c true).settleFences c false = u at hs ⊢
  have hc := hs.cores c
  have harr' : (u.core c).array = none := (congrArg Core.array hc :).trans harr
  have hrow' : u.rowWork c = false := by
    have hdue : (u.core c).rowsDue = (s.core c).rowsDue := (congrArg Core.rowsDue hc :)
    have hreg : u.reg 1 0 0x10000 = s.reg 1 0 0x10000 := (congrArg (fun x : State => x.reg 1 0 0x10000) hs.rest :)
    rw [State.rowWork, hdue, hreg]
    exact hrow
  have hnext' : (u.core c).nextOp = some (zero, o) := by
    rw [← hnext]
    exact (congrArg Core.nextOp hc :)
  have hd' : drained u o.who o.lanes := fun l hl x hx => hd l hl x (by rw [← hs.lane?]; exact hx)
  obtain ⟨hsame, hall⟩ := State.drainBefore_drained hd' o.step
  rw [harr', hrow', hnext']
  dsimp only
  rw [hsame, hall]
  refine ⟨_, rfl, ?_⟩
  rw [Option.isSome_none, Bool.or_false, if_neg Bool.false_ne_true, Bool.not_true, if_neg Bool.false_ne_true, State.core_onCore, if_pos rfl]
  refine ⟨rfl, rfl, fun x hx => ?_⟩
  have hin : x ∈ ((u.core c).queue zero).ops.filter (fun x => x.id != o.id) := by
    cases zero <;> exact hx
  simpa using (List.mem_filter.mp hin).2

/-! ## An operation leaves the array -/

/-- What an operation without tokens leaves in its core when it goes: the array empty, the queues as they are, and every mapped tile. -/
structure LeftArray (s t : State) (c : Nat) : Prop where
  array : (t.core c).array = none
  queue : ∀ zero, (t.core c).queue zero = (s.core c).queue zero
  tiles : ∀ id x, look (s.core c).tiles id = some x → x.mapped = true → look (t.core c).tiles id = some x

theorem look_filter_kept {α : Type} {m : List (Nat × α)} {x : Nat} {v : α} (h : look m x = some v) (p : Nat × α → Bool) (hp : p (x, v) = true) :
    look (m.filter p) x = some v := by
  induction m with
  | nil => exact nomatch h
  | cons q rest ih =>
    obtain ⟨k, w⟩ := q
    rw [look] at h
    by_cases hk : k = x
    · subst hk
      rw [if_pos rfl] at h
      obtain rfl := Option.some.inj h
      rw [List.filter_cons_of_pos hp, look, if_pos rfl]
    · rw [if_neg hk] at h
      rw [List.filter_cons]
      split
      · rw [look, if_neg hk]
        exact ih h
      · exact ih h

theorem State.afterOp_going {s : State} {blk : Nat} (h : ∀ b, s.block? blk = some b → b.ended = false) : s.afterOp blk = s := by
  unfold State.afterOp
  cases hb : s.block? blk with
  | none => rfl
  | some b =>
    dsimp only
    rw [h b hb]
    rfl

theorem State.leaveArray_leaves {s : State} {c : Nat} {o : MatOp} (htoks : o.toks = []) (hn : (s.core c).NoFences)
    (hblk : ∀ b, s.block? o.blk = some b → b.ended = false) : LeftArray s (s.leaveArray c o) c := by
  unfold State.leaveArray
  dsimp only
  have ht : ∀ u : State, u.matTokens o = u := fun u => by rw [State.matTokens, htoks]; rfl
  rw [ht]
  generalize hu : (s.onCore c (fun k => { k with array := none })) = u
  have hcore : u.core c = { s.core c with array := none } := by rw [← hu, State.core_onCore, if_pos rfl]
  have hv : ∃ v, v = (if o.f6 = 3 then u.gauge 6 c (some (s.vfOf o.blk)) (s.clockOf c - (s.core c).arrayAt) else u) ∧ v.cores = u.cores ∧ v.blocks = s.blocks := by
    refine ⟨_, rfl, ?_⟩
    split
    · have hg := State.gauge_rest (s := u) 6 c (some (s.vfOf o.blk)) (s.clockOf c - (s.core c).arrayAt)
      exact ⟨(congrArg State.cores hg :), (congrArg State.blocks hg :).trans (by rw [← hu]; rfl)⟩
    · exact ⟨rfl, by rw [← hu]; rfl⟩
  obtain ⟨v, hv, hcores, hblocks⟩ := hv
  rw [← hv]
  have hvc : v.core c = { s.core c with array := none } := by
    rw [← hcore, State.core, State.core, hcores]
  have hs1 := Settles.voids v c
  have hs := hs1.trans (Settles.fences (s := v.settleVoids c) (hs1.noFences (by rw [hvc]; exact hn)))
  generalize ((v.settleVoids c).settleFences c true).settleFences c false = x at hs ⊢
  have hxblk : ∀ b, (x.tidy c).block? o.blk = some b → b.ended = false := by
    intro b hb
    refine hblk b ?_
    have e : x.blocks = v.blocks := (congrArg State.blocks hs.rest :)
    rw [State.block?, ← hblocks, ← e]
    exact hb
  rw [State.afterOp_going hxblk]
  have hxc : { x.core c with voids := (s.core c).voids } = { s.core c with array := none } := by
    have e := hs.cores c
    rw [hvc] at e
    exact e
  unfold State.tidy
  refine ⟨?_, fun zero => ?_, fun id y hy hmap => ?_⟩
  · rw [State.core_onCore, if_pos rfl]
    exact (congrArg Core.array hxc :)
  · rw [State.core_onCore, if_pos rfl]
    exact (congrArg (fun k : Core => k.queue zero) hxc :)
  · rw [State.core_onCore, if_pos rfl]
    have e : (x.core c).tiles = (s.core c).tiles := (congrArg Core.tiles hxc :)
    dsimp only
    rw [e]
    exact look_filter_kept hy _ (by dsimp only; rw [hmap]; rfl)

/-! ## What the operations leave -/

section
variable {s : State} {c : Nat} {zero : Bool} {o : MatOp} (harr : (s.core c).array = some (zero, o))
include harr

theorem exec_matrixComplete (hat : o.f6 = 3 → (s.core c).arrayAt + o.val 6 + 160 ≤ s.clockOf c) (hspill : s.spillState c o = .ok) :
    exec (.matrixOperationComplete c) s = .next ((s.runMat c zero o).leaveArray c o) := by
  have hx : exec (.matrixOperationComplete c) s = execMatrixOperationComplete c s := rfl
  rw [hx, execMatrixOperationComplete, harr]
  dsimp only
  rw [if_neg (fun e => absurd (hat e.1) (Nat.not_le.mpr e.2)), hspill]
  rfl

end

/-- The blocks and the operations in the matrix queues of a core are the same. -/
structure SameOps (s t : State) (c : Nat) : Prop where
  mq : (t.core c).mq.ops = (s.core c).mq.ops
  mq0 : (t.core c).mq0.ops = (s.core c).mq0.ops
  blocks : t.blocks = s.blocks

theorem SameOps.trans {s t u : State} {c : Nat} (h : SameOps s t c) (h' : SameOps t u c) : SameOps s u c :=
  ⟨h'.mq.trans h.mq, h'.mq0.trans h.mq0, h'.blocks.trans h.blocks⟩

theorem SameOps.onCore (s : State) (c : Nat) {f : Core → Core} (h : ∀ k, (f k).mq.ops = k.mq.ops ∧ (f k).mq0.ops = k.mq0.ops) : SameOps s (s.onCore c f) c := by
  refine ⟨?_, ?_, rfl⟩ <;> rw [State.core_onCore, if_pos rfl]
  · exact (h _).1
  · exact (h _).2

theorem SameOps.doTrans (s : State) (c : Nat) (o : MatOp) : SameOps s (s.doTrans c o) c := by
  unfold State.doTrans
  exact List.foldlRecOn (motive := fun t => SameOps s t c) _ _ ⟨rfl, rfl, rfl⟩ (fun t ht r _ => ht.trans (SameOps.onCore t c (fun _ => ⟨rfl, rfl⟩)))

/-- An operation that leaves the queues leaves the array as it does. -/
theorem SameOps.leaves {s t : State} {c : Nat} {o : MatOp} (h : SameOps s t c) (htoks : o.toks = []) (hn : (s.core c).NoFences)
    (hblk : ∀ b, s.block? o.blk = some b → b.ended = false) : LeftArray t (t.leaveArray c o) c := by
  refine State.leaveArray_leaves htoks ?_ (fun b hb => hblk b (by rw [State.block?, ← h.blocks]; exact hb))
  unfold Core.NoFences
  rw [h.mq, h.mq0]
  exact hn

/-- The latched state of a queue changed. -/
def State.latched (s : State) (c : Nat) (zero : Bool) (x : Latch) : State := s.onCore c (fun k => k.onQueue zero (fun q => { q with latch := x }))

theorem SameOps.latched (s : State) (c : Nat) (zero : Bool) (x : Latch) : SameOps s (s.latched c zero x) c :=
  SameOps.onCore s c (fun _ => by cases zero <;> exact ⟨rfl, rfl⟩)

theorem State.runMat_untiled {s : State} {c : Nat} {o : MatOp} (zero : Bool) (hobj : o.obj = none) (hdest : o.dest = none) :
    s.runMat c zero o = if o.f6 = 2 then s.latched c zero (s.doWload c o) else if o.f6 = 9 then s.latched c zero (doTscale o ((s.core c).queue zero).latch)
      else if o.f6 = 8 then s.doTrans c o else s := by
  have hmark : (if o.f6 = 4 then o.dest else if o.f6 = 3 ∨ o.f6 = 5 then o.obj else none) = none := by
    rw [hobj, hdest]
    simp only [ite_self]
  unfold State.runMat
  dsimp only
  rw [hmark, hobj]
  rfl

theorem SameOps.untiled {s : State} {c : Nat} {o : MatOp} (zero : Bool) (hobj : o.obj = none) (hdest : o.dest = none) : SameOps s (s.runMat c zero o) c := by
  rw [State.runMat_untiled zero hobj hdest]
  split
  · exact SameOps.latched ..
  · split
    · exact SameOps.latched ..
    · split
      · exact SameOps.doTrans ..
      · exact ⟨rfl, rfl, rfl⟩

/-- The column scales that TSCALE.SET latches. -/
theorem doTscale_set {o : MatOp} {lt : Latch} (h : o.val 1 = 0) {j : Nat} (hj : j < lt.n) :
    (doTscale o lt).scol.getD j 0 = if j < (o.vec 2).length then (o.vec 2).getD j 0 else lt.scol.getD j 0 := by
  unfold doTscale
  dsimp only
  rw [List.getD_eq_getElem?_getD, List.getElem?_map, List.getElem?_range hj, Option.map_some, Option.getD_some, if_neg (by rw [h]; decide), if_pos h]
  by_cases hl : j < (o.vec 2).length
  · rw [if_neg (Nat.not_le.mpr hl), if_pos hl]
  · rw [if_pos (Nat.not_lt.mp hl), if_neg hl]

/-- An operation that names no tile leaves the array; TSCALE.SET has latched its scales. -/
theorem untiledComplete {s : State} {c : Nat} {zero : Bool} {o : MatOp} (harr : (s.core c).array = some (zero, o)) (h3 : o.f6 ≠ 3) (hobj : o.obj = none)
    (htoks : o.toks = []) (hdest : o.dest = none) (hn : (s.core c).NoFences) (hblk : ∀ b, s.block? o.blk = some b → b.ended = false) :
    ∃ s', exec (.matrixOperationComplete c) s = .next s' ∧ (s'.core c).array = none ∧
      (o.f6 = 9 → o.val 1 = 0 → ∀ j < ((s.core c).queue zero).latch.n, ((s'.core c).queue zero).latch.scol.getD j 0 =
        if j < (o.vec 2).length then (o.vec 2).getD j 0 else (((s.core c).queue zero).latch.scol).getD j 0) := by
  have hspill : s.spillState c o = .ok := by rw [State.spillState, hobj]; rfl
  have hleft := (SameOps.untiled (s := s) (c := c) zero hobj hdest).leaves htoks hn hblk
  refine ⟨_, exec_matrixComplete harr (fun e => absurd e h3) hspill, hleft.array, fun h9 h1 j hj => ?_⟩
  rw [hleft.queue, State.runMat_untiled zero hobj hdest, if_neg (by rw [h9]; decide), if_pos h9, State.latched, State.core_onCore, if_pos rfl,
    Core.onQueue_queue]
  exact doTscale_set h1 hj

/-! ## Tiles -/

section
variable {s : State} {c id : Nat} {zero : Bool} {o : MatOp} {t : Tile} (hobj : o.obj = some id) (ht : look (s.core c).tiles id = some t)
  (htrust : o.untrust = false)
include hobj ht htrust

theorem State.runMat_zeroes (h5 : o.f6 = 5) : s.runMat c zero o = s.onTile c id (fun x => { x with rows := [], zeroed := List.range x.p, untrusted := false }) := by
  unfold State.runMat
  dsimp only
  rw [hobj, Option.bind_some, State.tileOf, ht, h5, htrust]
  rfl

theorem State.runMat_multiplies {p : Nat} (h3 : o.f6 = 3) (hp : o.pleat = some p) : s.runMat c zero o = s.doMma c ((s.core c).queue zero).latch o id t p := by
  unfold State.runMat
  dsimp only
  rw [hobj, Option.bind_some, State.tileOf, ht, h3, htrust, hp]
  rfl
end

section
variable {s : State} {c id : Nat} {zero : Bool} {o : MatOp} {t : Tile} (harr : (s.core c).array = some (zero, o)) (hobj : o.obj = some id)
  (ht : look (s.core c).tiles id = some t) (hmap : t.mapped = true) (htoks : o.toks = []) (hn : (s.core c).NoFences)
  (hblk : ∀ b, s.block? o.blk = some b → b.ended = false) (htrust : o.untrust = false)
include harr hobj ht hmap htoks hn hblk htrust

/-- ACCZERO leaves every element of its tile 0. -/
theorem acczeroComplete (h5 : o.f6 = 5) : ∃ s', exec (.matrixOperationComplete c) s = .next s' ∧ (s'.core c).array = none ∧
    ∀ row < t.m * t.p, ∀ col < 192, s'.tileElem c id row col = 0 := by
  have hspill : s.spillState c o = .ok := by
    rw [State.spillState, hobj, Option.bind_some, State.tileOf, ht]
    dsimp only
    rw [MatOp.spillRows, h5]
    rfl
  have hx := exec_matrixComplete harr (fun e => absurd (e.symm.trans h5) (by decide)) hspill
  rw [State.runMat_zeroes hobj ht htrust h5] at hx
  have hleft := (SameOps.onCore s c (f := fun k => { k with tiles := onKey k.tiles id (fun x => { x with rows := [], zeroed := List.range x.p, untrusted := false }) })
    (fun _ => ⟨rfl, rfl⟩)).leaves htoks hn hblk
  refine ⟨_, hx, hleft.array, fun row hrow col _ => ?_⟩
  have htile := hleft.tiles id { t with rows := [], zeroed := List.range t.p, untrusted := false } (by
    rw [State.core_onCore, if_pos rfl, look_onKey, if_pos rfl, ht]
    rfl) hmap
  have hm : 0 < t.m := Nat.pos_of_mul_pos_right (Nat.lt_of_le_of_lt (Nat.zero_le row) hrow)
  have hin : row / max 1 t.m ∈ List.range t.p := by
    rw [max_eq_right hm, List.mem_range]
    exact Nat.div_lt_of_lt_mul hrow
  unfold State.tileElem
  rw [State.onTile, htile]
  dsimp only
  rw [Tile.elem, if_neg Bool.false_ne_true]
  dsimp only
  rw [look, List.elem_eq_true_of_mem hin]
  rfl
end

/-! ## An MMA of one row -/

theorem look_foldl_insertAt {α : Type} (g : Nat → α) (b : Nat) (m : List (Nat × α)) (n x : Nat) :
    look ((List.range n).foldl (fun m i => insertAt m (b + i) (g i)) m) x = if b ≤ x ∧ x < b + n then some (g (x - b)) else look m x := by
  induction n with
  | zero => rw [if_neg (by omega)]; rfl
  | succ n ih =>
    rw [List.range_succ, List.foldl_append, List.foldl_cons, List.foldl_nil]
    by_cases hx : x = b + n
    · subst hx
      rw [look_insertAt_same, if_pos ⟨by omega, by omega⟩, Nat.add_sub_cancel_left]
    · rw [look_insertAt_ne _ _ hx, ih]
      by_cases h1 : b ≤ x ∧ x < b + n
      · rw [if_pos h1, if_pos ⟨h1.1, by omega⟩]
      · rw [if_neg h1, if_neg (by omega)]

/-- An element of a trusted tile does not depend on the state. -/
theorem Tile.elem_trusted {t : Tile} (h : t.untrusted = false) (s s' : State) (id row col : Nat) : t.elem s id row col = t.elem s' id row col := by
  unfold Tile.elem
  rw [h]
  rfl

section
variable {t : Tile} (hu : t.untrusted = false) (s s' : State) (id row : Nat) (ws : List Word)
include hu

theorem Tile.elem_setRow_same {j : Nat} (hj : j < ws.length) : (t.setRow row ws).elem s id row j = ws.getD j 0 := by
  unfold Tile.elem
  rw [Tile.setRow, Tile.setFrom]
  dsimp only
  rw [hu, if_neg Bool.false_ne_true, look_foldl_insertAt (fun i => ws.getD i 0), if_pos (by omega)]
  dsimp only
  congr 1
  omega

theorem Tile.elem_setRow_beside {r j : Nat} (hws : ws.length ≤ 192) (hr : r ≠ row) (hj : j < 192) : (t.setRow row ws).elem s id r j = t.elem s' id r j := by
  rw [Tile.elem_trusted hu s' s]
  unfold Tile.elem
  rw [Tile.setRow, Tile.setFrom]
  dsimp only
  have hout : ¬(192 * row + 0 ≤ 192 * r + j ∧ 192 * r + j < 192 * row + 0 + ws.length) := by omega
  rw [hu, if_neg Bool.false_ne_true, if_neg Bool.false_ne_true, look_foldl_insertAt (fun i => ws.getD i 0), if_neg hout]
end

/-- The words of the one row of an MMA. -/
def State.mmaWords (s : State) (c : Nat) (lt : Latch) (o : MatOp) (row : Nat) (init : Nat → Nat → Word) : List Word :=
  (List.range lt.n).map (fun j => groups lt.fmt (o.val 5) lt.k
    (fun k => (((List.range lt.k).map (fun k => s.slotCode c o.slots (128 * fmtSize (o.val 5) * o.val 7 + fmtSize (o.val 5) * k) (fmtSize (o.val 5)))).getD k 0))
    (fun k => (getD lt.codes 0 (2 ^ 16 * j + k)).toNat) (round32mul (if o.val 10 % 2 = 1 then one32 else (o.vec 11).getD 0 0) (lt.scol.getD j 0))
    (if o.val 2 = 1 then init row j else 0x80000000#32))

theorem State.mmaRows_one {s : State} {c : Nat} {lt : Latch} {o : MatOp} {row : Nat} (h6 : o.val 6 = 1) (hrow : o.destRow 0 = some row)
    (init : Nat → Nat → Word) : s.mmaRows c lt o init = [(row, s.mmaWords c lt o row init)] := by
  unfold State.mmaRows
  rw [h6, List.range_one, List.foldl_cons, List.foldl_nil, hrow]
  rfl

theorem State.doMma_one {s : State} {c : Nat} {lt : Latch} {o : MatOp} {id : Nat} {t : Tile} {p row : Nat} (ht : look (s.core c).tiles id = some t)
    (hp : p < t.p) (hnew : o.newPleat = false) (hspoilt : o.spoilt = false) (hinj : s.inject = []) (h6 : o.val 6 = 1) (hrow : o.destRow 0 = some row) :
    s.doMma c lt o id t p = s.onTile c id (fun x => x.setRow (p * t.m + row) (s.mmaWords c lt o row (fun r j => s.pleatElem c o.blk id t p r j))) := by
  have hfails : s.matrixFails o = false := by
    rw [State.matrixFails, hinj]
    simp
  unfold State.doMma
  dsimp only
  rw [hfails, hnew, hspoilt]
  simp only [Bool.false_eq_true, if_false, Bool.or_self]
  rw [State.tileOf, ht, Option.getD_some, State.mmaRows_one h6 hrow, List.foldl_cons, List.foldl_nil, State.putPleat, if_pos hp]

section
variable {s : State} {c id : Nat} {zero : Bool} {o : MatOp} {t : Tile} (harr : (s.core c).array = some (zero, o)) (hobj : o.obj = some id)
  (ht : look (s.core c).tiles id = some t) (hmap : t.mapped = true) (htoks : o.toks = []) (hn : (s.core c).NoFences)
  (hblk : ∀ b, s.block? o.blk = some b → b.ended = false) (htrust : o.untrust = false)
include harr hobj ht hmap htoks hn hblk htrust

/-- An MMA of one row leaves the sums of its groups there, and the rest of its tile. -/
theorem mmaComplete {p row : Nat} (h3 : o.f6 = 3) (hu : t.untrusted = false) (hpleat : o.pleat = some p) (hp : p < t.p) (hnew : o.newPleat = false)
    (hspoilt : o.spoilt = false) (hinj : s.inject = []) (h6 : o.val 6 = 1) (hat : (s.core c).arrayAt + 161 ≤ s.clockOf c) (hrow : o.destRow 0 = some row)
    (hlt : ((s.core c).queue zero).latch.n ≤ 192) :
    ∃ s', exec (.matrixOperationComplete c) s = .next s' ∧ (s'.core c).array = none ∧
      (∀ j < ((s.core c).queue zero).latch.n, s'.tileElem c id (p * t.m + row) j =
        (s.mmaWords c ((s.core c).queue zero).latch o row (fun r j => s.tileElem c id (p * t.m + r) j)).getD j 0) ∧
      (∀ r j, r ≠ p * t.m + row → j < 192 → s'.tileElem c id r j = s.tileElem c id r j) := by
  have hspill : s.spillState c o = .ok := by
    rw [State.spillState, hobj, Option.bind_some, State.tileOf, ht]
    dsimp only
    rw [MatOp.spillRows, h3, if_pos rfl, hpleat]
    dsimp only
    rw [if_pos hp]
    rfl
  have hx := exec_matrixComplete harr (fun _ => by rw [h6]; exact hat) hspill
  rw [State.runMat_multiplies hobj ht htrust h3 hpleat, State.doMma_one ht hp hnew hspoilt hinj h6 hrow] at hx
  have hinit : (fun r j => s.pleatElem c o.blk id t p r j) = (fun r j => s.tileElem c id (p * t.m + r) j) := by
    funext r j
    rw [State.pleatElem, if_pos hp, State.tileElem, ht]
  rw [hinit] at hx
  generalize hws : s.mmaWords c ((s.core c).queue zero).latch o row (fun r j => s.tileElem c id (p * t.m + r) j) = ws at hx ⊢
  have hlen : ws.length = ((s.core c).queue zero).latch.n := by
    rw [← hws, State.mmaWords, List.length_map, List.length_range]
  have hleft := (SameOps.onCore s c (f := fun k => { k with tiles := onKey k.tiles id (fun x => x.setRow (p * t.m + row) ws) })
    (fun _ => ⟨rfl, rfl⟩)).leaves htoks hn hblk
  have htile := hleft.tiles id (t.setRow (p * t.m + row) ws) (by
    rw [State.core_onCore, if_pos rfl, look_onKey, if_pos rfl, ht]
    rfl) hmap
  refine ⟨_, hx, hleft.array, fun j hj => ?_, fun r j hr hj => ?_⟩
  · rw [State.tileElem, State.onTile, htile]
    exact Tile.elem_setRow_same hu _ id _ ws (by rw [hlen]; exact hj)
  · rw [State.tileElem, State.onTile, htile, State.tileElem, ht]
    exact Tile.elem_setRow_beside hu _ s id _ ws (by rw [hlen]; exact hlt) hr hj
end

/-- Settles O31: the thimble's holder by each instruction, and one operation of the array at a time. -/
theorem thimbleAndArray : Obligations.ThimbleAndArray := by
  unfold Obligations.ThimbleAndArray
  refine ⟨⟨?holder, ?grant⟩, fun s c => ⟨?leave, ?take, ?untiled, ?tiled⟩⟩
  case holder =>
    intro s w th t h holder
    exact ⟨thmtake_takes h t, thmpass_passes h t, thmpassFree_frees h t⟩
  case grant =>
    intro s c zero waits cls hfree hwaits
    have hmem : ∀ w, waits w ↔ w ∈ s.thimbleWaits c zero := fun w => mem_thimbleWaits.symm
    obtain ⟨w, hw⟩ := hwaits
    obtain ⟨s', v, hx, hv, hholder, hmin⟩ := thimbleGrant_grants hfree (List.ne_nil_of_mem ((hmem w).mp hw))
    refine ⟨s', v, hx, (hmem v).mpr hv, hholder, fun u hu => ?_⟩
    have hno := hmin u ((hmem u).mp hu)
    rw [Bool.eq_false_iff, Ne, keyBefore_iff, Prod.lex_def] at hno
    have hk : ∀ x : Wave, s.thimbleKey x = (cls x, (x.thimbleSince).getD 0) := fun _ => rfl
    rw [hk, hk] at hno
    dsimp only at hno
    omega
  case leave => exact fun o rest hwin hobj hfresh hroom => windowEntryLeave_leaves hwin hobj hfresh hroom
  case take => exact fun zero o harr hrow hn hnext hd => arrayTake_takes harr hrow hn hnext hd
  case untiled => exact fun zero o harr h3 hobj htoks _ hdest hn hblk => untiledComplete harr h3 hobj htoks hdest hn hblk
  case tiled =>
    intro zero o id t harr hobj ht hmap htoks _ hn hblk htrust
    refine ⟨acczeroComplete harr hobj ht hmap htoks hn hblk htrust, fun p row h3 hu hpleat hp hnew hspoilt hinj h6 hat hrow _ hlt => ?_⟩
    obtain ⟨s', hx, hfree, hsums, hrest⟩ := mmaComplete harr hobj ht hmap htoks hn hblk htrust h3 hu hpleat hp hnew hspoilt hinj h6 hat hrow hlt
    refine ⟨s', hx, hfree, ?_⟩
    intro lt sz srow
    refine ⟨fun j hj => ?_, hrest⟩
    rw [hsums j hj, State.mmaWords, List.getD_eq_getElem?_getD, List.getElem?_map, List.getElem?_range hj]
    rfl
end Sys2Proof.Machine
end

section
/-! PROOFS. A copy to the scratchpads of a gang whose blocks do not stand in ascending order (spec/09 R177, spec/01 R29): O28. -/

namespace Sys2Proof.Machine
open Sys2Proof.Claims

/-! ## Blocks out of order -/

/-- A copy that has read two bytes, one for the first byte of its block's scratchpad, one for the first byte of the aperture of block 0 of the gang. -/
def strayDesc : CopyDesc :=
  { form := 0, gva := 0, saddr := [0, 0x01000000], gstride := 0, rows := 2, rbytes := 1, obj := 0, first := 0, scope := 0, slotSide := false, bobj := none, idx := [] }
def strayCopy : CopyOp :=
  { id := 0, blk := 3, who := ⟨0, 0, 0, 0, 3⟩, lanes := [], step := 0, tok := 63, gone := [], list := [strayDesc], fence := false, after := [], started := true,
    captured := [[1], [2]], landed := [], req := none, spoilt := false }
/-- A gang of two blocks, both of index 0, that stand in descending order; the second has the copy at the head of its first queue. -/
def strayBlocks : State :=
  { State.reset with
    waves := [placeWave]
    launches := [(0, { placeLaunch with prog := { placeProg with lrec := { placeRec with levels := [BitVec.ofNat 32 (2 ^ 16 + 16), BitVec.ofNat 32 (2 ^ 16 + 18)] } } })]
    gangs := [(1, placeGang)]
    blocks := [(5, { placeBlock with id := 5, padSize := 16 }), (3, { placeBlock with id := 3, padSize := 16, queues := [[strayCopy]] })] }

/-- Refutes O28: the statement lets the blocks stand in any order; a byte written to a scratchpad then leaves its block before another of its gang, and the
aperture reaches it for the other. -/
theorem not_copyEngine : ¬ Obligations.CopyEngine := by
  unfold Obligations.CopyEngine
  intro h
  have hc := (h strayBlocks 3 0 { placeBlock with id := 3, padSize := 16, queues := [[strayCopy]] } strayCopy placeWave rfl rfl rfl rfl (by decide +kernel)).2.1
  have hw := hc strayDesc [] rfl rfl rfl (by decide +kernel) rfl rfl rfl (by decide +kernel) (by decide) (by decide +kernel)
  have hnone : strayBlocks.namedBarriers = [] := by decide +kernel
  obtain ⟨s', hexec, -, -, -, -, hpads, -⟩ := hw.1 rfl (fun b hb => by rw [hnone] at hb; exact nomatch hb) (by decide +kernel)
  have hbyte := (hpads rfl rfl).1 1 (by decide) rfl 0 (by decide) 5 0 (by decide +kernel) (by decide +kernel)
  have hruns : (match exec (.engineOperationComplete 3 0) strayBlocks with
    | .next t => t.padByte 5 0
    | _ => 2) = 0 := by decide +kernel
  rw [hexec] at hruns
  rw [show s'.padByte 5 0 = 0 from hruns] at hbyte
  exact absurd hbyte (by decide)
end Sys2Proof.Machine
end

section
/-! PROOFS. The places of writes where a location is listed twice (spec/08 R143): O59. -/

namespace Sys2Proof.Machine
open Sys2Proof.Claims

/-! ## A location listed twice -/

/-- A device whose order lists the place of the last write of byte 5 twice, and a gang without blocks that holds a write of that byte at place 0. -/
def twicePlaced : State :=
  { State.reset with
    stamps := [(5, 0), (5, 100)]
    stamp := 50
    gangs := [(1, { placeGang with overlay := [(5, ⟨0, 0⟩)] })]
    agenda := [.event (.nop false)] }

theorem twicePlaced_ordered : twicePlaced.Ordered where
  stamps x := by
    by_cases hx : x = 5
    · subst hx
      decide
    · have e : getD twicePlaced.stamps 0 x = 0 := by
        simp [twicePlaced, getD, look, Ne.symm hx]
      rw [e]
      exact Nat.zero_le _
  overlays := by decide
  views c hc := nomatch hc
  keys := by decide
  waves w hw := nomatch hw
  pads p hp := nomatch hp
  images p hp := nomatch hp
  restarts p hp := nomatch hp

/-- Refutes O59: the order of the state lets a location be listed twice; a write at place 0 that leaves the instance of a gang takes the first entry out, and
the second is above every place given out. -/
theorem not_stepKeepsOrder : ¬ Obligations.StepKeepsOrder := by
  unfold Obligations.StepKeepsOrder
  intro h
  have hstep : (match step twicePlaced with
    | .next t => some (getD t.stamps 0 5, t.stamp)
    | _ => none) = some (100, 50) := by decide +kernel
  cases hs : step twicePlaced with
  | next t =>
    rw [hs] at hstep
    have hle := (h twicePlaced t twicePlaced_ordered hs).stamps 5
    have he : (getD t.stamps 0 5, t.stamp) = (100, 50) := Option.some.inj hstep
    rw [(Prod.mk.inj he).1, (Prod.mk.inj he).2] at hle
    exact absurd hle (by decide)
  | fault f => rw [hs] at hstep; exact nomatch hstep
  | refused f => rw [hs] at hstep; exact nomatch hstep
end Sys2Proof.Machine
end

section
/-! PROOFS. Memory stays in its canonical form, I: the operations of a state that issue and perform accesses. One lemma for each operation that answers a
state: `memWf` of the memory before gives `memWf` of the memory after. An operation that takes a continuation asks the same of it. What writes
memory does so through `homeWrite` or `fill`, whose lemmas stand with the model; the rest only has to be followed. -/

namespace Sys2Proof.Machine
open Sys2Proof.Claims

/-- The state a step answers with, where it answers with one, has memory in its canonical form. -/
def Res.KeepsMem (r : Res) : Prop := ∀ t, r = .next t → memWf t.mem = true

@[simp] theorem Res.keepsMem_next {s : State} : Res.KeepsMem (.next s) ↔ memWf s.mem = true :=
  ⟨fun h => h s rfl, fun h _ e => Host.Outcome.next.inj e ▸ h⟩

@[simp] theorem Res.keepsMem_done {s : State} : Res.KeepsMem (done s) ↔ memWf s.mem = true := Res.keepsMem_next

@[simp] theorem Res.keepsMem_fault (f : Fault) : Res.KeepsMem (.fault f) := fun _ e => absurd e nofun

@[simp] theorem Res.keepsMem_refused (f : Refusal) : Res.KeepsMem (.refused f) := fun _ e => absurd e nofun

theorem Res.KeepsMem.get_wf {r : Res} (h : Res.KeepsMem r) {s : State} (hs : memWf s.mem = true) : memWf (Res.get r s).mem = true := by
  cases r with
  | next t => exact h t rfl
  | fault _ => exact hs
  | refused _ => exact hs

@[simp] theorem State.asContexts_wf (s : State) (gs pas : List Nat) (f : State → State) (hs : memWf s.mem = true)
    (hf : ∀ (x0 : State), memWf x0.mem = true → memWf (f x0).mem = true) :
    memWf (State.asContexts s gs pas f).mem = true := by
  unfold State.asContexts
  simp [hs, hf]

@[simp] theorem State.scratchWrite_wf (s : State) (blk a : Nat) (y0 : List Byte) (hs : memWf s.mem = true) :
    memWf (State.scratchWrite s blk a y0).mem = true := by
  induction y0 generalizing s a with
  | nil => exact hs
  | cons b rest ih =>
    refine ih _ _ ?_
    split <;> simp [hs, State.padWrite_mem]

@[simp] theorem State.holdTranslation_wf (s : State) (core vf va : Nat) (hs : memWf s.mem = true) :
    memWf (State.holdTranslation s core vf va).mem = true := by
  unfold State.holdTranslation
  dsimp only
  split
  · exact hs
  · split <;> simp [hs]

@[simp] theorem State.dropCopies_wf (s : State) (c : Nat) (gone : List Nat) (hs : memWf s.mem = true) :
    memWf (State.dropCopies s c gone).mem = true := hs

@[simp] theorem State.flushFor_wf (s : State) (c blk : Nat) (hs : memWf s.mem = true) : memWf (State.flushFor s c blk).mem = true := hs

@[simp] theorem State.reported_wf (s : State) (c slot : Nat) (hs : memWf s.mem = true) : memWf (State.reported s c slot).mem = true := by
  unfold State.reported
  split <;> simp [hs]

@[simp] theorem State.onIssuing_wf (s : State) (i : Issuer) (f : Wave → Wave) (hs : memWf s.mem = true) :
    memWf (State.onIssuing s i f).mem = true := hs

@[simp] theorem State.illop_wf (s : State) (hs : memWf s.mem = true) : memWf (State.illop s).mem = true := by
  unfold State.illop
  simp [hs]

@[simp] theorem State.trapAll_wf (s : State) (cause : Word) (hs : memWf s.mem = true) : memWf (State.trapAll s cause).mem = true := by
  unfold State.trapAll
  simp [hs]

@[simp] theorem State.holdAll_wf (s : State) (w : Wait) (hs : memWf s.mem = true) : memWf (State.holdAll s w).mem = true := by
  unfold State.holdAll
  simp [hs]

@[simp] theorem State.withRegs_wf (s : State) (regs : List Nat) (k : State) (hs : memWf s.mem = true) (hk : memWf k.mem = true) :
    memWf (State.withRegs s regs k).mem = true := by
  unfold State.withRegs
  split <;> simp [hs, hk]

@[simp] theorem State.lanes_wf (s : State) (regs : List Nat) (tack : Bool) (f : Wave → Thread → Out) (hs : memWf s.mem = true) :
    memWf (State.lanes s regs tack f).mem = true := by
  unfold State.lanes
  simp [hs]

@[simp] theorem State.withTokens_wf (s : State) (regs : List Nat) (k : State) (hs : memWf s.mem = true) (hk : memWf k.mem = true) :
    memWf (State.withTokens s regs k).mem = true := by
  unfold State.withTokens
  dsimp only
  split
  · exact hs
  · split <;> simp [hs, hk]

@[simp] theorem alu2_keepsMem (d a b : Reg) (t : Bool) (f : Word → Word → Word) (s : State) (hs : memWf s.mem = true) :
    Res.KeepsMem (alu2 d a b t f s) := by
  unfold alu2
  simp [hs]

@[simp] theorem alu1_keepsMem (d a : Reg) (t : Bool) (f : Word → Word) (s : State) (hs : memWf s.mem = true) : Res.KeepsMem (alu1 d a t f s) := by
  unfold alu1
  simp [hs]

@[simp] theorem alu3_keepsMem (d a b : Reg) (t : Bool) (f : Word → Word → Word → Word) (s : State) (hs : memWf s.mem = true) :
    Res.KeepsMem (alu3 d a b t f s) := by
  unfold alu3
  simp [hs]

@[simp] theorem aluPair_keepsMem (d a b : Reg) (t : Bool) (f : Dword → Word → Word → Dword) (s : State) (hs : memWf s.mem = true) :
    Res.KeepsMem (aluPair d a b t f s) := by
  unfold aluPair
  simp [hs]

@[simp] theorem cmp2_keepsMem (p : PReg) (a b : Reg) (t : Bool) (f : Word → Word → Bool) (s : State) (hs : memWf s.mem = true) :
    Res.KeepsMem (cmp2 p a b t f s) := by
  unfold cmp2
  simp [hs]

@[simp] theorem cmpImm_keepsMem (p : PReg) (a : Reg) (i : BitVec 10) (t : Bool) (f : Word → Word → Bool) (s : State) (hs : memWf s.mem = true) :
    Res.KeepsMem (cmpImm p a i t f s) := by
  unfold cmpImm
  simp [hs]

@[simp] theorem pred2_keepsMem (p a b : PReg) (t : Bool) (f : Bool → Bool → Bool) (s : State) (hs : memWf s.mem = true) :
    Res.KeepsMem (pred2 p a b t f s) := by
  unfold pred2
  simp [hs]

@[simp] theorem fp2_keepsMem (d a b : Reg) (t : Bool) (f : RMode → Word → Word → Word × Word) (s : State) (hs : memWf s.mem = true) :
    Res.KeepsMem (fp2 d a b t f s) := by
  unfold fp2
  simp [hs]

@[simp] theorem fp3_keepsMem (d a b : Reg) (t : Bool) (f : RMode → Word → Word → Word → Word × Word) (s : State) (hs : memWf s.mem = true) :
    Res.KeepsMem (fp3 d a b t f s) := by
  unfold fp3
  simp [hs]

@[simp] theorem fp1_keepsMem (d a : Reg) (t : Bool) (f : RMode → Word → Word × Word) (s : State) (hs : memWf s.mem = true) :
    Res.KeepsMem (fp1 d a t f s) := by
  unfold fp1
  simp [hs]

@[simp] theorem fpCmp_keepsMem (p : PReg) (a b : Reg) (t : Bool) (f : Word → Word → Bool × Word) (s : State) (hs : memWf s.mem = true) :
    Res.KeepsMem (fpCmp p a b t f s) := by
  unfold fpCmp
  simp [hs]

@[simp] theorem carryOp_keepsMem (d a b : Reg) (t : Bool) (f : Word → Word → Bool → Word × Bool) (s : State) (hs : memWf s.mem = true) :
    Res.KeepsMem (carryOp d a b t f s) := by
  unfold carryOp
  simp [hs]

@[simp] theorem divOp_keepsMem (signed rem : Bool) (d a b : Reg) (t : Bool) (s : State) (hs : memWf s.mem = true) :
    Res.KeepsMem (divOp signed rem d a b t s) := by
  unfold divOp
  simp [hs]

@[simp] theorem State.setPeerState_wf (s : State) (p st : Nat) (hs : memWf s.mem = true) : memWf (State.setPeerState s p st).mem = true := hs

@[simp] theorem State.gaugeCount_wf (s : State) (n v : Nat) (hs : memWf s.mem = true) : memWf (State.gaugeCount s n v).mem = true := by
  unfold State.gaugeCount
  dsimp only
  split <;> simp [hs]

@[simp] theorem State.healthRecord_wf (s : State) (kind fn unit addr detail : Nat) (hs : memWf s.mem = true) :
    memWf (State.healthRecord s kind fn unit addr detail).mem = true := by
  unfold State.healthRecord
  dsimp only
  split
  · exact hs
  · split <;> simp [hs, State.homeWriteBytes_wf]

@[simp] theorem State.lastingUnit_wf (s : State) (unit : Nat) (hs : memWf s.mem = true) : memWf (State.lastingUnit s unit).mem = true := by
  unfold State.lastingUnit
  split <;> simp [hs]

@[simp] theorem State.healthCount_wf (s : State) (fn unit addr : Nat) (hs : memWf s.mem = true) :
    memWf (State.healthCount s fn unit addr).mem = true := by
  unfold State.healthCount
  dsimp only
  split
  · exact hs
  · split <;> simp [hs]

@[simp] theorem State.healthEvent_wf (s : State) (kind fn unit addr detail : Nat) (hs : memWf s.mem = true) :
    memWf (State.healthEvent s kind fn unit addr detail).mem = true := by
  unfold State.healthEvent
  simp [hs]

@[simp] theorem State.sendAs_wf (s : State) (vf : Option Nat) (pa len : Nat) (who : Issuer) (kind : ReqKind) (data : List Byte)
    (hs : memWf s.mem = true) :
    memWf (State.sendAs s vf pa len who kind data).1.mem = true := hs

@[simp] theorem State.send_wf (s : State) (pa len : Nat) (who : Issuer) (kind : ReqKind) (data : List Byte) (hs : memWf s.mem = true) :
    memWf (State.send s pa len who kind data).1.mem = true := hs

@[simp] theorem State.atomic_wf (s : State) (c gang sc : Nat) (hasGang : Bool) (pl : Place) (size : Nat) (f : Dword → Option Dword)
    (hs : memWf s.mem = true) :
    memWf (State.atomic s c gang sc hasGang pl size f).1.mem = true := by
  unfold State.atomic
  dsimp only
  repeat' split
  all_goals simp [hs, State.padWrite_mem, State.placeOwn_wf, State.snapTake_mem, State.memoWrite_wf]

@[simp] theorem State.outside_wf (s : State) (l : Nat) (v : Dword) (hs : memWf s.mem = true) : memWf (State.outside s l v).1.mem = true := by
  unfold State.outside
  split
  · exact hs
  · split <;> simp [hs]

@[simp] theorem State.finish_wf (s : State) (c slot lane n : Nat) (f : Thread → Thread) (hs : memWf s.mem = true) :
    memWf (State.finish s c slot lane n f).mem = true := hs

@[simp] theorem State.throwBarred_wf (s : State) (c slot step : Nat) (code : Word) (hs : memWf s.mem = true) :
    memWf (State.throwBarred s c slot step code).mem = true := by
  unfold State.throwBarred
  simp [hs]

@[simp] theorem State.setReq_wf (s : State) (c slot lane n r : Nat) (hs : memWf s.mem = true) :
    memWf (State.setReq s c slot lane n r).mem = true := hs

@[simp] theorem State.settleDoomed_wf (s : State) (hs : memWf s.mem = true) : memWf (State.settleDoomed s).mem = true := by
  unfold State.settleDoomed
  dsimp only
  split <;> simp [hs]

@[simp] theorem State.consume_wf (s : State) (blk line : Nat) (hs : memWf s.mem = true) : memWf (State.consume s blk line).mem = true := by
  unfold State.consume
  split <;> simp [hs]

@[simp] theorem State.fetchLine_wf (s : State) (c slot lane n : Nat) (pc : Dword) (pa : Nat) (hs : memWf s.mem = true) :
    memWf (State.fetchLine s c slot lane n pc pa).mem = true := by
  unfold State.fetchLine
  split <;> simp [hs]

@[simp] theorem State.fetched_wf (s : State) (c slot lane n : Nat) (a : Access) (k : State → State) (hs : memWf s.mem = true)
    (hk : ∀ (x0 : State), memWf x0.mem = true → memWf (k x0).mem = true) :
    memWf (State.fetched s c slot lane n a k).mem = true := by
  unfold State.fetched
  repeat' split
  all_goals simp [hs, hk]

@[simp] theorem State.dueThrow_wf (s : State) (who : Issuer) (cls : Nat) (code : Word) (xpc : Dword) (rule : Word) (step : Nat)
    (hs : memWf s.mem = true) :
    memWf (State.dueThrow s who cls code xpc rule step).mem = true := hs

@[simp] theorem State.touch_wf (s : State) (c blk : Nat) (p : Place) (n : Nat) (hs : memWf s.mem = true) :
    memWf (State.touch s c blk p n).mem = true := by
  unfold State.touch
  split
  · exact hs
  · split <;> simp [hs, State.breach_wf]

@[simp] theorem State.breachAt_wf (s : State) (a : Access) (hs : memWf s.mem = true) : memWf (State.breachAt s a).mem = true := by
  unfold State.breachAt
  split <;> simp [hs, State.breach_wf]

@[simp] theorem State.strikeAt_wf (s : State) (a : Access) (op : MemoOp) (was : State) (hs : memWf s.mem = true) (hwas : memWf was.mem = true) :
    memWf (State.strikeAt s a op was).mem = true := by
  unfold State.strikeAt
  repeat' split
  all_goals simp [hs, State.strikeChunks_wf, State.unsettle_wf]

@[simp] theorem State.performLoad_wf (s : State) (c slot lane n : Nat) (w : Wave) (a : Access) (size : Nat) (sext : Bool) (d : Nat)
    (hs : memWf s.mem = true) :
    memWf (State.performLoad s c slot lane n w a size sext d).mem = true := by
  unfold State.performLoad
  split
  · simp [hs]
  · refine State.fetched_wf s c slot lane n a _ hs (fun u hu => ?_)
    dsimp only
    split <;> simp [hu, State.gauge_mem]

@[simp] theorem State.performStore_wf (s : State) (c slot lane n : Nat) (w : Wave) (a : Access) (data : List Byte) (hs : memWf s.mem = true) :
    memWf (State.performStore s c slot lane n w a data).mem = true := by
  unfold State.performStore
  simp [hs, State.writePlace_mem, State.overwrite_wf]

@[simp] theorem State.remoteMemo_wf (s : State) (c slot lane n : Nat) (w : Wave) (a : Access) (op : MemoOp) (size pa : Nat) (v x : Dword)
    (k : State → Dword → State) (hs : memWf s.mem = true) (hk : ∀ (x0 : State) (x1 : Dword), memWf x0.mem = true → memWf (k x0 x1).mem = true) :
    memWf (State.remoteMemo s c slot lane n w a op size pa v x k).mem = true := by
  unfold State.remoteMemo
  split
  · exact hk _ _ (by simp [hs, State.snapTake_mem, State.fill_wf])
  · dsimp only
    have hp := State.placeOwn_wf s c (s.gangId w.blk) 5 (s.recOf w.blk).hasGang pa size hs
    split
    · exact hs
    · split
      · simp [hp]
      · split
        · exact hp
        · split <;> simp [hp, State.sendDirty_mem]

@[simp] theorem State.performMemo_wf (s : State) (c slot lane n : Nat) (w : Wave) (a : Access) (op : MemoOp) (size d : Nat) (v x : Dword) (sc : Nat)
    (hs : memWf s.mem = true) :
    memWf (State.performMemo s c slot lane n w a op size d v x sc).mem = true := by
  unfold State.performMemo
  split
  · simp [hs]
  · extract_lets end_ here
    have hend (u : State) (m : Dword) (hu : memWf u.mem = true) : memWf (end_ u m).mem = true := by
      unfold end_
      dsimp only
      split <;> simp [hu, State.gauge_mem]
    have hhere : memWf here.mem = true := by
      refine State.fetched_wf s c slot lane n a _ hs (fun u hu => ?_)
      dsimp only
      split
      · exact hend _ _ (by simp [hu])
      · exact hend _ _ (by simp [State.breachAt_wf u a hu])
    split
    · split
      · exact State.remoteMemo_wf _ _ _ _ _ _ _ _ _ _ _ _ _ hs hend
      · exact hhere
    · exact hhere

@[simp] theorem State.performPublish_wf (s : State) (c slot lane n : Nat) (w : Wave) (a : Access) (sc : Nat) (hs : memWf s.mem = true) :
    memWf (State.performPublish s c slot lane n w a sc).mem = true := by
  unfold State.performPublish
  split
  · split <;> simp [hs]
  · have hp := State.publish_wf s c (s.gangId w.blk) sc (s.recOf w.blk).hasGang hs
    dsimp only
    split
    · simp [hp]
    · split <;> split <;> simp [hp, State.sendDirty_mem]

@[simp] theorem State.performWith_wf (s : State) (c slot lane n : Nat) (w : Wave) (a : Access) (hs : memWf s.mem = true) :
    memWf (State.performWith s c slot lane n w a).mem = true := by
  unfold State.performWith
  split <;> simp [hs, State.refresh_mem]

@[simp] theorem State.performNth_wf (s : State) (c slot lane n : Nat) (p : Access → Bool) (hs : memWf s.mem = true) :
    memWf (State.performNth s c slot lane n p).mem = true := by
  unfold State.performNth
  repeat' split
  all_goals simp [hs]

@[simp] theorem State.drainLane_wf (s : State) (c slot lane : Nat) (y0 : Nat) (hs : memWf s.mem = true) :
    memWf (State.drainLane s c slot lane y0).mem = true := by
  induction y0 generalizing s with
  | zero => exact hs
  | succ n ih => exact ih _ (by simp [hs])

@[simp] theorem State.drain_wf (s : State) (c slot : Nat) (lanes : List Nat) (hs : memWf s.mem = true) :
    memWf (State.drain s c slot lanes).mem = true := by
  refine foldl_wf _ (fun t l ht => ?_) lanes s hs
  split <;> simp [ht]

@[simp] theorem State.settle_wf (s : State) (c slot : Nat) (hs : memWf s.mem = true) : memWf (State.settle s c slot).mem = true := by
  unfold State.settle
  repeat' split
  all_goals simp [hs]

@[simp] theorem crossLane_keepsMem (regs : List Nat) (m : BitVec 3) (t : Bool) (x : XOp) (a k : State → Thread → Word) (s : State)
    (hs : memWf s.mem = true) :
    Res.KeepsMem (crossLane regs m t x a k s) := by
  unfold crossLane
  rw [Res.keepsMem_done]
  exact State.withRegs_wf _ _ _ hs (by simp [hs])

@[simp] theorem State.memLanes_wf (s : State) (regs toks : List Nat) (tack : Bool) (addr : Wave → Thread → Dword) (size : Nat) (write : Bool)
    (ok : Wave → Thread → Place → Out) (after : State → State) (hs : memWf s.mem = true)
    (hafter : ∀ (x0 : State), memWf x0.mem = true → memWf (after x0).mem = true) :
    memWf (State.memLanes s regs toks tack addr size write ok after).mem = true := by
  unfold State.memLanes
  refine State.withRegs_wf s regs _ hs (State.withTokens_wf s toks _ hs ?_)
  dsimp only
  split
  · exact hafter _ (by simp [hs])
  · refine foldl_wf _ (fun t th ht => ?_) _ _ (hafter _ (by simp [hs]))
    split
    · split <;> simp [ht]
    · exact ht

@[simp] theorem State.silentStore_wf (s : State) (w : Wave) (lanes : List Nat) (hs : memWf s.mem = true) :
    memWf (State.silentStore s w lanes).mem = true := by
  unfold State.silentStore
  split <;> simp [hs]

@[simp] theorem State.afterCompare_wf (s s0 : State) (place : Wave → Thread → Option Place) (data : Thread → List Byte) (hs : memWf s.mem = true)
    (hs0 : memWf s0.mem = true) :
    memWf (State.afterCompare s s0 place data).mem = true := by
  unfold State.afterCompare
  split
  · exact hs
  · split <;> simp [hs]

@[simp] theorem State.padLanes_wf (s : State) (regs toks : List Nat) (tack : Bool) (addr : Wave → Thread → Word) (size : Nat)
    (ok : Wave → Thread → Place → Out) (after : State → State) (hs : memWf s.mem = true)
    (hafter : ∀ (x0 : State), memWf x0.mem = true → memWf (after x0).mem = true) :
    memWf (State.padLanes s regs toks tack addr size ok after).mem = true := by
  unfold State.padLanes
  exact State.withRegs_wf s regs _ hs (State.withTokens_wf s toks _ hs (hafter _ (by simp [hs])))

@[simp] theorem State.ldcValues_wf (s : State) (sb g size : Nat) (x : Bool) (hs : memWf s.mem = true) :
    memWf (State.ldcValues s sb g size x).1.mem = true := by
  unfold State.ldcValues
  split
  · exact hs
  · refine List.foldlRecOn (motive := fun p : State × List (Nat × Dword) => memWf p.1.mem = true) _ _ hs (fun p hp th _ => ?_)
    dsimp only
    split <;> simp [hp]

@[simp] theorem memo_keepsMem (op : MemoOp) (d a : Reg) (z : Bool) (e : BitVec 2) (c : BitVec 3) (t : Bool) (s : State) (hs : memWf s.mem = true) :
    Res.KeepsMem (memo op d a z e c t s) := by
  unfold memo
  rw [Res.keepsMem_done]
  refine State.withRegs_wf _ _ _ hs ?_
  split
  · exact hs
  · split
    · simp [hs]
    · refine State.memLanes_wf _ _ _ _ _ _ _ _ _ hs (fun u hu => ?_)
      split <;> simp [hu, hs]

@[simp] theorem phase_keepsMem (kinds : List AccKind) (c : BitVec 3) (t : Bool) (s : State) (hs : memWf s.mem = true) :
    Res.KeepsMem (phase kinds c t s) := by
  unfold phase
  repeat' split
  all_goals simp [hs]

@[simp] theorem State.performAnd_wf (s : State) (c slot lane n : Nat) (p : Access → Bool) (hs : memWf s.mem = true) :
    memWf (State.performAnd s c slot lane n p).mem = true := by
  unfold State.performAnd
  simp [hs]

@[simp] theorem State.placeAt_wf (s : State) (c sc pa : Nat) (hs : memWf s.mem = true) : memWf (State.placeAt s c sc pa).mem = true := by
  unfold State.placeAt
  repeat' split
  all_goals simp +contextual [hs, State.loosen_mem, State.orderOwn_mem, State.placeByte_wf, State.flushByte_wf, foldl_wf]

@[simp] theorem State.writeToken_wf (s : State) (who : Issuer) (tok : Nat) (v : Word) (hs : memWf s.mem = true) :
    memWf (State.writeToken s who tok v).mem = true := by
  unfold State.writeToken
  split <;> simp [hs]

@[simp] theorem State.setBarrier_wf (s : State) (pl : Place) (count zeros : Word) (hs : memWf s.mem = true) :
    memWf (State.setBarrier s pl count zeros).mem = true := by
  unfold State.setBarrier
  split <;> simp [hs, State.padWrite_mem]

@[simp] theorem State.countDown_wf (s : State) (o : Option Place) (n : Nat) (hs : memWf s.mem = true) : memWf (State.countDown s o n).mem = true := by
  unfold State.countDown
  split <;> simp [hs]

@[simp] theorem State.slotWrite_wf (s : State) (c id off : Nat) (data : List Byte) (hs : memWf s.mem = true) :
    memWf (State.slotWrite s c id off data).mem = true := hs

@[simp] theorem State.onTile_wf (s : State) (c id : Nat) (f : Tile → Tile) (hs : memWf s.mem = true) : memWf (State.onTile s c id f).mem = true := hs

@[simp] theorem State.putRow_wf (s : State) (blk c : Nat) (d : CopyDesc) (i j : Nat) (data : List Byte) (hs : memWf s.mem = true) :
    memWf (State.putRow s blk c d i j data).mem = true := by
  unfold State.putRow
  split
  · exact hs
  · split <;> simp [hs]

@[simp] theorem State.scatterWrite_wf (s : State) (c gang : Nat) (pls : List Place) (data : List Byte) (hs : memWf s.mem = true) :
    memWf (State.scatterWrite s c gang pls data).mem = true := by
  unfold State.scatterWrite
  simp [hs, State.writePlace_mem, foldl_wf]

@[simp] theorem State.publishOwn_wf (s : State) (c gang sc : Nat) (hasGang : Bool) (pas : List Nat) (hs : memWf s.mem = true) :
    memWf (State.publishOwn s c gang sc hasGang pas).mem = true := by
  unfold State.publishOwn
  split
  · simp [hs, State.orderOwn_mem]
  · refine foldl_wf _ (fun t pa ht => ?_) pas s hs
    split <;> simp [ht, State.bind_mem, State.placeByte_wf]

@[simp] theorem State.tidy_wf (s : State) (c : Nat) (hs : memWf s.mem = true) : memWf (State.tidy s c).mem = true := hs

@[simp] theorem State.onCopies_wf (s : State) (blk q : Nat) (f : List CopyOp → List CopyOp) (hs : memWf s.mem = true) :
    memWf (State.onCopies s blk q f).mem = true := hs

@[simp] theorem State.onHead_wf (s : State) (blk q : Nat) (f : CopyOp → CopyOp) (hs : memWf s.mem = true) :
    memWf (State.onHead s blk q f).mem = true := hs

@[simp] theorem State.spoilCopy_wf (s : State) (o : CopyOp) (d : CopyDesc) (hs : memWf s.mem = true) : memWf (State.spoilCopy s o d).mem = true := by
  unfold State.spoilCopy
  refine foldl_wf _ (fun t i ht => ?_) _ s hs
  split
  · exact ht
  · split
    · split <;> simp [ht, State.overwrite_wf]
    · simp [ht]

@[simp] theorem State.cancelCopy_wf (s : State) (o : CopyOp) (hs : memWf s.mem = true) : memWf (State.cancelCopy s o).mem = true := by
  unfold State.cancelCopy
  split
  · exact hs
  · refine State.tidy_wf _ _ (State.writeToken_wf _ _ _ _ (foldl_wf _ (fun t i ht => ?_) _ _ hs))
    split <;> simp [ht]

@[simp] theorem State.cancelCopies_wf (s : State) (p : CopyOp → Bool) (hs : memWf s.mem = true) : memWf (State.cancelCopies s p).mem = true := by
  unfold State.cancelCopies
  simp +contextual [hs, foldl_wf]

@[simp] theorem State.failCopy_wf (s : State) (o : CopyOp) (cls : Nat) (code : Word) (hs : memWf s.mem = true) :
    memWf (State.failCopy s o cls code).mem = true := by
  unfold State.failCopy
  simp [hs]

@[simp] theorem State.stopCopy_wf (s : State) (o : CopyOp) (kind level : Nat) (va : Dword) (write : Bool) (hs : memWf s.mem = true) :
    memWf (State.stopCopy s o kind level va write).mem = true := by
  unfold State.stopCopy
  split <;> simp [hs]

@[simp] theorem State.badRow_wf (s : State) (o : CopyOp) (r : RowAt) (write : Bool) (hs : memWf s.mem = true) :
    memWf (State.badRow s o r write).mem = true := by
  unfold State.badRow
  split <;> simp [hs]

@[simp] theorem State.drainBefore_wf (s : State) (who : Issuer) (lanes : List Nat) (step : Nat) (hs : memWf s.mem = true) :
    memWf (State.drainBefore s who lanes step).mem = true := by
  refine foldl_wf _ (fun t l ht => ?_) lanes s hs
  split <;> simp [ht]

@[simp] theorem State.landRuns_wf (s : State) (o : CopyOp) (d : CopyDesc) (rows : List (List Place)) (runs : Nat → List (Nat × Nat))
    (hs : memWf s.mem = true) :
    memWf (State.landRuns s o d rows runs).mem = true := by
  unfold State.landRuns
  refine foldl_wf _ (fun t i ht => foldl_wf _ (fun u r hu => ?_) _ t ht) _ s hs
  dsimp only
  split <;> simp [hu]

@[simp] theorem State.progress_wf (s : State) (blk q : Nat) (o0 : CopyOp) (d : CopyDesc) (hs : memWf s.mem = true) :
    memWf (State.progress s blk q o0 d).mem = true := by
  unfold State.progress
  dsimp only
  split
  · exact State.onHead_wf _ _ _ _ (State.overwrite_wf _ _ _ (by simp [hs]))
  · exact hs

@[simp] theorem State.anyRowOrder_wf (s t : State) (o : CopyOp) (d : CopyDesc) (places : List (List Place)) (hs : memWf s.mem = true)
    (ht : memWf t.mem = true) :
    memWf (State.anyRowOrder s t o d places).mem = true := by
  unfold State.anyRowOrder
  repeat' split
  all_goals simp +contextual [ht, foldl_wf]

@[simp] theorem State.landCopy_wf (s : State) (o0 : CopyOp) (d : CopyDesc) (rows : List (List Place)) (hs : memWf s.mem = true) :
    memWf (State.landCopy s o0 d rows).mem = true := by
  unfold State.landCopy
  dsimp only
  have hl := State.landRuns_wf s (if s.selfOverlap o0.blk d then { o0 with spoilt := true } else o0) d rows
    ((if s.selfOverlap o0.blk d then { o0 with spoilt := true } else o0).runs d) hs
  split <;> exact State.overwrite_wf _ _ _ (by simp [hs, hl])

end Sys2Proof.Machine
end

section
/-! PROOFS. Memory stays in its canonical form, II: copies that complete, ends of waves, blocks and gangs, barriers, unwinding, panels, edges and spawns. -/

namespace Sys2Proof.Machine
open Sys2Proof.Claims

@[simp] theorem State.finishCopy_wf (s : State) (blk q : Nat) (o : CopyOp) (d : CopyDesc) (hs : memWf s.mem = true) :
    memWf (State.finishCopy s blk q o d).mem = true := by
  unfold State.finishCopy
  have hc := State.countDown_wf s d.bobj (d.bytes - o.counted d) hs
  dsimp only
  split
  · simp [hc]
  · refine State.tidy_wf _ _ (State.writeToken_wf _ _ _ _ (State.onCopies_wf _ _ _ _ ?_))
    split
    · exact foldl_wf _ (fun t x ht => State.spoilCopy_wf t o x ht) _ _ hc
    · exact hc

@[simp] theorem State.completeCopy_wf (s : State) (blk q : Nat) (hs : memWf s.mem = true) : memWf (State.completeCopy s blk q).mem = true := by
  unfold State.completeCopy
  split
  · exact hs
  · rename_i o _
    split
    · split <;> simp [hs]
    · split
      · exact hs
      · split
        · exact hs
        · split
          · split <;> simp [hs]
          · split
            · split
              · rename_i d _ _ _ _ _ _ _ rows _
                have hl := State.landCopy_wf s o d rows hs
                dsimp only
                split
                · split
                  all_goals
                    rename_i he
                    have hd := (congrArg (fun p => p.1.mem) he).symm.trans (State.sendDirty_mem _ _ _ _)
                    dsimp only at hd
                    simp [hd, hl]
                · simp [hl]
              · simp [hs]
            · simp [hs]

@[simp] theorem State.devPut_wf (s : State) (vf va n v : Nat) (hs : memWf s.mem = true) : memWf (State.devPut s vf va n v).mem = true := by
  unfold State.devPut
  simp [hs, State.devWrite_wf]

@[simp] theorem State.abortInstance_wf (s : State) (k i cause rankx : Nat) (hs : memWf s.mem = true) :
    memWf (State.abortInstance s k i cause rankx).mem = true := by
  unfold State.abortInstance
  repeat' split
  all_goals simp [hs, State.homeWriteBytes_wf, State.devWrite_wf]

@[simp] theorem State.abortOrKeep_wf (s : State) (k i cause rankx : Nat) (hs : memWf s.mem = true) :
    memWf (State.abortOrKeep s k i cause rankx).mem = true := by
  unfold State.abortOrKeep
  repeat' split
  all_goals simp [hs]

@[simp] theorem State.abortOwn_wf (s : State) (l : Launch) (cause : Nat) (hs : memWf s.mem = true) : memWf (State.abortOwn s l cause).mem = true := by
  unfold State.abortOwn
  repeat' split
  all_goals simp [hs]

@[simp] theorem State.settleInstance_wf (s : State) (id i : Nat) (hs : memWf s.mem = true) : memWf (State.settleInstance s id i).mem = true := by
  unfold State.settleInstance
  repeat' split
  all_goals simp [hs, State.homeWriteBytes_wf]

@[simp] theorem State.closeComm_wf (s : State) (id : Nat) (hs : memWf s.mem = true) : memWf (State.closeComm s id).mem = true := by
  unfold State.closeComm
  split
  · exact hs
  · split <;> simp [hs, State.homeWriteBytes_wf]

@[simp] theorem State.closeIdle_wf (s : State) (hs : memWf s.mem = true) : memWf (State.closeIdle s).mem = true := by
  unfold State.closeIdle
  simp +contextual [hs, foldl_wf]

@[simp] theorem State.fireChunk_wf (s : State) (l : Launch) (k : Coll) (c : Nat) (cores : List Nat) (hs : memWf s.mem = true) :
    memWf (State.fireChunk s l k c cores).mem = true := by
  have hp := foldl_wf (fun t core => t.publish core 0 4 true) (fun t x ht => State.publish_wf t x 0 4 true ht) cores s hs
  unfold State.fireChunk
  dsimp only
  split
  · exact hp
  · split <;> simp [hp]

@[simp] theorem State.blockFires_wf (s : State) (l : Launch) (b : Block) (wlin : Nat) (hs : memWf s.mem = true) :
    memWf (State.blockFires s l b wlin).mem = true := by
  unfold State.blockFires
  dsimp only
  repeat' split
  all_goals simp [hs]

@[simp] theorem State.passThimble_wf (s : State) (w : Wave) (free : Bool) (hs : memWf s.mem = true) :
    memWf (State.passThimble s w free).mem = true := hs

@[simp] theorem State.dropTokens_wf (s : State) (c slot : Nat) (hs : memWf s.mem = true) : memWf (State.dropTokens s c slot).mem = true := hs

@[simp] theorem State.releaseRanges_wf (s : State) (vf : Nat) (rs : List Range) (hs : memWf s.mem = true) :
    memWf (State.releaseRanges s vf rs).mem = true := by
  unfold State.releaseRanges
  simp [hs, foldl_wf]

@[simp] theorem State.forgetLaunch_wf (s : State) (l : Nat) (hs : memWf s.mem = true) : memWf (State.forgetLaunch s l).mem = true := by
  unfold State.forgetLaunch
  split
  · exact hs
  · split <;> simp [hs]

@[simp] theorem State.taskState_wf (s : State) (g : Gang) (st : Nat) (hs : memWf s.mem = true) : memWf (State.taskState s g st).mem = true := by
  unfold State.taskState
  split <;> simp [hs]

@[simp] theorem State.endGang_wf (s : State) (g : Nat) (hs : memWf s.mem = true) : memWf (State.endGang s g).mem = true := by
  unfold State.endGang
  split
  · exact hs
  · split
    · exact hs
    · exact State.forgetLaunch_wf _ _ (foldl_wf _ (fun t x ht => State.tidy_wf t x ht) _ _ (by simp [hs, State.flushOverlay_wf]))

@[simp] theorem State.endBlock_wf (s : State) (blk wlin : Nat) (hs : memWf s.mem = true) : memWf (State.endBlock s blk wlin).mem = true := by
  unfold State.endBlock
  split
  · exact hs
  · refine State.endGang_wf _ _ ?_
    dsimp only
    split
    · simp [hs]
    · split
      · split <;> simp [hs]
      · simp [hs]

@[simp] theorem State.endWave_wf (s : State) (c slot : Nat) (hs : memWf s.mem = true) : memWf (State.endWave s c slot).mem = true := by
  unfold State.endWave
  split
  · exact hs
  · split
    · exact hs
    · extract_lets holds s1 s2 s3
      have h1 : memWf s1.mem = true := by
        unfold s1
        split <;> simp [hs]
      have h3 : memWf s3.mem = true := State.dropTokens_wf s1 c slot h1
      split
      · exact h3
      · exact State.endBlock_wf _ _ _ h3

@[simp] theorem State.settleEnds_wf (s : State) (hs : memWf s.mem = true) : memWf (State.settleEnds s).mem = true := by
  unfold State.settleEnds
  simp +contextual [hs, foldl_wf]

@[simp] theorem State.afterOp_wf (s : State) (blk : Nat) (hs : memWf s.mem = true) : memWf (State.afterOp s blk).mem = true := by
  unfold State.afterOp
  repeat' split
  all_goals simp [hs]

@[simp] theorem State.nextPhase_wf (s : State) (k : Nat) (w : Wave) (hs : memWf s.mem = true) : memWf (State.nextPhase s k w).mem = true := by
  unfold State.nextPhase
  split <;> simp [hs]

@[simp] theorem State.barCheck_wf (s : State) (k : Nat) (w : Wave) (hs : memWf s.mem = true) : memWf (State.barCheck s k w).mem = true := by
  unfold State.barCheck
  dsimp only
  split <;> simp [hs]

@[simp] theorem State.within_wf (s : State) (lanes : List Nat) (f : State → State) (hs : memWf s.mem = true)
    (hf : ∀ (x0 : State), memWf x0.mem = true → memWf (f x0).mem = true) :
    memWf (State.within s lanes f).mem = true := by
  unfold State.within
  simp [hs, hf]

@[simp] theorem State.afterPublish_wf (s : State) (sc : Nat) (k : State → State) (hs : memWf s.mem = true)
    (hk : ∀ (x0 : State), memWf x0.mem = true → memWf (k x0).mem = true) :
    memWf (State.afterPublish s sc k).mem = true := by
  unfold State.afterPublish
  dsimp only
  have hw : ∀ late, memWf ((s.drain s.cur.core s.cur.slot s.cur.lanes).within late (fun u =>
      if sc == 5 && ((s.drain s.cur.core s.cur.slot s.cur.lanes).publish s.cur.core 0 5 true).unsent then
        u.perLane false (fun _ t => .hold (if t.acc.isEmpty then t.issue u (.publish 5) (.phys 0) 0 else t) .drain)
      else u.holdAll .drain)).mem = true := by
    intro late
    refine State.within_wf _ _ _ (by simp [hs]) (fun u hu => ?_)
    split <;> simp [hu]
  split
  · exact hw _
  · split
    · exact hw _
    · exact State.within_wf _ _ _ (hw _) (fun u hu => hk _ (State.publish_wf _ _ _ _ _ hu))

@[simp] theorem State.afterAccesses_wf (s : State) (k : State → State) (hs : memWf s.mem = true)
    (hk : ∀ (x0 : State), memWf x0.mem = true → memWf (k x0).mem = true) :
    memWf (State.afterAccesses s k).mem = true := by
  unfold State.afterAccesses
  dsimp only
  repeat' split
  all_goals simp +contextual [hs, hk]

@[simp] theorem State.arrivalPhase_wf (s : State) (l k p : Nat) (hs : memWf s.mem = true) : memWf (State.arrivalPhase s l k p).1.mem = true := by
  unfold State.arrivalPhase
  split <;> simp [hs]

@[simp] theorem State.arrive_wf (s : State) (w : Wave) (k : Nat) (wait tack : Bool) (hs : memWf s.mem = true) :
    memWf (State.arrive s w k wait tack).mem = true := by
  unfold State.arrive
  refine State.barCheck_wf _ _ _ (foldl_wf _ (fun u l hu => ?_) _ _ hs)
  exact State.within_wf _ _ _ (State.arrivalPhase_wf _ _ _ _ hu) (fun v hv => by simp [hv])

@[simp] theorem arriveAt_keepsMem (l : BitVec 3) (wait t : Bool) (s : State) (hs : memWf s.mem = true) : Res.KeepsMem (arriveAt l wait t s) := by
  unfold arriveAt
  rw [Res.keepsMem_done]
  split
  · exact hs
  · rename_i w _
    extract_lets k s1 has bad good s2
    split
    · simp [hs]
    · have h1 : memWf s1.mem = true := State.flushFor_wf s w.core w.blk hs
      have h2 : memWf s2.mem = true := by
        unfold s2
        split
        · exact h1
        · exact State.within_wf _ _ _ h1 (fun u hu => by simp [hu])
      split
      · exact h2
      · exact State.within_wf _ _ _ h2 (fun u hu => State.afterPublish_wf _ _ _ hu (fun v hv => by simp [hv]))

theorem State.effectAgain_wf (s : State) (l : Nat) (v : Dword) (u : State) (hs : memWf s.mem = true) (h : s.effectAgain l = some (v, u)) :
    memWf u.mem = true := by
  unfold State.effectAgain at h
  split at h
  · cases h
    simpa using hs
  · exact absurd h nofun

@[simp] theorem State.onceLane_wf (s : State) (l : Nat) (old : State → Dword → State) (new : State → State) (hs : memWf s.mem = true)
    (hold : ∀ (x0 : State) (x1 : Dword), memWf x0.mem = true → memWf (old x0 x1).mem = true)
    (hnew : ∀ (x0 : State), memWf x0.mem = true → memWf (new x0).mem = true) :
    memWf (State.onceLane s l old new).mem = true := by
  unfold State.onceLane
  split
  · rename_i h
    exact hold _ _ (State.effectAgain_wf _ _ _ _ hs h)
  · exact hnew _ hs

@[simp] theorem State.oncePath_wf (s : State) (old : State → Nat → Dword → State) (new : State → State) (hs : memWf s.mem = true)
    (hold : ∀ (x0 : State) (x1 : Nat) (x2 : Dword), memWf x0.mem = true → memWf (old x0 x1 x2).mem = true)
    (hnew : ∀ (x0 : State), memWf x0.mem = true → memWf (new x0).mem = true) :
    memWf (State.oncePath s old new).mem = true := by
  unfold State.oncePath
  have hp : memWf ((s.cur.lanes.filter (fun l => (s.effectAgain l).isSome)).foldl (fun u l => u.onceLane l (fun v x => old v l x) id) s).mem = true :=
    foldl_wf _ (fun u l hu => State.onceLane_wf _ _ _ _ hu (fun v x hv => hold v l x hv) (fun v hv => hv)) _ _ hs
  dsimp only
  split
  · exact hp
  · exact State.within_wf _ _ _ hp hnew

@[simp] theorem State.lane1_wf (s : State) (l : Nat) (t : Bool) (hs : memWf s.mem = true) : memWf (State.lane1 s l t).mem = true := by
  unfold State.lane1
  simp [hs]

@[simp] theorem State.bobj_wf (s : State) (a : Nat) (tack : Bool) (f : State → Nat → Thread → Place → State) (hs : memWf s.mem = true)
    (hf : ∀ (x0 : State) (x1 : Nat) (x2 : Thread) (x3 : Place), memWf x0.mem = true → memWf (f x0 x1 x2 x3).mem = true) :
    memWf (State.bobj s a tack f).mem = true := by
  unfold State.bobj
  refine foldl_wf _ (fun u l hu => ?_) _ _ hs
  split
  · exact hu
  · split
    · exact hu
    · dsimp only
      split
      · exact State.onceLane_wf _ _ _ _ hu (fun v _ hv => State.lane1_wf _ _ _ hv) (fun v hv => hf v l _ _ hv)
      · exact State.within_wf _ _ _ hu (fun v hv => by simp [hv])

@[simp] theorem State.laneDone_wf (s : State) (l : Nat) (t : Bool) (hs : memWf s.mem = true) : memWf (State.laneDone s l t).mem = true := by
  unfold State.laneDone
  simp [hs, State.logEffect_mem]

@[simp] theorem State.meet_wf (s : State) (hs : memWf s.mem = true) : memWf (State.meet s).mem = true := hs

@[simp] theorem State.tendPublish_wf (s : State) (blk : Nat) (hs : memWf s.mem = true) : memWf (State.tendPublish s blk).mem = true := by
  unfold State.tendPublish
  repeat' split
  all_goals simp [hs, State.publish_wf]

@[simp] theorem State.afterExit_wf (s : State) (w : Wave) (hs : memWf s.mem = true) : memWf (State.afterExit s w).mem = true := by
  unfold State.afterExit
  exact State.tendPublish_wf _ _ (State.meet_wf _ (foldl_wf _ (fun u k hu => State.barCheck_wf _ _ _ hu) _ _ (State.settle_wf _ _ _ hs)))

@[simp] theorem State.drainWaves_wf (s : State) (p : Wave → Bool) (hs : memWf s.mem = true) : memWf (State.drainWaves s p).mem = true := by
  unfold State.drainWaves
  simp +contextual [hs, foldl_wf]

@[simp] theorem State.dropMismatches_wf (s : State) (p : Wave → Bool) (hs : memWf s.mem = true) : memWf (State.dropMismatches s p).mem = true := by
  unfold State.dropMismatches
  exact foldl_wf _ (fun t w ht => foldl_wf _ (fun u x hu => by simp [hu]) _ _ ht) _ _ hs

@[simp] theorem State.stopWaves_wf (s : State) (p : Wave → Bool) (hs : memWf s.mem = true) : memWf (State.stopWaves s p).mem = true := hs

@[simp] theorem State.restoreMma_wf (s : State) (c : Nat) (gang : Nat) (m : SavedMma) (hs : memWf s.mem = true) :
    memWf (State.restoreMma s c gang m).mem = true := by
  unfold State.restoreMma
  simp [hs, State.writePlace_mem, foldl_wf]

@[simp] theorem State.retry_wf (s : State) (c slot : Nat) (hs : memWf s.mem = true) : memWf (State.retry s c slot).mem = true := by
  unfold State.retry
  repeat' split
  all_goals simp +contextual [hs, foldl_wf]

@[simp] theorem State.doneRecord_wf (s : State) (vf : Nat) (done : Dword) (status reason cls : Nat) (code : Word) (xpc : Dword) (tstart : Option Nat)
    (hs : memWf s.mem = true) :
    memWf (State.doneRecord s vf done status reason cls code xpc tstart).mem = true := by
  unfold State.doneRecord
  dsimp only
  refine State.devPut_wf _ _ _ _ _ (State.devPut_wf _ _ _ _ _ ?_)
  split
  · exact State.devPut_wf _ _ _ _ _ (State.devPut_wf _ _ _ _ _ (State.devPut_wf _ _ _ _ _ (by simp [hs])))
  · exact State.devPut_wf _ _ _ _ _ (State.devPut_wf _ _ _ _ _ (by simp [hs]))

@[simp] theorem State.closePublish_wf (s : State) (l : Launch) (hs : memWf s.mem = true) : memWf (State.closePublish s l).1.mem = true := by
  unfold State.closePublish
  dsimp only
  repeat' split
  all_goals simp +contextual [hs, State.publish_wf, State.sendDirty_mem, foldl_wf]

@[simp] theorem State.dropFaults_wf (s : State) (p : Wave → Bool) (hs : memWf s.mem = true) : memWf (State.dropFaults s p).mem = true := hs

@[simp] theorem State.freeLaunch_wf (s : State) (l : Nat) (hs : memWf s.mem = true) : memWf (State.freeLaunch s l).mem = true := by
  unfold State.freeLaunch
  refine State.forgetLaunch_wf _ _ (foldl_wf _ (fun t g ht => State.endGang_wf t g ht) _ _ ?_)
  refine foldl_wf _ (fun t b ht => by simp [ht]) _ _ ?_
  refine (congrArg memWf (State.onLaunch_mem _ _ _)).trans (foldl_wf _ (fun t w ht => by simp [ht]) _ _ ?_)
  exact foldl_wf _ (fun t w ht => by simp [ht]) _ _ (by simp [hs])

@[simp] theorem State.finishAbort_wf (s : State) (l : Nat) (hs : memWf s.mem = true) : memWf (State.finishAbort s l).mem = true := by
  unfold State.finishAbort
  split
  · exact hs
  · rename_i x _
    have hp := State.closePublish_wf s x hs
    split
    · exact hs
    · split
      · exact hs
      · split
        all_goals
          rename_i he
          rw [he] at hp
        · exact hp
        · exact State.closeIdle_wf _ (State.freeLaunch_wf _ _ (by simp [hp]))

@[simp] theorem State.abortLaunch_wf (s : State) (l cls : Nat) (code : Word) (xpc : Dword) (hs : memWf s.mem = true) :
    memWf (State.abortLaunch s l cls code xpc).mem = true := by
  unfold State.abortLaunch
  split
  · exact hs
  · split
    · exact hs
    · refine State.finishAbort_wf _ _ (foldl_wf _ (fun t c ht => by simp [ht]) _ _ ?_)
      refine State.stopWaves_wf _ _ (State.drainWaves_wf _ _ (State.dropMismatches_wf _ _ (State.cancelCopies_wf _ _ ?_)))
      simp [hs]

@[simp] theorem State.onSaved_wf (s : State) (p : (Nat × Nat) → Wave → Bool) (f : Wave → Wave) (hs : memWf s.mem = true) :
    memWf (State.onSaved s p f).mem = true := hs

@[simp] theorem State.unwind_wf (s : State) (w : Wave) (r : Region) (hs : memWf s.mem = true) : memWf (State.unwind s w r).mem = true := by
  have h1 := State.drainWaves_wf (s.dropMismatches (fun v => s.sameGroup r.level w v)) (fun v => s.sameGroup r.level w v)
    (State.dropMismatches_wf s _ hs)
  unfold State.unwind
  dsimp only
  split
  · exact hs
  · split
    · simp [h1]
    · exact foldl_wf _ (fun t v ht => by simp [ht, State.refresh_mem]) _ _ (by simp [h1])

@[simp] theorem State.requestStop_wf (s : State) (p : Gang → Bool) (hs : memWf s.mem = true) : memWf (State.requestStop s p).mem = true := by
  unfold State.requestStop
  simp +contextual [hs, foldl_wf]

@[simp] theorem State.hold_wf (s : State) (p : Gang → Bool) (hs : memWf s.mem = true) : memWf (State.hold s p).mem = true := hs

@[simp] theorem State.preempt_wf (s : State) (gs : List Nat) (hs : memWf s.mem = true) : memWf (State.preempt s gs).mem = true := by
  unfold State.preempt
  simp [hs]

@[simp] theorem State.endChecks_wf (s : State) (c pn : Nat) (hs : memWf s.mem = true) : memWf (State.endChecks s c pn).mem = true := hs

@[simp] theorem State.activate_wf (s : State) (w : Wave) (hs : memWf s.mem = true) : memWf (State.activate s w).mem = true := hs

@[simp] theorem State.displace_wf (s : State) (w : Wave) (hs : memWf s.mem = true) : memWf (State.displace s w).mem = true := hs

@[simp] theorem State.makeRoom_wf (s : State) (c pn need : Nat) (may : State → Wave → Bool) (y0 : Nat) (hs : memWf s.mem = true) :
    memWf (State.makeRoom s c pn need may y0).mem = true := by
  induction y0 generalizing s with
  | zero => exact hs
  | succ fuel ih =>
    unfold State.makeRoom
    split
    · exact hs
    · dsimp only
      split
      · exact hs
      · exact ih _ (State.displace_wf _ _ hs)

@[simp] theorem State.bringIn_wf (s : State) (w : Wave) (hs : memWf s.mem = true) : memWf (State.bringIn s w).mem = true := by
  unfold State.bringIn
  dsimp only
  split <;> simp [hs]

@[simp] theorem State.forceIn_wf (s : State) (c pn : Nat) (hs : memWf s.mem = true) : memWf (State.forceIn s c pn).mem = true := by
  unfold State.forceIn
  split
  · exact hs
  · split <;> simp [hs]

@[simp] theorem State.swapWaves_wf (s : State) (a p : Wave) (hs : memWf s.mem = true) : memWf (State.swapWaves s a p).mem = true := by
  unfold State.swapWaves
  have hm := State.makeRoom_wf (s.displace a) a.core (a.slot / 32) p.slots (fun t v => !t.hasReady v) 8 (State.displace_wf s a hs)
  dsimp only
  split
  · exact State.activate_wf _ _ hm
  · exact hs

@[simp] theorem State.promote_wf (s : State) (c pn : Nat) (hs : memWf s.mem = true) : memWf (State.promote s c pn).mem = true := by
  unfold State.promote
  split
  · exact hs
  · split <;> simp [hs]

@[simp] theorem State.promoteAll_wf (s : State) (c pn : Nat) (y0 : Nat) (hs : memWf s.mem = true) :
    memWf (State.promoteAll s c pn y0).mem = true := by
  induction y0 generalizing s with
  | zero => exact hs
  | succ fuel ih => exact ih _ (State.promote_wf _ _ _ hs)

@[simp] theorem State.ageAfter_wf (s : State) (w : Wave) (went : List Nat) (t : State) (hs : memWf s.mem = true) (ht : memWf t.mem = true) :
    memWf (State.ageAfter s w went t).mem = true := by
  unfold State.ageAfter
  simp [ht]

@[simp] theorem State.settleAges_wf (s : State) (hs : memWf s.mem = true) : memWf (State.settleAges s).mem = true := hs

@[simp] theorem readOutside_wf (d n : Nat) (t : Bool) (s : State) (hs : memWf s.mem = true) : memWf (readOutside d n t s).mem = true := by
  unfold readOutside
  refine State.withRegs_wf _ _ _ hs (foldl_wf _ (fun u l hu => ?_) _ _ hs)
  split
  · split
    · exact State.within_wf _ _ _ (State.outside_wf _ _ _ hu) (fun k hk => by simp [hk])
    · exact hu
  · exact hu

@[simp] theorem State.sampleRecord_wf (s : State) (c : Nat) (r : SampleRec) (hs : memWf s.mem = true) :
    memWf (State.sampleRecord s c r).mem = true := by
  unfold State.sampleRecord
  dsimp only
  split <;> simp [hs, State.homeWriteBytes_wf]

@[simp] theorem readCount_keepsMem (d : Reg) (t : Bool) (v : Dword) (s : State) (hs : memWf s.mem = true) : Res.KeepsMem (readCount d t v s) := by
  unfold readCount
  rw [Res.keepsMem_done]
  refine State.withRegs_wf _ _ _ hs (foldl_wf _ (fun u l hu => ?_) _ _ hs)
  exact State.within_wf _ _ _ (State.outside_wf _ _ _ hu) (fun k hk => by simp [hk])

@[simp] theorem State.placeTenant_wf (s : State) (c gang : Nat) (p : Place) (n : Nat) (hs : memWf s.mem = true) :
    memWf (State.placeTenant s c gang p n).mem = true := by
  unfold State.placeTenant
  split <;> simp [hs, State.placeOwn_wf]

@[simp] theorem State.tenantPut_wf (s : State) (c gang : Nat) (p : Place) (n v : Nat) (hs : memWf s.mem = true) :
    memWf (State.tenantPut s c gang p n v).mem = true := by
  unfold State.tenantPut
  split
  · exact State.strikeChunks_wf _ _ (State.memoWrite_wf _ _ _ _ _ _ _ (State.breach_wf _ _ hs))
  · simp [hs, State.padWrite_mem]

@[simp] theorem State.badLane_wf (s : State) (w : Wave) (l : Nat) (t : Thread) (va : Dword) (r : Resolve) (hs : memWf s.mem = true) :
    memWf (State.badLane s w l t va r).mem = true := by
  unfold State.badLane
  split <;> simp [hs]

@[simp] theorem State.edgeLanes_wf (s : State) (a : Nat) (align : Nat) (write : Bool) (f : State → Wave → Nat → Thread → Place → State)
    (again : State → Nat → Dword → State) (hs : memWf s.mem = true)
    (hf : ∀ (x0 : State) (x1 : Wave) (x2 : Nat) (x3 : Thread) (x4 : Place), memWf x0.mem = true → memWf (f x0 x1 x2 x3 x4).mem = true)
    (hagain : ∀ (x0 : State) (x1 : Nat) (x2 : Dword), memWf x0.mem = true → memWf (again x0 x1 x2).mem = true) :
    memWf (State.edgeLanes s a align write f again).mem = true := by
  unfold State.edgeLanes
  refine foldl_wf _ (fun u l hu => ?_) _ _ hs
  split
  · exact hu
  · split
    · exact hu
    · dsimp only
      split
      · exact State.onceLane_wf _ _ _ _ hu (fun v x hv => hagain v l x hv) (fun v hv => hf _ _ _ _ _ (State.touch_wf _ _ _ _ _ hv))
      · exact State.badLane_wf _ _ _ _ _ _ hu

@[simp] theorem State.spoilEdge_wf (s : State) (c gang : Nat) (p : Place) (l : Nat) (hs : memWf s.mem = true) :
    memWf (State.spoilEdge s c gang p l).mem = true := by
  unfold State.spoilEdge
  exact State.tenantPut_wf _ _ _ _ _ _ (State.tenantPut_wf _ _ _ _ _ _ (State.tenantPut_wf _ _ _ _ _ _ hs))

@[simp] theorem State.spawnStep_wf (s : State) (w : Wave) (desc : Place) (d a : Nat) (t : Bool) (offer : List Nat) (hs : memWf s.mem = true) :
    memWf (State.spawnStep s w desc d a t offer).mem = true := by
  unfold State.spawnStep
  extract_lets g s0 ring cap head tail free slot
  have h0 : memWf s0.mem = true := by simp [s0, hs]
  refine State.tenantPut_wf _ _ _ _ _ _ ?_
  refine List.foldlRecOn (motive := fun p : State × Nat => memWf p.1.mem = true) _ _ h0 (fun p hp l _ => ?_)
  dsimp only
  split
  · exact hp
  · split
    · split
      · exact (congrArg memWf (State.effectOut_mem _ _ _ _ _)).trans (foldl_wf _ (fun v i hv => State.tenantPut_wf _ _ _ _ _ _ hv) _ _ hp)
      · exact State.badLane_wf _ _ _ _ _ _ hp
    · exact (congrArg memWf (State.effectOut_mem _ _ _ _ _)).trans hp

@[simp] theorem State.admitOne_wf (s : State) (vf b n : Nat) (tag : Word) (hs : memWf s.mem = true) :
    memWf (State.admitOne s vf b n tag).1.mem = true := by
  unfold State.admitOne
  dsimp only
  repeat' split
  all_goals simp [hs]

@[simp] theorem State.placeRecord_wf (s : State) (q : Submit) (hs : memWf s.mem = true) : memWf (State.placeRecord s q).mem = true := by
  unfold State.placeRecord
  exact State.devPut_wf _ _ _ _ _ (State.devWrite_wf _ _ _ _ (State.devWrite_wf _ _ _ _ hs))

@[simp] theorem State.placeReady_wf (s : State) (hs : memWf s.mem = true) : memWf (State.placeReady s).mem = true := by
  unfold State.placeReady
  simp +contextual [hs, foldl_wf]

@[simp] theorem State.submit_wf (s : State) (vf va : Nat) (hs : memWf s.mem = true) : memWf (State.submit s vf va).mem = true := by
  unfold State.submit
  simp [hs]

@[simp] theorem State.retireTcb_wf (s : State) (gs : List Nat) (vf tcb : Nat) (hs : memWf s.mem = true) :
    memWf (State.retireTcb s gs vf tcb).mem = true := by
  unfold State.retireTcb
  refine foldl_wf _ (fun u i hu => ?_) _ _ hs
  dsimp only
  split
  · exact hu
  · have ha := fun n v => State.asContexts_wf u gs ((List.range 4).map (fun k => u.devAddr vf (BitVec.ofNat 64 (n + k)) true))
      (fun x => x.devPut vf n 4 v) hu (fun x hx => State.devPut_wf _ _ _ _ _ hx)
    split <;> simp [ha]

@[simp] theorem State.freshen_wf (s : State) (c pa n : Nat) (hs : memWf s.mem = true) : memWf (State.freshen s c pa n).mem = true := hs

end Sys2Proof.Machine
end

section
/-! PROOFS. Memory stays in its canonical form, III: copies and matrix operations that issue, evictions, the dispatcher, the array, and saved gangs. -/

namespace Sys2Proof.Machine
open Sys2Proof.Claims

theorem memWf_optionFold {α : Type} {f : Option State → α → Option State}
    (hf : ∀ o x, (∀ u, o = some u → memWf u.mem = true) → ∀ u, f o x = some u → memWf u.mem = true) (l : List α) {o : Option State}
    (ho : ∀ u, o = some u → memWf u.mem = true) : ∀ u, l.foldl f o = some u → memWf u.mem = true :=
  List.foldlRecOn (motive := fun o => ∀ u, o = some u → memWf u.mem = true) l f ho (fun _ ht x _ => hf _ x ht)

theorem memWf_of_eq {s t : State} (h : s = t) (ht : memWf t.mem = true) : memWf s.mem = true := h ▸ ht

theorem foldl_foldl_wf {α β : Type} {f : State → α → β → State} {m : List β} (l : List α)
    (hf : ∀ s a b, memWf s.mem = true → memWf (f s a b).mem = true)
    (s : State) (h : memWf s.mem = true) : memWf (l.foldl (fun t a => m.foldl (fun u b => f u a b) t) s).mem = true :=
  foldl_wf _ (fun t a ht => foldl_wf _ (fun u b hu => hf u a b hu) m t ht) l s h

@[simp] theorem State.checked_wf {α : Type} (s : State) (c : Chk α) (k : α → State) (hs : memWf s.mem = true)
    (hk : ∀ (x0 : α), memWf (k x0).mem = true) :
    memWf (State.checked s c k).mem = true := by
  unfold State.checked
  split <;> simp [hs, hk]

@[simp] theorem State.pend_wf (s : State) (tok : Nat) (hs : memWf s.mem = true) : memWf (State.pend s tok).mem = true := by
  unfold State.pend
  split <;> simp [hs]

@[simp] theorem State.withQueue_wf (s : State) (q : Nat) (k : Wave → State) (hs : memWf s.mem = true) (hk : ∀ (x0 : Wave), memWf (k x0).mem = true) :
    memWf (State.withQueue s q k).mem = true := by
  unfold State.withQueue
  repeat' split
  all_goals simp [hs, hk]

@[simp] theorem State.enterCopy_wf (s : State) (w : Wave) (q tok : Nat) (ds : List CopyDesc) (t : Bool) (hs : memWf s.mem = true) :
    memWf (State.enterCopy s w q tok ds t).mem = true := by
  unfold State.enterCopy
  simp [hs, State.gauge_mem]

@[simp] theorem copyForm_keepsMem (form : Nat) (q : BitVec 3) (k sb : BitVec 6) (t : Bool) (s : State) (hs : memWf s.mem = true) :
    Res.KeepsMem (copyForm form q k sb t s) := by
  unfold copyForm
  rw [Res.keepsMem_done]
  refine State.withTokens_wf _ _ _ hs (State.withQueue_wf _ _ _ hs (fun w => State.afterAccesses_wf _ _ hs (fun u hu => ?_)))
  exact State.checked_wf _ _ _ hu (fun d => State.enterCopy_wf _ _ _ _ _ _ hu)

@[simp] theorem State.rewrite_wf (s : State) (c cls : Nat) (rules : List (Nat × List Byte)) (y0 : Nat) (hs : memWf s.mem = true) :
    memWf (State.rewrite s c cls rules y0).mem = true := by
  induction y0 generalizing s with
  | zero => exact hs
  | succ fuel ih =>
    unfold State.rewrite
    dsimp only
    split
    · exact hs
    · exact ih _ (by simp [hs])

@[simp] theorem State.tokenValue_wf (s : State) (t : Token) (pleat : Nat) (hs : memWf s.mem = true) :
    memWf (State.tokenValue s t pleat).mem = true := by
  unfold State.tokenValue
  simp [hs]

@[simp] theorem State.settleVoids_wf (s : State) (c : Nat) (hs : memWf s.mem = true) : memWf (State.settleVoids s c).mem = true := by
  unfold State.settleVoids
  simp +contextual [hs, foldl_wf]

@[simp] theorem State.passReset_wf (s : State) (c : Nat) (zero : Bool) (reset : Option Latch) (hs : memWf s.mem = true) :
    memWf (State.passReset s c zero reset).mem = true := by
  unfold State.passReset
  split <;> simp [hs]

@[simp] theorem State.refusePleat_wf (s : State) (c : Nat) (o : MatOp) (hs : memWf s.mem = true) : memWf (State.refusePleat s c o).mem = true := by
  unfold State.refusePleat
  exact State.dueThrow_wf _ _ _ _ _ _ _ (foldl_wf _ (fun t k ht => State.writeToken_wf _ _ _ _ ht) _ _ (by simp [hs]))

@[simp] theorem State.queueEntry_wf (s : State) (c : Nat) (zero : Bool) (o : MatOp) (hs : memWf s.mem = true) :
    memWf (State.queueEntry s c zero o).mem = true := by
  have hr := State.refusePleat_wf s c o hs
  unfold State.queueEntry
  extract_lets push
  have hpush (t : State) (x : MatOp) (ht : memWf t.mem = true) : memWf (push t x).mem = true := by simp [push, ht]
  split
  · exact hpush _ _ hs
  · split
    · exact hpush _ _ (by simp [hs])
    · split
      · exact hpush _ _ hs
      · extract_lets found
        have hfound (t : State) (p : Nat) (b : Bool) (ht : memWf t.mem = true) : memWf (found t p b).mem = true := by
          simp [found, push, ht]
        split
        · exact hfound _ _ _ hs
        · have hvoid : memWf ((((s.refusePleat c o).passReset c zero o.reset).settleVoids c).tidy c).mem = true :=
            State.tidy_wf _ _ (State.settleVoids_wf _ _ (by simp [hr]))
          split <;> split <;> simp [hfound, hvoid, hs]

@[simp] theorem State.windowLeave_wf (s : State) (c : Nat) (hs : memWf s.mem = true) : memWf (State.windowLeave s c).mem = true := by
  unfold State.windowLeave
  dsimp only
  split
  · exact hs
  · split <;> simp [hs]

@[simp] theorem State.leaveTo_wf (s : State) (c n : Nat) (y0 : Nat) (hs : memWf s.mem = true) : memWf (State.leaveTo s c n y0).mem = true := by
  induction y0 generalizing s with
  | zero => exact hs
  | succ fuel ih =>
    unfold State.leaveTo
    split
    · exact hs
    · exact ih _ (State.windowLeave_wf _ _ hs)

@[simp] theorem State.leaveAll_wf (s : State) (c fuel : Nat) (hs : memWf s.mem = true) : memWf (State.leaveAll s c fuel).mem = true := by
  unfold State.leaveAll
  simp [hs]

@[simp] theorem State.matArrive_wf (s : State) (c : Nat) (o : MatOp) (hs : memWf s.mem = true) : memWf (State.matArrive s c o).mem = true := by
  unfold State.matArrive
  split
  · exact State.queueEntry_wf _ _ _ _ hs
  · refine State.leaveTo_wf _ _ _ _ (State.settleVoids_wf _ _ (State.rewrite_wf _ _ _ _ _ ?_))
    simp [State.leaveTo_wf s c 15 20 hs]

@[simp] theorem State.overdue_wf (s : State) (c : Nat) (hs : memWf s.mem = true) : memWf (State.overdue s c).mem = true := by
  unfold State.overdue
  dsimp only
  split <;> simp [hs]

@[simp] theorem State.withThimble_wf (s : State) (k : Wave → State) (hs : memWf s.mem = true) (hk : ∀ (x0 : Wave), memWf (k x0).mem = true) :
    memWf (State.withThimble s k).mem = true := by
  unfold State.withThimble
  repeat' split
  all_goals simp [hs, hk]

@[simp] theorem State.enterMat_wf (s : State) (w : Wave) (f6 tok : Nat) (ops : List (Nat × List Word)) (table : List (Nat × List Word)) (nm : Named)
    (t : Bool) (hs : memWf s.mem = true) :
    memWf (State.enterMat s w f6 tok ops table nm t).mem = true := by
  unfold State.enterMat
  dsimp only
  repeat' split
  all_goals simp [hs, State.gauge_mem]

@[simp] theorem State.spoil_wf (s : State) (c id row byte : Nat) (hs : memWf s.mem = true) : memWf (State.spoil s c id row byte).mem = true := hs

@[simp] theorem State.issueMat_wf (s : State) (w : Wave) (f6 : Nat) (k : BitVec 6) (t : Bool) (parse : State → Wave → Chk Parsed)
    (hs : memWf s.mem = true) :
    memWf (State.issueMat s w f6 k t parse).mem = true := by
  unfold State.issueMat
  split <;> simp [hs]

@[simp] theorem matrix_keepsMem (f6 : Nat) (toks : List Nat) (k : BitVec 6) (t : Bool) (parse : State → Wave → Chk Parsed) (s : State)
    (hs : memWf s.mem = true) :
    Res.KeepsMem (matrix f6 toks k t parse s) := by
  unfold matrix
  rw [Res.keepsMem_done]
  refine State.withTokens_wf _ _ _ hs (State.withThimble_wf _ _ hs (fun w => ?_))
  split
  · simp [hs]
  · exact State.afterAccesses_wf _ _ hs (fun u hu => by simp [hu])

theorem State.readColl_wf (s : State) (vf : Nat) (p : Prog) (u : State) (k : Option Coll) (hs : memWf s.mem = true)
    (h : s.readColl vf p = .ok (u, k)) :
    memWf u.mem = true := by
  unfold State.readColl at h
  split at h
  · cases h
    exact hs
  · extract_lets bs kk ds c opn en cm inRange done_ past active id s1 cm1 at h
    have h1 : memWf s1.mem = true := State.homeWriteBytes_wf none _ s _ hs
    clear_value s1
    split at h
    · exact absurd h nofun
    · split at h
      · exact absurd h nofun
      · cases hopn : opn
        all_goals
          rw [hopn] at h
          have hu := (Prod.mk.inj (Except.ok.inj h)).1
        · rw [← hu]
          exact h1
        · rw [← hu]
          exact hs

@[simp] theorem State.setFrame_wf (s : State) (l : Leaf) (frame : Nat) (hs : memWf s.mem = true) : memWf (State.setFrame s l frame).mem = true := by
  unfold State.setFrame
  simp [hs, State.homeWriteBytes_wf]

@[simp] theorem State.bringBack_wf (s : State) (vf : Nat) (r : Range) (hs : memWf s.mem = true) : memWf (State.bringBack s vf r).mem = true := by
  unfold State.bringBack
  refine foldl_wf _ (fun t m ht => ?_) _ _ hs
  split
  · split <;> simp [ht]
  · exact ht

@[simp] theorem State.lease1_wf (s : State) (vf : Nat) (r : Range) (hs : memWf s.mem = true) : memWf (State.lease1 s vf r).mem = true := by
  unfold State.lease1
  repeat' split
  all_goals simp +contextual [hs, foldl_wf]

@[simp] theorem State.settleWork_wf (s : State) (hs : memWf s.mem = true) : memWf (State.settleWork s).mem = true := by
  unfold State.settleWork
  refine foldl_wf _ (fun t p ht => ?_) _ _ hs
  split
  · exact ht
  · exact foldl_wf _ (fun u d hu => State.devWrite_wf _ _ _ _ hu) _ _ (by simp [ht])

@[simp] theorem State.evictFor_wf (s : State) (vf : Nat) (rs : List Range) (up : List (List Range)) (y0 : Nat) (hs : memWf s.mem = true) :
    memWf (State.evictFor s vf rs up y0).mem = true := by
  induction y0 generalizing s with
  | zero => exact hs
  | succ fuel ih =>
    unfold State.evictFor
    dsimp only
    split
    · exact hs
    · split
      · exact hs
      · exact ih _ hs

@[simp] theorem State.tryLease_wf (s : State) (vf : Nat) (rs : List Range) (hs : memWf s.mem = true) :
    memWf (State.tryLease s vf rs).1.mem = true := by
  unfold State.tryLease
  repeat' split
  all_goals simp +contextual [hs, foldl_wf]

@[simp] theorem State.leaseLaunch_wf (s : State) (l : Nat) (hs : memWf s.mem = true) : memWf (State.leaseLaunch s l).mem = true := by
  unfold State.leaseLaunch
  dsimp only
  repeat' split
  all_goals simp [hs]

@[simp] theorem State.leaseTemplate_wf (s : State) (l k : Nat) (hs : memWf s.mem = true) : memWf (State.leaseTemplate s l k).mem = true := by
  unfold State.leaseTemplate
  dsimp only
  repeat' split
  all_goals simp [hs]

@[simp] theorem State.sendAway_wf (s : State) (vf : Nat) (r : Range) (hs : memWf s.mem = true) : memWf (State.sendAway s vf r).mem = true := by
  unfold State.sendAway
  refine foldl_wf _ (fun t p ht => ?_) _ _ hs
  split
  · split
    · exact State.setFrame_wf _ _ _ ht
    · exact ht
  · exact ht

theorem State.addWave_wf (s : State) (w : Wave) (pn : Nat) (lined starting : Bool) (hs : memWf s.mem = true) (u : State)
    (hu : State.addWave s w pn lined starting = some u) :
    memWf u.mem = true := by
  unfold State.addWave at hu
  extract_lets c need zero lowRoom mine mine_ at hu
  split at hu
  · split at hu
    · exact absurd hu nofun
    · extract_lets w1 s1 s2 at hu
      have h1 : memWf s1.mem = true := hs
      have h2 : memWf s2.mem = true := by
        unfold s2
        split
        · exact State.makeRoom_wf _ _ _ _ _ _ h1
        · exact h1
      split at hu
      · rw [← Option.some.inj hu]
        exact h1
      · rw [← Option.some.inj hu]
        split <;> simp [h2]
  · exact absurd hu nofun

theorem State.addBlock_wf (s : State) (vf : Nat) (zero : Bool) (r : LaunchRec) (b : Block) (rot : Nat) (ws : List Wave) (starting : Bool)
    (hs : memWf s.mem = true) (u : State) (hu : State.addBlock s vf zero r b rot ws starting = some u) :
    memWf u.mem = true := by
  unfold State.addBlock at hu
  split at hu
  · exact absurd hu nofun
  · refine memWf_optionFold (fun o i ho u hu => ?_) _ (fun u hu => ?_) u hu
    · split at hu
      · exact State.addWave_wf _ _ _ _ _ (ho _ rfl) _ hu
      · exact absurd hu nofun
    · cases hu
      exact hs

@[simp] theorem State.blockReady_wf (s : State) (l : Launch) (tmpl : Nat) (r : LaunchRec) (b : Block) (wlin : Nat) (hs : memWf s.mem = true) :
    memWf (State.blockReady s l tmpl r b wlin).mem = true := by
  unfold State.blockReady
  dsimp only
  repeat' split
  all_goals simp [hs, State.refresh_mem]

theorem State.addBlocks_wf (s : State) (l : Launch) (p : Prog) (gang gi : Nat) (args : List Word) (place : List Nat) (hs : memWf s.mem = true)
    (u : State) (hu : State.addBlocks s l p gang gi args place = some u) :
    memWf u.mem = true := by
  unfold State.addBlocks at hu
  refine memWf_optionFold (fun o i ho u hu => ?_) _ (fun u hu => ?_) u hu
  · split at hu
    · rename_i t e _
      exact State.addBlock_wf { t with ids := t.ids + 1 } _ _ _ _ _ _ _ (ho t rfl) _ hu
    · exact absurd hu nofun
  · cases hu
    exact hs

@[simp] theorem State.writeTask_wf (s : State) (vf : Nat) (p : Prog) (g : Gang) (tries : Nat) (hs : memWf s.mem = true) :
    memWf (State.writeTask s vf p g tries).mem = true := by
  unfold State.writeTask
  simp [hs, State.devWrite_wf]

@[simp] theorem State.newGang_wf (s : State) (l : Launch) (tmpl gi : Nat) (args : List Word) (edge : Option Nat) (taskRec : Nat)
    (hs : memWf s.mem = true) :
    memWf (State.newGang s l tmpl gi args edge taskRec).mem = true := hs

theorem State.startGang_wf (s : State) (l : Launch) (tmpl gi : Nat) (args : List Word) (edge : Option Nat) (place : List Nat)
    (hs : memWf s.mem = true) (u : State) (hu : State.startGang s l tmpl gi args edge place = some u) :
    memWf u.mem = true := by
  unfold State.startGang at hu
  dsimp only at hu
  split at hu
  · split at hu
    · exact absurd hu nofun
    · rename_i s2 hb
      have h2 := State.addBlocks_wf _ _ _ _ _ _ _ (by simp [hs]) s2 hb
      have h3 := foldl_wf (fun t b => t.blockReady l tmpl (l.progOf tmpl).lrec b ((gi * (l.progOf tmpl).lrec.blocksPerGang + b.index) * (l.progOf tmpl).lrec.wavesPerBlock))
        (fun t b ht => State.blockReady_wf t _ _ _ _ _ ht) (s2.blocksOf s.ids) s2 h2
      cases hu
      split <;> split <;> simp [h3]
  · exact absurd hu nofun

theorem State.startTask_wf (s : State) (l : Launch) (k : Nat) (args : List Word) (edge only : Option Nat) (hs : memWf s.mem = true) (u : State)
    (hu : State.startTask s l k args edge only = some u) :
    memWf u.mem = true := by
  unfold State.startTask at hu
  split at hu
  · exact absurd hu nofun
  · obtain ⟨place, _, hp⟩ := Option.bind_eq_some_iff.mp hu
    exact State.startGang_wf _ _ _ _ _ _ _ hs _ hp

@[simp] theorem State.startConsumer_wf (s : State) (l e : Nat) (drain : Bool) (hs : memWf s.mem = true) :
    memWf (State.startConsumer s l e drain).mem = true := by
  unfold State.startConsumer
  split
  · exact hs
  · split
    · exact hs
    · split
      · exact hs
      · have hl := fun k => State.leaseTemplate_wf s l k hs
        dsimp only
        split
        · exact hl _
        · rename_i ht
          obtain ⟨y, _, hy⟩ := Option.bind_eq_some_iff.mp ht
          exact State.devWrite_wf _ _ _ _ (State.startTask_wf _ _ _ _ _ _ (hl _) _ hy)

@[simp] theorem State.openInstance_wf (s : State) (vf l : Nat) (k : Option Coll) (hs : memWf s.mem = true) :
    memWf (State.openInstance s vf l k).mem = true := by
  unfold State.openInstance
  repeat' split
  all_goals simp [hs]

@[simp] theorem State.refuse_wf (s : State) (vf : Nat) (r : LaunchRec) (reason : Nat) (hs : memWf s.mem = true) :
    memWf (State.refuse s vf r reason).mem = true := by
  unfold State.refuse
  simp [hs]

@[simp] theorem State.admitRecord_wf (s : State) (since vf cls va : Nat) (bs : List Byte) (hs : memWf s.mem = true) :
    memWf (State.admitRecord s since vf cls va bs).mem = true := by
  have hr := fun n => State.refuse_wf s vf (recOfBytes bs) n hs
  unfold State.admitRecord
  dsimp only
  split
  · exact hr _
  · split
    · exact hr _
    · exact hr _
    · exact hr _
    · split
      · exact hr _
      · split
        · exact hr _
        · rename_i hc
          simp [State.readColl_wf _ _ _ _ _ hs hc]

@[simp] theorem State.settleVisible_wf (s : State) (hs : memWf s.mem = true) : memWf (State.settleVisible s).mem = true := hs

@[simp] theorem State.openInterval_wf (s : State) (g : Nat) (restart : Bool) (hs : memWf s.mem = true) :
    memWf (State.openInterval s g restart).mem = true := hs

@[simp] theorem State.refill_wf (s : State) (vf b times : Nat) (hs : memWf s.mem = true) : memWf (State.refill s vf b times).mem = true := by
  unfold State.refill
  simp [hs]

@[simp] theorem State.refillsSince_wf (s : State) (t0 : Nat) (hs : memWf s.mem = true) : memWf (State.refillsSince s t0).mem = true := by
  unfold State.refillsSince
  split
  · exact hs
  · refine foldl_foldl_wf (f := fun u vf b => _) _ (fun u vf b hu => ?_) _ hs
    dsimp only
    split
    · exact State.refill_wf _ _ _ _ hu
    · exact hu

@[simp] theorem State.putPleat_wf (s : State) (c blk id : Nat) (t : Tile) (p row : Nat) (ws : List Word) (hs : memWf s.mem = true) :
    memWf (State.putPleat s c blk id t p row ws).mem = true := by
  unfold State.putPleat
  split
  · exact hs
  · split <;> simp [hs]

@[simp] theorem State.zeroPleat_wf (s : State) (c blk id : Nat) (t : Tile) (p : Nat) (hs : memWf s.mem = true) :
    memWf (State.zeroPleat s c blk id t p).mem = true := by
  unfold State.zeroPleat
  repeat' split
  all_goals simp +contextual [hs, foldl_wf]

@[simp] theorem State.silentMatrix_wf (s : State) (c : Nat) (o : MatOp) (n : Nat) (m : SavedMma) (hs : memWf s.mem = true) :
    memWf (State.silentMatrix s c o n m).mem = true := by
  unfold State.silentMatrix
  exact State.healthEvent_wf _ _ _ _ _ _ (State.dueThrow_wf _ _ _ _ _ _ _ (State.onIssuing_wf _ _ _ hs))

@[simp] theorem State.doMma_wf (s : State) (c : Nat) (lt : Latch) (o : MatOp) (id : Nat) (t : Tile) (p : Nat) (hs : memWf s.mem = true) :
    memWf (State.doMma s c lt o id t p).mem = true := by
  unfold State.doMma
  extract_lets fails saved s1 t1 rows out s2
  have h1 : memWf s1.mem = true := by
    unfold s1
    split <;> simp [hs]
  have h2 : memWf s2.mem = true := foldl_wf _ (fun u x hu => State.putPleat_wf _ _ _ _ _ _ _ _ hu) _ _ h1
  split
  · simp [h2]
  · exact h2

@[simp] theorem State.doTrans_wf (s : State) (c : Nat) (o : MatOp) (hs : memWf s.mem = true) : memWf (State.doTrans s c o).mem = true := by
  unfold State.doTrans
  simp +contextual [hs, foldl_wf]

@[simp] theorem State.doBind_wf (s : State) (c : Nat) (o : MatOp) (id : Nat) (t : Tile) (hs : memWf s.mem = true) :
    memWf (State.doBind s c o id t).mem = true := by
  unfold State.doBind
  refine foldl_wf _ (fun u row hu => ?_) _ _ hs
  split
  · exact memWf_of_eq (t := u.scratchWrite o.blk _ _) rfl (State.scratchWrite_wf _ _ _ _ hu)
  · exact State.onTile_wf _ _ _ _ hu

@[simp] theorem State.runMat_wf (s : State) (c : Nat) (zero : Bool) (o : MatOp) (hs : memWf s.mem = true) :
    memWf (State.runMat s c zero o).mem = true := by
  unfold State.runMat
  dsimp only
  repeat' split
  all_goals simp [hs]

@[simp] theorem State.passFences_wf (s : State) (c : Nat) (zero : Bool) (y0 : Nat) (hs : memWf s.mem = true) :
    memWf (State.passFences s c zero y0).mem = true := by
  induction y0 generalizing s with
  | zero => exact State.settleVoids_wf _ _ hs
  | succ fuel ih =>
    unfold State.passFences
    split
    · exact State.settleVoids_wf _ _ hs
    · exact ih _ (foldl_wf _ (fun t k ht => State.writeToken_wf _ _ _ _ ht) _ _ (by simp [hs]))

@[simp] theorem State.settleFences_wf (s : State) (c : Nat) (zero : Bool) (hs : memWf s.mem = true) :
    memWf (State.settleFences s c zero).mem = true := by
  unfold State.settleFences
  simp [hs]

@[simp] theorem State.matTokens_wf (s : State) (o : MatOp) (hs : memWf s.mem = true) : memWf (State.matTokens s o).mem = true := by
  unfold State.matTokens
  simp +contextual [hs, foldl_wf]

@[simp] theorem State.leaveArray_wf (s : State) (c : Nat) (o : MatOp) (hs : memWf s.mem = true) : memWf (State.leaveArray s c o).mem = true := by
  unfold State.leaveArray
  dsimp only
  have ht := State.matTokens_wf (s.onCore c (fun k => { k with array := none })) o (by simp [hs])
  refine State.afterOp_wf _ _ (State.tidy_wf _ _ (State.settleFences_wf _ _ _ (State.settleFences_wf _ _ _ (State.settleVoids_wf _ _ ?_))))
  split
  · simp [ht, State.gauge_mem]
  · exact ht

@[simp] theorem State.spillFetch_wf (s : State) (o : MatOp) (line : Nat) (hs : memWf s.mem = true) :
    memWf (State.spillFetch s o line).mem = true := by
  unfold State.spillFetch
  split <;> simp [hs]

@[simp] theorem State.editImage_wf (s : State) (gang off : Nat) (v : Word) (hs : memWf s.mem = true) :
    memWf (State.editImage s gang off v).mem = true := by
  unfold State.editImage
  split <;> simp [hs]

@[simp] theorem State.settleStops_wf (s : State) (hs : memWf s.mem = true) : memWf (State.settleStops s).mem = true := hs

@[simp] theorem State.freeUnits_wf (s : State) (g : Nat) (p : Block → Bool) (hs : memWf s.mem = true) : memWf (State.freeUnits s g p).mem = true := by
  unfold State.freeUnits
  simp +contextual [hs, foldl_wf]

@[simp] theorem State.freeGang_wf (s : State) (g : Nat) (p : Block → Bool) (hs : memWf s.mem = true) : memWf (State.freeGang s g p).mem = true := by
  unfold State.freeGang
  simp [hs]

theorem State.restoreUnits_wf (s : State) (x : SavedBlock) (c : Nat) (hs : memWf s.mem = true) (u : State) (hu : State.restoreUnits s x c = some u) :
    memWf u.mem = true := by
  unfold State.restoreUnits at hu
  dsimp only at hu
  split at hu
  · exact absurd hu nofun
  · cases hu
    split <;> simp [hs]

theorem State.restoreBlock_wf (s : State) (l : Launch) (r : LaunchRec) (x : SavedBlock) (e : Nat) (hs : memWf s.mem = true) (u : State)
    (hu : State.restoreBlock s l r x e = some u) :
    memWf u.mem = true := by
  unfold State.restoreBlock at hu
  dsimp only at hu
  split at hu
  · exact absurd hu nofun
  · rename_i hb
    obtain ⟨t, ht, rfl⟩ := Option.map_eq_some_iff.mp hu
    simp [State.restoreUnits_wf _ _ _ (State.addBlock_wf _ _ _ _ _ _ _ _ hs _ hb) _ ht, State.refresh_mem]

theorem State.resume_wf (s : State) (m : Image) (place : List Nat) (hs : memWf s.mem = true) (u : State) (hu : State.resume s m place = some u) :
    memWf u.mem = true := by
  unfold State.resume at hu
  dsimp only at hu
  split at hu
  · exact absurd hu nofun
  · split at hu
    · exact absurd hu nofun
    · obtain ⟨t, ht, rfl⟩ := Option.map_eq_some_iff.mp hu
      refine (congrArg memWf (State.onLaunch_mem _ _ _)).trans ?_
      refine memWf_optionFold (fun o i ho u hu => ?_) _ (fun u hu => ?_) t ht
      · split at hu
        · exact State.restoreBlock_wf _ _ _ _ _ (ho _ rfl) _ hu
        · exact absurd hu nofun
      · cases hu
        exact hs

@[simp] theorem State.settleHeld_wf (s : State) (hs : memWf s.mem = true) : memWf (State.settleHeld s).mem = true := hs

@[simp] theorem State.saveCore_wf (s : State) (g : Gang) (halt : Bool) (c : Nat) (hs : memWf s.mem = true) :
    memWf (State.saveCore s g halt c).mem = true := by
  unfold State.saveCore
  simp [hs, State.publish_wf]

@[simp] theorem State.finishSave_wf (s0 : State) (g : Gang) (halt : Bool) (hs0 : memWf s0.mem = true) :
    memWf (State.finishSave s0 g halt).mem = true := by
  unfold State.finishSave
  extract_lets s bs parts m s1 saved
  have h1 : memWf s1.mem = true := foldl_wf _ (fun t c ht => State.publish_wf _ _ _ _ _ ht) _ _ hs0
  have hsaved : memWf saved.mem = true := h1
  split
  · split
    · rename_i hr
      have ht := State.resume_wf _ _ _ h1 _ hr
      exact State.openInterval_wf _ _ _ ht
    · exact hsaved
  · exact hsaved

theorem State.resumeAll_wf (ms : List Image) (s : State) (place : List Nat) (u : State) (hs : memWf s.mem = true)
    (h : s.resumeAll ms place = some u) :
    memWf u.mem = true := by
  induction ms generalizing s place with
  | nil =>
    cases h
    exact hs
  | cons m rest ih =>
    unfold State.resumeAll at h
    split at h
    · rename_i hr
      exact ih _ _ (State.resume_wf { s with images := eraseAt s.images m.id } _ _ hs _ hr) h
    · exact absurd h nofun

@[simp] theorem State.freeSlot_wf (s : State) (vf record : Nat) (hs : memWf s.mem = true) : memWf (State.freeSlot s vf record).mem = true := hs

@[simp] theorem State.faultRecord_wf (s : State) (vf va kind unit level : Nat) (hs : memWf s.mem = true) :
    memWf (State.faultRecord s vf va kind unit level).mem = true := by
  unfold State.faultRecord
  simp [hs, State.homeWriteBytes_wf]

@[simp] theorem State.unfault_wf (s : State) (f : FaultStop) (g : Wave → Thread → Thread) (hs : memWf s.mem = true) :
    memWf (State.unfault s f g).mem = true := hs

@[simp] theorem State.answered_wf (s : State) (c : Nat) (k : State → FaultStop → State) (hs : memWf s.mem = true)
    (hk : ∀ (x0 : State) (x1 : FaultStop), memWf x0.mem = true → memWf (k x0 x1).mem = true) :
    memWf (State.answered s c k).mem = true := by
  unfold State.answered
  repeat' split
  all_goals simp [hs, hk]

end Sys2Proof.Machine
end

section
/-! PROOFS. Memory stays in its canonical form, IV: rollback, Bobbins, peers, samplers, and what follows each step. -/

namespace Sys2Proof.Machine
open Sys2Proof.Claims

@[simp] theorem State.roll_wf (s : State) (g : Nat) (hs : memWf s.mem = true) : memWf (State.roll s g).mem = true := hs

@[simp] theorem State.settleHits_wf (s : State) (hs : memWf s.mem = true) : memWf (State.settleHits s).mem = true := by
  unfold State.settleHits
  exact foldl_wf _ (fun t p ht => State.roll_wf _ _ (State.healthEvent_wf _ _ _ _ _ _ ht)) _ _ hs

@[simp] theorem State.rollStop_wf (s : State) (g : Nat) (hs : memWf s.mem = true) : memWf (State.rollStop s g).mem = true := by
  unfold State.rollStop
  refine foldl_wf _ (fun t b ht => State.flushFor_wf _ _ _ ht) _ _ ?_
  refine State.stopWaves_wf _ _ (State.drainWaves_wf _ _ (State.dropMismatches_wf _ _ (State.cancelCopies_wf _ _ ?_)))
  simp [hs]

@[simp] theorem State.restoreLines_wf (s : State) (log : List (Nat × Placed)) (hs : memWf s.mem = true) :
    memWf (State.restoreLines s log).1.mem = true := by
  unfold State.restoreLines
  simp +contextual [hs, State.homeWriteBytes_wf, foldl_wf]

@[simp] theorem State.rollScrub_wf (s : State) (g : Nat) (hs : memWf s.mem = true) : memWf (State.rollScrub s g).mem = true := by
  unfold State.rollScrub
  split
  · exact hs
  · rename_i k _
    split
    · exact hs
    · rename_i l _
      extract_lets r fatal s1 s2 s3 s4
      have h2 : memWf s2.mem = true := by
        unfold s2
        split <;> simp [s1, hs]
      have h3 : memWf s3.mem = true :=
        State.freeGang_wf _ _ _ (foldl_wf _ (fun t w ht => State.dropTokens_wf _ _ _ ht) _ _ h2)
      have h5 := State.restoreLines_wf { s4 with images := eraseAt s4.images g } k.log h3
      split
      rename_i s5 n he
      rw [he] at h5
      extract_lets s6 s7
      have h7 : memWf s7.mem = true := by simp [s7, s6, h5]
      split
      · exact State.abortLaunch_wf _ _ _ _ _ h7
      · split
        · exact State.abortLaunch_wf _ _ _ _ _ h7
        · exact h7

@[simp] theorem State.relaunch_wf (s : State) (g : Nat) (hs : memWf s.mem = true) : memWf (State.relaunch s g).mem = true := by
  unfold State.relaunch
  split
  · exact hs
  · rename_i k _
    split
    · exact hs
    · rename_i l _
      split
      · exact hs
      · split
        · exact hs
        · rename_i place _
          extract_lets p k1 new
          have hnew (t : State) (ht : new = some t) : memWf t.mem = true := by
            unfold new at ht
            split at ht
            · obtain ⟨m, _, hm⟩ := Option.bind_eq_some_iff.mp ht
              exact State.resume_wf _ _ _ hs _ hm
            · obtain ⟨u, hu, rfl⟩ := Option.map_eq_some_iff.mp ht
              have h1 := State.addBlocks_wf _ _ _ _ _ _ _ (by exact hs) _ hu
              exact (congrArg memWf (State.onLaunch_mem _ _ _)).trans (foldl_wf _ (fun u b hu => State.blockReady_wf _ _ _ _ _ _ hu) _ _ h1)
          clear_value new
          cases new with
          | none => exact hs
          | some t =>
            have ht := hnew t rfl
            simp [ht]

@[simp] theorem State.rollOn_wf (s : State) (g : Nat) (hs : memWf s.mem = true) : memWf (State.rollOn s g).mem = true := by
  unfold State.rollOn
  dsimp only
  repeat' split
  all_goals simp [hs]

@[simp] theorem State.settleRolls_wf (s : State) (hs : memWf s.mem = true) : memWf (State.settleRolls s).mem = true := by
  unfold State.settleRolls
  simp +contextual [hs, foldl_wf]

@[simp] theorem State.beginSwitch_wf (s : State) (n vf : Nat) (hs : memWf s.mem = true) : memWf (State.beginSwitch s n vf).mem = true := by
  unfold State.beginSwitch
  split <;> simp [hs]

@[simp] theorem State.finishSwitch_wf (s : State) (n : Nat) (hs : memWf s.mem = true) : memWf (State.finishSwitch s n).mem = true := by
  unfold State.finishSwitch
  split
  · exact hs
  · split <;> simp [hs]

@[simp] theorem State.settleSwitch_wf (s : State) (n : Nat) (hs : memWf s.mem = true) : memWf (State.settleSwitch s n).mem = true := by
  unfold State.settleSwitch
  repeat' split
  all_goals simp [hs]

@[simp] theorem State.settleSwitches_wf (s : State) (hs : memWf s.mem = true) : memWf (State.settleSwitches s).mem = true := by
  unfold State.settleSwitches
  simp +contextual [hs, foldl_wf]

@[simp] theorem State.scrubCore_wf (s : State) (vf c : Nat) (hs : memWf s.mem = true) : memWf (State.scrubCore s vf c).mem = true := by
  unfold State.scrubCore
  simp [hs, State.publish_wf]

@[simp] theorem State.disable_wf (s : State) (part : Nat) (hs : memWf s.mem = true) : memWf (State.disable s part).mem = true := by
  unfold State.disable
  refine foldl_wf _ (fun t vf ht => ?_) _ _ hs
  split
  · exact (congrArg memWf (State.setReg_mem _ _ _ _ _)).trans ht
  · exact ht

@[simp] theorem State.tagSpool_wf (s : State) (first cm inst : Nat) (hs : memWf s.mem = true) :
    memWf (State.tagSpool s first cm inst).mem = true := hs

@[simp] theorem State.spoolFails_wf (s : State) (cm inst : Nat) (k : Comm) (hs : memWf s.mem = true) :
    memWf (State.spoolFails s cm inst k).mem = true := by
  unfold State.spoolFails
  simp [hs]

@[simp] theorem State.command_wf (s : State) (cm : Nat) (ok : Comm → Bool) (f : Nat → BobCmd) (hs : memWf s.mem = true) :
    memWf (State.command s cm ok f).mem = true := hs

@[simp] theorem State.countWaits_wf (s : State) (vf : Nat) (x : CollInst) (c : Nat) (hs : memWf s.mem = true) :
    memWf (State.countWaits s vf x c).mem = true := by
  unfold State.countWaits
  refine foldl_wf _ (fun t p ht => ?_) _ _ hs
  split
  · split
    · split
      · exact State.countDown_wf _ _ _ ht
      · exact ht
    · exact ht
  · exact ht

@[simp] theorem State.sendChunk_wf (s : State) (id : Nat) (k : Comm) (i rank : Nat) (what : ChunkSlot) (hs : memWf s.mem = true) :
    memWf (State.sendChunk s id k i rank what).mem = true := by
  unfold State.sendChunk
  dsimp only
  split
  · exact hs
  · split <;> simp [hs]

@[simp] theorem State.putChunk_wf (s : State) (k : Comm) (x : CollInst) (ch : Nat) (bs : List Byte) (hs : memWf s.mem = true) :
    memWf (State.putChunk s k x ch bs).mem = true := by
  unfold State.putChunk
  simp +contextual [hs, State.devWrite_wf]

@[simp] theorem State.askChunk_wf (s : State) (id : Nat) (k : Comm) (c : BobCmd) (hs : memWf s.mem = true) :
    memWf (State.askChunk s id k c).mem = true := by
  unfold State.askChunk
  refine foldl_wf _ (fun t l ht => ?_) _ _ hs
  split
  · exact ht
  · split <;> simp [ht]

@[simp] theorem State.bobStep_wf (s : State) (id : Nat) (k : Comm) (c : BobCmd) (hs : memWf s.mem = true) :
    memWf (State.bobStep s id k c).mem = true := by
  unfold State.bobStep
  dsimp only
  repeat' split
  all_goals simp [hs]

@[simp] theorem State.windowFault_wf (s : State) (vf : Nat) (hs : memWf s.mem = true) : memWf (State.windowFault s vf).mem = true := hs

@[simp] theorem State.endRequest_wf (s : State) (q : Request) (hs : memWf s.mem = true) : memWf (State.endRequest s q).mem = true := by
  unfold State.endRequest
  split <;> simp [hs, State.gauge_mem]

@[simp] theorem State.fillCode_wf (s : State) (c pa : Nat) (data : List Byte) (hs : memWf s.mem = true) :
    memWf (State.fillCode s c pa data).mem = true := hs

@[simp] theorem State.arrived_wf (s : State) (q : Request) (hs : memWf s.mem = true) : memWf (State.arrived s q).mem = true := by
  unfold State.arrived
  split <;> simp [hs]

@[simp] theorem State.poisonWrite_wf (s : State) (q : Request) (hs : memWf s.mem = true) : memWf (State.poisonWrite s q).mem = true := by
  unfold State.poisonWrite
  dsimp only
  repeat' split
  all_goals simp [hs]

@[simp] theorem State.poisonFetch_wf (s : State) (q : Request) (hs : memWf s.mem = true) : memWf (State.poisonFetch s q).mem = true := by
  unfold State.poisonFetch
  split <;> simp [hs]

@[simp] theorem State.poisonRead_wf (s : State) (q : Request) (hs : memWf s.mem = true) : memWf (State.poisonRead s q).mem = true := by
  unfold State.poisonRead
  repeat' split
  all_goals simp [hs]

@[simp] theorem State.poison_wf (s : State) (q : Request) (hs : memWf s.mem = true) : memWf (State.poison s q).mem = true := by
  unfold State.poison
  dsimp only
  repeat' split
  all_goals simp [hs]

@[simp] theorem State.abortPeer_wf (s : State) (p : Nat) (hs : memWf s.mem = true) : memWf (State.abortPeer s p).mem = true := by
  unfold State.abortPeer
  refine foldl_wf _ (fun t c ht => ?_) _ _ hs
  split
  · exact foldl_wf _ (fun u x hu => State.abortInstance_wf _ _ _ _ _ hu) _ _ (State.homeWriteBytes_wf _ _ _ _ ht)
  · exact ht

@[simp] theorem State.fence_wf (s : State) (p : Nat) (hs : memWf s.mem = true) : memWf (State.fence s p).mem = true := by
  unfold State.fence
  refine State.abortPeer_wf _ _ ?_
  have hp := foldl_wf State.poison (fun t q ht => State.poison_wf t q ht) (s.requests.filter (fun q => q.region == 2 && q.peer == p)) s hs
  simp [hp]

@[simp] theorem State.settleTimeouts_wf (s : State) (hs : memWf s.mem = true) : memWf (State.settleTimeouts s).mem = true := by
  unfold State.settleTimeouts
  refine foldl_wf _ (fun t p ht => State.fence_wf _ _ ht) _ _ (foldl_wf _ (fun t q ht => ?_) _ _ hs)
  split
  · exact State.poison_wf _ _ ht
  · exact ht

@[simp] theorem State.putHold_wf (s : State) (h : PeerHold) (hs : memWf s.mem = true) : memWf (State.putHold s h).mem = true := hs

@[simp] theorem State.endHold_wf (s : State) (peer : Nat) (hs : memWf s.mem = true) : memWf (State.endHold s peer).mem = true := by
  unfold State.endHold
  split <;> simp [hs]

@[simp] theorem State.holdQuiet_wf (s : State) (peer : Nat) (hs : memWf s.mem = true) : memWf (State.holdQuiet s peer).mem = true := by
  unfold State.holdQuiet
  split
  · exact hs
  · split <;> simp [hs]

@[simp] theorem State.holdLimit_wf (s : State) (peer : Nat) (hs : memWf s.mem = true) : memWf (State.holdLimit s peer).mem = true := by
  unfold State.holdLimit
  split
  · exact hs
  · split <;> simp [hs]

@[simp] theorem State.settleHolds_wf (s : State) (hs : memWf s.mem = true) : memWf (State.settleHolds s).mem = true := by
  unfold State.settleHolds
  exact foldl_wf _ (fun t p ht => State.holdQuiet_wf _ _ (State.holdLimit_wf _ _ ht)) _ _ hs

@[simp] theorem State.clearGauge_wf (s : State) (n : Nat) (hs : memWf s.mem = true) : memWf (State.clearGauge s n).mem = true := by
  unfold State.clearGauge
  simp +contextual [hs, foldl_wf]

@[simp] theorem State.writeAction_wf (s : State) (space ix off : Nat) (old v : Word) (hs : memWf s.mem = true) :
    memWf (State.writeAction s space ix off old v).mem = true := by
  unfold State.writeAction
  repeat' split
  all_goals simp [hs]

@[simp] theorem State.takeSample_wf (s : State) (c pn clk : Nat) (seen : List Seen) (hs : memWf s.mem = true) :
    memWf (State.takeSample s c pn clk seen).mem = true := hs

@[simp] theorem State.takeSamples_wf (s : State) (c pn clk : Nat) (seen : List Seen) (y0 : Nat) (hs : memWf s.mem = true) :
    memWf (State.takeSamples s c pn clk seen y0).mem = true := by
  induction y0 generalizing s seen with
  | zero => exact hs
  | succ fuel ih =>
    unfold State.takeSamples
    dsimp only
    split
    · exact ih _ _ (State.takeSample_wf _ _ _ _ _ hs)
    · exact hs

@[simp] theorem State.endCycles_wf (s : State) (c clk : Nat) (hs : memWf s.mem = true) : memWf (State.endCycles s c clk).mem = true := by
  unfold State.endCycles
  split
  · exact hs
  · refine foldl_wf _ (fun t p ht => State.takeSamples_wf _ _ _ _ _ _ ht) _ _ ?_
    exact (congrArg memWf (State.onCore_mem _ _ _)).trans (foldl_wf _ (fun t p ht => State.takeSamples_wf _ _ _ _ _ _ ht) _ _ hs)

@[simp] theorem State.beginCycle_wf (s : State) (c : Nat) (hs : memWf s.mem = true) : memWf (State.beginCycle s c).mem = true := by
  unfold State.beginCycle
  dsimp only
  split <;> simp [hs]

@[simp] theorem State.settleDue_wf (s : State) (hs : memWf s.mem = true) : memWf (State.settleDue s).mem = true := by
  unfold State.settleDue
  simp +contextual [hs, foldl_wf]

@[simp] theorem State.settleCaches_wf (s : State) (hs : memWf s.mem = true) : memWf (State.settleCaches s).mem = true := by
  unfold State.settleCaches
  repeat' split
  all_goals simp +contextual [hs, foldl_wf]

@[simp] theorem State.settleRegs_wf (s : State) (hs : memWf s.mem = true) : memWf (State.settleRegs s).mem = true := hs

@[simp] theorem State.settleAll_wf (s : State) (hs : memWf s.mem = true) : memWf (State.settleAll s).mem = true := by
  unfold State.settleAll
  have h5 := State.settleDoomed_wf _ (State.settleTimeouts_wf _ (State.settleHolds_wf _ (State.settleCaches_wf s hs)))
  have h9 := State.settleRolls_wf _ (State.settleHits_wf _ (State.settleDue_wf _ (State.settleStops_wf _ h5)))
  have hw := State.settleWork_wf _ (State.settleEnds_wf _ (State.settleSwitches_wf _ (State.settleHeld_wf _ h9)))
  exact State.settleVisible_wf _ (State.settleRegs_wf _ (State.settleAges_wf _ hw))

@[simp] theorem State.silentEngine_wf (s : State) (w : Wave) (hs : memWf s.mem = true) : memWf (State.silentEngine s w).mem = true := by
  unfold State.silentEngine
  simp [hs]

theorem State.lineUp_wf (s : State) (w : Wave) (engine notch : Bool) (hs : memWf s.mem = true) (u : State)
    (hu : State.lineUp s w engine notch = some u) :
    memWf u.mem = true := by
  unfold State.lineUp at hu
  split at hu
  · cases hu
    exact hs
  · split at hu
    · cases hu
      split <;> simp [hs]
    · exact absurd hu nofun

@[simp] theorem State.fetchRemote_wf (s : State) (line : Nat) (hs : memWf s.mem = true) : memWf (State.fetchRemote s line).mem = true := by
  unfold State.fetchRemote
  repeat' split
  all_goals simp [hs]

@[simp] theorem State.passOp_wf (s : State) (tack : Bool) (tok l : Nat) (hs : memWf s.mem = true) : memWf (State.passOp s tack tok l).mem = true := by
  unfold State.passOp
  split <;> simp [hs]

@[simp] theorem State.countIssue_wf (s : State) (w : Wave) (t : State) (hs : memWf s.mem = true) (ht : memWf t.mem = true) :
    memWf (State.countIssue s w t).mem = true := by
  unfold State.countIssue
  dsimp only
  repeat' split
  all_goals simp [hs, ht, State.gauge_mem]

@[simp] theorem State.take_wf (s : State) (x : Issue) (hs : memWf s.mem = true) : memWf (State.take s x).mem = true := hs

@[simp] theorem State.advanceTime_wf (s0 : State) (cycles ns : Nat) (hs0 : memWf s0.mem = true) :
    memWf (State.advanceTime s0 cycles ns).mem = true := by
  unfold State.advanceTime
  extract_lets s paused s1 s2 later s3 s4
  have h0 : memWf s.mem = true := foldl_wf _ (fun t c ht => State.endCycles_wf _ _ _ ht) _ _ hs0
  have h2 : memWf s2.mem = true := State.refillsSince_wf s1 _ h0
  have h4 : memWf s4.mem = true := by
    unfold s4
    split
    · exact h2
    · exact (congrArg memWf (State.onThreads_mem _ _ _)).trans h2
  split
  · exact h4
  · exact foldl_wf _ (fun t c ht => State.beginCycle_wf _ _ ht) _ _ h4

end Sys2Proof.Machine
end

section
/-! PROOFS. Memory stays in its canonical form, V: the instructions and events that are not of a family with one function for all of its members. -/

namespace Sys2Proof.Machine
open Sys2Proof.Claims

theorem memWf_getD {o : Option State} {s : State} (ho : ∀ u, o = some u → memWf u.mem = true) (hs : memWf s.mem = true) :
    memWf (o.getD s).mem = true := by
  cases o with
  | none => exact hs
  | some u => exact ho u rfl

@[simp] theorem execLoopEndCheck_keepsMem (c sl ln : Nat) (s : State) (hs : memWf s.mem = true) :
    Res.KeepsMem (execLoopEndCheck c sl ln s) := Res.keepsMem_done.mpr hs

@[simp] theorem execSeamEnrol_keepsMem (j : BitVec 3) (t : Bool) (s : State) (hs : memWf s.mem = true) : Res.KeepsMem (execSeamEnrol j t s) := by
  unfold execSeamEnrol
  simp [hs]

@[simp] theorem execSeamWait_keepsMem (j : BitVec 3) (t : Bool) (s : State) (hs : memWf s.mem = true) : Res.KeepsMem (execSeamWait j t s) := by
  unfold execSeamWait
  simp [hs]

@[simp] theorem execSeamLeave_keepsMem (j : BitVec 3) (t : Bool) (s : State) (hs : memWf s.mem = true) : Res.KeepsMem (execSeamLeave j t s) := by
  unfold execSeamLeave
  simp [hs]

@[simp] theorem execSeamWaitTimeout_keepsMem (c sl ln : Nat) (s : State) (hs : memWf s.mem = true) :
    Res.KeepsMem (execSeamWaitTimeout c sl ln s) := Res.keepsMem_done.mpr hs

@[simp] theorem execLd_keepsMem (d : Reg) (_h x : Bool) (z : BitVec 2) (g : Reg) (sb : BitVec 6) (t : Bool) (s : State) (hs : memWf s.mem = true) :
    Res.KeepsMem (execLd d _h x z g sb t s) := by
  unfold execLd
  simp [hs]

@[simp] theorem execSt_keepsMem (d : Reg) (_h : Bool) (z : BitVec 2) (g : Reg) (sb : BitVec 6) (t : Bool) (s : State) (hs : memWf s.mem = true) :
    Res.KeepsMem (execSt d _h z g sb t s) := by
  unfold execSt
  simp +contextual [hs]

@[simp] theorem execLds_keepsMem (d : Reg) (_h x : Bool) (z : BitVec 2) (g : Reg) (sb : BitVec 6) (t : Bool) (s : State) (hs : memWf s.mem = true) :
    Res.KeepsMem (execLds d _h x z g sb t s) := by
  unfold execLds
  simp [hs]

@[simp] theorem execSts_keepsMem (d : Reg) (_h : Bool) (z : BitVec 2) (g : Reg) (sb : BitVec 6) (t : Bool) (s : State) (hs : memWf s.mem = true) :
    Res.KeepsMem (execSts d _h z g sb t s) := by
  unfold execSts
  simp +contextual [hs]

@[simp] theorem execLdc_keepsMem (d : Reg) (_h x : Bool) (z : BitVec 2) (g : Reg) (sb : BitVec 6) (t : Bool) (s : State) (hs : memWf s.mem = true) :
    Res.KeepsMem (execLdc d _h x z g sb t s) := by
  unfold execLdc
  rw [Res.keepsMem_done]
  refine State.withRegs_wf _ _ _ hs (State.withTokens_wf _ _ _ hs ?_)
  extract_lets pas s0 vs s1
  have h0 : memWf s0.mem = true := by
    unfold s0
    split
    · exact hs
    · exact State.breach_wf _ _ hs
  have h1 : memWf s1.mem = true := by simp [s1, vs, h0]
  split
  · exact State.consume_wf _ _ _ h1
  · exact h1

@[simp] theorem execSnapshotUpdate_keepsMem (c pa : Nat) (s : State) (hs : memWf s.mem = true) :
    Res.KeepsMem (execSnapshotUpdate c pa s) := Res.keepsMem_done.mpr hs

@[simp] theorem execSpontaneousPlacement_keepsMem (c pa sc : Nat) (s : State) (hs : memWf s.mem = true) :
    Res.KeepsMem (execSpontaneousPlacement c pa sc s) := by
  unfold execSpontaneousPlacement
  repeat' split
  all_goals simp +contextual [hs, State.sendDirty_mem, foldl_wf]

@[simp] theorem execEngineOperationStart_keepsMem (blk q : Nat) (s : State) (hs : memWf s.mem = true) :
    Res.KeepsMem (execEngineOperationStart blk q s) := by
  unfold execEngineOperationStart
  rw [Res.keepsMem_done]
  split
  · exact hs
  · rename_i o _
    have hd := State.drainBefore_wf s o.who o.lanes o.step hs
    split
    · exact hs
    · split
      · split <;> simp [hs]
      · dsimp only
        split
        · exact hd
        · split
          · exact hd
          · split
            · split
              · split
                · simp [hd]
                · simp [hd, State.breach_wf]
                · split
                  · simp [hd]
                  · split
                    · split <;> simp [hd]
                    · simp [hd]
              · simp [hd]
            · simp [hd]

@[simp] theorem execEngineOperationComplete_keepsMem (blk q : Nat) (s : State) (hs : memWf s.mem = true) :
    Res.KeepsMem (execEngineOperationComplete blk q s) := by
  unfold execEngineOperationComplete
  simp [hs]

@[simp] theorem execBarwait_keepsMem (l : BitVec 3) (t : Bool) (s : State) (hs : memWf s.mem = true) : Res.KeepsMem (execBarwait l t s) := by
  unfold execBarwait
  dsimp only
  repeat' split
  all_goals simp [hs]

@[simp] theorem execBobjinit_keepsMem (d a : Reg) (t : Bool) (s : State) (hs : memWf s.mem = true) : Res.KeepsMem (execBobjinit d a t s) := by
  unfold execBobjinit
  rw [Res.keepsMem_done]
  refine State.withRegs_wf _ _ _ hs (State.bobj_wf _ _ _ _ hs (fun u l th pl hu => ?_))
  split <;> simp [hu, State.padWrite_mem]

@[simp] theorem execBobjexp_keepsMem (d a : Reg) (t : Bool) (s : State) (hs : memWf s.mem = true) : Res.KeepsMem (execBobjexp d a t s) := by
  unfold execBobjexp
  rw [Res.keepsMem_done]
  exact State.withRegs_wf _ _ _ hs (State.bobj_wf _ _ _ _ hs (fun u l th pl hu => State.laneDone_wf _ _ _ (State.setBarrier_wf _ _ _ _ hu)))

@[simp] theorem execBobjwait_keepsMem (a : Reg) (t : Bool) (s : State) (hs : memWf s.mem = true) : Res.KeepsMem (execBobjwait a t s) := by
  unfold execBobjwait
  rw [Res.keepsMem_done]
  refine State.withRegs_wf _ _ _ hs (State.bobj_wf _ _ _ _ hs (fun u l th pl hu => ?_))
  split
  · exact State.within_wf _ _ _ hu (fun v hv => by simp [hv])
  · split
    · exact State.laneDone_wf _ _ _ hu
    · exact State.within_wf _ _ _ hu (fun v hv => by simp [hv])

@[simp] theorem execTryOpen_keepsMem (d : BitVec 20) (l : BitVec 3) (t : Bool) (s : State) (hs : memWf s.mem = true) :
    Res.KeepsMem (execTryOpen d l t s) := by
  unfold execTryOpen
  rw [Res.keepsMem_done]
  split
  · exact hs
  · dsimp only
    split
    · simp [hs]
    · refine State.meet_wf _ (State.oncePath_wf _ _ _ (State.flushFor_wf _ _ _ hs) (fun u l _ hu => ?_) (fun u hu => by simp [hu]))
      exact State.within_wf _ _ _ hu (fun v hv => by simp [hv])

@[simp] theorem execEndtry_keepsMem (t : Bool) (s : State) (hs : memWf s.mem = true) : Res.KeepsMem (execEndtry t s) := by
  unfold execEndtry
  rw [Res.keepsMem_done]
  split
  · exact hs
  · refine State.meet_wf _ (State.oncePath_wf _ _ _ (State.flushFor_wf _ _ _ hs) (fun u l _ hu => ?_) (fun u hu => by simp [hu]))
    exact State.within_wf _ _ _ hu (fun v hv => by simp [hv])

@[simp] theorem execTend_keepsMem (t : Bool) (s : State) (hs : memWf s.mem = true) : Res.KeepsMem (execTend t s) := by
  unfold execTend
  rw [Res.keepsMem_done]
  refine State.oncePath_wf _ _ _ hs (fun u l _ hu => State.lane1_wf _ _ _ hu) (fun x hx => State.afterPublish_wf _ _ _ hx (fun u hu => ?_))
  dsimp only
  split <;> simp [hu]

@[simp] theorem execExit_keepsMem (_t : Bool) (s : State) (hs : memWf s.mem = true) : Res.KeepsMem (execExit _t s) := by
  unfold execExit
  rw [Res.keepsMem_done]
  split
  · exact hs
  · refine State.afterPublish_wf _ _ _ (by simp [hs]) (fun u hu => State.endWave_wf _ _ _ (State.afterExit_wf _ _ ?_))
    simp [hu]

@[simp] theorem execCollectiveUnwind_keepsMem (c sl ln : Nat) (s : State) (hs : memWf s.mem = true) :
    Res.KeepsMem (execCollectiveUnwind c sl ln s) := by
  unfold execCollectiveUnwind
  repeat' split
  all_goals simp [hs]

@[simp] theorem execUretry_keepsMem (t : Bool) (s : State) (hs : memWf s.mem = true) : Res.KeepsMem (execUretry t s) := by
  unfold execUretry
  dsimp only
  repeat' split
  all_goals simp [hs]

@[simp] theorem execBrk_keepsMem (t : Bool) (s : State) (hs : memWf s.mem = true) : Res.KeepsMem (execBrk t s) := by
  unfold execBrk
  repeat' split
  all_goals simp [hs]

@[simp] theorem execNotchPark_keepsMem (c sl ln : Nat) (s : State) (hs : memWf s.mem = true) : Res.KeepsMem (execNotchPark c sl ln s) := by
  unfold execNotchPark
  repeat' split
  all_goals simp [hs]

@[simp] theorem execAgeForce_keepsMem (c pn : Nat) (s : State) (hs : memWf s.mem = true) : Res.KeepsMem (execAgeForce c pn s) := by
  unfold execAgeForce
  simp [hs]

@[simp] theorem execWaveSwap_keepsMem (c act pend : Nat) (s : State) (hs : memWf s.mem = true) : Res.KeepsMem (execWaveSwap c act pend s) := by
  unfold execWaveSwap
  dsimp only
  repeat' split
  all_goals simp [hs]

@[simp] theorem execPendingPromote_keepsMem (c pn : Nat) (s : State) (hs : memWf s.mem = true) : Res.KeepsMem (execPendingPromote c pn s) := by
  unfold execPendingPromote
  split <;> simp [hs]

@[simp] theorem execSrd_keepsMem (d : Reg) (r : BitVec 10) (t : Bool) (s : State) (hs : memWf s.mem = true) : Res.KeepsMem (execSrd d r t s) := by
  unfold execSrd
  dsimp only
  split <;> simp [hs]

@[simp] theorem execSwr_keepsMem (a : Reg) (r : BitVec 10) (t : Bool) (s : State) (hs : memWf s.mem = true) : Res.KeepsMem (execSwr a r t s) := by
  unfold execSwr
  dsimp only
  repeat' split
  all_goals simp [hs]

@[simp] theorem execYield_keepsMem (t : Bool) (s : State) (hs : memWf s.mem = true) : Res.KeepsMem (execYield t s) := by
  unfold execYield
  dsimp only
  repeat' split
  all_goals simp [hs]

@[simp] theorem execSleepExpire_keepsMem (c sl ln : Nat) (s : State) (hs : memWf s.mem = true) :
    Res.KeepsMem (execSleepExpire c sl ln s) := Res.keepsMem_done.mpr hs

@[simp] theorem execPmark_keepsMem (a : Reg) (t : Bool) (s : State) (hs : memWf s.mem = true) : Res.KeepsMem (execPmark a t s) := by
  unfold execPmark
  rw [Res.keepsMem_done]
  refine State.withRegs_wf _ _ _ hs (State.oncePath_wf _ _ _ hs (fun u l _ hu => State.lane1_wf _ _ _ hu) (fun u hu => ?_))
  split
  · exact hu
  · refine (congrArg memWf (State.perLane_mem _ _ _)).trans (foldl_wf _ (fun v l hv => (congrArg memWf (State.logEffect_mem v l 0)).trans hv) _ _ ?_)
    split <;> simp [hu]

@[simp] theorem execTflush_keepsMem (t : Bool) (s : State) (hs : memWf s.mem = true) : Res.KeepsMem (execTflush t s) := by
  unfold execTflush
  split <;> simp [hs]

@[simp] theorem execEpush_keepsMem (d a : Reg) (t : Bool) (s : State) (hs : memWf s.mem = true) : Res.KeepsMem (execEpush d a t s) := by
  unfold execEpush
  rw [Res.keepsMem_done]
  refine State.withRegs_wf _ _ _ hs (State.afterPublish_wf _ _ _ hs (fun v hv => ?_))
  refine State.edgeLanes_wf _ _ _ _ _ _ hv (fun u w l th p hu => ?_) (fun u l _ hu => State.lane1_wf _ _ _ hu)
  have hp := State.placeTenant_wf u w.core (u.gangId w.blk) p 64 hu
  dsimp only
  split
  · simp [hp, State.effectOut_mem]
  · split
    · simp [hp, State.laneOut_mem]
    · split
      · have hq := fun a n => State.tenantPut_wf _ w.core (u.gangId w.blk) a 4 n hp
        simp [hq, State.effectOut_mem]
      · simp [hp]

@[simp] theorem execEpop_keepsMem (d a : Reg) (t : Bool) (s : State) (hs : memWf s.mem = true) : Res.KeepsMem (execEpop d a t s) := by
  unfold execEpop
  rw [Res.keepsMem_done]
  refine State.withRegs_wf _ _ _ hs ?_
  refine State.edgeLanes_wf _ _ _ _ _ _ hs (fun u w l th p hu => ?_) (fun u l _ hu => by simp [hu, State.laneOut_mem])
  have hp := State.placeTenant_wf u w.core (u.gangId w.blk) p 64 hu
  dsimp only
  split
  · simp [hp, State.effectOut_mem]
  · split
    · simp [hp, State.effectOut_mem]
    · split
      · simp [State.touch_wf _ w.core w.blk _ 4 hp, State.effectOut_mem]
      · simp [hp]

@[simp] theorem execEfree_keepsMem (a : Reg) (t : Bool) (s : State) (hs : memWf s.mem = true) : Res.KeepsMem (execEfree a t s) := by
  unfold execEfree
  rw [Res.keepsMem_done]
  refine State.withRegs_wf _ _ _ hs (State.afterPublish_wf _ _ _ hs (fun v hv => ?_))
  refine State.edgeLanes_wf _ _ _ _ _ _ hv (fun u w l th p hu => ?_) (fun u l _ hu => State.lane1_wf _ _ _ hu)
  dsimp only
  split <;> simp [hu, State.effectOut_mem]

@[simp] theorem execSpawn_keepsMem (d a : Reg) (t : Bool) (s : State) (hs : memWf s.mem = true) : Res.KeepsMem (execSpawn d a t s) := by
  unfold execSpawn
  extract_lets an
  rw [Res.keepsMem_done]
  refine State.withRegs_wf _ _ _ hs ?_
  split
  · exact hs
  · split
    · simp [hs]
    · rename_i w _ _ l _
      split
      · simp [hs]
      · extract_lets offers bad good s1
        have h1 : memWf s1.mem = true := by
          unfold s1
          split
          · exact hs
          · exact State.within_wf _ _ _ hs (fun u hu => by simp [hu])
        split
        · exact h1
        · refine State.within_wf _ _ _ h1 (fun y hy => State.oncePath_wf _ _ _ hy (fun u k v hu => by simp [hu, State.laneOut_mem]) (fun u hu => ?_))
          refine State.afterAccesses_wf _ _ hu (fun x hx => State.afterPublish_wf _ _ _ hx (fun v hv => ?_))
          split
          · exact State.spawnStep_wf _ _ _ _ _ _ _ hv
          · refine foldl_wf _ (fun x ln hx => ?_) _ _ hv
            split
            · exact State.badLane_wf _ _ _ _ _ _ hx
            · exact hx

@[simp] theorem execAdmit_keepsMem (d a : Reg) (t : Bool) (s : State) (hs : memWf s.mem = true) : Res.KeepsMem (execAdmit d a t s) := by
  unfold execAdmit
  dsimp only
  rw [Res.keepsMem_done]
  refine State.withRegs_wf _ _ _ hs ?_
  split
  · exact hs
  · refine foldl_wf _ (fun u l hu => ?_) _ _ hs
    split
    · exact hu
    · split
      · exact State.within_wf _ _ _ hu (fun v hv => by simp [hv])
      · refine State.onceLane_wf _ _ _ _ hu (fun y v hy => by simp [hy, State.laneOut_mem]) (fun y hy => ?_)
        simp [hy, State.effectOut_mem]

@[simp] theorem execTcbdone_keepsMem (a : Reg) (t : Bool) (s : State) (hs : memWf s.mem = true) : Res.KeepsMem (execTcbdone a t s) := by
  unfold execTcbdone
  rw [Res.keepsMem_done]
  refine State.withRegs_wf _ _ _ hs (State.afterPublish_wf _ _ _ hs (fun v hv => ?_))
  refine State.edgeLanes_wf _ _ _ _ _ _ hv (fun u w l th p hu => ?_) (fun u l _ hu => State.lane1_wf _ _ _ hu)
  dsimp only
  split
  · simp [hu]
  · refine (congrArg memWf (State.effectOut_mem _ _ _ _ _)).trans (foldl_wf _ (fun x v hx => State.freshen_wf _ _ _ _ hx) _ _ ?_)
    refine State.retireTcb_wf _ _ _ _ (foldl_wf _ (fun x q hx => ?_) _ _ hu)
    split
    · exact State.touch_wf _ _ _ _ _ hx
    · exact hx

@[simp] theorem execKick_keepsMem (q : BitVec 3) (k sb : BitVec 6) (t : Bool) (s : State) (hs : memWf s.mem = true) :
    Res.KeepsMem (execKick q k sb t s) := by
  unfold execKick
  rw [Res.keepsMem_done]
  refine State.withTokens_wf _ _ _ hs (State.withQueue_wf _ _ _ hs (fun w => State.afterAccesses_wf _ _ hs (fun u hu => ?_)))
  exact State.checked_wf _ _ _ hu (fun ds => State.enterCopy_wf _ _ _ _ _ _ hu)

@[simp] theorem execWindowEntryLeave_keepsMem (c : Nat) (s : State) (hs : memWf s.mem = true) : Res.KeepsMem (execWindowEntryLeave c s) := by
  unfold execWindowEntryLeave
  repeat' split
  all_goals simp [hs]

@[simp] theorem execQfence_keepsMem (n k : BitVec 6) (t : Bool) (s : State) (hs : memWf s.mem = true) : Res.KeepsMem (execQfence n k t s) := by
  unfold execQfence
  rw [Res.keepsMem_done]
  refine State.withTokens_wf _ _ _ hs ?_
  split
  · exact hs
  · rename_i w _
    split
    · simp [hs]
    · split
      · simp [hs]
      · extract_lets after qs s1 toks held u s2
        have h1 : memWf s1.mem = true := foldl_wf _ (fun u q hu => by simp [hu]) _ _ hs
        have hu : memWf u.mem = true := State.flushFor_wf _ _ _ h1
        have h2 : memWf s2.mem = true := by
          unfold s2
          split
          · split <;> simp [hu]
          · exact h1
        simp [h2]

@[simp] theorem execThmtake_keepsMem (t : Bool) (s : State) (hs : memWf s.mem = true) : Res.KeepsMem (execThmtake t s) := by
  unfold execThmtake
  repeat' split
  all_goals simp [hs]

@[simp] theorem execThmpass_keepsMem (t : Bool) (s : State) (hs : memWf s.mem = true) : Res.KeepsMem (execThmpass t s) := by
  unfold execThmpass
  repeat' split
  all_goals simp [hs]

@[simp] theorem execThmpassFree_keepsMem (t : Bool) (s : State) (hs : memWf s.mem = true) : Res.KeepsMem (execThmpassFree t s) := by
  unfold execThmpassFree
  repeat' split
  all_goals simp [hs]

@[simp] theorem execThimbleGrant_keepsMem (c : Nat) (zero : Bool) (s : State) (hs : memWf s.mem = true) :
    Res.KeepsMem (execThimbleGrant c zero s) := by
  unfold execThimbleGrant
  dsimp only
  repeat' split
  all_goals simp [hs]

@[simp] theorem execClaim_keepsMem (o : BitVec 4) (t : Bool) (s : State) (hs : memWf s.mem = true) : Res.KeepsMem (execClaim o t s) := by
  unfold execClaim
  repeat' split
  all_goals simp [hs]

@[simp] theorem execRelease_keepsMem (o : BitVec 4) (t : Bool) (s : State) (hs : memWf s.mem = true) : Res.KeepsMem (execRelease o t s) := by
  unfold execRelease
  repeat' split
  all_goals simp [hs]

@[simp] theorem execTslr_keepsMem (d : Reg) (i sb : BitVec 6) (r : Bool) (o : BitVec 4) (t : Bool) (s : State) (hs : memWf s.mem = true) :
    Res.KeepsMem (execTslr d i sb r o t s) := by
  unfold execTslr
  repeat' split
  all_goals simp [hs]

@[simp] theorem execTslw_keepsMem (d : Reg) (i sb : BitVec 6) (r : Bool) (o : BitVec 4) (t : Bool) (s : State) (hs : memWf s.mem = true) :
    Res.KeepsMem (execTslw d i sb r o t s) := by
  unfold execTslw
  rw [Res.keepsMem_done]
  refine State.withRegs_wf _ _ _ hs ?_
  split
  · exact hs
  · split
    · simp [hs]
    · refine State.withTokens_wf _ _ _ hs ((congrArg memWf (State.perLane_mem _ _ _)).trans (foldl_wf _ (fun u th hu => ?_) _ _ hs))
      simp [hu]

@[simp] theorem execAclaim_keepsMem (a : BitVec 4) (sb : BitVec 6) (t : Bool) (s : State) (hs : memWf s.mem = true) :
    Res.KeepsMem (execAclaim a sb t s) := by
  unfold execAclaim
  rw [Res.keepsMem_done]
  refine State.withTokens_wf _ _ _ hs ?_
  split
  · exact hs
  · split
    · simp [hs]
    · refine State.afterAccesses_wf _ _ hs (fun u hu => State.checked_wf _ _ _ hu (fun tile => ?_))
      split <;> simp [hu]

@[simp] theorem execAfree_keepsMem (a : BitVec 4) (t : Bool) (s : State) (hs : memWf s.mem = true) : Res.KeepsMem (execAfree a t s) := by
  unfold execAfree
  repeat' split
  all_goals simp [hs]

@[simp] theorem execEvictionComplete_keepsMem (range : Nat) (s : State) (hs : memWf s.mem = true) : Res.KeepsMem (execEvictionComplete range s) := by
  unfold execEvictionComplete
  dsimp only
  rw [Res.keepsMem_done]
  refine foldl_wf _ (fun t l ht => State.leaseLaunch_wf _ _ ht) _ _ (foldl_wf _ (fun t x ht => State.sendAway_wf _ _ _ ht) _ _ hs)

@[simp] theorem execGangStart_keepsMem (l gi : Nat) (place : List Nat) (s0 : State) (hs0 : memWf s0.mem = true) :
    Res.KeepsMem (execGangStart l gi place s0) := by
  unfold execGangStart
  dsimp only
  rw [Res.keepsMem_done]
  have hl := State.leaseLaunch_wf s0 l hs0
  split
  · exact hl
  · split
    · exact hl
    · split
      · refine memWf_getD (memWf_optionFold (fun o i ho u hu => ?_) _ (fun u hu => ?_)) hl
        · split at hu
          · exact absurd hu nofun
          · split at hu
            · exact State.startGang_wf _ _ _ _ _ _ _ (ho _ rfl) _ hu
            · exact absurd hu nofun
        · cases hu
          exact hl
      · exact memWf_getD (fun u hu => State.startGang_wf _ _ _ _ _ _ _ hl _ hu) hl

@[simp] theorem execSpawnEntryTake_keepsMem (l : Nat) (s : State) (hs : memWf s.mem = true) : Res.KeepsMem (execSpawnEntryTake l s) := by
  unfold execSpawnEntryTake
  rw [Res.keepsMem_done]
  split
  · exact hs
  · split
    · exact hs
    · dsimp only
      split
      · exact State.leaseTemplate_wf _ _ _ hs
      · rename_i hb
        obtain ⟨y, _, hy⟩ := Option.bind_eq_some_iff.mp hb
        have ht := State.startTask_wf _ _ _ _ _ _ (State.leaseTemplate_wf _ _ _ hs) _ hy
        simp [ht]

@[simp] theorem execEdgeConsumerStart_keepsMem (l e : Nat) (s : State) (hs : memWf s.mem = true) : Res.KeepsMem (execEdgeConsumerStart l e s) := by
  unfold execEdgeConsumerStart
  simp [hs]

@[simp] theorem execEdgeDrainStart_keepsMem (l e : Nat) (s : State) (hs : memWf s.mem = true) : Res.KeepsMem (execEdgeDrainStart l e s) := by
  unfold execEdgeDrainStart
  simp [hs]

@[simp] theorem execLaunchRecordTake_keepsMem (vf cls : Nat) (s : State) (hs : memWf s.mem = true) :
    Res.KeepsMem (execLaunchRecordTake vf cls s) := by
  unfold execLaunchRecordTake
  dsimp only
  rw [Res.keepsMem_done]
  split
  · exact hs
  · refine (congrArg memWf (State.gauge_mem _ _ _ _ _)).trans (State.closeIdle_wf _ (State.admitRecord_wf _ _ _ _ _ _ ?_))
    simp [hs]

@[simp] theorem execTendRetire_keepsMem (blk : Nat) (s : State) (hs : memWf s.mem = true) : Res.KeepsMem (execTendRetire blk s) := by
  unfold execTendRetire
  dsimp only
  repeat' split
  all_goals simp [hs]

@[simp] theorem execLaunchComplete_keepsMem (l : Nat) (s : State) (hs : memWf s.mem = true) : Res.KeepsMem (execLaunchComplete l s) := by
  unfold execLaunchComplete
  rw [Res.keepsMem_done]
  split
  · exact hs
  · rename_i x _
    have hp := State.closePublish_wf s x hs
    split
    · exact State.finishAbort_wf _ _ hs
    · split
      split
      · exact hs
      · split
        all_goals
          rename_i he
          rw [he] at hp
        · exact hp
        · split
          · exact State.closeIdle_wf _ (State.forgetLaunch_wf _ _ (by simp [hp]))
          · refine State.closeIdle_wf _ (State.forgetLaunch_wf _ _ ?_)
            split <;> simp [hp]

@[simp] theorem execAllowanceRefill_keepsMem (vf b : Nat) (s : State) (hs : memWf s.mem = true) : Res.KeepsMem (execAllowanceRefill vf b s) := by
  unfold execAllowanceRefill
  dsimp only
  split <;> simp [hs]

@[simp] theorem execArrayTakeOperation_keepsMem (c : Nat) (s : State) (hs : memWf s.mem = true) : Res.KeepsMem (execArrayTakeOperation c s) := by
  unfold execArrayTakeOperation
  dsimp only
  rw [Res.keepsMem_done]
  have h0 := State.settleFences_wf _ c false (State.settleFences_wf s c true hs)
  split
  · exact h0
  · split
    · exact h0
    · rename_i zero o _
      have hd := State.drainBefore_wf _ o.who o.lanes o.step h0
      split
      · exact hd
      · simp [hd]

@[simp] theorem execMatrixOperationComplete_keepsMem (c : Nat) (s : State) (hs : memWf s.mem = true) :
    Res.KeepsMem (execMatrixOperationComplete c s) := by
  unfold execMatrixOperationComplete
  repeat' split
  all_goals simp [hs]

@[simp] theorem execPreemptRequest_keepsMem (gs : List Nat) (s : State) (hs : memWf s.mem = true) : Res.KeepsMem (execPreemptRequest gs s) := by
  unfold execPreemptRequest
  simp [hs]

@[simp] theorem execPreemptHardStop_keepsMem (gang : Nat) (s : State) (hs : memWf s.mem = true) : Res.KeepsMem (execPreemptHardStop gang s) := by
  unfold execPreemptHardStop
  rw [Res.keepsMem_done]
  split
  · exact hs
  · split
    · exact hs
    · have h1 := State.dropFaults_wf _ (s.inGang gang) (State.drainWaves_wf _ (s.inGang gang) (State.dropMismatches_wf s (s.inGang gang) hs))
      simp [h1]

@[simp] theorem execContextSave_keepsMem (gang : Nat) (s : State) (hs : memWf s.mem = true) : Res.KeepsMem (execContextSave gang s) := by
  unfold execContextSave
  rw [Res.keepsMem_done]
  split
  · exact hs
  · rename_i g _
    split
    · exact hs
    · extract_lets s1 halt cs s2
      have h1 : memWf s1.mem = true := State.drainWaves_wf _ _ (State.dropMismatches_wf _ _ hs)
      have h2 : memWf s2.mem = true := foldl_wf _ (fun t c ht => State.saveCore_wf _ _ _ _ ht) _ _ h1
      split
      · exact h2
      · exact State.finishSave_wf _ _ _ h2

@[simp] theorem execGangResume_keepsMem (gang : Nat) (place : List Nat) (s : State) (hs : memWf s.mem = true) :
    Res.KeepsMem (execGangResume gang place s) := by
  unfold execGangResume
  rw [Res.keepsMem_done]
  split
  · exact hs
  · split
    · exact hs
    · extract_lets ms ready
      split
      · exact hs
      · split
        · simp [hs]
        · split
          · exact hs
          · rename_i hr
            simp [State.resumeAll_wf _ _ _ _ hs hr]

@[simp] theorem execHaltResume_keepsMem (l : Nat) (s : State) (hs : memWf s.mem = true) :
    Res.KeepsMem (execHaltResume l s) := Res.keepsMem_done.mpr hs

@[simp] theorem execHaltAbort_keepsMem (l : Nat) (s : State) (hs : memWf s.mem = true) : Res.KeepsMem (execHaltAbort l s) := by
  unfold execHaltAbort
  repeat' split
  all_goals simp [hs]

@[simp] theorem execCoreFaultStop_keepsMem (c : Nat) (s : State) (hs : memWf s.mem = true) : Res.KeepsMem (execCoreFaultStop c s) := by
  unfold execCoreFaultStop
  repeat' split
  all_goals simp [hs]

@[simp] theorem execFaultResume_keepsMem (c : Nat) (s : State) (hs : memWf s.mem = true) : Res.KeepsMem (execFaultResume c s) := by
  unfold execFaultResume
  rw [Res.keepsMem_done]
  refine State.answered_wf _ _ _ hs (fun t f ht => ?_)
  split <;> simp [ht]

@[simp] theorem execFaultRefuse_keepsMem (c : Nat) (s : State) (hs : memWf s.mem = true) : Res.KeepsMem (execFaultRefuse c s) := by
  unfold execFaultRefuse
  rw [Res.keepsMem_done]
  refine State.answered_wf _ _ _ hs (fun t f ht => ?_)
  split
  · dsimp only
    split <;> simp [ht]
  · split
    · split <;> simp [ht]
    · dsimp only
      split <;> simp [ht]

@[simp] theorem execBastingIntervalTimeout_keepsMem (gang : Nat) (s : State) (hs : memWf s.mem = true) :
    Res.KeepsMem (execBastingIntervalTimeout gang s) := by
  unfold execBastingIntervalTimeout
  repeat' split
  all_goals simp [hs]

@[simp] theorem execUncorrectableError_keepsMem (gang unit pa : Nat) (s : State) (hs : memWf s.mem = true) :
    Res.KeepsMem (execUncorrectableError gang unit pa s) := by
  unfold execUncorrectableError
  dsimp only
  repeat' split
  all_goals simp [hs]

@[simp] theorem execRollbackRequest_keepsMem (gang : Nat) (s : State) (hs : memWf s.mem = true) : Res.KeepsMem (execRollbackRequest gang s) := by
  unfold execRollbackRequest
  repeat' split
  all_goals simp [hs]

@[simp] theorem execCorrectableError_keepsMem (unit pa fn : Nat) (s : State) (hs : memWf s.mem = true) :
    Res.KeepsMem (execCorrectableError unit pa fn s) := by
  unfold execCorrectableError
  simp [hs]

@[simp] theorem execArrayRowTest_keepsMem (c : Nat) (bad : List Nat) (s : State) (hs : memWf s.mem = true) :
    Res.KeepsMem (execArrayRowTest c bad s) := by
  unfold execArrayRowTest
  rw [Res.keepsMem_done]
  split
  · exact hs
  · refine foldl_wf _ (fun t r ht => ?_) _ _ (by simp [hs])
    dsimp only
    split <;> simp [ht]

@[simp] theorem execKrowRetire_keepsMem (c row : Nat) (s : State) (hs : memWf s.mem = true) : Res.KeepsMem (execKrowRetire c row s) := by
  unfold execKrowRetire
  dsimp only
  repeat' split
  all_goals simp [hs]

@[simp] theorem execGangWatchdog_keepsMem (gang : Nat) (s : State) (hs : memWf s.mem = true) : Res.KeepsMem (execGangWatchdog gang s) := by
  unfold execGangWatchdog
  dsimp only
  repeat' split
  all_goals simp [hs]

@[simp] theorem execInvalidationRequest_keepsMem (vf va len : Nat) (s : State) (hs : memWf s.mem = true) :
    Res.KeepsMem (execInvalidationRequest vf va len s) := Res.keepsMem_done.mpr hs

@[simp] theorem execInvalidationComplete_keepsMem (id : Nat) (s : State) (hs : memWf s.mem = true) :
    Res.KeepsMem (execInvalidationComplete id s) := by
  unfold execInvalidationComplete
  repeat' split
  all_goals simp [hs]

@[simp] theorem execSliceSwitch_keepsMem (part : Nat) (s : State) (hs : memWf s.mem = true) : Res.KeepsMem (execSliceSwitch part s) := by
  unfold execSliceSwitch
  repeat' split
  all_goals simp [hs]

@[simp] theorem execPartitionReassign_keepsMem (part vf : Nat) (s : State) (hs : memWf s.mem = true) :
    Res.KeepsMem (execPartitionReassign part vf s) := by
  unfold execPartitionReassign
  repeat' split
  all_goals simp [hs]

@[simp] theorem execScrubComplete_keepsMem (part : Nat) (s : State) (hs : memWf s.mem = true) : Res.KeepsMem (execScrubComplete part s) := by
  unfold execScrubComplete
  rw [Res.keepsMem_done]
  split
  · exact hs
  · rename_i p _
    split
    · have h1 := foldl_wf (fun t c => t.scrubCore p.vf c) (fun t c ht => State.scrubCore_wf t p.vf c ht) p.cores s hs
      simp [h1]
    · exact hs

@[simp] theorem execBoot_keepsMem (part : Nat) (hdr payload key : List Byte) (s : State) (hs : memWf s.mem = true) :
    Res.KeepsMem (execBoot part hdr payload key s) := by
  unfold execBoot
  dsimp only
  repeat' split
  all_goals simp [hs]

@[simp] theorem execChunkArrive_keepsMem (cm inst rank chunk : Nat) (data : List Byte) (s : State) (hs : memWf s.mem = true) :
    Res.KeepsMem (execChunkArrive cm inst rank chunk data s) := by
  unfold execChunkArrive
  dsimp only
  repeat' split
  all_goals simp [hs, State.devWrite_wf]

@[simp] theorem execSpoolFetch_keepsMem (cm : Nat) (s : State) (hs : memWf s.mem = true) : Res.KeepsMem (execSpoolFetch cm s) := by
  unfold execSpoolFetch
  rw [Res.keepsMem_done]
  split
  · exact hs
  · split
    · split
      · simp [hs]
      · split
        · simp [hs]
        · refine foldl_wf _ (fun t l ht => ?_) _ _ hs
          split <;> simp [ht]
    · exact hs

@[simp] theorem execBobCredit_keepsMem (cm : Nat) (s : State) (hs : memWf s.mem = true) :
    Res.KeepsMem (execBobCredit cm s) := Res.keepsMem_done.mpr hs

@[simp] theorem execBobSend_keepsMem (cm : Nat) (isSlot : Bool) (ix rank : Nat) (s : State) (hs : memWf s.mem = true) :
    Res.KeepsMem (execBobSend cm isSlot ix rank s) := Res.keepsMem_done.mpr hs

@[simp] theorem execBobReduce_keepsMem (cm slot : Nat) (isSlot : Bool) (ix : Nat) (s : State) (hs : memWf s.mem = true) :
    Res.KeepsMem (execBobReduce cm slot isSlot ix s) := Res.keepsMem_done.mpr hs

@[simp] theorem execBobWrite_keepsMem (cm slot chunk : Nat) (s : State) (hs : memWf s.mem = true) :
    Res.KeepsMem (execBobWrite cm slot chunk s) := Res.keepsMem_done.mpr hs

@[simp] theorem execBobFree_keepsMem (cm slot : Nat) (s : State) (hs : memWf s.mem = true) :
    Res.KeepsMem (execBobFree cm slot s) := Res.keepsMem_done.mpr hs

@[simp] theorem execBobDone_keepsMem (cm chunk : Nat) (s : State) (hs : memWf s.mem = true) :
    Res.KeepsMem (execBobDone cm chunk s) := Res.keepsMem_done.mpr hs

@[simp] theorem execChunkStepSelect_keepsMem (bob : Nat) (s : State) (hs : memWf s.mem = true) : Res.KeepsMem (execChunkStepSelect bob s) := by
  unfold execChunkStepSelect
  dsimp only
  rw [Res.keepsMem_done]
  have h1 : ∀ l : List (Nat × Comm), memWf (l.foldl (fun t p => ((s.nextCmd p.2).map (fun c => t.askChunk p.1 p.2 c.2)).getD t) s).mem = true :=
    fun l => foldl_wf _ (fun t p ht => by cases s.nextCmd p.2 <;> simp [ht]) _ _ hs
  split
  · exact h1 _
  · split
    · exact h1 _
    · refine (congrArg memWf (State.gauge_mem _ _ _ _ _)).trans ?_
      split <;> simp [h1]

@[simp] theorem execInstanceAbort_keepsMem (cm cause rank : Nat) (s : State) (hs : memWf s.mem = true) :
    Res.KeepsMem (execInstanceAbort cm cause rank s) := by
  unfold execInstanceAbort
  repeat' split
  all_goals simp [hs]

@[simp] theorem execPartnerAbortNotice_keepsMem (commid inst rank : Nat) (s : State) (hs : memWf s.mem = true) :
    Res.KeepsMem (execPartnerAbortNotice commid inst rank s) := by
  unfold execPartnerAbortNotice
  repeat' split
  all_goals simp [hs]

@[simp] theorem execCommunicatorEnClear_keepsMem (cm : Nat) (s : State) (hs : memWf s.mem = true) : Res.KeepsMem (execCommunicatorEnClear cm s) := by
  unfold execCommunicatorEnClear
  simp [hs]

@[simp] theorem execHostWindowRead_keepsMem (vf off len : Nat) (s : State) (hs : memWf s.mem = true) :
    Res.KeepsMem (execHostWindowRead vf off len s) := by
  unfold execHostWindowRead
  rw [Res.keepsMem_done]
  split
  · dsimp only
    split
    · exact hs
    · split
      · exact State.breach_wf _ _ hs
      · refine foldl_wf _ (fun t l ht => ?_) _ _ hs
        split <;> simp [ht]
  · simp [hs]

@[simp] theorem execHostWindowWrite_keepsMem (vf off : Nat) (data : List Byte) (s : State) (hs : memWf s.mem = true) :
    Res.KeepsMem (execHostWindowWrite vf off data s) := by
  unfold execHostWindowWrite
  split <;> simp [hs, State.setOwner_mem, State.sendDirty_mem, State.overwrite_wf, State.homeScatter_wf]

@[simp] theorem execRemoteResponse_keepsMem (req : Nat) (data : List Byte) (s : State) (hs : memWf s.mem = true) :
    Res.KeepsMem (execRemoteResponse req data s) := by
  unfold execRemoteResponse
  dsimp only
  repeat' split
  all_goals simp +contextual [hs, State.fill_wf, foldl_wf]

@[simp] theorem execHostCompletionTimeout_keepsMem (req : Nat) (s : State) (hs : memWf s.mem = true) :
    Res.KeepsMem (execHostCompletionTimeout req s) := by
  unfold execHostCompletionTimeout
  repeat' split
  all_goals simp [hs]

@[simp] theorem execPeerRequestTimeout_keepsMem (req : Nat) (s : State) (hs : memWf s.mem = true) : Res.KeepsMem (execPeerRequestTimeout req s) := by
  unfold execPeerRequestTimeout
  repeat' split
  all_goals simp [hs]

@[simp] theorem execUnfence_keepsMem (peer : Nat) (s : State) (hs : memWf s.mem = true) : Res.KeepsMem (execUnfence peer s) := by
  unfold execUnfence
  split <;> simp [hs]

@[simp] theorem execPeerRequest_keepsMem (peer pa op : Nat) (data : List Byte) (s : State) (hs : memWf s.mem = true) :
    Res.KeepsMem (execPeerRequest peer pa op data s) := by
  unfold execPeerRequest
  extract_lets size legal pas put s0 old
  rw [Res.keepsMem_done]
  have hput (t : State) (bs : List Byte) (ht : memWf t.mem = true) : memWf (put t bs).mem = true :=
    State.overwrite_wf _ _ _ (State.homeWriteBytes_wf _ _ _ _ ht)
  have h0 : memWf s0.mem = true := State.breach_wf _ _ hs
  split
  · exact hs
  · split
    · exact h0
    · split
      · exact hput _ _ hs
      · split
        · exact hs
        · dsimp only
          split
          · exact hput _ _ h0
          · exact h0

@[simp] theorem execHoldNotice_keepsMem (peer : Nat) (s0 : State) (hs0 : memWf s0.mem = true) : Res.KeepsMem (execHoldNotice peer s0) := by
  unfold execHoldNotice
  dsimp only
  rw [Res.keepsMem_done]
  have h := State.settleHolds_wf s0 hs0
  split
  · exact h
  · split <;> simp [h]

@[simp] theorem execHoldQuietExpire_keepsMem (peer : Nat) (s : State) (hs : memWf s.mem = true) : Res.KeepsMem (execHoldQuietExpire peer s) := by
  unfold execHoldQuietExpire
  simp [hs]

@[simp] theorem execHoldLimitExpire_keepsMem (peer : Nat) (s : State) (hs : memWf s.mem = true) : Res.KeepsMem (execHoldLimitExpire peer s) := by
  unfold execHoldLimitExpire
  simp [hs]

@[simp] theorem execHoldNoticeSend_keepsMem (s : State) (hs : memWf s.mem = true) : Res.KeepsMem (execHoldNoticeSend s) := by
  unfold execHoldNoticeSend
  rw [Res.keepsMem_done]
  refine foldl_wf _ (fun t p ht => ?_) _ _ hs
  split
  · split <;> exact ht
  · exact ht

@[simp] theorem execPortRetrain_keepsMem (port : Nat) (s : State) (hs : memWf s.mem = true) : Res.KeepsMem (execPortRetrain port s) := by
  unfold execPortRetrain
  split <;> simp [hs]

@[simp] theorem execPortRetrainComplete_keepsMem (port : Nat) (s : State) (hs : memWf s.mem = true) :
    Res.KeepsMem (execPortRetrainComplete port s) := Res.keepsMem_done.mpr hs

@[simp] theorem execLinkRetryIntervalEnd_keepsMem (port retries : Nat) (s : State) (hs : memWf s.mem = true) :
    Res.KeepsMem (execLinkRetryIntervalEnd port retries s) := by
  unfold execLinkRetryIntervalEnd
  split <;> simp [hs, State.gauge_mem]

@[simp] theorem execPortTransferComplete_keepsMem (vf port : Nat) (va : Nat) (data : List Byte) (cva : Nat) (entry : List Byte) (s : State)
    (hs : memWf s.mem = true) :
    Res.KeepsMem (execPortTransferComplete vf port va data cva entry s) := by
  unfold execPortTransferComplete
  extract_lets write put unit fault pas far src move
  rw [Res.keepsMem_done]
  have hput (t : State) (a : Nat) (bs : List Byte) (ht : memWf t.mem = true) : memWf (put t a bs).mem = true := by
    unfold put
    split
    · exact State.overwrite_wf _ _ _ (State.homeScatter_wf _ _ _ ht)
    · exact ht
  have hfault (t : State) (f : Nat × Nat × Nat) (b : Bool) (ht : memWf t.mem = true) : memWf (fault t f b).mem = true :=
    State.faultRecord_wf _ _ _ _ _ _ ht
  have hmove : memWf move.mem = true := by
    unfold move
    split
    · exact hput _ _ _ hs
    · exact State.breach_wf _ _ hs
  split
  · exact hs
  · split
    · split
      · exact hput _ _ _ hs
      · split
        · exact hput _ _ _ hmove
        · refine foldl_wf _ (fun t l ht => ?_) _ _ hs
          split <;> simp [ht]
    · split
      · exact hs
      · exact hput _ _ _ (hfault _ _ _ hs)
    · split
      · exact hs
      · refine hfault _ _ _ ?_
        split
        · exact hmove
        · exact hs
    · split
      · exact hs
      · exact hfault _ _ _ hs

@[simp] theorem execTimeInputLock_keepsMem (time : Nat) (s : State) (hs : memWf s.mem = true) : Res.KeepsMem (execTimeInputLock time s) := by
  unfold execTimeInputLock
  simp [hs]

@[simp] theorem execTimeInputLoss_keepsMem (s : State) (hs : memWf s.mem = true) : Res.KeepsMem (execTimeInputLoss s) := by
  unfold execTimeInputLoss
  split <;> simp [hs]

@[simp] theorem execGaugeClear_keepsMem (gauge : Nat) (s : State) (hs : memWf s.mem = true) : Res.KeepsMem (execGaugeClear gauge s) := by
  unfold execGaugeClear
  split <;> simp [hs]

@[simp] theorem execRegisterWrite_keepsMem (space ix off : Nat) (v0 : Word) (s : State) (hs : memWf s.mem = true) :
    Res.KeepsMem (execRegisterWrite space ix off v0 s) := by
  unfold execRegisterWrite
  repeat' split
  all_goals simp [hs, State.homeWriteBytes_wf]

@[simp] theorem execSamplerSample_keepsMem (c pn : Nat) (s : State) (hs : memWf s.mem = true) : Res.KeepsMem (execSamplerSample c pn s) := by
  unfold execSamplerSample
  dsimp only
  repeat' split
  all_goals simp +contextual [hs, foldl_wf]

@[simp] theorem execCorePowerGate_keepsMem (c : Nat) (s : State) (hs : memWf s.mem = true) : Res.KeepsMem (execCorePowerGate c s) := by
  unfold execCorePowerGate
  split <;> simp [hs]

@[simp] theorem execCorePowerUngate_keepsMem (c : Nat) (s : State) (hs : memWf s.mem = true) : Res.KeepsMem (execCorePowerUngate c s) := by
  unfold execCorePowerUngate
  split <;> simp [hs]

end Sys2Proof.Machine
end

section
/-! PROOFS. Memory stays in its canonical form, VI: every instruction, every choice of the device, and the step. -/

namespace Sys2Proof.Machine
open Sys2Proof.Claims

theorem exec_keepsMem (i : Instr) (s : State) (hs : memWf s.mem = true) : Res.KeepsMem (exec i s) := by
  cases i with
  | add | sub | and | or | xor | andn | mul | mulhs | mulhu | mulhsu | mins | maxs | minu | maxu | shl | shr | sar | rol | ror | bfxn | bfxs | cAdd
  | cSub | cAnd | cOr | cXor | cShl | cShr | cSar | cMul | cMins | cMaxs | fcps =>
    dsimp only [exec]
    exact alu2_keepsMem _ _ _ _ _ s hs
  | addc | subb =>
    dsimp only [exec]
    exact carryOp_keepsMem _ _ _ _ _ s hs
  | fshl | fshr | bfi | mad | madhs | madhn | sad | dot4s | dot4n =>
    dsimp only [exec]
    exact alu3_keepsMem _ _ _ _ _ s hs
  | bmsk | clz | ctz | popc | brev | addi | andi | ori | xori | shfiShl | shfiShr | shfiSar | shfiRol | shfiRor | lih | cMov | addi5 | cvt8FromByte =>
    dsimp only [exec]
    exact alu1_keepsMem _ _ _ _ s hs
  | divs | divn | rems | remn =>
    dsimp only [exec]
    exact divOp_keepsMem _ _ _ _ _ _ s hs
  | mad64s | mad64n =>
    dsimp only [exec]
    exact aluPair_keepsMem _ _ _ _ _ s hs
  | icmpEq | icmpNe | icmpLt | icmpLe | icmpLtn | icmpLen | icmpTst | g2p =>
    dsimp only [exec]
    exact cmp2_keepsMem _ _ _ _ _ s hs
  | icmpiEq | icmpiNe | icmpiLt | icmpiLe | icmpiGt | icmpiGe | icmpiLtn | icmpiLen | icmpiGtn | icmpiGen =>
    dsimp only [exec]
    exact cmpImm_keepsMem _ _ _ _ _ s hs
  | li | p2g | sel | li5 | dot4f | bra | call | brx | callx | ret | loop | seamSmask | throwG | sleep =>
    dsimp only [exec]
    exact Res.keepsMem_done.mpr (State.lanes_wf _ _ _ _ hs)
  | pand | por | pxor | pnot =>
    dsimp only [exec]
    exact pred2_keepsMem _ _ _ _ _ s hs
  | fadd | fsub | fmul | fmin | fmax | hadd2 | hmul2 | badd2 | bmul2 | fdiv | cFadd | cFmul =>
    dsimp only [exec]
    exact fp2_keepsMem _ _ _ _ _ s hs
  | ffma | ffms | hfma2 | bfma2 | dot2h | dot2b =>
    dsimp only [exec]
    exact fp3_keepsMem _ _ _ _ _ s hs
  | fcmpEq | fcmpNe | fcmpLt | fcmpLe | fcmpUn | fcmpOr =>
    dsimp only [exec]
    exact fpCmp_keepsMem _ _ _ _ _ s hs
  | rcp | rsq | sqrt | exp2 | log2 | sin | cos | tanh | cvt | cvt8ToByte =>
    dsimp only [exec]
    exact fp1_keepsMem _ _ _ _ s hs
  | shflIdx | shflUp | shflDn | shflXor | shflr | voteAll | voteAny | voteSame | voteBallot | foldAdd | foldMin | foldMax | foldMinn | foldMaxn
  | foldAnd | foldOr | foldXor | topk | lsetEq | lsetAlleq | lsetFirst | lsetLive =>
    dsimp only [exec]
    exact crossLane_keepsMem _ _ _ _ _ _ s hs
  | ldo | sto | swap | cas | amoAdd | amoAnd | amoOr | amoXor | amoMins | amoMaxs | amoMinn | amoMaxn | amoInc | amoDec | amoAddf =>
    dsimp only [exec]
    exact memo_keepsMem _ _ _ _ _ _ _ s hs
  | pub | rfsh | phase =>
    dsimp only [exec]
    exact phase_keepsMem _ _ _ s hs
  | resultReturn | storePerformed | memoPerformed | publishComplete | refreshComplete =>
    dsimp only [exec]
    exact Res.keepsMem_done.mpr (State.performAnd_wf _ _ _ _ _ _ hs)
  | bar | bararr =>
    dsimp only [exec]
    exact arriveAt_keepsMem _ _ _ s hs
  | throwi | rethrow | trap | uret | nop =>
    dsimp only [exec]
    exact Res.keepsMem_done.mpr ((congrArg memWf (State.perLane_mem _ _ _)).trans hs)
  | clock | ptime =>
    dsimp only [exec]
    exact readCount_keepsMem _ _ _ s hs
  | acopyG2s | acopyS2g | acopyG2o | acopyS2o | acopyA2s | acopyS2a | acopyA2g | gather | scatter =>
    dsimp only [exec]
    exact copyForm_keepsMem _ _ _ _ _ s hs
  | wload | mma | bind | acczero | trans | tscaleSet | tscaleMul | tscaleMuls =>
    dsimp only [exec]
    exact matrix_keepsMem _ _ _ _ _ s hs
  | reservedOrIllegalWord | ill16 | ill32 =>
    dsimp only [exec]
    exact Res.keepsMem_done.mpr (State.illop_wf _ hs)
  | _ =>
    dsimp only [exec]
    simp [hs]

theorem State.runBytes_keepsMem (s : State) (bs : List Byte) (hs : memWf s.mem = true) : Res.KeepsMem (s.runBytes bs) := by
  unfold State.runBytes
  split
  · split
    · simp [hs]
    · exact exec_keepsMem _ s hs
  · exact Res.keepsMem_done.mpr (State.illop_wf s hs)

theorem State.runLined_keepsMem (s : State) (bs : List Byte) (hs : memWf s.mem = true) : Res.KeepsMem (s.runLined bs) := by
  unfold State.runLined
  rw [Res.keepsMem_done]
  refine (congrArg memWf (State.onCur_mem _ _)).trans (State.oncePath_wf _ _ _ hs (fun u l _ hu => State.passOp_wf _ _ _ _ hu) (fun u hu => ?_))
  exact (State.runBytes_keepsMem u bs hu).get_wf hu

theorem State.counted_keepsMem (s : State) (w : Wave) {r : Res} (hs : memWf s.mem = true) (hr : Res.KeepsMem r) : Res.KeepsMem (s.counted w r) := by
  cases r with
  | next t => exact Res.keepsMem_next.mpr (State.countIssue_wf _ _ _ hs (hr t rfl))
  | fault _ => exact Res.keepsMem_fault _
  | refused _ => exact Res.keepsMem_refused _

theorem State.issueCur_keepsMem (s : State) (hs : memWf s.mem = true) : Res.KeepsMem s.issueCur := by
  unfold State.issueCur
  split
  · simp [hs]
  · rename_i w _
    split
    · simp [hs]
    · simp [hs]
    · simp [hs]
    · split
      · simp [hs]
      · split
        · simp [hs]
        · split
          · simp [hs]
          · rename_i s1 hl
            have h1 := State.lineUp_wf _ _ _ _ hs _ hl
            extract_lets src s2
            have h2 : memWf s2.mem = true := h1
            split
            · exact Res.keepsMem_done.mpr (State.countIssue_wf _ _ _ h2 (State.silentEngine_wf _ _ h2))
            · refine State.counted_keepsMem s2 w h2 ?_
              split
              · exact State.runLined_keepsMem s2 _ h2
              · exact State.runBytes_keepsMem s2 _ h2

theorem State.issue_keepsMem (s : State) (x : Issue) (hs : memWf s.mem = true) : Res.KeepsMem (s.issue x) := by
  have ht := State.take_wf s x hs
  unfold State.issue
  dsimp only
  split
  · exact Res.keepsMem_done.mpr ht
  · exact State.issueCur_keepsMem _ ht

theorem State.opportunity_keepsMem (s0 : State) (c pn slot : Nat) (hs : memWf s0.mem = true) : Res.KeepsMem (s0.opportunity c pn slot) := by
  unfold State.opportunity
  extract_lets s
  have h : memWf s.mem = true :=
    State.promoteAll_wf _ _ _ _ (State.forceIn_wf _ _ _ (State.endChecks_wf _ _ _ (State.overdue_wf _ _ hs)))
  split
  · exact Res.keepsMem_done.mpr h
  · split
    · exact Res.keepsMem_done.mpr h
    · split
      · exact Res.keepsMem_done.mpr h
      · rename_i p _ _ _
        extract_lets path
        have hi := State.issue_keepsMem s (path p false) h
        split
        · rename_i t _ _ he _ _
          exact Res.keepsMem_next.mpr (hi t he)
        · exact hi

/-- Every step that the device may take of itself in `s` keeps memory in its canonical form. -/
def ChoicesKeep (fs : List (State → Res)) : Prop := ∀ f ∈ fs, ∀ s : State, memWf s.mem = true → Res.KeepsMem (f s)

theorem firstChange_wf (s : State) (fs : List (State → Res)) (hs : memWf s.mem = true) (hf : ChoicesKeep fs) (u : State)
    (hu : firstChange s fs = some u) : memWf u.mem = true := by
  induction fs with
  | nil => exact absurd hu nofun
  | cons f rest ih =>
    unfold firstChange at hu
    dsimp only at hu
    split at hu
    · exact ih (fun g hg => hf g (List.mem_cons_of_mem _ hg)) hu
    · rw [← Option.some.inj hu]
      exact (hf f (List.mem_cons_self ..) s hs).get_wf hs

@[simp] theorem choicesKeep_nil : ChoicesKeep [] := fun _ h => absurd h List.not_mem_nil

@[simp] theorem choicesKeep_cons {f : State → Res} {fs : List (State → Res)} :
    ChoicesKeep (f :: fs) ↔ (∀ s : State, memWf s.mem = true → Res.KeepsMem (f s)) ∧ ChoicesKeep fs := List.forall_mem_cons

@[simp] theorem choicesKeep_append {fs gs : List (State → Res)} : ChoicesKeep (fs ++ gs) ↔ ChoicesKeep fs ∧ ChoicesKeep gs :=
  List.forall_mem_append

@[simp] theorem choicesKeep_flatMap {α : Type} {l : List α} {g : α → List (State → Res)} :
    ChoicesKeep (l.flatMap g) ↔ ∀ a ∈ l, ChoicesKeep (g a) := List.forall_mem_flatMap

@[simp] theorem choicesKeep_map {α : Type} {l : List α} {g : α → State → Res} :
    ChoicesKeep (l.map g) ↔ ∀ a ∈ l, ∀ s : State, memWf s.mem = true → Res.KeepsMem (g a s) := List.forall_mem_map

theorem threadChoices_keep (w : Wave) (t : Thread) : ChoicesKeep (threadChoices w t) := by
  unfold threadChoices
  split
  · exact choicesKeep_nil
  · dsimp only
    refine choicesKeep_append.mpr ⟨choicesKeep_append.mpr ⟨?_, ?_⟩, ?_⟩
    · split <;> simp +contextual
    · split <;> simp +contextual
    · split
      · exact choicesKeep_nil
      · split
        · simp +contextual [execPublishComplete]
        · split <;> simp +contextual [execRefreshComplete, execResultReturn, execStorePerformed, execMemoPerformed]

theorem engineChoices_keep (s : State) : ChoicesKeep (engineChoices s) := by
  unfold engineChoices
  refine choicesKeep_append.mpr ⟨choicesKeep_flatMap.mpr (fun b _ => choicesKeep_flatMap.mpr (fun q _ => ?_)), ?_⟩
  · split <;> simp +contextual
  · simp +contextual

theorem panelChoices_keep (s : State) : ChoicesKeep (panelChoices s) := by
  unfold panelChoices
  refine choicesKeep_flatMap.mpr (fun w _ => choicesKeep_append.mpr ⟨choicesKeep_append.mpr ⟨?_, ?_⟩, ?_⟩)
  · split
    · simp +contextual [State.opportunity_keepsMem]
    · exact choicesKeep_nil
  · simp +contextual
  · split <;> simp +contextual

theorem dispatchChoices_keep (s : State) : ChoicesKeep (dispatchChoices s) := by
  unfold dispatchChoices
  simp only [choicesKeep_append, choicesKeep_flatMap, choicesKeep_map]
  refine ⟨⟨⟨⟨⟨⟨⟨?_, fun l _ => ⟨⟨⟨?_, ?_⟩, ?_⟩, fun e _ => ?_⟩⟩, fun g _ => ?_⟩, fun m _ => ?_⟩, ?_⟩, fun p _ => ?_⟩, fun c _ => ?_⟩, fun vf _ => ?_⟩
  · exact fun b _ t ht => execTendRetire_keepsMem _ _ ht
  · simp +contextual
  · split <;> simp +contextual
  · simp +contextual
  · simp +contextual
  · split <;> simp +contextual
  · split <;> simp +contextual
  · exact fun r _ t ht => execEvictionComplete_keepsMem _ _ ht
  · simp +contextual
  · simp +contextual
  · exact fun cls _ t ht => execLaunchRecordTake_keepsMem _ _ _ ht

theorem samplerChoices_keep (s : State) : ChoicesKeep (samplerChoices s) := by
  unfold samplerChoices
  refine choicesKeep_flatMap.mpr (fun k _ => ?_)
  split
  · exact choicesKeep_nil
  · simp +contextual

theorem State.onItsOwn_wf (s : State) (hs : memWf s.mem = true) : memWf s.onItsOwn.mem = true := by
  have hthreads : ChoicesKeep (s.waves.flatMap (fun w => w.lanes.flatMap (threadChoices w))) :=
    choicesKeep_flatMap.mpr (fun w _ => choicesKeep_flatMap.mpr (fun t _ => threadChoices_keep w t))
  unfold State.onItsOwn
  split
  · rename_i hu
    refine firstChange_wf s _ hs ?_ _ hu
    simp [hthreads, engineChoices_keep, samplerChoices_keep, panelChoices_keep, dispatchChoices_keep]
  · exact State.advanceTime_wf _ _ _ hs

theorem State.choose_keepsMem (s : State) (hs : memWf s.mem = true) : Res.KeepsMem s.choose := by
  unfold State.choose
  split
  · exact Res.keepsMem_done.mpr (State.onItsOwn_wf s hs)
  · refine State.opportunity_keepsMem _ _ _ _ ?_
    split
    · exact State.advanceTime_wf _ _ _ hs
    · exact hs
  · split
    · exact exec_keepsMem _ _ hs
    · exact Res.keepsMem_done.mpr hs
  · exact Res.keepsMem_done.mpr (State.advanceTime_wf _ _ _ hs)

theorem State.step1_keepsMem (s : State) (hs : memWf s.mem = true) : Res.KeepsMem s.step1 := by
  unfold State.step1
  extract_lets t
  cases t.second with
  | none =>
    have hr := State.choose_keepsMem t hs
    dsimp only
    split
    · rename_i u hu
      exact Res.keepsMem_next.mpr (State.settleAll_wf _ (hr u hu))
    · exact hr
  | some x =>
    have hr := State.issue_keepsMem t x hs
    dsimp only
    split
    · rename_i u hu
      exact Res.keepsMem_next.mpr (State.settleAll_wf _ (hr u hu))
    · exact hr

/-- Settles O58: memory is written in no step but through `homeWrite` and `fill`, which keep its canonical form; so every state operation,
every instruction and every choice of the device keeps it. -/
theorem stepKeepsMemory : Obligations.StepKeepsMemory := by
  unfold Obligations.StepKeepsMemory
  intro s s' hinv hstep
  exact State.step1_keepsMem s hinv s' hstep

end Sys2Proof.Machine
end
